-- ==== Sys2Proof/Word.lean ====
section
/-!
DEFINITION. The word types of the KF-9400 (R1, R9) and their plainest arithmetic.
-/
namespace Sys2Proof

/-- One byte of memory (R1). -/
abbrev Byte := BitVec 8
/-- A packed half of a 32-bit word (R105). -/
abbrev Half := BitVec 16
/-- A register, an operand, an instruction word (R44, R58). -/
abbrev Word := BitVec 32
/-- A register pair, a tag word, a control register (R52, R242, R429). -/
abbrev DWord := BitVec 64
/-- One bit per thread of a group (R37, R47). -/
abbrev Lanes := BitVec 64

/-- 2^n as a shift (R9), which stays a machine number under kernel evaluation. -/
def pow2 (n : Nat) : Nat := 1 <<< n

/-- Bits [hi:lo] of a natural number (R1, R9). -/
def nbits (x hi lo : Nat) : Nat := (x >>> lo) % pow2 (hi + 1 - lo)

end Sys2Proof
end

