-- ==== Sys2Proof/Config.lean ====
section
/-!
DEFINITION. What the spec leaves open, as constants without a body: nothing can evaluate them, so a statement about the
model holds whatever they are. Each is named in the assumption log.
-/
namespace Sys2Proof.Config

/-- The choice among the steps that are possible at one moment (R21, R234, R252, R370): the n-th choice of the run. -/
opaque pick : Nat → Nat

/-- Cycles beyond one that the n-th step takes (R29, R186): timing that the spec does not fix. -/
opaque stall : Nat → Nat

/-- Whether the n-th access that finds a held translation differing from a fresh walk uses the held one (R284). -/
opaque useHeld : Nat → Bool

/-- The core the device chooses for a unit of a launch with NCORES = 0 (R370): launch number and unit to an index into
the cores of the device. -/
opaque anyCore : Nat → Nat → Nat

/-- Where the spec states no value, a fresh 32-bit pattern for the n-th step and the i-th such value in it. -/
opaque word : Nat → Nat → BitVec 32

/-- A bound of one axis of the box test where the spec states none (R212): the FP32 patterns of origin, direction, lower and
upper bound, and 0 for the near bound or 1 for the far one. -/
opaque boxBound : Nat → Nat → Nat → Nat → Nat → BitVec 32

/-- A 16-byte block that was written under one key, as AES-256-XTS under another reads it (R432, R434): key read under, key
written under, the block's number (device physical address divided by 16, which gives the tweak and the place in its
256-byte data unit), the block as written. -/
opaque xts : Nat → Nat → Nat → Nat → Nat

/-- The shape of the tree in which an f32 collective combines its contributions (R324): for the n-th collective, which
adjacent pair of the remaining partial sums is added next. -/
opaque treePick : Nat → Nat → Nat

/-- Feature word 0 as a device offers it, but for bit 0 and for the bits that R439 fixes at 0. -/
opaque offered0 : Nat → BitVec 128
/-- Feature word 1 as a device offers it, likewise (R439). -/
opaque offered1 : Nat → BitVec 128

/-- The SHA-384 digest of the configuration that slot 8 measures (R436). -/
opaque digest : List Nat → Nat

/-- A byte of a checkpoint image that the spec does not lay out, in its header or behind its last frame (R468): from what the
header carries, and the byte's place in the image. -/
opaque imageByte : List Nat → Nat → BitVec 8

/-- A key wrapped under a checkpoint key (R468): K, key. -/
opaque wrap : Nat → Nat → Nat
/-- What another checkpoint key makes of a wrapped key (R471): that key, the wrapped key. -/
opaque unwrap : Nat → Nat → Nat

/-- The peer ports of the package behind which a device of another package lies (R27, R444): wiring. -/
opaque devicePorts : Nat → List Nat
/-- The peer ports behind which a member of the lock group lies (R472): wiring. -/
opaque memberPorts : Nat → List Nat
/-- The lock member whose package holds a device of another package (R478). -/
opaque memberOf : Nat → Nat

/-- How an output of another member is configured, where no mirror of it says so (R478): the number of its format, whether it
sends as type W, its stream addresses, its extension identifier, its width and its height; none for one not configured. -/
opaque memberOutput : Nat → Nat → Option (Nat × Bool × List Nat × Nat × Nat × Nat)

/-- A signature or key confirmation the trust die computes over the numbers given (R437). -/
opaque sign : List Nat → Nat

/-- The AES-256-GCM tag of a flit (R444): key, flit number, header bits, payload. -/
opaque gcmTag : Nat → Nat → Nat → Nat → Nat

/-- Encryption and decryption of a flit's payload under a key and a flit number (R444). -/
opaque gcmCrypt : Nat → Nat → Nat → Nat

end Sys2Proof.Config
end

