-- ==== Sys2Proof/Syntax.lean ====
section
/-!
DEFINITION. The instruction set as syntax: one constructor for every row of spec/opcode_table.json. A row with a word
has the fields the table gives it; a format-M row (R62) has the fields of its two words; a row without a word is a step
of an engine, of the scheduler or of the outside world (95_what_each_step_holds.md): the agent it concerns, or what
arrives with it, stands in the machine's state (State.msg). The literal word (R46) and the mod word in front of an
instruction (R60) are words of the clause, not fields of the instruction they serve. Rows with fields stand first, in
the table's order, then the rows without a field.
-/
namespace Sys2Proof

/-- One constructor per row of the opcode table. -/
inductive Instr where
  /-- MOD (R60). The mod prefix supplies a third source, rounding mode, saturation, negations, magnitudes and scale to the following instruction. -/
  | modPrefix (c : BitVec 8) (r : BitVec 3) (s : BitVec 1) (a : BitVec 1) (b : BitVec 1) (g : BitVec 1) (h : BitVec 1) (j : BitVec 1) (l : BitVec 4)
  /-- BR (R413). br sends each executing thread whose predicate condition holds to the target in the current segment, splitting paths as needed. -/
  | br (k : BitVec 4) (n : BitVec 1) (o : BitVec 20)
  /-- CALL (R413). call branches like br and writes the next clause's address to s62 when any thread takes it. -/
  | call (k : BitVec 4) (n : BitVec 1) (o : BitVec 20)
  /-- JR (R414). jr sends every executing thread to the code address in sX within the current segment. -/
  | jr (x : BitVec 6)
  /-- JF (R415). jf sends every executing thread to a code address in any segment, fenced against completed cfetches, optionally linking s62. -/
  | jf (x : BitVec 6) (l : BitVec 1)
  /-- IADD (R136). Integer add modulo 2^32, or saturating under SAT. -/
  | iadd (w : BitVec 1) (d : BitVec 8) (a : BitVec 8) (b : BitVec 8)
  /-- ISUB (R136). Integer subtract modulo 2^32, or saturating under SAT. -/
  | isub (w : BitVec 1) (d : BitVec 8) (a : BitVec 8) (b : BitVec 8)
  /-- IMUL (R136). Low 32 bits of the signed product, or saturating under SAT. -/
  | imul (w : BitVec 1) (d : BitVec 8) (a : BitVec 8) (b : BitVec 8)
  /-- IMULHS (R136). High 32 bits of the signed 64-bit product. -/
  | imulhs (w : BitVec 1) (d : BitVec 8) (a : BitVec 8) (b : BitVec 8)
  /-- IMULHU (R136). High 32 bits of the unsigned 64-bit product. -/
  | imulhu (w : BitVec 1) (d : BitVec 8) (a : BitVec 8) (b : BitVec 8)
  /-- IMAD (R138). Low 32 bits of a times b plus c, or the clamped exact sum under SAT. -/
  | imad (w : BitVec 1) (d : BitVec 8) (a : BitVec 8) (b : BitVec 8)
  /-- IMIN (R136). Lesser source by signed value. -/
  | imin (w : BitVec 1) (d : BitVec 8) (a : BitVec 8) (b : BitVec 8)
  /-- IMAX (R136). Greater source by signed value. -/
  | imax (w : BitVec 1) (d : BitVec 8) (a : BitVec 8) (b : BitVec 8)
  /-- UMIN (R136). Lesser source by unsigned value. -/
  | umin (w : BitVec 1) (d : BitVec 8) (a : BitVec 8) (b : BitVec 8)
  /-- UMAX (R136). Greater source by unsigned value. -/
  | umax (w : BitVec 1) (d : BitVec 8) (a : BitVec 8) (b : BitVec 8)
  /-- AND (R136). Bitwise AND. -/
  | and (w : BitVec 1) (d : BitVec 8) (a : BitVec 8) (b : BitVec 8)
  /-- OR (R136). Bitwise OR. -/
  | or (w : BitVec 1) (d : BitVec 8) (a : BitVec 8) (b : BitVec 8)
  /-- XOR (R136). Bitwise exclusive OR. -/
  | xor (w : BitVec 1) (d : BitVec 8) (a : BitVec 8) (b : BitVec 8)
  /-- ANDN (R136). a AND NOT b. -/
  | andn (w : BitVec 1) (d : BitVec 8) (a : BitVec 8) (b : BitVec 8)
  /-- SHL (R137). Logical left shift by b[5:0], zero at 32 or more. -/
  | shl (w : BitVec 1) (d : BitVec 8) (a : BitVec 8) (b : BitVec 8)
  /-- SHR (R137). Logical right shift by b[5:0], zero at 32 or more. -/
  | shr (w : BitVec 1) (d : BitVec 8) (a : BitVec 8) (b : BitVec 8)
  /-- SAR (R137). Arithmetic right shift by b[5:0]. -/
  | sar (w : BitVec 1) (d : BitVec 8) (a : BitVec 8) (b : BitVec 8)
  /-- BFE (R137). Extract a zero-extended bit field with offset and width from b. -/
  | bfe (w : BitVec 1) (d : BitVec 8) (a : BitVec 8) (b : BitVec 8)
  /-- BFI (R137). Insert a bit field of a into c under the mask from b. -/
  | bfi (w : BitVec 1) (d : BitVec 8) (a : BitVec 8) (b : BitVec 8)
  /-- SEL (R138). Delivers a where c is nonzero and b otherwise. -/
  | sel (w : BitVec 1) (d : BitVec 8) (a : BitVec 8) (b : BitVec 8)
  /-- IADD64 (R139). Adds two 64-bit register-pair values modulo 2^64. -/
  | iadd64 (w : BitVec 1) (d : BitVec 8) (a : BitVec 8) (b : BitVec 8)
  /-- IEQ (R140). Integer equality compare delivering 1 or 0. -/
  | ieq (w : BitVec 1) (d : BitVec 8) (a : BitVec 8) (b : BitVec 8)
  /-- INE (R140). Integer inequality compare delivering 1 or 0. -/
  | ine (w : BitVec 1) (d : BitVec 8) (a : BitVec 8) (b : BitVec 8)
  /-- ILT (R140). Signed less-than compare. -/
  | ilt (w : BitVec 1) (d : BitVec 8) (a : BitVec 8) (b : BitVec 8)
  /-- ILE (R140). Signed less-or-equal compare. -/
  | ile (w : BitVec 1) (d : BitVec 8) (a : BitVec 8) (b : BitVec 8)
  /-- ULT (R140). Unsigned less-than compare. -/
  | ult (w : BitVec 1) (d : BitVec 8) (a : BitVec 8) (b : BitVec 8)
  /-- ULE (R140). Unsigned less-or-equal compare. -/
  | ule (w : BitVec 1) (d : BitVec 8) (a : BitVec 8) (b : BitVec 8)
  /-- MOV (R142). Copies any source to the destination. -/
  | mov (w : BitVec 1) (d : BitVec 8) (a : BitVec 8)
  /-- NOT (R142). Bitwise complement. -/
  | not (w : BitVec 1) (d : BitVec 8) (a : BitVec 8)
  /-- CLZ (R142). Count of leading zero bits, 32 for zero. -/
  | clz (w : BitVec 1) (d : BitVec 8) (a : BitVec 8)
  /-- CTZ (R142). Count of trailing zero bits, 32 for zero. -/
  | ctz (w : BitVec 1) (d : BitVec 8) (a : BitVec 8)
  /-- POPC (R142). Count of one bits. -/
  | popc (w : BitVec 1) (d : BitVec 8) (a : BitVec 8)
  /-- BREV (R142). Bit reversal. -/
  | brev (w : BitVec 1) (d : BitVec 8) (a : BitVec 8)
  /-- SEXT8 (R142). Sign-extends a[7:0]. -/
  | sext8 (w : BitVec 1) (d : BitVec 8) (a : BitVec 8)
  /-- SEXT16 (R142). Sign-extends a[15:0]. -/
  | sext16 (w : BitVec 1) (d : BitVec 8) (a : BitVec 8)
  /-- ZEXT8 (R142). Zero-extends a[7:0]. -/
  | zext8 (w : BitVec 1) (d : BitVec 8) (a : BitVec 8)
  /-- ZEXT16 (R142). Zero-extends a[15:0]. -/
  | zext16 (w : BitVec 1) (d : BitVec 8) (a : BitVec 8)
  /-- PKP (R143). Packs p0-p7 or q0-q7 into bits [7:0] of the destination. -/
  | pkp (w : BitVec 1) (d : BitVec 8) (a : BitVec 8)
  /-- UPKP (R143). Unpacks bits [7:0] of a into p0-p7 or q0-q6. -/
  | upkp (w : BitVec 1) (d : BitVec 8) (a : BitVec 8)
  /-- FADD (R144). FP32 add rounded once under the mode. -/
  | fadd (w : BitVec 1) (d : BitVec 8) (a : BitVec 8) (b : BitVec 8)
  /-- FSUB (R144). FP32 subtract rounded once. -/
  | fsub (w : BitVec 1) (d : BitVec 8) (a : BitVec 8) (b : BitVec 8)
  /-- FMUL (R144). FP32 multiply rounded once. -/
  | fmul (w : BitVec 1) (d : BitVec 8) (a : BitVec 8) (b : BitVec 8)
  /-- FFMA (R144). FP32 fused multiply-add rounded once. -/
  | ffma (w : BitVec 1) (d : BitVec 8) (a : BitVec 8) (b : BitVec 8)
  /-- FMIN (R145). Lesser FP32 source unrounded, with NaN handling. -/
  | fmin (w : BitVec 1) (d : BitVec 8) (a : BitVec 8) (b : BitVec 8)
  /-- FMAX (R145). Greater FP32 source unrounded, with NaN handling. -/
  | fmax (w : BitVec 1) (d : BitVec 8) (a : BitVec 8) (b : BitVec 8)
  /-- FEQ (R146). Ordered FP32 equality compare. -/
  | feq (w : BitVec 1) (d : BitVec 8) (a : BitVec 8) (b : BitVec 8)
  /-- FNE (R146). FP32 unequal-or-unordered compare. -/
  | fne (w : BitVec 1) (d : BitVec 8) (a : BitVec 8) (b : BitVec 8)
  /-- FLT (R146). Ordered FP32 less-than compare. -/
  | flt (w : BitVec 1) (d : BitVec 8) (a : BitVec 8) (b : BitVec 8)
  /-- FLE (R146). Ordered FP32 less-or-equal compare. -/
  | fle (w : BitVec 1) (d : BitVec 8) (a : BitVec 8) (b : BitVec 8)
  /-- FUNO (R146). True when either FP32 source is NaN. -/
  | funo (w : BitVec 1) (d : BitVec 8) (a : BitVec 8) (b : BitVec 8)
  /-- FRCP (R147). Correctly rounded reciprocal. -/
  | frcp (w : BitVec 1) (d : BitVec 8) (a : BitVec 8)
  /-- FRSQ (R147). Correctly rounded reciprocal square root. -/
  | frsq (w : BitVec 1) (d : BitVec 8) (a : BitVec 8)
  /-- FSQRT (R147). Correctly rounded square root. -/
  | fsqrt (w : BitVec 1) (d : BitVec 8) (a : BitVec 8)
  /-- FEX2 (R147). Correctly rounded 2^a. -/
  | fex2 (w : BitVec 1) (d : BitVec 8) (a : BitVec 8)
  /-- FLG2 (R147). Correctly rounded log2 a. -/
  | flg2 (w : BitVec 1) (d : BitVec 8) (a : BitVec 8)
  /-- FSIN (R147). Correctly rounded sine in radians. -/
  | fsin (w : BitVec 1) (d : BitVec 8) (a : BitVec 8)
  /-- FCOS (R147). Correctly rounded cosine in radians. -/
  | fcos (w : BitVec 1) (d : BitVec 8) (a : BitVec 8)
  /-- FFRAC (R148). Rounded fractional part a minus floor(a). -/
  | ffrac (w : BitVec 1) (d : BitVec 8) (a : BitVec 8)
  /-- FROUND (R148). Rounds a to an integral FP32 value under the rounding mode. -/
  | fround (w : BitVec 1) (d : BitVec 8) (a : BitVec 8)
  /-- FCLASS (R148). Writes one class bit for the raw FP32 source. -/
  | fclass (w : BitVec 1) (d : BitVec 8) (a : BitVec 8)
  /-- CVT_FROM_F32 (R149). Converts an FP32 source to conversion format f, rounding once. -/
  | cvtFromF32 (w : BitVec 1) (d : BitVec 8) (a : BitVec 8) (f : BitVec 4)
  /-- CVT_TO_F32 (R149). Converts a source of conversion format f to FP32. -/
  | cvtToF32 (w : BitVec 1) (d : BitVec 8) (a : BitVec 8) (f : BitVec 4)
  /-- HADD2 (R150). Packed FP16 add, each half rounded once. -/
  | hadd2 (w : BitVec 1) (d : BitVec 8) (a : BitVec 8) (b : BitVec 8)
  /-- HMUL2 (R150). Packed FP16 multiply. -/
  | hmul2 (w : BitVec 1) (d : BitVec 8) (a : BitVec 8) (b : BitVec 8)
  /-- HFMA2 (R150). Packed FP16 fused multiply-add. -/
  | hfma2 (w : BitVec 1) (d : BitVec 8) (a : BitVec 8) (b : BitVec 8)
  /-- BADD2 (R150). Packed BF16 add. -/
  | badd2 (w : BitVec 1) (d : BitVec 8) (a : BitVec 8) (b : BitVec 8)
  /-- BMUL2 (R150). Packed BF16 multiply. -/
  | bmul2 (w : BitVec 1) (d : BitVec 8) (a : BitVec 8) (b : BitVec 8)
  /-- BFMA2 (R150). Packed BF16 fused multiply-add. -/
  | bfma2 (w : BitVec 1) (d : BitVec 8) (a : BitVec 8) (b : BitVec 8)
  /-- HDOT2 (R151). FP16 two-element dot product plus FP32 c, rounded once to FP32. -/
  | hdot2 (w : BitVec 1) (d : BitVec 8) (a : BitVec 8) (b : BitVec 8)
  /-- BDOT2 (R151). BF16 two-element dot product plus FP32 c, rounded once to FP32. -/
  | bdot2 (w : BitVec 1) (d : BitVec 8) (a : BitVec 8) (b : BitVec 8)
  /-- SHFL (R153). Each lane reads a from the lane named by its own b, or 0 if that lane is absent. -/
  | shfl (w : BitVec 1) (d : BitVec 8) (a : BitVec 8) (b : BitVec 8)
  /-- SHFX (R154). Lanes read a from a lane given by a uniform xor, up, down or rotate pattern. -/
  | shfx (w : BitVec 1) (d : BitVec 8) (a : BitVec 8) (b : BitVec 8)
  /-- BALLOT (R155). 64-bit mask of executing lanes with nonzero a. -/
  | ballot (w : BitVec 1) (d : BitVec 8) (a : BitVec 8)
  /-- ANY (R155). 1 if any executing lane has nonzero a. -/
  | any (w : BitVec 1) (d : BitVec 8) (a : BitVec 8)
  /-- ALL (R155). 1 if every executing lane has nonzero a. -/
  | all (w : BitVec 1) (d : BitVec 8) (a : BitVec 8)
  /-- RADD (R155). Integer sum of a over executing lanes modulo 2^32. -/
  | radd (w : BitVec 1) (d : BitVec 8) (a : BitVec 8)
  /-- RFADD (R124). FP32 tree reduction of a over executing lanes. -/
  | rfadd (w : BitVec 1) (d : BitVec 8) (a : BitVec 8)
  /-- RMIN (R155). Least a by signed value. -/
  | rmin (w : BitVec 1) (d : BitVec 8) (a : BitVec 8)
  /-- RMAX (R155). Greatest a by signed value. -/
  | rmax (w : BitVec 1) (d : BitVec 8) (a : BitVec 8)
  /-- RUMIN (R155). Least a by unsigned value. -/
  | rumin (w : BitVec 1) (d : BitVec 8) (a : BitVec 8)
  /-- RUMAX (R155). Greatest a by unsigned value. -/
  | rumax (w : BitVec 1) (d : BitVec 8) (a : BitVec 8)
  /-- RAND (R155). Bitwise AND of a over executing lanes. -/
  | rand (w : BitVec 1) (d : BitVec 8) (a : BitVec 8)
  /-- ROR (R155). Bitwise OR of a over executing lanes. -/
  | ror (w : BitVec 1) (d : BitVec 8) (a : BitVec 8)
  /-- PFADD (R155). Integer inclusive prefix sum over executing lanes. -/
  | pfadd (w : BitVec 1) (d : BitVec 8) (a : BitVec 8)
  /-- PFFADD (R124). FP32 running prefix sum in lane order. -/
  | pffadd (w : BitVec 1) (d : BitVec 8) (a : BitVec 8)
  /-- BCST (R155). a of the lowest executing lane. -/
  | bcst (w : BitVec 1) (d : BitVec 8) (a : BitVec 8)
  /-- FIRST (R155). Lowest executing lane with nonzero a, or 64. -/
  | laneFirst (w : BitVec 1) (d : BitVec 8) (a : BitVec 8)
  /-- MOVS_READ (R156). Reads a special register into the destination, capturing clkhi with clklo. -/
  | movsRead (w : BitVec 1) (d : BitVec 8) (n : BitVec 7)
  /-- MOVS_WRITE (R156). Writes a uniform value to fflags (W1C) or fmode. -/
  | movsWrite (a : BitVec 8) (n : BitVec 7)
  /-- LD (R235). Each executing thread forms and checks its address and loads 8 to 256 bits from the selected space. -/
  | ld (d : BitVec 8) (a : BitVec 8) (b : BitVec 8) (off : BitVec 8) (inv : BitVec 1) (scope : BitVec 3) (ord : BitVec 2) (space : BitVec 3) (sz : BitVec 3) (e : BitVec 8)
  /-- ST (R235). Each executing thread stores 8 to 256 bits to its address, leaving tags unchanged. -/
  | st (d : BitVec 8) (a : BitVec 8) (b : BitVec 8) (off : BitVec 8) (inv : BitVec 1) (scope : BitVec 3) (ord : BitVec 2) (space : BitVec 3) (sz : BitVec 3) (e : BitVec 8)
  /-- ATOM_ADD (R238). Atomic integer add returning the old value. -/
  | atomAdd (d : BitVec 8) (a : BitVec 8) (b : BitVec 8) (off : BitVec 8) (inv : BitVec 1) (scope : BitVec 3) (ord : BitVec 2) (space : BitVec 3) (sz : BitVec 3) (e : BitVec 8)
  /-- ATOM_FADD (R240). Atomic FP32 add with lane pre-reduction, returning rebuilt old values. -/
  | atomFadd (d : BitVec 8) (a : BitVec 8) (b : BitVec 8) (off : BitVec 8) (inv : BitVec 1) (scope : BitVec 3) (ord : BitVec 2) (space : BitVec 3) (sz : BitVec 3) (e : BitVec 8)
  /-- ATOM_MIN (R238). Atomic signed minimum. -/
  | atomMin (d : BitVec 8) (a : BitVec 8) (b : BitVec 8) (off : BitVec 8) (inv : BitVec 1) (scope : BitVec 3) (ord : BitVec 2) (space : BitVec 3) (sz : BitVec 3) (e : BitVec 8)
  /-- ATOM_MAX (R238). Atomic signed maximum. -/
  | atomMax (d : BitVec 8) (a : BitVec 8) (b : BitVec 8) (off : BitVec 8) (inv : BitVec 1) (scope : BitVec 3) (ord : BitVec 2) (space : BitVec 3) (sz : BitVec 3) (e : BitVec 8)
  /-- ATOM_UMIN (R238). Atomic unsigned minimum, umin64 at 64 bits. -/
  | atomUmin (d : BitVec 8) (a : BitVec 8) (b : BitVec 8) (off : BitVec 8) (inv : BitVec 1) (scope : BitVec 3) (ord : BitVec 2) (space : BitVec 3) (sz : BitVec 3) (e : BitVec 8)
  /-- ATOM_UMAX (R238). Atomic unsigned maximum. -/
  | atomUmax (d : BitVec 8) (a : BitVec 8) (b : BitVec 8) (off : BitVec 8) (inv : BitVec 1) (scope : BitVec 3) (ord : BitVec 2) (space : BitVec 3) (sz : BitVec 3) (e : BitVec 8)
  /-- ATOM_AND (R238). Atomic bitwise AND. -/
  | atomAnd (d : BitVec 8) (a : BitVec 8) (b : BitVec 8) (off : BitVec 8) (inv : BitVec 1) (scope : BitVec 3) (ord : BitVec 2) (space : BitVec 3) (sz : BitVec 3) (e : BitVec 8)
  /-- ATOM_OR (R238). Atomic bitwise OR. -/
  | atomOr (d : BitVec 8) (a : BitVec 8) (b : BitVec 8) (off : BitVec 8) (inv : BitVec 1) (scope : BitVec 3) (ord : BitVec 2) (space : BitVec 3) (sz : BitVec 3) (e : BitVec 8)
  /-- ATOM_XOR (R238). Atomic bitwise XOR. -/
  | atomXor (d : BitVec 8) (a : BitVec 8) (b : BitVec 8) (off : BitVec 8) (inv : BitVec 1) (scope : BitVec 3) (ord : BitVec 2) (space : BitVec 3) (sz : BitVec 3) (e : BitVec 8)
  /-- ATOM_XCHG (R238). Atomic exchange. -/
  | atomXchg (d : BitVec 8) (a : BitVec 8) (b : BitVec 8) (off : BitVec 8) (inv : BitVec 1) (scope : BitVec 3) (ord : BitVec 2) (space : BitVec 3) (sz : BitVec 3) (e : BitVec 8)
  /-- ATOM_CAS (R238). Atomic compare-and-swap with the new value from D. -/
  | atomCas (d : BitVec 8) (a : BitVec 8) (b : BitVec 8) (off : BitVec 8) (inv : BitVec 1) (scope : BitVec 3) (ord : BitVec 2) (space : BitVec 3) (sz : BitVec 3) (e : BitVec 8)
  /-- ATOM_FMIN (R238). Atomic FP32 minimum. -/
  | atomFmin (d : BitVec 8) (a : BitVec 8) (b : BitVec 8) (off : BitVec 8) (inv : BitVec 1) (scope : BitVec 3) (ord : BitVec 2) (space : BitVec 3) (sz : BitVec 3) (e : BitVec 8)
  /-- ATOM_FMAX (R238). Atomic FP32 maximum. -/
  | atomFmax (d : BitVec 8) (a : BitVec 8) (b : BitVec 8) (off : BitVec 8) (inv : BitVec 1) (scope : BitVec 3) (ord : BitVec 2) (space : BitVec 3) (sz : BitVec 3) (e : BitVec 8)
  /-- ATOM_HADD2 (R240). Atomic packed FP16 add per half. -/
  | atomHadd2 (d : BitVec 8) (a : BitVec 8) (b : BitVec 8) (off : BitVec 8) (inv : BitVec 1) (scope : BitVec 3) (ord : BitVec 2) (space : BitVec 3) (sz : BitVec 3) (e : BitVec 8)
  /-- ATOM_BADD2 (R240). Atomic packed BF16 add per half. -/
  | atomBadd2 (d : BitVec 8) (a : BitVec 8) (b : BitVec 8) (off : BitVec 8) (inv : BitVec 1) (scope : BitVec 3) (ord : BitVec 2) (space : BitVec 3) (sz : BitVec 3) (e : BitVec 8)
  /-- LDT_FF (R243). Tag load that waits until full and leaves the word full. -/
  | ldtFf (d : BitVec 8) (a : BitVec 8) (b : BitVec 8) (off : BitVec 8) (inv : BitVec 1) (scope : BitVec 3) (ord : BitVec 2) (space : BitVec 3) (sz : BitVec 3) (e : BitVec 8)
  /-- LDT_FE (R243). Tag load that waits until full and empties the word. -/
  | ldtFe (d : BitVec 8) (a : BitVec 8) (b : BitVec 8) (off : BitVec 8) (inv : BitVec 1) (scope : BitVec 3) (ord : BitVec 2) (space : BitVec 3) (sz : BitVec 3) (e : BitVec 8)
  /-- LDT_XX (R243). Tag load with no wait and tag unchanged. -/
  | ldtXx (d : BitVec 8) (a : BitVec 8) (b : BitVec 8) (off : BitVec 8) (inv : BitVec 1) (scope : BitVec 3) (ord : BitVec 2) (space : BitVec 3) (sz : BitVec 3) (e : BitVec 8)
  /-- STT_EF (R243). Tag store that waits until empty and fills the word. -/
  | sttEf (d : BitVec 8) (a : BitVec 8) (b : BitVec 8) (off : BitVec 8) (inv : BitVec 1) (scope : BitVec 3) (ord : BitVec 2) (space : BitVec 3) (sz : BitVec 3) (e : BitVec 8)
  /-- STT_XF (R243). Tag store with no wait that sets the word full. -/
  | sttXf (d : BitVec 8) (a : BitVec 8) (b : BitVec 8) (off : BitVec 8) (inv : BitVec 1) (scope : BitVec 3) (ord : BitVec 2) (space : BitVec 3) (sz : BitVec 3) (e : BitVec 8)
  /-- STT_XE (R243). Tag store with no wait that sets the word empty. -/
  | sttXe (d : BitVec 8) (a : BitVec 8) (b : BitVec 8) (off : BitVec 8) (inv : BitVec 1) (scope : BitVec 3) (ord : BitVec 2) (space : BitVec 3) (sz : BitVec 3) (e : BitVec 8)
  /-- LDTILE (R246). Loads all 256 elements of a tile register from a strided footprint. -/
  | ldtile (d : BitVec 8) (a : BitVec 8) (b : BitVec 8) (off : BitVec 8) (inv : BitVec 1) (scope : BitVec 3) (ord : BitVec 2) (space : BitVec 3) (sz : BitVec 3) (e : BitVec 8)
  /-- STTILE (R246). Stores all 256 elements of a tile register to a strided footprint. -/
  | sttile (d : BitVec 8) (a : BitVec 8) (b : BitVec 8) (off : BitVec 8) (inv : BitVec 1) (scope : BitVec 3) (ord : BitVec 2) (space : BitVec 3) (sz : BitVec 3) (e : BitVec 8)
  /-- PRF (R247). Requests lines and translations for timing only, dropping failures silently. -/
  | prf (d : BitVec 8) (a : BitVec 8) (b : BitVec 8) (off : BitVec 8) (inv : BitVec 1) (scope : BitVec 3) (ord : BitVec 2) (space : BitVec 3) (sz : BitVec 3) (e : BitVec 8)
  /-- FENCE_ACQ (R258). Acquire fence at a scope: later accesses wait for earlier reads. -/
  | fenceAcq (c : BitVec 3)
  /-- FENCE_REL (R258). Release fence at a scope: earlier accesses performed and visible before later writes. -/
  | fenceRel (c : BitVec 3)
  /-- FENCE_AR (R258). Acquire-release fence at a scope, totally ordered with pairing fence.ar. -/
  | fenceAr (c : BitVec 3)
  /-- SOBJ_BIND (R261). Binds a slot of a synchronization object to an address range in the core's binding table. -/
  | sobjBind (x : BitVec 6) (y : BitVec 6) (k : BitVec 8)
  /-- SOBJ_UNBIND (R261). Removes the unit's binding of a slot of an object. -/
  | sobjUnbind (x : BitVec 6) (k : BitVec 8)
  /-- SOBJ_ACQ (R262). Sends an exclusive or shared acquire request to the object's home and waits until served. -/
  | sobjAcq (x : BitVec 6) (h : BitVec 1)
  /-- SOBJ_REL (R263). Releases a hold after making bound writes visible, bumps RSEQ and serves waiters. -/
  | sobjRel (x : BitVec 6)
  /-- SOBJ_TRYACQ (R262). Makes an acquire request that never waits and writes success to sY. -/
  | sobjTryacq (x : BitVec 6) (y : BitVec 6) (h : BitVec 1)
  /-- WAITC (R269). Waits until the group's counter of a class is at most n. -/
  | waitc (c : BitVec 5) (n : BitVec 8)
  /-- QUEUE_INIT (R271). Sets up a named queue's ring and capacity and opens both masks. -/
  | queueInit (x : BitVec 6) (y : BitVec 6) (q : BitVec 8)
  /-- QUEUE_ALLOW (R271). Sets a queue's producer and consumer masks. -/
  | queueAllow (x : BitVec 6) (y : BitVec 6) (q : BitVec 8)
  /-- QUEUE_PUSH (R272). Appends an entry, waiting while the queue is full. -/
  | queuePush (x : BitVec 6) (q : BitVec 8)
  /-- QUEUE_POP (R272). Removes the oldest entry, waiting while the queue is empty. -/
  | queuePop (x : BitVec 6) (q : BitVec 8)
  /-- QUEUE_TRYPUSH (R273). Push that never waits and writes success to sY. -/
  | queueTrypush (x : BitVec 6) (y : BitVec 6) (q : BitVec 8)
  /-- QUEUE_TRYPOP (R273). Pop that never waits and writes success to sY. -/
  | queueTrypop (x : BitVec 6) (y : BitVec 6) (q : BitVec 8)
  /-- ABAR_INIT (R274). Sets a barrier's COUNT, phase, pending arrivals and XP. -/
  | abarInit (x : BitVec 6) (b : BitVec 8)
  /-- ABAR_EXPECT (R274). Adds expected engine completions to XP. -/
  | abarExpect (x : BitVec 6) (b : BitVec 8)
  /-- ABAR_ARRIVE (R275). Returns the phase token and lowers PEND, completing the phase if allowed. -/
  | abarArrive (x : BitVec 6) (b : BitVec 8)
  /-- ABAR_WAIT (R275). Waits until the barrier's phase differs from the token. -/
  | abarWait (x : BitVec 6) (b : BitVec 8)
  /-- ABAR_ARRWAIT (R275). Arrives and waits with the arrival's token. -/
  | abarArrwait (b : BitVec 8)
  /-- VER_PUBV (R380). Publishes, withholds or makes pending a version publication depending on its dependency level. -/
  | verPubv (x : BitVec 6) (y : BitVec 6)
  /-- VER_QVER (R382). Reads VER, WHELD and PAYLOAD indivisibly as an acquire. -/
  | verQver (x : BitVec 6) (y : BitVec 6)
  /-- CPY_LIN (R307). Copies a linear array described by a descriptor. -/
  | cpyLin (x : BitVec 6)
  /-- CPY_BLK2 (R307). Copies a two-dimensional block. -/
  | cpyBlk2 (x : BitVec 6)
  /-- CPY_BLK3 (R307). Copies a three-dimensional block. -/
  | cpyBlk3 (x : BitVec 6)
  /-- CPY_GATH (R307). Copies rows gathered through an index array. -/
  | cpyGath (x : BitVec 6)
  /-- CPY_SCAT (R307). Copies rows scattered through an index array. -/
  | cpyScat (x : BitVec 6)
  /-- CPY_FILL (R307). Fills a destination with a 32-bit value. -/
  | cpyFill (x : BitVec 6)
  /-- CPY_EXP6 (R307). Expands packed FP6 from main memory into padded SRAM bytes. -/
  | cpyExp6 (x : BitVec 6)
  /-- CPY_PAK6 (R307). Packs padded FP6 bytes from SRAM into main memory. -/
  | cpyPak6 (x : BitVec 6)
  /-- CPY_RED_ADD (R308). Adds source elements into the destination indivisibly per unit. -/
  | cpyRedAdd (x : BitVec 6)
  /-- CPY_RED_MIN (R308). Reduces source elements into the destination by minimum. -/
  | cpyRedMin (x : BitVec 6)
  /-- CPY_RED_MAX (R308). Reduces source elements into the destination by maximum. -/
  | cpyRedMax (x : BitVec 6)
  /-- CPY_OPB (R307). Copies rows into an operand-buffer record. -/
  | cpyOpb (x : BitVec 6)
  /-- CFETCH (R318). Loads a 4 KiB code segment from a VA, or completes at once if already present or loading from it. -/
  | cfetch (x : BitVec 6) (f : BitVec 1) (n : BitVec 6)
  /-- COLL_ARED (R322). Contributes a tile to an all-reduce; every member receives the reduction. -/
  | collAred (x : BitVec 6) (y : BitVec 6) (e : BitVec 2) (o : BitVec 2) (t : BitVec 2)
  /-- COLL_RED (R322). Contributes a tile to a reduction received by the root. -/
  | collRed (x : BitVec 6) (y : BitVec 6) (e : BitVec 2) (o : BitVec 2) (t : BitVec 2)
  /-- COLL_BCST (R322). Broadcasts the root's tile to every member. -/
  | collBcst (x : BitVec 6) (y : BitVec 6) (t : BitVec 2)
  /-- COLL_AGTH (R322). Gathers every member's tile into a buffer at every member. -/
  | collAgth (x : BitVec 6) (y : BitVec 6) (t : BitVec 2)
  /-- COLL_RSCT (R322). Reduce-scatters buffer tiles so member m receives the reduction of tile m. -/
  | collRsct (x : BitVec 6) (y : BitVec 6) (e : BitVec 2) (o : BitVec 2) (t : BitVec 2)
  /-- COLL_SEND (R322). Sends a tile to a partner rank. -/
  | collSend (x : BitVec 6) (y : BitVec 6) (t : BitVec 2)
  /-- COLL_RECV (R322). Receives a partner's tile into a 1 KiB buffer, setting its tags full. -/
  | collRecv (x : BitVec 6) (y : BitVec 6)
  /-- COLL_RSET (R327). Requests reset of a group object, matched once every participating group has issued it. -/
  | collRset (x : BitVec 6) (y : BitVec 6)
  /-- CNT_DECL (R329). Declares, replaces or frees counted lines with an expected count, emptying first-word tags. -/
  | cntDecl (x : BitVec 6) (y : BitVec 6)
  /-- CNT_TRIG (R331). Arms a trigger that lowers a barrier's XP when the declaration completes. -/
  | cntTrig (x : BitVec 6) (b : BitVec 8)
  /-- DSP_INIT (R378). Initialises a dispenser with NEXT 0 and its dimensions. -/
  | dspInit (x : BitVec 6) (y : BitVec 6)
  /-- DSP_NEXT (R378). Takes the next tile index or the end token and writes it full to a slice word. -/
  | dspNext (x : BitVec 6) (y : BitVec 6)
  /-- PRESENT_POST (R474). Posts a frame descriptor to the present engine and receives an acceptance status. -/
  | presentPost (x : BitVec 6) (y : BitVec 6)
  /-- MRES (R183). Makes a matrix reservation record live after format, grant and conflict checks. -/
  | mres (x : BitVec 6) (y : BitVec 6) (n : BitVec 8)
  /-- MRES_REL (R183). Frees a reservation record within the unit's grant. -/
  | mresRel (n : BitVec 8)
  /-- MWLD (R184). Copies rows from an operand-buffer record into a weight-buffer record. -/
  | mwld (x : BitVec 6) (y : BitVec 6) (n : BitVec 8)
  /-- MMA (R185). Queues K-steps accumulating A times B into an accumulator, checking pair and footprints at issue. -/
  | mma (k : BitVec 3) (x : BitVec 6) (y : BitVec 6) (c : BitVec 1)
  /-- MLOOP (R185). Gives the following mma a step count and row increments, forming one command. -/
  | mloop (x : BitVec 6) (y : BitVec 6)
  /-- MBAT (R187). Closes the group's open batch, writes its number and raises the matrix counter. -/
  | mbat (x : BitVec 6)
  /-- MDRN (R189). Drains an accumulator with conversion to a tile, the operand buffer or memory as plain stores. -/
  | mdrn (k : BitVec 3) (x : BitVec 6) (y : BitVec 6) (d : BitVec 3) (v : BitVec 3) (s : BitVec 1) (a : BitVec 1)
  /-- MDRN_ADD (R189). Drains an accumulator by add-on-store into a tile or memory. -/
  | mdrnAdd (k : BitVec 3) (x : BitVec 6) (y : BitVec 6) (d : BitVec 3) (v : BitVec 3) (s : BitVec 1) (a : BitVec 1)
  /-- MZERO (R193). Sets every element of an accumulator to zero in acceptance order. -/
  | mzero (k : BitVec 3)
  /-- MXQ (R194). Transposes a 32-row MX panel and requantizes it into a destination block column. -/
  | mxq (x : BitVec 6) (y : BitVec 6) (c : BitVec 8)
  /-- HG_CFG (R199). Replaces the group's hash-grid configuration after checks. -/
  | hgCfg (x : BitVec 6)
  /-- HG_ENC (R201). Encodes each thread's position into BF16 features written to operand-buffer rows. -/
  | hgEnc (x : BitVec 6) (z : BitVec 8)
  /-- HG_GRAD (R204). Scatters weighted gradients into the gradient table at their home slices. -/
  | hgGrad (x : BitVec 6) (z : BitVec 8)
  /-- RAY_TRACE (R214). Traces each thread's ray through a BVH for the closest hit into a result record. -/
  | rayTrace (x : BitVec 6) (y : BitVec 6) (z : BitVec 8)
  /-- RAY_OCCL (R214). Traces each ray and stops at its first hit. -/
  | rayOccl (x : BitVec 6) (y : BitVec 6) (z : BitVec 8)
  /-- RAY_TRI (R215). Intersects each thread's ray with one triangle from registers. -/
  | rayTri (z : BitVec 8)
  /-- RAY_BOX (R215). Tests each thread's ray against one box from registers. -/
  | rayBox (z : BitVec 8)
  /-- TR_INIT (R351). Initialises or frees a search tree from a descriptor image. -/
  | trInit (x : BitVec 6) (y : BitVec 6)
  /-- TR_DESC (R352). Performs n descents under virtual loss and writes leaf batch entries. -/
  | trDesc (x : BitVec 6) (y : BitVec 6) (n : BitVec 8)
  /-- TR_EXP (R353). Expands a path's end node into k children with priors, or marks it terminal. -/
  | trExp (x : BitVec 6) (y : BitVec 6) (k : BitVec 8)
  /-- TR_BACK (R354). Backs a value up a path, adding visits and values and removing virtual loss. -/
  | trBack (x : BitVec 6) (y : BitVec 6)
  /-- TR_UNDO (R354). Resolves a path by removing its virtual loss only. -/
  | trUndo (x : BitVec 6) (y : BitVec 6)
  /-- TR_REUSE (R355). Re-roots the tree at a child, reclaiming the rest. -/
  | trReuse (x : BitVec 6) (y : BitVec 6)
  /-- TR_FREE (R356). Collapses a node's subtree, reclaiming its child runs. -/
  | trFree (x : BitVec 6) (y : BitVec 6)
  /-- TR_STAT (R357). Writes a stat record of a node and its children. -/
  | trStat (x : BitVec 6) (y : BitVec 6)
  /-- TASK_SUBMIT (R387). Submits task records into node bins, accepting or refusing each in order. -/
  | taskSubmit (x : BitVec 6) (y : BitVec 6) (n : BitVec 8)
  /-- TASK_DONE (R387). Retires delivered records and takes whatever ready records are available. -/
  | taskDone (x : BitVec 6)
  /-- TASK_DONE_WAIT (R387). Retires delivered records and waits until records are delivered or the graph's bins end. -/
  | taskDoneWait (x : BitVec 6)
  /-- LVL_LAUNCH (R370). Checks a launch record, opens the launch and unit levels and hands units to their cores. -/
  | lvlLaunch (x : BitVec 6) (y : BitVec 6)
  /-- LVL_CANCEL (R365). Sets CANCEL at a level and propagates it to every running descendant. -/
  | lvlCancel (x : BitVec 6) (y : BitVec 6)
  /-- LVL_CTR (R386). Adds a signed delta to a level's CTR and returns the old value. -/
  | lvlCtr (x : BitVec 6) (y : BitVec 6)
  /-- LVL_OPEN (R386). Opens a phase or graph level object under a parent. -/
  | lvlOpen (x : BitVec 6) (y : BitVec 6) (z : BitVec 8)
  /-- LVL_CLOSE (R386). Sets CLOSED on a phase, graph or job, ending it at once if CTR is 0. -/
  | lvlClose (x : BitVec 6) (y : BitVec 6)
  /-- LVL_BUDGET (R386). Sets a phase's cycle budget from OPENCYC. -/
  | lvlBudget (x : BitVec 6) (y : BitVec 6)
  /-- SCHED_SLEEP (R388). The group offers no candidate for sX cycles. -/
  | schedSleep (x : BitVec 6)
  /-- XREG_ACQ (R405). Queues a request for extended register blocks, mapped zeroed when at the head with room. -/
  | xregAcq (m : BitVec 4)
  /-- XREG_REL (R405). Unmaps named blocks and serves waiting requests in order. -/
  | xregRel (m : BitVec 4)
  /-- SYS_TRAP (R459). Raises ACCESS with cause USER_TRAP, ending the unit with status error. -/
  | sysTrap (n : BitVec 8)
  /-- SYS_SVC (R459). Raises the SVC trap into the handler. -/
  | sysSvc (n : BitVec 8)
  /-- SYS_BKPT (R459). Raises the BKPT trap into the handler. -/
  | sysBkpt (n : BitVec 8)
  /-- SYS_SEGW (R427). Writes a checked segment register image for one space. -/
  | sysSegw (x : BitVec 6) (s : BitVec 8)
  /-- SYS_CSRR (R431). Reads a control register into an s-register pair. -/
  | sysCsrr (x : BitVec 6) (n : BitVec 8)
  /-- SYS_CSRW (R431). Writes a control register field by field after a release, for registers without a row of their own. -/
  | sysCsrw (x : BitVec 6) (n : BitVec 8)
  /-- SYS_CKPT (R469). Requests a spread checkpoint of the device and receives its status. -/
  | sysCkpt (x : BitVec 6) (y : BitVec 6)
  /-- PT_INV (R286). Takes the next sequence number and writes an invalidation entry to every die's log. -/
  | ptInv (x : BitVec 6) (y : BitVec 6)
  /-- PT_MIGB (R301). Begins migrating a page: allocates a record and sets MIG copying. -/
  | ptMigb (x : BitVec 6) (y : BitVec 6) (z : BitVec 8)
  /-- PT_MIGF (R295). Freezes a copying migration so accesses stall at the source homes. -/
  | ptMigf (x : BitVec 6) (z : BitVec 8)
  /-- PT_MIGD (R296). Finishes a ready migration: rewrites the leaf, forwards stalled accesses and appends an invalidation. -/
  | ptMigd (x : BitVec 6) (z : BitVec 8)
  /-- PT_HOTL (R302). Restarts every memory tile's hotness sketch and enables or stops gust-list publication. -/
  | ptHotl (x : BitVec 6) (y : BitVec 6)
  /-- NOP (R417). nop has no effect. -/
  | nop
  /-- RET (R414). ret sends every executing thread to the code address in s62 within the current segment. -/
  | ret
  /-- EXIT (R416). exit clears the executing threads' active bits and, when all slices finish, the group exits, closing its batch and releasing baton, holds and blocks. -/
  | exit
  /-- DRAIN (R270). Waits for every operation and write of the core issued before it, then acts as fence.ar.sys. -/
  | drain
  /-- MTAKE (R193). Takes the baton at once or joins the baton queue and blocks. -/
  | mtake
  /-- MGIVE (R193). Closes the holder's batch and passes the baton to the queue head or frees it. -/
  | mgive
  /-- SCHED_YIELD (R388). The group offers no candidate until other offering groups of its class progress or 256 cycles pass. -/
  | schedYield
  /-- SYS_ERET (R460). Returns from a handler, restoring saved registers, privilege and slices from the frame. -/
  | sysEret
  /-- SYS_HALT (R461). Stops the context at every group's next clause boundary and reports HALTED. -/
  | sysHalt
  /-- PT_FENCE (R290). Waits until every die has applied the log up to its target and older-generation accesses are done. -/
  | ptFence
  /-- PT_APPLY (R300). The issuing core's die applies every log entry up to the current sequence number. -/
  | ptApply
  /-- CLAUSE_FETCH (R41). At a clause boundary the group resolves slice stacks, regroups and selects a path, then fetches the next clause header and checks the whole clause before any instruction of it executes. -/
  | clauseFetch
  /-- BACKGROUND_FORCED_ISSUE (R384). When a pipe's count of cycles passing over an offered background candidate reaches 7, it issues the oldest background candidate next. -/
  | backgroundForcedIssue
  /-- PATH_DEMOTE (R398). A path whose spin count reaches 64 becomes demoted in selection order. -/
  | pathDemote
  /-- REGISTER_WRITE_COMPLETE (R36). A register write that completes later than its instruction's issue is written, releasing instructions that wait on that register. -/
  | registerWriteComplete
  /-- MEMORY_ACCESS_PERFORM (R234). An access arrives and is performed indivisibly at its home. -/
  | memoryAccessPerform
  /-- WRITE_VISIBLE_AT_DIE (R252). A performed write becomes visible at one instant to every other agent of a die. -/
  | writeVisibleAtDie
  /-- HBM_SCRUB (R463). A memory tile reads each HBM line and writes back the corrected line at least once per 24 hours. -/
  | hbmScrub
  /-- COPY_RUN (R310). The copy engine translates and performs one run of a command's units, updating PROGRESS and completing the command after its last run. -/
  | copyRun
  /-- CPYCTL_RESUME (R312). A CPYCTL write with ABORT 0 resumes the faulted command from PROGRESS. -/
  | cpyctlResume
  /-- CPYCTL_ABORT (R312). A CPYCTL write with ABORT 1 ends the faulted command with STATUS 3. -/
  | cpyctlAbort
  /-- CODE_SEGMENT_LOADED (R318). A loading segment's 4 KiB are written and it becomes PRESENT, releasing waiting fetches. -/
  | codeSegmentLoaded
  /-- COLLECTIVE_COMPLETE (R325). A matched collective completes at a member: writes tiles and buffers, status, barrier XP and lowers the counter. -/
  | collectiveComplete
  /-- COLL_RSET_EFFECT (R327). When all M·P rsets have arrived, pending collectives fail, the object returns to NORMAL and counters reset. -/
  | collRsetEffect
  /-- ADD_ON_STORE_UPDATE (R190). An add-on-store of a drain is applied indivisibly at one home. -/
  | addOnStoreUpdate
  /-- MATRIX_COMMAND_EFFECT (R173). The matrix engine takes a queued command's full effect in acceptance order. -/
  | matrixCommandEffect
  /-- MMA_K_STEP (R125). The engine performs one K-step window sum into an accumulator per cycle. -/
  | mmaKStep
  /-- MATRIX_BATCH_COMPLETE (R176). A batch whose commands, drains and tile writes are done completes in number order and lowers the matrix counter. -/
  | matrixBatchComplete
  /-- HG_ENC_COMPLETE (R207). An hg.enc whose rows are all written completes and lowers the hash counter. -/
  | hgEncComplete
  /-- HG_GRAD_ADD (R205). One gradient add is performed indivisibly at its home slice. -/
  | hgGradAdd
  /-- RAY_COMPLETE (R216). A ray operation whose records are all written completes and lowers the ray counter. -/
  | rayComplete
  /-- TREE_OPERATION_COMPLETE (R346). A tree operation whose updates, writes and status are done completes and lowers the tree counter. -/
  | treeOperationComplete
  /-- NODE_TIMER_EXPIRY (R375). A node's oldest ready record has been ready for TIMER cycles. -/
  | nodeTimerExpiry
  /-- BUDGET_EXPIRY (R366). At OPENCYC plus BUDGET a phase cancels its running background graphs and marks them EXPIRED. -/
  | budgetExpiry
  /-- LEVEL_END (R363). A closed level with CTR 0 and drained operations ends: status set, word 0 full, parent updated. -/
  | levelEnd
  /-- UNIT_PRELOAD (R371). A core preloads a unit's code segments from CODEVA before the unit starts. -/
  | unitPreload
  /-- UNIT_START (R371). A unit starts on its core once slots and grants are free, initialising every group's state. -/
  | unitStart
  /-- YIELD_TIMEOUT (R388). 256 cycles after a yield the group offers candidates again. -/
  | yieldTimeout
  /-- SLEEP_END (R388). A sleeping group's cycle count expires and it becomes runnable. -/
  | sleepEnd
  /-- XPOOL_TAKE_EFFECT (R430). A new XPOOL value takes effect on a core at an instant when it has no resident unit. -/
  | xpoolTakeEffect
  /-- PREEMPT_REQUEST (R458). A PREQ write with RESTORE 0 requests pre-emption of a unit into the PSAVE area. -/
  | preemptRequest
  /-- RESTORE_REQUEST (R458). A PREQ write with RESTORE 1 requests restoration of a saved unit. -/
  | restoreRequest
  /-- PREEMPT (R409). A group reaching a pre-emption point takes PREEMPT and its state is saved and its slot freed. -/
  | preempt
  /-- UNIT_RESTORE (R411). A saved unit is restored into its slots once free, rows written back and requests reissued. -/
  | unitRestore
  /-- CANCEL (R365). A group of a cancel-pending unit takes CANCEL at a safe point or wait and the unit terminates cancelled. -/
  | cancel
  /-- PAGE_WALK (R281). A walker reads the page tables for a VA and returns a leaf or UNMAPPED. -/
  | pageWalk
  /-- LOG_APPLY (R284). A die applies its invalidation log entries, discarding covered translations and taking the new generation. -/
  | logApply
  /-- COPIER_LINE_COPY (R293). The migration copier copies one line to the destination and sets its copied bit, becoming ready after the freeze. -/
  | copierLineCopy
  /-- MIGRATION_RECORD_FREE (R296). A forwarding record is freed once every access stamped below its sequence number is performed. -/
  | migrationRecordFree
  /-- GUST_LIST_PUBLISH (R299). At each interval end a memory tile publishes its gust list and clears its sketch. -/
  | gustListPublish
  /-- CONTEXT_SWITCH (R424). A core switches contexts, clearing its buffers, registers, instruction memory and translations. -/
  | contextSwitch
  /-- CHECKPOINT_START (R469). Once the issuing unit is alone and engines idle, it is saved and the image writing begins. -/
  | checkpointStart
  /-- CHECKPOINT_COMPLETE (R469). The image is complete or failed, the unit is restored and sY receives the status. -/
  | checkpointComplete
  /-- POWER_ON (R435). At power-on the trust die boots, verifying and measuring every firmware image before releasing dies. -/
  | powerOn
  /-- PACKAGE_RESET (R435). At package reset the trust die repeats measured boot. -/
  | packageReset
  /-- CLOCK_LOWER (R29). At the power or temperature limit the compute-die clock drops by 20 MHz, not below 600 MHz. -/
  | clockLower
  /-- CLOCK_RAISE (R29). When the limit condition clears the clock rises by 20 MHz. -/
  | clockRaise
  /-- GET_VERSION (R437). SPDM GET_VERSION request. -/
  | getVersion
  /-- GET_CAPABILITIES (R437). SPDM GET_CAPABILITIES request. -/
  | getCapabilities
  /-- NEGOTIATE_ALGORITHMS (R437). SPDM NEGOTIATE_ALGORITHMS request, refused unless P-384, SHA-384 and AES-256-GCM are offered. -/
  | negotiateAlgorithms
  /-- GET_DIGESTS (R437). SPDM GET_DIGESTS request. -/
  | getDigests
  /-- GET_CERTIFICATE (R437). SPDM GET_CERTIFICATE request returning the device certificate chain. -/
  | getCertificate
  /-- CHALLENGE (R437). SPDM CHALLENGE request. -/
  | challenge
  /-- GET_MEASUREMENTS (R437). Returns the measurement slots signed by the alias key. -/
  | getMeasurements
  /-- KEY_EXCHANGE (R438). Opens a secure session; a second owner session gets Busy. -/
  | keyExchange
  /-- FINISH (R438). Completes a mutually authenticated session, making a front-port one the owner session. -/
  | finish
  /-- KEY_UPDATE (R446). Updates a session or link direction key, starting a rollover. -/
  | keyUpdate
  /-- HEARTBEAT (R437). SPDM HEARTBEAT message. -/
  | heartbeat
  /-- END_SESSION (R437). Ends an SPDM session. -/
  | endSession
  /-- FEATURE_ACCEPT (R439). The owner's answer of accepted feature words settles negotiation or fails it. -/
  | featureAccept
  /-- CTX_CREATE (R421). Creates a context with an ASID, mode and grants. -/
  | ctxCreate
  /-- CTX_DESTROY (R421). Destroys a context. -/
  | ctxDestroy
  /-- LAUNCH (R502). Launches a launch record at a named privilege under a parent level. -/
  | launch
  /-- GOBJ_CREATE (R320). Creates a collective group object with its member list. -/
  | gobjCreate
  /-- GOBJ_DESTROY (R504). Destroys a group object, failing pending collectives on it. -/
  | gobjDestroy
  /-- GOBJ_REBIND (R478). Rebinds a rank to a new unit and returns the object to NORMAL with counters 0. -/
  | gobjRebind
  /-- KEY_INSTALL (R433). The trust die generates a key pair into a slot and distributes it to every memory tile. -/
  | keyInstall
  /-- KEY_ERASE (R433). The trust die clears a key slot at every memory tile. -/
  | keyErase
  /-- MR_REG (R442). Registers a host memory region with rights and rkey. -/
  | mrReg
  /-- MR_DEREG (R442). Deregisters a host memory region. -/
  | mrDereg
  /-- EXPORT_SET (R443). Sets a peer export entry naming a remote device, range and rights. -/
  | exportSet
  /-- CKPT_TIER (R467). Sets the spread checkpoint tier of peers and regions. -/
  | ckptTier
  /-- RESTORE (R471). Restores a device from the newest complete checkpoint image. -/
  | restore
  /-- CONTINUE (R461). Restarts every group of a halted context where it stopped. -/
  | ctxContinue
  /-- OUTPUT_CONFIGURE (R473). Configures an output's size, ST 2110 format, stream addresses and header-extension identifier. -/
  | outputConfigure
  /-- ROCE_REQUEST_PACKET (R442). A RoCEv2 request packet is checked whole against regions and translation, then performed or NAKed. -/
  | roceRequestPacket
  /-- PEER_REQUEST (R443). A peer's main-space access is performed only through a covering export entry, else refused. -/
  | peerRequest
  /-- PTP_MESSAGE (R440). A received PTP message updates the device's time-receiver clock. -/
  | ptpMessage
  /-- FLIT_IDLE (R444). An idle flit is received and checked under the replay rules. -/
  | flitIdle
  /-- FLIT_DATA (R445). A data flit is accepted in order under its key or dropped with a NAK. -/
  | flitData
  /-- FLIT_ACK (R445). An acknowledgement frees replay buffer entries, or with NAK triggers retransmission. -/
  | flitAck
  /-- FLIT_SYNC (R472). A sync flit updates the frame timer's OFFSET and LOCKED state, or carries a takeover deadline. -/
  | flitSync
  /-- FLIT_MARKER (R446). The old-key-drained marker is accepted and the receiver erases the old key. -/
  | flitMarker
  /-- LINK_DOWN (R445). A link making no progress through 64 replays or without acknowledgement for 100 µs goes down. -/
  | linkDown
  /-- LINK_REOPEN (R480). The trust dies reopen a down link's session with flit numbers restarted under new keys. -/
  | linkReopen
  /-- SYNC_FLIT_SEND (R472). Every 1 ms each lock member sends sync flits to its neighbours. -/
  | syncFlitSend
  /-- LOCK_LOSS (R472). LOCKED drops when the timer's error bound exceeds 100 ns. -/
  | lockLoss
  /-- MEMBER_LOST (R478). A lock member with no sync flit for 2 periods is lost and its buddy covers its outputs. -/
  | memberLost
  /-- FRAME_DEADLINE (R475). At each deadline every configured output sends the newest accepted frame or a substitute. -/
  | frameDeadline
  /-- SCRUBBING (R466). Scrubbing finds an uncorrectable error in a level object in global SRAM and the home rewrites it as error, wakes waiters, cancels descendants and ends it. -/
  | scrubbing
  /-- FLIT_OTHER_TYPE (R444). A flit whose TYPE is not 0 to 4 arrives on a peer link and is dropped. -/
  | flitOtherType
deriving DecidableEq, Repr

end Sys2Proof
end

