-- ==== Sys2Proof/Machine/State.lean ====
section
/-!
DEFINITION. The state of a KF-9400 package as plain data (files 01, 02, 04, 06 to 16 of spec/): groups and steer threads,
cores, units, contexts, devices, dies, the package, memory with its tags, and what waits to happen. The operations on
these data stand in Machine/Ops.lean and the family files; here are only the types, the reset values and Memory.wf.
-/
namespace Sys2Proof.Machine

/-- A finite map with default: pairs in rising order of key; a key not listed reads as the default its accessor names. -/
abbrev FMap (α : Type) := List (Nat × α)

/-! ## One group: registers, slices, paths, the clause in progress -/

/-- A segment register (R223), of one of the spaces 0 to 6. -/
structure SegReg where
  v : Bool := false
  wr : Bool := false
  base : Nat := 0
  limit : Nat := 0
deriving DecidableEq, Repr

/-- One 32-bit register element or one predicate, as the target of a late register write (R36). -/
inductive Reg where
  /-- vr of lane l -/
  | v (r l : Nat)
  /-- sr -/
  | s (r : Nat)
  /-- pi of lane l -/
  | p (i l : Nat)
  /-- qi -/
  | q (i : Nat)
  /-- element e = 16·row + column of tile register tk -/
  | t (k e : Nat)
deriving DecidableEq, Repr

/-- A register write that completes later than its instruction's issue (R36). -/
structure OutWrite where
  /-- the registers, in the order of the values -/
  regs : List Reg
  /-- the values, once they have arrived; none while the request that brings them is not performed -/
  vals : Option (List Word)
  /-- the token by which the engine or the home that serves the request finds it -/
  tok : Nat
  /-- the slices of the path that issued the instruction (R397) -/
  slices : BitVec 16
deriving DecidableEq, Repr

/-- An entry of a divergence stack (R391): the side of a split that waits. -/
structure StackEnt where
  pc : Nat
  mask : BitVec 4
  /-- the clause whose fall-through left its segment at this PC (R43) -/
  fell : Option Nat := none
deriving DecidableEq, Repr

/-- One slice of four threads (R391). -/
structure Slice where
  pc : Nat := 0
  mask : BitVec 4 := 0
  /-- the divergence stack, top first -/
  stack : List StackEnt := []
  finished : Bool := true
  /-- the clause whose fall-through left its segment at this PC (R43) -/
  fell : Option Nat := none
deriving DecidableEq, Repr

/-- What a parked path waits for (R395, R40). A request that an engine or a home queues is named by its token. -/
inductive Wait where
  /-- waitc (R269) -/
  | counter (cls n : Nat)
  /-- drain, until the operations and writes named by these tokens are complete (R270) -/
  | drain (toks : List Nat)
  /-- queue.push of an entry to a named queue of the unit (R272) -/
  | queuePush (q : Nat) (vals : List Word)
  /-- queue.pop into the pair at register x -/
  | queuePop (q x : Nat)
  /-- abar.wait for a phase (R275) -/
  | abar (b : Nat) (phase : Nat)
  /-- sobj.acq in the object's queue at its home (R262) -/
  | sobj (obj : Nat) (shared : Bool)
  /-- xreg.acq in the pool queue (R405) -/
  | xreg (m : BitVec 4)
  /-- mtake in the baton queue (R193) -/
  | baton
  /-- pt.fence, until the accesses older than its target and the migration records that these tokens name are done with
  (R290, R296, R303) -/
  | ptFence (target : Nat) (toks : List Nat)
  /-- task.done.wait in the node's queue (R387) -/
  | taskDone (x : Nat)
  /-- sys.ckpt until the device is quiet and the image written (R469): VA of the save area, token of the status -/
  | ckpt (va tok : Nat)
  /-- a return from GROW that reissues xreg.acq (R406, R460) -/
  | never
deriving DecidableEq, Repr

/-- A path: slices of one group at one PC and depth (R394, R397). -/
structure Path where
  slices : BitVec 16 := 0
  spin : Nat := 0
  demoted : Bool := false
  /-- parked by a clause-ending instruction that waits (R395) -/
  wait : Option Wait := none
  /-- held while another path of the group runs a trap handler (R452) -/
  held : Bool := false
  /-- the clause that parked it, and the index of the parking instruction -/
  src : Nat := 0
  srcK : Nat := 0
deriving DecidableEq, Repr

/-- The fields of a mod prefix that waits for its instruction (R60). -/
structure ModW where
  c : BitVec 8 := 0
  rnd : BitVec 3 := 0
  sat : Bool := false
  nega : Bool := false
  negb : Bool := false
  negc : Bool := false
  absa : Bool := false
  absb : Bool := false
  scl : BitVec 4 := 0
deriving DecidableEq, Repr

/-- The mloop that waits for its mma (R185). -/
structure LoopW where
  n : Nat := 1
  da : Nat := 0
  db : Nat := 0
deriving DecidableEq, Repr

/-- The clause in progress of a group: it has been fetched and checked whole (R41). -/
structure Clause where
  /-- code address of the header -/
  base : Nat
  hdr : Word
  words : List Word
  /-- index in words of the next instruction's first word -/
  wi : Nat := 0
  /-- instruction number, a mod prefix and its instruction counting as one (R55) -/
  k : Nat := 0
  /-- the executing set, fixed when the first instruction issues (R37) -/
  exec : Option Lanes := none
  /-- the slices of the issuing path -/
  slices : BitVec 16
  /-- the mod prefix in front of the next instruction -/
  modp : Option ModW := none
  /-- the mloop in front of the next mma -/
  loop : Option LoopW := none
  /-- 1 + the upper half captured by a movs read of clklo in this clause, 0 before one (R157) -/
  clk : Nat := 0
deriving DecidableEq, Repr

/-- The hash-grid configuration of a group (R197, R198); `valid` is false until hg.cfg. -/
structure HgCfg where
  valid : Bool := false
  levels : Nat := 0
  feats : Nat := 0
  log2t : Nat := 0
  /-- N0 and b, FP32 patterns -/
  n0 : Word := 0
  growth : Word := 0
  toff : Nat := 0
  goff : Nat := 0
deriving DecidableEq, Repr

/-- A handler that runs in a group between its entry and its return (R452, R460). -/
structure Handler where
  /-- global offset of the trap frame, computed at entry -/
  frame : Nat
  /-- the slices as they stood at entry -/
  saved : List Slice
  /-- threads that have run exit in the handler (R393) -/
  exited : Lanes := 0
deriving DecidableEq, Repr

/-- A translation window of a group (R228). -/
structure Window where
  /-- the base pair's first s-register, and the base VA it held -/
  pair : Nat
  base : Nat
  /-- the page's VA, its size and leaf: frame and permissions -/
  va : Nat
  size : Nat
  leaf : BitVec 64
  /-- the generation of the translation -/
  gen : Nat
  /-- bytes from the base VA to the end of its page -/
  limit : Nat
deriving DecidableEq, Repr

/-- The load whose word was found poisoned after it was issued (R233): the address, the lowest thread that reads it, and the
slices of the path that issued it. -/
structure EccAt where
  addr : Nat
  thread : Nat
  slices : BitVec 16
deriving DecidableEq, Repr

/-- A group in a resident slot, or a core's steer thread (R53, R391, R399). -/
structure Group where
  /-- the slot is occupied -/
  live : Bool := false
  /-- the unit instance it belongs to -/
  unit : Nat := 0
  /-- the group's index in its unit, 16 for the steer thread (R47, R399) -/
  gidx : Nat := 0
  /-- v0 to v127: register number to the 64 lanes' words -/
  v : FMap (List Word) := []
  s : FMap Word := []
  p : FMap Lanes := []
  q : BitVec 7 := 0
  /-- t0 to t3: tile number to 256 elements, row major -/
  t : FMap (List Word) := []
  /-- latches b0 to b3 and which are valid (R55) -/
  b : FMap (List Word) := []
  bvalid : BitVec 4 := 0
  /-- the mapped extended blocks (R54) -/
  blocks : BitVec 4 := 0
  slices : List Slice := []
  paths : List Path := []
  /-- sticky flags NF NX UF OF IV (R119) -/
  fflags : BitVec 5 := 0
  /-- FTZ and the rounding mode (R72) -/
  fmode : BitVec 4 := 1
  /-- the generators: 0 to 63 of the lanes, 64 of uniform instructions (R116) -/
  gens : FMap Word := []
  /-- the drain generator of the batch (R192) -/
  drainGen : Word := 0
  batchNo : Nat := 0
  /-- outstanding-operation counters by class 1 to 7 (R35) -/
  ctr : FMap Nat := []
  segs : FMap SegReg := []
  hg : HgCfg := {}
  /-- late register writes not yet completed (R36) -/
  outs : List OutWrite := []
  /-- supervisor privilege (R425) -/
  priv : Bool := false
  handler : Option Handler := none
  /-- RESUME of the last return from a handler, until the fetch there (R460) -/
  ret : Option Nat := none
  clause : Option Clause := none
  /-- cycle at which the group's clause became eligible (R383) -/
  age : Nat := 0
  /-- no candidate before this cycle: a sleep or a yield (R388) -/
  wake : Option Nat := none
  /-- the groups a yield still waits for (R388) -/
  yieldFor : List Nat := []
  /-- background class (R383) -/
  bg : Bool := false
  /-- a request performed after its issue read a poisoned word: ECC falls due (R233) -/
  ecc : Option EccAt := none
  /-- a CANCEL is pending (R365) -/
  cancel : Bool := false
  /-- a pre-emption is pending (R408) -/
  preempt : Bool := false
  /-- stopped at its pre-emption point until it is saved (R408), or until it holds the baton again (R180) -/
  stopped : Bool := false
  /-- it has taken the PREEMPT trap and its batch is closed (R176, R408) -/
  taken : Bool := false
  /-- accumulators and their poison, saved with a holder of the baton (R180) -/
  acc : Option (FMap (List Word) × List Nat) := none
  /-- cycle at which the unit started on the core (R157) -/
  clk0 : Nat := 0
  /-- the objects it holds: address of the word and whether shared (R262) -/
  holds : List (Nat × Bool) := []
  /-- matrix commands issued since the batch was last closed (R176) -/
  openCmds : Nat := 0
  /-- registers with an uncorrectable error, by operand code, tile tk as 256 + k (R465) -/
  poison : List Nat := []
  /-- registers with a single-bit error, by operand code (R463) -/
  soft : List Nat := []
  /-- numbers of the batches that have written a non-finite value and are not complete, each with whether NF has been
  cleared since (R121, R158) -/
  nf : List (Nat × Bool) := []
  /-- the translation windows, the one used last first (R228) -/
  windows : List Window := []
deriving DecidableEq, Repr

/-! ## Units -/

/-- A named queue of a unit (R271). -/
structure QueueSt where
  /-- slice-space offset of the ring, made absolute -/
  ring : Nat := 0
  cap : Nat := 0
  lw : Nat := 0
  head : Nat := 0
  count : Nat := 0
  producers : BitVec 17 := 0
  consumers : BitVec 17 := 0
  /-- waiting pushes in order of arrival: agent, slices of the parked path, the entry -/
  pushers : List (Nat × BitVec 16 × List Word) := []
  /-- waiting pops in order of arrival: agent, slices, token of the register write that waits for the entry -/
  poppers : List (Nat × BitVec 16 × Nat) := []
deriving DecidableEq, Repr

/-- An asynchronous barrier of a unit (R274). -/
structure AbarSt where
  count : Nat := 0
  pend : Nat := 0
  xp : Int := 0
  phase : Nat := 0
deriving DecidableEq, Repr

/-- A unit that is resident on a core (R371). -/
structure UnitSt where
  dev : Nat := 0
  asid : Nat := 0
  core : Nat := 0
  /-- global offset of the unit's level object -/
  level : Nat := 0
  /-- the unit's index u within its launch or node (R371, R376) -/
  uidx : Nat := 0
  priv : Bool := false
  bg : Bool := false
  groups : Nat := 0
  /-- the resident agents, group k the k-th -/
  slots : List Nat := []
  /-- the core's steer thread has joined (R399) -/
  steer : Bool := false
  mrec : BitVec 16 := 0
  opFirst : Nat := 0
  opCount : Nat := 0
  wbFirst : Nat := 0
  wbCount : Nat := 0
  seed : Word := 0
  sptab : Nat := 0
  spcnt : Nat := 0
  lmtab : Nat := 0
  lmcnt : Nat := 0
  entry : Nat := 0
  args : List Word := []
  link : Word := 0
  segs : FMap SegReg := []
  queues : FMap QueueSt := []
  abars : FMap AbarSt := []
  /-- the node that started it (R376) and its RECOFF -/
  node : Option Nat := none
  recoff : Nat := 0
  /-- the graph of its node, and whether its level object is open: a node unit's opens when the unit starts (R371) -/
  graph : Nat := 0
  opened : Bool := true
  /-- the task records delivered to it at its start (R376) -/
  recs : List (List Byte) := []
  /-- preload: CODEVA, FIRSTSEG, SEGS (R371), and whether the preload is done -/
  codeva : Nat := 0
  firstSeg : Nat := 0
  nsegs : Nat := 0
  loaded : Bool := false
  started : Bool := false
  /-- a group of it took a non-resumable trap (R363) -/
  errored : Bool := false
  /-- it was terminated by CANCEL (R365) -/
  cancelled : Bool := false
  /-- it terminates: every group stops at its clause boundary (R454) -/
  ending : Bool := false
  /-- a pre-emption of it was requested (R458) -/
  preempting : Bool := false
  /-- it is saved and not resident (R409) -/
  away : Bool := false
  /-- an uncorrectable error in its queue, barrier, binding or object state (R465) -/
  faulty : Bool := false
deriving DecidableEq, Repr

/-! ## The engines of one core -/

/-- A reservation record (R162). -/
structure Rec where
  buf : Nat := 0
  rows : Nat := 0
  row0 : Nat := 0
  fmt : Nat := 0
  mx : Bool := false
  cmp : Bool := false
  exp : Bool := false
  lay : Bool := false
  scoff : Nat := 0
deriving DecidableEq, Repr

/-- Where a drain writes (R188). -/
inductive DrainDst where
  | tile (t : Nat)
  /-- rows of an operand-buffer record from OFF, column block COL -/
  | opb (r : Rec) (off col : Nat)
  /-- physical address of each of the 256 elements, row major, and its ASID and VA in main space -/
  | mem (addrs : List Nat) (vas : List (Nat × Nat))
deriving DecidableEq, Repr

/-- A command of the matrix engine, with what it fixed at issue (R173, R182). -/
inductive MCmd where
  | mres (n : Nat) (r : Option Rec)
  | mwld (src dst rows : Nat)
  | mma (acc : Nat) (ra rb : Rec) (oa ob n inca incb : Nat) (clr : Bool)
  | mdrn (acc : Nat) (dst : DrainDst) (cvt : Nat) (add sr sat : Bool) (tok : Nat)
  | mzero (acc : Nat)
  | mxq (src dst : Rec) (os od c : Nat)
  /-- a restored group's accumulators and their poison come back behind what was accepted before (R180) -/
  | restore (acc : FMap (List Word)) (bad : List Nat)
  /-- the event that closes a batch: it takes an entry of the queue only for a batch that holds a command (R173) -/
  | close
deriving DecidableEq, Repr

/-- An entry of the matrix command queue. -/
structure MEntry where
  agent : Nat
  unit : Nat
  batch : Nat
  cmd : MCmd
  /-- K-steps done, for an mma -/
  step : Nat := 0
  /-- it counts against the 64 entries -/
  counts : Bool := true
  tok : Nat := 0
  /-- generation of the core's die at issue, when a drain's addresses were translated (R289) -/
  gen : Nat := 0
deriving DecidableEq, Repr

/-- A closed batch (R176). -/
structure Batch where
  agent : Nat
  unit : Nat
  number : Nat
  /-- no command was issued for it -/
  empty : Bool := false
  /-- every command accepted up to its closing event has taken effect -/
  effected : Bool := false
  tok : Nat := 0
deriving DecidableEq, Repr

/-- One home's part of an add-on-store (R190). -/
structure AddOn where
  agent : Nat
  unit : Nat
  core : Nat
  batch : Nat
  cvt : Nat
  sr : Bool
  sat : Bool
  /-- tile register of the group, or memory -/
  tile : Option Nat
  /-- address or element index, accumulator bits, stochastic word, and whether the accumulator element holds an
  uncorrectable error (R196) -/
  elems : List (Nat × Word × Word × Bool)
  /-- ASID and VA of each element in main space -/
  vas : List (Nat × Nat) := []
  tok : Nat
  gen : Nat
deriving DecidableEq, Repr

/-- A code segment of the instruction memory (R317). -/
structure CodeSeg where
  /-- 0 ABSENT, 1 LOADING, 2 PRESENT -/
  st : Nat := 0
  va : Nat := 0
deriving DecidableEq, Repr

/-- An entry of the binding table (R261). -/
structure Bind where
  unit : Nat
  obj : Nat
  slot : Nat
  main : Bool
  base : Nat
  len : Nat
deriving DecidableEq, Repr

/-- A copy descriptor as read at issue (R304). -/
structure CopyDesc where
  src : Nat := 0
  dst : Nat := 0
  len : Nat := 0
  rows : Nat := 0
  planes : Nat := 0
  sstr : Nat := 0
  dstr : Nat := 0
  spstr : Nat := 0
  dpstr : Nat := 0
  aux : Nat := 0
  ss : Nat := 0
  ds : Nat := 0
  et : Nat := 0
deriving DecidableEq, Repr

/-- A translation held by a core: virtual page base, size, leaf (R228, R284). -/
structure TlbEnt where
  asid : Nat
  va : Nat
  size : Nat
  leaf : BitVec 64
deriving DecidableEq, Repr

/-- A command of the copy engine or a code fetch in its slot (R313, R318). -/
structure CopyCmd where
  slot : Nat
  agent : Nat
  unit : Nat
  dev : Nat
  asid : Nat
  form : Nat
  d : CopyDesc := {}
  /-- physical address of the descriptor -/
  desc : Nat := 0
  /-- the slice, global and main segments of the group at issue -/
  sslice : SegReg := {}
  sglobal : SegReg := {}
  smain : SegReg := {}
  /-- first operand-buffer row, for opb -/
  row : Nat := 0
  /-- the segment a cfetch loads and its VA -/
  cseg : Option Nat := none
  va : Nat := 0
  /-- a preload of a unit that waits to start, which no group issued (R371) -/
  preload : Bool := false
  next : Nat := 0
  /-- a run that has begun: the translations of its source and destination, and the generation they are stamped with (R289,
  R310) -/
  run : Option (List TlbEnt × List TlbEnt × Nat) := none
  /-- the row of the unit in hand, its index as read before the row's first unit, and whether its word is poisoned (R307) -/
  idx : Option (Nat × Nat × Bool) := none
  status : Nat := 1
  faultva : Nat := 0
  tok : Nat := 0
deriving DecidableEq, Repr

/-- A hash-grid command (R201, R204), its configuration and registers as captured at issue (R197). -/
structure HgOp where
  agent : Nat
  unit : Nat
  grad : Bool
  cfg : HgCfg
  exec : Lanes
  /-- the position of each of the 64 lanes -/
  xs : List (Word × Word × Word)
  /-- first buffer row, for hg.enc -/
  row : Nat := 0
  /-- adds of an hg.grad not yet performed: place of the gradient word, weight, place of the source word -/
  adds : List (Nat × Word × Nat) := []
  /-- the gradients it has read: place of the source word, value, and whether the word was poisoned -/
  got : List (Nat × Word × Bool) := []
  /-- lanes whose rows an hg.enc has written -/
  done : List Nat := []
  /-- how many overwritten values `State.past` held at issue: its reads return what stood at some instant since (R202) -/
  start : Nat := 0
  tok : Nat
deriving DecidableEq, Repr

/-- A ray command (R214). -/
structure RayOp where
  agent : Nat
  unit : Nat
  occl : Bool
  dev : Nat
  asid : Nat
  exec : Lanes
  root : Nat
  /-- the eight ray registers of each lane -/
  rays : List (List Word)
  /-- place of record 0 -/
  out : Nat
  /-- lanes whose records are written -/
  done : List Nat := []
  /-- how many overwritten values `State.past` held at issue: its reads return what stood at some instant since (R211) -/
  start : Nat := 0
  tok : Nat
deriving DecidableEq, Repr

/-- A tree operation (R344 to R346): issued, then accepted whole at its engine, then complete. -/
structure TreeOp where
  agent : Nat
  unit : Nat
  dev : Nat
  asid : Nat
  /-- FN: 0 init, 1 desc, 2 exp, 3 back, 4 undo, 5 reuse, 6 free, 7 stat -/
  form : Nat
  /-- the tree reference, the words at sX + 1 and sX + 2, and Z -/
  ref : Nat
  a : Nat
  b : Nat
  z : Nat
  /-- place of the slice-space operand -/
  place : Nat
  /-- once accepted: what remains to be written and where, and the status -/
  result : Option (List (Nat × List Byte) × Nat) := none
  tok : Nat
deriving DecidableEq, Repr

/-- One core (R20, R160, R261, R317, R370, R384, R404). -/
structure Core where
  /-- the context whose units it runs (R423); 0 none -/
  asid : Nat := 0
  opb : FMap Byte := []
  wb : FMap Byte := []
  /-- accumulator a: 256 patterns, row major -/
  acc : FMap (List Word) := []
  /-- 8-byte units of the buffers, and accumulator elements, with an uncorrectable error (R196) -/
  opbPoison : List Nat := []
  wbPoison : List Nat := []
  accPoison : List Nat := []
  /-- 8-byte units of a buffer or of the accumulators with a single-bit error: 0 operand buffer, 1 weight buffer, 2
  accumulators, and the unit (R463) -/
  soft : List (Nat × Nat) := []
  recs : FMap Rec := []
  baton : Option Nat := none
  batonQ : List (Nat × BitVec 16) := []
  mq : List MEntry := []
  batches : List Batch := []
  addons : List AddOn := []
  /-- drains to tile registers whose register write is not complete: agent, batch, token -/
  tileDrains : List (Nat × Nat × Nat) := []
  /-- blocks withheld from the pool now, and blocks retired (R404) -/
  withheld : Nat := 0
  retired : Nat := 0
  /-- xreg.acq requests in order of arrival: agent, slices, mask -/
  xq : List (Nat × BitVec 16 × BitVec 4) := []
  segs : FMap CodeSeg := []
  binds : List Bind := []
  copies : List CopyCmd := []
  /-- commands with pending faults of contexts switched off the core (R314) -/
  shelved : List CopyCmd := []
  hg : List HgOp := []
  rays : List RayOp := []
  trees : List TreeOp := []
  tlb : List TlbEnt := []
  /-- units accepted and not yet started, in order of arrival (R370) -/
  arrivals : List Nat := []
  /-- cycles each pipe passed over a background candidate (R384): V0, V1, U, M, X -/
  passed : FMap Nat := []
  /-- the agent that V0 has issued in the cycle in hand, while V1 is still free in it (R21) -/
  v0 : Option Nat := none
deriving DecidableEq, Repr

/-! ## Memory: accesses that wait, views, migration -/

/-- A request for a full/empty tag (R243): a lane's, a uniform one, or a task operand's (R374). -/
inductive TagKind where
  | ff | fe | xx | ef | xf | xe
  /-- the dispatcher's read of an operand of a record in a node's bin -/
  | operand (dev node slot : Nat)
deriving DecidableEq, Repr

/-- A tag request at its home. -/
structure TagReq where
  agent : Nat
  unit : Nat
  kind : TagKind
  /-- physical address and bytes of the access -/
  addr : Nat
  bytes : Nat
  /-- data of a tag store -/
  data : Nat := 0
  /-- the registers a tag load fills, low word first -/
  regs : List Reg := []
  tok : Nat := 0
  /-- the slices of the path that issued it (R397), and the thread a trap records -/
  slices : BitVec 16 := 0
  thread : Nat := 0
  /-- ASID and VA of a main-space request (R292) -/
  va : Option (Nat × Nat) := none
  /-- the generation a main-space request is stamped with (R289) -/
  gen : Option Nat := none
  /-- the scope of its acquire, if it is one (R254) -/
  acq : Option Nat := none
deriving DecidableEq, Repr

/-- A write that is not yet visible in every view (R252). -/
structure VisW where
  agent : Nat
  core : Nat
  addr : Nat
  /-- the bytes before the write -/
  old : List Byte
  /-- the views in which it is not yet visible: 0 to 3 the dies, 4 the host, 5 + r peer device r -/
  unseen : List Nat
  /-- views in which a sobj.rel has made it visible (R263): a read of a range bound on its core returns it, one of an
  unbound range follows `unseen` alone (R264) -/
  released : List Nat := []
  /-- the place that the access named, before a migration record routed it (R296) -/
  named : Nat := 0
  /-- ASID and VA of the access, where it went through main space (R292) -/
  va : Option (Nat × Nat) := none
deriving DecidableEq, Repr

/-- The kind of one memory access of a thread (R235, R238, R246). -/
inductive MKind where
  | load
  /-- an invariant load (R237) -/
  | invariant
  | store
  | atom (aop : Nat)
  /-- a request for a tag (R243) -/
  | tag (k : TagKind)
deriving DecidableEq, Repr

/-- One element of a memory instruction: a thread's access at its physical address. -/
structure MElem where
  lane : Nat
  addr : Nat
  data : Nat := 0
  /-- compare value's partner of cas: the new value -/
  data2 : Nat := 0
  regs : List Reg := []
  /-- the thread that performs it, 64 for the group (R249), and the thread a trap records -/
  thr : Nat := 64
  thread : Nat := 0
  /-- it has arrived and stalls at a frozen page; else it is under way (R295) -/
  arrived : Bool := false
  /-- its data are poisoned (R196) -/
  bad : Bool := false
  /-- ASID and VA, where its address lies in main space (R292) -/
  va : Option (Nat × Nat) := none
deriving DecidableEq, Repr

/-- Accesses of a memory instruction that are under way to their homes (R234, R253) or wait there for a frozen page (R229,
R295). -/
structure MOp where
  agent : Nat
  unit : Nat
  core : Nat
  kind : MKind
  bytes : Nat
  elems : List MElem
  slices : BitVec 16
  tok : Nat
  /-- the scope of its acquire, if it is one (R254) -/
  acq : Option Nat := none
  /-- the batch whose drain it belongs to (R188) -/
  drain : Option Nat := none
  /-- the generation it is stamped with, where its address was translated (R289) -/
  gen : Option Nat := none
  /-- registers and values that a load's performed elements have brought, until all of them have (R233) -/
  got : List (Reg × Word) := []
deriving DecidableEq, Repr

/-- The pixel formats of ST 2110-20 that an output sends (R440). -/
inductive VideoFormat where
  | yuv422x10 | rgb8 | rgb10 | rgb12
deriving DecidableEq, Repr

/-- How an output's frames go out (R440, R473): ST 2110 format, sender type W or N, stream addresses, and the identifier of
the RTP header extension. -/
structure Stream where
  format : VideoFormat := .rgb8
  wide : Bool := false
  addrs : List Nat := []
  ext : Nat := 0
deriving DecidableEq, Repr

/-- A frame held for an output (R473, R474). -/
structure Frame where
  dev : Nat
  asid : Nat
  /-- physical address of the descriptor -/
  desc : Nat
  color : Nat
  depth : Nat
  motion : Nat
  pitch : Nat
  w : Nat
  h : Nat
  seq : Nat
  mirror : Bool
  /-- how many overwritten values `State.past` held at the post: a pixel written since is its old value or its new one (R476) -/
  start : Nat := 0
deriving DecidableEq, Repr

/-- A complete mirror of a frame of another member's output (R478): the member, its output and how that output is configured,
the frame's SEQ, the deadline at which it was sent, and its three planes. -/
structure Mirror where
  member : Nat
  out : Nat
  stream : Stream
  w : Nat
  h : Nat
  seq : Nat
  k : Nat
  color : List Word
  depth : List Word
  motion : List Word
deriving DecidableEq, Repr

/-- A frame whose transmission has begun at a deadline and spans the period that follows (R475): the member and stream that it
goes out as, the frame that the engine reads meanwhile, and the age of a substitute, 0 for a frame sent for the first time. -/
structure Sending where
  out : Nat
  k : Nat
  member : Nat
  stream : Stream
  frame : Frame
  sub : Bool
  age : Nat
deriving DecidableEq, Repr

/-- An operation of a home on an object in a frozen page, which happens once the page has thawed (R295). -/
inductive HomeOp where
  /-- a hold on a synchronization object is given up (R263, R265) -/
  | free (obj : Nat) (shared : Bool)
  /-- CTR of a level object changes by d -/
  | add (dev l : Nat) (d : Int)
  /-- CTR of a level object is set -/
  | ctr (dev l v : Nat)
  /-- bit i of a level object's FLAGS is set -/
  | flag (dev l i : Nat)
  /-- ERRCNT of a level object rises by 1 -/
  | err (dev l : Nat)
  /-- a level object is written at its opening -/
  | opens (dev asid l kind ctr flags parent budget : Nat)
  /-- the pending publication of a version object is published or withheld (R381) -/
  | version (dev off : Nat) (ok : Bool)
  /-- a present descriptor's RETIRED word is written (R476) -/
  | retire (desc v : Nat)
  /-- the planes of a frame are read, and its transmission is over (R475) -/
  | frame (x : Sending)
  /-- an entry is stored in a slot of a die's invalidation log (R286) -/
  | log (die slot w0 w1 : Nat)
deriving DecidableEq, Repr

/-- A migration record (R293). -/
structure Mig where
  idx : Nat
  asid : Nat
  va : Nat
  size : Nat
  /-- keys in the memory of source and destination frame: base of the frame, SRAM or HBM -/
  srcLoc : Bool
  src : Nat
  dstLoc : Bool
  dst : Nat
  dstKey : Nat
  srcKey : Nat
  /-- lines copied so far, in ascending order -/
  copied : Nat := 0
  dirty : List Nat := []
  /-- 0 copying, 1 frozen, 2 ready, 3 forwarding -/
  st : Nat := 0
  /-- sequence number of its invalidation, once forwarding -/
  seq : Nat := 0
  /-- names the record, and with 1 added its freeze, to a pt.fence that waits for it -/
  tok : Nat := 0
deriving DecidableEq, Repr

/-- A memory tile's sketch and candidates (R298, R299). -/
structure Gust where
  enabled : Bool := false
  area : Nat := 0
  n : Nat := 6
  interval : Nat := 0
  /-- counter row·4096 + index -/
  counters : FMap Nat := []
  cand : List (Nat × Nat) := []
  /-- steps of R299 done of a publication under way -/
  stage : Nat := 0
deriving DecidableEq, Repr

/-! ## Collectives, counted lines, tasks -/

/-- A member of a group object (R503). -/
structure Member where
  /-- device of this package, or 4 and more for a device of another package -/
  dev : Nat
  off : Nat
  unit : Option Nat := none
  ended : Bool := false
deriving DecidableEq, Repr

/-- A group object (R320). -/
structure GObj where
  m : Nat := 2
  p : Nat := 1
  members : List Member := []
  mismatch : Bool := false
  /-- an uncorrectable error in the object (R465) -/
  poisoned : Bool := false
  /-- sequence counters (R325): rank, group index, kind (0 matched, 1 send, 2 recv), partner, count -/
  seqs : List (Nat × Nat × Nat × Nat × Nat) := []
deriving DecidableEq, Repr

/-- A collective that a group has issued on an object (R325). -/
structure CollOp where
  dev : Nat
  obj : Nat
  agent : Nat
  unit : Nat
  rank : Nat
  k : Nat
  form : Nat
  peer : Nat
  et : Nat
  op : Nat
  tile : Nat
  /-- its place in the count of its kind (R325) -/
  n : Nat
  /-- the tile as read at issue -/
  data : List Word := []
  /-- physical addresses of the buffer's 64-byte lines, in order -/
  buf : List Nat := []
  /-- the ASID and VA at which a main-space buffer begins -/
  va : Option (Nat × Nat) := none
  fault : Bool := false
  bar : Option Nat := none
  /-- generation with which the translations of a main-space buffer are stamped (R289) -/
  gen : Option Nat := none
  /-- matched: the status it completes with, and what it writes -/
  result : Option (Nat × List Word) := none
  tok : Nat
deriving DecidableEq, Repr

/-- A declaration of counted lines (R328). -/
structure CntDecl where
  dev : Nat
  unit : Nat
  /-- physical address of the first line -/
  first : Nat
  lines : Nat
  /-- remaining count per line -/
  left : List Nat
  /-- triggers: unit and barrier -/
  trigs : List (Nat × Nat) := []
deriving DecidableEq, Repr

/-- A task record in a bin (R373, R374). -/
structure BinRec where
  slot : Nat
  /-- operands not yet full -/
  missing : Nat
  /-- cycle and order of its ready instant -/
  ready : Option (Nat × Nat) := none
deriving DecidableEq, Repr

/-- What the dispatcher holds of one node (R372, R375). -/
structure NodeSt where
  recs : List BinRec := []
  tail : Nat := 0
  /-- places of UPOOL whose units run, and the units -/
  running : List (Nat × Nat) := []
  /-- units it has started, and how many of them when each graph opened (R376) -/
  started : Nat := 0
  base : FMap Nat := []
  /-- waiting task.done.wait requests: agent, slices, token of the register write that waits for the count -/
  waiters : List (Nat × BitVec 16 × Nat) := []
  graph : Nat := 0
  /-- the context whose records it holds -/
  asid : Nat := 0
deriving DecidableEq, Repr

/-! ## What arrives from outside, and what leaves -/

/-- One firmware image as the trust die finds it at boot (R435): its digest, whether its signature verifies, its
security version and the fused minimum for its kind. -/
structure FwImage where
  digest : Nat
  sigOk : Bool
  version : Nat
  minimum : Nat
deriving DecidableEq, Repr

/-- A peer device's request as the data flits of a link bring it (R443, R445): the device it is for, the remote device's
identity, ASID, VA range, and the bytes to be written if it writes. How a payload encodes it the spec does not lay out
(DESIGN CHOICE, log 106). -/
structure PeerReq where
  dev : Nat
  remote : Nat
  asid : Nat
  va : Nat
  len : Nat
  data : Option (List (BitVec 8))
  /-- the mirror of a frame that the bytes written complete, if it does (R478) -/
  mirror : Option Mirror := none
deriving DecidableEq, Repr

/-- The 256 bytes of a flit that arrives on a peer port, taken apart (R444): bytes 0 to 7, its payload and its tag. -/
structure FlitIn where
  hdr : BitVec 64
  payload : Nat
  tag : Nat
deriving DecidableEq, Repr

/-! ## Contexts, devices, dies, the package -/

/-- A consumer has met an uncorrectable error without a trap (R465): the record of class ECC that is due to its context,
with the level object it names and the address. -/
structure EccDue where
  dev : Nat
  asid : Nat
  level : Nat
  addr : Nat
deriving DecidableEq, Repr

/-- The requests of a group that pre-emption withdraws and restoration reissues (R245, R265, R273, R387, R405). -/
structure Withdrawn where
  tags : List TagReq := []
  /-- slices, object, shared -/
  sobjs : List (BitVec 16 × Nat × Bool) := []
  /-- slices, block mask -/
  blocks : List (BitVec 16 × BitVec 4) := []
  /-- slices of paths that wait for the baton -/
  batons : List (BitVec 16) := []
  /-- queue, slices, entry -/
  pushes : List (Nat × BitVec 16 × List Word) := []
  /-- queue, slices, token -/
  pops : List (Nat × BitVec 16 × Nat) := []
  /-- slices, token of a waiting task.done -/
  dones : List (BitVec 16 × Nat) := []
deriving DecidableEq, Repr

/-- A unit that pre-emption saves, or has saved (R409, R410). -/
structure Saved where
  uid : Nat
  level : Nat
  /-- slot, state and withdrawn requests of every group saved so far, the steer thread included -/
  groups : List (Nat × Group × Withdrawn) := []
  /-- every group is saved -/
  complete : Bool := false
  /-- its restoration is requested (R458) -/
  restoring : Bool := false
  recs : FMap Rec := []
  opb : FMap Byte := []
  wb : FMap Byte := []
  opbPoison : List Nat := []
  wbPoison : List Nat := []
  binds : List Bind := []
  /-- VA of the save area, and offset and value of each 8-byte unit that the device wrote there (R410) -/
  area : Nat
  sealed : List (Nat × Nat) := []
deriving DecidableEq, Repr

/-- A context (R421, R423) and the control registers held per context (R429, R456). -/
structure Ctx where
  cores : List Nat := []
  trees : List Nat := []
  objs : List Nat := []
  decls : Nat := 0
  migs : List Nat := []
  /-- global offset of the job's level object -/
  job : Nat := 0
  /-- cycle of its creation: the device cycle count is counted from it (R361) -/
  cyc0 : Nat := 0
  ptroot : BitVec 64 := 0
  cpyctl : BitVec 64 := 0
  tvec : BitVec 64 := 0
  tframe : BitVec 64 := 0
  errring : BitVec 64 := 0
  errCount : Nat := 0
  errLost : Nat := 0
  cfring : BitVec 64 := 0
  cfCount : Nat := 0
  cfLost : Nat := 0
  psave : BitVec 64 := 0
  preq : BitVec 64 := 0
  pstat : Nat := 0
  halted : Bool := false
  /-- HALTED has been reported (R461) -/
  haltTold : Bool := false
  /-- it is being destroyed: its units terminate, and it goes when the last one has ended (R421, R422) -/
  dying : Bool := false
  saved : List Saved := []
deriving DecidableEq, Repr

/-- A host memory region (R442). -/
structure Region where
  asid : Nat
  va : Nat
  len : Nat
  r : Bool
  w : Bool
  rkey : Nat
deriving DecidableEq, Repr

/-- A peer export entry (R443). -/
structure Export where
  remote : Nat
  asid : Nat
  va : Nat
  len : Nat
  r : Bool
  w : Bool
deriving DecidableEq, Repr

/-- A checkpoint image in a slot of the tier (R468): its header and the bytes of SRAM, queue SRAM and HBM frames that follow,
from which `Image.byte` makes its units. -/
structure Image where
  /-- the device, as numbered in the mode -/
  dev : Nat
  mode : Nat
  /-- the HBM frames of 64 KiB in it, in ascending physical address -/
  frames : List Nat
  mem : List Host.Cell
  tags : FMap Bool
  crypt : FMap Nat
  poison : List Nat
  ctxs : FMap Ctx
  units : FMap UnitSt
  keymap : BitVec 64
  /-- the keys of the slots, which the header carries wrapped under the checkpoint key K -/
  keyInst : FMap Nat
  /-- K, by its number of generation -/
  wrapKey : Nat
  gobjs : FMap GObj
  nodes : FMap NodeSt
  levels : List (Nat × Nat)
  spent : List (Nat × Nat)
  vers : List (Nat × Nat)
  logbase : List (BitVec 64)
  /-- context and unit that took the checkpoint, the agent and the token of its status -/
  asid : Nat
  uid : Nat
  agent : Nat
  tok : Nat
  /-- cycle at which it was taken -/
  cycle : Nat
  /-- its slot, A 0 or B 1, its generation, its length in units of 1 MiB, and the number of peers of its tier (R467, R468) -/
  slot : Nat
  gen : Nat
  units1M : Nat
  peers : Nat
deriving DecidableEq, Repr

/-- What a peer of a tier holds of an image in a slot of its region, as it answers at a restore (R468, R471). -/
structure Held where
  peer : Nat
  image : Image
  /-- it holds the image's trailer -/
  trailer : Bool := true
  /-- stripes of which its unit is damaged -/
  damaged : List Nat := []
deriving DecidableEq, Repr

/-- What the next step is about: an agent's turn, or one of the table's rows without a word, with the agent, slot or
object it concerns or what arrives with it. -/
inductive Msg where
  /-- an agent's turn: it issues the next instruction of its clause, or fetches a clause -/
  | agent (a : Nat)
  /-- BACKGROUND_FORCED_ISSUE (R384) -/
  | backgroundForcedIssue (core : Nat) (pipe : Nat)
  /-- PATH_DEMOTE (R398) -/
  | pathDemote (agent : Nat)
  /-- REGISTER_WRITE_COMPLETE (R36) -/
  | registerWriteComplete (agent : Nat) (k : Nat)
  /-- MEMORY_ACCESS_PERFORM (R234) -/
  | memoryAccessPerform (k : Nat)
  /-- WRITE_VISIBLE_AT_DIE (R252) -/
  | writeVisibleAtDie (die : Nat)
  /-- HBM_SCRUB (R463) -/
  | hbmScrub (line : Nat)
  /-- COPY_RUN (R310) -/
  | copyRun (core : Nat) (slot : Nat)
  /-- CPYCTL_RESUME (R312) -/
  | cpyctlResume (dev : Nat) (asid : Nat) (tag : Nat)
  /-- CPYCTL_ABORT (R312) -/
  | cpyctlAbort (dev : Nat) (asid : Nat) (tag : Nat)
  /-- CODE_SEGMENT_LOADED (R318) -/
  | codeSegmentLoaded (core : Nat) (seg : Nat)
  /-- COLLECTIVE_COMPLETE (R325) -/
  | collectiveComplete (dev : Nat) (obj : Nat) (k : Nat)
  /-- COLL_RSET_EFFECT (R327) -/
  | collRsetEffect (dev : Nat) (obj : Nat)
  /-- ADD_ON_STORE_UPDATE (R190) -/
  | addOnStoreUpdate (k : Nat)
  /-- MATRIX_COMMAND_EFFECT (R173) -/
  | matrixCommandEffect (core : Nat)
  /-- MMA_K_STEP (R125) -/
  | mmaKStep (core : Nat)
  /-- MATRIX_BATCH_COMPLETE (R176) -/
  | matrixBatchComplete (core : Nat) (slot : Nat)
  /-- HG_ENC_COMPLETE (R207) -/
  | hgEncComplete (core : Nat) (k : Nat)
  /-- HG_GRAD_ADD (R205) -/
  | hgGradAdd (core : Nat) (k : Nat)
  /-- RAY_COMPLETE (R216) -/
  | rayComplete (core : Nat) (k : Nat)
  /-- TREE_OPERATION_COMPLETE (R346) -/
  | treeOperationComplete (core : Nat) (k : Nat)
  /-- NODE_TIMER_EXPIRY (R375) -/
  | nodeTimerExpiry (dev : Nat) (node : Nat)
  /-- BUDGET_EXPIRY (R366) -/
  | budgetExpiry (level : Nat)
  /-- LEVEL_END (R363) -/
  | levelEnd (level : Nat)
  /-- UNIT_PRELOAD (R371) -/
  | unitPreload (core : Nat)
  /-- UNIT_START (R371) -/
  | unitStart (core : Nat)
  /-- YIELD_TIMEOUT (R388) -/
  | yieldTimeout (agent : Nat)
  /-- SLEEP_END (R388) -/
  | sleepEnd (agent : Nat)
  /-- XPOOL_TAKE_EFFECT (R430) -/
  | xpoolTakeEffect (core : Nat)
  /-- PREEMPT_REQUEST (R458) -/
  | preemptRequest (dev : Nat) (asid : Nat)
  /-- RESTORE_REQUEST (R458) -/
  | restoreRequest (dev : Nat) (asid : Nat)
  /-- PREEMPT (R409) -/
  | preempt (agent : Nat)
  /-- UNIT_RESTORE (R411) -/
  | unitRestore (dev : Nat) (level : Nat)
  /-- CANCEL (R365) -/
  | cancel (agent : Nat)
  /-- PAGE_WALK (R281) -/
  | pageWalk (core : Nat) (va : Nat)
  /-- LOG_APPLY (R284) -/
  | logApply (die : Nat)
  /-- COPIER_LINE_COPY (R293) -/
  | copierLineCopy (dev : Nat) (k : Nat)
  /-- MIGRATION_RECORD_FREE (R296) -/
  | migrationRecordFree (dev : Nat) (k : Nat)
  /-- GUST_LIST_PUBLISH (R299) -/
  | gustListPublish (stack : Nat)
  /-- CONTEXT_SWITCH (R424) -/
  | contextSwitch (core : Nat) (asid : Nat)
  /-- CHECKPOINT_START (R469) -/
  | checkpointStart (dev : Nat)
  /-- CHECKPOINT_COMPLETE (R469) -/
  | checkpointComplete (dev : Nat) (complete : Bool)
  /-- POWER_ON (R435) -/
  | powerOn (images : List FwImage)
  /-- PACKAGE_RESET (R435) -/
  | packageReset (images : List FwImage)
  /-- CLOCK_LOWER (R29) -/
  | clockLower
  /-- CLOCK_RAISE (R29) -/
  | clockRaise
  /-- GET_VERSION (R437) -/
  | getVersion (port : Nat)
  /-- GET_CAPABILITIES (R437) -/
  | getCapabilities (port : Nat)
  /-- NEGOTIATE_ALGORITHMS (R437) -/
  | negotiateAlgorithms (port : Nat) (p384 : Bool) (sha384 : Bool) (ecdhe : Bool) (gcm : Bool)
  /-- GET_DIGESTS (R437) -/
  | getDigests (port : Nat)
  /-- GET_CERTIFICATE (R437) -/
  | getCertificate (port : Nat) (slot : Nat)
  /-- CHALLENGE (R437) -/
  | challenge (port : Nat) (nonce : Nat)
  /-- GET_MEASUREMENTS (R437) -/
  | getMeasurements (port : Nat) (index : Nat)
  /-- KEY_EXCHANGE (R438) -/
  | keyExchange (port : Nat) (dev : Nat)
  /-- FINISH (R438) -/
  | finish (port : Nat) (dev : Nat) (auth : Bool)
  /-- KEY_UPDATE (R446) -/
  | keyUpdate (port : Nat) (both : Bool)
  /-- HEARTBEAT (R437) -/
  | heartbeat (port : Nat)
  /-- END_SESSION (R437) -/
  | endSession (port : Nat) (dev : Nat)
  /-- FEATURE_ACCEPT (R439) -/
  | featureAccept (dev : Nat) (w0 : BitVec 128) (w1 : BitVec 128)
  /-- CTX_CREATE (R421) -/
  | ctxCreate (dev : Nat) (mode : Nat) (asid : Nat) (job : Nat) (cores : List Nat) (trees : List Nat) (objs : List Nat) (decls : Nat) (migs : List Nat)
  /-- CTX_DESTROY (R421) -/
  | ctxDestroy (dev : Nat) (asid : Nat)
  /-- LAUNCH (R502) -/
  | launch (dev : Nat) (asid : Nat) (sup : Bool) (record : Nat) (parent : Nat)
  /-- GOBJ_CREATE (R320) -/
  | gobjCreate (dev : Nat) (obj : Nat) (m : Nat) (p : Nat) (members : List (Nat × Nat))
  /-- GOBJ_DESTROY (R504) -/
  | gobjDestroy (dev : Nat) (obj : Nat)
  /-- GOBJ_REBIND (R478) -/
  | gobjRebind (dev : Nat) (obj : Nat) (rank : Nat) (mdev : Nat) (off : Nat)
  /-- KEY_INSTALL (R433) -/
  | keyInstall (dev : Nat) (slot : Nat)
  /-- KEY_ERASE (R433) -/
  | keyErase (dev : Nat) (slot : Nat)
  /-- MR_REG (R442) -/
  | mrReg (dev : Nat) (asid : Nat) (va : Nat) (len : Nat) (r : Bool) (w : Bool) (rkey : Nat)
  /-- MR_DEREG (R442) -/
  | mrDereg (dev : Nat) (rkey : Nat)
  /-- EXPORT_SET (R443) -/
  | exportSet (dev : Nat) (index : Nat) (remote : Nat) (asid : Nat) (va : Nat) (len : Nat) (r : Bool) (w : Bool)
  /-- CKPT_TIER (R467) -/
  | ckptTier (dev : Nat) (peers : List (Nat × Nat))
  /-- RESTORE (R471): the peers of the tier, K, and what the peers hold -/
  | restore (dev : Nat) (tier : List Nat) (key : Nat) (held : List Held)
  /-- CONTINUE (R461) -/
  | ctxContinue (dev : Nat) (asid : Nat)
  /-- OUTPUT_CONFIGURE (R473) -/
  | outputConfigure (dev : Nat) (out : Nat) (width : Nat) (height : Nat) (stream : Stream)
  /-- ROCE_REQUEST_PACKET (R442) -/
  | roceRequestPacket (dev : Nat) (qp : Nat) (rkey : Nat) (va : Nat) (len : Nat) (data : Option (List (BitVec 8)))
  /-- ROCE_REQUEST_PACKET of an RDMA SEND (R440) -/
  | roceSend (dev : Nat) (qp : Nat) (data : List (BitVec 8))
  /-- PEER_REQUEST (R443) -/
  | peerRequest (r : PeerReq)
  /-- PTP_MESSAGE (R440) -/
  | ptpMessage (dev : Nat) (time : Nat)
  /-- FLIT_IDLE (R444): the bytes of the flit, as of every flit below -/
  | flitIdle (port : Nat) (bytes : List (BitVec 8))
  /-- FLIT_DATA (R445), and the request that its payload completes, if any -/
  | flitData (port : Nat) (bytes : List (BitVec 8)) (carries : Option PeerReq)
  /-- FLIT_ACK (R445) -/
  | flitAck (port : Nat) (bytes : List (BitVec 8))
  /-- FLIT_SYNC (R472, R479): the sending member and its time, the takeover deadline that it names, and the one that it
  acknowledges -/
  | flitSync (port : Nat) (bytes : List (BitVec 8)) (time : Nat) (member : Nat) (takeover : Option Nat) (ack : Option Nat)
  /-- FLIT_MARKER (R446) -/
  | flitMarker (port : Nat) (bytes : List (BitVec 8))
  /-- LINK_DOWN (R445) -/
  | linkDown (port : Nat)
  /-- LINK_REOPEN (R480) -/
  | linkReopen (port : Nat)
  /-- SYNC_FLIT_SEND (R472) -/
  | syncFlitSend
  /-- LOCK_LOSS (R472) -/
  | lockLoss
  /-- MEMBER_LOST (R478) -/
  | memberLost (member : Nat)
  /-- FRAME_DEADLINE (R475) -/
  | frameDeadline
  /-- SCRUBBING (R466) -/
  | scrubbing (level : Nat)
  /-- FLIT_OTHER_TYPE (R444) -/
  | flitOtherType (port : Nat) (bytes : List (BitVec 8))
deriving DecidableEq, Repr

/-- Something that has arrived and is not yet acted on. A command message comes in an SPDM secured message (R438): its
sequence number, and whether it authenticates; nothing else uses the two. -/
structure Arrived where
  msg : Msg
  seq : Nat := 0
  auth : Bool := true
deriving DecidableEq, Repr

/-- What the package sends (R437, R441, R442, R444, R455, R475, R501). -/
inductive OutMsg where
  /-- an SPDM answer on a port: 0 the front port, 1 + n peer port n -/
  | spdm (port : Nat) (name : String) (body : List Nat)
  /-- the reply to a command of the owner session: status, and the level status of a refused LAUNCH (R501) -/
  | reply (dev status level : Nat)
  /-- an EVENT message to the owner: what it names and a number (R455, R461) -/
  | event (dev : Nat) (name : String) (n : Nat)
  /-- the answer to a RoCEv2 request: accepted with the bytes read, or a NAK (R442) -/
  | roce (dev qp : Nat) (ok : Bool) (data : List Byte)
  /-- the answer to a peer request (R443) -/
  | peer (dev : Nat) (ok : Bool) (data : List Byte)
  /-- a Delwell frame sent on a peer port (R444): its EtherType, its 8-byte frame header, whose content the spec does not
  state, and its flits of 256 bytes -/
  | delwell (port etherType : Nat) (header : List Byte) (flits : List (List Byte))
  /-- one frame of an output at deadline k (R475, R477): the member whose stream addresses it uses, its stream, and in its
  header extension SEQ, SUB and a; its colours -/
  | frame (out k : Nat) (member : Nat) (stream : Stream) (seq : Nat) (sub : Bool) (a : Nat) (pixels : List Word)
  /-- a copy of a posted frame to the buddy's mirror region (R478) -/
  | mirror (buddy : Nat) (m : Mirror)
  /-- the units of a checkpoint image that go to a peer of the tier, the q-th of them (R468, R469): byte b of the unit that it
  stores of stripe s is `Image.peerByte` -/
  | ckpt (dev peer q : Nat) (image : Image)
  /-- the checkpoint key K, to the owner inside the owner session (R468) -/
  | ckptKey (dev key : Nat)
  /-- the trailer that ends an image at a peer: generation and digest (R468) -/
  | trailer (dev peer slot gen digest : Nat)
deriving DecidableEq, Repr

/-- The owner's session with a device (R421, R438, R439). -/
structure Owner where
  sess : Bool := false
  kex : Bool := false
  /-- accepted feature words 0 and 1 (R439) -/
  accepted : Option (BitVec 128 × BitVec 128) := none
  /-- sequence numbers of the secured messages accepted in this session (R438) -/
  seqs : List Nat := []
deriving DecidableEq, Repr

/-- What a device holds (R423, R429, R432, R442, R443, R467). -/
structure Device where
  owner : Owner := {}
  /-- its owner session has ended and its storage is not yet cleared: it accepts no command (R422) -/
  wiping : Bool := false
  /-- the invalidation sequence number (R285) -/
  invSeq : Nat := 0
  xpool : Nat := 0
  /-- KEYMAP: bit 0 PLAIN, bit k slot k loaded (R429); the key each slot holds, by its number of generation -/
  keymap : BitVec 64 := 1
  keyInst : FMap Nat := []
  keyerr : Nat := 0
  gobjs : FMap GObj := []
  migs : List Mig := []
  gusts : FMap Gust := []
  regions : List Region := []
  exports : FMap Export := []
  nodes : FMap NodeSt := []
  tier : List (Nat × Nat) := []
  /-- the two image slots and which holds the newest complete image -/
  images : List Image := []
  /-- a checkpoint in progress: context, agent, unit -/
  ckpt : Option (Nat × Nat × Nat) := none
  /-- the time of the device's PTP port (R27, R440) -/
  ptp : Nat := 0
deriving DecidableEq, Repr

/-- What a die holds (R285, R289, R429, R456). -/
structure Die where
  /-- LOGBASE: V and BASE -/
  logbase : BitVec 64 := 0
  /-- generation: the sequence number of the last entry applied -/
  gen : Nat := 0
  ce : Nat := 0
  ue : Nat := 0
deriving DecidableEq, Repr

/-- A sealed flit in a replay buffer (R445). -/
structure Flit where
  num : Nat
  typ : Nat
  kg : Nat
  vc : Nat
  ackseq : Nat
  nak : Bool
  payload : Nat
  tag : Nat
deriving DecidableEq, Repr

/-- One peer port (R443 to R446). -/
structure Link where
  up : Bool := false
  txNext : Nat := 0
  rxNext : Nat := 0
  replay : List Flit := []
  /-- consecutive replays without progress -/
  replays : Nat := 0
  txKg : Nat := 0
  rxKg : Nat := 0
  /-- key numbers: the session's keys, one per direction and generation -/
  txKey : Nat := 0
  rxKey : Nat := 0
  /-- number of the first flit sealed under txKey -/
  txFrom : Nat := 0
  /-- the old key, while the receiver still holds it -/
  rxOld : Option Nat := none
  /-- last flit number sealed under the old key, while it drains -/
  drainTo : Option Nat := none
  /-- number of the marker not yet acknowledged -/
  marker : Option Nat := none
  /-- requests that accepted flits have delivered and that are not yet acted on, oldest first -/
  got : List PeerReq := []
deriving DecidableEq, Repr

/-- An SPDM responder's state on a port (R437). -/
structure Spdm where
  version : Bool := false
  caps : Bool := false
  algs : Bool := false
  kex : Bool := false
  opened : Bool := false
  keyGen : Nat := 0
deriving DecidableEq, Repr

/-- An output of the present engine (R473, R475). -/
structure Output where
  configured : Bool := false
  /-- the device whose owner has configured it -/
  dev : Nat := 0
  stream : Stream := {}
  w : Nat := 0
  h : Nat := 0
  /-- highest SEQ posted -/
  top : Option Nat := none
  /-- accepted and not sent -/
  posted : List Frame := []
  /-- the last frame sent and the deadline at which it was sent -/
  last : Option (Frame × Nat) := none
  /-- the frame that goes out in the period in hand -/
  sending : Option Sending := none
deriving DecidableEq, Repr

/-- The frame timer and the lock group (R456, R472, R479). -/
structure Timer where
  period : Nat := 16666667
  epoch : Nat := 0
  /-- values written and the number of deadlines until they take effect -/
  nextPeriod : Option (Nat × Nat) := none
  nextEpoch : Option (Nat × Nat) := none
  /-- FTLOCK without LOCKED -/
  lock : BitVec 64 := 0
  locked : Bool := false
  offset : Int := 0
  /-- consecutive exchanges within 80 ns -/
  good : Nat := 0
  /-- PTP time of the last exchange -/
  lastSync : Nat := 0
  /-- PTP time now -/
  now : Nat := 0
  /-- number of the next deadline -/
  k : Nat := 0
  /-- members of the lock group whose loss this one covers, with their outputs -/
  covering : Option Nat := none
  /-- last sync time of each member -/
  heard : FMap Nat := []
  /-- a takeover deadline acknowledged: the member that takes its outputs back, and k_T -/
  takeover : Option (Nat × Nat) := none
  /-- devices of this package that are restored replacements and have not taken their outputs over (R479) -/
  joining : List Nat := []
  /-- the takeover deadline it has named, the ports on which flits have named it, and whether the buddy has acknowledged it -/
  named : Option Nat := none
  namedBy : List Nat := []
  namedAck : Bool := false
deriving DecidableEq, Repr

/-- What the package holds once (R23, R29, R435 to R437, R472 to R479). -/
structure Pkg where
  mode : Nat := 1
  /-- the compute-die clock in MHz (R4, R29) -/
  clock : Nat := 940
  /-- dies released from reset: 0 trust, 1 port, 2 compute, 3 memory tiles (R435) -/
  released : BitVec 4 := 0
  failing : Option Nat := none
  /-- measurement slots 1 to 8 (R436) -/
  meas : FMap Nat := []
  /-- fused minimum versions, as slot 8 records them -/
  fused : List Nat := []
  spdm : FMap Spdm := []
  links : FMap Link := []
  timer : Timer := {}
  outputs : FMap Output := []
  /-- the newest complete mirror of each output of another member (R478) -/
  mirrors : List Mirror := []
  /-- an uncorrectable error in the present engine's own state (R475); no step sets it (log 66) -/
  engineFault : Bool := false
deriving DecidableEq, Repr

/-! ## The machine -/

/-- The state of one package. -/
structure State where
  /-- the agent whose turn it is: 17·core + slot, slot 16 the steer thread -/
  cur : Nat := 0
  /-- what the step in hand is about -/
  msg : Msg := .agent 0
  /-- what has arrived from outside and is not yet acted on, oldest first -/
  inbox : List Arrived := []
  /-- what the package has sent, oldest first -/
  outbox : List OutMsg := []
  /-- compute-die cycles since power-on -/
  cycle : Nat := 0
  /-- agents whose next instruction was found waiting at issue (R35, R36) since the last step that changed anything
  else (the model's own field) -/
  waits : List Nat := []
  /-- steps so far: the argument of the free values (the model's own field) -/
  count : Nat := 0
  /-- the elements of a memory instruction that this step issues and a later one performs, bit k the k-th; drawn anew for
  each step (R234, R253; the model's own field) -/
  lazy : Nat := 0
  /-- tokens and unit numbers given so far (the model's own field) -/
  tok : Nat := 1
  /-- every byte of SRAM, queue SRAM, instruction memory and HBM, in canonical form -/
  mem : List Host.Cell := []
  /-- full/empty tags of the 8-byte words of the SRAM slices: full where listed (R242) -/
  tags : FMap Bool := []
  /-- key generation under which each 16-byte block of HBM was written; 0 plaintext (R432) -/
  crypt : FMap Nat := []
  /-- poisoned 8-byte words (R463) -/
  poison : List Nat := []
  /-- soft errors not yet found: byte address, and whether it is uncorrectable (R463) -/
  latent : List (Nat × Bool) := []
  /-- transfers over the mesh or a bridge that will meet CRC failures (R464): byte address of the word whose next transfer
  does, and how often in a row -/
  crc : List (Nat × Nat) := []
  /-- records of class ECC that the step in hand owes the contexts it affects (R465), oldest first -/
  eccDue : List EccDue := []
  groups : FMap Group := []
  cores : FMap Core := []
  units : FMap UnitSt := []
  /-- contexts by 256·device + ASID; a context not listed does not exist -/
  ctxs : FMap Ctx := []
  devs : FMap Device := []
  dies : FMap Die := []
  pkg : Pkg := {}
  /-- tag requests parked at their homes, in order of arrival (R243) -/
  parked : List TagReq := []
  /-- sobj requests waiting at their homes, in order of arrival: agent, slices, object address, shared (R262) -/
  sobjQ : List (Nat × BitVec 16 × Nat × Bool) := []
  /-- writes not yet visible everywhere, the newest first (R252) -/
  vis : List VisW := []
  /-- what the bytes of memory held before each write while a launch runs, the newest first: place and bytes (R237) -/
  past : List (Nat × List Byte) := []
  /-- launches of which a unit has started: device, level object, and how many writes `past` held at that start (R237) -/
  since : List (Nat × Nat × Nat) := []
  /-- the clusters' second-level TLBs (R22, R284) -/
  tlb2 : FMap (List TlbEnt) := []
  /-- what homes owe to objects in frozen pages, oldest first (R295) -/
  owed : List HomeOp := []
  /-- accesses under way, and those that wait for a frozen page in order of arrival (R234, R295) -/
  stalled : List MOp := []
  /-- level objects that run: device and global offset, in order of opening (R361) -/
  levels : List (Nat × Nat) := []
  /-- phases whose budget has expired (R366) -/
  spent : List (Nat × Nat) := []
  /-- version objects with a pending publication (R381) -/
  vers : List (Nat × Nat) := []
  colls : List CollOp := []
  decls : List CntDecl := []
deriving DecidableEq, Repr

/-- A step stops with a fault only in a state that no run reaches. -/
inductive Fault where
  /-- exec of an encoded instruction while the current agent has no clause in progress: step never does this, since it
  decodes only words of a clause in progress. Safe: no behaviour of the hardware is left out. -/
  | noClause
  /-- the clause in progress holds words that are no instruction of the table: the check of the whole clause at its fetch
  (R41) never lets one through. Safe, as above. -/
  | badClause
  /-- exec of a row without a word while State.msg does not name that row: step never does this. Safe, as above. -/
  | noEvent
deriving DecidableEq, Repr

/-- A refusal of the model. -/
inductive Refusal where
  /-- the instruction has no meaning in the model; raised only by an arm of exec. Safe: nothing is claimed of it. -/
  | notModelled (mnemonic : String)
deriving DecidableEq, Repr

/-- The canonical form of memory: rising addresses, and no entry equal to 0, which an unlisted address reads as. -/
def memSorted : List Host.Cell → Bool
  | [] => true
  | [c] => decide (c.2 ≠ 0)
  | c :: d :: rest => decide (c.2 ≠ 0) && decide (c.1 < d.1) && memSorted (d :: rest)

/-- The memory of a state has its canonical form. -/
def Memory.wf (s : State) : Bool := memSorted s.mem

/-- The machine right after reset: the trust die has just left reset, no other die is released (R435), mode 1, no
context, no memory written, every control register at the reset value R429 and R456 give. -/
def State.reset : State := {}

end Sys2Proof.Machine
end

