-- ==== Sys2Proof/Machine/Maps.lean ====
section
/-!
DEFINITION. Finite maps in canonical order, the tile map of the package (R15, R16, R23 to R25), and the accessors of
the state's parts. A part that is not listed has its reset value.
-/
namespace Sys2Proof.Machine

/-! ## Finite maps -/

/-- The value at a key, or the default. -/
def FMap.get {α : Type} (d : α) : FMap α → Nat → α
  | [], _ => d
  | (k, v) :: t, i => if k = i then v else FMap.get d t i

/-- The value at a key, if the key is listed. -/
def FMap.find {α : Type} : FMap α → Nat → Option α
  | [], _ => none
  | (k, v) :: t, i => if k = i then some v else FMap.find t i

/-- The map with a key set. -/
def FMap.ins {α : Type} : FMap α → Nat → α → FMap α
  | [], i, x => [(i, x)]
  | (k, v) :: t, i, x =>
    if i < k then (i, x) :: (k, v) :: t else if i = k then (i, x) :: t else (k, v) :: FMap.ins t i x

/-- The map without a key. -/
def FMap.del {α : Type} (m : FMap α) (i : Nat) : FMap α := m.filter fun p => decide (p.1 ≠ i)

/-- The map with a key set, where the default is never listed. -/
def FMap.put {α : Type} [DecidableEq α] (d : α) (m : FMap α) (i : Nat) (x : α) : FMap α :=
  if x = d then m.del i else m.ins i x

/-- Setting consecutive keys from i. -/
def FMap.insAll {α : Type} (m : FMap α) : Nat → List α → FMap α
  | _, [] => m
  | i, x :: xs => FMap.insAll (m.ins i x) (i + 1) xs

/-- Insertion sort: a stable order by a given comparison. -/
def insertBy {α : Type} (le : α → α → Bool) (x : α) : List α → List α
  | [] => [x]
  | y :: t => if le x y then x :: y :: t else y :: insertBy le x t

def sortBy {α : Type} (le : α → α → Bool) : List α → List α
  | [] => []
  | x :: t => insertBy le x (sortBy le t)

/-! ## Small arithmetic -/

/-- The low n bits of an integer, as a natural number (R9). -/
def bitsOf (n : Nat) (x : Int) : Nat := (x % (pow2 n : Int)).toNat

/-- The signed value of the low n bits of a natural number (R9). -/
def sintOf (n x : Nat) : Int :=
  if x % pow2 n < pow2 (n - 1) then (x % pow2 n : Nat) else ((x % pow2 n : Nat) : Int) - (pow2 n : Int)

/-- Bit i of a number. -/
def bitAt (x i : Nat) : Bool := x.testBit i

/-- A number as n bytes, least significant first (R1). -/
def bytesOf : Nat → Nat → List Byte
  | 0, _ => []
  | n + 1, x => BitVec.ofNat 8 (x % 256) :: bytesOf n (x / 256)

/-- The number that bytes spell, least significant first (R1). -/
def ofBytes : List Byte → Nat
  | [] => 0
  | b :: t => b.toNat + 256 * ofBytes t

/-- The number of set bits among the low n. -/
def popc (n x : Nat) : Nat := ((List.range n).filter fun i => x.testBit i).length

/-- a is below b in sequence arithmetic modulo 2^32 (R286). -/
def seqBelow (a b : Nat) : Bool :=
  let d := (b + pow2 32 - a % pow2 32) % pow2 32
  decide (1 ≤ d ∧ d < pow2 31)

/-! ## The tile map (R14 to R17, R23 to R25) -/

/-- The 2 × 2 block of each cluster of a die, in row-major order (R16). -/
def clusterBlock : List Nat := [1, 2, 3, 4, 5, 6, 7, 8, 10, 11, 12, 13, 14]

/-- The tile index within its die of core index i (R15, R16). -/
def tileOfCore (i : Nat) : Nat :=
  let b := clusterBlock.getD (i / 4) 0
  let row := 2 * (b / 4) + (i % 4) / 2
  let col := 2 * (b % 4) + i % 2
  8 * row + col

/-- The tiles of bora0 to bora3 and of ete0 to ete3 within a die (R15). -/
def boraTile : List Nat := [9, 54, 34, 42]
def eteTile : List Nat := [1, 62, 35, 43]

/-- The die of a package core (R16). -/
def dieOfCore (c : Nat) : Nat := c / 52

/-- The package slice of a core's own SRAM (R15). -/
def sliceOfCore (c : Nat) : Nat := 64 * dieOfCore c + tileOfCore (c % 52)

/-- The cluster of a package core (R16). -/
def clusterOfCore (c : Nat) : Nat := 13 * (c / 52) + (c % 52) / 4

/-- Dies per device in a mode (R23). -/
def diesPer (mode : Nat) : Nat := if mode = 1 then 4 else if mode = 2 then 2 else 1

/-- The lowest-numbered die of a device (R24). -/
def firstDie (mode dev : Nat) : Nat := dev * diesPer mode

/-- The device of a die. -/
def devOfDie (mode d : Nat) : Nat := d / diesPer mode

/-- The global space of a device in bytes (R23). -/
def globalSize (mode : Nat) : Nat := diesPer mode * pow2 31

/-- The HBM size of a device (R23, R281). -/
def hbmSize (mode : Nat) : Nat := diesPer mode * 2 * pow2 36

/-- The place in memory of a device's global offset (R24): slices stand at 2^25 times their package number. -/
def gloc (mode dev off : Nat) : Nat := firstDie mode dev * pow2 31 + off

/-- The place of a byte of a core's own slice (R22). -/
def sloc (core off : Nat) : Nat := sliceOfCore core * pow2 25 + off

/-- The place of a byte of a die's queue SRAM (R22). -/
def qloc (die off : Nat) : Nat := pow2 33 + die * pow2 22 + off

/-- The place of a byte of a core's instruction memory (R20). -/
def iloc (core off : Nat) : Nat := pow2 34 + core * pow2 18 + off

/-- The place of a device physical address of HBM (R25). -/
def hloc (mode dev pa : Nat) : Nat := pow2 40 + firstDie mode dev * 2 * pow2 36 + pa

/-- The stack that holds a device physical address, as the k-th of the device (R25). -/
def stackOf (mode pa : Nat) : Nat := (pa / 4096) % (2 * diesPer mode)

/-- The package slice of a Bora engine of a device (R333). -/
def boraSlice (mode dev k : Nat) : Nat := 64 * (firstDie mode dev + k / 4) + boraTile.getD (k % 4) 0

/-- A package slice holds an Etesian tile, or a Bora tile, of its die (R15). -/
def isEteSlice (n : Nat) : Bool := eteTile.contains (n % 64)
def isBoraSlice (n : Nat) : Bool := boraTile.contains (n % 64)

/-- The cores of a device, in ascending order. -/
def coresOfDev (mode dev : Nat) : List Nat :=
  (List.range (52 * diesPer mode)).map fun i => 52 * firstDie mode dev + i

/-- The dies of a device, in ascending order. -/
def diesOfDev (mode dev : Nat) : List Nat := (List.range (diesPer mode)).map fun i => firstDie mode dev + i

/-! ## The parts of the state -/

def State.grpOf (s : State) (a : Nat) : Group := FMap.get {} s.groups a
def State.setGrpOf (s : State) (a : Nat) (g : Group) : State := { s with groups := s.groups.ins a g }
/-- The group whose turn it is. -/
def State.grp (s : State) : Group := s.grpOf s.cur
def State.setGrp (s : State) (g : Group) : State := s.setGrpOf s.cur g

/-- The core of an agent, and its slot: 16 is the steer thread. -/
def coreOf (a : Nat) : Nat := a / 17
def slotOf (a : Nat) : Nat := a % 17
def isSteer (a : Nat) : Bool := decide (slotOf a = 16)

def State.coreAt (s : State) (c : Nat) : Core := FMap.get {} s.cores c
def State.setCore (s : State) (c : Nat) (x : Core) : State := { s with cores := s.cores.ins c x }
def State.unitAt (s : State) (u : Nat) : UnitSt := FMap.get {} s.units u
def State.setUnit (s : State) (u : Nat) (x : UnitSt) : State := { s with units := s.units.ins u x }
def State.devAt (s : State) (d : Nat) : Device := FMap.get {} s.devs d
def State.setDev (s : State) (d : Nat) (x : Device) : State := { s with devs := s.devs.ins d x }
def State.dieAt (s : State) (d : Nat) : Die := FMap.get {} s.dies d
def State.setDie (s : State) (d : Nat) (x : Die) : State := { s with dies := s.dies.ins d x }
/-- The key of a context. -/
def ctxKey (dev asid : Nat) : Nat := 256 * dev + asid
def State.ctxAt (s : State) (dev asid : Nat) : Ctx := FMap.get {} s.ctxs (ctxKey dev asid)
def State.setCtx (s : State) (dev asid : Nat) (x : Ctx) : State := { s with ctxs := s.ctxs.ins (ctxKey dev asid) x }
def State.setPkg (s : State) (p : Pkg) : State := { s with pkg := p }

/-- The device mode (R23). -/
def State.mode (s : State) : Nat := s.pkg.mode

/-- The device of a core. -/
def State.devOfCore (s : State) (c : Nat) : Nat := devOfDie s.mode (dieOfCore c)

/-- The unit of an agent, and its context. -/
def State.unitOf (s : State) (a : Nat) : UnitSt := s.unitAt (s.grpOf a).unit
def State.ctxOf (s : State) (a : Nat) : Ctx := s.ctxAt (s.unitOf a).dev (s.unitOf a).asid

/-- The device cycle count of a context (R361). -/
def State.devCycle (s : State) (dev asid : Nat) : Nat := s.cycle - (s.ctxAt dev asid).cyc0

/-- The state with a message sent. -/
def State.send (s : State) (m : OutMsg) : State := { s with outbox := s.outbox ++ [m] }

/-- A fresh token. -/
def State.fresh (s : State) : Nat × State := (s.tok, { s with tok := s.tok + 1 })

end Sys2Proof.Machine
end

