-- ==== Sys2Proof/Machine/Flags.lean ====
section
/-!
DEFINITION. Number formats, rounding and the sticky flags (R99 to R128): exact values, RoundTo, the conversions, and the
functions of R147. Every operation forms its exact result and rounds it once; a result is a pattern with the flags it
raises. Modes are coded as RND: 1 RNE, 2 RTZ, 3 RUP, 4 RDN, 5 RNA, 6 stochastic.
-/
namespace Sys2Proof.Machine

/-! ## Flags (R119) -/

def fIV : BitVec 5 := 1
def fOF : BitVec 5 := 2
def fUF : BitVec 5 := 4
def fNX : BitVec 5 := 8
def fNF : BitVec 5 := 16

/-- A pattern with the flags it raises. -/
abbrev FRes := Nat × BitVec 5

/-! ## Formats (R100, R101) -/

/-- A floating-point format. `kind` 0: infinities and NaNs as IEEE 754 has them; 1: E4M3, one NaN and no infinity; 2: no
special encoding. The largest finite value is `top` times 2^`topE`. -/
structure Fmt where
  eb : Nat
  mb : Nat
  bias : Int
  kind : Nat
  top : Nat
  topE : Int
  canon : Nat
deriving DecidableEq, Repr

def fp32 : Fmt := ⟨8, 23, 127, 0, 0xFFFFFF, 104, 0x7FC00000⟩
def fp16 : Fmt := ⟨5, 10, 15, 0, 2047, 5, 0x7E00⟩
def bf16 : Fmt := ⟨8, 7, 127, 0, 255, 120, 0x7FC0⟩
def e4m3 : Fmt := ⟨4, 3, 7, 1, 14, 5, 0x7F⟩
def e5m2 : Fmt := ⟨5, 2, 15, 0, 7, 13, 0x7E⟩
def e2m3 : Fmt := ⟨2, 3, 1, 2, 15, -1, 0⟩
def e3m2 : Fmt := ⟨3, 2, 3, 2, 7, 2, 0⟩
def e2m1 : Fmt := ⟨2, 1, 1, 2, 3, 1, 0⟩

/-- The floating-point format of a conversion code 1 to 7 (R70). -/
def fmtOf (f : Nat) : Fmt :=
  match f with
  | 1 => fp16
  | 2 => bf16
  | 3 => e4m3
  | 4 => e5m2
  | 5 => e2m3
  | 6 => e3m2
  | _ => e2m1

/-- A value: NaN, infinity, or (-1)^neg · m · 2^e. -/
inductive FpNum where
  | nan (sig : Bool)
  | inf (neg : Bool)
  | fin (neg : Bool) (m : Nat) (e : Int)
deriving DecidableEq, Repr

def Fmt.width (f : Fmt) : Nat := 1 + f.eb + f.mb

/-- The value of a pattern (R100, R101). -/
def Fmt.value (f : Fmt) (b : Nat) : FpNum :=
  let m := b % pow2 f.mb
  let e := (b >>> f.mb) % pow2 f.eb
  let s := b.testBit (f.eb + f.mb)
  let ones := pow2 f.eb - 1
  if f.kind = 0 ∧ e = ones then (if m = 0 then .inf s else .nan (!m.testBit (f.mb - 1)))
  else if f.kind = 1 ∧ e = ones ∧ m = pow2 f.mb - 1 then .nan false
  else if e = 0 then .fin s m (1 - f.bias - f.mb)
  else .fin s (m + pow2 f.mb) (e - f.bias - f.mb)

def Fmt.signBit (f : Fmt) (neg : Bool) : Nat := if neg then pow2 (f.eb + f.mb) else 0
def Fmt.infBits (f : Fmt) (neg : Bool) : Nat := f.signBit neg + (pow2 f.eb - 1) * pow2 f.mb

/-- The largest finite pattern (R100). -/
def Fmt.maxBits (f : Fmt) (neg : Bool) : Nat :=
  f.signBit neg +
    (match f.kind with
     | 0 => (pow2 f.eb - 1) * pow2 f.mb - 1
     | 1 => pow2 (f.eb + f.mb) - 2
     | _ => pow2 (f.eb + f.mb) - 1)

/-- What overflow delivers (R112). -/
def Fmt.overflow (f : Fmt) (neg : Bool) : Nat :=
  match f.kind with
  | 0 => f.infBits neg
  | 1 => f.canon
  | _ => f.maxBits neg

/-- floor(log2(n / d)) for positive n and d. -/
def log2Q (n d : Nat) : Int :=
  let k : Int := (Nat.log2 n : Int) - (Nat.log2 d : Int)
  let below : Bool := if 0 ≤ k then decide (n < d <<< k.toNat) else decide (n <<< (-k).toNat < d)
  if below then k - 1 else k

/-- q = n / d rounded to an integer under a mode; `sticky` says that the exact value lies just above n / d. -/
def roundInt (mode : Nat) (neg : Bool) (n d : Nat) (sticky : Bool) (r16 : Nat) : Nat :=
  let q := n / d
  let r := n % d
  let inexact := decide (r ≠ 0) || sticky
  let more : Bool :=
    match mode with
    | 1 => decide (d < 2 * r) || (decide (d = 2 * r) && (sticky || decide (q % 2 = 1)))
    | 5 => decide (d ≤ 2 * r)
    | 2 => false
    | 3 => !neg && inexact
    | 4 => neg && inexact
    | _ => decide (65536 ≤ r * 65536 / d + r16)
  if more then q + 1 else q

/-- n / d · 2^k as a pair of naturals. -/
def scaleQ (n d : Nat) (k : Int) : Nat × Nat :=
  if 0 ≤ k then (n <<< k.toNat, d) else (n, d <<< (-k).toNat)

/-- n · 2^k above the largest finite value. -/
def Fmt.exceeds (f : Fmt) (n : Nat) (k : Int) : Bool :=
  if f.topE ≤ k then decide (f.top < n <<< (k - f.topE).toNat) else decide (f.top <<< (f.topE - k).toNat < n)

def flag (b : Bool) (x : BitVec 5) : BitVec 5 := if b then x else 0

/-- RoundTo (R111) of ± n / d (just above it with `sticky`). A zero keeps the sign given. -/
def Fmt.roundTo (f : Fmt) (mode : Nat) (sat : Bool) (neg : Bool) (n d : Nat) (sticky : Bool) (r16 : Nat) : FRes :=
  if n = 0 ∧ sticky = false then (f.signBit neg, 0)
  else
    let emin : Int := 1 - f.bias
    let e := max (log2Q n d) emin
    let (a, b) := scaleQ n d (f.mb - e)
    let k := roundInt mode neg a b sticky r16
    let nx := decide (a % b ≠ 0) || sticky || decide (k * b ≠ a)
    let tiny := decide (e = emin ∧ k < pow2 f.mb)
    if f.exceeds k (e - f.mb) then
      let toMax := sat || decide (mode = 2) || (decide (mode = 3) && neg) || (decide (mode = 4) && !neg)
      (if toMax then f.maxBits neg else f.overflow neg, fOF ||| fNX)
    else
      let bits :=
        if k < pow2 f.mb then k
        else if k = pow2 (f.mb + 1) then (e + 1 + f.bias).toNat * pow2 f.mb
        else (e + f.bias).toNat * pow2 f.mb + (k - pow2 f.mb)
      (f.signBit neg + bits, flag nx fNX ||| flag (nx && tiny) fUF)

/-! ## Exact sums and products -/

def FpNum.neg : FpNum → FpNum
  | .nan s => .nan s
  | .inf b => .inf (!b)
  | .fin b m e => .fin (!b) m e
def FpNum.abs : FpNum → FpNum
  | .nan s => .nan s
  | .inf _ => .inf false
  | .fin _ m e => .fin false m e
def FpNum.isNan : FpNum → Bool
  | .nan _ => true
  | _ => false
def FpNum.isSig : FpNum → Bool
  | .nan s => s
  | _ => false
def FpNum.isNeg : FpNum → Bool
  | .inf b => b
  | .fin b _ _ => b
  | .nan _ => false
def FpNum.isZero : FpNum → Bool
  | .fin _ 0 _ => true
  | _ => false
def FpNum.isInf : FpNum → Bool
  | .inf _ => true
  | _ => false

/-- A finite value times 2^k (R61). -/
def FpNum.scale (k : Int) : FpNum → FpNum
  | .fin b m e => .fin b m (e + k)
  | x => x

/-- The exact product; none where it is invalid (0 × ∞). -/
def FpNum.mul : FpNum → FpNum → Option FpNum
  | .nan s, .nan t => some (.nan (s || t))
  | .nan s, _ => some (.nan s)
  | _, .nan s => some (.nan s)
  | .inf a, .inf b => some (.inf (a != b))
  | .inf a, .fin b m _ => if m = 0 then none else some (.inf (a != b))
  | .fin a m _, .inf b => if m = 0 then none else some (.inf (a != b))
  | .fin a m e, .fin b n k => some (.fin (a != b) (m * n) (e + k))

/-- m · 2^(e - lo), signed. -/
def signedAt (lo : Int) (neg : Bool) (m : Nat) (e : Int) : Int :=
  let v : Int := ((m <<< (e - lo).toNat : Nat) : Int)
  if neg then -v else v

/-- The exact sum of finite terms; a zero takes its sign by R144: the common sign of the terms when all are zeros of one
sign, else + except under RDN. -/
def sumFin (rdn : Bool) (ts : List (Bool × Nat × Int)) : FpNum :=
  let lo := ts.foldl (fun m t => if t.2.1 = 0 then m else min m t.2.2) 1024
  let v : Int := ts.foldl (fun s t => if t.2.1 = 0 then s else s + signedAt lo t.1 t.2.1 t.2.2) 0
  if v = 0 then
    let neg :=
      if ts.all fun t => decide (t.2.1 = 0) && t.1 then true
      else if ts.all fun t => decide (t.2.1 = 0) && !t.1 then false
      else rdn
    .fin neg 0 0
  else .fin (decide (v < 0)) v.natAbs lo

/-- The exact sum of values; none where it is invalid (∞ − ∞). A NaN term goes before an invalid sum of the others (DESIGN
CHOICE, log 111). -/
def sumNum (rdn : Bool) (ts : List FpNum) : Option FpNum :=
  if ts.any FpNum.isNan then some (.nan (ts.any FpNum.isSig))
  else
    let infs := ts.filter FpNum.isInf
    match infs with
    | i :: t => if t.all fun j => decide (j = i) then some i else none
    | [] => some (sumFin rdn (ts.map fun t => match t with
        | .fin b m e => (b, m, e)
        | _ => (false, 0, 0)))

/-- Rounds a value to a format; specials by R113. `sat` is RoundTo's argument. -/
def Fmt.ofNum (f : Fmt) (mode : Nat) (sat : Bool) (r16 : Nat) : FpNum → FRes
  | .nan s => match f.kind with
    | 2 => (0, fIV)
    | _ => (f.canon, flag s fIV)
  | .inf b => match f.kind with
    | 0 => (f.infBits b, 0)
    | 1 => (if sat then f.maxBits b else f.canon, fIV)
    | _ => (f.maxBits b, fIV)
  | .fin b m e => let q := scaleQ m 1 e; f.roundTo mode sat b q.1 q.2 false r16

/-- A pattern of the format is an infinity or a NaN. -/
def Fmt.nonFinite (f : Fmt) (b : Nat) : Bool :=
  match f.value b with
  | .fin _ _ _ => false
  | _ => true

/-- The clamp of SAT for floating arithmetic (R132): NaN and values below +0 give +0, values above 1 give 1. -/
def Fmt.clamp01 (f : Fmt) (b : Nat) : Nat :=
  let one := f.bias.toNat * pow2 f.mb
  match f.value b with
  | .nan _ => 0
  | .inf s => if s then 0 else one
  | .fin s _ _ => if s then 0 else if b > one then one else b

/-- Reads an FP32 source under FTZ (R118). -/
def readF32 (ftz : Bool) (w : Word) : FpNum :=
  match fp32.value w.toNat with
  | .fin s m e => if ftz && decide (m < pow2 23) then .fin s 0 e else .fin s m e
  | x => x

/-- Delivers an FP32 result under FTZ (R118), NF added (R119). -/
def deliverF32 (ftz : Bool) (r : FRes) : FRes :=
  let mag := r.1 % pow2 31
  let (b, fl) := if ftz && decide (mag ≠ 0 ∧ mag < pow2 23) then (r.1 - mag, r.2 ||| fUF ||| fNX) else r
  (b, fl ||| flag (fp32.nonFinite b) fNF)

/-! ## The lane operations -/

/-- Rounds an exact sum or product, or delivers the canonical NaN for an invalid one; SAT and SCL as R132 and R61 have
them; NF for a non-finite delivery. Not for FP32 results, which FTZ concerns. -/
def Fmt.finish (f : Fmt) (mode : Nat) (sat : Bool) (scl : Int) (r16 : Nat) (sig : Bool) (x : Option FpNum) : FRes :=
  let (b, fl) : FRes := match x with
    | none => (f.canon, fIV)
    | some v => f.ofNum mode false r16 (v.scale scl)
  let b := if sat then f.clamp01 b else b
  (b, fl ||| flag sig fIV ||| flag (f.nonFinite b) fNF)

/-- The same for an FP32 result of the V and U pipes. The flags are those of the rounding: the clamp of SAT adds no NX
(DEDUCED, log 97). -/
def finish32 (ftz : Bool) (mode : Nat) (sat : Bool) (scl : Int) (r16 : Nat) (sig : Bool) (x : Option FpNum) : FRes :=
  let (b, fl) : FRes := match x with
    | none => (fp32.canon, fIV)
    | some v => fp32.ofNum mode false r16 (v.scale scl)
  let b := if sat then fp32.clamp01 b else b
  deliverF32 ftz (b, fl ||| flag sig fIV)

/-- a × b + c with one rounding to come (R144): none where invalid. A NaN source comes before an invalid product. -/
def fmaNum (rdn : Bool) (a b c : FpNum) : Option FpNum :=
  if a.isNan || b.isNan || c.isNan then some (.nan (a.isSig || b.isSig || c.isSig))
  else
    match a.mul b with
    | none => none
    | some p => sumNum rdn [p, c]

/-- a0 × b0 + a1 × b1 + c (R123): an invalid product is invalid whatever the other terms are. -/
def dotNum (rdn : Bool) (a0 b0 a1 b1 c : FpNum) : Option FpNum :=
  match a0.mul b0, a1.mul b1 with
  | some p, some q => sumNum rdn [p, q, c]
  | _, _ => none

/-- a < b, for values that are not NaN; −0 equals +0. -/
def FpNum.lt : FpNum → FpNum → Bool
  | .inf a, .inf b => a && !b
  | .inf a, .fin _ _ _ => a
  | .fin _ _ _, .inf b => !b
  | .fin a m e, .fin b n k =>
    let lo := min e k
    decide (signedAt lo a m e < signedAt lo b n k)
  | _, _ => false

def FpNum.eqv (a b : FpNum) : Bool := !a.isNan && !b.isNan && !a.lt b && !b.lt a

/-- The order of fmin and fmax: −0 below +0 (R145). -/
def FpNum.below (a b : FpNum) : Bool := a.lt b || (a.isZero && b.isZero && a.isNeg && !b.isNeg)

/-- fmin or fmax (R145): the pattern of one source, unrounded; a source read as zero under FTZ is delivered as it. -/
def minMax (f : Fmt) (least : Bool) (a b : FpNum) : FRes :=
  let enc (x : FpNum) : Nat := (f.ofNum 1 false 0 x).1
  let iv := flag (a.isSig || b.isSig) fIV
  let r :=
    if a.isNan && b.isNan then f.canon
    else if a.isNan then enc b
    else if b.isNan then enc a
    else if least then (if b.below a then enc b else enc a)
    else (if a.below b then enc b else enc a)
  (r, iv ||| flag (f.nonFinite r) fNF)

/-- The five compares (R146): 0 feq, 1 fne, 2 flt, 3 fle, 4 funo. -/
def fcompare (k : Nat) (a b : FpNum) : Bool × BitVec 5 :=
  let un := a.isNan || b.isNan
  let iv := if k = 4 then 0 else flag (a.isSig || b.isSig) fIV
  (match k with
   | 0 => !un && a.eqv b
   | 1 => un || !a.eqv b
   | 2 => !un && a.lt b
   | 3 => !un && (a.lt b || a.eqv b)
   | _ => un, iv)

/-! ## The functions of R147, correctly rounded -/

/-- The integer square root, bit by bit from bit n − 1. -/
def isqrt (x : Nat) : Nat → Nat → Nat
  | 0, r => r
  | n + 1, r => isqrt x n (if (r + 1 <<< n) * (r + 1 <<< n) ≤ x then r + 1 <<< n else r)

/-- Working precision of the fixed-point evaluations, in bits. -/
def prec : Nat := 400

/-- π · 2^640 and ln 2 · 2^480, cut. -/
def piBits : Nat :=
  0x3243f6a8885a308d313198a2e03707344a4093822299f31d0082efa98ec4e6c89452821e638d01377be5466cf34e90c6cc0ac29b7c97c50dd3f84d5b5b54709179216d5d98979fb1bd1310ba698dfb5ac
def ln2Bits : Nat :=
  0xb17217f7d1cf79abc9e3b39803f2f6af40f343267298b62d8a0d175b8baafa2be7b876206debac98559552fb4afa1b10ed2eae35c138214427573b29

/-- Σ x^k/k! from term k on, in fixed point at `prec`; t is the term before. -/
def expTerms (x : Nat) : Nat → Nat → Nat → Nat
  | 0, _, _ => 0
  | fuel + 1, k, t => let u := ((t * x) >>> prec) / k; u + expTerms x fuel (k + 1) u

/-- 2^(f / 2^prec) in fixed point, for 0 ≤ f < 2^prec. -/
def exp2Frac (f : Nat) : Nat :=
  let x := (f * (ln2Bits >>> (480 - prec))) >>> prec
  (1 <<< prec) + expTerms x 110 1 (1 <<< prec)

/-- Σ z^(2k+1)/(2k+1), in fixed point; p is z^(2k+1). -/
def atanhTerms (z2 : Nat) : Nat → Nat → Nat → Nat
  | 0, _, _ => 0
  | fuel + 1, k, p => p / (2 * k + 1) + atanhTerms z2 fuel (k + 1) ((p * z2) >>> prec)

/-- log2(n / d) in fixed point, for 1 ≤ n / d < 2. -/
def log2Frac (n d : Nat) : Nat :=
  let z := ((n - d) <<< prec) / (n + d)
  let l := 2 * atanhTerms ((z * z) >>> prec) 130 0 z
  (l <<< prec) / (ln2Bits >>> (480 - prec))

/-- Σ ± r^k/k! with k rising by 2, in fixed point. -/
def trigTerms (r2 : Nat) : Nat → Nat → Nat → Bool → Int → Int
  | 0, _, _, _, s => s
  | fuel + 1, k, t, neg, s =>
    let u := ((t * r2) >>> prec) / ((k + 1) * (k + 2))
    trigTerms r2 fuel (k + 2) u (!neg) (if neg then s + (u : Int) else s - (u : Int))

/-- The sine (cos = false) or cosine of r in [0, π/2], in fixed point at `prec`. -/
def trigFix (cos : Bool) (r : Nat) : Int :=
  let r2 := (r * r) >>> prec
  if cos then trigTerms r2 60 0 (1 <<< prec) false (1 <<< prec : Nat)
  else trigTerms r2 60 1 r false (r : Nat)

/-- sin or cos of a positive finite n / d: sign and magnitude in fixed point. -/
def trigOf (cos : Bool) (n d : Nat) : Bool × Nat :=
  let x := (n <<< 640) / d
  let half := piBits / 2
  let k := x / half
  let r := (x % half) >>> (640 - prec)
  let v := match k % 4, cos with
    | 0, false => trigFix false r
    | 1, false => trigFix true r
    | 2, false => -trigFix false r
    | _, false => -trigFix true r
    | 0, true => trigFix true r
    | 1, true => -trigFix false r
    | 2, true => -trigFix true r
    | _, true => trigFix false r
  (decide (v < 0), v.natAbs)

/-- An exact or an approached magnitude: sign, n, d, and whether the exact value lies just above n / d. -/
structure Mag where
  neg : Bool
  n : Nat
  d : Nat
  sticky : Bool

/-- The exact value of a function of R147 at a finite source that the table of R147 leaves to the rule: m · 2^e, m > 0.
Codes: 0 frcp, 1 frsq, 2 fsqrt, 3 fex2, 4 flg2, 5 fsin, 6 fcos. -/
def funMag (code : Nat) (neg : Bool) (m : Nat) (e : Int) : Mag :=
  let q := scaleQ m 1 e
  match code with
  | 0 => ⟨neg, q.2, q.1, false⟩
  | 1 =>
    let x := (q.2 <<< 400) / q.1
    let r := isqrt x 320 0
    ⟨false, r, 1 <<< 200, !(decide (r * r * q.1 = q.2 <<< 400))⟩
  | 2 =>
    let x := (q.1 <<< 400) / q.2
    let r := isqrt x 320 0
    ⟨false, r, 1 <<< 200, !(decide (r * r * q.2 = q.1 <<< 400))⟩
  | 3 =>
    if q.1 / q.2 ≥ 1024 then (if neg then ⟨false, 1, 1 <<< 1000, false⟩ else ⟨false, 1 <<< 1000, 1, false⟩)
    else
      let w := q.1 / q.2
      let r := q.1 % q.2
      if r = 0 then (if neg then ⟨false, 1, 1 <<< w, false⟩ else ⟨false, 1 <<< w, 1, false⟩)
      else
        let f := (r <<< prec) / q.2
        if neg then ⟨false, exp2Frac ((1 <<< prec) - f), 1 <<< (prec + w + 1), true⟩
        else ⟨false, exp2Frac f <<< w, 1 <<< prec, true⟩
  | 4 =>
    let k := log2Q q.1 q.2
    let (a, b) := scaleQ q.1 q.2 (-k)
    let v : Int := k * ((1 <<< prec : Nat) : Int) + (if a = b then 0 else (log2Frac a b : Int))
    ⟨decide (v < 0), v.natAbs, 1 <<< prec, decide (a ≠ b)⟩
  | 5 =>
    if q.1 <<< 60 < q.2 then ⟨neg, q.1 * ((1 <<< 200) - 1), q.2 <<< 200, true⟩
    else let t := trigOf false q.1 q.2; ⟨t.1 != neg, t.2, 1 <<< prec, true⟩
  | _ =>
    let t := trigOf true q.1 q.2; ⟨t.1, t.2, 1 <<< prec, true⟩

/-- A special result, or the magnitude to round (the table of R147). -/
inductive FunVal where
  | spec (bits : Nat) (fl : BitVec 5)
  | mag (m : Mag)

def funVal (code : Nat) (a : FpNum) : FunVal :=
  let inf (neg : Bool) : Nat := fp32.infBits neg
  let zero (neg : Bool) : Nat := fp32.signBit neg
  match a with
  | .nan s => .spec fp32.canon (flag s fIV)
  | .inf neg =>
    match code, neg with
    | 0, _ => .spec (zero neg) 0
    | 1, false => .spec (zero false) 0
    | 2, false => .spec (inf false) 0
    | 3, false => .spec (inf false) 0
    | 3, true => .spec (zero false) 0
    | 4, false => .spec (inf false) 0
    | _, _ => .spec fp32.canon fIV
  | .fin neg m e =>
    if m = 0 then
      match code with
      | 0 => .spec (inf neg) 0
      | 1 => .spec (inf neg) 0
      | 2 => .spec (zero neg) 0
      | 3 => .mag ⟨false, 1, 1, false⟩
      | 4 => .spec (inf true) 0
      | 5 => .spec (zero neg) 0
      | _ => .mag ⟨false, 1, 1, false⟩
    else if neg && (decide (code = 1) || decide (code = 2) || decide (code = 4)) then .spec fp32.canon fIV
    else .mag (funMag code neg m e)

/-- A function of R147 of a source already taken after ABSA and NEGA. -/
def funOp (code : Nat) (ftz : Bool) (mode : Nat) (sat : Bool) (scl : Int) (r16 : Nat) (a : FpNum) : FRes :=
  let (b, fl) : FRes :=
    match funVal code a with
    | .spec b fl => (b, fl)
    | .mag m =>
      let q := scaleQ m.n m.d scl
      fp32.roundTo mode false m.neg q.1 q.2 m.sticky r16
  deliverF32 ftz (if sat then fp32.clamp01 b else b, fl)

/-- ffrac (R148). -/
def ffracOp (ftz : Bool) (mode : Nat) (sat : Bool) (scl : Int) (r16 : Nat) (a : FpNum) : FRes :=
  let (b, fl) : FRes :=
    match a with
    | .nan s => (fp32.canon, flag s fIV)
    | .inf _ => (0, 0)
    | .fin neg m e =>
      let q := scaleQ m 1 e
      let r := q.1 % q.2
      let n := if neg && decide (r ≠ 0) then q.2 - r else r
      let p := scaleQ n q.2 scl
      fp32.roundTo mode false false p.1 p.2 false r16
  deliverF32 ftz (if sat then fp32.clamp01 b else b, fl)

/-- fround (R148): an integral value under the mode, the source's sign kept on a zero; only IV, NF, and the flags of an
overflow of the scaled value. -/
def froundOp (mode : Nat) (sat : Bool) (scl : Int) (r16 : Nat) (a : FpNum) : FRes :=
  let (b, fl) : FRes :=
    match a with
    | .nan s => (fp32.canon, flag s fIV)
    | .inf neg => (fp32.infBits neg, 0)
    | .fin neg m e =>
      let q := scaleQ m 1 (e + scl)
      let n := roundInt mode neg q.1 q.2 false r16
      fp32.roundTo mode false neg n 1 false r16
  let b := if sat then fp32.clamp01 b else b
  (b, fl ||| flag (fp32.nonFinite b) fNF)

/-- fclass (R148), on raw bits. -/
def fclassOp (w : Word) : Nat :=
  match fp32.value w.toNat with
  | .nan s => if s then 1 else 2
  | .inf neg => if neg then 4 else 512
  | .fin neg m _ =>
    if m = 0 then (if neg then 32 else 64)
    else if m < pow2 23 then (if neg then 16 else 128)
    else (if neg then 8 else 256)

/-! ## Conversions (R104, R113 to R115, R149) -/

/-- Width and signedness of an integer conversion format 9 to 14 (R70). -/
def intFmt (f : Nat) : Nat × Bool :=
  match f with
  | 9 => (32, true)
  | 10 => (32, false)
  | 11 => (16, true)
  | 12 => (16, false)
  | 13 => (8, true)
  | _ => (8, false)

/-- A value to an integer format (R114), placed in a register (R104). -/
def toInt (f mode r16 : Nat) (a : FpNum) : FRes :=
  let (w, sg) := intFmt f
  let lo : Int := if sg then -((pow2 (w - 1) : Nat) : Int) else 0
  let hi : Int := if sg then ((pow2 (w - 1) : Nat) : Int) - 1 else ((pow2 w : Nat) : Int) - 1
  match a with
  | .nan _ => (0, fIV)
  | .inf neg => (bitsOf 32 (if neg then lo else hi), fIV)
  | .fin neg m e =>
    let q := scaleQ m 1 e
    let k := roundInt mode neg q.1 q.2 false r16
    let v : Int := if neg then -(k : Int) else (k : Int)
    if v < lo then (bitsOf 32 lo, fIV)
    else if hi < v then (bitsOf 32 hi, fIV)
    else (bitsOf 32 v, flag (decide (k * q.2 ≠ q.1)) fNX)

/-- FP32 to E8M0 (R115). -/
def toE8M0 (mode r16 : Nat) (a : FpNum) : FRes :=
  match a with
  | .nan _ => (0xFF, fIV)
  | .inf _ => (0xFF, fIV)
  | .fin _ m e =>
    let q := scaleQ m 1 e
    let k := log2Q q.1 q.2
    if m = 0 ∨ k < -127 then (0, fUF ||| fNX)
    else
      let p := scaleQ q.1 q.2 (-k)
      let exact := decide (p.1 = p.2)
      let up : Bool :=
        if exact then false
        else match mode with
          | 1 => decide (3 * p.2 ≤ 2 * p.1)
          | 5 => decide (3 * p.2 ≤ 2 * p.1)
          | 3 => true
          | 6 => decide (65536 ≤ (p.1 - p.2) * 65536 / p.2 + r16)
          | _ => false
      let c := if up then k + 1 else k
      if 127 < c then (0xFE, fOF ||| fNX)
      else ((c + 127).toNat, flag (!exact) fNX)

/-- The exact value of a source in conversion format f (R104); 0 stands for FP32 read under FTZ. -/
def cvtSource (f : Nat) (w : Word) : FpNum :=
  if f ≤ 7 then (fmtOf f).value (w.toNat % pow2 (fmtOf f).width)
  else if f = 8 then
    let x := w.toNat % 256
    if x = 255 then .nan false else .fin false 1 ((x : Int) - 127)
  else
    let (wd, sg) := intFmt f
    let v : Int := if sg then sintOf wd w.toNat else ((w.toNat % pow2 wd : Nat) : Int)
    .fin (decide (v < 0)) v.natAbs 0

/-- cvt.F.f32: FP32 to format f. -/
def cvtFrom (f mode : Nat) (sat : Bool) (scl : Int) (r16 : Nat) (a : FpNum) : FRes :=
  let x := a.scale scl
  if f ≤ 7 then
    let r := (fmtOf f).ofNum mode sat r16 x
    (r.1, r.2 ||| flag ((fmtOf f).nonFinite r.1) fNF)
  else if f = 8 then
    let r := toE8M0 mode r16 x
    (r.1, r.2 ||| flag (decide (r.1 = 255)) fNF)
  else toInt f mode r16 x

/-- cvt.f32.F: a value to FP32. -/
def cvtTo (ftz : Bool) (mode : Nat) (sat : Bool) (scl : Int) (r16 : Nat) (a : FpNum) : FRes :=
  deliverF32 ftz (fp32.ofNum mode sat r16 (a.scale scl))

/-! ## Generators (R116) -/

/-- One advance of a generator. -/
def advGen (g : Word) : Word :=
  let g := g ^^^ (g <<< 13)
  let g := g ^^^ (g >>> 17)
  g ^^^ (g <<< 5)

/-- What Rand16 returns after an advance. -/
def rand16 (g : Word) : Nat := nbits g.toNat 31 16

/-- The seed of generator n of group k of unit u (R116). -/
def genSeed (seed : Word) (u k n : Nat) : Word :=
  let g := seed ^^^ BitVec.ofNat 32 ((64 * 65 * u + 65 * k + n + 1) * 0x9E3779B1)
  if g = 0 then 1 else g

/-- The seed of the drain generator of group k of unit u (R192). -/
def drainSeed (seed : Word) (u k : Nat) : Word :=
  let g := seed ^^^ BitVec.ofNat 32 ((65 * 64 * u + 65 * k + 65) * 0xC2B2AE3D)
  if g = 0 then 1 else g

/-! ## Sums of engines and homes -/

/-- RoundTo(x + y) under RNE with subnormals kept and no flag (R238, R240, R308, R324). -/
def Fmt.addRne (f : Fmt) (x y : Nat) : Nat :=
  (f.finish 1 false 0 0 false (sumNum false [f.value x, f.value y])).1

/-- The same for each half of a packed word. -/
def addHalves (f : Fmt) (x y : Nat) : Nat :=
  f.addRne (x % 65536) (y % 65536) + 65536 * f.addRne (x / 65536 % 65536) (y / 65536 % 65536)

/-- A block scale and its elements (R109): RNE with saturation, no flag. -/
def blockScale (f : Fmt) (emax : Int) (vs : List FpNum) : Nat × List Nat :=
  if vs.any fun v => v.isNan || v.isInf then (0xFF, vs.map fun _ => 0)
  else
    let logs := vs.filterMap fun v => match v with
      | .fin _ m e => if m = 0 then none else some ((Nat.log2 m : Int) + e)
      | _ => none
    match logs with
    | [] => (127, vs.map fun v => f.signBit v.isNeg)
    | l :: t =>
      let k := t.foldl max l
      let x : Int := max 0 (min 254 (k - emax + 127))
      (x.toNat, vs.map fun v => (f.ofNum 1 true 0 (v.scale (127 - x))).1)

end Sys2Proof.Machine
end

