-- ==== Sys2Proof/Decode.lean ====
section
/-!
DEFINITION. The decoder and the encoder, both written from the encoding tables of files 02 and 03 (R31, R58 to R64,
R66 to R74) as spec/opcode_table.json collects them. A word that no row of the table matches is refused (R65, R66).
-/
namespace Sys2Proof

/-- The field of width w whose lowest bit is bit lo of x. -/
def fld (w lo x : Nat) : BitVec w := BitVec.ofNat w (x >>> lo)


/-- The instruction that one word of a major from 0x00 to 0x0F means (R58, R59, R60, R63, R64, R66). -/
def decodeOp0 (op x : Nat) : Option Instr :=
  match op with
  | 0x01 =>
    if nbits x 24 0 = 0 then some .nop
    else none
  | 0x02 =>
    some (.br (fld 4 21 x) (fld 1 20 x) (fld 20 0 x))
  | 0x03 =>
    some (.call (fld 4 21 x) (fld 1 20 x) (fld 20 0 x))
  | 0x04 =>
    if nbits x 24 20 = 0 ∧ nbits x 13 0 = 0 then some (.jr (fld 6 14 x))
    else if nbits x 24 0 = 1048576 then some .ret
    else none
  | 0x05 =>
    if nbits x 24 20 = 0 ∧ nbits x 13 1 = 0 then some (.jf (fld 6 14 x) (fld 1 0 x))
    else none
  | 0x06 =>
    if nbits x 24 0 = 0 then some .exit
    else none
  | 0x07 =>
    if nbits x 3 0 = 0 then some (.modPrefix (fld 8 17 x) (fld 3 14 x) (fld 1 13 x) (fld 1 12 x) (fld 1 11 x) (fld 1 10 x) (fld 1 9 x) (fld 1 8 x) (fld 4 4 x))
    else none
  | 0x08 =>
    some (.iadd (fld 1 24 x) (fld 8 16 x) (fld 8 8 x) (fld 8 0 x))
  | 0x09 =>
    some (.isub (fld 1 24 x) (fld 8 16 x) (fld 8 8 x) (fld 8 0 x))
  | 0x0A =>
    some (.imul (fld 1 24 x) (fld 8 16 x) (fld 8 8 x) (fld 8 0 x))
  | 0x0B =>
    some (.imulhs (fld 1 24 x) (fld 8 16 x) (fld 8 8 x) (fld 8 0 x))
  | 0x0C =>
    some (.imulhu (fld 1 24 x) (fld 8 16 x) (fld 8 8 x) (fld 8 0 x))
  | 0x0D =>
    some (.imad (fld 1 24 x) (fld 8 16 x) (fld 8 8 x) (fld 8 0 x))
  | 0x0E =>
    some (.imin (fld 1 24 x) (fld 8 16 x) (fld 8 8 x) (fld 8 0 x))
  | 0x0F =>
    some (.imax (fld 1 24 x) (fld 8 16 x) (fld 8 8 x) (fld 8 0 x))
  | _ => none

/-- The instruction that one word of a major from 0x10 to 0x1F means (R58, R59, R60, R63, R64, R66). -/
def decodeOp1 (op x : Nat) : Option Instr :=
  match op with
  | 0x10 =>
    some (.umin (fld 1 24 x) (fld 8 16 x) (fld 8 8 x) (fld 8 0 x))
  | 0x11 =>
    some (.umax (fld 1 24 x) (fld 8 16 x) (fld 8 8 x) (fld 8 0 x))
  | 0x12 =>
    some (.and (fld 1 24 x) (fld 8 16 x) (fld 8 8 x) (fld 8 0 x))
  | 0x13 =>
    some (.or (fld 1 24 x) (fld 8 16 x) (fld 8 8 x) (fld 8 0 x))
  | 0x14 =>
    some (.xor (fld 1 24 x) (fld 8 16 x) (fld 8 8 x) (fld 8 0 x))
  | 0x15 =>
    some (.andn (fld 1 24 x) (fld 8 16 x) (fld 8 8 x) (fld 8 0 x))
  | 0x16 =>
    some (.shl (fld 1 24 x) (fld 8 16 x) (fld 8 8 x) (fld 8 0 x))
  | 0x17 =>
    some (.shr (fld 1 24 x) (fld 8 16 x) (fld 8 8 x) (fld 8 0 x))
  | 0x18 =>
    some (.sar (fld 1 24 x) (fld 8 16 x) (fld 8 8 x) (fld 8 0 x))
  | 0x19 =>
    some (.bfe (fld 1 24 x) (fld 8 16 x) (fld 8 8 x) (fld 8 0 x))
  | 0x1A =>
    some (.bfi (fld 1 24 x) (fld 8 16 x) (fld 8 8 x) (fld 8 0 x))
  | 0x1B =>
    some (.sel (fld 1 24 x) (fld 8 16 x) (fld 8 8 x) (fld 8 0 x))
  | 0x1C =>
    some (.iadd64 (fld 1 24 x) (fld 8 16 x) (fld 8 8 x) (fld 8 0 x))
  | 0x1D =>
    some (.ieq (fld 1 24 x) (fld 8 16 x) (fld 8 8 x) (fld 8 0 x))
  | 0x1E =>
    some (.ine (fld 1 24 x) (fld 8 16 x) (fld 8 8 x) (fld 8 0 x))
  | 0x1F =>
    some (.ilt (fld 1 24 x) (fld 8 16 x) (fld 8 8 x) (fld 8 0 x))
  | _ => none

/-- The instruction that one word of a major from 0x20 to 0x2F means (R58, R59, R60, R63, R64, R66). -/
def decodeOp2 (op x : Nat) : Option Instr :=
  match op with
  | 0x20 =>
    some (.ile (fld 1 24 x) (fld 8 16 x) (fld 8 8 x) (fld 8 0 x))
  | 0x21 =>
    some (.ult (fld 1 24 x) (fld 8 16 x) (fld 8 8 x) (fld 8 0 x))
  | 0x22 =>
    some (.ule (fld 1 24 x) (fld 8 16 x) (fld 8 8 x) (fld 8 0 x))
  | 0x23 =>
    if nbits x 7 0 = 0 then some (.mov (fld 1 24 x) (fld 8 16 x) (fld 8 8 x))
    else if nbits x 7 0 = 1 then some (.not (fld 1 24 x) (fld 8 16 x) (fld 8 8 x))
    else if nbits x 7 0 = 2 then some (.clz (fld 1 24 x) (fld 8 16 x) (fld 8 8 x))
    else if nbits x 7 0 = 3 then some (.ctz (fld 1 24 x) (fld 8 16 x) (fld 8 8 x))
    else if nbits x 7 0 = 4 then some (.popc (fld 1 24 x) (fld 8 16 x) (fld 8 8 x))
    else if nbits x 7 0 = 5 then some (.brev (fld 1 24 x) (fld 8 16 x) (fld 8 8 x))
    else if nbits x 7 0 = 6 then some (.sext8 (fld 1 24 x) (fld 8 16 x) (fld 8 8 x))
    else if nbits x 7 0 = 7 then some (.sext16 (fld 1 24 x) (fld 8 16 x) (fld 8 8 x))
    else if nbits x 7 0 = 8 then some (.zext8 (fld 1 24 x) (fld 8 16 x) (fld 8 8 x))
    else if nbits x 7 0 = 9 then some (.zext16 (fld 1 24 x) (fld 8 16 x) (fld 8 8 x))
    else if nbits x 7 0 = 10 then some (.pkp (fld 1 24 x) (fld 8 16 x) (fld 8 8 x))
    else if nbits x 7 0 = 11 then some (.upkp (fld 1 24 x) (fld 8 16 x) (fld 8 8 x))
    else none
  | 0x24 =>
    some (.fadd (fld 1 24 x) (fld 8 16 x) (fld 8 8 x) (fld 8 0 x))
  | 0x25 =>
    some (.fsub (fld 1 24 x) (fld 8 16 x) (fld 8 8 x) (fld 8 0 x))
  | 0x26 =>
    some (.fmul (fld 1 24 x) (fld 8 16 x) (fld 8 8 x) (fld 8 0 x))
  | 0x27 =>
    some (.ffma (fld 1 24 x) (fld 8 16 x) (fld 8 8 x) (fld 8 0 x))
  | 0x28 =>
    some (.fmin (fld 1 24 x) (fld 8 16 x) (fld 8 8 x) (fld 8 0 x))
  | 0x29 =>
    some (.fmax (fld 1 24 x) (fld 8 16 x) (fld 8 8 x) (fld 8 0 x))
  | 0x2A =>
    some (.feq (fld 1 24 x) (fld 8 16 x) (fld 8 8 x) (fld 8 0 x))
  | 0x2B =>
    some (.fne (fld 1 24 x) (fld 8 16 x) (fld 8 8 x) (fld 8 0 x))
  | 0x2C =>
    some (.flt (fld 1 24 x) (fld 8 16 x) (fld 8 8 x) (fld 8 0 x))
  | 0x2D =>
    some (.fle (fld 1 24 x) (fld 8 16 x) (fld 8 8 x) (fld 8 0 x))
  | 0x2E =>
    some (.funo (fld 1 24 x) (fld 8 16 x) (fld 8 8 x) (fld 8 0 x))
  | 0x2F =>
    if nbits x 7 0 = 0 then some (.frcp (fld 1 24 x) (fld 8 16 x) (fld 8 8 x))
    else if nbits x 7 0 = 1 then some (.frsq (fld 1 24 x) (fld 8 16 x) (fld 8 8 x))
    else if nbits x 7 0 = 2 then some (.fsqrt (fld 1 24 x) (fld 8 16 x) (fld 8 8 x))
    else if nbits x 7 0 = 3 then some (.fex2 (fld 1 24 x) (fld 8 16 x) (fld 8 8 x))
    else if nbits x 7 0 = 4 then some (.flg2 (fld 1 24 x) (fld 8 16 x) (fld 8 8 x))
    else if nbits x 7 0 = 5 then some (.fsin (fld 1 24 x) (fld 8 16 x) (fld 8 8 x))
    else if nbits x 7 0 = 6 then some (.fcos (fld 1 24 x) (fld 8 16 x) (fld 8 8 x))
    else if nbits x 7 0 = 7 then some (.ffrac (fld 1 24 x) (fld 8 16 x) (fld 8 8 x))
    else if nbits x 7 0 = 8 then some (.fround (fld 1 24 x) (fld 8 16 x) (fld 8 8 x))
    else if nbits x 7 0 = 9 then some (.fclass (fld 1 24 x) (fld 8 16 x) (fld 8 8 x))
    else if nbits x 7 4 = 4 then some (.cvtFromF32 (fld 1 24 x) (fld 8 16 x) (fld 8 8 x) (fld 4 0 x))
    else if nbits x 7 4 = 6 then some (.cvtToF32 (fld 1 24 x) (fld 8 16 x) (fld 8 8 x) (fld 4 0 x))
    else none
  | _ => none

/-- The instruction that one word of a major from 0x30 to 0x3F means (R58, R59, R60, R63, R64, R66). -/
def decodeOp3 (op x : Nat) : Option Instr :=
  match op with
  | 0x30 =>
    some (.hadd2 (fld 1 24 x) (fld 8 16 x) (fld 8 8 x) (fld 8 0 x))
  | 0x31 =>
    some (.hmul2 (fld 1 24 x) (fld 8 16 x) (fld 8 8 x) (fld 8 0 x))
  | 0x32 =>
    some (.hfma2 (fld 1 24 x) (fld 8 16 x) (fld 8 8 x) (fld 8 0 x))
  | 0x33 =>
    some (.badd2 (fld 1 24 x) (fld 8 16 x) (fld 8 8 x) (fld 8 0 x))
  | 0x34 =>
    some (.bmul2 (fld 1 24 x) (fld 8 16 x) (fld 8 8 x) (fld 8 0 x))
  | 0x35 =>
    some (.bfma2 (fld 1 24 x) (fld 8 16 x) (fld 8 8 x) (fld 8 0 x))
  | 0x36 =>
    some (.hdot2 (fld 1 24 x) (fld 8 16 x) (fld 8 8 x) (fld 8 0 x))
  | 0x37 =>
    some (.bdot2 (fld 1 24 x) (fld 8 16 x) (fld 8 8 x) (fld 8 0 x))
  | 0x38 =>
    some (.shfl (fld 1 24 x) (fld 8 16 x) (fld 8 8 x) (fld 8 0 x))
  | 0x39 =>
    some (.shfx (fld 1 24 x) (fld 8 16 x) (fld 8 8 x) (fld 8 0 x))
  | 0x3A =>
    if nbits x 7 0 = 0 then some (.ballot (fld 1 24 x) (fld 8 16 x) (fld 8 8 x))
    else if nbits x 7 0 = 1 then some (.any (fld 1 24 x) (fld 8 16 x) (fld 8 8 x))
    else if nbits x 7 0 = 2 then some (.all (fld 1 24 x) (fld 8 16 x) (fld 8 8 x))
    else if nbits x 7 0 = 3 then some (.radd (fld 1 24 x) (fld 8 16 x) (fld 8 8 x))
    else if nbits x 7 0 = 4 then some (.rfadd (fld 1 24 x) (fld 8 16 x) (fld 8 8 x))
    else if nbits x 7 0 = 5 then some (.rmin (fld 1 24 x) (fld 8 16 x) (fld 8 8 x))
    else if nbits x 7 0 = 6 then some (.rmax (fld 1 24 x) (fld 8 16 x) (fld 8 8 x))
    else if nbits x 7 0 = 7 then some (.rumin (fld 1 24 x) (fld 8 16 x) (fld 8 8 x))
    else if nbits x 7 0 = 8 then some (.rumax (fld 1 24 x) (fld 8 16 x) (fld 8 8 x))
    else if nbits x 7 0 = 9 then some (.rand (fld 1 24 x) (fld 8 16 x) (fld 8 8 x))
    else if nbits x 7 0 = 10 then some (.ror (fld 1 24 x) (fld 8 16 x) (fld 8 8 x))
    else if nbits x 7 0 = 11 then some (.pfadd (fld 1 24 x) (fld 8 16 x) (fld 8 8 x))
    else if nbits x 7 0 = 12 then some (.pffadd (fld 1 24 x) (fld 8 16 x) (fld 8 8 x))
    else if nbits x 7 0 = 13 then some (.bcst (fld 1 24 x) (fld 8 16 x) (fld 8 8 x))
    else if nbits x 7 0 = 14 then some (.laneFirst (fld 1 24 x) (fld 8 16 x) (fld 8 8 x))
    else none
  | 0x3B =>
    if nbits x 15 7 = 0 then some (.movsRead (fld 1 24 x) (fld 8 16 x) (fld 7 0 x))
    else if nbits x 24 16 = 0 ∧ nbits x 7 7 = 1 then some (.movsWrite (fld 8 8 x) (fld 7 0 x))
    else none
  | _ => none

/-- The instruction that one word of a major from 0x50 to 0x5F means (R58, R59, R60, R63, R64, R66). -/
def decodeOp5 (op x : Nat) : Option Instr :=
  match op with
  | 0x50 =>
    if nbits x 24 23 = 1 ∧ nbits x 19 0 = 0 then some (.fenceAcq (fld 3 20 x))
    else if nbits x 24 23 = 2 ∧ nbits x 19 0 = 0 then some (.fenceRel (fld 3 20 x))
    else if nbits x 24 23 = 3 ∧ nbits x 19 0 = 0 then some (.fenceAr (fld 3 20 x))
    else none
  | 0x51 =>
    if nbits x 24 20 = 0 then some (.sobjBind (fld 6 14 x) (fld 6 8 x) (fld 8 0 x))
    else if nbits x 24 20 = 1 ∧ nbits x 13 8 = 0 then some (.sobjUnbind (fld 6 14 x) (fld 8 0 x))
    else if nbits x 24 20 = 2 ∧ nbits x 13 1 = 0 then some (.sobjAcq (fld 6 14 x) (fld 1 0 x))
    else if nbits x 24 20 = 3 ∧ nbits x 13 0 = 0 then some (.sobjRel (fld 6 14 x))
    else if nbits x 24 20 = 4 ∧ nbits x 7 1 = 0 then some (.sobjTryacq (fld 6 14 x) (fld 6 8 x) (fld 1 0 x))
    else none
  | 0x52 =>
    if nbits x 19 8 = 0 then some (.waitc (fld 5 20 x) (fld 8 0 x))
    else none
  | 0x53 =>
    if nbits x 24 0 = 0 then some .drain
    else none
  | 0x54 =>
    if nbits x 24 20 = 0 then some (.queueInit (fld 6 14 x) (fld 6 8 x) (fld 8 0 x))
    else if nbits x 24 20 = 1 then some (.queueAllow (fld 6 14 x) (fld 6 8 x) (fld 8 0 x))
    else if nbits x 24 20 = 2 ∧ nbits x 13 8 = 0 then some (.queuePush (fld 6 14 x) (fld 8 0 x))
    else if nbits x 24 20 = 3 ∧ nbits x 13 8 = 0 then some (.queuePop (fld 6 14 x) (fld 8 0 x))
    else if nbits x 24 20 = 4 then some (.queueTrypush (fld 6 14 x) (fld 6 8 x) (fld 8 0 x))
    else if nbits x 24 20 = 5 then some (.queueTrypop (fld 6 14 x) (fld 6 8 x) (fld 8 0 x))
    else none
  | 0x55 =>
    if nbits x 24 20 = 0 ∧ nbits x 13 8 = 0 then some (.abarInit (fld 6 14 x) (fld 8 0 x))
    else if nbits x 24 20 = 1 ∧ nbits x 13 8 = 0 then some (.abarExpect (fld 6 14 x) (fld 8 0 x))
    else if nbits x 24 20 = 2 ∧ nbits x 13 8 = 0 then some (.abarArrive (fld 6 14 x) (fld 8 0 x))
    else if nbits x 24 20 = 3 ∧ nbits x 13 8 = 0 then some (.abarWait (fld 6 14 x) (fld 8 0 x))
    else if nbits x 24 8 = 16384 then some (.abarArrwait (fld 8 0 x))
    else none
  | 0x56 =>
    if nbits x 24 20 = 0 ∧ nbits x 7 0 = 0 then some (.verPubv (fld 6 14 x) (fld 6 8 x))
    else if nbits x 24 20 = 1 ∧ nbits x 7 0 = 0 then some (.verQver (fld 6 14 x) (fld 6 8 x))
    else none
  | 0x58 =>
    if nbits x 24 20 = 0 ∧ nbits x 13 0 = 0 then some (.cpyLin (fld 6 14 x))
    else if nbits x 24 20 = 1 ∧ nbits x 13 0 = 0 then some (.cpyBlk2 (fld 6 14 x))
    else if nbits x 24 20 = 2 ∧ nbits x 13 0 = 0 then some (.cpyBlk3 (fld 6 14 x))
    else if nbits x 24 20 = 3 ∧ nbits x 13 0 = 0 then some (.cpyGath (fld 6 14 x))
    else if nbits x 24 20 = 4 ∧ nbits x 13 0 = 0 then some (.cpyScat (fld 6 14 x))
    else if nbits x 24 20 = 5 ∧ nbits x 13 0 = 0 then some (.cpyFill (fld 6 14 x))
    else if nbits x 24 20 = 6 ∧ nbits x 13 0 = 0 then some (.cpyExp6 (fld 6 14 x))
    else if nbits x 24 20 = 7 ∧ nbits x 13 0 = 0 then some (.cpyPak6 (fld 6 14 x))
    else if nbits x 24 20 = 8 ∧ nbits x 13 0 = 0 then some (.cpyRedAdd (fld 6 14 x))
    else if nbits x 24 20 = 9 ∧ nbits x 13 0 = 0 then some (.cpyRedMin (fld 6 14 x))
    else if nbits x 24 20 = 10 ∧ nbits x 13 0 = 0 then some (.cpyRedMax (fld 6 14 x))
    else if nbits x 24 20 = 11 ∧ nbits x 13 0 = 0 then some (.cpyOpb (fld 6 14 x))
    else none
  | 0x59 =>
    if nbits x 24 20 = 0 ∧ nbits x 13 7 = 0 then some (.cfetch (fld 6 14 x) (fld 1 6 x) (fld 6 0 x))
    else none
  | 0x5A =>
    if nbits x 24 20 = 0 ∧ nbits x 7 6 = 0 then some (.collAred (fld 6 14 x) (fld 6 8 x) (fld 2 4 x) (fld 2 2 x) (fld 2 0 x))
    else if nbits x 24 20 = 1 ∧ nbits x 7 6 = 0 then some (.collRed (fld 6 14 x) (fld 6 8 x) (fld 2 4 x) (fld 2 2 x) (fld 2 0 x))
    else if nbits x 24 20 = 2 ∧ nbits x 7 2 = 0 then some (.collBcst (fld 6 14 x) (fld 6 8 x) (fld 2 0 x))
    else if nbits x 24 20 = 3 ∧ nbits x 7 2 = 0 then some (.collAgth (fld 6 14 x) (fld 6 8 x) (fld 2 0 x))
    else if nbits x 24 20 = 4 ∧ nbits x 7 6 = 0 then some (.collRsct (fld 6 14 x) (fld 6 8 x) (fld 2 4 x) (fld 2 2 x) (fld 2 0 x))
    else if nbits x 24 20 = 5 ∧ nbits x 7 2 = 0 then some (.collSend (fld 6 14 x) (fld 6 8 x) (fld 2 0 x))
    else if nbits x 24 20 = 6 ∧ nbits x 7 0 = 0 then some (.collRecv (fld 6 14 x) (fld 6 8 x))
    else if nbits x 24 20 = 7 ∧ nbits x 7 0 = 0 then some (.collRset (fld 6 14 x) (fld 6 8 x))
    else none
  | 0x5B =>
    if nbits x 24 20 = 0 ∧ nbits x 7 0 = 0 then some (.cntDecl (fld 6 14 x) (fld 6 8 x))
    else if nbits x 24 20 = 1 ∧ nbits x 13 8 = 0 then some (.cntTrig (fld 6 14 x) (fld 8 0 x))
    else none
  | 0x5C =>
    if nbits x 24 20 = 0 ∧ nbits x 7 0 = 0 then some (.dspInit (fld 6 14 x) (fld 6 8 x))
    else if nbits x 24 20 = 1 ∧ nbits x 7 0 = 0 then some (.dspNext (fld 6 14 x) (fld 6 8 x))
    else none
  | 0x5D =>
    if nbits x 24 20 = 0 ∧ nbits x 7 0 = 0 then some (.presentPost (fld 6 14 x) (fld 6 8 x))
    else none
  | _ => none

/-- The instruction that one word of a major from 0x60 to 0x6F means (R58, R59, R60, R63, R64, R66). -/
def decodeOp6 (op x : Nat) : Option Instr :=
  match op with
  | 0x60 =>
    if nbits x 24 20 = 0 then some (.mres (fld 6 14 x) (fld 6 8 x) (fld 8 0 x))
    else if nbits x 24 8 = 4096 then some (.mresRel (fld 8 0 x))
    else none
  | 0x61 =>
    if nbits x 24 20 = 0 then some (.mwld (fld 6 14 x) (fld 6 8 x) (fld 8 0 x))
    else none
  | 0x62 =>
    if nbits x 24 23 = 0 ∧ nbits x 7 1 = 0 then some (.mma (fld 3 20 x) (fld 6 14 x) (fld 6 8 x) (fld 1 0 x))
    else none
  | 0x63 =>
    if nbits x 24 20 = 0 ∧ nbits x 7 0 = 0 then some (.mloop (fld 6 14 x) (fld 6 8 x))
    else none
  | 0x64 =>
    if nbits x 24 20 = 0 ∧ nbits x 13 0 = 0 then some (.mbat (fld 6 14 x))
    else none
  | 0x65 =>
    if nbits x 24 23 = 0 then some (.mdrn (fld 3 20 x) (fld 6 14 x) (fld 6 8 x) (fld 3 5 x) (fld 3 2 x) (fld 1 1 x) (fld 1 0 x))
    else if nbits x 24 23 = 1 then some (.mdrnAdd (fld 3 20 x) (fld 6 14 x) (fld 6 8 x) (fld 3 5 x) (fld 3 2 x) (fld 1 1 x) (fld 1 0 x))
    else none
  | 0x66 =>
    if nbits x 24 0 = 0 then some .mtake
    else if nbits x 24 0 = 1048576 then some .mgive
    else if nbits x 24 23 = 1 ∧ nbits x 19 0 = 0 then some (.mzero (fld 3 20 x))
    else none
  | 0x67 =>
    if nbits x 24 20 = 0 then some (.mxq (fld 6 14 x) (fld 6 8 x) (fld 8 0 x))
    else none
  | 0x68 =>
    if nbits x 24 20 = 0 ∧ nbits x 13 0 = 0 then some (.hgCfg (fld 6 14 x))
    else if nbits x 24 20 = 1 ∧ nbits x 13 8 = 0 then some (.hgEnc (fld 6 14 x) (fld 8 0 x))
    else if nbits x 24 20 = 2 ∧ nbits x 13 8 = 0 then some (.hgGrad (fld 6 14 x) (fld 8 0 x))
    else none
  | 0x69 =>
    if nbits x 24 20 = 0 then some (.rayTrace (fld 6 14 x) (fld 6 8 x) (fld 8 0 x))
    else if nbits x 24 20 = 1 then some (.rayOccl (fld 6 14 x) (fld 6 8 x) (fld 8 0 x))
    else if nbits x 24 8 = 8192 then some (.rayTri (fld 8 0 x))
    else if nbits x 24 8 = 12288 then some (.rayBox (fld 8 0 x))
    else none
  | 0x6C =>
    if nbits x 24 20 = 0 ∧ nbits x 7 0 = 0 then some (.trInit (fld 6 14 x) (fld 6 8 x))
    else if nbits x 24 20 = 1 then some (.trDesc (fld 6 14 x) (fld 6 8 x) (fld 8 0 x))
    else if nbits x 24 20 = 2 then some (.trExp (fld 6 14 x) (fld 6 8 x) (fld 8 0 x))
    else if nbits x 24 20 = 3 ∧ nbits x 7 0 = 0 then some (.trBack (fld 6 14 x) (fld 6 8 x))
    else if nbits x 24 20 = 4 ∧ nbits x 7 0 = 0 then some (.trUndo (fld 6 14 x) (fld 6 8 x))
    else if nbits x 24 20 = 5 ∧ nbits x 7 0 = 0 then some (.trReuse (fld 6 14 x) (fld 6 8 x))
    else if nbits x 24 20 = 6 ∧ nbits x 7 0 = 0 then some (.trFree (fld 6 14 x) (fld 6 8 x))
    else if nbits x 24 20 = 7 ∧ nbits x 7 0 = 0 then some (.trStat (fld 6 14 x) (fld 6 8 x))
    else none
  | _ => none

/-- The instruction that one word of a major from 0x70 to 0x7F means (R58, R59, R60, R63, R64, R66). -/
def decodeOp7 (op x : Nat) : Option Instr :=
  match op with
  | 0x70 =>
    if nbits x 24 20 = 0 then some (.taskSubmit (fld 6 14 x) (fld 6 8 x) (fld 8 0 x))
    else if nbits x 24 20 = 1 ∧ nbits x 13 0 = 0 then some (.taskDone (fld 6 14 x))
    else if nbits x 24 20 = 1 ∧ nbits x 13 0 = 1 then some (.taskDoneWait (fld 6 14 x))
    else none
  | 0x71 =>
    if nbits x 24 20 = 0 ∧ nbits x 7 0 = 0 then some (.lvlLaunch (fld 6 14 x) (fld 6 8 x))
    else if nbits x 24 20 = 1 ∧ nbits x 7 0 = 0 then some (.lvlCancel (fld 6 14 x) (fld 6 8 x))
    else if nbits x 24 20 = 2 ∧ nbits x 7 0 = 0 then some (.lvlCtr (fld 6 14 x) (fld 6 8 x))
    else if nbits x 24 20 = 3 then some (.lvlOpen (fld 6 14 x) (fld 6 8 x) (fld 8 0 x))
    else if nbits x 24 20 = 4 ∧ nbits x 7 0 = 0 then some (.lvlClose (fld 6 14 x) (fld 6 8 x))
    else if nbits x 24 20 = 5 ∧ nbits x 7 0 = 0 then some (.lvlBudget (fld 6 14 x) (fld 6 8 x))
    else none
  | 0x72 =>
    if nbits x 24 0 = 0 then some .schedYield
    else if nbits x 24 20 = 1 ∧ nbits x 13 0 = 0 then some (.schedSleep (fld 6 14 x))
    else none
  | 0x74 =>
    if nbits x 24 4 = 0 then some (.xregAcq (fld 4 0 x))
    else if nbits x 24 4 = 65536 then some (.xregRel (fld 4 0 x))
    else none
  | 0x78 =>
    if nbits x 24 8 = 0 then some (.sysTrap (fld 8 0 x))
    else if nbits x 24 0 = 1048576 then some .sysEret
    else if nbits x 24 8 = 8192 then some (.sysSvc (fld 8 0 x))
    else if nbits x 24 0 = 3145728 then some .sysHalt
    else if nbits x 24 8 = 16384 then some (.sysBkpt (fld 8 0 x))
    else if nbits x 24 20 = 5 ∧ nbits x 13 8 = 0 then some (.sysSegw (fld 6 14 x) (fld 8 0 x))
    else if nbits x 24 20 = 6 ∧ nbits x 13 8 = 0 then some (.sysCsrr (fld 6 14 x) (fld 8 0 x))
    else if nbits x 24 20 = 7 ∧ nbits x 13 8 = 0 then some (.sysCsrw (fld 6 14 x) (fld 8 0 x))
    else if nbits x 24 20 = 8 ∧ nbits x 7 0 = 0 then some (.sysCkpt (fld 6 14 x) (fld 6 8 x))
    else none
  | 0x79 =>
    if nbits x 24 0 = 0 then some .ptFence
    else if nbits x 24 20 = 1 ∧ nbits x 7 0 = 0 then some (.ptInv (fld 6 14 x) (fld 6 8 x))
    else if nbits x 24 0 = 2097152 then some .ptApply
    else if nbits x 24 20 = 3 then some (.ptMigb (fld 6 14 x) (fld 6 8 x) (fld 8 0 x))
    else if nbits x 24 20 = 4 ∧ nbits x 13 8 = 0 then some (.ptMigf (fld 6 14 x) (fld 8 0 x))
    else if nbits x 24 20 = 5 ∧ nbits x 13 8 = 0 then some (.ptMigd (fld 6 14 x) (fld 8 0 x))
    else if nbits x 24 20 = 6 ∧ nbits x 7 0 = 0 then some (.ptHotl (fld 6 14 x) (fld 6 8 x))
    else none
  | _ => none

/-- The instruction that one word means, by major opcode (R66). -/
def decodeOp (op x : Nat) : Option Instr :=
  match op / 16 with
  | 0 => decodeOp0 op x
  | 1 => decodeOp1 op x
  | 2 => decodeOp2 op x
  | 3 => decodeOp3 op x
  | 5 => decodeOp5 op x
  | 6 => decodeOp6 op x
  | 7 => decodeOp7 op x
  | _ => none

/-- The operands and fields of a format-M instruction, in the order of its constructor. -/
abbrev MFields := BitVec 8 → BitVec 8 → BitVec 8 → BitVec 8 → BitVec 1 → BitVec 3 → BitVec 2 → BitVec 3 → BitVec 3 → BitVec 8 → Instr

/-- The format-M instruction that a major and an AOP/TOP name (R66, R74). -/
def decodeM (op aop : Nat) : Option MFields :=
  match op with
  | 0x40 =>
    match aop with
    | 0 => some .ld
    | _ => none
  | 0x41 =>
    match aop with
    | 0 => some .st
    | _ => none
  | 0x42 =>
    match aop with
    | 0 => some .atomAdd
    | 1 => some .atomFadd
    | 2 => some .atomMin
    | 3 => some .atomMax
    | 4 => some .atomUmin
    | 5 => some .atomUmax
    | 6 => some .atomAnd
    | 7 => some .atomOr
    | 8 => some .atomXor
    | 9 => some .atomXchg
    | 10 => some .atomCas
    | 11 => some .atomFmin
    | 12 => some .atomFmax
    | 13 => some .atomHadd2
    | 14 => some .atomBadd2
    | _ => none
  | 0x43 =>
    match aop with
    | 0 => some .ldtFf
    | 1 => some .ldtFe
    | 2 => some .ldtXx
    | _ => none
  | 0x44 =>
    match aop with
    | 0 => some .sttEf
    | 1 => some .sttXf
    | 2 => some .sttXe
    | _ => none
  | 0x45 =>
    match aop with
    | 0 => some .ldtile
    | _ => none
  | 0x46 =>
    match aop with
    | 0 => some .sttile
    | _ => none
  | 0x47 =>
    match aop with
    | 0 => some .prf
    | _ => none
  | _ => none

/-- A major has format M, two words (R62, R66). -/
def isFormatM (op : Nat) : Bool := decide (0x40 ≤ op ∧ op ≤ 0x47)

/-- Decoding, total on any words: the instruction and the words after it, or a refusal (R65). Bit 24 of a format-M
word, the place of WS, is 0 (R57, R230). -/
def decode : List Word → Option (Instr × List Word)
  | [] => none
  | x :: rest =>
    let n := x.toNat
    let op := n >>> 25
    if isFormatM op then
      match rest with
      | [] => none
      | y :: rest' =>
        let m := y.toNat
        if nbits n 24 24 = 0 then
          (decodeM op (nbits m 23 20)).map fun f =>
            (f (fld 8 16 n) (fld 8 8 n) (fld 8 0 n) (fld 8 24 m) (fld 1 19 m) (fld 3 16 m) (fld 2 14 m) (fld 3 11 m)
              (fld 3 8 m) (fld 8 0 m), rest')
        else none
    else (decodeOp op n).map fun i => (i, rest)

/-- The two words of a format-M instruction (R62). -/
def encodeM (op aop : Nat) (d a b off : BitVec 8) (inv : BitVec 1) (scope : BitVec 3) (ord : BitVec 2)
    (space sz : BitVec 3) (e : BitVec 8) : List Word :=
  [BitVec.ofNat 32 (op * 33554432 + d.toNat * 65536 + a.toNat * 256 + b.toNat),
   BitVec.ofNat 32 (off.toNat * 16777216 + aop * 1048576 + inv.toNat * 524288 + scope.toNat * 65536 +
     ord.toNat * 16384 + space.toNat * 2048 + sz.toNat * 256 + e.toNat)]

/-- The words of an instruction, from the same tables; a row without a word (a step of an engine) has none. -/
def encode : Instr → List Word
  | .clauseFetch => []
  | .backgroundForcedIssue => []
  | .pathDemote => []
  | .registerWriteComplete => []
  | .nop => [BitVec.ofNat 32 (33554432)]
  | .modPrefix xc xr xs xa xb xg xh xj xl => [BitVec.ofNat 32 (234881024 + xc.toNat * 131072 + xr.toNat * 16384 + xs.toNat * 8192 + xa.toNat * 4096 + xb.toNat * 2048 + xg.toNat * 1024 + xh.toNat * 512 + xj.toNat * 256 + xl.toNat * 16)]
  | .br xk xn xo => [BitVec.ofNat 32 (67108864 + xk.toNat * 2097152 + xn.toNat * 1048576 + xo.toNat)]
  | .call xk xn xo => [BitVec.ofNat 32 (100663296 + xk.toNat * 2097152 + xn.toNat * 1048576 + xo.toNat)]
  | .jr xx => [BitVec.ofNat 32 (134217728 + xx.toNat * 16384)]
  | .ret => [BitVec.ofNat 32 (135266304)]
  | .jf xx xl => [BitVec.ofNat 32 (167772160 + xx.toNat * 16384 + xl.toNat)]
  | .exit => [BitVec.ofNat 32 (201326592)]
  | .iadd xw xd xa xb => [BitVec.ofNat 32 (268435456 + xw.toNat * 16777216 + xd.toNat * 65536 + xa.toNat * 256 + xb.toNat)]
  | .isub xw xd xa xb => [BitVec.ofNat 32 (301989888 + xw.toNat * 16777216 + xd.toNat * 65536 + xa.toNat * 256 + xb.toNat)]
  | .imul xw xd xa xb => [BitVec.ofNat 32 (335544320 + xw.toNat * 16777216 + xd.toNat * 65536 + xa.toNat * 256 + xb.toNat)]
  | .imulhs xw xd xa xb => [BitVec.ofNat 32 (369098752 + xw.toNat * 16777216 + xd.toNat * 65536 + xa.toNat * 256 + xb.toNat)]
  | .imulhu xw xd xa xb => [BitVec.ofNat 32 (402653184 + xw.toNat * 16777216 + xd.toNat * 65536 + xa.toNat * 256 + xb.toNat)]
  | .imad xw xd xa xb => [BitVec.ofNat 32 (436207616 + xw.toNat * 16777216 + xd.toNat * 65536 + xa.toNat * 256 + xb.toNat)]
  | .imin xw xd xa xb => [BitVec.ofNat 32 (469762048 + xw.toNat * 16777216 + xd.toNat * 65536 + xa.toNat * 256 + xb.toNat)]
  | .imax xw xd xa xb => [BitVec.ofNat 32 (503316480 + xw.toNat * 16777216 + xd.toNat * 65536 + xa.toNat * 256 + xb.toNat)]
  | .umin xw xd xa xb => [BitVec.ofNat 32 (536870912 + xw.toNat * 16777216 + xd.toNat * 65536 + xa.toNat * 256 + xb.toNat)]
  | .umax xw xd xa xb => [BitVec.ofNat 32 (570425344 + xw.toNat * 16777216 + xd.toNat * 65536 + xa.toNat * 256 + xb.toNat)]
  | .and xw xd xa xb => [BitVec.ofNat 32 (603979776 + xw.toNat * 16777216 + xd.toNat * 65536 + xa.toNat * 256 + xb.toNat)]
  | .or xw xd xa xb => [BitVec.ofNat 32 (637534208 + xw.toNat * 16777216 + xd.toNat * 65536 + xa.toNat * 256 + xb.toNat)]
  | .xor xw xd xa xb => [BitVec.ofNat 32 (671088640 + xw.toNat * 16777216 + xd.toNat * 65536 + xa.toNat * 256 + xb.toNat)]
  | .andn xw xd xa xb => [BitVec.ofNat 32 (704643072 + xw.toNat * 16777216 + xd.toNat * 65536 + xa.toNat * 256 + xb.toNat)]
  | .shl xw xd xa xb => [BitVec.ofNat 32 (738197504 + xw.toNat * 16777216 + xd.toNat * 65536 + xa.toNat * 256 + xb.toNat)]
  | .shr xw xd xa xb => [BitVec.ofNat 32 (771751936 + xw.toNat * 16777216 + xd.toNat * 65536 + xa.toNat * 256 + xb.toNat)]
  | .sar xw xd xa xb => [BitVec.ofNat 32 (805306368 + xw.toNat * 16777216 + xd.toNat * 65536 + xa.toNat * 256 + xb.toNat)]
  | .bfe xw xd xa xb => [BitVec.ofNat 32 (838860800 + xw.toNat * 16777216 + xd.toNat * 65536 + xa.toNat * 256 + xb.toNat)]
  | .bfi xw xd xa xb => [BitVec.ofNat 32 (872415232 + xw.toNat * 16777216 + xd.toNat * 65536 + xa.toNat * 256 + xb.toNat)]
  | .sel xw xd xa xb => [BitVec.ofNat 32 (905969664 + xw.toNat * 16777216 + xd.toNat * 65536 + xa.toNat * 256 + xb.toNat)]
  | .iadd64 xw xd xa xb => [BitVec.ofNat 32 (939524096 + xw.toNat * 16777216 + xd.toNat * 65536 + xa.toNat * 256 + xb.toNat)]
  | .ieq xw xd xa xb => [BitVec.ofNat 32 (973078528 + xw.toNat * 16777216 + xd.toNat * 65536 + xa.toNat * 256 + xb.toNat)]
  | .ine xw xd xa xb => [BitVec.ofNat 32 (1006632960 + xw.toNat * 16777216 + xd.toNat * 65536 + xa.toNat * 256 + xb.toNat)]
  | .ilt xw xd xa xb => [BitVec.ofNat 32 (1040187392 + xw.toNat * 16777216 + xd.toNat * 65536 + xa.toNat * 256 + xb.toNat)]
  | .ile xw xd xa xb => [BitVec.ofNat 32 (1073741824 + xw.toNat * 16777216 + xd.toNat * 65536 + xa.toNat * 256 + xb.toNat)]
  | .ult xw xd xa xb => [BitVec.ofNat 32 (1107296256 + xw.toNat * 16777216 + xd.toNat * 65536 + xa.toNat * 256 + xb.toNat)]
  | .ule xw xd xa xb => [BitVec.ofNat 32 (1140850688 + xw.toNat * 16777216 + xd.toNat * 65536 + xa.toNat * 256 + xb.toNat)]
  | .mov xw xd xa => [BitVec.ofNat 32 (1174405120 + xw.toNat * 16777216 + xd.toNat * 65536 + xa.toNat * 256)]
  | .not xw xd xa => [BitVec.ofNat 32 (1174405121 + xw.toNat * 16777216 + xd.toNat * 65536 + xa.toNat * 256)]
  | .clz xw xd xa => [BitVec.ofNat 32 (1174405122 + xw.toNat * 16777216 + xd.toNat * 65536 + xa.toNat * 256)]
  | .ctz xw xd xa => [BitVec.ofNat 32 (1174405123 + xw.toNat * 16777216 + xd.toNat * 65536 + xa.toNat * 256)]
  | .popc xw xd xa => [BitVec.ofNat 32 (1174405124 + xw.toNat * 16777216 + xd.toNat * 65536 + xa.toNat * 256)]
  | .brev xw xd xa => [BitVec.ofNat 32 (1174405125 + xw.toNat * 16777216 + xd.toNat * 65536 + xa.toNat * 256)]
  | .sext8 xw xd xa => [BitVec.ofNat 32 (1174405126 + xw.toNat * 16777216 + xd.toNat * 65536 + xa.toNat * 256)]
  | .sext16 xw xd xa => [BitVec.ofNat 32 (1174405127 + xw.toNat * 16777216 + xd.toNat * 65536 + xa.toNat * 256)]
  | .zext8 xw xd xa => [BitVec.ofNat 32 (1174405128 + xw.toNat * 16777216 + xd.toNat * 65536 + xa.toNat * 256)]
  | .zext16 xw xd xa => [BitVec.ofNat 32 (1174405129 + xw.toNat * 16777216 + xd.toNat * 65536 + xa.toNat * 256)]
  | .pkp xw xd xa => [BitVec.ofNat 32 (1174405130 + xw.toNat * 16777216 + xd.toNat * 65536 + xa.toNat * 256)]
  | .upkp xw xd xa => [BitVec.ofNat 32 (1174405131 + xw.toNat * 16777216 + xd.toNat * 65536 + xa.toNat * 256)]
  | .fadd xw xd xa xb => [BitVec.ofNat 32 (1207959552 + xw.toNat * 16777216 + xd.toNat * 65536 + xa.toNat * 256 + xb.toNat)]
  | .fsub xw xd xa xb => [BitVec.ofNat 32 (1241513984 + xw.toNat * 16777216 + xd.toNat * 65536 + xa.toNat * 256 + xb.toNat)]
  | .fmul xw xd xa xb => [BitVec.ofNat 32 (1275068416 + xw.toNat * 16777216 + xd.toNat * 65536 + xa.toNat * 256 + xb.toNat)]
  | .ffma xw xd xa xb => [BitVec.ofNat 32 (1308622848 + xw.toNat * 16777216 + xd.toNat * 65536 + xa.toNat * 256 + xb.toNat)]
  | .fmin xw xd xa xb => [BitVec.ofNat 32 (1342177280 + xw.toNat * 16777216 + xd.toNat * 65536 + xa.toNat * 256 + xb.toNat)]
  | .fmax xw xd xa xb => [BitVec.ofNat 32 (1375731712 + xw.toNat * 16777216 + xd.toNat * 65536 + xa.toNat * 256 + xb.toNat)]
  | .feq xw xd xa xb => [BitVec.ofNat 32 (1409286144 + xw.toNat * 16777216 + xd.toNat * 65536 + xa.toNat * 256 + xb.toNat)]
  | .fne xw xd xa xb => [BitVec.ofNat 32 (1442840576 + xw.toNat * 16777216 + xd.toNat * 65536 + xa.toNat * 256 + xb.toNat)]
  | .flt xw xd xa xb => [BitVec.ofNat 32 (1476395008 + xw.toNat * 16777216 + xd.toNat * 65536 + xa.toNat * 256 + xb.toNat)]
  | .fle xw xd xa xb => [BitVec.ofNat 32 (1509949440 + xw.toNat * 16777216 + xd.toNat * 65536 + xa.toNat * 256 + xb.toNat)]
  | .funo xw xd xa xb => [BitVec.ofNat 32 (1543503872 + xw.toNat * 16777216 + xd.toNat * 65536 + xa.toNat * 256 + xb.toNat)]
  | .frcp xw xd xa => [BitVec.ofNat 32 (1577058304 + xw.toNat * 16777216 + xd.toNat * 65536 + xa.toNat * 256)]
  | .frsq xw xd xa => [BitVec.ofNat 32 (1577058305 + xw.toNat * 16777216 + xd.toNat * 65536 + xa.toNat * 256)]
  | .fsqrt xw xd xa => [BitVec.ofNat 32 (1577058306 + xw.toNat * 16777216 + xd.toNat * 65536 + xa.toNat * 256)]
  | .fex2 xw xd xa => [BitVec.ofNat 32 (1577058307 + xw.toNat * 16777216 + xd.toNat * 65536 + xa.toNat * 256)]
  | .flg2 xw xd xa => [BitVec.ofNat 32 (1577058308 + xw.toNat * 16777216 + xd.toNat * 65536 + xa.toNat * 256)]
  | .fsin xw xd xa => [BitVec.ofNat 32 (1577058309 + xw.toNat * 16777216 + xd.toNat * 65536 + xa.toNat * 256)]
  | .fcos xw xd xa => [BitVec.ofNat 32 (1577058310 + xw.toNat * 16777216 + xd.toNat * 65536 + xa.toNat * 256)]
  | .ffrac xw xd xa => [BitVec.ofNat 32 (1577058311 + xw.toNat * 16777216 + xd.toNat * 65536 + xa.toNat * 256)]
  | .fround xw xd xa => [BitVec.ofNat 32 (1577058312 + xw.toNat * 16777216 + xd.toNat * 65536 + xa.toNat * 256)]
  | .fclass xw xd xa => [BitVec.ofNat 32 (1577058313 + xw.toNat * 16777216 + xd.toNat * 65536 + xa.toNat * 256)]
  | .cvtFromF32 xw xd xa xf => [BitVec.ofNat 32 (1577058368 + xw.toNat * 16777216 + xd.toNat * 65536 + xa.toNat * 256 + xf.toNat)]
  | .cvtToF32 xw xd xa xf => [BitVec.ofNat 32 (1577058400 + xw.toNat * 16777216 + xd.toNat * 65536 + xa.toNat * 256 + xf.toNat)]
  | .hadd2 xw xd xa xb => [BitVec.ofNat 32 (1610612736 + xw.toNat * 16777216 + xd.toNat * 65536 + xa.toNat * 256 + xb.toNat)]
  | .hmul2 xw xd xa xb => [BitVec.ofNat 32 (1644167168 + xw.toNat * 16777216 + xd.toNat * 65536 + xa.toNat * 256 + xb.toNat)]
  | .hfma2 xw xd xa xb => [BitVec.ofNat 32 (1677721600 + xw.toNat * 16777216 + xd.toNat * 65536 + xa.toNat * 256 + xb.toNat)]
  | .badd2 xw xd xa xb => [BitVec.ofNat 32 (1711276032 + xw.toNat * 16777216 + xd.toNat * 65536 + xa.toNat * 256 + xb.toNat)]
  | .bmul2 xw xd xa xb => [BitVec.ofNat 32 (1744830464 + xw.toNat * 16777216 + xd.toNat * 65536 + xa.toNat * 256 + xb.toNat)]
  | .bfma2 xw xd xa xb => [BitVec.ofNat 32 (1778384896 + xw.toNat * 16777216 + xd.toNat * 65536 + xa.toNat * 256 + xb.toNat)]
  | .hdot2 xw xd xa xb => [BitVec.ofNat 32 (1811939328 + xw.toNat * 16777216 + xd.toNat * 65536 + xa.toNat * 256 + xb.toNat)]
  | .bdot2 xw xd xa xb => [BitVec.ofNat 32 (1845493760 + xw.toNat * 16777216 + xd.toNat * 65536 + xa.toNat * 256 + xb.toNat)]
  | .shfl xw xd xa xb => [BitVec.ofNat 32 (1879048192 + xw.toNat * 16777216 + xd.toNat * 65536 + xa.toNat * 256 + xb.toNat)]
  | .shfx xw xd xa xb => [BitVec.ofNat 32 (1912602624 + xw.toNat * 16777216 + xd.toNat * 65536 + xa.toNat * 256 + xb.toNat)]
  | .ballot xw xd xa => [BitVec.ofNat 32 (1946157056 + xw.toNat * 16777216 + xd.toNat * 65536 + xa.toNat * 256)]
  | .any xw xd xa => [BitVec.ofNat 32 (1946157057 + xw.toNat * 16777216 + xd.toNat * 65536 + xa.toNat * 256)]
  | .all xw xd xa => [BitVec.ofNat 32 (1946157058 + xw.toNat * 16777216 + xd.toNat * 65536 + xa.toNat * 256)]
  | .radd xw xd xa => [BitVec.ofNat 32 (1946157059 + xw.toNat * 16777216 + xd.toNat * 65536 + xa.toNat * 256)]
  | .rfadd xw xd xa => [BitVec.ofNat 32 (1946157060 + xw.toNat * 16777216 + xd.toNat * 65536 + xa.toNat * 256)]
  | .rmin xw xd xa => [BitVec.ofNat 32 (1946157061 + xw.toNat * 16777216 + xd.toNat * 65536 + xa.toNat * 256)]
  | .rmax xw xd xa => [BitVec.ofNat 32 (1946157062 + xw.toNat * 16777216 + xd.toNat * 65536 + xa.toNat * 256)]
  | .rumin xw xd xa => [BitVec.ofNat 32 (1946157063 + xw.toNat * 16777216 + xd.toNat * 65536 + xa.toNat * 256)]
  | .rumax xw xd xa => [BitVec.ofNat 32 (1946157064 + xw.toNat * 16777216 + xd.toNat * 65536 + xa.toNat * 256)]
  | .rand xw xd xa => [BitVec.ofNat 32 (1946157065 + xw.toNat * 16777216 + xd.toNat * 65536 + xa.toNat * 256)]
  | .ror xw xd xa => [BitVec.ofNat 32 (1946157066 + xw.toNat * 16777216 + xd.toNat * 65536 + xa.toNat * 256)]
  | .pfadd xw xd xa => [BitVec.ofNat 32 (1946157067 + xw.toNat * 16777216 + xd.toNat * 65536 + xa.toNat * 256)]
  | .pffadd xw xd xa => [BitVec.ofNat 32 (1946157068 + xw.toNat * 16777216 + xd.toNat * 65536 + xa.toNat * 256)]
  | .bcst xw xd xa => [BitVec.ofNat 32 (1946157069 + xw.toNat * 16777216 + xd.toNat * 65536 + xa.toNat * 256)]
  | .laneFirst xw xd xa => [BitVec.ofNat 32 (1946157070 + xw.toNat * 16777216 + xd.toNat * 65536 + xa.toNat * 256)]
  | .movsRead xw xd xn => [BitVec.ofNat 32 (1979711488 + xw.toNat * 16777216 + xd.toNat * 65536 + xn.toNat)]
  | .movsWrite xa xn => [BitVec.ofNat 32 (1979711616 + xa.toNat * 256 + xn.toNat)]
  | .ld d a b off inv scope ord space sz e => encodeM 0x40 0 d a b off inv scope ord space sz e
  | .st d a b off inv scope ord space sz e => encodeM 0x41 0 d a b off inv scope ord space sz e
  | .atomAdd d a b off inv scope ord space sz e => encodeM 0x42 0 d a b off inv scope ord space sz e
  | .atomFadd d a b off inv scope ord space sz e => encodeM 0x42 1 d a b off inv scope ord space sz e
  | .atomMin d a b off inv scope ord space sz e => encodeM 0x42 2 d a b off inv scope ord space sz e
  | .atomMax d a b off inv scope ord space sz e => encodeM 0x42 3 d a b off inv scope ord space sz e
  | .atomUmin d a b off inv scope ord space sz e => encodeM 0x42 4 d a b off inv scope ord space sz e
  | .atomUmax d a b off inv scope ord space sz e => encodeM 0x42 5 d a b off inv scope ord space sz e
  | .atomAnd d a b off inv scope ord space sz e => encodeM 0x42 6 d a b off inv scope ord space sz e
  | .atomOr d a b off inv scope ord space sz e => encodeM 0x42 7 d a b off inv scope ord space sz e
  | .atomXor d a b off inv scope ord space sz e => encodeM 0x42 8 d a b off inv scope ord space sz e
  | .atomXchg d a b off inv scope ord space sz e => encodeM 0x42 9 d a b off inv scope ord space sz e
  | .atomCas d a b off inv scope ord space sz e => encodeM 0x42 10 d a b off inv scope ord space sz e
  | .atomFmin d a b off inv scope ord space sz e => encodeM 0x42 11 d a b off inv scope ord space sz e
  | .atomFmax d a b off inv scope ord space sz e => encodeM 0x42 12 d a b off inv scope ord space sz e
  | .atomHadd2 d a b off inv scope ord space sz e => encodeM 0x42 13 d a b off inv scope ord space sz e
  | .atomBadd2 d a b off inv scope ord space sz e => encodeM 0x42 14 d a b off inv scope ord space sz e
  | .ldtFf d a b off inv scope ord space sz e => encodeM 0x43 0 d a b off inv scope ord space sz e
  | .ldtFe d a b off inv scope ord space sz e => encodeM 0x43 1 d a b off inv scope ord space sz e
  | .ldtXx d a b off inv scope ord space sz e => encodeM 0x43 2 d a b off inv scope ord space sz e
  | .sttEf d a b off inv scope ord space sz e => encodeM 0x44 0 d a b off inv scope ord space sz e
  | .sttXf d a b off inv scope ord space sz e => encodeM 0x44 1 d a b off inv scope ord space sz e
  | .sttXe d a b off inv scope ord space sz e => encodeM 0x44 2 d a b off inv scope ord space sz e
  | .ldtile d a b off inv scope ord space sz e => encodeM 0x45 0 d a b off inv scope ord space sz e
  | .sttile d a b off inv scope ord space sz e => encodeM 0x46 0 d a b off inv scope ord space sz e
  | .prf d a b off inv scope ord space sz e => encodeM 0x47 0 d a b off inv scope ord space sz e
  | .memoryAccessPerform => []
  | .writeVisibleAtDie => []
  | .hbmScrub => []
  | .fenceAcq xc => [BitVec.ofNat 32 (2692743168 + xc.toNat * 1048576)]
  | .fenceRel xc => [BitVec.ofNat 32 (2701131776 + xc.toNat * 1048576)]
  | .fenceAr xc => [BitVec.ofNat 32 (2709520384 + xc.toNat * 1048576)]
  | .sobjBind xx xy xk => [BitVec.ofNat 32 (2717908992 + xx.toNat * 16384 + xy.toNat * 256 + xk.toNat)]
  | .sobjUnbind xx xk => [BitVec.ofNat 32 (2718957568 + xx.toNat * 16384 + xk.toNat)]
  | .sobjAcq xx xh => [BitVec.ofNat 32 (2720006144 + xx.toNat * 16384 + xh.toNat)]
  | .sobjRel xx => [BitVec.ofNat 32 (2721054720 + xx.toNat * 16384)]
  | .sobjTryacq xx xy xh => [BitVec.ofNat 32 (2722103296 + xx.toNat * 16384 + xy.toNat * 256 + xh.toNat)]
  | .waitc xc xn => [BitVec.ofNat 32 (2751463424 + xc.toNat * 1048576 + xn.toNat)]
  | .drain => [BitVec.ofNat 32 (2785017856)]
  | .queueInit xx xy xq => [BitVec.ofNat 32 (2818572288 + xx.toNat * 16384 + xy.toNat * 256 + xq.toNat)]
  | .queueAllow xx xy xq => [BitVec.ofNat 32 (2819620864 + xx.toNat * 16384 + xy.toNat * 256 + xq.toNat)]
  | .queuePush xx xq => [BitVec.ofNat 32 (2820669440 + xx.toNat * 16384 + xq.toNat)]
  | .queuePop xx xq => [BitVec.ofNat 32 (2821718016 + xx.toNat * 16384 + xq.toNat)]
  | .queueTrypush xx xy xq => [BitVec.ofNat 32 (2822766592 + xx.toNat * 16384 + xy.toNat * 256 + xq.toNat)]
  | .queueTrypop xx xy xq => [BitVec.ofNat 32 (2823815168 + xx.toNat * 16384 + xy.toNat * 256 + xq.toNat)]
  | .abarInit xx xb => [BitVec.ofNat 32 (2852126720 + xx.toNat * 16384 + xb.toNat)]
  | .abarExpect xx xb => [BitVec.ofNat 32 (2853175296 + xx.toNat * 16384 + xb.toNat)]
  | .abarArrive xx xb => [BitVec.ofNat 32 (2854223872 + xx.toNat * 16384 + xb.toNat)]
  | .abarWait xx xb => [BitVec.ofNat 32 (2855272448 + xx.toNat * 16384 + xb.toNat)]
  | .abarArrwait xb => [BitVec.ofNat 32 (2856321024 + xb.toNat)]
  | .verPubv xx xy => [BitVec.ofNat 32 (2885681152 + xx.toNat * 16384 + xy.toNat * 256)]
  | .verQver xx xy => [BitVec.ofNat 32 (2886729728 + xx.toNat * 16384 + xy.toNat * 256)]
  | .cpyLin xx => [BitVec.ofNat 32 (2952790016 + xx.toNat * 16384)]
  | .cpyBlk2 xx => [BitVec.ofNat 32 (2953838592 + xx.toNat * 16384)]
  | .cpyBlk3 xx => [BitVec.ofNat 32 (2954887168 + xx.toNat * 16384)]
  | .cpyGath xx => [BitVec.ofNat 32 (2955935744 + xx.toNat * 16384)]
  | .cpyScat xx => [BitVec.ofNat 32 (2956984320 + xx.toNat * 16384)]
  | .cpyFill xx => [BitVec.ofNat 32 (2958032896 + xx.toNat * 16384)]
  | .cpyExp6 xx => [BitVec.ofNat 32 (2959081472 + xx.toNat * 16384)]
  | .cpyPak6 xx => [BitVec.ofNat 32 (2960130048 + xx.toNat * 16384)]
  | .cpyRedAdd xx => [BitVec.ofNat 32 (2961178624 + xx.toNat * 16384)]
  | .cpyRedMin xx => [BitVec.ofNat 32 (2962227200 + xx.toNat * 16384)]
  | .cpyRedMax xx => [BitVec.ofNat 32 (2963275776 + xx.toNat * 16384)]
  | .cpyOpb xx => [BitVec.ofNat 32 (2964324352 + xx.toNat * 16384)]
  | .copyRun => []
  | .cpyctlResume => []
  | .cpyctlAbort => []
  | .cfetch xx xf xn => [BitVec.ofNat 32 (2986344448 + xx.toNat * 16384 + xf.toNat * 64 + xn.toNat)]
  | .codeSegmentLoaded => []
  | .collAred xx xy xe xo xt => [BitVec.ofNat 32 (3019898880 + xx.toNat * 16384 + xy.toNat * 256 + xe.toNat * 16 + xo.toNat * 4 + xt.toNat)]
  | .collRed xx xy xe xo xt => [BitVec.ofNat 32 (3020947456 + xx.toNat * 16384 + xy.toNat * 256 + xe.toNat * 16 + xo.toNat * 4 + xt.toNat)]
  | .collBcst xx xy xt => [BitVec.ofNat 32 (3021996032 + xx.toNat * 16384 + xy.toNat * 256 + xt.toNat)]
  | .collAgth xx xy xt => [BitVec.ofNat 32 (3023044608 + xx.toNat * 16384 + xy.toNat * 256 + xt.toNat)]
  | .collRsct xx xy xe xo xt => [BitVec.ofNat 32 (3024093184 + xx.toNat * 16384 + xy.toNat * 256 + xe.toNat * 16 + xo.toNat * 4 + xt.toNat)]
  | .collSend xx xy xt => [BitVec.ofNat 32 (3025141760 + xx.toNat * 16384 + xy.toNat * 256 + xt.toNat)]
  | .collRecv xx xy => [BitVec.ofNat 32 (3026190336 + xx.toNat * 16384 + xy.toNat * 256)]
  | .collRset xx xy => [BitVec.ofNat 32 (3027238912 + xx.toNat * 16384 + xy.toNat * 256)]
  | .collectiveComplete => []
  | .collRsetEffect => []
  | .cntDecl xx xy => [BitVec.ofNat 32 (3053453312 + xx.toNat * 16384 + xy.toNat * 256)]
  | .cntTrig xx xb => [BitVec.ofNat 32 (3054501888 + xx.toNat * 16384 + xb.toNat)]
  | .addOnStoreUpdate => []
  | .dspInit xx xy => [BitVec.ofNat 32 (3087007744 + xx.toNat * 16384 + xy.toNat * 256)]
  | .dspNext xx xy => [BitVec.ofNat 32 (3088056320 + xx.toNat * 16384 + xy.toNat * 256)]
  | .presentPost xx xy => [BitVec.ofNat 32 (3120562176 + xx.toNat * 16384 + xy.toNat * 256)]
  | .mres xx xy xn => [BitVec.ofNat 32 (3221225472 + xx.toNat * 16384 + xy.toNat * 256 + xn.toNat)]
  | .mresRel xn => [BitVec.ofNat 32 (3222274048 + xn.toNat)]
  | .mwld xx xy xn => [BitVec.ofNat 32 (3254779904 + xx.toNat * 16384 + xy.toNat * 256 + xn.toNat)]
  | .mma xk xx xy xc => [BitVec.ofNat 32 (3288334336 + xk.toNat * 1048576 + xx.toNat * 16384 + xy.toNat * 256 + xc.toNat)]
  | .mloop xx xy => [BitVec.ofNat 32 (3321888768 + xx.toNat * 16384 + xy.toNat * 256)]
  | .mbat xx => [BitVec.ofNat 32 (3355443200 + xx.toNat * 16384)]
  | .mdrn xk xx xy xd xv xs xa => [BitVec.ofNat 32 (3388997632 + xk.toNat * 1048576 + xx.toNat * 16384 + xy.toNat * 256 + xd.toNat * 32 + xv.toNat * 4 + xs.toNat * 2 + xa.toNat)]
  | .mdrnAdd xk xx xy xd xv xs xa => [BitVec.ofNat 32 (3397386240 + xk.toNat * 1048576 + xx.toNat * 16384 + xy.toNat * 256 + xd.toNat * 32 + xv.toNat * 4 + xs.toNat * 2 + xa.toNat)]
  | .mtake => [BitVec.ofNat 32 (3422552064)]
  | .mgive => [BitVec.ofNat 32 (3423600640)]
  | .mzero xk => [BitVec.ofNat 32 (3430940672 + xk.toNat * 1048576)]
  | .mxq xx xy xc => [BitVec.ofNat 32 (3456106496 + xx.toNat * 16384 + xy.toNat * 256 + xc.toNat)]
  | .matrixCommandEffect => []
  | .mmaKStep => []
  | .matrixBatchComplete => []
  | .hgCfg xx => [BitVec.ofNat 32 (3489660928 + xx.toNat * 16384)]
  | .hgEnc xx xz => [BitVec.ofNat 32 (3490709504 + xx.toNat * 16384 + xz.toNat)]
  | .hgGrad xx xz => [BitVec.ofNat 32 (3491758080 + xx.toNat * 16384 + xz.toNat)]
  | .hgEncComplete => []
  | .hgGradAdd => []
  | .rayTrace xx xy xz => [BitVec.ofNat 32 (3523215360 + xx.toNat * 16384 + xy.toNat * 256 + xz.toNat)]
  | .rayOccl xx xy xz => [BitVec.ofNat 32 (3524263936 + xx.toNat * 16384 + xy.toNat * 256 + xz.toNat)]
  | .rayTri xz => [BitVec.ofNat 32 (3525312512 + xz.toNat)]
  | .rayBox xz => [BitVec.ofNat 32 (3526361088 + xz.toNat)]
  | .rayComplete => []
  | .trInit xx xy => [BitVec.ofNat 32 (3623878656 + xx.toNat * 16384 + xy.toNat * 256)]
  | .trDesc xx xy xn => [BitVec.ofNat 32 (3624927232 + xx.toNat * 16384 + xy.toNat * 256 + xn.toNat)]
  | .trExp xx xy xk => [BitVec.ofNat 32 (3625975808 + xx.toNat * 16384 + xy.toNat * 256 + xk.toNat)]
  | .trBack xx xy => [BitVec.ofNat 32 (3627024384 + xx.toNat * 16384 + xy.toNat * 256)]
  | .trUndo xx xy => [BitVec.ofNat 32 (3628072960 + xx.toNat * 16384 + xy.toNat * 256)]
  | .trReuse xx xy => [BitVec.ofNat 32 (3629121536 + xx.toNat * 16384 + xy.toNat * 256)]
  | .trFree xx xy => [BitVec.ofNat 32 (3630170112 + xx.toNat * 16384 + xy.toNat * 256)]
  | .trStat xx xy => [BitVec.ofNat 32 (3631218688 + xx.toNat * 16384 + xy.toNat * 256)]
  | .treeOperationComplete => []
  | .taskSubmit xx xy xn => [BitVec.ofNat 32 (3758096384 + xx.toNat * 16384 + xy.toNat * 256 + xn.toNat)]
  | .taskDone xx => [BitVec.ofNat 32 (3759144960 + xx.toNat * 16384)]
  | .taskDoneWait xx => [BitVec.ofNat 32 (3759144961 + xx.toNat * 16384)]
  | .nodeTimerExpiry => []
  | .lvlLaunch xx xy => [BitVec.ofNat 32 (3791650816 + xx.toNat * 16384 + xy.toNat * 256)]
  | .lvlCancel xx xy => [BitVec.ofNat 32 (3792699392 + xx.toNat * 16384 + xy.toNat * 256)]
  | .lvlCtr xx xy => [BitVec.ofNat 32 (3793747968 + xx.toNat * 16384 + xy.toNat * 256)]
  | .lvlOpen xx xy xz => [BitVec.ofNat 32 (3794796544 + xx.toNat * 16384 + xy.toNat * 256 + xz.toNat)]
  | .lvlClose xx xy => [BitVec.ofNat 32 (3795845120 + xx.toNat * 16384 + xy.toNat * 256)]
  | .lvlBudget xx xy => [BitVec.ofNat 32 (3796893696 + xx.toNat * 16384 + xy.toNat * 256)]
  | .budgetExpiry => []
  | .levelEnd => []
  | .unitPreload => []
  | .unitStart => []
  | .schedYield => [BitVec.ofNat 32 (3825205248)]
  | .schedSleep xx => [BitVec.ofNat 32 (3826253824 + xx.toNat * 16384)]
  | .yieldTimeout => []
  | .sleepEnd => []
  | .xregAcq xm => [BitVec.ofNat 32 (3892314112 + xm.toNat)]
  | .xregRel xm => [BitVec.ofNat 32 (3893362688 + xm.toNat)]
  | .xpoolTakeEffect => []
  | .sysTrap xn => [BitVec.ofNat 32 (4026531840 + xn.toNat)]
  | .sysEret => [BitVec.ofNat 32 (4027580416)]
  | .sysSvc xn => [BitVec.ofNat 32 (4028628992 + xn.toNat)]
  | .sysHalt => [BitVec.ofNat 32 (4029677568)]
  | .sysBkpt xn => [BitVec.ofNat 32 (4030726144 + xn.toNat)]
  | .sysSegw xx xs => [BitVec.ofNat 32 (4031774720 + xx.toNat * 16384 + xs.toNat)]
  | .sysCsrr xx xn => [BitVec.ofNat 32 (4032823296 + xx.toNat * 16384 + xn.toNat)]
  | .sysCsrw xx xn => [BitVec.ofNat 32 (4033871872 + xx.toNat * 16384 + xn.toNat)]
  | .sysCkpt xx xy => [BitVec.ofNat 32 (4034920448 + xx.toNat * 16384 + xy.toNat * 256)]
  | .preemptRequest => []
  | .restoreRequest => []
  | .preempt => []
  | .unitRestore => []
  | .cancel => []
  | .ptFence => [BitVec.ofNat 32 (4060086272)]
  | .ptInv xx xy => [BitVec.ofNat 32 (4061134848 + xx.toNat * 16384 + xy.toNat * 256)]
  | .ptApply => [BitVec.ofNat 32 (4062183424)]
  | .ptMigb xx xy xz => [BitVec.ofNat 32 (4063232000 + xx.toNat * 16384 + xy.toNat * 256 + xz.toNat)]
  | .ptMigf xx xz => [BitVec.ofNat 32 (4064280576 + xx.toNat * 16384 + xz.toNat)]
  | .ptMigd xx xz => [BitVec.ofNat 32 (4065329152 + xx.toNat * 16384 + xz.toNat)]
  | .ptHotl xx xy => [BitVec.ofNat 32 (4066377728 + xx.toNat * 16384 + xy.toNat * 256)]
  | .pageWalk => []
  | .logApply => []
  | .copierLineCopy => []
  | .migrationRecordFree => []
  | .gustListPublish => []
  | .contextSwitch => []
  | .checkpointStart => []
  | .checkpointComplete => []
  | .powerOn => []
  | .packageReset => []
  | .clockLower => []
  | .clockRaise => []
  | .getVersion => []
  | .getCapabilities => []
  | .negotiateAlgorithms => []
  | .getDigests => []
  | .getCertificate => []
  | .challenge => []
  | .getMeasurements => []
  | .keyExchange => []
  | .finish => []
  | .keyUpdate => []
  | .heartbeat => []
  | .endSession => []
  | .featureAccept => []
  | .ctxCreate => []
  | .ctxDestroy => []
  | .launch => []
  | .gobjCreate => []
  | .gobjDestroy => []
  | .gobjRebind => []
  | .keyInstall => []
  | .keyErase => []
  | .mrReg => []
  | .mrDereg => []
  | .exportSet => []
  | .ckptTier => []
  | .restore => []
  | .ctxContinue => []
  | .outputConfigure => []
  | .roceRequestPacket => []
  | .peerRequest => []
  | .ptpMessage => []
  | .flitIdle => []
  | .flitData => []
  | .flitAck => []
  | .flitSync => []
  | .flitMarker => []
  | .linkDown => []
  | .linkReopen => []
  | .syncFlitSend => []
  | .lockLoss => []
  | .memberLost => []
  | .frameDeadline => []
  | .scrubbing => []
  | .flitOtherType => []

/-- The words an instruction takes in its clause, without its literal (R30, R62). -/
def wordsOf (i : Instr) : Nat := (encode i).length

/-- What the decoder reads from an instruction whose bits are w, the first word lowest (R30). -/
def decodeTableWord (_nbits w : Nat) : Option Instr :=
  (decode [BitVec.ofNat 32 w, BitVec.ofNat 32 (w >>> 32)]).map Prod.fst

end Sys2Proof
end

