-- ==== Sys2Proof/Machine/Mem.lean ====
section
/-!
DEFINITION. Memory: bytes at their homes, the views of the dies (R252), soft errors and poison (R233, R463), encryption
of HBM blocks (R432 to R434), the engine-guarded areas (R225), and how a migration record routes an access (R294 to
R296). A PLACE is a number: SRAM byte b of package slice n at n·2^25 + b, then queue SRAM, instruction memory and HBM
(Maps); a KEYED place adds 2^48 times the key slot of the leaf that gave it.
-/
namespace Sys2Proof.Machine

/-! ## Bytes at their homes -/

def State.rdByte (s : State) (a : Nat) : Byte := FMap.get 0 s.mem a
def State.wrByte (s : State) (a : Nat) (b : Byte) : State := { s with mem := FMap.put 0 s.mem a b }

/-- n bytes from place a, least significant first (R1). -/
def State.rdN (s : State) (a : Nat) : Nat → Nat
  | 0 => 0
  | n + 1 => (s.rdByte a).toNat + 256 * s.rdN (a + 1) n

/-- Stores the low n bytes of a number at place a. -/
def State.rawN (s : State) (a : Nat) : Nat → Nat → State
  | 0, _ => s
  | n + 1, v => (s.wrByte a (BitVec.ofNat 8 (v % 256))).rawN (a + 1) n (v / 256)

/-- The bytes from place a. -/
def State.rdBytes (s : State) (a n : Nat) : List Byte := (List.range n).map fun i => s.rdByte (a + i)

def State.rawBytes (s : State) (a : Nat) : List Byte → State
  | [] => s
  | b :: t => (s.wrByte a b).rawBytes (a + 1) t

/-! ## Places and keys -/

def kplace (ka : Nat) : Nat := ka % pow2 48
def kslot (ka : Nat) : Nat := ka / pow2 48
def keyed (a key : Nat) : Nat := a + key * pow2 48

def isSram (a : Nat) : Bool := decide (a < pow2 33)
def isQueue (a : Nat) : Bool := decide (pow2 33 ≤ a ∧ a < pow2 34)
def isHbm (a : Nat) : Bool := decide (pow2 40 ≤ a)

/-- The device and device physical address of an HBM place. -/
def hbmDev (mode a : Nat) : Nat := (a - pow2 40) / hbmSize mode
def hbmPa (mode a : Nat) : Nat := (a - pow2 40) % hbmSize mode

/-- The die whose home serves a place (R17, R22, R25). -/
def dieOfPlace (mode a : Nat) : Nat :=
  if isSram a then a / pow2 31
  else if isQueue a then (a - pow2 33) / pow2 22
  else if isHbm a then firstDie mode (hbmDev mode a) + stackOf mode (hbmPa mode a) / 2
  else dieOfCore ((a - pow2 34) / pow2 18)

/-- The key a slot of the device holds: 0 for the plaintext slot, none for an empty slot (R432, R434). -/
def State.keyOf (s : State) (dev slot : Nat) : Option Nat :=
  if slot = 0 then some 0
  else if (s.devAt dev).keymap.getLsbD slot then some (FMap.get 0 (s.devAt dev).keyInst slot) else none

/-- The key under which the block that holds a place was written; only HBM is encrypted (R432). -/
def State.writtenUnder (s : State) (a : Nat) : Nat := if isHbm a then FMap.get 0 s.crypt (a / 16) else 0

/-! ## Migration records (R293 to R296) -/

/-- The record whose source frame holds a place, in any device. -/
def State.migOf (s : State) (a : Nat) : Option (Nat × Mig) :=
  s.devs.findSome? fun p => (p.2.migs.find? fun m => decide (m.src ≤ a ∧ a < m.src + m.size)).map fun m => (p.1, m)

/-- An access that arrives at a keyed place stalls: its frame is frozen or ready (R295). -/
def State.frozen (s : State) (ka : Nat) : Bool :=
  match s.migOf (kplace ka) with
  | some (_, m) => decide (m.st = 1 ∨ m.st = 2)
  | none => false

/-- Where an access to a keyed place is performed: at the destination while the record forwards (R296). -/
def State.route (s : State) (ka : Nat) : Nat :=
  match s.migOf (kplace ka) with
  | some (_, m) => if m.st = 3 then keyed (m.dst + (kplace ka - m.src)) m.dstKey else ka
  | none => ka

/-- A write to a line already copied marks it dirty (R294). -/
def State.markDirty (s : State) (a : Nat) : State :=
  match s.migOf a with
  | some (dev, m) =>
    let line := (a - m.src) / 256
    if m.st = 0 ∧ line < m.copied ∧ line ∉ m.dirty then
      let d := s.devAt dev
      s.setDev dev { d with migs := d.migs.map fun x => if x.idx = m.idx then { x with dirty := line :: x.dirty } else x }
    else s
  | none => s

/-- The same for every line that n bytes at a touch. -/
def State.markLines (s : State) (a n : Nat) : State :=
  (List.range ((a + n - 1) / 256 - a / 256 + 1)).foldl (fun s i => s.markDirty (max a ((a / 256 + i) * 256))) s

/-- A write of n bytes at a replaces the poison, and the soft errors not yet found, of every word it covers whole. -/
def State.cleanse (s : State) (a n : Nat) : State :=
  let covers (w : Nat) : Bool := decide (a ≤ 8 * w ∧ 8 * w + 8 ≤ a + n)
  match s.poison, s.latent with
  | [], [] => s
  | l, e => { s with poison := l.filter fun w => !covers w, latent := e.filter fun p => !covers (p.1 / 8) }

/-! ## Views (R252): what a core of a die reads while writes are not yet visible everywhere -/

def VisW.covers (w : VisW) (a : Nat) : Bool := decide (w.addr ≤ a ∧ a < w.addr + w.old.length)
/-- It meets n bytes at a. -/
def VisW.meets (w : VisW) (a n : Nat) : Bool := decide (w.addr < a + n ∧ a < w.addr + w.old.length)
/-- A core of a die, or another agent with that view, reads it: `bound` says that it reads a range bound on the core (R264). -/
def VisW.seenBy (w : VisW) (core die : Nat) (bound : Bool) : Bool :=
  decide (w.core = core) || !w.unseen.contains die || (bound && w.released.contains die)

/-- The byte that a core of a die sees at a, the newest write first: a write that is not visible to it, with every
write before the last visible one, is passed over. -/
def seenByte (core die : Nat) (bound : Bool) (a : Nat) : List VisW → Byte → Byte
  | [], b => b
  | w :: t, b =>
    if w.covers a then
      if w.seenBy core die bound then b else seenByte core die bound a t (w.old.getD (a - w.addr) 0)
    else seenByte core die bound a t b

/-- n bytes as a core of a die sees them. A core number of no core stands for the die's walkers and engines. -/
def State.seenN (s : State) (core die : Nat) (bound : Bool) (a : Nat) : Nat → Nat
  | 0 => 0
  | n + 1 => (seenByte core die bound a s.vis (s.rdByte a)).toNat + 256 * s.seenN core die bound (a + 1) n

/-- The number that stands for no core in a view. -/
def noCore : Nat := 999

/-- A binding takes in an access of n bytes at place a, or at a VA of its context: a main-space binding covers the VA range that
it names, and no synonym of it (R261, R292). -/
def State.takes (s : State) (b : Bind) (a n : Nat) (va : Option (Nat × Nat)) : Bool :=
  if b.main then
    match va with
    | some v => decide (v.1 = (s.unitAt b.unit).asid ∧ v.2 < b.base + b.len ∧ b.base < v.2 + n)
    | none => false
  else decide (a < b.base + b.len ∧ b.base < a + n)

/-- A range bound on the core takes in the access. -/
def State.boundAt (s : State) (core a n : Nat) (va : Option (Nat × Nat)) : Bool :=
  (s.coreAt core).binds.any fun b => s.takes b a n va

/-- Drops from the list the writes that every view has. -/
def settleVis (l : List VisW) : List VisW := l.filter fun w => decide (w.unseen ≠ [])

/-- Writes become visible in some views (R252). -/
def State.publish (s : State) (views : Nat → Bool) (which : VisW → Bool) : State :=
  { s with vis := settleVis (s.vis.map fun w =>
      if which w then { w with unseen := w.unseen.filter fun v => !views v } else w) }

/-- A home that serves an atomic or a tag request returns the newest value; from then on that die sees it (R234). -/
def State.witness (s : State) (die a n : Nat) : State := s.publish (fun v => decide (v = die)) fun w => w.meets a n

/-- Every earlier write to n bytes at a becomes visible in every view: what an engine then stores there is what every
agent reads. -/
def State.settleAt (s : State) (a n : Nat) : State :=
  if s.vis = [] then s else s.publish (fun _ => true) fun w => w.meets a n

/-- What n bytes at a owe before they are written: their lines are marked where a copier has passed (R294), and what they
hold is kept while a launch runs, since its invariant loads may return it (R237). -/
def State.overwrite (s : State) (a n : Nat) : State :=
  let t := s.markLines a n
  if s.since = [] then t else { t with past := (a, s.rdBytes a n) :: s.past }

/-- The transfer of n bytes to or from a fails its CRC as often as it may be sent again (R464). -/
def State.crcLost (s : State) (a n : Nat) : Bool :=
  s.crc.any fun p => decide (4 ≤ p.2 ∧ a / 8 ≤ p.1 / 8 ∧ p.1 / 8 ≤ (a + n - 1) / 8)

/-- The CRC failures that the transfer meets are behind it. -/
def State.crcDone (s : State) (a n : Nat) : State :=
  match s.crc with
  | [] => s
  | l => { s with crc := l.filter fun p => !decide (a / 8 ≤ p.1 / 8 ∧ p.1 / 8 ≤ (a + n - 1) / 8) }

/-- Writes poison to the words that hold n bytes at a (R309, R464). -/
def State.poisonAt (s : State) (a n : Nat) : State :=
  { s with poison := (((List.range ((a + n - 1) / 8 - a / 8 + 1)).map fun i => a / 8 + i) ++ s.poison).eraseDups }

/-- The flits that bring n bytes to place a have arrived, after which a lost one leaves poison in every word that it was for
(R464). -/
def State.flitDone (s : State) (a n : Nat) : State :=
  match s.crc with
  | [] => s
  | _ => if s.crcLost a n then (s.crcDone a n).poisonAt a n else s.crcDone a n

/-- A write of n bytes at a has been stored: poison under it is replaced, or comes with it. -/
def State.stored (s : State) (a n : Nat) : State := (s.cleanse a n).flitDone a n

/-- An engine or home writes the low n bytes of a number at place a, at once visible to every agent: a rule says that what
reads it comes behind it. -/
def State.wrN (s : State) (a n v : Nat) : State := (((s.settleAt a n).overwrite a n).rawN a n v).stored a n

/-- The same for a list of bytes. -/
def State.wrBytes (s : State) (a : Nat) (bs : List Byte) : State :=
  (((s.settleAt a bs.length).overwrite a bs.length).rawBytes a bs).stored a bs.length

/-- The view of the host, and of a peer device (R252). -/
def hostView : Nat := 4
def peerView (remote : Nat) : Nat := 5 + remote

/-- The views that hold the memory of a die's device: its dies, the host if it has a region of the device (R442), and the peers
with an export entry (R443). -/
def State.viewsOf (s : State) (die : Nat) : List Nat :=
  let dev := devOfDie s.mode die
  let d := s.devAt dev
  diesOfDev s.mode dev ++ (if d.regions = [] then [] else [hostView]) ++ (d.exports.map fun p => peerView p.2.remote).eraseDups

/-- A write to n bytes at a that its writing core sees at once, and every view at an instant of its own (R252); `named` and
`va` say by which place or VA. -/
def State.newWrite (s : State) (agent core a n : Nat) (named : Nat := a) (va : Option (Nat × Nat) := none) : State :=
  let w : VisW :=
    { agent := agent, core := core, addr := a, old := s.rdBytes a n, unseen := s.viewsOf (dieOfPlace s.mode a)
      named := named, va := va }
  { s with vis := w :: s.vis }.overwrite a n

/-- An engine, home or port writes the low n bytes of a number at place a, visible in each view at an instant of its own
(R252). -/
def State.wrLate (s : State) (a n v : Nat) : State := ((s.newWrite 0 noCore a n).rawN a n v).stored a n

/-- The same for a list of bytes, written on behalf of a group of a core, which sees them at once. -/
def State.wrBytesFor (s : State) (core a : Nat) (bs : List Byte) : State :=
  ((s.newWrite 0 core a bs.length).rawBytes a bs).stored a bs.length

/-! ## Soft errors (R463, R465) -/

def dieUe (s : State) (d n : Nat) : State :=
  let x := s.dieAt d
  s.setDie d { x with ue := min (x.ue + n) (pow2 32 - 1) }

/-- An access to n bytes at a finds the soft errors there: a single-bit error is corrected and counted, an
uncorrectable one is counted and poisons its 8-byte word. -/
def State.findErrors (s : State) (a n : Nat) : State :=
  match s.latent with
  | [] => s
  | l =>
    let here (p : Nat × Bool) : Bool := decide (a / 8 ≤ p.1 / 8 ∧ p.1 / 8 ≤ (a + n - 1) / 8)
    let found := l.filter here
    let d := dieOfPlace s.mode a
    let x := s.dieAt d
    let ue := (found.filter fun p => p.2).length
    let ce := (found.filter fun p => !p.2).length
    let bad := (found.filter fun p => p.2).map fun p => p.1 / 8
    { s.setDie d { x with ue := min (x.ue + ue) (pow2 32 - 1), ce := min (x.ce + ce) (pow2 32 - 1) } with
      latent := l.filter fun p => !here p
      poison := (bad ++ s.poison).eraseDups }

/-- Some 8-byte word of the n bytes at a is poisoned. -/
def State.poisoned (s : State) (a n : Nat) : Bool :=
  s.poison.any fun w => decide (a / 8 ≤ w ∧ w ≤ (a + n - 1) / 8)

/-- A consumer meets an uncorrectable error that raises no trap (R465): its context is owed a record of class ECC, one for
each level object and step. -/
def State.noteEcc (s : State) (dev asid level addr : Nat) : State :=
  if s.eccDue.any fun e => decide (e.dev = dev ∧ e.asid = asid ∧ e.level = level) then s
  else { s with eccDue := s.eccDue ++ [{ dev := dev, asid := asid, level := level, addr := addr }] }

/-- The same, where the consumer works for a unit. -/
def State.noteUnit (s : State) (uid addr : Nat) : State :=
  let u := s.unitAt uid
  s.noteEcc u.dev u.asid u.level addr

/-! ## The sketch of a memory tile (R298) -/

def sketchMul : List Nat := [0x9E3779B1, 0xC2B2AE3D, 0x6F4A7C15, 0xB5297A4D]
def sketchIdx (r f : Nat) : Nat := nbits ((f % pow2 32) * sketchMul.getD r 0) 31 20

/-- The candidate with the least estimate, and among equals the highest frame. -/
def leastCand : List (Nat × Nat) → Nat × Nat
  | [] => (0, 0)
  | [p] => p
  | p :: t =>
    let q := leastCand t
    if p.2 < q.2 ∨ (p.2 = q.2 ∧ q.1 < p.1) then p else q

def Gust.count (g : Gust) (f : Nat) : Gust :=
  let key (r : Nat) : Nat := 4096 * r + sketchIdx r f
  let c := (List.range 4).foldl (fun m r => FMap.put 0 m (key r) (min (FMap.get 0 m (key r) + 1) 0xFFFF)) g.counters
  let est := (List.range 4).foldl (fun m r => min m (FMap.get 0 c (key r))) 0xFFFF
  let has := g.cand.any fun p => decide (p.1 = f)
  let cand :=
    if has then g.cand.map fun p => if p.1 = f then (f, est) else p
    else if g.cand.length < 64 then g.cand ++ [(f, est)]
    else
      let l := leastCand g.cand
      if l.2 < est then (g.cand.filter fun p => decide (p.1 ≠ l.1)) ++ [(f, est)] else g.cand
  { g with counters := c, cand := cand }

/-- A memory tile serves a request at a place of HBM; a tile that does not publish keeps no count that shows. -/
def State.touch (s : State) (a : Nat) : State :=
  if isHbm a then
    let dev := hbmDev s.mode a
    let pa := hbmPa s.mode a
    let k := stackOf s.mode pa
    let d := s.devAt dev
    let g := FMap.get {} d.gusts k
    if g.enabled then s.setDev dev { d with gusts := d.gusts.ins k (g.count (pa / 65536)) } else s
  else s

/-! ## One access at its home -/

/-- Counts an access to an empty key slot (R434). -/
def State.keyError (s : State) (dev : Nat) : State :=
  let d := s.devAt dev
  s.setDev dev { d with keyerr := min (d.keyerr + 1) (pow2 32 - 1) }

/-- The key an access to a keyed place uses: none where its slot is empty. -/
def State.accessKey (s : State) (ka : Nat) : Option Nat :=
  if isHbm (kplace ka) then s.keyOf (hbmDev s.mode (kplace ka)) (kslot ka) else some 0

/-- The 16-byte block that holds a place, read under a key, as its bytes stand (R432, R434). -/
def State.blockUnder (s : State) (key a stored : Nat) : Nat :=
  Config.xts key (s.writtenUnder a) (hbmPa s.mode a / 16) stored

/-- The byte at a read under a key, where `rd` gives the bytes as they are stored. -/
def State.plain (s : State) (rd : Nat → Nat → Nat) (key a : Nat) : Nat :=
  if s.writtenUnder a = key then rd a 1 % 256
  else s.blockUnder key a (rd (a / 16 * 16) 16) / pow2 (8 * (a % 16)) % 256

/-- n bytes from a read under a key. -/
def State.plainN (s : State) (rd : Nat → Nat → Nat) (key a : Nat) : Nat → Nat
  | 0 => 0
  | n + 1 => s.plain rd key a + 256 * s.plainN rd key (a + 1) n

/-- The value a read of n bytes at a keyed place, by a VA of main space if one is given, returns to a core of a die. -/
def State.readAt (s : State) (core die ka n : Nat) (va : Option (Nat × Nat) := none) : Nat :=
  let r := s.route ka
  let a := kplace r
  match s.accessKey r with
  | some key => s.plainN (s.seenN core die (s.boundAt core (kplace ka) n va)) key a n
  | none => 0

/-- The value the home holds, as an atomic reads it (R239). -/
def State.homeAt (s : State) (ka n : Nat) : Nat :=
  let r := s.route ka
  let a := kplace r
  match s.accessKey r with
  | some key => s.plainN s.rdN key a n
  | none => 0

/-- What n bytes at a held when `past` had t entries (R237). -/
def State.pastN (s : State) (t a n : Nat) : Nat :=
  let newer := s.past.take (s.past.length - t)
  let byte (i : Nat) : Byte :=
    newer.foldl (fun b w => if w.1 ≤ a + i ∧ a + i < w.1 + w.2.length then w.2.getD (a + i - w.1) 0 else b) (s.rdByte (a + i))
  ofBytes ((List.range n).map byte)

/-- Some byte of n at a has been written since `past` had t entries. -/
def State.writtenSince (s : State) (t a n : Nat) : Bool :=
  (s.past.take (s.past.length - t)).any fun w => decide (w.1 < a + n ∧ a < w.1 + w.2.length)

/-- The value an invariant load of n bytes at a keyed place returns to a core of a die (R237): of bytes written since the
launch began, when `past` had t entries, what they held at some instant since; `pick` chooses it. -/
def State.readInvariant (s : State) (core die t pick ka n : Nat) (va : Option (Nat × Nat) := none) : Nat :=
  let r := s.route ka
  let a := kplace r
  match s.accessKey r with
  | some key =>
    if s.writtenSince t a n then
      s.plainN (s.pastN (t + pick % (s.past.length - t + 1))) key a n
    else s.readAt core die ka n va
  | none => 0

/-- What an engine command reads of n bytes when `past` had t entries at its issue: what they have held at some instant
since, which the n-th free choice picks (R202, R211), unless the die has yet to see the last write to them. -/
def State.readSince (s : State) (core die t choice ka n : Nat) (va : Option (Nat × Nat) := none) : Nat :=
  if s.vis.any fun w => w.meets (kplace (s.route ka)) n then s.readAt core die ka n va
  else s.readInvariant core die t (Config.word s.count (pow2 44 + choice)).toNat ka n va

/-- The lanes of an engine command that go on in this step, of those that can: not those that `lazy` names, but one at least
(R10). -/
def State.goingLanes (s : State) (l : List Nat) : List Nat :=
  let now := l.filter fun i => !s.lazy.testBit i
  if now = [] then l.take 1 else now

/-- Bookkeeping of a served request: errors found, an empty slot counted, the sketch raised. -/
def State.served (s : State) (ka n : Nat) : State :=
  let r := s.route ka
  let a := kplace r
  let s := (s.findErrors a n).touch a
  match s.accessKey r with
  | some _ => s
  | none => s.keyError (hbmDev s.mode a)

/-- Re-encrypts under a key the blocks of HBM that n bytes at a touch, so that the rest of a block written under
another key reads as its decryption under the new one. -/
def State.rekey (s : State) (key a n : Nat) : State :=
  if isHbm a then
    ((List.range ((a + n - 1) / 16 - a / 16 + 1)).map fun i => a / 16 + i).foldl (fun s blk =>
      let old := FMap.get 0 s.crypt blk
      if old = key then s
      else
        { s.rawN (16 * blk) 16 (s.blockUnder key (16 * blk) (s.rdN (16 * blk) 16)) with
          crypt := FMap.put 0 s.crypt blk key }) s
  else s

/-- A write of n bytes at a keyed place by an agent of a core, by a VA of main space if one is given (R234, R252): performed
at the home, seen at once by the writing core, by the other agents of each die at an instant of its own. -/
def State.writeAt (s : State) (agent core ka n v : Nat) (va : Option (Nat × Nat) := none) : State :=
  let r := s.route ka
  let a := kplace r
  match s.accessKey r with
  | none => s
  | some key => (((s.rekey key a n).newWrite agent core a n (kplace ka) va).rawN a n v).stored a n

/-- An engine or a home writes n bytes at a place that a migration record may route (R296): at once visible. -/
def State.wrHome (s : State) (a n v : Nat) : State := s.wrN (kplace (s.route a)) n v

/-- It reads them there, as they stand. -/
def State.rdHome (s : State) (a n : Nat) : Nat := s.rdN (kplace (s.route a)) n

/-- The same write on behalf of a group of a core, visible in each view at an instant of its own (R252). -/
def State.wrHomeFor (s : State) (core a n v : Nat) : State := s.wrBytesFor core (kplace (s.route a)) (bytesOf n v)

/-- A consumer reads n bytes at place a: soft errors there are found, and the read brings no good data where a word is poisoned
or its transfer is lost (R463, R464). -/
def State.badRead (s : State) (a n : Nat) : Bool × State :=
  let t := s.findErrors a n
  (t.poisoned a n || t.crcLost a n, t.crcDone a n)

/-- The same at a place that a migration record may route. -/
def State.badHome (s : State) (a n : Nat) : Bool × State := s.badRead (kplace (s.route a)) n

/-! ## Engine-guarded areas (R225, R320, R334) -/

/-- Descriptor fields of a tree slot of the Bora tile in package slice sl (R335). -/
def State.treeField (s : State) (sl t off : Nat) : Nat := s.rdN (sl * pow2 25 + 64 * t + off) 4

/-- Some byte of the n at SRAM place a lies in an engine-guarded area. -/
def State.guarded (s : State) (a n : Nat) : Bool :=
  if isSram a then
    let sl := a / pow2 25
    let b := a % pow2 25
    if isEteSlice sl then decide (b < pow2 24)
    else if isBoraSlice sl then
      decide (b < 0x1000) ||
        (List.range 64).any fun t =>
          decide (s.treeField sl t 48 = 1 ∧ s.treeField sl t 0 < b + n ∧
            b < s.treeField sl t 0 + 32 * s.treeField sl t 4)
    else false
  else false

/-! ## Tags (R242) -/

def State.tagFull (s : State) (a : Nat) : Bool := FMap.get false s.tags (a / 8)
def State.putTag (s : State) (a : Nat) (full : Bool) : State := { s with tags := FMap.put false s.tags (a / 8) full }

end Sys2Proof.Machine
end

