-- ==== Sys2Proof/Machine/Regs.lean ====
section
/-!
DEFINITION. The registers of a group (R53), and a late register write as it reaches them (R36).
-/
namespace Sys2Proof.Machine

/-! ## Registers (R53) -/

/-- A set of lanes from its membership. -/
def lanesOf (f : Nat → Bool) : Lanes := (BitVec.ofBoolListLE ((List.range 64).map f)).setWidth 64

def zeroRow : List Word := List.replicate 64 0
def zeroTile : List Word := List.replicate 256 0

/-- vr of a lane; a register of an unmapped block is 0 (R53, R54). -/
def Group.vAt (g : Group) (r l : Nat) : Word := (FMap.get zeroRow g.v r).getD l 0
def Group.sAt (g : Group) (r : Nat) : Word := FMap.get 0 g.s r
def Group.pAt (g : Group) (i : Nat) : Lanes := FMap.get 0 g.p i
/-- qi; q7 reads 1 (R51). -/
def Group.qAt (g : Group) (i : Nat) : Bool := decide (i = 7) || g.q.getLsbD i
def Group.tAt (g : Group) (k e : Nat) : Word := (FMap.get zeroTile g.t k).getD e 0
def Group.bAt (g : Group) (i l : Nat) : Word := (FMap.get zeroRow g.b i).getD l 0

/-- Writes vr in the lanes of a set; the other lanes keep their values (R37). -/
def Group.setV (g : Group) (r : Nat) (ex : Lanes) (f : Nat → Word) : Group :=
  { g with v := FMap.put zeroRow g.v r ((List.range 64).map fun l => if ex.getLsbD l then f l else g.vAt r l) }
def Group.setS (g : Group) (r : Nat) (w : Word) : Group := { g with s := FMap.put 0 g.s r w }
def Group.setP (g : Group) (i : Nat) (ex : Lanes) (f : Nat → Bool) : Group :=
  { g with p := FMap.put 0 g.p i (lanesOf fun l => if ex.getLsbD l then f l else (g.pAt i).getLsbD l) }
/-- Writes qi; q7 cannot be written (R51). -/
def Group.setQ (g : Group) (i : Nat) (b : Bool) : Group :=
  if i < 7 then { g with q := (g.q &&& ~~~(1#7 <<< i)) ||| (if b then 1#7 <<< i else 0) } else g
def Group.setT (g : Group) (k : Nat) (f : Nat → Word) : Group :=
  { g with t := FMap.put zeroTile g.t k ((List.range 256).map f) }

/-- Writes one register element, as a late write does (R36). -/
def Group.setReg (g : Group) (r : Reg) (w : Word) : Group :=
  match r with
  | .v r l => g.setV r (1#64 <<< l) fun _ => w
  | .s r => g.setS r w
  | .p i l => g.setP i (1#64 <<< l) fun _ => decide (w ≠ 0)
  | .q i => g.setQ i (decide (w ≠ 0))
  | .t k e => { g with t := FMap.put zeroTile g.t k ((FMap.get zeroTile g.t k).set e w) }

/-- The registers differ in a value (R397). -/
def Group.changed (g h : Group) : Bool :=
  decide (g.v ≠ h.v ∨ g.s ≠ h.s ∨ g.p ≠ h.p ∨ g.q ≠ h.q ∨ g.t ≠ h.t)

/-- A write that changes a base pair discards the window formed from it (R228). -/
def Group.keepWindows (g : Group) : Group :=
  let keeps (w : Window) : Bool := decide ((g.sAt w.pair).toNat + (g.sAt (w.pair + 1)).toNat * pow2 32 = w.base)
  if g.windows = [] then g else { g with windows := g.windows.filter keeps }

/-- The operand code of an element's register. -/
def Reg.code : Reg → Nat
  | .v r _ => r
  | .s r => 0x80 + r
  | .p i _ => 0xC4 + i
  | .q i => 0xCC + i
  | .t k _ => 256 + k

/-- A progress event of the path that holds these slices (R397). -/
def Group.progress (g : Group) (slices : BitVec 16) : Group :=
  { g with paths := g.paths.map fun p =>
    if p.slices &&& slices ≠ 0 then { p with spin := 0, demoted := false } else p }

/-! ## Late register writes (R36) -/

/-- The number of elements of an element's register. -/
def Reg.width : Reg → Nat
  | .v _ _ => 64
  | .p _ _ => 64
  | .t _ _ => 256
  | _ => 1

/-- The codes of the registers that a late write writes whole. -/
def OutWrite.whole (o : OutWrite) : List Nat :=
  ((o.regs.filter fun r => decide (r.width ≤ (o.regs.filter fun q => decide (q.code = r.code)).length)).map Reg.code).eraseDups

/-- A late write reaches its registers. Errors of a register it writes whole are replaced (R463), unless it brings its own; a
changed value is a progress event of the path that issued it (R397). -/
def Group.land (g : Group) (o : OutWrite) (ownErrors : Bool) : Group :=
  match o.vals with
  | none => g
  | some vs =>
    let h := (o.regs.zip vs).foldl (fun g p => g.setReg p.1 p.2) g
    let h := if g.changed h then h.progress o.slices else h
    let clean (l : List Nat) : List Nat := if ownErrors then l else l.filter fun p => !o.whole.contains p
    { h.keepWindows with outs := g.outs.filter fun q => decide (q ≠ o), poison := clean g.poison, soft := clean g.soft }

/-- The values of an outstanding write arrive, and are written at once: what it completes is complete only then (R268). -/
def Group.landNow (g : Group) (tok : Nat) (vals : List Word) : Group :=
  match g.outs.find? fun o => decide (o.tok = tok) with
  | none => g
  | some o => ({ g with outs := g.outs.map fun (q : OutWrite) => if q = o then { o with vals := some vals } else q } : Group).land
      { o with vals := some vals } false

end Sys2Proof.Machine
end

