-- ==== Sys2Proof/Machine/Level.lean ====
section
/-!
DEFINITION. Level objects (R361 to R368), launch records (R369, R370) and the task dispatcher (R372 to R377), as
operations on the bytes of SRAM that hold them.
-/
namespace Sys2Proof.Machine

/-! ## The fields of a level object (R361) -/

/-- The home of a level object: the place where its bytes are, also while a migration record forwards its page (R296). -/
def State.lvAt (s : State) (dev off : Nat) : Nat := kplace (s.route (gloc s.mode dev off))
/-- Its page is frozen: what its home is asked to do waits (R295). -/
def State.lvFrozen (s : State) (dev off : Nat) : Bool := s.frozen (gloc s.mode dev off)
/-- A home will do this once the page has thawed. -/
def State.owe (s : State) (op : HomeOp) : State := { s with owed := s.owed ++ [op] }
def State.lvCtr (s : State) (dev l : Nat) : Nat := s.rdN (s.lvAt dev l) 4
def State.lvKind (s : State) (dev l : Nat) : Nat := s.rdN (s.lvAt dev l + 4) 1
def State.lvStatus (s : State) (dev l : Nat) : Nat := s.rdN (s.lvAt dev l + 5) 1
def State.lvFlags (s : State) (dev l : Nat) : Nat := s.rdN (s.lvAt dev l + 6) 1
def State.lvParent (s : State) (dev l : Nat) : Nat := s.rdN (s.lvAt dev l + 8) 4
def State.lvErr (s : State) (dev l : Nat) : Nat := s.rdN (s.lvAt dev l + 12) 4
def State.lvOpenCyc (s : State) (dev l : Nat) : Nat := s.rdN (s.lvAt dev l + 16) 8
def State.lvBudget (s : State) (dev l : Nat) : Nat := s.rdN (s.lvAt dev l + 24) 4

/-- Bits of FLAGS: 0 CANCEL, 1 CLOSED, 2 BG, 3 CONTAIN, 4 POISON, 5 EXPIRED (R361). -/
def State.lvFlag (s : State) (dev l i : Nat) : Bool := (s.lvFlags dev l).testBit i
def State.lvRunning (s : State) (dev l : Nat) : Bool := decide (s.lvStatus dev l = 1)

def State.lvSetCtr (s : State) (dev l v : Nat) : State :=
  if s.lvFrozen dev l then s.owe (.ctr dev l v) else s.wrN (s.lvAt dev l) 4 v
def State.lvSetFlag (s : State) (dev l i : Nat) : State :=
  if s.lvFrozen dev l then s.owe (.flag dev l i) else s.wrN (s.lvAt dev l + 6) 1 (s.lvFlags dev l ||| (1 <<< i))
/-- The level was ended by R466: later operations there change nothing. -/
def State.lvBroken (s : State) (dev l : Nat) : Bool :=
  decide (s.lvStatus dev l = 4 ∧ s.lvCtr dev l = 0xFFFFFFFF) && s.lvFlag dev l 4
/-- The object holds an uncorrectable error, or was ended by R466. -/
def State.lvBad (s : State) (dev l : Nat) : Bool := s.poisoned (s.lvAt dev l) 64 || s.lvBroken dev l
/-- Adds to CTR, as one update at the object's home, which finds what errors the object holds; one that holds an
uncorrectable error is left as it is, and the step breaks it (R466). -/
def State.lvAdd (s : State) (dev l : Nat) (d : Int) : State :=
  if s.lvFrozen dev l then s.owe (.add dev l d)
  else
    let s := s.findErrors (s.lvAt dev l) 64
    if s.lvBad dev l then s else s.lvSetCtr dev l (bitsOf 32 ((s.lvCtr dev l : Int) + d))

/-- ERRCNT rises by 1, as one update at the object's home. -/
def State.lvErrUp (s : State) (dev l : Nat) : State :=
  if s.lvFrozen dev l then s.owe (.err dev l) else s.wrN (s.lvAt dev l + 12) 4 ((s.lvErr dev l + 1) % pow2 32)

/-- Writes a whole level object as it stands at its opening (R361, R362). -/
def State.lvOpen (s : State) (dev asid l kind ctr flags parent budget : Nat) : State :=
  if s.lvFrozen dev l then s.owe (.opens dev asid l kind ctr flags parent budget) else
  let a := s.lvAt dev l
  let s := s.wrN a 4 ctr
  let s := s.wrN (a + 4) 4 (kind + 256 + 65536 * flags)
  let s := s.wrN (a + 8) 4 parent
  let s := s.wrN (a + 12) 4 0
  let s := s.wrN (a + 16) 8 (s.devCycle dev asid)
  let s := s.wrN (a + 24) 4 budget
  let s := s.wrN (a + 28) 36 0
  let s := s.cleanse a 64
  { s.putTag a false with
    levels := (s.levels.filter fun p => decide (p ≠ (dev, l))) ++ [(dev, l)]
    spent := s.spent.filter fun p => decide (p ≠ (dev, l)) }

/-- A parent refuses a child: not running, cancel-pending or closed (R362). -/
def State.lvRefuses (s : State) (dev l : Nat) : Bool :=
  !s.lvRunning dev l || s.lvFlag dev l 0 || s.lvFlag dev l 1

/-- The kinds a parent may have (R362): 0 unit, 1 launch, 2 graph, 3 phase, 4 job. -/
def wider (kind parent : Nat) : Bool :=
  match kind with
  | 1 => decide (parent = 2 ∨ parent = 3 ∨ parent = 4)
  | 2 => decide (parent = 3 ∨ parent = 4)
  | 3 => decide (parent = 4)
  | _ => false

/-- a lies below l in the tree of levels, by following PARENT. -/
def State.lvBelow (s : State) (dev l : Nat) : Nat → Nat → Bool
  | 0, _ => false
  | n + 1, a =>
    let p := s.lvParent dev a
    decide (p = l) || (decide (p ≠ 0xFFFFFFFF) && s.lvBelow dev l n p)

/-- The running levels below a level, in order of opening. -/
def State.lvDescendants (s : State) (dev l : Nat) : List Nat :=
  (s.levels.filter fun p => decide (p.1 = dev) && s.lvRunning dev p.2 && s.lvBelow dev l 5 p.2).map Prod.snd

/-! ## Late register writes and waits of other agents -/

/-- Changes the group that an agent number and a unit name, wherever it is: in its slot, or saved with its unit. -/
def State.updGroup (s : State) (agent unit : Nat) (f : Group → Group) : State :=
  if (s.grpOf agent).unit = unit then s.setGrpOf agent (f (s.grpOf agent))
  else
    { s with ctxs := s.ctxs.map fun p =>
        (p.1, { p.2 with saved := p.2.saved.map fun v =>
          if v.uid = unit then
            { v with groups := v.groups.map fun q => if q.1 = agent then (q.1, f q.2.1, q.2.2) else q }
          else v }) }

/-- Gives an outstanding register write its values (R36), if the group that waits for it still belongs to its unit. -/
def State.deliver (s : State) (agent unit tok : Nat) (vals : List Word) : State :=
  s.updGroup agent unit fun g => { g with outs := g.outs.map fun o => if o.tok = tok then { o with vals := some vals } else o }

/-- The same, and the registers are written at once: an operation that lowers its counter has done its register writes
(R268). -/
def State.deliverNow (s : State) (agent unit tok : Nat) (vals : List Word) : State :=
  s.updGroup agent unit fun g => g.landNow tok vals

/-- Gives some registers of an outstanding register write their values; the others stay outstanding. -/
def Group.bring (g : Group) (tok : Nat) (regs : List Reg) (vals : List Word) : Group :=
  { g with outs := g.outs.flatMap fun o =>
    if o.tok = tok && o.vals.isNone then
      let rest := o.regs.filter fun r => !regs.contains r
      { o with regs := regs, vals := some vals } :: (if rest = [] then [] else [{ o with regs := rest }])
    else [o] }

/-- The same for the group that waits for them, if it still belongs to its unit. -/
def State.deliverRegs (s : State) (agent unit tok : Nat) (regs : List Reg) (vals : List Word) : State :=
  s.updGroup agent unit fun g => g.bring tok regs vals

/-- Adds a register write that has its value and completes later (R36). -/
def Group.late (g : Group) (tok : Nat) (slices : BitVec 16) (regs : List Reg) (vals : Option (List Word)) : Group :=
  { g with outs := g.outs ++ [{ regs := regs, vals := vals, tok := tok, slices := slices }] }

/-- A path wakes: the request it was parked for is served or withdrawn (R395). -/
def Group.wakePath (g : Group) (slices : BitVec 16) : Group :=
  { g with paths := g.paths.map fun p => if p.slices &&& slices ≠ 0 then { p with wait := none } else p }

/-- Lowers an outstanding-operation counter of a group (R34, R268). -/
def State.lower (s : State) (agent unit cls : Nat) : State :=
  s.updGroup agent unit fun g => { g with ctr := FMap.put 0 g.ctr cls (FMap.get 0 g.ctr cls - 1) }

/-! ## Launch records (R369) -/

/-- The fields of a launch record that a unit does not carry itself. -/
structure LaunchRec where
  u : UnitSt := {}
  units : Nat := 0
  core0 : Nat := 0
  ncores : Nat := 0
  level : Nat := 0
  /-- a field lies outside R369, or a segment image fails R428 -/
  bad : Bool := false
  /-- UNITS or LEVEL lies outside R369, which a node unit does not read -/
  badUnits : Bool := false
  /-- a core range beyond the device or the context, or a grant beyond R164's limits -/
  badPlace : Bool := false
deriving DecidableEq, Repr

/-- A segment register from its image of 16 bytes (R223). -/
def segOf (w0 w1 : Nat) : SegReg :=
  { v := w1.testBit 63, wr := w1.testBit 62, base := w0 % pow2 48, limit := w1 % pow2 48 }

/-- The rules a segment image obeys (R428). -/
def segOk (mode sp w0 w1 : Nat) : Bool :=
  let r := segOf w0 w1
  decide (nbits w1 61 48 = 0 ∧ nbits w0 63 48 = 0) &&
    (!r.v ||
      match sp with
      | 0 => decide (r.base + 64 * r.limit ≤ pow2 25)
      | 1 => decide (r.base + r.limit ≤ pow2 25)
      | 2 => decide (r.base + r.limit ≤ globalSize mode)
      | 3 => decide (r.base + r.limit ≤ pow2 48)
      | 4 => decide (r.base + r.limit ≤ globalSize mode) && !r.wr
      | 5 => decide (r.base + r.limit ≤ pow2 18) && !r.wr
      | _ => decide (r.base + r.limit ≤ pow2 22))

/-- A table of n entries of `size` bytes at a global offset lies in the global space outside every guarded area. -/
def State.tableOk (s : State) (dev off n size align : Nat) : Bool :=
  decide (off % align = 0 ∧ off + n * size ≤ globalSize s.mode) &&
    (decide (n = 0) || !s.guarded (gloc s.mode dev off) (n * size))

/-- Reads a launch record at a global offset (R369). -/
def State.readRecord (s : State) (dev asid off : Nat) : LaunchRec :=
  let a := kplace (s.route (gloc s.mode dev off))
  let f (o n : Nat) : Nat := s.rdN (a + o) n
  let img (i : Nat) : Nat × Nat := (f (64 + 16 * i) 8, f (72 + 16 * i) 8)
  let segs : FMap SegReg := (List.range 7).map fun i => (i, segOf (img i).1 (img i).2)
  let opr := f 52 4
  let wbr := f 56 4
  let core0 := f 24 2
  let nc := f 26 2
  let u : UnitSt :=
    { dev := dev, asid := asid, bg := (f 15 1).testBit 0, groups := f 14 1, seed := BitVec.ofNat 32 (f 20 4)
      sptab := f 32 4, spcnt := f 36 4, lmtab := f 40 4, lmcnt := f 44 4, mrec := BitVec.ofNat 16 (f 48 2)
      opFirst := nbits opr 11 0, opCount := nbits opr 28 16, wbFirst := nbits wbr 11 0, wbCount := nbits wbr 27 16
      entry := f 8 4, args := (List.range 62).map fun i => BitVec.ofNat 32 (f (176 + 4 * i) 4)
      link := BitVec.ofNat 32 (f 424 4), segs := segs, codeva := f 0 8, firstSeg := f 12 1, nsegs := f 13 1 }
  { u := u, units := f 16 4, core0 := core0, ncores := nc, level := f 28 4
    bad :=
      decide (u.codeva % 4096 ≠ 0 ∨ u.firstSeg > 63 ∨ u.nsegs = 0 ∨ u.nsegs > 64 ∨ u.firstSeg + u.nsegs > 64 ∨
        u.groups = 0 ∨ u.groups > 16 ∨ f 15 1 > 1 ∨ nc > 208 ∨
        u.entry < 4096 * u.firstSeg ∨ u.entry ≥ 4096 * (u.firstSeg + u.nsegs) ∨ u.entry % 4 ≠ 0 ∨
        f 50 2 ≠ 0 ∨ nbits opr 15 12 ≠ 0 ∨ nbits opr 31 29 ≠ 0 ∨ u.opCount > 4096 ∨ nbits wbr 15 12 ≠ 0 ∨
        nbits wbr 31 28 ≠ 0 ∨ u.wbCount > 2048 ∨ f 60 4 ≠ 0 ∨ f 428 84 ≠ 0) ||
      !s.tableOk dev u.sptab u.spcnt 8 8 || !s.tableOk dev u.lmtab u.lmcnt 32 32 ||
      !((List.range 7).all fun i => segOk s.mode i (img i).1 (img i).2)
    badUnits := decide (f 16 4 = 0 ∨ f 16 4 > 65535) || !s.tableOk dev (f 28 4) (f 16 4 + 1) 64 64
    badPlace :=
      decide (nc > 0 ∧ ¬ ((List.range nc).all fun i => decide ((core0 + i) ∈ (s.ctxAt dev asid).cores)) = true) ||
      decide (u.opFirst + u.opCount > 4096 ∨ u.wbFirst + u.wbCount > 2048) }

/-- The core of unit u of a launch (R370); the device chooses where NCORES is 0. -/
def State.placeOf (s : State) (r : LaunchRec) (u : Nat) : Nat :=
  if r.ncores = 0 then
    let cs := (s.ctxAt r.u.dev r.u.asid).cores
    cs.getD (Config.anyCore s.count u % cs.length) 0
  else r.core0 + u % r.ncores

/-- Binds the entries of group objects that name a level object to the unit that opens it (R503); no unit of a device without
the object is a member (R498). -/
def State.bindMembers (s : State) (dev off uid : Nat) : State :=
  let has (o : Nat) : Bool := (FMap.find (s.devAt dev).gobjs o).isSome
  { s with devs := s.devs.map fun p =>
      (p.1, { p.2 with gobjs := p.2.gobjs.map fun q =>
        (q.1, { q.2 with members := q.2.members.map fun m =>
          if m.dev = dev ∧ m.unit = none ∧ !m.ended ∧ has q.1 ∧
              (m.off = off ∨ (m.off + 64 = off ∧ s.lvParent dev off = m.off ∧ s.lvKind dev m.off = 1))
          then { m with unit := some uid } else m }) }) }

/-- Hands a unit to its core, behind those that wait there (R370). -/
def State.arrive (s : State) (u : UnitSt) : State :=
  let (uid, s) := s.fresh
  let s := s.setUnit uid u
  let c := s.coreAt u.core
  let s := s.setCore u.core { c with arrivals := c.arrivals ++ [uid] }
  if u.opened then s.bindMembers u.dev u.level uid else s

/-- The level object of a node unit opens as the unit starts (R371, R503). DEDUCED (log 105): one that ends before it starts
opens its object, with CTR 0, to end it. -/
def State.openUnit (s : State) (uid ctr flags : Nat) : State :=
  let u := s.unitAt uid
  if u.opened then s
  else
    ((s.setUnit uid { u with opened := true }).lvOpen u.dev u.asid u.level 0 ctr flags u.graph 0).bindMembers u.dev u.level uid

/-! ## The dispatcher (R372 to R377) -/

/-- A node's entry as the dispatcher reads it (R372). -/
structure NodeEnt where
  v : Bool
  launch : Nat
  graph : Nat
  upool : Nat
  timer : Nat
  c : Nat
  most : Nat
  die : Nat
  binrec : Nat
  recoff : Nat
  bincap : Nat
deriving DecidableEq, Repr

/-- The place of node n's entry. -/
def State.nodePlace (s : State) (dev n : Nat) : Nat := qloc (firstDie s.mode dev) (32 * n)

def State.nodeEnt (s : State) (dev n : Nat) : NodeEnt :=
  let f (o : Nat) : Nat := s.rdN (s.nodePlace dev n + o) 4
  let un := f 16
  let k := nbits un 9 8
  let cap := f 24
  let br := nbits un 26 10
  { v := (f 28).testBit 0 && decide (k < diesPer s.mode ∧ 32 * (br + cap) ≤ pow2 22 ∧ 1 ≤ cap ∧ cap ≤ 131072) &&
      !s.poisoned (s.nodePlace dev n) 32
    launch := f 0, graph := f 4, upool := f 8, timer := nbits (f 12) 23 0, c := nbits (f 12) 29 24 + 1
    most := nbits un 5 0 + 1, die := firstDie s.mode dev + k, binrec := br, recoff := f 20, bincap := cap }

def State.nodeSt (s : State) (dev n : Nat) : NodeSt := FMap.get {} (s.devAt dev).nodes n
def State.setNode (s : State) (dev n : Nat) (x : NodeSt) : State :=
  let d := s.devAt dev
  s.setDev dev { d with nodes := d.nodes.ins n x }

/-- The dispatcher reads a node's entry. An uncorrectable error there makes the node act as V = 0, and sets POISON in its
graph (R465). -/
def State.nodeErrors (s : State) (dev n : Nat) : State :=
  let a := s.nodePlace dev n
  let s := s.findErrors a 32
  let x := s.nodeSt dev n
  let graph := if x.recs = [] && x.running = [] && !s.poisoned (a + 4) 4 then (s.nodeEnt dev n).graph else x.graph
  if s.poisoned a 32 && s.lvRunning dev graph && !s.lvFlag dev graph 4 then (s.lvSetFlag dev graph 4).noteEcc dev x.asid graph a
  else s

/-- The ready records of a node, oldest ready instant first (R374). -/
def readyList (recs : List BinRec) : List BinRec :=
  sortBy (fun a b =>
    match a.ready, b.ready with
    | some x, some y => decide (x.1 < y.1 ∨ (x.1 = y.1 ∧ x.2 ≤ y.2))
    | _, _ => true) (recs.filter fun r => r.ready.isSome)

/-- The node's launch condition (R375): C ready records, or the oldest ready for TIMER cycles, or a closed graph with
one ready record. -/
def State.nodeDue (s : State) (dev n : Nat) : Bool :=
  let e := s.nodeEnt dev n
  match readyList (s.nodeSt dev n).recs with
  | [] => false
  | r :: t =>
    decide (e.c ≤ t.length + 1) || s.lvFlag dev e.graph 1 ||
      (match r.ready with
       | some x => decide (x.1 + e.timer ≤ s.cycle)
       | none => false)

/-- Takes up to C ready records out of a node's bin, lowering the graph's CTR by their number (R375). A record with an
uncorrectable error is discarded and sets POISON in the graph (R377). -/
def State.takeRecords (s : State) (dev n : Nat) : List (List Byte) × State :=
  let e := s.nodeEnt dev n
  let x := s.nodeSt dev n
  let rs := (readyList x.recs).take e.c
  let place (r : BinRec) : Nat := qloc e.die (32 * (e.binrec + r.slot))
  let s := rs.foldl (fun s r => s.findErrors (place r) 32) s
  let good := rs.filter fun r => !s.poisoned (place r) 32
  let bytes := good.map fun r => s.rdBytes (place r) 32
  let s := s.setNode dev n { x with recs := x.recs.filter fun r => decide (r ∉ rs) }
  let s := s.lvAdd dev e.graph (-(rs.length : Int))
  (bytes, if good.length < rs.length then (s.lvSetFlag dev e.graph 4).noteEcc dev x.asid e.graph (qloc e.die (32 * e.binrec))
    else s)

/-- The area in slice space at which a unit receives records (R376). -/
def UnitSt.recArea (u : UnitSt) : Nat := sloc u.core ((FMap.get {} u.segs 1).base + u.recoff)

/-- Writes delivered records to a unit's area (R376). -/
def State.putRecords (s : State) (u : UnitSt) (recs : List (List Byte)) : State :=
  recs.zipIdx.foldl (fun s p => s.wrBytes (kplace (s.route (u.recArea + 32 * p.2))) p.1) s

/-- The area of the k records that a unit receives next lies in part in a frozen page (R295). -/
def State.areaFrozen (s : State) (u : UnitSt) (k : Nat) : Bool := (List.range k).any fun i => s.frozen (u.recArea + 32 * i)

/-- Starts a unit of a node on ready records (R375, R376). A launch record that breaks R369 gives a unit that ends with
status error before it runs, and so does one with an uncorrectable error (R448; DESIGN CHOICE, log 104). -/
def State.startNodeUnit (s : State) (dev n : Nat) : State :=
  let e := s.nodeEnt dev n
  let x := s.nodeSt dev n
  let asid := x.asid
  match (List.range e.most).find? fun i => decide (i ∉ x.running.map Prod.fst) with
  | none => s
  | some i =>
    let (lost, s) := s.badHome (gloc s.mode dev e.launch) 512
    let s := if lost then s.noteEcc dev asid e.graph (gloc s.mode dev e.launch) else s
    let r := s.readRecord dev asid e.launch
    let r := { r with bad := r.bad || lost }
    let lv := e.upool + 64 * i
    let (recs, s) := s.takeRecords dev n
    let s := s.lvAdd dev e.graph 1
    let idx := (x.started - FMap.get 0 x.base e.graph) % 65536
    let u : UnitSt :=
      { r.u with core := s.placeOf r idx, level := lv, uidx := idx, priv := false
                 bg := r.u.bg || s.lvFlag dev e.graph 2, node := some n, recoff := e.recoff, recs := recs
                 graph := e.graph, opened := false
                 errored := r.bad || r.badPlace, ending := r.bad || r.badPlace }
    let uid := s.tok
    let x := s.nodeSt dev n
    let s := s.setNode dev n { x with running := x.running ++ [(i, uid)], started := x.started + 1, graph := e.graph }
    if r.bad || r.badPlace then ((s.setUnit uid u).fresh.2).openUnit uid 0 2 else s.arrive u

/-- Serves the oldest waiting task.done.wait of a node with up to C ready records (R375, R387). -/
def State.serveDone (s : State) (dev n : Nat) (w : Nat × BitVec 16 × Nat) : State :=
  let (recs, s) := s.takeRecords dev n
  let x := s.nodeSt dev n
  let s := s.setNode dev n { x with waiters := x.waiters.drop 1 }
  let g := s.grpOf w.1
  let u := s.unitAt g.unit
  let s := s.putRecords u recs
  ((s.setGrpOf w.1 (g.wakePath w.2.1)).deliverNow w.1 g.unit w.2.2 [BitVec.ofNat 32 recs.length]).lower w.1 g.unit 7

/-- Waiting task.done.wait requests of a node end with count 0 when the graph ends its bins (R387). -/
def State.dropWaiters (s : State) (dev n : Nat) : State :=
  let x := s.nodeSt dev n
  let s := s.setNode dev n { x with waiters := [] }
  x.waiters.foldl (fun s w =>
    let g := s.grpOf w.1
    ((s.setGrpOf w.1 (g.wakePath w.2.1)).deliverNow w.1 g.unit w.2.2 [0]).lower w.1 g.unit 7) s

/-- The nodes whose graph is a level. -/
def State.nodesOf (s : State) (dev graph : Nat) : List Nat :=
  ((s.devAt dev).nodes.filter fun p => decide (p.2.graph = graph)).map Prod.fst

/-- Acts on a node's launch condition as long as it holds and somebody can take the records (R375). -/
def State.dispatchNode (s : State) (dev n : Nat) : Nat → State
  | 0 => s
  | fuel + 1 =>
    let e := s.nodeEnt dev n
    if e.v && s.lvRunning dev e.graph && !s.lvFlag dev e.graph 0 && !s.lvBad dev e.graph && s.nodeDue dev n then
      match (s.nodeSt dev n).waiters with
      | w :: _ =>
        if s.areaFrozen (s.unitAt (s.grpOf w.1).unit) e.c then s else (s.serveDone dev n w).dispatchNode dev n fuel
      | [] =>
        if (s.nodeSt dev n).running.length < e.most then (s.startNodeUnit dev n).dispatchNode dev n fuel
        else s
    else s

/-- A node's dispatcher acts at this instant. Once its graph is closed or cancelled and its bin is empty, the waiting
requests end. -/
def State.dispatch (s : State) (dev n : Nat) : State :=
  let s := (s.nodeErrors dev n).dispatchNode dev n ((s.nodeSt dev n).recs.length + 1)
  let x := s.nodeSt dev n
  if x.recs = [] ∧ x.waiters ≠ [] ∧ (s.lvFlag dev x.graph 0 ∨ s.lvFlag dev x.graph 1) then s.dropWaiters dev n else s

/-- An operand of a bin record has become full (R374): the record is ready when none is missing. -/
def State.operandFull (s : State) (dev n slot : Nat) : State :=
  let x := s.nodeSt dev n
  let s := s.setNode dev n { x with recs := x.recs.map fun r =>
    if r.slot = slot ∧ r.missing > 0 then
      { r with missing := r.missing - 1, ready := if r.missing = 1 then some (s.cycle, s.tok) else none }
    else r }
  s.fresh.2.dispatch dev n

/-- The bins of a cancelled graph are emptied, each record lowering CTR by 1 (R365). -/
def State.dropBins (s : State) (dev graph : Nat) : State :=
  (s.nodesOf dev graph).foldl (fun s n =>
    let x := s.nodeSt dev n
    let s := s.setNode dev n { x with recs := [] }
    let s := { s with parked := s.parked.filter fun r =>
      match r.kind with
      | .operand d m _ => !decide (d = dev ∧ m = n)
      | _ => true }
    (s.lvAdd dev graph (-(x.recs.length : Int))).dropWaiters dev n) s

/-! ## Cancel (R365) -/

/-- The unit instance whose level object is l, if it is accepted or runs. -/
def State.unitOfLevel (s : State) (dev l : Nat) : Option Nat :=
  (s.units.find? fun p => decide (p.2.dev = dev ∧ p.2.level = l)).map Prod.fst

/-- The code fetches of a core without those of a set: a segment that only they were loading becomes ABSENT (R318). -/
def Core.dropFetches (c : Core) (gone : CopyCmd → Bool) : Core :=
  let left := c.copies.filter fun k => !gone k
  let absent (n : Nat) : Bool :=
    (c.copies.any fun k => gone k && decide (k.cseg = some n)) && !(left.any fun k => decide (k.cseg = some n))
  { c with copies := left, segs := c.segs.filter fun p => !(decide (p.2.st = 1) && absent p.1) }

/-- A unit that has not started ends: its core drops it with its preloads, its CTR becomes 0, and none of its groups runs
(R365, R371). -/
def State.dropArrival (s : State) (uid : Nat) (err : Bool) : State :=
  let u := s.unitAt uid
  let c := s.coreAt u.core
  let mine (k : CopyCmd) : Bool := k.preload && decide (k.unit = uid)
  let s := s.setCore u.core
    { c.dropFetches mine with
      arrivals := c.arrivals.filter fun x => decide (x ≠ uid), shelved := c.shelved.filter fun k => !mine k }
  let s := s.openUnit uid 0 (if err then 2 else 3)
  (s.setUnit uid { s.unitAt uid with cancelled := !err, errored := u.errored || err, ending := true }).lvSetCtr u.dev u.level 0

/-- Cancel reaches a unit: one not yet started ends at once, a running one gets CANCEL pending in every group. -/
def State.cancelUnit (s : State) (dev l : Nat) : State :=
  match s.unitOfLevel dev l with
  | none => s
  | some uid =>
    let u := s.unitAt uid
    if u.started then
      u.slots.foldl (fun s a => s.updGroup a uid fun g => { g with cancel := true }) s
    else s.dropArrival uid false

/-- Sets CANCEL at one running level and does what follows from it there. A unit of a graph's node whose level object is not
yet open ends too. -/
def State.cancelOne (s : State) (dev l : Nat) : State :=
  let s := s.lvSetFlag dev l 0
  match s.lvKind dev l with
  | 0 => s.cancelUnit dev l
  | 2 =>
    let early := (s.units.filter fun p => decide (p.2.dev = dev ∧ p.2.graph = l) && !p.2.opened).map Prod.fst
    (early.foldl (fun s uid => s.dropArrival uid false) s).dropBins dev l
  | _ => s

/-- A cancel accepted at a level reaches it, then every descendant that runs at that instant (R365). -/
def State.cancelLevel (s : State) (dev l : Nat) : State :=
  (l :: s.lvDescendants dev l).foldl (fun s x => s.cancelOne dev x) s

/-! ## Version objects (R379, R381) -/

/-- A publication: VER rises and the payload is taken, or WHELD rises. -/
def State.publishVer (s : State) (a : Nat) (ok : Bool) (payload : Nat) : State :=
  let s := if ok then (s.wrN a 4 ((s.rdN a 4 + 1) % pow2 32)).wrN (a + 8) 8 payload
           else s.wrN (a + 4) 4 ((s.rdN (a + 4) 4 + 1) % pow2 32)
  s.wrN (a + 28) 1 0

/-- The pending publication of a version object is published or withheld, at the object's home. -/
def State.settleVer (s : State) (dev off : Nat) (ok : Bool) : State :=
  if s.lvFrozen dev off then s.owe (.version dev off ok)
  else s.publishVer (s.lvAt dev off) ok (s.rdN (s.lvAt dev off + 16) 8)

/-- The pending publications that depend on a level act on its end (R381). -/
def State.endVersions (s : State) (dev l : Nat) (ok : Bool) : State :=
  let due := s.vers.filter fun p => decide (p.1 = dev ∧ s.rdN (s.lvAt dev p.2 + 24) 4 = l)
  let s := { s with vers := s.vers.filter fun p => decide (p ∉ due) }
  due.foldl (fun s p => s.settleVer dev p.2 ok) s

end Sys2Proof.Machine
end

