-- ==== Sys2Proof/Machine/Walk.lean ====
section
/-!
DEFINITION. Translation of main-space addresses (R279 to R291): walks, the accessed and dirty updates, what a core holds,
and the invalidation log.
-/
namespace Sys2Proof.Machine

/-! ## Page tables (R280, R281) -/

/-- The index of a virtual address in its table of a level. -/
def walkIdx (va lv : Nat) : Nat :=
  match lv with
  | 1 => nbits va 47 39
  | 2 => nbits va 38 30
  | 3 => nbits va 29 21
  | _ => nbits va 20 16

/-- The page size of a leaf of a level. -/
def pageSize (lv : Nat) : Nat := if lv = 2 then pow2 30 else if lv = 3 then pow2 21 else pow2 16

/-- Fields of an entry. -/
def pteV (e : Nat) : Bool := e.testBit 63
def pteLeaf (e : Nat) : Bool := e.testBit 62
def pteR (e : Nat) : Bool := e.testBit 61
def pteW (e : Nat) : Bool := e.testBit 60
def pteA (e : Nat) : Bool := e.testBit 59
def pteD (e : Nat) : Bool := e.testBit 58
def pteLoc (e : Nat) : Bool := e.testBit 57
def pteMig (e : Nat) : Nat := nbits e 56 55
def pteKey (e : Nat) : Nat := nbits e 54 49
def pteAddr (e : Nat) : Nat := nbits e 47 8 * 256

/-- Some byte of n at place a of SRAM, perhaps over several slices, lies in an engine-guarded area. -/
def State.guardedRange (s : State) (a n : Nat) : Bool :=
  (List.range ((a + n - 1) / pow2 25 - a / pow2 25 + 1)).any fun i =>
    let sl := a / pow2 25 + i
    let lo := max a (sl * pow2 25)
    let hi := min (a + n) ((sl + 1) * pow2 25)
    s.guarded lo (hi - lo)

/-- The outcome of a walk: the leaf's place, its value and its level. -/
structure Walked where
  place : Nat
  e : Nat
  lv : Nat
deriving DecidableEq, Repr

/-- The checks of R281 on a leaf of a level. -/
def State.leafOk (s : State) (dev e lv : Nat) : Bool :=
  let size := pageSize lv
  decide (lv ≠ 1 ∧ pteAddr e % size = 0) &&
    (if pteLoc e then
       decide (pteKey e = 0 ∧ pteAddr e + size ≤ globalSize s.mode) && !s.guardedRange (gloc s.mode dev (pteAddr e)) size
     else decide (pteAddr e + size ≤ hbmSize s.mode))

/-- A walk from level lv at table address a (R281); `fuel` levels remain. Entries are read as the die sees them. -/
def State.walkFrom (s : State) (die dev va : Nat) : Nat → Nat → Nat → Option Walked
  | 0, _, _ => none
  | fuel + 1, lv, a =>
    let p := hloc s.mode dev (a + 8 * walkIdx va lv)
    let e := s.readAt noCore die p 8
    if !pteV e || e.testBit 48 then none
    else if pteLeaf e then (if s.leafOk dev e lv then some ⟨p, e, lv⟩ else none)
    else if lv = 4 ∨ nbits e 61 49 ≠ 0 then none
    else if lv < 3 ∧ pteAddr e % 4096 ≠ 0 then none
    else if pteAddr e + (if lv < 3 then 4096 else 256) > hbmSize s.mode then none
    else s.walkFrom die dev va fuel (lv + 1) (pteAddr e)

/-- The places of the entries that such a walk reads. -/
def State.walkPath (s : State) (die dev va : Nat) : Nat → Nat → Nat → List Nat
  | 0, _, _ => []
  | fuel + 1, lv, a =>
    let p := hloc s.mode dev (a + 8 * walkIdx va lv)
    let e := s.readAt noCore die p 8
    if !pteV e || e.testBit 48 || pteLeaf e || decide (lv = 4 ∨ nbits e 61 49 ≠ 0 ∨ (lv < 3 ∧ pteAddr e % 4096 ≠ 0) ∨
        pteAddr e + (if lv < 3 then 4096 else 256) > hbmSize s.mode) then [p]
    else p :: s.walkPath die dev va fuel (lv + 1) (pteAddr e)

/-- The table of a context's walks begins here. -/
def State.walkRoot (s : State) (dev asid : Nat) : Nat := nbits (s.ctxAt dev asid).ptroot.toNat 47 12 * 4096

/-- The entries that the walk of an address reads. -/
def State.walkReads (s : State) (die dev asid va : Nat) : List Nat :=
  let a := s.walkRoot dev asid
  if a + 4096 > hbmSize s.mode then [] else s.walkPath die dev va 4 1 a

/-- The walk of an address stalls at the home of an entry in a frozen frame (R295). -/
def State.walkStalls (s : State) (die dev asid va : Nat) : Bool :=
  (s.devs.any fun p => p.2.migs.any fun m => decide (m.st = 1 ∨ m.st = 2)) &&
    (s.walkReads die dev asid va).any s.frozen

/-- The walk of an address in a context. -/
def State.walk (s : State) (die dev asid va : Nat) : Option Walked :=
  let a := s.walkRoot dev asid
  if a + 4096 > hbmSize s.mode then none else s.walkFrom die dev va 4 1 a

/-! ## Accessed and dirty (R283) -/

/-- The bits of a leaf that an access needs. -/
def neededBits (write touch : Bool) : Nat :=
  if !touch then 0 else if write then pow2 59 + pow2 58 else pow2 59

def hasBits (e m : Nat) : Bool := decide (e &&& m = m)

/-- A permission that a leaf refuses: a read needs R, a write or atomic W. -/
def permitted (e : Nat) (write : Bool) : Bool := if write then pteW e else pteR e

/-- Sets the needed bits of a walked leaf by one compare-and-update at its home; where the entry has changed meanwhile,
everything becomes visible to the die and the walk runs again. -/
def State.updateLeaf (s : State) (die dev asid va : Nat) (write touch : Bool) : Nat → Walked → Option Walked × State
  | 0, _ => (none, s)
  | fuel + 1, w =>
    let m := neededBits write touch
    if !permitted w.e write || hasBits w.e m then (some w, s)
    else if s.homeAt w.place 8 = w.e then
      let e := w.e ||| m
      (some { w with e := e }, (s.touch (kplace (s.route w.place))).writeAt 0 noCore w.place 8 e)
    else
      let s := s.publish (fun v => decide (v = die)) fun _ => true
      match s.walk die dev asid va with
      | none => (none, s)
      | some w => s.updateLeaf die dev asid va write touch fuel w

/-- The reads of a walk: the memory tiles count the requests they serve for it (R298). -/
def State.touchWalk (s : State) (die dev asid va : Nat) : State :=
  (s.walkReads die dev asid va).foldl (fun s p => (s.findErrors (kplace (s.route p)) 8).touch (kplace (s.route p))) s

/-- A fresh walk with its update. -/
def State.freshWalk (s : State) (die dev asid va : Nat) (write touch : Bool) : Option Walked × State :=
  let s := s.touchWalk die dev asid va
  match s.walk die dev asid va with
  | none => (none, s)
  | some w => s.updateLeaf die dev asid va write touch 2 w

/-! ## Translations that a core holds (R228, R282, R284) -/

/-- A translation: page base, size, leaf. -/
structure Page where
  va : Nat
  size : Nat
  e : Nat
deriving DecidableEq, Repr

def TlbEnt.page (t : TlbEnt) : Page := { va := t.va, size := t.size, e := t.leaf.toNat }

/-- The fields of a leaf that an access depends on: V to W, LOC, KEY, ADDR. -/
def pteMeaning (e : Nat) : Nat := e &&& 0xF27EFFFFFFFFFF00

/-- A held translation that covers an address and has the bits an access needs. -/
def Core.held (c : Core) (asid va need : Nat) : Option Page :=
  (c.tlb.find? fun t =>
    decide (t.asid = asid ∧ t.va ≤ va ∧ va < t.va + t.size) && hasBits t.leaf.toNat need).map TlbEnt.page

/-- A translation put in front of those that a TLB of n entries holds; a full one gives up the entry that it has held longest
(DESIGN CHOICE, log 110). -/
def holdIn (t : TlbEnt) (n : Nat) (l : List TlbEnt) : List TlbEnt :=
  (t :: l.filter fun x => !decide (x.asid = t.asid ∧ x.va = t.va)).take n

/-- The second-level TLB of a core's cluster (R22). -/
def State.tlb2Of (s : State) (core : Nat) : List TlbEnt := FMap.get [] s.tlb2 (clusterOfCore core)

/-- Holds a translation in the core's first-level TLB and in its cluster's second-level one. -/
def State.hold (s : State) (core asid : Nat) (p : Page) : State :=
  if core = noCore then s
  else
    let c := s.coreAt core
    let t : TlbEnt := { asid := asid, va := p.va, size := p.size, leaf := BitVec.ofNat 64 p.e }
    let s := s.setCore core { c with tlb := holdIn t 96 c.tlb }
    { s with tlb2 := s.tlb2.ins (clusterOfCore core) (holdIn t 2048 (s.tlb2Of core)) }

/-- A translation of an address that the core or its cluster holds, with the bits that an access needs. -/
def State.heldBy (s : State) (core asid va need : Nat) : Option Page :=
  if core = noCore then none
  else ((s.coreAt core).held asid va need).or (({ tlb := s.tlb2Of core } : Core).held asid va need)

/-- Translates an address for an access by a core of a die, or by a die's walkers with `noCore`: the page, or the cause
of R226. `via` is the window that covers it, if one does (R228), which goes before the TLBs. A held translation that differs
from a fresh walk may serve or not (R284). -/
def State.translateVia (s : State) (via : Option Page) (core die dev asid va : Nat) (write touch : Bool) :
    (Except Nat Page) × State :=
  let need := neededBits write touch
  let done (p : Page) (s : State) : (Except Nat Page) × State :=
    if permitted p.e write then (.ok p, s) else (.error 0x09, s)
  let walked (s : State) : (Except Nat Page) × State :=
    match s.freshWalk die dev asid va write touch with
    | (none, s) => (.error 0x08, s)
    | (some w, s) =>
      let size := pageSize w.lv
      let p : Page := { va := va / size * size, size := size, e := w.e }
      done p (s.hold core asid p)
  match (via.filter fun p => hasBits p.e need).or (s.heldBy core asid va need) with
  | none => walked s
  | some p =>
    let same := match s.walk die dev asid va with
      | some w => decide (pteMeaning w.e = pteMeaning p.e ∧ pageSize w.lv = p.size)
      | none => false
    if same then done p s
    else if Config.useHeld s.count then done p s
    else walked s

/-- The same without a window. -/
def State.translate (s : State) (core die dev asid va : Nat) (write touch : Bool) : (Except Nat Page) × State :=
  s.translateVia none core die dev asid va write touch

/-- The keyed place of a virtual address in its page. -/
def Page.place (p : Page) (mode dev va : Nat) : Nat :=
  let off := pteAddr p.e + (va - p.va)
  if pteLoc p.e then gloc mode dev off else keyed (hloc mode dev off) (pteKey p.e)

/-! ## The invalidation log (R285 to R289) -/

/-- A log entry covers a held translation. -/
def logCovers (w0 w1 : Nat) (t : TlbEnt) : Bool :=
  match nbits w0 59 58 with
  | 0 =>
    let va := nbits w0 47 0
    let n := 65536 * (nbits w1 47 32 + 1)
    decide (t.asid = nbits w0 55 48 ∧ t.va < va + n ∧ va < t.va + t.size)
  | 1 => decide (t.asid = nbits w0 55 48)
  | _ => true

/-- The cores of a die. -/
def coresOfDie (die : Nat) : List Nat := (List.range 52).map fun i => 52 * die + i

/-- The place of slot n of a die's log. -/
def State.logSlot (s : State) (die n : Nat) : Nat :=
  gloc s.mode (devOfDie s.mode die) (nbits (s.dieAt die).logbase.toNat 32 0 + 16 * (n % 4096))

/-- The TLBs of a device give up the translations of a set. -/
def State.dropHeld (s : State) (dev : Nat) (gone : TlbEnt → Bool) : State :=
  { s with
    cores := s.cores.map fun (p : Nat × Core) =>
      if s.devOfCore p.1 = dev then (p.1, { p.2 with tlb := p.2.tlb.filter fun t => !gone t }) else p
    tlb2 := s.tlb2.map fun (p : Nat × List TlbEnt) =>
      if devOfDie s.mode (p.1 / 13) = dev then (p.1, p.2.filter fun t => !gone t) else p }

/-- Drops the translation windows of a core's groups (R228). -/
def State.dropWindows (s : State) (core : Nat) : State :=
  if s.groups.any fun p => decide (coreOf p.1 = core ∧ p.2.windows ≠ []) then
    { s with groups := s.groups.map fun p => if coreOf p.1 = core then (p.1, { p.2 with windows := [] }) else p }
  else s

/-- The two words of entry n of a die's log as the die reads them. One that its home still owes to a frozen page reads as it
will stand there (DEDUCED, log 67). An entry with an error that cannot be corrected drops every translation (DESIGN CHOICE,
log 104). -/
def State.logEntry (s : State) (die n : Nat) : Nat × Nat × State :=
  let owed := s.owed.reverse.findSome? fun op =>
    match op with
    | .log d m w0 w1 => if d = die ∧ m = n then some (w0, w1) else none
    | _ => none
  match owed with
  | some w => (w.1, w.2, s)
  | none =>
    let a := s.logSlot die n
    let (bad, s) := s.badHome a 16
    (if bad then pow2 59 else s.readAt noCore die a 8, s.readAt noCore die (a + 8) 8, s)

/-- A die applies the next entry of its log (R284): the translations it covers are dropped at every TLB of the die, and the
groups' windows there. -/
def State.applyOne (s : State) (die : Nat) : State :=
  let n := ((s.dieAt die).gen + 1) % pow2 32
  let (w0, w1, s) := s.logEntry die n
  let x := s.dieAt die
  let s := (coresOfDie die).foldl (fun s c =>
    let k := s.coreAt c
    (if k.tlb = [] then s else s.setCore c { k with tlb := k.tlb.filter fun t => !logCovers w0 w1 t }).dropWindows c) s
  let s := { s with tlb2 := s.tlb2.map fun (p : Nat × List TlbEnt) =>
    if p.1 / 13 = die then (p.1, p.2.filter fun t => !logCovers w0 w1 t) else p }
  s.setDie die { x with gen := n }

def State.applyEntries (s : State) (die : Nat) : Nat → State
  | 0 => s
  | n + 1 => (s.applyOne die).applyEntries die n

/-- A die applies every entry of its log up to the device's sequence number (R287). -/
def State.applyLog (s : State) (die : Nat) : State :=
  let x := s.dieAt die
  let d := s.devAt (devOfDie s.mode die)
  if x.logbase.getLsbD 63 then s.applyEntries die ((d.invSeq + pow2 32 - x.gen) % pow2 32) else s

/-! ## Release and acquire (R254 to R259) -/

/-- The views of an agent's instance of a scope (R250, R257): those of its die, of its device's dies, and at system scope
the host's and every peer's too. -/
def inScope (mode core scope view : Nat) : Bool :=
  if scope < 4 then decide (view = dieOfCore core)
  else if view < 4 then decide (devOfDie mode view = devOfDie mode (dieOfCore core))
  else decide (scope = 5)

/-- The core sees a write: it or its die does, or the write lies in a range bound there (R264). -/
def State.sees (s : State) (core : Nat) (w : VisW) : Bool :=
  w.seenBy core (dieOfCore core) (s.boundAt core w.named w.old.length w.va)

/-- The effect of a release on the views: every write that the group's core or its die sees becomes visible to every die
of the scope instance (R254, R257). -/
def State.releaseAt (s : State) (core scope : Nat) : State :=
  if s.vis = [] then s else s.publish (inScope s.mode core scope) (s.sees core)

/-- The effect of an acquire of device or system scope on its die: the log is applied (R287). -/
def State.acquireAt (s : State) (core scope : Nat) : State :=
  if 4 ≤ scope then s.applyLog (dieOfCore core) else s

end Sys2Proof.Machine
end

