-- ==== Sys2Proof/Machine/Tags.lean ====
section
/-!
DEFINITION. Full/empty tags and parked requests (R242 to R245), and the registers of a group as their late writers and
the progress rule see them (R36, R397).
-/
namespace Sys2Proof.Machine

/-- A value as 32-bit words, low word first (R52). -/
def wordsOfNat (bytes v : Nat) : List Word :=
  (List.range ((bytes + 3) / 4)).map fun i => BitVec.ofNat 32 (v >>> (32 * i))

/-- It is a load (R243). -/
def TagKind.loads : TagKind → Bool
  | .ff => true
  | .fe => true
  | .xx => true
  | _ => false

/-- The tag condition of a request (R243). -/
def TagReq.holds (r : TagReq) (full : Bool) : Bool :=
  match r.kind with
  | .ff => full
  | .fe => full
  | .operand _ _ _ => full
  | .ef => !full
  | .xx => true
  | .xf => true
  | .xe => true

/-- The change of the tag that a request makes. Word 0 of a running level keeps its tag, which changes only at the level's
opening and end (R362, R363, R368). -/
def State.reTag (s : State) (a : Nat) (full : Bool) : State :=
  if s.levels.any fun p => decide (s.lvAt p.1 p.2 / 8 = a / 8) && s.lvRunning p.1 p.2 then s else s.putTag a full

/-- Performs a tag request whose condition holds, indivisibly with the tag (R243). A load that finds poison, or whose transfer
is lost (R464), changes nothing and leaves an ECC trap due in its group (R233). An acquire takes its effect as its value returns (R254, R287). -/
def State.performTag (s : State) (r : TagReq) : State :=
  let core := coreOf r.agent
  let die := dieOfCore core
  let s := s.served r.addr r.bytes
  let lost := s.crcLost (kplace r.addr) r.bytes && r.kind.loads
  let s := if r.kind.loads then s.crcDone (kplace r.addr) r.bytes else s
  let bad := s.poisoned (kplace r.addr) r.bytes || lost
  let load (s : State) : State :=
    if bad then
      let g := s.grpOf r.agent
      if g.unit = r.unit then
        s.setGrpOf r.agent { g with ecc := some { addr := kplace r.addr, thread := r.thread, slices := r.slices }
                                    outs := g.outs.filter fun o => decide (o.tok ≠ r.tok) }
      else s
    else
      let t := (s.deliverRegs r.agent r.unit r.tok r.regs (wordsOfNat r.bytes (s.homeAt r.addr r.bytes))).witness die
        (kplace r.addr) r.bytes
      match r.acq with
      | some scope => t.acquireAt core scope
      | none => t
  let store (s : State) : State :=
    let s := s.writeAt r.agent core r.addr r.bytes r.data r.va
    let g := s.grpOf r.agent
    if g.unit = r.unit then s.setGrpOf r.agent (g.progress r.slices) else s
  match r.kind with
  | .ff => load s
  | .xx => load s
  | .fe => if bad then load s else (load s).reTag (kplace r.addr) false
  | .ef => (store s).reTag (kplace r.addr) true
  | .xf => (store s).reTag (kplace r.addr) true
  | .xe => (store s).reTag (kplace r.addr) false
  | .operand dev node slot => s.operandFull dev node slot

/-- The first parked request of the word that holds a place whose condition holds, and the list without it. -/
def nextServable (word : Nat) (full : Bool) : List TagReq → Option (TagReq × List TagReq)
  | [] => none
  | r :: t =>
    if kplace r.addr / 8 = word ∧ r.holds full then some (r, t)
    else (nextServable word full t).map fun p => (p.1, r :: p.2)

/-- Serves the parked requests of the word at a place in their order of arrival, as long as one can be served. -/
def State.serveTags (s : State) (a : Nat) : Nat → State
  | 0 => s
  | fuel + 1 =>
    match nextServable (a / 8) (s.tagFull a) s.parked with
    | none => s
    | some (r, rest) => ({ s with parked := rest }.performTag r).serveTags a fuel

/-- A change of the tag of the word at a place serves its parked requests (R243); word 0 of a running level keeps its tag
(R368). -/
def State.setTag (s : State) (a : Nat) (full : Bool) : State :=
  let s := s.reTag a full
  s.serveTags a (s.parked.length + 1)

/-- A tag request arrives at its home: it is performed, or parks (R243). -/
def State.arriveTag (s : State) (r : TagReq) : State :=
  let ka := if s.frozen r.addr then r.addr else s.route r.addr
  let r := { r with addr := ka }
  if r.holds (s.tagFull (kplace ka)) && !s.frozen r.addr then
    let s := s.performTag r
    s.serveTags (kplace ka) (s.parked.length + 1)
  else { s with parked := s.parked ++ [r] }

end Sys2Proof.Machine
end

