-- ==== Sys2Proof/Machine/Ops.lean ====
section
/-!
DEFINITION. The named operations of a group: the issue of one instruction of its clause (R37 to R43, R55), its slices and paths (R391 to R398), the resources it gives back (R176, R180, R265, R405), and the taking of a
trap with the return from one (R449 to R460).
-/
namespace Sys2Proof.Machine

/-! ## Executing set (R37) -/

/-- The active threads of a set of slices. -/
def activeLanes (sl : List Slice) (which : BitVec 16) : Lanes :=
  lanesOf fun l =>
    which.getLsbD (l / 4) && ((sl.getD (l / 4) {}).mask).getLsbD (l % 4) && !(sl.getD (l / 4) {}).finished

def hdrField (h : Word) (hi lo : Nat) : Nat := nbits h.toNat hi lo

/-- The executing set of a clause: the active threads of its path that pass the guard. -/
def Clause.threads (c : Clause) (g : Group) : Lanes :=
  match c.exec with
  | some e => e
  | none =>
    let act := activeLanes g.slices c.slices
    if c.hdr.getLsbD 23 then
      let p := g.pAt (hdrField c.hdr 27 25)
      act &&& (if c.hdr.getLsbD 24 then ~~~p else p)
    else act

/-- The lowest thread of a set, 0 for the empty set. -/
def lowLane (ex : Lanes) : Nat := ((List.range 64).find? fun l => ex.getLsbD l).getD 0

/-! ## Slices and paths (R391 to R398) -/

/-- One slice resolves its divergence stack (R393). -/
def Slice.resolve (x : Slice) : Nat → Slice
  | 0 => x
  | fuel + 1 =>
    if x.mask = 0 then
      match x.stack with
      | [] => { x with finished := true }
      | e :: t => ({ x with pc := e.pc, mask := e.mask, stack := t, fell := e.fell } : Slice).resolve fuel
    else
      match x.stack with
      | [] => x
      | e :: t =>
        if e.pc = x.pc then
          ({ x with mask := x.mask ||| e.mask, stack := t, fell := x.fell.or e.fell } : Slice).resolve fuel
        else if e.pc < x.pc then
          ({ x with pc := e.pc, mask := e.mask, fell := e.fell
                    stack := { pc := x.pc, mask := x.mask, fell := x.fell } :: t } : Slice).resolve fuel
        else x

/-- Slices of a set, in ascending order. -/
def sliceList (m : BitVec 16) : List Nat := (List.range 16).filter fun i => m.getLsbD i

/-- The slices that paths able to run hold resolve; parked and held paths keep theirs (R393). -/
def Group.resolveAll (g : Group) : Group :=
  let busy := g.paths.foldl (fun m p => if p.wait.isSome || p.held then m ||| p.slices else m) 0#16
  { g with slices := g.slices.zipIdx.map fun p =>
      if p.1.finished || busy.getLsbD p.2 then p.1 else p.1.resolve (2 * p.1.stack.length + 2) }

/-- The parts of a path whose slices stand at one PC with one depth (R394). -/
def splitPath (sl : List Slice) (p : Path) : List Path :=
  let live := (sliceList p.slices).filter fun i => !(sl.getD i {}).finished
  let key (i : Nat) : Nat × Nat := ((sl.getD i {}).pc, (sl.getD i {}).stack.length)
  let keys := (live.map key).eraseDups
  keys.map fun k =>
    { p with slices := live.foldl (fun m i => if key i = k then m ||| (1#16 <<< i) else m) 0#16 }

/-- Paths split where their slices have parted; finished slices leave their path (R394, R396). -/
def Group.split (g : Group) : Group :=
  { g with paths := g.paths.flatMap fun p =>
      if p.wait.isSome then [{ p with slices := (sliceList p.slices).foldl (fun m i =>
          if (g.slices.getD i {}).finished then m else m ||| (1#16 <<< i)) 0#16 }]
      else splitPath g.slices p }

def Path.low (p : Path) : Nat := (sliceList p.slices).headD 16
def Group.pcOf (g : Group) (p : Path) : Nat := (g.slices.getD p.low {}).pc
def Group.depthOf (g : Group) (p : Path) : Nat := (g.slices.getD p.low {}).stack.length
def Path.eligible (p : Path) : Bool := p.wait.isNone && !p.held && decide (p.slices ≠ 0)

/-- Path a is selected before path b (R395). -/
def Group.before (g : Group) (a b : Path) : Bool :=
  if a.demoted ≠ b.demoted then !a.demoted
  else if g.pcOf a ≠ g.pcOf b then decide (g.pcOf a < g.pcOf b)
  else decide (a.low < b.low)

/-- The selected path (R395). -/
def Group.select (g : Group) : Option Path :=
  g.paths.foldl (fun best p =>
    if p.eligible then
      match best with
      | none => some p
      | some q => if g.before p q then some p else some q
    else best) none

/-- The paths that stand where the selected path stands merge with it (R394). -/
def Group.regang (g : Group) (p : Path) : Group × Path :=
  let joins (q : Path) : Bool := q.eligible && decide (g.pcOf q = g.pcOf p ∧ g.depthOf q = g.depthOf p)
  let js := g.paths.filter joins
  let m : Path :=
    { slices := js.foldl (fun m q => m ||| q.slices) 0#16, spin := js.foldl (fun m q => min m q.spin) p.spin
      demoted := js.all fun q => q.demoted }
  ({ g with paths := m :: g.paths.filter fun q => !joins q }, m)

/-- All of the group's slices are finished (R396). -/
def Group.finished (g : Group) : Bool := g.slices.all fun x => x.finished

/-- Sets the PC of the slices of a set. -/
def Group.setPc (g : Group) (which : BitVec 16) (pc : Nat) (fell : Option Nat) : Group :=
  { g with slices := g.slices.zipIdx.map fun p =>
      if which.getLsbD p.2 && !p.1.finished then { p.1 with pc := pc, fell := fell } else p.1 }

/-- Parks the path that holds these slices (R395). -/
def Group.park (g : Group) (slices : BitVec 16) (w : Wait) (src k : Nat) : Group :=
  { g with paths := g.paths.map fun p =>
      if p.slices &&& slices ≠ 0 then { p with wait := some w, src := src, srcK := k } else p }

/-! ## What a group gives back -/

/-- Closes a group's open batch, empty or not (R176). The counter is raised and the batch numbered. mbat and mgive take an
entry of the queue for a batch that holds a command, the other closing events none (R173). -/
def State.closeBatch (s : State) (a : Nat) (entry : Bool) : State :=
  let g := s.grpOf a
  let c := s.coreAt (coreOf a)
  let (tok, s) := s.fresh
  let b : Batch := { agent := a, unit := g.unit, number := g.batchNo, empty := decide (g.openCmds = 0), tok := tok }
  let s := s.setGrpOf a { g with batchNo := (g.batchNo + 1) % pow2 32, openCmds := 0,
                                 ctr := FMap.put 0 g.ctr 2 (FMap.get 0 g.ctr 2 + 1) }
  s.setCore (coreOf a)
    { c with mq := c.mq ++ [{ agent := a, unit := g.unit, batch := g.batchNo, cmd := .close
                              counts := entry && decide (g.openCmds > 0), tok := tok }]
             batches := c.batches ++ [b] }

/-- The queue of the matrix engine with the saved accumulators of a group that holds the baton again: they come back behind
every command accepted before (R173, R180). -/
def Core.restoreAcc (c : Core) (a unit : Nat) (acc : FMap (List Word)) (bad : List Nat) : Core :=
  { c with mq := c.mq ++ [{ agent := a, unit := unit, batch := 0, cmd := .restore acc bad, counts := false }] }

/-- Passes the baton to the head of the queue, or frees it (R193). -/
def State.passBaton (s : State) (core : Nat) : State :=
  let c := s.coreAt core
  match c.batonQ with
  | [] => s.setCore core { c with baton := none }
  | (a, sl) :: t =>
    let g := s.grpOf a
    match g.acc with
    | some (acc, bad) =>
      (s.setCore core { c.restoreAcc a g.unit acc bad with baton := some a, batonQ := t }).setGrpOf a
        { g with acc := none, stopped := g.taken, age := s.cycle + 1 }
    | none => (s.setCore core { c with baton := some a, batonQ := t }).setGrpOf a (g.wakePath sl)

/-- Gives up the baton if the group holds it (R180). -/
def State.dropBaton (s : State) (a : Nat) : State :=
  if (s.coreAt (coreOf a)).baton = some a then s.passBaton (coreOf a) else s

/-! ### Synchronization objects (R260 to R266) -/

def sobjXh (w : Nat) : Bool := w.testBit 63
def sobjSh (w : Nat) : Nat := nbits w 62 48

/-- The object's word after an acquire by an agent (R262). OWNER is 16 · core + slot, and for the steer thread, to which R260
gives none, the number that slot 16 would have (DESIGN CHOICE, log 113). -/
def sobjTaken (w agent : Nat) (shared : Bool) : Nat :=
  if shared then w + pow2 48
  else w % pow2 36 + (16 * coreOf agent + slotOf agent) % 4096 * pow2 36 + nbits w 62 48 * pow2 48 + pow2 63

/-- The object's word after a release: the hold cleared, RSEQ raised (R263). -/
def sobjFreed (w : Nat) (shared : Bool) : Nat :=
  let rseq := (w + 1) % pow2 32
  if shared then nbits w 63 48 * pow2 48 - (if sobjSh w = 0 then 0 else pow2 48) + nbits w 47 32 * pow2 32 + rseq
  else nbits w 62 48 * pow2 48 + nbits w 35 32 * pow2 32 + rseq

/-- A request can take the object as its word stands (R262). -/
def sobjFree (w : Nat) (shared : Bool) : Bool :=
  if shared then !sobjXh w && decide (sobjSh w < 32767) else !sobjXh w && decide (sobjSh w = 0)

/-- The object's word at its home (R296), and its update. -/
def State.sobjWord (s : State) (obj : Nat) : Nat := s.rdHome obj 8
def State.setSobj (s : State) (obj w : Nat) : State := s.wrHome obj 8 w

/-- Serves the waiting requests of an object in their order of arrival (R262); none while its frame is frozen (R295). -/
def State.serveSobj (s : State) (obj : Nat) : Nat → State
  | 0 => s
  | fuel + 1 =>
    match s.sobjQ.find? fun r => decide (r.2.2.1 = obj) with
    | none => s
    | some (a, sl, o, sh) =>
      let w := s.sobjWord obj
      if sobjFree w sh && !s.frozen obj then
        let g := s.grpOf a
        let s := { s.setSobj obj (sobjTaken w a sh) with
          sobjQ := s.sobjQ.erase (a, sl, o, sh) }
        let s := s.setGrpOf a { g.wakePath sl with holds := g.holds ++ [(obj, sh)] }
        (s.applyLog (dieOfCore (coreOf a))).serveSobj obj fuel
      else s

/-- Updates an object at a release and serves its waiters (R263 steps 2 and 3); at a frozen page, once it has thawed (R295). -/
def State.freeSobj (s : State) (obj : Nat) (shared : Bool) : State :=
  if s.frozen obj then s.owe (.free obj shared)
  else (s.setSobj obj (sobjFreed (s.sobjWord obj) shared)).serveSobj obj (s.sobjQ.length + 1)

/-- A write lies in a range that is bound to an object on a core, whichever unit bound it (R261, R264). -/
def State.inBound (s : State) (core obj : Nat) (w : VisW) : Bool :=
  ((s.coreAt core).binds.filter fun b => decide (b.obj = obj)).any fun b => s.takes b w.named w.old.length w.va

/-- Step 1 of a release (R263): every write that the core sees, to a range bound to the object there, is visible to every die
of the device. What R264 leaves to R253 alone is a read of a range that is not bound on its reader's core: it may still miss
such a write, until the write reaches its die (file 09, the test of message passing with bound regions). -/
def State.publishBound (s : State) (core obj : Nat) : State :=
  if s.vis = [] then s
  else
    { s with vis := s.vis.map fun w =>
        if s.sees core w && s.inBound core obj w then
          { w with released := diesOfDev s.mode (devOfDie s.mode (dieOfCore core)) } else w }

/-- Bindings of a core go. What reads through them have been able to see is then visible to the core's die, so that none of its
threads goes back behind it (R234). -/
def State.dropBinds (s : State) (core : Nat) (gone : Bind → Bool) : State :=
  let c := s.coreAt core
  let die := dieOfCore core
  let s := if s.vis = [] then s else s.publish (fun v => decide (v = die)) fun w =>
    w.released.contains die && c.binds.any fun b => gone b && s.takes b w.named w.old.length w.va
  s.setCore core { c with binds := c.binds.filter fun b => !gone b }

/-- Gives up every hold of a group: as sobj.rel does at its exit, without step 1 of R263 at its termination (R265). A home in
a frozen page does its part once the page has thawed (R295). -/
def State.dropHolds (s : State) (a : Nat) (exits : Bool) : State :=
  let g := s.grpOf a
  let s := s.setGrpOf a { g with holds := [] }
  g.holds.foldl (fun s h => (if exits then s.publishBound (coreOf a) h.1 else s).freeSobj h.1 h.2) s

/-! ### Extended registers (R404 to R406) -/

/-- The agents of a core's group slots. -/
def slotAgents (core : Nat) : List Nat := (List.range 16).map fun k => 17 * core + k

/-- The free blocks of a core's pool (R404). -/
def State.poolFree (s : State) (core : Nat) : Nat :=
  let c := s.coreAt core
  64 - c.withheld - c.retired - ((slotAgents core).map fun a => popc 4 (s.grpOf a).blocks.toNat).sum

def State.poolCap (s : State) (core : Nat) : Nat := 64 - (s.coreAt core).withheld - (s.coreAt core).retired

/-- The registers of the blocks of a mask are dropped: they read 0. -/
def Group.clearBlocks (g : Group) (m : BitVec 4) : Group :=
  { g with v := g.v.filter fun p => !(decide (64 ≤ p.1) && m.getLsbD ((p.1 - 64) / 16)) }

/-- Serves the pool queue from its head while the pool has room (R405). -/
def State.servePool (s : State) (core : Nat) : Nat → State
  | 0 => s
  | fuel + 1 =>
    let c := s.coreAt core
    match c.xq with
    | [] => s
    | (a, sl, m) :: t =>
      if popc 4 m.toNat ≤ s.poolFree core then
        let s := s.setCore core { c with xq := t }
        let g := s.grpOf a
        (s.setGrpOf a { (g.clearBlocks m).wakePath sl with blocks := g.blocks ||| m }).servePool core fuel
      else s

/-- Unmaps the blocks of a mask and serves the waiting requests (R405). -/
def State.releaseBlocks (s : State) (a : Nat) (m : BitVec 4) : State :=
  let g := s.grpOf a
  let s := s.setGrpOf a { g.clearBlocks m with blocks := g.blocks &&& ~~~m }
  s.servePool (coreOf a) ((s.coreAt (coreOf a)).xq.length + 1)

/-! ### Withdrawing requests (R245, R265, R273, R405) -/

/-- Withdraws every request of a group that waits at a home, in a queue or in a pool. -/
def State.withdraw (s : State) (a : Nat) : State :=
  let g := s.grpOf a
  let c := s.coreAt (coreOf a)
  let u := s.unitAt g.unit
  let notMine (x : Nat) : Bool := decide (x ≠ a)
  let s := { s with
    parked := s.parked.filter fun r =>
      match r.kind with
      | .operand _ _ _ => true
      | _ => notMine r.agent
    sobjQ := s.sobjQ.filter fun r => notMine r.1 }
  let s := s.setCore (coreOf a)
    { c with xq := c.xq.filter fun r => notMine r.1, batonQ := c.batonQ.filter fun r => notMine r.1 }
  let s := s.setUnit g.unit
    { u with queues := u.queues.map fun q =>
        (q.1, { q.2 with pushers := q.2.pushers.filter fun r => notMine r.1
                         poppers := q.2.poppers.filter fun r => notMine r.1 }) }
  match u.node with
  | none => s
  | some n =>
    let x := s.nodeSt u.dev n
    s.setNode u.dev n { x with waiters := x.waiters.filter fun r => notMine r.1 }

/-- Tag requests of a terminated unit's group that have not reached their homes are withdrawn too (R245). -/
def State.dropTagOps (s : State) (a : Nat) : State :=
  { s with stalled := s.stalled.filter fun o => !(decide (o.agent = a ∧ o.unit = (s.grpOf a).unit) &&
      match o.kind with
      | .tag _ => true
      | _ => false) }

/-! ### Exit (R416, R399) -/

/-- A group exits, or the steer thread does. R265 speaks of groups: the steer thread's objects stay held until its unit is
terminated (DESIGN CHOICE, log 113). -/
def State.exitGroup (s : State) (a : Nat) : State :=
  let g := s.grpOf a
  let u := s.unitAt g.unit
  if isSteer a then
    let s := s.setGrpOf a { g with live := false, paths := [], clause := none }
    (s.setUnit g.unit { u with steer := false, slots := u.slots.filter fun x => decide (x ≠ a) }).lvAdd u.dev u.level (-1)
  else
    let s := s.closeBatch a false
    let s := s.setGrpOf a { s.grpOf a with paths := [], clause := none, windows := [] }
    (((s.dropBaton a).dropHolds a true).releaseBlocks a 15).lvAdd u.dev u.level (-1)

/-! ## Trap records (R449 to R455) -/

/-- A trap as it falls due. -/
structure Trap where
  /-- class code (R449) -/
  cls : Nat
  cause : Nat := 0
  index : Nat := 0
  clause : Nat := 0
  resume : Nat := 0
  thread : Nat := 0
  info : Nat := 0
  slices : BitVec 16 := 0
  reissue : Bool := false
deriving DecidableEq, Repr

/-- The first 48 bytes of a trap frame (R451). -/
def frameBytes (g : Group) (steer : Bool) (level : Nat) (t : Trap) (dbl : Bool) : List Byte :=
  let b (x : Bool) (n : Nat) : Nat := if x then 1 <<< n else 0
  bytesOf 4 (t.cls + t.cause * 256 + t.index % 16 * 65536 + b dbl 20 + b t.reissue 21 + b g.priv 22 + b steer 23) ++
  bytesOf 4 t.clause ++ bytesOf 4 t.resume ++
  bytesOf 4 (if steer then 0 else t.thread % 64 + t.slices.toNat * 65536) ++ bytesOf 8 t.info ++
  bytesOf 4 (g.sAt 60).toNat ++ bytesOf 4 (g.sAt 61).toNat ++ bytesOf 4 (g.sAt 62).toNat ++
  bytesOf 4 (g.sAt 63).toNat ++ bytesOf 4 g.q.toNat ++ bytesOf 4 level

/-- The global offset of an agent's trap frame (R451). -/
def frameOff (x : Ctx) (a : Nat) : Nat := nbits x.tframe.toNat 32 0 + 64 * a

/-- Appends a record to the error ring or the copy-fault ring (R455). -/
def State.appendRing (s : State) (dev asid : Nat) (err : Bool) (size : Nat) (rec : List Byte) : State :=
  let x := s.ctxAt dev asid
  let ring := if err then x.errring else x.cfring
  let n := if err then x.errCount else x.cfCount
  let name := if err then "ERRRING" else "CFRING"
  let a := kplace (s.route (gloc s.mode dev (nbits ring.toNat 32 0 + size * (n % 256))))
  let s := s.send (.event dev name n)
  if ring.getLsbD 63 && !s.tagFull a then
    let s := (s.wrBytes a rec).cleanse a size
    let s := s.setCtx dev asid (if err then { x with errCount := n + 1 } else { x with cfCount := n + 1 })
    s.setTag a true
  else s.setCtx dev asid (if err then { x with errLost := x.errLost + 1 } else { x with cfLost := x.cfLost + 1 })

/-! ## Ending a unit (R454) -/

/-- Every group of a unit has exited or stopped. -/
def State.unitGone (s : State) (uid : Nat) : Bool :=
  (s.unitAt uid).slots.all fun a => decide ((s.grpOf a).unit ≠ uid ∨ (s.grpOf a).paths = [])

/-- A group of a terminating unit stops and gives its resources back. The last one leaves CTR at 0, so that the unit can
end under R363; a level object that R466 has ended stays as it is. -/
def State.killGroup (s : State) (a : Nat) : State :=
  let g := s.grpOf a
  if g.paths = [] then s
  else
    let s := (s.withdraw a).dropTagOps a
    let s := if isSteer a then s else s.closeBatch a false
    let g := s.grpOf a
    let s := s.setGrpOf a
      { g with paths := [], clause := none, outs := [], wake := none, handler := none, cancel := false, preempt := false
               live := !isSteer a, slices := g.slices.map fun x => { x with mask := 0, stack := [], finished := true } }
    let s := ((s.dropBaton a).dropHolds a false).releaseBlocks a 15
    let u := s.unitAt g.unit
    let s := if isSteer a then s.setUnit g.unit { u with steer := false } else s
    if s.unitGone g.unit && !s.lvBad u.dev u.level then s.lvSetCtr u.dev u.level 0 else s

/-- A group stands at a clause boundary: no clause is in progress, or none of the fetched clause has issued (R40). -/
def Group.atBoundary (g : Group) : Bool :=
  match g.clause with
  | none => true
  | some c => c.exec.isNone

/-- The requests of a group that has exited are withdrawn (R245), and no register waits for them. -/
def State.forget (s : State) (a : Nat) : State :=
  let s := (s.withdraw a).dropTagOps a
  s.setGrpOf a { s.grpOf a with outs := [] }

/-- A unit terminates: its pending copy faults are aborted (R314), and every group at a clause boundary stops; one
inside a clause stops when that clause ends. What an exited group still has parked is withdrawn. -/
def State.terminate (s : State) (uid : Nat) (err : Bool) : State :=
  let u := s.unitAt uid
  let s := s.setUnit uid { u with errored := u.errored || err, cancelled := u.cancelled || !err, ending := true }
  (u.slots ++ [17 * u.core + 16]).foldl (fun s a =>
    let g := s.grpOf a
    if g.unit ≠ uid then s
    else if g.paths = [] then s.forget a
    else if g.atBoundary then s.killGroup a
    else s) s

/-- A non-resumable trap of an agent: the frame, the error-ring record, the end of the unit with status error. The frame is a
relaxed store that the tag release of the record follows: who finds the tag full reads the frame (R457). -/
def State.failTrap (s : State) (a : Nat) (t : Trap) (dbl : Bool) : State :=
  let g := s.grpOf a
  let u := s.unitAt g.unit
  let x := s.ctxAt u.dev u.asid
  let fb := frameBytes g (isSteer a) u.level t dbl
  let at' := kplace (s.route (gloc s.mode u.dev (frameOff x a)))
  let s := if x.tframe.getLsbD 63 then s.wrBytesFor (coreOf a) at' fb else s
  let s := s.appendRing u.dev u.asid true 64 (fb ++ List.replicate 16 0)
  let s := if x.errCount < (s.ctxAt u.dev u.asid).errCount then s.settleAt at' fb.length else s
  let s := s.setGrpOf a { s.grpOf a with clause := none }
  s.terminate g.unit true

/-! ## Handler entry and return (R452, R453, R460) -/

/-- Takes a trap of the handler kind in the path that holds `t.slices`. -/
def State.enterHandler (s : State) (a : Nat) (t : Trap) : State :=
  let g := s.grpOf a
  let u := s.unitAt g.unit
  let x := s.ctxAt u.dev u.asid
  if g.handler.isSome || !x.tvec.getLsbD 63 || !x.tframe.getLsbD 63 then s.failTrap a t true
  else
    let off := frameOff x a
    let fb := frameBytes g (isSteer a) u.level t false
    let s := s.wrBytesFor (coreOf a) (kplace (s.route (gloc s.mode u.dev off))) fb
    let s60 := BitVec.ofNat 32 (off + pow2 33 - (FMap.get {} g.segs 2).base % pow2 33)
    let s61 := BitVec.ofNat 32 (ofBytes (fb.take 4))
    let addr := nbits x.tvec.toNat 17 2 * 4
    let g0 : Group := (g.setS 60 s60).setS 61 s61
    let g1 : Group := { g0 with
      priv := true, clause := none, bvalid := 0, handler := some { frame := off, saved := g.slices }
      poison := g.poison.filter fun p => decide (p ≠ 0xBC ∧ p ≠ 0xBD)
      soft := g.soft.filter fun p => decide (p ≠ 0xBC ∧ p ≠ 0xBD)
      paths := g.paths.map fun (p : Path) =>
        if p.slices &&& t.slices ≠ 0 then { p with wait := none } else { p with held := true }
      slices := g.slices.zipIdx.map fun (p : Slice × Nat) =>
        if t.slices.getLsbD p.2 then { p.1 with pc := addr, stack := [], fell := none } else p.1
      age := s.cycle + 1 }
    s.setGrpOf a g1.keepWindows

/-- Takes any trap (R449, R450): the classes below 0x10 end the unit, the others enter the handler. DOUBLE says that it was
raised inside a handler (R451). -/
def State.takeTrap (s : State) (a : Nat) (t : Trap) : State :=
  if t.cls < 0x10 then s.failTrap a t (s.grpOf a).handler.isSome else s.enterHandler a t

/-- CANCEL of an agent: its unit terminates as cancelled (R365, R454). -/
def State.takeCancel (s : State) (a : Nat) : State :=
  let s := s.setGrpOf a { s.grpOf a with clause := none }
  s.terminate (s.grpOf a).unit false

/-! ### GROW (R406) -/

/-- Every resident group of a core is parked in xreg.acq: all its paths wait there. -/
def State.growDue (s : State) (core : Nat) : Bool :=
  let gs := ((slotAgents core).map fun a => s.grpOf a).filter fun g => g.live && decide (g.paths ≠ [])
  decide (gs ≠ []) && gs.all fun g => g.paths.all fun p =>
    match p.wait with
    | some (.xreg _) => true
    | _ => false

/-- Raises GROW in the group whose request arrived last, when it is due. -/
def State.growCheck (s : State) (core : Nat) : State :=
  let c := s.coreAt core
  match c.xq.getLast? with
  | none => s
  | some (a, sl, m) =>
    let g := s.grpOf a
    if s.growDue core && !g.cancel && !(s.unitAt g.unit).ending && g.ecc.isNone then
      let p := (g.paths.find? fun p => decide (p.slices &&& sl ≠ 0)).getD {}
      let s := s.setCore core { c with xq := c.xq.dropLast }
      s.takeTrap a { cls := 0x12, clause := p.src, index := p.srcK, resume := g.pcOf p, info := m.toNat
                     slices := p.slices, reissue := true }
    else s

/-- A request for extended registers enters the pool queue (R405): the path parks and the queue is served. -/
def State.requestBlocks (s : State) (a : Nat) (slices : BitVec 16) (m : BitVec 4) (src k : Nat) : State :=
  let g := s.grpOf a
  let c := s.coreAt (coreOf a)
  let s := s.setGrpOf a (g.park slices (.xreg m) src k)
  let s := s.setCore (coreOf a) { c with xq := c.xq ++ [(a, slices, m)] }
  s.servePool (coreOf a) (c.xq.length + 2)

/-- A slice without some of its threads, which return to no mask (R393). -/
def Slice.without (x : Slice) (gone : BitVec 4) : Slice :=
  { x with mask := x.mask &&& ~~~gone, stack := x.stack.map fun e => { e with mask := e.mask &&& ~~~gone } }

/-- The return from a handler, from the frame as it stands in memory (R460): a thread that has run exit in the handler stays
out of every mask (R393). An eret outside a handler and a bad RESUME are the caller's traps. -/
def State.returnFrom (s : State) (a : Nat) (h : Handler) : State :=
  let g := s.grpOf a
  let u := s.unitAt g.unit
  let p := kplace (s.route (gloc s.mode u.dev h.frame))
  let f (o n : Nat) : Nat := s.rdN (p + o) n
  let w0 := f 0 4
  let which : BitVec 16 := if isSteer a then 1 else BitVec.ofNat 16 (f 14 2)
  let resume := f 8 4
  let saveS (g : Group) (i : Nat) : Group := g.setS (60 + i) (BitVec.ofNat 32 (f (24 + 4 * i) 4))
  let old := (g.paths.find? fun p => !p.held && decide (p.slices ≠ 0)).getD {}
  let g1 : Group := { (List.range 4).foldl saveS g with q := BitVec.ofNat 7 (f 40 2) }
  let news := g.changed g1
  let g : Group := { g1 with
    priv := w0.testBit 22, handler := none, clause := none, bvalid := 0, ret := some resume
    poison := g.poison.filter fun p => decide (¬(0xBC ≤ p ∧ p ≤ 0xBF) ∧ ¬(0xCC ≤ p ∧ p ≤ 0xD2))
    soft := g.soft.filter fun p => decide (¬(0xBC ≤ p ∧ p ≤ 0xBF) ∧ ¬(0xCC ≤ p ∧ p ≤ 0xD2))
    slices := g.slices.zipIdx.map fun (x : Slice × Nat) =>
      if which.getLsbD x.2 then
        let o : Slice := (h.saved.getD x.2 {}).without (BitVec.ofNat 4 (h.exited.toNat >>> (4 * x.2)))
        { o with pc := resume, fell := none }
      else x.1
    paths := (g.paths.map fun p => { p with held := false, slices := p.slices &&& ~~~which }) ++
      [{ slices := which, spin := if news then 0 else old.spin, demoted := old.demoted && !news }]
    age := s.cycle + 1 }
  s.setGrpOf a { g.split.keepWindows with paths := g.split.paths.filter fun p => decide (p.slices ≠ 0) }

/-- The xreg.acq request that a returning frame asks to reissue (R460). -/
def State.reissue (s : State) (a : Nat) (h : Handler) : Option (BitVec 16 × BitVec 4 × Nat × Nat) :=
  let p := kplace (s.route (gloc s.mode (s.unitAt (s.grpOf a).unit).dev h.frame))
  let w0 := s.rdN p 4
  if w0.testBit 21 && !isSteer a then
    some (BitVec.ofNat 16 (s.rdN (p + 14) 2), BitVec.ofNat 4 (s.rdN (p + 16) 8), s.rdN (p + 4) 4, nbits w0 19 16)
  else none

/-! ## Issuing one instruction of the clause in progress -/

/-- What an instruction finds when it issues. -/
structure Ix where
  s : State
  g : Group
  c : Clause
  /-- the executing set, not empty -/
  ex : Lanes
  /-- the literal word (R46), 0 where there is none -/
  lit : Word
  /-- the mod prefix, or one that changes nothing -/
  m : ModW

/-- What an instruction does. -/
inductive Eff where
  /-- it takes effect; the clause goes on behind it -/
  | done (s : State)
  /-- it has set the PCs of its path itself; its clause ends -/
  | moved (s : State)
  /-- it waits at issue and has done nothing -/
  | wait
  /-- it traps and has done nothing -/
  | trap (t : Trap)
  /-- it traps after an effect of its own -/
  | trapIn (s : State) (t : Trap)

/-- A register operand: code of R44 (a tile register tk as 256 + k) and number of registers. -/
abbrev Span := Nat × Nat

/-- The register operand that an instruction writes: none where WS suppresses the write (R55). -/
def destSpan (ws : BitVec 1) (d : BitVec 8) (n : Nat) : List Span := if ws = 1 then [] else [(d.toNat, n)]

/-- A register operand takes in the register of a code; a tile-slice operand (R48) its tile and s63. -/
def spanHas (x : Span) (p : Nat) : Bool :=
  decide (x.1 ≤ p ∧ p < x.1 + x.2) ||
    decide (0xE0 ≤ x.1 ∧ x.1 < 0xF0 ∧ (p = 256 + nbits x.1 3 2 ∨ p = 0xBF))

/-- An operand has an outstanding write (R36). -/
def Group.busy (g : Group) (xs : List Span) : Bool :=
  g.outs.any fun o => o.regs.any fun r => xs.any fun x => spanHas x r.code

/-- A source register holds an uncorrectable error (R465). -/
def Group.tainted (g : Group) (xs : List Span) : Bool :=
  g.poison.any fun p => xs.any fun x => spanHas x p

/-- The next clause header after a clause (R30). -/
def Clause.next (c : Clause) : Nat := c.base + 4 * (c.words.length + 1)

/-- Ends the clause in progress: the latches become invalid (R56); the group of a terminating unit stops, and in any other
paths split, and a group whose slices are all finished exits. -/
def State.closeClause (s : State) : State :=
  let g := { s.grp.keepWindows with clause := none, b := [], bvalid := 0, age := s.cycle + 1 }
  if (s.unitAt g.unit).ending then (s.setGrp g).killGroup s.cur
  else
    let g := g.resolveAll.split
    let s := s.setGrp g
    if g.finished then s.exitGroup s.cur else s

/-- The threads of the path fall through to the next sequential clause (R38, R43). -/
def State.fallThrough (s : State) (c : Clause) : State :=
  let fell := if c.next / 4096 = c.base / 4096 then none else some c.base
  s.setGrp (s.grp.setPc c.slices c.next fell)

/-- Moves behind an instruction of n words; at the clause's end the path falls through. -/
def State.advance (s : State) (n : Nat) (count : Bool) : State :=
  match s.grp.clause with
  | none => s
  | some c =>
    let c := { c with wi := c.wi + n, k := if count then c.k + 1 else c.k, modp := if count then none else c.modp }
    let s := s.setGrp { s.grp with clause := some c }
    if c.words.length ≤ c.wi then (s.fallThrough c).closeClause else s

/-- The path falls through to the next clause and parks there until its request is served (R395). -/
def Ix.parked (x : Ix) (s : State) (w : Wait) : State :=
  let s := s.fallThrough x.c
  s.setGrp (s.grp.park x.c.slices w x.c.base x.c.k)

/-- A trap of the current agent at the instruction in hand. -/
def Ix.trap (x : Ix) (cls cause thread info : Nat) : Trap :=
  { cls := cls, cause := cause, index := x.c.k, clause := x.c.base, resume := x.c.next, thread := thread, info := info
    slices := x.c.slices }

/-- An ACCESS trap of a uniform instruction. -/
def Ix.access (x : Ix) (cause : Nat) : Eff := .trap (x.trap 3 cause 0 0)
/-- An ALIGN trap of a uniform instruction. -/
def Ix.align (x : Ix) (addr : Nat) : Eff := .trap (x.trap 4 0 0 addr)

/-- The current agent's instruction waits at issue and has done nothing. -/
def State.blocked (s : State) : State := { s with waits := s.cur :: s.waits }

/-- A source register holds an uncorrectable error (R465): UE rises on the core's die, and each extended block that holds
such a register is retired from the core's pool (R404). -/
def State.registerError (s : State) (a : Nat) (srcs : List Span) : State :=
  let c := s.coreAt (coreOf a)
  let bad := (s.grpOf a).poison.filter fun p => srcs.any fun x => spanHas x p
  let ext := ((bad.filter fun p => decide (64 ≤ p ∧ p < 128)).map fun p => (p - 64) / 16).eraseDups
  let s := s.setCore (coreOf a) { c with retired := c.retired + ext.length }
  dieUe s (dieOfCore (coreOf a)) 1

/-- The single-bit errors of source registers are corrected as they are read, and counted on the core's die (R463). -/
def State.corrected (s : State) (srcs : List Span) : State :=
  let here (p : Nat) : Bool := srcs.any fun x => spanHas x p
  if s.grp.soft.any here then
    let k := dieOfCore (coreOf s.cur)
    let x := s.dieAt k
    (s.setGrp { s.grp with soft := s.grp.soft.filter fun p => !here p }).setDie k
      { x with ce := min (x.ce + (s.grp.soft.filter here).length) (pow2 32 - 1) }
  else s

/-- Some operand is the literal (R46): a source, or the C field of the mod prefix. -/
def Clause.usesLit (c : Clause) (srcs : List Span) : Bool :=
  (srcs.any fun x => decide (x.1 = 0xFF)) ||
    (match c.modp with
     | some m => decide (m.c = 0xFF)
     | none => false)

/-- The words of an instruction of n words with its literal. -/
def Clause.wordsOf (c : Clause) (n : Nat) (srcs : List Span) : Nat := if c.usesLit srcs then n + 1 else n

/-- What an instruction of n words, its literal not counted, finds at its issue: the clause's executing set is fixed with
its first instruction (R37). -/
def State.found (s : State) (c : Clause) (n : Nat) : Ix :=
  let g : Group := { s.grp with clause := some { c with exec := some (c.threads s.grp) } }
  { s := s.setGrp g, g := g, c := { c with exec := some (c.threads s.grp) }, ex := c.threads s.grp
    lit := c.words.getD (c.wi + n) 0, m := c.modp.getD {} }

/-- A write by the threads of a set to register operands replaces the register of this code whole: a register with one
value for the group, or every lane of the others. -/
def wholeWrite (ex : Lanes) (dsts : List Span) (p : Nat) : Bool :=
  (dsts.any fun d => decide (d.1 ≤ p ∧ p < d.1 + d.2)) &&
    (decide (ex = BitVec.allOnes 64) || decide (0x80 ≤ p ∧ p < 0xC0) || decide (0xCC ≤ p))

/-- What follows an effect on the registers: progress where a value has changed (R397), which the loss of a block's values as
it is unmapped is not; the end of the windows whose base pair has changed (R228); and good data in place of what a
destination held that is written whole (R463). -/
def Ix.landed (x : Ix) (dsts : List Span) (s : State) : State :=
  let s := if s.grp.changed (x.g.clearBlocks (x.g.blocks &&& ~~~s.grp.blocks)) then s.setGrp (s.grp.progress x.c.slices) else s
  let s := if s.grp.windows = [] ∨ s.grp.s = x.g.s then s else s.setGrp s.grp.keepWindows
  if s.grp.poison = [] ∧ s.grp.soft = [] then s
  else s.setGrp { s.grp with
    poison := s.grp.poison.filter fun p => !wholeWrite x.ex dsts p
    soft := s.grp.soft.filter fun p => !wholeWrite x.ex dsts p }

/-- The outcome of an instruction from what it does. -/
def Ix.outcome (x : Ix) (s : State) (len : Nat) (dsts : List Span) : Eff → Host.Outcome State Fault Refusal
  | .done t => .next ((x.landed dsts t).advance len true)
  | .moved t => .next t.closeClause
  | .wait => .next s.blocked
  | .trap t => .next (x.s.takeTrap s.cur t)
  | .trapIn t tr => .next (t.takeTrap s.cur tr)

/-- With an empty executing set an instruction does nothing, and a loop that stood ready for it is gone (R185). -/
def Ix.skip (x : Ix) : State := x.s.setGrp { x.g with clause := some { x.c with loop := none } }

/-- The common part of every instruction with a word: nothing happens with an empty executing set (R38); an operand with
an outstanding write makes it wait (R36); a poisoned source raises ECC (R465); afterwards the clause goes on, or ends,
or the trap is taken. `n` is the number of words without the literal, `srcs` and `dsts` the register operands. -/
def issue (s : State) (n : Nat) (srcs dsts : List Span) (body : Ix → Eff) : Host.Outcome State Fault Refusal :=
  match s.grp.clause with
  | none => .fault .noClause
  | some c =>
    let x := s.found c n
    let len := c.wordsOf n srcs
    if x.ex = 0 then .next (x.skip.advance len true)
    else if s.grp.busy (srcs ++ dsts) then .next s.blocked
    else if s.grp.tainted srcs then .next ((x.s.registerError s.cur srcs).takeTrap s.cur (x.trap 5 0 0 0))
    else
      let x := (s.corrected srcs).found c n
      x.outcome s len dsts (body x)

/-- A privileged instruction (R75): PRIV at user privilege, as the clause check has it. -/
def privileged (x : Ix) (e : Eff) : Eff := if x.g.priv then e else .trap (x.trap 2 0 0 0)

/-- A step of an engine or of the outside, from the message in hand. -/
def event (s : State) (f : Msg → Option State) : Host.Outcome State Fault Refusal :=
  match f s.msg with
  | some t => .next t
  | none => .fault .noEvent

end Sys2Proof.Machine
end

