-- ==== Sys2Proof/Machine/Operands.lean ====
section
/-!
DEFINITION. Operands (R44 to R52), the mod prefix (R60, R61, R130 to R133), the destination with its latch (R51, R55),
and the drawing of random bits (R116, R117): everything that the instructions of the V and U pipes share.
-/
namespace Sys2Proof.Machine

/-! ## Operand codes (R44) -/

def isV (c : Nat) : Bool := decide (c < 0x80)
def isS (c : Nat) : Bool := decide (0x80 ≤ c ∧ c < 0xC0)
def isB (c : Nat) : Bool := decide (0xC0 ≤ c ∧ c < 0xC4)
def isP (c : Nat) : Bool := decide (0xC4 ≤ c ∧ c < 0xCC)
/-- q0 to q7. -/
def isQ (c : Nat) : Bool := decide (0xCC ≤ c ∧ c ≤ 0xD3)
def isConst (c : Nat) : Bool := decide (0xD4 ≤ c ∧ c ≤ 0xDB)
def isTile (c : Nat) : Bool := decide (0xE0 ≤ c ∧ c < 0xF0)
def isLit (c : Nat) : Bool := decide (c = 0xFF)

/-- The code names a uniform operand (R44). -/
def uniformCode (c : Nat) : Bool := isS c || isQ c || isConst c || decide (c = 0xDE) || isLit c

/-- A destination that makes its instruction uniform (R49). -/
def uniformDest (d : Nat) : Bool := isS d || isQ d

/-- The constant codes (R45); pk is 0 for a 32-bit instruction, 1 for packed FP16, 2 for packed BF16. -/
def constWord (pk c : Nat) : Word :=
  match c, pk with
  | 0xD4, _ => 0
  | 0xD5, _ => 1
  | 0xD6, _ => 0xFFFFFFFF
  | 0xD7, _ => 2
  | 0xD8, 0 => 0x3F000000
  | 0xD9, 0 => 0x3F800000
  | 0xDA, 0 => 0x40000000
  | 0xD8, 1 => 0x38003800
  | 0xD9, 1 => 0x3C003C00
  | 0xDA, 1 => 0x40004000
  | 0xD8, _ => 0x3F003F00
  | 0xD9, _ => 0x3F803F80
  | 0xDA, _ => 0x40004000
  | _, 0 => 0xBF800000
  | _, 1 => 0xBC00BC00
  | _, _ => 0xBF80BF80

/-- The element of a tile register that lane l reads through a tile-slice operand (R48). -/
def tileElem (g : Group) (c l : Nat) : Nat :=
  let j := ((g.sAt 63).toNat + c % 2) % 4
  if c.testBit 1 then 16 * (l % 16) + (4 * j + l / 16) else 16 * (4 * j + l / 16) + l % 16

/-- A 32-bit source operand as lane l reads it. -/
def Ix.srcPk (x : Ix) (pk c l : Nat) : Word :=
  if isV c then x.g.vAt c l
  else if isS c then x.g.sAt (c - 0x80)
  else if isB c then x.g.bAt (c - 0xC0) l
  else if isP c then (if (x.g.pAt (c - 0xC4)).getLsbD l then 1 else 0)
  else if isQ c then (if x.g.qAt (c - 0xCC) then 1 else 0)
  else if isConst c then constWord pk c
  else if c = 0xDC then BitVec.ofNat 32 l
  else if c = 0xDD then BitVec.ofNat 32 (l / 4)
  else if c = 0xDE then BitVec.ofNat 32 x.g.gidx
  else if isTile c then x.g.tAt (nbits c 3 2) (tileElem x.g c l)
  else if isLit c then x.lit
  else 0

def Ix.src (x : Ix) (c l : Nat) : Word := x.srcPk 0 c l

/-- A 64-bit source: a register pair with the low word first, or a constant or literal sign-extended (R45, R46, R52). -/
def Ix.src64 (x : Ix) (c l : Nat) : Nat :=
  if isV c || isS c then (x.src c l).toNat + (x.src (c + 1) l).toNat * pow2 32
  else ((x.src c l).signExtend 64).toNat

/-- A uniform source. -/
def Ix.uni (x : Ix) (c : Nat) : Word := x.src c (lowLane x.ex)

/-- sX as a number. -/
def Ix.sx (x : Ix) (r : Nat) : Nat := (x.g.sAt r).toNat
/-- The pair at sX as a number. -/
def Ix.sp (x : Ix) (r : Nat) : Nat := (x.g.sAt r).toNat + (x.g.sAt (r + 1)).toNat * pow2 32

/-- The registers of a source operand of n registers. -/
def spanOf (c n : Nat) : Span := (c, n)
def spanS (r n : Nat) : Span := (0x80 + r, n)

/-! ## The third source (R61, R131) -/

/-- The operand code that supplies C: the mod prefix's C field, else the destination's register. -/
def cCode (s : State) (d : Nat) : Nat :=
  match s.grp.clause with
  | some c =>
    match c.modp with
    | some m => m.c.toNat
    | none => d
  | none => d

/-! ## Modifiers (R60, R61) -/

/-- The rounding mode: the prefix's RND, or the group's mode (R60, R72). -/
def Ix.mode (x : Ix) : Nat := if x.m.rnd = 0 then x.g.fmode.toNat % 8 else x.m.rnd.toNat
def Ix.ftz (x : Ix) : Bool := x.g.fmode.getLsbD 3
/-- SCL, signed. -/
def Ix.scl (x : Ix) : Int := x.m.scl.toInt

/-- ABS, then NEG (R61). -/
def modNum (abs neg : Bool) (a : FpNum) : FpNum :=
  let a := if abs then a.abs else a
  if neg then a.neg else a

/-- The value of a source of conversion format f under ABSA and NEGA (R149): the zero of an integer has no sign, and so it stays
+0 (R111). -/
def cvtMod (f : Nat) (absa nega : Bool) (v : FpNum) : FpNum :=
  if 8 < f ∧ v.isZero = true then .fin false 0 0 else modNum absa nega v

/-- Source A of an FP32 instruction: read under FTZ, then ABSA and NEGA; B and C likewise. -/
def Ix.fa (x : Ix) (c l : Nat) : FpNum := modNum x.m.absa x.m.nega (readF32 x.ftz (x.src c l))
def Ix.fb (x : Ix) (c l : Nat) : FpNum := modNum x.m.absb x.m.negb (readF32 x.ftz (x.src c l))
def Ix.fc (x : Ix) (pk c l : Nat) : FpNum := modNum false x.m.negc (readF32 x.ftz (x.srcPk pk c l))

/-- Half i of a packed source (R105). -/
def halfOf (w : Word) (i : Nat) : Nat := nbits w.toNat (16 * i + 15) (16 * i)
def Ix.ha (x : Ix) (f : Fmt) (pk c l i : Nat) : FpNum := modNum x.m.absa x.m.nega (f.value (halfOf (x.srcPk pk c l) i))
def Ix.hb (x : Ix) (f : Fmt) (pk c l i : Nat) : FpNum := modNum x.m.absb x.m.negb (f.value (halfOf (x.srcPk pk c l) i))
def Ix.hc (x : Ix) (f : Fmt) (pk c l i : Nat) : FpNum := modNum false x.m.negc (f.value (halfOf (x.srcPk pk c l) i))

/-! ## Draws (R116, R117) -/

/-- The i-th draw from a generator, counting from 0. -/
def drawAt (g : Word) : Nat → Nat
  | 0 => rand16 (advGen g)
  | i + 1 => drawAt (advGen g) i

/-- A generator after n draws. -/
def afterDraws (g : Word) : Nat → Word
  | 0 => g
  | n + 1 => afterDraws (advGen g) n

def Group.gen (g : Group) (n : Nat) : Word := FMap.get 0 g.gens n

/-- Advances the generators of the threads of a set, or generator 64, by n draws each. -/
def Group.drawn (g : Group) (uniform : Bool) (ex : Lanes) (n : Nat) : Group :=
  if n = 0 then g
  else if uniform then { g with gens := g.gens.ins 64 (afterDraws (g.gen 64) n) }
  else
    { g with gens := (List.range 64).foldl (fun m l =>
        if ex.getLsbD l then m.ins l (afterDraws (FMap.get 0 m l) n) else m) g.gens }

/-! ## Destinations (R49, R51, R55 to R57) -/

/-- A result as a predicate destination has it. -/
def asPred (w : Word) : Word := if w = 0 then 0 else 1

/-- Writes latch b(k mod 4): 64 lanes of values. -/
def Ix.latch (x : Ix) (g : Group) (f : Nat → Word) : Group :=
  let i := x.c.k % 4
  { g with b := g.b.ins i ((List.range 64).map f), bvalid := g.bvalid ||| (1#4 <<< i) }

/-- Writes a destination register, unless WS, and the latch of the instruction's position. A uniform result stands in
all 64 lanes of the latch; of a per-thread result the lanes outside the executing set are 0 there. -/
def Ix.write (x : Ix) (g : Group) (ws : Bool) (d : Nat) (f : Nat → Word) : Group :=
  let lo := lowLane x.ex
  let inEx (h : Nat → Word) (l : Nat) : Word := if x.ex.getLsbD l then h l else 0
  if isV d then x.latch (if ws then g else g.setV d x.ex f) (inEx f)
  else if isS d then x.latch (if ws then g else g.setS (d - 0x80) (f lo)) fun _ => f lo
  else if isP d then x.latch (if ws then g else g.setP (d - 0xC4) x.ex fun l => decide (f l ≠ 0)) (inEx fun l => asPred (f l))
  else x.latch (if ws then g else g.setQ (d - 0xCC) (decide (f lo ≠ 0))) fun _ => asPred (f lo)

/-- Writes a 64-bit destination, a register pair; the latch takes the low word. -/
def Ix.write64 (x : Ix) (g : Group) (ws : Bool) (d : Nat) (f : Nat → Nat) : Group :=
  let g := if ws then g
    else if isV d then g.setV (d + 1) x.ex fun l => BitVec.ofNat 32 (f l / pow2 32)
    else g.setS (d - 0x80 + 1) (BitVec.ofNat 32 (f (lowLane x.ex) / pow2 32))
  x.write g ws d fun l => BitVec.ofNat 32 (f l)

/-- Sticky flags are set and never cleared by an operation (R119). -/
def Group.raise (g : Group) (fl : BitVec 5) : Group := { g with fflags := g.fflags ||| fl }

/-! ## One instruction of the V or U pipe -/

/-- The operation of one lane, evaluated once for a uniform instruction and in every executing lane else; a stochastic
rounding mode draws nd times for each (R133). -/
def Ix.lanes (x : Ix) (ws : Bool) (d nd : Nat) (f : Nat → (Nat → Nat) → Word × BitVec 5) : State :=
  let uniform := uniformDest d
  let n := if x.mode = 6 then nd else 0
  let g := x.g.drawn uniform x.ex n
  if uniform then
    let r := f (lowLane x.ex) (drawAt (x.g.gen 64))
    x.s.setGrp ((x.write g ws d fun _ => r.1).raise r.2)
  else
    let rs := (List.range 64).map fun l => if x.ex.getLsbD l then f l (drawAt (x.g.gen l)) else (0, 0)
    let fl := rs.foldl (fun m r => m ||| r.2) 0
    x.s.setGrp ((x.write g ws d fun l => (rs.getD l (0, 0)).1).raise fl)

/-- A lane instruction with its register operands: sources by operand code, one destination. -/
def laneInstr (s : State) (ws : BitVec 1) (d : BitVec 8) (srcs : List Nat) (nd : Nat)
    (f : Ix → Nat → (Nat → Nat) → Word × BitVec 5) : Host.Outcome State Fault Refusal :=
  issue s 1 (srcs.map fun c => (c, 1)) (destSpan ws d 1) fun x => .done (x.lanes (ws == 1) d.toNat nd (f x))

/-- The integer instructions: no flag, no draw. -/
def intInstr (s : State) (ws : BitVec 1) (d : BitVec 8) (srcs : List Nat) (f : Ix → Nat → Word) :
    Host.Outcome State Fault Refusal :=
  laneInstr s ws d srcs 0 fun x l _ => (f x l, 0)

/-! ## Addresses held in s-registers -/

/-- The bytes of an integer as a signed 32-bit number. -/
def sint32 (w : Word) : Int := w.toInt

end Sys2Proof.Machine
end

