-- ==== Sys2Proof/Machine/Access.lean ====
section
/-!
DEFINITION. The memory instructions (R221 to R247): addresses with their checks, loads, stores, atomics, tag operations
and tile accesses, and MEMORY_ACCESS_PERFORM for those that waited for a frozen page.
-/
namespace Sys2Proof.Machine

/-! ## Translation windows (R228) -/

/-- The window of a base VA that covers n bytes at a VA, as the page it translates to. -/
def Group.windowOver (g : Group) (base lo n : Nat) : Option Page :=
  (g.windows.find? fun w => decide (w.base = base ∧ base ≤ lo ∧ lo + n ≤ base + w.limit)).map fun w =>
    { va := w.va, size := w.size, e := w.leaf.toNat }

/-- A main-space instruction names a base pair: its window becomes the one used last, or is formed from a translation of the
base VA, in place of the one used longest ago. -/
def State.formWindow (s : State) (pair : Nat) : State :=
  let g := s.grp
  let base := (g.sAt pair).toNat + (g.sAt (pair + 1)).toNat * pow2 32
  let u := s.unitAt g.unit
  let die := dieOfCore (coreOf s.cur)
  match g.windows.find? fun w => decide (w.pair = pair) with
  | some w => s.setGrp { g with windows := w :: g.windows.filter fun v => decide (v.pair ≠ pair) }
  | none =>
    if isSteer s.cur || decide (pow2 48 ≤ base) || s.walkStalls die u.dev u.asid base then s
    else
      match s.translate (coreOf s.cur) die u.dev u.asid base false false with
      | (.error _, t) => t
      | (.ok p, t) =>
        let w : Window :=
          { pair := pair, base := base, va := p.va, size := p.size, leaf := BitVec.ofNat 64 p.e, gen := (t.dieAt die).gen
            limit := p.va + p.size - base }
        t.setGrp { t.grp with windows := (w :: t.grp.windows).take 4 }

/-! ## Addresses (R224, R226, R227) -/

/-- A trap of class `cls` at a thread. -/
def Ix.fail (x : Ix) (cls cause thread : Nat) (addr : Int) : Trap := x.trap cls cause thread (bitsOf 64 addr)

/-- The place of one access and the state after its translation; `lane` is the thread whose local frame is meant,
`thread` what a trap records. The checks stand in the order of R224. -/
def Ix.locate (x : Ix) (s : State) (space base off : Nat) (disp : Int) (bytes : Nat) (writes touch : Bool)
    (lane thread : Nat) : (Except Trap Nat) × State :=
  let u := s.unitAt x.g.unit
  let core := coreOf s.cur
  let die := dieOfCore core
  let seg := FMap.get {} x.g.segs space
  let o : Int := (base : Int) + (off : Int) + disp
  let bad (cause : Nat) (addr : Int) : (Except Trap Nat) := .error (x.fail 3 cause thread addr)
  let rest (ka : Nat) (addr : Int) : (Except Trap Nat) :=
    if kplace ka % bytes ≠ 0 then .error (x.fail 4 0 thread addr)
    else if writes ∧ !seg.wr then bad 0x03 addr
    else if s.guarded (kplace ka) bytes then bad 0x0A addr
    else .ok ka
  if !seg.v then (bad 0x01 o, s)
  else if space = 3 then
    if o < 0 ∨ (pow2 48 : Int) < o + bytes then (bad 0x05 o, s)
    else if o < seg.base ∨ ((seg.base + seg.limit : Nat) : Int) < o + bytes then (bad 0x02 o, s)
    else
      match s.translateVia (s.grp.windowOver base o.toNat bytes) core die u.dev u.asid o.toNat writes touch with
      | (.error cause, s) => (bad cause o, s)
      | (.ok p, s) => (rest (p.place s.mode u.dev o.toNat) o, s)
  else if o < 0 ∨ (seg.limit : Int) < o + bytes then (bad 0x02 o, s)
  else
    let n := o.toNat
    match space with
    | 0 => (rest (sloc core (seg.base + lane * seg.limit + n)) o, s)
    | 1 => (rest (sloc core (seg.base + n)) o, s)
    | 5 => (rest (iloc core (seg.base + n)) o, s)
    | 6 => (rest (qloc die (seg.base + n)) o, s)
    | _ =>
      let g := seg.base + n
      if g + bytes > globalSize s.mode then (bad 0x04 g, s) else (rest (gloc s.mode u.dev g) g, s)

/-- The first failure among threads in ascending order, or every place. -/
def firstFail : List (Except Trap Nat) → Except Trap (List Nat)
  | [] => .ok []
  | .error t :: _ => .error t
  | .ok a :: rest => (firstFail rest).map (a :: ·)

/-- Forms and checks the addresses of a list of (lane, thread recorded, offset) before any access is performed. -/
def Ix.locateAll (x : Ix) (s : State) (space base : Nat) (disp : Int) (bytes : Nat) (writes touch : Bool) :
    List (Nat × Nat × Nat) → List (Except Trap Nat) × State
  | [] => ([], s)
  | (lane, thread, off) :: t =>
    let (r, s) := x.locate s space base off disp bytes writes touch lane thread
    let (rs, s) := x.locateAll s space base disp bytes writes touch t
    (r :: rs, s)

/-! ## Atomic operations (R238 to R240) -/

/-- The value an atomic leaves, from the old value, the operand, and for cas the new value. -/
def atomNew (aop bytes old x new : Nat) : Nat :=
  let bits := 8 * bytes
  match aop with
  | 0x0 => (old + x) % pow2 bits
  | 0x1 => fp32.addRne old x
  | 0x2 => if sintOf bits x < sintOf bits old then x else old
  | 0x3 => if sintOf bits old < sintOf bits x then x else old
  | 0x4 => min old x
  | 0x5 => max old x
  | 0x6 => old &&& x
  | 0x7 => old ||| x
  | 0x8 => old ^^^ x
  | 0x9 => x
  | 0xA => if old = x then new else old
  | 0xB => (minMax fp32 true (fp32.value old) (fp32.value x)).1
  | 0xC => (minMax fp32 false (fp32.value old) (fp32.value x)).1
  | 0xD => addHalves fp16 old x
  | _ => addHalves bf16 old x

/-- An add that the coalescer pre-reduces (R240). -/
def preReduced (aop : Nat) : Bool := decide (aop = 0x1 ∨ aop = 0xD ∨ aop = 0xE)

/-- The threads of one location in lane order, applied one at a time: each one's old value, and the value left. -/
def atomChain (aop bytes : Nat) : Nat → List (Nat × Nat) → List Nat × Nat
  | v, [] => ([], v)
  | v, (x, new) :: t =>
    let r := atomChain aop bytes (atomNew aop bytes v x new) t
    (v :: r.1, r.2)

/-- The prefixes S(1) to S(n) of R240. -/
def prefixes (aop bytes : Nat) : Option Nat → List Nat → List Nat
  | _, [] => []
  | acc, x :: t =>
    let v := match acc with
      | none => x
      | some a => atomNew aop bytes a x 0
    v :: prefixes aop bytes (some v) t

/-- One coalesced event (R239, R240): what each thread receives, and the value left. -/
def atomEvent (aop bytes v : Nat) (xs : List (Nat × Nat)) : List Nat × Nat :=
  if preReduced aop then
    let ss := prefixes aop bytes none (xs.map Prod.fst)
    (v :: (ss.dropLast.map fun p => atomNew aop bytes v p 0), atomNew aop bytes v (ss.getLastD 0) 0)
  else atomChain aop bytes v xs

/-! ## Performing accesses -/

/-- The order in which the threads of one instruction perform their accesses, which is open (R234): lane order unless two
of them meet with different data. -/
def MElem.order (n : Nat) (es : List MElem) : List MElem :=
  if es.any fun a => es.any fun b => decide (a.addr = b.addr ∧ a.data ≠ b.data) then
    sortBy (fun a b => decide ((Config.word n a.lane).toNat ≤ (Config.word n b.lane).toNat)) es
  else es

/-- The order in which the requests of one instruction arrive, which is open: lane order unless two of them meet in one
word. -/
def MElem.arrival (n : Nat) (es : List MElem) : List MElem :=
  if es.any fun a => es.any fun b => decide (a.addr / 8 = b.addr / 8 ∧ a.lane ≠ b.lane) then
    sortBy (fun a b => decide ((Config.word n a.lane).toNat ≤ (Config.word n b.lane).toNat)) es
  else es

/-- The places of the requests that some elements of an instruction make: one each, and one for the threads that meet in one
atomic (R239, R240). -/
def MKind.requests (kind : MKind) (es : List MElem) : List Nat :=
  match kind with
  | .atom _ => (es.map fun e => e.addr).eraseDups
  | _ => es.map fun e => e.addr

/-- The first element that reads poison, or whose transfer is lost (R464), after the soft errors there have been found
(R233). -/
def State.foundPoison (s : State) (kind : MKind) (es : List MElem) (bytes : Nat) : Option MElem × State :=
  let s := (kind.requests es).foldl (fun s a => s.served a bytes) s
  let lost (e : MElem) : Bool := s.crcLost (kplace (s.route e.addr)) bytes
  (es.find? fun e => s.poisoned (kplace (s.route e.addr)) bytes || lost e,
    es.foldl (fun s e => s.crcDone (kplace (s.route e.addr)) bytes) s)

/-- The first element whose word is poisoned, found before any request is made. -/
def State.lookPoison (s : State) (es : List MElem) (bytes : Nat) : Option MElem × State :=
  let s := es.foldl (fun s e => s.findErrors (kplace (s.route e.addr)) bytes) s
  (es.find? fun e => s.poisoned (kplace (s.route e.addr)) bytes, s)

/-- One coalesced event at its home. Behind an empty key slot no update changes anything, and every thread receives 0
(R434). -/
def State.atomAtHome (s : State) (aop ka bytes : Nat) (xs : List (Nat × Nat)) : List Nat × Nat :=
  if (s.accessKey (s.route ka)).isNone then (xs.map fun _ => 0, 0)
  else atomEvent aop bytes (s.homeAt ka bytes) xs

/-- It reads memory, and it writes memory or a tag. -/
def MKind.reads : MKind → Bool
  | .store => false
  | .tag .ef => false
  | .tag .xf => false
  | .tag .xe => false
  | _ => true

def MKind.writes : MKind → Bool
  | .load => false
  | .invariant => false
  | .tag .ff => false
  | .tag .xx => false
  | _ => true

/-- It needs write permission (R224, R229): a store and an atomic do, a load with a tag condition does not. -/
def MKind.stores : MKind → Bool
  | .tag .fe => false
  | k => k.writes

/-- It returns a value and changes nothing. -/
def MKind.loads (k : MKind) : Bool := decide (k = .load ∨ k = .invariant)

/-- How many writes `past` held when the launch of a unit began: that of its launch level, or of a node unit itself (R237). -/
def State.launchOf (s : State) (u : UnitSt) : Nat × Nat :=
  (u.dev, if s.lvKind u.dev (s.lvParent u.dev u.level) = 1 then s.lvParent u.dev u.level else u.level)

def State.sinceOf (s : State) (uid : Nat) : Nat :=
  match s.since.find? fun p => decide ((p.1, p.2.1) = s.launchOf (s.unitAt uid)) with
  | some p => p.2.2
  | none => s.past.length

/-- The request of an element of a tag instruction. -/
def MOp.request (o : MOp) (k : TagKind) (e : MElem) : TagReq :=
  { agent := o.agent, unit := o.unit, kind := k, addr := e.addr, bytes := o.bytes, data := e.data, regs := e.regs
    tok := o.tok, slices := o.slices, gen := o.gen, acq := o.acq, thread := e.thread, va := e.va }

/-- The elements of a store whose flit is lost: those in the 64 bytes of one that meets the failures (R464). -/
def State.lostFlits (s : State) (bytes : Nat) (es : List MElem) : List MElem :=
  let line (e : MElem) : Nat := kplace (s.route e.addr) / 64
  let lost := (es.filter fun e => s.crcLost (kplace (s.route e.addr)) bytes).map line
  if lost = [] then [] else es.filter fun e => lost.contains (line e)

/-- Performs some elements of an operation: the values that its registers take, in the order of the elements. The value of
a tag request comes with its service. -/
def State.performElems (s : State) (o : MOp) (es : List MElem) : List Word × State :=
  let die := dieOfCore o.core
  match o.kind with
  | .load => (es.flatMap fun e => wordsOfNat o.bytes (s.readAt o.core die e.addr o.bytes e.va), s)
  | .invariant =>
    let t := s.sinceOf o.unit
    (es.flatMap fun e =>
      wordsOfNat o.bytes (s.readInvariant o.core die t (Config.word s.count (20000 + e.lane)).toNat e.addr o.bytes e.va), s)
  | .store =>
    let lost := s.lostFlits o.bytes es
    ([], (MElem.order s.count es).foldl (fun s e =>
      let s := s.writeAt o.agent o.core e.addr o.bytes e.data e.va
      if e.bad || lost.contains e then s.poisonAt (kplace (s.route e.addr)) o.bytes else s) s)
  | .atom aop =>
    let (olds, s) := (es.map fun e => e.addr).eraseDups.foldl (fun (acc : List (Nat × Nat) × State) ka =>
      let mine := es.filter fun e => decide (e.addr = ka)
      let r := acc.2.atomAtHome aop ka o.bytes (mine.map fun e => (e.data, e.data2))
      let s := acc.2.witness die (kplace (acc.2.route ka)) o.bytes
      (acc.1 ++ (mine.zip r.1).map (fun p => (p.1.lane, p.2)),
        s.writeAt o.agent o.core ka o.bytes r.2 (mine.head?.bind fun e => e.va))) ([], s)
    (es.flatMap fun e => wordsOfNat o.bytes ((olds.find? fun p => decide (p.1 = e.lane)).elim 0 Prod.snd), s)
  | .tag k => ([], (MElem.arrival s.count es).foldl (fun s e => s.arriveTag (o.request k e)) s)

/-! ### Which accesses wait (R234, R253, R295) -/

/-- Two accesses, of n bytes at ka and of m at kb, meet in a byte at their homes. -/
def State.meets (s : State) (ka n kb m : Nat) : Bool :=
  let a := kplace (s.route ka)
  let b := kplace (s.route kb)
  decide (a < b + m ∧ b < a + n)

/-- Both accesses are in the program order of one thread; a uniform instruction's, performed by the group, is in that of each
(R249). -/
def MElem.sameThread (e f : MElem) : Bool := decide (e.thr = f.thr ∨ e.thr = 64 ∨ f.thr = 64)

/-- An access waits behind earlier ones of its group: those of its thread to the same bytes, which keep their order (R234), a
write of any thread to them, which comes before it in the group's program order (R256), unless an invariant load is one of
the two; and a write behind every earlier read of its thread that has not returned (R253). -/
def State.behind (s : State) (agent unit : Nat) (kind : MKind) (bytes : Nat) (f : MElem) (l : List MOp) : Bool :=
  l.any fun o => decide (o.agent = agent ∧ o.unit = unit ∧ o.drain = none) && o.elems.any fun e =>
    (e.sameThread f && kind.writes && o.kind.reads) ||
      (decide (kind ≠ .invariant ∧ o.kind ≠ .invariant) && (e.sameThread f || o.kind.writes) &&
        s.meets e.addr o.bytes f.addr bytes)

/-- Elements of one operation that are performed together: the threads that meet in one atomic (R239). -/
def MKind.joins (kind : MKind) (e f : MElem) : Bool :=
  match kind with
  | .atom _ => decide (e.addr = f.addr)
  | _ => decide (e = f)

/-- The elements of an operation left behind that can be performed now: their pages are not frozen, and they are behind
none of those before it. A tag request waits for its page where it parks. -/
def State.able (s : State) (o : MOp) (before : List MOp) : List MElem :=
  let stops (e : MElem) : Bool :=
    (s.frozen e.addr && !(match o.kind with | .tag _ => true | _ => false)) ||
      (o.drain.isNone && s.behind o.agent o.unit o.kind o.bytes e before)
  o.elems.filter fun e => !(o.elems.any fun f => o.kind.joins e f && stops f)

/-- Some of them go on being under way: those that `lazy` names by their place, but not all. -/
def State.goingNow (s : State) (o : MOp) (es : List MElem) : List MElem :=
  let now := es.filter fun e => !s.lazy.testBit (o.elems.findIdx fun f => o.kind.joins e f)
  if now = [] then es.filter fun e => (es.head?.map fun f => o.kind.joins f e).getD false else now

/-- An operation as its instruction issues it. -/
def Ix.op (x : Ix) (s : State) (kind : MKind) (bytes tok : Nat) (acq gen : Option Nat) (es : List MElem) : MOp :=
  { agent := s.cur, unit := x.g.unit, core := coreOf s.cur, kind := kind, bytes := bytes, elems := es, slices := x.c.slices
    tok := tok, acq := acq, gen := gen }

/-- Issues checked accesses: some are performed later, because they wait or because `lazy` says so (R253), and those at a
frozen page wait there in order of arrival (R295); the others are performed. The registers they fill are written later
(R36); a load delivers its values when all have come, since poison found in one leaves every register as it was (R233). An
access that would return poison traps at its issue; an atomic looks at all its words before it changes one, and a load with
a tag condition at all those whose condition holds. -/
def Ix.perform (x : Ix) (s : State) (kind : MKind) (bytes : Nat) (es : List MElem) (acq gen : Option Nat) : Eff :=
  let (tok, s) := s.fresh
  let op := x.op s kind bytes tok acq gen es
  let waits := es.filter fun e => es.any fun f => kind.joins e f && s.behind s.cur x.g.unit kind bytes f s.stalled
  let free := es.filter fun e => !waits.contains e
  let way := waits ++ (free.filter fun e => s.lazy.testBit (es.findIdx fun f => kind.joins e f))
  let stays (e : MElem) : Bool := s.frozen e.addr && !(match kind with | .tag _ => true | _ => false)
  let hot := es.filter fun e => !way.contains e && !stays e
  let tagged := match kind with | .tag _ => true | _ => false
  let (early, s) := match kind with
    | .atom _ => s.lookPoison es bytes
    | .tag k => s.lookPoison (es.filter fun e =>
        k.loads && (op.request k e).holds (s.tagFull (kplace (s.route e.addr))) && !s.frozen e.addr) bytes
    | _ => (none, s)
  let (bad, s) := if kind = .store ∨ tagged then (none, s) else s.foundPoison kind hot bytes
  match early.or bad with
  | some e => .trapIn s (x.fail 5 0 e.thread (kplace e.addr))
  | none =>
    let s := if kind = .store then hot.foldl (fun s e => s.served e.addr bytes) s else s
    let left := es.filterMap fun e =>
      if hot.contains e then none else some { e with arrived := !way.contains e }
    let all := es.flatMap fun e => e.regs
    let s := if tagged && decide (all ≠ []) then s.setGrp (s.grp.late tok x.c.slices all none) else s
    let (vals, s) := s.performElems op hot
    let regs := hot.flatMap fun e => e.regs
    let g := s.grp
    let held := kind.loads && decide (left ≠ [])
    let g := if tagged || decide (all = []) then g
      else if held then g.late tok x.c.slices all none
      else
        let g := if regs = [] then g else g.late tok x.c.slices regs (some vals)
        if left = [] then g else g.late tok x.c.slices (left.flatMap fun e => e.regs) none
    let g := if kind.writes && !tagged && decide (hot ≠ []) then g.progress x.c.slices else g
    let s := s.setGrp g
    if left = [] then
      .done (match acq with
        | some scope => if tagged then s else s.acquireAt (coreOf s.cur) scope
        | none => s)
    else
      .done { s with stalled := s.stalled ++ [{ op with elems := left, got := if held then regs.zip vals else [] }] }

/-- Accesses of the group that are not yet performed: a later access waits behind an acquire among them, and a release
waits for all of them (R254). -/
def Ix.heldBack (x : Ix) (release : Bool) : Bool :=
  x.s.stalled.any fun o => decide (o.agent = x.s.cur ∧ o.unit = x.g.unit ∧ o.drain = none) && (release || o.acq.isSome)

/-- Earlier reads of the group have not returned. -/
def Ix.readsLeft (x : Ix) : Bool :=
  x.s.stalled.any fun o => decide (o.agent = x.s.cur ∧ o.unit = x.g.unit ∧ o.drain = none) && o.kind.reads

/-- A write of the group: it is visible to nobody before every earlier read has returned, an acquire among them (R253, R254). -/
def Ix.afterReads (x : Ix) (e : Eff) : Eff := if x.readsLeft then .wait else e

/-- A read of the group, which no earlier acquire may still hold back (R254). -/
def Ix.afterAcquires (x : Ix) (e : Eff) : Eff := if x.heldBack false then .wait else e

/-- An instruction that takes effect after every access that its group issued before it (R254, R267). -/
def Ix.afterAll (x : Ix) (e : Eff) : Eff := if x.heldBack true then .wait else e

/-- Accesses of the group that are under way. Those that stall at a frozen page are left out: an instruction that thaws the
page would wait for itself. -/
def Ix.afterMoving (x : Ix) (e : Eff) : Eff :=
  if x.s.stalled.any fun o => decide (o.agent = x.s.cur ∧ o.unit = x.g.unit ∧ o.drain = none) &&
      o.elems.any fun f => !x.s.frozen f.addr then .wait else e

/-- Some elements of the k-th operation left behind are performed (R234, R295, R296). -/
def State.performPart (s : State) (k : Nat) (o : MOp) (now : List MElem) : State :=
  let tagged := match o.kind with | .tag _ => true | _ => false
  let (bad, s) := if o.kind = .store then (none, now.foldl (fun s e => s.served e.addr o.bytes) s)
    else if tagged then (none, s) else s.foundPoison o.kind now o.bytes
  match bad with
  | some e =>
    ({ s with stalled := s.stalled.eraseIdx k }).updGroup o.agent o.unit fun g =>
      { g with ecc := some { addr := kplace e.addr, thread := e.thread, slices := o.slices }
               outs := g.outs.filter fun w => decide (w.tok ≠ o.tok) }
  | none =>
    let (vals, s) := s.performElems o now
    let left := o.elems.filter fun e => !now.contains e
    let regs := now.flatMap fun e => e.regs
    let got := o.got ++ regs.zip vals
    let s := { s with stalled := if left = [] then s.stalled.eraseIdx k
      else s.stalled.set k { o with elems := left, got := if o.kind.loads then got else [] } }
    let s := if o.kind.writes && !tagged && decide ((s.grpOf o.agent).unit = o.unit ∧ o.drain = none) then
      s.setGrpOf o.agent ((s.grpOf o.agent).progress o.slices) else s
    let s := if o.kind.loads then
        (if left = [] then s.deliverRegs o.agent o.unit o.tok (got.map Prod.fst) (got.map Prod.snd) else s)
      else if tagged || decide (regs = []) then s
      else s.deliverRegs o.agent o.unit o.tok regs vals
    match o.acq with
    | some scope => if left = [] ∧ !tagged then s.acquireAt o.core scope else s
    | none => s

/-- MEMORY_ACCESS_PERFORM (R234, R295): some accesses of an operation that are under way, or stalled at a page that is no
longer frozen, are performed. -/
def execMemoryAccessPerform (s : State) : Host.Outcome State Fault Refusal :=
  event s fun m =>
    match m with
    | .memoryAccessPerform k =>
      match s.stalled[k]? with
      | some o =>
        let es := s.able o (s.stalled.take k)
        some (if es = [] then s else s.performPart k o (s.goingNow o es))
      | none => some s
    | _ => none

/-! ## The fields of format M (R62) -/

/-- The second word's fields that every memory instruction has. -/
structure MArgs where
  d : Nat
  a : Nat
  b : Nat
  off : BitVec 8
  scope : Nat
  ord : Nat
  space : Nat
  sz : Nat
  e : Nat

def MArgs.bytes (m : MArgs) : Nat := 1 <<< m.sz
def MArgs.disp (m : MArgs) : Int := m.off.toInt * m.bytes
/-- Registers of one element. -/
def MArgs.regs (m : MArgs) : Nat := (m.bytes + 3) / 4

/-- The base operand: an s-register, or a pair for the main space. -/
def MArgs.baseSpan (m : MArgs) : Span := (m.a, if m.space = 3 then 2 else 1)
def Ix.base (x : Ix) (m : MArgs) : Nat := if m.space = 3 then x.sp (m.a - 0x80) else x.sx (m.a - 0x80)

/-- The registers of an element of a lane. -/
def MArgs.target (m : MArgs) (lane : Nat) : List Reg :=
  (List.range m.regs).map fun i => if isV m.d then Reg.v (m.d + i) lane else Reg.s (m.d - 0x80 + i)

/-- A data source of n bytes at an operand code, as lane l reads it (R231). -/
def Ix.data (x : Ix) (c bytes l : Nat) : Nat :=
  if bytes ≤ 4 then (x.src c l).toNat % pow2 (8 * bytes)
  else if bytes = 8 then x.src64 c l
  else (List.range (bytes / 4)).foldl (fun m i => m + (x.src (c + i) l).toNat <<< (32 * i)) 0

/-- The data source's registers. -/
def dataSpan (c bytes : Nat) : Span := (c, if isV c || isS c then (bytes + 3) / 4 else 1)

/-- The threads that perform an instruction, as (lane, thread a trap records): one for a uniform instruction. -/
def Ix.performers (x : Ix) (uniform : Bool) : List (Nat × Nat) :=
  if uniform then [(lowLane x.ex, 0)]
  else ((List.range 64).filter fun l => x.ex.getLsbD l).map fun l => (l, if isSteer x.s.cur then 0 else l)

/-- An access of more than 16 bytes is one of each 16-byte chunk (R234): the offset of each chunk and its bytes. -/
def MArgs.chunk (m : MArgs) : Nat := min m.bytes 16
def MArgs.chunks (m : MArgs) : List Nat := if m.sz = 5 then [0, 1] else [0]

/-- ASID and VA of a main-space access at an offset (R292). -/
def Ix.vaOf (x : Ix) (m : MArgs) (off : Nat) : Option (Nat × Nat) :=
  if m.space = 3 then some ((x.s.unitAt x.g.unit).asid, ((x.base m : Int) + off + m.disp).toNat) else none

/-- The elements of an instruction, for the performers at their places. -/
def Ix.elems (x : Ix) (m : MArgs) (kind : MKind) (uniform : Bool) (data data2 : Ix → Nat → Nat) (ps : List (Nat × Nat))
    (places : List Nat) : List MElem :=
  (ps.zip places).flatMap fun p => m.chunks.map fun i =>
    { lane := p.1.1, addr := p.2 + 16 * i, data := data x p.1.1 / pow2 (128 * i) % pow2 (8 * m.chunk), data2 := data2 x p.1.1
      regs := if kind.reads then ((m.target p.1.1).drop (4 * i)).take (if m.sz = 5 then 4 else m.regs) else []
      thr := if uniform then 64 else p.1.1, thread := p.1.2
      va := x.vaOf m ((x.src m.b p.1.1).toNat + 16 * i) : MElem }

/-- The generation with which an access is stamped: that of the die, where its address was translated (R289). -/
def Ix.stamp (x : Ix) (space : Nat) : Option Nat :=
  if space = 3 then some (x.s.dieAt (dieOfCore (coreOf x.s.cur))).gen else none

/-- The instruction names its base: a pair of the main space has its window (R228). -/
def Ix.opened (x : Ix) (m : MArgs) : Ix := if m.space = 3 then { x with s := x.s.formWindow (m.a - 0x80) } else x

/-- A walk that the instruction needs stalls at a frozen frame (R295). -/
def Ix.walkWaits (x : Ix) (m : MArgs) (offs : List Nat) : Bool :=
  let u := x.s.unitAt x.g.unit
  decide (m.space = 3) && offs.any fun off =>
    x.s.walkStalls (dieOfCore (coreOf x.s.cur)) u.dev u.asid ((x.base m : Int) + off + m.disp).toNat

/-- The common form of ld, st, atom, ldt and stt: every address is checked, then the accesses are performed (R227). A
release takes its effect on the views first, an acquire afterwards (R254). -/
def accessInstr (s : State) (m : MArgs) (kind : MKind) (uniform : Bool) (srcs dsts : List Span)
    (data data2 : Ix → Nat → Nat) : Host.Outcome State Fault Refusal :=
  issue s 2 ([m.baseSpan, (m.b, 1)] ++ srcs) dsts fun i =>
    let x := i.opened m
    let rel := decide (m.ord = 2 ∨ m.ord = 3)
    let acq := if m.ord = 1 ∨ m.ord = 3 then some m.scope else none
    let ps := x.performers uniform
    if x.heldBack rel || x.walkWaits m (ps.map fun p => (x.src m.b p.1).toNat) then .wait
    else
      let (rs, s) := x.locateAll x.s m.space (x.base m) m.disp m.bytes kind.stores true
        (ps.map fun p => (p.1, p.2, (x.src m.b p.1).toNat))
      match firstFail rs with
      | .error t => .trapIn s t
      | .ok places =>
        x.perform (if rel then s.releaseAt (coreOf s.cur) m.scope else s) kind m.chunk
          (x.elems m kind uniform data data2 ps places) acq (x.stamp m.space)

def mkArgs (d a b off : BitVec 8) (scope : BitVec 3) (ord : BitVec 2) (space sz : BitVec 3) (e : BitVec 8) : MArgs :=
  { d := d.toNat, a := a.toNat, b := b.toNat, off := off, scope := scope.toNat, ord := ord.toNat
    space := space.toNat, sz := sz.toNat, e := e.toNat }

/-- ld (R235, R237): with INV = 1, and in constant space, it is an invariant load. -/
def execLd (d a b off : BitVec 8) (inv : BitVec 1) (scope : BitVec 3) (ord : BitVec 2) (space sz : BitVec 3)
    (e : BitVec 8) (s : State) : Host.Outcome State Fault Refusal :=
  let m := mkArgs d a b off scope ord space sz e
  accessInstr s m (if inv = 1 ∨ m.space = 4 then .invariant else .load) (isS m.d) [] [(m.d, m.regs)] (fun _ _ => 0) fun _ _ => 0

/-- st (R235). -/
def execSt (d a b off : BitVec 8) (_inv : BitVec 1) (scope : BitVec 3) (ord : BitVec 2) (space sz : BitVec 3)
    (e : BitVec 8) (s : State) : Host.Outcome State Fault Refusal :=
  let m := mkArgs d a b off scope ord space sz e
  accessInstr s m .store false [dataSpan m.d m.bytes] [] (fun x l => x.data m.d m.bytes l) fun _ _ => 0

/-- The common form of the atomics (R238): the operand at E, for cas the new value from D. -/
def atomic (s : State) (m : MArgs) (aop : Nat) : Host.Outcome State Fault Refusal :=
  accessInstr s m (.atom aop) (isS m.d) ((m.e, (dataSpan m.e m.bytes).2) :: if aop = 0xA then [(m.d, m.regs)] else [])
    [(m.d, m.regs)] (fun x l => x.data m.e m.bytes l) fun x l => if aop = 0xA then x.data m.d m.bytes l else 0

/-- atom.add (R238). -/
def execAtomAdd (d a b off : BitVec 8) (_inv : BitVec 1) (scope : BitVec 3) (ord : BitVec 2) (space sz : BitVec 3)
    (e : BitVec 8) (s : State) : Host.Outcome State Fault Refusal :=
  atomic s (mkArgs d a b off scope ord space sz e) 0

/-- atom.fadd (R238). -/
def execAtomFadd (d a b off : BitVec 8) (_inv : BitVec 1) (scope : BitVec 3) (ord : BitVec 2) (space sz : BitVec 3)
    (e : BitVec 8) (s : State) : Host.Outcome State Fault Refusal :=
  atomic s (mkArgs d a b off scope ord space sz e) 1

/-- atom.min (R238). -/
def execAtomMin (d a b off : BitVec 8) (_inv : BitVec 1) (scope : BitVec 3) (ord : BitVec 2) (space sz : BitVec 3)
    (e : BitVec 8) (s : State) : Host.Outcome State Fault Refusal :=
  atomic s (mkArgs d a b off scope ord space sz e) 2

/-- atom.max (R238). -/
def execAtomMax (d a b off : BitVec 8) (_inv : BitVec 1) (scope : BitVec 3) (ord : BitVec 2) (space sz : BitVec 3)
    (e : BitVec 8) (s : State) : Host.Outcome State Fault Refusal :=
  atomic s (mkArgs d a b off scope ord space sz e) 3

/-- atom.umin (R238). -/
def execAtomUmin (d a b off : BitVec 8) (_inv : BitVec 1) (scope : BitVec 3) (ord : BitVec 2) (space sz : BitVec 3)
    (e : BitVec 8) (s : State) : Host.Outcome State Fault Refusal :=
  atomic s (mkArgs d a b off scope ord space sz e) 4

/-- atom.umax (R238). -/
def execAtomUmax (d a b off : BitVec 8) (_inv : BitVec 1) (scope : BitVec 3) (ord : BitVec 2) (space sz : BitVec 3)
    (e : BitVec 8) (s : State) : Host.Outcome State Fault Refusal :=
  atomic s (mkArgs d a b off scope ord space sz e) 5

/-- atom.and (R238). -/
def execAtomAnd (d a b off : BitVec 8) (_inv : BitVec 1) (scope : BitVec 3) (ord : BitVec 2) (space sz : BitVec 3)
    (e : BitVec 8) (s : State) : Host.Outcome State Fault Refusal :=
  atomic s (mkArgs d a b off scope ord space sz e) 6

/-- atom.or (R238). -/
def execAtomOr (d a b off : BitVec 8) (_inv : BitVec 1) (scope : BitVec 3) (ord : BitVec 2) (space sz : BitVec 3)
    (e : BitVec 8) (s : State) : Host.Outcome State Fault Refusal :=
  atomic s (mkArgs d a b off scope ord space sz e) 7

/-- atom.xor (R238). -/
def execAtomXor (d a b off : BitVec 8) (_inv : BitVec 1) (scope : BitVec 3) (ord : BitVec 2) (space sz : BitVec 3)
    (e : BitVec 8) (s : State) : Host.Outcome State Fault Refusal :=
  atomic s (mkArgs d a b off scope ord space sz e) 8

/-- atom.xchg (R238). -/
def execAtomXchg (d a b off : BitVec 8) (_inv : BitVec 1) (scope : BitVec 3) (ord : BitVec 2) (space sz : BitVec 3)
    (e : BitVec 8) (s : State) : Host.Outcome State Fault Refusal :=
  atomic s (mkArgs d a b off scope ord space sz e) 9

/-- atom.cas (R238). -/
def execAtomCas (d a b off : BitVec 8) (_inv : BitVec 1) (scope : BitVec 3) (ord : BitVec 2) (space sz : BitVec 3)
    (e : BitVec 8) (s : State) : Host.Outcome State Fault Refusal :=
  atomic s (mkArgs d a b off scope ord space sz e) 10

/-- atom.fmin (R238). -/
def execAtomFmin (d a b off : BitVec 8) (_inv : BitVec 1) (scope : BitVec 3) (ord : BitVec 2) (space sz : BitVec 3)
    (e : BitVec 8) (s : State) : Host.Outcome State Fault Refusal :=
  atomic s (mkArgs d a b off scope ord space sz e) 11

/-- atom.fmax (R238). -/
def execAtomFmax (d a b off : BitVec 8) (_inv : BitVec 1) (scope : BitVec 3) (ord : BitVec 2) (space sz : BitVec 3)
    (e : BitVec 8) (s : State) : Host.Outcome State Fault Refusal :=
  atomic s (mkArgs d a b off scope ord space sz e) 12

/-- atom.hadd2 (R238). -/
def execAtomHadd2 (d a b off : BitVec 8) (_inv : BitVec 1) (scope : BitVec 3) (ord : BitVec 2) (space sz : BitVec 3)
    (e : BitVec 8) (s : State) : Host.Outcome State Fault Refusal :=
  atomic s (mkArgs d a b off scope ord space sz e) 13

/-- atom.badd2 (R238). -/
def execAtomBadd2 (d a b off : BitVec 8) (_inv : BitVec 1) (scope : BitVec 3) (ord : BitVec 2) (space sz : BitVec 3)
    (e : BitVec 8) (s : State) : Host.Outcome State Fault Refusal :=
  atomic s (mkArgs d a b off scope ord space sz e) 14

/-! ## Full/empty tags (R242 to R245) -/

/-- The common form of ldt and stt (R243). A load that finds poison at its home traps at once when it is served at
arrival, else when it is served. A store's address needs a writable segment and page, a load's does not. -/
def tagInstr (s : State) (m : MArgs) (kind : TagKind) (store : Bool) : Host.Outcome State Fault Refusal :=
  accessInstr s m (.tag kind) (!store && isS m.d) (if store then [dataSpan m.d m.bytes] else [])
    (if store then [] else [(m.d, m.regs)]) (fun x l => if store then x.data m.d m.bytes l else 0) fun _ _ => 0

/-- ldt.ff (R243). -/
def execLdtFf (d a b off : BitVec 8) (_inv : BitVec 1) (scope : BitVec 3) (ord : BitVec 2) (space sz : BitVec 3)
    (e : BitVec 8) (s : State) : Host.Outcome State Fault Refusal :=
  tagInstr s (mkArgs d a b off scope ord space sz e) .ff false

/-- ldt.fe (R243). -/
def execLdtFe (d a b off : BitVec 8) (_inv : BitVec 1) (scope : BitVec 3) (ord : BitVec 2) (space sz : BitVec 3)
    (e : BitVec 8) (s : State) : Host.Outcome State Fault Refusal :=
  tagInstr s (mkArgs d a b off scope ord space sz e) .fe false

/-- ldt.xx (R243). -/
def execLdtXx (d a b off : BitVec 8) (_inv : BitVec 1) (scope : BitVec 3) (ord : BitVec 2) (space sz : BitVec 3)
    (e : BitVec 8) (s : State) : Host.Outcome State Fault Refusal :=
  tagInstr s (mkArgs d a b off scope ord space sz e) .xx false

/-- stt.ef (R243). -/
def execSttEf (d a b off : BitVec 8) (_inv : BitVec 1) (scope : BitVec 3) (ord : BitVec 2) (space sz : BitVec 3)
    (e : BitVec 8) (s : State) : Host.Outcome State Fault Refusal :=
  tagInstr s (mkArgs d a b off scope ord space sz e) .ef true

/-- stt.xf (R243). -/
def execSttXf (d a b off : BitVec 8) (_inv : BitVec 1) (scope : BitVec 3) (ord : BitVec 2) (space sz : BitVec 3)
    (e : BitVec 8) (s : State) : Host.Outcome State Fault Refusal :=
  tagInstr s (mkArgs d a b off scope ord space sz e) .xf true

/-- stt.xe (R243). -/
def execSttXe (d a b off : BitVec 8) (_inv : BitVec 1) (scope : BitVec 3) (ord : BitVec 2) (space sz : BitVec 3)
    (e : BitVec 8) (s : State) : Host.Outcome State Fault Refusal :=
  tagInstr s (mkArgs d a b off scope ord space sz e) .xe true

/-! ## Tiles (R246) and prefetch (R247) -/

/-- The common form of ldtile and sttile: 256 elements, checked in row-major order. -/
def tileInstr (s : State) (m : MArgs) (inv : BitVec 1) (store : Bool) : Host.Outcome State Fault Refusal :=
  let t := m.d % 4
  issue s 2 ([m.baseSpan, (m.b, 1)] ++ if store then [(256 + t, 1)] else []) (if store then [] else [(256 + t, 1)])
      fun i =>
    let x := i.opened m
    let rel := decide (m.ord = 2)
    let stride := (x.uni m.b).toNat
    let offs := (List.range 256).map fun k => stride * (k / 16) + 4 * (k % 16)
    if x.heldBack rel || x.walkWaits m offs then .wait
    else if stride % 4 ≠ 0 then x.align stride
    else
      let (rs, s) := x.locateAll x.s m.space (x.base m) m.disp 4 store true
        (offs.map fun o => (0, 0, o))
      match firstFail rs with
      | .error t => .trapIn s t
      | .ok places =>
        let es := places.zipIdx.map fun p =>
          { lane := p.2, addr := p.1, data := if store then (x.g.tAt t p.2).toNat else 0
            regs := if store then [] else [.t t p.2], va := x.vaOf m (offs.getD p.2 0) : MElem }
        x.perform (if rel then s.releaseAt (coreOf s.cur) m.scope else s)
          (if store then .store else if inv = 1 then .invariant else .load) 4 es
          (if m.ord = 1 then some m.scope else none) (x.stamp m.space)

/-- ldtile (R246). -/
def execLdtile (d a b off : BitVec 8) (inv : BitVec 1) (scope : BitVec 3) (ord : BitVec 2) (space sz : BitVec 3)
    (e : BitVec 8) (s : State) : Host.Outcome State Fault Refusal :=
  tileInstr s (mkArgs d a b off scope ord space sz e) inv false

/-- sttile (R246). -/
def execSttile (d a b off : BitVec 8) (inv : BitVec 1) (scope : BitVec 3) (ord : BitVec 2) (space sz : BitVec 3)
    (e : BitVec 8) (s : State) : Host.Outcome State Fault Refusal :=
  tileInstr s (mkArgs d a b off scope ord space sz e) inv true

/-- prf (R247): the translations it asks for are held; no value changes and no thread's failure traps. -/
def execPrf (d a b off : BitVec 8) (_inv : BitVec 1) (scope : BitVec 3) (ord : BitVec 2) (space sz : BitVec 3)
    (e : BitVec 8) (s : State) : Host.Outcome State Fault Refusal :=
  let m := mkArgs d a b off scope ord space sz e
  issue s 2 [m.baseSpan, (m.b, 1)] [] fun i =>
    let x := i.opened m
    let (rs, s) := x.locateAll x.s m.space (x.base m) m.disp m.bytes false false
      ((x.performers false).map fun p => (p.1, p.2, (x.src m.b p.1).toNat))
    .done (rs.foldl (fun s r =>
      match r with
      | .ok ka => s.touch (kplace (s.route ka))
      | .error _ => s) s)

end Sys2Proof.Machine
end

