-- ==== Sys2Proof/Machine/Sync.lean ====
section
/-!
DEFINITION. Fences, synchronization objects, counter waits, named queues and barriers (R254 to R276).
-/
namespace Sys2Proof.Machine

/-! ## Fences (R258) -/

/-- The effect of an acquire fence on the views: at device and system scope every write that the core or its die sees
becomes visible at every die of the device, and the die's log is applied (R257, R287). -/
def State.fenceAcqAt (s : State) (core scope : Nat) : State :=
  if 4 ≤ scope then (s.releaseAt core scope).acquireAt core scope else s

/-- fence.acq: later accesses come after every earlier read has returned. -/
def execFenceAcq (c : BitVec 3) (s : State) : Host.Outcome State Fault Refusal :=
  issue s 1 [] [] fun x =>
    if x.readsLeft then .wait else .done (x.s.fenceAcqAt (coreOf x.s.cur) c.toNat)

/-- fence.rel: every earlier write is visible to every die of the scope instance before any later one leaves the core. -/
def execFenceRel (c : BitVec 3) (s : State) : Host.Outcome State Fault Refusal :=
  issue s 1 [] [] fun x =>
    if x.heldBack true then .wait else .done (x.s.releaseAt (coreOf x.s.cur) c.toNat)

/-- fence.ar: both, and every earlier write is visible before any later read. -/
def execFenceAr (c : BitVec 3) (s : State) : Host.Outcome State Fault Refusal :=
  issue s 1 [] [] fun x =>
    let core := coreOf x.s.cur
    if x.heldBack true then .wait else .done ((x.s.releaseAt core c.toNat).fenceAcqAt core c.toNat)

/-! ## Synchronization objects (R260 to R266) -/

/-- The place of an object, checked as an 8-byte atomic of global space (R260). -/
def Ix.object (x : Ix) (off : Nat) : (Except Trap Nat) × State :=
  let (r, s) := x.locate x.s 2 off 0 0 8 true true 0 0
  (r.map fun ka => kplace ka, s)

/-- An instruction that uses the queues, barriers, bindings or holds of its unit: an uncorrectable error there ends the unit
with status error (R465). -/
def Ix.unitState (x : Ix) (e : Eff) : Eff :=
  let u := x.s.unitAt x.g.unit
  if u.faulty then
    .moved (((dieUe x.s (dieOfCore u.core) 1).noteUnit x.g.unit 0).terminate x.g.unit true)
  else e

/-- Runs `f` on the object at the offset in sX. Its word is read at its home: an access there waits for a frozen page (R295),
and a poisoned word raises ECC (R465). -/
def Ix.withObject (x : Ix) (r : Nat) (f : Nat → State → Eff) : Eff := x.unitState <|
  match x.object (x.sx r) with
  | (.error t, s) => .trapIn s t
  | (.ok a, s) =>
    let s := s.findErrors (kplace (s.route a)) 8
    if s.frozen a then .wait
    else if s.poisoned (kplace (s.route a)) 8 then .trapIn s (x.trap 5 0 0 (kplace (s.route a)))
    else f a s

/-- A group of the unit holds the object. -/
def State.unitHolds (s : State) (uid obj : Nat) : Bool :=
  s.groups.any fun p => decide (p.2.unit = uid) && p.2.holds.any fun h => decide (h.1 = obj)

/-- The range of a bind obeys R261. -/
def bindOk (g : Group) (main : Bool) (base len : Nat) : Bool :=
  let seg := FMap.get {} g.segs (if main then 3 else 2)
  decide (base % 256 = 0 ∧ len % 256 = 0 ∧ 256 ≤ len ∧ len ≤ pow2 31) && seg.v &&
    (if main then decide (seg.base ≤ base ∧ base + len ≤ seg.base + seg.limit) else decide (base + len ≤ seg.limit))

/-- sobj.bind (R261). -/
def execSobjBind (x y : BitVec 6) (k : BitVec 8) (s : State) : Host.Outcome State Fault Refusal :=
  issue s 1 [spanS x.toNat 1, spanS y.toNat 4] [] fun i =>
    i.withObject x.toNat fun obj s =>
      let lo := i.sx y.toNat
      let hi := i.sx (y.toNat + 1)
      let len := i.sx (y.toNat + 2)
      let space := i.sx (y.toNat + 3)
      let main := decide (space = 3)
      let base := if main then lo + hi * pow2 32 else lo
      let uid := i.g.unit
      let c := s.coreAt (coreOf s.cur)
      let mine (b : Bind) : Bool := decide (b.unit = uid ∧ b.obj = obj ∧ b.slot = k.toNat)
      if !(c.binds.any mine) && decide (32 ≤ c.binds.length) then .trapIn s (i.trap 3 0x10 0 0)
      else if (space ≠ 2 ∧ space ≠ 3) ∨ (space = 2 ∧ hi ≠ 0) ∨ !(bindOk i.g main base len) then
        .trapIn s (i.trap 3 0x11 0 0)
      else if s.unitHolds uid obj then .trapIn s (i.trap 3 0x12 0 0)
      else
        let a := if main then base else gloc s.mode (s.unitAt uid).dev ((FMap.get {} i.g.segs 2).base + base)
        let b : Bind := { unit := uid, obj := obj, slot := k.toNat, main := main, base := a, len := len }
        let s := s.dropBinds (coreOf s.cur) mine
        .done (s.setCore (coreOf s.cur) { s.coreAt (coreOf s.cur) with binds := (s.coreAt (coreOf s.cur)).binds ++ [b] })

/-- sobj.unbind (R261). -/
def execSobjUnbind (x : BitVec 6) (k : BitVec 8) (s : State) : Host.Outcome State Fault Refusal :=
  issue s 1 [spanS x.toNat 1] [] fun i =>
    i.withObject x.toNat fun obj s =>
      if s.unitHolds i.g.unit obj then .trapIn s (i.trap 3 0x12 0 0)
      else .done (s.dropBinds (coreOf s.cur) fun b => decide (b.unit = i.g.unit ∧ b.obj = obj ∧ b.slot = k.toNat))

/-- The objects that a group holds, and those that another of its paths waits for and will hold. -/
def State.claims (s : State) (a : Nat) : List Nat :=
  (s.grpOf a).holds.map Prod.fst ++ (s.sobjQ.filter fun r => decide (r.1 = a)).map fun r => r.2.2.1

/-- The causes that refuse an acquire (R262), so that no group comes to hold an object twice, or five objects. -/
def acquireCause (claims : List Nat) (obj : Nat) : Option Nat :=
  if claims.contains obj then some 0x14
  else if 4 ≤ claims.length then some 0x15
  else none

/-- Takes an object for the current group (R262): the home's update, the hold, and the log of R287. -/
def State.takeSobj (s : State) (obj : Nat) (shared : Bool) : State :=
  let s := s.setSobj obj (sobjTaken (s.sobjWord obj) s.cur shared)
  let g := s.grp
  (s.setGrp { g with holds := g.holds ++ [(obj, shared)] }).applyLog (dieOfCore (coreOf s.cur))

/-- The object can be taken at once: nobody waits there, and its word lets the request in. -/
def State.sobjOpen (s : State) (obj : Nat) (shared : Bool) : Bool :=
  !(s.sobjQ.any fun r => decide (r.2.2.1 = obj)) && sobjFree (s.sobjWord obj) shared

/-- sobj.acq (R262): takes the object, or waits in its queue. -/
def execSobjAcq (x : BitVec 6) (h : BitVec 1) (s : State) : Host.Outcome State Fault Refusal :=
  issue s 1 [spanS x.toNat 1] [] fun i => i.afterReads <|
    i.withObject x.toNat fun obj s =>
      match acquireCause (s.claims s.cur) obj with
      | some c => .trapIn s (i.trap 3 c 0 0)
      | none =>
        if s.sobjOpen obj (h == 1) then .done (s.takeSobj obj (h == 1))
        else
          let s := i.parked s (.sobj obj (h == 1))
          .moved { s with sobjQ := s.sobjQ ++ [(s.cur, i.c.slices, obj, h == 1)] }

/-- sobj.tryacq (R262): 1 to sY when it takes the object, else 0. -/
def execSobjTryacq (x y : BitVec 6) (h : BitVec 1) (s : State) : Host.Outcome State Fault Refusal :=
  issue s 1 [spanS x.toNat 1] [spanS y.toNat 1] fun i => i.afterReads <|
    i.withObject x.toNat fun obj s =>
      match acquireCause (s.claims s.cur) obj with
      | some c => .trapIn s (i.trap 3 c 0 0)
      | none =>
        let ok := s.sobjOpen obj (h == 1)
        let s := if ok then s.takeSobj obj (h == 1) else s
        let (tok, s) := s.fresh
        .done (s.setGrp (s.grp.late tok i.c.slices [.s y.toNat] (some [if ok then 1 else 0])))

/-- Accesses of the group to a range bound to an object on its core have not been performed (R263 step 1). -/
def Ix.boundLeft (x : Ix) (obj : Nat) : Bool :=
  let bs := (x.s.coreAt (coreOf x.s.cur)).binds.filter fun b => decide (b.obj = obj)
  x.s.stalled.any fun o => decide (o.agent = x.s.cur ∧ o.unit = x.g.unit ∧ o.drain = none) && o.elems.any fun e =>
    bs.any fun b => x.s.takes b (kplace e.addr) o.bytes e.va

/-- sobj.rel (R263). -/
def execSobjRel (x : BitVec 6) (s : State) : Host.Outcome State Fault Refusal :=
  issue s 1 [spanS x.toNat 1] [] fun i => i.afterReads <|
    i.withObject x.toNat fun obj s =>
      match i.g.holds.find? fun h => decide (h.1 = obj) with
      | none => .trapIn s (i.trap 3 0x13 0 0)
      | some h =>
        if i.boundLeft obj then .wait
        else
          let s := s.publishBound (coreOf s.cur) obj
          let s := s.setGrp { s.grp with holds := s.grp.holds.filter fun k => !decide (k.1 = obj) }
          .done (s.freeSobj obj h.2)

/-! ## Counter waits and drain (R269, R270) -/

/-- waitc (R269). -/
def execWaitc (c : BitVec 5) (n : BitVec 8) (s : State) : Host.Outcome State Fault Refusal :=
  issue s 1 [] [] fun x =>
    if FMap.get 0 x.g.ctr c.toNat ≤ n.toNat then .done x.s else .moved (x.parked x.s (.counter c.toNat n.toNat))

/-- The tokens of the operations and register writes of a core's groups that are under way (R270): every engine's
operations, and every outstanding register write but those that a parked tag request or a waiting pop brings. -/
def State.liveToks (s : State) (core : Nat) : List Nat :=
  let c := s.coreAt core
  let waiting := s.parked.map (fun r => r.tok) ++
    s.units.flatMap fun p => p.2.queues.flatMap fun q => q.2.poppers.map fun r => r.2.2
  let outs := (s.groups.filter fun p => decide (coreOf p.1 = core)).flatMap fun p =>
    (p.2.outs.filter fun o => o.vals.isSome || !waiting.contains o.tok).map fun o => o.tok
  outs ++ c.copies.map (fun k => k.tok) ++ c.hg.map (fun k => k.tok) ++ c.rays.map (fun k => k.tok) ++
    c.trees.map (fun k => k.tok) ++ c.mq.map (fun k => k.tok) ++ c.batches.map (fun k => k.tok) ++
    c.addons.map (fun k => k.tok) ++ (s.colls.filter fun k => decide (coreOf k.agent = core)).map (fun k => k.tok) ++
    (s.stalled.filter fun o => decide (o.core = core)).map fun o => o.tok

/-- drain (R270): parks until everything that now runs on the core is complete; then the effect of fence.ar.sys. -/
def execDrain (s : State) : Host.Outcome State Fault Refusal :=
  issue s 1 [] [] fun x => privileged x
    (let toks := x.s.liveToks (coreOf x.s.cur)
     if toks = [] then .done ((x.s.releaseAt (coreOf x.s.cur) 5).fenceAcqAt (coreOf x.s.cur) 5)
     else .moved (x.parked x.s (.drain toks)))

/-! ## Named queues (R271 to R273) -/

def UnitSt.queue (u : UnitSt) (q : Nat) : QueueSt := FMap.get {} u.queues q
def State.setQueue (s : State) (uid q : Nat) (x : QueueSt) : State :=
  let u := s.unitAt uid
  s.setUnit uid { u with queues := u.queues.ins q x }

/-- The number of words of an entry. -/
def QueueSt.words (q : QueueSt) : Nat := 1 <<< q.lw

/-- The place of the i-th entry of the ring. -/
def QueueSt.slotAt (q : QueueSt) (i : Nat) : Nat := q.ring + 4 * q.words * (i % q.cap)

/-- Appends an entry: ring words are written as any others, and each die sees them at an instant of its own (R252). -/
def State.enqueue (s : State) (uid q : Nat) (vals : List Word) : State :=
  let x := (s.unitAt uid).queue q
  let s := s.wrBytesFor (s.unitAt uid).core (x.slotAt (x.head + x.count)) (vals.flatMap fun w => bytesOf 4 w.toNat)
  s.setQueue uid q { (s.unitAt uid).queue q with count := x.count + 1 }

/-- The entry at the head is poisoned: an error in the queue's state (R465). -/
def State.headBad (s : State) (uid q : Nat) : Bool :=
  let x := (s.unitAt uid).queue q
  s.poisoned (x.slotAt x.head) (4 * x.words) ||
    s.latent.any fun p => p.2 && decide (x.slotAt x.head / 8 ≤ p.1 / 8 ∧ p.1 / 8 ≤ (x.slotAt x.head + 4 * x.words - 1) / 8)

/-- Such an error ends the unit with status error. -/
def State.queueError (s : State) (uid q : Nat) : State :=
  let x := (s.unitAt uid).queue q
  let u := s.unitAt uid
  let t := (s.findErrors (x.slotAt x.head) (4 * x.words)).noteUnit uid (x.slotAt x.head)
  (t.setUnit uid { u with faulty := true }).terminate uid true

/-- Removes the oldest entry; single-bit errors in it are corrected (R463). -/
def State.dequeue (s : State) (uid q : Nat) : List Word × State :=
  let x := (s.unitAt uid).queue q
  let a := x.slotAt x.head
  let s := s.findErrors a (4 * x.words)
  ((List.range x.words).map fun i => BitVec.ofNat 32 (s.rdN (a + 4 * i) 4),
    s.setQueue uid q { x with head := (x.head + 1) % x.cap, count := x.count - 1 })

/-- Serves waiting pushes and pops in their order of arrival as long as the queue lets one through. -/
def State.serveQueue (s : State) (uid q : Nat) : Nat → State
  | 0 => s
  | fuel + 1 =>
    let x := (s.unitAt uid).queue q
    if x.count > 0 then
      match x.poppers with
      | (a, sl, tok) :: t =>
        if s.headBad uid q then s.queueError uid q
        else
        let s := s.setQueue uid q { x with poppers := t }
        let (vals, s) := s.dequeue uid q
        let s := s.setGrpOf a (((s.grpOf a).wakePath sl).progress sl)
        (s.deliver a uid tok vals).serveQueue uid q fuel
      | [] =>
        match x.pushers with
        | (a, sl, vals) :: t =>
          if x.count < x.cap then
            let s := s.setQueue uid q { x with pushers := t }
            let s := s.setGrpOf a (((s.grpOf a).wakePath sl).progress sl)
            (s.enqueue uid q vals).serveQueue uid q fuel
          else s
        | [] => s
    else
      match x.pushers with
      | (a, sl, vals) :: t =>
        if x.count < x.cap then
          let s := s.setQueue uid q { x with pushers := t }
          let s := s.setGrpOf a (((s.grpOf a).wakePath sl).progress sl)
          (s.enqueue uid q vals).serveQueue uid q fuel
        else s
      | [] => s

/-- Enough steps for every request that waits. -/
def QueueSt.fuel (q : QueueSt) : Nat := q.pushers.length + q.poppers.length + 1

/-- queue.init (R271). -/
def execQueueInit (x y : BitVec 6) (q : BitVec 8) (s : State) : Host.Outcome State Fault Refusal :=
  issue s 1 [spanS x.toNat 1, spanS y.toNat 1] [] fun i => i.unitState <|
    let u := i.s.unitAt i.g.unit
    let old := u.queue q.toNat
    let off := i.sx x.toNat
    let w := i.sx y.toNat
    let cap := w % 8192
    let lw := nbits w 17 16
    let seg := FMap.get {} i.g.segs 1
    if old.pushers ≠ [] ∨ old.poppers ≠ [] then i.access 0x1A
    else if off % 32 ≠ 0 ∨ cap = 0 ∨ cap > 4096 ∨ nbits w 15 13 ≠ 0 ∨ nbits w 31 18 ≠ 0 ∨ !seg.v ∨
        seg.limit < off + cap * 4 * 1 <<< lw then i.access 0x1B
    else
      .done (i.s.setQueue i.g.unit q.toNat
        { ring := sloc (coreOf i.s.cur) (seg.base + off), cap := cap, lw := lw
          producers := BitVec.ofNat 17 (pow2 16 + (pow2 u.groups - 1))
          consumers := BitVec.ofNat 17 (pow2 16 + (pow2 u.groups - 1)) })

/-- queue.allow (R271). -/
def execQueueAllow (x y : BitVec 6) (q : BitVec 8) (s : State) : Host.Outcome State Fault Refusal :=
  issue s 1 [spanS x.toNat 1, spanS y.toNat 1] [] fun i => i.unitState <|
    let p := i.sx x.toNat
    let c := i.sx y.toNat
    if p / pow2 17 ≠ 0 ∨ c / pow2 17 ≠ 0 then i.access 0x1B
    else .done (i.s.setQueue i.g.unit q.toNat
      { (i.s.unitAt i.g.unit).queue q.toNat with producers := BitVec.ofNat 17 p, consumers := BitVec.ofNat 17 c })

/-- The cause that refuses a push or pop (R272), in the order of the rule. -/
def queueCause (q : QueueSt) (push : Bool) (gidx x : Nat) : Option Nat :=
  if q.cap = 0 then some 0x18
  else if !(if push then q.producers.getLsbD gidx else q.consumers.getLsbD gidx) then some 0x19
  else if x % q.words ≠ 0 ∨ x + q.words > 64 then some 0x1C
  else none

/-- The registers of an entry from sX on. -/
def entryRegs (q : QueueSt) (x : Nat) : List Reg := (List.range q.words).map fun i => Reg.s (x + i)
def Ix.entry (i : Ix) (q : QueueSt) (x : Nat) : List Word := (List.range q.words).map fun k => i.g.sAt (x + k)

/-- The entry size that an instruction meets, for its register operands. -/
def queueWords (s : State) (q : Nat) : Nat := ((s.unitAt s.grp.unit).queue q).words

/-- queue.push (R272): a release at team scope. -/
def execQueuePush (x : BitVec 6) (q : BitVec 8) (s : State) : Host.Outcome State Fault Refusal :=
  issue s 1 [spanS x.toNat (queueWords s q.toNat)] [] fun i => i.unitState <| i.afterAll <|
    let k := (i.s.unitAt i.g.unit).queue q.toNat
    match queueCause k true i.g.gidx x.toNat with
    | some c => i.access c
    | none =>
      let s := (i.s.releaseAt (coreOf i.s.cur) 1)
      let s := s.setGrp (s.grp.progress i.c.slices)
      let vals := i.entry k x.toNat
      if k.pushers = [] ∧ k.count < k.cap then .done ((s.enqueue i.g.unit q.toNat vals).serveQueue i.g.unit q.toNat k.fuel)
      else
        let s := i.parked s (.queuePush q.toNat vals)
        .moved ((s.setQueue i.g.unit q.toNat { k with pushers := k.pushers ++ [(s.cur, i.c.slices, vals)] }).serveQueue
          i.g.unit q.toNat (k.fuel + 1))

/-- queue.pop (R272): an acquire at team scope; the entry registers are outstanding until they are written. -/
def execQueuePop (x : BitVec 6) (q : BitVec 8) (s : State) : Host.Outcome State Fault Refusal :=
  issue s 1 [] [spanS x.toNat (queueWords s q.toNat)] fun i => i.unitState <| i.afterAcquires <|
    let k := (i.s.unitAt i.g.unit).queue q.toNat
    match queueCause k false i.g.gidx x.toNat with
    | some c => i.access c
    | none =>
      let (tok, s) := i.s.fresh
      let s := s.setGrp ((s.grp.progress i.c.slices).late tok i.c.slices (entryRegs k x.toNat) none)
      if k.poppers = [] ∧ k.count > 0 ∧ s.headBad i.g.unit q.toNat then .moved (s.queueError i.g.unit q.toNat)
      else if k.poppers = [] ∧ k.count > 0 then
        let (vals, s) := s.dequeue i.g.unit q.toNat
        .done ((s.deliver s.cur i.g.unit tok vals).serveQueue i.g.unit q.toNat k.fuel)
      else
        let s := i.parked s (.queuePop q.toNat x.toNat)
        .moved ((s.setQueue i.g.unit q.toNat { k with poppers := k.poppers ++ [(s.cur, i.c.slices, tok)] }).serveQueue
          i.g.unit q.toNat (k.fuel + 1))

/-- queue.trypush (R273). -/
def execQueueTrypush (x y : BitVec 6) (q : BitVec 8) (s : State) : Host.Outcome State Fault Refusal :=
  issue s 1 [spanS x.toNat (queueWords s q.toNat)] [spanS y.toNat 1] fun i => i.unitState <| i.afterAll <|
    let k := (i.s.unitAt i.g.unit).queue q.toNat
    match queueCause k true i.g.gidx x.toNat with
    | some c => i.access c
    | none =>
      let ok := decide (k.pushers = [] ∧ k.count < k.cap)
      let s := i.s.setGrp (i.s.grp.progress i.c.slices)
      let s := if ok then ((s.releaseAt (coreOf s.cur) 1).enqueue i.g.unit q.toNat (i.entry k x.toNat)).serveQueue
        i.g.unit q.toNat k.fuel else s
      let (tok, s) := s.fresh
      .done (s.setGrp (s.grp.late tok i.c.slices [.s y.toNat] (some [if ok then 1 else 0])))

/-- queue.trypop (R273): the status is written after the entry. -/
def execQueueTrypop (x y : BitVec 6) (q : BitVec 8) (s : State) : Host.Outcome State Fault Refusal :=
  issue s 1 [] [spanS x.toNat (queueWords s q.toNat), spanS y.toNat 1] fun i => i.unitState <| i.afterAcquires <|
    let k := (i.s.unitAt i.g.unit).queue q.toNat
    match queueCause k false i.g.gidx x.toNat with
    | some c => i.access c
    | none =>
      let ok := decide (k.poppers = [] ∧ k.count > 0)
      if ok && i.s.headBad i.g.unit q.toNat then .moved (i.s.queueError i.g.unit q.toNat) else
      let s := i.s.setGrp (i.s.grp.progress i.c.slices)
      let (vals, s) := if ok then s.dequeue i.g.unit q.toNat else ([], s)
      let s := if ok then s.serveQueue i.g.unit q.toNat k.fuel else s
      let (tok, s) := s.fresh
      let regs := (if ok then entryRegs k x.toNat else []) ++ [Reg.s y.toNat]
      .done (s.setGrp (s.grp.late tok i.c.slices regs (some (vals ++ [if ok then 1 else 0]))))

/-! ## Asynchronous barriers (R274 to R276) -/

def UnitSt.abar (u : UnitSt) (b : Nat) : AbarSt := FMap.get {} u.abars b
def State.setAbar (s : State) (uid b : Nat) (x : AbarSt) : State :=
  let u := s.unitAt uid
  s.setUnit uid { u with abars := u.abars.ins b x }

/-- A phase that is complete ends (R274). -/
def AbarSt.settle (x : AbarSt) : AbarSt :=
  if x.pend = 0 ∧ x.xp = 0 then { x with phase := (x.phase + 1) % pow2 32, pend := x.count, xp := 0 } else x

/-- Wakes the paths of a unit whose wait for barrier b is over. -/
def State.serveAbar (s : State) (uid b : Nat) : State :=
  let ph := ((s.unitAt uid).abar b).phase
  { s with groups := s.groups.map fun p =>
      if p.2.unit = uid then
        (p.1, { p.2 with paths := p.2.paths.map fun q =>
          match q.wait with
          | some (.abar c t) => if c = b ∧ t ≠ ph then { q with wait := none } else q
          | _ => q })
      else p }

/-- Stores a barrier and ends its phase when it is complete. -/
def State.updateAbar (s : State) (uid b : Nat) (x : AbarSt) : State := (s.setAbar uid b x.settle).serveAbar uid b

/-- An engine operation completes through a barrier (R276). -/
def State.abarComplete (s : State) (uid b : Nat) : State :=
  let x := (s.unitAt uid).abar b
  if x.count = 0 then s else s.updateAbar uid b { x with xp := sintOf 32 (bitsOf 32 (x.xp - 1)) }

/-- A request waits at a barrier of a unit. -/
def State.abarWaited (s : State) (uid b : Nat) : Bool :=
  s.groups.any fun p => decide (p.2.unit = uid) && p.2.paths.any fun q =>
    match q.wait with
    | some (.abar c _) => decide (c = b)
    | _ => false

/-- abar.init (R274). -/
def execAbarInit (x : BitVec 6) (b : BitVec 8) (s : State) : Host.Outcome State Fault Refusal :=
  issue s 1 [spanS x.toNat 1] [] fun i => i.unitState <|
    let n := i.sx x.toNat
    if i.s.abarWaited i.g.unit b.toNat then i.access 0x1D
    else if n = 0 ∨ 1023 < n then i.access 0x1E
    else .done (i.s.setAbar i.g.unit b.toNat { count := n, pend := n })

/-- abar.expect (R274). -/
def execAbarExpect (x : BitVec 6) (b : BitVec 8) (s : State) : Host.Outcome State Fault Refusal :=
  issue s 1 [spanS x.toNat 1] [] fun i => i.unitState <|
    let n := i.sx x.toNat
    let a := (i.s.unitAt i.g.unit).abar b.toNat
    if a.count = 0 then i.access 0x1D
    else if n = 0 ∨ 65535 < n then i.access 0x1E
    else .done (i.s.updateAbar i.g.unit b.toNat { a with xp := sintOf 32 (bitsOf 32 (a.xp + n)) })

/-- abar.arrive (R275): a release at team scope; the phase to sX. -/
def execAbarArrive (x : BitVec 6) (b : BitVec 8) (s : State) : Host.Outcome State Fault Refusal :=
  issue s 1 [] [spanS x.toNat 1] fun i => i.unitState <| i.afterAll <|
    let a := (i.s.unitAt i.g.unit).abar b.toNat
    if a.count = 0 then i.access 0x1D
    else if a.pend = 0 then i.access 0x1E
    else
      let (tok, s) := (i.s.releaseAt (coreOf i.s.cur) 1).fresh
      let s := s.setGrp (s.grp.late tok i.c.slices [.s x.toNat] (some [BitVec.ofNat 32 a.phase]))
      .done (s.updateAbar i.g.unit b.toNat { a with pend := a.pend - 1 })

/-- abar.wait (R275): parks until the phase differs from sX. -/
def execAbarWait (x : BitVec 6) (b : BitVec 8) (s : State) : Host.Outcome State Fault Refusal :=
  issue s 1 [spanS x.toNat 1] [] fun i => i.unitState <|
    let a := (i.s.unitAt i.g.unit).abar b.toNat
    if a.count = 0 then i.access 0x1D
    else if a.phase ≠ i.sx x.toNat then .done i.s
    else .moved (i.parked i.s (.abar b.toNat a.phase))

/-- abar.arrwait (R275): arrives, then waits with the arrival's token. -/
def execAbarArrwait (b : BitVec 8) (s : State) : Host.Outcome State Fault Refusal :=
  issue s 1 [] [] fun i => i.unitState <| i.afterAll <|
    let a := (i.s.unitAt i.g.unit).abar b.toNat
    if a.count = 0 then i.access 0x1D
    else if a.pend = 0 then i.access 0x1E
    else
      let s := i.parked (i.s.releaseAt (coreOf i.s.cur) 1) (.abar b.toNat a.phase)
      .moved (s.updateAbar i.g.unit b.toNat { a with pend := a.pend - 1 })

end Sys2Proof.Machine
end

