-- ==== Sys2Proof/Machine/Copy.lean ====
section
/-!
DEFINITION. The copy engine and code fetch (R304 to R319).
-/
namespace Sys2Proof.Machine

/-! ## Descriptors (R304 to R306) -/

/-- The forms by FN (R305): 0 lin, 1 blk2, 2 blk3, 3 gath, 4 scat, 5 fill, 6 exp6, 7 pak6, 8 red.add, 9 red.min,
10 red.max, 11 opb. -/
def isRed (form : Nat) : Bool := decide (form = 8 ∨ form = 9 ∨ form = 10)
def isSix (form : Nat) : Bool := decide (form = 6 ∨ form = 7)

/-- Reads a descriptor at a place through a view of memory: its fields, its MODE word and its reserved half word. -/
def readDesc (rd : Nat → Nat → Nat) : CopyDesc × Nat × Nat :=
  let mode := rd 44 2
  ({ src := rd 0 8, dst := rd 8 8, len := rd 16 4, rows := rd 20 2, planes := rd 22 2, sstr := rd 24 4, dstr := rd 28 4
     spstr := rd 32 4, dpstr := rd 36 4, aux := rd 40 4, ss := mode % 4, ds := nbits mode 3 2, et := nbits mode 6 4 },
    mode, rd 46 2)

/-- Bytes or elements of one unit along a row. -/
def unitStep (form : Nat) : Nat := if isSix form then 32 else 4
def CopyDesc.perRow (d : CopyDesc) (form : Nat) : Nat := d.len / unitStep form
def CopyDesc.units (d : CopyDesc) (form : Nat) : Nat := d.planes * d.rows * d.perRow form

/-- Every field obeys R304 and R305. -/
def descOk (form : Nat) (d : CopyDesc) (mode rsv : Nat) : Bool :=
  let z (l : List Nat) : Bool := l.all fun x => decide (x = 0)
  let form1 : Bool := match form with
    | 0 => decide (d.rows = 1 ∧ d.planes = 1) && z [d.sstr, d.dstr, d.spstr, d.dpstr, d.aux]
    | 1 => decide (d.planes = 1) && z [d.spstr, d.dpstr, d.aux]
    | 2 => z [d.aux]
    | 3 => decide (d.planes = 1) && z [d.spstr, d.dpstr]
    | 4 => decide (d.planes = 1) && z [d.spstr, d.dpstr]
    | 5 => decide (d.ss = 0) && z [d.src, d.sstr, d.spstr]
    | 6 => decide (d.ss = 2 ∧ d.ds ≠ 2) && z [d.aux]
    | 7 => decide (d.ss ≠ 2 ∧ d.ds = 2) && z [d.aux]
    | 11 => decide (d.ds = 0 ∧ d.planes = 1 ∧ d.len ≤ 256) && z [d.dst, d.dstr, d.dpstr]
    | _ => z [d.aux]
  form1 && (isRed form || decide (d.et = 0)) &&
    decide (d.ss ≤ 2 ∧ d.ds ≤ 2 ∧ d.et ≤ 4 ∧ mode / 128 = 0 ∧ rsv = 0 ∧ 1 ≤ d.rows ∧ 1 ≤ d.planes ∧ 4 ≤ d.len ∧
      d.len ≤ pow2 30 ∧ d.len % unitStep form = 0 ∧ (d.ss = 2 ∨ d.src < pow2 32) ∧ (d.ds = 2 ∨ d.dst < pow2 32) ∧
      d.units form < pow2 32)

/-- Bases, strides and the index offset are multiples of 4 (R306). -/
def descAligned (form : Nat) (d : CopyDesc) : Bool :=
  [d.src, d.dst, d.sstr, d.dstr, d.spstr, d.dpstr].all (fun x => decide (x % 4 = 0)) &&
    (!decide (form = 3 ∨ form = 4) || decide (d.aux % 4 = 0))

/-- Bytes of a row on a side. -/
def CopyDesc.srcRow (d : CopyDesc) (form : Nat) : Nat := if form = 6 then 3 * d.len / 4 else d.len
def CopyDesc.dstRow (d : CopyDesc) (form : Nat) : Nat := if form = 7 then 3 * d.len / 4 else d.len

/-- The first failing check of a range of a side under R224 and R225: space 0 slice, 1 global, 2 main. -/
def State.rangeCause (s : State) (dev : Nat) (seg : SegReg) (space lo len : Nat) (write : Bool) : Option Nat :=
  if !seg.v then some 0x01
  else if space = 2 ∧ pow2 48 < lo + len then some 0x05
  else if space = 2 ∧ (lo < seg.base ∨ seg.base + seg.limit < lo + len) then some 0x02
  else if space ≠ 2 ∧ seg.limit < lo + len then some 0x02
  else if space = 1 ∧ globalSize s.mode < seg.base + lo + len then some 0x04
  else if write ∧ !seg.wr then some 0x03
  else if space = 1 ∧ s.guardedRange (gloc s.mode dev (seg.base + lo)) len then some 0x0A
  else none

/-- The segment of a side's space. -/
def CopyCmd.segOf (k : CopyCmd) (space : Nat) : SegReg :=
  match space with
  | 0 => k.sslice
  | 1 => k.sglobal
  | _ => k.smain

/-- The bytes from the lowest to the highest that a side with regular rows touches. -/
def footprint (rowBytes str pstr rows planes : Nat) : Nat := (planes - 1) * pstr + (rows - 1) * str + rowBytes

/-- Check 4 of R306. -/
def State.copyCause (s : State) (k : CopyCmd) : Option Nat :=
  let d := k.d
  let src := if k.form = 3 ∨ k.form = 5 then none
    else s.rangeCause k.dev (k.segOf d.ss) d.ss d.src (footprint (d.srcRow k.form) d.sstr d.spstr d.rows d.planes) false
  let dst := if k.form = 4 ∨ k.form = 11 then none
    else s.rangeCause k.dev (k.segOf d.ds) d.ds d.dst (footprint (d.dstRow k.form) d.dstr d.dpstr d.rows d.planes) true
  let idx := if k.form = 3 ∨ k.form = 4 then s.rangeCause k.dev k.sslice 0 d.aux (4 * d.rows) false else none
  (src.or dst).or idx

/-- A row reference (R168): record index and offset; none where a reserved bit or, outside mdrn, COL is set. -/
def rowRef (w : Nat) : Option (Nat × Nat) :=
  if nbits w 31 20 ≠ 0 ∨ nbits w 15 12 ≠ 0 then none else some (nbits w 19 16, nbits w 11 0)

/-- Check 5 of R306: the cause, or the first buffer row. -/
def Core.opbRow (c : Core) (d : CopyDesc) : Except Nat Nat :=
  match rowRef d.aux with
  | none => .error 0x41
  | some (r, off) =>
    match c.recs.find r with
    | none => .error 0x41
    | some rec =>
      if rec.buf ≠ 0 then .error 0x41
      else if rec.rows < off + d.rows then .error 0x44
      else .ok (rec.row0 + off)

/-- The lowest free command slot of a core (R313). -/
def Core.freeSlot (c : Core) : Option Nat := (List.range 64).find? fun i => !(c.copies.any fun k => decide (k.slot = i))

/-- A command of the record area is not yet in effect (R306). -/
def Core.recsPending (c : Core) : Bool :=
  c.mq.any fun e => match e.cmd with
    | .mres _ _ => true
    | _ => false

/-- Raises an outstanding-operation counter (R35). -/
def Group.raiseCtr (g : Group) (cls : Nat) : Group := { g with ctr := FMap.put 0 g.ctr cls (FMap.get 0 g.ctr cls + 1) }

/-- A counter at its limit (R35). -/
def Group.ctrFull (g : Group) (cls : Nat) : Bool := decide (255 ≤ FMap.get 0 g.ctr cls)

/-- Writes PROGRESS, STATUS and FAULTVA of a descriptor. -/
def State.putDesc (s : State) (k : CopyCmd) : State :=
  let put (s : State) (o n v : Nat) : State := s.wrHomeFor (coreOf k.agent) (k.desc + o) n v
  if k.cseg.isSome then s else put (put (put s 48 4 k.next) 52 4 k.status) 56 8 k.faultva

/-- The common form of the cpy instructions. The descriptor is read at its home: it waits for a frozen frame (R295), and a
poisoned word in it raises ECC and starts nothing (DEDUCED, log 101). -/
def copyInstr (s : State) (r : BitVec 6) (form : Nat) : Host.Outcome State Fault Refusal :=
  issue s 1 [spanS r.toNat 1] [] fun x =>
    let off := x.sx r.toNat
    let core := coreOf x.s.cur
    let c := x.s.coreAt core
    let u := x.s.unitAt x.g.unit
    let sl := FMap.get {} x.g.segs 1
    if x.g.ctrFull 1 || x.heldBack true then .wait
    else if off % 64 ≠ 0 then x.align off
    else if !sl.v then .trap (x.trap 3 0x01 0 off)
    else if sl.limit < off + 64 then .trap (x.trap 3 0x02 0 off)
    else
      let a := sloc core (sl.base + off)
      if x.s.frozen a then .wait else
      let (bad, s0) := x.s.badHome a 48
      if bad then .trapIn s0 (x.trap 5 0 0 (kplace (s0.route a))) else
      let (d, mode, rsv) := readDesc fun o n => s0.readAt core (dieOfCore core) (a + o) n
      let k : CopyCmd :=
        { slot := c.freeSlot.getD 0, agent := x.s.cur, unit := x.g.unit, dev := u.dev, asid := u.asid, form := form, d := d
          desc := a, sslice := sl, sglobal := FMap.get {} x.g.segs 2, smain := FMap.get {} x.g.segs 3, tok := x.s.tok }
      if !descOk form d mode rsv then x.access 0x28
      else if !descAligned form d then x.align 0
      else
        match x.s.copyCause k with
        | some cause => x.access cause
        | none =>
          let go (k : CopyCmd) : Eff :=
            if c.freeSlot = none then .wait
            else
              let s := (s0.fresh.2).putDesc k
              let s := s.setGrp (s.grp.raiseCtr 1)
              .done (s.setCore core { c with copies := c.copies ++ [k] })
          if form = 11 then
            if c.recsPending then .wait
            else match c.opbRow d with
              | .error cause => x.access cause
              | .ok row => go { k with row := row }
          else go k

/-- cpy.lin (R305, R316). -/
def execCpyLin (x : BitVec 6) (s : State) : Host.Outcome State Fault Refusal := copyInstr s x 0

/-- cpy.blk2 (R305, R316). -/
def execCpyBlk2 (x : BitVec 6) (s : State) : Host.Outcome State Fault Refusal := copyInstr s x 1

/-- cpy.blk3 (R305, R316). -/
def execCpyBlk3 (x : BitVec 6) (s : State) : Host.Outcome State Fault Refusal := copyInstr s x 2

/-- cpy.gath (R305, R316). -/
def execCpyGath (x : BitVec 6) (s : State) : Host.Outcome State Fault Refusal := copyInstr s x 3

/-- cpy.scat (R305, R316). -/
def execCpyScat (x : BitVec 6) (s : State) : Host.Outcome State Fault Refusal := copyInstr s x 4

/-- cpy.fill (R305, R316). -/
def execCpyFill (x : BitVec 6) (s : State) : Host.Outcome State Fault Refusal := copyInstr s x 5

/-- cpy.exp6 (R305, R316). -/
def execCpyExp6 (x : BitVec 6) (s : State) : Host.Outcome State Fault Refusal := copyInstr s x 6

/-- cpy.pak6 (R305, R316). -/
def execCpyPak6 (x : BitVec 6) (s : State) : Host.Outcome State Fault Refusal := copyInstr s x 7

/-- cpy.red.add (R305, R316). -/
def execCpyRedAdd (x : BitVec 6) (s : State) : Host.Outcome State Fault Refusal := copyInstr s x 8

/-- cpy.red.min (R305, R316). -/
def execCpyRedMin (x : BitVec 6) (s : State) : Host.Outcome State Fault Refusal := copyInstr s x 9

/-- cpy.red.max (R305, R316). -/
def execCpyRedMax (x : BitVec 6) (s : State) : Host.Outcome State Fault Refusal := copyInstr s x 10

/-- cpy.opb (R305, R316). -/
def execCpyOpb (x : BitVec 6) (s : State) : Host.Outcome State Fault Refusal := copyInstr s x 11

/-! ## Units and runs (R307 to R311) -/

/-- Row, plane and byte within the row of unit u. -/
def CopyDesc.at (d : CopyDesc) (form u : Nat) : Nat × Nat × Nat :=
  let per := d.perRow form
  let row := u / per
  (row / d.rows, row % d.rows, u % per * unitStep form)

/-- The place of the index of row r (R307). -/
def CopyCmd.idxPlace (k : CopyCmd) (r : Nat) : Nat := sloc (coreOf k.agent) (k.sslice.base + k.d.aux + 4 * r)

/-- The row of unit u needs an index that is not read yet. -/
def CopyCmd.needsIdx (k : CopyCmd) (u : Nat) : Bool :=
  decide (k.form = 3 ∨ k.form = 4) && decide (k.idx.map Prod.fst ≠ some (k.d.at k.form u).2.1)

/-- Reads the index of the row of unit u, once for the row (R307). -/
def State.readIdx (s : State) (k : CopyCmd) (u : Nat) : CopyCmd × State :=
  if k.needsIdx u then
    let core := coreOf k.agent
    let r := (k.d.at k.form u).2.1
    let (bad, s) := (s.served (k.idxPlace r) 4).badHome (k.idxPlace r) 4
    let s := if bad then s.noteUnit k.unit (kplace (s.route (k.idxPlace r))) else s
    ({ k with idx := some (r, s.readAt core (dieOfCore core) (k.idxPlace r) 4, bad) }, s)
  else (k, s)

/-- Source and destination of unit u as offsets or VAs of their spaces. -/
def CopyCmd.unitAddr (k : CopyCmd) (u : Nat) : Nat × Nat :=
  let d := k.d
  let (pl, r, b) := d.at k.form u
  let i := (k.idx.getD (0, 0, false)).2.1
  let rs := if k.form = 3 then i else r
  let rd := if k.form = 4 then i else r
  let bs := if k.form = 6 then 3 * b / 4 else b
  let bd := if k.form = 7 then 3 * b / 4 else b
  (d.src + pl * d.spstr + rs * d.sstr + bs, d.dst + pl * d.dpstr + rd * d.dstr + bd)

/-- Bytes of one unit on each side. -/
def srcBytes (form : Nat) : Nat := if form = 6 then 24 else if form = 7 then 32 else 4
def dstBytes (form : Nat) : Nat := if form = 6 then 32 else if form = 7 then 24 else 4

/-- The indexed side of a unit lies outside its segment or in a guarded area (R307). -/
def State.unitOut (s : State) (k : CopyCmd) (u : Nat) : Bool :=
  let a := k.unitAddr u
  if k.form = 3 then (s.rangeCause k.dev (k.segOf k.d.ss) k.d.ss a.1 4 false).isSome
  else if k.form = 4 then (s.rangeCause k.dev (k.segOf k.d.ds) k.d.ds a.2 4 true).isSome
  else false

/-- The translations that a run uses: of its first unit's first byte, and of its last byte where that lies beyond. -/
abbrev Pages := List Page

def Page.covers (p : Page) (a n : Nat) : Bool := decide (p.va ≤ a ∧ a + n ≤ p.va + p.size)

/-- Translates the bytes of one side of a unit: the pages, or the address and cause of the fault. -/
def State.sidePages (s : State) (k : CopyCmd) (a n : Nat) (write : Bool) : (Except (Nat × Nat) Pages) × State :=
  let core := coreOf k.agent
  match s.translate core (dieOfCore core) k.dev k.asid a write true with
  | (.error c, s) => (.error (a, c), s)
  | (.ok p, s) =>
    if p.covers a n then (.ok [p], s)
    else
      let b := p.va + p.size
      match s.translate core (dieOfCore core) k.dev k.asid b write true with
      | (.error c, s) => (.error (b, c), s)
      | (.ok q, s) => (.ok [p, q], s)

/-- The keyed place of a word of a side. -/
def State.sidePlace (s : State) (k : CopyCmd) (space : Nat) (ps : Pages) (a : Nat) : Nat :=
  match space with
  | 0 => sloc (coreOf k.agent) (k.sslice.base + a)
  | 1 => gloc s.mode k.dev (k.sglobal.base + a)
  | _ =>
    match ps.find? fun p => p.covers a 4 with
    | some p => p.place s.mode k.dev a
    | none => 0

/-- ASID and VA of a word of a side, where it lies in main space (R292). -/
def CopyCmd.sideVa (k : CopyCmd) (space a : Nat) : Option (Nat × Nat) := if 2 ≤ space then some (k.asid, a) else none

/-- The words that a plain unit writes, from the words it reads (R307). -/
def packUnit (form : Nat) (ws : List Nat) : List Nat :=
  let v := ws.foldr (fun w m => w + m * pow2 32) 0
  match form with
  | 6 => (List.range 8).map fun i =>
      (List.range 4).foldl (fun m j => m + nbits v (6 * (4 * i + j) + 5) (6 * (4 * i + j)) <<< (8 * j)) 0
  | 7 =>
    let p := (List.range 32).foldl (fun m i => m + nbits v (8 * i + 5) (8 * i) <<< (6 * i)) 0
    (List.range 6).map fun i => nbits p (32 * i + 31) (32 * i)
  | _ => ws

/-- A reducing unit's result from the destination and the source (R308). ET: 0 i32, 1 n32, 2 f32, 3 f16, 4 bf16. -/
def redUnit (form et d x : Nat) : Nat :=
  let half (op : Nat → Nat → Nat) : Nat :=
    op (d % 65536) (x % 65536) + 65536 * op (d / 65536) (x / 65536)
  let mm (f : Fmt) (least : Bool) (a b : Nat) : Nat := (minMax f least (f.value a) (f.value b)).1
  let least := decide (form = 9)
  match et with
  | 0 => if form = 8 then (d + x) % pow2 32
         else if least then (if sintOf 32 x < sintOf 32 d then x else d)
         else (if sintOf 32 d < sintOf 32 x then x else d)
  | 1 => if form = 8 then (d + x) % pow2 32 else if least then min d x else max d x
  | 2 => if form = 8 then fp32.addRne d x else mm fp32 least d x
  | 3 => if form = 8 then addHalves fp16 d x else half (mm fp16 least)
  | _ => if form = 8 then addHalves bf16 d x else half (mm bf16 least)

/-- Writes 4 bytes of an operand-buffer row. An 8-byte unit of the buffer that the command writes whole loses its error with
the first half (R463). -/
def State.wrOpb (s : State) (core row byte len v : Nat) (bad : Bool) : State :=
  let c := s.coreAt core
  let unit8 := 32 * row + byte / 8
  let l := if byte % 8 = 0 ∧ byte + 8 ≤ len then c.opbPoison.filter fun p => decide (p ≠ unit8) else c.opbPoison
  s.setCore core { c with
    opb := ((bytesOf 4 v).zipIdx).foldl (fun m p => FMap.put 0 m (256 * row + byte + p.2) p.1) c.opb
    opbPoison := if bad then unit8 :: l else l }

/-- Some word of a unit, on either side, lies in a frozen frame, and so the unit waits (R310). -/
def State.unitFrozen (s : State) (k : CopyCmd) (sp dp : Pages) (a : Nat × Nat) : Bool :=
  (decide (k.form ≠ 5) && (List.range (srcBytes k.form / 4)).any fun i => s.frozen (s.sidePlace k k.d.ss sp (a.1 + 4 * i))) ||
    (decide (k.form ≠ 11) && (List.range (dstBytes k.form / 4)).any fun i => s.frozen (s.sidePlace k k.d.ds dp (a.2 + 4 * i)))

/-- Performs one unit (R307 to R309). The words of a row whose index is poisoned are poison at a gath's destination, and a
scat, which has no destination for them, writes none (DEDUCED, log 101). -/
def State.doUnit (s : State) (k : CopyCmd) (sp dp : Pages) (u : Nat) (a : Nat × Nat) : State :=
  let core := coreOf k.agent
  let die := dieOfCore core
  let srcAt (i : Nat) : Nat := s.sidePlace k k.d.ss sp (a.1 + 4 * i)
  let dstAt (i : Nat) : Nat := s.sidePlace k k.d.ds dp (a.2 + 4 * i)
  let dstVa (i : Nat) : Option (Nat × Nat) := k.sideVa k.d.ds (a.2 + 4 * i)
  let ns := if k.form = 5 then 0 else srcBytes k.form / 4
  let s := (List.range ns).foldl (fun s i => s.served (srcAt i) 4) s
  let ws := if k.form = 5 then [k.d.aux] else (List.range ns).map fun i => s.readAt core die (srcAt i) 4 (k.sideVa k.d.ss (a.1 + 4 * i))
  let idxBad := (k.idx.getD (0, 0, false)).2.2
  let bad := idxBad || (List.range ns).any fun i =>
    s.poisoned (kplace (s.route (srcAt i))) 4 || s.crcLost (kplace (s.route (srcAt i))) 4
  let s := (List.range ns).foldl (fun s i => s.crcDone (kplace (s.route (srcAt i))) 4) s
  if k.form = 11 then
    let row := k.row + u / k.d.perRow 11
    let byte := 4 * (u % k.d.perRow 11)
    let s := s.wrOpb core row byte k.d.len (ws.getD 0 0) bad
    if bad then s.noteUnit k.unit (kplace (srcAt 0)) else s
  else if k.form = 4 ∧ idxBad then s
  else if isRed k.form then
    let p := dstAt 0
    let s := s.served p 4
    let bad := bad || s.poisoned (kplace (s.route p)) 4
    let v := redUnit k.form k.d.et (s.homeAt p 4) (ws.getD 0 0)
    let s := s.writeAt k.agent core p 4 v (dstVa 0)
    if bad then (s.poisonAt (kplace (s.route p)) 4).noteUnit k.unit (kplace p) else s
  else
    (packUnit k.form ws).zipIdx.foldl (fun s w =>
      let p := dstAt w.2
      let s := (s.served p 4).writeAt k.agent core p 4 w.1 (dstVa w.2)
      if bad then (s.poisonAt (kplace (s.route p)) 4).noteUnit k.unit (kplace (srcAt 0)) else s) s

/-- Stores a command back. -/
def State.putCopy (s : State) (core : Nat) (k : CopyCmd) : State :=
  let c := s.coreAt core
  s.setCore core { c with copies := c.copies.map fun q => if q.tok = k.tok then k else q }

/-- A command completes with a status: the descriptor, the slot, the counter (R313). -/
def State.endCopy (s : State) (core : Nat) (k : CopyCmd) (status : Nat) : State :=
  let s := s.putDesc { k with status := status }
  let c := s.coreAt core
  let s := s.setCore core { c with copies := c.copies.filter fun q => decide (q.tok ≠ k.tok) }
  if k.preload then s else s.lower k.agent k.unit 1

/-- A copy fault (R311): PROGRESS, STATUS 2, FAULTVA, the record and the interrupt. -/
def State.copyFault (s : State) (core : Nat) (k : CopyCmd) (va cause : Nat) (write : Bool) : State :=
  let k := { k with status := 2, faultva := va }
  let s := (s.putCopy core k).putDesc k
  let flags := (if write then 1 else 0) + (if k.cseg.isSome then 2 else 0)
  s.appendRing k.dev k.asid false 16
    (bytesOf 8 va ++ bytesOf 2 (64 * core + k.slot) ++ bytesOf 1 k.asid ++ bytesOf 1 flags ++ bytesOf 1 cause ++ bytesOf 3 0)

/-- What a command holds of a run, and the run's pages. -/
def TlbEnt.ofPage (p : Page) : TlbEnt := { asid := 0, va := p.va, size := p.size, leaf := BitVec.ofNat 64 p.e }

/-- The units of one run, from unit u on, as long as they stay in the run's pages; unit `first` may lie in two pages. The run
goes on later where it meets a frozen frame, and where `fuel` ends; its translations are kept. -/
def State.runUnits (s : State) (core : Nat) (k : CopyCmd) (sp dp : Pages) (first : Nat) : Nat → Nat → State
  | 0, u => s.putCopy core { k with next := u }
  | fuel + 1, u =>
    if k.needsIdx u && s.frozen (k.idxPlace (k.d.at k.form u).2.1) then s.putCopy core { k with next := u } else
    let (k, s) := s.readIdx k u
    let a := k.unitAddr u
    let inSrc := decide (k.d.ss ≠ 2 ∨ k.form = 5) || sp.any fun p => p.covers a.1 (srcBytes k.form)
    let inDst := decide (k.d.ds ≠ 2 ∨ k.form = 11) || dp.any fun p => p.covers a.2 (dstBytes k.form)
    let ends (u : Nat) : State :=
      let k := { k with next := u, run := none }
      (s.putCopy core k).putDesc k
    if s.unitOut k u then s.endCopy core { k with next := u } 4
    else if decide (u ≠ first) && (!inSrc || !inDst) then ends u
    else if s.unitFrozen k sp dp a then s.putCopy core { k with next := u }
    else
      let s := s.doUnit k sp dp u a
      if u + 1 = k.d.units k.form then s.endCopy core { k with next := u + 1 } 0
      else if inSrc && inDst then s.runUnits core k sp dp first fuel (u + 1)
      else
        let k := { k with next := u + 1, run := none }
        (s.putCopy core k).putDesc k

/-- The walk of a byte of a side, or of its last one, stalls at a frozen frame (R295). -/
def State.sideStalls (s : State) (k : CopyCmd) (a n : Nat) : Bool :=
  let die := dieOfCore (coreOf k.agent)
  s.walkStalls die k.dev k.asid a || s.walkStalls die k.dev k.asid (a + n - 1)

/-- The units that this step performs at most: all of the run unless `lazy` says where it stops for now. -/
def State.runFuel (s : State) (n : Nat) : Nat := if s.lazy = 0 then n else min n (s.lazy % 64 + 1)

/-- A part of a run of a copy command in flight (R310): a run begins with the translations of both sides. Nothing happens
while the descriptor or the index lies in a frozen frame (R295), nor to the rows of a unit that is saved (R410). -/
def State.copyRun (s : State) (core : Nat) (k : CopyCmd) : State :=
  let fuel := s.runFuel (k.d.units k.form - k.next)
  let r := (k.d.at k.form k.next).2.1
  if (k.form = 11 && (s.unitAt k.unit).away) || s.frozen k.desc || (k.needsIdx k.next && s.frozen (k.idxPlace r)) then s
  else
    let (k, s) := s.readIdx k k.next
    match k.run with
    | some (sp, dp, _) =>
      let first := if sp.length = 2 ∨ dp.length = 2 then k.next else k.d.units k.form
      s.runUnits core k (sp.map TlbEnt.page) (dp.map TlbEnt.page) first fuel k.next
    | none =>
      if s.unitOut k k.next then s.endCopy core k 4
      else
        let a := k.unitAddr k.next
        let src := decide (k.d.ss = 2 ∧ k.form ≠ 5)
        let dst := decide (k.d.ds = 2 ∧ k.form ≠ 11)
        if (src && s.sideStalls k a.1 (srcBytes k.form)) || (dst && s.sideStalls k a.2 (dstBytes k.form)) then s
        else
          match if src then s.sidePages k a.1 (srcBytes k.form) false else (.ok [], s) with
          | (.error f, s) => s.copyFault core k f.1 f.2 false
          | (.ok sp, s) =>
            match if dst then s.sidePages k a.2 (dstBytes k.form) true else (.ok [], s) with
            | (.error f, s) => s.copyFault core k f.1 f.2 true
            | (.ok dp, s) =>
              let k := { k with run := some (sp.map .ofPage, dp.map .ofPage, (s.dieAt (dieOfCore core)).gen) }
              s.runUnits core k sp dp k.next fuel k.next

/-- COPY_RUN (R310): the command in a slot performs one run; one that is pending or waits for code does nothing here. -/
def execCopyRun (s : State) : Host.Outcome State Fault Refusal :=
  event s fun m =>
    match m with
    | .copyRun core slot =>
      match (s.coreAt core).copies.find? fun k => decide (k.slot = slot) with
      | some k => if k.status = 1 ∧ k.cseg = none then some (s.copyRun core k) else some s
      | none => some s
    | _ => none

/-! ## Resolving copy faults (R312) -/

/-- The pending command of a context with a TAG, among those on its core or shelved with their context. -/
def State.pendingCopy (s : State) (dev asid tag : Nat) : Option CopyCmd :=
  let c := s.coreAt (tag / 64)
  (c.copies ++ c.shelved).find? fun k => decide (k.dev = dev ∧ k.asid = asid ∧ k.slot = tag % 64 ∧ k.status = 2)

/-- Replaces a pending command wherever it stands. -/
def State.putPending (s : State) (core : Nat) (k : CopyCmd) : State :=
  let c := s.coreAt core
  let put (l : List CopyCmd) : List CopyCmd := l.map fun q => if q.tok = k.tok then k else q
  s.setCore core { c with copies := put c.copies, shelved := put c.shelved }

/-- A segment whose load is aborted becomes ABSENT (R318), and the other cfetches that wait for that load complete, with the
segment ABSENT (DESIGN CHOICE, log 116). -/
def State.dropLoad (s : State) (core n : Nat) : State :=
  let c := s.coreAt core
  let waiting := c.copies.filter fun k => decide (k.cseg = some n)
  let s := s.setCore core { c with segs := c.segs.del n }
  waiting.foldl (fun s k => s.endCopy core k 0) s

/-- Ends a pending command with STATUS 3. A code fetch of a context that is switched off the core touches no segment: those are
the segments of the context that runs there now (R314, R424). -/
def State.abortCopy (s : State) (core : Nat) (k : CopyCmd) : State :=
  let c := s.coreAt core
  let off := c.shelved.any fun q => decide (q.tok = k.tok)
  let s := s.setCore core { c with shelved := c.shelved.filter fun q => decide (q.tok ≠ k.tok) }
  let s := s.endCopy core k 3
  match k.cseg with
  | some n => if off then s else s.dropLoad core n
  | none => s

/-- Resumes a pending command from PROGRESS. -/
def State.resumeCopy (s : State) (core : Nat) (k : CopyCmd) : State :=
  let k := { k with status := 1 }
  (s.putPending core k).putDesc k

/-- CPYCTL_RESUME (R312): no effect where no pending fault is named. -/
def execCpyctlResume (s : State) : Host.Outcome State Fault Refusal :=
  event s fun m =>
    match m with
    | .cpyctlResume dev asid tag => some ((s.pendingCopy dev asid tag).elim s fun k => s.resumeCopy (tag / 64) k)
    | _ => none

/-- CPYCTL_ABORT (R312). -/
def execCpyctlAbort (s : State) : Host.Outcome State Fault Refusal :=
  event s fun m =>
    match m with
    | .cpyctlAbort dev asid tag => some ((s.pendingCopy dev asid tag).elim s fun k => s.abortCopy (tag / 64) k)
    | _ => none

/-! ## Code fetch (R317 to R319) -/

/-- State and VA of a segment of a core. -/
def Core.seg (c : Core) (n : Nat) : CodeSeg := FMap.get {} c.segs n

/-- cfetch (R318). -/
def execCfetch (x : BitVec 6) (f : BitVec 1) (n : BitVec 6) (s : State) : Host.Outcome State Fault Refusal :=
  issue s 1 [spanS x.toNat 2] [] fun i =>
    let va := i.sp x.toNat
    let core := coreOf i.s.cur
    let c := i.s.coreAt core
    let u := i.s.unitAt i.g.unit
    let main := FMap.get {} i.g.segs 3
    let st := c.seg n.toNat
    if i.g.ctrFull 1 || i.heldBack true then .wait
    else if va % 4096 ≠ 0 then i.align va
    else
      match i.s.rangeCause u.dev main 2 va 4096 false with
      | some cause => .trap (i.trap 3 cause 0 va)
      | none =>
        if n.toNat = i.c.base / 4096 ∨ (st.st = 1 ∧ st.va ≠ va) then .trap (i.trap 3 0x2C 0 va)
        else if st.st = 2 ∧ st.va = va ∧ f = 0 then .done i.s
        else
          match c.freeSlot with
          | none => .wait
          | some slot =>
            let k : CopyCmd :=
              { slot := slot, agent := i.s.cur, unit := i.g.unit, dev := u.dev, asid := u.asid, form := 0
                cseg := some n.toNat, va := va, smain := main, tok := i.s.tok }
            let s := i.s.fresh.2
            let s := s.setGrp (s.grp.raiseCtr 1)
            .done (s.setCore core
              { c with copies := c.copies ++ [k], segs := c.segs.ins n.toNat { st := 1, va := va } })

/-- A loading segment's 4 KiB are read through the core's TLB and written; every cfetch that waits for the load
completes. A failing translation faults the command that loads it. -/
def State.loadSegment (s : State) (core n : Nat) : State :=
  let c := s.coreAt core
  match c.copies.find? fun k => decide (k.cseg = some n ∧ k.status = 1) with
  | none => s
  | some k =>
    if s.walkStalls (dieOfCore core) k.dev k.asid k.va then s else
    match s.translate core (dieOfCore core) k.dev k.asid k.va false true with
    | (.error cause, s) =>
      if k.preload then
        let c := s.coreAt core
        ((s.setCore core { c with copies := c.copies.filter fun q => decide (q.tok ≠ k.tok) }).dropLoad core n).dropArrival
          k.unit true
      else if (c.copies.any fun q => decide (q.cseg = some n ∧ q.status = 2)) then s else s.copyFault core k k.va cause false
    | (.ok p, s) =>
      let ka := p.place s.mode k.dev k.va
      if s.frozen ka then s
      else
        let s := s.served ka 4096
        let bytes := (List.range 1024).flatMap fun i => bytesOf 4 (s.readAt core (dieOfCore core) (ka + 4 * i) 4 (some (k.asid, k.va + 4 * i)))
        let bad := s.poisoned (kplace (s.route ka)) 4096 || s.crcLost (kplace (s.route ka)) 4096
        let s := s.crcDone (kplace (s.route ka)) 4096
        let s := s.wrBytes (iloc core (4096 * n)) bytes
        let s := if bad then (s.poisonAt (iloc core (4096 * n)) 4096).noteUnit k.unit (kplace ka) else s.cleanse (iloc core (4096 * n)) 4096
        let c := s.coreAt core
        let s := s.setCore core { c with segs := c.segs.ins n { st := 2, va := k.va } }
        (c.copies.filter fun q => decide (q.cseg = some n)).foldl (fun s q => s.endCopy core q 0) s

/-- CODE_SEGMENT_LOADED (R318). -/
def execCodeSegmentLoaded (s : State) : Host.Outcome State Fault Refusal :=
  event s fun m =>
    match m with
    | .codeSegmentLoaded core n => some (if ((s.coreAt core).seg n).st = 1 then s.loadSegment core n else s)
    | _ => none

end Sys2Proof.Machine
end

