-- ==== Sys2Proof/Machine/Coll.lean ====
section
/-!
DEFINITION. Etesian collectives (R320 to R327, R503, R504) and counted lines (R328 to R331).
-/
namespace Sys2Proof.Machine

/-! ## Group objects and members -/

/-- The forms: 0 ared, 1 red, 2 bcst, 3 agth, 4 rsct, 5 send, 6 recv, 7 rset. -/
def State.gobj (s : State) (dev i : Nat) : Option GObj := FMap.find (s.devAt dev).gobjs i

def State.setGobj (s : State) (dev i : Nat) (o : GObj) : State :=
  let d := s.devAt dev
  s.setDev dev { d with gobjs := d.gobjs.ins i o }

/-- The rank of a unit in an object (R503). -/
def GObj.rankOf (o : GObj) (dev uid : Nat) : Option Nat :=
  o.members.findIdx? fun m => decide (m.dev = dev ∧ m.unit = some uid)

/-- An object is granted to the context of a unit (R423). -/
def State.gobjGranted (s : State) (u : UnitSt) (i : Nat) : Bool := decide (i ∈ (s.ctxAt u.dev u.asid).objs)

/-- Device e holds an object of this number too and the two are one: each names a member on the other device (R320, R503).
Objects of one number that name only members of their own device are different objects. -/
def State.joined (s : State) (d e i : Nat) : Bool :=
  match s.gobj d i, s.gobj e i with
  | some o, some q => decide (d = e) || (decide (o.m = q.m ∧ o.p = q.p) && (o.members.any fun m => decide (m.dev = e)) &&
      q.members.any fun m => decide (m.dev = d))
  | _, _ => false

/-- The devices that hold an object. -/
def State.gobjDevs (s : State) (dev i : Nat) : List Nat := (List.range 4).filter fun e => s.joined dev e i

/-- The collectives issued on an object, at any of its devices. -/
def State.collsOf (s : State) (dev i : Nat) : List CollOp := s.colls.filter fun c => decide (c.obj = i) && s.joined dev c.dev i

/-! ## Reductions (R324) -/

/-- One combination of two elements under OP and ET. -/
def combine (op et a b : Nat) : Nat :=
  match op, et with
  | 0, 2 => fp32.addRne a b
  | 0, _ => (a + b) % pow2 32
  | 1, 0 => if sintOf 32 b < sintOf 32 a then b else a
  | 1, 1 => min a b
  | 1, _ => (minMax fp32 true (fp32.value a) (fp32.value b)).1
  | _, 0 => if sintOf 32 a < sintOf 32 b then b else a
  | _, 1 => max a b
  | _, _ => (minMax fp32 false (fp32.value a) (fp32.value b)).1

/-- Combines a list of tiles in the tree that the device chooses: at each step two of the remaining partial results. -/
def reduceTree (op et key : Nat) : Nat → List (List Word) → List Word
  | 0, l => l.headD []
  | fuel + 1, l =>
    match l with
    | [] => []
    | [t] => t
    | [t, u] => t.zipWith (fun a b => BitVec.ofNat 32 (combine op et a.toNat b.toNat)) u
    | _ =>
      let i := Config.treePick key (2 * fuel) % l.length
      let rest := l.eraseIdx i
      let j := Config.treePick key (2 * fuel + 1) % rest.length
      let c := (l.getD i []).zipWith (fun a b => BitVec.ofNat 32 (combine op et a.toNat b.toNat)) (rest.getD j [])
      reduceTree op et key fuel (c :: rest.eraseIdx j)

/-! ## Matching (R325 to R327) -/

/-- A form that is counted with the matched collectives. -/
def isMatched (form : Nat) : Bool := decide (form ≤ 4)

/-- The kind of a form's sequence counter. -/
def seqKind (form : Nat) : Nat := if form ≤ 4 then 0 else if form = 5 then 1 else 2

def GObj.seqOf (o : GObj) (rank k kind peer : Nat) : Nat :=
  ((o.seqs.find? fun q => decide (q.1 = rank ∧ q.2.1 = k ∧ q.2.2.1 = kind ∧ q.2.2.2.1 = peer)).map
    fun q => q.2.2.2.2).getD 0

def GObj.bump (o : GObj) (rank k kind peer : Nat) : GObj :=
  let rest := o.seqs.filter fun q => !decide (q.1 = rank ∧ q.2.1 = k ∧ q.2.2.1 = kind ∧ q.2.2.2.1 = peer)
  { o with seqs := rest ++ [(rank, k, kind, peer, o.seqOf rank k kind peer + 1)] }

/-- The partner that a counter names: matched forms have none. -/
def seqPeer (form peer : Nat) : Nat := if form ≤ 4 then 0 else peer

/-- The collectives of its object that a collective matches with, itself among them: same group index and place. -/
def CollOp.partners (c : CollOp) (l : List CollOp) : List CollOp :=
  l.filter fun d => decide (d.k = c.k ∧ d.result = none) &&
    (if isMatched c.form then isMatched d.form && decide (d.n = c.n)
     else if c.form = 5 then decide ((d.tok = c.tok) ∨ (d.form = 6 ∧ d.rank = c.peer ∧ d.peer = c.rank ∧ d.n = c.n))
     else if c.form = 6 then decide ((d.tok = c.tok) ∨ (d.form = 5 ∧ d.rank = c.peer ∧ d.peer = c.rank ∧ d.n = c.n))
     else decide (d.tok = c.tok))

/-- A group has a pending rset of the object that it issued before this collective. -/
def CollOp.behindRset (c : CollOp) (l : List CollOp) : Bool :=
  (l.takeWhile fun d => decide (d.tok ≠ c.tok)).any fun d =>
    decide (d.form = 7 ∧ d.agent = c.agent ∧ d.obj = c.obj ∧ d.unit = c.unit) && d.result.isNone

/-- The status with which a complete match ends (R326). -/
def matchStatus (ps : List CollOp) : Nat :=
  match ps with
  | [] => 0
  | c :: t =>
    let red := fun (f : Nat) => decide (f = 0 ∨ f = 1 ∨ f = 4)
    if isMatched c.form && !(t.all fun d => decide (d.form = c.form ∧ d.peer = c.peer) &&
        (!red c.form || decide (d.op = c.op ∧ d.et = c.et))) then 1
    else if ps.any fun d => d.fault then 2 else 0

/-- Contributions in rank order. -/
def byRank (ps : List CollOp) : List CollOp := sortBy (fun a b => decide (a.rank ≤ b.rank)) ps

/-- What a member receives from a complete match with status 0 (R322). -/
def CollOp.outcome (c : CollOp) (ps : List CollOp) : List Word :=
  let rs := byRank ps
  match c.form with
  | 0 => reduceTree c.op c.et (rs.headD c).tok rs.length (rs.map fun d => d.data)
  | 1 => if c.rank = c.peer then reduceTree c.op c.et (rs.headD c).tok rs.length (rs.map fun d => d.data) else []
  | 2 => ((rs.find? fun d => decide (d.rank = c.peer)).map fun d => d.data).getD []
  | 3 => rs.flatMap fun d => d.data
  | 4 => reduceTree c.op c.et (rs.headD c).tok rs.length (rs.map fun d => (d.data.drop (256 * c.rank)).take 256)
  | 6 => ((rs.find? fun d => decide (d.form = 5)).map fun d => d.data).getD []
  | _ => []

/-- Gives every collective of a set its result. -/
def State.settleColls (s : State) (toks : List Nat) (res : CollOp → Nat × List Word) : State :=
  { s with colls := s.colls.map fun d => if d.tok ∈ toks then { d with result := some (res d) } else d }

/-- Marks an object as in MISMATCH at every device that holds it. -/
def State.markMismatch (s : State) (dev i : Nat) : State :=
  (s.gobjDevs dev i).foldl (fun s d =>
    match s.gobj d i with
    | some o => s.setGobj d i { o with mismatch := true }
    | none => s) s

/-- Matches a collective when every contribution is there (R325). On disagreement the object enters MISMATCH and every
unmatched collective of it ends so, those behind their own group's rset apart (R326, R327). -/
def State.matchColl (s : State) (c : CollOp) : State :=
  match s.gobj c.dev c.obj with
  | none => s
  | some o =>
    let ps := (c.partners (s.collsOf c.dev c.obj)).filter fun d => !d.behindRset s.colls
    let need := if isMatched c.form then o.m else 2
    if c.form = 7 ∨ ps.length < need then s
    else
      let st := matchStatus ps
      let toks := ps.map fun d => d.tok
      let s1 := s.settleColls toks fun d => (st, if st = 0 then d.outcome ps else [])
      if st = 1 then
        let rest := (s.collsOf c.dev c.obj).filter fun (d : CollOp) =>
          decide (d.tok ∉ toks ∧ d.form ≠ 7) && d.result.isNone && !d.behindRset s.colls
        (s1.settleColls (rest.map fun d => d.tok) fun _ => (1, [])).markMismatch c.dev c.obj
      else s1

/-- The ranks whose contribution a collective needs. -/
def CollOp.needs (c : CollOp) (o : GObj) : List Nat :=
  match c.form with
  | 5 => [c.peer]
  | 6 => [c.peer]
  | _ => List.range o.m

/-- A collective takes its place in its count (R325). -/
def State.placeColl (s : State) (c : CollOp) : CollOp × State :=
  match s.gobj c.dev c.obj with
  | some o =>
    if c.form = 7 then (c, s)
    else
      let p := seqPeer c.form c.peer
      let kind := seqKind c.form
      ({ c with n := o.seqOf c.rank c.k kind p }, s.setGobj c.dev c.obj (o.bump c.rank c.k kind p))
  | none => (c, s)

/-- A collective that waited behind its group's rset takes its place (R327). -/
def State.replaceColl (s : State) (tok : Nat) : State :=
  match s.colls.find? fun d => decide (d.tok = tok) with
  | some c =>
    let (c', s) := s.placeColl c
    { s with colls := s.colls.map fun (d : CollOp) => if d.tok = tok then c' else d }
  | none => s

/-- The object is in MISMATCH. -/
def State.mismatched (s : State) (dev i : Nat) : Bool :=
  match s.gobj dev i with
  | some o => o.mismatch
  | none => false

/-- A collective meets the state of its object: in MISMATCH it ends with that status, else it is matched (R325, R326). -/
def State.meetColl (s : State) (c : CollOp) : State :=
  if s.mismatched c.dev c.obj && decide (c.form ≠ 7) then s.settleColls [c.tok] fun _ => (1, []) else s.matchColl c

/-- Matches a collective that has taken its place after an rset. -/
def State.rematchColl (s : State) (tok : Nat) : State :=
  match s.colls.find? fun d => decide (d.tok = tok ∧ d.result = none) with
  | some c => s.meetColl c
  | none => s

/-- The pending collectives of some that waited behind their group's rset and no longer do take their places (R327). -/
def State.takePlaces (s : State) (behind : List CollOp) : State :=
  let now := (behind.filter fun c => decide (c.form ≠ 7) && !c.behindRset s.colls).map fun c => c.tok
  let s := now.foldl (fun s k => s.replaceColl k) s
  now.foldl (fun s k => s.rematchColl k) s

/-- A collective needs a member whose unit has ended. -/
def State.needsEnded (s : State) (c : CollOp) : Bool :=
  match s.gobj c.dev c.obj with
  | some o => (c.needs o).any fun r => match o.members[r]? with
    | some m => m.ended
    | none => false
  | none => false

/-- Collectives that need a member whose unit has ended complete with PEER_LOST, those behind their own group's rset among
them (R326); where an rset ends so, the others behind it take their places. -/
def State.losePeers (s : State) (i : Nat) : State :=
  let open' := s.colls.filter fun c => decide (c.obj = i) && c.result.isNone
  let lost := open'.filter s.needsEnded
  let left := open'.filter fun c => !s.needsEnded c && c.behindRset s.colls
  (s.settleColls (lost.map fun c => c.tok) fun _ => (3, [])).takePlaces left

/-- The object of a collective holds an uncorrectable error at one of its devices (R465). -/
def State.gobjBad (s : State) (dev i : Nat) : Bool :=
  (s.gobjDevs dev i).any fun e => match s.gobj e i with
    | some o => o.poisoned
    | none => false

/-- An object with an uncorrectable error has been met: every collective pending on it ends with FAULT (R465). -/
def State.failGobj (s : State) (dev i : Nat) : State :=
  let ps := (s.collsOf dev i).filter fun c => c.result.isNone
  ps.foldl (fun (s : State) (c : CollOp) => (dieUe s (dieOfCore (coreOf c.agent)) 1).noteUnit c.unit 0)
    (s.settleColls (ps.map fun c => c.tok) fun _ => (2, []))

/-- A collective arrives at its object: it is placed and matched, or ends at once in an object that lets nothing through
(R326, R465). One behind its own rset waits. -/
def State.enterColl (s : State) (c : CollOp) : State :=
  if c.behindRset (s.colls ++ [c]) then { s with colls := s.colls ++ [c] }
  else
    let (c, s) := s.placeColl c
    let s := { s with colls := s.colls ++ [c] }
    if s.gobjBad c.dev c.obj then s.failGobj c.dev c.obj else (s.meetColl c).losePeers c.obj

/-! ## Issue (R321, R323) -/

/-- The kilobytes of a form's buffer. -/
def bufTiles (form m : Nat) : Nat := if form = 6 then 1 else if form = 3 ∨ form = 4 then m else 0

/-- The keyed places of a buffer's 64-byte lines: a segment cause or ALIGN traps, a failing translation is a FAULT. -/
def Ix.bufLines (x : Ix) (s : State) (main : Bool) (addr lines : Nat) (write : Bool) (die : Nat) :
    (Except Trap (Option (List Nat))) × State :=
  let u := s.unitAt x.g.unit
  let seg := FMap.get {} x.g.segs (if main then 3 else 1)
  let core := coreOf s.cur
  match s.rangeCause u.dev { seg with wr := true } (if main then 2 else 0) addr (64 * lines) false with
  | some c => (.error (x.trap 3 c 0 addr), s)
  | none =>
    if (if main then addr else seg.base + addr) % 64 ≠ 0 then (.error (x.trap 4 0 0 addr), s)
    else if write ∧ !seg.wr then (.error (x.trap 3 0x03 0 addr), s)
    else if !main then (.ok (some ((List.range lines).map fun i => sloc core (seg.base + addr + 64 * i))), s)
    else
      let r := (List.range lines).foldl (fun (acc : Option (List Nat) × State) i =>
        match acc with
        | (none, s) => (none, s)
        | (some l, s) =>
          let va := addr + 64 * i
          match s.translate noCore die u.dev u.asid va write true with
          | (.ok p, s) => (some (l ++ [p.place s.mode u.dev va]), s)
          | (.error _, s) => (none, s)) (some [], s)
      (.ok r.1, r.2)

/-- A VA some bytes further on. -/
def vaPlus (va : Option (Nat × Nat)) (n : Nat) : Option (Nat × Nat) := va.map fun p => (p.1, p.2 + n)

/-- Reads the 64-byte lines of a buffer: one of them is poisoned, or its transfer is lost (R463, R464). -/
def State.readsBad (s : State) (places : List Nat) : Bool × State :=
  places.foldl (fun (acc : Bool × State) a =>
    let r := (acc.2.served a 64).badHome a 64
    (acc.1 || r.1, r.2)) (false, s)

/-- The die of the Etesian engine that holds object i of a device. -/
def etesianDie (mode dev i : Nat) : Nat := firstDie mode dev + i % (4 * diesPer mode) / 4

/-- The registers from sX on that a form reads: the control word with sX + 1, and the address of a buffer. -/
def collWords (form : Nat) : Nat := if form = 3 ∨ form = 4 ∨ form = 6 then 4 else 2

/-- The common form of the coll instructions; `ty` is ET, `op` OP, `t` the tile. A buffer that is read waits for a frozen
frame (R323); an uncorrectable error in it makes the collective a FAULT (DEDUCED, log 102). -/
def collInstr (s : State) (form : Nat) (r y : BitVec 6) (ty op t : Nat) : Host.Outcome State Fault Refusal :=
  let reads := decide (form = 0 ∨ form = 1 ∨ form = 2 ∨ form = 3 ∨ form = 5)
  let writes := decide (form = 0 ∨ form = 1 ∨ form = 2 ∨ form = 4)
  issue s 1 ([spanS r.toNat (collWords form)] ++ if reads then [(256 + t, 1)] else [])
      ([spanS y.toNat 1] ++ if writes then [(256 + t, 1)] else []) fun x =>
    let w := x.sx r.toNat
    let obj := w % 256
    let peer := nbits w 27 16
    let main := w.testBit 31
    let bv := w.testBit 14
    let bar := nbits w 13 8
    let hi := x.sx (r.toNat + 3)
    let addr := x.sx (r.toNat + 2) + (if main then hi * pow2 32 else 0)
    let u := x.s.unitAt x.g.unit
    let usesPeer := decide (form = 1 ∨ form = 2 ∨ form = 5 ∨ form = 6)
    if x.g.ctrFull 3 || x.heldBack true then .wait
    else
      match x.s.gobj u.dev obj with
      | none => x.access 0x30
      | some o =>
        match (if x.s.gobjGranted u obj && decide (x.g.gidx < o.p) then o.rankOf u.dev x.g.unit else none) with
        | none => x.access 0x30
        | some rank =>
          if nbits w 30 28 ≠ 0 ∨ w.testBit 15 ∨ x.sx (r.toNat + 1) ≠ 0 ∨ (!usesPeer ∧ peer ≠ 0) ∨ o.m ≤ peer ∨
              (!main ∧ collWords form = 4 ∧ hi ≠ 0) ∨ (form = 7 ∧ w ≠ obj) then x.access 0x31
          else if bv ∧ (u.abar bar).count = 0 then x.access 0x1D
          else
            let lines := 16 * bufTiles form o.m
            let isBuf := decide (lines ≠ 0)
            let die := etesianDie x.s.mode u.dev obj
            if isBuf && main && (List.range lines).any fun i => x.s.walkStalls die u.dev u.asid (addr + 64 * i) then .wait else
            let found : (Except Trap (Option (List Nat))) × State :=
              if isBuf then x.bufLines x.s main addr lines (form ≠ 4) die else (.ok (some []), x.s)
            match found with
            | (.error t, s) => .trapIn s t
            | (.ok places, s) =>
              if form = 4 && (places.getD []).any fun a => s.frozen a then .wait else
              let core := coreOf s.cur
              let s := s.releaseAt core 5
              let va := if main && isBuf then some (u.asid, addr) else none
              let (bad, s) := if form = 4 then s.readsBad (places.getD []) else (false, s)
              let s := if bad then s.noteUnit x.g.unit 0 else s
              let data : List Word :=
                if form = 4 then (places.getD []).zipIdx.flatMap fun p => (List.range 16).map fun i =>
                  BitVec.ofNat 32 (s.readAt core (dieOfCore core) (p.1 + 4 * i) 4 (vaPlus va (64 * p.2 + 4 * i)))
                else if reads && !(decide (form = 2 ∧ rank ≠ peer)) then (List.range 256).map fun e => x.g.tAt t e
                else []
              let tok := s.tok
              let s := { s with tok := tok + 2 }
              let gets := writes && !decide (form = 1 ∧ rank ≠ peer)
              let g := s.grp.raiseCtr 3
              let g := if gets then g.late tok x.c.slices ((List.range 256).map fun e => Reg.t t e) none else g
              let g := g.late (tok + 1) x.c.slices [.s y.toNat] none
              let s := s.setGrp g
              let c : CollOp :=
                { dev := u.dev, obj := obj, agent := s.cur, unit := x.g.unit, rank := rank, k := x.g.gidx, form := form
                  peer := peer, et := ty, op := op, tile := t, n := 0, data := data, buf := places.getD [], va := va
                  fault := places.isNone || bad, bar := if bv then some bar else none, tok := tok
                  gen := if main && isBuf then some (s.dieAt die).gen else none }
              .done (s.enterColl c)

/-- coll.ared (R322). -/
def execCollAred (x y : BitVec 6) (e o t : BitVec 2) (s : State) : Host.Outcome State Fault Refusal :=
  collInstr s 0 x y e.toNat o.toNat t.toNat

/-- coll.red (R322). -/
def execCollRed (x y : BitVec 6) (e o t : BitVec 2) (s : State) : Host.Outcome State Fault Refusal :=
  collInstr s 1 x y e.toNat o.toNat t.toNat

/-- coll.bcst (R322). -/
def execCollBcst (x y : BitVec 6) (t : BitVec 2) (s : State) : Host.Outcome State Fault Refusal :=
  collInstr s 2 x y 0 0 t.toNat

/-- coll.agth (R322). -/
def execCollAgth (x y : BitVec 6) (t : BitVec 2) (s : State) : Host.Outcome State Fault Refusal :=
  collInstr s 3 x y 0 0 t.toNat

/-- coll.rsct (R322). -/
def execCollRsct (x y : BitVec 6) (e o t : BitVec 2) (s : State) : Host.Outcome State Fault Refusal :=
  collInstr s 4 x y e.toNat o.toNat t.toNat

/-- coll.send (R322). -/
def execCollSend (x y : BitVec 6) (t : BitVec 2) (s : State) : Host.Outcome State Fault Refusal :=
  collInstr s 5 x y 0 0 t.toNat

/-- coll.recv (R322). -/
def execCollRecv (x y : BitVec 6) (s : State) : Host.Outcome State Fault Refusal := collInstr s 6 x y 0 0 0

/-- coll.rset (R327). -/
def execCollRset (x y : BitVec 6) (s : State) : Host.Outcome State Fault Refusal := collInstr s 7 x y 0 0 0

/-! ## Completion (R325, R327) -/

/-- Writes a buffer from words, 16 a line; a recv also sets the tags of its words full. -/
def State.putBuffer (s : State) (agent : Nat) (tags : Bool) (va : Option (Nat × Nat)) : List Nat → List Word → State
  | [], _ => s
  | a :: t, ws =>
    let s := (List.range 8).foldl (fun s i => (s.served (a + 8 * i) 8).writeAt agent (coreOf agent) (a + 8 * i) 8
      ((ws.getD (2 * i) 0).toNat + (ws.getD (2 * i + 1) 0).toNat * pow2 32) (vaPlus va (8 * i))) s
    let p := kplace (s.route a)
    let s := if tags && isSram p then (List.range 8).foldl (fun s i => s.setTag (p + 8 * i) true) s else s
    s.putBuffer agent tags (vaPlus va 64) t (ws.drop 16)

/-- Drops a register write that will not come. -/
def State.dropOut (s : State) (agent unit tok : Nat) : State :=
  s.updGroup agent unit fun g => { g with outs := g.outs.filter fun o => decide (o.tok ≠ tok) }

/-- The collective can complete: it is matched, or its object has an uncorrectable error; it is its group's oldest, and its
buffer is not frozen. -/
def State.collReady (s : State) (c : CollOp) : Bool :=
  (c.result.isSome || s.gobjBad c.dev c.obj) && !(c.buf.any fun a => s.frozen a) &&
    decide (((s.colls.find? fun d => decide (d.agent = c.agent ∧ d.unit = c.unit)).map fun d => d.tok) = some c.tok)

/-- A collective completes at its member (R325). -/
def State.completeColl (s : State) (c : CollOp) : State :=
  match c.result with
  | none => s
  | some (status, ws) =>
    let s := { s with colls := s.colls.filter fun d => decide (d.tok ≠ c.tok) }
    let s := if status = 0 ∧ (c.form = 3 ∨ c.form = 6) then s.putBuffer c.agent (c.form = 6) c.va c.buf ws else s
    let s := if status = 0 ∧ ws ≠ [] ∧ c.form ≠ 3 ∧ c.form ≠ 6 then s.deliverNow c.agent c.unit c.tok ws
      else s.dropOut c.agent c.unit c.tok
    let s := s.deliverNow c.agent c.unit (c.tok + 1) [BitVec.ofNat 32 status]
    let s := match c.bar with
      | some b => s.abarComplete c.unit b
      | none => s
    s.lower c.agent c.unit 3

/-- COLLECTIVE_COMPLETE (R325). -/
def execCollectiveComplete (s : State) : Host.Outcome State Fault Refusal :=
  event s fun m =>
    match m with
    | .collectiveComplete _ _ k =>
      match s.colls[k]? with
      | some c => some (if s.collReady c then (if c.result.isSome then s.completeColl c else s.failGobj c.dev c.obj) else s)
      | none => some s
    | _ => none

/-- Every participating group of every member has issued rset on an object (R327). -/
def State.rsetReady (s : State) (dev i : Nat) : Bool :=
  match s.gobj dev i with
  | some o =>
    let rs := (s.collsOf dev i).filter fun c => decide (c.form = 7) && c.result.isNone
    decide (o.m * o.p ≤ ((rs.map fun c => (c.rank, c.k)).eraseDups).length)
  | none => false

/-- The rset takes effect: pending collectives issued before their group's rset end, the object returns to NORMAL, the
counters to 0, each rset completes; then those behind their rset take their places. -/
def State.rsetEffect (s : State) (dev i : Nat) : State :=
  let all := (s.collsOf dev i).filter fun c => c.result.isNone
  let before := all.filter fun c => decide (c.form ≠ 7) && !c.behindRset s.colls
  let behind := all.filter fun c => c.behindRset s.colls
  let rsets := all.filter fun c => decide (c.form = 7) && !c.behindRset s.colls
  let s := s.settleColls (before.map fun c => c.tok) fun _ => (1, [])
  let s := (s.gobjDevs dev i).foldl (fun s d =>
    match s.gobj d i with
    | some o => s.setGobj d i { o with mismatch := false, seqs := [] }
    | none => s) s
  let s := s.settleColls (rsets.map fun c => c.tok) fun _ => (0, [])
  (s.takePlaces behind).losePeers i

/-- COLL_RSET_EFFECT (R327). -/
def execCollRsetEffect (s : State) : Host.Outcome State Fault Refusal :=
  event s fun m =>
    match m with
    | .collRsetEffect dev i => some (if s.rsetReady dev i then s.rsetEffect dev i else s)
    | _ => none

/-- The entries of group objects that name a unit end with it (R326). -/
def State.endMembers (s : State) (uid : Nat) : State :=
  let named : List Nat := s.devs.flatMap fun p =>
    (p.2.gobjs.filter fun q => q.2.members.any fun m => decide (m.unit = some uid)).map Prod.fst
  let s := { s with devs := s.devs.map fun p => (p.1, { p.2 with gobjs := p.2.gobjs.map fun q =>
    (q.1, { q.2 with members := q.2.members.map fun m => if m.unit = some uid then { m with ended := true } else m }) }) }
  named.eraseDups.foldl (fun s i => s.losePeers i) s

/-! ## Counted lines (R328 to R331) -/

def CntDecl.complete (d : CntDecl) : Bool := d.left.all fun n => decide (n = 0)

/-- Fires the triggers of a declaration that is complete, once; those fired no longer count toward its 4 (DESIGN CHOICE, log
115). -/
def State.fireTrigs (s : State) (d : CntDecl) : State :=
  if d.complete then
    let s := { s with decls := s.decls.map fun e => if e.first = d.first then { e with trigs := [] } else e }
    d.trigs.foldl (fun s t => s.abarComplete t.1 t.2) s
  else s

/-- One contribution to the declared lines that an update of places touches (R330); the tag that it sets full is a release of
every contribution to its line, so that whoever finds it full sees them. -/
def State.contribute (s : State) (places : List Nat) : State :=
  s.decls.foldl (fun s d =>
    let hit := (places.map fun a => a / 64).eraseDups.filter fun l => decide (d.first / 64 ≤ l ∧ l < d.first / 64 + d.lines)
    if hit = [] then s
    else
      let idx := hit.map fun l => l - d.first / 64
      let full := idx.filter fun i => decide (d.left.getD i 0 = 1)
      let d' := { d with left := d.left.zipIdx.map fun (p : Nat × Nat) => if p.2 ∈ idx then p.1 - 1 else p.1 }
      let s := { s with decls := s.decls.map fun (e : CntDecl) => if e.first = d.first then d' else e }
      let s := full.foldl (fun s i => (s.settleAt (d.first + 64 * i) 64).setTag (d.first + 64 * i) true) s
      s.fireTrigs d') s

/-- Accesses of the group to the bytes of some lines have not been performed (R256). -/
def Ix.linesLeft (x : Ix) (a lines : Nat) : Bool :=
  x.s.stalled.any fun o => decide (o.agent = x.s.cur ∧ o.unit = x.g.unit ∧ o.drain = none) && o.elems.any fun e =>
    x.s.meets e.addr o.bytes a (64 * lines)

/-- cnt.decl (R329). A declaration of another context is no slot of this one (R423): it is neither freed nor replaced. It is a
write of the group for R253 to R257. With COUNT 0 LINESM1 does not count: the one line at sX is checked against the segment,
and neither the slice nor an overlap is looked at (DESIGN CHOICE, log 115). -/
def execCntDecl (x y : BitVec 6) (s : State) : Host.Outcome State Fault Refusal :=
  issue s 1 [spanS x.toNat 1, spanS y.toNat 1] [] fun i => i.afterReads <|
    let off := i.sx x.toNat
    let w := i.sx y.toNat
    let u := i.s.unitAt i.g.unit
    let seg := FMap.get {} i.g.segs 2
    let count := w % 65536
    let lines := if count = 0 then 1 else nbits w 27 16 + 1
    if off % 64 ≠ 0 then i.align off
    else if nbits w 31 28 ≠ 0 then i.access 0x34
    else
      match i.s.rangeCause u.dev seg 1 off (64 * lines) true with
      | some c => .trap (i.trap 3 c 0 off)
      | none =>
        let a := gloc i.s.mode u.dev (seg.base + off)
        let own (d : CntDecl) : Bool := decide (d.dev = u.dev ∧ (i.s.unitAt d.unit).asid = u.asid)
        let others := i.s.decls.filter fun d => !(own d && decide (d.first = a))
        if i.linesLeft a lines then .wait
        else if count = 0 then .done { i.s with decls := others }
        else if a / pow2 25 ≠ (a + 64 * lines - 1) / pow2 25 ∨
            (others.any fun d => decide (d.first < a + 64 * lines ∧ a < d.first + 64 * d.lines)) then i.access 0x34
        else
          let here := others.filter fun d => decide (d.first / pow2 25 = a / pow2 25)
          let mine := here.filter own
          if 256 ≤ here.length ∨ (i.s.ctxAt u.dev u.asid).decls ≤ mine.length then i.access 0x35
          else
            let d : CntDecl := { dev := u.dev, unit := i.g.unit, first := a, lines := lines, left := List.replicate lines count }
            let s := { i.s with decls := others ++ [d] }
            .done ((List.range lines).foldl (fun s k => s.setTag (a + 64 * k) false) s)

/-- cnt.trig (R331), a write of the group at the declaration's home (R329). -/
def execCntTrig (x : BitVec 6) (b : BitVec 8) (s : State) : Host.Outcome State Fault Refusal :=
  issue s 1 [spanS x.toNat 1] [] fun i => i.afterReads <|
    let u := i.s.unitAt i.g.unit
    let a := gloc i.s.mode u.dev ((FMap.get {} i.g.segs 2).base + i.sx x.toNat)
    match i.s.decls.find? fun d => decide (d.first = a ∧ d.dev = u.dev ∧ (i.s.unitAt d.unit).asid = u.asid) with
    | none => i.access 0x34
    | some d =>
      if i.linesLeft a d.lines then .wait
      else if 4 ≤ d.trigs.length then i.access 0x35
      else if (u.abar b.toNat).count = 0 then i.access 0x1D
      else
        let d := { d with trigs := d.trigs ++ [(i.g.unit, b.toNat)] }
        .done (({ i.s with decls := i.s.decls.map fun (e : CntDecl) => if e.first = a then d else e }).fireTrigs d)

end Sys2Proof.Machine
end

