-- ==== Sys2Proof/Machine/Control.lean ====
section
/-!
DEFINITION. Control transfers and extended registers (R392, R397, R405, R412 to R418).
-/
namespace Sys2Proof.Machine

/-- The lanes of a set that belong to slice i, as the slice's mask numbers them. -/
def sliceBits (m : Lanes) (i : Nat) : BitVec 4 := (m >>> (4 * i)).setWidth 4

/-- One slice of the issuing path under a transfer (R392): `t` are its threads that go to the target, `next` the clause
that the others fall through to, `fell` what a fall-through out of the segment leaves. None where the push finds no
room. -/
def Slice.transfer (x : Slice) (t : BitVec 4) (target next : Nat) (fell : Option Nat) : Option Slice :=
  let t := x.mask &&& t
  let f := x.mask &&& ~~~t
  if f = 0 then some { x with pc := target, fell := none }
  else if t = 0 then some { x with pc := next, fell := fell }
  else if target = next then some { x with pc := next, fell := fell }
  else if x.stack.length < 8 then
    some (if target < next then
        { x with pc := target, mask := t, fell := none, stack := { pc := next, mask := f, fell := fell } :: x.stack }
      else { x with pc := next, mask := f, fell := fell, stack := { pc := target, mask := t } :: x.stack })
  else none

/-- What a fall-through behind a clause leaves at the next header (R43). -/
def Clause.fellMark (c : Clause) : Option Nat := if c.next / 4096 = c.base / 4096 then none else some c.base

/-- Raises the spin count of the path that holds these slices (R397). -/
def Group.spinUp (g : Group) (slices : BitVec 16) : Group :=
  { g with paths := g.paths.map fun p =>
    if p.slices &&& slices ≠ 0 then { p with spin := min 64 (p.spin + 1) } else p }

/-- The transfer of a set of threads to a target (R392), with the link register written where `link` says so. -/
def Ix.transfer (x : Ix) (taken : Lanes) (target : Nat) (link : Bool) : Eff :=
  let next := x.c.next
  let go (p : Slice × Nat) : Option Slice :=
    if x.c.slices.getLsbD p.2 && !p.1.finished then p.1.transfer (sliceBits taken p.2) target next x.c.fellMark
    else some p.1
  let moved := x.g.slices.zipIdx.map go
  if moved.any Option.isNone then x.access 0x58
  else
    let g := { x.g with slices := moved.filterMap id }
    let h := if link then g.setS 62 (BitVec.ofNat 32 next) else g
    let h := if link && decide (g.sAt 62 ≠ BitVec.ofNat 32 next) then h.progress x.c.slices else h
    let h := if target ≤ x.c.base ∧ taken ≠ 0 then h.spinUp x.c.slices else h
    .moved (x.s.setGrp h)

/-- The threads of the executing set whose branch condition holds (R63). -/
def Ix.condition (x : Ix) (k : Nat) (neg : Bool) : Lanes :=
  let p : Lanes := if k < 8 then x.g.pAt k else if x.g.qAt (k - 8) then BitVec.allOnes 64 else 0
  x.ex &&& (if neg then ~~~p else p)

/-- The operand code of a branch predicate. -/
def predCode (k : Nat) : Nat := if k < 8 then 0xC4 + k else 0xCC + (k - 8)

/-- The target of a format-B transfer (R63). -/
def branchTarget (base : Nat) (o : BitVec 20) : Nat := ((base : Int) + 4 * o.toInt).toNat

/-- br (R413). -/
def execBr (k : BitVec 4) (n : BitVec 1) (o : BitVec 20) (s : State) : Host.Outcome State Fault Refusal :=
  issue s 1 [(predCode k.toNat, 1)] [] fun x =>
    x.transfer (x.condition k.toNat (n == 1)) (branchTarget x.c.base o) false

/-- call (R413): s62 takes the address of the next clause when some thread takes the call. -/
def execCall (k : BitVec 4) (n : BitVec 1) (o : BitVec 20) (s : State) : Host.Outcome State Fault Refusal :=
  issue s 1 [(predCode k.toNat, 1)] [spanS 62 1] fun x =>
    let t := x.condition k.toNat (n == 1)
    x.transfer t (branchTarget x.c.base o) (decide (t ≠ 0))

/-- A transfer of the whole executing set to a code address held in a register (R412): the address is a multiple of 4
below 2^18, and lies in the current segment unless `far`. -/
def Ix.jump (x : Ix) (target : Nat) (far link : Bool) : Eff :=
  if target % 4 ≠ 0 then x.align target
  else if target ≥ pow2 18 ∨ (!far ∧ target / 4096 ≠ x.c.base / 4096) then x.access 0x59
  else x.transfer x.ex target link

/-- jr (R414). -/
def execJr (x : BitVec 6) (s : State) : Host.Outcome State Fault Refusal :=
  issue s 1 [spanS x.toNat 1] [] fun i => i.jump (i.sx x.toNat) false false

/-- ret (R414). -/
def execRet (s : State) : Host.Outcome State Fault Refusal :=
  issue s 1 [spanS 62 1] [] fun i => i.jump (i.sx 62) false false

/-- jf (R415): the fetch that follows reads the instruction memory as it then stands, and so observes every cfetch
completed before. The target is sX as it stood before the link is written. -/
def execJf (x : BitVec 6) (l : BitVec 1) (s : State) : Host.Outcome State Fault Refusal :=
  issue s 1 [spanS x.toNat 1] (if l = 1 then [spanS 62 1] else []) fun i => i.jump (i.sx x.toNat) true (l == 1)

/-- A group that its exit finishes waits at issue: at 255 closed batches, since its exit closes one more (R35, R176), and
while it holds objects and has accesses to perform, since it releases them as sobj.rel does (R263, R265). -/
def Ix.exitWaits (x : Ix) (g : Group) : Bool :=
  g.resolveAll.finished && !isSteer x.s.cur &&
    (decide (255 ≤ FMap.get 0 g.ctr 2) || (decide (g.holds ≠ []) && x.s.stalled.any fun o =>
      decide (o.agent = x.s.cur ∧ o.unit = x.g.unit ∧ o.drain = none)))

/-- exit (R416): the executing threads leave their masks for good, and those saved by a handler too (R393); the others fall
through. -/
def execExit (s : State) : Host.Outcome State Fault Refusal :=
  issue s 1 [] [] fun x =>
    let left (p : Slice × Nat) : Slice :=
      if x.c.slices.getLsbD p.2 && !p.1.finished then
        { p.1 with mask := p.1.mask &&& ~~~(sliceBits x.ex p.2), pc := x.c.next, fell := x.c.fellMark }
      else p.1
    let g : Group := { x.g with
      slices := x.g.slices.zipIdx.map left
      handler := x.g.handler.map fun h => { h with exited := h.exited ||| x.ex } }
    if x.exitWaits g then .wait else .moved (x.s.setGrp g)

/-- xreg.acq (R405): the path parks until the pool gives it every block at once. -/
def execXregAcq (m : BitVec 4) (s : State) : Host.Outcome State Fault Refusal :=
  issue s 1 [] [] fun x =>
    if x.g.blocks &&& m ≠ 0 then x.access 0x5A
    else if x.s.poolCap (coreOf x.s.cur) < popc 4 m.toNat then x.access 0x5B
    else .moved ((x.s.fallThrough x.c).requestBlocks x.s.cur x.c.slices m x.c.base x.c.k)

/-- xreg.rel (R405): the named blocks that are mapped return to the pool, and waiting requests are served. -/
def execXregRel (m : BitVec 4) (s : State) : Host.Outcome State Fault Refusal :=
  issue s 1 [] [] fun x => .done (x.s.releaseBlocks x.s.cur (m &&& x.g.blocks))

end Sys2Proof.Machine
end

