-- ==== Sys2Proof/Machine/Matrix.lean ====
section
/-!
DEFINITION. The matrix engine (R160 to R196, with the sums of R125 to R127).
-/
namespace Sys2Proof.Machine

/-! ## Reservation records (R162 to R167) -/

/-- A record from its two words, and whether every reserved field is 0 and BLK fits MX. -/
def recOf (lo hi : Nat) : Rec × Bool :=
  let r : Rec :=
    { buf := nbits lo 31 31, rows := nbits lo 28 16, row0 := nbits lo 11 0, fmt := nbits hi 31 28, mx := hi.testBit 27
      cmp := hi.testBit 25, exp := hi.testBit 24, lay := hi.testBit 23, scoff := nbits hi 22 11 }
  (r, decide (nbits lo 30 29 = 0 ∧ nbits lo 15 12 = 0 ∧ nbits hi 4 0 = 0 ∧ nbits hi 26 25 ≤ 1 ∧
    nbits hi 10 5 = if r.mx then 32 else 0))

/-- The rules of R163. -/
def recOk (r : Rec) : Bool :=
  decide (1 ≤ r.rows ∧ r.row0 + r.rows ≤ if r.buf = 0 then 4096 else 2048) &&
    decide ((1 ≤ r.fmt ∧ r.fmt ≤ 7) ∨ r.fmt = 13 ∨ r.fmt = 15) &&
    (if r.mx then decide (3 ≤ r.fmt ∧ r.fmt ≤ 7 ∧ r.scoff < r.rows) else decide (r.scoff = 0)) &&
    (!r.cmp || decide (r.buf = 1)) &&
    (!r.exp || decide (r.buf = 1 ∧ (r.fmt = 7 ∨ r.fmt = 15))) &&
    (!decide (r.fmt = 15) || (decide (r.buf = 1) && r.exp)) && (!r.lay || decide (r.buf = 0))

/-- The records as they stand after every command accepted so far (R173). -/
def Core.recsAfter (c : Core) : FMap Rec :=
  c.mq.foldl (fun m e => match e.cmd with
    | .mres n (some r) => m.ins n r
    | .mres n none => m.del n
    | _ => m) c.recs

/-- A record of the unit's grant (R164). -/
def UnitSt.grants (u : UnitSt) (n : Nat) (r : Rec) : Bool :=
  let (first, count) := if r.buf = 0 then (u.opFirst, u.opCount) else (u.wbFirst, u.wbCount)
  u.mrec.getLsbD n && decide (first ≤ r.row0 ∧ r.row0 + r.rows ≤ first + count)

/-- Another live record shares a row of the same buffer. -/
def overlaps (recs : FMap Rec) (n : Nat) (r : Rec) : Bool :=
  recs.any fun p => decide (p.1 ≠ n ∧ p.2.buf = r.buf ∧ p.2.row0 < r.row0 + r.rows ∧ r.row0 < p.2.row0 + p.2.rows)

/-- The products of one K-step in a record's class (R165). -/
def Rec.depth (r : Rec) : Nat :=
  if r.fmt = 1 ∨ r.fmt = 2 then 128 else if r.fmt = 7 ∧ !r.exp then 512 else 256

def Rec.isInt (r : Rec) : Bool := decide (r.fmt = 13 ∨ r.fmt = 15)

/-- Stored bits of an element (R161): FP6 stands one per byte. -/
def Rec.width (r : Rec) : Nat :=
  if r.fmt = 1 ∨ r.fmt = 2 then 16 else if r.fmt = 7 ∨ r.fmt = 15 then 4 else 8

/-- An accepted pair (R166). -/
def pairOk (ra rb : Rec) : Bool := decide (ra.depth = rb.depth ∧ ra.isInt = rb.isInt ∧ ra.buf = 0)

/-! ## Where the factors lie (R168 to R172) -/

/-- Bytes of a column of a weight-buffer step. -/
def Rec.colBytes (r : Rec) : Nat := r.depth * r.width / (if r.cmp then 16 else 8)

/-- Rows per K-step of a weight-buffer record. -/
def Rec.stepRows (r : Rec) : Nat := (16 * r.colBytes + (if r.cmp then 2 * r.depth else 0)) / 256

/-- The record row that holds line i of a step at offset o, for an operand-buffer record (R169). -/
def Rec.lineRow (r : Rec) (o i : Nat) : Nat := if r.lay then o + 16 * i else o + i

/-- Buffer byte of element 0 of line i. -/
def Rec.lineBase (r : Rec) (o i : Nat) : Nat :=
  if r.buf = 0 then 256 * (r.row0 + r.lineRow o i) else 256 * (r.row0 + o) + i * r.colBytes

/-- Buffer byte of the scale of block 0 of line i (R172). -/
def Rec.scaleBase (r : Rec) (o i : Nat) : Nat :=
  256 * (r.row0 + r.scoff) +
    (if r.buf = 0 then r.lineRow o i * (r.depth / 32) else o / r.stepRows * (r.depth / 2) + i * (r.depth / 32))

/-- Rows and scale bytes of a step at an offset lie in the record (R185). -/
def Rec.stepIn (r : Rec) (o : Nat) : Bool :=
  let last := if r.buf = 0 then r.lineRow o 15 else o + r.stepRows - 1
  decide (last < r.rows) && (!r.mx || decide (r.scaleBase o 15 + r.depth / 32 ≤ 256 * (r.row0 + r.rows)))

def Core.bufOf (c : Core) (buf : Nat) : FMap Byte := if buf = 0 then c.opb else c.wb
def Core.badOf (c : Core) (buf : Nat) : List Nat := if buf = 0 then c.opbPoison else c.wbPoison

def bufByte (b : FMap Byte) (i : Nat) : Nat := (FMap.get 0 b i).toNat

/-- Element m from a line's first byte (R161). -/
def bufElem (b : FMap Byte) (w base m : Nat) : Nat :=
  if w = 16 then bufByte b (base + 2 * m) + 256 * bufByte b (base + 2 * m + 1)
  else if w = 4 then (let x := bufByte b (base + m / 2); if m % 2 = 0 then x % 16 else x / 16)
  else bufByte b (base + m)

/-- Index x_m of a 2:4 column (R171). -/
def Core.idx24 (c : Core) (r : Rec) (o j m : Nat) : Nat :=
  let i := 256 * (r.row0 + o) + 16 * r.colBytes + j * (r.depth / 8) + m / 4
  (bufByte (c.bufOf r.buf) i >>> (2 * (m % 4))) % 4

/-- The stored element that stands at place k of a line: none where 2:4 drops it. -/
def Core.stored (c : Core) (r : Rec) (o i k : Nat) : Option Nat :=
  if r.cmp then
    let g := k / 4
    if c.idx24 r o i (2 * g + 1) = k % 4 then some (2 * g + 1)
    else if c.idx24 r o i (2 * g) = k % 4 then some (2 * g)
    else none
  else some k

/-- Factor k of line i: its value with the block scale (R108); none where 2:4 drops it. -/
def Core.factor (c : Core) (r : Rec) (o i k : Nat) : Option FpNum :=
  (c.stored r o i k).map fun m =>
    let v := (fmtOf r.fmt).value (bufElem (c.bufOf r.buf) r.width (r.lineBase o i) m)
    if r.mx then
      let x := bufByte (c.bufOf r.buf) (r.scaleBase o i + k / 32)
      if x = 255 then .nan false else v.scale ((x : Int) - 127)
    else v

/-- Factor k of line i of an integer record, 0 where 2:4 drops it. -/
def Core.factorInt (c : Core) (r : Rec) (o i k : Nat) : Int :=
  match c.stored r o i k with
  | none => 0
  | some m => sintOf r.width (bufElem (c.bufOf r.buf) r.width (r.lineBase o i) m)

/-- A byte that a line reads holds an uncorrectable error (R196). -/
def Core.lineBad (c : Core) (r : Rec) (o i : Nat) : Bool :=
  let hit (lo n : Nat) : Bool := (c.badOf r.buf).any fun u => decide (8 * u < lo + n ∧ lo < 8 * u + 8)
  c.badOf r.buf ≠ [] &&
    (hit (r.lineBase o i) (if r.buf = 0 then 256 else r.colBytes) ||
      (r.cmp && hit (256 * (r.row0 + o) + 16 * r.colBytes + i * (r.depth / 8)) (r.depth / 8)) ||
      (r.mx && hit (r.scaleBase o i) (r.depth / 32)))

/-! ## The window sum (R125) -/

/-- One product; none where it is 0 × ∞. A dropped element gives an exact zero. -/
def product (a b : Option FpNum) : Option FpNum :=
  match a, b with
  | some x, some y => x.mul y
  | _, _ => some (.fin false 0 0)

/-- floor(|m · 2^e| / 2^g), signed. -/
def cutAt (g : Int) (neg : Bool) (m : Nat) (e : Int) : Int :=
  let n : Nat := if g ≤ e then m <<< (e - g).toNat else m >>> (g - e).toNat
  if neg then -(n : Int) else (n : Int)

/-- The FP32 pattern s of a K-step. -/
def windowSum (ps : List (Option FpNum)) : Nat :=
  let vs := ps.filterMap id
  let infs := vs.filter FpNum.isInf
  if ps.any Option.isNone || vs.any FpNum.isNan || (infs.any FpNum.isNeg && infs.any fun v => !v.isNeg) then fp32.canon
  else
    match infs with
    | i :: _ => fp32.infBits i.isNeg
    | [] =>
      let ts := vs.filterMap fun v => match v with
        | .fin b m e => if m = 0 then none else some (b, m, e)
        | _ => none
      match ts with
      | [] => 0
      | t :: _ =>
        let top := ts.foldl (fun l t => max l ((Nat.log2 t.2.1 : Int) + t.2.2)) ((Nat.log2 t.2.1 : Int) + t.2.2)
        let g := top - 48
        let w : Int := ts.foldl (fun s t => s + cutAt g t.1 t.2.1 t.2.2) 0
        let q := scaleQ w.natAbs 1 g
        (fp32.roundTo 1 false (decide (w < 0)) q.1 q.2 false 0).1

/-- One K-step on the 256 elements of an accumulator, from their patterns (R185). -/
def Core.stepSum (c : Core) (ra rb : Rec) (oa ob : Nat) (acc : List Word) : List Word :=
  let ks := List.range ra.depth
  if ra.isInt then
    let as := (List.range 16).map fun i => ks.map (c.factorInt ra oa i)
    let bs := (List.range 16).map fun j => ks.map (c.factorInt rb ob j)
    (List.range 256).map fun e =>
      let t : Int := ((as.getD (e / 16) []).zip (bs.getD (e % 16) [])).foldl (fun s p => s + p.1 * p.2) 0
      acc.getD e 0 + BitVec.ofInt 32 t
  else
    let as := (List.range 16).map fun i => ks.map (c.factor ra oa i)
    let bs := (List.range 16).map fun j => ks.map (c.factor rb ob j)
    (List.range 256).map fun e =>
      let s := windowSum (((as.getD (e / 16) []).zip (bs.getD (e % 16) [])).map fun p => product p.1 p.2)
      BitVec.ofNat 32 (fp32.addRne (acc.getD e 0).toNat s)

/-! ## Issue (R173, R178, R181, R182) -/

/-- Enters a command of the current group into the queue. -/
def State.enqueueCmd (s : State) (cmd : MCmd) : State :=
  let (tok, s) := s.fresh
  let c := s.coreAt (coreOf s.cur)
  let g := s.grp
  let s := s.setCore (coreOf s.cur)
    { c with mq := c.mq ++ [{ agent := s.cur, unit := g.unit, batch := g.batchNo, cmd := cmd, tok := tok,
                              gen := (s.dieAt (dieOfCore (coreOf s.cur))).gen }] }
  s.setGrp { g with openCmds := g.openCmds + 1 }

/-- The current group holds the baton. -/
def State.hasBaton (s : State) : Bool := decide ((s.coreAt (coreOf s.cur)).baton = some s.cur)

/-- A restricted instruction of a group without the baton raises NO_BATON (R178). -/
def Ix.holder (x : Ix) (e : Eff) : Eff := if x.s.hasBaton then e else x.access 0x40

/-- The live record and the offset that a row reference names (R168). -/
def Ix.row (x : Ix) (w : Nat) : Option (Rec × Nat) :=
  match rowRef w with
  | none => none
  | some (r, off) => ((x.s.coreAt (coreOf x.s.cur)).recsAfter.find r).map fun rec => (rec, off)

/-- mres (R183, R163, R164). -/
def execMres (x y : BitVec 6) (n : BitVec 8) (s : State) : Host.Outcome State Fault Refusal :=
  issue s 1 [spanS x.toNat 1, spanS y.toNat 1] [] fun i =>
    let (r, ok) := recOf (i.sx x.toNat) (i.sx y.toNat)
    if !ok || !recOk r then i.access 0x41
    else if !((i.s.unitAt i.g.unit).grants n.toNat r) then i.access 0x43
    else if overlaps (i.s.coreAt (coreOf i.s.cur)).recsAfter n.toNat r then i.access 0x42
    else .done (i.s.enqueueCmd (.mres n.toNat (some r)))

/-- mres.rel (R183). -/
def execMresRel (n : BitVec 8) (s : State) : Host.Outcome State Fault Refusal :=
  issue s 1 [] [] fun i =>
    if !((i.s.unitAt i.g.unit).mrec.getLsbD n.toNat) then i.access 0x43
    else .done (i.s.enqueueCmd (.mres n.toNat none))

/-- mwld (R184). -/
def execMwld (x y : BitVec 6) (n : BitVec 8) (s : State) : Host.Outcome State Fault Refusal :=
  issue s 1 [spanS x.toNat 1, spanS y.toNat 1] [] fun i => i.holder
    (match i.row (i.sx x.toNat), i.row (i.sx y.toNat) with
     | some (ra, oa), some (rb, ob) =>
       if ra.buf ≠ 0 ∨ rb.buf ≠ 1 then i.access 0x41
       else if ra.rows < oa + n.toNat + 1 ∨ rb.rows < ob + n.toNat + 1 then i.access 0x44
       else .done (i.s.enqueueCmd (.mwld (ra.row0 + oa) (rb.row0 + ob) (n.toNat + 1)))
     | _, _ => i.access 0x41)

/-- The group stands between an mloop and its mma, with what the mma takes from it. -/
def Ix.withLoop (x : Ix) (l : LoopW) : State := x.s.setGrp { x.g with clause := some { x.c with loop := some l } }

/-- mloop (R185): count and increments stand ready for the mma that follows; a refused value stands as count 0. With an empty
executing set too the pair is one instruction. -/
def execMloop (x y : BitVec 6) (s : State) : Host.Outcome State Fault Refusal :=
  match s.grp.clause with
  | none => .fault .noClause
  | some c =>
    if (s.found c 1).ex = 0 then .next (((s.found c 1).withLoop {}).advance 1 true)
    else issue s 1 [spanS x.toNat 1, spanS y.toNat 1] [] fun i => i.holder
      (let n := i.sx x.toNat
       let w := i.sx y.toNat
       let bad : Bool := decide (4096 < n ∨ nbits w 31 28 ≠ 0 ∨ nbits w 15 12 ≠ 0)
       .done (i.withLoop { n := if bad then 0 else n, da := nbits w 11 0, db := nbits w 27 16 }))

/-- mma (R185). -/
def execMma (k : BitVec 3) (x y : BitVec 6) (c : BitVec 1) (s : State) : Host.Outcome State Fault Refusal :=
  issue s 1 [spanS x.toNat 1, spanS y.toNat 1] [] fun i => i.holder
    (let l := i.c.loop.getD {}
     match i.row (i.sx x.toNat), i.row (i.sx y.toNat) with
     | some (ra, oa), some (rb, ob) =>
       if l.n = 0 ∨ !(pairOk ra rb) then i.access 0x41
       else if !(ra.stepIn (oa + (l.n - 1) * l.da)) || !(rb.stepIn (ob + (l.n - 1) * l.db)) then i.access 0x44
       else
         let s := i.s.setGrp { i.g with clause := some { i.c with loop := none } }
         .done (s.enqueueCmd (.mma k.toNat ra rb oa ob l.n l.da l.db (c == 1)))
     | _, _ => i.access 0x41)

/-- mbat (R187): closes the open batch and writes its number. -/
def execMbat (x : BitVec 6) (s : State) : Host.Outcome State Fault Refusal :=
  issue s 1 [] [spanS x.toNat 1] fun i =>
    if i.g.ctrFull 2 then .wait
    else
      let s := i.s.closeBatch i.s.cur true
      .done (s.setGrp (s.grp.setS x.toNat (BitVec.ofNat 32 i.g.batchNo)))

/-- Bytes of a drained element (R188). -/
def cvtBytes (cvt : Nat) : Nat := if cvt = 0 ∨ cvt = 6 then 4 else if cvt = 1 ∨ cvt = 2 then 2 else 1

/-- The record format a conversion drains into (R188). -/
def cvtFmt (cvt : Nat) : Nat := if cvt = 5 then 13 else cvt

/-- The combinations that the clause check refuses (R195). -/
def drainRefused (y d v sr sat : Nat) (add : Bool) : Bool :=
  decide (5 ≤ d ∨ v = 7) || (decide (sr = 1 ∨ sat = 1) && decide (v = 0 ∨ v = 5 ∨ v = 6)) ||
    (decide (d = 0) && decide (v ≠ 0 ∧ v ≠ 6)) || (decide (d = 1) && decide (v = 0 ∨ v = 6)) ||
    (add && decide (d = 1 ∨ v = 3 ∨ v = 4 ∨ v = 5)) || decide (d = 4 ∧ y % 2 = 1) || decide (d ≤ 1 ∧ y ≠ 0)

/-- Where a drain goes, checked at issue (R188): the destination, or a trap. -/
def Ix.drainDst (x : Ix) (rx ry d v : Nat) : (Except Trap DrainDst) × State :=
  let w := x.sx rx
  let err (cause : Nat) : (Except Trap DrainDst) × State := (.error (x.trap 3 cause 0 0), x.s)
  if d = 0 then (if 4 ≤ w then err 0x41 else (.ok (.tile w), x.s))
  else if d = 1 then
    let col := nbits w 28 24
    if nbits w 31 29 ≠ 0 then err 0x41
    else
      match x.row (w % pow2 24) with
      | none => err 0x41
      | some (r, off) =>
        if r.buf ≠ 0 ∨ r.mx ∨ r.fmt ≠ cvtFmt v then err 0x41
        else if r.depth / 16 ≤ col ∨ r.rows ≤ r.lineRow off 15 then err 0x44
        else (.ok (.opb r off col), x.s)
  else
    let y := if d = 4 then x.sp ry else x.sx ry
    let e := cvtBytes v
    if y % e ≠ 0 then (.error (x.trap 4 0 0 y), x.s)
    else if w % e ≠ 0 then (.error (x.trap 4 0 0 (y + w)), x.s)
    else
      let offs := (List.range 256).map fun k => (0, 0, k / 16 * w + k % 16 * e)
      let (rs, s) := x.locateAll x.s (d - 1) y 0 e true true offs
      let asid := (x.s.unitAt x.g.unit).asid
      let vas := if d = 4 then offs.map fun o => (asid, y + o.2.2) else []
      ((firstFail rs).map fun as => .mem as vas, s)

/-- The common form of mdrn and mdrn.add. -/
def drainInstr (s : State) (k : BitVec 3) (x y : BitVec 6) (d v : BitVec 3) (sr a : BitVec 1) (add : Bool) :
    Host.Outcome State Fault Refusal :=
  issue s 1 ([spanS x.toNat 1] ++ (if d.toNat < 2 then [] else [spanS y.toNat (if d = 4 then 2 else 1)])) [] fun i =>
    if drainRefused y.toNat d.toNat v.toNat sr.toNat a.toNat add then .trap (i.trap 1 0 0 0)
    else i.afterAll <| i.holder
      (match i.drainDst x.toNat y.toNat d.toNat v.toNat with
       | (.error t, s) => .trapIn s t
       | (.ok dst, s) =>
         let (tok, s) := s.fresh
         let cmd : MCmd := .mdrn k.toNat dst v.toNat add (sr == 1) (a == 1) tok
         match dst with
         | .tile t =>
           if i.g.busy [(256 + t, 1)] then .wait
           else
             let g := s.grp
             let s := s.setGrp (g.late tok i.c.slices ((List.range 256).map fun e => Reg.t t e) none)
             let c := s.coreAt (coreOf s.cur)
             let s := s.setCore (coreOf s.cur) { c with tileDrains := c.tileDrains ++ [(s.cur, g.batchNo, tok)] }
             .done (s.enqueueCmd cmd)
         | _ => .done (s.enqueueCmd cmd))

/-- mdrn (R188, R189). -/
def execMdrn (k : BitVec 3) (x y : BitVec 6) (d v : BitVec 3) (sr a : BitVec 1) (s : State) :
    Host.Outcome State Fault Refusal := drainInstr s k x y d v sr a false

/-- mdrn.add (R188 to R190). -/
def execMdrnAdd (k : BitVec 3) (x y : BitVec 6) (d v : BitVec 3) (sr a : BitVec 1) (s : State) :
    Host.Outcome State Fault Refusal := drainInstr s k x y d v sr a true

/-- mtake (R193): takes the baton, or waits in its queue. Another path of a group that waits there has an entry of its own,
and the baton's arrival at an entry wakes the path that made it (DESIGN CHOICE, log 112). -/
def execMtake (s : State) : Host.Outcome State Fault Refusal :=
  issue s 1 [] [] fun i =>
    let core := coreOf i.s.cur
    let c := i.s.coreAt core
    if c.baton = some i.s.cur then .done i.s
    else if c.baton = none ∧ c.batonQ = [] then .done (i.s.setCore core { c with baton := some i.s.cur })
    else
      let s := i.parked i.s .baton
      .moved (s.setCore core { c with batonQ := c.batonQ ++ [(s.cur, i.c.slices)] })

/-- mgive (R193): closes the open batch and passes the baton on. -/
def execMgive (s : State) : Host.Outcome State Fault Refusal :=
  issue s 1 [] [] fun i => i.holder
    (if i.g.ctrFull 2 then .wait else .done ((i.s.closeBatch i.s.cur true).passBaton (coreOf i.s.cur)))

/-- mzero (R193). -/
def execMzero (k : BitVec 3) (s : State) : Host.Outcome State Fault Refusal :=
  issue s 1 [] [] fun i => i.holder (.done (i.s.enqueueCmd (.mzero k.toNat)))

/-- mxq (R194). -/
def execMxq (x y : BitVec 6) (c : BitVec 8) (s : State) : Host.Outcome State Fault Refusal :=
  issue s 1 [spanS x.toNat 1, spanS y.toNat 1] [] fun i => i.holder
    (match i.row (i.sx x.toNat), i.row (i.sx y.toNat) with
     | some (ra, oa), some (rb, ob) =>
       let ok (r : Rec) : Bool := decide (r.buf = 0) && !r.lay && r.mx
       let scales (r : Rec) (last blk : Nat) : Bool :=
         decide (256 * r.scoff + last * (r.depth / 32) + blk < 256 * r.rows)
       if !ok ra || !ok rb || decide (rb.depth / 32 ≤ c.toNat) then i.access 0x41
       else if ra.rows < oa + 32 ∨ rb.rows < ob + ra.depth then i.access 0x44
       else if !scales ra (oa + 31) (ra.depth / 32 - 1) || !scales rb (ob + ra.depth - 1) c.toNat then i.access 0x44
       else .done (i.s.enqueueCmd (.mxq ra rb oa ob c.toNat))
     | _, _ => i.access 0x41)

/-! ## Effects in acceptance order (R173) -/

/-- Writes bytes of a buffer; every 8-byte unit written whole loses its error, and a byte that `bad` names gives its unit
one. -/
def Core.putBuf (c : Core) (buf lo : Nat) (bs : List Byte) (bad : Nat → Bool) : Core :=
  let m := bs.zipIdx.foldl (fun m p => FMap.put 0 m (lo + p.2) p.1) (c.bufOf buf)
  let fed := ((List.range bs.length).filter bad).map fun i => (lo + i) / 8
  let kept := (c.badOf buf).filter fun u => !decide (lo ≤ 8 * u ∧ 8 * u + 8 ≤ lo + bs.length)
  let l := (fed ++ kept).eraseDups
  if buf = 0 then { c with opb := m, opbPoison := l } else { c with wb := m, wbPoison := l }

/-- An 8-byte unit that holds one of n bytes from lo has an error. -/
def Core.unitBad (c : Core) (buf lo n : Nat) : Bool :=
  (c.badOf buf).any fun u => decide (8 * u < lo + n ∧ lo < 8 * u + 8)

/-- mwld's effect: rows byte for byte, errors with them. -/
def Core.doWld (c : Core) (src dst rows : Nat) : Core :=
  (List.range (32 * rows)).foldl (fun c i =>
    let bs := (List.range 8).map fun k => FMap.get 0 c.opb (256 * src + 8 * i + k)
    c.putBuf 1 (256 * dst + 8 * i) bs fun _ => c.unitBad 0 (256 * src + 8 * i) 8) c

/-- mxq's effect (R194). -/
def Core.doXq (c : Core) (ra rb : Rec) (oa ob blk : Nat) : Core :=
  (List.range ra.depth).foldl (fun (d : Core) j =>
    let rows := (List.range 32).map fun i => oa + i
    let vs := rows.map fun r =>
      (d.factor ra r 0 j).getD (.fin false 0 0)
    let bad := rows.any fun r =>
      d.unitBad 0 (256 * (ra.row0 + r) + j * ra.width / 8) (ra.width / 8 + (if ra.width = 4 then 1 else 0)) ||
        d.unitBad 0 (ra.scaleBase r 0 + j / 32) 1
    let f := fmtOf rb.fmt
    let emax : Int := match rb.fmt with
      | 3 => 8
      | 4 => 15
      | 5 => 2
      | 6 => 4
      | _ => 2
    let (x, es) := blockScale f emax vs
    let bytes : List Byte :=
      if rb.width = 4 then (List.range 16).map fun k => BitVec.ofNat 8 (es.getD (2 * k) 0 + 16 * es.getD (2 * k + 1) 0)
      else es.map fun e => BitVec.ofNat 8 e
    let row := 256 * (rb.row0 + ob + j)
    let d := d.putBuf 0 (row + 32 * blk * rb.width / 8) bytes fun _ => bad
    d.putBuf 0 (rb.scaleBase (ob + j) 0 + blk) [BitVec.ofNat 8 x] fun _ => bad) c

/-- What a drain makes of an accumulator pattern (R189), with its draw. -/
def drainValue (cvt : Nat) (sr sat : Bool) (v : Word) (r16 : Nat) : Nat :=
  match cvt with
  | 0 => v.toNat
  | 6 => v.toNat
  | 5 => bitsOf 8 (max (-128) (min 127 v.toInt))
  | _ => ((fmtOf cvt).ofNum (if sr then 6 else 1) sat r16 (fp32.value v.toNat)).1

/-- What an add-on-store makes of the value at its destination. -/
def addOnValue (cvt : Nat) (sr sat : Bool) (old : Nat) (v : Word) (r16 : Nat) : Nat :=
  match cvt with
  | 0 => fp32.addRne old v.toNat
  | 6 => (old + v.toNat) % pow2 32
  | _ =>
    let f := fmtOf cvt
    match sumNum false [f.value old, fp32.value v.toNat] with
    | none => f.canon
    | some x => (f.ofNum (if sr then 6 else 1) sat r16 x).1

/-- The home of a place (R190): a slice, or a 4 KiB granule of HBM. -/
def homeOf (ka : Nat) : Nat :=
  let a := kplace ka
  if isHbm a then a / 4096 else a / pow2 25

/-- The effect of a drain: plain values are written, an add-on-store is handed to its homes. -/
def State.doDrain (s : State) (core : Nat) (e : MEntry) (acc : Nat) (dst : DrainDst) (cvt : Nat) (add sr sat : Bool)
    (tok : Nat) : State :=
  let c := s.coreAt core
  let vs := FMap.get zeroTile c.acc acc
  let v (k : Nat) : Word := vs.getD k 0
  let bad (k : Nat) : Bool := decide (256 * acc + k ∈ c.accPoison)
  let g := s.grpOf e.agent
  let live := decide (g.unit = e.unit)
  let draw (k : Nat) : Nat := if sr then drawAt g.drainGen k else 0
  let ks := List.range 256
  let draws := ks.map draw
  let s := if ks.any bad then s.noteUnit e.unit 0 else s
  let s := if sr && live then s.setGrpOf e.agent { g with drainGen := afterDraws g.drainGen 256 } else s
  let r (k : Nat) : Nat := drainValue cvt sr sat (v k) (draws.getD k 0)
  let addOn (tile : Option Nat) (elems : List (Nat × Word × Word × Bool)) (vas : List (Nat × Nat)) : AddOn :=
    { agent := e.agent, unit := e.unit, core := core, batch := e.batch, cvt := cvt, sr := sr, sat := sat, tile := tile
      elems := elems, vas := vas, tok := tok, gen := e.gen }
  let elem (a k : Nat) : Nat × Word × Word × Bool := (a, v k, BitVec.ofNat 32 (draws.getD k 0), bad k)
  match dst with
  | .tile t =>
    if add then s.setCore core { c with addons := c.addons ++ [addOn (some t) (ks.map fun k => elem k k) []] }
    else
      let s := s.deliver e.agent e.unit tok (ks.map fun k => BitVec.ofNat 32 (r k))
      let g := s.grpOf e.agent
      let rest := g.poison.filter fun p => decide (p ≠ 256 + t)
      if live then s.setGrpOf e.agent { g with poison := if ks.any bad then (256 + t) :: rest else rest } else s
  | .opb rc off col =>
    s.setCore core ((List.range 16).foldl (fun c i =>
      let es := (List.range 16).map fun j => 16 * i + j
      let bytes := es.flatMap fun k => bytesOf (rc.width / 8) (r k)
      c.putBuf 0 (256 * (rc.row0 + rc.lineRow off i) + 16 * col * rc.width / 8) bytes
        fun b => bad (16 * i + b / (rc.width / 8))) c)
  | .mem as vas =>
    let items := as.zipIdx
    if add then
      let homes := (as.map homeOf).eraseDups
      let part (h : Nat) : AddOn :=
        let mine := items.filter fun p => decide (homeOf p.1 = h)
        addOn none (mine.map fun p => elem p.1 p.2) (mine.filterMap fun p => vas[p.2]?)
      s.setCore core { c with addons := c.addons ++ homes.map part }
    else
      let n := cvtBytes cvt
      let (cold, hot) := items.partition fun p => s.frozen p.1
      let s := hot.foldl (fun s p =>
        let s := (s.served p.1 n).writeAt e.agent core p.1 n (r p.2) vas[p.2]?
        if bad p.2 then s.poisonAt (kplace (s.route p.1)) n else s) s
      if cold = [] then s
      else
        let els : List MElem := cold.map fun p =>
          { lane := p.2, addr := p.1, data := r p.2, arrived := true, bad := bad p.2, va := vas[p.2]? }
        let op : MOp := { agent := e.agent, unit := e.unit, core := core, kind := .store, bytes := n, slices := 0,
                          tok := tok, elems := els, drain := some e.batch, gen := some e.gen }
        { s with stalled := s.stalled ++ [op] }

/-- Reading n bytes from byte lo of a store of a core's engine corrects and counts the single-bit errors there (R463): 0 the
operand buffer, 1 the weight buffer, 2 the accumulators. -/
def State.mend (s : State) (core : Nat) (reads : List (Nat × Nat × Nat)) : State :=
  let c := s.coreAt core
  let hit (p : Nat × Nat) : Bool := reads.any fun r => decide (r.1 = p.1 ∧ 8 * p.2 < r.2.1 + r.2.2 ∧ r.2.1 < 8 * p.2 + 8)
  if c.soft.any hit then
    let d := dieOfCore core
    let x := s.dieAt d
    (s.setCore core { c with soft := c.soft.filter fun p => !hit p }).setDie d
      { x with ce := min (x.ce + (c.soft.filter hit).length) (pow2 32 - 1) }
  else s

/-- The buffer bytes of the 16 lines of a step. -/
def Rec.reads (r : Rec) (o : Nat) : List (Nat × Nat × Nat) :=
  (List.range 16).flatMap fun i =>
    [(r.buf, r.lineBase o i, if r.buf = 0 then 256 else r.colBytes)] ++
      (if r.cmp then [(r.buf, 256 * (r.row0 + o) + 16 * r.colBytes + i * (r.depth / 8), r.depth / 8)] else []) ++
      (if r.mx then [(r.buf, r.scaleBase o i, r.depth / 32)] else [])

/-- What a command reads of the buffers and accumulators as it takes effect. -/
def MCmd.reads : MCmd → List (Nat × Nat × Nat)
  | .mwld src _ rows => [(0, 256 * src, 256 * rows)]
  | .mdrn acc _ _ _ _ _ _ => [(2, 1024 * acc, 1024)]
  | .mxq ra _ oa _ _ => [(0, 256 * (ra.row0 + oa), 256 * 32)] ++
      (List.range 32).map fun i => (0, ra.scaleBase (oa + i) 0, ra.depth / 32)
  | _ => []

/-- Takes the head of the queue away. -/
def State.popCmd (s : State) (core : Nat) : State :=
  let c := s.coreAt core
  s.setCore core { c with mq := c.mq.drop 1 }

/-- The effect of a command on the buffers; poison that it spreads is noted (R196, R465). -/
def State.bufferEffect (s : State) (core : Nat) (e : MEntry) (c : Core) : State :=
  let old := s.coreAt core
  let s := s.setCore core c
  if (c.opbPoison.any fun p => !old.opbPoison.contains p) || (c.wbPoison.any fun p => !old.wbPoison.contains p) then
    s.noteUnit e.unit 0 else s

/-- The full effect of the command at the head of a queue, but for an mma. -/
def State.commandEffect (s : State) (core : Nat) (e : MEntry) : State :=
  let s := (s.popCmd core).mend core e.cmd.reads
  let c := s.coreAt core
  match e.cmd with
  | .mres n (some r) => s.setCore core { c with recs := c.recs.ins n r }
  | .mres n none => s.setCore core { c with recs := c.recs.del n }
  | .mwld src dst rows => s.bufferEffect core e (c.doWld src dst rows)
  | .mma _ _ _ _ _ _ _ _ _ => s
  | .mdrn acc dst cvt add sr sat tok => s.doDrain core e acc dst cvt add sr sat tok
  | .mzero acc =>
    s.setCore core { c with acc := FMap.put zeroTile c.acc acc zeroTile
                            accPoison := c.accPoison.filter fun p => decide (p / 256 ≠ acc) }
  | .mxq ra rb oa ob blk => s.bufferEffect core e (c.doXq ra rb oa ob blk)
  | .restore acc bad => s.setCore core { c with acc := acc, accPoison := bad }
  | .close => s.setCore core { c with batches := c.batches.map fun b =>
      if b.tok = e.tok then { b with effected := true } else b }

/-- MATRIX_COMMAND_EFFECT (R173): the command at the head of the core's queue takes its effect. -/
def execMatrixCommandEffect (s : State) : Host.Outcome State Fault Refusal :=
  event s fun m =>
    match m with
    | .matrixCommandEffect core =>
      match (s.coreAt core).mq with
      | [] => some s
      | e :: _ =>
        match e.cmd with
        | .mma _ _ _ _ _ _ _ _ _ => some s
        | _ => some (s.commandEffect core e)
    | _ => none

/-- A batch has written a non-finite value, which its completion makes visible in NF (R121). -/
def Group.nonFinite (g : Group) (batch : Nat) : Group :=
  { g with nf := (g.nf.filter fun p => decide (p.1 ≠ batch)) ++ [(batch, false)] }

/-- One K-step of the mma at the head of a queue (R125 to R127, R185). -/
def State.kStep (s : State) (core : Nat) (e : MEntry) (acc : Nat) (ra rb : Rec) (oa ob n inca incb : Nat) (clr : Bool) :
    State :=
  let s := s.mend core (ra.reads (oa + e.step * inca) ++ rb.reads (ob + e.step * incb) ++ [(2, 1024 * acc, 1024)])
  let c := s.coreAt core
  let first := clr && decide (e.step = 0)
  let a := oa + e.step * inca
  let b := ob + e.step * incb
  let old := if first then zeroTile else FMap.get zeroTile c.acc acc
  let new := c.stepSum ra rb a b old
  let badA := (List.range 16).map (c.lineBad ra a)
  let badB := (List.range 16).map (c.lineBad rb b)
  let bad := (List.range 256).filter fun k =>
    badA.getD (k / 16) false || badB.getD (k % 16) false || (!first && decide (256 * acc + k ∈ c.accPoison))
  let others := c.accPoison.filter fun p => decide (p / 256 ≠ acc)
  let next : MEntry := { e with step := e.step + 1 }
  let queue := if n ≤ e.step + 1 then c.mq.drop 1 else next :: c.mq.drop 1
  let bad := bad.map fun k => 256 * acc + k
  let s := s.setCore core { c with acc := FMap.put zeroTile c.acc acc new, accPoison := bad ++ others, mq := queue }
  let s := if bad = [] then s else s.noteUnit e.unit 0
  if !ra.isInt && new.any fun w => fp32.nonFinite w.toNat then s.updGroup e.agent e.unit fun g => g.nonFinite e.batch
  else s

/-- MMA_K_STEP (R125): the next step of the mma at the head of the core's queue. -/
def execMmaKStep (s : State) : Host.Outcome State Fault Refusal :=
  event s fun m =>
    match m with
    | .mmaKStep core =>
      match (s.coreAt core).mq with
      | [] => some s
      | e :: _ =>
        match e.cmd with
        | .mma acc ra rb oa ob n inca incb clr => some (s.kStep core e acc ra rb oa ob n inca incb clr)
        | _ => some s
    | _ => none

/-- One element of an add-on-store in memory. An error in what stands at its destination goes into the sum, as one of the
accumulator does (R196, R463). -/
def State.addOnElem (s : State) (o : AddOn) (n : Nat) (e : Nat × Word × Word × Bool) (va : Option (Nat × Nat)) : State :=
  let (bad, s) := (s.served e.1 n).badHome e.1 n
  let old := s.homeAt e.1 n
  let s := s.witness (dieOfCore o.core) (kplace (s.route e.1)) n
  let s := s.writeAt o.agent o.core e.1 n (addOnValue o.cvt o.sr o.sat old e.2.1 e.2.2.1.toNat) va
  let s := if e.2.2.2 || bad then s.poisonAt (kplace (s.route e.1)) n else s
  if bad then s.noteUnit o.unit 0 else s

/-- ADD_ON_STORE_UPDATE (R190): one home's part, indivisible; it may be a contribution to counted lines (R330). -/
def execAddOnStoreUpdate (s : State) : Host.Outcome State Fault Refusal :=
  event s fun m =>
    match m with
    | .addOnStoreUpdate k =>
      match (s.cores.flatMap fun p => p.2.addons)[k]? with
      | none => some s
      | some o =>
        let c := s.coreAt o.core
        match o.tile with
        | some t =>
          let s := s.setCore o.core { c with addons := c.addons.erase o }
          let g := s.grpOf o.agent
          let s := s.deliver o.agent o.unit o.tok (o.elems.map fun e =>
            BitVec.ofNat 32 (addOnValue o.cvt o.sr o.sat (g.tAt t e.1).toNat e.2.1 e.2.2.1.toNat))
          some (if o.elems.any fun e => e.2.2.2 then
              s.updGroup o.agent o.unit fun g => { g with poison := (256 + t) :: g.poison.filter fun p => decide (p ≠ 256 + t) }
            else s)
        | none =>
          if o.elems.any fun e => s.frozen e.1 then some s
          else
            let s := s.setCore o.core { c with addons := c.addons.erase o }
            let n := cvtBytes o.cvt
            let s := o.elems.zipIdx.foldl (fun s (p : (Nat × Word × Word × Bool) × Nat) => s.addOnElem o n p.1 o.vas[p.2]?) s
            some (s.contribute (o.elems.map fun e => kplace (s.route e.1)))
    | _ => none

/-! ## Batches (R176) -/

/-- A closed batch is complete, and the group's earlier ones are too. -/
def State.batchDone (s : State) (c : Core) (b : Batch) : Bool :=
  let mine (a n : Nat) : Bool := decide (a = b.agent ∧ n = b.number)
  b.effected &&
    !(c.addons.any fun o => mine o.agent o.batch || (b.empty && decide (o.tok < b.tok))) &&
    !(c.tileDrains.any fun d => (mine d.1 d.2.1 || (b.empty && decide (d.2.2 < b.tok))) &&
      (s.grpOf d.1).outs.any fun o => decide (o.tok = d.2.2)) &&
    !(s.stalled.any fun o => match o.drain with
      | some n => mine o.agent n || (b.empty && decide (o.tok < b.tok ∧ coreOf o.agent = coreOf b.agent))
      | none => false) &&
    decide ((c.batches.find? fun d => decide (d.agent = b.agent)) = some b)

/-- The completion of a batch makes a non-finite value it wrote visible in NF (R121). Where NF was cleared after the value
was written, NF may stay clear: a free value decides (R158). -/
def Group.showNf (g : Group) (batch : Nat) (free : Bool) : Group :=
  let h := { g with nf := g.nf.filter fun p => decide (p.1 ≠ batch) }
  match g.nf.find? fun p => decide (p.1 = batch) with
  | some p => if !p.2 || free then h.raise fNF else h
  | none => h

/-- MATRIX_BATCH_COMPLETE (R176): the oldest closed batch of a slot's group is complete and lowers its counter. -/
def execMatrixBatchComplete (s : State) : Host.Outcome State Fault Refusal :=
  event s fun m =>
    match m with
    | .matrixBatchComplete core slot =>
      let c := s.coreAt core
      match c.batches.find? fun b => decide (slotOf b.agent = slot) with
      | none => some s
      | some b =>
        if s.batchDone c b then
          let s := s.setCore core
            { c with batches := c.batches.erase b
                     tileDrains := c.tileDrains.filter fun d => decide (¬ (d.1 = b.agent ∧ d.2.1 = b.number)) }
          let free := (Config.word s.count 40).getLsbD 0
          some ((s.lower b.agent b.unit 2).updGroup b.agent b.unit fun g => g.showNf b.number free)
        else some s
    | _ => none

end Sys2Proof.Machine
end

