-- ==== Sys2Proof/Machine/HashGrid.lean ====
section
/-!
DEFINITION. The hash-grid engine (R197 to R208).
-/
namespace Sys2Proof.Machine

/-! ## The configuration (R198 to R200) -/

/-- A finite value that is not negative, as a fraction. -/
def FpNum.frac : FpNum → Nat × Nat
  | .fin _ m e => scaleQ m 1 e
  | _ => (0, 1)

/-- N_l = floor(N0 · b^l), formed exactly (R199). -/
def HgCfg.res (c : HgCfg) (l : Nat) : Nat :=
  let n := (fp32.value c.n0.toNat).frac
  let b := (fp32.value c.growth.toNat).frac
  (n.1 * b.1 ^ l) / (n.2 * b.2 ^ l)

/-- Bytes of the feature table. -/
def HgCfg.size (c : HgCfg) : Nat := c.levels * pow2 c.log2t * 2 * c.feats

/-- A pattern is finite and at least 1.0. -/
def atLeastOne (w : Word) : Bool :=
  match fp32.value w.toNat with
  | .fin neg m e => !neg && (let q := scaleQ m 1 e; decide (q.2 ≤ q.1))
  | _ => false

/-- The first core of a core's cluster. -/
def clusterBase (core : Nat) : Nat := core / 4 * 4

/-- The place of byte a of a table that starts at an offset in each slice of a core's cluster (R200). -/
def tablePlace (core off a : Nat) : Nat :=
  let g := a / 256
  sloc (clusterBase core + g % 4) (off + g / 4 * 256 + a % 256)

/-- The part of a table in each slice lies in the global segment (R199). -/
def State.tableIn (s : State) (core dev : Nat) (seg : SegReg) (off n : Nat) : Bool :=
  seg.v && (List.range 4).all fun q =>
    let lo := sloc (clusterBase core + q) off - firstDie s.mode dev * pow2 31
    decide (seg.base ≤ lo ∧ lo + n ≤ seg.base + seg.limit)

/-- hg.cfg (R198, R199). -/
def execHgCfg (x : BitVec 6) (s : State) : Host.Outcome State Fault Refusal :=
  issue s 1 [spanS x.toNat 8] [] fun i =>
    let w (k : Nat) : Nat := i.sx (x.toNat + k)
    let c : HgCfg :=
      { valid := true, levels := nbits (w 0) 3 0 + 1, feats := if (w 0).testBit 8 then 4 else 2, log2t := nbits (w 0) 20 16
        n0 := i.g.sAt (x.toNat + 1), growth := i.g.sAt (x.toNat + 2), toff := nbits (w 3) 24 0, goff := nbits (w 4) 24 0 }
    let core := coreOf i.s.cur
    let dev := (i.s.unitAt i.g.unit).dev
    let seg := FMap.get {} i.g.segs 2
    let rsv : Bool := decide (nbits (w 0) 31 21 = 0 ∧ nbits (w 0) 15 9 = 0 ∧ nbits (w 0) 7 4 = 0 ∧ nbits (w 3) 31 25 = 0 ∧
      nbits (w 4) 31 25 = 0 ∧ w 5 = 0 ∧ w 6 = 0 ∧ w 7 = 0)
    let ok := rsv && decide (10 ≤ c.log2t ∧ c.log2t ≤ 22) && atLeastOne c.n0 && atLeastOne c.growth &&
      decide (c.res (c.levels - 1) ≤ pow2 20 ∧ c.toff % 256 = 0 ∧ c.goff % 256 = 0 ∧ c.toff + c.size / 4 ≤ pow2 25 ∧
        c.goff + 2 * c.size / 4 ≤ pow2 25) &&
      i.s.tableIn core dev seg c.toff (c.size / 4) && i.s.tableIn core dev seg c.goff (2 * c.size / 4)
    if ok then .done (i.s.setGrp { i.g with hg := c }) else i.access 0x48

/-! ## Corners and weights (R201) -/

/-- A clamped coordinate: NaN gives +0, the rest is clamped to 0 and 1. -/
def clampCoord (w : Word) : FpNum := fp32.value (fp32.clamp01 w.toNat)

/-- A value rounded to FP32 under RNE; an invalid operation gives the canonical NaN. -/
def rne32 (x : Option FpNum) : Word := BitVec.ofNat 32 (fp32.finish 1 false 0 0 false x).1

/-- i and w of one axis at a level of resolution n. -/
def axisCell (p : FpNum) (n : Nat) : Nat × FpNum :=
  let u := fp32.value (rne32 (p.mul (.fin false n 0))).toNat
  let q := u.frac
  let i := min (q.1 / q.2) (n - 1)
  (i, (sumNum false [u, .fin true i 0]).getD u)

/-- Corner c of a position at a level: its entry and its weight. -/
def HgCfg.corner (g : HgCfg) (l : Nat) (x y z : Nat × FpNum) (c : Nat) : Nat × Word :=
  let n := g.res l
  let k (a : Nat × FpNum) (b : Nat) : Nat := if c.testBit b then a.1 + 1 else a.1
  let m (a : Nat × FpNum) (b : Nat) : FpNum :=
    if c.testBit b then a.2 else fp32.value (rne32 (sumNum false [.fin false 1 0, a.2.neg])).toNat
  let xy := fp32.value (rne32 ((m x 0).mul (m y 1))).toNat
  let wt := rne32 (xy.mul (m z 2))
  let t := pow2 g.log2t
  let e :=
    if (n + 1) * (n + 1) * (n + 1) ≤ t then k x 0 + (n + 1) * (k y 1 + (n + 1) * k z 2)
    else ((BitVec.ofNat 32 (k x 0)) ^^^ (BitVec.ofNat 32 (k y 1) * 0x9E3779B1#32) ^^^
      (BitVec.ofNat 32 (k z 2) * 0xC2B2AE3D#32)).toNat % t
  (e, wt)

/-- The eight corners of a position at a level. -/
def HgCfg.corners (g : HgCfg) (l : Nat) (p : Word × Word × Word) : List (Nat × Word) :=
  let n := g.res l
  let x := axisCell (clampCoord p.1) n
  let y := axisCell (clampCoord p.2.1) n
  let z := axisCell (clampCoord p.2.2) n
  (List.range 8).map (g.corner l x y z)

/-- Feature-table byte of an entry of a level, with bytes per feature 2 or, in the gradient table, 4. -/
def HgCfg.entryByte (g : HgCfg) (wide l e : Nat) : Nat := (l * pow2 g.log2t + e) * wide * g.feats

/-- The place of an entry of a level in the feature table. -/
def HgOp.entryPlace (o : HgOp) (l e : Nat) : Nat :=
  tablePlace (coreOf o.agent) o.cfg.toff (o.cfg.entryByte 2 l e)

/-- An entry that a position reads lies in a frozen frame (R295). -/
def HgOp.stalls (o : HgOp) (s : State) (p : Word × Word × Word) : Bool :=
  (s.devs.any fun d => d.2.migs.any fun m => decide (m.st = 1 ∨ m.st = 2)) &&
    (List.range o.cfg.levels).any fun l => (o.cfg.corners l p).any fun c => s.frozen (o.entryPlace l c.1)

/-- The features of one level of one position: BF16 patterns; a poisoned entry gives the canonical NaN in each (R465). Each
entry is read whole, at an instant of its own (R202). -/
def HgOp.level (o : HgOp) (s : State) (p : Word × Word × Word) (l : Nat) : List Nat × State :=
  let core := coreOf o.agent
  let die := dieOfCore core
  let cs := o.cfg.corners l p
  let place (e : Nat) : Nat := o.entryPlace l e
  let home (e : Nat) : Nat := kplace (s.route (place e))
  let n := 2 * o.cfg.feats
  let s := cs.foldl (fun s c => s.served (place c.1) n) s
  let lost := cs.any fun c => s.crcLost (home c.1) n
  let s := cs.foldl (fun s c => s.crcDone (home c.1) n) s
  if lost || cs.any fun c => s.poisoned (home c.1) n then
    (List.replicate o.cfg.feats bf16.canon, s.noteUnit o.unit (home ((cs.headD (0, 0)).1)))
  else
    let es := cs.map fun c => (s.readSince core die o.start (place c.1) (place c.1) n, fp32.value c.2.toNat)
    ((List.range o.cfg.feats).map fun f =>
      let acc := es.foldl (fun (acc : Word) e =>
        rne32 (fmaNum false e.2 (bf16.value ((e.1 >>> (16 * f)) % 65536)) (fp32.value acc.toNat))) 0
      (bf16.ofNum 1 false 0 (fp32.value acc.toNat)).1, s)

/-- All features of one position, level by level. -/
def HgOp.encode (o : HgOp) (s : State) (p : Word × Word × Word) : List Nat × State :=
  (List.range o.cfg.levels).foldl (fun r l =>
    let (fs, s) := o.level r.2 p l
    (r.1 ++ fs, s)) ([], s)

/-! ## Issue (R206 to R208) -/

/-- The positions of the 64 lanes. -/
def Ix.positions (x : Ix) (z : Nat) : List (Word × Word × Word) :=
  (List.range 64).map fun l => (x.g.vAt z l, x.g.vAt (z + 1) l, x.g.vAt (z + 2) l)

/-- Adds an operation to its core's engine and raises the counter. -/
def State.addHg (s : State) (o : HgOp) : State :=
  let core := coreOf s.cur
  let c := s.coreAt core
  (s.setCore core { c with hg := c.hg ++ [o] }).setGrp (s.grp.raiseCtr 4)

/-- hg.enc (R201 to R203, R208). -/
def execHgEnc (x : BitVec 6) (z : BitVec 8) (s : State) : Host.Outcome State Fault Refusal :=
  issue s 1 [spanS x.toNat 1, (z.toNat, 3)] [] fun i =>
    if i.g.ctrFull 4 || i.heldBack true then .wait
    else if !i.g.hg.valid then i.access 0x48
    else
      match i.row (i.sx x.toNat) with
      | none => i.access 0x41
      | some (r, off) =>
        if r.buf ≠ 0 ∨ r.fmt ≠ 2 ∨ r.mx ∨ r.lay then i.access 0x41
        else if r.rows < off + 64 then i.access 0x44
        else
          let (tok, s) := i.s.fresh
          let o : HgOp :=
            { agent := s.cur, unit := i.g.unit, grad := false, cfg := i.g.hg, exec := i.ex
              xs := i.positions z.toNat, row := r.row0 + off, start := s.past.length, tok := tok }
          .done (s.addHg o)

/-- The adds of an hg.grad (R204): for each thread, level, corner and feature. -/
def HgCfg.adds (g : HgCfg) (core src : Nat) (ex : Lanes) (ps : List (Word × Word × Word)) : List (Nat × Word × Nat) :=
  let lf := g.levels * g.feats
  ps.zipIdx.flatMap fun p =>
    if ex.getLsbD p.2 then
      (List.range g.levels).flatMap fun l => (g.corners l p.1).flatMap fun c =>
        (List.range g.feats).map fun f =>
          (tablePlace core g.goff (g.entryByte 4 l c.1 + 4 * f), c.2, src + 4 * (lf * p.2 + l * g.feats + f))
    else []

/-- hg.grad (R204, R205, R208). -/
def execHgGrad (x : BitVec 6) (z : BitVec 8) (s : State) : Host.Outcome State Fault Refusal :=
  issue s 1 [spanS x.toNat 1, (z.toNat, 3)] [] fun i =>
    let off := i.sx x.toNat
    let c := i.g.hg
    let seg := FMap.get {} i.g.segs 1
    if i.g.ctrFull 4 || i.heldBack true then .wait
    else if !c.valid then i.access 0x48
    else if off % 4 ≠ 0 then i.align off
    else
      match i.s.rangeCause (i.s.unitAt i.g.unit).dev seg 0 off (256 * c.levels * c.feats) false with
      | some cause => .trap (i.trap 3 cause 0 off)
      | none =>
        let (tok, s) := i.s.fresh
        let core := coreOf s.cur
        let ps := i.positions z.toNat
        let o : HgOp :=
          { agent := s.cur, unit := i.g.unit, grad := true, cfg := c, exec := i.ex, xs := ps
            adds := c.adds core (sloc core (seg.base + off)) i.ex ps, start := s.past.length, tok := tok }
        .done (s.addHg o)

/-! ## Events -/

/-- An operation is complete: it leaves its engine and lowers the counter (R207). -/
def State.endHg (s : State) (core : Nat) (o : HgOp) : State :=
  let c := s.coreAt core
  (s.setCore core { c with hg := c.hg.filter fun h => decide (h.tok ≠ o.tok) }).lower o.agent o.unit 4

/-- The lanes whose rows are still to be written, and those of them that read no frozen frame. -/
def HgOp.left (o : HgOp) : List Nat := (List.range 64).filter fun l => o.exec.getLsbD l && !o.done.contains l
def HgOp.ready (o : HgOp) (s : State) : List Nat := o.left.filter fun l => !o.stalls s (o.xs.getD l (0, 0, 0))

/-- The row of one lane of an hg.enc is written (R203). -/
def State.encRow (s : State) (core : Nat) (o : HgOp) (l : Nat) : State :=
  let (fs, s) := o.encode s (o.xs.getD l (0, 0, 0))
  s.setCore core ((s.coreAt core).putBuf 0 (256 * (o.row + l)) (fs.flatMap (bytesOf 2)) fun _ => false)

/-- The adds that can be performed: neither the gradient word nor a source not yet read lies in a frozen frame (R295). -/
def HgOp.addable (o : HgOp) (s : State) : List (Nat × Word × Nat) :=
  o.adds.filter fun a => !s.frozen a.1 && ((o.got.any fun g => decide (g.1 = a.2.2)) || !s.frozen a.2.2)

/-- An operation can go on: it is complete, or some of its rows or adds reads and writes no frozen frame. -/
def HgOp.canGo (o : HgOp) (s : State) : Bool :=
  if o.grad then decide (o.adds = [] ∨ o.addable s ≠ []) else decide (o.left = [] ∨ o.ready s ≠ [])

/-- Stores an operation back. -/
def State.putHg (s : State) (core : Nat) (o : HgOp) : State :=
  let c := s.coreAt core
  s.setCore core { c with hg := c.hg.map fun h => if h.tok = o.tok then o else h }

/-- Rows of an hg.enc are written, the threads in no stated order (R10); the last one completes it. -/
def State.encRows (s : State) (core : Nat) (o : HgOp) : State :=
  let ls := s.goingLanes (o.ready s)
  let s := ls.foldl (fun s l => s.encRow core o l) s
  if ls.length = o.left.length then s.endHg core o else s.putHg core { o with done := o.done ++ ls }

/-- HG_ENC_COMPLETE (R207): rows of an hg.enc are written; with the last the hash counter is lowered. -/
def execHgEncComplete (s : State) : Host.Outcome State Fault Refusal :=
  event s fun m =>
    match m with
    | .hgEncComplete core k =>
      match (s.coreAt core).hg[k]? with
      | some o => if o.grad then some s else some (s.encRows core o)
      | none => some s
    | _ => none

/-- The gradient at a source word, read once (R204), and the operation that keeps it. -/
def State.gradRead (s : State) (o : HgOp) (src : Nat) : (Word × Bool) × HgOp × State :=
  match o.got.find? fun g => decide (g.1 = src) with
  | some g => (g.2, o, s)
  | none =>
    let core := coreOf o.agent
    let s := s.served src 4
    let r := kplace (s.route src)
    let g := (BitVec.ofNat 32 (s.readSince core (dieOfCore core) o.start src src 4), s.poisoned r 4 || s.crcLost r 4)
    (g, { o with got := (src, g) :: o.got }, s.crcDone r 4)

/-- One add of an hg.grad (R204, R205): an indivisible update at the gradient word's home. -/
def State.gradAdd (s : State) (o : HgOp) (a : Nat × Word × Nat) : HgOp × State :=
  let core := coreOf o.agent
  let die := dieOfCore core
  let (g, o, s) := s.gradRead o a.2.2
  let (old, s) := (s.served a.1 4).badHome a.1 4
  let r := kplace (s.route a.1)
  let d := rne32 ((fp32.value a.2.1.toNat).mul (fp32.value g.1.toNat))
  let bad := g.2 || old
  let v := fp32.addRne (s.homeAt a.1 4) d.toNat
  let s := (s.witness die r 4).writeAt o.agent core a.1 4 v
  (o, if bad then (s.poisonAt r 4).noteUnit o.unit r else s)

/-- HG_GRAD_ADD (R205): one of the adds that an hg.grad has not yet performed, in no stated order. -/
def execHgGradAdd (s : State) : Host.Outcome State Fault Refusal :=
  event s fun m =>
    match m with
    | .hgGradAdd core k =>
      match (s.coreAt core).hg[k]? with
      | none => some s
      | some o =>
        if o.adds = [] then some (if o.grad then s.endHg core o else s)
        else
          match o.addable s with
          | [] => some s
          | l =>
            let a := l.getD (Config.pick s.count % l.length) (0, 0, 0)
            let (o, s) := s.gradAdd o a
            let o := { o with adds := o.adds.erase a }
            some (if o.adds = [] then s.endHg core o else s.putHg core o)
    | _ => none

end Sys2Proof.Machine
end

