-- ==== Sys2Proof/Machine/Ray.lean ====
section
/-!
DEFINITION. The ray unit (R209 to R220).
-/
namespace Sys2Proof.Machine

/-! ## Arithmetic (R212, R213) -/

/-- FP64, for the double-width path. -/
def fp64 : Fmt := ⟨11, 52, 1023, 0, 0x1FFFFFFFFFFFFF, 971, 0x7FF8000000000000⟩

/-- A value rounded under a mode; an invalid operation gives NaN. -/
def Fmt.near (f : Fmt) (mode : Nat) (x : Option FpNum) : FpNum :=
  match x with
  | none => .nan false
  | some v => f.value (f.ofNum mode false 0 v).1

/-- The quotient rounded once; 0 / 0 and ∞ / ∞ are NaN, a finite value over 0 is infinite. -/
def Fmt.quot (f : Fmt) (mode : Nat) (a b : FpNum) : FpNum :=
  match a, b with
  | .nan s, _ => .nan s
  | _, .nan s => .nan s
  | .inf _, .inf _ => .nan false
  | .inf s, .fin t _ _ => .inf (s != t)
  | .fin s _ _, .inf t => .fin (s != t) 0 0
  | .fin s m e, .fin t n k =>
    if n = 0 then (if m = 0 then .nan false else .inf (s != t))
    else
      let q := scaleQ m n (e - k)
      f.value (f.roundTo mode false (s != t) q.1 q.2 false 0).1

def FpNum.sub (a b : FpNum) : Option FpNum := sumNum false [a, b.neg]

/-- x · y − z · w with one rounding. -/
def Fmt.cross (f : Fmt) (x y z w : FpNum) : FpNum :=
  match x.mul y, z.mul w with
  | some p, some q => f.near 1 (p.sub q)
  | _, _ => .nan false

/-- x ≤ y, false for a NaN. -/
def FpNum.le (a b : FpNum) : Bool := !a.isNan && !b.isNan && !b.lt a

abbrev Vec3 := FpNum × FpNum × FpNum

def Vec3.get (v : Vec3) (a : Nat) : FpNum := if a = 0 then v.1 else if a = 1 then v.2.1 else v.2.2

def vecOf (ws : List Word) (i : Nat) : Vec3 :=
  (fp32.value (ws.getD i 0).toNat, fp32.value (ws.getD (i + 1) 0).toNat, fp32.value (ws.getD (i + 2) 0).toNat)

/-- A ray: origin, direction, interval. -/
structure RayV where
  o : Vec3
  d : Vec3
  t0 : FpNum
  t1 : FpNum

def rayOf (ws : List Word) : RayV :=
  { o := vecOf ws 0, d := vecOf ws 3, t0 := fp32.value (ws.getD 6 0).toNat, t1 := fp32.value (ws.getD 7 0).toNat }

def axes (v : Vec3) : List FpNum := [v.1, v.2.1, v.2.2]

/-- The condition INVALID of R214. -/
def RayV.invalid (r : RayV) : Bool :=
  (axes r.o ++ axes r.d ++ [r.t0, r.t1]).any FpNum.isNan || (axes r.o).any FpNum.isInf || (axes r.d).all FpNum.isZero

/-- The pattern of a value that FP32 holds. -/
def fp32Bits (x : FpNum) : Nat := (fp32.ofNum 1 false 0 x).1

/-- One axis of the box test (R212): none on a miss. The product of a 0 and an infinity, and a NaN bound, give bounds that
the spec does not state: those are free values, functions of the operands alone, since a ray repeats whatever else runs
(R128). DESIGN CHOICE (log 55): the sign of a zero distance is that of the product that forms it, a difference that is zero
counting as +0, and where two zeros of unlike sign are compared the running bound stays. -/
def boxAxis (o d lo hi tn tf : FpNum) : Option (FpNum × FpNum) :=
  if d.isZero then (if o.lt lo || hi.lt o then none else some (tn, tf))
  else
    let inv := fp32.quot 1 (.fin false 1 0) d
    let times (x : FpNum) : Option FpNum := (x.sub o).bind fun y => y.mul inv
    let later (a b : FpNum) : FpNum := if a.lt b then b else a
    let sooner (a b : FpNum) : FpNum := if b.lt a then b else a
    let open' (i : Nat) : FpNum :=
      fp32.value (Config.boxBound (fp32Bits o) (fp32Bits d) (fp32Bits lo) (fp32Bits hi) i).toNat
    let (near, far) : FpNum × FpNum := match times lo, times hi with
      | some a, some b =>
        if a.isNan || b.isNan then (open' 0, open' 1)
        else if b.lt a then (fp32.near 4 (some b), fp32.near 3 (some a))
        else (fp32.near 4 (some a), fp32.near 3 (some b))
      | _, _ => (open' 0, open' 1)
    some (later tn near, sooner tf far)

/-- The box test (R212): entry and exit distance where the box is entered. -/
def RayV.box (r : RayV) (lo hi : Vec3) (tf : FpNum) : Option (FpNum × FpNum) :=
  let ax (a : Nat) (t : FpNum × FpNum) : Option (FpNum × FpNum) :=
    boxAxis (Vec3.get r.o a) (Vec3.get r.d a) (Vec3.get lo a) (Vec3.get hi a) t.1 t.2
  (((ax 0 (r.t0, tf)).bind (ax 1)).bind (ax 2)).bind fun t => if t.1.le t.2 then some t else none

/-- The quantities of R213 in one format. -/
structure Shear where
  ax : FpNum
  ay : FpNum
  az : FpNum
  bx : FpNum
  by' : FpNum
  bz : FpNum
  cx : FpNum
  cy : FpNum
  cz : FpNum
  u : FpNum
  v : FpNum
  w : FpNum

def Fmt.shear (f : Fmt) (r : RayV) (v0 v1 v2 : Vec3) (kx ky kz : Nat) : Shear :=
  let d (a : Nat) : FpNum := Vec3.get r.d a
  let sx := f.quot 1 (d kx) (d kz)
  let sy := f.quot 1 (d ky) (d kz)
  let sz := f.quot 1 (.fin false 1 0) (d kz)
  let p (v : Vec3) (a : Nat) : FpNum := f.near 1 ((Vec3.get v a).sub (Vec3.get r.o a))
  let vx (v : Vec3) : FpNum := f.near 1 (fmaNum false sx.neg (p v kz) (p v kx))
  let vy (v : Vec3) : FpNum := f.near 1 (fmaNum false sy.neg (p v kz) (p v ky))
  let vz (v : Vec3) : FpNum := f.near 1 (sz.mul (p v kz))
  let ax := vx v0
  let ay := vy v0
  let bx := vx v1
  let bY := vy v1
  let cx := vx v2
  let cy := vy v2
  { ax := ax, ay := ay, az := vz v0, bx := bx, by' := bY, bz := vz v1, cx := cx, cy := cy, cz := vz v2
    u := f.cross cx bY cy bx, v := f.cross ax cy ay cx, w := f.cross bx ay bY ax }

/-- A zero edge counts only where it is a top or left one (R213). -/
def edgeCounts (neg : Bool) (sx sy ex ey : FpNum) : Bool :=
  let turn (x : Option FpNum) : FpNum := let v := x.getD (.nan false); if neg then v.neg else v
  let dx := turn (ex.sub sx)
  let dy := turn (ey.sub sy)
  let zero : FpNum := .fin false 0 0
  (dy.isZero && zero.lt dx) || dy.lt zero

/-- The triangle test (R213): t, u and v as FP32 patterns. -/
def RayV.tri (r : RayV) (v0 v1 v2 : Vec3) : Option (Word × Word × Word) :=
  let mag (a : Nat) : FpNum := (Vec3.get r.d a).abs
  let kz := if (mag 0).lt (mag 1) then (if (mag 1).lt (mag 2) then 2 else 1) else if (mag 0).lt (mag 2) then 2 else 0
  let k1 := (kz + 1) % 3
  let k2 := (kz + 2) % 3
  let back := (Vec3.get r.d kz).isNeg
  let kx := if back then k2 else k1
  let ky := if back then k1 else k2
  let q32 := fp32.shear r v0 v1 v2 kx ky kz
  let wide := q32.u.isZero || q32.v.isZero || q32.w.isZero
  let f := if wide then fp64 else fp32
  let q := if wide then fp64.shear r v0 v1 v2 kx ky kz else q32
  let zero : FpNum := .fin false 0 0
  let es := [q.u, q.v, q.w]
  if !(es.all fun e => zero.le e) && !(es.all fun e => e.le zero) then none
  else
    let det := f.near 1 (sumNum false es)
    if det.isZero then none
    else
      let ok (e sx sy ex ey : FpNum) : Bool := !e.isZero || edgeCounts det.isNeg sx sy ex ey
      if !(ok q.u q.bx q.by' q.cx q.cy && ok q.v q.cx q.cy q.ax q.ay && ok q.w q.ax q.ay q.bx q.by') then none
      else
        let t := match q.u.mul q.az, q.v.mul q.bz, q.w.mul q.cz with
          | some a, some b, some c => f.near 1 (sumNum false [a, b, c])
          | _, _, _ => .nan false
        let out (x : FpNum) : Word := BitVec.ofNat 32 (fp32.ofNum 1 false 0 (f.quot 1 x det)).1
        some (out t, out q.v, out q.w)

/-! ## Reading the scene (R209 to R211) -/

/-- What a read of the ray unit finds. -/
inductive RayRead where
  | ok (v : Nat)
  | fault (va : Nat)
  /-- its page is frozen -/
  | frozen

/-- Reads one aligned 16-byte chunk through the core's TLB, whole and at an instant of its own (R211). DESIGN CHOICE (log 55): a chunk at or above VA 2^48, and
one that a translation held from before now takes to an engine-guarded area, ends the ray with FAULT too. -/
def RayOp.chunk (o : RayOp) (s : State) (va : Nat) : RayRead × State :=
  let core := coreOf o.agent
  let die := dieOfCore core
  if pow2 48 ≤ va then (.fault va, s)
  else if s.walkStalls die o.dev o.asid va then (.frozen, s)
  else
    match s.translate core die o.dev o.asid va false true with
    | (.error _, s) => (.fault va, s)
    | (.ok p, s) =>
      let ka := p.place s.mode o.dev va
      if s.frozen ka then (.frozen, s)
      else if pteLoc p.e && s.guarded (kplace ka) 16 then (.fault va, s)
      else
        let s := s.served ka 16
        let r := kplace (s.route ka)
        if s.poisoned r 16 || s.crcLost r 16 then (.fault va, (s.crcDone r 16).noteUnit o.unit va)
        else (.ok (s.readSince core die o.start va ka 16 (some (o.asid, va))), s.crcDone r 16)

/-- Reads n chunks from an address: their bytes as one number. -/
def RayOp.chunks (o : RayOp) (s : State) (va : Nat) : Nat → RayRead × State
  | 0 => (.ok 0, s)
  | n + 1 =>
    match o.chunk s va with
    | (.ok v, s) =>
      match o.chunks s (va + 16) n with
      | (.ok w, s) => (.ok (v + pow2 128 * w), s)
      | r => r
    | r => r

/-- Byte k of a value read, and its 32-bit word at byte k. -/
def byteAt (v k : Nat) : Nat := (v >>> (8 * k)) % 256
def wordAt (v k : Nat) : Nat := (v >>> (8 * k)) % pow2 32

/-- A child of a node (R209): its reference, its bounds, and whether it is not empty. -/
structure Child where
  ref : Nat
  lo : Vec3
  hi : Vec3
  present : Bool

def childOf (v j : Nat) : Child :=
  let ref := (v >>> (8 * (64 + 8 * j))) % pow2 64
  let q (hi : Nat) (a : Nat) : Nat := byteAt v (16 + 6 * j + 3 * hi + a)
  let bound (mode hi a : Nat) : FpNum :=
    fp32.near mode (sumNum false [fp32.value (wordAt v (4 * a)), .fin false (q hi a) ((byteAt v (12 + a) : Int) - 127)])
  { ref := ref, lo := (bound 4 0 0, bound 4 0 1, bound 4 0 2), hi := (bound 3 1 0, bound 3 1 1, bound 3 1 2)
    present := decide (nbits ref 63 62 ≠ 0) && (List.range 3).all fun a => decide (q 0 a ≤ q 1 a) }

/-! ## Traversal (R214) -/

/-- An entered child that waits on the stack: reference, entry distance, box level. -/
structure Pend where
  ref : Nat
  tn : FpNum
  level : Nat
  root : Bool := false

/-- A ray on its way. -/
structure Walk where
  stack : List Pend := []
  best : Option (Word × Nat × Word × Word) := none
  tbest : FpNum
  boxes : Nat := 0
  tris : Nat := 0
  /-- the status that ends the ray, and FAULT's address -/
  ended : Option (Nat × Nat) := none
  /-- a read waits for a frozen page -/
  waits : Bool := false

/-- A triangle is a candidate that beats the best hit (R214). -/
def Walk.beats (w : Walk) (t0 : FpNum) (t : Word) (id : Nat) : Bool :=
  let x := fp32.value t.toNat
  t0.le x && x.le w.tbest &&
    (match w.best with
     | none => true
     | some b => x.lt w.tbest || (x.eqv w.tbest && decide (id < b.2.1)))

/-- Tests the triangles of a leaf from the k-th on. -/
def RayOp.leaf (o : RayOp) (r : RayV) : Nat → Nat → Walk → State → Walk × State
  | 0, _, w, s => (w, s)
  | n + 1, va, w, s =>
    match o.chunks s va 3 with
    | (.frozen, s) => ({ w with waits := true }, s)
    | (.fault a, s) => ({ w with ended := some (3, a) }, s)
    | (.ok v, s) =>
      if (wordAt v 40).testBit 0 then o.leaf r n (va + 48) w s
      else
        let vx (i : Nat) : Vec3 :=
          (fp32.value (wordAt v (12 * i)), fp32.value (wordAt v (12 * i + 4)), fp32.value (wordAt v (12 * i + 8)))
        let id := wordAt v 36
        let w := { w with tris := w.tris + 1 }
        match r.tri (vx 0) (vx 1) (vx 2) with
        | none => o.leaf r n (va + 48) w s
        | some (t, u, vv) =>
          if w.beats r.t0 t id then
            let w := { w with best := some (t, id, u, vv), tbest := fp32.value t.toNat }
            if o.occl then ({ w with ended := some (1, 0) }, s) else o.leaf r n (va + 48) w s
          else o.leaf r n (va + 48) w s

/-- Visits a box node: its entered children are pushed so that they pop in increasing distance, equal ones by slot.
DESIGN CHOICE (log 55): a box node or a triangle whose read faults is not counted as visited or tested. -/
def RayOp.visit (o : RayOp) (r : RayV) (va level : Nat) (w : Walk) (s : State) : Walk × State :=
  if 65536 ≤ w.boxes then ({ w with ended := some (5, 0) }, s)
  else
    match o.chunks s va 8 with
    | (.frozen, s) => ({ w with waits := true }, s)
    | (.fault a, s) => ({ w with ended := some (3, a) }, s)
    | (.ok v, s) =>
      let entered := (List.range 8).filterMap fun j =>
        let c := childOf v j
        if c.present then
          (r.box c.lo c.hi w.tbest).map fun t =>
            ({ ref := c.ref, tn := t.1, level := level + 1 } : Pend)
        else none
      let sorted := sortBy (fun (a b : Pend) => !b.tn.lt a.tn) entered
      ({ w with boxes := w.boxes + 1, stack := sorted ++ w.stack }, s)

/-- Traversal to its end; `fuel` bounds the pops. DESIGN CHOICE (log 55): a popped box reference that is malformed and lies
too deep as well gives MALFORMED, and one that is either and would be the 65,537th box node visited gives that status, not
LIMIT. -/
def RayOp.walk (o : RayOp) (r : RayV) : Nat → Walk → State → Walk × State
  | 0, w, s => (w, s)
  | fuel + 1, w, s =>
    if w.ended.isSome || w.waits then (w, s)
    else
      match w.stack with
      | [] => (w, s)
      | p :: t =>
        let w := { w with stack := t }
        let kind := nbits p.ref 63 62
        let cnt := nbits p.ref 61 56
        let va := nbits p.ref 47 0
        if !p.root && w.tbest.lt p.tn then o.walk r fuel w s
        else if kind = 3 ∨ (kind = 1 ∧ (va % 128 ≠ 0 ∨ cnt ≠ 0)) ∨ (kind = 2 ∧ va % 16 ≠ 0) then
          ({ w with ended := some (6, 0) }, s)
        else if kind = 2 then
          let (w, s) := o.leaf r (cnt + 1) va w s
          o.walk r fuel w s
        else if 32 < p.level then ({ w with ended := some (4, 0) }, s)
        else
          let (w, s) := o.visit r va p.level w s
          o.walk r fuel w s

/-- A ray from its registers to its end. DESIGN CHOICE (log 55): a ray with t0 > t1 that is not INVALID reads and counts the
root node before it misses, and ends with FAULT where that read fails. -/
def RayOp.run (o : RayOp) (s : State) (ws : List Word) : Walk × State :=
  let r := rayOf ws
  if r.invalid then ({ tbest := r.t1, ended := some (2, 0) }, s)
  else o.walk r 600000 { tbest := r.t1, stack := [{ ref := pow2 62 + o.root, tn := r.t0, level := 0, root := true }] } s

/-- The result record of a ray (R214), as bytes. -/
def Walk.record (w : Walk) : List Byte :=
  let count := bytesOf 4 w.boxes ++ bytesOf 4 w.tris ++ bytesOf 4 0
  let none' (st info : Nat) : List Byte :=
    bytesOf 4 0x7F800000 ++ bytesOf 4 0xFFFFFFFF ++ bytesOf 8 info ++ bytesOf 4 st ++ count
  match w.ended with
  | some (st, va) =>
    if st = 1 then
      match w.best with
      | some (t, id, u, v) =>
        bytesOf 4 t.toNat ++ bytesOf 4 id ++ bytesOf 4 u.toNat ++ bytesOf 4 v.toNat ++ bytesOf 4 1 ++ count
      | none => none' 0 0
    else none' st va
  | none =>
    match w.best with
    | some (t, id, u, v) =>
      bytesOf 4 t.toNat ++ bytesOf 4 id ++ bytesOf 4 u.toNat ++ bytesOf 4 v.toNat ++ bytesOf 4 1 ++ count
    | none => none' 0 0

/-! ## Instructions (R215, R216) -/

/-- The n registers from vZ of a lane. -/
def Ix.row8 (x : Ix) (z n l : Nat) : List Word := (List.range n).map fun k => x.g.vAt (z + k) l

/-- The common form of ray.trace and ray.occl. -/
def rayInstr (s : State) (x y : BitVec 6) (z : BitVec 8) (occl : Bool) : Host.Outcome State Fault Refusal :=
  issue s 1 [spanS x.toNat 2, spanS y.toNat 1, (z.toNat, 8)] [] fun i =>
    let root := i.sp x.toNat
    let off := i.sx y.toNat
    let seg := FMap.get {} i.g.segs 1
    let core := coreOf i.s.cur
    let u := i.s.unitAt i.g.unit
    if i.g.ctrFull 5 || i.heldBack true then .wait
    else if root / pow2 48 ≠ 0 ∨ root % 128 ≠ 0 then i.align root
    else if off % 32 ≠ 0 then i.align off
    else
      match i.s.rangeCause u.dev seg 0 off 2048 true with
      | some cause => .trap (i.trap 3 cause 0 off)
      | none =>
        let (tok, s) := i.s.fresh
        let o : RayOp :=
          { agent := s.cur, unit := i.g.unit, occl := occl, dev := u.dev, asid := u.asid, exec := i.ex, root := root
            rays := (List.range 64).map (i.row8 z.toNat 8), out := sloc core (seg.base + off), start := s.past.length
            tok := tok }
        let c := s.coreAt core
        let s := s.setCore core { c with rays := c.rays ++ [o] }
        .done (s.setGrp (s.grp.raiseCtr 5))

/-- ray.trace (R214 to R216). -/
def execRayTrace (x y : BitVec 6) (z : BitVec 8) (s : State) : Host.Outcome State Fault Refusal := rayInstr s x y z false

/-- ray.occl (R214 to R216): the first hit in traversal order. -/
def execRayOccl (x y : BitVec 6) (z : BitVec 8) (s : State) : Host.Outcome State Fault Refusal := rayInstr s x y z true

/-- Late results of n registers from r for each executing lane. -/
def Ix.lateLanes (x : Ix) (r n : Nat) (f : Nat → List Word) : Eff :=
  let ls := (List.range 64).filter fun l => x.ex.getLsbD l
  let (tok, s) := x.s.fresh
  let regs := ls.flatMap fun l => (List.range n).map fun k => Reg.v (r + k) l
  let vals := ls.flatMap fun l => (List.range n).map fun k => (f l).getD k 0
  .done (s.setGrp (s.grp.late tok x.c.slices regs (some vals)))

/-- ray.tri (R215): t, u and v, or a miss. -/
def execRayTri (z : BitVec 8) (s : State) : Host.Outcome State Fault Refusal :=
  issue s 1 [(z.toNat, 17)] [(z.toNat + 17, 3)] fun i =>
    i.lateLanes (z.toNat + 17) 3 fun l =>
      let ws := i.row8 z.toNat 17 l
      let r := rayOf ws
      let miss : List Word := [0x7F800000, 0, 0]
      if r.invalid then miss
      else
        match r.tri (vecOf ws 8) (vecOf ws 11) (vecOf ws 14) with
        | none => miss
        | some (t, u, v) =>
          let x := fp32.value t.toNat
          if r.t0.le x && x.le r.t1 then [t, u, v] else miss

/-- ray.box (R215): entry and exit distance, or a miss. -/
def execRayBox (z : BitVec 8) (s : State) : Host.Outcome State Fault Refusal :=
  issue s 1 [(z.toNat, 14)] [(z.toNat + 14, 2)] fun i =>
    i.lateLanes (z.toNat + 14) 2 fun l =>
      let ws := i.row8 z.toNat 14 l
      let r := rayOf ws
      let miss : List Word := [0x7F800000, 0x7F800000]
      if r.invalid then miss
      else
        match r.box (vecOf ws 8) (vecOf ws 11) r.t1 with
        | none => miss
        | some (tn, tf) => [BitVec.ofNat 32 (fp32Bits tn), BitVec.ofNat 32 (fp32Bits tf)]

/-! ## Completion (R216) -/

/-- The lanes whose records are still to be written, and those of them whose record lies in no frozen frame (R295). -/
def RayOp.left (o : RayOp) : List Nat := (List.range 64).filter fun l => o.exec.getLsbD l && !o.done.contains l
def RayOp.ready (o : RayOp) (s : State) : List Nat := o.left.filter fun l => !s.frozen (o.out + 32 * l)

/-- Runs the ray of one lane and writes its record, unless a read waits for a frozen page. -/
def RayOp.lane (o : RayOp) (s : State) (l : Nat) : RayOp × State :=
  let (w, s) := o.run s (o.rays.getD l [])
  if w.waits then (o, s)
  else
    let bs := w.record
    ({ o with done := l :: o.done }, (List.range 4).foldl (fun s k =>
      s.writeAt o.agent (coreOf o.agent) (o.out + 32 * l + 8 * k) 8 (ofBytes ((bs.drop (8 * k)).take 8))) s)

/-- Rays of a command, the threads in no stated order (R10); once every executing thread's record is written the ray counter
is lowered. -/
def State.rayLanes (s : State) (core : Nat) (o : RayOp) : State :=
  let (o, s) := (s.goingLanes (o.ready s)).foldl (fun (r : RayOp × State) l => r.1.lane r.2 l) (o, s)
  let c := s.coreAt core
  if o.left = [] then
    (s.setCore core { c with rays := c.rays.filter fun r => decide (r.tok ≠ o.tok) }).lower o.agent o.unit 5
  else s.setCore core { c with rays := c.rays.map fun r => if r.tok = o.tok then o else r }

/-- RAY_COMPLETE (R216): records of executing threads are written, the threads in no stated order; with the last of them the
ray counter is lowered. A ray whose read or whose record lies in a frozen page waits (R295). -/
def execRayComplete (s : State) : Host.Outcome State Fault Refusal :=
  event s fun m =>
    match m with
    | .rayComplete core k =>
      match (s.coreAt core).rays[k]? with
      | none => some s
      | some o => some (s.rayLanes core o)
    | _ => none

end Sys2Proof.Machine
end

