-- ==== Sys2Proof/Machine/Tree.lean ====
section
/-!
DEFINITION. The Bora search-tree engine (R333 to R359). Its trees are bytes of its SRAM slice.
-/
namespace Sys2Proof.Machine

/-! ## Descriptors and nodes (R333 to R337) -/

/-- The value that names no node. -/
def noNode : Nat := 0xFFFFFFFF

/-- A tree: the place of its engine's slice, and its slot. -/
structure TreeAt where
  slice : Nat
  slot : Nat

def TreeAt.desc (t : TreeAt) : Nat := t.slice + 64 * t.slot

/-- A descriptor as held. -/
structure TreeD where
  abase : Nat
  cap : Nat
  top : Nat
  free : Nat
  root : Nat
  cpuct : Nat
  vn : Nat
  vq : Nat
  fpu : Nat
  ctl : Nat
  gen : Nat
  opened : Nat
  live : Nat

def State.treeD (s : State) (t : TreeAt) : TreeD :=
  let f (o : Nat) : Nat := s.rdN (t.desc + o) 4
  { abase := f 0, cap := f 4, top := f 8, free := f 12, root := f 16, cpuct := f 20, vn := f 24, vq := f 28, fpu := f 32
    ctl := f 36, gen := f 40, opened := f 44, live := f 48 }

def TreeD.maxch (d : TreeD) : Nat := d.ctl % 128
def TreeD.alt (d : TreeD) : Bool := d.ctl.testBit 8

/-- The place of node i. -/
def TreeAt.node (t : TreeAt) (d : TreeD) (i : Nat) : Nat := t.slice + d.abase + 32 * i

/-- A node as held. -/
structure Node where
  parent : Nat
  first : Nat
  cnt : Nat
  st : Nat
  vl : Nat
  n : Nat
  w : Nat
  p : Nat
  action : Nat

def State.nodeAt (s : State) (t : TreeAt) (d : TreeD) (i : Nat) : Node :=
  let a := t.node d i
  let f (o n : Nat) : Nat := s.rdN (a + o) n
  { parent := f 0 4, first := f 4 4, cnt := f 8 1, st := f 9 1 % 8, vl := f 10 2, n := f 12 4, w := f 16 4, p := f 20 4
    action := f 24 4 }

def Node.bytes (x : Node) : List Byte :=
  bytesOf 4 x.parent ++ bytesOf 4 x.first ++ bytesOf 1 x.cnt ++ bytesOf 1 x.st ++ bytesOf 2 x.vl ++ bytesOf 4 x.n ++
    bytesOf 4 x.w ++ bytesOf 4 x.p ++ bytesOf 4 x.action ++ bytesOf 4 0

def State.putNode (s : State) (t : TreeAt) (d : TreeD) (i : Nat) (x : Node) : State := s.wrBytes (t.node d i) x.bytes

/-- Writes a word of a descriptor. -/
def State.putD (s : State) (t : TreeAt) (off v : Nat) : State := s.wrN (t.desc + off) 4 v

/-- The children of a node. -/
def Node.children (x : Node) : List Nat := (List.range x.cnt).map fun i => x.first + i

/-- The chain from a node to the root, following PARENT. -/
def State.chain (s : State) (t : TreeAt) (d : TreeD) : Nat → Nat → List Nat
  | 0, _ => []
  | fuel + 1, i => if i = noNode then [] else i :: s.chain t d fuel (s.nodeAt t d i).parent

/-! ## Scores (R340) -/

def rne (x : Option FpNum) : FpNum := fp32.near 1 x
def natNum (n : Nat) : FpNum := .fin false n 0

/-- The score of a child of x. -/
def treeScore (d : TreeD) (x c : Node) : FpNum :=
  let f (b : Nat) : FpNum := fp32.value b
  let dn := rne (some (natNum (c.n + c.vl * d.vn)))
  let q :=
    if dn.isZero then f d.fpu
    else fp32.quot 1 (rne ((f c.w).sub (rne ((natNum c.vl).mul (f d.vq))))) dn
  let pn := rne (some (natNum (x.n + x.vl * d.vn)))
  let root := f (funOp 2 false 1 false 0 0 pn).1
  let top := rne ((rne ((f d.cpuct).mul (f c.p))).mul root)
  let u := fp32.quot 1 top (rne (sumNum false [natNum 1, dn]))
  rne (sumNum false [q, u])

/-- a is preferred to b. -/
def scoreWins (a b : FpNum) : Bool := !a.isNan && (b.isNan || b.lt a)

/-- The child that wins under R340, the first among equals. -/
def State.bestChild (s : State) (t : TreeAt) (d : TreeD) (x : Node) : Nat :=
  let score (i : Nat) : FpNum := treeScore d x (s.nodeAt t d i)
  ((x.children.drop 1).foldl (fun (b : Nat × FpNum) i =>
    let v := score i
    if scoreWins v b.2 then (i, v) else b) (x.first, score x.first)).1

/-! ## Descents (R341 to R343) -/

/-- The path of a descent, its end first, and whether it stopped at the depth limit; with it every node read. -/
def State.descend (s : State) (t : TreeAt) (d : TreeD) : Nat → List Nat → List Nat × Bool
  | 0, path => (path, true)
  | fuel + 1, path =>
    let x := s.nodeAt t d (path.headD 0)
    if x.st = 2 then
      if path.length = 4096 then (path, true) else s.descend t d fuel (s.bestChild t d x :: path)
    else (path, false)

/-- Nodes that a descent reads: its path and the children it scores. -/
def State.descentReads (s : State) (t : TreeAt) (d : TreeD) (path : List Nat) : List Nat :=
  path ++ (path.drop 1).flatMap fun i => (s.nodeAt t d i).children

/-- One descent: the entry it writes, the nodes it read, and the tree after it. -/
def State.descent (s : State) (t : TreeAt) : List Byte × List Nat × State :=
  let d := s.treeD t
  let (path, deep) := s.descend t d 4097 [d.root]
  let reads := s.descentReads t d path
  let i := path.headD 0
  let x := s.nodeAt t d i
  let entry (id st : Nat) : List Byte :=
    bytesOf 4 id ++ bytesOf 4 i ++ bytesOf 4 x.action ++ bytesOf 2 (path.length - 1) ++ bytesOf 1 st ++ bytesOf 1 0
  if deep then (entry noNode 3, reads, s)
  else if path.any fun y => decide ((s.nodeAt t d y).vl = 65535) then (entry noNode 4, reads, s)
  else
    let s := path.foldl (fun s y => let n := s.nodeAt t d y; s.putNode t d y { n with vl := n.vl + 1 }) s
    let (st, col) := match x.st with
      | 0 => (0, 0)
      | 3 => (1, 0)
      | _ => (2, 1)
    let s := if x.st = 0 then (let n := s.nodeAt t d i; s.putNode t d i { n with st := 1 }) else s
    (entry (i % pow2 20 + d.gen % 2048 * pow2 20 + col * pow2 31) st, reads, s.putD t 44 (d.opened + 1))

/-- n descents in a row. -/
def State.descents (s : State) (t : TreeAt) : Nat → List Byte × List Nat × State
  | 0 => ([], [], s)
  | n + 1 =>
    let (e, r, s) := s.descent t
    let (es, rs, s) := s.descents t n
    (e ++ es, r ++ rs, s)

/-- The chain of a path id, if the id is valid for the tree (R342), and the nodes read to tell. -/
def State.validPath (s : State) (t : TreeAt) (d : TreeD) (id : Nat) : Bool × List Nat :=
  let e := id % pow2 20
  if nbits id 30 20 ≠ d.gen % 2048 ∨ d.top ≤ e ∨ d.opened = 0 then (false, [])
  else if (s.nodeAt t d e).st = 7 then (false, [e])
  else
    let p := s.chain t d 4097 e
    (p.all fun y => decide (1 ≤ (s.nodeAt t d y).vl), p)

/-! ## Allocation and reclaiming (R338, R339, R359) -/

/-- First fit in the free list: the run, the place of the link that leads to it, and the runs looked at. -/
def State.findRun (s : State) (t : TreeAt) (d : TreeD) (k : Nat) : Nat → Nat → Nat → Option (Nat × Nat) × List Nat
  | 0, _, _ => (none, [])
  | fuel + 1, link, i =>
    if i = noNode then (none, [])
    else
      let x := s.nodeAt t d i
      if k ≤ x.first then (some (i, link), [i])
      else
        let (r, l) := s.findRun t d k fuel (t.node d i) x.parent
        (r, i :: l)

/-- Takes k nodes (R338): the first of them, if there is room, and the nodes read. -/
def State.allocate (s : State) (t : TreeAt) (k : Nat) : Option Nat × List Nat × State :=
  let d := s.treeD t
  let (r, reads) := s.findRun t d k (d.top + 1) (t.desc + 12) d.free
  match r with
  | some (i, link) =>
    let x := s.nodeAt t d i
    if x.first = k then (some i, reads, s.wrN link 4 x.parent)
    else
      let s := (s.wrN (t.node d (i + k)) 8 (x.parent + pow2 32 * (x.first - k))).wrN (t.node d (i + k) + 9) 1 7
      (some i, reads, s.wrN link 4 (i + k))
  | none =>
    if d.top + k ≤ d.cap then (some d.top, reads, s.putD t 8 (d.top + k)) else (none, reads, s)

/-- Child runs of the expanded nodes among a list and their descendants, with every node looked at. -/
def State.runsBelow (s : State) (t : TreeAt) (d : TreeD) : Nat → List Nat → List (Nat × Nat) × List Nat
  | 0, _ => ([], [])
  | _, [] => ([], [])
  | fuel + 1, i :: rest =>
    let x := s.nodeAt t d i
    if x.st = 2 ∧ x.cnt ≠ 0 then
      let (r, l) := s.runsBelow t d fuel (x.children ++ rest)
      ((x.first, x.cnt) :: r, i :: l)
    else
      let (r, l) := s.runsBelow t d fuel rest
      (r, i :: l)

/-- Frees runs: pushed at the head of the free list in ascending order of first index. -/
def State.reclaim (s : State) (t : TreeAt) (runs : List (Nat × Nat)) : State :=
  let d := s.treeD t
  (sortBy (fun (a b : Nat × Nat) => decide (a.1 ≤ b.1)) runs).foldl (fun s r =>
    let s := (List.range r.2).foldl (fun s k =>
      let x := s.nodeAt t d (r.1 + k)
      s.putNode t d (r.1 + k) { x with st := 7 }) s
    let h := s.nodeAt t d r.1
    let s := s.putNode t d r.1 { h with parent := (s.treeD t).free, first := r.2 }
    s.putD t 12 r.1) s

/-! ## Acceptance (R344, R350 to R357) -/

/-- What acceptance gives: buffer writes, status, the nodes read, and the state. -/
structure TreeOut where
  writes : List (Nat × List Byte) := []
  status : Nat := 0
  reads : List Nat := []
  /-- the other slots of the engine whose descriptors were read -/
  slots : List Nat := []
  s : State

/-- tr.init (R351), on the image. -/
def State.treeInit (s : State) (t : TreeAt) (img : List Byte) : TreeOut :=
  let f (o : Nat) : Nat := ofBytes ((img.drop o).take 4)
  let d := s.treeD t
  let finite (b : Nat) : Bool := !fp32.nonFinite b
  let ok := decide (f 0 % 256 = 0 ∧ 0x1000 ≤ f 0 ∧ f 4 ≤ 1048448 ∧ f 0 + 32 * f 4 ≤ pow2 25 ∧ f 24 ≤ 1024 ∧
      1 ≤ f 36 % 128 ∧ f 36 % 128 ≤ 64 ∧ (f 36 = f 36 % 128 ∨ f 36 = f 36 % 128 + 256)) &&
    finite (f 20) && finite (f 28) && finite (f 32)
  let others := (List.range 64).filter fun k => decide (k ≠ t.slot)
  let clash := others.any fun k =>
    let o := s.treeD { t with slot := k }
    decide (o.live = 1 ∧ o.abase < f 0 + 32 * f 4 ∧ f 0 < o.abase + 32 * o.cap)
  if d.live = 1 ∧ d.opened ≠ 0 then { status := 2, s := s }
  else
    let gen := (d.gen + 1) % pow2 32
    if f 4 = 0 then { s := (s.putD t 48 0).putD t 40 gen }
    else if !ok then { status := 6, s := s }
    else if clash then { status := 6, slots := others, s := s }
    else
      let bytes := (img.take 8) ++ bytesOf 4 1 ++ bytesOf 4 noNode ++ bytesOf 4 0 ++ (img.drop 20).take 20 ++
        bytesOf 4 gen ++ bytesOf 4 0 ++ bytesOf 4 1 ++ List.replicate 12 0
      let s := s.wrBytes t.desc bytes
      let d := s.treeD t
      let root : Node :=
        { parent := noNode, first := noNode, cnt := 0, st := 0, vl := 0, n := 0, w := 0, p := 0x3F800000, action := noNode }
      { slots := others, s := s.putNode t d 0 root }

/-- tr.exp (R353), on the child array. -/
def State.treeExp (s : State) (t : TreeAt) (id k : Nat) (arr : List Byte) : TreeOut :=
  let d := s.treeD t
  let e := id % pow2 20
  match s.validPath t d id with
  | (false, seen) => { status := 4, reads := seen, s := s }
  | (true, path) =>
    let x := s.nodeAt t d e
    if id.testBit 31 ∨ x.st ≠ 1 then { status := 5, reads := path, s := s }
    else if d.maxch < k then { status := 6, reads := path, s := s }
    else if k = 0 then { reads := path, s := s.putNode t d e { x with st := 3 } }
    else
      match s.allocate t k with
      | (none, rs, _) => { status := 1, reads := path ++ rs, s := s }
      | (some f, rs, s) =>
        let child (i : Nat) : Node :=
          { parent := e, first := noNode, cnt := 0, st := 0, vl := 0, n := 0, w := 0
            p := ofBytes ((arr.drop (8 * i + 4)).take 4), action := ofBytes ((arr.drop (8 * i)).take 4) }
        let s := (List.range k).foldl (fun s i => s.putNode t d (f + i) (child i)) s
        { reads := path ++ rs, s := s.putNode t d e { x with first := f, cnt := k, st := 2 } }

/-- tr.back and tr.undo (R354). -/
def State.treeResolve (s : State) (t : TreeAt) (id v : Nat) (back : Bool) : TreeOut :=
  let d := s.treeD t
  let e := id % pow2 20
  match s.validPath t d id with
  | (false, seen) => { status := 4, reads := seen, s := s }
  | (true, path) =>
    let s := path.zipIdx.foldl (fun s y =>
      let x := s.nodeAt t d y.1
      let val := fp32.value v
      let add := if d.alt ∧ y.2 % 2 = 1 then val.neg else val
      let x := if back then
          { x with n := min (x.n + 1) 0xFFFFFFFF
                   w := (fp32.finish 1 false 0 0 false (sumNum false [fp32.value x.w, add])).1 }
        else x
      s.putNode t d y.1 { x with vl := x.vl - 1 }) s
    let x := s.nodeAt t d e
    let s := if !id.testBit 31 && decide (x.st = 1) then s.putNode t d e { x with st := 0 } else s
    { reads := path, s := s.putD t 44 (d.opened - 1) }

/-- tr.reuse (R355). -/
def State.treeReuse (s : State) (t : TreeAt) (c : Nat) : TreeOut :=
  let d := s.treeD t
  let x := s.nodeAt t d c
  if d.opened ≠ 0 then { status := 2, s := s }
  else if d.top ≤ c then { status := 6, s := s }
  else if x.st = 7 then { status := 6, reads := [c], s := s }
  else if x.parent ≠ d.root then { status := 5, reads := [c], s := s }
  else
    let r := s.nodeAt t d d.root
    let before := (r.first, c - r.first)
    let after := (c + 1, r.first + r.cnt - (c + 1))
    let sibs := r.children.filter fun i => decide (i ≠ c)
    let (runs, seen) := s.runsBelow t d (d.cap + 1) sibs
    let parts := [(d.root, 1), before, after].filter fun p => decide (p.2 ≠ 0)
    let s := s.reclaim t (parts ++ runs)
    let s := s.putNode t d c { x with parent := noNode }
    { reads := [c, d.root] ++ seen, s := (s.putD t 16 c).putD t 40 ((d.gen + 1) % pow2 32) }

/-- tr.free (R356). -/
def State.treeFree (s : State) (t : TreeAt) (n : Nat) : TreeOut :=
  let d := s.treeD t
  let x := s.nodeAt t d n
  if d.top ≤ n then { status := 6, s := s }
  else if x.st = 7 then { status := 6, reads := [n], s := s }
  else if x.st = 1 then { status := 5, reads := [n], s := s }
  else if x.st = 2 then
    if x.children.any fun i => decide ((s.nodeAt t d i).vl ≠ 0) then { status := 2, reads := n :: x.children, s := s }
    else
      let (runs, seen) := s.runsBelow t d (d.cap + 1) [n]
      let s := s.reclaim t runs
      { reads := seen, s := s.putNode t d n { x with st := 0, first := noNode, cnt := 0 } }
  else if x.st = 3 then { reads := [n], s := s.putNode t d n { x with st := 0, first := noNode, cnt := 0 } }
  else { reads := [n], s := s }

/-- tr.stat (R357). -/
def State.treeStat (s : State) (t : TreeAt) (arg place : Nat) : TreeOut :=
  let d := s.treeD t
  let n := if arg = noNode then d.root else arg
  let x := s.nodeAt t d n
  if d.top ≤ n then { status := 6, s := s }
  else if x.st = 7 then { status := 6, reads := [n], s := s }
  else
    let kids := x.children.map fun i => (i, s.nodeAt t d i)
    let best := kids.foldl (fun (b : Option (Nat × Node)) k =>
      match b with
      | none => some k
      | some o => if o.2.n < k.2.n then some k else b) none
    let head := s.rdBytes (t.node d n) 32 ++ bytesOf 4 (best.elim noNode fun b => b.1) ++
      bytesOf 4 (best.elim noNode fun b => b.2.action) ++ bytesOf 4 x.cnt ++ bytesOf 4 d.gen ++ bytesOf 4 d.opened ++
      bytesOf 4 d.top ++ bytesOf 4 d.free ++ bytesOf 4 d.root
    { writes := [(place, head ++ kids.flatMap fun k => bytesOf 4 k.2.action ++ bytesOf 4 k.2.n)]
      reads := n :: x.children, s := s }

/-- The tree that an operation names. -/
def TreeOp.at' (o : TreeOp) (mode : Nat) : TreeAt :=
  { slice := boraSlice mode o.dev (nbits o.ref 13 8) * pow2 25, slot := nbits o.ref 5 0 }

/-- The bytes of a slice operand as the engine reads them. -/
def TreeOp.operand (o : TreeOp) (s : State) (n : Nat) : List Byte :=
  let core := coreOf o.agent
  (List.range n).flatMap fun i => bytesOf 1 (s.readAt core (dieOfCore core) (o.place + i) 1)

/-- The bytes of slice space that an operation reads as it is accepted. -/
def TreeOp.operandLen (o : TreeOp) : Nat := if o.form = 0 then 64 else if o.form = 2 then 8 * o.z else 0

/-- The operand is read; an uncorrectable error in it is found (R463). -/
def TreeOp.serveOperand (o : TreeOp) (s : State) : Bool × State :=
  (List.range (o.operandLen / 8)).foldl (fun r i =>
    let s := r.2.served (o.place + 8 * i) 8
    let p := kplace (s.route (o.place + 8 * i))
    (r.1 || s.poisoned p 8 || s.crcLost p 8, s.crcDone p 8)) (false, s)

/-- The context of an operation owns the slot that it names (R423). -/
def TreeOp.owned (o : TreeOp) (s : State) : Bool :=
  decide ((64 * nbits o.ref 13 8 + nbits o.ref 5 0) ∈ (s.ctxAt o.dev o.asid).trees)

/-- An operation is accepted: one event on its tree (R344). A slot of another context reads as free (R423). -/
def TreeOp.run (o : TreeOp) (s : State) : TreeOut :=
  let t := o.at' s.mode
  if !o.owned s then { status := 3, s := s }
  else if o.form = 0 then s.treeInit t (o.operand s 64)
  else if (s.treeD t).live ≠ 1 then { status := 3, s := s }
  else
    match o.form with
    | 1 =>
      let (es, rs, s) := s.descents t o.z
      { writes := [(o.place, es)], reads := rs, s := s }
    | 2 => s.treeExp t o.a o.z (o.operand s (8 * o.z))
    | 3 => s.treeResolve t o.a o.b true
    | 4 => s.treeResolve t o.a o.b false
    | 5 => s.treeReuse t o.a
    | 6 => s.treeFree t o.a
    | _ => s.treeStat t o.a o.place

/-- It reads its operand: tr.init its image first, tr.exp its child array once its checks hold and it has its nodes (R351,
R353). -/
def TreeOp.takesOperand (o : TreeOp) (s : State) : Bool :=
  decide (o.form = 0) || (decide (o.form = 2) && decide ((o.run s).status = 0))

/-- It waits at a frozen page that it reads (R267, R295). -/
def TreeOp.stalls (o : TreeOp) (s : State) : Bool :=
  ((List.range (o.operandLen / 8)).any fun i => s.frozen (o.place + 8 * i)) && o.owned s && o.takesOperand s

/-- The bytes of the engine's slice that an operation reads, by what its run says, with the descriptors of other slots. -/
def TreeOp.reads (o : TreeOp) (s : State) : List (Nat × Nat) :=
  let t := o.at' s.mode
  let r := o.run s
  let d := s.treeD t
  (r.reads.map fun i => (t.node d i, 32)) ++ r.slots.map fun k => (({ t with slot := k } : TreeAt).desc, 56)

/-- What an operation reads holds an uncorrectable error; those it finds are counted (R463). Its descriptor comes first, then
its nodes and then the operand, but for the image of tr.init. -/
def TreeOp.finds (o : TreeOp) (s : State) : Bool × State :=
  let t := o.at' s.mode
  let (da, dn) := if o.form = 0 then (t.desc + 40, 16) else (t.desc, 64)
  let (bad, s) := if o.form = 0 then o.serveOperand s else (false, s)
  let s := s.findErrors da dn
  if bad || s.poisoned da dn then (true, s)
  else
    let places := o.reads s
    let s := places.foldl (fun (s : State) p => s.findErrors p.1 p.2) s
    if places.any fun p => s.poisoned p.1 p.2 then (true, s)
    else if o.form = 2 && o.takesOperand s then o.serveOperand s else (false, s)

/-- Acceptance with R348: an error in a descriptor or a node that the operation reads makes it change nothing. DESIGN CHOICE
(log 103): so does an error in its slice-space operand, for which the spec names no outcome. On a slot of another context it
reads nothing: that slot is free to it (R423). -/
def TreeOp.accept (o : TreeOp) (s : State) : List (Nat × List Byte) × Nat × State :=
  if !o.owned s then ([], 3, s)
  else
    let (bad, s) := o.finds s
    if bad then ([], 7, s.noteUnit o.unit (o.at' s.mode).desc)
    else
      let r := o.run s
      (r.writes, r.status, r.s)

/-! ## Instructions (R349) -/

/-- The check of a slice-space operand: alignment, then the segment. -/
def Ix.sliceOperand (i : Ix) (off align n : Nat) (write : Bool) : Option Trap :=
  if off % align ≠ 0 then some (i.trap 4 0 0 off)
  else if n = 0 then none
  else (i.s.rangeCause (i.s.unitAt i.g.unit).dev (FMap.get {} i.g.segs 1) 0 off n write).map fun c => i.trap 3 c 0 off

/-- Words from sX that a form names (R349, R351 to R357): it ignores the others. -/
def treeWords (form : Nat) : Nat := if form = 2 ∨ form = 3 ∨ form = 7 then 3 else 2

/-- The common form of the tr instructions. -/
def treeInstr (s : State) (x y : BitVec 6) (form z : Nat) : Host.Outcome State Fault Refusal :=
  issue s 1 [spanS x.toNat (treeWords form)] [spanS y.toNat 1] fun i =>
    let ref := i.sx x.toNat
    let a := i.sx (x.toNat + 1)
    let b := i.sx (x.toNat + 2)
    let u := i.s.unitAt i.g.unit
    let chk : Option Trap := match form with
      | 0 => i.sliceOperand a 64 64 false
      | 1 => i.sliceOperand a 16 (16 * z) true
      | 2 => i.sliceOperand b 8 (8 * z) false
      | 7 => i.sliceOperand b 32 576 true
      | _ => none
    if i.g.ctrFull 6 || i.heldBack true then .wait
    else if nbits ref 31 14 ≠ 0 ∨ nbits ref 7 6 ≠ 0 ∨ 4 * diesPer i.s.mode ≤ nbits ref 13 8 then i.access 0x38
    else
      match chk with
      | some t => .trap t
      | none =>
        let (tok, s) := i.s.fresh
        let core := coreOf s.cur
        let seg := FMap.get {} i.g.segs 1
        let off := if form = 2 ∨ form = 7 then b else a
        let o : TreeOp :=
          { agent := s.cur, unit := i.g.unit, dev := u.dev, asid := u.asid, form := form, ref := ref, a := a, b := b, z := z
            place := sloc core (seg.base + off), tok := tok }
        let c := s.coreAt core
        let s := s.setCore core { c with trees := c.trees ++ [o] }
        .done (s.setGrp ((s.grp.raiseCtr 6).late tok i.c.slices [.s y.toNat] none))

/-- tr.init (R351). -/
def execTrInit (x y : BitVec 6) (s : State) : Host.Outcome State Fault Refusal := treeInstr s x y 0 0
/-- tr.desc (R352). -/
def execTrDesc (x y : BitVec 6) (n : BitVec 8) (s : State) : Host.Outcome State Fault Refusal := treeInstr s x y 1 n.toNat
/-- tr.exp (R353). -/
def execTrExp (x y : BitVec 6) (k : BitVec 8) (s : State) : Host.Outcome State Fault Refusal := treeInstr s x y 2 k.toNat
/-- tr.back (R354). -/
def execTrBack (x y : BitVec 6) (s : State) : Host.Outcome State Fault Refusal := treeInstr s x y 3 0
/-- tr.undo (R354). -/
def execTrUndo (x y : BitVec 6) (s : State) : Host.Outcome State Fault Refusal := treeInstr s x y 4 0
/-- tr.reuse (R355). -/
def execTrReuse (x y : BitVec 6) (s : State) : Host.Outcome State Fault Refusal := treeInstr s x y 5 0
/-- tr.free (R356). -/
def execTrFree (x y : BitVec 6) (s : State) : Host.Outcome State Fault Refusal := treeInstr s x y 6 0
/-- tr.stat (R357). -/
def execTrStat (x y : BitVec 6) (s : State) : Host.Outcome State Fault Refusal := treeInstr s x y 7 0

/-! ## The event -/

/-- An earlier operation of the same group on the same tree is not yet accepted (R345). -/
def treeBlocked (c : Core) (o : TreeOp) : Bool :=
  c.trees.any fun p => decide (p.agent = o.agent ∧ p.ref = o.ref ∧ p.tok < o.tok) && p.result.isNone

/-- TREE_OPERATION_COMPLETE (R344 to R346): an operation in flight is accepted, and once accepted it completes: its buffer
is written, sY receives the status, the tree counter falls. What it reads or writes in a frozen page waits (R295). -/
def execTreeOperationComplete (s : State) : Host.Outcome State Fault Refusal :=
  event s fun m =>
    match m with
    | .treeOperationComplete core k =>
      let c := s.coreAt core
      match c.trees[k]? with
      | none => some s
      | some o =>
        match o.result with
        | none =>
          if treeBlocked c o || o.stalls s then some s
          else
            let (ws, st, s) := o.accept s
            let c := s.coreAt core
            some (s.setCore core { c with trees := c.trees.map fun (p : TreeOp) =>
              if p.tok = o.tok then { p with result := some (ws, st) } else p })
        | some (ws, st) =>
          let parts := ws.flatMap fun w => (List.range (w.2.length / 8)).map fun i => (w.1 + 8 * i, (w.2.drop (8 * i)).take 8)
          if parts.any fun p => s.frozen p.1 then some s
          else
          let s := parts.foldl (fun (s : State) p => (s.served p.1 8).writeAt o.agent core p.1 8 (ofBytes p.2)) s
          let c := s.coreAt core
          let s := s.setCore core { c with trees := c.trees.filter fun (p : TreeOp) => decide (p.tok ≠ o.tok) }
          some ((s.deliverNow o.agent o.unit o.tok [BitVec.ofNat 32 st]).lower o.agent o.unit 6)
    | _ => none

end Sys2Proof.Machine
end

