-- ==== Sys2Proof/Machine/Check.lean ====
section
/-!
DEFINITION. The check of a whole clause at its fetch (R41): the header (R32, R33, R43), and every refusal that an
instruction's words alone decide (R40, R44, R49, R52, R54, R56, R57, R60, R63, R65, R73, R75, R76, R130, R159, R181,
R195, R215, R220, R230, R231, R238, R244, R248, R278, R303, R332, R358, R389, R400, R419, R447, R462, R474). A word that
the decoder refuses fails the check.
-/
namespace Sys2Proof.Machine

/-! ## The words of a clause, cut into instructions -/

/-- One instruction of a clause as its words stand. -/
structure Raw where
  /-- its number in the clause, a mod prefix counted with its instruction (R41) -/
  idx : Nat
  /-- the mod prefix word (R60) -/
  pre : Option Nat := none
  w : Nat := 0
  /-- the second word of format M -/
  m : Nat := 0
  /-- its words are none of the opcode table's: an unassigned encoding, or a prefix without an instruction -/
  broken : Bool := false
deriving DecidableEq, Repr

def Raw.op (r : Raw) : Nat := r.w >>> 25
def Raw.d (r : Raw) : Nat := nbits r.w 23 16
def Raw.a (r : Raw) : Nat := nbits r.w 15 8
def Raw.b (r : Raw) : Nat := nbits r.w 7 0
def Raw.fn (r : Raw) : Nat := nbits r.w 24 20
def Raw.x (r : Raw) : Nat := nbits r.w 19 14
def Raw.y (r : Raw) : Nat := nbits r.w 13 8
def Raw.z (r : Raw) : Nat := nbits r.w 7 0
def Raw.aop (r : Raw) : Nat := nbits r.m 23 20
def Raw.inv (r : Raw) : Nat := nbits r.m 19 19
def Raw.scope (r : Raw) : Nat := nbits r.m 18 16
def Raw.ord (r : Raw) : Nat := nbits r.m 15 14
def Raw.space (r : Raw) : Nat := nbits r.m 13 11
def Raw.sz (r : Raw) : Nat := nbits r.m 10 8
def Raw.e (r : Raw) : Nat := nbits r.m 7 0
/-- The C field of the prefix, 0 without one. -/
def Raw.c (r : Raw) : Nat := match r.pre with | some p => nbits p 24 17 | none => 0

/-- Formats V and U with an operation of the lanes (R66). -/
def isLaneOp (op : Nat) : Bool := decide (0x08 ≤ op ∧ op ≤ 0x3B)
/-- Format U: B is a function code (R59, R68 to R72). -/
def isUnaryOp (op : Nat) : Bool := decide (op = 0x23 ∨ op = 0x2F ∨ op = 0x3A ∨ op = 0x3B)
/-- The instructions with a third source (R131). -/
def isThreeOp (op : Nat) : Bool := [0x0D, 0x1A, 0x1B, 0x27, 0x32, 0x35, 0x36, 0x37].contains op
/-- The write form of movs (R72). -/
def Raw.movsWrite (r : Raw) : Bool := decide (r.op = 0x3B) && r.b.testBit 7

/-- The operand codes of the fields that an instruction's format gives it (R46). -/
def Raw.fields (r : Raw) : List Nat :=
  (if isLaneOp r.op then [r.d, r.a] ++ (if isUnaryOp r.op then [] else [r.b])
   else if isFormatM r.op then [r.d, r.a, r.b, r.e]
   else []) ++ (if r.pre.isSome then [r.c] else [])

/-- It has a literal word (R46). -/
def Raw.literal (r : Raw) : Bool := r.fields.contains 0xFF

/-- A second word of format M with nothing in it that could fail: global space, 32 bits, relaxed. It stands for one that
lies past the clause's last word, so that the first word is checked by itself. -/
def plainSecond (op : Nat) : Nat := if op = 0x42 then 0x12D4 else 0x1200

/-- Cuts words into instructions; the flag says that an instruction runs past the last word (R32). Of an instruction of
format M whose second word lies there the first word is checked (R41). -/
def cutWords : Nat → Nat → List Word → List Raw × Bool
  | 0, _, _ => ([], false)
  | _, _, [] => ([], false)
  | fuel + 1, k, w :: t =>
    let (pre, body) := if w.toNat >>> 25 = 0x07 then (some w.toNat, t) else (none, w :: t)
    match body with
    | [] => ([{ idx := k, pre := pre, broken := true }], false)
    | i :: rest =>
      let op := i.toNat >>> 25
      if isFormatM op && rest.isEmpty then
        ([{ idx := k, pre := pre, w := i.toNat, m := plainSecond op
            broken := (decode [i, BitVec.ofNat 32 (plainSecond op)]).isNone }], true)
      else
        let second := if isFormatM op then (rest.headD 0).toNat else 0
        let r : Raw := { idx := k, pre := pre, w := i.toNat, m := second
                         broken := (decide (op = 0x07)) || (decode body).isNone }
        let rest := if isFormatM op then rest.drop 1 else rest
        if r.broken then ([r], false)
        else if r.literal then
          if rest.isEmpty then ([r], true)
          else
            let (l, longer) := cutWords fuel (k + 1) (rest.drop 1)
            (r :: l, longer)
        else
          let (l, longer) := cutWords fuel (k + 1) rest
          (r :: l, longer)

/-! ## What an instruction uses -/

/-- The pipe of an instruction as its bit in PIPES (R31, R33): 1 V, 2 U, 4 M, 8 X, 0 none. -/
def Raw.pipe (r : Raw) : Nat :=
  if r.op = 0x01 then 0
  else if r.op < 0x07 then 2
  else if 0x38 ≤ r.op ∧ r.op ≤ 0x3A then 1
  else if isLaneOp r.op then (if uniformDest r.d then 2 else 1)
  else if 0x60 ≤ r.op ∧ r.op ≤ 0x67 then 4
  else 8

/-- It must end its clause (R40). -/
def Raw.ending (r : Raw) : Bool :=
  decide ((0x02 ≤ r.op ∧ r.op ≤ 0x06) ∨ r.op = 0x72 ∨ r.op = 0x74 ∨ r.op = 0x52 ∨ r.op = 0x53) ||
  (decide (r.op = 0x78) && [0, 1, 2, 3, 4, 8].contains r.fn) ||
  (decide (r.op = 0x54) && [2, 3].contains r.fn) || (decide (r.op = 0x55) && [3, 4].contains r.fn) ||
  decide ((r.op = 0x51 ∧ r.fn = 2) ∨ (r.op = 0x66 ∧ r.fn = 0) ∨ (r.op = 0x79 ∧ r.fn = 0)) ||
  decide (r.op = 0x70 ∧ r.fn = 1 ∧ r.z % 2 = 1)

/-- It is uniform (R49). -/
def Raw.uniform (r : Raw) : Bool :=
  if isLaneOp r.op then r.movsWrite || uniformDest r.d
  else if isFormatM r.op then
    ([0x40, 0x42, 0x43].contains r.op && isS r.d) || [0x45, 0x46].contains r.op
  else true

/-- Registers per access size (R52, R231). -/
def szRegs (sz : Nat) : Nat := if sz ≤ 2 then 1 else if sz = 3 then 2 else if sz = 4 then 4 else 8

/-- iadd64 and ballot write a pair (R139, R155). -/
def Raw.pairs (r : Raw) : Bool := decide (r.op = 0x1C ∨ (r.op = 0x3A ∧ r.b = 0))

/-- The sources of an instruction with an operand code of R44, each with its number of registers. -/
def Raw.sources (r : Raw) : List Span :=
  if isLaneOp r.op then
    (if r.op = 0x3B ∧ !r.movsWrite then [] else [(r.a, if r.op = 0x1C then 2 else 1)]) ++
    (if isUnaryOp r.op then [] else [(r.b, if r.op = 0x1C ∧ r.b < 0xC0 then 2 else 1)]) ++
    (if r.pre.isSome && isThreeOp r.op then [(r.c, 1)] else [])
  else if isFormatM r.op then
    [(r.b, 1)] ++ (if r.op = 0x41 ∨ r.op = 0x44 then [dataSpan r.d (1 <<< r.sz)] else []) ++
    (if r.op = 0x42 then [dataSpan r.e (1 <<< r.sz)] else [])
  else []

/-- The s-registers at X and at Y that a format-E instruction names, and its v-registers and tile (R64). -/
def Raw.engineSpans (r : Raw) : List Span :=
  let xy (n m : Nat) : List Span := [spanS r.x n, spanS r.y m]
  match r.op with
  | 0x04 => if r.fn = 1 then [spanS 62 1] else xy 1 0
  | 0x05 => if r.z % 2 = 1 then [spanS r.x 1, spanS 62 1] else xy 1 0
  | 0x51 => if r.fn = 0 then xy 1 4 else if r.fn = 4 then xy 1 1 else xy 1 0
  | 0x54 => if r.fn = 2 ∨ r.fn = 3 then xy 1 0 else xy 1 1
  | 0x55 => if r.fn = 4 then [] else xy 1 0
  | 0x56 => if r.fn = 0 then xy 4 1 else xy 1 4
  | 0x58 => xy 1 0
  | 0x59 => xy 2 0
  | 0x5A => xy 4 1 ++ (if r.fn ≤ 5 then [(256 + r.z % 4, 1)] else [])
  | 0x5B => if r.fn = 0 then xy 1 1 else xy 1 0
  | 0x5C => xy 1 1
  | 0x5D => xy 1 1
  | 0x60 => if r.fn = 0 then xy 1 1 else []
  | 0x61 => xy 1 1
  | 0x62 => xy 1 1
  | 0x63 => xy 1 1
  | 0x64 => xy 1 0
  | 0x65 => xy 1 (if r.z >>> 5 = 4 then 2 else if 2 ≤ r.z >>> 5 then 1 else 0)
  | 0x67 => xy 1 1
  | 0x68 => if r.fn = 0 then xy 8 0 else spanOf r.z 3 :: xy 1 0
  | 0x69 => spanOf r.z (if r.fn ≤ 1 then 8 else if r.fn = 2 then 20 else 16) :: if r.fn ≤ 1 then xy 2 1 else []
  | 0x6C => xy 4 1
  | 0x70 => if r.fn = 0 then xy 1 1 else xy 1 0
  | 0x71 => if r.fn = 0 ∨ r.fn = 5 then xy 2 1 else if r.fn = 3 then xy 4 1 else xy 1 1
  | 0x72 => if r.fn = 1 then xy 1 0 else []
  | 0x78 => if r.fn = 5 then xy 4 0 else if r.fn = 6 ∨ r.fn = 7 then xy 2 0 else if r.fn = 8 then xy 2 1 else []
  | 0x79 =>
    if r.fn = 1 then xy 2 1 else if r.fn = 3 then spanOf r.z 1 :: xy 2 2
    else if r.fn = 4 ∨ r.fn = 5 then spanOf r.z 1 :: xy 2 0 else if r.fn = 6 then xy 1 1 else []
  | _ => []

/-- Every register span an instruction reads or writes. -/
def Raw.spans (r : Raw) : List Span :=
  if isLaneOp r.op then
    (if r.movsWrite then [] else [(r.d, if r.pairs then 2 else if r.op = 0x23 ∧ r.b = 0x0B then 8 else 1)]) ++
    (if r.op = 0x23 ∧ r.b = 0x0A then [(r.a, 8)] else r.sources)
  else if isFormatM r.op then
    [(r.a, if r.space = 3 then 2 else 1)] ++ r.sources ++
    (if r.op = 0x45 ∨ r.op = 0x46 then [(256 + r.d % 4, 1)]
     else if r.op = 0x47 ∨ r.op = 0x41 ∨ r.op = 0x44 then [] else [(r.d, szRegs r.sz)])
  else if r.op = 0x02 ∨ r.op = 0x03 then
    [(predCode (nbits r.w 24 21), 1)] ++ (if r.op = 0x03 then [spanS 62 1] else [])
  else r.engineSpans
where
  predCode (k : Nat) : Nat := if k < 8 then 0xC4 + k else 0xCC + (k - 8)

/-- It writes a latch (R55). -/
def Raw.latches (r : Raw) : Bool := isLaneOp r.op && !r.movsWrite

/-! ## What the words alone decide -/

/-- A code legal as a source (R44). -/
def sourceCode (c : Nat) : Bool := decide (c ≠ 0xDF ∧ ¬(0xF0 ≤ c ∧ c ≤ 0xFE))
/-- A code legal as a destination (R44). -/
def destCode (c : Nat) : Bool := decide (c < 0xC0 ∨ (0xC4 ≤ c ∧ c ≤ 0xD2))

/-- A pair, or a group of four or eight, begins at a multiple of its size (R52). -/
def alignedSpan (x : Span) : Bool := decide (x.2 = 1 ∨ 0xC0 ≤ x.1 ∨ x.1 % x.2 = 0)

/-- A mod prefix with a nonzero field that its instruction does not honour, RND 7, or no lane instruction behind it
(R60, R61, R130). -/
def Raw.badMod (r : Raw) : Bool :=
  match r.pre with
  | none => false
  | some p =>
    let f (hi lo : Nat) : Bool := decide (nbits p hi lo ≠ 0)
    let o := r.op
    let sat := [0x08, 0x09, 0x0A, 0x0D].contains o
    let fused := [0x27, 0x32, 0x35, 0x36, 0x37].contains o
    let arith := [0x24, 0x25, 0x26, 0x30, 0x31, 0x33, 0x34].contains o || fused
    let cmp := decide (0x28 ≤ o ∧ o ≤ 0x2E)
    let un := decide (o = 0x2F ∧ r.b ≠ 0x09)
    let three := isThreeOp o
    decide (p % 16 ≠ 0 ∨ nbits p 16 14 = 7 ∨ o < 0x08 ∨ 0x37 < o) ||
    (f 24 17 && !three) || (f 16 14 && !(arith || un)) || (f 13 13 && !(arith || un || sat)) ||
    (f 12 12 && !(arith || un || cmp)) || (f 11 11 && !(arith || cmp)) || (f 10 10 && !fused) ||
    (f 9 9 && !(arith || un || cmp)) || (f 8 8 && !(arith || cmp)) || (f 7 4 && !(arith || un))

/-- The refusals of the lane instructions (R139, R143, R149, R153 to R156, R159). An iadd64 with a v destination may read
an even s-register pair (DEDUCED, log 100). -/
def Raw.badLane (r : Raw) : Bool :=
  let plain (c : Nat) : Bool := isConst c || isLit c
  (!r.movsWrite && !destCode r.d) ||
  (match r.op with
  | 0x1C => decide (0xC0 ≤ r.d ∨ 0xC0 ≤ r.a) || !(decide (r.b < 0xC0) || plain r.b)
  | 0x23 => (decide (r.b = 0x0A) && ! [0xC4, 0xCC].contains r.a) || (decide (r.b = 0x0B) && ! [0xC4, 0xCC].contains r.d)
  | 0x2F => decide (0x40 ≤ r.b) && decide (r.b % 16 = 0 ∨ r.b % 16 = 15)
  | 0x38 => uniformDest r.d
  | 0x39 => uniformDest r.d || !(isS r.b || plain r.b)
  | 0x3A => (decide (r.b = 0) && decide (0xC0 ≤ r.d)) || ([0x0B, 0x0C].contains r.b && !isV r.d)
  | 0x3B => if r.movsWrite then ! [6, 7].contains (r.b % 128) else decide (7 < r.b)
  | _ => false)

/-- The sizes an atomic operation takes (R238). -/
def atomSizes (aop : Nat) : List Nat := if [0x1, 0xB, 0xC, 0xD, 0xE].contains aop then [2] else [2, 3]

/-- The refusals of format M (R62, R230, R231, R238, R248). -/
def Raw.badMem (r : Raw) : Bool :=
  let o := r.op
  let spaces : List Nat :=
    if o = 0x40 then [0, 1, 2, 3, 4, 5, 6] else if o = 0x41 ∨ o = 0x42 then [0, 1, 2, 3, 6]
    else if o = 0x43 ∨ o = 0x44 then [1, 2] else if o = 0x47 then [2, 3] else [1, 2, 3]
  let sizes : List Nat :=
    if o = 0x40 ∨ o = 0x41 then (if r.space = 6 ∨ r.space = 5 then [0, 1, 2, 3] else [0, 1, 2, 3, 4, 5])
    else if o = 0x42 then atomSizes r.aop else if o = 0x43 ∨ o = 0x44 then [2, 3] else [2]
  let orders : List Nat :=
    if o = 0x47 ∨ (o = 0x40 ∧ (r.space = 4 ∨ r.space = 5)) then [0]
    else if o = 0x40 ∨ o = 0x43 ∨ o = 0x45 then [0, 1] else if o = 0x42 then [0, 1, 2, 3] else [0, 2]
  let wide := decide (r.sz = 3)
  !spaces.contains r.space || !sizes.contains r.sz || !orders.contains r.ord ||
  decide (5 < r.scope ∨ (o = 0x47 ∧ r.scope ≠ 0)) ||
  (decide (r.inv = 1) && !(decide ((o = 0x40 ∨ o = 0x45) ∧ r.ord = 0))) ||
  (decide (o ≠ 0x42) && decide (r.e ≠ 0)) || !isS r.a || decide (r.space = 3 ∧ r.a % 2 = 1) ||
  (if o = 0x40 ∨ o = 0x42 ∨ o = 0x43 then
    decide (0xC0 ≤ r.d) || (isS r.d && !(uniformCode r.b && (decide (o ≠ 0x42) || uniformCode r.e)))
   else if o = 0x41 ∨ o = 0x44 then
    (wide && !(decide (r.d < 0xC0) || isConst r.d || isLit r.d)) || decide (3 < r.sz ∧ 0xC0 ≤ r.d)
   else if o = 0x47 then decide (r.d ≠ 0)
   else decide (4 ≤ r.d) || !uniformCode r.b) ||
  (decide (o = 0x42) && wide && !(decide (r.e < 0xC0) || isConst r.e || isLit r.e))

/-- The refusals of mdrn (R188, R195). -/
def badDrain (add : Bool) (y z : Nat) : Bool :=
  let dst := z >>> 5
  let cvt := nbits z 4 2
  decide (4 < dst ∨ cvt = 7) || (decide (z % 4 ≠ 0) && [0, 5, 6].contains cvt) ||
  (decide (dst = 0) && ! [0, 6].contains cvt) || (decide (dst = 1) && ! [1, 2, 3, 4, 5].contains cvt) ||
  (add && (decide (dst = 1) || [3, 4, 5].contains cvt)) || decide (dst = 4 ∧ y % 2 = 1) || decide (dst < 2 ∧ y ≠ 0)

/-- The Z of a ray form (R215): its registers lie in v0 to v63 or in one extended block. -/
def badRayZ (z n align : Nat) : Bool :=
  decide (0x80 ≤ z ∨ z % align ≠ 0) ||
  (if z < 64 then decide (63 < z + n - 1) else decide ((z - 64) / 16 ≠ (z + n - 1 - 64) / 16))

/-- The numbers of the control registers (R429, R456). -/
def csrNumbers : List Nat :=
  [0x00, 0x08, 0x10, 0x11, 0x12, 0x13, 0x20, 0x21, 0x30, 0x31, 0x32, 0x33, 0x40, 0x41] ++
  [0x80, 0x81, 0x82, 0x83, 0x84, 0x85, 0x88, 0x89, 0x8A, 0x90, 0x91, 0x92, 0x93, 0xA0, 0xA1, 0xA2, 0xA3]

/-- The refusals of format E that the decoder leaves (R195, R220, R278, R303, R332, R358, R389, R419, R447, R462). -/
def Raw.badEngine (r : Raw) : Bool :=
  let odd (v : Nat) : Bool := decide (v % 2 = 1)
  let four (v : Nat) : Bool := decide (v % 4 ≠ 0)
  match r.op with
  | 0x50 => decide (5 < r.fn % 8)
  | 0x51 => (decide (r.fn = 0) && four r.y) || (decide (r.fn ≤ 1) && decide (3 < r.z))
  | 0x52 => decide (r.fn = 0 ∨ 7 < r.fn)
  | 0x54 => decide (63 < r.z)
  | 0x55 => decide (63 < r.z)
  | 0x56 => if r.fn = 0 then four r.x else four r.y || decide (60 < r.y)
  | 0x59 => odd r.x
  | 0x5A => four r.x || ([0, 1, 4].contains r.fn && decide (nbits r.z 5 4 = 3 ∨ nbits r.z 3 2 = 3))
  | 0x5B => decide (r.fn = 1 ∧ 63 < r.z)
  | 0x60 => decide (15 < r.z)
  | 0x65 => badDrain (decide (8 ≤ r.fn)) r.y r.z
  | 0x68 => if r.fn = 0 then decide (r.x % 8 ≠ 0) else !isV r.z || four r.z
  | 0x69 =>
    (decide (r.fn ≤ 1) && odd r.x) ||
      (if r.fn ≤ 1 then badRayZ r.z 8 8 else if r.fn = 2 then badRayZ r.z 20 4 else badRayZ r.z 16 4)
  | 0x6C => four r.x || decide ((r.fn = 1 ∧ r.z = 0) ∨ (r.fn = 2 ∧ 64 < r.z))
  | 0x70 => decide (r.fn = 0 ∧ (r.z = 0 ∨ 64 < r.z))
  | 0x71 => if r.fn = 3 then four r.x || ! [2, 3].contains r.z else decide (r.fn = 0 ∨ r.fn = 5) && odd r.x
  | 0x74 => decide (r.z = 0)
  | 0x78 =>
    if r.fn = 5 then four r.x || decide (6 < r.z)
    else if r.fn = 6 ∨ r.fn = 7 then odd r.x || !csrNumbers.contains r.z
    else decide (r.fn = 8) && odd r.x
  | 0x79 =>
    if r.fn = 1 then odd r.x
    else if r.fn = 3 then odd r.x || odd r.y || !isS r.z
    else decide (r.fn = 4 ∨ r.fn = 5) && (odd r.x || !isS r.z)
  | _ => false

/-- The bit of feature word 0 that an instruction needs (R76). -/
def Raw.feature (r : Raw) : Nat :=
  let o := r.op
  if o = 0x2F ∧ [0x45, 0x46, 0x47, 0x65, 0x66, 0x67].contains r.b then 1
  else if 0x60 ≤ o ∧ o ≤ 0x67 then 2
  else if o = 0x68 then 3
  else if o = 0x69 then 4
  else if o = 0x6C then 5
  else if o = 0x5A ∨ o = 0x5B then 6
  else if o = 0x56 ∨ o = 0x5C ∨ o = 0x70 ∨ o = 0x71 then 7
  else if o = 0x5D then 8
  else if o = 0x78 ∧ r.fn = 8 then 9
  else if o = 0x79 ∧ 3 ≤ r.fn then 10
  else 0

/-- It is privileged (R75). -/
def Raw.privileged (r : Raw) : Bool :=
  decide (r.op = 0x53 ∨ (r.op = 0x79 ∧ r.fn ≠ 0) ∨ (r.op = 0x78 ∧ (r.fn = 1 ∨ r.fn = 3 ∨ 5 ≤ r.fn)))

/-- An instruction that the steer thread may not hold (R400). A collective names its tile in an immediate field and is
refused at issue instead. -/
def Raw.badSteer (r : Raw) : Bool :=
  let codes := if isLaneOp r.op || isFormatM r.op then r.sources.map Prod.fst ++ [r.d] else []
  (decide (r.op ≠ 0x5A) && r.spans.any fun x => isV x.1 || isB x.1 || isP x.1 || isTile x.1 || decide (256 ≤ x.1)) ||
  codes.any (fun c => decide (c = 0xDC ∨ c = 0xDD)) ||
  ((isLaneOp r.op || isFormatM r.op) && !r.uniform &&
    !((decide (r.op = 0x41 ∨ r.op = 0x44)) && uniformCode r.d && uniformCode r.a && uniformCode r.b)) ||
  decide (r.op = 0x68 ∨ r.op = 0x69 ∨ r.op = 0x74) || r.movsWrite

/-- The conditions under which a clause is fetched. -/
structure FetchAs where
  priv : Bool
  steer : Bool
  /-- the accepted feature word 0 (R76) -/
  feat : Nat
  /-- the mapped extended blocks (R54) -/
  blocks : BitVec 4
deriving DecidableEq, Repr

/-- The instruction by itself is refused as ILLEGAL. -/
def Raw.illegal (r : Raw) (f : FetchAs) : Bool :=
  r.broken || r.badMod || !f.feat.testBit r.feature || (f.steer && r.badSteer) ||
  (r.sources.any fun x => !sourceCode x.1) ||
  (if isLaneOp r.op then
    r.badLane || (r.movsWrite && r.w.testBit 24) || !alignedSpan (r.d, if r.pairs then 2 else 1) ||
      !(r.sources.all alignedSpan) ||
      (r.uniform && decide (r.op ≠ 0x3A) && r.sources.any fun x => !uniformCode x.1)
   else if isFormatM r.op then r.badMem || !(r.spans.all alignedSpan)
   else r.badEngine) ||
  (r.spans.any fun x => decide (x.1 < 0x80) &&
    (List.range x.2).any fun i => decide (64 ≤ x.1 + i) && !f.blocks.getLsbD ((x.1 + i - 64) / 16))

/-! ## The clause as a whole -/

/-- Every register span an instruction reads, and those it writes: words that a collective or tree form does not name are
ignored (R321, R349); WS suppresses the write of its destination (R55), which
is then read only as the third source of an instruction without a prefix (R131). -/
def Raw.touched (r : Raw) : List Span :=
  if isLaneOp r.op && r.w.testBit 24 then
    (if r.op = 0x23 ∧ r.b = 0x0A then [(r.a, 8)] else r.sources) ++
      (if isThreeOp r.op && r.pre.isNone then [(r.d, 1)] else [])
  else if r.op = 0x5A then [spanS r.x (collWords r.fn), spanS r.y 1] ++ (if r.fn ≤ 5 then [(256 + r.z % 4, 1)] else [])
  else if r.op = 0x6C then [spanS r.x (treeWords r.fn), spanS r.y 1]
  else r.spans

/-- The registers that an ldt.ff or ldt.fe leaves outstanding (R244). -/
def Raw.parkedDest (r : Raw) : List Span :=
  if r.op = 0x43 ∧ r.aop ≤ 1 then [(r.d, szRegs r.sz)] else []

def spansMeet (x y : Span) : Bool :=
  decide (x.1 < y.1 + y.2 ∧ y.1 < x.1 + x.2) ||
  (List.range y.2).any fun i => spanHas x (y.1 + i)

/-- A failure: index and class, ILLEGAL 1 or PRIV 2 (R41). -/
abbrev Failure := Nat × Nat

/-- The failures of instruction `r` with those before and behind it; `longer` says that the clause has words beyond those cut.
A word of an mma whose own fields break R195 still pairs with an mloop: the failure is its own. -/
def rawFailures (f : FetchAs) (base : Nat) (longer : Bool) (before : List Raw) (r : Raw) (behind : List Raw) : List Failure :=
  let target : Int := (base : Int) + 4 * sintOf 20 (nbits r.w 19 0)
  let start := base / 4096 * 4096
  let bad := r.illegal f ||
    (decide (r.op = 0x02 ∨ r.op = 0x03) && decide (target < start ∨ (start : Int) + 4096 ≤ target)) ||
    (r.sources.any fun x => isB x.1 && !(before.any fun q => q.latches && decide (q.idx % 4 = x.1 - 0xC0))) ||
    (r.ending && (longer || !behind.isEmpty)) ||
    (decide (r.op = 0x63) && !(match behind with | q :: _ => decide (q.op = 0x62 ∧ nbits q.w 24 20 < 8) | [] => false)) ||
    (before.any fun q => q.parkedDest.any fun x => r.touched.any fun y => spansMeet y x)
  (if bad then [(r.idx, 1)] else []) ++ (if r.privileged && !r.broken && !f.priv then [(r.idx, 2)] else [])

def allFailures (f : FetchAs) (base : Nat) (longer : Bool) : List Raw → List Raw → List Failure
  | _, [] => []
  | before, r :: t => rawFailures f base longer before r t ++ allFailures f base longer (before ++ [r]) t

/-- The header's own failures (R31, R32, R33, R43, R400), recorded at index 15. A guard names a p-register, which the steer
thread may not. -/
def headerBad (f : FetchAs) (base hdr : Nat) (raws : List Raw) (longer : Bool) : Bool :=
  let fld := nbits hdr
  let n := fld 3 0
  decide (fld 31 28 ≠ 0xC ∨ n = 0) || longer ||
  decide ((fld 10 8 = 0 ∧ fld 14 11 ≠ 0) ∨ (fld 17 15 = 0 ∧ fld 21 18 ≠ 0) ∨ (fld 23 23 = 0 ∧ fld 27 24 ≠ 0)) ||
  decide (base / 4096 ≠ (base + 4 * n) / 4096) ||
  decide (raws.foldl (fun m r => m ||| r.pipe) 0 ≠ fld 7 4) ||
  (f.steer && decide (fld 7 4 &&& 5 ≠ 0 ∨ fld 23 23 = 1))

/-- The check of a whole clause (R41): none, or the class and the index of the failure recorded. `words` are the words
behind the header; those beyond the segment's end are not read (R43). -/
def clauseCheck (f : FetchAs) (base : Nat) (hdr : Word) (words : List Word) : Option (Nat × Nat) :=
  if nbits hdr.toNat 31 28 ≠ 0xC then some (1, 15)
  else
    let room := 1023 - base % 4096 / 4
    let (raws, longer) := cutWords 16 0 (words.take room)
    let fs := allFailures f base (longer || decide (room < words.length)) [] raws ++ (if headerBad f base hdr.toNat raws longer then [(15, 1)] else [])
    match fs with
    | [] => none
    | x :: t =>
      let low := t.foldl (fun m y => min m (4 * y.1 + y.2)) (4 * x.1 + x.2)
      some (low % 4, low / 4)

/-! ## The conditions on the first instruction's issue -/

/-- Entries of the matrix command queue that a clause takes (R173, R174): an mloop goes with its mma, mtake takes none,
and mbat and mgive close a batch, which takes one only if it holds a command. -/
def clauseEntries (openCmds : Nat) : List Raw → Nat
  | [] => 0
  | r :: t =>
    if r.pipe ≠ 4 ∨ r.op = 0x63 ∨ (r.op = 0x66 ∧ r.fn = 0) then clauseEntries openCmds t
    else if r.op = 0x64 ∨ (r.op = 0x66 ∧ r.fn = 1) then (if openCmds > 0 then 1 else 0) + clauseEntries 0 t
    else 1 + clauseEntries (openCmds + 1) t

/-- Slots of the copy engine that a clause takes (R313). -/
def clauseSlots (raws : List Raw) : Nat := (raws.filter fun r => decide (r.op = 0x58 ∨ r.op = 0x59)).length

end Sys2Proof.Machine
end

