-- ==== Sys2Proof/Machine/Work.lean ====
section
/-!
DEFINITION. Work levels, launches, tasks, the dispenser and version objects (R361 to R382, R385 to R387, R466).
-/
namespace Sys2Proof.Machine

/-! ## Levels in a tree -/

/-- The root of a level's tree. -/
def State.lvRoot (s : State) (dev : Nat) : Nat → Nat → Nat
  | 0, l => l
  | n + 1, l => let p := s.lvParent dev l; if p = 0xFFFFFFFF then l else s.lvRoot dev n p

/-- The context whose job is the root of a level's tree. -/
def State.lvAsid (s : State) (dev l : Nat) : Nat :=
  let root := s.lvRoot dev 5 l
  ((s.ctxs.find? fun p => decide (p.1 / 256 = dev ∧ p.2.job = root)).map fun p => p.1 % 256).getD 0

/-- A running level by the place of its object. -/
def State.levelAt (s : State) (place : Nat) : Option (Nat × Nat) := s.levels.find? fun p => decide (s.lvAt p.1 p.2 = place)

/-! ## The end of a level (R363, R364) -/

/-- No operation of a unit's groups is in flight on its core. -/
def State.unitQuiet (s : State) (uid : Nat) : Bool :=
  let u := s.unitAt uid
  let c := s.coreAt u.core
  let mine (x : Nat) : Bool := decide (x = uid)
  !(c.copies.any fun k => mine k.unit) && !(c.shelved.any fun k => mine k.unit) && !(c.hg.any fun k => mine k.unit) &&
    !(c.rays.any fun k => mine k.unit) && !(c.trees.any fun k => mine k.unit) && !(c.mq.any fun k => mine k.unit) &&
    !(c.batches.any fun k => mine k.unit) && !(c.addons.any fun k => mine k.unit) &&
    !(s.colls.any fun k => mine k.unit) && !(s.stalled.any fun k => mine k.unit) &&
    !(s.parked.any fun r => mine r.unit && (match r.kind with
      | .operand _ _ _ => false
      | _ => true)) &&
    u.slots.all fun a => decide ((s.grpOf a).unit ≠ uid ∨ (s.grpOf a).outs = [])

/-- What is left in a slot of a group whose unit has ended: the values of its registers, until another group starts there. -/
def Group.husk (g : Group) : Group :=
  { v := g.v, s := g.s, p := g.p, q := g.q, t := g.t, blocks := g.blocks, fflags := g.fflags, fmode := g.fmode, poison := g.poison
    soft := g.soft }

/-- A unit that has ended leaves its core: slots, records, bindings and declarations are free again, its entries in group
objects are ended, and its node's dispatcher acts. -/
def State.retireUnit (s : State) (uid : Nat) : State :=
  let u := s.unitAt uid
  let s := u.slots.foldl (fun s a => if (s.grpOf a).unit = uid then s.setGrpOf a (s.grpOf a).husk else s) s
  let c := s.coreAt u.core
  let s := s.setCore u.core
    { c with recs := if u.started && !u.away then c.recs.filter fun p => !u.mrec.getLsbD p.1 else c.recs }
  let s := s.dropBinds u.core fun b => decide (b.unit = uid)
  let s := { s with decls := s.decls.filter fun d => decide (d.unit ≠ uid) }
  let s := { s.endMembers uid with units := s.units.del uid }
  match u.node with
  | none => s
  | some n =>
    let x := s.nodeSt u.dev n
    (s.setNode u.dev n { x with running := x.running.filter fun p => decide (p.2 ≠ uid) }).dispatch u.dev n

/-- The parent's part of an end (R363 step 3). -/
def State.endToward (s : State) (dev parent : Nat) (err : Bool) : State :=
  let s := if parent = 0xFFFFFFFF then s else s.findErrors (s.lvAt dev parent) 64
  if parent = 0xFFFFFFFF ∨ s.lvBad dev parent then s
  else
    let s := s.lvAdd dev parent (-1)
    if err then s.lvErrUp dev parent else s

/-- The level is due to end: closed with CTR 0 and, for a unit, no operation left; while its page is frozen the end waits
(R295). A unit whose object R466 has rewritten leaves its core once its groups and operations are gone. -/
def State.levelDue (s : State) (dev l : Nat) : Bool :=
  let unit := s.unitOfLevel dev l
  let quiet := match unit with
    | some uid => s.unitQuiet uid
    | none => true
  if s.lvBroken dev l then
    (match unit with
     | some uid => quiet && s.unitGone uid
     | none => false)
  else s.lvRunning dev l && s.lvFlag dev l 1 && decide (s.lvCtr dev l = 0) && quiet && !s.poisoned (s.lvAt dev l) 64 &&
    !s.lvFrozen dev l

/-- What its writes overwrote is kept no longer than a launch runs (R237). -/
def State.forgetLaunch (s : State) (dev l : Nat) : State :=
  let left := s.since.filter fun p => decide ((p.1, p.2.1) ≠ (dev, l))
  { s with since := left, past := if left = [] then [] else s.past }

/-- The status a level ends with (R363). -/
def State.endStatus (s : State) (dev l : Nat) : Nat :=
  let err := s.lvFlag dev l 4 || decide (s.lvErr dev l ≠ 0)
  match s.unitOfLevel dev l with
  | some uid =>
    let u := s.unitAt uid
    if err || u.errored then 4 else if u.cancelled || !u.started then 3 else 2
  | none => if s.lvFlag dev l 0 then 3 else if err then 4 else 2

/-- A level ends (R363, R364, R381). -/
def State.endLevel (s : State) (dev l : Nat) : State :=
  let unit := s.unitOfLevel dev l
  let s := { s with levels := s.levels.filter fun p => decide (p ≠ (dev, l)) }
  let s := s.forgetLaunch dev l
  if s.lvBroken dev l then unit.elim s s.retireUnit
  else
    let st := s.endStatus dev l
    let s := match unit with
      | some uid => s.releaseAt (s.unitAt uid).core 4
      | none => s
    let parent := s.lvParent dev l
    let contain := s.lvFlag dev l 3
    let s := s.wrN (s.lvAt dev l + 5) 1 st
    let s := s.setTag (s.lvAt dev l) true
    let s := s.endToward dev parent (decide (st = 4) && !contain)
    let s := s.endVersions dev l (decide (st = 2))
    unit.elim s s.retireUnit

/-- LEVEL_END (R363). -/
def execLevelEnd (s : State) : Host.Outcome State Fault Refusal :=
  event s fun m =>
    match m with
    | .levelEnd place =>
      match s.levelAt place with
      | some (dev, l) => some (if s.levelDue dev l then s.endLevel dev l else s)
      | none => some s
    | _ => none

/-! ## An error in a level object (R466) -/

/-- The home finds an uncorrectable error in a level object. -/
def State.breakLevel (s : State) (dev l : Nat) : State :=
  let a := s.lvAt dev l
  let lost := s.poisoned a 8
  let kind := if lost then 0 else s.lvKind dev l
  let flags := if lost then 0 else s.lvFlags dev l
  let parent := s.lvParent dev l
  let below := s.lvDescendants dev l
  let s := s.noteEcc dev (s.lvAsid dev l) l l
  let s := (s.wrN a 8 (0xFFFFFFFF + pow2 32 * (kind + 256 * 4 + 65536 * (flags ||| 0x13)))).cleanse a 8
  let s := s.setTag a true
  let s := (below.foldl (fun s x => s.cancelOne dev x) s).cancelUnit dev l
  let s := s.endToward dev parent (!flags.testBit 3)
  let s := s.endVersions dev l false
  if (s.unitOfLevel dev l).isSome then s else { s with levels := s.levels.filter fun p => decide (p ≠ (dev, l)) }

/-- Running levels whose objects hold an uncorrectable error that an operation of the step has found (R466), but for those in
frozen pages, which wait (R295); the end of one may find the next, its parent. -/
def State.breakFound (s : State) : Nat → State
  | 0 => s
  | fuel + 1 =>
    match s.levels.find? fun p => s.poisoned (s.lvAt p.1 p.2) 64 && !s.lvBroken p.1 p.2 && !s.lvFrozen p.1 p.2 with
    | none => s
    | some p => (s.breakLevel p.1 p.2).breakFound fuel

/-- An operation at a level object finds what errors it holds; the flag says that it changes nothing. -/
def State.checkLevel (s : State) (dev l : Nat) : Bool × State :=
  let s := s.findErrors (s.lvAt dev l) 64
  if s.lvBroken dev l then (true, s)
  else if s.poisoned (s.lvAt dev l) 64 then (true, if s.lvRunning dev l || s.poisoned (s.lvAt dev l) 8 then s.breakLevel dev l else s)
  else (false, s)

/-- SCRUBBING (R466): an error in a level object is found. -/
def execScrubbing (s : State) : Host.Outcome State Fault Refusal :=
  event s fun m =>
    match m with
    | .scrubbing place =>
      match s.levelAt place with
      | some (dev, l) => some (if s.lvFrozen dev l then s else (s.checkLevel dev l).2)
      | none => some s
    | _ => none

/-! ## Launch (R369, R370) -/

/-- The level objects that a launch record names. -/
def LaunchRec.objects (r : LaunchRec) : List Nat := (List.range (r.units + 1)).map fun i => r.level + 64 * i

/-- What a launch reads or writes lies in part in a frozen page (R295). -/
def State.launchFrozen (s : State) (dev asid record parent : Nat) : Bool :=
  let r := s.readRecord dev asid record
  s.lvFrozen dev record || s.lvFrozen dev parent || (!(r.bad || r.badUnits) && r.objects.any fun l => s.lvFrozen dev l)

/-- Opens a launch under a parent: the status of R386. -/
def State.launch (s : State) (dev asid record parent : Nat) (priv : Bool) : Nat × State :=
  let (bad, s) := s.checkLevel dev parent
  let (lost, s) := s.badHome (gloc s.mode dev record) 512
  let r := s.readRecord dev asid record
  let objs := r.objects
  let bound := !(r.bad || r.badUnits)
  if bad || (bound && objs.any fun l => s.lvBad dev l) then (4, s)
  else if !bound || lost then (5, s)
  else if r.badPlace then (6, s)
  else if objs.any fun l => s.lvRunning dev l then (3, s)
  else if !wider 1 (s.lvKind dev parent) then (2, s)
  else if s.lvRefuses dev parent then (1, s)
  else
    let bg := decide (s.lvKind dev parent = 2) && s.lvFlag dev parent 2
    let n := s.count
    let s := s.lvAdd dev parent 1
    let s := s.lvOpen dev asid r.level 1 r.units 2 parent 0
    let s := (List.range r.units).foldl (fun s u =>
      s.lvOpen dev asid (r.level + 64 * (1 + u)) 0 r.u.groups 2 r.level 0) s
    let s := (List.range r.units).foldl (fun s u =>
      s.arrive { r.u with core := ({ s with count := n } : State).placeOf r u, level := r.level + 64 * (1 + u), uidx := u
                          priv := priv, bg := r.u.bg || bg }) s
    (0, s)

/-! ## The level instructions (R385, R386) -/

/-- The place of an object at an offset of global space, as a device global offset (R385). -/
def Ix.object64 (i : Ix) (off n : Nat) (write : Bool) : Except Trap Nat :=
  let seg := FMap.get {} i.g.segs 2
  match i.s.rangeCause (i.s.unitAt i.g.unit).dev seg 1 off n write with
  | some c => .error (i.trap 3 c 0 off)
  | none => .ok (seg.base + off)

/-- The first of some offsets that breaks its alignment raises ALIGN (R385). -/
def Ix.aligned (i : Ix) (offs : List (Nat × Nat)) : Option Trap :=
  (offs.find? fun o => decide (o.1 % o.2 ≠ 0)).map fun o => i.trap 4 0 0 o.1

/-- Runs `f` on the objects at several offsets, each with its size and whether it is written; every instruction of the
work hierarchy takes effect after the group's earlier accesses are visible in the device (R367), and waits for a frozen page
(R295). -/
def Ix.withObjects (i : Ix) (objs : List (Nat × Nat × Bool)) (f : List Nat → State → Eff) : Eff :=
  if i.heldBack true then .wait
  else
    match i.aligned (objs.map fun o => (o.1, 64)), firstFail (objs.map fun o => i.object64 o.1 o.2.1 o.2.2) with
    | some t, _ => .trap t
    | none, .error t => .trap t
    | none, .ok ls =>
      if ls.any fun l => i.s.lvFrozen (i.s.unitAt i.g.unit).dev l then .wait else f ls (i.s.releaseAt (coreOf i.s.cur) 4)

/-- Runs `f` where the 64-byte object at a place holds no uncorrectable error. DESIGN CHOICE (log 104): an error in a version
or dispenser object raises ECC, as for the word that an atomic reads. -/
def Ix.soundObject (i : Ix) (s : State) (a : Nat) (f : State → Eff) : Eff :=
  let (bad, s) := s.badRead a 64
  if bad then .trapIn s (i.trap 5 0 0 a) else f s

/-- Late results in consecutive s-registers (R385). -/
def Ix.results (i : Ix) (s : State) (r : Nat) (vs : List Word) : Eff :=
  let (tok, s) := s.fresh
  .done (s.setGrp (s.grp.late tok i.c.slices ((List.range vs.length).map fun k => Reg.s (r + k)) (some vs)))

def Ix.status (i : Ix) (s : State) (r st : Nat) : Eff := i.results s r [BitVec.ofNat 32 st]

/-- The device of the current unit, and its context. -/
def Ix.dev (i : Ix) : Nat := (i.s.unitAt i.g.unit).dev
def Ix.asid (i : Ix) : Nat := (i.s.unitAt i.g.unit).asid

/-- lvl.launch (R370). -/
def execLvlLaunch (x y : BitVec 6) (s : State) : Host.Outcome State Fault Refusal :=
  issue s 1 [spanS x.toNat 2] [spanS y.toNat 1] fun i =>
    i.withObjects [(i.sx x.toNat, 512, false), (i.sx (x.toNat + 1), 64, true)] fun ls s =>
      if s.launchFrozen i.dev i.asid (ls.getD 0 0) (ls.getD 1 0) then .wait else
      let (st, s) := s.launch i.dev i.asid (ls.getD 0 0) (ls.getD 1 0) i.g.priv
      i.status s y.toNat st

/-- lvl.cancel (R365). -/
def execLvlCancel (x y : BitVec 6) (s : State) : Host.Outcome State Fault Refusal :=
  issue s 1 [spanS x.toNat 1] [spanS y.toNat 1] fun i =>
    i.withObjects [(i.sx x.toNat, 64, true)] fun ls s =>
      let l := ls.getD 0 0
      let (bad, s) := s.checkLevel i.dev l
      if bad then i.status s y.toNat 4
      else if !s.lvRunning i.dev l then i.status s y.toNat 3
      else i.status (if s.lvFlag i.dev l 0 then s else s.cancelLevel i.dev l) y.toNat 0

/-- lvl.ctr (R386): the old count, or all ones where it refuses. -/
def execLvlCtr (x y : BitVec 6) (s : State) : Host.Outcome State Fault Refusal :=
  issue s 1 [spanS x.toNat 1, spanS y.toNat 1] [spanS y.toNat 1] fun i =>
    i.withObjects [(i.sx x.toNat, 64, true)] fun ls s =>
      let l := ls.getD 0 0
      let (bad, s) := s.checkLevel i.dev l
      let old := s.lvCtr i.dev l
      let new := sintOf 32 old + sintOf 32 (i.sx y.toNat)
      if bad then i.status s y.toNat 4
      else if !s.lvRunning i.dev l ∨ new < 0 ∨ (pow2 31 : Int) - 1 < new then i.status s y.toNat 0xFFFFFFFF
      else i.status (s.lvSetCtr i.dev l new.toNat) y.toNat old

/-- The units that each node starts are counted from a graph's opening (R376). -/
def State.resetNodes (s : State) (dev graph : Nat) : State :=
  let d := s.devAt dev
  s.setDev dev { d with nodes := d.nodes.map fun p => (p.1, { p.2 with base := FMap.put 0 p.2.base graph p.2.started }) }

/-- lvl.open (R362, R386): a graph or a phase. -/
def execLvlOpen (x y : BitVec 6) (z : BitVec 8) (s : State) : Host.Outcome State Fault Refusal :=
  issue s 1 [spanS x.toNat 4] [spanS y.toNat 1] fun i =>
    let kind := z.toNat
    let budget := i.sx (x.toNat + 2)
    let flags := i.sx (x.toNat + 3)
    i.withObjects [(i.sx x.toNat, 64, true), (i.sx (x.toNat + 1), 64, true)] fun ls s =>
      if 4 ≤ flags ∨ (kind = 2 ∧ budget ≠ 0) ∨ (kind = 3 ∧ flags % 2 = 1) then .trapIn s (i.trap 3 0x50 0 0)
      else
        let l := ls.getD 0 0
        let p := ls.getD 1 0
        let (badP, s) := s.checkLevel i.dev p
        let (badL, s) := s.checkLevel i.dev l
        if badP || badL then i.status s y.toNat 4
        else if s.lvRunning i.dev l then i.status s y.toNat 3
        else if !wider kind (s.lvKind i.dev p) then i.status s y.toNat 2
        else if s.lvRefuses i.dev p then i.status s y.toNat 1
        else
          let s := s.lvAdd i.dev p 1
          let s := s.lvOpen i.dev i.asid l kind 0 (flags * 4) p budget
          i.status (if kind = 2 then s.resetNodes i.dev l else s) y.toNat 0

/-- lvl.close (R386). -/
def execLvlClose (x y : BitVec 6) (s : State) : Host.Outcome State Fault Refusal :=
  issue s 1 [spanS x.toNat 1] [spanS y.toNat 1] fun i =>
    i.withObjects [(i.sx x.toNat, 64, true)] fun ls s =>
      let l := ls.getD 0 0
      let (bad, s) := s.checkLevel i.dev l
      let kind := s.lvKind i.dev l
      if bad then i.status s y.toNat 4
      else if !s.lvRunning i.dev l || (decide (2 ≤ kind) && s.lvFlag i.dev l 1) then i.status s y.toNat 3
      else if kind < 2 then i.status s y.toNat 2
      else
        let s := s.lvSetFlag i.dev l 1
        i.status ((s.nodesOf i.dev l).foldl (fun s n => s.dispatch i.dev n) s) y.toNat 0

/-- lvl.budget (R386). -/
def execLvlBudget (x y : BitVec 6) (s : State) : Host.Outcome State Fault Refusal :=
  issue s 1 [spanS x.toNat 2] [spanS y.toNat 1] fun i =>
    i.withObjects [(i.sx x.toNat, 64, true)] fun ls s =>
      let l := ls.getD 0 0
      let (bad, s) := s.checkLevel i.dev l
      if bad then i.status s y.toNat 4
      else if !s.lvRunning i.dev l then i.status s y.toNat 3
      else if s.lvKind i.dev l ≠ 3 then i.status s y.toNat 2
      else
        let s := { s with spent := s.spent.filter fun p => decide (p ≠ (i.dev, l)) }
        i.status (s.wrN (s.lvAt i.dev l + 24) 4 (i.sx (x.toNat + 1))) y.toNat 0

/-! ## Budget expiry (R366) -/

/-- A phase whose budget has elapsed and that has not expired. -/
def State.budgetDue (s : State) (dev l : Nat) : Bool :=
  s.lvRunning dev l && decide (s.lvKind dev l = 3 ∧ s.lvBudget dev l ≠ 0 ∧ (dev, l) ∉ s.spent ∧
    s.lvOpenCyc dev l + s.lvBudget dev l ≤ s.devCycle dev (s.lvAsid dev l))

/-- Cancels each running background child graph of a phase and marks it EXPIRED. -/
def State.expire (s : State) (dev l : Nat) : State :=
  let kids := (s.levels.filter fun p => decide (p.1 = dev ∧ s.lvParent dev p.2 = l ∧ s.lvKind dev p.2 = 2) &&
    s.lvFlag dev p.2 2 && s.lvRunning dev p.2).map Prod.snd
  let s := { s with spent := s.spent ++ [(dev, l)] }
  kids.foldl (fun s k => (s.lvSetFlag dev k 5).cancelLevel dev k) s

/-- BUDGET_EXPIRY (R366). -/
def execBudgetExpiry (s : State) : Host.Outcome State Fault Refusal :=
  event s fun m =>
    match m with
    | .budgetExpiry place =>
      match s.levelAt place with
      | some (dev, l) => some (if s.budgetDue dev l then s.expire dev l else s)
      | none => some s
    | _ => none

/-! ## Tasks (R372 to R377, R387) -/

/-- NODE_TIMER_EXPIRY (R375): the dispatcher acts on a node whose condition holds. -/
def execNodeTimerExpiry (s : State) : Host.Outcome State Fault Refusal :=
  event s fun m =>
    match m with
    | .nodeTimerExpiry dev n => some (s.dispatch dev n)
    | _ => none

/-- The unit is one of a graph's own: its level lies below the graph. -/
def State.ownUnit (s : State) (u : UnitSt) (graph : Nat) : Bool := s.lvBelow u.dev graph 5 u.level

/-- The first free slot of a bin of a capacity, from its tail on. -/
def NodeSt.freeSlot (x : NodeSt) (cap : Nat) : Nat :=
  let at' (i : Nat) : Nat := (x.tail + i) % cap
  at' (((List.range (x.recs.length + 1)).find? fun i => !(x.recs.any fun r => decide (r.slot = at' i))).getD 0)

/-- The reason that refuses a task record (R373): 0 where it is accepted. -/
def State.recordCause (s : State) (i : Ix) (bs : List Byte) : Nat :=
  let u := s.unitAt i.g.unit
  let f (o n : Nat) : Nat := ofBytes ((bs.drop o).take n)
  let node := f 0 2
  let e := s.nodeEnt u.dev node
  let seg := FMap.get {} i.g.segs 2
  let badOp (absent : Bool) (v : Nat) : Bool :=
    !absent && !(seg.v && decide (v % 8 = 0 ∧ seg.base ≤ v ∧ v + 8 ≤ seg.base + seg.limit))
  if 4096 ≤ node ∨ !e.v then 2
  else if e.bincap ≤ (s.nodeSt u.dev node).recs.length then 1
  else if !s.lvRunning u.dev e.graph || s.lvBad u.dev e.graph || s.lvFlag u.dev e.graph 0 ||
      (s.lvFlag u.dev e.graph 1 && !s.ownUnit u e.graph) then 3
  else if badOp ((f 2 2).testBit 0) (f 4 4) || badOp ((f 2 2).testBit 1) (f 8 4) then 4
  else 0

/-- An accepted record enters its bin, with the poison of what it was read from; its operands' tags are asked for at their
homes (R374). -/
def State.acceptRecord (s : State) (i : Ix) (bs : List Byte) (bad : Bool) : State :=
  let u := s.unitAt i.g.unit
  let f (o n : Nat) : Nat := ofBytes ((bs.drop o).take n)
  let node := f 0 2
  let e := s.nodeEnt u.dev node
  let x := s.nodeSt u.dev node
  let slot := x.freeSlot e.bincap
  let ops := (if (f 2 2).testBit 0 then [] else [f 4 4]) ++ (if (f 2 2).testBit 1 then [] else [f 8 4])
  let s := s.lvAdd u.dev e.graph 1
  let s := s.wrBytes (qloc e.die (32 * (e.binrec + slot))) bs
  let s := if bad then s.poisonAt (qloc e.die (32 * (e.binrec + slot))) 32 else s
  let (tok, s) := s.fresh
  let r : BinRec := { slot := slot, missing := ops.length, ready := if ops = [] then some (s.cycle, tok) else none }
  let s := s.setNode u.dev node
    { x with recs := x.recs ++ [r], tail := (slot + 1) % e.bincap, graph := e.graph, asid := u.asid }
  let s := ops.foldl (fun s v =>
    s.arriveTag { agent := s.cur, unit := i.g.unit, kind := .operand u.dev node slot, addr := gloc s.mode u.dev v
                  bytes := 8, tok := tok }) s
  s.dispatch u.dev node

/-- Takes records in order, each with whether it is poisoned, until one is refused: the count, the reason, and the state. -/
def State.submit (s : State) (i : Ix) : List (List Byte × Bool) → Nat × Nat × State
  | [] => (0, 0, s)
  | (bs, bad) :: t =>
    let u := s.unitAt i.g.unit
    let node := ofBytes (bs.take 2)
    let s := if node < 4096 then s.nodeErrors u.dev node else s
    let cause := s.recordCause i bs
    if cause ≠ 0 then (0, cause, s)
    else
      let (n, c, s) := (s.acceptRecord i bs bad).submit i t
      (n + 1, c, s)

/-- task.submit (R373, R387). A record in a frozen page is waited for (R295); DESIGN CHOICE (log 104): the poison of a record's
words goes with it into the bin. -/
def execTaskSubmit (x y : BitVec 6) (n : BitVec 8) (s : State) : Host.Outcome State Fault Refusal :=
  issue s 1 [spanS x.toNat 1] [spanS y.toNat 1] fun i =>
    let off := i.sx x.toNat
    if i.g.ctrFull 7 || i.heldBack true then .wait
    else
      match i.sliceOperand off 32 (32 * n.toNat) false with
      | some t => .trap t
      | none =>
        let core := coreOf i.s.cur
        let s := i.s.releaseAt core 4
        let base := sloc core ((FMap.get {} i.g.segs 1).base + off)
        let at' (k : Nat) : Nat := base + 32 * k
        let (bad, s) := (List.range n.toNat).foldl (fun (r : List Bool × State) k =>
          let q := (r.2.served (at' k) 32).badHome (at' k) 32
          (r.1 ++ [q.1], q.2)) ([], s)
        let recs := (List.range n.toNat).map fun k => ((List.range 8).flatMap fun w =>
          bytesOf 4 (s.readAt core (dieOfCore core) (at' k + 4 * w) 4), bad.getD k false)
        if (List.range n.toNat).any fun k => i.s.frozen (at' k) then .wait
        else
          let (cnt, why, s) := s.submit i recs
          i.status s y.toNat (cnt + 65536 * why)

/-- task.done (R387): takes what is ready. -/
def execTaskDone (x : BitVec 6) (s : State) : Host.Outcome State Fault Refusal :=
  issue s 1 [] [spanS x.toNat 1] fun i =>
    let u := i.s.unitAt i.g.unit
    if i.g.ctrFull 7 || i.heldBack true then .wait
    else
      match u.node with
      | none => i.access 0x50
      | some n =>
        let s := i.s.releaseAt (coreOf i.s.cur) 4
        let s := s.nodeErrors u.dev n
        if s.areaFrozen u (s.nodeEnt u.dev n).c then .wait
        else
          let (recs, s) := s.takeRecords u.dev n
          i.status (s.putRecords u recs) x.toNat recs.length

/-- task.done.wait (R387): joins the queue of the node. -/
def execTaskDoneWait (x : BitVec 6) (s : State) : Host.Outcome State Fault Refusal :=
  issue s 1 [] [spanS x.toNat 1] fun i =>
    let u := i.s.unitAt i.g.unit
    if i.g.ctrFull 7 || i.heldBack true then .wait
    else
      match u.node with
      | none => i.access 0x50
      | some n =>
        let s := i.s.releaseAt (coreOf i.s.cur) 4
        let (tok, s) := s.fresh
        let s := s.setGrp ((s.grp.raiseCtr 7).late tok i.c.slices [.s x.toNat] none)
        let s := i.parked s (.taskDone x.toNat)
        let q := s.nodeSt u.dev n
        let s := s.setNode u.dev n { q with waiters := q.waiters ++ [(s.cur, i.c.slices, tok)] }
        .moved (s.dispatch u.dev n)

/-! ## The dispenser (R378) -/

/-- dsp.init. -/
def execDspInit (x y : BitVec 6) (s : State) : Host.Outcome State Fault Refusal :=
  issue s 1 [spanS x.toNat 1, spanS y.toNat 1] [] fun i =>
    match i.aligned [(i.sx x.toNat, 64)], i.object64 (i.sx x.toNat) 64 true with
    | some t, _ => .trap t
    | none, .error t => .trap t
    | none, .ok off =>
      let d := i.sx y.toNat
      if d % 65536 = 0 ∨ d / 65536 = 0 then i.access 0x51
      else if i.heldBack true || i.s.lvFrozen i.dev off then .wait
      else .done (i.s.wrN (i.s.lvAt i.dev off) 8 (d * pow2 32))

/-- dsp.next: the next index, to a slice word that becomes full. -/
def execDspNext (x y : BitVec 6) (s : State) : Host.Outcome State Fault Refusal :=
  issue s 1 [spanS x.toNat 1, spanS y.toNat 1] [] fun i =>
    if i.g.ctrFull 7 || i.heldBack true then .wait
    else
      match i.aligned [(i.sx x.toNat, 64), (i.sx y.toNat, 8)], i.object64 (i.sx x.toNat) 64 true,
        i.sliceOperand (i.sx y.toNat) 8 8 true with
      | some t, _, _ => .trap t
      | none, .error t, _ => .trap t
      | none, _, some t => .trap t
      | none, .ok off, none =>
        let a := i.s.lvAt i.dev off
        let place := sloc (coreOf s.cur) ((FMap.get {} i.g.segs 1).base + i.sx y.toNat)
        if i.s.frozen place || i.s.lvFrozen i.dev off then .wait else i.soundObject i.s a fun s =>
        let k := s.rdN a 4
        let cols := s.rdN (a + 4) 2
        let rows := s.rdN (a + 6) 2
        let more := decide (k < cols * rows)
        let word := if more then k % cols + k / cols * 65536 + k * pow2 32 else pow2 64 - 1
        let s := if more then s.wrN a 4 (k + 1) else s
        .done (s.arriveTag { agent := s.cur, unit := i.g.unit, kind := .xf, addr := place, bytes := 8, data := word
                             slices := i.c.slices })

/-! ## Version objects (R379 to R382) -/

/-- ver.pubv (R380). -/
def execVerPubv (x y : BitVec 6) (s : State) : Host.Outcome State Fault Refusal :=
  issue s 1 [spanS x.toNat 4] [spanS y.toNat 1] fun i =>
    let dep := i.sx (x.toNat + 1)
    let now := decide (dep = 0xFFFFFFFF)
    i.withObjects ([(i.sx x.toNat, 64, true)] ++ (if now then [] else [(dep, 64, false)])) fun ls s =>
      let off := ls.getD 0 0
      let l := ls.getD 1 0
      let a := s.lvAt i.dev off
      let payload := i.sp (x.toNat + 2)
      i.soundObject s a fun s =>
      if s.rdN (a + 28) 1 = 1 then i.status s y.toNat 3
      else
        let st := if now then 2 else s.lvStatus i.dev l
        if st = 0 then i.status s y.toNat 4
        else if st = 2 then i.status (s.publishVer a true payload) y.toNat 1
        else if st = 1 then
          let s := ((s.wrN (a + 16) 8 payload).wrN (a + 24) 4 l).wrN (a + 28) 1 1
          i.status { s with vers := s.vers ++ [(i.dev, off)] } y.toNat 0
        else i.status (s.publishVer a false 0) y.toNat 2

/-- ver.qver (R382). -/
def execVerQver (x y : BitVec 6) (s : State) : Host.Outcome State Fault Refusal :=
  issue s 1 [spanS x.toNat 1] [spanS y.toNat 4] fun i =>
    i.withObjects [(i.sx x.toNat, 64, false)] fun ls s =>
      let a := s.lvAt i.dev (ls.getD 0 0)
      i.soundObject s a fun s =>
      let w (o : Nat) : Word := BitVec.ofNat 32 (s.rdN (a + o) 4)
      i.results (s.acquireAt (coreOf s.cur) 4) y.toNat [w 0, w 4, w 8, w 12]

end Sys2Proof.Machine
end

