-- ==== Sys2Proof/Machine/Fetch.lean ====
section
/-!
DEFINITION. The fetch of a clause (R30, R41, R43, R401 to R403), the waits before its first instruction (R34, R174, R313),
a unit's preload and start (R371, R399), sched (R388), CANCEL (R365), and the small steps of issue: late register writes
(R36), visibility (R252), demotion (R398), the forced background issue (R384) and the scrub of HBM (R463).
-/
namespace Sys2Proof.Machine

/-! ## Fetch -/

/-- What the clause check takes from the agent and its device. -/
def State.fetchAs (s : State) (a : Nat) : FetchAs :=
  let g := s.grpOf a
  { priv := g.priv, steer := isSteer a, blocks := g.blocks
    feat := match (s.devAt (s.unitAt g.unit).dev).owner.accepted with
      | some w => w.1.toNat
      | none => 0 }

def State.codeWord (s : State) (core addr : Nat) : Word := BitVec.ofNat 32 (s.rdN (iloc core addr) 4)

/-- State of the segment that holds a code address. -/
def State.segState (s : State) (core addr : Nat) : Nat := ((s.coreAt core).seg (addr / 4096)).st

/-- The selected path at a boundary, once the slices have resolved and the paths have split (R393 to R395). -/
def Group.next (g : Group) : Option Path := ({ g with clause := none }.resolveAll.split).select

/-- A trap at a fetch: no instruction of the clause has issued. -/
def Path.trap (p : Path) (cls index clause resume info : Nat) : Trap :=
  { cls := cls, index := index, clause := clause, resume := resume, info := info, slices := p.slices }

/-- The fetch of the clause at a path's PC. A pending CANCEL goes before a CODE trap (R450): the group then stands where
CANCEL is taken. -/
def State.fetchAt (s : State) (a : Nat) (g : Group) (p : Path) : State :=
  let core := coreOf a
  let (g, p) := g.regang p
  let pc := g.pcOf p
  let s := s.setGrpOf a g
  match (sliceList p.slices).findSome? fun i => (g.slices.getD i {}).fell with
  | some f => s.takeTrap a (p.trap 1 15 f pc 0)
  | none =>
    if s.segState core pc ≠ 2 then
      if g.cancel ∨ s.segState core pc = 1 then { s with waits := a :: s.waits }
      else s.takeTrap a (p.trap 0x10 0 pc pc pc)
    else
      let hdr := s.codeWord core pc
      let n := nbits hdr.toNat 3 0
      let s1 := s.findErrors (iloc core pc) (4 * (n + 1))
      if s1.poisoned (iloc core pc) (4 * (n + 1)) then
        let c := s1.coreAt core
        let s2 := (s1.setCore core { c with segs := c.segs.del (pc / 4096) }).noteUnit g.unit pc
        if g.cancel then { s2 with waits := a :: s2.waits } else s2.takeTrap a (p.trap 0x10 0 pc pc pc)
      else
        let words := (List.range n).map fun i => s1.codeWord core (pc + 4 * (i + 1))
        match clauseCheck (s1.fetchAs a) pc hdr words with
        | some (cls, index) =>
          let t := p.trap cls index pc (pc + 4 * (n + 1)) 0
          if g.ret = some pc ∧ nbits hdr.toNat 31 28 ≠ 0xC then s1.failTrap a t true else s1.takeTrap a t
        | none =>
          s1.setGrpOf a { g with
            clause := some { base := pc, hdr := hdr, words := words, slices := p.slices }
            ret := if g.ret = some pc then none else g.ret }

/-- What a group does at a clause boundary. A poisoned word that a request performed later has read raises ECC here (R233), of
the thread and the path that issued it; the frame's clause and index, which no rule states, are free values (log 13). -/
def State.fetch (s : State) (a : Nat) : State :=
  let g0 := { s.grpOf a with clause := none }
  match g0.ecc with
  | some e =>
    (s.setGrpOf a { g0 with ecc := none }).takeTrap a
      { cls := 5, info := e.addr, thread := e.thread, slices := e.slices
        clause := (Config.word s.count 0).toNat, index := (Config.word s.count 1).toNat % 16 }
  | none =>
    let s := s.setGrpOf a g0
    if (s.unitAt g0.unit).ending then s.killGroup a
    else
      let g := g0.resolveAll.split
      let s := s.setGrpOf a g
      if g.finished then s.exitGroup a
      else
        match g.select with
        | none => s
        | some p => s.fetchAt a g p

/-- CLAUSE_FETCH (R41): the current agent's turn at a clause boundary. -/
def execClauseFetch (s : State) : Host.Outcome State Fault Refusal :=
  if s.grp.atBoundary then .next (s.fetch s.cur) else .next s

/-! ## The waits before the first instruction -/

/-- The instructions of a clause, cut again from its words. -/
def Clause.raws (c : Clause) : List Raw := (cutWords 16 0 c.words).1

/-- The instructions of a clause that have not issued. -/
def Clause.rest (c : Clause) : List Raw := (cutWords 16 0 (c.words.drop c.wi)).1

/-- What the clauses in progress of a core's other groups will still take of a queue: an instruction of such a clause no
longer waits for room (R174, R313). -/
def State.promised (s : State) (a : Nat) (take : Nat → List Raw → Nat) : Nat :=
  ((slotAgents (coreOf a) ++ [17 * coreOf a + 16]).map fun b =>
    let g := s.grpOf b
    match g.clause with
    | some c => if b ≠ a ∧ g.live ∧ c.exec.isSome ∧ c.exec ≠ some 0 then take g.openCmds c.rest else 0
    | none => 0).sum

/-- The header's waits (R34) and the queue conditions of the matrix and copy engines (R174, R313). -/
def State.headerReady (s : State) (a : Nat) (c : Clause) : Bool :=
  let g := s.grpOf a
  let core := s.coreAt (coreOf a)
  let below (cls t : Nat) : Bool := decide (cls = 0 ∨ FMap.get 0 g.ctr cls ≤ t)
  let used := (core.mq.filter fun e => e.counts).length
  let slots := (core.copies.filter fun k => decide (k.slot < 64)).length
  below (hdrField c.hdr 10 8) (hdrField c.hdr 14 11) && below (hdrField c.hdr 17 15) (hdrField c.hdr 21 18) &&
    (!c.hdr.getLsbD 22 || decide (g.outs = [])) &&
    decide (used + s.promised a clauseEntries + clauseEntries g.openCmds c.raws ≤ 64 ∧
      slots + s.promised a (fun _ => clauseSlots) + clauseSlots c.raws ≤ 64)

/-- The instruction that a clause issues next. -/
def Clause.nextRaw (c : Clause) : Option Raw := c.rest.head?

/-- The registers that the next instruction of a clause touches, with the mod prefix that has issued in front of it (R60); an
mloop and its mma count as one (R185). -/
def Clause.nextSpans (c : Clause) : List Span :=
  match c.rest with
  | [] => []
  | r :: t => (match c.modp with
      | some m => { r with pre := some (m.c.toNat <<< 17) }
      | none => r : Raw).touched ++ (if r.op = 0x63 then (t.head?.map Raw.touched).getD [] else [])

/-- A group offers a candidate (R383): it neither sleeps nor has a wait of R34 or R36 before its next instruction. -/
def State.offersWith (s : State) (a : Nat) : Bool :=
  let g := s.grpOf a
  match g.clause with
  | none => false
  | some c =>
    (c.exec.isSome || s.headerReady a c) && (!g.busy c.nextSpans || decide (c.threads g = 0))

/-- A group offers a candidate; at a boundary, of the clause it is about to fetch. -/
def State.offers (s : State) (a : Nat) : Bool :=
  let g := s.grpOf a
  g.live && g.wake.isNone && !g.stopped &&
    (match g.clause with
     | some _ => s.offersWith a
     | none => decide (g.paths ≠ []) && (s.fetch a).offersWith a)

/-! ## Safe points and CANCEL -/

/-- No clause header stands at a code address (R31): the segment there is not PRESENT, so that the fetch waits or raises CODE
(R402, R450), or the word is none or lost. -/
def State.noHeader (s : State) (core pc : Nat) : Bool :=
  decide (s.segState core pc ≠ 2 ∨ hdrField (s.codeWord core pc) 31 28 ≠ 0xC) || s.poisoned (iloc core pc) 4

/-- A read of n bytes at a place would meet an error that cannot be corrected, or a lost transfer (R463, R464). -/
def State.losesAt (s : State) (a n : Nat) : Bool :=
  s.poisoned a n || s.crcLost a n || s.latent.any fun p => p.2 && decide (a / 8 ≤ p.1 / 8 ∧ p.1 / 8 ≤ (a + n - 1) / 8)

/-- The live-mask index of the safe point at a code address (R93, R97, R98). An entry whose code address is no clause header
is never found, nor is one that cannot be read (DESIGN CHOICE, log 104). In a table out of order each entry may or may not be
found. -/
def State.safePoint (s : State) (u : UnitSt) (pc : Nat) : Option Nat :=
  let entry (i : Nat) : Nat := s.rdN (s.lvAt u.dev (u.sptab + 8 * i)) 8
  let ok (i : Nat) : Bool := decide (entry i % pow2 32 = pc ∧ nbits (entry i) 47 32 < u.lmcnt) &&
    !s.losesAt (s.lvAt u.dev (u.sptab + 8 * i)) 8
  let rising := (List.range (u.spcnt - 1)).all fun i => decide (entry i % pow2 32 < entry (i + 1) % pow2 32)
  let found (i : Nat) : Bool := ok i && (rising || (Config.word s.count (pow2 40 + i)).getLsbD 0)
  if s.noHeader u.core pc then none
  else ((List.range u.spcnt).find? found).map fun i => nbits (entry i) 47 32

/-- An entry of a unit's safe-point or live-mask table lies in a frozen page, where the device's read of it stalls (R97, R295). -/
def State.tablesFrozen (s : State) (u : UnitSt) : Bool :=
  ((List.range u.spcnt).any fun i => s.lvFrozen u.dev (u.sptab + 8 * i)) ||
    (List.range u.lmcnt).any fun i => s.lvFrozen u.dev (u.lmtab + 32 * i)

/-- The device reads n bytes of a table of a unit and finds the errors there. -/
def State.readTable (s : State) (uid off n : Nat) : State :=
  let a := s.lvAt (s.unitAt uid).dev off
  let (bad, t) := s.badRead a n
  if bad then t.noteUnit uid a else t

/-- It reads the whole safe-point table of a unit, and the live-mask entries given (R97). -/
def State.readTables (s : State) (uid : Nat) (masks : List Nat) : State :=
  let u := s.unitAt uid
  masks.foldl (fun s i => s.readTable uid (u.lmtab + 32 * i) 24)
    ((List.range u.spcnt).foldl (fun s i => s.readTable uid (u.sptab + 8 * i) 8) s)

/-- The code address of a group's next clause header at a boundary. -/
def Group.nextPc (g : Group) : Option Nat :=
  match g.clause with
  | some c => some c.base
  | none => g.next.map fun p => ({ g with clause := none }.resolveAll.split).pcOf p

/-- A group stands where CANCEL is taken (R365): at a safe point, in a clause-ending wait, in a sleep, or before a header
whose segment is not present. A late ECC trap goes before it (R450). -/
def State.cancelPoint (s : State) (a : Nat) : Bool :=
  let g := s.grpOf a
  let u := s.unitAt g.unit
  g.live && g.cancel && g.ecc.isNone && decide (g.paths ≠ []) && !u.ending && g.atBoundary &&
    ((g.wake.isSome && decide (g.yieldFor = [])) || (g.paths.any fun p => p.wait.isSome) ||
     (match g.nextPc with
      | none => false
      | some pc => ((s.safePoint u pc).isSome && !s.tablesFrozen u) || decide (s.segState (coreOf a) pc ≠ 2)))

/-- A group at a boundary waits for the table that says whether CANCEL or PREEMPT is taken there. -/
def State.tableWait (s : State) (a : Nat) : Bool :=
  let g := s.grpOf a
  (g.cancel || g.preempt) && g.atBoundary && g.nextPc.isSome && s.tablesFrozen (s.unitAt g.unit)

/-- CANCEL (R365): the unit of the agent terminates as cancelled. -/
def execCancel (s : State) : Host.Outcome State Fault Refusal :=
  event s fun m =>
    match m with
    | .cancel a => some (if s.cancelPoint a then (s.readTables (s.grpOf a).unit []).takeCancel a else s)
    | _ => none

/-! ## sched (R388) -/

/-- The background class of an agent (R383). -/
def State.background (s : State) (a : Nat) : Bool := (s.grpOf a).bg && !isSteer a

/-- The other groups of the agent's class on its core that offer a candidate. -/
def State.rivals (s : State) (a : Nat) : List Nat :=
  (slotAgents (coreOf a) ++ [17 * coreOf a + 16]).filter fun b =>
    decide (b ≠ a) && decide (s.background b = s.background a) && s.offers b

def Ix.yield (x : Ix) : Eff :=
  let s := x.s.fallThrough x.c
  let rs := x.s.rivals x.s.cur
  .moved (s.setGrp { s.grp with wake := if rs = [] then none else some (s.cycle + 256), yieldFor := rs })

/-- sched.yield. -/
def execSchedYield (s : State) : Host.Outcome State Fault Refusal := issue s 1 [] [] Ix.yield

/-- sched.sleep: with 0 cycles it acts as sched.yield, unless a pending cancel is to be taken at it. -/
def execSchedSleep (x : BitVec 6) (s : State) : Host.Outcome State Fault Refusal :=
  issue s 1 [spanS x.toNat 1] [] fun i =>
    if i.sx x.toNat = 0 ∧ !i.g.cancel then i.yield
    else
      let s := i.s.fallThrough i.c
      .moved (s.setGrp { s.grp with wake := some (s.cycle + i.sx x.toNat), yieldFor := [] })

/-- A group wakes: its next clause is eligible from the next cycle (R383). -/
def State.wakeGroup (s : State) (a : Nat) : State :=
  s.setGrpOf a { s.grpOf a with wake := none, yieldFor := [], age := s.cycle + 1 }

def Group.wakeDue (g : Group) (cycle : Nat) : Bool :=
  match g.wake with
  | some t => decide (t ≤ cycle)
  | none => false

/-- YIELD_TIMEOUT (R388): 256 cycles after the yield. -/
def execYieldTimeout (s : State) : Host.Outcome State Fault Refusal :=
  event s fun m =>
    match m with
    | .yieldTimeout a =>
      some (if (s.grpOf a).wakeDue s.cycle && decide ((s.grpOf a).yieldFor ≠ []) then s.wakeGroup a else s)
    | _ => none

/-- SLEEP_END (R388): after its cycles, or at once when a pre-emption is pending. -/
def execSleepEnd (s : State) : Host.Outcome State Fault Refusal :=
  event s fun m =>
    match m with
    | .sleepEnd a =>
      let g := s.grpOf a
      some (if g.wake.isSome && decide (g.yieldFor = []) && (g.wakeDue s.cycle || g.preempt) then s.wakeGroup a else s)
    | _ => none

/-! ## Units: preload and start (R370, R371, R399) -/

/-- The unit at the head of a core's arrivals. -/
def Core.head (c : Core) : Option Nat := c.arrivals.head?

/-- One segment of a preload: used as it stands, waited for, or loaded. -/
def State.preloadSeg (s : State) (core uid n va : Nat) : State :=
  let u := s.unitAt uid
  let c := s.coreAt core
  let st := c.seg n
  if (st.st = 2 ∧ st.va = va) ∨ st.st = 1 then s
  else
    let (tok, s) := s.fresh
    let k : CopyCmd :=
      { slot := 64 + n, agent := 17 * core, unit := uid, dev := u.dev, asid := u.asid, form := 0, cseg := some n, va := va
        smain := FMap.get {} u.segs 3, preload := true, tok := tok }
    s.setCore core { c with copies := c.copies ++ [k], segs := c.segs.ins n { st := 1, va := va } }

/-- Every segment of the unit is present from its VA. -/
def State.preloaded (s : State) (uid : Nat) : Bool :=
  let u := s.unitAt uid
  (List.range u.nsegs).all fun i =>
    let st := (s.coreAt u.core).seg (u.firstSeg + i)
    decide (st.st = 2 ∧ st.va = u.codeva + 4096 * i)

/-- The preload VAs pass the checks of R371. -/
def State.preloadOk (s : State) (u : UnitSt) : Bool :=
  (List.range u.nsegs).all fun i =>
    (s.rangeCause u.dev (FMap.get {} u.segs 3) 2 (u.codeva + 4096 * i) 4096 false).isNone

/-- UNIT_PRELOAD (R371). -/
def execUnitPreload (s : State) : Host.Outcome State Fault Refusal :=
  event s fun m =>
    match m with
    | .unitPreload core =>
      some (match (s.coreAt core).head with
        | none => s
        | some uid =>
          let u := s.unitAt uid
          if (s.coreAt core).asid ≠ u.asid ∨ u.loaded then s
          else if !s.preloadOk u then s.dropArrival uid true
          else if s.preloaded uid then s.setUnit uid { u with loaded := true }
          else (List.range u.nsegs).foldl (fun s i => s.preloadSeg core uid (u.firstSeg + i) (u.codeva + 4096 * i)) s)
    | _ => none

/-- The resident slots of a core that no group occupies. -/
def State.freeSlots (s : State) (core : Nat) : List Nat := (slotAgents core).filter fun a => !(s.grpOf a).live

/-- n of the free slots; the spec does not say which. -/
def pickSlots (seed : Nat) : Nat → List Nat → List Nat
  | 0, _ => []
  | _, [] => []
  | n + 1, l =>
    let a := l.getD ((Config.word seed (16 + n)).toNat % l.length) 0
    a :: pickSlots seed n (l.filter fun x => decide (x ≠ a))

/-- No resident unit of the core holds a record index or row that the unit is granted (R370). -/
def State.grantsFree (s : State) (u : UnitSt) : Bool :=
  s.units.all fun p =>
    let q := p.2
    let apart (f n g m : Nat) : Bool := decide (n = 0 ∨ m = 0 ∨ f + n ≤ g ∨ g + m ≤ f)
    !(q.started && !q.away && decide (q.core = u.core)) ||
      (decide (q.mrec &&& u.mrec = 0) && apart q.opFirst q.opCount u.opFirst u.opCount &&
        apart q.wbFirst q.wbCount u.wbFirst u.wbCount)

/-- The head unit of a core can start. -/
def State.startDue (s : State) (core : Nat) : Bool :=
  match (s.coreAt core).head with
  | none => false
  | some uid =>
    let u := s.unitAt uid
    u.loaded && !s.areaFrozen u u.recs.length && !s.lvFrozen u.dev u.level && decide ((s.coreAt core).asid = u.asid) && decide (u.groups ≤ (s.freeSlots core).length) && s.grantsFree u &&
      s.preloaded uid

/-- The s-registers at a unit's start (R53, R371, R376). -/
def UnitSt.startS (u : UnitSt) : FMap Word :=
  let s : FMap Word := u.args.zipIdx.foldl (fun m p => FMap.put 0 m p.2 p.1) []
  let s := FMap.put 0 s 62 u.link
  if u.node.isSome then FMap.put 0 (FMap.put 0 s 60 (BitVec.ofNat 32 u.recoff)) 61 (BitVec.ofNat 32 u.recs.length) else s

/-- Group k of a unit as it starts at a cycle (R53, R371); k = 16 is the steer thread (R399). -/
def UnitSt.startGroup (u : UnitSt) (uid k cycle : Nat) : Group :=
  let steer := decide (k = 16)
  let x : Slice := { pc := u.entry, mask := if steer then 1 else 15, finished := false }
  { live := true, unit := uid, gidx := k, s := u.startS, slices := if steer then [x] else List.replicate 16 x
    paths := [{ slices := if steer then 1 else 0xFFFF }], segs := u.segs, priv := u.priv, bg := u.bg && !steer
    gens := if steer then [(64, genSeed u.seed u.uidx 16 64)]
      else (List.range 65).map fun n => (n, genSeed u.seed u.uidx k n)
    drainGen := drainSeed u.seed u.uidx k, age := cycle + 1, clk0 := cycle }

/-- The head unit starts. -/
def State.startUnit (s : State) (core uid : Nat) : State :=
  let u := s.unitAt uid
  let c := s.coreAt core
  let slots := pickSlots s.count u.groups (s.freeSlots core)
  let steer := 17 * core + 16
  let joins := !(s.grpOf steer).live
  let s := s.setCore core { c with arrivals := c.arrivals.filter fun x => decide (x ≠ uid) }
  let s := s.setUnit uid { u with slots := slots ++ (if joins then [steer] else []), steer := joins, started := true }
  let s := slots.zipIdx.foldl (fun s p => s.setGrpOf p.1 (u.startGroup uid p.2 s.cycle)) s
  let s := s.openUnit uid u.groups 2
  let s := if joins then (s.setGrpOf steer (u.startGroup uid 16 s.cycle)).lvAdd u.dev u.level 1 else s
  let s := s.putRecords u u.recs
  let key := s.launchOf (s.unitAt uid)
  if s.since.any fun p => decide ((p.1, p.2.1) = key) then s
  else { s with since := s.since ++ [(key.1, key.2, s.past.length)] }

/-- UNIT_START (R371). A segment that another unit's preload or a cfetch has replaced meanwhile is preloaded again. -/
def execUnitStart (s : State) : Host.Outcome State Fault Refusal :=
  event s fun m =>
    match m with
    | .unitStart core =>
      some (match (s.coreAt core).head with
        | none => s
        | some uid =>
          if s.startDue core then s.startUnit core uid
          else
            let u := s.unitAt uid
            if u.loaded && !s.preloaded uid then s.setUnit uid { u with loaded := false } else s)
    | _ => none

/-! ## Small steps -/

/-- The tokens of the tile drains of the batch that a register write belongs to; none where it is no drain (R191). -/
def State.drainToks (s : State) (a : Nat) (o : OutWrite) : List Nat :=
  let ds := (s.coreAt (coreOf a)).tileDrains
  match ds.find? fun d => decide (d.1 = a ∧ d.2.2 = o.tok) with
  | some d => (ds.filter fun e => decide (e.1 = a ∧ e.2.1 = d.2.1)).map fun e => e.2.2
  | none => []

/-- A late write can reach its registers: it has its values, and so has every tile drain of its batch (R191). -/
def State.canLand (s : State) (a : Nat) (o : OutWrite) : Bool :=
  o.vals.isSome && (s.drainToks a o).all fun t => (s.grpOf a).outs.all fun q => decide (q.tok ≠ t) || q.vals.isSome

/-- REGISTER_WRITE_COMPLETE (R36): a late write reaches its registers; the tile drains of a batch do so together (R191), and
bring their own errors (R196). -/
def State.completeWrite (s : State) (a k : Nat) : State :=
  let g := s.grpOf a
  match g.outs[k]? with
  | none => s
  | some o =>
    match s.drainToks a o with
    | [] => s.setGrpOf a (g.land o false)
    | ts => if s.canLand a o then
        s.setGrpOf a ((g.outs.filter fun q => ts.contains q.tok).foldl (fun h q => h.land q true) g) else s

def execRegisterWriteComplete (s : State) : Host.Outcome State Fault Refusal :=
  event s fun m =>
    match m with
    | .registerWriteComplete a k => some (s.completeWrite a k)
    | _ => none

/-- WRITE_VISIBLE_AT_DIE (R252): one of the writes that a die, the host or a peer device does not yet see becomes visible
there. -/
def execWriteVisibleAtDie (s : State) : Host.Outcome State Fault Refusal :=
  event s fun m =>
    match m with
    | .writeVisibleAtDie die =>
      let l := s.vis.filter fun w => w.unseen.contains die
      some (match l[Config.pick s.count % l.length]? with
        | none => s
        | some w => s.publish (fun v => decide (v = die)) fun x => decide (x = w))
    | _ => none

/-- PATH_DEMOTE (R398): the paths of a group whose spin count has reached 64. -/
def execPathDemote (s : State) : Host.Outcome State Fault Refusal :=
  event s fun m =>
    match m with
    | .pathDemote a =>
      let g := s.grpOf a
      some (s.setGrpOf a { g with paths := g.paths.map fun p => if p.spin ≥ 64 then { p with demoted := true } else p })
    | _ => none

/-- BACKGROUND_FORCED_ISSUE (R384): after seven cycles passed over, the pipe's next issue is its oldest background
candidate, which a count of 8 stands for. -/
def execBackgroundForcedIssue (s : State) : Host.Outcome State Fault Refusal :=
  event s fun m =>
    match m with
    | .backgroundForcedIssue core pipe =>
      let c := s.coreAt core
      some (if FMap.get 0 c.passed pipe = 7 then s.setCore core { c with passed := FMap.put 0 c.passed pipe 8 } else s)
    | _ => none

/-- HBM_SCRUB (R463): a line is read and written back corrected; poison stays. -/
def execHbmScrub (s : State) : Host.Outcome State Fault Refusal :=
  event s fun m =>
    match m with
    | .hbmScrub line => some (if isHbm line then s.findErrors (line / 64 * 64) 64 else s)
    | _ => none

end Sys2Proof.Machine
end

