-- ==== Sys2Proof/Machine/Sys.lean ====
section
/-!
DEFINITION. The sys instructions but sys.ckpt: segment writes (R427, R428), control registers (R429 to R431, R456), traps
by instruction (R459), the return from a handler (R460) and sys.halt with CONTINUE's part (R461); and the instants at which
XPOOL takes effect (R430).
-/
namespace Sys2Proof.Machine

/-! ## Segment registers -/

/-- sys.segw (R427, R428). -/
def execSysSegw (x : BitVec 6) (sp : BitVec 8) (s : State) : Host.Outcome State Fault Refusal :=
  issue s 1 [spanS x.toNat 4] [] fun i => privileged i <|
    let w0 := i.sp x.toNat
    let w1 := i.sp (x.toNat + 2)
    if segOk i.s.mode sp.toNat w0 w1 then
      .done (i.s.setGrp { i.g with segs := i.g.segs.ins sp.toNat (segOf w0 w1) })
    else i.access 0x60

/-! ## Control registers -/

/-- Copy faults pending in a context (R429). -/
def State.pendingFaults (s : State) (dev asid : Nat) : Nat :=
  (s.cores.map fun p =>
    ((p.2.copies ++ p.2.shelved).filter fun k => decide (k.dev = dev ∧ k.asid = asid ∧ k.status = 2)).length).sum

/-- The number names a register of the device in its mode (R431): LOGBASEk and CECNTk exist for the dies it has. -/
def csrPresent (mode n : Nat) : Bool :=
  csrNumbers.contains n &&
    !(decide (0x10 ≤ n ∧ n ≤ 0x13 ∧ diesPer mode ≤ n - 0x10) || decide (0x90 ≤ n ∧ n ≤ 0x93 ∧ diesPer mode ≤ n - 0x90))

/-- The RW bits of a register (R429, R456); 0 for one that has none. -/
def csrMask (n : Nat) : Nat :=
  if n = 0x08 then 0x0000FFFFFFFFF000
  else if 0x10 ≤ n ∧ n ≤ 0x13 then 0x80000001FFFFFFFF
  else
    match n with
    | 0x20 => 0x80003FFF
    | 0x21 => 0x7F
    | 0x80 => 0x800000000003FFFC
    | 0x81 => 0x80000001FFFFFFFF
    | 0x82 => 0x80000001FFFFFFFF
    | 0x84 => 0x80000001FFFFFFFF
    | 0x88 => 0x0000FFFFFFFF0000
    | 0x89 => 0x80000001FFFFFFFF
    | 0xA0 => 0xFFFFFFFF
    | 0xA1 => 0xFFFFFFFFFFFFFFFF
    | 0xA2 => 0xFFFFFFFF1F1FFD00
    | _ => 0

/-- The value of a control register. -/
def State.csr (s : State) (dev asid n : Nat) : Nat :=
  let x := s.ctxAt dev asid
  let d := s.devAt dev
  let die (k : Nat) : Die := s.dieAt (firstDie s.mode dev + k)
  let feat (w : BitVec 128 × BitVec 128) : Nat := (if n < 0x32 then w.1 else w.2).toNat
  let t := s.pkg.timer
  if n = 0x00 then asid
  else if 0x10 ≤ n ∧ n ≤ 0x13 then (die (n - 0x10)).logbase.toNat
  else if 0x30 ≤ n ∧ n ≤ 0x33 then
    match d.owner.accepted with
    | some w => if n % 2 = 0 then feat w % pow2 64 else feat w / pow2 64
    | none => 0
  else if 0x90 ≤ n ∧ n ≤ 0x93 then (die (n - 0x90)).ue * pow2 32 + (die (n - 0x90)).ce
  else
    match n with
    | 0x08 => x.ptroot.toNat
    | 0x20 => x.cpyctl.toNat + s.pendingFaults dev asid % pow2 32 * pow2 32
    | 0x21 => d.xpool
    | 0x40 => d.keymap.toNat
    | 0x41 => d.keyerr
    | 0x80 => x.tvec.toNat
    | 0x81 => x.tframe.toNat
    | 0x82 => x.errring.toNat
    | 0x83 => x.errLost % pow2 32 * pow2 32 + x.errCount % pow2 32
    | 0x84 => x.cfring.toNat
    | 0x85 => x.cfLost % pow2 32 * pow2 32 + x.cfCount % pow2 32
    | 0x88 => x.psave.toNat
    | 0x89 => x.preq.toNat
    | 0x8A => x.pstat
    | 0xA0 => match t.nextPeriod with | some p => p.1 | none => t.period
    | 0xA1 => match t.nextEpoch with | some p => p.1 | none => t.epoch
    | 0xA2 => t.lock.toNat + (if t.locked then 512 else 0)
    | 0xA3 => bitsOf 32 t.offset
    | _ => 0

/-- A value breaks the rule of its register (R430, R456). -/
def State.csrBad (s : State) (dev n v : Nat) : Bool :=
  let base := v % pow2 33
  let fits (align size : Nat) : Bool := decide (base % align = 0 ∧ base + size ≤ globalSize s.mode)
  if 0x10 ≤ n ∧ n ≤ 0x13 then
    v.testBit 63 && (!fits 65536 65536 || s.guardedRange (gloc s.mode dev base) 65536)
  else
    match n with
    | 0x21 => decide (64 < v)
    | 0x81 => !fits 64 226304
    | 0x82 => !fits 16384 16384
    | 0x84 => !fits 4096 4096
    | 0xA0 => decide (v < 8333333 ∨ 1000000000 < v)
    | _ => false

/-- Stores a legal value. A write to CPYCTL or PREQ starts what it asks for before anything else happens (R312, R458); one
to FTPERIOD or FTEPOCH takes effect at the deadline after next (R456). -/
def State.csrStore (s : State) (dev asid n v : Nat) : State :=
  let x := s.ctxAt dev asid
  let d := s.devAt dev
  let b := BitVec.ofNat 64 v
  let ctx (y : Ctx) : State := s.setCtx dev asid y
  let timer (t : Timer) : State := s.setPkg { s.pkg with timer := t }
  let first (m : Msg) (s : State) : State := { s with inbox := { msg := m } :: s.inbox }
  let t := s.pkg.timer
  if 0x10 ≤ n ∧ n ≤ 0x13 then
    let k := firstDie s.mode dev + (n - 0x10)
    s.setDie k { s.dieAt k with logbase := b }
  else
    match n with
    | 0x08 => ctx { x with ptroot := b }
    | 0x20 =>
      first (if v.testBit 31 then .cpyctlAbort dev asid (v % pow2 14) else .cpyctlResume dev asid (v % pow2 14))
        (ctx { x with cpyctl := b })
    | 0x21 => s.setDev dev { d with xpool := v }
    | 0x80 => ctx { x with tvec := b }
    | 0x81 => ctx { x with tframe := b }
    | 0x82 => ctx { x with errring := b }
    | 0x84 => ctx { x with cfring := b }
    | 0x88 => ctx { x with psave := b }
    | 0x89 =>
      first (if v.testBit 63 then .restoreRequest dev asid else .preemptRequest dev asid) (ctx { x with preq := b })
    | 0xA0 => timer { t with nextPeriod := some (v, 2) }
    | 0xA1 => timer { t with nextEpoch := some (v, 2) }
    | 0xA2 => timer { t with lock := b }
    | _ => s

/-- sys.csrr (R431). -/
def execSysCsrr (x : BitVec 6) (n : BitVec 8) (s : State) : Host.Outcome State Fault Refusal :=
  issue s 1 [] [spanS x.toNat 2] fun i => privileged i <|
    if csrPresent i.s.mode n.toNat then
      let v := i.s.csr i.dev i.asid n.toNat
      i.results i.s x.toNat [BitVec.ofNat 32 v, BitVec.ofNat 32 (v / pow2 32)]
    else i.access 0x61

/-- sys.csrw (R431): after every earlier access of the group, as after a fence.rel.dev. Fields that are not RW keep their
values (R7). -/
def execSysCsrw (x : BitVec 6) (n : BitVec 8) (s : State) : Host.Outcome State Fault Refusal :=
  issue s 1 [spanS x.toNat 2] [] fun i => privileged i <|
    let v := i.sp x.toNat &&& csrMask n.toNat
    if i.heldBack true then .wait
    else if !csrPresent i.s.mode n.toNat ∨ csrMask n.toNat = 0 then i.access 0x61
    else if i.s.csrBad i.dev n.toNat v then i.access 0x62
    else .done ((i.s.releaseAt (coreOf i.s.cur) 4).csrStore i.dev i.asid n.toNat v)

/-- No unit is resident on a core. -/
def State.coreEmpty (s : State) (core : Nat) : Bool :=
  s.units.all fun p => !(p.2.started && !p.2.away && decide (p.2.core = core))

/-- A new XPOOL value can take effect on a core (R430). -/
def State.poolDue (s : State) (core : Nat) : Bool :=
  decide ((s.coreAt core).withheld ≠ (s.devAt (s.devOfCore core)).xpool) && s.coreEmpty core

/-- XPOOL_TAKE_EFFECT (R430). -/
def execXpoolTakeEffect (s : State) : Host.Outcome State Fault Refusal :=
  event s fun m =>
    match m with
    | .xpoolTakeEffect core =>
      some (if s.poolDue core then
        s.setCore core { s.coreAt core with withheld := (s.devAt (s.devOfCore core)).xpool } else s)
    | _ => none

/-! ## Traps by instruction and the return (R459, R460) -/

/-- sys.trap. -/
def execSysTrap (n : BitVec 8) (s : State) : Host.Outcome State Fault Refusal :=
  issue s 1 [] [] fun i => .trap (i.trap 3 0x70 0 n.toNat)

/-- A trap of the handler kind at the end of its clause; one that goes before it at the same boundary (R450) is taken
there instead. -/
def Ix.raise (i : Ix) (cls n : Nat) : Eff :=
  let u := i.s.unitAt i.g.unit
  if i.g.ecc.isSome || u.ending || (i.g.cancel && (i.s.safePoint u i.c.next).isSome) then .moved (i.s.fallThrough i.c)
  else .trap (i.trap cls 0 0 n)

/-- sys.svc. -/
def execSysSvc (n : BitVec 8) (s : State) : Host.Outcome State Fault Refusal :=
  issue s 1 [] [] fun i => i.raise 0x13 n.toNat

/-- sys.bkpt. -/
def execSysBkpt (n : BitVec 8) (s : State) : Host.Outcome State Fault Refusal :=
  issue s 1 [] [] fun i => i.raise 0x11 n.toNat

/-- sys.eret (R460): it writes s60 to s63 and q0 to q6, and waits for them (R36). A RESUME outside the code space is a trap
in the handler. A frame with REISSUE set puts its request at the tail of the pool queue, under the refusals of R405. DESIGN
CHOICE (log 104): a frame that holds an uncorrectable error raises ECC. -/
def execSysEret (s : State) : Host.Outcome State Fault Refusal :=
  issue s 1 [] [spanS 60 4, (0xCC, 7)] fun i => privileged i <| i.afterAll <|
    match i.g.handler with
    | none => i.access 0x71
    | some h =>
      let a := i.s.cur
      let frame := i.s.lvAt i.dev h.frame
      let (lost, s) := i.s.badRead frame 64
      let resume := s.rdN (frame + 8) 4
      if i.s.lvFrozen i.dev h.frame then .wait
      else if lost then .trapIn s (i.trap 5 0 0 frame)
      else if resume % 4 ≠ 0 then i.align resume
      else if pow2 18 ≤ resume then i.access 0x59
      else
        let t := s.returnFrom a h
        match s.reissue a h with
        | none => .moved t
        | some (which, m, clause, k) =>
          let refused (cause : Nat) : Eff :=
            .trapIn t { cls := 3, cause := cause, index := k, clause := clause, resume := resume, slices := which }
          if (t.grpOf a).blocks &&& m ≠ 0 then refused 0x5A
          else if t.poolCap (coreOf a) < popc 4 m.toNat then refused 0x5B
          else .moved (t.requestBlocks a which m clause k)

/-- sys.halt (R461): the issuing context stops at each group's next clause boundary. -/
def execSysHalt (s : State) : Host.Outcome State Fault Refusal :=
  issue s 1 [] [] fun i => privileged i <|
    let s := i.s.fallThrough i.c
    .moved (s.setCtx i.dev i.asid { s.ctxAt i.dev i.asid with halted := true, haltTold := false })

/-- Every group of a context stands at a clause boundary, and none of its engine operations is in flight; copy faults stay
pending. -/
def State.ctxQuiet (s : State) (dev asid : Nat) : Bool :=
  let mine (u : Nat) : Bool := decide ((s.unitAt u).dev = dev ∧ (s.unitAt u).asid = asid)
  (s.groups.all fun p => !(p.2.live && mine p.2.unit) || p.2.atBoundary) &&
    (s.cores.all fun p =>
      !(p.2.copies.any fun k => decide (k.dev = dev ∧ k.asid = asid ∧ k.status ≠ 2)) &&
      !(p.2.hg.any fun k => mine k.unit) && !(p.2.rays.any fun k => mine k.unit) && !(p.2.trees.any fun k => mine k.unit) &&
      !(p.2.mq.any fun k => mine k.unit) && !(p.2.addons.any fun k => mine k.unit) &&
      !(p.2.batches.any fun k => mine k.unit)) &&
    !(s.colls.any fun k => mine k.unit)

/-- A halted context whose groups and engines have come to rest reports HALTED to the owner. -/
def State.tellHalt (s : State) : State :=
  s.ctxs.foldl (fun s p =>
    let dev := p.1 / 256
    let asid := p.1 % 256
    if p.2.halted && !p.2.haltTold && s.ctxQuiet dev asid then
      (s.setCtx dev asid { s.ctxAt dev asid with haltTold := true }).send (.event dev "HALTED" asid)
    else s) s

end Sys2Proof.Machine
end

