-- ==== Sys2Proof/Machine/Preempt.lean ====
section
/-!
DEFINITION. Pre-emption and restoration of a unit (R408 to R411, R456, R458), the checkpoint and the restore from one
(R467 to R471).
-/
namespace Sys2Proof.Machine

/-! ## Requests (R458) -/

/-- Another request of the context is in progress. -/
def Ctx.busy (x : Ctx) : Bool := x.saved.any fun v => !v.complete || v.restoring

/-- The unit of a context that a level object names, while the object runs. -/
def State.unitNamed (s : State) (dev asid l : Nat) : Option Nat :=
  (s.unitOfLevel dev l).filter fun uid => decide ((s.unitAt uid).asid = asid) && s.lvRunning dev l

/-- Marks a resident unit to be saved into an area. -/
def State.beginSave (s : State) (dev asid uid area : Nat) : State :=
  let u := s.unitAt uid
  let x := s.ctxAt dev asid
  let s := s.setUnit uid { u with preempting := true }
  let s := u.slots.foldl (fun s a => s.updGroup a uid fun g => { g with preempt := true }) s
  s.setCtx dev asid { x with saved := x.saved ++ [{ uid := uid, level := u.level, area := area }] }

/-- PREEMPT_REQUEST (R458). A unit that has not started has no group to save and is refused; one that terminates is not saved,
and the request is over at once. -/
def execPreemptRequest (s : State) : Host.Outcome State Fault Refusal :=
  event s fun m =>
    match m with
    | .preemptRequest dev asid =>
      let x := s.ctxAt dev asid
      let refuse := s.setCtx dev asid { x with pstat := 3 }
      some (match s.unitNamed dev asid (nbits x.preq.toNat 32 0) with
        | none => refuse
        | some uid =>
          let u := s.unitAt uid
          if x.busy || !u.started || u.away then refuse
          else if u.ending then s.setCtx dev asid { x with pstat := 2 }
          else
            let s := s.beginSave dev asid uid x.psave.toNat
            s.setCtx dev asid { s.ctxAt dev asid with pstat := 1 })
    | _ => none

/-- RESTORE_REQUEST (R458). -/
def execRestoreRequest (s : State) : Host.Outcome State Fault Refusal :=
  event s fun m =>
    match m with
    | .restoreRequest dev asid =>
      let x := s.ctxAt dev asid
      let l := nbits x.preq.toNat 32 0
      let named (v : Saved) : Bool := decide (v.level = l ∧ v.area = x.psave.toNat) && v.complete
      some (if x.busy || (s.unitNamed dev asid l).isNone || !(x.saved.any named) then
          s.setCtx dev asid { x with pstat := 3 }
        else
          s.setCtx dev asid { x with
            pstat := 1, saved := x.saved.map fun v => if named v then { v with restoring := true } else v })
    | _ => none

/-! ## Pre-emption points (R408) -/

/-- The clause at a code address waits at its header for one of the outstanding writes given: for all of them (R34), or for a
register of its first instruction (R36). -/
def State.headerHeld (s : State) (a : Nat) (waits : List OutWrite) (pc : Nat) : Bool :=
  let core := coreOf a
  let hdr := s.codeWord core pc
  let c : Clause :=
    { base := pc, hdr := hdr, slices := 0, words := (List.range (hdrField hdr 3 0)).map fun i => s.codeWord core (pc + 4 * (i + 1)) }
  decide (s.segState core pc = 2 ∧ waits ≠ []) &&
    (hdr.getLsbD 22 || { s.grpOf a with outs := waits }.busy c.nextSpans)

/-- A path is parked in one of the waits that R408 lists; sys.ckpt counts while its own checkpoint is under way. -/
def State.parkedAt (s : State) (u : UnitSt) (uid : Nat) (p : Path) : Bool :=
  match p.wait with
  | none => false
  | some (.ckpt _ _) =>
    match (s.devAt u.dev).ckpt with
    | some c => decide (c.2.2 = uid)
    | none => false
  | some _ => true

/-- No path of a group can issue: each is parked or held, or waits at its clause header for the destination of a parked ldt. -/
def State.heldByTag (s : State) (a : Nat) : Bool :=
  let g := { s.grpOf a with clause := none }.resolveAll.split
  let mine := (s.parked.filter fun r => decide (r.agent = a)).map fun r => r.tok
  let waits : List OutWrite := g.outs.filter fun o => mine.contains o.tok
  let u := s.unitAt g.unit
  !waits.isEmpty && g.paths.all fun p => s.parkedAt u g.unit p || p.held || s.headerHeld a waits (g.pcOf p)

/-- The handler's first clause is no pre-emption point (R450). -/
def State.handlerStart (s : State) (a : Nat) (pc : Nat) : Bool :=
  (s.grpOf a).handler.isSome && decide (pc = nbits (s.ctxOf a).tvec.toNat 17 2 * 4)

/-- A group stands at a pre-emption point. A late ECC trap goes before it (R450). One that was restored and waits for the baton it held (R180) is parked. At 255
closed batches it waits there, since PREEMPT closes one more (R35, R176). -/
def State.preemptPoint (s : State) (a : Nat) : Bool :=
  let g := s.grpOf a
  let u := s.unitAt g.unit
  g.live && g.preempt && !g.taken && !u.ending && g.atBoundary && g.ecc.isNone && (isSteer a || decide (FMap.get 0 g.ctr 2 < 255)) &&
    (g.stopped || decide (g.paths = []) || (g.wake.isSome && decide (g.yieldFor = [])) ||
     (match g.nextPc with
      | some pc => ((s.safePoint u pc).isSome && !s.tablesFrozen u && !s.handlerStart a pc) || s.heldByTag a
      | none => g.paths.all fun p => s.parkedAt u g.unit p || p.held))

/-- The size of a unit's save area (R410). -/
def UnitSt.areaSize (u : UnitSt) : Nat := 1028 * 1024 + 256 * (u.opCount + u.wbCount)

/-- The VA of the area that a unit is saved into. -/
def State.areaOf (s : State) (uid : Nat) : Nat :=
  let u := s.unitAt uid
  ((s.ctxAt u.dev u.asid).saved.find? fun v => decide (v.uid = uid)).elim 0 fun v => v.area

/-- An access to some page of a unit's save area stalls: a walk of it, or the page itself, meets a frozen frame (R295). -/
def State.areaStalls (s : State) (uid area : Nat) (write : Bool) : Bool :=
  let u := s.unitAt uid
  let die := firstDie s.mode u.dev
  (List.range ((u.areaSize + 65535) / 65536)).any fun i =>
    let va := area + 65536 * i
    s.walkStalls die u.dev u.asid va ||
      (match (s.translate noCore die u.dev u.asid va write false).1 with
       | .ok p => s.frozen (p.place s.mode u.dev va)
       | .error _ => false)

/-- A group that has taken PREEMPT may be saved: what R408 lists is complete, and every store of its drains and every write to
the unit's buffer rows, which are saved with it, is performed (DEDUCED, log 45); and neither its save area nor a table that
gives its live mask lies in a frozen page. -/
def State.saveReady (s : State) (a : Nat) : Bool :=
  let g := s.grpOf a
  let c := s.coreAt (coreOf a)
  g.live && g.preempt && g.taken &&
    !(c.mq.any fun e => decide (e.agent = a)) && !(c.batches.any fun b => decide (b.agent = a)) &&
    !(c.addons.any fun o => decide (o.agent = a)) && !(c.tileDrains.any fun d => decide (d.1 = a)) &&
    !(c.copies.any fun k => decide (k.unit = g.unit ∧ k.form = 11 ∧ k.cseg = none ∧ k.status = 1)) && !(c.hg.any fun o => decide (o.agent = a)) &&
    !(c.rays.any fun o => decide (o.agent = a)) && !(c.trees.any fun o => decide (o.agent = a)) &&
    !(s.stalled.any fun o => decide (o.agent = a ∧ o.unit = g.unit)) && (g.outs.all fun o => o.vals.isNone) &&
    !s.tablesFrozen (s.unitAt g.unit) && !s.areaStalls g.unit (s.areaOf g.unit) true

/-! ## Saving (R409, R410) -/

/-- The code addresses at which a group's paths and stack entries stand, those that wait behind a handler among them. -/
def Group.stands (g : Group) : List Nat :=
  let saved := match g.handler with
    | some h => h.saved
    | none => []
  ((g.slices ++ saved).filter fun x => !x.finished).flatMap fun x => x.pc :: x.stack.map fun e => e.pc

/-- The live mask of a group: bits 0 to 127 the v-registers, 128 to 191 the s-registers (R94, R409). An entry that cannot be
read gives every register (DESIGN CHOICE, log 104). -/
def State.liveMask (s : State) (u : UnitSt) (g : Group) : Nat :=
  g.stands.foldl (fun m pc =>
    match s.safePoint u pc with
    | none => pow2 192 - 1
    | some i =>
      let a := s.lvAt u.dev (u.lmtab + 32 * i)
      if s.losesAt a 24 then pow2 192 - 1 else m ||| s.rdN a 24) 0

/-- A register outside the mask comes back with its value or with 0 (R98). -/
def Group.masked (g : Group) (count m : Nat) : Group :=
  let keep (r : Nat) : Bool := m.testBit r || (Config.word count (64 + r)).getLsbD 0
  { g with v := g.v.filter fun p => keep p.1, s := g.s.filter fun p => keep (128 + p.1) }

/-- The requests that a group has waiting. -/
def State.requests (s : State) (a : Nat) : Withdrawn :=
  let g := s.grpOf a
  let c := s.coreAt (coreOf a)
  let u := s.unitAt g.unit
  let mine (x : Nat) : Bool := decide (x = a)
  { tags := s.parked.filter fun r => mine r.agent && (match r.kind with
      | .operand _ _ _ => false
      | _ => true)
    sobjs := (s.sobjQ.filter fun r => mine r.1).map fun r => r.2
    blocks := (c.xq.filter fun r => mine r.1).map fun r => r.2
    batons := if g.acc.isSome then [] else (c.batonQ.filter fun r => mine r.1).map fun r => r.2
    pushes := u.queues.flatMap fun q => (q.2.pushers.filter fun r => mine r.1).map fun r => (q.1, r.2)
    pops := u.queues.flatMap fun q => (q.2.poppers.filter fun r => mine r.1).map fun r => (q.1, r.2)
    dones := match u.node with
      | none => []
      | some n => ((s.nodeSt u.dev n).waiters.filter fun r => mine r.1).map fun r => r.2 }

/-- Rows first to first + n − 1 of a buffer. -/
def inRows (first n : Nat) (p : Nat) : Bool := decide (256 * first ≤ p ∧ p < 256 * (first + n))

/-- An 8-byte unit of a unit's save area (R410): behind 1,028 KiB whose layout is the device's, and whose bytes are free
values, the granted operand-buffer rows, then the granted weight-buffer rows. -/
def State.areaUnit (s : State) (u : UnitSt) (i : Nat) : Nat :=
  let head := 1028 * 1024
  let c := s.coreAt u.core
  let row (buf : FMap Byte) (first k : Nat) : Nat :=
    ofBytes ((List.range 8).map fun j => FMap.get 0 buf (256 * first + k + j))
  if 8 * i < head then
    (Config.word s.count (pow2 41 + 2 * i)).toNat + (Config.word s.count (pow2 41 + 2 * i + 1)).toNat * pow2 32
  else if 8 * i < head + 256 * u.opCount then row c.opb u.opFirst (8 * i - head)
  else row c.wb u.wbFirst (8 * i - head - 256 * u.opCount)

/-- Writes the save area, and remembers what it wrote; a page that does not translate is not written. -/
def State.writeArea (s : State) (u : UnitSt) (area n : Nat) : List (Nat × Nat) × State :=
  let dev := u.dev
  (List.range (n / 8)).foldl (fun (acc : List (Nat × Nat) × State) i =>
    let s := acc.2
    let va := area + 8 * i
    match s.translate noCore (firstDie s.mode dev) dev u.asid va true true with
    | (.error _, s) => (acc.1, s)
    | (.ok p, s) =>
      let v := s.areaUnit u i
      let ka := p.place s.mode dev va
      ((8 * i, v) :: acc.1, (s.served ka 8).writeAt 0 noCore ka 8 v)) ([], s)

/-- The save area is read back: it still holds what the device wrote there (R410). A word that is poisoned or lost on the way
counts as changed. -/
def State.areaIntact (s : State) (dev asid : Nat) (v : Saved) : Bool × State :=
  let die := firstDie s.mode dev
  v.sealed.foldl (fun (acc : Bool × State) c =>
    let va := v.area + c.1
    match acc.2.translate noCore die dev asid va false true with
    | (.error _, t) => (false, t)
    | (.ok p, t) =>
      let ka := p.place t.mode dev va
      let (bad, t) := (t.served ka 8).badHome ka 8
      (acc.1 && !bad && decide (t.readAt noCore die ka 8 = c.2), if bad then t.noteUnit v.uid (kplace ka) else t)) (true, s)

/-- Once every group is saved, the unit leaves its core: its rows and records go with it and are free there. -/
def State.finishSave (s : State) (uid : Nat) : State :=
  let u := s.unitAt uid
  let c := s.coreAt u.core
  let op := inRows u.opFirst u.opCount
  let wb := inRows u.wbFirst u.wbCount
  let (cells, s) := s.writeArea u (s.areaOf uid) u.areaSize
  let x := s.ctxAt u.dev u.asid
  let s := s.setCore u.core
    { c with opb := c.opb.filter fun p => !op p.1, wb := c.wb.filter fun p => !wb p.1
             opbPoison := c.opbPoison.filter fun p => !op (8 * p), wbPoison := c.wbPoison.filter fun p => !wb (8 * p)
             recs := c.recs.filter fun p => !u.mrec.getLsbD p.1 }
  let s := s.dropBinds u.core fun b => decide (b.unit = uid)
  let s := s.setUnit uid { u with preempting := false, away := true, steer := false }
  let mine := match (s.devAt u.dev).ckpt with
    | some k => decide (k.2.2 = uid)
    | none => false
  s.setCtx u.dev u.asid { x with
    pstat := if mine then x.pstat else 2
    saved := x.saved.map fun v => if v.uid = uid then
      { v with
        complete := true, opb := c.opb.filter fun p => op p.1, wb := c.wb.filter fun p => wb p.1
        opbPoison := c.opbPoison.filter fun p => op (8 * p), wbPoison := c.wbPoison.filter fun p => wb (8 * p)
        recs := c.recs.filter fun p => u.mrec.getLsbD p.1, binds := c.binds.filter fun b => decide (b.unit = uid)
        sealed := cells } else v }

/-- Saves a stopped group and frees its slot and blocks; a holder of the baton passes it on with its accumulators saved. -/
def State.saveGroup (s : State) (a : Nat) : State :=
  let core := coreOf a
  let uid := (s.grpOf a).unit
  let u := s.unitAt uid
  let w := s.requests a
  let s := s.withdraw a
  let c := s.coreAt core
  let g := s.grpOf a
  let holds := decide (c.baton = some a)
  let mask := s.liveMask u g
  let s := s.readTables uid (g.stands.filterMap fun pc => s.safePoint u pc)
  let g := { (g.masked s.count mask) with
    preempt := false, stopped := false, taken := false, clause := none, b := [], bvalid := 0, wake := none, yieldFor := []
    windows := [], acc := if holds then some (c.acc, c.accPoison) else g.acc }
  let s := if holds then s.passBaton core else s
  let s := { s with groups := s.groups.del a }
  let s := s.servePool core ((s.coreAt core).xq.length + 1)
  let x := s.ctxAt u.dev u.asid
  let s := s.setCtx u.dev u.asid { x with
    saved := x.saved.map fun v => if v.uid = uid then { v with groups := v.groups ++ [(a, g, w)] } else v }
  let done := ((s.ctxAt u.dev u.asid).saved.find? fun v => decide (v.uid = uid)).elim false fun v =>
    u.slots.all fun b => v.groups.any fun q => decide (q.1 = b)
  if done then s.finishSave uid else s

/-- PREEMPT (R408, R409): a group at a pre-emption point stops there, its batch closed (R176); once R408's operations are
complete it is saved. A group of a cancel-pending unit is terminated instead (R365). -/
def execPreempt (s : State) : Host.Outcome State Fault Refusal :=
  event s fun m =>
    match m with
    | .preempt a =>
      let g := s.grpOf a
      some (if s.preemptPoint a then
          if g.cancel then s.takeCancel a
          else
            let s := if isSteer a then s else s.closeBatch a false
            s.setGrpOf a { s.grpOf a with stopped := true, taken := true, clause := none, wake := none, yieldFor := [] }
        else if s.saveReady a then s.saveGroup a
        else s)
    | _ => none

/-! ## Restoration (R411) -/

/-- A saved unit whose restoration is requested can come back: its slots, records, rows and blocks are free on its core. -/
def State.restoreReady (s : State) (v : Saved) : Bool :=
  let u := s.unitAt v.uid
  let blocks := (v.groups.map fun q => popc 4 q.2.1.blocks.toNat).sum
  v.complete && !s.areaStalls v.uid v.area false && decide ((s.coreAt u.core).asid = u.asid) && s.grantsFree u && decide (blocks ≤ s.poolFree u.core) &&
    v.groups.all fun q => !(s.grpOf q.1).live

/-- Reissues the requests of a group, each behind every request that arrived meanwhile. -/
def State.reissueAll (s : State) (uid a : Nat) (w : Withdrawn) : State :=
  let core := coreOf a
  let s := w.tags.foldl (fun s r => s.arriveTag r) s
  let s := w.sobjs.foldl (fun s r =>
    { s with sobjQ := s.sobjQ ++ [(a, r)] }.serveSobj r.2.1 (s.sobjQ.length + 2)) s
  let s := w.blocks.foldl (fun s r =>
    let c := s.coreAt core
    (s.setCore core { c with xq := c.xq ++ [(a, r)] }).servePool core (c.xq.length + 2)) s
  let s := w.batons.foldl (fun s sl =>
    let c := s.coreAt core
    let s := s.setCore core { c with batonQ := c.batonQ ++ [(a, sl)] }
    if c.baton.isNone then s.passBaton core else s) s
  let s := w.pushes.foldl (fun s r =>
    let x := (s.unitAt uid).queue r.1
    (s.setQueue uid r.1 { x with pushers := x.pushers ++ [(a, r.2)] }).serveQueue uid r.1 (x.fuel + 1)) s
  let s := w.pops.foldl (fun s r =>
    let x := (s.unitAt uid).queue r.1
    (s.setQueue uid r.1 { x with poppers := x.poppers ++ [(a, r.2)] }).serveQueue uid r.1 (x.fuel + 1)) s
  match (s.unitAt uid).node with
  | none => s
  | some n =>
    let dev := (s.unitAt uid).dev
    w.dones.foldl (fun s r =>
      let x := s.nodeSt dev n
      (s.setNode dev n { x with waiters := x.waiters ++ [(a, r)] }).dispatch dev n) s

/-- Puts a saved group back into its slot. A holder of the baton holds it again, its accumulators coming back behind the
commands that the matrix engine has accepted (R180), or waits at the head of its queue. -/
def State.placeGroup (s : State) (a : Nat) (g : Group) : State :=
  let core := coreOf a
  let c := s.coreAt core
  let g := { g with age := s.cycle + 1 }
  match g.acc with
  | none => s.setGrpOf a g
  | some (acc, bad) =>
    if c.baton.isNone then
      (s.setCore core { c.restoreAcc a g.unit acc bad with baton := some a }).setGrpOf a { g with acc := none }
    else (s.setCore core { c with batonQ := (a, 0) :: c.batonQ }).setGrpOf a { g with stopped := true }

/-- The groups of a saved unit that ends drop their holds at the objects' homes (R265). -/
def State.dropSaved (s : State) (v : Saved) : State :=
  v.groups.foldl (fun s q => q.2.1.holds.foldl (fun (s : State) h => s.freeSobj h.1 h.2) s) s

/-- Restores a unit, or ends it with status error when its save area was changed (R410). -/
def State.restoreUnit (s : State) (dev asid : Nat) (v : Saved) : State :=
  let u := s.unitAt v.uid
  let x := s.ctxAt dev asid
  let s := s.setCtx dev asid { x with pstat := 2, saved := x.saved.filter fun q => decide (q.uid ≠ v.uid) }
  let (intact, s) := s.areaIntact dev asid v
  if intact then
    let c := s.coreAt u.core
    let s := s.setCore u.core
      { c with opb := v.opb.foldl (fun m p => FMap.put 0 m p.1 p.2) (c.opb.filter fun p => !inRows u.opFirst u.opCount p.1)
               wb := v.wb.foldl (fun m p => FMap.put 0 m p.1 p.2) (c.wb.filter fun p => !inRows u.wbFirst u.wbCount p.1)
               opbPoison := v.opbPoison ++ c.opbPoison.filter fun p => !inRows u.opFirst u.opCount (8 * p)
               wbPoison := v.wbPoison ++ c.wbPoison.filter fun p => !inRows u.wbFirst u.wbCount (8 * p)
               recs := v.recs.foldl (fun m p => m.ins p.1 p.2) c.recs, binds := c.binds ++ v.binds }
    let s := s.setUnit v.uid { u with away := false, steer := u.slots.any isSteer }
    let s := v.groups.foldl (fun s q => s.placeGroup q.1 q.2.1) s
    let s := v.groups.foldl (fun s q => s.reissueAll v.uid q.1 q.2.2) s
    (s.unitAt v.uid).abars.foldl (fun s b => s.serveAbar v.uid b.1) s
  else
    ((s.dropSaved v).setUnit v.uid { u with away := false, slots := [], errored := true, ending := true }).lvSetCtr dev u.level 0

/-- UNIT_RESTORE (R411). -/
def execUnitRestore (s : State) : Host.Outcome State Fault Refusal :=
  event s fun m =>
    match m with
    | .unitRestore dev l =>
      some (match s.unitOfLevel dev l with
        | none => s
        | some uid =>
          let asid := (s.unitAt uid).asid
          match (s.ctxAt dev asid).saved.find? fun v => decide (v.uid = uid) with
          | none => s
          | some v => if v.restoring && s.restoreReady v then s.restoreUnit dev asid v else s)
    | _ => none

/-- A request whose unit has ended or terminates meanwhile is over: PSTAT shows 2 (R458). -/
def State.settleSaves (s : State) : State :=
  s.ctxs.foldl (fun s p =>
    let dev := p.1 / 256
    let x := s.ctxAt dev (p.1 % 256)
    let ended (v : Saved) : Bool := (FMap.find s.units v.uid).isNone || (s.unitAt v.uid).ending
    if x.saved.any ended then
      let s := (x.saved.filter ended).foldl (fun s v => s.dropSaved v) s
      s.setCtx dev (p.1 % 256) { s.ctxAt dev (p.1 % 256) with
        pstat := if x.pstat = 1 then 2 else x.pstat, saved := x.saved.filter fun v => !ended v }
    else s) s

/-! ## Checkpoint (R467 to R470) -/

/-- sys.ckpt: parks until the checkpoint is over; with no tier set it completes with NO_TIER and writes nothing. -/
def execSysCkpt (x y : BitVec 6) (s : State) : Host.Outcome State Fault Refusal :=
  issue s 1 [spanS x.toNat 2] [spanS y.toNat 1] fun i => privileged i <|
    if (i.s.devAt i.dev).tier = [] then
      let (tok, s) := i.s.fresh
      .moved ((s.setGrp (s.grp.late tok i.c.slices [.s y.toNat] (some [2]))).fallThrough i.c)
    else
      let (tok, s) := i.s.fresh
      let s := s.setGrp (s.grp.late tok i.c.slices [.s y.toNat] none)
      .moved (i.parked s (.ckpt (i.sp x.toNat) tok))

/-- The ckpt wait of a group. -/
def Group.ckptWait (g : Group) : Option (Nat × Nat) :=
  g.paths.findSome? fun p =>
    match p.wait with
    | some (.ckpt va tok) => some (va, tok)
    | _ => none

/-- A group of the device that waits in sys.ckpt. -/
def State.ckptAgent (s : State) (dev : Nat) : Option Nat :=
  (s.groups.find? fun p => p.2.live && p.2.ckptWait.isSome && decide ((s.unitAt p.2.unit).dev = dev)).map Prod.fst

/-- A checkpoint waits or runs: units that arrive wait to start (R469). -/
def State.ckptHolds (s : State) (dev : Nat) : Bool := (s.devAt dev).ckpt.isSome || (s.ckptAgent dev).isSome

/-- The issuing unit is the only resident one and every engine operation of the device is complete (R469 step 1). -/
def State.ckptQuiet (s : State) (dev uid : Nat) : Bool :=
  (s.units.all fun p => decide (p.1 = uid ∨ p.2.dev ≠ dev) || !p.2.started || p.2.away) &&
    (s.cores.all fun p => decide (s.devOfCore p.1 ≠ dev) ||
      decide ((p.2.copies.filter fun k => decide (k.slot < 64)) = [] ∧ p.2.shelved = [] ∧ p.2.hg = [] ∧ p.2.rays = [] ∧
        p.2.trees = [] ∧ p.2.mq = [] ∧ p.2.addons = [] ∧ p.2.batches = [])) &&
    !(s.colls.any fun k => decide (k.dev = dev)) && !(s.stalled.any fun o => decide (s.devOfCore o.core = dev))

/-- CHECKPOINT_START (R469 steps 1 and 2): the issuing unit begins to be saved. -/
def execCheckpointStart (s : State) : Host.Outcome State Fault Refusal :=
  event s fun m =>
    match m with
    | .checkpointStart dev =>
      some (match s.ckptAgent dev with
        | none => s
        | some a =>
          let g := s.grpOf a
          let asid := (s.unitAt g.unit).asid
          match g.ckptWait with
          | none => s
          | some (va, _) =>
            if (s.devAt dev).ckpt.isNone && s.ckptQuiet dev g.unit && !(s.ctxAt dev asid).busy then
              let s := s.setDev dev { s.devAt dev with ckpt := some (asid, a, g.unit) }
              s.beginSave dev asid g.unit va
            else s)
    | _ => none

/-- A place of memory belongs to a device: its SRAM slices, queue SRAM and HBM (not instruction memory). -/
def placeOfDev (mode dev a : Nat) : Bool :=
  (isSram a || isQueue a || isHbm a) && decide (devOfDie mode (dieOfPlace mode a) = dev)

/-- The 64 KiB HBM frames that a context's tables map or lie in, by the levels below a table (R468). -/
def State.tableFrames (s : State) (dev : Nat) : Nat → Nat → Nat → List Nat
  | 0, _, _ => []
  | fuel + 1, lv, a =>
    let n := if lv < 3 then 512 else 32
    (a / 65536) :: (List.range n).flatMap fun i =>
      let e := s.rdN (hloc s.mode dev (a + 8 * i)) 8
      if !pteV e then []
      else if pteLeaf e then
        (if pteLoc e then [] else (List.range (pageSize lv / 65536)).map fun k => pteAddr e / 65536 + k)
      else s.tableFrames dev fuel (lv + 1) (pteAddr e)

def State.mappedFrames (s : State) (dev : Nat) : List Nat :=
  (s.ctxs.filter fun p => decide (p.1 / 256 = dev)).flatMap fun p =>
    s.tableFrames dev 4 1 (nbits p.2.ptroot.toNat 47 12 * 4096)

/-- A place goes into the image: SRAM, queue SRAM and the mapped HBM frames of the device (R468). -/
def imagePlace (mode dev : Nat) (frames : List Nat) (a : Nat) : Bool :=
  placeOfDev mode dev a && (!isHbm a || frames.contains (hbmPa mode a / 65536))

/-- The peers of a tier of p that hold the parity of stripe s, and unit i of an image (R468). -/
def parityPeer (p s : Nat) : Nat := s % p
def unitPeer (p i : Nat) : Nat :=
  let k := i % (p - 1)
  if k < parityPeer p (i / (p - 1)) then k else k + 1

/-- A peer holds a unit of stripe s: its parity, or a unit of data. -/
def Image.holds (im : Image) (s q : Nat) : Bool :=
  decide (q = parityPeer im.peers s) ||
    (List.range (im.peers - 1)).any fun k =>
      decide (s * (im.peers - 1) + k < im.units1M ∧ unitPeer im.peers (s * (im.peers - 1) + k) = q)

/-- The peers from which stripe s lacks a unit, where peers are missing and single units, each a peer and a stripe, are
damaged. One of them is rebuilt from the others by their XOR (R471). -/
def Image.lacks (im : Image) (gone : List Nat) (damaged : List (Nat × Nat)) (s : Nat) : List Nat :=
  (List.range im.peers).filter fun q => im.holds s q && (gone.contains q || damaged.contains (q, s))

/-- Some stripe lacks two units. Stripe 0 is full, so that two missing peers show there. -/
def Image.lost (im : Image) (gone : List Nat) (damaged : List (Nat × Nat)) : Bool :=
  (0 :: damaged.map Prod.snd).any fun s => decide (2 ≤ (im.lacks gone damaged s).length)

/-! ### The bytes of an image (R468) -/

/-- What the header of an image carries, as numbers: the device mode, the frame map, each context's ASID, control registers,
page-table root and engine slot grants, and the keys wrapped under K. How the device codes it the spec does not say (log 33). -/
def Image.header (im : Image) : List Nat :=
  im.mode :: im.frames ++ im.logbase.map BitVec.toNat ++
    (im.ctxs.flatMap fun p =>
      [p.1, p.2.job, p.2.pstat] ++
        [p.2.ptroot, p.2.cpyctl, p.2.tvec, p.2.tframe, p.2.errring, p.2.cfring, p.2.psave, p.2.preq].map BitVec.toNat ++
        p.2.cores ++ p.2.trees ++ p.2.objs ++ p.2.decls :: p.2.migs) ++
    im.keyInst.flatMap fun p => [p.1, Config.wrap im.wrapKey p.2]

/-- The place of memory that byte i of an image comes from: behind the header of 64 MiB the SRAM slices in order, the queue SRAM,
then the HBM frames. -/
def Image.placeAt (im : Image) (i : Nat) : Option Nat :=
  let d := diesPer im.mode
  let k := firstDie im.mode im.dev
  let sram := d * pow2 31
  let queue := d * pow2 22
  if i < pow2 26 then none
  else if i < pow2 26 + sram then some (k * pow2 31 + (i - pow2 26))
  else if i < pow2 26 + sram + queue then some (qloc k (i - pow2 26 - sram))
  else
    let j := i - pow2 26 - sram - queue
    im.frames[j / 65536]?.map fun f => hloc im.mode im.dev (65536 * f + j % 65536)

/-- Byte i of an image, as stored. -/
def Image.byte (im : Image) (i : Nat) : Byte :=
  match im.placeAt i with
  | some a => FMap.get 0 im.mem a
  | none => Config.imageByte im.header i

/-- Byte b of unit u, an absent unit read as zero. -/
def Image.unitByte (im : Image) (u b : Nat) : Byte := if u < im.units1M then im.byte (u * pow2 20 + b) else 0

/-- The XOR of bytes. -/
def xorBytes (l : List Byte) : Byte := l.foldr (fun x y => x ^^^ y) 0

/-- Byte b of what the peers store of stripe s, in their order: the data units in ascending order, and the parity at its peer. -/
def Image.row (im : Image) (s b : Nat) : List Byte :=
  let data := (List.range (im.peers - 1)).map fun k => im.unitByte (s * (im.peers - 1) + k) b
  data.insertIdx (parityPeer im.peers s) (xorBytes data)

def Image.peerByte (im : Image) (q s b : Nat) : Byte := (im.row s b).getD q 0

/-- The same byte rebuilt from the other peers of the stripe (R471). -/
def Image.rebuilt (im : Image) (q s b : Nat) : Byte := xorBytes ((im.row s b).eraseIdx q)

/-- The SHA-384 digest of an image (R468): of its generation and of what its bytes are made from. -/
def Image.digest (im : Image) : Nat :=
  Config.digest (im.gen :: im.header ++ im.mem.flatMap fun c => [c.1, c.2.toNat])

/-- The image size of a device in bytes, header, SRAM, queue SRAM and mapped frames (R468). -/
def State.imageSize (s : State) (dev : Nat) : Nat :=
  let d := diesPer s.mode
  64 * pow2 20 + d * pow2 31 + d * pow2 22 + 65536 * (s.mappedFrames dev).eraseDups.length

/-- The image of a device (R468) under the checkpoint key K, for the slot that does not hold the newest complete one (R467). -/
def State.image (s : State) (dev asid agent uid tok K : Nat) : Image :=
  let d := s.devAt dev
  let frames := sortBy (fun a b => decide (a ≤ b)) (s.mappedFrames dev).eraseDups
  let here (a : Nat) : Bool := imagePlace s.mode dev frames a
  { dev := dev, frames := frames, wrapKey := K, mode := s.mode, mem := s.mem.filter fun c => here c.1, tags := s.tags.filter fun p => here (8 * p.1)
    crypt := s.crypt.filter fun p => here (16 * p.1), poison := s.poison.filter fun p => here (8 * p)
    ctxs := s.ctxs.filter fun p => decide (p.1 / 256 = dev), units := s.units.filter fun p => decide (p.2.dev = dev)
    keymap := d.keymap, keyInst := d.keyInst, gobjs := d.gobjs, nodes := d.nodes
    levels := s.levels.filter fun p => decide (p.1 = dev), spent := s.spent.filter fun p => decide (p.1 = dev)
    vers := s.vers.filter fun p => decide (p.1 = dev)
    logbase := (diesOfDev s.mode dev).map fun k => (s.dieAt k).logbase
    asid := asid, uid := uid, agent := agent, tok := tok, cycle := s.cycle
    slot := (d.images.head?.map fun im => 1 - im.slot).getD 0, gen := (d.images.head?.map fun im => im.gen + 1).getD 0
    units1M := (s.imageSize dev + pow2 20 - 1) / pow2 20, peers := d.tier.length }

/-- Wakes the saved path that waits in sys.ckpt and gives its status. -/
def State.endCkpt (s : State) (agent uid tok status : Nat) : State :=
  (s.updGroup agent uid fun g => { g with paths := g.paths.map fun p =>
    match p.wait with
    | some (.ckpt _ t) => if t = tok then { p with wait := none } else p
    | _ => p }).deliver agent uid tok [BitVec.ofNat 32 status]

/-- The unit that took a checkpoint comes back at once: it is the only one (R469 step 4, R471 step 4). -/
def State.resumeCkpt (s : State) (dev asid agent uid tok status : Nat) : State :=
  let s := s.endCkpt agent uid tok status
  match (s.ctxAt dev asid).saved.find? fun v => decide (v.uid = uid) with
  | none => s
  | some v =>
    let pstat := (s.ctxAt dev asid).pstat
    let s := s.restoreUnit dev asid v
    s.setCtx dev asid { s.ctxAt dev asid with pstat := pstat }

/-- The checkpoint whose unit is saved, with the token of its status. -/
def State.ckptSaved (s : State) (dev : Nat) : Option (Nat × Nat × Nat × Nat) :=
  match (s.devAt dev).ckpt with
  | none => none
  | some (asid, a, uid) =>
    match (s.ctxAt dev asid).saved.find? fun v => decide (v.uid = uid) && v.complete with
    | none => none
    | some v => (v.groups.findSome? fun q => if q.1 = a then q.2.1.ckptWait else none).map fun w => (asid, a, uid, w.2)

/-- The image is written, or the checkpoint fails: the slot that does not hold the newest complete image is the one that is
written (R467). The trailer at each peer completes it, and the owner gets K in its session (R468). -/
def State.finishCkpt (s : State) (dev : Nat) (complete : Bool) : State :=
  match s.ckptSaved dev with
  | none => s
  | some (asid, a, uid, tok) =>
    let (K, s) := s.fresh
    let d := s.devAt dev
    let img := s.image dev asid a uid tok K
    let s := s.setDev dev { d with
      ckpt := none, images := if complete then img :: d.images.take 1 else d.images.take 1 }
    let s := d.tier.zipIdx.foldl (fun s p => s.send (.ckpt dev p.1.1 p.2 img)) s
    let s := if complete then d.tier.foldl (fun s p => s.send (.trailer dev p.1 img.slot img.gen img.digest)) s else s
    let s := if complete && d.owner.sess then s.send (.ckptKey dev K) else s
    s.resumeCkpt dev asid a uid tok (if complete then 0 else 3)

/-- CHECKPOINT_COMPLETE (R469 steps 3 and 4). -/
def execCheckpointComplete (s : State) : Host.Outcome State Fault Refusal :=
  event s fun m =>
    match m with
    | .checkpointComplete dev complete => some (s.finishCkpt dev complete)
    | _ => none

/-- A checkpoint whose unit has gone is over. -/
def State.settleCkpt (s : State) (dev : Nat) : State :=
  match (s.devAt dev).ckpt with
  | none => s
  | some (_, _, uid) =>
    if (FMap.find s.units uid).isNone || (s.unitAt uid).ending then s.setDev dev { s.devAt dev with ckpt := none } else s

end Sys2Proof.Machine
end

