-- ==== Sys2Proof/Machine/Trans.lean ====
section
/-!
DEFINITION. Translation events: the pt instructions (R286, R290, R295 to R303), the walk on its own (R281), the application
of the log (R284, R287), the migration copier (R293 to R296) and the gust lists (R299).
-/
namespace Sys2Proof.Machine

/-! ## The invalidation log (R285 to R290) -/

/-- A die of a device whose LOGBASE is not valid. -/
def State.logMissing (s : State) (dev : Nat) : Bool :=
  (diesOfDev s.mode dev).any fun d => !(s.dieAt d).logbase.getLsbD 63

/-- Stores an entry in a die's log (R286 step 3), where a migration record has taken the slot (R296), or once its page has
thawed (R295). -/
def State.storeLog (s : State) (die n w0 w1 : Nat) : State :=
  let a := s.logSlot die n
  if s.frozen a then s.owe (.log die n w0 w1) else (s.wrHome a 8 w0).wrHome (a + 8) 8 w1

/-- Appends an entry under the next sequence number to the log of every die of a device, a die that has not applied the
slot's last entry applying its log first (R286 steps 2 and 3). -/
def State.appendLog (s : State) (dev w0 count : Nat) : Nat × State :=
  let d := s.devAt dev
  let n := (d.invSeq + 1) % pow2 32
  let dies := diesOfDev s.mode dev
  let s := dies.foldl (fun s k => if 4096 < (n + pow2 32 - (s.dieAt k).gen) % pow2 32 then s.applyLog k else s) s
  let s := s.setDev dev { s.devAt dev with invSeq := n }
  (n, dies.foldl (fun s k => s.storeLog k n w0 (n + pow2 32 * count)) s)

/-- pt.inv (R286, R300). -/
def execPtInv (x y : BitVec 6) (s : State) : Host.Outcome State Fault Refusal :=
  issue s 1 [spanS x.toNat 2, spanS y.toNat 1] [] fun i => privileged i <|
    let va := i.sp x.toNat
    let r := i.sx y.toNat
    let count := r % 65536
    let asid := nbits r 23 16
    let kind := nbits r 25 24
    if i.heldBack true then .wait
    else if kind = 3 ∨ (kind = 0 ∧ (va % 65536 ≠ 0 ∨ pow2 48 ≤ va)) ∨ ((kind = 1 ∨ kind = 2) ∧ (va ≠ 0 ∨ count ≠ 0)) ∨
        (kind = 2 ∧ asid ≠ 0) then i.access 0x20
    else if i.s.logMissing i.dev then i.access 0x21
    else .done ((i.s.releaseAt (coreOf i.s.cur) 4).appendLog i.dev (kind * pow2 58 + asid * pow2 48 + va) count).2

/-- pt.apply (R300). -/
def execPtApply (s : State) : Host.Outcome State Fault Refusal :=
  issue s 1 [] [] fun i => privileged i <|
    let die := dieOfCore (coreOf i.s.cur)
    if (i.s.dieAt die).logbase.getLsbD 63 then .done (i.s.applyLog die) else i.access 0x21

/-- A stamp lies below a sequence number (R289). -/
def stampBelow (gen : Option Nat) (target : Nat) : Bool :=
  match gen with
  | some g => seqBelow g target
  | none => false

/-- A run of a copy that has begun is stamped below a sequence number. -/
def CopyCmd.older (k : CopyCmd) (target : Nat) : Bool := stampBelow (k.run.map fun r => r.2.2) target

/-- The tokens of the accesses of a device under way that are stamped below a sequence number (R289, R290), and of those
that an agent has under way itself. -/
def State.olderAccesses (s : State) (dev target agent : Nat) : List Nat :=
  let mine (core : Nat) : Bool := decide (s.devOfCore core = dev)
  let waits := (s.stalled.filter fun o =>
    mine o.core && (stampBelow o.gen target || decide (o.agent = agent))).map fun o => o.tok
  let parked := (s.parked.filter fun r => mine (coreOf r.agent) && stampBelow r.gen target).map fun r => r.tok
  let copies := s.cores.flatMap fun p =>
    if mine p.1 then (p.2.copies.filter fun k => k.older target).map fun k => k.tok else []
  let drains := s.cores.flatMap fun p =>
    if mine p.1 then
      (p.2.mq.filter fun e => seqBelow e.gen target).flatMap (fun e =>
        match e.cmd with
        | .mdrn _ (.mem _ _) _ _ _ _ tok => [e.tok, tok]
        | _ => []) ++ ((p.2.addons.filter fun a => a.tile.isNone && seqBelow a.gen target).map fun a => a.tok)
    else []
  let colls := (s.colls.filter fun c => decide (c.dev = dev) && stampBelow c.gen target).map fun c => c.tok
  waits ++ parked ++ copies ++ drains ++ colls

/-- What a pt.fence waits for: the older accesses (R290), the freeze of each record between its pt.migf and its pt.migd
(R303), and each record that forwards, until it is freed (R296). -/
def State.olderToks (s : State) (dev target agent : Nat) : List Nat :=
  s.olderAccesses dev target agent ++
    (s.devAt dev).migs.filterMap fun m => if m.st = 0 then none else some (if m.st = 3 then m.tok else m.tok + 1)

/-- Some of what a pt.fence with a target waits for is still under way. -/
def State.stillOlder (s : State) (target : Nat) (toks : List Nat) : Bool :=
  (s.stalled.any fun o => toks.contains o.tok) || (s.parked.any fun r => toks.contains r.tok) ||
    (s.cores.any fun p => (p.2.mq.any fun e => toks.contains e.tok) || (p.2.addons.any fun a => toks.contains a.tok) ||
      (p.2.copies.any fun k => toks.contains k.tok && k.older target)) ||
    (s.colls.any fun c => toks.contains c.tok) ||
    (s.devs.any fun p => p.2.migs.any fun m => toks.contains m.tok || (decide (m.st ≠ 3) && toks.contains (m.tok + 1)))

/-- pt.fence (R290): every die of the device applies its log, and the path waits for the accesses stamped below the
target; then it has the effect of a fence.acq.dev. It is legal at both privilege levels (R75). -/
def execPtFence (s : State) : Host.Outcome State Fault Refusal :=
  issue s 1 [] [] fun i =>
    if i.s.logMissing i.dev then i.access 0x21
    else
      let target := (i.s.devAt i.dev).invSeq
      let s := (diesOfDev i.s.mode i.dev).foldl (fun s k => s.applyLog k) i.s
      let toks := s.olderToks i.dev target s.cur
      if s.stillOlder target toks then .moved (i.parked s (.ptFence target toks))
      else .moved ((s.fenceAcqAt (coreOf s.cur) 4).fallThrough i.c)

/-- LOG_APPLY (R287): a die may apply its log at any time. -/
def execLogApply (s : State) : Host.Outcome State Fault Refusal :=
  event s fun m =>
    match m with
    | .logApply die => some (s.applyLog die)
    | _ => none

/-- PAGE_WALK (R281, R282): a walk for a core, which needs no bit of the leaf; a translation it finds is held, one it does
not find is not remembered. -/
def execPageWalk (s : State) : Host.Outcome State Fault Refusal :=
  event s fun m =>
    match m with
    | .pageWalk core va =>
      let asid := (s.coreAt core).asid
      let dev := s.devOfCore core
      some (if pow2 48 ≤ va then s
        else
          match s.walk (dieOfCore core) dev asid va with
          | none => s
          | some w => (s.touchWalk (dieOfCore core) dev asid va).hold core asid { va := va / pageSize w.lv * pageSize w.lv, size := pageSize w.lv, e := w.e })
    | _ => none

/-! ## Migration (R293 to R297, R301) -/

/-- The leaf of a page as its home holds it: where a walk reads an older value, it walks again. -/
def State.leafOf (s : State) (die dev asid va : Nat) : Option Walked × State :=
  if pow2 48 ≤ va then (none, s)
  else
    let s := s.touchWalk die dev asid va
    match s.walk die dev asid va with
    | none => (none, s)
    | some w =>
      if s.homeAt w.place 8 = w.e then (some w, s)
      else
        let s := s.publish (fun v => decide (v = die)) fun _ => true
        (s.walk die dev asid va, s)

/-- Rewrites a leaf at its home. -/
def State.putLeaf (s : State) (w : Walked) (e : Nat) : State :=
  let r := kplace (s.route w.place)
  ((s.touch r).writeAt 0 noCore w.place 8 e).settleAt r 8

/-- The leaf entry of the page of a record, valid or not, where the tables still lead to it. -/
def State.pageEntry (s : State) (die dev : Nat) (m : Mig) : Option Walked :=
  let ps := s.walkReads die dev m.asid m.va
  let lv := if m.size = pow2 21 then 3 else 4
  if ps.length = lv then (ps.getLast?).map fun p => ⟨p, s.homeAt p 8, lv⟩ else none

/-- An entry with its MIG field set. -/
def withMig (e mig : Nat) : Nat := e - pteMig e * pow2 55 + mig * pow2 55

/-- The record of a context that holds a page. -/
def Device.migAt (d : Device) (asid va : Nat) : Option Mig :=
  d.migs.find? fun m => decide (m.asid = asid ∧ m.va ≤ va ∧ va < m.va + m.size)

def Device.putMig (d : Device) (m : Mig) : Device :=
  { d with migs := d.migs.map fun x => if x.idx = m.idx then m else x }
def Device.dropMig (d : Device) (idx : Nat) : Device := { d with migs := d.migs.filter fun x => decide (x.idx ≠ idx) }

/-- The place of a frame (R280). -/
def framePlace (mode dev : Nat) (loc : Bool) (a : Nat) : Nat := if loc then gloc mode dev a else hloc mode dev a

/-- A destination pair that pt.migb refuses (R301). -/
def State.badFrame (s : State) (dev leaf dst size : Nat) : Bool :=
  let a := pteAddr dst
  decide (dst ≠ (if pteLoc dst then pow2 57 else 0) + pteKey dst * pow2 49 + a) || decide (a % size ≠ 0) ||
    (if pteLoc dst then
      decide (globalSize s.mode < a + size ∨ pteKey dst ≠ 0) || s.guardedRange (gloc s.mode dev a) size
     else decide (hbmSize s.mode < a + size)) ||
    (decide (pteLoc dst = pteLoc leaf) && decide (a = pteAddr leaf))

/-- A free record of those a context may hold (R293, R423). -/
def State.freeMig (s : State) (dev asid : Nat) : Option Nat :=
  let d := s.devAt dev
  let many := match d.owner.accepted with
    | some w => w.2.getLsbD 6
    | none => false
  if !many && decide (16 ≤ (d.migs.filter fun m => decide (m.asid = asid)).length) then none
  else (s.ctxAt dev asid).migs.find? fun i => !(d.migs.any fun m => decide (m.idx = i))

/-- The walk of a migration instruction stalls at a frozen frame (R295). -/
def Ix.walkHeld (i : Ix) (va : Nat) : Bool := i.s.walkStalls (dieOfCore (coreOf i.s.cur)) i.dev i.asid va

/-- pt.migb (R293, R301). -/
def execPtMigb (x y : BitVec 6) (z : BitVec 8) (s : State) : Host.Outcome State Fault Refusal :=
  issue s 1 [spanS x.toNat 2, spanS y.toNat 2] [(z.toNat, 1)] fun i => privileged i <| i.afterMoving <|
    let va := i.sp x.toNat
    let dst := i.sp y.toNat
    let st (s : State) (n : Nat) : Eff := i.status s (z.toNat - 0x80) n
    if i.walkHeld va then .wait else
    match i.s.leafOf (dieOfCore (coreOf i.s.cur)) i.dev i.asid va with
    | (none, s) => st s 1
    | (some w, s) =>
      let d := s.devAt i.dev
      let size := pageSize w.lv
      if pteMig w.e = 1 ∨ pteMig w.e = 2 ∨ (d.migAt i.asid va).isSome then st s 2
      else if w.lv = 2 then st s 3
      else if s.badFrame i.dev w.e dst size then st s 4
      else
        match s.freeMig i.dev i.asid with
        | none => st s 5
        | some idx =>
          let (tok, s) := s.fresh
          let (_, s) := s.fresh
          let m : Mig :=
            { idx := idx, tok := tok, asid := i.asid, va := va / size * size, size := size, srcLoc := pteLoc w.e
              src := framePlace s.mode i.dev (pteLoc w.e) (pteAddr w.e), dstLoc := pteLoc dst
              dst := framePlace s.mode i.dev (pteLoc dst) (pteAddr dst), dstKey := pteKey dst, srcKey := pteKey w.e }
          let s := s.putLeaf w (withMig w.e 1)
          st (s.setDev i.dev { s.devAt i.dev with migs := d.migs ++ [m] }) 0

/-- pt.migf (R295, R301): the freeze takes effect at every home of the source frame. PRESUMED (log 68): at all of them at the
same instant. -/
def execPtMigf (x : BitVec 6) (z : BitVec 8) (s : State) : Host.Outcome State Fault Refusal :=
  issue s 1 [spanS x.toNat 2] [(z.toNat, 1)] fun i => privileged i <| i.afterMoving <|
    let va := i.sp x.toNat
    if i.walkHeld va then .wait else
    match (i.s.devAt i.dev).migAt i.asid va with
    | none => i.status i.s (z.toNat - 0x80) 2
    | some m =>
      if m.st ≠ 0 then i.status i.s (z.toNat - 0x80) 2
      else
        let s := match i.s.leafOf (dieOfCore (coreOf i.s.cur)) i.dev i.asid va with
          | (some w, s) => s.putLeaf w (withMig w.e 2)
          | (none, s) => s
        i.status (s.setDev i.dev ((s.devAt i.dev).putMig { m with st := 1 })) (z.toNat - 0x80) 0

/-- Every access that stalled at a frame is performed, in order of arrival, whatever else its instruction still waits for;
parked tag requests there arrive again. -/
def State.thaw (s : State) (m : Mig) : State :=
  let here (ka : Nat) : Bool := decide (m.src ≤ kplace ka ∧ kplace ka < m.src + m.size)
  let toks := (s.stalled.filter fun o => o.elems.any fun e => e.arrived && here e.addr).map fun o => (o.tok, o.drain)
  let s := toks.foldl (fun (s : State) t =>
    match s.stalled.zipIdx.find? fun p => decide ((p.1.tok, p.1.drain) = t) with
    | none => s
    | some p => s.performPart p.2 p.1 (p.1.elems.filter fun e => e.arrived && here e.addr)) s
  let tags := s.parked.filter fun r => here r.addr
  tags.foldl (fun s r => s.arriveTag r) { s with parked := s.parked.filter fun r => !here r.addr }

/-- pt.migd (R296, R301): waits until its record is ready. -/
def execPtMigd (x : BitVec 6) (z : BitVec 8) (s : State) : Host.Outcome State Fault Refusal :=
  issue s 1 [spanS x.toNat 2] [(z.toNat, 1)] fun i => privileged i <| i.afterMoving <|
    let va := i.sp x.toNat
    let core := coreOf i.s.cur
    if i.walkHeld va then .wait else
    let st (s : State) (n : Nat) : Eff := i.status s (z.toNat - 0x80) n
    match (i.s.devAt i.dev).migAt i.asid va with
    | none => st i.s 2
    | some m =>
      if m.st = 0 then st i.s 2
      else if m.st ≠ 2 then .wait
      else if i.s.logMissing i.dev then i.access 0x21
      else
        let s := (i.s.leafOf (dieOfCore core) i.dev i.asid m.va).2
        let w := s.pageEntry (dieOfCore core) i.dev m
        let moved := match w with
          | none => true
          | some w => decide (framePlace s.mode i.dev (pteLoc w.e) (pteAddr w.e) ≠ m.src)
        if moved then
          let s := match w with
            | none => s
            | some w => s.putLeaf w (withMig w.e 0)
          st ((s.setDev i.dev ((s.devAt i.dev).dropMig m.idx)).thaw m) 6
        else
          let e := (w.getD ⟨0, 0, 0⟩).e
          let base := if m.dstLoc then gloc s.mode i.dev 0 else hloc s.mode i.dev 0
          let kept := e &&& 0xFC000000000000FF
          let new := kept + (if m.dstLoc then pow2 57 else 0) + 3 * pow2 55 + m.dstKey * pow2 49 + (m.dst - base)
          let s := s.putLeaf (w.getD ⟨0, 0, 0⟩) new
          let s := s.setDev i.dev ((s.devAt i.dev).putMig { m with st := 3 })
          let s := (s.thaw m).releaseAt core 4
          let (seq, s) := s.appendLog i.dev (i.asid * pow2 48 + m.va) (m.size / 65536 - 1)
          st (s.setDev i.dev ((s.devAt i.dev).putMig { m with st := 3, seq := seq })) 0

/-- Copies one line of 256 bytes from the source home to the destination. Poison goes with its words, and a flit lost on the
way poisons every word that it was for (R464). No agent's invariant load reads a frame that only the copier has written
(R237). -/
def State.copyLine (s : State) (dev : Nat) (m : Mig) (line : Nat) : State :=
  let src := m.src + 256 * line
  let dst := keyed (m.dst + 256 * line) m.dstKey
  let past := s.past
  let lost (k : Nat) : Bool := s.crcLost (src + 64 * (k / 8)) 64
  let s := (s.findErrors src 256).crcDone src 256
  let key := if m.srcLoc then some 0 else s.keyOf dev m.srcKey
  let s := if key.isNone then s.keyError dev else s
  let s := (List.range 32).foldl (fun s k =>
    let v := match key with
      | some q => s.plainN s.rdN q (src + 8 * k) 8
      | none => 0
    let bad := s.poisoned (src + 8 * k) 8 || lost k
    let s := ((if k = 0 then s.served dst 256 else s).writeAt 0 noCore (dst + 8 * k) 8 v).settleAt (kplace dst + 8 * k) 8
    if bad then s.poisonAt (kplace dst + 8 * k) 8 else s) s
  { s with past := past }

/-- The copier of a record has a line to copy. -/
def Mig.copierDue (m : Mig) : Bool :=
  (decide (m.st = 0) && decide (m.copied < m.size / 256)) || decide (m.st = 1)

/-- COPIER_LINE_COPY (R293, R295): the next line not yet copied; after the freeze, then a dirty one; then the record is
ready. -/
def execCopierLineCopy (s : State) : Host.Outcome State Fault Refusal :=
  event s fun msg =>
    match msg with
    | .copierLineCopy dev k =>
      some (match (s.devAt dev).migs.find? fun m => decide (m.idx = k) with
        | none => s
        | some m =>
          if !m.copierDue then s
          else
            let lines := m.size / 256
            let (s, m) :=
              if m.copied < lines then (s.copyLine dev m m.copied, { m with copied := m.copied + 1 })
              else
                match m.dirty with
                | [] => (s, m)
                | l :: t => (s.copyLine dev m l, { m with dirty := t })
            let m := if m.st = 1 ∧ lines ≤ m.copied ∧ m.dirty = [] then { m with st := 2 } else m
            s.setDev dev ((s.devAt dev).putMig m))
    | _ => none

/-- A forwarding record can be freed: every die has applied its entry and no older access is under way (R296). -/
def State.migFree (s : State) (dev : Nat) (m : Mig) : Bool :=
  decide (m.st = 3) && ((diesOfDev s.mode dev).all fun k => !seqBelow (s.dieAt k).gen m.seq) &&
    decide (s.olderAccesses dev m.seq 4096 = [])

/-- The records of a context that ends before its pt.migd: each is freed, and the accesses stalled at its source frame are
performed there (R422). -/
def State.abandonMigs (s : State) (dev : Nat) (whose : Mig → Bool) : State :=
  ((s.devAt dev).migs.filter fun m => whose m && decide (m.st ≠ 3)).foldl (fun s m =>
    (s.setDev dev ((s.devAt dev).dropMig m.idx)).thaw m) s

/-- MIGRATION_RECORD_FREE (R296). -/
def execMigrationRecordFree (s : State) : Host.Outcome State Fault Refusal :=
  event s fun msg =>
    match msg with
    | .migrationRecordFree dev k =>
      some (match (s.devAt dev).migs.find? fun m => decide (m.idx = k) with
        | none => s
        | some m => if s.migFree dev m then s.setDev dev ((s.devAt dev).dropMig k) else s)
    | _ => none

/-! ## Gust lists (R298, R299, R302) -/

/-- pt.hotl (R302). -/
def execPtHotl (x y : BitVec 6) (s : State) : Host.Outcome State Fault Refusal :=
  issue s 1 [spanS x.toNat 1, spanS y.toNat 1] [] fun i => privileged i <| i.afterAll <|
    let area := i.sx x.toNat
    let ctl := i.sx y.toNat
    let n := ctl % 32
    let tiles := 2 * diesPer i.s.mode
    if area % 1024 ≠ 0 ∨ globalSize i.s.mode < area + 1024 * tiles ∨ nbits ctl 30 5 ≠ 0 ∨ n < 6 ∨ 20 < n then i.access 0x20
    else
      let d := i.s.devAt i.dev
      .done (i.s.setDev i.dev { d with
        gusts := FMap.insAll [] 0 ((List.range tiles).map fun k =>
          ({ enabled := ctl.testBit 31, area := area + 1024 * k, n := n } : Gust)) })

/-- The bytes of a gust list: entries by falling estimate, then rising frame number. -/
def Gust.bytes (g : Gust) (seq : Nat) : List Byte :=
  let es := sortBy (fun a b => decide (b.2 < a.2 ∨ (a.2 = b.2 ∧ a.1 ≤ b.1))) g.cand
  bytesOf 4 seq ++ bytesOf 4 g.n ++ List.replicate 56 0 ++
    (List.range 64).flatMap fun i =>
      match es[i]? with
      | some e => bytesOf 8 (e.1 % pow2 32 + e.2 * pow2 32)
      | none => bytesOf 8 0xFFFFFFFF

/-- The area of a tile's list lies in a frozen page, and so the publication waits (R295). -/
def State.gustFrozen (s : State) (dev : Nat) (g : Gust) : Bool := s.frozen (gloc s.mode dev g.area)

/-- One of the four steps of a publication (R299), where a migration record has taken the area (R296). What one step has
written is visible before the next writes. -/
def State.gustStep (s : State) (dev tile : Nat) (g : Gust) : State :=
  let a := kplace (s.route (gloc s.mode dev g.area))
  let put (g : Gust) (s : State) : State :=
    let d := s.devAt dev
    s.setDev dev { d with gusts := d.gusts.ins tile g }
  let s := s.settleAt a 1024
  match g.stage with
  | 0 => (put { g with stage := 1 } s).wrLate a 4 0xFFFFFFFF
  | 1 =>
    let bs := (g.bytes 0).drop 4
    (List.range 143).foldl (fun s k => s.wrLate (a + 4 + 4 * k) 4 (ofBytes ((bs.drop (4 * k)).take 4)))
      (put { g with stage := 2 } s)
  | 2 =>
    let n := (g.interval + 1) % pow2 32
    (put { g with stage := 3, interval := n } s).wrLate a 4 n
  | _ => put { g with stage := 0, counters := [], cand := [] } s

/-- GUST_LIST_PUBLISH (R299): the interval of the memory tile of package stack `stack` ends, in port-die time, or its
publication goes on. -/
def execGustListPublish (s : State) : Host.Outcome State Fault Refusal :=
  event s fun m =>
    match m with
    | .gustListPublish stack =>
      let per := 2 * diesPer s.mode
      let dev := stack / per
      let g := FMap.get {} (s.devAt dev).gusts (stack % per)
      some (if g.enabled && !s.gustFrozen dev g then s.gustStep dev (stack % per) g else s)
    | _ => none

end Sys2Proof.Machine
end

