-- ==== Sys2Proof/Machine/Trust.lean ====
section
/-!
DEFINITION. Isolation and trust: the context switch of a core (R424), boot and reset (R435, R436), the clock (R29), the
SPDM responder (R437, R438), feature negotiation (R439), and the owner's commands (R421 to R423, R433, R441, R471, R501
to R504).
-/
namespace Sys2Proof.Machine

/-! ## Context switch (R423, R424) -/

/-- A place of instruction memory of a core. -/
def inIloc (core a : Nat) : Bool := decide (iloc core 0 ≤ a ∧ a < iloc core 0 + pow2 18)

/-- Writes 0 to every byte at the places of a set, with their tags, poison and errors. -/
def State.clearPlaces (s : State) (which : Nat → Bool) : State :=
  { s with
    mem := s.mem.filter fun c => !which c.1
    tags := s.tags.filter fun p => !which (8 * p.1)
    crypt := s.crypt.filter fun p => !which (16 * p.1)
    poison := s.poison.filter fun p => !which (8 * p)
    latent := s.latent.filter fun p => !which p.1
    vis := s.vis.filter fun w => !which w.addr }

/-- The agents of a core, the steer thread included. -/
def agentsOf (core : Nat) : List Nat := (List.range 17).map fun k => 17 * core + k

/-- A core leaves one context for another: what it held is cleared, and pending copy faults are put aside or come back. -/
def State.switchCore (s : State) (core asid : Nat) : State :=
  let c := s.coreAt core
  let mine (k : CopyCmd) : Bool := decide (k.asid = asid)
  let back := c.shelved.filter mine
  let segs : FMap CodeSeg := back.foldl (fun m k =>
    match k.cseg with
    | some n => m.ins n { st := 1, va := k.va }
    | none => m) []
  let s := { s.clearPlaces (inIloc core) with groups := s.groups.filter fun p => decide (coreOf p.1 ≠ core) }
  let s := s.setCore core
    { c with asid := asid, opb := [], wb := [], acc := [], opbPoison := [], wbPoison := [], accPoison := []
             recs := [], baton := none, batonQ := [], xq := [], segs := segs, binds := [], tlb := []
             copies := back, shelved := (c.shelved.filter fun k => !mine k) ++ c.copies }
  s.applyLog (dieOfCore core)

/-- A core can switch to a context: it is granted the core, no unit of the outgoing one is resident, and every copy command
of that one is complete or holds a pending fault. -/
def State.switchOk (s : State) (core asid : Nat) : Bool :=
  let c := s.coreAt core
  let x := s.ctxAt (s.devOfCore core) asid
  decide (c.asid ≠ asid) && x.cores.contains core && s.coreEmpty core && c.copies.all fun k => decide (k.status = 2)

/-- CONTEXT_SWITCH (R424). -/
def execContextSwitch (s : State) : Host.Outcome State Fault Refusal :=
  event s fun m =>
    match m with
    | .contextSwitch core asid => some (if s.switchOk core asid then s.switchCore core asid else s)
    | _ => none

/-! ## The end of a context, and of an owner session (R421, R422) -/

/-- A unit of a context that is destroyed terminates; one that is saved or has not started ends at once. -/
def State.destroyUnit (s : State) (uid : Nat) : State :=
  let u := s.unitAt uid
  if !u.started then s.dropArrival uid false
  else if u.away then
    (s.setUnit uid { u with away := false, slots := [], cancelled := true, ending := true }).lvSetCtr u.dev u.level 0
  else s.terminate uid false

/-- The units of a context. -/
def State.unitsOfCtx (s : State) (dev asid : Nat) : List Nat :=
  (s.units.filter fun p => decide (p.2.dev = dev ∧ p.2.asid = asid)).map Prod.fst

/-- A context begins to be destroyed: no pt.migd of it will come any more, so its frozen pages open. -/
def State.beginDestroy (s : State) (dev asid : Nat) : State :=
  let x := s.ctxAt dev asid
  let s := (s.setCtx dev asid { x with dying := true, halted := false }).abandonMigs dev fun m => decide (m.asid = asid)
  let s := if s.lvRunning dev x.job then s.cancelLevel dev x.job else s
  (s.unitsOfCtx dev asid).foldl (fun s uid => s.destroyUnit uid) s

/-- The reply to a command of the owner session (R501). -/
def State.reply (s : State) (dev status : Nat) : State := s.send (.reply dev status 0)

/-- A context without units is gone: its levels are no longer levels, no TLB holds a translation of it (R420), and its cores are
cleared. -/
def State.removeCtx (s : State) (dev asid : Nat) : State :=
  let ls := s.levels.filter fun p => decide (p.1 = dev ∧ s.lvAsid dev p.2 = asid)
  let d := s.devAt dev
  let s := s.setDev dev { d with
    nodes := d.nodes.filter fun p => decide (p.2.asid ≠ asid), migs := d.migs.filter fun m => decide (m.asid ≠ asid)
    regions := d.regions.filter fun r => decide (r.asid ≠ asid), exports := d.exports.filter fun e => decide (e.2.asid ≠ asid) }
  let s := { s with levels := s.levels.filter fun p => !ls.contains p
                    spent := s.spent.filter fun p => !ls.contains p
                    vers := s.vers.filter fun p => decide (p.1 ≠ dev ∨ p ∉ ls)
                    ctxs := s.ctxs.del (ctxKey dev asid) }.dropHeld dev fun t => decide (t.asid = asid)
  (coresOfDev s.mode dev).foldl (fun s k => if (s.coreAt k).asid = asid then s.switchCore k 0 else s) s

/-- The place belongs to a device: SRAM, queue SRAM, instruction memory or HBM. -/
def homeOfDev (mode dev a : Nat) : Bool := decide (devOfDie mode (dieOfPlace mode a) = dev)

/-- Clears a device after its owner session (R422 steps 2 to 4). Checkpoint images lie at peers and stay. -/
def State.wipe (s : State) (dev : Nat) : State :=
  let d := s.devAt dev
  let s := (s.clearPlaces (homeOfDev s.mode dev)).dropHeld dev fun _ => true
  let s := (coresOfDev s.mode dev).foldl (fun s k =>
    let c := s.coreAt k
    { s with cores := s.cores.del k }.setCore k { retired := c.retired }) s
  let s := (diesOfDev s.mode dev).foldl (fun s k => s.setDie k { s.dieAt k with logbase := 0, gen := 0 }) s
  { s.setDev dev { owner := d.owner, images := d.images } with
    groups := s.groups.filter fun p => decide (s.devOfCore (coreOf p.1) ≠ dev)
    decls := s.decls.filter fun x => decide (x.dev ≠ dev) }

/-- What an ending context or session still has to do happens as soon as it can. -/
def State.settleTrust (s : State) : State :=
  let s := s.ctxs.foldl (fun s p =>
    let dev := p.1 / 256
    if !p.2.dying then s
    else
      let s := s.abandonMigs dev fun m => decide (m.asid = p.1 % 256)
      if s.unitsOfCtx dev (p.1 % 256) = [] then
        let s := s.removeCtx dev (p.1 % 256)
        if (s.devAt dev).wiping then s else s.reply dev 0
      else s) s
  s.devs.foldl (fun s p =>
    if p.2.wiping && !(s.ctxs.any fun q => decide (q.1 / 256 = p.1)) then s.wipe p.1 else s) s

/-! ## Boot, reset and clock (R29, R435, R436) -/

/-- The feature words that a device offers (R439). -/
def offeredWords (dev : Nat) : BitVec 128 × BitVec 128 :=
  ((Config.offered0 dev &&& 0x7FF) ||| 1, Config.offered1 dev &&& 0x7F)

/-- Measurement slot 8: mode, offered words, fused versions (R436). -/
def Pkg.measureConfig (p : Pkg) : Pkg :=
  let words := (List.range p.mode).flatMap fun d => [(offeredWords d).1.toNat, (offeredWords d).2.toNat]
  { p with meas := p.meas.ins 8 (Config.digest (p.mode :: words ++ p.fused)) }

/-- The measurement slots of image k: trust die, port die, compute dies, memory tiles. -/
def bootSlots (k : Nat) : List Nat := if k = 2 then [3, 4, 5, 6] else if k = 3 then [7] else [k + 1]

/-- The boot ROM takes the images in order; at the first that fails, everything not yet released stays in reset. -/
def Pkg.bootFrom (p : Pkg) : Nat → List FwImage → Pkg
  | k, [] => if k < 4 then { p with failing := some k } else p
  | k, i :: t =>
    if 4 ≤ k then p
    else
      let p := { p with meas := (bootSlots k).foldl (fun m n => m.ins n i.digest) p.meas }
      if i.sigOk && decide (i.minimum ≤ i.version) then { p with released := p.released ||| (1#4 <<< k) }.bootFrom (k + 1) t
      else { p with failing := some k }

/-- Measured boot: the package as after reset, then the images; what waits outside and the count of steps go on. -/
def State.boot (s : State) (images : List FwImage) : State :=
  let p : Pkg := { fused := images.map fun i => i.minimum }
  { State.reset with
    inbox := s.inbox, outbox := s.outbox, count := s.count, tok := s.tok
    devs := s.devs.map fun q => (q.1, { images := q.2.images })
    pkg := (p.bootFrom 0 images).measureConfig }

/-- POWER_ON (R435). -/
def execPowerOn (s : State) : Host.Outcome State Fault Refusal :=
  event s fun m =>
    match m with
    | .powerOn images => some (s.boot images)
    | _ => none

/-- PACKAGE_RESET (R435). -/
def execPackageReset (s : State) : Host.Outcome State Fault Refusal :=
  event s fun m =>
    match m with
    | .packageReset images => some (s.boot images)
    | _ => none

/-- CLOCK_LOWER (R29): 20 MHz less, not below 600 MHz. -/
def execClockLower (s : State) : Host.Outcome State Fault Refusal :=
  event s fun m =>
    match m with
    | .clockLower => some (if 620 ≤ s.pkg.clock then s.setPkg { s.pkg with clock := s.pkg.clock - 20 } else s)
    | _ => none

/-- CLOCK_RAISE (R29): 20 MHz more, up to 940 MHz. -/
def execClockRaise (s : State) : Host.Outcome State Fault Refusal :=
  event s fun m =>
    match m with
    | .clockRaise => some (if s.pkg.clock + 20 ≤ 940 then s.setPkg { s.pkg with clock := s.pkg.clock + 20 } else s)
    | _ => none

/-! ## SPDM (R437, R438) -/

def State.spdmAt (s : State) (port : Nat) : Spdm := FMap.get {} s.pkg.spdm port
def State.setSpdm (s : State) (port : Nat) (x : Spdm) : State := s.setPkg { s.pkg with spdm := s.pkg.spdm.ins port x }

/-- An ERROR answer with its code, named as SPDM names it. -/
def State.spdmError (s : State) (port : Nat) (code : String) : State := s.send (.spdm port ("ERROR " ++ code) [])

/-- The responder answers once the package is released; after a failed boot it states the failing image on the front
port, and before boot nothing answers (R435). -/
def State.responder (s : State) (port : Nat) (f : Spdm → State) : State :=
  match s.pkg.failing with
  | some k => if port = 0 then s.send (.spdm 0 "ERROR" [k]) else s
  | none => if s.pkg.released = 15 ∧ port ≤ 16 then f (s.spdmAt port) else s

/-- A request that needs an earlier one. -/
def State.spdmAfter (s : State) (port : Nat) (ok : Bool) (t : State) : State :=
  if ok then t else s.spdmError port "UnexpectedRequest"

/-- GET_VERSION: a new connection. -/
def execGetVersion (s : State) : Host.Outcome State Fault Refusal :=
  event s fun m =>
    match m with
    | .getVersion port =>
      some (s.responder port fun x =>
        (s.setSpdm port { version := true, opened := x.opened, keyGen := x.keyGen }).send (.spdm port "VERSION" [0x13]))
    | _ => none

/-- GET_CAPABILITIES. -/
def execGetCapabilities (s : State) : Host.Outcome State Fault Refusal :=
  event s fun m =>
    match m with
    | .getCapabilities port =>
      some (s.responder port fun x =>
        s.spdmAfter port x.version ((s.setSpdm port { x with caps := true }).send (.spdm port "CAPABILITIES" [])))
    | _ => none

/-- NEGOTIATE_ALGORITHMS: only P-384, SHA-384, ECDHE on P-384 and AES-256-GCM are accepted. -/
def execNegotiateAlgorithms (s : State) : Host.Outcome State Fault Refusal :=
  event s fun m =>
    match m with
    | .negotiateAlgorithms port p384 sha384 ecdhe gcm =>
      some (s.responder port fun x =>
        s.spdmAfter port x.caps
          (if p384 && sha384 && ecdhe && gcm then
            (s.setSpdm port { x with algs := true }).send (.spdm port "ALGORITHMS" [])
           else s.spdmError port "UnsupportedRequest"))
    | _ => none

/-- The certificate chain of slot 0, as a number. -/
def State.certChain (s : State) : Nat := Config.sign (0 :: (List.range 7).map fun i => FMap.get 0 s.pkg.meas (i + 1))

/-- GET_DIGESTS: the digest of the chain in slot 0. -/
def execGetDigests (s : State) : Host.Outcome State Fault Refusal :=
  event s fun m =>
    match m with
    | .getDigests port =>
      some (s.responder port fun x =>
        s.spdmAfter port x.algs (s.send (.spdm port "DIGESTS" [Config.digest [s.certChain]])))
    | _ => none

/-- GET_CERTIFICATE: slot 0 alone holds a chain. -/
def execGetCertificate (s : State) : Host.Outcome State Fault Refusal :=
  event s fun m =>
    match m with
    | .getCertificate port slot =>
      some (s.responder port fun x =>
        s.spdmAfter port x.algs
          (if slot = 0 then s.send (.spdm port "CERTIFICATE" [s.certChain]) else s.spdmError port "InvalidRequest"))
    | _ => none

/-- CHALLENGE: signed over the nonce. -/
def execChallenge (s : State) : Host.Outcome State Fault Refusal :=
  event s fun m =>
    match m with
    | .challenge port nonce =>
      some (s.responder port fun x =>
        s.spdmAfter port x.algs (s.send (.spdm port "CHALLENGE_AUTH" [s.certChain, nonce, Config.sign [1, s.certChain, nonce]])))
    | _ => none

/-- GET_MEASUREMENTS: one slot of R436, or all of them with index 255, signed by the alias key. -/
def execGetMeasurements (s : State) : Host.Outcome State Fault Refusal :=
  event s fun m =>
    match m with
    | .getMeasurements port index =>
      some (s.responder port fun x =>
        let slot (i : Nat) : List Nat := [i, FMap.get 0 s.pkg.meas i]
        let body := if index = 255 then (List.range 8).flatMap fun i => slot (i + 1) else slot index
        s.spdmAfter port x.algs
          (if index = 255 ∨ (1 ≤ index ∧ index ≤ 8) then
            s.send (.spdm port "MEASUREMENTS" (body ++ [Config.sign (2 :: body)]))
           else s.spdmError port "InvalidRequest"))
    | _ => none

/-- Changes the owner's part of a device. -/
def State.setOwner (s : State) (dev : Nat) (o : Owner) : State := s.setDev dev { s.devAt dev with owner := o }

/-- The device exists in the package's mode. -/
def State.devOk (s : State) (dev : Nat) : Bool := decide (dev < s.mode)

/-- KEY_EXCHANGE: on the front port for a device, which is Busy while an owner session is open. -/
def execKeyExchange (s : State) : Host.Outcome State Fault Refusal :=
  event s fun m =>
    match m with
    | .keyExchange port dev =>
      some (s.responder port fun x =>
        let answer (t : State) : State := t.send (.spdm port "KEY_EXCHANGE_RSP" [Config.sign [3, port, s.count]])
        s.spdmAfter port x.algs
          (if port ≠ 0 then answer (s.setSpdm port { x with kex := true })
           else if !s.devOk dev then s.spdmError port "InvalidRequest"
           else if (s.devAt dev).owner.sess then s.spdmError port "Busy"
           else answer (s.setOwner dev { (s.devAt dev).owner with kex := true })))
    | _ => none

def State.linkAt (s : State) (n : Nat) : Link := FMap.get {} s.pkg.links n
def State.setLink (s : State) (n : Nat) (x : Link) : State := s.setPkg { s.pkg with links := s.pkg.links.ins n x }

/-- A link opens under new keys, with flit numbers from 0 (R438, R480). -/
def State.openLink (s : State) (n : Nat) : State :=
  let (tx, s) := s.fresh
  let (rx, s) := s.fresh
  s.setLink n { up := true, txKey := tx, rxKey := rx }

/-- FINISH: completes a mutually authenticated session. On the front port it is the owner session, and the device offers
its feature words (R439); on a peer port it supplies the link's keys. -/
def execFinish (s : State) : Host.Outcome State Fault Refusal :=
  event s fun m =>
    match m with
    | .finish port dev auth =>
      some (s.responder port fun x =>
        if port ≠ 0 then
          s.spdmAfter port x.kex
            (if auth then
              ((s.setSpdm port { x with kex := false, opened := true }).openLink (port - 1)).send (.spdm port "FINISH_RSP" [])
             else s.spdmError port "DecryptError")
        else
          let o := (s.devAt dev).owner
          s.spdmAfter port (o.kex && s.devOk dev)
            (if auth then
              let w := offeredWords dev
              ((s.setOwner dev { sess := true }).send (.spdm port "FINISH_RSP" [])).send
                (.spdm port "FEATURES" [w.1.toNat, w.2.toNat])
             else (s.setOwner dev { o with kex := false }).spdmError port "DecryptError"))
    | _ => none

/-! ## Flits: sending (R444 to R446) -/

/-- Bytes 0 to 7 of a flit as one number. -/
def flitHeader (seq typ kg vc ackseq : Nat) (nak : Bool) : Nat :=
  seq % pow2 24 + typ * pow2 24 + kg * pow2 28 + vc * pow2 29 + (ackseq % pow2 24 + if nak then pow2 24 else 0) * pow2 32

/-- Bytes 0 to 7 of a stored flit. -/
def Flit.header (f : Flit) : Nat := flitHeader f.num f.typ f.kg f.vc f.ackseq f.nak

/-- The 256 bytes of a flit: header, ciphertext and tag (R1, R444). -/
def Flit.bytes (f : Flit) : List Byte := bytesOf 8 f.header ++ bytesOf 232 f.payload ++ bytesOf 16 f.tag

/-- Puts stored flits on the wire, at most 32 to a Delwell frame. The content of the 8-byte frame header is a free value. -/
def State.wire (s : State) (port : Nat) : Nat → List Flit → State
  | 0, _ => s
  | _, [] => s
  | fuel + 1, fs =>
    let free (i : Nat) : List Byte := bytesOf 4 (Config.word s.count (9000 + 64 * port + 2 * fuel + i)).toNat
    (s.send (.delwell port 0x89D2 (free 0 ++ free 1) ((fs.take 32).map Flit.bytes))).wire port fuel (fs.drop 32)

/-- Seals a flit and sends it. Its virtual channel is a free value. -/
def State.sealNow (s : State) (port typ : Nat) (nak : Bool) (plain : Nat) : State :=
  let l := s.linkAt port
  let f : Flit :=
    { num := l.txNext, typ := typ, kg := l.txKg, vc := (Config.word s.count (8900 + port)).toNat % 8
      ackseq := (l.rxNext + pow2 24 - 1) % pow2 24, nak := nak
      payload := Config.gcmCrypt l.txKey l.txNext (plain % pow2 1856) % pow2 1856, tag := 0 }
  let f := { f with tag := Config.gcmTag l.txKey l.txNext f.header f.payload % pow2 128 }
  (s.setLink port { l with txNext := l.txNext + 1, replay := l.replay ++ [f] }).wire port 1 [f]

/-- The sender's part of a rollover: new flits go out under the new key with KG inverted, and those under the old one drain. -/
def State.rollTx (s : State) (n : Nat) : State :=
  let l := s.linkAt n
  let (k, s) := s.fresh
  s.setLink n { l with txKey := k, txFrom := l.txNext, txKg := 1 - l.txKg, drainTo := some l.txNext }

/-- Once every flit under the old key is acknowledged, the marker goes out under the new one (R446). -/
def State.drainLink (s : State) (port : Nat) : State :=
  let l := s.linkAt port
  match l.drainTo with
  | none => s
  | some d =>
    if (l.replay.any fun f => decide (f.num < d)) || decide (4096 ≤ l.replay.length) then s
    else (s.setLink port { l with drainTo := none, marker := some l.txNext }).sealNow port 4 false 0

/-- The sender has sealed as many flits under its key as it may before a rollover (R444). -/
def Link.worn (l : Link) : Bool := decide (pow2 32 - 1 ≤ l.txNext - l.txFrom)

/-- No earlier rollover of the sender is unfinished (R446). -/
def Link.canRoll (l : Link) : Bool := l.drainTo.isNone && l.marker.isNone

/-- Seals a new flit and sends it. None is sealed while the replay buffer is full or the link is down; before the 2^32nd
under one key the trust die runs KEY_UPDATE for the direction, and until that can start none is sealed. -/
def State.sealFlit (s : State) (port typ : Nat) (nak : Bool) (plain : Nat) : State :=
  let l := s.linkAt port
  if !l.up ∨ 4096 ≤ l.replay.length then s
  else if !l.worn then s.sealNow port typ nak plain
  else if l.canRoll then
    (((s.send (.spdm (port + 1) "KEY_UPDATE" [])).rollTx port).sealNow port typ nak plain).drainLink port
  else s

/-- Acknowledges what has been accepted so far, or asks for a replay. -/
def State.answerFlit (s : State) (port : Nat) (nak : Bool) : State := s.sealFlit port 2 nak 0

/-- The receiver's part of a rollover (R446): it holds the old key beside the new one. -/
def State.rollRx (s : State) (n : Nat) : State :=
  let l := s.linkAt n
  let (k, s) := s.fresh
  s.setLink n { l with rxKey := k, rxKg := 1 - l.rxKg, rxOld := some l.rxKey }

/-- KEY_UPDATE (R446): of the session, or of one direction or both directions of a link; no rollover starts before the
marker of the last one is acknowledged, and a marker with no old flit outstanding goes out at once. -/
def execKeyUpdate (s : State) : Host.Outcome State Fault Refusal :=
  event s fun m =>
    match m with
    | .keyUpdate port both =>
      some (s.responder port fun x =>
        let ack (t : State) : State := t.send (.spdm port "KEY_UPDATE_ACK" [])
        if port = 0 then
          s.spdmAfter port (s.devs.any fun p => p.2.owner.sess) (ack (s.setSpdm port { x with keyGen := x.keyGen + 1 }))
        else
          let l := s.linkAt (port - 1)
          let idle := l.rxOld.isNone && (!both || l.canRoll)
          s.spdmAfter port (x.opened && l.up && idle)
            (let t := (s.setSpdm port { x with keyGen := x.keyGen + 1 }).rollRx (port - 1)
             ack (if both then (t.rollTx (port - 1)).drainLink (port - 1) else t)))
    | _ => none

/-- HEARTBEAT, within a session. -/
def execHeartbeat (s : State) : Host.Outcome State Fault Refusal :=
  event s fun m =>
    match m with
    | .heartbeat port =>
      some (s.responder port fun x =>
        s.spdmAfter port (if port = 0 then s.devs.any fun p => p.2.owner.sess else x.opened)
          (s.send (.spdm port "HEARTBEAT_ACK" [])))
    | _ => none

/-- The device that owns peer port n (R23, R27). -/
def portDev (mode n : Nat) : Nat := n / (16 / mode)

/-- Collectives with data in flight over a link that goes down end with PEER_LOST at every member (R480): those that need a
member of a package behind the link may have such data, and one free bit for all the contributions to one of them says whether
it has (log 76). -/
def State.linkPeers (s : State) (n : Nat) : State :=
  let waits := s.colls.filter fun c => c.result.isNone && !c.behindRset s.colls
  let mates (c : CollOp) : List CollOp := (c.partners (s.collsOf c.dev c.obj)).filter fun d => !d.behindRset s.colls
  let far (c : CollOp) : Bool :=
    match s.gobj c.dev c.obj with
    | some o => (c.needs o).any fun r => o.members[r]?.any fun m => decide (4 ≤ m.dev) && (Config.devicePorts m.dev).contains n
    | none => false
  let lost := waits.filter fun c =>
    let first := (mates c).foldl (fun t d => min t d.tok) c.tok
    (mates c).any far && (Config.word s.count (pow2 42 + first)).getLsbD 0
  s.settleColls (lost.map fun c => c.tok) fun _ => (3, [])

/-- A link goes down (R445, R480): its replay buffer is discarded, collectives with data in flight over it end with PEER_LOST,
and a checkpoint of the device that owns the port fails if a peer of its tier lies behind the link. -/
def State.dropLink (s : State) (n : Nat) : State :=
  let dev := portDev s.mode n
  let s := (s.setLink n {}).linkPeers n
  let s := s.setSpdm (n + 1) { s.spdmAt (n + 1) with kex := false, opened := false }
  if (s.devAt dev).ckpt.isSome && (s.devAt dev).tier.any fun p => (Config.devicePorts p.1).contains n then s.finishCkpt dev false
  else s

/-- END_SESSION: the end of the owner session clears the device (R422); a link without a session goes down. -/
def execEndSession (s : State) : Host.Outcome State Fault Refusal :=
  event s fun m =>
    match m with
    | .endSession port dev =>
      some (s.responder port fun x =>
        let ack (t : State) : State := t.send (.spdm port "END_SESSION_ACK" [])
        if port = 0 then
          s.spdmAfter port (s.devAt dev).owner.sess
            (let ids := (s.ctxs.filter fun p => decide (p.1 / 256 = dev)).map fun p => p.1 % 256
             let s := s.setDev dev { s.devAt dev with owner := {}, wiping := true }
             ack (ids.foldl (fun s a => s.beginDestroy dev a) s))
        else s.spdmAfter port x.opened (ack (s.dropLink (port - 1))))
    | _ => none

/-! ## The owner's commands (R441, R501) -/

/-- A command of a device's owner session. One outside a session fails authentication and is dropped, as is a datagram that
`State.admits` turns away before the step begins (R438); while the device is being cleared it accepts none (R422). -/
def State.command (s : State) (dev : Nat) (f : Device → State) : State :=
  let d := s.devAt dev
  if s.devOk dev && d.owner.sess && !d.wiping then f d else s

/-- A bit of the accepted feature word 1. -/
def Device.feature (d : Device) (i : Nat) : Bool :=
  match d.owner.accepted with
  | some w => w.2.getLsbD i
  | none => false

/-- The first refusal that holds, in the order of R501, or the command. -/
def State.checked (s : State) (dev : Nat) : List (Bool × Nat) → State → State
  | [], t => t
  | (b, st) :: rest, t => if b then s.reply dev st else s.checked dev rest t

/-- A live context. -/
def State.ctxLive (s : State) (dev asid : Nat) : Bool :=
  match FMap.find s.ctxs (ctxKey dev asid) with
  | some x => decide (asid < 256) && !x.dying
  | none => false

/-- FEATURE_ACCEPT (R439): an answer with a bit that was not offered, or without bit 0 of word 0, fails. A settled
negotiation stays settled. -/
def execFeatureAccept (s : State) : Host.Outcome State Fault Refusal :=
  event s fun m =>
    match m with
    | .featureAccept dev w0 w1 =>
      some (s.command dev fun d =>
        let o := offeredWords dev
        if d.owner.accepted.isSome then s
        else if w0 &&& ~~~o.1 = 0 ∧ w1 &&& ~~~o.2 = 0 ∧ w0.getLsbD 0 = true then
          s.setOwner dev { d.owner with accepted := some (w0, w1) }
        else s.send (.spdm 0 "FEATURES_REFUSED" [dev]))
    | _ => none

/-- The place of a byte of HBM in another mode: the stack and the byte within it stay (R25). -/
def remapHbm (old new a : Nat) : Nat :=
  if isHbm a then
    let dev := hbmDev old a
    let pa := hbmPa old a
    let n := 2 * diesPer old
    let stack := 2 * firstDie old dev + stackOf old pa
    let line := pa / 4096 / n
    let dev' := devOfDie new (stack / 2)
    let n' := 2 * diesPer new
    hloc new dev' ((line * n' + (stack - 2 * firstDie new dev')) * 4096 + pa % 4096)
  else a

/-- The package takes a mode (R23, R26): a device keeps what it holds under the number that its first die gets. The owner
sessions of the other devices end, each with the clearing that R422 gives to every end of a session (DEDUCED, log 71); images
lie at peers and stay. No TLB holds a translation of the mode that was. -/
def State.setMode (s : State) (dev mode : Nat) : State :=
  if mode = s.mode then s
  else
    let at' (a : Nat) : Nat := remapHbm s.mode mode a
    let s := s.devs.foldl (fun s p => if p.1 ≠ dev ∧ (p.2.owner.sess ∨ p.2.wiping) then s.wipe p.1 else s) s
    { s with
      cores := s.cores.map fun (p : Nat × Core) => (p.1, { p.2 with tlb := [] })
      tlb2 := []
      mem := s.mem.foldl (fun m c => FMap.put 0 m (at' c.1) c.2) []
      crypt := s.crypt.foldl (fun m p => FMap.put 0 m (at' (16 * p.1) / 16) p.2) []
      poison := s.poison.map fun p => at' (8 * p) / 8
      latent := s.latent.map fun p => (at' p.1, p.2)
      vis := []
      devs := FMap.ins (s.devs.map fun (p : Nat × Device) => (p.1, { images := p.2.images }))
        (devOfDie mode (firstDie s.mode dev)) (s.devAt dev)
      pkg := ({ s.pkg with mode := mode }).measureConfig }

/-- The place of a tree descriptor (R335). -/
def isTreeDesc (a : Nat) : Bool := isSram a && isBoraSlice (a / pow2 25) && decide (a % pow2 25 < 0x1000)

/-- A device without a context is as the chapters give it "at context creation": the invalidation sequence starts at 0 (R285),
every tag is empty (R242), every tree descriptor holds 0 (R335). -/
def State.firstContext (s : State) (dev : Nat) : State :=
  let s := (diesOfDev s.mode dev).foldl (fun t k => t.setDie k { t.dieAt k with gen := 0 })
    (s.setDev dev { s.devAt dev with invSeq := 0 })
  let s := s.clearPlaces fun a => isTreeDesc a && homeOfDev s.mode dev a
  { s with tags := s.tags.filter fun p => !homeOfDev s.mode dev (8 * p.1) }

/-- CTX_CREATE (R421, R423): a context with its ASID, mode and grants; its job opens at a level object. Where other contexts
live, the tags that they use stay, and of the trees only the granted ones are freed (DEDUCED, logs 49 and 117). -/
def execCtxCreate (s : State) : Host.Outcome State Fault Refusal :=
  event s fun m =>
    match m with
    | .ctxCreate dev mode asid job cores trees objs decls migs =>
      some (s.command dev fun d =>
        let dev' := devOfDie mode (firstDie s.mode dev)
        let badMode := decide (mode ≠ 1 ∧ mode ≠ 2 ∧ mode ≠ 4)
        let bad := badMode || decide (asid = 0 ∨ 255 < asid ∨ job % 64 ≠ 0 ∨ globalSize mode < job + 64 ∨ 256 < decls) ||
          s.guarded (gloc mode dev' job) 64 || !(cores.all fun c => (coresOfDev mode dev').contains c) ||
          !(trees.all fun t => decide (t < 64 * 4 * diesPer mode)) || !(objs.all fun o => decide (o < 256)) ||
          !(migs.all fun i => decide (i < 64))
        let n := (s.ctxs.filter fun p => decide (p.1 / 256 = dev)).length
        s.checked dev
          [(bad, 1), (s.ctxs.any fun p => decide (p.1 = ctxKey dev asid), 2), (decide (255 ≤ n), 4),
           (decide (mode ≠ s.mode ∧ s.ctxs ≠ []), 5), (d.owner.accepted.isNone, 6)]
          (let t := s.setMode dev mode
           let t := if n = 0 then t.firstContext dev' else t
           let t := trees.foldl (fun (t : State) k => t.wrN (boraSlice mode dev' (k / 64) * pow2 25 + 64 * (k % 64)) 64 0) t
           let t := t.setCtx dev' asid
             { cores := cores, trees := trees, objs := objs, decls := decls, migs := migs, job := job, cyc0 := t.cycle }
           (t.lvOpen dev' asid job 4 0 0 0xFFFFFFFF 0).reply dev' 0))
    | _ => none

/-- CTX_DESTROY (R421): its units terminate, and the reply follows when it is gone. -/
def execCtxDestroy (s : State) : Host.Outcome State Fault Refusal :=
  event s fun m =>
    match m with
    | .ctxDestroy dev asid =>
      some (s.command dev fun _ => s.checked dev [(!s.ctxLive dev asid, 3)] (s.beginDestroy dev asid))
    | _ => none

/-- An object of n bytes that a command names at a global offset. -/
def State.objectOk (s : State) (dev off n : Nat) : Bool :=
  decide (off % 64 = 0 ∧ off + n ≤ globalSize s.mode) && !s.guardedRange (gloc s.mode dev off) n

/-- LAUNCH (R502). -/
def execLaunch (s : State) : Host.Outcome State Fault Refusal :=
  event s fun m =>
    match m with
    | .launch dev asid sup record parent =>
      some (s.command dev fun _ =>
        let p := if parent = 0xFFFFFFFF then (s.ctxAt dev asid).job else parent
        s.checked dev [(!s.objectOk dev record 512 || !s.objectOk dev p 64, 1), (!s.ctxLive dev asid, 3)]
          (let (st, t) := s.launch dev asid record p sup
           if st = 0 then t.reply dev 0 else t.send (.reply dev 7 st)))
    | _ => none

/-- A member list that R503 refuses. -/
def badMembers (m : Nat) (l : List (Nat × Nat)) : Bool :=
  decide (l.length ≠ m) || (l.any fun e => decide (e.2 % 64 ≠ 0 ∨ pow2 33 ≤ e.2)) || decide (l.eraseDups.length ≠ l.length)

/-- GOBJ_CREATE (R320, R503, R504). -/
def execGobjCreate (s : State) : Host.Outcome State Fault Refusal :=
  event s fun msg =>
    match msg with
    | .gobjCreate dev obj m p members =>
      some (s.command dev fun _ =>
        s.checked dev
          [(decide (255 < obj ∨ m < 2 ∨ 4096 < m ∨ p < 1 ∨ 16 < p) || badMembers m members, 1), ((s.gobj dev obj).isSome, 2)]
          ((s.setGobj dev obj { m := m, p := p, members := members.map fun e => { dev := e.1, off := e.2 } }).reply dev 0))
    | _ => none

/-- GOBJ_DESTROY (R504): what is pending on the object here ends with FAULT, and what waits elsewhere for a member of this
device with PEER_LOST. -/
def execGobjDestroy (s : State) : Host.Outcome State Fault Refusal :=
  event s fun m =>
    match m with
    | .gobjDestroy dev obj =>
      some (s.command dev fun d =>
        s.checked dev [(decide (255 < obj), 1), ((s.gobj dev obj).isNone, 3)]
          (let here := s.colls.filter fun c => decide (c.dev = dev ∧ c.obj = obj) && c.result.isNone
           let others := (s.gobjDevs dev obj).filter fun k => decide (k ≠ dev)
           let s := s.settleColls (here.map fun c => c.tok) fun _ => (2, [])
           let s := s.setDev dev { d with gobjs := d.gobjs.del obj }
           let s := others.foldl (fun s k =>
             match s.gobj k obj with
             | some o => s.setGobj k obj { o with
                 members := o.members.map fun e => if e.dev = dev then { e with ended := true } else e }
             | none => s) s
           (s.losePeers obj).reply dev 0))
    | _ => none

/-- GOBJ_REBIND (R478): a rank names a new unit; the object is NORMAL again with its counters at 0. -/
def execGobjRebind (s : State) : Host.Outcome State Fault Refusal :=
  event s fun m =>
    match m with
    | .gobjRebind dev obj rank mdev off =>
      some (s.command dev fun _ =>
        let o := (s.gobj dev obj).getD {}
        let found := (s.gobj dev obj).isSome
        let others := o.members.eraseIdx rank
        let bad := decide (255 < obj ∨ off % 64 ≠ 0 ∨ pow2 33 ≤ off) ||
          (found && (decide (o.m ≤ rank) || others.any fun e => decide (e.dev = mdev ∧ e.off = off)))
        s.checked dev [(bad, 1), (!found, 3)]
          ((s.setGobj dev obj { o with
            mismatch := false, seqs := [], members := o.members.set rank { dev := mdev, off := off } }).reply dev 0))
    | _ => none

/-- KEY_INSTALL (R433): a new key pair, at every tile when the reply goes out. -/
def execKeyInstall (s : State) : Host.Outcome State Fault Refusal :=
  event s fun m =>
    match m with
    | .keyInstall dev slot =>
      some (s.command dev fun d =>
        s.checked dev [(decide (slot = 0 ∨ 63 < slot), 1)]
          (let (k, s) := s.fresh
           (s.setDev dev { d with keymap := d.keymap ||| (1#64 <<< slot), keyInst := d.keyInst.ins slot k }).reply dev 0))
    | _ => none

/-- KEY_ERASE (R433). -/
def execKeyErase (s : State) : Host.Outcome State Fault Refusal :=
  event s fun m =>
    match m with
    | .keyErase dev slot =>
      some (s.command dev fun d =>
        s.checked dev [(decide (slot = 0 ∨ 63 < slot), 1)]
          ((s.setDev dev { d with keymap := d.keymap &&& ~~~(1#64 <<< slot), keyInst := d.keyInst.del slot }).reply dev 0))
    | _ => none

/-- MR_REG (R442). -/
def execMrReg (s : State) : Host.Outcome State Fault Refusal :=
  event s fun m =>
    match m with
    | .mrReg dev asid va len r w rkey =>
      some (s.command dev fun d =>
        s.checked dev
          [(decide (pow2 48 < va + len ∨ pow2 32 ≤ rkey), 1), (!s.ctxLive dev asid, 3), (decide (1024 ≤ d.regions.length), 4),
           (!d.feature 0, 6)]
          ((s.setDev dev { d with
            regions := d.regions ++ [{ asid := asid, va := va, len := len, r := r, w := w, rkey := rkey }] }).reply dev 0))
    | _ => none

/-- MR_DEREG (R442). -/
def execMrDereg (s : State) : Host.Outcome State Fault Refusal :=
  event s fun m =>
    match m with
    | .mrDereg dev rkey =>
      some (s.command dev fun d =>
        s.checked dev [(!(d.regions.any fun x => decide (x.rkey = rkey)), 3), (!d.feature 0, 6)]
          ((s.setDev dev { d with regions := d.regions.filter fun x => decide (x.rkey ≠ rkey) }).reply dev 0))
    | _ => none

/-- EXPORT_SET (R443): sets entry `index` of the 64. -/
def execExportSet (s : State) : Host.Outcome State Fault Refusal :=
  event s fun m =>
    match m with
    | .exportSet dev index remote asid va len r w =>
      some (s.command dev fun d =>
        s.checked dev [(decide (pow2 48 < va + len), 1), (!s.ctxLive dev asid, 3), (decide (64 ≤ index), 4)]
          ((s.setDev dev { d with
            exports := d.exports.ins index { remote := remote, asid := asid, va := va, len := len, r := r, w := w } }).reply
              dev 0))
    | _ => none

/-- CKPT_TIER (R467): 4 to 16 peers, each with a region that can hold its share. -/
def execCkptTier (s : State) : Host.Outcome State Fault Refusal :=
  event s fun m =>
    match m with
    | .ckptTier dev peers =>
      some (s.command dev fun d =>
        let n := peers.length
        let share := 2 * ((s.imageSize dev + n - 2) / (n - 1)) + 128 * pow2 20
        s.checked dev
          [(decide (n < 4 ∨ 16 < n) || (peers.any fun p => decide (p.2 < share)), 1), (!d.feature 4, 6)]
          ((s.setDev dev { d with
            tier := peers, images := if d.tier = [] ∨ d.tier = peers then d.images else [] }).reply dev 0))
    | _ => none

/-- The device as an image has it (R471 step 4): migration records, counted-line declarations and copy-fault rings are
empty, and members on other devices are lost until they are rebound. The keys come out of the header under K; another number
makes of them what it makes (log 33). -/
def State.restoreImage (s : State) (dev key : Nat) (im : Image) : State :=
  let s := s.clearPlaces (placeOfDev s.mode dev)
  let d := s.devAt dev
  let ring (x : Ctx) : Nat := gloc s.mode dev (nbits x.cfring.toNat 32 0) / 8
  let rings := (im.ctxs.filter fun p => p.2.cfring.getLsbD 63).map fun p => ring p.2
  let tags := im.tags.filter fun p => !(rings.any fun r => decide (r ≤ p.1 ∧ p.1 < r + 512))
  let s := { s with
    mem := im.mem.foldl (fun (m : List Host.Cell) (c : Host.Cell) => FMap.put 0 m c.1 c.2) s.mem
    tags := tags.foldl (fun (m : FMap Bool) (p : Nat × Bool) => m.ins p.1 p.2) s.tags
    crypt := im.crypt.foldl (fun (m : FMap Nat) (p : Nat × Nat) => m.ins p.1 p.2) s.crypt
    poison := s.poison ++ im.poison
    ctxs := im.ctxs.foldl (fun (m : FMap Ctx) (p : Nat × Ctx) =>
      m.ins p.1 { p.2 with cyc0 := p.2.cyc0 + (s.cycle - im.cycle), cfCount := 0, cfLost := 0 }) s.ctxs
    units := im.units.foldl (fun (m : FMap UnitSt) (p : Nat × UnitSt) => m.ins p.1 p.2) s.units
    levels := s.levels ++ im.levels, spent := s.spent ++ im.spent, vers := s.vers ++ im.vers }
  let s := s.setDev dev { d with
    keymap := im.keymap, nodes := im.nodes, migs := [], invSeq := 0
    keyInst := im.keyInst.map fun (p : Nat × Nat) =>
      (p.1, if key = im.wrapKey then p.2 else Config.unwrap key (Config.wrap im.wrapKey p.2))
    gobjs := im.gobjs.map fun (p : Nat × GObj) => (p.1, { p.2 with
      members := p.2.members.map fun (e : Member) => if e.dev = dev then e else { e with ended := true } }) }
  (diesOfDev s.mode dev).zipIdx.foldl (fun s p =>
    s.setDie p.1 { s.dieAt p.1 with logbase := im.logbase.getD p.2 0, gen := 0 }) s

/-- An image is complete as far as the peers of the tier that answer can say: each of them holds its trailer (R468, R471). -/
def Image.completeAt (im : Image) (tier : List Nat) (held : List Held) : Bool :=
  decide (im.peers = tier.length) && tier.all fun q =>
    !(held.any fun h => decide (h.peer = q)) || held.any fun h => decide (h.peer = q ∧ h.image = im) && h.trailer

/-- The newest complete image in a tier, by what its peers hold. -/
def newestImage (tier : List Nat) (held : List Held) : Option Image :=
  ((held.map fun h => h.image).filter fun im => im.completeAt tier held).foldl (fun best im =>
    match best with
    | none => some im
    | some b => if b.gen < im.gen then some im else best) none

/-- The peers of a tier that are missing, by their numbers in it, and the damaged units of an image, by peer and stripe. -/
def gonePeers (tier : List Nat) (held : List Held) : List Nat :=
  (tier.zipIdx.filter fun p => !(held.any fun h => decide (h.peer = p.1))).map Prod.snd
def Image.damagedAt (im : Image) (tier : List Nat) (held : List Held) : List (Nat × Nat) :=
  tier.zipIdx.flatMap fun p =>
    (held.filter fun h => decide (h.peer = p.1 ∧ h.image = im)).flatMap fun h => h.damaged.map fun st => (p.2, st)

/-- RESTORE (R471), by a device that has taken no checkpoint as by the one that has: from the newest complete image that the
peers of the named tier hold. The units of one missing peer, or one damaged unit of a stripe, come back by parity
(`Image.rebuilt`); two lost units of a stripe end it with FAILED and no context. The device's outputs are a replacement's, which
waits for its takeover (R479). DESIGN CHOICE (log 33): it has the number of the device whose image it takes. -/
def execRestore (s : State) : Host.Outcome State Fault Refusal :=
  event s fun m =>
    match m with
    | .restore dev tier key held =>
      some (s.command dev fun d =>
        let live := s.ctxs.any fun p => decide (p.1 / 256 = dev)
        let newest := newestImage tier held
        let mode := (newest.map fun im => im.mode).getD s.mode
        let dev' := devOfDie mode (firstDie s.mode dev)
        s.checked dev
          [(decide (tier.length < 4 ∨ 16 < tier.length) || newest.any fun im => decide (dev' ≠ im.dev), 1), (newest.isNone, 3),
           (live || decide (mode ≠ s.mode ∧ s.ctxs ≠ []), 5), (!d.feature 4, 6)]
          (match newest with
           | none => s
           | some im =>
             let t := s.reply dev 0
             if im.lost (gonePeers tier held) (im.damagedAt tier held) then t.send (.event dev "RESTORE FAILED" 3)
             else
               let core := (FMap.get {} im.units im.uid).core
               let t := t.setMode dev mode
               let t := t.setPkg { t.pkg with timer := { t.pkg.timer with joining := dev' :: t.pkg.timer.joining } }
               let t := t.setDev dev' { t.devAt dev' with images := [im] }
               ((t.restoreImage dev' key im).switchCore core im.asid).resumeCkpt dev' im.asid im.agent im.uid im.tok 1))
    | _ => none

/-- CONTINUE (R461). -/
def execCtxContinue (s : State) : Host.Outcome State Fault Refusal :=
  event s fun m =>
    match m with
    | .ctxContinue dev asid =>
      some (s.command dev fun _ =>
        s.checked dev [(!s.ctxLive dev asid, 3)]
          ((s.setCtx dev asid { s.ctxAt dev asid with halted := false, haltTold := false }).reply dev 0))
    | _ => none

end Sys2Proof.Machine
end

