-- ==== Sys2Proof/Machine/Ports.lean ====
section
/-!
DEFINITION. The device's edges: RoCEv2 packets and peer requests (R442, R443), PTP (R440), and the Delwell link with its
flits, replay and key rollover (R444 to R446, R480).
-/
namespace Sys2Proof.Machine

/-! ## Accesses from the ports (R291, R442, R443) -/

/-- The pieces of n bytes from an address within aligned 8-byte words: address and length. -/
def wordPieces : Nat → Nat → Nat → List (Nat × Nat)
  | 0, _, _ => []
  | fuel + 1, a, n =>
    if n = 0 then []
    else
      let k := min n (8 - a % 8)
      (a, k) :: wordPieces fuel (a + k) (n - k)

/-- The keyed places of the 8-byte pieces of a range, through the walkers of the device's lowest-numbered die; none where a
page does not translate. -/
def State.portPlaces (s : State) (dev asid va len : Nat) (write : Bool) : Option (List (Nat × Nat)) × State :=
  (wordPieces (len / 8 + 2) va len).foldl (fun (acc : Option (List (Nat × Nat)) × State) p =>
    match acc.1 with
    | none => acc
    | some l =>
      if pow2 48 ≤ p.1 then (none, acc.2)
      else
        match acc.2.translate noCore (firstDie s.mode dev) dev asid p.1 write true with
        | (.error _, s) => (none, s)
        | (.ok g, s) => (some (l ++ [(g.place s.mode dev p.1, p.2)]), s)) (some [], s)

/-- The access stalls at a frozen page, or a walk of it does at a frozen frame of the tables (R295). -/
def State.portStalls (s : State) (dev asid va len : Nat) (write : Bool) : Bool :=
  ((wordPieces (len / 8 + 2) va len).any fun p => s.walkStalls (firstDie s.mode dev) dev asid p.1) ||
    ((s.portPlaces dev asid va len write).1.getD []).any fun p => s.frozen p.1

/-- The core number of a write that comes in by a port: no agent of a core sees it before its die does. -/
def portCore : Nat := noCore + 1

/-- Writes of n bytes at a keyed place by the host or a peer (R252, R442): its own view has it at once, every other view at an
instant of its own. -/
def State.portWrite (s : State) (view ka n v : Nat) : State :=
  let a := kplace (s.route ka)
  (s.writeAt 0 portCore ka n v).publish (fun x => decide (x = view)) fun w => w.meets a n

/-- Performs a request whose checks have passed, as the relaxed accesses of an agent with a view of its own (R252, R442): the
bytes read, or nothing where a word is poisoned or its transfer is lost (R464). -/
def State.portPerform (s : State) (view : Nat) (ps : List (Nat × Nat)) (data : Option (List Byte)) :
    Option (List Byte) × State :=
  let s := ps.foldl (fun (s : State) p => s.served p.1 p.2) s
  match data with
  | none =>
    let (bad, s) := ps.foldl (fun (acc : Bool × State) p =>
      let (b, t) := acc.2.badHome p.1 p.2
      (acc.1 || b, t)) (false, s)
    if bad then (none, s)
    else (some (ps.flatMap fun p => bytesOf p.2 (s.readAt noCore view p.1 p.2)), s)
  | some bs =>
    let r := ps.foldl (fun (acc : List Byte × State) p =>
      (acc.1.drop p.2, acc.2.portWrite view p.1 p.2 (ofBytes (acc.1.take p.2)))) (bs, s)
    (some [], r.2)

/-- A region or export covers a request. -/
def covers (va len base n : Nat) : Bool := decide (base ≤ va ∧ va + len ≤ base + n)

/-- Translates and performs a request, or refuses it whole. -/
def State.portRequest (s : State) (view dev asid va len : Nat) (data : Option (List Byte)) : Option (List Byte) × State :=
  match s.portPlaces dev asid va len data.isSome with
  | (none, s) => (none, s)
  | (some ps, s) =>
    match s.portPerform view ps data with
    | (none, s) => (none, s.noteEcc dev asid 0xFFFFFFFF va)
    | r => r

/-- The length that a request carries agrees with its data. -/
def sized (len : Nat) (data : Option (List Byte)) : Bool :=
  match data with
  | none => true
  | some bs => decide (bs.length = len)

/-- The region that lets a RoCEv2 packet through. -/
def Device.regionOf (d : Device) (rkey va len : Nat) (write : Bool) : Option Region :=
  d.regions.find? fun r => decide (r.rkey = rkey) && covers va len r.va r.len && (if write then r.w else r.r)

/-- A device answers on the front port: it exists in the package's mode, and every die has been released (R435). -/
def State.answers (s : State) (dev : Nat) : Bool := s.devOk dev && decide (s.pkg.released = 15)

/-- Sends the bytes of an RDMA READ back, in packets of at most 4,096 bytes, the path MTU (R440). -/
def State.roceBack (s : State) (dev qp : Nat) : Nat → List Byte → State
  | 0, _ => s
  | fuel + 1, bs =>
    let t := s.send (.roce dev qp true (bs.take 4096))
    if bs.length ≤ 4096 then t else t.roceBack dev qp fuel (bs.drop 4096)

/-- ROCE_REQUEST_PACKET (R440, R442): checked whole; one that fails is answered with a NAK and performs nothing. The path MTU
bounds the bytes of a packet, not those that a READ asks for. A SEND names no region: it is acknowledged, and the spec gives
the bytes no place in device memory (DESIGN CHOICE, log 107). -/
def execRoceRequestPacket (s : State) : Host.Outcome State Fault Refusal :=
  event s fun m =>
    match m with
    | .roceRequestPacket dev qp rkey va len data =>
      let nak := s.send (.roce dev qp false [])
      some (if !s.answers dev then s
        else if 64 / s.mode ≤ qp ∨ (data.isSome ∧ 4096 < len) ∨ !sized len data then nak
        else
          match (s.devAt dev).regionOf rkey va len data.isSome with
          | none => nak
          | some r =>
            match s.portRequest hostView dev r.asid va len data with
            | (none, t) => t.send (.roce dev qp false [])
            | (some bs, t) => t.roceBack dev qp (bs.length / 4096 + 1) bs)
    | .roceSend dev qp data =>
      some (if s.answers dev then s.send (.roce dev qp (decide (qp < 64 / s.mode ∧ data.length ≤ 4096)) []) else s)
    | _ => none

/-- The export entry that lets a peer's request through (R443). -/
def Device.exportOf (d : Device) (r : PeerReq) : Option (Nat × Export) :=
  d.exports.find? fun p =>
    decide (p.2.remote = r.remote ∧ p.2.asid = r.asid) && covers r.va r.len p.2.va p.2.len && (if r.data.isSome then p.2.w else p.2.r)

/-- The peer port of the request's device whose accepted flits have delivered it (R420, R445). -/
def State.deliveredOn (s : State) (r : PeerReq) : Option Nat :=
  (s.pkg.links.find? fun p => decide (portDev s.mode p.1 = r.dev) && p.2.up && p.2.got.contains r).map Prod.fst

/-- A mirror that a performed request completes is the newest of its output (R478). -/
def State.keepMirror (s : State) (m : Option Mirror) : State :=
  match m with
  | none => s
  | some m =>
    let others := s.pkg.mirrors.filter fun (x : Mirror) => decide (x.member ≠ m.member ∨ x.out ≠ m.out)
    s.setPkg { s.pkg with mirrors := m :: others }

/-- PEER_REQUEST (R443): one that a live link has delivered is performed through an export entry that covers it, or refused
whole; any other does nothing. -/
def execPeerRequest (s : State) : Host.Outcome State Fault Refusal :=
  event s fun m =>
    match m with
    | .peerRequest r =>
      some (match s.deliveredOn r with
        | none => s
        | some port =>
          let l := s.linkAt port
          let s := s.setLink port { l with got := l.got.erase r }
          if ((s.devAt r.dev).exportOf r).isNone || !sized r.len r.data then s.send (.peer r.dev false [])
          else
            match s.portRequest (peerView r.remote) r.dev r.asid r.va r.len r.data with
            | (none, t) => t.send (.peer r.dev false [])
            | (some bs, t) => (t.keepMirror r.mirror).send (.peer r.dev true bs))
    | _ => none

/-- PTP_MESSAGE (R440): the device's time receiver takes the time it is given; the package's devices share one frame timer
(R27), which follows it. -/
def execPtpMessage (s : State) : Host.Outcome State Fault Refusal :=
  event s fun m =>
    match m with
    | .ptpMessage dev time =>
      some (if s.answers dev then
        let s := s.setDev dev { s.devAt dev with ptp := time }
        s.setPkg { s.pkg with timer := { s.pkg.timer with now := time } }
      else s)
    | _ => none

/-! ## Flits: receiving (R445) -/

/-- The part of a received header that acknowledges: freed flits, and on a NAK every remaining flit again, as stored. -/
def State.takeAck (s : State) (port : Nat) (ackseq : Nat) (nak : Bool) : State :=
  let l := s.linkAt port
  let acked (f : Flit) : Bool := decide ((ackseq + pow2 24 - f.num % pow2 24) % pow2 24 < pow2 23)
  let rest := l.replay.filter fun f => !acked f
  let progress := decide (rest.length < l.replay.length)
  let marker := l.marker.filter fun n => rest.any fun f => decide (f.num = n)
  let replays := (if progress then 0 else l.replays) + if nak then 1 else 0
  let s := s.setLink port { l with replay := rest, marker := marker, replays := replays }
  let s := if nak then s.wire port (rest.length / 32 + 1) rest else s
  s.drainLink port

/-- Takes the 256 bytes of a flit apart (R1, R444). -/
def FlitIn.ofBytes (bs : List Byte) : FlitIn :=
  { hdr := BitVec.ofNat 64 (Machine.ofBytes (bs.take 8)), payload := Machine.ofBytes ((bs.drop 8).take 232)
    tag := Machine.ofBytes ((bs.drop 240).take 16) }

/-- The fields of a received flit's header (R444). -/
def FlitIn.seq (f : FlitIn) : Nat := nbits f.hdr.toNat 23 0
def FlitIn.typ (f : FlitIn) : Nat := nbits f.hdr.toNat 27 24
def FlitIn.kg (f : FlitIn) : Nat := nbits f.hdr.toNat 28 28
def FlitIn.ackseq (f : FlitIn) : Nat := nbits f.hdr.toNat 55 32
def FlitIn.nak (f : FlitIn) : Bool := f.hdr.getLsbD 56

/-- The key that a flit's KG selects, if the receiver holds it. -/
def Link.keyOf (l : Link) (kg : Nat) : Option Nat := if kg = l.rxKg then some l.rxKey else l.rxOld

/-- The tag of a flit verifies as that of flit number n: over bytes 0 to 7 and the ciphertext. -/
def Link.verifies (l : Link) (f : FlitIn) (n : Nat) : Bool :=
  match l.keyOf f.kg with
  | none => false
  | some k => decide (f.tag = Config.gcmTag k n f.hdr.toNat f.payload % pow2 128)

/-- Receives the bytes of a flit of the type that its row names: the state, and whether it was accepted. A flit with a gap
before it or a bad tag is answered with a NAK, one already accepted is acknowledged again. -/
def State.receive (s : State) (port typ : Nat) (bs : List Byte) : Bool × State :=
  let l := s.linkAt port
  let f := FlitIn.ofBytes bs
  let d := (f.seq + pow2 24 - l.rxNext % pow2 24) % pow2 24
  if !l.up ∨ f.typ ≠ typ ∨ bs.length ≠ 256 then (false, s)
  else if d = 0 then
    if l.verifies f l.rxNext then
      (true, (s.setLink port { l with rxNext := l.rxNext + 1 }).takeAck port f.ackseq f.nak)
    else (false, s.answerFlit port true)
  else if d < pow2 23 then (false, s.answerFlit port true)
  else (false, s.answerFlit port false)

/-- An accepted flit is acknowledged, an acknowledgement apart. -/
def State.receiveAck (s : State) (port typ : Nat) (bs : List Byte) : State :=
  match s.receive port typ bs with
  | (true, t) => t.answerFlit port false
  | (false, t) => t

/-- FLIT_IDLE (R444). -/
def execFlitIdle (s : State) : Host.Outcome State Fault Refusal :=
  event s fun m =>
    match m with
    | .flitIdle port bs => some (s.receiveAck port 0 bs)
    | _ => none

/-- FLIT_DATA (R445): accepted in order, and what it completes is delivered in order. -/
def execFlitData (s : State) : Host.Outcome State Fault Refusal :=
  event s fun m =>
    match m with
    | .flitData port bs carries =>
      some (match s.receive port 1 bs with
        | (true, t) =>
          let l := t.linkAt port
          (t.setLink port { l with got := l.got ++ carries.toList }).answerFlit port false
        | (false, t) => t)
    | _ => none

/-- FLIT_ACK (R445). -/
def execFlitAck (s : State) : Host.Outcome State Fault Refusal :=
  event s fun m =>
    match m with
    | .flitAck port bs => some (s.receive port 2 bs).2
    | _ => none

/-- FLIT_MARKER (R446): the old key is erased. -/
def execFlitMarker (s : State) : Host.Outcome State Fault Refusal :=
  event s fun m =>
    match m with
    | .flitMarker port bs =>
      some (match s.receive port 4 bs with
        | (true, t) => (t.setLink port { t.linkAt port with rxOld := none }).answerFlit port false
        | (false, t) => t)
    | _ => none

/-- FLIT_OTHER_TYPE (R444): dropped. -/
def execFlitOtherType (s : State) : Host.Outcome State Fault Refusal :=
  event s fun m =>
    match m with
    | .flitOtherType _ _ => some s
    | _ => none

/-- LINK_DOWN (R445, R480): after 64 replays without progress, or 100 µs without an acknowledgement. -/
def execLinkDown (s : State) : Host.Outcome State Fault Refusal :=
  event s fun m =>
    match m with
    | .linkDown port => some (if (s.linkAt port).up then s.dropLink port else s)
    | _ => none

/-- The link has made no progress through 64 consecutive replays. -/
def Link.stuck (l : Link) : Bool := l.up && decide (64 ≤ l.replays)

/-- LINK_REOPEN (R480): the session of a link that is down is opened again, under new keys and with numbers from 0. -/
def execLinkReopen (s : State) : Host.Outcome State Fault Refusal :=
  event s fun m =>
    match m with
    | .linkReopen port =>
      some (if (s.linkAt port).up ∨ 16 ≤ port ∨ s.pkg.released ≠ 15 then s
        else (s.openLink port).setSpdm (port + 1) { s.spdmAt (port + 1) with opened := true })
    | _ => none

end Sys2Proof.Machine
end

