-- ==== Sys2Proof/Machine/Frame.lean ====
section
/-!
DEFINITION. Frame continuity: the frame timer and its lock (R472), present.post (R473, R474), the deadline with its
substitutes (R475 to R477), mirrors and the loss of a member (R478), the replacement's takeover (R479).
-/
namespace Sys2Proof.Machine

def State.timer (s : State) : Timer := s.pkg.timer
def State.setTimer (s : State) (t : Timer) : State := s.setPkg { s.pkg with timer := t }
def State.output (s : State) (o : Nat) : Output := FMap.get {} s.pkg.outputs o
def State.setOutput (s : State) (o : Nat) (x : Output) : State := s.setPkg { s.pkg with outputs := s.pkg.outputs.ins o x }

/-! ## The frame timer (R456, R472) -/

/-- Fields of FTLOCK. -/
def Timer.enabled (t : Timer) : Bool := t.lock.getLsbD 8
def Timer.member (t : Timer) : Nat := nbits t.lock.toNat 28 24
def Timer.buddy (t : Timer) : Nat := nbits t.lock.toNat 20 16
def Timer.covers (t : Timer) (m : Nat) : Bool := t.lock.getLsbD 15 && decide (nbits t.lock.toNat 14 10 = m)

/-- The error bound: |OFFSET| at the last exchange, and 1 ns for each 100 µs since; in units of 1/100,000 ns. -/
def Timer.bound (t : Timer) : Nat := t.offset.natAbs * 100000 + (t.now - t.lastSync)

/-- LOCKED is lost at this instant: the bound exceeds 100 ns. -/
def Timer.lost (t : Timer) : Bool := t.locked && decide (100 * 100000 < t.bound)

/-- An exchange with a member of the group, at the group's time. -/
def Timer.exchange (t : Timer) (time member : Nat) : Timer :=
  let off : Int := (t.now : Int) - (time : Int)
  let good := if off.natAbs ≤ 80 then t.good + 1 else 0
  { t with offset := off, good := good, locked := t.locked || decide (16 ≤ good), lastSync := t.now
           heard := t.heard.ins member t.now }

/-- What a sync flit says, in a layout of the model's own (log 78): the time, the member, the takeover deadline that it names and
the one that it acknowledges. -/
def Timer.syncPayload (t : Timer) (ack : Option Nat) : Nat :=
  ((t.now * 32 + t.member) * pow2 64 + t.named.getD 0) * pow2 64 + ack.getD 0

/-- A takeover deadline that the member whose outputs this one covers may still name (R479). -/
def Timer.adopts (t : Timer) (member : Nat) (takeover : Option Nat) : Bool :=
  match takeover with
  | some k => decide (t.covering = some member ∧ t.k + 1 ≤ k)
  | none => false

/-- The buddy's acknowledgement of the deadline that this replacement has named on a port, in time (R479). -/
def Timer.acked (t : Timer) (port member : Nat) (ack : Option Nat) : Bool :=
  match ack with
  | some k => decide (t.named = some k ∧ member = t.buddy ∧ t.k + 1 ≤ k) && t.namedBy.contains port
  | none => false

/-- FLIT_SYNC (R472, R479): an exchange; the takeover deadline of the member whose outputs this one covers, which it adopts and
acknowledges; or such an acknowledgement. -/
def execFlitSync (s : State) : Host.Outcome State Fault Refusal :=
  event s fun m =>
    match m with
    | .flitSync port bs time member takeover ack =>
      some (match s.receive port 3 bs with
        | (false, t) => t
        | (true, t) =>
          let x := t.timer
          let x := if x.enabled then x.exchange time member else x
          let adopts := x.adopts member takeover
          let x := if adopts then { x with takeover := takeover.map fun k => (member, k) } else x
          let x := if x.acked port member ack then { x with namedAck := true } else x
          let t := (t.setTimer x).answerFlit port false
          if adopts then t.sealFlit port 3 false (x.syncPayload takeover) else t)
    | _ => none

/-- The next takeover deadline that a replacement names (R479): at least 3 periods ahead. -/
def Timer.name (t : Timer) : Timer :=
  let late := match t.named with
    | none => true
    | some k => !t.namedAck && decide (k ≤ t.k + 1)
  if decide (t.joining ≠ []) && t.enabled && t.locked && late then { t with named := some (t.k + 4), namedBy := [], namedAck := false } else t

/-- SYNC_FLIT_SEND (R472, R479): to every neighbour, naming the takeover deadline of a replacement. -/
def execSyncFlitSend (s : State) : Host.Outcome State Fault Refusal :=
  event s fun m =>
    match m with
    | .syncFlitSend =>
      some (if s.timer.enabled then
        let s := s.setTimer s.timer.name
        (List.range 16).foldl (fun s port =>
          let l := s.linkAt port
          let t := s.timer
          let s := s.sealFlit port 3 false (t.syncPayload none)
          if l.up && decide (t.joining ≠ []) && t.named.isSome && !t.namedAck then
            s.setTimer { s.timer with namedBy := port :: s.timer.namedBy }
          else s) s
      else s)
    | _ => none

/-- LOCK_LOSS (R472). -/
def execLockLoss (s : State) : Host.Outcome State Fault Refusal :=
  event s fun m =>
    match m with
    | .lockLoss => some (if s.timer.lost then s.setTimer { s.timer with locked := false, good := 0 } else s)
    | _ => none

/-- A member of the lock group from which no sync flit has arrived for two periods (R478). -/
def Timer.silent (t : Timer) : List Nat :=
  if t.enabled then (t.heard.filter fun p => decide (p.2 + 2 * t.period ≤ t.now)).map Prod.fst else []

/-- A link to a member is up; which links lead to it is the wiring (log 76). -/
def State.reaches (s : State) (member : Nat) : Bool := (Config.memberPorts member).any fun n => (s.linkAt n).up

/-- A member is lost (R478): it is silent, or its links are down. -/
def State.memberGone (s : State) (member : Nat) : Bool :=
  s.timer.silent.contains member || (decide (Config.memberPorts member ≠ []) && !s.reaches member)

/-- The members of the lock group that are lost at this instant. -/
def State.lostMembers (s : State) : List Nat :=
  if s.timer.enabled then (s.timer.heard.map Prod.fst).filter s.memberGone else []

/-- MEMBER_LOST (R478): its buddy covers its outputs, and collectives that need its ranks, those of the devices in its package,
end with PEER_LOST. -/
def execMemberLost (s : State) : Host.Outcome State Fault Refusal :=
  event s fun m =>
    match m with
    | .memberLost member =>
      if !s.memberGone member then some s else
      let t := s.timer
      let s := s.setTimer { t with
        heard := t.heard.del member, covering := if t.enabled && t.covers member then some member else t.covering
        takeover := if t.enabled && t.covers member then none else t.takeover }
      let gone (d : Nat) : Bool := decide (4 ≤ d ∧ Config.memberOf d = member)
      let s := { s with devs := s.devs.map fun (p : Nat × Device) => (p.1, { p.2 with
        gobjs := p.2.gobjs.map fun (q : Nat × GObj) => (q.1, { q.2 with
          members := q.2.members.map fun (e : Member) => if gone e.dev then { e with ended := true } else e }) }) }
      let objs := (s.colls.map fun (c : CollOp) => c.obj).eraseDups
      some (objs.foldl (fun s i => s.losePeers i) s)
    | _ => none

/-! ## Outputs and posts (R473, R474) -/

/-- OUTPUT_CONFIGURE (R440, R473): a command of an owner session. A frame of another size is given up. -/
def execOutputConfigure (s : State) : Host.Outcome State Fault Refusal :=
  event s fun m =>
    match m with
    | .outputConfigure dev out width height stream =>
      some (s.command dev fun d =>
        s.checked dev
          [(decide (7 < out ∨ width = 0 ∨ 8192 < width ∨ height = 0 ∨ 8192 < height), 1), (!d.feature 2, 6)]
          (let x := s.output out
           let same := decide (x.w = width ∧ x.h = height)
           (s.setOutput out { x with configured := true, dev := dev, stream := stream, w := width, h := height
                                     posted := if same then x.posted else []
                                     last := if same then x.last else none }).reply dev 0))
    | _ => none

/-- The pages of a plane translate; the walkers set A. -/
def State.planeOk (s : State) (dev asid va len : Nat) : Bool × State :=
  if pow2 48 < va + len then (false, s)
  else
    (List.range ((va + len - 1) / 65536 - va / 65536 + 1)).foldl (fun (acc : Bool × State) i =>
      if acc.1 then
        match acc.2.translate noCore (firstDie s.mode dev) dev asid (max va ((va / 65536 + i) * 65536)) false true with
        | (.error _, s) => (false, s)
        | (.ok _, s) => (true, s)
      else acc) (true, s)

/-- The walk of some page of a plane stalls (R295). -/
def State.planeWalks (s : State) (dev asid va len : Nat) : Bool :=
  (List.range ((va + len - 1) / 65536 - va / 65536 + 1)).any fun i =>
    s.walkStalls (firstDie s.mode dev) dev asid (max va ((va / 65536 + i) * 65536))

/-- The frame that the descriptor at a global place names, with its bytes at place a, and whether its fields keep R473. -/
def State.readFrame (s : State) (dev asid desc a : Nat) : Nat × Bool × Frame :=
  let f (o n : Nat) : Nat := s.rdN (a + o) n
  let fr : Frame :=
    { dev := dev, asid := asid, desc := desc, start := s.past.length, color := f 0 8, depth := f 8 8, motion := f 16 8, pitch := f 24 4, w := f 28 2
      h := f 30 2, seq := f 32 4, mirror := (f 37 1).testBit 0 }
  (f 36 1, decide (f 37 1 < 2 ∧ f 38 10 = 0 ∧ f 56 8 = 0 ∧ fr.pitch % 4 = 0 ∧ 4 * fr.w ≤ fr.pitch), fr)

/-- present.post (R474): behind the group's earlier accesses, with a release at device scope. -/
def execPresentPost (x y : BitVec 6) (s : State) : Host.Outcome State Fault Refusal :=
  issue s 1 [spanS x.toNat 1] [spanS y.toNat 1] fun i => i.afterAll <|
    i.withObjects [(i.sx x.toNat, 64, true)] fun ls s =>
      let s := s.releaseAt (coreOf s.cur) 4
      let desc := gloc s.mode i.dev (ls.getD 0 0)
      let a := kplace (s.route desc)
      let (lost, s) := s.badRead a 48
      let st (s : State) (n : Nat) : Eff := i.status s y.toNat n
      if lost then st (s.noteUnit i.g.unit a) 4
      else
        let (out, ok, f) := s.readFrame i.dev i.asid desc a
        let o := s.output out
        let stale := match o.top with
          | some t => decide (f.seq ≤ t)
          | none => false
        if stale then st s 1
        else if 3 ≤ o.posted.length then st s 2
        else if 7 < out ∨ !o.configured ∨ f.w ≠ o.w ∨ f.h ≠ o.h ∨ !ok then st s 3
        else
          if s.planeWalks i.dev i.asid f.color (f.pitch * (f.h - 1) + 4 * f.w) ||
              s.planeWalks i.dev i.asid f.depth (4 * f.w * f.h) || s.planeWalks i.dev i.asid f.motion (4 * f.w * f.h) then .wait
          else
          let (c, s) := s.planeOk i.dev i.asid f.color (f.pitch * (f.h - 1) + 4 * f.w)
          let (z, s) := if c then s.planeOk i.dev i.asid f.depth (4 * f.w * f.h) else (false, s)
          let (v, s) := if z then s.planeOk i.dev i.asid f.motion (4 * f.w * f.h) else (false, s)
          if v then
            let s := s.setOutput out { o with posted := o.posted ++ [f], top := some f.seq }
            st (s.setTag (a + 48) false) 0
          else st s 4

/-! ## Frames at a deadline (R475 to R477) -/

/-- A word of a plane as the engine reads it, and the state after: what the word has held at some instant since the post (R476). A
page that no longer translates, poison or a lost transfer gives a free value. -/
def State.planeWord (s : State) (f : Frame) (va : Nat) : Word × State :=
  let die := firstDie s.mode f.dev
  let free := Config.word s.count (pow2 20 + (256 * f.dev + f.asid) * pow2 48 + va)
  match s.translate noCore die f.dev f.asid va false true with
  | (.error _, t) => (free, t)
  | (.ok p, t) =>
    let ka := p.place t.mode f.dev va
    let (bad, t) := (t.served ka 4).badHome ka 4
    if bad then (free, t.noteEcc f.dev f.asid 0xFFFFFFFF (kplace ka))
    else (BitVec.ofNat 32 (t.readSince noCore die f.start va ka 4), t)

/-- The words of a plane of a frame in row-major order, with the bytes from one row to the next. -/
def State.readPlane (s : State) (f : Frame) (va pitch : Nat) : List Word × State :=
  (List.range (f.w * f.h)).foldl (fun (acc : List Word × State) i =>
    let (w, t) := acc.2.planeWord f (va + i / f.w * pitch + 4 * (i % f.w))
    (acc.1 ++ [w], t)) ([], s)

/-- Some page of a plane stalls the engine: its walk, or the page itself, meets a frozen frame (R295). -/
def State.planeStalls (s : State) (f : Frame) (va len : Nat) : Bool :=
  s.planeWalks f.dev f.asid va len ||
    (List.range ((va + len - 1) / 65536 - va / 65536 + 1)).any fun i =>
      let at' := max va ((va / 65536 + i) * 65536)
      match (s.translate noCore (firstDie s.mode f.dev) f.dev f.asid at' false false).1 with
      | .ok p => s.frozen (p.place s.mode f.dev at')
      | .error _ => false

/-- Some plane that a transmission reads stalls the engine. -/
def State.frameStalls (s : State) (x : Sending) : Bool :=
  let f := x.frame
  s.planeStalls f f.color (f.pitch * (f.h - 1) + 4 * f.w) ||
    ((x.sub || f.mirror) && (s.planeStalls f f.depth (4 * f.w * f.h) || s.planeStalls f f.motion (4 * f.w * f.h)))

/-- A motion word as its two components (R473). -/
def motionOf (w : Word) : FpNum × FpNum := (fp16.value (w.toNat % 65536), fp16.value (w.toNat / 65536))

/-- The pixel that a source moves to after `age` frames, with exact arithmetic rounded to the nearest integer, ties to even;
none for a motion that is not finite. -/
def movedTo (x age : Nat) (d : FpNum) : Option Int :=
  match d with
  | .fin neg m e =>
    let q := scaleQ m 1 e
    let step : Int := if neg then -((age * q.1 : Nat) : Int) else ((age * q.1 : Nat) : Int)
    let v : Int := ((x * q.2 : Nat) : Int) + step
    let r := roundInt 1 (decide (v < 0)) v.natAbs q.2 false 0
    some (if v < 0 then -(r : Int) else (r : Int))
  | _ => none

/-- Target pixels in row-major order: the nearest source that lands there, if any, of a frame given by its planes. -/
def warp (w h age : Nat) (color depth motion : List Word) : List (Option (Word × FpNum)) :=
  (List.range (w * h)).foldl (fun (out : List (Option (Word × FpNum))) i =>
    let mv := motionOf (motion.getD i 0)
    match movedTo (i % w) age mv.1, movedTo (i / w) age mv.2 with
    | some tx, some ty =>
      if 0 ≤ tx ∧ tx < w ∧ 0 ≤ ty ∧ ty < h then
        let t := ty.toNat * w + tx.toNat
        let z := fp32.value (depth.getD i 0).toNat
        let nearer := match out.getD t none with
          | none => z.lt (.inf false)
          | some old => z.lt old.2
        if nearer then out.set t (some (color.getD i 0, z)) else out
      else out
    | _, _ => out) (List.replicate (w * h) none)

/-- A substitute frame (R477): holes keep the pixel of the frame itself. -/
def reproject (w h age : Nat) (color depth motion : List Word) : List Word :=
  (warp w h age color depth motion).zipIdx.map fun p =>
    match p.1 with
    | some q => q.1
    | none => color.getD p.2 0

/-- The copy of a frame that goes to the buddy (R478), over the links that lead to it, with its three planes. -/
def State.mirrorOut (s : State) (x : Sending) (color depth motion : List Word) : State :=
  let f := x.frame
  let t := s.timer
  if f.mirror && t.enabled && s.reaches t.buddy then
    s.send (.mirror t.buddy
      { member := t.member, out := x.out, stream := x.stream, w := f.w, h := f.h, seq := f.seq, k := x.k
        color := color, depth := depth, motion := motion })
  else s

/-- The transmission of a frame ends, as the period that follows its deadline does: the engine has read its planes (R475,
R476), or reads them once a page of them has thawed (R295). -/
def State.sendFrame (s : State) (x : Sending) : State :=
  if s.frameStalls x then s.owe (.frame x)
  else
    let f := x.frame
    let (c, s) := s.readPlane f f.color f.pitch
    if x.sub || f.mirror then
      let (z, s) := s.readPlane f f.depth (4 * f.w)
      let (v, s) := s.readPlane f f.motion (4 * f.w)
      if x.sub then s.send (.frame x.out x.k x.member x.stream f.seq true x.age (reproject f.w f.h x.age c z v))
      else (s.send (.frame x.out x.k x.member x.stream f.seq false 0 c)).mirrorOut x c z v
    else s.send (.frame x.out x.k x.member x.stream f.seq false 0 c)

/-- The transmission of an output's frame is over. -/
def State.endFrame (s : State) (o : Nat) : State :=
  let x := s.output o
  match x.sending with
  | none => s
  | some y => (s.setOutput o { x with sending := none }).sendFrame y

/-- A device fault (R475). -/
def State.deviceFault (s : State) (dev : Nat) : Bool :=
  (s.ctxs.any fun p => decide (p.1 / 256 = dev) && p.2.halted) || (s.devAt dev).ckpt.isSome ||
    !s.pkg.released.getLsbD 2 || s.pkg.engineFault

/-- Writes the RETIRED word of a descriptor, where a migration has taken it (R296) or once its page has thawed (R295), and sets
its tag full, with a release at device scope (R476). -/
def State.retire (s : State) (desc v : Nat) : State :=
  let a := desc + 48
  if s.frozen a then s.owe (.retire desc v) else (s.wrHome a 8 v).setTag (kplace (s.route a)) true

/-- The frame of the highest SEQ among those accepted. -/
def newest : List Frame → Option Frame
  | [] => none
  | f :: t =>
    match newest t with
    | none => some f
    | some g => if g.seq < f.seq then some f else some g

/-- One output at deadline k: the transmission of its new frame, or of a substitute, begins. Where no frame has ever been sent,
what goes out is free. -/
def State.outputAt (s : State) (o k : Nat) : State :=
  let x := s.output o
  let me := s.timer.member
  if !x.configured then s
  else
    match (newest x.posted).filter fun f => !s.deviceFault f.dev with
    | some f =>
      let s := (x.posted.filter fun g => decide (g ≠ f)).foldl (fun s g => s.retire g.desc (pow2 64 - 1)) s
      let s := match x.last with
        | some (g, kg) => s.retire g.desc kg
        | none => s
      s.setOutput o { s.output o with
        posted := [], last := some (f, k)
        sending := some { out := o, k := k, member := me, stream := x.stream, frame := f, sub := false, age := 0 } }
    | none =>
      match x.last with
      | some (g, kg) =>
        s.setOutput o { x with
          sending := some { out := o, k := k, member := me, stream := x.stream, frame := g, sub := true, age := min (k - kg) 4 } }
      | none =>
        s.send (.frame o k me x.stream (Config.word s.count (7000 + o)).toNat true ((Config.word s.count (7100 + o)).toNat % 128)
          ((List.range (x.w * x.h)).map fun i => Config.word s.count (pow2 60 + pow2 28 * o + i)))

/-- The newest complete mirror of an output of a member. -/
def State.mirrorOf (s : State) (member o : Nat) : Option Mirror :=
  s.pkg.mirrors.find? fun m => decide (m.member = member ∧ m.out = o)

/-- A video format by its number. -/
def videoFormat (n : Nat) : VideoFormat :=
  if n = 0 then .yuv422x10 else if n = 1 then .rgb8 else if n = 2 then .rgb10 else .rgb12

/-- The frame that the buddy sends at deadline k for an output of a lost member (R478): its newest complete mirror,
reprojected, on that member's stream; without a mirror, colour bytes that are all 0, on the stream that the output is configured
with (log 78). -/
def State.coverAt (s : State) (member o k : Nat) : State :=
  match s.mirrorOf member o with
  | some m =>
    let a := min (k - m.k) 4
    s.send (.frame o k member m.stream m.seq true a (reproject m.w m.h a m.color m.depth m.motion))
  | none =>
    match Config.memberOutput member o with
    | none => s
    | some (fmt, wide, addrs, ext, w, h) =>
      s.send (.frame o k member { format := videoFormat fmt, wide := wide, addrs := addrs, ext := ext } 0 true 4
        (List.replicate (w * h) 0))

/-- A written FTPERIOD or FTEPOCH comes nearer by one deadline, and takes effect (R456). -/
def Timer.tick (t : Timer) : Timer :=
  let p := match t.nextPeriod with
    | some (v, n) => if n ≤ 1 then (v, none) else (t.period, some (v, n - 1))
    | none => (t.period, none)
  let e := match t.nextEpoch with
    | some (v, n) => if n ≤ 1 then (v, none) else (t.epoch, some (v, n - 1))
    | none => (t.epoch, none)
  let changed := decide (p.1 ≠ t.period ∨ e.1 ≠ t.epoch)
  { t with period := p.1, nextPeriod := p.2, epoch := e.1, nextEpoch := e.2
           k := if !changed then t.k + 1 else if t.now < e.1 then 0 else (t.now - e.1) / p.1 + 1 }

/-- A replacement has taken its outputs over: it has named a deadline, the buddy has acknowledged it, and it has come (R479). -/
def Timer.tookOver (t : Timer) : Bool :=
  match t.named with
  | some n => t.namedAck && decide (n ≤ t.k)
  | none => false

/-- The outputs of a device do not send: it is a replacement in a lock group before its takeover (R479). -/
def Timer.waits (t : Timer) (dev : Nat) : Bool := t.enabled && t.joining.contains dev && !t.tookOver

/-- The deadline up to which this member covers another one has come (R479). -/
def Timer.uncovers (t : Timer) : Bool :=
  match t.takeover with
  | some (_, n) => decide (n ≤ t.k)
  | none => false

/-- FRAME_DEADLINE (R475): the transmissions of the last period end; every configured output begins one frame, a replacement's
from its takeover deadline on (R479), and a buddy sends for the member it covers. -/
def execFrameDeadline (s : State) : Host.Outcome State Fault Refusal :=
  event s fun m =>
    match m with
    | .frameDeadline =>
      let t := s.timer
      let k := t.k
      let s := (List.range 8).foldl (fun s o => s.endFrame o) s
      let s := s.setTimer { s.timer with now := max t.now (t.epoch + k * t.period) }
      let s := (List.range 8).foldl (fun s o => if t.waits (s.output o).dev then s else s.outputAt o k) s
      let s := if t.enabled && t.tookOver then
          s.setTimer { s.timer with joining := [], named := none, namedBy := [], namedAck := false }
        else s
      let s := match t.covering with
        | some mem =>
          if t.uncovers then s.setTimer { s.timer with covering := none, takeover := none }
          else (List.range 8).foldl (fun s o => s.coverAt mem o k) s
        | none => s
      some (s.setTimer s.timer.tick)
    | _ => none

end Sys2Proof.Machine
end

