-- ==== Sys2Proof/Machine/LaneCross.lean ====
section
/-!
DEFINITION. The cross-thread instructions (R124, R152 to R155), the special registers (R72, R156 to R158), nop and the
mod prefix.
-/
namespace Sys2Proof.Machine

/-! ## The executing lanes -/

/-- The executing lanes in ascending order. -/
def Ix.lanesIn (x : Ix) : List Nat := (List.range 64).filter fun l => x.ex.getLsbD l

/-- a of another lane, 0 outside the executing set (R152). -/
def Ix.other (x : Ix) (a : Nat) (src : Nat) : Word := if x.ex.getLsbD src then x.src a src else 0

/-- A shuffle (R153, R154): each executing lane takes a of the lane that f names for it. -/
def shuffle (s : State) (w : BitVec 1) (d a b : BitVec 8) (f : Ix → Nat → Nat) : Host.Outcome State Fault Refusal :=
  intInstr s w d [a.toNat, b.toNat] fun x l => x.other a.toNat (f x l)

/-- The source lane of shfx (R154). -/
def shfxSrc (b : Word) (l : Nat) : Nat :=
  let m := b.toNat % 64
  match nbits b.toNat 7 6 with
  | 0 => l ^^^ m
  | 1 => if l < m then l else l - m
  | 2 => if l + m > 63 then l else l + m
  | _ => (l + m) % 64

/-- A reduction over the executing lanes, whose one value every destination receives (R155). -/
def reduce (s : State) (w : BitVec 1) (d a : BitVec 8) (f : Ix → List Nat → Word) : Host.Outcome State Fault Refusal :=
  issue s 1 [(a.toNat, 1)] (destSpan w d 1) fun x =>
    let v := f x x.lanesIn
    .done (x.s.setGrp (x.write x.g (w == 1) d.toNat fun _ => v))

/-- A reduction by a two-place operation from a first value. -/
def foldLanes (s : State) (w : BitVec 1) (d a : BitVec 8) (z : Word) (f : Word → Word → Word) :
    Host.Outcome State Fault Refusal :=
  reduce s w d a fun x ls => ls.foldl (fun m l => f m (x.src a.toNat l)) z

/-- The values up to and with lane l. -/
def upTo (ls : List Nat) (l : Nat) : List Nat := ls.filter fun k => decide (k ≤ l)

/-! ## Floating-point sums in a fixed order (R124) -/

/-- A partial sum: its FP32 pattern, the lowest executing lane in it, and whether it was rounded. -/
structure PSum where
  val : FpNum
  low : Nat
deriving DecidableEq, Repr

/-- The draws and flags that a sum leaves behind. -/
structure SumSt where
  g : Group
  fl : BitVec 5 := 0

/-- One addition: rounded under the group mode and FTZ, with a draw of the generator of lane n under mode 6. -/
def addF32 (st : SumSt) (a b : FpNum) (n : Nat) : FpNum × SumSt :=
  let mode := st.g.fmode.toNat % 8
  let ftz := st.g.fmode.getLsbD 3
  let sig := a.isSig || b.isSig
  let v := if a.isNan || b.isNan then some (.nan false) else sumNum (decide (mode = 4)) [a, b]
  let r := finish32 ftz mode false 0 (drawAt (st.g.gen n) 0) sig v
  let g := if mode = 6 then { st.g with gens := st.g.gens.ins n (advGen (st.g.gen n)) } else st.g
  (readF32 ftz (BitVec.ofNat 32 r.1), { g := g, fl := st.fl ||| r.2 })

/-- One level of the tree: neighbours combine; an absent side passes the other on. -/
def treeLevel (st : SumSt) : List (Option PSum) → List (Option PSum) × SumSt
  | a :: b :: t =>
    let (c, st) : Option PSum × SumSt :=
      match a, b with
      | some x, some y => let r := addF32 st x.val y.val x.low; (some { val := r.1, low := x.low }, r.2)
      | some x, none => (some x, st)
      | none, y => (y, st)
    let (rest, st) := treeLevel st t
    (c :: rest, st)
  | l => (l, st)

/-- The levels of the tree up to one value. -/
def treeSum (st : SumSt) (l : List (Option PSum)) : Nat → Option PSum × SumSt
  | 0 => (l.headD none, st)
  | n + 1 => let r := treeLevel st l; treeSum r.2 r.1 n

/-- A value as it is delivered: NaN canonical, NF and IV for a value that was passed on. -/
def deliverNum (a : FpNum) : FRes :=
  let r := fp32.ofNum 1 false 0 a
  (r.1, flag a.isSig fIV ||| flag (fp32.nonFinite r.1) fNF)

/-- The running sums of the executing lanes, in ascending order. -/
def runSums (st : SumSt) (acc : FpNum) : List (Nat × FpNum) → List (Nat × FRes) × SumSt
  | [] => ([], st)
  | (l, v) :: t =>
    let r := addF32 st acc v l
    let (rest, st) := runSums r.2 r.1 t
    ((l, deliverNum r.1) :: rest, st)

/-- shfl (R153): a of the lane that b[5:0] names. -/
def execShfl (w : BitVec 1) (d a b : BitVec 8) (s : State) : Host.Outcome State Fault Refusal :=
  shuffle s w d a b fun x l => (x.src b.toNat l).toNat % 64

/-- shfx (R154): a of the lane at the distance and in the mode that the uniform b names. -/
def execShfx (w : BitVec 1) (d a b : BitVec 8) (s : State) : Host.Outcome State Fault Refusal :=
  shuffle s w d a b fun x l => shfxSrc (x.uni b.toNat) l

/-- ballot (R155): the mask of the executing lanes whose a is not 0, as a register pair. -/
def execBallot (w : BitVec 1) (d a : BitVec 8) (s : State) : Host.Outcome State Fault Refusal :=
  issue s 1 [(a.toNat, 1)] (destSpan w d 2) fun x =>
    let m := lanesOf fun l => x.ex.getLsbD l && decide (x.src a.toNat l ≠ 0)
    .done (x.s.setGrp (x.write64 x.g (w == 1) d.toNat fun _ => m.toNat))

/-- any (R155): 1 if some a is not 0. -/
def execAny (w : BitVec 1) (d a : BitVec 8) (s : State) : Host.Outcome State Fault Refusal :=
  reduce s w d a fun x ls => if ls.any fun l => decide (x.src a.toNat l ≠ 0) then 1 else 0

/-- all (R155): 1 if every a is not 0. -/
def execAll (w : BitVec 1) (d a : BitVec 8) (s : State) : Host.Outcome State Fault Refusal :=
  reduce s w d a fun x ls => if ls.all fun l => decide (x.src a.toNat l ≠ 0) then 1 else 0

/-- radd (R155): the sum modulo 2^32. -/
def execRadd (w : BitVec 1) (d a : BitVec 8) (s : State) : Host.Outcome State Fault Refusal :=
  foldLanes s w d a 0 (· + ·)

/-- rfadd (R155): the FP32 sum in the order of the tree of R124. -/
def execRfadd (w : BitVec 1) (d a : BitVec 8) (s : State) : Host.Outcome State Fault Refusal :=
  issue s 1 [(a.toNat, 1)] (destSpan w d 1) fun x =>
    let leaf (l : Nat) : Option PSum :=
      if x.ex.getLsbD l then some { val := readF32 x.ftz (x.src a.toNat l), low := l } else none
    let (r, st) := treeSum { g := x.g } ((List.range 64).map leaf) 6
    let sigs := (x.lanesIn).any fun l => (readF32 x.ftz (x.src a.toNat l)).isSig
    let v := deliverNum ((r.map PSum.val).getD (.fin false 0 0))
    .done (x.s.setGrp ((x.write st.g (w == 1) d.toNat fun _ => BitVec.ofNat 32 v.1).raise (st.fl ||| v.2 ||| flag sigs fIV)))

/-- rmin (R155): the least by signed value. -/
def execRmin (w : BitVec 1) (d a : BitVec 8) (s : State) : Host.Outcome State Fault Refusal :=
  foldLanes s w d a 0x7FFFFFFF fun m v => if v.slt m then v else m

/-- rmax (R155): the greatest by signed value. -/
def execRmax (w : BitVec 1) (d a : BitVec 8) (s : State) : Host.Outcome State Fault Refusal :=
  foldLanes s w d a 0x80000000 fun m v => if m.slt v then v else m

/-- rumin (R155): the least by unsigned value. -/
def execRumin (w : BitVec 1) (d a : BitVec 8) (s : State) : Host.Outcome State Fault Refusal :=
  foldLanes s w d a 0xFFFFFFFF fun m v => if v.ult m then v else m

/-- rumax (R155): the greatest by unsigned value. -/
def execRumax (w : BitVec 1) (d a : BitVec 8) (s : State) : Host.Outcome State Fault Refusal :=
  foldLanes s w d a 0 fun m v => if m.ult v then v else m

/-- rand (R155): the bitwise AND. -/
def execRand (w : BitVec 1) (d a : BitVec 8) (s : State) : Host.Outcome State Fault Refusal :=
  foldLanes s w d a 0xFFFFFFFF (· &&& ·)

/-- ror (R155): the bitwise OR. -/
def execRor (w : BitVec 1) (d a : BitVec 8) (s : State) : Host.Outcome State Fault Refusal :=
  foldLanes s w d a 0 (· ||| ·)

/-- pfadd (R155): in each lane the sum of the executing lanes up to it. -/
def execPfadd (w : BitVec 1) (d a : BitVec 8) (s : State) : Host.Outcome State Fault Refusal :=
  intInstr s w d [a.toNat] fun x l => (upTo x.lanesIn l).foldl (fun m k => m + x.src a.toNat k) 0

/-- pffadd (R155): in each lane the FP32 running sum of R124. -/
def execPffadd (w : BitVec 1) (d a : BitVec 8) (s : State) : Host.Outcome State Fault Refusal :=
  issue s 1 [(a.toNat, 1)] (destSpan w d 1) fun x =>
    let vals := x.lanesIn.map fun l => (l, readF32 x.ftz (x.src a.toNat l))
    let (sums, st) : List (Nat × FRes) × SumSt :=
      match vals with
      | [] => ([], { g := x.g })
      | (l, v) :: t => let r := runSums { g := x.g } v t; ((l, deliverNum v) :: r.1, r.2)
    let sigs := vals.any fun p => p.2.isSig
    let fl := sums.foldl (fun m p => m ||| p.2.2) (st.fl ||| flag sigs fIV)
    let at' (l : Nat) : Word := BitVec.ofNat 32 ((sums.find? fun p => decide (p.1 = l)).elim 0 fun p => p.2.1)
    .done (x.s.setGrp ((x.write st.g (w == 1) d.toNat at').raise fl))

/-- bcst (R155): a of the lowest executing lane. -/
def execBcst (w : BitVec 1) (d a : BitVec 8) (s : State) : Host.Outcome State Fault Refusal :=
  reduce s w d a fun x _ => x.src a.toNat (lowLane x.ex)

/-- first (R155): the lowest executing lane whose a is not 0, or 64. -/
def execLaneFirst (w : BitVec 1) (d a : BitVec 8) (s : State) : Host.Outcome State Fault Refusal :=
  reduce s w d a fun x ls =>
    BitVec.ofNat 32 ((ls.find? fun l => decide (x.src a.toNat l ≠ 0)).getD 64)

/-! ## Special registers (R72, R156 to R158) -/

/-- The count of cycles since the unit started on its core (R157). -/
def Ix.clock (x : Ix) : Nat := x.s.cycle - x.g.clk0

/-- The value of a special register; 0 for a number the clause check refuses. -/
def Ix.special (x : Ix) (n : Nat) : Word :=
  let core := coreOf x.s.cur
  match n with
  | 0 => BitVec.ofNat 32 x.clock
  | 1 => if x.c.clk = 0 then BitVec.ofNat 32 (x.clock / pow2 32) else BitVec.ofNat 32 (x.c.clk - 1)
  | 2 => BitVec.ofNat 32 core
  | 3 => BitVec.ofNat 32 (dieOfCore core)
  | 4 => BitVec.ofNat 32 x.s.mode
  | 5 => BitVec.ofNat 32 (x.s.unitAt x.g.unit).uidx
  | 6 => x.g.fflags.setWidth 32
  | 7 => x.g.fmode.setWidth 32
  | _ => 0

/-- movs, read form (R156): the special register to the destination. A read of clklo captures the upper half. -/
def execMovsRead (w : BitVec 1) (d : BitVec 8) (n : BitVec 7) (s : State) : Host.Outcome State Fault Refusal :=
  issue s 1 [] (destSpan w d 1) fun x =>
    let v := x.special n.toNat
    let g := x.write x.g (w == 1) d.toNat fun _ => v
    let g := if n = 0 then { g with clause := some { x.c with clk := x.clock / pow2 32 + 1 } } else g
    .done (x.s.setGrp g)

/-- movs, write form (R156): fflags is cleared by ones; fmode keeps its mode where the value names none. A batch that has
written a non-finite value before NF is cleared may then set it or not (R158). -/
def execMovsWrite (a : BitVec 8) (n : BitVec 7) (s : State) : Host.Outcome State Fault Refusal :=
  issue s 1 [(a.toNat, 1)] [] fun x =>
    let v := x.uni a.toNat
    let g := if n = 6 then
        { x.g with fflags := x.g.fflags &&& ~~~(v.setWidth 5)
                   nf := if v.getLsbD 4 then x.g.nf.map fun p => (p.1, true) else x.g.nf }
      else if n = 7 then
        let m := v.setWidth 3
        { x.g with fmode := (if v.getLsbD 3 then 8#4 else 0#4) |||
            (if m = 0 ∨ m = 7 then x.g.fmode &&& 7#4 else m.setWidth 4) }
      else x.g
    .done (x.s.setGrp g)

/-! ## nop and the mod prefix -/

/-- nop (R33): no effect. -/
def execNop (s : State) : Host.Outcome State Fault Refusal :=
  issue s 1 [] [] fun x => .done x.s

/-- MOD (R60): its fields stand ready for the next instruction of the clause; prefix and instruction count as one. -/
def execModPrefix (c : BitVec 8) (r : BitVec 3) (sat ng nb nc aa ab : BitVec 1) (l : BitVec 4) (s : State) :
    Host.Outcome State Fault Refusal :=
  match s.grp.clause with
  | none => .fault .noClause
  | some cl =>
    let m : ModW := { c := c, rnd := r, sat := sat == 1, nega := ng == 1, negb := nb == 1, negc := nc == 1
                      absa := aa == 1, absb := ab == 1, scl := l }
    .next (s.setGrp { s.grp with clause := some { cl with wi := cl.wi + 1, modp := some m } })

end Sys2Proof.Machine
end

