-- ==== Sys2Proof/Machine/LaneFloat.lean ====
section
/-!
DEFINITION. The floating-point, conversion and packed instructions of the V and U pipes (R144 to R151).
-/
namespace Sys2Proof.Machine

/-- A result with its flags as a lane delivers it. -/
def fres (r : FRes) : Word × BitVec 5 := (BitVec.ofNat 32 r.1, r.2)

/-- The common form of fadd, fsub, fmul and ffma (R144): the exact value of the sources, rounded once. -/
def fpArith (s : State) (w : BitVec 1) (d : BitVec 8) (srcs : List Nat) (ops : Ix → Nat → List FpNum)
    (f : Bool → List FpNum → Option FpNum) : Host.Outcome State Fault Refusal :=
  laneInstr s w d srcs 1 fun x l r =>
    let ns := ops x l
    let v := if ns.any FpNum.isNan then some (.nan false) else f (decide (x.mode = 4)) ns
    fres (finish32 x.ftz x.mode x.m.sat x.scl (r 0) (ns.any FpNum.isSig) v)

/-- A compare of FP32 sources (R146). -/
def fpCmp (s : State) (w : BitVec 1) (d a b : BitVec 8) (k : Nat) : Host.Outcome State Fault Refusal :=
  laneInstr s w d [a.toNat, b.toNat] 0 fun x l _ =>
    let r := fcompare k (x.fa a.toNat l) (x.fb b.toNat l)
    (if r.1 then 1 else 0, r.2)

/-- A function of R147. -/
def fpFun (s : State) (w : BitVec 1) (d a : BitVec 8) (code : Nat) : Host.Outcome State Fault Refusal :=
  laneInstr s w d [a.toNat] 1 fun x l r => fres (funOp code x.ftz x.mode x.m.sat x.scl (r 0) (x.fa a.toNat l))

/-- The packed instructions (R150): each half apart, element 0 drawn first. -/
def packed (s : State) (w : BitVec 1) (d : BitVec 8) (srcs : List Nat) (fm : Fmt) (ops : Ix → Nat → Nat → List FpNum)
    (f : Bool → List FpNum → Option FpNum) : Host.Outcome State Fault Refusal :=
  laneInstr s w d srcs 2 fun x l r =>
    let half (i : Nat) : FRes :=
      let ns := ops x l i
      let v := if ns.any FpNum.isNan then some (.nan false) else f (decide (x.mode = 4)) ns
      fm.finish x.mode x.m.sat x.scl (r i) (ns.any FpNum.isSig) v
    (BitVec.ofNat 32 ((half 0).1 + 65536 * (half 1).1), (half 0).2 ||| (half 1).2)

/-- hdot2 and bdot2 (R151). -/
def dot2 (s : State) (w : BitVec 1) (d a b : BitVec 8) (fm : Fmt) (pk : Nat) : Host.Outcome State Fault Refusal :=
  let c := cCode s d.toNat
  laneInstr s w d [a.toNat, b.toNat, c] 1 fun x l r =>
    let p (i : Nat) : FpNum := x.ha fm pk a.toNat l i
    let q (i : Nat) : FpNum := x.hb fm pk b.toNat l i
    let k := x.fc pk c l
    let sig := [p 0, p 1, q 0, q 1, k].any FpNum.isSig
    fres (finish32 x.ftz x.mode x.m.sat x.scl (r 0) sig (dotNum (decide (x.mode = 4)) (p 0) (q 0) (p 1) (q 1) k))

/-- The exact sum, difference, product, and product plus third source of two or three values. -/
def numAdd (rdn : Bool) : List FpNum → Option FpNum
  | a :: b :: _ => sumNum rdn [a, b]
  | _ => none
def numMul (_ : Bool) : List FpNum → Option FpNum
  | a :: b :: _ => a.mul b
  | _ => none
def numFma (rdn : Bool) : List FpNum → Option FpNum
  | a :: b :: c :: _ => fmaNum rdn a b c
  | _ => none

/-- fadd (R144): a + b. -/
def execFadd (w : BitVec 1) (d a b : BitVec 8) (s : State) : Host.Outcome State Fault Refusal :=
  fpArith s w d [a.toNat, b.toNat] (fun x l => [x.fa a.toNat l, x.fb b.toNat l]) numAdd

/-- fsub (R144): a − b. -/
def execFsub (w : BitVec 1) (d a b : BitVec 8) (s : State) : Host.Outcome State Fault Refusal :=
  fpArith s w d [a.toNat, b.toNat] (fun x l => [x.fa a.toNat l, (x.fb b.toNat l).neg]) numAdd

/-- fmul (R144): a × b. -/
def execFmul (w : BitVec 1) (d a b : BitVec 8) (s : State) : Host.Outcome State Fault Refusal :=
  fpArith s w d [a.toNat, b.toNat] (fun x l => [x.fa a.toNat l, x.fb b.toNat l]) numMul

/-- ffma (R144): a × b + c with one rounding. -/
def execFfma (w : BitVec 1) (d a b : BitVec 8) (s : State) : Host.Outcome State Fault Refusal :=
  let c := cCode s d.toNat
  fpArith s w d [a.toNat, b.toNat, c] (fun x l => [x.fa a.toNat l, x.fb b.toNat l, x.fc 0 c l]) numFma

/-- fmin (R145): the lesser source, unrounded. -/
def execFmin (w : BitVec 1) (d a b : BitVec 8) (s : State) : Host.Outcome State Fault Refusal :=
  laneInstr s w d [a.toNat, b.toNat] 0 fun x l _ => fres (minMax fp32 true (x.fa a.toNat l) (x.fb b.toNat l))

/-- fmax (R145): the greater source, unrounded. -/
def execFmax (w : BitVec 1) (d a b : BitVec 8) (s : State) : Host.Outcome State Fault Refusal :=
  laneInstr s w d [a.toNat, b.toNat] 0 fun x l _ => fres (minMax fp32 false (x.fa a.toNat l) (x.fb b.toNat l))

/-- feq (R146): ordered and equal. -/
def execFeq (w : BitVec 1) (d a b : BitVec 8) (s : State) : Host.Outcome State Fault Refusal :=
  fpCmp s w d a b 0

/-- fne (R146): unequal or unordered. -/
def execFne (w : BitVec 1) (d a b : BitVec 8) (s : State) : Host.Outcome State Fault Refusal :=
  fpCmp s w d a b 1

/-- flt (R146): ordered and less. -/
def execFlt (w : BitVec 1) (d a b : BitVec 8) (s : State) : Host.Outcome State Fault Refusal :=
  fpCmp s w d a b 2

/-- fle (R146): ordered and less or equal. -/
def execFle (w : BitVec 1) (d a b : BitVec 8) (s : State) : Host.Outcome State Fault Refusal :=
  fpCmp s w d a b 3

/-- funo (R146): unordered. -/
def execFuno (w : BitVec 1) (d a b : BitVec 8) (s : State) : Host.Outcome State Fault Refusal :=
  fpCmp s w d a b 4

/-- frcp (R147): 1 / a. -/
def execFrcp (w : BitVec 1) (d a : BitVec 8) (s : State) : Host.Outcome State Fault Refusal :=
  fpFun s w d a 0

/-- frsq (R147): 1 / √a. -/
def execFrsq (w : BitVec 1) (d a : BitVec 8) (s : State) : Host.Outcome State Fault Refusal :=
  fpFun s w d a 1

/-- fsqrt (R147): √a. -/
def execFsqrt (w : BitVec 1) (d a : BitVec 8) (s : State) : Host.Outcome State Fault Refusal :=
  fpFun s w d a 2

/-- fex2 (R147): 2^a. -/
def execFex2 (w : BitVec 1) (d a : BitVec 8) (s : State) : Host.Outcome State Fault Refusal :=
  fpFun s w d a 3

/-- flg2 (R147): log2 a. -/
def execFlg2 (w : BitVec 1) (d a : BitVec 8) (s : State) : Host.Outcome State Fault Refusal :=
  fpFun s w d a 4

/-- fsin (R147): the sine of a. -/
def execFsin (w : BitVec 1) (d a : BitVec 8) (s : State) : Host.Outcome State Fault Refusal :=
  fpFun s w d a 5

/-- fcos (R147): the cosine of a. -/
def execFcos (w : BitVec 1) (d a : BitVec 8) (s : State) : Host.Outcome State Fault Refusal :=
  fpFun s w d a 6

/-- ffrac (R148): a − floor(a). -/
def execFfrac (w : BitVec 1) (d a : BitVec 8) (s : State) : Host.Outcome State Fault Refusal :=
  laneInstr s w d [a.toNat] 1 fun x l r => fres (ffracOp x.ftz x.mode x.m.sat x.scl (r 0) (x.fa a.toNat l))

/-- fround (R148): a rounded to an integral value under the mode. -/
def execFround (w : BitVec 1) (d a : BitVec 8) (s : State) : Host.Outcome State Fault Refusal :=
  laneInstr s w d [a.toNat] 1 fun x l r => fres (froundOp x.mode x.m.sat x.scl (r 0) (x.fa a.toNat l))

/-- fclass (R148): the class of the raw bits. -/
def execFclass (w : BitVec 1) (d a : BitVec 8) (s : State) : Host.Outcome State Fault Refusal :=
  laneInstr s w d [a.toNat] 0 fun x l _ => (BitVec.ofNat 32 (fclassOp (x.src a.toNat l)), 0)

/-- cvt.F.f32 (R149): FP32 to format f. -/
def execCvtFromF32 (w : BitVec 1) (d a : BitVec 8) (f : BitVec 4) (s : State) : Host.Outcome State Fault Refusal :=
  laneInstr s w d [a.toNat] 1 fun x l r => fres (cvtFrom f.toNat x.mode x.m.sat x.scl (r 0) (x.fa a.toNat l))

/-- cvt.f32.F (R149): format f to FP32. An integer source 0 under NEGA gives +0 (DEDUCED, log 98). -/
def execCvtToF32 (w : BitVec 1) (d a : BitVec 8) (f : BitVec 4) (s : State) : Host.Outcome State Fault Refusal :=
  laneInstr s w d [a.toNat] 1 fun x l r =>
    fres (cvtTo x.ftz x.mode x.m.sat x.scl (r 0) (cvtMod f.toNat x.m.absa x.m.nega (cvtSource f.toNat (x.src a.toNat l))))

/-- hadd2 (R150): each half like fadd. -/
def execHadd2 (w : BitVec 1) (d a b : BitVec 8) (s : State) : Host.Outcome State Fault Refusal :=
  packed s w d [a.toNat, b.toNat] fp16 (fun x l i => [x.ha fp16 1 a.toNat l i, x.hb fp16 1 b.toNat l i]) numAdd

/-- hmul2 (R150): each half like fmul. -/
def execHmul2 (w : BitVec 1) (d a b : BitVec 8) (s : State) : Host.Outcome State Fault Refusal :=
  packed s w d [a.toNat, b.toNat] fp16 (fun x l i => [x.ha fp16 1 a.toNat l i, x.hb fp16 1 b.toNat l i]) numMul

/-- hfma2 (R150): each half like ffma. -/
def execHfma2 (w : BitVec 1) (d a b : BitVec 8) (s : State) : Host.Outcome State Fault Refusal :=
  let c := cCode s d.toNat
  packed s w d [a.toNat, b.toNat, c] fp16
    (fun x l i => [x.ha fp16 1 a.toNat l i, x.hb fp16 1 b.toNat l i, x.hc fp16 1 c l i]) numFma

/-- badd2 (R150): each half like fadd. -/
def execBadd2 (w : BitVec 1) (d a b : BitVec 8) (s : State) : Host.Outcome State Fault Refusal :=
  packed s w d [a.toNat, b.toNat] bf16 (fun x l i => [x.ha bf16 2 a.toNat l i, x.hb bf16 2 b.toNat l i]) numAdd

/-- bmul2 (R150): each half like fmul. -/
def execBmul2 (w : BitVec 1) (d a b : BitVec 8) (s : State) : Host.Outcome State Fault Refusal :=
  packed s w d [a.toNat, b.toNat] bf16 (fun x l i => [x.ha bf16 2 a.toNat l i, x.hb bf16 2 b.toNat l i]) numMul

/-- bfma2 (R150): each half like ffma. -/
def execBfma2 (w : BitVec 1) (d a b : BitVec 8) (s : State) : Host.Outcome State Fault Refusal :=
  let c := cCode s d.toNat
  packed s w d [a.toNat, b.toNat, c] bf16
    (fun x l i => [x.ha bf16 2 a.toNat l i, x.hb bf16 2 b.toNat l i, x.hc bf16 2 c l i]) numFma

/-- hdot2 (R151): the sum of two products and an FP32 third source, rounded once to FP32. -/
def execHdot2 (w : BitVec 1) (d a b : BitVec 8) (s : State) : Host.Outcome State Fault Refusal :=
  dot2 s w d a b fp16 1

/-- bdot2 (R151): the sum of two products and an FP32 third source, rounded once to FP32. -/
def execBdot2 (w : BitVec 1) (d a b : BitVec 8) (s : State) : Host.Outcome State Fault Refusal :=
  dot2 s w d a b bf16 2

end Sys2Proof.Machine
end

