-- ==== Sys2Proof/Machine/LaneInt.lean ====
section
/-!
DEFINITION. The integer instructions of the V and U pipes (R129 to R143).
-/
namespace Sys2Proof.Machine

/-- Clamps an exact result to a signed 32-bit number (R132). -/
def clampInt (v : Int) : Word := BitVec.ofInt 32 (max (-2147483648) (min 2147483647 v))

/-- An exact result, clamped under SAT, else its low 32 bits (R132, R136). -/
def satInt (sat : Bool) (v : Int) : Word := if sat then clampInt v else BitVec.ofInt 32 v

/-- The common form of the two-source integer instructions. -/
def intBin (s : State) (w : BitVec 1) (d a b : BitVec 8) (f : Word → Word → Word) :
    Host.Outcome State Fault Refusal :=
  intInstr s w d [a.toNat, b.toNat] fun x l => f (x.src a.toNat l) (x.src b.toNat l)

/-- The two-source instructions that honour SAT. -/
def satBin (s : State) (w : BitVec 1) (d a b : BitVec 8) (f : Int → Int → Int) : Host.Outcome State Fault Refusal :=
  intInstr s w d [a.toNat, b.toNat] fun x l =>
    satInt x.m.sat (f (x.src a.toNat l).toInt (x.src b.toNat l).toInt)

/-- The one-source instructions. -/
def intUn (s : State) (w : BitVec 1) (d a : BitVec 8) (f : Word → Word) : Host.Outcome State Fault Refusal :=
  intInstr s w d [a.toNat] fun x l => f (x.src a.toNat l)

/-- A compare (R140). -/
def intCmp (s : State) (w : BitVec 1) (d a b : BitVec 8) (f : Word → Word → Bool) : Host.Outcome State Fault Refusal :=
  intBin s w d a b fun a b => if f a b then 1 else 0

/-- The shifts (R137): n is b[5:0]. -/
def shlWord (a b : Word) : Word := a <<< (b.toNat % 64)
def shrWord (a b : Word) : Word := a >>> (b.toNat % 64)
def sarWord (a b : Word) : Word := a.sshiftRight (b.toNat % 64)

/-- Offset and mask of a bit field (R137). -/
def fieldOff (b : Word) : Nat := b.toNat % 32
def fieldMask (b : Word) : Word :=
  let wid := min (nbits b.toNat 13 8) (32 - fieldOff b)
  BitVec.ofNat 32 (pow2 wid - 1) <<< fieldOff b
def bfeWord (a b : Word) : Word := (a &&& fieldMask b) >>> fieldOff b
def bfiWord (a b c : Word) : Word := (c &&& ~~~(fieldMask b)) ||| ((a <<< fieldOff b) &&& fieldMask b)

/-- Leading and trailing zeros, set bits, reversal (R142). -/
def clzWord (a : Word) : Word := BitVec.ofNat 32 (if a = 0 then 32 else 31 - Nat.log2 a.toNat)
def ctzWord (a : Word) : Word :=
  BitVec.ofNat 32 (((List.range 32).find? fun i => a.getLsbD i).getD 32)
def popcWord (a : Word) : Word := BitVec.ofNat 32 (popc 32 a.toNat)
def brevWord (a : Word) : Word := (BitVec.ofBoolListLE ((List.range 32).map fun i => a.getLsbD (31 - i))).setWidth 32

/-- iadd (R136): a + b, clamped under SAT. -/
def execIadd (w : BitVec 1) (d a b : BitVec 8) (s : State) : Host.Outcome State Fault Refusal :=
  satBin s w d a b (· + ·)

/-- isub (R136): a − b, clamped under SAT. -/
def execIsub (w : BitVec 1) (d a b : BitVec 8) (s : State) : Host.Outcome State Fault Refusal :=
  satBin s w d a b (· - ·)

/-- imul (R136): the low half of the signed product, or the product clamped under SAT. -/
def execImul (w : BitVec 1) (d a b : BitVec 8) (s : State) : Host.Outcome State Fault Refusal :=
  satBin s w d a b (· * ·)

/-- imulhs (R136): bits 63 to 32 of the signed product. -/
def execImulhs (w : BitVec 1) (d a b : BitVec 8) (s : State) : Host.Outcome State Fault Refusal :=
  intBin s w d a b fun a b => BitVec.ofInt 32 ((a.toInt * b.toInt) / 4294967296)

/-- imulhu (R136): bits 63 to 32 of the unsigned product. -/
def execImulhu (w : BitVec 1) (d a b : BitVec 8) (s : State) : Host.Outcome State Fault Refusal :=
  intBin s w d a b fun a b => BitVec.ofNat 32 ((a.toNat * b.toNat) / 4294967296)

/-- imad (R138): a × b + c, clamped under SAT. -/
def execImad (w : BitVec 1) (d a b : BitVec 8) (s : State) : Host.Outcome State Fault Refusal :=
  let c := cCode s d.toNat
  intInstr s w d [a.toNat, b.toNat, c] fun x l =>
    satInt x.m.sat ((x.src a.toNat l).toInt * (x.src b.toNat l).toInt + (x.src c l).toInt)

/-- imin (R136): the lesser by signed value. -/
def execImin (w : BitVec 1) (d a b : BitVec 8) (s : State) : Host.Outcome State Fault Refusal :=
  intBin s w d a b fun a b => if a.slt b then a else b

/-- imax (R136): the greater by signed value. -/
def execImax (w : BitVec 1) (d a b : BitVec 8) (s : State) : Host.Outcome State Fault Refusal :=
  intBin s w d a b fun a b => if a.slt b then b else a

/-- umin (R136): the lesser by unsigned value. -/
def execUmin (w : BitVec 1) (d a b : BitVec 8) (s : State) : Host.Outcome State Fault Refusal :=
  intBin s w d a b fun a b => if a.ult b then a else b

/-- umax (R136): the greater by unsigned value. -/
def execUmax (w : BitVec 1) (d a b : BitVec 8) (s : State) : Host.Outcome State Fault Refusal :=
  intBin s w d a b fun a b => if a.ult b then b else a

/-- and (R136): bitwise AND. -/
def execAnd (w : BitVec 1) (d a b : BitVec 8) (s : State) : Host.Outcome State Fault Refusal :=
  intBin s w d a b fun a b => a &&& b

/-- or (R136): bitwise OR. -/
def execOr (w : BitVec 1) (d a b : BitVec 8) (s : State) : Host.Outcome State Fault Refusal :=
  intBin s w d a b fun a b => a ||| b

/-- xor (R136): bitwise exclusive OR. -/
def execXor (w : BitVec 1) (d a b : BitVec 8) (s : State) : Host.Outcome State Fault Refusal :=
  intBin s w d a b fun a b => a ^^^ b

/-- andn (R136): a AND NOT b. -/
def execAndn (w : BitVec 1) (d a b : BitVec 8) (s : State) : Host.Outcome State Fault Refusal :=
  intBin s w d a b fun a b => a &&& ~~~b

/-- shl (R137): left shift by b[5:0]. -/
def execShl (w : BitVec 1) (d a b : BitVec 8) (s : State) : Host.Outcome State Fault Refusal :=
  intBin s w d a b shlWord

/-- shr (R137): logical right shift by b[5:0]. -/
def execShr (w : BitVec 1) (d a b : BitVec 8) (s : State) : Host.Outcome State Fault Refusal :=
  intBin s w d a b shrWord

/-- sar (R137): arithmetic right shift by b[5:0]. -/
def execSar (w : BitVec 1) (d a b : BitVec 8) (s : State) : Host.Outcome State Fault Refusal :=
  intBin s w d a b sarWord

/-- bfe (R137): the field of a that b names. -/
def execBfe (w : BitVec 1) (d a b : BitVec 8) (s : State) : Host.Outcome State Fault Refusal :=
  intBin s w d a b bfeWord

/-- bfi (R137): c with the field that b names replaced by the low bits of a. -/
def execBfi (w : BitVec 1) (d a b : BitVec 8) (s : State) : Host.Outcome State Fault Refusal :=
  let c := cCode s d.toNat
  intInstr s w d [a.toNat, b.toNat, c] fun x l => bfiWord (x.src a.toNat l) (x.src b.toNat l) (x.src c l)

/-- sel (R138): a where c is not 0, else b. -/
def execSel (w : BitVec 1) (d a b : BitVec 8) (s : State) : Host.Outcome State Fault Refusal :=
  let c := cCode s d.toNat
  intInstr s w d [a.toNat, b.toNat, c] fun x l => if x.src c l ≠ 0 then x.src a.toNat l else x.src b.toNat l

/-- iadd64 (R139): the sum of two register pairs modulo 2^64. -/
def execIadd64 (w : BitVec 1) (d a b : BitVec 8) (s : State) : Host.Outcome State Fault Refusal :=
  let nb := if isV b.toNat || isS b.toNat then 2 else 1
  issue s 1 [(a.toNat, 2), (b.toNat, nb)] (destSpan w d 2) fun x =>
    .done (x.s.setGrp (x.write64 x.g (w == 1) d.toNat fun l => (x.src64 a.toNat l + x.src64 b.toNat l) % pow2 64))

/-- ieq (R140): equality. -/
def execIeq (w : BitVec 1) (d a b : BitVec 8) (s : State) : Host.Outcome State Fault Refusal :=
  intCmp s w d a b (· == ·)

/-- ine (R140): inequality. -/
def execIne (w : BitVec 1) (d a b : BitVec 8) (s : State) : Host.Outcome State Fault Refusal :=
  intCmp s w d a b (· != ·)

/-- ilt (R140): signed less than. -/
def execIlt (w : BitVec 1) (d a b : BitVec 8) (s : State) : Host.Outcome State Fault Refusal :=
  intCmp s w d a b BitVec.slt

/-- ile (R140): signed less than or equal. -/
def execIle (w : BitVec 1) (d a b : BitVec 8) (s : State) : Host.Outcome State Fault Refusal :=
  intCmp s w d a b BitVec.sle

/-- ult (R140): unsigned less than. -/
def execUlt (w : BitVec 1) (d a b : BitVec 8) (s : State) : Host.Outcome State Fault Refusal :=
  intCmp s w d a b BitVec.ult

/-- ule (R140): unsigned less than or equal. -/
def execUle (w : BitVec 1) (d a b : BitVec 8) (s : State) : Host.Outcome State Fault Refusal :=
  intCmp s w d a b BitVec.ule

/-- mov (R142): a. -/
def execMov (w : BitVec 1) (d a : BitVec 8) (s : State) : Host.Outcome State Fault Refusal :=
  intUn s w d a id

/-- not (R142): NOT a. -/
def execNot (w : BitVec 1) (d a : BitVec 8) (s : State) : Host.Outcome State Fault Refusal :=
  intUn s w d a (~~~ ·)

/-- clz (R142): leading zeros. -/
def execClz (w : BitVec 1) (d a : BitVec 8) (s : State) : Host.Outcome State Fault Refusal :=
  intUn s w d a clzWord

/-- ctz (R142): trailing zeros. -/
def execCtz (w : BitVec 1) (d a : BitVec 8) (s : State) : Host.Outcome State Fault Refusal :=
  intUn s w d a ctzWord

/-- popc (R142): set bits. -/
def execPopc (w : BitVec 1) (d a : BitVec 8) (s : State) : Host.Outcome State Fault Refusal :=
  intUn s w d a popcWord

/-- brev (R142): bits reversed. -/
def execBrev (w : BitVec 1) (d a : BitVec 8) (s : State) : Host.Outcome State Fault Refusal :=
  intUn s w d a brevWord

/-- sext8 (R142): the low byte sign-extended. -/
def execSext8 (w : BitVec 1) (d a : BitVec 8) (s : State) : Host.Outcome State Fault Refusal :=
  intUn s w d a fun a => (a.setWidth 8).signExtend 32

/-- sext16 (R142): the low half sign-extended. -/
def execSext16 (w : BitVec 1) (d a : BitVec 8) (s : State) : Host.Outcome State Fault Refusal :=
  intUn s w d a fun a => (a.setWidth 16).signExtend 32

/-- zext8 (R142): the low byte zero-extended. -/
def execZext8 (w : BitVec 1) (d a : BitVec 8) (s : State) : Host.Outcome State Fault Refusal :=
  intUn s w d a fun a => a &&& 0xFF

/-- zext16 (R142): the low half zero-extended. -/
def execZext16 (w : BitVec 1) (d a : BitVec 8) (s : State) : Host.Outcome State Fault Refusal :=
  intUn s w d a fun a => a &&& 0xFFFF

/-- pkp (R143): the predicates p0 to p7 of each thread, or q0 to q7, as bits 0 to 7. With q0 to q7 and a v or p destination
it runs in every executing thread (DEDUCED, log 99). -/
def execPkp (w : BitVec 1) (d a : BitVec 8) (s : State) : Host.Outcome State Fault Refusal :=
  intInstr s w d ((List.range 8).map (a.toNat + ·)) fun x l =>
    BitVec.ofNat 32 ((List.range 8).foldl (fun m i => m + (x.src (a.toNat + i) l).toNat <<< i) 0)

/-- upkp (R143): bits 0 to 7 of a to the predicates; q7 is not written. -/
def execUpkp (w : BitVec 1) (d a : BitVec 8) (s : State) : Host.Outcome State Fault Refusal :=
  issue s 1 [(a.toNat, 1)] (destSpan w d 8) fun x =>
    let lo := lowLane x.ex
    let bits (l : Nat) : Word := x.src a.toNat l &&& 0xFF
    let g := if w = 1 then x.g
      else if isP d.toNat then
        (List.range 8).foldl (fun g i => g.setP i x.ex fun l => (bits l).getLsbD i) x.g
      else (List.range 7).foldl (fun g i => g.setQ i ((bits lo).getLsbD i)) x.g
    .done (x.s.setGrp
      (if isP d.toNat then x.latch g fun l => if x.ex.getLsbD l then asPred (bits l) else 0
       else x.latch g fun _ => asPred (bits lo)))

end Sys2Proof.Machine
end

