-- ==== Sys2Proof/Machine/Choose.lean ====
section
/-!
DEFINITION. What the next step is about: what falls due at once, what has arrived, which engine or timer acts, and which
agent of a core issues (R21, R383, R384). Where the spec fixes no order among the things that can happen at one moment, the
free value `Config.pick` does.
-/
namespace Sys2Proof.Machine

/-! ## The rows without a word -/

/-- The row of the opcode table that a message stands for; an agent's turn stands for none. -/
def Msg.instr : Msg → Option Instr
  | .agent _ => none
  | .ckptTier _ _ => some .ckptTier
  | .gobjCreate _ _ _ _ _ => some .gobjCreate
  | .roceRequestPacket _ _ _ _ _ _ => some .roceRequestPacket
  | .roceSend _ _ _ => some .roceRequestPacket
  | .peerRequest _ => some .peerRequest
  | .backgroundForcedIssue _ _ => some .backgroundForcedIssue
  | .pathDemote _ => some .pathDemote
  | .registerWriteComplete _ _ => some .registerWriteComplete
  | .memoryAccessPerform _ => some .memoryAccessPerform
  | .writeVisibleAtDie _ => some .writeVisibleAtDie
  | .hbmScrub _ => some .hbmScrub
  | .copyRun _ _ => some .copyRun
  | .cpyctlResume _ _ _ => some .cpyctlResume
  | .cpyctlAbort _ _ _ => some .cpyctlAbort
  | .codeSegmentLoaded _ _ => some .codeSegmentLoaded
  | .collectiveComplete _ _ _ => some .collectiveComplete
  | .collRsetEffect _ _ => some .collRsetEffect
  | .addOnStoreUpdate _ => some .addOnStoreUpdate
  | .matrixCommandEffect _ => some .matrixCommandEffect
  | .mmaKStep _ => some .mmaKStep
  | .matrixBatchComplete _ _ => some .matrixBatchComplete
  | .hgEncComplete _ _ => some .hgEncComplete
  | .hgGradAdd _ _ => some .hgGradAdd
  | .rayComplete _ _ => some .rayComplete
  | .treeOperationComplete _ _ => some .treeOperationComplete
  | .nodeTimerExpiry _ _ => some .nodeTimerExpiry
  | .budgetExpiry _ => some .budgetExpiry
  | .levelEnd _ => some .levelEnd
  | .unitPreload _ => some .unitPreload
  | .unitStart _ => some .unitStart
  | .yieldTimeout _ => some .yieldTimeout
  | .sleepEnd _ => some .sleepEnd
  | .xpoolTakeEffect _ => some .xpoolTakeEffect
  | .preemptRequest _ _ => some .preemptRequest
  | .restoreRequest _ _ => some .restoreRequest
  | .preempt _ => some .preempt
  | .unitRestore _ _ => some .unitRestore
  | .cancel _ => some .cancel
  | .pageWalk _ _ => some .pageWalk
  | .logApply _ => some .logApply
  | .copierLineCopy _ _ => some .copierLineCopy
  | .migrationRecordFree _ _ => some .migrationRecordFree
  | .gustListPublish _ => some .gustListPublish
  | .contextSwitch _ _ => some .contextSwitch
  | .checkpointStart _ => some .checkpointStart
  | .checkpointComplete _ _ => some .checkpointComplete
  | .powerOn _ => some .powerOn
  | .packageReset _ => some .packageReset
  | .clockLower => some .clockLower
  | .clockRaise => some .clockRaise
  | .getVersion _ => some .getVersion
  | .getCapabilities _ => some .getCapabilities
  | .negotiateAlgorithms _ _ _ _ _ => some .negotiateAlgorithms
  | .getDigests _ => some .getDigests
  | .getCertificate _ _ => some .getCertificate
  | .challenge _ _ => some .challenge
  | .getMeasurements _ _ => some .getMeasurements
  | .keyExchange _ _ => some .keyExchange
  | .finish _ _ _ => some .finish
  | .keyUpdate _ _ => some .keyUpdate
  | .heartbeat _ => some .heartbeat
  | .endSession _ _ => some .endSession
  | .featureAccept _ _ _ => some .featureAccept
  | .ctxCreate _ _ _ _ _ _ _ _ _ => some .ctxCreate
  | .ctxDestroy _ _ => some .ctxDestroy
  | .launch _ _ _ _ _ => some .launch
  | .gobjDestroy _ _ => some .gobjDestroy
  | .gobjRebind _ _ _ _ _ => some .gobjRebind
  | .keyInstall _ _ => some .keyInstall
  | .keyErase _ _ => some .keyErase
  | .mrReg _ _ _ _ _ _ _ => some .mrReg
  | .mrDereg _ _ => some .mrDereg
  | .exportSet _ _ _ _ _ _ _ _ => some .exportSet
  | .restore _ _ _ _ => some .restore
  | .ctxContinue _ _ => some .ctxContinue
  | .outputConfigure _ _ _ _ _ => some .outputConfigure
  | .ptpMessage _ _ => some .ptpMessage
  | .flitIdle _ _ => some .flitIdle
  | .flitData _ _ _ => some .flitData
  | .flitAck _ _ => some .flitAck
  | .flitSync _ _ _ _ _ _ => some .flitSync
  | .flitMarker _ _ => some .flitMarker
  | .linkDown _ => some .linkDown
  | .linkReopen _ => some .linkReopen
  | .syncFlitSend => some .syncFlitSend
  | .lockLoss => some .lockLoss
  | .memberLost _ => some .memberLost
  | .frameDeadline => some .frameDeadline
  | .scrubbing _ => some .scrubbing
  | .flitOtherType _ _ => some .flitOtherType

/-! ## What falls due at once -/

/-- A phase whose budget has run out, or a level whose end is due. -/
def State.dueLevels (s : State) : List Msg :=
  s.levels.flatMap fun p =>
    if s.lvFrozen p.1 p.2 then []
    else
      (if s.levelDue p.1 p.2 then [Msg.levelEnd (s.lvAt p.1 p.2)] else []) ++
        (if s.budgetDue p.1 p.2 then [Msg.budgetExpiry (s.lvAt p.1 p.2)] else [])

/-- A node's dispatcher can act (R375, R387). -/
def State.nodeActs (s : State) (dev n : Nat) (x : NodeSt) : Bool :=
  let e := s.nodeEnt dev n
  (e.v && s.lvRunning dev e.graph && !s.lvFlag dev e.graph 0 && !s.lvBad dev e.graph && s.nodeDue dev n &&
    (match x.waiters with
     | w :: _ => !s.areaFrozen (s.unitAt (s.grpOf w.1).unit) e.c
     | [] => (List.range e.most).any fun i => decide (i ∉ x.running.map Prod.fst) &&
        decide (x.running.length < e.most))) ||
  (decide (x.recs = [] ∧ x.waiters ≠ []) && (s.lvFlag dev x.graph 0 || s.lvFlag dev x.graph 1))

def State.dueNodes (s : State) : List Msg :=
  s.devs.flatMap fun p => (p.2.nodes.filter fun q => s.nodeActs p.1 q.1 q.2).map fun q => .nodeTimerExpiry p.1 q.1

/-- A path has reached the spin count of R398. -/
def Group.demoteDue (g : Group) : Bool := g.paths.any fun p => decide (64 ≤ p.spin) && !p.demoted

def State.dueDemotions (s : State) : List Msg :=
  (s.groups.filter fun p => p.2.live && p.2.demoteDue).map fun p => .pathDemote p.1

/-! ## Candidates of the pipes (R383) -/

/-- The pipe of an agent's next instruction: 0 V, of which State.pipeOf says which of the two, 2 U, 3 M, 4 X, 5 for one that
takes none. -/
def Group.pipe (g : Group) : Nat :=
  match g.clause.bind Clause.nextRaw with
  | none => 5
  | some r =>
    match r.pipe with
    | 1 => 0
    | 2 => 2
    | 4 => 3
    | 8 => 4
    | _ => 5

/-- The pipe that an agent's next instruction issues to: V1 for a vector instruction while V0 has issued another agent's in the
cycle in hand, else V0 (R21). -/
def State.pipeOf (s : State) (a : Nat) : Nat :=
  let p := (s.grpOf a).pipe
  if p = 0 ∧ (s.coreAt (coreOf a)).v0.any (fun b => decide (b ≠ a)) = true then 1 else p

/-- An agent's next instruction is a candidate of a pipe. A vector instruction is one of V0, and of V1 unless V0 has just issued
that agent's. -/
def State.onPipe (s : State) (a pipe : Nat) : Bool :=
  decide ((s.grpOf a).pipe = (if pipe = 1 then 0 else pipe)) && (decide (pipe ≠ 1) || decide (s.pipeOf a = 1))

/-- The context of an agent is halted: nothing starts at a boundary (R461). -/
def State.haltedAt (s : State) (a : Nat) : Bool := (s.ctxOf a).halted

/-- An agent that may act: it neither sleeps nor stopped nor found its instruction waiting, and at a boundary no halt,
CANCEL or PREEMPT goes before it (R365, R408, R461). -/
def State.awake (s : State) (a : Nat) (g : Group) : Bool :=
  g.live && g.wake.isNone && !g.stopped && decide (g.paths ≠ []) && !s.waits.contains a &&
    !(g.atBoundary && (s.haltedAt a || s.cancelPoint a || s.preemptPoint a || s.tableWait a))

/-- An agent whose turn is the fetch of its next clause, or the end that it comes to there. -/
def State.fetches (s : State) (a : Nat) (g : Group) : Bool :=
  s.awake a g &&
    match g.clause with
    | some c => c.exec.isNone && (g.ecc.isSome || (s.unitAt g.unit).ending)
    | none => g.ecc.isSome || (s.unitAt g.unit).ending || g.resolveAll.finished || g.next.isSome

/-- An agent that offers its next instruction (R383). -/
def State.candidate (s : State) (a : Nat) (g : Group) : Bool :=
  s.awake a g && !s.fetches a g && g.clause.isSome && s.offersWith a

/-- One candidate goes before another on a pipe: foreground before background, unless the pipe's next issue is forced to
the background; then the older; then the steer thread; then the lower slot. -/
def State.goesBefore (s : State) (forced : Bool) (a b : Nat) : Bool :=
  let key (x : Nat) : Nat := if isSteer x then 0 else 1 + slotOf x
  let ba := s.background a
  let bb := s.background b
  if ba ≠ bb then decide (ba = forced)
  else decide ((s.grpOf a).age < (s.grpOf b).age ∨ ((s.grpOf a).age = (s.grpOf b).age ∧ key a < key b))

/-- The pipe's next issue is forced to the background (R384). -/
def Core.forced (c : Core) (pipe : Nat) : Bool := decide (FMap.get 0 c.passed pipe = 8)

/-- The candidates that nobody on their pipe goes before. With V0's instruction of the cycle in hand issued, the vector pipes
have two: V1's, which ends the cycle, and V0's of the next (R21). -/
def State.winners (s : State) (cs : List Nat) : List Nat :=
  cs.filter fun a =>
    let p := s.pipeOf a
    decide (p = 5) || cs.all fun b =>
      decide (b = a ∨ coreOf b ≠ coreOf a) || !s.onPipe b p ||
        !s.goesBefore ((s.coreAt (coreOf a)).forced p) b a

/-- The agents that may take the next turn. Fetches go first, so that the selection of R383 sees every agent's next
instruction. -/
def State.turns (s : State) : List Nat :=
  let fs := (s.groups.filter fun p => s.fetches p.1 p.2).map Prod.fst
  if fs = [] then s.winners ((s.groups.filter fun p => s.candidate p.1 p.2).map Prod.fst) else fs

/-- A background candidate is offered on a pipe of a core. -/
def State.bgOffered (s : State) (core pipe : Nat) : Bool :=
  s.groups.any fun p => decide (coreOf p.1 = core) && s.background p.1 && s.onPipe p.1 pipe && s.candidate p.1 p.2

/-- Pipes that have passed over a background candidate seven times, with one offered (R384). -/
def State.dueForced (s : State) : List Msg :=
  s.cores.flatMap fun c => (c.2.passed.filter fun p =>
    decide (p.2 = 7) && s.bgOffered c.1 p.1).map fun p => .backgroundForcedIssue c.1 p.1

/-- Groups that stand where CANCEL is taken: it falls due there, and a request that they wait for is not served first (R365). -/
def State.dueCancels (s : State) : List Msg :=
  (s.groups.filter fun p => p.2.cancel && s.cancelPoint p.1 && !s.haltedAt p.1).map fun p => .cancel p.1

/-- Everything that falls due at once. -/
def State.due (s : State) : List Msg :=
  s.dueLevels ++ s.dueCancels ++ s.dueNodes ++ s.dueDemotions ++ s.dueForced ++
    (if s.timer.lost then [.lockLoss] else []) ++ s.lostMembers.map Msg.memberLost

/-! ## What engines, homes and timers can do now -/

/-- The head of a core's arrivals: a switch to its context, its preload, or its start (R370, R371, R424); none while a
checkpoint holds the device (R469) or the context is halted (R461), and none before a new XPOOL has taken effect on the core
(R430). -/
def State.arrivalEvents (s : State) (core : Nat) (c : Core) : List Msg :=
  match c.head with
  | none => []
  | some uid =>
    let u := s.unitAt uid
    let missing (i : Nat) : Bool :=
      let st := c.seg (u.firstSeg + i)
      decide (st.st ≠ 1 ∧ ¬(st.st = 2 ∧ st.va = u.codeva + 4096 * i))
    if s.ckptHolds u.dev || (s.ctxAt u.dev u.asid).halted || s.poolDue core then []
    else if c.asid ≠ u.asid then (if s.switchOk core u.asid then [.contextSwitch core u.asid] else [])
    else if u.loaded then (if s.startDue core || !s.preloaded uid then [.unitStart core] else [])
    else if !s.preloadOk u || s.preloaded uid || (List.range u.nsegs).any missing then [.unitPreload core]
    else []

/-- What the engines of one core can do. -/
def State.coreEvents (s : State) (core : Nat) (c : Core) : List Msg :=
  let runs := c.copies.filter fun k => decide (k.status = 1)
  let stuck (n : Nat) : Bool := c.copies.any fun k => decide (k.cseg = some n ∧ k.status = 2)
  ((runs.filter fun k => k.cseg.isNone).map fun k => .copyRun core k.slot) ++
  (((runs.filterMap fun k => k.cseg).eraseDups.filter fun n => decide ((c.seg n).st = 1) && !stuck n).map
    fun n => .codeSegmentLoaded core n) ++
  (match c.mq with
   | [] => []
   | e :: _ =>
     match e.cmd with
     | .mma _ _ _ _ _ _ _ _ _ => [.mmaKStep core]
     | _ => [.matrixCommandEffect core]) ++
  ((c.batches.filter fun b => s.batchDone c b).map fun b => .matrixBatchComplete core (slotOf b.agent)) ++
  ((c.hg.zipIdx.filter fun p => p.1.canGo s).map fun p => if p.1.grad then .hgGradAdd core p.2 else .hgEncComplete core p.2) ++
  ((c.rays.zipIdx.filter fun p => decide (p.1.left = [] ∨ p.1.ready s ≠ [])).map fun p => .rayComplete core p.2) ++
  ((c.trees.zipIdx.filter fun p => !treeBlocked c p.1 && (p.1.result.isSome || !p.1.stalls s)).map fun p =>
    .treeOperationComplete core p.2) ++
  s.arrivalEvents core c

/-- What can happen to one group. -/
def State.groupEvents (s : State) (a : Nat) (g : Group) : List Msg :=
  let cancels := s.cancelPoint a
  let stops := s.preemptPoint a
  let halted := s.haltedAt a
  ((g.outs.zipIdx.filter fun p => s.canLand a p.1).map fun p => .registerWriteComplete a p.2) ++
  (if g.wake.isNone then []
   else if g.yieldFor = [] then (if g.wakeDue s.cycle && !cancels && !stops then [.sleepEnd a] else [])
   else if g.wakeDue s.cycle then [.yieldTimeout a] else []) ++
  (if halted || cancels then []
   else if stops || s.saveReady a then [.preempt a]
   else [])

/-- Saved units of a context that wait to come back (R411), and the switch that one of them needs (R424). -/
def State.restoreEvents (s : State) (dev : Nat) (x : Ctx) : List Msg :=
  if x.halted || s.ckptHolds dev then []
  else (x.saved.filter fun v => v.restoring && v.complete).flatMap fun v =>
    let u := s.unitAt v.uid
    if s.poolDue u.core then []
    else if s.restoreReady v then [.unitRestore dev v.level]
    else if s.switchOk u.core u.asid then [.contextSwitch u.core u.asid] else []

/-- What a device's homes, copiers and dies can do. -/
def State.devEvents (s : State) (dev : Nat) (d : Device) : List Msg :=
  ((d.gusts.filter fun p => decide (p.2.stage ≠ 0) && !s.gustFrozen dev p.2).map fun p => .gustListPublish (2 * diesPer s.mode * dev + p.1)) ++
  (d.migs.filter fun m => m.copierDue).map (fun m => .copierLineCopy dev m.idx) ++
  (d.migs.filter fun m => s.migFree dev m).map (fun m => .migrationRecordFree dev m.idx) ++
  ((diesOfDev s.mode dev).filter fun k =>
    (s.dieAt k).logbase.getLsbD 63 && decide ((s.dieAt k).gen ≠ d.invSeq)).map (fun k => .logApply k) ++
  (if s.colls.any fun c => decide (c.form = 7) && c.result.isNone then
    (d.gobjs.filter fun p => s.rsetReady dev p.1).map fun p => .collRsetEffect dev p.1 else []) ++
  (match d.ckpt, s.ckptAgent dev with
   | none, some a =>
     let u := s.unitOf a
     if s.ckptQuiet dev (s.grpOf a).unit && !(s.ctxAt dev u.asid).busy then [.checkpointStart dev] else []
   | _, _ => [])

/-- Cores where a new XPOOL value can take effect (R430). -/
def State.poolEvents (s : State) : List Msg :=
  if (s.devs.all fun p => decide (p.2.xpool = 0)) && s.cores.all fun p => decide (p.2.withheld = 0) then []
  else ((List.range 208).filter fun k => s.poolDue k).map fun k => .xpoolTakeEffect k

/-- Memory's own events: waiting accesses, visibility, scrubbing (R234, R252, R463, R466). -/
def State.memEvents (s : State) : List Msg :=
  ((s.stalled.zipIdx.filter fun p => decide (s.able p.1 (s.stalled.take p.2) ≠ [])).map fun p => .memoryAccessPerform p.2) ++
  (if s.vis = [] then []
   else
     (s.vis.flatMap fun w => w.unseen).eraseDups.map fun view => .writeVisibleAtDie view) ++
  ((s.latent.filter fun p => isHbm p.1).map fun p => .hbmScrub p.1) ++
  ((s.levels.filter fun p =>
    (s.latent.any fun q => decide (s.lvAt p.1 p.2 ≤ q.1 ∧ q.1 < s.lvAt p.1 p.2 + 64)) ||
      (s.poisoned (s.lvAt p.1 p.2) 64 && !s.lvBroken p.1 p.2)).map fun p => .scrubbing (s.lvAt p.1 p.2)) ++
  (((s.cores.flatMap fun p => p.2.addons).zipIdx.filter fun p =>
    p.1.tile.isSome || !(p.1.elems.any fun e => s.frozen e.1)).map fun p => .addOnStoreUpdate p.2) ++
  ((s.colls.zipIdx.filter fun p => s.collReady p.1).map fun p => .collectiveComplete p.1.dev p.1.obj p.2)

/-- Everything that some unit other than a pipe can do now. -/
def State.events (s : State) : List Msg :=
  (s.cores.flatMap fun p => s.coreEvents p.1 p.2) ++ (s.groups.flatMap fun p => s.groupEvents p.1 p.2) ++
  (s.devs.flatMap fun p => s.devEvents p.1 p.2) ++ (s.ctxs.flatMap fun p => s.restoreEvents (p.1 / 256) p.2) ++
  s.poolEvents ++ s.memEvents ++ s.pkg.links.flatMap fun p =>
    if p.2.stuck then [.linkDown p.1]
    else ((p.2.got.find? fun r => !s.portStalls r.dev r.asid r.va r.len r.data.isSome).map Msg.peerRequest).toList

/-! ## What has arrived -/

/-- What comes from outside and meets a frozen page, which holds it up (R295). -/
def State.heldUp (s : State) (m : Msg) : Bool :=
  match m with
  | .roceRequestPacket dev _ rkey va len data =>
    match (s.devAt dev).regionOf rkey va len data.isSome with
    | some r => s.portStalls dev r.asid va len data.isSome
    | none => false
  | .launch dev asid _ record parent =>
    s.launchFrozen dev asid record (if parent = 0xFFFFFFFF then (s.ctxAt dev asid).job else parent)
  | .gustListPublish stack =>
    let per := 2 * diesPer s.mode
    s.gustFrozen (stack / per) (FMap.get {} (s.devAt (stack / per)).gusts (stack % per))
  | _ => false

/-- The device whose owner session a command message belongs to (R438, R441). -/
def Msg.commandOf : Msg → Option Nat
  | .featureAccept dev _ _ => some dev
  | .ctxCreate dev _ _ _ _ _ _ _ _ => some dev
  | .ctxDestroy dev _ => some dev
  | .launch dev _ _ _ _ => some dev
  | .gobjCreate dev _ _ _ _ => some dev
  | .gobjDestroy dev _ => some dev
  | .gobjRebind dev _ _ _ _ => some dev
  | .keyInstall dev _ => some dev
  | .keyErase dev _ => some dev
  | .mrReg dev _ _ _ _ _ _ => some dev
  | .mrDereg dev _ => some dev
  | .exportSet dev _ _ _ _ _ _ _ => some dev
  | .ckptTier dev _ => some dev
  | .restore dev _ _ _ => some dev
  | .ctxContinue dev _ => some dev
  | .outputConfigure dev _ _ _ _ => some dev
  | _ => none

/-- What keeps its order with a message: the packets of one queue pair, the commands of one session. -/
def Msg.stream (m : Msg) : Option (Nat × Nat) :=
  match m with
  | .roceRequestPacket dev qp _ _ _ _ => some (dev, qp + 1)
  | .roceSend dev qp _ => some (dev, qp + 1)
  | _ => m.commandOf.map fun dev => (dev, 0)

/-- The first arrival that can be acted on, and the arrivals without it. -/
def State.firstReady (s : State) : List (Nat × Nat) → List Arrived → Option (Arrived × List Arrived)
  | _, [] => none
  | held, x :: t =>
    let waits := s.heldUp x.msg || (match x.msg.stream with
      | some q => held.contains q
      | none => false)
    if waits then
      (s.firstReady (match x.msg.stream with
        | some q => q :: held
        | none => held) t).map fun r => (r.1, x :: r.2)
    else some (x, t)

/-- A datagram that authenticates and repeats no sequence number already accepted in its session (R438). -/
def State.admits (s : State) (x : Arrived) : Bool :=
  match x.msg.commandOf with
  | none => true
  | some dev => x.auth && !(s.devAt dev).owner.seqs.contains x.seq

/-- The session remembers the sequence number of a datagram that it admits. -/
def State.noteSeq (s : State) (x : Arrived) : State :=
  match x.msg.commandOf with
  | none => s
  | some dev =>
    let d := s.devAt dev
    if s.admits x && d.owner.sess then
      s.setDev dev { d with owner := { d.owner with seqs := x.seq :: d.owner.seqs } }
    else s

/-- A request that a control register write has started: it goes before everything else (R312, R458). -/
def Msg.urgent : Msg → Bool
  | .cpyctlResume _ _ _ => true
  | .cpyctlAbort _ _ _ => true
  | .preemptRequest _ _ => true
  | .restoreRequest _ _ => true
  | _ => false

/-! ## The choice -/

/-- The choice by the free value: none of nothing, the one of one. -/
def pickOne {α : Type} (n : Nat) : List α → Option α
  | [] => none
  | [x] => some x
  | l => l[Config.pick n % l.length]?

/-- The agents whose next instruction has been ready for long, the oldest of them: the bound of R360 (the number is the
model's, log 88). -/
def State.overdue (s : State) (l : List Nat) : List Nat :=
  let late := l.filter fun a => decide ((s.grpOf a).age + 65536 ≤ s.cycle)
  late.filter fun a => late.all fun b => decide ((s.grpOf a).age ≤ (s.grpOf b).age)

/-- Each core in turn brings its waiting unit forward: the preload, its loads and the start of the unit are bounded too (R360;
the number is the model's, log 88). -/
def State.launchTurn (s : State) : List Msg :=
  let core := s.count % 65536
  let c := s.coreAt core
  if 208 ≤ core ∨ c.arrivals = [] then []
  else
    match s.arrivalEvents core c with
    | [] => (s.coreEvents core c).filter fun m =>
        match m with
        | .codeSegmentLoaded _ _ => true
        | _ => false
    | l => l

/-- What can happen next, each with the arrivals that remain; a core's turn to start units, and then an overdue agent, goes
before everything else. -/
def State.choices (s : State) : List (Arrived × List Arrived) :=
  let turns := s.turns
  let turn (a : Nat) : Arrived × List Arrived := ({ msg := .agent a }, s.inbox)
  let does (m : Msg) : Arrived × List Arrived := ({ msg := m }, s.inbox)
  match s.launchTurn, s.overdue turns with
  | [], [] => s.events.map does ++ (s.firstReady [] s.inbox).toList ++ turns.map turn
  | [], l => l.map turn
  | l, _ => l.map does

/-- An agent that has issued a mod prefix or an mloop issues what follows it in the same cycle: the two are one instruction
(R60, R185, R383). -/
def State.midPair (s : State) : Option Nat :=
  (s.groups.find? fun p =>
    (match p.2.clause with
     | some c => c.modp.isSome || c.loop.isSome
     | none => false) && s.awake p.1 p.2 && s.offersWith p.1).map Prod.fst

/-- The next step's subject, with the arrivals that remain; none where nothing can happen but the passing of time. Which of
several things due at one moment comes first is open (R6, R490). -/
def State.chosen (s : State) : Option (Arrived × List Arrived) :=
  match s.midPair with
  | some a => some ({ msg := .agent a }, s.inbox)
  | none =>
    let next := (pickOne s.count s.due).elim (pickOne s.count s.choices) fun d => some ({ msg := d }, s.inbox)
    match s.inbox with
    | x :: t => if x.msg.urgent then some (x, t) else next
    | [] => next

/-- Which of the up to 256 elements of a memory instruction are performed later than its issue: free (R253). -/
def State.drawLazy (s : State) : Nat :=
  (List.range 8).foldl (fun n k => n + (Config.word s.count (8000 + k)).toNat <<< (32 * k)) 0

/-- The state as the step begins on its subject. -/
def State.begin (s : State) (x : Arrived) (rest : List Arrived) : State :=
  let cur := match x.msg with
    | .agent a => a
    | _ => s.cur
  { s.noteSeq x with cur := cur, msg := x.msg, inbox := rest, lazy := s.drawLazy }

/-- What a step does. -/
inductive Job where
  /-- time passes -/
  | idle
  /-- an instruction, or a row without a word -/
  | run (i : Instr)
  /-- the clause in progress holds no instruction -/
  | stuck
deriving DecidableEq, Repr

/-- The instruction that an agent's turn executes: the next of its clause, or the fetch. -/
def State.turnOf (s : State) (a : Nat) : Job :=
  let g := s.grpOf a
  if s.fetches a g then .run .clauseFetch
  else
    match g.clause with
    | none => .idle
    | some c =>
      match decode (c.words.drop c.wi) with
      | some (i, _) => .run i
      | none => .stuck

/-- The work of a step's subject. -/
def State.jobOf (s : State) (m : Msg) : Job :=
  match m with
  | .agent a => s.turnOf a
  | _ =>
    match m.instr with
    | some i => .run i
    | none => .idle

end Sys2Proof.Machine
end

