-- ==== Sys2Proof/Machine/Settle.lean ====
section
/-!
DEFINITION. What follows from a step at the same instant: parked paths whose wait is over (R269, R270, R290), GROW (R406),
pending copy faults of ended units (R314), yields (R388), error records (R465), halts, saves, checkpoints and contexts that
come to their end; then the ages of groups that became eligible (R383), the counts of R384, and time.
-/
namespace Sys2Proof.Machine

/-! ## Waits that are over -/

/-- One waiting path: over or not, and what its end does. -/
def State.endWait (s : State) (a : Nat) (w : Wait) : Option State :=
  let core := coreOf a
  match w with
  | .counter cls n => if FMap.get 0 (s.grpOf a).ctr cls ≤ n then some s else none
  | .drain toks =>
    let live := s.liveToks core
    if toks.any fun t => live.contains t then none else some ((s.releaseAt core 5).fenceAcqAt core 5)
  | .ptFence target toks => if s.stillOlder target toks then none else some (s.fenceAcqAt core 4)
  | _ => none

/-- Wakes the paths of one group whose wait is over. -/
def State.endWaits (s : State) (a : Nat) : State :=
  (s.grpOf a).paths.foldl (fun s p =>
    match p.wait with
    | none => s
    | some w =>
      match s.endWait a w with
      | none => s
      | some t => t.setGrpOf a ((t.grpOf a).wakePath p.slices)) s

/-- A path of the group waits for something that no request at a home or in a queue stands for. -/
def Group.waitsOn (g : Group) : Bool :=
  g.live && g.paths.any fun p =>
    match p.wait with
    | some (.counter _ _) => true
    | some (.drain _) => true
    | some (.ptFence _ _) => true
    | _ => false

def State.settleWaits (s : State) : State :=
  ((s.groups.filter fun p => p.2.waitsOn).map Prod.fst).foldl (fun s a => s.endWaits a) s

/-! ## Other consequences -/

/-- GROW where a core's groups all wait for the pool (R406). -/
def State.settleGrow (s : State) : State :=
  ((s.cores.filter fun p => decide (p.2.xq ≠ [])).map Prod.fst).foldl (fun s k => s.growCheck k) s

/-- A unit has ended or terminates. -/
def State.unitOver (s : State) (uid : Nat) : Bool := (FMap.find s.units uid).isNone || (s.unitAt uid).ending

/-- The pending faults of a unit that is over are aborted (R314). -/
def State.settleFaults (s : State) : State :=
  s.cores.foldl (fun s p =>
    ((p.2.copies ++ p.2.shelved).filter fun k => decide (k.status = 2) && s.unitOver k.unit).foldl
      (fun s k => s.abortCopy p.1 k) s) s

/-- A group that a yield still waits for: it has not exited and not been parked. -/
def State.inTheWay (s : State) (a : Nat) : Bool :=
  let g := s.grpOf a
  g.live && g.paths.any fun p => p.eligible

/-- A yield is over once the list of groups it waits for is empty (R388). -/
def State.settleYields (s : State) (issued : Option Nat) : State :=
  s.groups.foldl (fun s p =>
    if p.2.yieldFor = [] then s
    else
      let left := p.2.yieldFor.filter fun b => s.inTheWay b && decide (issued ≠ some b)
      if left = [] then s.wakeGroup p.1
      else s.setGrpOf p.1 { s.grpOf p.1 with yieldFor := left }) s

/-- The record of class ECC that a consumer without a trap leaves (R465). Of its fields the spec states the class, what INFO and
UNIT hold, and the bits that are 0 (R451: CAUSE, DOUBLE, REISSUE and every reserved bit); the rest are free values (log 17). -/
def State.eccRecord (s : State) (e : EccDue) : List Byte :=
  let f (i : Nat) : Nat := (Config.word s.count (pow2 43 + i)).toNat
  bytesOf 4 (5 + f 0 % 16 * 65536 + f 9 % 4 * pow2 22) ++ bytesOf 4 (f 1) ++ bytesOf 4 (f 2) ++
    bytesOf 4 (f 3 % 64 + f 10 % 65536 * 65536) ++ bytesOf 8 e.addr ++
    (List.range 4).flatMap (fun i => bytesOf 4 (f (4 + i))) ++ bytesOf 4 (f 8 % 128) ++ bytesOf 4 e.level ++
    List.replicate 16 0

/-- Writes the error records that the step owes. -/
def State.settleEcc (s : State) : State :=
  s.eccDue.foldl (fun s e =>
    if (FMap.find s.ctxs (ctxKey e.dev e.asid)).isSome then s.appendRing e.dev e.asid true 64 (s.eccRecord e) else s)
    { s with eccDue := [] }

/-- A home does what it owes. -/
def State.pay (s : State) (op : HomeOp) : State :=
  match op with
  | .free obj shared => s.freeSobj obj shared
  | .add dev l d => s.lvAdd dev l d
  | .ctr dev l v => s.lvSetCtr dev l v
  | .flag dev l i => s.lvSetFlag dev l i
  | .err dev l => s.lvErrUp dev l
  | .opens dev asid l kind ctr flags parent budget => s.lvOpen dev asid l kind ctr flags parent budget
  | .version dev off ok => s.settleVer dev off ok
  | .retire desc v => s.retire desc v
  | .frame x => s.sendFrame x
  | .log die n w0 w1 => s.storeLog die n w0 w1

/-- What homes owe happens in order once the page has thawed; while it has not, it is owed again (R295). -/
def State.payOwed (s : State) : State :=
  match s.owed with
  | [] => s
  | l => l.foldl State.pay { s with owed := [] }

/-- Requests at their homes that the step has made servable: parked tag requests of words whose tags have changed (R243), and
sobj requests whose stored word has become free, by whatever write (R262, R266). -/
def State.settleHomes (s : State) : State :=
  let s := s.payOwed
  let s := (s.parked.map fun r => kplace r.addr / 8).eraseDups.foldl (fun (s : State) w =>
    if s.frozen (8 * w) then s else s.serveTags (8 * w) s.parked.length) s
  (s.sobjQ.map fun r => r.2.2.1).eraseDups.foldl (fun (s : State) o => s.serveSobj o s.sobjQ.length) s

/-- Everything that follows from a step, in a fixed order. -/
def State.settle (s : State) (issued : Option Nat) : State :=
  let s := (if s.poison = [] then s else s.breakFound (s.levels.length + 1)).settleHomes
  let s := ((s.settleWaits.settleGrow).settleFaults).settleYields issued
  let s := (s.settleEcc.tellHalt).settleSaves
  ((List.range 4).foldl (fun s d => s.settleCkpt d) s).settleTrust

/-! ## Ages -/

/-- The groups that had an eligible path. -/
def State.eligibles (s : State) : List Nat := (s.groups.filter fun p => p.2.paths.any fun q => q.eligible).map Prod.fst

/-- A group whose first path became eligible in this step is as old as the next cycle (R383). -/
def State.reage (s : State) (before : List Nat) : State :=
  { s with groups := s.groups.map fun p =>
      if p.2.clause.isNone && (p.2.paths.any fun q => q.eligible) && !before.contains p.1 then
        (p.1, { p.2 with age := s.cycle + 1 })
      else p }

/-! ## The counts of R384 -/

/-- The counts of the core after an issue of an agent, as the state before it offered its candidates, and which vector pipe is
free in the cycle in hand (R21). -/
def State.passOver (t s : State) (a : Nat) : State :=
  let core := coreOf a
  let p := s.pipeOf a
  let t := if p ≤ 1 then t.setCore core { t.coreAt core with v0 := if p = 0 then some a else none } else t
  if p = 5 || !s.bgOffered core p then t
  else
    let c := t.coreAt core
    let n := if s.background a then 0 else min 7 (FMap.get 0 c.passed p + 1)
    t.setCore core { c with passed := FMap.put 0 c.passed p n }

/-! ## The end of a step -/

/-- The agent found its instruction waiting, and nothing has changed. -/
def State.blockedSince (t s : State) : Bool := decide (s.waits.length < t.waits.length)

/-- Time passes: at least a cycle, and beyond that as much as the hardware takes. -/
def State.tick (s : State) : State :=
  { s with cycle := s.cycle + 1 + Config.stall s.count, count := s.count + 1 }

/-- The agent has issued the first half of a pair that counts as one instruction (R60, R185). -/
def State.halfway (s : State) (a : Nat) : Bool :=
  match (s.grpOf a).clause with
  | some c => c.modp.isSome || c.loop.isSome
  | none => false

/-- The state after a step from `s` whose subject left `t`. -/
def State.finishStep (t s : State) (m : Msg) (fetch : Bool) : State :=
  if t.blockedSince s then t.tick
  else
    let t := { t with waits := [] }
    match m with
    | .agent a =>
      if fetch then ((t.settle none).reage s.eligibles).tick
      else if t.halfway a && !s.halfway a then { t with count := t.count + 1 }
      else
        let first := match (s.grpOf a).clause with
          | some c => decide (c.k = 0 ∨ (c.k = 1 ∧ c.loop.isSome))
          | none => false
        (((t.passOver s a).settle (if first then some a else none)).reage s.eligibles).tick
    | _ => ((t.settle none).reage s.eligibles).tick

/-- Nothing happens but time; whoever waited tries again. -/
def State.idleStep (s : State) : State := { s with waits := [] }.tick

/-! ## The words of an instruction where the next step executes it -/

/-- A unit of one group on core 0, as UNIT_START leaves it, in a clause whose next words are given; its context and its
device's accepted features let every instruction issue. -/
def State.withClause (s : State) (ws : List Word) : State :=
  let x : Slice := { mask := 15, finished := false }
  let seg (limit : Nat) : SegReg := { v := true, wr := true, base := 0, limit := limit }
  let segs : FMap SegReg :=
    [(0, seg 1024), (1, seg (pow2 25)), (2, seg (globalSize s.mode)), (3, seg (pow2 48)), (6, seg (pow2 22))]
  let g : Group :=
    { live := true, unit := 1, priv := true, slices := List.replicate 16 x, paths := [{ slices := 0xFFFF }], segs := segs
      clause := some { base := 0, hdr := BitVec.ofNat 32 (0xC0000000 + ws.length), words := ws, slices := 0xFFFF
                       exec := some (BitVec.allOnes 64) } }
  let u : UnitSt := { asid := 1, priv := true, groups := 1, slots := [0], segs := segs, started := true, loaded := true }
  let d := s.devAt 0
  { ((((s.setGrpOf 0 g).setUnit 1 u).setCore 0 { s.coreAt 0 with asid := 1 }).setCtx 0 1 { cores := [0] }).setDev 0
      { d with owner := { d.owner with sess := true, accepted := some (0x7FF, 0x7F) } } with
    cur := 0, waits := [], inbox := [], tok := s.tok + 2 }

/-- The words of an instruction whose bits are w, first word lowest, and words of zeros behind them. -/
def wordsAt (nbits w : Nat) : List Word :=
  ((List.range ((nbits + 31) / 32)).map fun i => BitVec.ofNat 32 (w >>> (32 * i))) ++ List.replicate 3 0

end Sys2Proof.Machine
end

