-- ==== Sys2Proof/Machine/Dispatch.lean ====
section
/-!
DEFINITION. The one match of the machine: every constructor of Instr to its meaning (R66 to R74 and the rows without a
word).
-/
namespace Sys2Proof.Machine

/-- Runs one instruction, or one row without a word, on a state. -/
def exec (i : Instr) (s : State) : Host.Outcome State Fault Refusal :=
  match i with
  | .modPrefix c r rs a b g h j l => Sys2Proof.Machine.execModPrefix c r rs a b g h j l s
  | .br k n o => Sys2Proof.Machine.execBr k n o s
  | .call k n o => Sys2Proof.Machine.execCall k n o s
  | .jr x => Sys2Proof.Machine.execJr x s
  | .jf x l => Sys2Proof.Machine.execJf x l s
  | .iadd w d a b => Sys2Proof.Machine.execIadd w d a b s
  | .isub w d a b => Sys2Proof.Machine.execIsub w d a b s
  | .imul w d a b => Sys2Proof.Machine.execImul w d a b s
  | .imulhs w d a b => Sys2Proof.Machine.execImulhs w d a b s
  | .imulhu w d a b => Sys2Proof.Machine.execImulhu w d a b s
  | .imad w d a b => Sys2Proof.Machine.execImad w d a b s
  | .imin w d a b => Sys2Proof.Machine.execImin w d a b s
  | .imax w d a b => Sys2Proof.Machine.execImax w d a b s
  | .umin w d a b => Sys2Proof.Machine.execUmin w d a b s
  | .umax w d a b => Sys2Proof.Machine.execUmax w d a b s
  | .and w d a b => Sys2Proof.Machine.execAnd w d a b s
  | .or w d a b => Sys2Proof.Machine.execOr w d a b s
  | .xor w d a b => Sys2Proof.Machine.execXor w d a b s
  | .andn w d a b => Sys2Proof.Machine.execAndn w d a b s
  | .shl w d a b => Sys2Proof.Machine.execShl w d a b s
  | .shr w d a b => Sys2Proof.Machine.execShr w d a b s
  | .sar w d a b => Sys2Proof.Machine.execSar w d a b s
  | .bfe w d a b => Sys2Proof.Machine.execBfe w d a b s
  | .bfi w d a b => Sys2Proof.Machine.execBfi w d a b s
  | .sel w d a b => Sys2Proof.Machine.execSel w d a b s
  | .iadd64 w d a b => Sys2Proof.Machine.execIadd64 w d a b s
  | .ieq w d a b => Sys2Proof.Machine.execIeq w d a b s
  | .ine w d a b => Sys2Proof.Machine.execIne w d a b s
  | .ilt w d a b => Sys2Proof.Machine.execIlt w d a b s
  | .ile w d a b => Sys2Proof.Machine.execIle w d a b s
  | .ult w d a b => Sys2Proof.Machine.execUlt w d a b s
  | .ule w d a b => Sys2Proof.Machine.execUle w d a b s
  | .mov w d a => Sys2Proof.Machine.execMov w d a s
  | .not w d a => Sys2Proof.Machine.execNot w d a s
  | .clz w d a => Sys2Proof.Machine.execClz w d a s
  | .ctz w d a => Sys2Proof.Machine.execCtz w d a s
  | .popc w d a => Sys2Proof.Machine.execPopc w d a s
  | .brev w d a => Sys2Proof.Machine.execBrev w d a s
  | .sext8 w d a => Sys2Proof.Machine.execSext8 w d a s
  | .sext16 w d a => Sys2Proof.Machine.execSext16 w d a s
  | .zext8 w d a => Sys2Proof.Machine.execZext8 w d a s
  | .zext16 w d a => Sys2Proof.Machine.execZext16 w d a s
  | .pkp w d a => Sys2Proof.Machine.execPkp w d a s
  | .upkp w d a => Sys2Proof.Machine.execUpkp w d a s
  | .fadd w d a b => Sys2Proof.Machine.execFadd w d a b s
  | .fsub w d a b => Sys2Proof.Machine.execFsub w d a b s
  | .fmul w d a b => Sys2Proof.Machine.execFmul w d a b s
  | .ffma w d a b => Sys2Proof.Machine.execFfma w d a b s
  | .fmin w d a b => Sys2Proof.Machine.execFmin w d a b s
  | .fmax w d a b => Sys2Proof.Machine.execFmax w d a b s
  | .feq w d a b => Sys2Proof.Machine.execFeq w d a b s
  | .fne w d a b => Sys2Proof.Machine.execFne w d a b s
  | .flt w d a b => Sys2Proof.Machine.execFlt w d a b s
  | .fle w d a b => Sys2Proof.Machine.execFle w d a b s
  | .funo w d a b => Sys2Proof.Machine.execFuno w d a b s
  | .frcp w d a => Sys2Proof.Machine.execFrcp w d a s
  | .frsq w d a => Sys2Proof.Machine.execFrsq w d a s
  | .fsqrt w d a => Sys2Proof.Machine.execFsqrt w d a s
  | .fex2 w d a => Sys2Proof.Machine.execFex2 w d a s
  | .flg2 w d a => Sys2Proof.Machine.execFlg2 w d a s
  | .fsin w d a => Sys2Proof.Machine.execFsin w d a s
  | .fcos w d a => Sys2Proof.Machine.execFcos w d a s
  | .ffrac w d a => Sys2Proof.Machine.execFfrac w d a s
  | .fround w d a => Sys2Proof.Machine.execFround w d a s
  | .fclass w d a => Sys2Proof.Machine.execFclass w d a s
  | .cvtFromF32 w d a f => Sys2Proof.Machine.execCvtFromF32 w d a f s
  | .cvtToF32 w d a f => Sys2Proof.Machine.execCvtToF32 w d a f s
  | .hadd2 w d a b => Sys2Proof.Machine.execHadd2 w d a b s
  | .hmul2 w d a b => Sys2Proof.Machine.execHmul2 w d a b s
  | .hfma2 w d a b => Sys2Proof.Machine.execHfma2 w d a b s
  | .badd2 w d a b => Sys2Proof.Machine.execBadd2 w d a b s
  | .bmul2 w d a b => Sys2Proof.Machine.execBmul2 w d a b s
  | .bfma2 w d a b => Sys2Proof.Machine.execBfma2 w d a b s
  | .hdot2 w d a b => Sys2Proof.Machine.execHdot2 w d a b s
  | .bdot2 w d a b => Sys2Proof.Machine.execBdot2 w d a b s
  | .shfl w d a b => Sys2Proof.Machine.execShfl w d a b s
  | .shfx w d a b => Sys2Proof.Machine.execShfx w d a b s
  | .ballot w d a => Sys2Proof.Machine.execBallot w d a s
  | .any w d a => Sys2Proof.Machine.execAny w d a s
  | .all w d a => Sys2Proof.Machine.execAll w d a s
  | .radd w d a => Sys2Proof.Machine.execRadd w d a s
  | .rfadd w d a => Sys2Proof.Machine.execRfadd w d a s
  | .rmin w d a => Sys2Proof.Machine.execRmin w d a s
  | .rmax w d a => Sys2Proof.Machine.execRmax w d a s
  | .rumin w d a => Sys2Proof.Machine.execRumin w d a s
  | .rumax w d a => Sys2Proof.Machine.execRumax w d a s
  | .rand w d a => Sys2Proof.Machine.execRand w d a s
  | .ror w d a => Sys2Proof.Machine.execRor w d a s
  | .pfadd w d a => Sys2Proof.Machine.execPfadd w d a s
  | .pffadd w d a => Sys2Proof.Machine.execPffadd w d a s
  | .bcst w d a => Sys2Proof.Machine.execBcst w d a s
  | .laneFirst w d a => Sys2Proof.Machine.execLaneFirst w d a s
  | .movsRead w d n => Sys2Proof.Machine.execMovsRead w d n s
  | .movsWrite a n => Sys2Proof.Machine.execMovsWrite a n s
  | .ld d a b off inv scope ord space sz e => Sys2Proof.Machine.execLd d a b off inv scope ord space sz e s
  | .st d a b off inv scope ord space sz e => Sys2Proof.Machine.execSt d a b off inv scope ord space sz e s
  | .atomAdd d a b off inv scope ord space sz e => Sys2Proof.Machine.execAtomAdd d a b off inv scope ord space sz e s
  | .atomFadd d a b off inv scope ord space sz e => Sys2Proof.Machine.execAtomFadd d a b off inv scope ord space sz e s
  | .atomMin d a b off inv scope ord space sz e => Sys2Proof.Machine.execAtomMin d a b off inv scope ord space sz e s
  | .atomMax d a b off inv scope ord space sz e => Sys2Proof.Machine.execAtomMax d a b off inv scope ord space sz e s
  | .atomUmin d a b off inv scope ord space sz e => Sys2Proof.Machine.execAtomUmin d a b off inv scope ord space sz e s
  | .atomUmax d a b off inv scope ord space sz e => Sys2Proof.Machine.execAtomUmax d a b off inv scope ord space sz e s
  | .atomAnd d a b off inv scope ord space sz e => Sys2Proof.Machine.execAtomAnd d a b off inv scope ord space sz e s
  | .atomOr d a b off inv scope ord space sz e => Sys2Proof.Machine.execAtomOr d a b off inv scope ord space sz e s
  | .atomXor d a b off inv scope ord space sz e => Sys2Proof.Machine.execAtomXor d a b off inv scope ord space sz e s
  | .atomXchg d a b off inv scope ord space sz e => Sys2Proof.Machine.execAtomXchg d a b off inv scope ord space sz e s
  | .atomCas d a b off inv scope ord space sz e => Sys2Proof.Machine.execAtomCas d a b off inv scope ord space sz e s
  | .atomFmin d a b off inv scope ord space sz e => Sys2Proof.Machine.execAtomFmin d a b off inv scope ord space sz e s
  | .atomFmax d a b off inv scope ord space sz e => Sys2Proof.Machine.execAtomFmax d a b off inv scope ord space sz e s
  | .atomHadd2 d a b off inv scope ord space sz e => Sys2Proof.Machine.execAtomHadd2 d a b off inv scope ord space sz e s
  | .atomBadd2 d a b off inv scope ord space sz e => Sys2Proof.Machine.execAtomBadd2 d a b off inv scope ord space sz e s
  | .ldtFf d a b off inv scope ord space sz e => Sys2Proof.Machine.execLdtFf d a b off inv scope ord space sz e s
  | .ldtFe d a b off inv scope ord space sz e => Sys2Proof.Machine.execLdtFe d a b off inv scope ord space sz e s
  | .ldtXx d a b off inv scope ord space sz e => Sys2Proof.Machine.execLdtXx d a b off inv scope ord space sz e s
  | .sttEf d a b off inv scope ord space sz e => Sys2Proof.Machine.execSttEf d a b off inv scope ord space sz e s
  | .sttXf d a b off inv scope ord space sz e => Sys2Proof.Machine.execSttXf d a b off inv scope ord space sz e s
  | .sttXe d a b off inv scope ord space sz e => Sys2Proof.Machine.execSttXe d a b off inv scope ord space sz e s
  | .ldtile d a b off inv scope ord space sz e => Sys2Proof.Machine.execLdtile d a b off inv scope ord space sz e s
  | .sttile d a b off inv scope ord space sz e => Sys2Proof.Machine.execSttile d a b off inv scope ord space sz e s
  | .prf d a b off inv scope ord space sz e => Sys2Proof.Machine.execPrf d a b off inv scope ord space sz e s
  | .fenceAcq c => Sys2Proof.Machine.execFenceAcq c s
  | .fenceRel c => Sys2Proof.Machine.execFenceRel c s
  | .fenceAr c => Sys2Proof.Machine.execFenceAr c s
  | .sobjBind x y k => Sys2Proof.Machine.execSobjBind x y k s
  | .sobjUnbind x k => Sys2Proof.Machine.execSobjUnbind x k s
  | .sobjAcq x h => Sys2Proof.Machine.execSobjAcq x h s
  | .sobjRel x => Sys2Proof.Machine.execSobjRel x s
  | .sobjTryacq x y h => Sys2Proof.Machine.execSobjTryacq x y h s
  | .waitc c n => Sys2Proof.Machine.execWaitc c n s
  | .queueInit x y q => Sys2Proof.Machine.execQueueInit x y q s
  | .queueAllow x y q => Sys2Proof.Machine.execQueueAllow x y q s
  | .queuePush x q => Sys2Proof.Machine.execQueuePush x q s
  | .queuePop x q => Sys2Proof.Machine.execQueuePop x q s
  | .queueTrypush x y q => Sys2Proof.Machine.execQueueTrypush x y q s
  | .queueTrypop x y q => Sys2Proof.Machine.execQueueTrypop x y q s
  | .abarInit x b => Sys2Proof.Machine.execAbarInit x b s
  | .abarExpect x b => Sys2Proof.Machine.execAbarExpect x b s
  | .abarArrive x b => Sys2Proof.Machine.execAbarArrive x b s
  | .abarWait x b => Sys2Proof.Machine.execAbarWait x b s
  | .abarArrwait b => Sys2Proof.Machine.execAbarArrwait b s
  | .verPubv x y => Sys2Proof.Machine.execVerPubv x y s
  | .verQver x y => Sys2Proof.Machine.execVerQver x y s
  | .cpyLin x => Sys2Proof.Machine.execCpyLin x s
  | .cpyBlk2 x => Sys2Proof.Machine.execCpyBlk2 x s
  | .cpyBlk3 x => Sys2Proof.Machine.execCpyBlk3 x s
  | .cpyGath x => Sys2Proof.Machine.execCpyGath x s
  | .cpyScat x => Sys2Proof.Machine.execCpyScat x s
  | .cpyFill x => Sys2Proof.Machine.execCpyFill x s
  | .cpyExp6 x => Sys2Proof.Machine.execCpyExp6 x s
  | .cpyPak6 x => Sys2Proof.Machine.execCpyPak6 x s
  | .cpyRedAdd x => Sys2Proof.Machine.execCpyRedAdd x s
  | .cpyRedMin x => Sys2Proof.Machine.execCpyRedMin x s
  | .cpyRedMax x => Sys2Proof.Machine.execCpyRedMax x s
  | .cpyOpb x => Sys2Proof.Machine.execCpyOpb x s
  | .cfetch x f n => Sys2Proof.Machine.execCfetch x f n s
  | .collAred x y e o t => Sys2Proof.Machine.execCollAred x y e o t s
  | .collRed x y e o t => Sys2Proof.Machine.execCollRed x y e o t s
  | .collBcst x y t => Sys2Proof.Machine.execCollBcst x y t s
  | .collAgth x y t => Sys2Proof.Machine.execCollAgth x y t s
  | .collRsct x y e o t => Sys2Proof.Machine.execCollRsct x y e o t s
  | .collSend x y t => Sys2Proof.Machine.execCollSend x y t s
  | .collRecv x y => Sys2Proof.Machine.execCollRecv x y s
  | .collRset x y => Sys2Proof.Machine.execCollRset x y s
  | .cntDecl x y => Sys2Proof.Machine.execCntDecl x y s
  | .cntTrig x b => Sys2Proof.Machine.execCntTrig x b s
  | .dspInit x y => Sys2Proof.Machine.execDspInit x y s
  | .dspNext x y => Sys2Proof.Machine.execDspNext x y s
  | .presentPost x y => Sys2Proof.Machine.execPresentPost x y s
  | .mres x y n => Sys2Proof.Machine.execMres x y n s
  | .mresRel n => Sys2Proof.Machine.execMresRel n s
  | .mwld x y n => Sys2Proof.Machine.execMwld x y n s
  | .mma k x y c => Sys2Proof.Machine.execMma k x y c s
  | .mloop x y => Sys2Proof.Machine.execMloop x y s
  | .mbat x => Sys2Proof.Machine.execMbat x s
  | .mdrn k x y d v rs a => Sys2Proof.Machine.execMdrn k x y d v rs a s
  | .mdrnAdd k x y d v rs a => Sys2Proof.Machine.execMdrnAdd k x y d v rs a s
  | .mzero k => Sys2Proof.Machine.execMzero k s
  | .mxq x y c => Sys2Proof.Machine.execMxq x y c s
  | .hgCfg x => Sys2Proof.Machine.execHgCfg x s
  | .hgEnc x z => Sys2Proof.Machine.execHgEnc x z s
  | .hgGrad x z => Sys2Proof.Machine.execHgGrad x z s
  | .rayTrace x y z => Sys2Proof.Machine.execRayTrace x y z s
  | .rayOccl x y z => Sys2Proof.Machine.execRayOccl x y z s
  | .rayTri z => Sys2Proof.Machine.execRayTri z s
  | .rayBox z => Sys2Proof.Machine.execRayBox z s
  | .trInit x y => Sys2Proof.Machine.execTrInit x y s
  | .trDesc x y n => Sys2Proof.Machine.execTrDesc x y n s
  | .trExp x y k => Sys2Proof.Machine.execTrExp x y k s
  | .trBack x y => Sys2Proof.Machine.execTrBack x y s
  | .trUndo x y => Sys2Proof.Machine.execTrUndo x y s
  | .trReuse x y => Sys2Proof.Machine.execTrReuse x y s
  | .trFree x y => Sys2Proof.Machine.execTrFree x y s
  | .trStat x y => Sys2Proof.Machine.execTrStat x y s
  | .taskSubmit x y n => Sys2Proof.Machine.execTaskSubmit x y n s
  | .taskDone x => Sys2Proof.Machine.execTaskDone x s
  | .taskDoneWait x => Sys2Proof.Machine.execTaskDoneWait x s
  | .lvlLaunch x y => Sys2Proof.Machine.execLvlLaunch x y s
  | .lvlCancel x y => Sys2Proof.Machine.execLvlCancel x y s
  | .lvlCtr x y => Sys2Proof.Machine.execLvlCtr x y s
  | .lvlOpen x y z => Sys2Proof.Machine.execLvlOpen x y z s
  | .lvlClose x y => Sys2Proof.Machine.execLvlClose x y s
  | .lvlBudget x y => Sys2Proof.Machine.execLvlBudget x y s
  | .schedSleep x => Sys2Proof.Machine.execSchedSleep x s
  | .xregAcq m => Sys2Proof.Machine.execXregAcq m s
  | .xregRel m => Sys2Proof.Machine.execXregRel m s
  | .sysTrap n => Sys2Proof.Machine.execSysTrap n s
  | .sysSvc n => Sys2Proof.Machine.execSysSvc n s
  | .sysBkpt n => Sys2Proof.Machine.execSysBkpt n s
  | .sysSegw x rs => Sys2Proof.Machine.execSysSegw x rs s
  | .sysCsrr x n => Sys2Proof.Machine.execSysCsrr x n s
  | .sysCsrw x n => Sys2Proof.Machine.execSysCsrw x n s
  | .sysCkpt x y => Sys2Proof.Machine.execSysCkpt x y s
  | .ptInv x y => Sys2Proof.Machine.execPtInv x y s
  | .ptMigb x y z => Sys2Proof.Machine.execPtMigb x y z s
  | .ptMigf x z => Sys2Proof.Machine.execPtMigf x z s
  | .ptMigd x z => Sys2Proof.Machine.execPtMigd x z s
  | .ptHotl x y => Sys2Proof.Machine.execPtHotl x y s
  | .nop => Sys2Proof.Machine.execNop s
  | .ret => Sys2Proof.Machine.execRet s
  | .exit => Sys2Proof.Machine.execExit s
  | .drain => Sys2Proof.Machine.execDrain s
  | .mtake => Sys2Proof.Machine.execMtake s
  | .mgive => Sys2Proof.Machine.execMgive s
  | .schedYield => Sys2Proof.Machine.execSchedYield s
  | .sysEret => Sys2Proof.Machine.execSysEret s
  | .sysHalt => Sys2Proof.Machine.execSysHalt s
  | .ptFence => Sys2Proof.Machine.execPtFence s
  | .ptApply => Sys2Proof.Machine.execPtApply s
  | .clauseFetch => Sys2Proof.Machine.execClauseFetch s
  | .backgroundForcedIssue => Sys2Proof.Machine.execBackgroundForcedIssue s
  | .pathDemote => Sys2Proof.Machine.execPathDemote s
  | .registerWriteComplete => Sys2Proof.Machine.execRegisterWriteComplete s
  | .memoryAccessPerform => Sys2Proof.Machine.execMemoryAccessPerform s
  | .writeVisibleAtDie => Sys2Proof.Machine.execWriteVisibleAtDie s
  | .hbmScrub => Sys2Proof.Machine.execHbmScrub s
  | .copyRun => Sys2Proof.Machine.execCopyRun s
  | .cpyctlResume => Sys2Proof.Machine.execCpyctlResume s
  | .cpyctlAbort => Sys2Proof.Machine.execCpyctlAbort s
  | .codeSegmentLoaded => Sys2Proof.Machine.execCodeSegmentLoaded s
  | .collectiveComplete => Sys2Proof.Machine.execCollectiveComplete s
  | .collRsetEffect => Sys2Proof.Machine.execCollRsetEffect s
  | .addOnStoreUpdate => Sys2Proof.Machine.execAddOnStoreUpdate s
  | .matrixCommandEffect => Sys2Proof.Machine.execMatrixCommandEffect s
  | .mmaKStep => Sys2Proof.Machine.execMmaKStep s
  | .matrixBatchComplete => Sys2Proof.Machine.execMatrixBatchComplete s
  | .hgEncComplete => Sys2Proof.Machine.execHgEncComplete s
  | .hgGradAdd => Sys2Proof.Machine.execHgGradAdd s
  | .rayComplete => Sys2Proof.Machine.execRayComplete s
  | .treeOperationComplete => Sys2Proof.Machine.execTreeOperationComplete s
  | .nodeTimerExpiry => Sys2Proof.Machine.execNodeTimerExpiry s
  | .budgetExpiry => Sys2Proof.Machine.execBudgetExpiry s
  | .levelEnd => Sys2Proof.Machine.execLevelEnd s
  | .unitPreload => Sys2Proof.Machine.execUnitPreload s
  | .unitStart => Sys2Proof.Machine.execUnitStart s
  | .yieldTimeout => Sys2Proof.Machine.execYieldTimeout s
  | .sleepEnd => Sys2Proof.Machine.execSleepEnd s
  | .xpoolTakeEffect => Sys2Proof.Machine.execXpoolTakeEffect s
  | .preemptRequest => Sys2Proof.Machine.execPreemptRequest s
  | .restoreRequest => Sys2Proof.Machine.execRestoreRequest s
  | .preempt => Sys2Proof.Machine.execPreempt s
  | .unitRestore => Sys2Proof.Machine.execUnitRestore s
  | .cancel => Sys2Proof.Machine.execCancel s
  | .pageWalk => Sys2Proof.Machine.execPageWalk s
  | .logApply => Sys2Proof.Machine.execLogApply s
  | .copierLineCopy => Sys2Proof.Machine.execCopierLineCopy s
  | .migrationRecordFree => Sys2Proof.Machine.execMigrationRecordFree s
  | .gustListPublish => Sys2Proof.Machine.execGustListPublish s
  | .contextSwitch => Sys2Proof.Machine.execContextSwitch s
  | .checkpointStart => Sys2Proof.Machine.execCheckpointStart s
  | .checkpointComplete => Sys2Proof.Machine.execCheckpointComplete s
  | .powerOn => Sys2Proof.Machine.execPowerOn s
  | .packageReset => Sys2Proof.Machine.execPackageReset s
  | .clockLower => Sys2Proof.Machine.execClockLower s
  | .clockRaise => Sys2Proof.Machine.execClockRaise s
  | .getVersion => Sys2Proof.Machine.execGetVersion s
  | .getCapabilities => Sys2Proof.Machine.execGetCapabilities s
  | .negotiateAlgorithms => Sys2Proof.Machine.execNegotiateAlgorithms s
  | .getDigests => Sys2Proof.Machine.execGetDigests s
  | .getCertificate => Sys2Proof.Machine.execGetCertificate s
  | .challenge => Sys2Proof.Machine.execChallenge s
  | .getMeasurements => Sys2Proof.Machine.execGetMeasurements s
  | .keyExchange => Sys2Proof.Machine.execKeyExchange s
  | .finish => Sys2Proof.Machine.execFinish s
  | .keyUpdate => Sys2Proof.Machine.execKeyUpdate s
  | .heartbeat => Sys2Proof.Machine.execHeartbeat s
  | .endSession => Sys2Proof.Machine.execEndSession s
  | .featureAccept => Sys2Proof.Machine.execFeatureAccept s
  | .ctxCreate => Sys2Proof.Machine.execCtxCreate s
  | .ctxDestroy => Sys2Proof.Machine.execCtxDestroy s
  | .launch => Sys2Proof.Machine.execLaunch s
  | .gobjCreate => Sys2Proof.Machine.execGobjCreate s
  | .gobjDestroy => Sys2Proof.Machine.execGobjDestroy s
  | .gobjRebind => Sys2Proof.Machine.execGobjRebind s
  | .keyInstall => Sys2Proof.Machine.execKeyInstall s
  | .keyErase => Sys2Proof.Machine.execKeyErase s
  | .mrReg => Sys2Proof.Machine.execMrReg s
  | .mrDereg => Sys2Proof.Machine.execMrDereg s
  | .exportSet => Sys2Proof.Machine.execExportSet s
  | .ckptTier => Sys2Proof.Machine.execCkptTier s
  | .restore => Sys2Proof.Machine.execRestore s
  | .ctxContinue => Sys2Proof.Machine.execCtxContinue s
  | .outputConfigure => Sys2Proof.Machine.execOutputConfigure s
  | .roceRequestPacket => Sys2Proof.Machine.execRoceRequestPacket s
  | .peerRequest => Sys2Proof.Machine.execPeerRequest s
  | .ptpMessage => Sys2Proof.Machine.execPtpMessage s
  | .flitIdle => Sys2Proof.Machine.execFlitIdle s
  | .flitData => Sys2Proof.Machine.execFlitData s
  | .flitAck => Sys2Proof.Machine.execFlitAck s
  | .flitSync => Sys2Proof.Machine.execFlitSync s
  | .flitMarker => Sys2Proof.Machine.execFlitMarker s
  | .linkDown => Sys2Proof.Machine.execLinkDown s
  | .linkReopen => Sys2Proof.Machine.execLinkReopen s
  | .syncFlitSend => Sys2Proof.Machine.execSyncFlitSend s
  | .lockLoss => Sys2Proof.Machine.execLockLoss s
  | .memberLost => Sys2Proof.Machine.execMemberLost s
  | .frameDeadline => Sys2Proof.Machine.execFrameDeadline s
  | .scrubbing => Sys2Proof.Machine.execScrubbing s
  | .flitOtherType => Sys2Proof.Machine.execFlitOtherType s

end Sys2Proof.Machine
end

