-- ==== Sys2Proof/Machine/Step.lean ====
section
/-!
DEFINITION. One step of the machine: the choice of its subject, the meaning of what it runs, and what follows at the same
instant.
-/
namespace Sys2Proof.Machine

/-- The job of a step on its subject, and the end of the step; a datagram that fails R438 is dropped. -/
def runJob (s : State) (x : Arrived) (rest : List Arrived) : Host.Outcome State Fault Refusal :=
  let b := s.begin x rest
  match (if s.admits x then b.jobOf x.msg else .idle) with
  | .idle => .next b.idleStep
  | .stuck => .fault .badClause
  | .run i =>
    match exec i b with
    | .next t => .next (t.finishStep b x.msg (decide (i = .clauseFetch)))
    | .fault f => .fault f
    | .refused r => .refused r

/-- One step (R21, R37). -/
def step (s : State) : Host.Outcome State Fault Refusal :=
  match s.chosen with
  | none => .next s.idleStep
  | some (x, rest) => runJob s x rest

/-- The state whose next step runs the instruction with these bits. -/
def State.withFetchWord (s : State) (nbits w : Nat) : State := s.withClause (wordsAt nbits w)

end Sys2Proof.Machine
end

