-- ==== Sys2Proof/Safety.lean ====
section
/-!
DEFINITION. What counts as a sound state of the machine, and the shapes in which the statements say what an instruction
does: which registers it writes, and that nothing else has changed.
-/
namespace Sys2Proof.Machine

/-! ## Sound states -/

/-- Keys rise strictly. -/
def risingKeys {α : Type} : FMap α → Bool
  | [] => true
  | [_] => true
  | p :: q :: t => decide (p.1 < q.1) && risingKeys (q :: t)

/-- The compute-die clock is a step of 20 MHz between 600 MHz and 940 MHz (R4, R29). -/
def Pkg.clockOk (p : Pkg) : Bool := decide (600 ≤ p.clock ∧ p.clock ≤ 940 ∧ p.clock % 20 = 0)

/-- The device mode is one of the three that R23 gives. -/
def Pkg.modeOk (p : Pkg) : Bool := decide (p.mode = 1 ∨ p.mode = 2 ∨ p.mode = 4)

/-! ## An instruction about to take effect -/

/-- The instruction in hand can take effect: its clause is in progress with a thread in the executing set, no register
that it names has an outstanding write, and no source holds an error (R36, R38, R465). What it does with a source that
holds a single-bit error is what it does once that is corrected (R463). -/
def State.ready (s : State) (c : Clause) (srcs dsts : List Span) : Prop :=
  s.grp.clause = some c ∧ c.threads s.grp ≠ 0 ∧ s.grp.busy (srcs ++ dsts) = false ∧ s.grp.tainted srcs = false ∧
    (s.grp.soft.any fun p => srcs.any fun x => spanHas x p) = false

/-- One operand of each code. -/
def ops (l : List (BitVec 8)) : List Span := l.map fun c => (c.toNat, 1)

/-- A legal destination of the V and U pipes (R49): a v- or s-register, p0 to p7 or q0 to q7. -/
def legalDest (d : BitVec 8) : Bool := isV d.toNat || isS d.toNat || isP d.toNat || decide (0xCC ≤ d.toNat ∧ d.toNat ≤ 0xD3)

/-! ## What an instruction of the V or U pipe writes -/

/-- Lane l of the latch after a result: the result, 0 or 1 for a predicate, the same in every lane for a uniform
instruction, 0 outside the executing set for another (R55). -/
def latchLane (ex : Lanes) (d : Nat) (f : Nat → Word) (l : Nat) : Word :=
  if isV d then (if ex.getLsbD l then f l else 0)
  else if isS d then f (lowLane ex)
  else if isP d then (if ex.getLsbD l then (if f l = 0 then 0 else 1) else 0)
  else if f (lowLane ex) = 0 then 0 else 1

/-- Group h is the group that the instruction found, with registers v, s, p and q as the four functions give them, but
for what the functions leave open; its tiles, its blocks, its segments and every other part are as they were. The sticky
flags and the generators are stated apart. -/
structure Kept (x : Ix) (dsts : List Span) (h : Group) : Prop where
  tiles : h.t = x.g.t
  /-- a changed register is progress of the path (R397) -/
  paths : h.paths = if h.changed x.g then (x.g.progress x.c.slices).paths else x.g.paths
  /-- a register written whole no longer holds an error (R463) -/
  poison : h.poison = x.g.poison.filter fun p => !wholeWrite x.ex dsts p
  soft : h.soft = x.g.soft.filter fun p => !wholeWrite x.ex dsts p
  /-- a window goes when its base pair changes (R228) -/
  windows : h.windows = if h.s = x.g.s then x.g.windows else x.g.windows.filter fun w =>
    decide ((h.sAt w.pair).toNat + (h.sAt (w.pair + 1)).toNat * pow2 32 = w.base)
  rest : { h with v := x.g.v, s := x.g.s, p := x.g.p, q := x.g.q, b := x.g.b, bvalid := x.g.bvalid
                  fflags := x.g.fflags, gens := x.g.gens, paths := x.g.paths, poison := x.g.poison
                  soft := x.g.soft, windows := x.g.windows } = x.g

/-- Group h is the group that the instruction found after a 32-bit result, in lane l `f l`: it stands in the lanes of the
executing set of a v- or p-destination, once in an s- or q-destination, nowhere under WS; the latch of the instruction's
position holds it in any case; every other register keeps its value (R37, R49, R51, R55). -/
structure Wrote (x : Ix) (ws : Bool) (d : BitVec 8) (f : Nat → Word) (h : Group) : Prop where
  vecs : ∀ r l, l < 64 →
    h.vAt r l = if ws = false ∧ isV d.toNat ∧ r = d.toNat ∧ x.ex.getLsbD l then f l else x.g.vAt r l
  scalars : ∀ r, h.sAt r = if ws = false ∧ isS d.toNat ∧ 0x80 + r = d.toNat then f (lowLane x.ex) else x.g.sAt r
  preds : ∀ i l, l < 64 →
    (h.pAt i).getLsbD l =
      if ws = false ∧ isP d.toNat ∧ 0xC4 + i = d.toNat ∧ x.ex.getLsbD l then decide (f l ≠ 0) else (x.g.pAt i).getLsbD l
  uniforms : ∀ i, i < 7 →
    h.q.getLsbD i = if ws = false ∧ 0xCC + i = d.toNat then decide (f (lowLane x.ex) ≠ 0) else x.g.q.getLsbD i
  latch : ∀ i l, i < 4 → l < 64 → h.bAt i l = if i = x.c.k % 4 then latchLane x.ex d.toNat f l else x.g.bAt i l
  valid : h.bvalid = x.g.bvalid ||| (1#4 <<< (x.c.k % 4))

/-- The outcome of an instruction of the V or U pipe with a 32-bit result: the clause goes on behind its words, and
nothing but the group has changed. -/
def Lands (s : State) (c : Clause) (srcs : List Span) (ws : BitVec 1) (d : BitVec 8) (f : Nat → Word) (fl : BitVec 5)
    (gens : FMap Word) (o : Host.Outcome State Fault Refusal) : Prop :=
  ∃ h : Group, Wrote (s.found c 1) (ws == 1) d f h ∧ Kept (s.found c 1) (destSpan ws d 1) h ∧
    h.fflags = s.grp.fflags ||| fl ∧ h.gens = gens ∧
    o = .next ((s.setGrp h).advance (c.wordsOf 1 srcs) true)

/-- The same for an integer instruction: no flag, no draw (R133, R141). -/
def LandsInt (s : State) (c : Clause) (srcs : List Span) (ws : BitVec 1) (d : BitVec 8) (f : Nat → Word)
    (o : Host.Outcome State Fault Refusal) : Prop := Lands s c srcs ws d f 0 s.grp.gens o

/-- The same for a 64-bit result, in lane l `f l`: its low half in the first register of the pair and in the latch, its
high half in the second (R52, R55). -/
structure WrotePair (x : Ix) (ws : Bool) (d : BitVec 8) (f : Nat → BitVec 64) (h : Group) : Prop where
  vecs : ∀ r l, l < 64 →
    h.vAt r l =
      if ws = false ∧ isV d.toNat ∧ x.ex.getLsbD l ∧ r = d.toNat then (f l).setWidth 32
      else if ws = false ∧ isV d.toNat ∧ x.ex.getLsbD l ∧ r = d.toNat + 1 then (f l).extractLsb' 32 32
      else x.g.vAt r l
  scalars : ∀ r,
    h.sAt r =
      if ws = false ∧ isS d.toNat ∧ 0x80 + r = d.toNat then (f (lowLane x.ex)).setWidth 32
      else if ws = false ∧ isS d.toNat ∧ 0x80 + r = d.toNat + 1 then (f (lowLane x.ex)).extractLsb' 32 32
      else x.g.sAt r
  preds : ∀ i l, l < 64 → (h.pAt i).getLsbD l = (x.g.pAt i).getLsbD l
  uniforms : h.q = x.g.q
  latch : ∀ i l, i < 4 → l < 64 →
    h.bAt i l = if i = x.c.k % 4 then latchLane x.ex d.toNat (fun l => (f l).setWidth 32) l else x.g.bAt i l
  valid : h.bvalid = x.g.bvalid ||| (1#4 <<< (x.c.k % 4))

/-- The outcome of an instruction with a 64-bit result, no flag and no draw. -/
def LandsPair (s : State) (c : Clause) (srcs : List Span) (ws : BitVec 1) (d : BitVec 8) (f : Nat → BitVec 64)
    (o : Host.Outcome State Fault Refusal) : Prop :=
  ∃ h : Group, WrotePair (s.found c 1) (ws == 1) d f h ∧ Kept (s.found c 1) (destSpan ws d 2) h ∧
    h.fflags = s.grp.fflags ∧ h.gens = s.grp.gens ∧
    o = .next ((s.setGrp h).advance (c.wordsOf 1 srcs) true)

/-- Group h differs from the group found only in the parts of which the four functions speak: no v-, s-, p- or q-register
and no latch has changed, nor a flag or a generator. -/
structure SameRegs (x : Ix) (h : Group) : Prop where
  v : h.v = x.g.v
  s : h.s = x.g.s
  p : h.p = x.g.p
  q : h.q = x.g.q
  b : h.b = x.g.b
  bvalid : h.bvalid = x.g.bvalid
  fflags : h.fflags = x.g.fflags
  gens : h.gens = x.g.gens

/-- The union of the flags that the executing lanes raise; of a uniform instruction, its one evaluation's. -/
def laneFlags (ex : Lanes) (d : Nat) (f : Nat → BitVec 5) : BitVec 5 :=
  if uniformDest d then f (lowLane ex)
  else ((List.range 64).map fun l => if ex.getLsbD l then f l else 0).foldl (fun m r => m ||| r) 0

/-- The generator that lane l of an instruction with this destination draws from (R116, R117). -/
def genOf (d : Nat) (l : Nat) : Nat := if uniformDest d then 64 else l

/-- The outcome of an instruction whose lane l delivers the word and the flags `f l r`, r its draws; under the stochastic
mode every evaluation draws nd times (R117, R133). -/
def LandsDraw (s : State) (c : Clause) (srcs : List Span) (ws : BitVec 1) (d : BitVec 8) (nd : Nat)
    (f : Nat → (Nat → Nat) → Word × BitVec 5) (o : Host.Outcome State Fault Refusal) : Prop :=
  let r (l : Nat) : Word × BitVec 5 := f l (drawAt (s.grp.gen (genOf d.toNat l)))
  Lands s c srcs ws d (fun l => (r l).1) (laneFlags (c.threads s.grp) d.toNat fun l => (r l).2)
    (s.grp.drawn (uniformDest d.toNat) (c.threads s.grp) (if (s.found c 1).mode = 6 then nd else 0)).gens o

/-- The operand code that supplies C: the mod prefix's C field, without a prefix the destination's register (R131). -/
def Clause.third (c : Clause) (d : BitVec 8) : BitVec 8 :=
  match c.modp with
  | some m => m.c
  | none => d

/-- The low 32 bits of an exact result, or under SAT the result clamped to −2^31 … 2^31 − 1 (R132). -/
def wrapOrClamp (sat : Bool) (v : Int) : Word :=
  BitVec.ofInt 32 (if sat then (if v < -2147483648 then -2147483648 else if 2147483647 < v then 2147483647 else v) else v)

/-- 1 where a relation holds, else 0 (R140). -/
def truth (b : Prop) [Decidable b] : Word := if b then 1 else 0

/-! ## Control transfers -/

/-- The clause that follows a clause (R30), and what a fall-through out of its segment leaves there (R43). -/
def Clause.after (c : Clause) : Nat := c.base + 4 * (c.words.length + 1)
def Clause.left (c : Clause) : Option Nat := if c.after / 4096 = c.base / 4096 then none else some c.base

/-- Slice i of a path under a transfer of the threads `taken` to `target` (R392): y is what becomes of it. -/
def sliceMoves (c : Clause) (taken : Lanes) (target i : Nat) (x y : Slice) : Prop :=
  let t : BitVec 4 := x.mask &&& (taken >>> (4 * i)).setWidth 4
  let f : BitVec 4 := x.mask &&& ~~~((taken >>> (4 * i)).setWidth 4)
  (f = 0 → y = { x with pc := target, fell := none }) ∧
  (t = 0 → f ≠ 0 → y = { x with pc := c.after, fell := c.left }) ∧
  (t ≠ 0 → f ≠ 0 → target = c.after → y = { x with pc := target, fell := c.left }) ∧
  (t ≠ 0 → f ≠ 0 → target < c.after →
    y = { x with pc := target, mask := t, fell := none, stack := { pc := c.after, mask := f, fell := c.left } :: x.stack }) ∧
  (t ≠ 0 → f ≠ 0 → c.after < target →
    y = { x with pc := c.after, mask := f, fell := c.left, stack := { pc := target, mask := t } :: x.stack })

/-- Every slice of the path that splits has room on its stack (R392). -/
def roomToSplit (g : Group) (c : Clause) (taken : Lanes) (target : Nat) : Prop :=
  ∀ i x, g.slices[i]? = some x → c.slices.getLsbD i = true → x.finished = false → target ≠ c.after →
    x.mask &&& (taken >>> (4 * i)).setWidth 4 ≠ 0 → x.mask &&& ~~~((taken >>> (4 * i)).setWidth 4) ≠ 0 →
    x.stack.length < 8

/-- Group h is the group found after a transfer: its slices have moved, s62 holds the address of the next clause where the
transfer links, and the path's spin count has risen where the transfer goes backward (R392, R397, R413). -/
structure Transferred (x : Ix) (taken : Lanes) (target : Nat) (link : Bool) (h : Group) : Prop where
  count : h.slices.length = x.g.slices.length
  moved : ∀ i y z, x.g.slices[i]? = some y → h.slices[i]? = some z →
    if x.c.slices.getLsbD i = true ∧ y.finished = false then sliceMoves x.c taken target i y z else z = y
  linked : ∀ r, h.sAt r = if link = true ∧ r = 62 then BitVec.ofNat 32 x.c.after else x.g.sAt r
  paths : h.paths = x.g.paths.map fun p =>
    if p.slices &&& x.c.slices = 0 then p
    else
      let q : Path := if link = true ∧ x.g.sAt 62 ≠ BitVec.ofNat 32 x.c.after then { p with spin := 0, demoted := false } else p
      if target ≤ x.c.base ∧ taken ≠ 0 then { q with spin := min 64 (q.spin + 1) } else q
  rest : { h with slices := x.g.slices, s := x.g.s, paths := x.g.paths } = x.g

/-- The outcome of a transfer: the clause ends and nothing but the group has changed. -/
def Transfers (s : State) (c : Clause) (taken : Lanes) (target : Nat) (link : Bool)
    (o : Host.Outcome State Fault Refusal) : Prop :=
  ∃ h, Transferred (s.found c 1) taken target link h ∧ o = .next (s.setGrp h).closeClause

/-! ## Memory accesses -/

/-- The accesses of a memory instruction by these threads pass their checks (R224, R227): they reach `places`, and `s1` is
the state once their addresses are translated. -/
def Ix.reaches (x : Ix) (m : MArgs) (writes : Bool) (ps : List (Nat × Nat)) (places : List Nat) (s1 : State) : Prop :=
  let y := x.opened m
  y.walkWaits m (ps.map fun p => (x.src m.b p.1).toNat) = false ∧
  y.locateAll y.s m.space (x.base m) m.disp m.bytes writes true (ps.map fun p => (p.1, p.2, (x.src m.b p.1).toNat)) =
    (places.map Except.ok, s1)

/-- Where the chunks of accesses at these places lie (R234). -/
def MArgs.spots (m : MArgs) (places : List Nat) : List Nat := places.flatMap fun p => m.chunks.map fun i => p + 16 * i

/-- No page of these places is frozen, no word that is read there holds an uncorrectable error, and no transfer from there is
lost (R229, R233, R464). -/
def State.servable (s : State) (n : Nat) (reads : Bool) (places : List Nat) : Prop :=
  (∀ p ∈ places, s.frozen p = false) ∧
  (reads = true → ∀ p ∈ places, s.crcLost (kplace (s.route p)) n = false ∧
    (places.foldl (fun s p => s.served p n) s).poisoned
      (kplace ((places.foldl (fun s p => s.served p n) s).route p)) n = false)

/-- The accesses of the instruction in hand are performed at its issue: none of them is put off, and no earlier access of its
group is still to be performed (R253). -/
def State.noneLeft (s : State) (agent unit : Nat) : Prop :=
  s.lazy = 0 ∧ ∀ o ∈ s.stalled, o.agent ≠ agent ∨ o.unit ≠ unit ∨ o.drain ≠ none

/-- Each of these accesses of n bytes follows an access of its thread that is still to be performed: one to a byte of it
(R234), or where it writes one that reads (R253); an invariant load follows none for its bytes' sake (R237). -/
def State.follows (s : State) (agent unit : Nat) (kind : MKind) (n : Nat) (es : List MElem) : Prop :=
  ∀ f ∈ es, ∃ o ∈ s.stalled, o.agent = agent ∧ o.unit = unit ∧ o.drain = none ∧ ∃ e ∈ o.elems,
    (e.thr = f.thr ∨ e.thr = 64 ∨ f.thr = 64) ∧
    ((kind.writes = true ∧ o.kind.reads = true) ∨
      (kind ≠ .invariant ∧ o.kind ≠ .invariant ∧ s.meets e.addr o.bytes f.addr n = true))

/-- The n bytes at a keyed place stand under the key that reads them there: they read as they are stored (R432). In SRAM
they always do. -/
def State.keyed (s : State) (ka n : Nat) : Prop := ∀ i < n, some (s.writtenUnder (kplace ka + i)) = s.accessKey ka

/-- Of two places in HBM, both are accessed under one key. -/
def State.sameKey (s : State) (p q : Nat) : Prop :=
  isHbm (kplace p) = true → isHbm (kplace q) = true → s.accessKey p = s.accessKey q

/-- Two accesses of n bytes touch no common byte. -/
def apart (n p q : Nat) : Prop := kplace p + n ≤ kplace q ∨ kplace q + n ≤ kplace p

/-- Every byte outside n bytes at each of the places reads as before; of HBM, every byte outside the 16-byte blocks that
hold them, which a store under another key writes anew (R432). Places are where the addresses lead while no migration
record forwards (R296). -/
def sameOutside (s t : State) (n : Nat) (places : List Nat) : Prop :=
  ∀ q, (∀ p ∈ places, q < kplace p ∨ kplace p + n ≤ q) →
    (isHbm q = true → ∀ p ∈ places, q / 16 < kplace p / 16 ∨ (kplace p + n - 1) / 16 < q / 16) →
    t.rdByte q = s.rdByte q

/-- The v-, s-, p-, q- and tile registers, the latches and the flags of the current group are the same. -/
def State.sameRegs (s t : State) : Prop :=
  t.grp.v = s.grp.v ∧ t.grp.s = s.grp.s ∧ t.grp.p = s.grp.p ∧ t.grp.q = s.grp.q ∧ t.grp.t = s.grp.t ∧
  t.grp.b = s.grp.b ∧ t.grp.bvalid = s.grp.bvalid ∧ t.grp.fflags = s.grp.fflags ∧ t.grp.fmode = s.grp.fmode ∧
  t.grp.gens = s.grp.gens ∧ t.grp.blocks = s.grp.blocks ∧ t.grp.priv = s.grp.priv

/-- The state after the release that an instruction of order ord and scope carries (R254). -/
def State.released (s : State) (m : MArgs) : State :=
  if m.ord = 2 ∨ m.ord = 3 then s.releaseAt (coreOf s.cur) m.scope else s

/-! ## Effects beside the registers -/

/-- No byte of memory holds an uncorrectable error, none will be found, and no transfer is about to be lost. -/
def State.clean (s : State) : Prop := s.poison = [] ∧ s.latent = [] ∧ s.crc = []

/-- State t is s with one more outstanding register write, which has its values (R36). -/
def State.owes (s t : State) (c : Clause) (regs : List Reg) (vals : List Word) : Prop :=
  ∃ tok, t.grp.outs = s.grp.outs ++ [{ regs := regs, vals := some vals, tok := tok, slices := c.slices }]

/-- The last outstanding register write of state t is new and has its values. -/
def State.owesLast (s t : State) (c : Clause) (regs : List Reg) (vals : List Word) : Prop :=
  t.grp.outs.length = s.grp.outs.length + 1 ∧
    ∃ tok, t.grp.outs.getLast? = some { regs := regs, vals := some vals, tok := tok, slices := c.slices }

/-- Every byte outside n bytes at each of the places reads as before. -/
def State.onlyAt (s t : State) (areas : List (Nat × Nat)) : Prop :=
  ∀ q, (∀ r ∈ areas, q < r.1 ∨ r.1 + r.2 ≤ q) → t.rdByte q = s.rdByte q

/-- An instruction completes with state t before the clause goes on. -/
def State.completes (s : State) (c : Clause) (i : Instr) (srcs : List Span) (t : State) : Prop :=
  exec i s = .next (t.advance (c.wordsOf 1 srcs) true)

/-- The reply to a command carries the first condition of the list that holds; where none holds, `ok` is the case (R501). -/
def State.replies (s : State) (i : Instr) (dev : Nat) : List (Prop × Nat) → Prop → Prop
  | [], ok => ok
  | (p, st) :: t, ok => (p → exec i s = .next (s.send (.reply dev st 0))) ∧ (¬p → s.replies i dev t ok)

/-- A counter of outstanding operations of a resident group has fallen by 1 (R34). -/
def State.lowered (s t : State) (agent unit cls : Nat) : Prop :=
  (s.grpOf agent).unit = unit →
    FMap.get 0 (t.grpOf agent).ctr cls = FMap.get 0 (s.grpOf agent).ctr cls - 1

/-- The group that an operation was issued by has received these values of an outstanding register write: they stand in
the registers, and the write is outstanding no longer (R36, R268). -/
def State.received (s t : State) (agent unit : Nat) (f : Group → Group) : Prop :=
  (s.grpOf agent).unit = unit →
    let h := f (s.grpOf agent)
    let g := t.grpOf agent
    g.v = h.v ∧ g.s = h.s ∧ g.p = h.p ∧ g.q = h.q ∧ g.t = h.t ∧ g.outs = h.outs

/-! ## Search trees -/

/-- What an engine reads is what memory holds: no error, no write under way, no record that routes or stalls. -/
def State.still (s : State) : Prop := s.clean ∧ s.vis = [] ∧ ∀ p, s.migOf p = none

/-- The nodes p 0 to p n lead from p 0 to the root by PARENT, each met once (R341, R342). -/
def State.rootward (s : State) (t : TreeAt) (p : Nat → Nat) (n : Nat) : Prop :=
  let N (i : Nat) : Node := s.nodeAt t (s.treeD t) (p i)
  n ≤ 4096 ∧ (∀ i ≤ n, p i ≠ noNode) ∧ (∀ i < n, p (i + 1) = (N i).parent) ∧ (N n).parent = noNode ∧
    ∀ i ≤ n, ∀ j ≤ n, p i = p j → i = j

/-- Runs of nodes that lie apart, inside the arena and away from node i. -/
def TreeD.runsApart (d : TreeD) (i : Nat) (runs : List (Nat × Nat)) : Prop :=
  d.cap ≤ 2 ^ 20 ∧ runs.Pairwise (fun a b => a.1 + a.2 ≤ b.1 ∨ b.1 + b.2 ≤ a.1) ∧
    ∀ r ∈ runs, 0 < r.2 ∧ r.1 + r.2 ≤ d.cap ∧ (i < r.1 ∨ r.1 + r.2 ≤ i)

/-- In state u the runs have been freed (R339): they stand at the head of the free list of state s, the highest first. -/
def State.runsFreed (s u : State) (t : TreeAt) (runs : List (Nat × Nat)) : Prop :=
  let d := s.treeD t
  let heads := runs.map Prod.fst
  let top (l : List Nat) : Nat := if l = [] then d.free else l.foldl max 0
  (u.treeD t).free = top heads ∧
    ∀ r ∈ runs, (∀ k < r.2, (u.nodeAt t d (r.1 + k)).st = 7) ∧ (u.nodeAt t d r.1).first = r.2 ∧
      (u.nodeAt t d r.1).parent = top (heads.filter fun h => decide (h < r.1))

/-! ## Real values -/

/-- The real value of a finite number. -/
def FpNum.real : FpNum → ℚ
  | .fin neg m e => (if neg then -1 else 1) * (m : ℚ) * (2 : ℚ) ^ e
  | _ => 0

def FpNum.isFin : FpNum → Bool
  | .fin _ _ _ => true
  | _ => false

/-- A nonnegative real rounded to an integer under a mode (R111); neg says that the number rounded is its negative. -/
def roundQ (mode : Nat) (neg : Bool) (r16 : Nat) (q : ℚ) : ℤ :=
  let f := Int.fract q
  if (mode = 1 ∧ (1 / 2 < f ∨ (f = 1 / 2 ∧ ⌊q⌋ % 2 = 1))) ∨ (mode = 3 ∧ neg = false ∧ 0 < f) ∨
      (mode = 4 ∧ neg = true ∧ 0 < f) ∨ (mode = 5 ∧ 1 / 2 ≤ f) ∨ (mode = 6 ∧ 65536 ≤ ⌊f * 65536⌋ + r16)
  then ⌊q⌋ + 1 else ⌊q⌋

/-- A value is the real x rounded once to a format (R111): a zero for 0. -/
def Fmt.rounds (f : Fmt) (mode : Nat) (v : FpNum) (x : ℚ) : Prop :=
  (x = 0 → v.isZero = true) ∧
  (x ≠ 0 → ∃ n d : Nat, 0 < d ∧ (n : ℚ) / d = |x| ∧ v = f.value (f.roundTo mode false (decide (x < 0)) n d false 0).1)

/-- One addition of a reduction or a prefix sum (R124), with the generator that it draws from under the stochastic mode: the
sum as it is read again, and its flags. -/
def addOnce (ftz : Bool) (mode : Nat) (g : Word) (a b : FpNum) : FpNum × BitVec 5 :=
  let v := if a.isNan || b.isNan then some (.nan false) else sumNum (decide (mode = 4)) [a, b]
  let r := finish32 ftz mode false 0 (drawAt g 0) (a.isSig || b.isSig) v
  (readF32 ftz (BitVec.ofNat 32 r.1), r.2)

/-- A block of the tree of R124: its value with its lowest executing lane, none where no lane of it executes; the flags of
its additions; the generators after their draws. -/
structure Block where
  val : Option (FpNum × Nat)
  fl : BitVec 5
  gens : Nat → Word

/-- Block i of 2^n lanes, from the lanes' values and the generators. -/
def treeOf (ftz : Bool) (mode : Nat) (a : Nat → Option FpNum) : Nat → Nat → (Nat → Word) → Block
  | 0, i, g => ⟨(a i).map fun x => (x, i), 0, g⟩
  | n + 1, i, g =>
    let p := treeOf ftz mode a n (2 * i) g
    let q := treeOf ftz mode a n (2 * i + 1) p.gens
    match p.val, q.val with
    | some (x, l), some (y, _) =>
      let r := addOnce ftz mode (q.gens l) x y
      ⟨some (r.1, l), p.fl ||| q.fl ||| r.2, fun k => if mode = 6 ∧ k = l then advGen (q.gens k) else q.gens k⟩
    | some x, none => ⟨some x, p.fl ||| q.fl, q.gens⟩
    | none, y => ⟨y, p.fl ||| q.fl, q.gens⟩

/-- The running sum of some lanes, the first one's value unrounded, each other one drawing from its own generator. -/
def runOf (ftz : Bool) (mode : Nat) (a : Nat → FpNum) (g : Nat → Word) : List Nat → FpNum
  | [] => .fin false 0 0
  | k :: t => t.foldl (fun m j => (addOnce ftz mode (g j) m (a j)).1) (a k)

/-- A sum as it is delivered: the canonical NaN for a NaN. -/
def delivered (a : FpNum) : Word := BitVec.ofNat 32 (fp32.ofNum 1 false 0 a).1

end Sys2Proof.Machine
end

