-- ==== Sys2Proof/WellFormed.lean ====
section
/-!
DEFINITION. Well-formed instructions: those that the check of a clause (R41) lets through on their own words, for a group
with every privilege, every feature and every extended block. What the check refuses because of an instruction's place in
its clause (R40, R56, R185, R244) is not a matter of one instruction.
-/
namespace Sys2Proof.Machine

/-- A fetch that refuses nothing for want of privilege, a feature or a block. -/
def FetchAs.full : FetchAs := { priv := true, steer := false, feat := 0x7FF, blocks := 15 }

/-- An instruction's words as the check sees them. -/
def rawOf (i : Instr) : Raw :=
  match encode i with
  | [] => { idx := 0, broken := true }
  | [w] => { idx := 0, w := w.toNat }
  | w :: m :: _ => { idx := 0, w := w.toNat, m := m.toNat }

/-- The check lets the instruction through. A mod prefix stands in front of another instruction; by itself only its rounding
mode can be reserved (R61). A row without a word is never part of a clause. -/
def wellFormed (i : Instr) : Bool :=
  match i with
  | .modPrefix _ r _ _ _ _ _ _ _ => decide (r ≠ 7)
  | _ => decide (encode i = []) || !(rawOf i).illegal FetchAs.full

end Sys2Proof.Machine
end

