-- ==== Sys2Proof/Certificates/Slice0/Obligations.lean ====
section
/-!
DEFINITION. The statements for the provers. Each docstring names the rule of the spec that the statement formalises.
-/
open Sys2Proof Sys2Proof.Machine

/-! ## Integer instructions -/

/-- R136: the two-source integer instructions, over all operands, with and without SAT (R132), and their frame. -/
def Obligations.IntegerArithmetic : Prop :=
  ∀ (s : State) (c : Clause) (w : BitVec 1) (d a b : BitVec 8),
    s.ready c (ops [a, b]) (destSpan w d 1) → legalDest d = true →
    let x := s.found c 1
    let lands (i : Instr) (f : Word → Word → Word) : Prop :=
      LandsInt s c (ops [a, b]) w d (fun l => f (x.src a.toNat l) (x.src b.toNat l)) (exec i s)
    lands (.iadd w d a b) (fun a b => wrapOrClamp x.m.sat (a.toInt + b.toInt)) ∧
    lands (.isub w d a b) (fun a b => wrapOrClamp x.m.sat (a.toInt - b.toInt)) ∧
    lands (.imul w d a b) (fun a b => wrapOrClamp x.m.sat (a.toInt * b.toInt)) ∧
    lands (.imulhs w d a b) (fun a b => (BitVec.ofInt 64 (a.toInt * b.toInt)).extractLsb' 32 32) ∧
    lands (.imulhu w d a b) (fun a b => (BitVec.ofNat 64 (a.toNat * b.toNat)).extractLsb' 32 32) ∧
    lands (.imin w d a b) (fun a b => if a.toInt ≤ b.toInt then a else b) ∧
    lands (.imax w d a b) (fun a b => if a.toInt ≤ b.toInt then b else a) ∧
    lands (.umin w d a b) (fun a b => if a.toNat ≤ b.toNat then a else b) ∧
    lands (.umax w d a b) (fun a b => if a.toNat ≤ b.toNat then b else a) ∧
    lands (.and w d a b) (fun a b => a &&& b) ∧
    lands (.or w d a b) (fun a b => a ||| b) ∧
    lands (.xor w d a b) (fun a b => a ^^^ b) ∧
    lands (.andn w d a b) (fun a b => a &&& ~~~b)

/-- R137: the shifts and the bit-field instructions, by the numbers that they form; bfi takes C by R131. -/
def Obligations.ShiftsAndFields : Prop :=
  ∀ (s : State) (c : Clause) (w : BitVec 1) (d a b : BitVec 8), legalDest d = true →
    let x := s.found c 1
    let k := c.third d
    let lands (i : Instr) (f : Word → Word → Word) : Prop :=
      LandsInt s c (ops [a, b]) w d (fun l => f (x.src a.toNat l) (x.src b.toNat l)) (exec i s)
    let off (b : Word) : Nat := (b.extractLsb' 0 5).toNat
    let wid (b : Word) : Nat := min (b.extractLsb' 8 6).toNat (32 - off b)
    let mask (b : Word) : Word := BitVec.ofNat 32 ((2 ^ wid b - 1) * 2 ^ off b)
    (s.ready c (ops [a, b]) (destSpan w d 1) →
      lands (.shl w d a b) (fun a b =>
        let n := (b.extractLsb' 0 6).toNat
        if 32 ≤ n then 0 else BitVec.ofNat 32 (a.toNat * 2 ^ n)) ∧
      lands (.shr w d a b) (fun a b =>
        let n := (b.extractLsb' 0 6).toNat
        if 32 ≤ n then 0 else BitVec.ofNat 32 (a.toNat / 2 ^ n)) ∧
      lands (.sar w d a b) (fun a b =>
        let n := (b.extractLsb' 0 6).toNat
        if 32 ≤ n then (if a.getLsbD 31 then 0xFFFFFFFF else 0) else BitVec.ofInt 32 (a.toInt / 2 ^ n)) ∧
      lands (.bfe w d a b) (fun a b => BitVec.ofNat 32 (a.toNat / 2 ^ off b % 2 ^ wid b))) ∧
    (s.ready c (ops [a, b, k]) (destSpan w d 1) →
      LandsInt s c (ops [a, b, k]) w d (fun l =>
        let b := x.src b.toNat l
        (x.src k.toNat l &&& ~~~(mask b)) ||| (BitVec.ofNat 32 ((x.src a.toNat l).toNat * 2 ^ off b) &&& mask b))
        (exec (.bfi w d a b) s))

/-- R138: imad and sel, with C from the prefix or from the destination (R131). -/
def Obligations.ThreeSources : Prop :=
  ∀ (s : State) (c : Clause) (w : BitVec 1) (d a b : BitVec 8),
    s.ready c (ops [a, b, c.third d]) (destSpan w d 1) → legalDest d = true →
    let x := s.found c 1
    let k := c.third d
    LandsInt s c (ops [a, b, k]) w d (fun l =>
      wrapOrClamp x.m.sat ((x.src a.toNat l).toInt * (x.src b.toNat l).toInt + (x.src k.toNat l).toInt))
      (exec (.imad w d a b) s) ∧
    LandsInt s c (ops [a, b, k]) w d (fun l => if x.src k.toNat l = 0 then x.src b.toNat l else x.src a.toNat l)
      (exec (.sel w d a b) s)

/-- R140, R142: the integer compares deliver 1 when the relation holds and 0 otherwise, with no flag (R141); the one-source
integer functions, each by the bits of its source. -/
def Obligations.IntegerComparesAndUnary : Prop :=
  (∀ (s : State) (c : Clause) (w : BitVec 1) (d a b : BitVec 8),
     s.ready c (ops [a, b]) (destSpan w d 1) → legalDest d = true →
     let x := s.found c 1
     let lands (i : Instr) (f : Word → Word → Word) : Prop :=
       LandsInt s c (ops [a, b]) w d (fun l => f (x.src a.toNat l) (x.src b.toNat l)) (exec i s)
     lands (.ieq w d a b) (fun a b => truth (a.toNat = b.toNat)) ∧
     lands (.ine w d a b) (fun a b => truth (a.toNat ≠ b.toNat)) ∧
     lands (.ilt w d a b) (fun a b => truth (a.toInt < b.toInt)) ∧
     lands (.ile w d a b) (fun a b => truth (a.toInt ≤ b.toInt)) ∧
     lands (.ult w d a b) (fun a b => truth (a.toNat < b.toNat)) ∧
     lands (.ule w d a b) (fun a b => truth (a.toNat ≤ b.toNat))) ∧
  (∀ (s : State) (c : Clause) (w : BitVec 1) (d a : BitVec 8),
     s.ready c (ops [a]) (destSpan w d 1) → legalDest d = true →
     let x := s.found c 1
     let lands (i : Instr) (f : Word → Word) : Prop :=
       LandsInt s c (ops [a]) w d (fun l => f (x.src a.toNat l)) (exec i s)
     lands (.mov w d a) (fun a => a) ∧
     lands (.not w d a) (fun a => BitVec.ofNat 32 (2 ^ 32 - 1 - a.toNat)) ∧
     lands (.clz w d a) (fun a => BitVec.ofNat 32 (((List.range 32).find? fun i => a.getLsbD (31 - i)).getD 32)) ∧
     lands (.ctz w d a) (fun a => BitVec.ofNat 32 (((List.range 32).find? fun i => a.getLsbD i).getD 32)) ∧
     lands (.popc w d a) (fun a => BitVec.ofNat 32 ((List.range 32).countP fun i => a.getLsbD i)) ∧
     lands (.brev w d a) (fun a => a.reverse) ∧
     lands (.sext8 w d a) (fun a => BitVec.ofInt 32 (a.extractLsb' 0 8).toInt) ∧
     lands (.sext16 w d a) (fun a => BitVec.ofInt 32 (a.extractLsb' 0 16).toInt) ∧
     lands (.zext8 w d a) (fun a => BitVec.ofNat 32 (a.toNat % 2 ^ 8)) ∧
     lands (.zext16 w d a) (fun a => BitVec.ofNat 32 (a.toNat % 2 ^ 16)))

/-- R55, R155: the instructions that write a register pair (R139), and the moves of whole predicate sets (R143), with their
latches. The model's choices beside these rules: pkp of 0xCC with a v or p destination (log entry 99), and an s pair as a source
of a per-thread iadd64 (100). -/
def Obligations.PairsAndPredicateSets : Prop :=
  ∀ (s : State) (c : Clause) (w : BitVec 1) (d a b : BitVec 8),
    let x := s.found c 1
    let pair : Prop := (isV d.toNat ∨ isS d.toNat) ∧ d.toNat % 2 = 0
    let nb := if isV b.toNat || isS b.toNat then 2 else 1
    (pair → s.ready c [(a.toNat, 2), (b.toNat, nb)] (destSpan w d 2) →
      LandsPair s c [(a.toNat, 2), (b.toNat, nb)] w d
        (fun l => BitVec.ofNat 64 (x.src64 a.toNat l) + BitVec.ofNat 64 (x.src64 b.toNat l)) (exec (.iadd64 w d a b) s)) ∧
    (pair → s.ready c (ops [a]) (destSpan w d 2) →
      LandsPair s c (ops [a]) w d (fun _ => lanesOf fun l => x.ex.getLsbD l && decide (x.src a.toNat l ≠ 0))
        (exec (.ballot w d a) s)) ∧
    (a = 0xC4 → legalDest d → s.ready c ((List.range 8).map fun i => (0xC4 + i, 1)) (destSpan w d 1) →
      LandsInt s c ((List.range 8).map fun i => (0xC4 + i, 1)) w d
        (fun l => BitVec.ofNat 32 ((List.range 8).map fun i => if (s.grp.pAt i).getLsbD l then 2 ^ i else 0).sum)
        (exec (.pkp w d a) s)) ∧
    (a = 0xCC → legalDest d → s.ready c ((List.range 8).map fun i => (0xCC + i, 1)) (destSpan w d 1) →
      LandsInt s c ((List.range 8).map fun i => (0xCC + i, 1)) w d
        (fun _ => BitVec.ofNat 32 (s.grp.q.toNat + 2 ^ 7)) (exec (.pkp w d a) s)) ∧
    (d = 0xC4 → s.ready c (ops [a]) (destSpan w d 8) →
      ∃ h, Kept x (destSpan w d 8) h ∧ h.v = x.g.v ∧ h.s = x.g.s ∧ h.q = x.g.q ∧ h.fflags = x.g.fflags ∧
        h.gens = x.g.gens ∧ h.bvalid = x.g.bvalid ||| (1#4 <<< (c.k % 4)) ∧
        (∀ i l, i < 8 → l < 64 → (h.pAt i).getLsbD l =
          if w = 0 ∧ x.ex.getLsbD l then (x.src a.toNat l).getLsbD i else (x.g.pAt i).getLsbD l) ∧
        (∀ i l, i < 4 → l < 64 → h.bAt i l =
          if i = c.k % 4 then (if x.ex.getLsbD l ∧ (x.src a.toNat l).toNat % 256 ≠ 0 then 1 else 0) else x.g.bAt i l) ∧
        exec (.upkp w d a) s = .next ((s.setGrp h).advance (c.wordsOf 1 (ops [a])) true)) ∧
    (d = 0xCC → s.ready c (ops [a]) (destSpan w d 8) →
      ∃ h, Kept x (destSpan w d 8) h ∧ h.v = x.g.v ∧ h.s = x.g.s ∧ h.p = x.g.p ∧ h.fflags = x.g.fflags ∧
        h.gens = x.g.gens ∧ h.bvalid = x.g.bvalid ||| (1#4 <<< (c.k % 4)) ∧
        h.q = (if w = 0 then (x.uni a.toNat).setWidth 7 else x.g.q) ∧
        (∀ i l, i < 4 → l < 64 → h.bAt i l =
          if i = c.k % 4 then (if (x.uni a.toNat).toNat % 256 ≠ 0 then 1 else 0) else x.g.bAt i l) ∧
        exec (.upkp w d a) s = .next ((s.setGrp h).advance (c.wordsOf 1 (ops [a])) true))

/-! ## Number formats and rounding -/

/-- R100, R101, R111, R112: each format's width, largest finite value, least normal and least subnormal, and its canonical NaN;
RoundTo of a positive or negative real n / d, by the letter of the rule over the rationals: the exponent of the binade,
the quotient by the ulp, the integer that each mode chooses, the value and the flags; what overflow delivers. R61, R118,
R119, R132: an FP32 result of a lane is the exact value times its SCL factor, rounded once, clamped under SAT, and under FTZ
a subnormal delivered as zero with UF and NX; NF for a non-finite delivery (that the clamp adds no NX is the model's
reading, log entry 97). -/
def Obligations.NumberFormatsAndRounding : Prop :=
  (let row (f : Fmt) (w : Nat) (top normal least : ℚ) : Prop :=
     f.width = w ∧ (f.value (f.maxBits false)).real = top ∧ (f.value (f.maxBits true)).real = -top ∧
     (f.value (2 ^ f.mb)).real = normal ∧ (f.value 1).real = least ∧ f.value 0 = .fin false 0 (1 - f.bias - f.mb)
   row fp32 32 ((2 - 2 ^ (-23 : ℤ)) * 2 ^ (127 : ℤ)) (2 ^ (-126 : ℤ)) (2 ^ (-149 : ℤ)) ∧
   row fp16 16 65504 (2 ^ (-14 : ℤ)) (2 ^ (-24 : ℤ)) ∧
   row bf16 16 ((2 - 2 ^ (-7 : ℤ)) * 2 ^ (127 : ℤ)) (2 ^ (-126 : ℤ)) (2 ^ (-133 : ℤ)) ∧
   row e4m3 8 448 (2 ^ (-6 : ℤ)) (2 ^ (-9 : ℤ)) ∧ row e5m2 8 57344 (2 ^ (-14 : ℤ)) (2 ^ (-16 : ℤ)) ∧
   row e2m3 6 (15 / 2) 1 (1 / 8) ∧ row e3m2 6 28 (1 / 4) (1 / 16) ∧ row e2m1 4 6 1 (1 / 2) ∧
   fp32.canon = 0x7FC00000 ∧ fp16.canon = 0x7E00 ∧ bf16.canon = 0x7FC0 ∧ e4m3.canon = 0x7F ∧ e5m2.canon = 0x7E ∧
   e4m3.value 0x7F = .nan false ∧ e4m3.value 0xFF = .nan false ∧ fp32.value 0x7F800000 = .inf false ∧
   fp32.value 0xFF800000 = .inf true ∧ fp32.value 0x7F800001 = .nan true ∧ fp32.value 0x7FC00000 = .nan false) ∧
  (∀ (f : Fmt) (mode : Nat) (sat neg : Bool) (n d r16 : Nat),
     f ∈ [fp32, fp16, bf16, e4m3, e5m2, e2m3, e3m2, e2m1] → 1 ≤ mode → mode ≤ 6 → 0 < n → 0 < d → r16 < 65536 →
     let x : ℚ := n / d
     let emin : ℤ := 1 - f.bias
     let e : ℤ := max (Int.log 2 x) emin
     let q : ℚ := x / 2 ^ (e - f.mb)
     let top : ℚ := (f.value (f.maxBits false)).real
     let res := f.roundTo mode sat neg n d false r16
     let y : ℚ := roundQ mode neg r16 q * 2 ^ (e - f.mb)
     (top < y →
       res.2 = fOF ||| fNX ∧
       (sat = true ∨ mode = 2 ∨ (mode = 3 ∧ neg = true) ∨ (mode = 4 ∧ neg = false) ∨ f.kind = 2 →
         (f.value res.1).real = (if neg then -top else top)) ∧
       (sat = false → mode = 1 ∨ mode = 5 ∨ mode = 6 ∨ (mode = 3 ∧ neg = false) ∨ (mode = 4 ∧ neg = true) →
         (f.kind = 0 → f.value res.1 = .inf neg) ∧ (f.kind = 1 → res.1 = f.canon))) ∧
     (y ≤ top →
       (f.value res.1).isFin = true ∧ (f.value res.1).isNeg = neg ∧
       (f.value res.1).real = (if neg then -y else y) ∧ res.1 < 2 ^ f.width ∧
       (fNX &&& res.2 ≠ 0 ↔ y ≠ x) ∧ (fUF &&& res.2 ≠ 0 ↔ y ≠ x ∧ y < 2 ^ emin) ∧ fOF &&& res.2 = 0)) ∧
  (∀ (ftz sat neg sig : Bool) (mode m r16 : Nat) (scl e : Int), 1 ≤ mode → mode ≤ 6 → m ≠ 0 → r16 < 65536 →
     let t := finish32 ftz mode sat scl r16 sig (some (.fin neg m e))
     ∃ n d : Nat, 0 < d ∧ (n : ℚ) / d = m * 2 ^ (e + scl) ∧
       let q := fp32.roundTo mode false neg n d false r16
       let c := if sat then fp32.clamp01 q.1 else q.1
       let tiny : Prop := ftz = true ∧ (fp32.value c).real ≠ 0 ∧ |(fp32.value c).real| < 2 ^ (-126 : ℤ)
       t.1 = (if (fp32.value c).isFin = true ∧ tiny then (if (fp32.value c).isNeg then 2 ^ 31 else 0) else c) ∧
       t.2 = q.2 ||| (if (fp32.value c).isFin = true ∧ tiny then fUF ||| fNX else 0) ||| (if sig then fIV else 0) |||
         (if (fp32.value t.1).isFin then 0 else fNF)) ∧
  (∀ (ftz sat sig : Bool) (mode r16 : Nat) (scl e : Int) (b : Bool),
     let fin (v : Option FpNum) : Nat × BitVec 5 := finish32 ftz mode sat scl r16 sig v
     (fin none).1 = (if sat then 0 else fp32.canon) ∧
     (fin none).2 = fIV ||| (if sig then fIV else 0) ||| (if sat then 0 else fNF) ∧
     (sat = false → (fin (some (.nan false))).1 = fp32.canon ∧ (fin (some (.inf b))).1 = fp32.infBits b ∧
       (fin (some (.fin b 0 e))).1 = if b then 2 ^ 31 else 0) ∧
     (sat = true → (fin (some (.nan false))).1 = 0 ∧ (fin (some (.inf b))).1 = (if b then 0 else 0x3F800000) ∧
       (fin (some (.fin b 0 e))).1 = 0))

/-- R99, R123, R144: the sums and products that the lane instructions round are exact, whatever their operands, and an
invalid one is known for what it is. -/
def Obligations.SumsAndProductsAreExact : Prop :=
  (∀ a b : FpNum, a.isFin = true → b.isFin = true →
    (∃ v, a.mul b = some v ∧ v.isFin = true ∧ v.real = a.real * b.real ∧ v.isNeg = (a.isNeg != b.isNeg)) ∧
    ∀ rdn, ∃ v, sumNum rdn [a, b] = some v ∧ v.isFin = true ∧ v.real = a.real + b.real ∧
      (v.real = 0 → v.isNeg = if a.isZero = true ∧ b.isZero = true ∧ a.isNeg = b.isNeg then a.isNeg else rdn)) ∧
  (∀ (rdn : Bool) (a b c : FpNum), a.isFin = true → b.isFin = true → c.isFin = true →
    ∃ v, fmaNum rdn a b c = some v ∧ v.isFin = true ∧ v.real = a.real * b.real + c.real) ∧
  (∀ (rdn : Bool) (a b c d e : FpNum), a.isFin = true → b.isFin = true → c.isFin = true → d.isFin = true →
    e.isFin = true →
    ∃ v, dotNum rdn a b c d e = some v ∧ v.isFin = true ∧ v.real = a.real * b.real + c.real * d.real + e.real) ∧
  (∀ (rdn p q : Bool), sumNum rdn [.inf p, .inf q] = if p = q then some (.inf p) else none) ∧
  (∀ (p q : Bool) (e : Int), FpNum.mul (.inf p) (.fin q 0 e) = none ∧ FpNum.mul (.fin q 0 e) (.inf p) = none)

/-! ## Floating-point instructions -/

/-- R144: fadd, fsub, fmul and ffma: each lane rounds the exact result of its sources, read under FTZ with ABS and NEG
applied (R61, R118), once; a NaN source gives the canonical NaN, a signalling one IV; RDN decides the sign of a cancelled
sum; C of ffma comes by R131. What `finish32` makes of the exact value: NumberFormatsAndRounding. -/
def Obligations.FloatArithmetic : Prop :=
  ∀ (s : State) (c : Clause) (w : BitVec 1) (d a b : BitVec 8), legalDest d = true →
    let x := s.found c 1
    let k := c.third d
    let A (l : Nat) : FpNum := modNum x.m.absa x.m.nega (readF32 x.ftz (x.src a.toNat l))
    let B (l : Nat) : FpNum := modNum x.m.absb x.m.negb (readF32 x.ftz (x.src b.toNat l))
    let C (l : Nat) : FpNum := modNum false x.m.negc (readF32 x.ftz (x.src k.toNat l))
    let rdn := decide (x.mode = 4)
    let rounds (ns : List FpNum) (v : Option FpNum) (r : Nat → Nat) : Word × BitVec 5 :=
      fres (finish32 x.ftz x.mode x.m.sat x.scl (r 0) (ns.any FpNum.isSig)
        (if ns.any FpNum.isNan then some (.nan false) else v))
    (s.ready c (ops [a, b]) (destSpan w d 1) →
      LandsDraw s c (ops [a, b]) w d 1 (fun l r => rounds [A l, B l] (sumNum rdn [A l, B l]) r) (exec (.fadd w d a b) s) ∧
      LandsDraw s c (ops [a, b]) w d 1 (fun l r => rounds [A l, B l] (sumNum rdn [A l, (B l).neg]) r)
        (exec (.fsub w d a b) s) ∧
      LandsDraw s c (ops [a, b]) w d 1 (fun l r => rounds [A l, B l] ((A l).mul (B l)) r) (exec (.fmul w d a b) s)) ∧
    (s.ready c (ops [a, b, k]) (destSpan w d 1) →
      LandsDraw s c (ops [a, b, k]) w d 1 (fun l r => rounds [A l, B l, C l] (fmaNum rdn (A l) (B l) (C l)) r)
        (exec (.ffma w d a b) s))

/-- R132: what SAT delivers from a floating instruction is a number from +0 to 1.0, never a NaN and never −0. -/
def Obligations.SatStaysInTheUnitInterval : Prop :=
  ∀ (ftz : Bool) (mode : Nat) (scl : Int) (r16 : Nat) (sig : Bool) (v : Option FpNum), 1 ≤ mode → mode ≤ 6 → r16 < 65536 →
    let r := fp32.value (finish32 ftz mode true scl r16 sig v).1
    r.isFin = true ∧ r.isNeg = false ∧ 0 ≤ r.real ∧ r.real ≤ 1

/-- R145, R146: fmin and fmax deliver one source unrounded; the compares deliver 1 or 0 by the real values of their
sources, and a signalling NaN sets IV except in funo. -/
def Obligations.FloatCompares : Prop :=
  (∀ (s : State) (c : Clause) (w : BitVec 1) (d a b : BitVec 8),
    s.ready c (ops [a, b]) (destSpan w d 1) → legalDest d = true →
    let x := s.found c 1
    let A (l : Nat) : FpNum := modNum x.m.absa x.m.nega (readF32 x.ftz (x.src a.toNat l))
    let B (l : Nat) : FpNum := modNum x.m.absb x.m.negb (readF32 x.ftz (x.src b.toNat l))
    let iv (l : Nat) : BitVec 5 := if (A l).isSig || (B l).isSig then fIV else 0
    let lands (i : Instr) (f : FpNum → FpNum → Bool) : Prop :=
      LandsDraw s c (ops [a, b]) w d 0 (fun l _ => (if f (A l) (B l) then 1 else 0, iv l)) (exec i s)
    LandsDraw s c (ops [a, b]) w d 0 (fun l _ => fres (minMax fp32 true (A l) (B l))) (exec (.fmin w d a b) s) ∧
    LandsDraw s c (ops [a, b]) w d 0 (fun l _ => fres (minMax fp32 false (A l) (B l))) (exec (.fmax w d a b) s) ∧
    lands (.feq w d a b) (fun p q => !(p.isNan || q.isNan) && p.eqv q) ∧
    lands (.fne w d a b) (fun p q => (p.isNan || q.isNan) || !p.eqv q) ∧
    lands (.flt w d a b) (fun p q => !(p.isNan || q.isNan) && p.lt q) ∧
    lands (.fle w d a b) (fun p q => !(p.isNan || q.isNan) && (p.lt q || p.eqv q)) ∧
    LandsDraw s c (ops [a, b]) w d 0 (fun l _ => (if (A l).isNan || (B l).isNan then 1 else 0, 0))
      (exec (.funo w d a b) s)) ∧
  (∀ a b : FpNum, a.isFin = true → b.isFin = true →
    (a.lt b = true ↔ a.real < b.real) ∧ (a.eqv b = true ↔ a.real = b.real)) ∧
  (∀ a b : Nat, a < 2 ^ 32 → b < 2 ^ 32 → (fp32.value a).isFin = true → (fp32.value b).isFin = true →
    ((minMax fp32 true (fp32.value a) (fp32.value b)).1 = a ∨ (minMax fp32 true (fp32.value a) (fp32.value b)).1 = b) ∧
    (fp32.value (minMax fp32 true (fp32.value a) (fp32.value b)).1).real = min (fp32.value a).real (fp32.value b).real ∧
    (fp32.value (minMax fp32 false (fp32.value a) (fp32.value b)).1).real = max (fp32.value a).real (fp32.value b).real) ∧
  (∀ least a, a < 2 ^ 32 → (fp32.value a).isNan = false →
    ∀ q, (minMax fp32 least (.nan q) (fp32.value a)).1 = a ∧ (minMax fp32 least (fp32.value a) (.nan q)).1 = a)

/-- R114, R115, R147, R148: the special sources of the functions, pattern and flags; 1 / a, 1 / √a and √a rounded from
the exact value or from one just below it that no rounding can tell from it; fex2 of an integer and flg2 of a power of two,
which are exact; fex2, flg2, fsin and fcos of every other finite source, by the real function;
conversions to an integer round once and saturate, conversions to E8M0 choose a power of two, fround and ffrac round the
value that the rule names, and fclass sets the one bit of its source's class. -/
def Obligations.ValuesOfFunctionsAndConversions : Prop :=
  (∀ (ftz : Bool) (mode : Nat) (scl : Int) (r16 : Nat) (e : Int), 1 ≤ mode → mode ≤ 6 → r16 < 65536 →
     let f (k : Nat) (a : FpNum) : FRes := funOp k ftz mode false scl r16 a
     let inf (neg : Bool) : Nat := if neg then 0xFF800000 else 0x7F800000
     let zero (neg : Bool) : Nat := if neg then 0x80000000 else 0
     (∀ neg, f 0 (.fin neg 0 e) = (inf neg, fNF) ∧ f 1 (.fin neg 0 e) = (inf neg, fNF) ∧
       f 2 (.fin neg 0 e) = (zero neg, 0) ∧ f 4 (.fin neg 0 e) = (0xFF800000, fNF) ∧ f 5 (.fin neg 0 e) = (zero neg, 0) ∧
       (scl = 0 → f 3 (.fin neg 0 e) = (0x3F800000, 0) ∧ f 6 (.fin neg 0 e) = (0x3F800000, 0))) ∧
     (∀ neg, f 0 (.inf neg) = (zero neg, 0)) ∧ f 1 (.inf false) = (0, 0) ∧ f 2 (.inf false) = (0x7F800000, fNF) ∧
     f 3 (.inf false) = (0x7F800000, fNF) ∧ f 3 (.inf true) = (0, 0) ∧ f 4 (.inf false) = (0x7F800000, fNF) ∧
     (∀ k ∈ [1, 2, 4, 5, 6], f k (.inf true) = (0x7FC00000, fIV ||| fNF)) ∧
     (∀ k ∈ [5, 6], f k (.inf false) = (0x7FC00000, fIV ||| fNF)) ∧
     (∀ k ∈ [1, 2, 4], ∀ m, 0 < m → f k (.fin true m e) = (0x7FC00000, fIV ||| fNF)) ∧
     (∀ k < 7, ∀ sig, f k (.nan sig) = (0x7FC00000, (if sig then fIV else 0) ||| fNF)) ∧
     (∀ (neg : Bool) (m : Nat), 0 < m → ∃ n d : Nat, 0 < n ∧ 0 < d ∧
       (n : ℚ) / d = 2 ^ scl / ((m : ℚ) * 2 ^ e) ∧
       f 0 (.fin neg m e) = deliverF32 ftz (fp32.roundTo mode false neg n d false r16)) ∧
     (scl = 0 → ∀ m : Nat, 0 < m → m < 2 ^ 24 → -149 ≤ e → e ≤ 104 → ∃ (n d : Nat) (sticky : Bool), 0 < d ∧
       let x : ℚ := 1 / ((m : ℚ) * 2 ^ e)
       ((n : ℚ) / d) ^ 2 ≤ x ∧ x < ((n + 1 : ℚ) / d) ^ 2 ∧ (2 : ℚ) ^ (-200 : ℤ) = 1 / d ∧
       (sticky = false ↔ ((n : ℚ) / d) ^ 2 = x) ∧
       f 1 (.fin false m e) = deliverF32 ftz (fp32.roundTo mode false false n d sticky r16)) ∧
     (scl = 0 → ∀ m : Nat, 0 < m → m < 2 ^ 24 → -149 ≤ e → e ≤ 104 → ∃ (n d : Nat) (sticky : Bool), 0 < d ∧
       ((n : ℚ) / d) ^ 2 ≤ (m : ℚ) * 2 ^ e ∧ (m : ℚ) * 2 ^ e < ((n + 1 : ℚ) / d) ^ 2 ∧ (2 : ℚ) ^ (-200 : ℤ) = 1 / d ∧
       (sticky = false ↔ ((n : ℚ) / d) ^ 2 = (m : ℚ) * 2 ^ e) ∧
       f 2 (.fin false m e) = deliverF32 ftz (fp32.roundTo mode false false n d sticky r16)) ∧
     (scl = 0 → -149 ≤ e → e ≤ 127 → (fp32.value (f 4 (.fin false 1 e)).1).real = e ∧ (f 4 (.fin false 1 e)).2 = 0) ∧
     (scl = 0 → ∀ n : Nat, n ≤ 126 →
       (fp32.value (f 3 (.fin false n 0)).1).real = 2 ^ n ∧ (f 3 (.fin false n 0)).2 = 0 ∧
       (fp32.value (f 3 (.fin true n 0)).1).real = 1 / 2 ^ n ∧ (f 3 (.fin true n 0)).2 = 0) ∧
     -- every other value: 2^x, log2 x, sin x and cos x within far less than a rounding can tell, rounded once
     (scl = 0 → ∀ (neg : Bool) (m : Nat), 0 < m → m < 2 ^ 24 → -149 ≤ e → e ≤ 104 →
       let x : ℝ := (if neg then -1 else 1) * m * 2 ^ e
       let near (k : Nat) (y tol : ℝ) : Prop := ∃ (sign : Bool) (n d : Nat) (sticky : Bool), 0 < d ∧
         let v : ℝ := (if sign then -1 else 1) * (n / d)
         |v - y| ≤ tol ∧ (sticky = false → v = y) ∧
         f k (.fin neg m e) = deliverF32 ftz (fp32.roundTo mode false sign n d sticky r16)
       (|x| < 1024 → near 3 ((2 : ℝ) ^ x) ((2 : ℝ) ^ x * 2 ^ (-300 : ℤ))) ∧
       (1024 ≤ x → f 3 (.fin neg m e) = deliverF32 ftz (fp32.roundTo mode false false (2 ^ 1000) 1 false r16)) ∧
       (x ≤ -1024 → f 3 (.fin neg m e) = deliverF32 ftz (fp32.roundTo mode false false 1 (2 ^ 1000) false r16)) ∧
       (neg = false → near 4 (Real.logb 2 x) (2 ^ (-300 : ℤ))) ∧
       near 5 (Real.sin x) (if |x| < 2 ^ (-60 : ℤ) then |x| * 2 ^ (-110 : ℤ) else 2 ^ (-300 : ℤ)) ∧
       near 6 (Real.cos x) (2 ^ (-300 : ℤ)))) ∧
  (∀ (mode r16 : Nat), 1 ≤ mode → mode ≤ 6 → r16 < 65536 →
     (∀ f, 9 ≤ f → f ≤ 14 →
       let w := if f ≤ 10 then 32 else if f ≤ 12 then 16 else 8
       let lo : ℤ := if f % 2 = 1 then -2 ^ (w - 1) else 0
       let hi : ℤ := if f % 2 = 1 then 2 ^ (w - 1) - 1 else 2 ^ w - 1
       (∀ sig, toInt f mode r16 (.nan sig) = (0, fIV)) ∧
       (∀ (neg : Bool) (m : Nat) (e : ℤ),
         let a : FpNum := .fin neg m e
         let k := roundQ mode neg r16 |a.real|
         let v : ℤ := if neg then -k else k
         (toInt f mode r16 a).1 = (BitVec.ofInt 32 (max lo (min hi v))).toNat ∧
         (toInt f mode r16 a).2 = if v < lo ∨ hi < v then fIV else if (v : ℚ) = a.real then 0 else fNX)) ∧
     (∀ (neg : Bool) (m : Nat) (e : ℤ),
       let x : ℚ := m * 2 ^ e
       (x < 2 ^ (-127 : ℤ) → toE8M0 mode r16 (.fin neg m e) = (0, fUF ||| fNX)) ∧
       (2 ^ (-127 : ℤ) ≤ x →
         let k := Int.log 2 x
         let up : Prop := x ≠ 2 ^ k ∧ ((mode = 1 ∨ mode = 5) ∧ 3 / 2 * 2 ^ k ≤ x ∨ mode = 3 ∨
           mode = 6 ∧ 65536 ≤ ⌊(x / 2 ^ k - 1) * 65536⌋ + r16)
         ∀ j : ℤ, (up → j = k + 1) → (¬up → j = k) →
           (127 < j → toE8M0 mode r16 (.fin neg m e) = (0xFE, fOF ||| fNX)) ∧
           (j ≤ 127 → toE8M0 mode r16 (.fin neg m e) = ((j + 127).toNat, if x = 2 ^ k then 0 else fNX)))) ∧
     (∀ (neg : Bool) (m : Nat) (e : ℤ), (m : ℚ) * 2 ^ e < 2 ^ (128 : ℤ) →
       let a : FpNum := .fin neg m e
       let k := roundQ mode neg r16 |a.real|
       (k < 2 ^ 24 → (fp32.value (froundOp mode false 0 r16 a).1).real = (if neg then -k else k : ℤ) ∧
         (fp32.value (froundOp mode false 0 r16 a).1).isNeg = neg ∧ (froundOp mode false 0 r16 a).2 = 0) ∧
       ∀ ftz, ∃ n d : Nat, 0 < d ∧ (n : ℚ) / d = Int.fract a.real ∧
         ffracOp ftz mode false 0 r16 a = deliverF32 ftz (fp32.roundTo mode false false n d false r16)) ∧
     (∀ a : Word,
       let v := fp32.value a.toNat
       let small : Prop := |v.real| < 2 ^ (-126 : ℤ)
       (fclassOp a = 2 ^ 0 ↔ v = .nan true) ∧ (fclassOp a = 2 ^ 1 ↔ v = .nan false) ∧
       (fclassOp a = 2 ^ 2 ↔ v = .inf true) ∧ (fclassOp a = 2 ^ 9 ↔ v = .inf false) ∧
       (fclassOp a = 2 ^ 5 ↔ v.isZero = true ∧ v.isNeg = true) ∧ (fclassOp a = 2 ^ 6 ↔ v.isZero = true ∧ v.isNeg = false) ∧
       (fclassOp a = 2 ^ 4 ↔ v.isFin = true ∧ v.isZero = false ∧ small ∧ v.isNeg = true) ∧
       (fclassOp a = 2 ^ 7 ↔ v.isFin = true ∧ v.isZero = false ∧ small ∧ v.isNeg = false) ∧
       (fclassOp a = 2 ^ 3 ↔ v.isFin = true ∧ ¬small ∧ v.isNeg = true) ∧
       (fclassOp a = 2 ^ 8 ↔ v.isFin = true ∧ ¬small ∧ v.isNeg = false)))

/-- R147 to R149: each function and each conversion delivers, in every executing lane or once, the value that its rule
gives for its source, read raw by fclass and under FTZ, ABSA and NEGA by the others; the integer zero has no sign for NEGA to
change (log entry 98). -/
def Obligations.FloatFunctions : Prop :=
  ∀ (s : State) (c : Clause) (w : BitVec 1) (d a : BitVec 8) (f : BitVec 4),
    s.ready c (ops [a]) (destSpan w d 1) → legalDest d = true →
    let x := s.found c 1
    let A (l : Nat) : FpNum := modNum x.m.absa x.m.nega (readF32 x.ftz (x.src a.toNat l))
    let lands (i : Instr) (g : FpNum → Nat → FRes) : Prop :=
      LandsDraw s c (ops [a]) w d 1 (fun l r => fres (g (A l) (r 0))) (exec i s)
    let fn (k : Nat) : FpNum → Nat → FRes := fun v r => funOp k x.ftz x.mode x.m.sat x.scl r v
    lands (.frcp w d a) (fn 0) ∧ lands (.frsq w d a) (fn 1) ∧ lands (.fsqrt w d a) (fn 2) ∧
    lands (.fex2 w d a) (fn 3) ∧ lands (.flg2 w d a) (fn 4) ∧ lands (.fsin w d a) (fn 5) ∧ lands (.fcos w d a) (fn 6) ∧
    lands (.ffrac w d a) (fun v r => ffracOp x.ftz x.mode x.m.sat x.scl r v) ∧
    lands (.fround w d a) (fun v r => froundOp x.mode x.m.sat x.scl r v) ∧
    LandsDraw s c (ops [a]) w d 0 (fun l _ => (BitVec.ofNat 32 (fclassOp (x.src a.toNat l)), 0)) (exec (.fclass w d a) s) ∧
    lands (.cvtFromF32 w d a f) (fun v r => cvtFrom f.toNat x.mode x.m.sat x.scl r v) ∧
    LandsDraw s c (ops [a]) w d 1
      (fun l r =>
        let v := cvtSource f.toNat (x.src a.toNat l)
        let u : FpNum := if 9 ≤ f.toNat ∧ v.isZero = true then .fin false 0 0 else modNum x.m.absa x.m.nega v
        fres (deliverF32 x.ftz (fp32.ofNum x.mode x.m.sat (r 0) (u.scale x.scl)))) (exec (.cvtToF32 w d a f) s)

/-- R150, R151: the packed instructions treat each half by itself and draw element 0 first; the dot products round the
sum of two products and an FP32 third source once. -/
def Obligations.PackedAndDot : Prop :=
  ∀ (s : State) (c : Clause) (w : BitVec 1) (d a b : BitVec 8), legalDest d = true →
    let x := s.found c 1
    let k := c.third d
    let rdn := decide (x.mode = 4)
    let half (pk : Nat) (q : BitVec 8) (l i : Nat) : Nat := ((x.srcPk pk q.toNat l).toNat >>> (16 * i)) % 2 ^ 16
    let A (f : Fmt) (pk l i : Nat) : FpNum := modNum x.m.absa x.m.nega (f.value (half pk a l i))
    let B (f : Fmt) (pk l i : Nat) : FpNum := modNum x.m.absb x.m.negb (f.value (half pk b l i))
    let C (f : Fmt) (pk l i : Nat) : FpNum := modNum false x.m.negc (f.value (half pk k l i))
    let one (f : Fmt) (ns : List FpNum) (v : Option FpNum) (r : Nat) : FRes :=
      f.finish x.mode x.m.sat x.scl r (ns.any FpNum.isSig) (if ns.any FpNum.isNan then some (.nan false) else v)
    let both (f : Fmt) (g : Nat → List FpNum × Option FpNum) (r : Nat → Nat) : Word × BitVec 5 :=
      (BitVec.ofNat 32 ((one f (g 0).1 (g 0).2 (r 0)).1 + 2 ^ 16 * (one f (g 1).1 (g 1).2 (r 1)).1),
        (one f (g 0).1 (g 0).2 (r 0)).2 ||| (one f (g 1).1 (g 1).2 (r 1)).2)
    let two (i : Instr) (f : Fmt) (pk : Nat) (op : FpNum → FpNum → Option FpNum) : Prop :=
      LandsDraw s c (ops [a, b]) w d 2
        (fun l r => both f (fun i => ([A f pk l i, B f pk l i], op (A f pk l i) (B f pk l i))) r) (exec i s)
    let three (i : Instr) (f : Fmt) (pk : Nat) : Prop :=
      LandsDraw s c (ops [a, b, k]) w d 2
        (fun l r => both f (fun i => ([A f pk l i, B f pk l i, C f pk l i],
          fmaNum rdn (A f pk l i) (B f pk l i) (C f pk l i))) r) (exec i s)
    let dot (i : Instr) (f : Fmt) (pk : Nat) : Prop :=
      LandsDraw s c (ops [a, b, k]) w d 1 (fun l r =>
        let z := modNum false x.m.negc (readF32 x.ftz (x.srcPk pk k.toNat l))
        let ns := [A f pk l 0, A f pk l 1, B f pk l 0, B f pk l 1, z]
        fres (finish32 x.ftz x.mode x.m.sat x.scl (r 0) (ns.any FpNum.isSig)
          (dotNum rdn (A f pk l 0) (B f pk l 0) (A f pk l 1) (B f pk l 1) z))) (exec i s)
    (s.ready c (ops [a, b]) (destSpan w d 1) →
      two (.hadd2 w d a b) fp16 1 (fun p q => sumNum rdn [p, q]) ∧ two (.hmul2 w d a b) fp16 1 FpNum.mul ∧
      two (.badd2 w d a b) bf16 2 (fun p q => sumNum rdn [p, q]) ∧ two (.bmul2 w d a b) bf16 2 FpNum.mul) ∧
    (s.ready c (ops [a, b, k]) (destSpan w d 1) →
      three (.hfma2 w d a b) fp16 1 ∧ three (.bfma2 w d a b) bf16 2 ∧ dot (.hdot2 w d a b) fp16 1 ∧
      dot (.bdot2 w d a b) bf16 2)

/-! ## Cross-thread instructions -/

/-- R152 to R155: the shuffles and the one-lane reads take from executing lanes only; a source lane outside the executing set
gives 0, and shfx reads its own lane where the source does not exist; votes, reductions and prefix sums run over the
executing lanes alone. -/
def Obligations.CrossLane : Prop :=
  (∀ (s : State) (c : Clause) (w : BitVec 1) (d a b : BitVec 8),
     isV d.toNat = true ∨ isP d.toNat = true → s.ready c (ops [a, b]) (destSpan w d 1) →
     let x := s.found c 1
     let from' (l : Nat) : Word := if l < 64 ∧ x.ex.getLsbD l then x.src a.toNat l else 0
     LandsInt s c (ops [a, b]) w d (fun l => from' ((x.src b.toNat l).extractLsb' 0 6).toNat) (exec (.shfl w d a b) s) ∧
     LandsInt s c (ops [a, b]) w d
       (fun l =>
         let m := ((x.uni b.toNat).extractLsb' 0 6).toNat
         let mode := ((x.uni b.toNat).extractLsb' 6 2).toNat
         if mode = 0 then from' (l ^^^ m)
         else if mode = 1 then (if l < m then x.src a.toNat l else from' (l - m))
         else if mode = 2 then (if 63 < l + m then x.src a.toNat l else from' (l + m))
         else from' ((l + m) % 64))
       (exec (.shfx w d a b) s)) ∧
  (∀ (s : State) (c : Clause) (w : BitVec 1) (d a : BitVec 8),
     s.ready c (ops [a]) (destSpan w d 1) → legalDest d = true →
     let x := s.found c 1
     let A (l : Nat) : Word := x.src a.toNat l
     let ls : List Nat := (List.range 64).filter fun l => x.ex.getLsbD l
     let one (i : Instr) (ok : Word → Prop) : Prop := ∃ v, ok v ∧ LandsInt s c (ops [a]) w d (fun _ => v) (exec i s)
     let holds (b : Prop) (v : Word) : Prop := (b → v = 1) ∧ (¬b → v = 0)
     one (.any w d a) (holds (∃ l ∈ ls, A l ≠ 0)) ∧
     one (.all w d a) (holds (∀ l ∈ ls, A l ≠ 0)) ∧
     one (.radd w d a) (fun v => v = BitVec.ofNat 32 (ls.map fun l => (A l).toNat).sum) ∧
     one (.rmin w d a) (fun v => (∃ l ∈ ls, v = A l) ∧ ∀ l ∈ ls, v.toInt ≤ (A l).toInt) ∧
     one (.rmax w d a) (fun v => (∃ l ∈ ls, v = A l) ∧ ∀ l ∈ ls, (A l).toInt ≤ v.toInt) ∧
     one (.rumin w d a) (fun v => (∃ l ∈ ls, v = A l) ∧ ∀ l ∈ ls, v.toNat ≤ (A l).toNat) ∧
     one (.rumax w d a) (fun v => (∃ l ∈ ls, v = A l) ∧ ∀ l ∈ ls, (A l).toNat ≤ v.toNat) ∧
     one (.rand w d a) (fun v => ∀ i < 32, v.getLsbD i = ls.all fun l => (A l).getLsbD i) ∧
     one (.ror w d a) (fun v => ∀ i < 32, v.getLsbD i = ls.any fun l => (A l).getLsbD i) ∧
     one (.bcst w d a) (fun v => ∃ l ∈ ls, (∀ k ∈ ls, l ≤ k) ∧ v = A l) ∧
     one (.laneFirst w d a) (fun v =>
       ((∀ l ∈ ls, A l = 0) → v = 64) ∧ ∀ l ∈ ls, A l ≠ 0 → (∀ k ∈ ls, A k ≠ 0 → l ≤ k) → v = BitVec.ofNat 32 l) ∧
     (isV d.toNat = true → LandsInt s c (ops [a]) w d
       (fun l => BitVec.ofNat 32 ((ls.filter fun k => decide (k ≤ l)).map fun k => (A k).toNat).sum) (exec (.pfadd w d a) s)))

/-- R124: rfadd adds along the tree of neighbouring blocks and pffadd along the executing lanes in ascending order, with
one rounding under the group's mode and FTZ at each addition; under the stochastic mode an addition draws from the generator
of the lowest lane of its block, or of the lane that it completes, and no other generator advances; a signalling NaN sets
IV, a non-finite delivery NF. -/
def Obligations.FloatSums : Prop :=
  ∀ (s : State) (c : Clause) (w : BitVec 1) (d a : BitVec 8),
    s.ready c (ops [a]) (destSpan w d 1) → legalDest d = true →
    let x := s.found c 1
    let mode := s.grp.fmode.toNat % 8
    let ftz := s.grp.fmode.getLsbD 3
    let A (l : Nat) : FpNum := readF32 ftz (x.src a.toNat l)
    let ls : List Nat := (List.range 64).filter fun l => x.ex.getLsbD l
    let or (l : List (BitVec 5)) : BitVec 5 := l.foldl (fun p q => p ||| q) 0
    let nf (v : FpNum) : BitVec 5 := if v.isFin then 0 else fNF
    (let t := treeOf ftz mode (fun l => if x.ex.getLsbD l then some (A l) else none) 6 0 s.grp.gen
     ∃ r low gens, t.val = some (r, low) ∧ (∀ n, FMap.get 0 gens n = t.gens n) ∧
      Lands s c (ops [a]) w d (fun _ => delivered r)
        (t.fl ||| nf r ||| if r.isSig = true ∨ ∃ l ∈ ls, (A l).isSig = true then fIV else 0) gens (exec (.rfadd w d a) s)) ∧
    (isV d.toNat = true →
      let upTo (l : Nat) : FpNum := runOf ftz mode A s.grp.gen (ls.filter fun k => decide (k ≤ l))
      let before (l : Nat) : FpNum := runOf ftz mode A s.grp.gen (ls.filter fun k => decide (k < l))
      let adds := ls.tail.map fun l => (addOnce ftz mode (s.grp.gen l) (before l) (A l)).2
      ∃ f gens, (∀ l ∈ ls, f l = delivered (upTo l)) ∧
        (∀ n, FMap.get 0 gens n = if mode = 6 ∧ n ∈ ls.tail then advGen (s.grp.gen n) else s.grp.gen n) ∧
        Lands s c (ops [a]) w d f
          (or adds ||| or (ls.map fun l => nf (upTo l)) |||
            if ∃ l ∈ ls, (A l).isSig = true ∨ (upTo l).isSig = true then fIV else 0) gens (exec (.pffadd w d a) s))

/-- R156, R157, R72, R119: the read form of movs delivers the special register's value; clklo captures the upper half for
a later clkhi of the clause; the write form clears sticky flags by ones and sets fmode, whose mode field keeps its value
where the source names none. A mod prefix stands ready for the next instruction; a nop has no effect. -/
def Obligations.SpecialRegistersNopAndMod : Prop :=
  ∀ (s : State) (c : Clause) (w : BitVec 1) (d a : BitVec 8),
    let x := s.found c 1
    let clock := s.cycle - s.grp.clk0
    let core := s.cur / 17
    let value (n : Nat) : Word :=
      if n = 1 then BitVec.ofNat 32 (if c.clk = 0 then clock / 2 ^ 32 else c.clk - 1)
      else if n = 2 then BitVec.ofNat 32 core
      else if n = 3 then BitVec.ofNat 32 (core / 52)
      else if n = 4 then BitVec.ofNat 32 s.mode
      else if n = 5 then BitVec.ofNat 32 (s.unitAt s.grp.unit).uidx
      else if n = 6 then s.grp.fflags.setWidth 32
      else s.grp.fmode.setWidth 32
    (s.ready c [] (destSpan w d 1) → legalDest d = true →
      (∀ n : BitVec 7, 1 ≤ n.toNat → n.toNat ≤ 7 → LandsInt s c [] w d (fun _ => value n.toNat) (exec (.movsRead w d n) s)) ∧
      ∃ h, Wrote x (w == 1) d (fun _ => BitVec.ofNat 32 clock) h ∧
        Kept x (destSpan w d 1) { h with clause := x.g.clause } ∧ h.fflags = s.grp.fflags ∧ h.gens = s.grp.gens ∧
        h.clause = some { x.c with clk := clock / 2 ^ 32 + 1 } ∧
        exec (.movsRead w d 0) s = .next ((s.setGrp h).advance (c.wordsOf 1 []) true)) ∧
    (s.ready c (ops [a]) [] →
      let v := x.uni a.toNat
      exec (.movsWrite a 6) s = .next
        ((s.setGrp { x.g with fflags := s.grp.fflags &&& ~~~(v.setWidth 5) }).advance (c.wordsOf 1 (ops [a])) true) ∧
      ∃ fm : BitVec 4,
        fm.getLsbD 3 = v.getLsbD 3 ∧
        fm.extractLsb' 0 3 = (if v.extractLsb' 0 3 = 0 ∨ v.extractLsb' 0 3 = 7 then s.grp.fmode.extractLsb' 0 3
          else v.extractLsb' 0 3) ∧
        exec (.movsWrite a 7) s = .next
          ((s.setGrp { x.g with fmode := fm }).advance (c.wordsOf 1 (ops [a])) true)) ∧
    (s.ready c [] [] → exec .nop s = .next ((s.setGrp x.g).advance (c.wordsOf 1 []) true)) ∧
    (s.grp.clause = some c → ∀ (k : BitVec 8) (r : BitVec 3) (sat ng nb nc aa ab : BitVec 1) (l : BitVec 4),
      exec (.modPrefix k r sat ng nb nc aa ab l) s = .next (s.setGrp { s.grp with clause := some { c with
        wi := c.wi + 1
        modp := some { c := k, rnd := r, sat := sat == 1, nega := ng == 1, negb := nb == 1, negc := nc == 1
                       absa := aa == 1, absb := ab == 1, scl := l } } }))

/-! ## Control -/

/-- R392, R412 to R415: br and call send the threads whose condition holds to the clause's address plus four times the
offset, jr, ret and jf send every executing thread to a register's address; call and jf.link write s62. A slice that
splits with a full stack, and an address that is no code address of the kind required, trap (R412). The model's readings: an
address that is both misaligned and no code address is ALIGN (log entry 35); INFO 0 of the causes 0x58 and 0x59, and INFO of
ALIGN (34). -/
def Obligations.ControlTransfers : Prop :=
  ∀ (s : State) (c : Clause) (k : BitVec 4) (n l : BitVec 1) (o : BitVec 20) (r : BitVec 6),
    let x := s.found c 1
    let ex := c.threads s.grp
    let p : Lanes := if k.toNat < 8 then s.grp.pAt k.toNat else if s.grp.qAt (k.toNat - 8) then BitVec.allOnes 64 else 0
    let taken : Lanes := ex &&& (if n = 1 then ~~~p else p)
    let code : Span := (if k.toNat < 8 then 0xC4 + k.toNat else 0xCC + (k.toNat - 8), 1)
    let trap (cls cause info : Nat) : Host.Outcome State Fault Refusal := .next (x.s.takeTrap s.cur (x.trap cls cause 0 info))
    (∀ target : Nat, (target : ℤ) = c.base + 4 * o.toInt →
      (s.ready c [code] [] → roomToSplit s.grp c taken target → Transfers s c taken target false (exec (.br k n o) s)) ∧
      (s.ready c [code] [spanS 62 1] → roomToSplit s.grp c taken target →
        Transfers s c taken target (decide (taken ≠ 0)) (exec (.call k n o) s)) ∧
      (s.ready c [code] [] → ¬roomToSplit s.grp c taken target → exec (.br k n o) s = trap 3 0x58 0) ∧
      (s.ready c [code] [spanS 62 1] → ¬roomToSplit s.grp c taken target → exec (.call k n o) s = trap 3 0x58 0)) ∧
    (let target := (s.grp.sAt r.toNat).toNat
     s.ready c [spanS r.toNat 1] [] →
      (target % 4 = 0 → target / 4096 = c.base / 4096 → target < 2 ^ 18 →
        (roomToSplit s.grp c ex target → Transfers s c ex target false (exec (.jr r) s)) ∧
        (¬roomToSplit s.grp c ex target → exec (.jr r) s = trap 3 0x58 0)) ∧
      (target % 4 ≠ 0 → exec (.jr r) s = trap 4 0 target) ∧
      (target % 4 = 0 → target / 4096 ≠ c.base / 4096 ∨ 2 ^ 18 ≤ target → exec (.jr r) s = trap 3 0x59 0)) ∧
    (let target := (s.grp.sAt 62).toNat
     s.ready c [spanS 62 1] [] →
      (target % 4 = 0 → target / 4096 = c.base / 4096 → target < 2 ^ 18 →
        (roomToSplit s.grp c ex target → Transfers s c ex target false (exec .ret s)) ∧
        (¬roomToSplit s.grp c ex target → exec .ret s = trap 3 0x58 0)) ∧
      (target % 4 ≠ 0 → exec .ret s = trap 4 0 target) ∧
      (target % 4 = 0 → target / 4096 ≠ c.base / 4096 ∨ 2 ^ 18 ≤ target → exec .ret s = trap 3 0x59 0)) ∧
    (let target := (s.grp.sAt r.toNat).toNat
     s.ready c [spanS r.toNat 1] (if l = 1 then [spanS 62 1] else []) →
      (target % 4 = 0 → target < 2 ^ 18 →
        (roomToSplit s.grp c ex target → Transfers s c ex target (l == 1) (exec (.jf r l) s)) ∧
        (¬roomToSplit s.grp c ex target → exec (.jf r l) s = trap 3 0x58 0)) ∧
      (target % 4 ≠ 0 → exec (.jf r l) s = trap 4 0 target) ∧
      (target % 4 = 0 → 2 ^ 18 ≤ target → exec (.jf r l) s = trap 3 0x59 0))

/-- R38, R393, R396, R416: exit clears the mask bits of the executing threads, and the other threads of the path go on to
the next clause; nothing else of the group changes before the clause ends. An exit that finishes its group waits at 255 closed
batches, since it closes one more (R35, R176), and while the group holds objects and has an access to perform (R263, R265). -/
def Obligations.ExitClearsMasks : Prop :=
  ∀ (s : State) (c : Clause), s.ready c [] [] →
    let x := s.found c 1
    ∃ h : Group, h.slices.length = s.grp.slices.length ∧
      (∀ i y z, s.grp.slices[i]? = some y → h.slices[i]? = some z →
        z = if c.slices.getLsbD i = true ∧ y.finished = false then
            { y with mask := y.mask &&& ~~~((c.threads s.grp >>> (4 * i)).setWidth 4), pc := c.after, fell := c.left }
          else y) ∧
      { h with slices := x.g.slices } = x.g ∧
      let waits : Prop := h.resolveAll.finished = true ∧ isSteer s.cur = false ∧ (255 ≤ FMap.get 0 s.grp.ctr 2 ∨
        (s.grp.holds ≠ [] ∧ ∃ o ∈ s.stalled, o.agent = s.cur ∧ o.unit = s.grp.unit ∧ o.drain = none))
      (waits → exec .exit s = .next s.blocked) ∧ (¬waits → exec .exit s = .next (s.setGrp h).closeClause)

/-- R404, R405: xreg.acq of blocks that the pool has free, with nobody in front, maps them at once, and their registers
read 0; where the pool has too few free, the path parks at the end of the queue; xreg.rel gives the mapped blocks back. A
block already mapped and a request beyond the pool's capacity are ACCESS, with INFO 0 by the model's reading (log entry 34). -/
def Obligations.ExtendedRegisters : Prop :=
  ∀ (s : State) (c : Clause) (m : BitVec 4), s.ready c [] [] →
    let x := s.found c 1
    let core := coreOf s.cur
    let n := (List.range 4).countP fun i => m.getLsbD i
    (s.grp.blocks &&& m = 0 → (s.coreAt core).xq = [] → n ≤ s.poolCap core → n ≤ s.poolFree core →
      ∃ t : State, exec (.xregAcq m) s = .next t.closeClause ∧ t.grp.blocks = s.grp.blocks ||| m ∧ t.mem = s.mem ∧
        (t.coreAt core).xq = [] ∧
        (∀ r l, 64 ≤ r → r < 128 → m.getLsbD ((r - 64) / 16) = true → t.grp.vAt r l = 0) ∧
        (∀ r l, r < 64 → t.grp.vAt r l = s.grp.vAt r l) ∧ t.grp.s = s.grp.s ∧ t.grp.p = s.grp.p ∧ t.grp.q = s.grp.q) ∧
    (s.grp.blocks &&& m = 0 → (s.coreAt core).xq = [] → n ≤ s.poolCap core → s.poolFree core < n →
      ∃ t : State, exec (.xregAcq m) s = .next t.closeClause ∧ t.grp.blocks = s.grp.blocks ∧
        (t.coreAt core).xq = [(s.cur, c.slices, m)] ∧ t.mem = s.mem ∧
        ∀ p ∈ t.grp.paths, p.slices &&& c.slices ≠ 0 → p.wait = some (.xreg m)) ∧
    (s.grp.blocks &&& m ≠ 0 → exec (.xregAcq m) s = .next (x.s.takeTrap s.cur (x.trap 3 0x5A 0 0))) ∧
    (s.grp.blocks &&& m = 0 → s.poolCap core < n → exec (.xregAcq m) s = .next (x.s.takeTrap s.cur (x.trap 3 0x5B 0 0))) ∧
    ((s.coreAt core).xq = [] →
      ∃ t : State, exec (.xregRel m) s = .next (t.advance (c.wordsOf 1 []) true) ∧
        t.grp.blocks = s.grp.blocks &&& ~~~m ∧ t.mem = s.mem ∧ t.grp.s = s.grp.s ∧
        (∀ r l, r < 64 ∨ m.getLsbD ((r - 64) / 16) = false → t.grp.vAt r l = s.grp.vAt r l))

/-- R30, R36, R38, R40, R43 to R48, R56, R465: behind an instruction the clause goes on with its next word, and its latches
stay valid; at the clause's last word the path's slices take the address of the next clause, the latches become invalid, and
neither registers nor memory change unless the group has finished or its unit is ending; an instruction with an empty
executing set does nothing, one with a busy operand waits, one with a poisoned source traps; what each operand code reads. That
the ECC trap of a register has INFO 0 and THREAD 0 is the model's reading (log entry 34). -/
def Obligations.ClausesWaitsAndOperands : Prop :=
  (∀ (s : State) (c : Clause) (n : Nat) (count : Bool), s.grp.clause = some c →
     let c' : Clause := { c with wi := c.wi + n, k := if count then c.k + 1 else c.k, modp := if count then none else c.modp }
     (c.wi + n < c.words.length → s.advance n count = s.setGrp { s.grp with clause := some c' }) ∧
     (c.words.length ≤ c.wi + n → (s.unitAt s.grp.unit).ending = false →
       (∃ x ∈ s.grp.slices, x.finished = false ∧ x.mask ≠ 0) →
       ∃ g : Group, s.advance n count = s.setGrp g ∧ g.clause = none ∧ g.bvalid = 0 ∧ g.v = s.grp.v ∧ g.s = s.grp.s ∧
         g.p = s.grp.p ∧ g.q = s.grp.q ∧ g.t = s.grp.t ∧ g.fflags = s.grp.fflags ∧
         (∀ i x, s.grp.slices[i]? = some x → x.finished = false → x.stack = [] → x.mask ≠ 0 → c.slices.getLsbD i = true →
           ∃ y, g.slices[i]? = some y ∧ y.pc = c.base + 4 * (c.words.length + 1) ∧ y.mask = x.mask))) ∧
  (∀ (s : State) (c : Clause) (w : BitVec 1) (d a b : BitVec 8) (i : Instr), s.grp.clause = some c →
     i ∈ ([.iadd w d a b, .imul w d a b, .xor w d a b, .shl w d a b, .ilt w d a b, .fadd w d a b, .fmul w d a b,
       .flt w d a b, .hadd2 w d a b, .shfx w d a b] : List Instr) →
     let srcs := ops [a, b]
     let dsts := destSpan w d 1
     (c.threads s.grp = 0 → exec i s = .next ((s.found c 1).skip.advance (c.wordsOf 1 srcs) true)) ∧
     (c.threads s.grp ≠ 0 → s.grp.busy (srcs ++ dsts) = true → exec i s = .next { s with waits := s.cur :: s.waits }) ∧
     (c.threads s.grp ≠ 0 → s.grp.busy (srcs ++ dsts) = false → s.grp.tainted srcs = true →
       exec i s = .next (((s.found c 1).s.registerError s.cur srcs).takeTrap s.cur
         { cls := 5, cause := 0, index := c.k, clause := c.base, resume := c.after, thread := 0, info := 0
           slices := c.slices }))) ∧
  (∀ (s : State) (c : Clause) (n l : Nat), l < 64 →
     let x := s.found c n
     (∀ r, r < 0x80 → x.src r l = s.grp.vAt r l) ∧
     (∀ r, r < 64 → x.src (0x80 + r) l = s.grp.sAt r) ∧
     (∀ r, r < 4 → x.src (0xC0 + r) l = s.grp.bAt r l) ∧
     (∀ r, r < 8 → x.src (0xC4 + r) l = if (s.grp.pAt r).getLsbD l then 1 else 0) ∧
     (∀ r, r < 7 → x.src (0xCC + r) l = if s.grp.q.getLsbD r then 1 else 0) ∧
     x.src 0xD3 l = 1 ∧ x.src 0xD4 l = 0 ∧ x.src 0xD5 l = 1 ∧ x.src 0xD6 l = 0xFFFFFFFF ∧ x.src 0xD7 l = 2 ∧
     x.src 0xD8 l = 0x3F000000 ∧ x.src 0xD9 l = 0x3F800000 ∧ x.src 0xDA l = 0x40000000 ∧ x.src 0xDB l = 0xBF800000 ∧
     x.src 0xDC l = BitVec.ofNat 32 l ∧ x.src 0xDD l = BitVec.ofNat 32 (l / 4) ∧ x.src 0xDE l = BitVec.ofNat 32 s.grp.gidx ∧
     x.src 0xFF l = c.words.getD (c.wi + n) 0 ∧
     (∀ k imm, k < 4 → imm < 2 →
       let j := ((s.grp.sAt 63).toNat + imm) % 4
       x.src (0xE0 + 4 * k + imm) l = s.grp.tAt k (16 * (4 * j + l / 16) + l % 16) ∧
       x.src (0xE0 + 4 * k + 2 + imm) l = s.grp.tAt k (16 * (l % 16) + (4 * j + l / 16))) ∧
     (∀ pk, pk = 1 ∨ pk = 2 → x.srcPk pk 0xD7 l = 2 ∧
       x.srcPk pk 0xD8 l = (if pk = 1 then 0x38003800 else 0x3F003F00) ∧
       x.srcPk pk 0xDB l = (if pk = 1 then 0xBC00BC00 else 0xBF80BF80)))

/-! ## Memory -/

/-- R1, R234, R237, R252: what a core writes it reads back at once, and no other byte changes; a read with nothing in flight
returns the bytes at their home, least significant first; a block of HBM is read under its key; an invariant load of bytes
that nothing has written since its launch began returns what any load does. -/
def Obligations.ReadsSeeWrites : Prop :=
  ∀ (s : State) (agent core die ka n v : Nat), 0 < n → n ≤ 16 → (∀ a, s.migOf a = none) →
    dieOfPlace s.mode (kplace ka) < 4 → isHbm (kplace ka + n - 1) = isHbm (kplace ka) →
    (s.vis = [] → (s.accessKey ka).isSome = true →
      (∀ i < n, some (s.writtenUnder (kplace ka + i)) = s.accessKey ka) →
      s.readAt core die ka n = ((List.range n).map fun i => (s.rdByte (kplace ka + i)).toNat * 256 ^ i).sum) ∧
    ((s.accessKey ka).isSome = true →
      (s.writeAt agent core ka n v).readAt core die ka n = v % 256 ^ n ∧
      (s.writeAt agent core ka n v).rdN (kplace ka) n = v % 256 ^ n) ∧
    sameOutside s (s.writeAt agent core ka n v) n [ka] ∧
    (s.accessKey ka = none → (s.writeAt agent core ka n v) = s ∧ s.readAt core die ka n = 0) ∧
    ∀ t pick, s.writtenSince t (kplace ka) n = false → s.readInvariant core die t pick ka n = s.readAt core die ka n

/-- R224, R226, R227: the address of an access is base plus offset plus the scaled displacement; an invalid segment, an
address outside its limit, a misaligned one, a write without WR and an engine-guarded area trap, in this order; otherwise
it reaches the byte that its space's rule names, and nothing has changed. The main space is translated as well. That INFO of ALIGN
is the address is the model's reading (log entry 34). -/
def Obligations.AddressesAreChecked : Prop :=
  ∀ (x : Ix) (s : State) (space base off bytes lane thread : Nat) (disp : ℤ) (writes touch : Bool),
    let seg := FMap.get {} x.g.segs space
    let o : ℤ := base + off + disp
    let core := coreOf s.cur
    let r := x.locate s space base off disp bytes writes touch lane thread
    let traps (cls cause : Nat) : Prop := r.1 = .error (x.fail cls cause thread o)
    let inside : Prop := 0 ≤ o ∧ o + bytes ≤ seg.limit
    (seg.v = false → traps 3 0x01 ∧ r.2 = s) ∧
    (seg.v = true → space = 3 → (o < 0 ∨ 2 ^ 48 < o + bytes) → traps 3 0x05 ∧ r.2 = s) ∧
    (seg.v = true → space = 3 → 0 ≤ o → o + bytes ≤ 2 ^ 48 → (o < seg.base ∨ seg.base + seg.limit < o + bytes) →
      traps 3 0x02 ∧ r.2 = s) ∧
    (seg.v = true → space ≠ 3 → ¬inside → traps 3 0x02 ∧ r.2 = s) ∧
    (seg.v = true → inside → ∀ place : Nat,
      (space = 0 ∧ place = sloc core (seg.base + lane * seg.limit + o.toNat) ∨
       space = 1 ∧ place = sloc core (seg.base + o.toNat) ∨ space = 5 ∧ place = iloc core (seg.base + o.toNat) ∨
       space = 6 ∧ place = qloc (dieOfCore core) (seg.base + o.toNat)) →
      r.2 = s ∧
      (kplace place % bytes ≠ 0 → traps 4 0) ∧
      (kplace place % bytes = 0 → writes = true → seg.wr = false → traps 3 0x03) ∧
      (kplace place % bytes = 0 → (writes = true → seg.wr = true) → s.guarded (kplace place) bytes = true → traps 3 0x0A) ∧
      (kplace place % bytes = 0 → (writes = true → seg.wr = true) → s.guarded (kplace place) bytes = false →
        r.1 = .ok place)) ∧
    (seg.v = true → inside → space = 2 ∨ space = 4 →
      let g := seg.base + o.toNat
      let place := gloc s.mode (s.unitAt x.g.unit).dev g
      (globalSize s.mode < g + bytes → r.1 = .error (x.fail 3 0x04 thread g)) ∧
      (g + bytes ≤ globalSize s.mode → kplace place % bytes = 0 → (writes = true → seg.wr = true) →
        s.guarded (kplace place) bytes = false → r = (.ok place, s)))

/-- R235, R36, R227, R234, R237, R253: a load whose addresses all pass leaves memory, tags and registers as they are.
Performed at its issue it leaves one outstanding register write, which holds for each thread what a read of each 16-byte
chunk at its place returns, with INV or in constant space what an invariant load returns; where each thread's is behind an
access of that thread to the same bytes that is still to be performed, it is performed later and its register write waits. -/
def Obligations.Loads : Prop :=
  ∀ (s : State) (c : Clause) (d a b off e : BitVec 8) (inv : BitVec 1) (scope sp sz : BitVec 3) (ord : BitVec 2)
    (places : List Nat) (s1 : State),
    let m := mkArgs d a b off scope ord sp sz e
    let x := s.found c 2
    let ps := x.performers (isS m.d)
    let kind : MKind := if inv = 1 ∨ m.space = 4 then .invariant else .load
    let es := x.elems m kind (isS m.d) (fun _ _ => 0) (fun _ _ => 0) ps places
    let s2 := s1.released m
    let s3 := (m.spots places).foldl (fun s p => s.served p m.chunk) s2
    let core := coreOf s.cur
    let value (e : MElem) : Nat :=
      if inv = 1 ∨ m.space = 4 then
        s3.readInvariant core (dieOfCore core) (s3.sinceOf s.grp.unit) (Config.word s.count (20000 + e.lane)).toNat e.addr
          m.chunk e.va
      else s3.readAt core (dieOfCore core) e.addr m.chunk e.va
    s.ready c [m.baseSpan, (m.b, 1)] [(m.d, m.regs)] → x.heldBack (decide (m.ord = 2 ∨ m.ord = 3)) = false →
    x.reaches m false ps places s1 → s2.servable m.chunk true (m.spots places) →
    ∃ t tok, exec (.ld d a b off inv scope ord sp sz e) s = .next (t.advance (c.wordsOf 2 [m.baseSpan, (m.b, 1)]) true) ∧
      t.mem = s1.mem ∧ t.tags = s1.tags ∧ (m.space ≠ 3 → s1 = x.s) ∧ s.sameRegs t ∧
      (s1.noneLeft s.cur s.grp.unit → t.stalled = s1.stalled ∧ t.grp.outs = s.grp.outs ++
        [{ regs := ps.flatMap fun p => m.target p.1
           vals := some (es.flatMap fun e => wordsOfNat m.chunk (value e))
           tok := tok, slices := c.slices }]) ∧
      (s1.follows s.cur s.grp.unit kind m.chunk es → ∃ o : MOp, t.stalled = s1.stalled ++ [o] ∧
        o.kind = kind ∧ o.tok = tok ∧ o.bytes = m.chunk ∧ o.elems = es ∧
        t.grp.outs = s.grp.outs ++
          [{ regs := ps.flatMap fun p => m.target p.1, vals := none, tok := tok, slices := c.slices }])

/-- R235, R234, R253: a store whose addresses all pass writes no byte but at its places, no register and no tag. Performed at
its issue it writes its data there; where each thread's is behind a read of that thread that has not returned, or an access
to the same bytes that is still to be performed, it writes nothing yet and carries its data along. -/
def Obligations.Stores : Prop :=
  ∀ (s : State) (c : Clause) (d a b off e : BitVec 8) (inv : BitVec 1) (scope sp sz : BitVec 3) (ord : BitVec 2)
    (places : List Nat) (s1 : State),
    let m := mkArgs d a b off scope ord sp sz e
    let x := s.found c 2
    let ps := x.performers false
    let srcs := [m.baseSpan, (m.b, 1), dataSpan m.d m.bytes]
    let es := x.elems m .store false (fun x l => x.data m.d m.bytes l) (fun _ _ => 0) ps places
    s.ready c srcs [] → x.heldBack (decide (m.ord = 2 ∨ m.ord = 3)) = false → x.reaches m true ps places s1 →
    (s1.released m).servable m.chunk false (m.spots places) →
    ∃ t, exec (.st d a b off inv scope ord sp sz e) s = .next (t.advance (c.wordsOf 2 srcs) true) ∧
      t.tags = s1.tags ∧ s.sameRegs t ∧ t.grp.outs = s.grp.outs ∧
      (s1.follows s.cur s.grp.unit .store m.chunk es → t.mem = s1.mem ∧ ∃ o : MOp, t.stalled = s1.stalled ++ [o] ∧
        o.kind = .store ∧ o.bytes = m.chunk ∧ o.elems = es) ∧
      ((∀ a, s1.migOf a = none) → sz.toNat ≤ 5 → sameOutside s1 t m.bytes places) ∧
      (s1.noneLeft s.cur s.grp.unit → (∀ a, s1.migOf a = none) → sz.toNat ≤ 5 →
        t.stalled = s1.stalled ∧
        ∀ i (p : Nat) (l : Nat × Nat), places[i]? = some p → ps[i]? = some l →
          (s1.accessKey p).isSome = true → (∀ q ∈ places, s1.sameKey p q) →
          (∀ (j q : Nat), places[j]? = some q → j ≠ i → apart m.bytes p q) →
          t.rdN (kplace p) m.bytes = x.data m.d m.bytes l.1 % 256 ^ m.bytes)

/-- R238: the value that each atomic operation leaves, from the old value and the operand, for 4 and 8 bytes: the adds of
floating-point numbers round to nearest even, subnormals kept, and a NaN or invalid one is the canonical NaN; fmin and fmax
deliver one of the two, a number before a NaN and −0 below +0. -/
def Obligations.AtomicValues : Prop :=
  ∀ (n old x new : Nat), n = 4 ∨ n = 8 → old < 256 ^ n → x < 256 ^ n → new < 256 ^ n →
    let i (v : Nat) : ℤ := (BitVec.ofNat (8 * n) v).toInt
    atomNew 0 n old x new = (old + x) % 256 ^ n ∧
    (i (atomNew 2 n old x new) = min (i old) (i x) ∧ (atomNew 2 n old x new = old ∨ atomNew 2 n old x new = x)) ∧
    (i (atomNew 3 n old x new) = max (i old) (i x) ∧ (atomNew 3 n old x new = old ∨ atomNew 3 n old x new = x)) ∧
    atomNew 4 n old x new = min old x ∧ atomNew 5 n old x new = max old x ∧
    (∀ k, (atomNew 6 n old x new).testBit k = (old.testBit k && x.testBit k)) ∧
    (∀ k, (atomNew 7 n old x new).testBit k = (old.testBit k || x.testBit k)) ∧
    (∀ k, (atomNew 8 n old x new).testBit k = (old.testBit k != x.testBit k)) ∧
    atomNew 9 n old x new = x ∧ atomNew 10 n old x new = (if old = x then new else old) ∧
    (n = 4 →
      let adds (f : Fmt) (old x r : Nat) : Prop :=
        let a := f.value old
        let b := f.value x
        let bad : Prop := a.isNan = true ∨ b.isNan = true ∨ ∃ s, a = .inf s ∧ b = .inf (!s)
        let w := a.real + b.real
        (bad → r = f.canon) ∧ (∀ s, ¬bad → a = .inf s ∨ b = .inf s → r = f.infBits s) ∧
        (a.isFin = true → b.isFin = true →
          (w = 0 → r = f.signBit (a.isNeg && b.isNeg)) ∧
          (w ≠ 0 → ∃ p q : Nat, 0 < q ∧ (p : ℚ) / q = |w| ∧ r = (f.roundTo 1 false (decide (w < 0)) p q false 0).1))
      let a := fp32.value old
      let b := fp32.value x
      let lo (v : Nat) : Nat := v % 65536
      let hi (v : Nat) : Nat := v / 65536
      adds fp32 old x (atomNew 1 n old x new) ∧
      (∀ p ∈ [(13, fp16), (14, bf16)], adds p.2 (lo old) (lo x) (lo (atomNew p.1 n old x new)) ∧
        adds p.2 (hi old) (hi x) (hi (atomNew p.1 n old x new))) ∧
      ∀ p ∈ [(11, true), (12, false)],
        let r := atomNew p.1 n old x new
        (a.isNan = true → b.isNan = true → r = fp32.canon) ∧ (a.isNan = true → b.isNan = false → r = x) ∧
        (a.isNan = false → b.isNan = true → r = old) ∧
        (a.isNan = false → b.isNan = false → r = old ∨ r = x) ∧
        (∀ s, b.isNan = false → a = .inf s → r = if s = p.2 then old else x) ∧
        (∀ s, a.isNan = false → b = .inf s → r = if s = p.2 then x else old) ∧
        (a.isFin = true → b.isFin = true →
          (fp32.value r).real = (if p.2 = true then min a.real b.real else max a.real b.real) ∧
          (a.real = 0 → b.real = 0 → (fp32.value r).isNeg = if p.2 = true then a.isNeg || b.isNeg else a.isNeg && b.isNeg)))

/-- R239, R240: the threads of one location form one event: each operation but the pre-reduced adds has the effect of the
threads one at a time in lane order, each receiving the value before its own; the pre-reduced adds add the prefixes. A
lone thread receives the old value and applies its operand once. -/
def Obligations.AtomicEvents : Prop :=
  ∀ (aop n v : Nat) (xs : List (Nat × Nat)), xs ≠ [] →
    (aop ≠ 1 → aop ≠ 0xD → aop ≠ 0xE →
      (atomEvent aop n v xs).2 = xs.foldl (fun v p => atomNew aop n v p.1 p.2) v ∧
      ∀ k < xs.length, (atomEvent aop n v xs).1[k]? = some ((xs.take k).foldl (fun v p => atomNew aop n v p.1 p.2) v)) ∧
    (aop = 1 ∨ aop = 0xD ∨ aop = 0xE → ∀ x t, xs.map Prod.fst = x :: t →
      let pre (k : Nat) : Nat := (t.take k).foldl (fun a b => atomNew aop n a b 0) x
      (atomEvent aop n v xs).2 = atomNew aop n v (pre t.length) 0 ∧
      (atomEvent aop n v xs).1[0]? = some v ∧
      ∀ k, 1 ≤ k → k < xs.length → (atomEvent aop n v xs).1[k]? = some (atomNew aop n v (pre (k - 1)) 0)) ∧
    (xs.length = 1 → (atomEvent aop n v xs).1 = [v])

/-- R236, R238 to R240: an atomic whose addresses all pass leaves an outstanding register write with what each thread
receives, and at each place the value that its event leaves there, no other byte, no tag and no register changed. -/
def Obligations.Atomics : Prop :=
  ∀ (s : State) (c : Clause) (d a b off e : BitVec 8) (inv : BitVec 1) (scope sp sz : BitVec 3) (ord : BitVec 2)
    (places : List Nat) (s1 : State),
    let m := mkArgs d a b off scope ord sp sz e
    let x := s.found c 2
    let ps := x.performers (isS m.d)
    let runs (i : Instr) (aop : Nat) : Prop :=
      let srcs := [m.baseSpan, (m.b, 1), (m.e, (dataSpan m.e m.bytes).2)] ++ if aop = 0xA then [(m.d, m.regs)] else []
      s.ready c srcs [(m.d, m.regs)] → x.heldBack (decide (m.ord = 2 ∨ m.ord = 3)) = false →
      x.reaches m true ps places s1 → (s1.released m).servable m.chunk true (m.spots places) →
      s1.noneLeft s.cur s.grp.unit →
      ∃ t tok vals, exec i s = .next (t.advance (c.wordsOf 2 srcs) true) ∧
        t.tags = s1.tags ∧ s.sameRegs t ∧
        t.grp.outs = s.grp.outs ++
          [{ regs := ps.flatMap fun p => m.target p.1, vals := some vals, tok := tok, slices := c.slices }] ∧
        ((∀ a, s1.migOf a = none) → sz.toNat = 2 ∨ sz.toNat = 3 →
          sameOutside s1 t m.bytes places ∧
          ∀ p ∈ places, s1.keyed p m.bytes → (∀ q ∈ places, s1.sameKey p q) → (∀ q ∈ places, q = p ∨ apart m.bytes p q) →
            let mine := (ps.zip places).filter fun y => decide (y.2 = p)
            let ev := atomEvent aop m.bytes (s1.rdN (kplace p) m.bytes)
              (mine.map fun y => (x.data m.e m.bytes y.1.1, if aop = 0xA then x.data m.d m.bytes y.1.1 else 0))
            t.rdN (kplace p) m.bytes = ev.2 % 256 ^ m.bytes ∧
            ∀ i (l : Nat × Nat), places[i]? = some p → ps[i]? = some l →
              ∀ k, mine[k]? = some (l, p) →
                (vals.drop (i * m.regs)).take m.regs = wordsOfNat m.bytes (ev.1.getD k 0))
    runs (.atomAdd d a b off inv scope ord sp sz e) 0 ∧ runs (.atomFadd d a b off inv scope ord sp sz e) 1 ∧
    runs (.atomMin d a b off inv scope ord sp sz e) 2 ∧ runs (.atomMax d a b off inv scope ord sp sz e) 3 ∧
    runs (.atomUmin d a b off inv scope ord sp sz e) 4 ∧ runs (.atomUmax d a b off inv scope ord sp sz e) 5 ∧
    runs (.atomAnd d a b off inv scope ord sp sz e) 6 ∧ runs (.atomOr d a b off inv scope ord sp sz e) 7 ∧
    runs (.atomXor d a b off inv scope ord sp sz e) 8 ∧ runs (.atomXchg d a b off inv scope ord sp sz e) 9 ∧
    runs (.atomCas d a b off inv scope ord sp sz e) 10 ∧ runs (.atomFmin d a b off inv scope ord sp sz e) 11 ∧
    runs (.atomFmax d a b off inv scope ord sp sz e) 12 ∧ runs (.atomHadd2 d a b off inv scope ord sp sz e) 13 ∧
    runs (.atomBadd2 d a b off inv scope ord sp sz e) 14

/-- R242, R243: the tag operations of one thread, with nothing parked and no error held: a load whose tag condition holds
receives the word and leaves or empties the tag, a store whose condition holds writes and sets or clears it, and a
request whose condition does not hold parks at its home and changes nothing there; word 0 of a running level, whose tag
changes only as R363 states, is not among the places. With any number of threads a load
changes no byte, and a store none outside its places. That a load with a tag condition needs no write permission, though it
changes a tag, is the model's reading (log entry 108). -/
def Obligations.TagOperations : Prop :=
  ∀ (s : State) (c : Clause) (d a b off e : BitVec 8) (inv : BitVec 1) (scope sp sz : BitVec 3) (ord : BitVec 2)
    (places : List Nat) (s1 : State),
    let m := mkArgs d a b off scope ord sp sz e
    let x := s.found c 2
    s.parked = [] → s.clean → (∀ a, s.migOf a = none) → (∀ p ∈ places, isHbm (kplace p) = false) →
    x.heldBack (decide (m.ord = 2 ∨ m.ord = 3)) = false → s1.lazy = 0 → sz.toNat ≤ 3 →
    (∀ p ∈ places, ∀ l ∈ s1.levels, s1.lvAt l.1 l.2 / 8 ≠ kplace p / 8) →
    let loads (i : Instr) (waits empties : Bool) : Prop :=
      let ps := x.performers (isS m.d)
      s.ready c [m.baseSpan, (m.b, 1)] [(m.d, m.regs)] → x.reaches m false ps places s1 → s1.clean → s1.parked = [] →
      s1.stalled = [] →
      (∀ a, s1.migOf a = none) →
      ∃ t, exec i s = .next (t.advance (c.wordsOf 2 [m.baseSpan, (m.b, 1)]) true) ∧ t.mem = s1.mem ∧ s.sameRegs t ∧
        ∀ (l : Nat × Nat) (p : Nat), ps = [l] → places = [p] →
          let full := s1.tagFull (kplace p)
          let served := full || !waits
          (∀ q, t.tagFull q = if served ∧ empties ∧ q / 8 = kplace p / 8 then false else s1.tagFull q) ∧
          t.parked.length = (if served then 0 else 1) ∧
          let got := if served then some (wordsOfNat m.bytes (s1.rdN (kplace p) m.bytes)) else none
          t.grp.outs.length = s.grp.outs.length + 1 ∧
          ∃ tok, t.grp.outs.getLast? = some { regs := m.target l.1, vals := got, tok := tok, slices := c.slices }
    let stores (i : Instr) (waits fills : Bool) : Prop :=
      let ps := x.performers false
      let srcs := [m.baseSpan, (m.b, 1), dataSpan m.d m.bytes]
      s.ready c srcs [] → x.reaches m true ps places s1 → s1.clean → s1.parked = [] → s1.stalled = [] →
      (∀ a, s1.migOf a = none) →
      ∃ t, exec i s = .next (t.advance (c.wordsOf 2 srcs) true) ∧ sameOutside s1 t m.bytes places ∧ s.sameRegs t ∧
        t.grp.outs = s.grp.outs ∧
        ∀ (l : Nat × Nat) (p : Nat), ps = [l] → places = [p] →
          let served := !waits || !s1.tagFull (kplace p)
          (∀ q, t.tagFull q = if served ∧ q / 8 = kplace p / 8 then fills else s1.tagFull q) ∧
          t.parked.length = (if served then 0 else 1) ∧
          t.rdN (kplace p) m.bytes =
            if served then x.data m.d m.bytes l.1 % 256 ^ m.bytes else s1.rdN (kplace p) m.bytes
    loads (.ldtFf d a b off inv scope ord sp sz e) true false ∧
    loads (.ldtFe d a b off inv scope ord sp sz e) true true ∧
    loads (.ldtXx d a b off inv scope ord sp sz e) false false ∧
    stores (.sttEf d a b off inv scope ord sp sz e) true true ∧
    stores (.sttXf d a b off inv scope ord sp sz e) false true ∧
    stores (.sttXe d a b off inv scope ord sp sz e) false false

/-- R246, R247, R237: ldtile brings 256 elements to a tile register by an outstanding write, with INV as an invariant load
does, sttile stores them row by row at the stride that B holds, a stride that is not a multiple of 4 is ALIGN, with
the stride as INFO by the model's reading (log entry 34); prf changes no register, no tag, and no byte but what its translations
write. -/
def Obligations.TilesAndPrefetch : Prop :=
  ∀ (s : State) (c : Clause) (d a b off e : BitVec 8) (inv : BitVec 1) (scope sp sz : BitVec 3) (ord : BitVec 2)
    (places : List Nat) (s1 : State),
    let m := mkArgs d a b off scope ord sp sz e
    let x := s.found c 2
    let t0 := m.d % 4
    let y := x.opened m
    let stride := (x.uni m.b).toNat
    let at' := (List.range 256).map fun k => stride * (k / 16) + 4 * (k % 16)
    let offs := at'.map fun o => (0, 0, o)
    let s2 := if m.ord = 2 then s1.releaseAt (coreOf s.cur) m.scope else s1
    let s3 := places.foldl (fun s p => s.served p 4) s2
    let core := coreOf s.cur
    let value (k p : Nat) : Nat :=
      let va := y.vaOf m (at'.getD k 0)
      if inv = 1 then
        s3.readInvariant core (dieOfCore core) (s3.sinceOf s.grp.unit) (Config.word s.count (20000 + k)).toNat p 4 va
      else s3.readAt core (dieOfCore core) p 4 va
    y.walkWaits m at' = false →
    let load : Instr := .ldtile d a b off inv scope ord sp sz e
    let store : Instr := .sttile d a b off inv scope ord sp sz e
    (s.ready c [m.baseSpan, (m.b, 1)] [(256 + t0, 1)] → x.heldBack (decide (m.ord = 2)) = false →
      (stride % 4 ≠ 0 → exec load s = .next (x.s.takeTrap s.cur (x.trap 4 0 0 stride))) ∧
      (stride % 4 = 0 → y.locateAll y.s m.space (x.base m) m.disp 4 false true offs = (places.map Except.ok, s1) →
        s2.servable 4 true places → s1.noneLeft s.cur s.grp.unit →
        ∃ t tok, exec load s = .next (t.advance (c.wordsOf 2 [m.baseSpan, (m.b, 1)]) true) ∧ t.mem = s1.mem ∧
          t.tags = s1.tags ∧ s.sameRegs t ∧
          t.grp.outs = s.grp.outs ++
            [{ regs := (List.range 256).map fun k => Reg.t t0 k
               vals := some (places.zipIdx.flatMap fun p => wordsOfNat 4 (value p.2 p.1))
               tok := tok, slices := c.slices }])) ∧
    (s.ready c [m.baseSpan, (m.b, 1), (256 + t0, 1)] [] → x.heldBack (decide (m.ord = 2)) = false → stride % 4 = 0 →
      y.locateAll y.s m.space (x.base m) m.disp 4 true true offs = (places.map Except.ok, s1) →
      s2.servable 4 false places → s1.noneLeft s.cur s.grp.unit →
      ∃ t, exec store s = .next (t.advance (c.wordsOf 2 [m.baseSpan, (m.b, 1), (256 + t0, 1)]) true) ∧
        t.tags = s1.tags ∧ s.sameRegs t ∧ t.grp.outs = s.grp.outs ∧
        ((∀ a, s1.migOf a = none) → sameOutside s1 t 4 places ∧
          ∀ (k p : Nat), places[k]? = some p → (s1.accessKey p).isSome = true → (∀ q ∈ places, s1.sameKey p q) →
            (∀ (j q : Nat), places[j]? = some q → j ≠ k → apart 4 p q) →
            t.rdN (kplace p) 4 = (s.grp.tAt t0 k).toNat)) ∧
    (s.ready c [m.baseSpan, (m.b, 1)] [] →
      ∃ t, exec (.prf d a b off inv scope ord sp sz e) s =
          .next (t.advance (c.wordsOf 2 [m.baseSpan, (m.b, 1)]) true) ∧
        s.sameRegs t ∧ t.tags = s.tags ∧ t.grp.outs = s.grp.outs ∧ (m.space ≠ 3 → t.mem = s.mem))

/-! ## Ordering and synchronization -/

/-- R252, R254, R257 to R259: after a fence.rel every write that the issuing core sees is visible to every die of the scope
instance, at system scope to the host and to every peer too; a fence.acq of device or system scope does the same and applies
the die's log; fence.ar does both. None changes memory, a tag or a register. An access of the group that is still to be performed holds fence.rel
and fence.ar, a read that has not returned fence.acq. -/
def Obligations.Fences : Prop :=
  ∀ (s : State) (c : Clause) (k : BitVec 3), s.ready c [] [] →
    let core := coreOf s.cur
    let seen (w : VisW) : Prop := w.core = core ∨ dieOfCore core ∉ w.unseen
    let inScope (v : Nat) : Prop :=
      if k.toNat < 4 then v = dieOfCore core
      else (v < 4 ∧ devOfDie s.mode v = devOfDie s.mode (dieOfCore core)) ∨ (4 ≤ v ∧ k = 5)
    let own (o : MOp) : Prop := o.agent = s.cur ∧ o.unit = s.grp.unit ∧ o.drain = none
    let die := s.dieAt (dieOfCore core)
    let d := s.devAt (devOfDie s.mode (dieOfCore core))
    let runs (i : Instr) (waits publishes acquires : Prop) : Prop :=
      (waits → exec i s = .next s.blocked) ∧
      (¬waits → ∃ t, exec i s = .next (t.advance (c.wordsOf 1 []) true) ∧ t.mem = s.mem ∧
        t.tags = s.tags ∧ s.sameRegs t ∧ t.grp.outs = s.grp.outs ∧
        (publishes → ∀ w ∈ t.vis, seen w → ∀ v ∈ w.unseen, ¬inScope v) ∧
        (acquires → die.logbase.getLsbD 63 = true → die.gen < 2 ^ 32 → d.invSeq < 2 ^ 32 →
          (t.dieAt (dieOfCore core)).gen = d.invSeq) ∧
        (¬acquires → t.dies = s.dies ∧ t.cores = s.cores))
    runs (.fenceAcq k) (∃ o ∈ s.stalled, own o ∧ o.kind.reads = true) (4 ≤ k.toNat) (4 ≤ k.toNat) ∧
    runs (.fenceRel k) (∃ o ∈ s.stalled, own o) True False ∧ runs (.fenceAr k) (∃ o ∈ s.stalled, own o) True (4 ≤ k.toNat)

/-- R261 to R265: an object that is free is taken: its word names the owner or counts the shared hold and the group holds it
(of the steer thread's number see log entry 113); tryacq writes 1 or 0; an object that is not free parks the path in the
object's queue. A release clears the hold, raises RSEQ, lets the first waiter in where the word now allows it, and makes each
write that its core sees in a range bound to the object there readable, through a range bound on the reader's core, at every
die of the device (that a read of an unbound range may still miss it is log entry 58); no other write is released. A bind is
recorded with its range, and an unbind takes it away. Each refusal of R261 to R263 traps, with INFO 0 (log entry 34). -/
def Obligations.SynchronizationObjects : Prop :=
  ∀ (s s1 : State) (c : Clause) (x y : BitVec 6) (h : BitVec 1) (k : BitVec 8) (obj : Nat),
    let i := s.found c 1
    let uid := s.grp.unit
    let core := coreOf s.cur
    let binds := (s.coreAt core).binds
    i.object (s.grp.sAt x.toNat).toNat = (.ok obj, s1) → (s.unitAt uid).faulty = false → s.clean →
    (∀ a, s.migOf a = none) →
    let sh := decide (h = 1)
    let word := s.rdN obj 8
    let free := s.sobjOpen obj sh = true
    let claims := s.claims s.cur
    let x1 : List Span := [spanS x.toNat 1]
    let y1 : List Span := [spanS y.toNat 1]
    let elsewhere (t : State) : Prop := (∀ q, q < obj ∨ obj + 8 ≤ q → t.rdByte q = s.rdByte q) ∧ s.sameRegs t
    let traps (n : Instr) (cause : Nat) : Prop :=
      ∃ t : State, exec n s = .next (t.takeTrap s.cur (i.trap 3 cause 0 0)) ∧ t.mem = s.mem
    (s.ready c x1 [] → i.readsLeft = false →
      (claims.contains obj = true → traps (.sobjAcq x h) 0x14) ∧
      (claims.contains obj = false → 4 ≤ claims.length → traps (.sobjAcq x h) 0x15) ∧
      (claims.contains obj = false → claims.length < 4 →
        (free → ∃ t, s.completes c (.sobjAcq x h) x1 t ∧ t.grp.holds = s.grp.holds ++ [(obj, sh)] ∧
          t.rdN obj 8 = sobjTaken word s.cur sh % 2 ^ 64 ∧ elsewhere t) ∧
        (¬free → ∃ t : State, exec (.sobjAcq x h) s = .next t.closeClause ∧ t.mem = s.mem ∧
          t.sobjQ = s.sobjQ ++ [(s.cur, c.slices, obj, sh)] ∧ t.grp.holds = s.grp.holds ∧
          ∀ p ∈ t.grp.paths, p.slices &&& c.slices ≠ 0 → p.wait = some (.sobj obj sh)))) ∧
    (s.ready c x1 y1 → i.readsLeft = false →
      (claims.contains obj = true → traps (.sobjTryacq x y h) 0x14) ∧
      (claims.contains obj = false → 4 ≤ claims.length → traps (.sobjTryacq x y h) 0x15) ∧
      (claims.contains obj = false → claims.length < 4 →
        ∃ t, s.completes c (.sobjTryacq x y h) x1 t ∧ s.owes t c [.s y.toNat] [if s.sobjOpen obj sh then 1 else 0] ∧
          t.grp.holds = (if s.sobjOpen obj sh then s.grp.holds ++ [(obj, sh)] else s.grp.holds) ∧
          t.rdN obj 8 = (if s.sobjOpen obj sh then sobjTaken word s.cur sh % 2 ^ 64 else word) ∧ elsewhere t)) ∧
    (s.ready c x1 [] → i.heldBack true = false →
      ((∀ q ∈ s.grp.holds, q.1 ≠ obj) → traps (.sobjRel x) 0x13) ∧
      ((s.grp.holds.find? fun q => decide (q.1 = obj)) = some (obj, sh) →
        let left := sobjFreed word sh % 2 ^ 64
        let seen (w : VisW) : Prop := w.core = core ∨ dieOfCore core ∉ w.unseen
        let bound (w : VisW) : Prop := ∃ b ∈ binds, b.obj = obj ∧ s.takes b w.named w.old.length w.va = true
        ∃ t, s.completes c (.sobjRel x) x1 t ∧ elsewhere t ∧
          ((∀ r ∈ s.sobjQ, r.2.2.1 = obj → r.1 ≠ s.cur) →
            t.grp.holds = s.grp.holds.filter fun q => decide (q.1 ≠ obj)) ∧
          ((∀ r ∈ s.sobjQ, r.2.2.1 ≠ obj) → t.rdN obj 8 = left ∧ t.sobjQ = s.sobjQ) ∧
          (∀ (a : Nat) (sl : BitVec 16) (o : Nat) (sh' : Bool),
            (s.sobjQ.find? fun r => decide (r.2.2.1 = obj)) = some (a, sl, o, sh') →
            (sobjFree left sh' = false → t.rdN obj 8 = left ∧ t.sobjQ = s.sobjQ) ∧
            (sobjFree left sh' = true → (obj, sh') ∈ (t.grpOf a).holds ∧
              (∀ p ∈ (t.grpOf a).paths, p.slices &&& sl ≠ 0 → p.wait = none) ∧
              (sh' = false → t.rdN obj 8 = sobjTaken left a false % 2 ^ 64 ∧ t.sobjQ = s.sobjQ.erase (a, sl, o, sh')))) ∧
          (∀ w ∈ t.vis, seen w → bound w →
            ∀ die ∈ diesOfDev s.mode (devOfDie s.mode (dieOfCore core)), ∀ reader, w.seenBy reader die true = true) ∧
          ∀ w ∈ s.vis, w.unseen ≠ [] → ¬bound w → w.meets obj 8 = false → w ∈ t.vis)) ∧
    (s.ready c [spanS x.toNat 1, spanS y.toNat 4] [] →
      let len := (s.grp.sAt (y.toNat + 2)).toNat
      let lo := (s.grp.sAt y.toNat).toNat
      let hi := (s.grp.sAt (y.toNat + 1)).toNat
      let sp := (s.grp.sAt (y.toNat + 3)).toNat
      let main := decide (sp = 3)
      let base := if main then lo + hi * 2 ^ 32 else lo
      let legal : Prop := (sp = 2 ∧ hi = 0 ∨ sp = 3) ∧ bindOk s.grp main base len = true
      let full : Prop := 32 ≤ binds.length ∧ ∀ b ∈ binds, ¬(b.unit = uid ∧ b.obj = obj ∧ b.slot = k.toNat)
      (full → traps (.sobjBind x y k) 0x10) ∧ (¬full → ¬legal → traps (.sobjBind x y k) 0x11) ∧
      (¬full → legal → s.unitHolds uid obj = true → traps (.sobjBind x y k) 0x12) ∧
      (¬full → legal → s.unitHolds uid obj = false →
        ∃ t, s.completes c (.sobjBind x y k) [spanS x.toNat 1, spanS y.toNat 4] t ∧ t.mem = s.mem ∧ s.sameRegs t ∧
          (t.coreAt core).binds = (binds.filter fun b => !decide (b.unit = uid ∧ b.obj = obj ∧ b.slot = k.toNat)) ++
            [{ unit := uid, obj := obj, slot := k.toNat, main := main, len := len
               base := if main then base else gloc s.mode (s.unitAt uid).dev ((FMap.get {} s.grp.segs 2).base + base) }])) ∧
    (s.ready c x1 [] →
      (s.unitHolds uid obj = true → traps (.sobjUnbind x k) 0x12) ∧
      (s.unitHolds uid obj = false → ∃ t, s.completes c (.sobjUnbind x k) x1 t ∧ t.mem = s.mem ∧ s.sameRegs t ∧
        (t.coreAt core).binds = binds.filter fun b => !decide (b.unit = uid ∧ b.obj = obj ∧ b.slot = k.toNat)))

/-- R269, R270, R34: waitc goes on where the counter is low enough and parks the path otherwise; drain goes on where
nothing of the core is under way, with the effect of fence.ar at system scope (what the core sees is visible at every die of
its device, to the host and to every peer, and the die's log is applied), and parks on what is under way otherwise; it is
privileged. -/
def Obligations.CounterWaits : Prop :=
  ∀ (s : State) (c : Clause) (k : BitVec 5) (n : BitVec 8), s.ready c [] [] →
    let x := s.found c 1
    let core := coreOf s.cur
    let d := s.devAt (devOfDie s.mode (dieOfCore core))
    let goesOn (i : Instr) : Prop := ∃ t, exec i s = .next (t.advance (c.wordsOf 1 []) true) ∧ t.mem = s.mem ∧
      t.tags = s.tags ∧ s.sameRegs t
    let parks (i : Instr) (w : Wait) : Prop := ∃ t : State, exec i s = .next t.closeClause ∧ t.mem = s.mem ∧
      s.sameRegs t ∧ (∀ p ∈ t.grp.paths, p.slices &&& c.slices ≠ 0 → p.wait = some w)
    (FMap.get 0 s.grp.ctr k.toNat ≤ n.toNat → goesOn (.waitc k n)) ∧
    (n.toNat < FMap.get 0 s.grp.ctr k.toNat → parks (.waitc k n) (.counter k.toNat n.toNat)) ∧
    (s.grp.priv = true → x.s.liveToks core = [] → ∃ t, s.completes c .drain [] t ∧ t.mem = s.mem ∧ t.tags = s.tags ∧
      s.sameRegs t ∧
      (∀ w ∈ t.vis, w.core = core ∨ dieOfCore core ∉ w.unseen →
        ∀ v ∈ w.unseen, v < 4 ∧ devOfDie s.mode v ≠ devOfDie s.mode (dieOfCore core)) ∧
      ((s.dieAt (dieOfCore core)).logbase.getLsbD 63 = true → (s.dieAt (dieOfCore core)).gen < 2 ^ 32 → d.invSeq < 2 ^ 32 →
        (t.dieAt (dieOfCore core)).gen = d.invSeq)) ∧
    (s.grp.priv = true → x.s.liveToks core ≠ [] → parks .drain (.drain (x.s.liveToks core))) ∧
    (s.grp.priv = false → exec .drain s = .next (x.s.takeTrap s.cur (x.trap 2 0 0 0)))

/-- R271 to R273: a queue set up holds nothing and admits every group; a push with room writes its entry behind the
youngest and raises the count, a pop takes the oldest; without room, or with nothing to take, the path parks in order,
while trypush and trypop write 0 and go on. A queue never set up, a group that is not admitted and a bad register are
ACCESS in each of the four forms, and so are a set-up of a queue at which somebody waits, one that breaks R271, and masks that
do (with INFO 0, log entry 34; that masks may be set before the queue is set up is log entry 36). -/
def Obligations.NamedQueues : Prop :=
  ∀ (s : State) (c : Clause) (x y : BitVec 6) (q : BitVec 8),
    let i := s.found c 1
    let uid := s.grp.unit
    let k := (s.unitAt uid).queue q.toNat
    let n := k.words
    let X := (s.grp.sAt x.toNat).toNat
    let Y := (s.grp.sAt y.toNat).toNat
    let srcs := [spanS x.toNat (queueWords s q.toNat)]
    let after (t : State) : QueueSt := (t.unitAt uid).queue q.toNat
    let entry : Nat := k.ring + 4 * n * ((k.head + k.count) % k.cap)
    let oldest : List Word := (List.range n).map fun j =>
      BitVec.ofNat 32 (s.rdN (k.ring + 4 * n * (k.head % k.cap) + 4 * j) 4)
    let next (i : Instr) (l : List Span) (t : State) : Prop := exec i s = .next (t.advance (c.wordsOf 1 l) true)
    let trap (ins : Instr) (cause : Nat) : Prop := exec ins s = .next (i.s.takeTrap s.cur (i.trap 3 cause 0 0))
    let refused (ins : Instr) (mask : BitVec 17) : Prop :=
      (k.cap = 0 → trap ins 0x18) ∧ (k.cap ≠ 0 → mask.getLsbD s.grp.gidx = false → trap ins 0x19) ∧
      (k.cap ≠ 0 → mask.getLsbD s.grp.gidx = true → (x.toNat % n ≠ 0 ∨ 64 < x.toNat + n) → trap ins 0x1C)
    (s.unitAt uid).faulty = false → s.clean →
    let pushed (t : State) : Prop :=
      after t = { k with count := k.count + 1 } ∧ (∀ j < n, t.rdN (entry + 4 * j) 4 = (s.grp.sAt (x.toNat + j)).toNat) ∧
      ∀ a, a < entry ∨ entry + 4 * n ≤ a → t.rdByte a = s.rdByte a
    let popped (t : State) : Prop :=
      after t = { k with head := (k.head + 1) % k.cap, count := k.count - 1 } ∧ t.mem = s.mem
    (s.ready c [spanS x.toNat 1, spanS y.toNat 1] [] → k.pushers = [] → k.poppers = [] →
      X % 32 = 0 → 1 ≤ Y % 8192 → Y % 8192 ≤ 4096 → Y / 8192 % 8 = 0 → Y / 2 ^ 18 = 0 →
      (FMap.get {} s.grp.segs 1).v = true →
      X + Y % 8192 * 4 * 2 ^ (Y / 2 ^ 16 % 4) ≤ (FMap.get {} s.grp.segs 1).limit →
      ∃ t, next (.queueInit x y q) [spanS x.toNat 1, spanS y.toNat 1] t ∧ t.mem = s.mem ∧ s.sameRegs t ∧
        (after t).count = 0 ∧ (after t).cap = Y % 8192 ∧ (after t).words = 2 ^ (Y / 2 ^ 16 % 4) ∧
        (after t).ring = sloc (coreOf s.cur) ((FMap.get {} s.grp.segs 1).base + X) ∧
        ∀ g, g < (s.unitAt uid).groups → g < 16 →
          (after t).producers.getLsbD g = true ∧ (after t).consumers.getLsbD g = true) ∧
    (s.ready c [spanS x.toNat 1, spanS y.toNat 1] [] →
      (k.pushers ≠ [] ∨ k.poppers ≠ [] → trap (.queueInit x y q) 0x1A) ∧
      (k.pushers = [] → k.poppers = [] →
        X % 32 ≠ 0 ∨ Y % 8192 = 0 ∨ 4096 < Y % 8192 ∨ Y / 8192 % 8 ≠ 0 ∨ Y / 2 ^ 18 ≠ 0 ∨
          (FMap.get {} s.grp.segs 1).v = false ∨
          (FMap.get {} s.grp.segs 1).limit < X + Y % 8192 * 4 * 2 ^ (Y / 2 ^ 16 % 4) → trap (.queueInit x y q) 0x1B) ∧
      (2 ^ 17 ≤ X ∨ 2 ^ 17 ≤ Y → trap (.queueAllow x y q) 0x1B)) ∧
    (s.ready c [spanS x.toNat 1, spanS y.toNat 1] [] → X < 2 ^ 17 → Y < 2 ^ 17 →
      ∃ t, next (.queueAllow x y q) [spanS x.toNat 1, spanS y.toNat 1] t ∧ t.mem = s.mem ∧ s.sameRegs t ∧
        after t = { k with producers := BitVec.ofNat 17 X, consumers := BitVec.ofNat 17 Y }) ∧
    (s.ready c srcs [] → i.heldBack true = false → queueCause k true s.grp.gidx x.toNat = none → k.pushers = [] →
      k.poppers = [] →
      (k.count < k.cap → ∃ t, next (.queuePush x q) srcs t ∧ pushed t ∧ s.sameRegs t) ∧
      (k.cap ≤ k.count → 0 < k.count → ∃ t : State, exec (.queuePush x q) s = .next t.closeClause ∧ t.mem = s.mem ∧
        (after t).pushers = [(s.cur, c.slices, (List.range n).map fun j => s.grp.sAt (x.toNat + j))] ∧
        (after t).count = k.count)) ∧
    (s.ready c [] srcs → i.heldBack false = false → queueCause k false s.grp.gidx x.toNat = none → k.pushers = [] →
      k.poppers = [] →
      (0 < k.count → ∃ t tok, next (.queuePop x q) [] t ∧ popped t ∧ s.sameRegs t ∧
        t.grp.outs.length = s.grp.outs.length + 1 ∧
        t.grp.outs.getLast? = some
          { regs := (List.range n).map fun j => Reg.s (x.toNat + j), vals := some oldest, tok := tok, slices := c.slices }) ∧
      (k.count = 0 → ∃ t : State, exec (.queuePop x q) s = .next t.closeClause ∧ t.mem = s.mem ∧
        (∃ tok, (after t).poppers = [(s.cur, c.slices, tok)]) ∧ (after t).count = 0)) ∧
    (s.ready c srcs [spanS y.toNat 1] → i.heldBack true = false → queueCause k true s.grp.gidx x.toNat = none →
      k.pushers = [] → k.poppers = [] →
      ∃ t tok, next (.queueTrypush x y q) srcs t ∧ s.sameRegs t ∧
        (k.count < k.cap → pushed t) ∧ (k.cap ≤ k.count → t.mem = s.mem ∧ after t = k) ∧
        t.grp.outs = s.grp.outs ++
          [{ regs := [.s y.toNat], vals := some [if k.count < k.cap then 1 else 0], tok := tok, slices := c.slices }]) ∧
    (s.ready c [] (srcs ++ [spanS y.toNat 1]) → i.heldBack false = false → queueCause k false s.grp.gidx x.toNat = none →
      k.pushers = [] → k.poppers = [] →
      ∃ t tok, next (.queueTrypop x y q) [] t ∧ s.sameRegs t ∧ (0 < k.count → popped t) ∧
        (k.count = 0 → t.mem = s.mem ∧ after t = k) ∧
        t.grp.outs = s.grp.outs ++
          [{ regs := (if 0 < k.count then (List.range n).map fun j => Reg.s (x.toNat + j) else []) ++ [.s y.toNat]
             vals := some (if 0 < k.count then oldest ++ [1] else [0]), tok := tok, slices := c.slices }]) ∧
    (s.ready c srcs [] → i.heldBack true = false → refused (.queuePush x q) k.producers) ∧
    (s.ready c srcs [spanS y.toNat 1] → i.heldBack true = false → refused (.queueTrypush x y q) k.producers) ∧
    (s.ready c [] srcs → i.heldBack false = false → refused (.queuePop x q) k.consumers) ∧
    (s.ready c [] (srcs ++ [spanS y.toNat 1]) → i.heldBack false = false → refused (.queueTrypop x y q) k.consumers)

/-- R254, R274 to R276: a barrier is set up for a number of arrivals; expect raises its expected completions; an arrival
lowers PEND, is a release at team scope (what its core sees, its die sees) and writes the phase to sX; the arrival that leaves
nothing pending and nothing expected ends the phase; a wait with the token of an ended phase goes on, with the current one it
parks; arrwait arrives and waits with the token of its arrival. A barrier that is not set up and an arrival with none pending
are ACCESS, with INFO 0 (log entry 34). -/
def Obligations.Barriers : Prop :=
  ∀ (s : State) (c : Clause) (x : BitVec 6) (b : BitVec 8),
    let i := s.found c 1
    let uid := s.grp.unit
    let k := (s.unitAt uid).abar b.toNat
    let X := (s.grp.sAt x.toNat).toNat
    let core := coreOf s.cur
    let after (t : State) : AbarSt := (t.unitAt uid).abar b.toNat
    let next (i : Instr) (l : List Span) (t : State) : Prop :=
      exec i s = .next (t.advance (c.wordsOf 1 l) true) ∧ t.mem = s.mem ∧ s.sameRegs t
    let arrived (t : State) : Prop :=
      (∀ w ∈ t.vis, w.core = core ∨ dieOfCore core ∉ w.unseen → dieOfCore core ∉ w.unseen) ∧
      (k.pend = 1 → k.xp = 0 → (after t).phase = (k.phase + 1) % 2 ^ 32 ∧ (after t).pend = k.count ∧ (after t).xp = 0) ∧
      ((k.pend ≠ 1 ∨ k.xp ≠ 0) → after t = { k with pend := k.pend - 1 })
    (s.unitAt uid).faulty = false →
    (s.ready c [spanS x.toNat 1] [] → (s.found c 1).s.abarWaited uid b.toNat = false → 1 ≤ X → X ≤ 1023 →
      ∃ t, next (.abarInit x b) [spanS x.toNat 1] t ∧ after t = { count := X, pend := X }) ∧
    (s.ready c [spanS x.toNat 1] [] → 0 < k.count → 1 ≤ X → X ≤ 65535 → 0 ≤ k.xp → k.xp + X < 2 ^ 31 →
      ∃ t, next (.abarExpect x b) [spanS x.toNat 1] t ∧ after t = { k with xp := k.xp + X }) ∧
    (s.ready c [] [spanS x.toNat 1] → i.heldBack true = false → 0 < k.count → 0 < k.pend →
      ∃ t tok, next (.abarArrive x b) [] t ∧ arrived t ∧
        t.grp.outs = s.grp.outs ++
          [{ regs := [.s x.toNat], vals := some [BitVec.ofNat 32 k.phase], tok := tok, slices := c.slices }]) ∧
    (s.ready c [spanS x.toNat 1] [] → 0 < k.count →
      (k.phase ≠ X → ∃ t, next (.abarWait x b) [spanS x.toNat 1] t ∧ after t = k) ∧
      (k.phase = X → ∃ t : State, exec (.abarWait x b) s = .next t.closeClause ∧ t.mem = s.mem ∧
        ∀ p ∈ t.grp.paths, p.slices &&& c.slices ≠ 0 → p.wait = some (.abar b.toNat k.phase))) ∧
    (s.ready c [] [] → i.heldBack true = false → 0 < k.count → 0 < k.pend →
      ∃ t : State, exec (.abarArrwait b) s = .next t.closeClause ∧ t.mem = s.mem ∧ s.sameRegs t ∧ arrived t ∧
        ∀ p ∈ t.grp.paths, p.slices &&& c.slices ≠ 0 →
          p.wait = if k.pend = 1 ∧ k.xp = 0 then none else some (.abar b.toNat k.phase)) ∧
    (let refused (ins : Instr) : Prop :=
       (k.count = 0 → exec ins s = .next (i.s.takeTrap s.cur (i.trap 3 0x1D 0 0))) ∧
       (k.count ≠ 0 → k.pend = 0 → exec ins s = .next (i.s.takeTrap s.cur (i.trap 3 0x1E 0 0)))
     (s.ready c [] [] → i.heldBack true = false → refused (.abarArrwait b)) ∧
     (s.ready c [] [spanS x.toNat 1] → i.heldBack true = false → refused (.abarArrive x b)))

/-! ## The work hierarchy -/

/-- R361 to R366, R370, R386: with no error in memory, lvl.open writes a whole level object that runs under its parent and
raises the parent's CTR; lvl.ctr adds to a running level's CTR and returns the old one; lvl.close sets CLOSED; lvl.budget
sets a phase's budget; lvl.cancel sets CANCEL in the level and in each running level below it; lvl.launch opens a launch
and its units, raises the parent's CTR and hands the units to their cores. Each that refuses returns its status and
changes no byte. INFO 0 of LVL_OPERAND is the model's reading (log entry 34). -/
def Obligations.LevelInstructions : Prop :=
  ∀ (s : State) (c : Clause) (x y : BitVec 6) (z : BitVec 8) (l : Nat),
    let i := s.found c 1
    let dev := (s.unitAt s.grp.unit).dev
    let asid := (s.unitAt s.grp.unit).asid
    let X (k : Nat) : Nat := (s.grp.sAt (x.toNat + k)).toNat
    let reg : List Reg := [.s y.toNat]
    let x1 : List Span := [spanS x.toNat 1]
    let x2 : List Span := [spanS x.toNat 2]
    let y1 : List Span := [spanS y.toNat 1]
    let ends (n : Instr) (srcs : List Span) (st : Nat) (p : State → Prop) : Prop :=
      ∃ t, s.completes c n srcs t ∧ s.owes t c reg [BitVec.ofNat 32 st] ∧ s.sameRegs t ∧ p t
    let refuses (n : Instr) (srcs : List Span) (st : Nat) : Prop := ends n srcs st fun t => t.mem = s.mem ∧ t.tags = s.tags
    s.clean → (∀ a, s.migOf a = none) → i.heldBack true = false → X 0 % 64 = 0 →
    (s.ready c (x1 ++ y1) y1 → i.object64 (X 0) 64 true = .ok l → s.lvBroken dev l = false →
      let new := s.lvCtr dev l + (s.grp.sAt y.toNat).toInt
      (s.lvRunning dev l = true → s.lvCtr dev l < 2 ^ 31 → 0 ≤ new → new < 2 ^ 31 →
        ends (.lvlCtr x y) (x1 ++ y1) (s.lvCtr dev l) fun t => (t.lvCtr dev l : ℤ) = new ∧ s.onlyAt t [(s.lvAt dev l, 4)]) ∧
      (s.lvRunning dev l = false → refuses (.lvlCtr x y) (x1 ++ y1) 0xFFFFFFFF)) ∧
    (s.ready c x1 y1 → i.object64 (X 0) 64 true = .ok l → s.lvBroken dev l = false →
      let kind := s.lvKind dev l
      (s.lvRunning dev l = true → kind = 2 ∨ kind = 3 → s.lvFlag dev l 1 = false → s.nodesOf dev l = [] →
        ends (.lvlClose x y) x1 0 fun t => (∀ k, t.lvFlag dev l k = (decide (k = 1) || s.lvFlag dev l k)) ∧
          s.onlyAt t [(s.lvAt dev l + 6, 1)]) ∧
      (s.lvRunning dev l = true → 2 ≤ kind → s.lvFlag dev l 1 = false → ∃ t, s.completes c (.lvlClose x y) x1 t) ∧
      (s.lvRunning dev l = true → kind < 2 → refuses (.lvlClose x y) x1 2) ∧
      (s.lvRunning dev l = false → refuses (.lvlClose x y) x1 3) ∧
      (s.lvRunning dev l = true → s.lvFlag dev l 0 = true → refuses (.lvlCancel x y) x1 0) ∧
      (s.lvRunning dev l = false → refuses (.lvlCancel x y) x1 3) ∧
      (s.lvRunning dev l = true → s.lvFlag dev l 0 = false → (∀ p ∈ s.levels, p.2 % 64 = 0 ∧ p.2 < globalSize s.mode) →
        l % 64 = 0 → l < globalSize s.mode → (∀ n, (s.nodeSt dev n).waiters = []) → (∀ p ∈ s.units, p.2.opened = true) →
        ∃ t, s.completes c (.lvlCancel x y) x1 t ∧ s.owesLast t c reg [0] ∧ s.sameRegs t ∧
          ∀ k ∈ l :: s.lvDescendants dev l, t.lvFlag dev k 0 = true)) ∧
    (s.ready c x2 y1 → i.object64 (X 0) 64 true = .ok l → s.lvBroken dev l = false →
      (s.lvRunning dev l = true → s.lvKind dev l = 3 →
        ends (.lvlBudget x y) x2 0 fun t => t.lvBudget dev l = X 1 ∧ s.onlyAt t [(s.lvAt dev l + 24, 4)]) ∧
      (s.lvRunning dev l = true → s.lvKind dev l ≠ 3 → refuses (.lvlBudget x y) x2 2) ∧
      (s.lvRunning dev l = false → refuses (.lvlBudget x y) x2 3)) ∧
    (∀ p, s.ready c [spanS x.toNat 4] y1 → X 1 % 64 = 0 → i.object64 (X 0) 64 true = .ok l →
      i.object64 (X 1) 64 true = .ok p → s.lvBroken dev l = false → s.lvBroken dev p = false → z = 2 ∨ z = 3 →
      let legal : Prop := X 3 < 4 ∧ (z = 2 → X 2 = 0) ∧ (z = 3 → X 3 % 2 = 0)
      let n : Instr := .lvlOpen x y z
      (legal → s.lvRunning dev l = false → wider z.toNat (s.lvKind dev p) = true → s.lvRefuses dev p = false →
        ends n [spanS x.toNat 4] 0 fun t =>
          t.lvCtr dev l = 0 ∧ t.lvKind dev l = z.toNat ∧ t.lvStatus dev l = 1 ∧ t.lvFlags dev l = 4 * X 3 ∧
          t.lvParent dev l = p % 2 ^ 32 ∧ t.lvErr dev l = 0 ∧ t.lvOpenCyc dev l = s.devCycle dev asid % 2 ^ 64 ∧
          t.lvBudget dev l = X 2 ∧ t.lvCtr dev p = (s.lvCtr dev p + 1) % 2 ^ 32 ∧ t.tagFull (s.lvAt dev l) = false ∧
          (dev, l) ∈ t.levels ∧ s.onlyAt t [(s.lvAt dev l, 64), (s.lvAt dev p, 4)]) ∧
      (legal → s.lvRunning dev l = true → refuses n [spanS x.toNat 4] 3) ∧
      (legal → s.lvRunning dev l = false → wider z.toNat (s.lvKind dev p) = false → refuses n [spanS x.toNat 4] 2) ∧
      (legal → s.lvRunning dev l = false → wider z.toNat (s.lvKind dev p) = true → s.lvRefuses dev p = true →
        refuses n [spanS x.toNat 4] 1) ∧
      (¬legal → exec n s = .next ((i.s.releaseAt (coreOf s.cur) 4).takeTrap s.cur (i.trap 3 0x50 0 0)))) ∧
    (∀ p, s.ready c x2 y1 → X 1 % 64 = 0 → i.object64 (X 0) 512 false = .ok l → i.object64 (X 1) 64 true = .ok p →
      s.lvBroken dev p = false →
      let r := s.readRecord dev asid l
      let n : Instr := .lvlLaunch x y
      let objs := (List.range (r.units + 1)).map fun i => r.level + 64 * i
      (r.bad = true ∨ r.badUnits = true → refuses n x2 5) ∧
      (r.bad = false → r.badUnits = false → (∀ o ∈ objs, s.lvBroken dev o = false) →
        (r.badPlace = true → refuses n x2 6) ∧
        (r.badPlace = false → (∃ o ∈ objs, s.lvRunning dev o = true) → refuses n x2 3) ∧
        (r.badPlace = false → (∀ o ∈ objs, s.lvRunning dev o = false) →
          (wider 1 (s.lvKind dev p) = false → refuses n x2 2) ∧
          (wider 1 (s.lvKind dev p) = true → s.lvRefuses dev p = true → refuses n x2 1) ∧
          (wider 1 (s.lvKind dev p) = true → s.lvRefuses dev p = false → p % 64 = 0 →
            ends n x2 0 fun t =>
              t.lvCtr dev r.level = r.units ∧ t.lvKind dev r.level = 1 ∧ t.lvStatus dev r.level = 1 ∧
              t.lvParent dev r.level = p % 2 ^ 32 ∧ t.lvCtr dev p = (s.lvCtr dev p + 1) % 2 ^ 32 ∧
              s.onlyAt t [(s.lvAt dev r.level, 64 * (r.units + 1)), (s.lvAt dev p, 4)] ∧
              ∀ u < r.units,
                let o := r.level + 64 * (1 + u)
                t.lvCtr dev o = r.u.groups ∧ t.lvKind dev o = 0 ∧ t.lvStatus dev o = 1 ∧
                t.lvParent dev o = r.level % 2 ^ 32 ∧
                ∃ k, (t.unitAt k).level = o ∧ (t.unitAt k).uidx = u ∧ (t.unitAt k).started = false ∧
                  k ∈ (t.coreAt (t.unitAt k).core).arrivals))))


/-- R373, R374, R378, R380, R382, R387: task.submit reports the reason that refuses its first record, and puts a record
whose operands are absent into its bin as ready; task.done takes ready records and writes their count, task.done.wait
joins the queue of its node; dsp.init and dsp.next hand out the tiles of a grid in order, each to a full word of slice
space; ver.pubv publishes, withholds or notes a version by the level that it depends on, and ver.qver reads one. INFO 0 of the
causes is the model's reading (log entry 34). -/
def Obligations.TasksDispensersVersions : Prop :=
  ∀ (s : State) (c : Clause) (x y : BitVec 6) (n : BitVec 8) (off : Nat),
    let i := s.found c 1
    let u := s.unitAt s.grp.unit
    let dev := u.dev
    let core := coreOf s.cur
    let X (k : Nat) : Nat := (s.grp.sAt (x.toNat + k)).toNat
    let Y : Nat := (s.grp.sAt y.toNat).toNat
    let x1 : List Span := [spanS x.toNat 1]
    let y1 : List Span := [spanS y.toNat 1]
    let slice : Nat := sloc core (FMap.get {} s.grp.segs 1).base
    s.clean → i.heldBack true = false → (∀ a, s.migOf a = none) → s.grp.ctrFull 7 = false →
    (s.ready c x1 y1 → i.sliceOperand (X 0) 32 (32 * n.toNat) false = none →
      let rec' : List Byte := (List.range 8).flatMap fun w =>
        bytesOf 4 ((s.releaseAt core 4).readAt core (dieOfCore core) (slice + X 0 + 4 * w) 4)
      let f (o k : Nat) : Nat := ofBytes ((rec'.drop o).take k)
      let node := f 0 2
      let e := s.nodeEnt dev node
      let q := s.nodeSt dev node
      let slot := q.tail % e.bincap
      (0 < n.toNat → s.recordCause i rec' ≠ 0 →
        ∃ t, s.completes c (.taskSubmit x y n) x1 t ∧
          s.owes t c [.s y.toNat] [BitVec.ofNat 32 (65536 * s.recordCause i rec')] ∧ t.mem = s.mem ∧ t.devs = s.devs) ∧
      (n = 1 → s.recordCause i rec' = 0 → q.recs = [] → f 2 2 % 4 = 3 → 2 ≤ e.c → 0 < e.timer →
        s.lvFlag dev e.graph 1 = false → s.lvAt dev e.graph + 64 ≤ 2 ^ 33 → e.die < 4 →
        qloc e.die (32 * (e.binrec + slot)) ≠ s.nodePlace dev node →
        ∃ t tok, s.completes c (.taskSubmit x y n) x1 t ∧ s.owes t c [.s y.toNat] [1] ∧
          (t.nodeSt dev node).recs = [{ slot := slot, missing := 0, ready := some (s.cycle, tok) }] ∧
          t.rdBytes (qloc e.die (32 * (e.binrec + slot))) 32 = rec' ∧
          t.lvCtr dev e.graph = (s.lvCtr dev e.graph + 1) % 2 ^ 32 ∧
          s.onlyAt t [(qloc e.die (32 * (e.binrec + slot)), 32), (s.lvAt dev e.graph, 4)])) ∧
    (∀ node, u.node = some node → s.ready c [] x1 →
      let e := s.nodeEnt dev node
      let q := s.nodeSt dev node
      let taken := (readyList q.recs).take e.c
      let area := sloc u.core ((FMap.get {} u.segs 1).base + u.recoff)
      (u.core < 208 → (FMap.get {} u.segs 1).base + u.recoff + 2048 ≤ 2 ^ 25 → ∃ t, s.completes c (.taskDone x) [] t ∧ s.owes t c [.s x.toNat] [BitVec.ofNat 32 taken.length] ∧
        (t.nodeSt dev node).recs = q.recs.filter (fun r => decide (r ∉ taken)) ∧
        s.onlyAt t [(s.lvAt dev e.graph, 4), (area, 32 * taken.length)] ∧
        ∀ k r, taken[k]? = some r → t.rdBytes (area + 32 * k) 32 = s.rdBytes (qloc e.die (32 * (e.binrec + r.slot))) 32) ∧
      (readyList q.recs = [] → q.waiters = [] → s.lvFlag dev q.graph 0 = false → s.lvFlag dev q.graph 1 = false →
        ∃ (t : State) (tok : Nat), exec (.taskDoneWait x) s = .next t.closeClause ∧ t.mem = s.mem ∧
          (t.nodeSt dev node).waiters = [(s.cur, c.slices, tok)] ∧
          FMap.get 0 t.grp.ctr 7 = FMap.get 0 s.grp.ctr 7 + 1 ∧
          t.grp.outs = s.grp.outs ++ [{ regs := [.s x.toNat], vals := none, tok := tok, slices := c.slices }] ∧
          ∀ p ∈ t.grp.paths, p.slices &&& c.slices ≠ 0 → p.wait = some (.taskDone x.toNat))) ∧
    (s.ready c (x1 ++ y1) [] → X 0 % 64 = 0 → i.object64 (X 0) 64 true = .ok off →
      let a := gloc s.mode dev off
      let cols := s.rdN (a + 4) 2
      let k := s.rdN a 4
      let more : Prop := k < cols * s.rdN (a + 6) 2
      let place := slice + Y
      (Y % 65536 ≠ 0 → Y / 65536 ≠ 0 →
        ∃ t, s.completes c (.dspInit x y) (x1 ++ y1) t ∧ s.sameRegs t ∧ t.grp.outs = s.grp.outs ∧ t.rdN a 4 = 0 ∧
          t.rdN (a + 4) 2 = Y % 65536 ∧ t.rdN (a + 6) 2 = Y / 65536 ∧ s.onlyAt t [(a, 8)]) ∧
      (Y % 65536 = 0 ∨ Y / 65536 = 0 → exec (.dspInit x y) s = .next (i.s.takeTrap s.cur (i.trap 3 0x51 0 0))) ∧
      (i.sliceOperand Y 8 8 true = none → s.parked = [] → place < 2 ^ 33 → place + 8 ≤ a ∨ a + 64 ≤ place →
        (∀ l ∈ s.levels, s.lvAt l.1 l.2 / 8 ≠ place / 8) →
        ∃ t, s.completes c (.dspNext x y) (x1 ++ y1) t ∧ s.sameRegs t ∧ t.grp.outs = s.grp.outs ∧
          t.tagFull place = true ∧ s.onlyAt t [(a, 4), (place, 8)] ∧
          (more → t.rdN a 4 = k + 1 ∧ t.rdN place 2 = k % cols ∧ t.rdN (place + 2) 2 = k / cols ∧
            t.rdN (place + 4) 4 = k) ∧
          (¬more → t.rdN a 4 = k ∧ t.rdN place 8 = 2 ^ 64 - 1))) ∧
    (s.ready c [spanS x.toNat 4] y1 → X 0 % 64 = 0 → i.object64 (X 0) 64 true = .ok off →
      let a := gloc s.mode dev off
      let ends (st : Nat) (p : State → Prop) : Prop :=
        ∃ t, s.completes c (.verPubv x y) [spanS x.toNat 4] t ∧ s.owes t c [.s y.toNat] [BitVec.ofNat 32 st] ∧
          s.sameRegs t ∧ p t
      let keeps (t : State) : Prop := t.mem = s.mem ∧ t.vers = s.vers
      let published (t : State) : Prop := t.rdN a 4 = (s.rdN a 4 + 1) % 2 ^ 32 ∧
        t.rdN (a + 8) 8 = X 2 + 2 ^ 32 * X 3 ∧ t.rdN (a + 28) 1 = 0 ∧ s.onlyAt t [(a, 4), (a + 8, 8), (a + 28, 1)]
      (X 1 = 0xFFFFFFFF →
        (s.rdN (a + 28) 1 = 1 → ends 3 keeps) ∧ (s.rdN (a + 28) 1 ≠ 1 → ends 1 published)) ∧
      (∀ l, X 1 ≠ 0xFFFFFFFF → X 1 % 64 = 0 → i.object64 (X 1) 64 false = .ok l →
        (s.rdN (a + 28) 1 = 1 → ends 3 keeps) ∧
        (s.rdN (a + 28) 1 ≠ 1 →
          (s.lvStatus dev l = 0 → ends 4 keeps) ∧
          (s.lvStatus dev l = 2 → ends 1 published) ∧
          (s.lvStatus dev l = 1 → ends 0 fun t => (dev, off) ∈ t.vers ∧ t.rdN (a + 16) 8 = X 2 + 2 ^ 32 * X 3 ∧
            t.rdN (a + 24) 4 = l % 2 ^ 32 ∧ t.rdN (a + 28) 1 = 1 ∧ s.onlyAt t [(a + 16, 8), (a + 24, 4), (a + 28, 1)]) ∧
          (3 ≤ s.lvStatus dev l → ends 2 fun t => t.rdN (a + 4) 4 = (s.rdN (a + 4) 4 + 1) % 2 ^ 32 ∧
            t.rdN (a + 28) 1 = 0 ∧ s.onlyAt t [(a + 4, 4), (a + 28, 1)])))) ∧
    (s.ready c x1 [spanS y.toNat 4] → X 0 % 64 = 0 → i.object64 (X 0) 64 false = .ok off →
      let a := gloc s.mode dev off
      ∃ t, s.completes c (.verQver x y) x1 t ∧ t.mem = s.mem ∧ s.sameRegs t ∧
        s.owes t c [.s y.toNat, .s (y.toNat + 1), .s (y.toNat + 2), .s (y.toNat + 3)]
          [BitVec.ofNat 32 (s.rdN a 4), BitVec.ofNat 32 (s.rdN (a + 4) 4), BitVec.ofNat 32 (s.rdN (a + 8) 8),
            BitVec.ofNat 32 (s.rdN (a + 8) 8 / 2 ^ 32)])

/-! ## Engines -/

/-- R304 to R306, R313, R318: with no error in memory and no page under migration, each form of cpy whose descriptor passes the
checks puts a command with the descriptor's fields into the lowest free slot, writes PROGRESS 0, STATUS 1 and FAULTVA 0 and
raises the copy counter, and so does cpy.opb once the record that it names reaches its rows; a check that fails traps in the
order of R306 and starts nothing, with INFO 0 by the model's reading (log entry 34). cfetch of a present segment has no effect;
otherwise it makes the segment loading and holds a slot. -/
def Obligations.CopyInstructions : Prop :=
  ∀ (s : State) (c : Clause) (x : BitVec 6) (fr : BitVec 1) (n : BitVec 6),
    let i := s.found c 1
    let core := coreOf s.cur
    let e := s.coreAt core
    let u := s.unitAt s.grp.unit
    let off := (s.grp.sAt x.toNat).toNat
    let sl := FMap.get {} s.grp.segs 1
    let a := sloc core (sl.base + off)
    let dsc := readDesc fun o n => s.readAt core (dieOfCore core) (a + o) n
    let srcs : List Span := [spanS x.toNat 1]
    let cmd (form : Nat) : CopyCmd :=
      { slot := e.freeSlot.getD 0, agent := s.cur, unit := s.grp.unit, dev := u.dev, asid := u.asid, form := form, d := dsc.1
        desc := a, sslice := sl, sglobal := FMap.get {} s.grp.segs 2, smain := FMap.get {} s.grp.segs 3, tok := s.tok }
    let started (ins : Instr) (l : List Span) (k : CopyCmd) (t : State) : Prop :=
      s.completes c ins l t ∧ s.sameRegs t ∧ t.grp.outs = s.grp.outs ∧ (t.coreAt core).copies = e.copies ++ [k] ∧
        FMap.get 0 t.grp.ctr 1 = FMap.get 0 s.grp.ctr 1 + 1
    let form (ins : Instr) (f : Nat) (starts : Nat → Prop) : Prop :=
      let trap (cls cause info : Nat) : Prop := exec ins s = .next (i.s.takeTrap s.cur (i.trap cls cause 0 info))
      let fits : Prop := off % 64 = 0 ∧ sl.v = true ∧ off + 64 ≤ sl.limit
      let formed : Prop := descOk f dsc.1 dsc.2.1 dsc.2.2 = true
      let aligned : Prop := descAligned f dsc.1 = true
      (off % 64 ≠ 0 → trap 4 0 off) ∧
      (off % 64 = 0 → sl.v = false → trap 3 0x01 off) ∧
      (off % 64 = 0 → sl.v = true → sl.limit < off + 64 → trap 3 0x02 off) ∧
      (fits → ¬formed → trap 3 0x28 0) ∧ (fits → formed → ¬aligned → trap 4 0 0) ∧
      (fits → formed → aligned → ∀ cause, s.copyCause (cmd f) = some cause → trap 3 cause 0) ∧
      (fits → formed → aligned → s.copyCause (cmd f) = none → e.freeSlot.isSome = true → a + 64 ≤ 2 ^ 33 →
        ∀ row, starts row →
          ∃ t, exec ins s = .next (t.advance (c.wordsOf 1 srcs) true) ∧ started ins srcs { cmd f with row := row } t ∧
            t.rdN (a + 48) 4 = 0 ∧ t.rdN (a + 52) 4 = 1 ∧ t.rdN (a + 56) 8 = 0 ∧ s.onlyAt t [(a + 48, 16)])
    let plain (r : Nat) : Prop := r = 0
    s.clean → (∀ a, s.migOf a = none) → s.grp.ctrFull 1 = false → i.heldBack true = false →
    (s.ready c srcs [] →
      form (.cpyLin x) 0 plain ∧ form (.cpyBlk2 x) 1 plain ∧ form (.cpyBlk3 x) 2 plain ∧ form (.cpyGath x) 3 plain ∧
      form (.cpyScat x) 4 plain ∧ form (.cpyFill x) 5 plain ∧ form (.cpyExp6 x) 6 plain ∧ form (.cpyPak6 x) 7 plain ∧
      form (.cpyRedAdd x) 8 plain ∧ form (.cpyRedMin x) 9 plain ∧ form (.cpyRedMax x) 10 plain ∧
      form (.cpyOpb x) 11 (fun r => e.recsPending = false ∧ e.opbRow dsc.1 = .ok r)) ∧
    (s.ready c [spanS x.toNat 2] [] →
      let va := off + 2 ^ 32 * (s.grp.sAt (x.toNat + 1)).toNat
      let main := FMap.get {} s.grp.segs 3
      let st := e.seg n.toNat
      let ins : Instr := .cfetch x fr n
      va % 4096 = 0 → s.rangeCause u.dev main 2 va 4096 false = none →
      (n.toNat = c.base / 4096 ∨ (st.st = 1 ∧ st.va ≠ va) →
        exec ins s = .next (i.s.takeTrap s.cur (i.trap 3 0x2C 0 va))) ∧
      (¬(n.toNat = c.base / 4096 ∨ (st.st = 1 ∧ st.va ≠ va)) →
        (st.st = 2 → st.va = va → fr = 0 →
          ∃ t : State, exec ins s = .next (t.advance (c.wordsOf 1 [spanS x.toNat 2]) true) ∧ t.grp = i.g ∧ t.mem = s.mem ∧
            t.cores = s.cores) ∧
        (¬(st.st = 2 ∧ st.va = va ∧ fr = 0) → ∀ slot, e.freeSlot = some slot →
          ∃ t, started ins [spanS x.toNat 2]
              { slot := slot, agent := s.cur, unit := s.grp.unit, dev := u.dev, asid := u.asid, form := 0
                cseg := some n.toNat, va := va, smain := main, tok := s.tok } t ∧
            t.mem = s.mem ∧ (t.coreAt core).seg n.toNat = { st := 1, va := va })))

/-- R321 to R325: a collective on a granted object joins the collectives of the object with its member's rank, its
contribution and its place in the count, raises the collective counter and leaves its results outstanding; two ared that
match have both the reduction of their tiles, in rank order; an object that is not the group's, bad argument words and a
barrier that is not set up are ACCESS. Words that a form does not use are ignored. The model's readings: the register after a
SRAM buffer's address that is not 0 is COLL_OPERAND (log entry 42); INFO 0 of the causes (34). -/
def Obligations.Collectives : Prop :=
  ∀ (s : State) (c : Clause) (x y : BitVec 6) (e p t : BitVec 2),
    let i := s.found c 1
    let u := s.unitAt s.grp.unit
    let dev := u.dev
    let gidx := s.grp.gidx
    let X (k : Nat) : Nat := (s.grp.sAt (x.toNat + k)).toNat
    let obj := X 0 % 256
    let peer := nbits (X 0) 27 16
    let main := (X 0).testBit 31
    let bar := nbits (X 0) 13 8
    let addr := X 2 + (if main then 2 ^ 32 * X 3 else 0)
    let tile (k : Nat) : List Word := (List.range 256).map fun j => s.grp.tAt k j
    let goes (ins : Instr) (form ty op t : Nat) (reads writes usesPeer : Bool) : Prop :=
      let buffer : Bool := decide (form = 3 ∨ form = 4 ∨ form = 6)
      let srcs : List Span := [spanS x.toNat (if buffer then 4 else 2)] ++ if reads then [(256 + t, 1)] else []
      let trap (cause : Nat) : Prop := exec ins s = .next (i.s.takeTrap s.cur (i.trap 3 cause 0 0))
      s.ready c srcs ([spanS y.toNat 1] ++ if writes then [(256 + t, 1)] else []) → s.grp.ctrFull 3 = false →
      i.heldBack true = false →
      (s.gobj dev obj = none → trap 0x30) ∧
      ∀ o, s.gobj dev obj = some o →
        (s.gobjGranted u obj = false ∨ o.p ≤ gidx ∨ o.rankOf dev s.grp.unit = none → trap 0x30) ∧
        ∀ rank, s.gobjGranted u obj = true → gidx < o.p → o.rankOf dev s.grp.unit = some rank →
          let formed : Prop := nbits (X 0) 30 28 = 0 ∧ (X 0).testBit 15 = false ∧ X 1 = 0 ∧ (usesPeer = false → peer = 0) ∧
            peer < o.m ∧ (buffer → main = false → X 3 = 0) ∧ (form = 7 → X 0 = obj)
          let barOk : Prop := (X 0).testBit 14 = true → (u.abar bar).count ≠ 0
          (¬formed → trap 0x31) ∧ (formed → ¬barOk → trap 0x1D) ∧
          ∀ (places : List Nat) (s1 : State), formed → barOk →
            (if buffer then
              i.bufLines i.s main addr (16 * (if form = 6 then 1 else o.m)) (decide (form ≠ 4)) (etesianDie s.mode dev obj) =
                (.ok (some places), s1)
             else places = [] ∧ s1 = i.s) →
            2 ≤ o.m → (∀ a, s1.migOf a = none) → s1.clean →
            let gives (tok : Nat) (t' : State) : Prop :=
              exec ins s = .next (t'.advance (c.wordsOf 1 srcs) true) ∧ s.sameRegs t' ∧ t'.mem = s1.mem ∧
                FMap.get 0 t'.grp.ctr 3 = FMap.get 0 s.grp.ctr 3 + 1 ∧
                t'.grp.outs = s.grp.outs ++
                  (if writes = true ∧ ¬(form = 1 ∧ rank ≠ peer) then
                    [{ regs := (List.range 256).map fun j => Reg.t t j, vals := none, tok := tok, slices := c.slices }]
                   else []) ++
                  [{ regs := [.s y.toNat], vals := none, tok := tok + 1, slices := c.slices }]
            (∃ t' tok, gives tok t') ∧
            (o.mismatch = false → s.gobjBad dev obj = false → (∀ m ∈ o.members, m.ended = false) →
            (s.colls = [] →
              ∃ (t' : State) (q : CollOp), gives q.tok t' ∧
                t'.colls = [q] ∧ q.dev = dev ∧ q.obj = obj ∧ q.agent = s.cur ∧ q.unit = s.grp.unit ∧ q.rank = rank ∧
                q.k = gidx ∧ q.form = form ∧ q.peer = peer ∧ q.et = ty ∧ q.op = op ∧ q.buf = places ∧ q.result = none ∧
                q.bar = (if (X 0).testBit 14 then some bar else none) ∧
                q.n = (if form = 7 then 0 else o.seqOf rank gidx (seqKind form) (seqPeer form peer)) ∧
                (reads = true → q.data = if form = 2 ∧ rank ≠ peer then [] else tile t)) ∧
            (∀ d : CollOp, form = 0 → o.m = 2 → s.colls = [d] → d.obj = obj → s.joined dev d.dev obj = true → d.k = gidx → d.form = 0 → d.result = none →
              d.n = o.seqOf rank gidx 0 0 → d.peer = 0 → d.op = op → d.et = ty → d.fault = false → d.rank ≠ rank →
              let f (a b : Word) : Word := BitVec.ofNat 32 (combine op ty a.toNat b.toNat)
              let r := if d.rank < rank then d.data.zipWith f (tile t) else (tile t).zipWith f d.data
              ∃ t' : State, s.completes c ins srcs t' ∧
                (t'.colls.map fun d => d.result) = [some (0, r), some (0, r)]))
    s.clean → (∀ a, s.migOf a = none) →
    goes (.collAred x y e p t) 0 e.toNat p.toNat t.toNat true true false ∧
    goes (.collRed x y e p t) 1 e.toNat p.toNat t.toNat true true true ∧
    goes (.collBcst x y t) 2 0 0 t.toNat true true true ∧ goes (.collAgth x y t) 3 0 0 t.toNat true false false ∧
    goes (.collRsct x y e p t) 4 e.toNat p.toNat t.toNat false true false ∧
    goes (.collSend x y t) 5 0 0 t.toNat true false true ∧ goes (.collRecv x y) 6 0 0 0 false false true ∧
    goes (.collRset x y) 7 0 0 0 false false false

/-- R328 to R331, R474: cnt.decl declares lines with a count each and empties their first words' tags, or frees a
declaration; cnt.trig arms a trigger, which a complete declaration fires at once; a contribution lowers the counts of its
lines and fills the tags of those that it completes; present.post puts a frame behind those posted for its output, or
returns the status that refuses it. -/
def Obligations.CountedLinesAndPresent : Prop :=
  ∀ (s : State) (c : Clause) (x y : BitVec 6) (b : BitVec 8),
    let i := s.found c 1
    let uid := s.grp.unit
    let u := s.unitAt uid
    let dev := u.dev
    let X := (s.grp.sAt x.toNat).toNat
    let Y := (s.grp.sAt y.toNat).toNat
    let x1 : List Span := [spanS x.toNat 1]
    let seg := FMap.get {} s.grp.segs 2
    let a := gloc s.mode dev (seg.base + X)
    let noLevel (q : Nat) : Prop := ∀ l ∈ s.levels, s.lvAt l.1 l.2 / 8 ≠ q / 8
    (s.ready c [spanS x.toNat 1, spanS y.toNat 1] [] → i.readsLeft = false → X % 64 = 0 → Y / 2 ^ 28 = 0 →
      let lines := if Y % 65536 = 0 then 1 else nbits Y 27 16 + 1
      let others := s.decls.filter fun d => decide (¬(d.dev = dev ∧ (s.unitAt d.unit).asid = u.asid ∧ d.first = a))
      let ins : Instr := .cntDecl x y
      s.rangeCause dev seg 1 X (64 * lines) true = none → i.linesLeft a lines = false →
      (Y % 65536 = 0 →
        ∃ t, s.completes c ins [spanS x.toNat 1, spanS y.toNat 1] t ∧ t.decls = others ∧ t.mem = s.mem ∧ t.tags = s.tags) ∧
      (Y % 65536 ≠ 0 → a / 2 ^ 25 = (a + 64 * lines - 1) / 2 ^ 25 →
        (∀ d ∈ others, a + 64 * lines ≤ d.first ∨ d.first + 64 * d.lines ≤ a) →
        (let here := others.filter fun d => decide (d.first / 2 ^ 25 = a / 2 ^ 25)
         here.length < 256 ∧
           (here.filter fun d => decide (d.dev = dev ∧ (s.unitAt d.unit).asid = u.asid)).length < (s.ctxAt dev u.asid).decls) →
        s.parked = [] → (∀ k < lines, noLevel (a + 64 * k)) →
        ∃ t, s.completes c ins [spanS x.toNat 1, spanS y.toNat 1] t ∧ t.mem = s.mem ∧ s.sameRegs t ∧
          t.decls = others ++
            [{ dev := dev, unit := uid, first := a, lines := lines, left := List.replicate lines (Y % 65536) }] ∧
          ∀ q, t.tagFull q = if ∃ k < lines, q / 8 = (a + 64 * k) / 8 then false else s.tagFull q)) ∧
    (s.ready c x1 [] → i.readsLeft = false → ∀ d, s.decls = [d] → i.linesLeft a d.lines = false → d.first = a → d.dev = dev →
      (s.unitAt d.unit).asid = u.asid → d.trigs.length < 4 → (u.abar b.toNat).count ≠ 0 →
      let ins : Instr := .cntTrig x b
      ((∃ n ∈ d.left, n ≠ 0) →
        ∃ t, s.completes c ins x1 t ∧ t.mem = s.mem ∧ t.decls = [{ d with trigs := d.trigs ++ [(uid, b.toNat)] }] ∧
          (t.unitAt uid).abar b.toNat = u.abar b.toNat) ∧
      ((∀ n ∈ d.left, n = 0) → d.trigs = [] → (u.abar b.toNat).pend ≠ 0 →
        ∃ t, s.completes c ins x1 t ∧ t.mem = s.mem ∧ t.decls = [{ d with trigs := [] }] ∧
          ((t.unitAt uid).abar b.toNat).xp = sintOf 32 (bitsOf 32 ((u.abar b.toNat).xp - 1)))) ∧
    (∀ (d : CntDecl) (k n : Nat), s.decls = [d] → d.trigs = [] → d.first % 64 = 0 → d.left[k]? = some n →
      d.left.length = d.lines → s.parked = [] →
      let line := d.first + 64 * k
      noLevel line →
      let t := s.contribute [line]
      t.decls = [{ d with left := d.left.set k (n - 1) }] ∧ t.mem = s.mem ∧
        ∀ q, t.tagFull q = if n = 1 ∧ q / 8 = line / 8 then true else s.tagFull q) ∧
    (s.ready c x1 [spanS y.toNat 1] → s.clean → i.heldBack true = false → X % 64 = 0 →
      (∀ q, s.migOf q = none) → ∀ off, i.object64 X 64 true = .ok off →
      let desc := gloc s.mode dev off
      let fr := s.readFrame dev u.asid desc (kplace desc)
      let f := fr.2.2
      let o := s.output fr.1
      let ins : Instr := .presentPost x y
      let ends (st : Nat) (p : State → Prop) : Prop :=
        ∃ t, s.completes c ins x1 t ∧ s.owes t c [.s y.toNat] [BitVec.ofNat 32 st] ∧ s.sameRegs t ∧ p t
      let keeps (t : State) : Prop := t.mem = s.mem ∧ t.output fr.1 = o
      let stale : Prop := ∃ k, o.top = some k ∧ f.seq ≤ k
      let fits : Prop := fr.1 ≤ 7 ∧ o.configured = true ∧ f.w = o.w ∧ f.h = o.h ∧ fr.2.1 = true
      let color := (i.s.releaseAt (coreOf s.cur) 4).planeOk dev u.asid f.color (f.pitch * (f.h - 1) + 4 * f.w)
      let depth := color.2.planeOk dev u.asid f.depth (4 * f.w * f.h)
      let motion := depth.2.planeOk dev u.asid f.motion (4 * f.w * f.h)
      (stale → ends 1 keeps) ∧ (¬stale → 3 ≤ o.posted.length → ends 2 keeps) ∧
      (¬stale → o.posted.length < 3 → ¬fits → ends 3 keeps) ∧
      (¬stale → o.posted.length < 3 → fits → color.1 = false ∨ depth.1 = false ∨ motion.1 = false →
        ends 4 fun t => t.output fr.1 = o) ∧
      (¬stale → o.posted.length < 3 → fits → color.1 = true → depth.1 = true → motion.1 = true → s.parked = [] →
        noLevel (kplace desc + 48) →
        ends 0 fun t => t.mem = motion.2.mem ∧ t.output fr.1 = { o with posted := o.posted ++ [f], top := some f.seq } ∧
          t.tagFull (kplace desc + 48) = false))

/-- R173, R176, R178, R183 to R185, R187, R188, R193, R194: each command that passes its checks enters the core's queue
behind every earlier one, with its group and batch; mbat and mgive close the batch, mtake takes a free baton or waits for
it, mgive passes it on; mloop stands ready for its mma. Without the baton a restricted instruction is NO_BATON, and each
check that fails is its ACCESS, with INFO 0 by the model's reading (log entry 34). -/
def Obligations.MatrixInstructions : Prop :=
  ∀ (s : State) (c : Clause) (x y : BitVec 6) (n : BitVec 8) (k d v : BitVec 3) (clr sr sat : BitVec 1),
    let i := s.found c 1
    let core := coreOf s.cur
    let e := s.coreAt core
    let u := s.unitAt s.grp.unit
    let X := (s.grp.sAt x.toNat).toNat
    let Y := (s.grp.sAt y.toNat).toNat
    let xy : List Span := [spanS x.toNat 1, spanS y.toNat 1]
    let baton : Prop := e.baton = some s.cur
    let trap (ins : Instr) (cause : Nat) : Prop := exec ins s = .next (i.s.takeTrap s.cur (i.trap 3 cause 0 0))
    let entered (ins : Instr) (srcs : List Span) (cmd : MCmd) (t : State) : Prop :=
      s.completes c ins srcs t ∧ s.sameRegs t ∧ t.grp.openCmds = s.grp.openCmds + 1 ∧ t.grp.batchNo = s.grp.batchNo ∧
        ∃ tok gen, (t.coreAt core).mq = e.mq ++
          [{ agent := s.cur, unit := s.grp.unit, batch := s.grp.batchNo, cmd := cmd, tok := tok, gen := gen }]
    let enters (ins : Instr) (srcs : List Span) (cmd : MCmd) : Prop :=
      ∃ t, entered ins srcs cmd t ∧ t.mem = s.mem ∧ t.grp.outs = s.grp.outs
    let closed (t : State) : Prop := t.mem = s.mem ∧ FMap.get 0 t.grp.ctr 2 = FMap.get 0 s.grp.ctr 2 + 1 ∧
      t.grp.batchNo = (s.grp.batchNo + 1) % 2 ^ 32 ∧ t.grp.openCmds = 0 ∧
      ∃ tok, (t.coreAt core).batches = e.batches ++
        [{ agent := s.cur, unit := s.grp.unit, number := s.grp.batchNo, empty := decide (s.grp.openCmds = 0), tok := tok }]
    -- records
    (s.ready c xy [] →
      let r := recOf X Y
      let ins : Instr := .mres x y n
      (r.2 = false ∨ recOk r.1 = false → trap ins 0x41) ∧
      (r.2 = true → recOk r.1 = true →
        (u.grants n.toNat r.1 = false → trap ins 0x43) ∧
        (u.grants n.toNat r.1 = true → overlaps e.recsAfter n.toNat r.1 = true → trap ins 0x42) ∧
        (u.grants n.toNat r.1 = true → overlaps e.recsAfter n.toNat r.1 = false →
          enters ins xy (.mres n.toNat (some r.1))))) ∧
    (s.ready c [] [] →
      (u.mrec.getLsbD n.toNat = true → enters (.mresRel n) [] (.mres n.toNat none)) ∧
      (u.mrec.getLsbD n.toNat = false → trap (.mresRel n) 0x43)) ∧
    -- commands on rows
    (s.ready c xy [] → ¬baton → trap (.mwld x y n) 0x40 ∧ trap (.mloop x y) 0x40 ∧ trap (.mma k x y clr) 0x40 ∧
      trap (.mxq x y n) 0x40) ∧
    (s.ready c xy [] → baton →
      let l := c.loop.getD {}
      (i.row X = none ∨ i.row Y = none → trap (.mwld x y n) 0x41 ∧ trap (.mma k x y clr) 0x41 ∧ trap (.mxq x y n) 0x41) ∧
      (let w : LoopW := { n := if X ≤ 4096 ∧ Y / 2 ^ 28 = 0 ∧ nbits Y 15 12 = 0 then X else 0
                          da := Y % 4096, db := nbits Y 27 16 }
       ∃ t, s.completes c (.mloop x y) xy t ∧ s.sameRegs t ∧ t.mem = s.mem ∧
         t.grp.clause = some { i.c with loop := some w }) ∧
      (∀ ra oa rb ob, i.row X = some (ra, oa) → i.row Y = some (rb, ob) →
        (ra.buf ≠ 0 ∨ rb.buf ≠ 1 → trap (.mwld x y n) 0x41) ∧
        (ra.buf = 0 → rb.buf = 1 →
          (oa + n.toNat < ra.rows → ob + n.toNat < rb.rows →
            enters (.mwld x y n) xy (.mwld (ra.row0 + oa) (rb.row0 + ob) (n.toNat + 1))) ∧
          (ra.rows ≤ oa + n.toNat ∨ rb.rows ≤ ob + n.toNat → trap (.mwld x y n) 0x44)) ∧
        (l.n = 0 ∨ pairOk ra rb = false → trap (.mma k x y clr) 0x41) ∧
        (0 < l.n → pairOk ra rb = true →
          ((∀ j < l.n, ra.stepIn (oa + j * l.da) = true ∧ rb.stepIn (ob + j * l.db) = true) →
            enters (.mma k x y clr) xy (.mma k.toNat ra rb oa ob l.n l.da l.db (clr == 1))) ∧
          ((∃ j < l.n, ra.stepIn (oa + j * l.da) = false ∨ rb.stepIn (ob + j * l.db) = false) →
            trap (.mma k x y clr) 0x44)) ∧
        (let panel (r : Rec) : Prop := r.buf = 0 ∧ r.lay = false ∧ r.mx = true
         let inside : Prop := oa + 32 ≤ ra.rows ∧ ob + ra.depth ≤ rb.rows ∧
           256 * ra.scoff + (oa + 31) * (ra.depth / 32) + (ra.depth / 32 - 1) < 256 * ra.rows ∧
           256 * rb.scoff + (ob + ra.depth - 1) * (rb.depth / 32) + n.toNat < 256 * rb.rows
         let formed : Prop := panel ra ∧ panel rb ∧ n.toNat < rb.depth / 32
         (¬formed → trap (.mxq x y n) 0x41) ∧ (formed → ¬inside → trap (.mxq x y n) 0x44) ∧
         (formed → inside → enters (.mxq x y n) xy (.mxq ra rb oa ob n.toNat))))) ∧
    -- drains
    (let two (add : Bool) (ins : Instr) : Prop :=
       let srcs : List Span := [spanS x.toNat 1] ++ if d.toNat < 2 then [] else [spanS y.toNat (if d = 4 then 2 else 1)]
       let dst := i.drainDst x.toNat y.toNat d.toNat v.toNat
       s.ready c srcs [] → drainRefused y.toNat d.toNat v.toNat sr.toNat sat.toNat add = false → i.heldBack true = false →
       (¬baton → trap ins 0x40) ∧
       (baton →
         (∀ q s1, dst = (.error q, s1) → exec ins s = .next (s1.takeTrap s.cur q)) ∧
         (∀ q s1, dst = (.ok q, s1) → (∀ j, q ≠ .tile j) →
           ∃ t tok, entered ins srcs (.mdrn k.toNat q v.toNat add (sr == 1) (sat == 1) tok) t ∧ t.mem = s1.mem ∧
             t.grp.outs = s.grp.outs) ∧
         (∀ j s1, dst = (.ok (.tile j), s1) → s.grp.busy [(256 + j, 1)] = false →
           ∃ t tok, entered ins srcs (.mdrn k.toNat (.tile j) v.toNat add (sr == 1) (sat == 1) tok) t ∧ t.mem = s.mem ∧
             t.grp.outs = s.grp.outs ++
               [{ regs := (List.range 256).map fun m => Reg.t j m, vals := none, tok := tok, slices := c.slices }]))
     two false (.mdrn k x y d v sr sat) ∧ two true (.mdrnAdd k x y d v sr sat)) ∧
    -- batches and the baton
    (s.ready c [] [spanS x.toNat 1] → s.grp.ctrFull 2 = false →
      ∃ t, s.completes c (.mbat x) [] t ∧ closed t ∧ (t.coreAt core).baton = e.baton ∧
        ∀ r, t.grp.sAt r = if r = x.toNat then BitVec.ofNat 32 s.grp.batchNo else s.grp.sAt r) ∧
    (s.ready c [] [] →
      (baton → ∃ t, s.completes c .mtake [] t ∧ t.grp = i.g ∧ t.mem = s.mem ∧ t.cores = s.cores) ∧
      (e.baton = none → e.batonQ = [] →
        ∃ t, s.completes c .mtake [] t ∧ t.grp = i.g ∧ t.mem = s.mem ∧ (t.coreAt core).baton = some s.cur) ∧
      (¬baton → ¬(e.baton = none ∧ e.batonQ = []) →
        ∃ t : State, exec .mtake s = .next t.closeClause ∧ t.mem = s.mem ∧
          (t.coreAt core).batonQ = e.batonQ ++ [(s.cur, c.slices)] ∧ (t.coreAt core).baton = e.baton ∧
          ∀ p ∈ t.grp.paths, p.slices &&& c.slices ≠ 0 → p.wait = some .baton) ∧
      (¬baton → trap .mgive 0x40 ∧ trap (.mzero k) 0x40) ∧
      (baton → s.grp.ctrFull 2 = false →
        ∃ t, s.completes c .mgive [] t ∧ closed t ∧
          (t.coreAt core).baton = (e.batonQ.head?.map fun p => p.1) ∧ (t.coreAt core).batonQ = e.batonQ.drop 1) ∧
      (baton → enters (.mzero k) [] (.mzero k.toNat)))

/-- R197 to R200, R206 to R216, R349: hg.cfg captures a configuration whose level resolutions are the exact
floors; hg.enc, hg.grad, the ray and the tr instructions that pass their checks hand an operation with what they captured
to their engine and raise its counter, the tr forms with an outstanding status; ray.tri and ray.box deliver their results
in each executing lane, a miss for an invalid ray. A check that fails is its ALIGN or ACCESS. The model's readings: INFO of ALIGN
and of the causes (log entry 34); in the walk of a scene MALFORMED comes before DEPTH and both before LIMIT, and the walk's other
corners (55). -/
def Obligations.EncodingsRaysTrees : Prop :=
  (∀ (g : HgCfg) (l m n : Nat) (e f : ℤ), fp32.value g.n0.toNat = .fin false m e → fp32.value g.growth.toNat = .fin false n f →
    (g.res l : ℤ) = ⌊((m : ℚ) * 2 ^ e) * ((n : ℚ) * 2 ^ f) ^ l⌋) ∧
  -- the box test
  (∀ (o d lo hi tn tf : FpNum), o.isFin = true → d.isFin = true → lo.isFin = true → hi.isFin = true →
    (d.real = 0 → boxAxis o d lo hi tn tf = if o.real < lo.real ∨ hi.real < o.real then none else some (tn, tf)) ∧
    (d.real ≠ 0 → ∃ inv : FpNum, fp32.rounds 1 inv (1 / d.real) ∧ (inv.isFin = true →
      ∃ near far : FpNum,
        let a := (lo.real - o.real) * inv.real
        let b := (hi.real - o.real) * inv.real
        fp32.rounds 4 near (min a b) ∧ fp32.rounds 3 far (max a b) ∧
          boxAxis o d lo hi tn tf = some (if tn.lt near then near else tn, if far.lt tf then far else tf)))) ∧
  (∀ (r : RayV) (lo hi : Vec3) (tf : FpNum) (q : FpNum × FpNum),
    let axis (a : Nat) (t u : FpNum × FpNum) : Prop :=
      boxAxis (Vec3.get r.o a) (Vec3.get r.d a) (Vec3.get lo a) (Vec3.get hi a) t.1 t.2 = some u
    r.box lo hi tf = some q ↔ ∃ t u, axis 0 (r.t0, tf) t ∧ axis 1 t u ∧ axis 2 u q ∧ q.1.le q.2 = true) ∧
  -- the triangle test
  (∀ f ∈ [fp32, fp64], ∀ (r : RayV) (v0 v1 v2 : Vec3) (kx ky kz : Nat), kx < 3 → ky < 3 → kz < 3 →
    (∀ a < 3, (Vec3.get r.d a).isFin = true ∧ (Vec3.get r.o a).isFin = true ∧
      ∀ v ∈ [v0, v1, v2], (Vec3.get v a).isFin = true) → (Vec3.get r.d kz).real ≠ 0 →
    let q := f.shear r v0 v1 v2 kx ky kz
    let d (a : Nat) : ℚ := (Vec3.get r.d a).real
    ∃ (sx sy sz : FpNum) (p : Nat → Nat → FpNum),
      f.rounds 1 sx (d kx / d kz) ∧ f.rounds 1 sy (d ky / d kz) ∧ f.rounds 1 sz (1 / d kz) ∧
      (∀ i < 3, ∀ a < 3, f.rounds 1 (p i a) ((Vec3.get ([v0, v1, v2].getD i v0) a).real - (Vec3.get r.o a).real)) ∧
      ((∀ i < 3, ∀ a < 3, (p i a).isFin = true) → sx.isFin = true → sy.isFin = true → sz.isFin = true →
        ∀ i < 3,
          f.rounds 1 ([q.ax, q.bx, q.cx].getD i q.ax) ((p i kx).real - sx.real * (p i kz).real) ∧
          f.rounds 1 ([q.ay, q.by', q.cy].getD i q.ay) ((p i ky).real - sy.real * (p i kz).real) ∧
          f.rounds 1 ([q.az, q.bz, q.cz].getD i q.az) (sz.real * (p i kz).real)) ∧
      ((∀ x ∈ [q.ax, q.ay, q.bx, q.by', q.cx, q.cy], x.isFin = true) →
        f.rounds 1 q.u (q.cx.real * q.by'.real - q.cy.real * q.bx.real) ∧
        f.rounds 1 q.v (q.ax.real * q.cy.real - q.ay.real * q.cx.real) ∧
        f.rounds 1 q.w (q.bx.real * q.ay.real - q.by'.real * q.ax.real))) ∧
  (∀ (r : RayV) (v0 v1 v2 : Vec3) (kz : Nat), kz < 3 →
    let mag (a : Nat) : ℚ := |(Vec3.get r.d a).real|
    (∀ a < 3, (Vec3.get r.d a).isFin = true ∧ mag a ≤ mag kz ∧ (a < kz → mag a < mag kz)) → mag kz ≠ 0 →
    let k1 := (kz + 1) % 3
    let k2 := (kz + 2) % 3
    let back : Bool := decide ((Vec3.get r.d kz).real < 0)
    let kx := if back then k2 else k1
    let ky := if back then k1 else k2
    let narrow := fp32.shear r v0 v1 v2 kx ky kz
    let wide := narrow.u.isZero || narrow.v.isZero || narrow.w.isZero
    let f := if wide then fp64 else fp32
    let q := if wide then fp64.shear r v0 v1 v2 kx ky kz else narrow
    (∀ x ∈ [q.ax, q.ay, q.az, q.bx, q.by', q.bz, q.cx, q.cy, q.cz, q.u, q.v, q.w], x.isFin = true) →
    let sides : Prop := (∀ e ∈ [q.u, q.v, q.w], 0 ≤ e.real) ∨ ∀ e ∈ [q.u, q.v, q.w], e.real ≤ 0
    (¬sides → r.tri v0 v1 v2 = none) ∧
    (sides → ∃ det : FpNum, f.rounds 1 det (q.u.real + q.v.real + q.w.real) ∧
      (det.real = 0 → det.isFin = true → r.tri v0 v1 v2 = none) ∧
      (det.real ≠ 0 → det.isFin = true →
        let turn (x : ℚ) : ℚ := if det.real < 0 then -x else x
        let counts (e sx sy ex ey : FpNum) : Prop := e.real = 0 →
          (ey.real = sy.real ∧ 0 < turn (ex.real - sx.real)) ∨ turn (ey.real - sy.real) < 0
        let all : Prop := counts q.u q.bx q.by' q.cx q.cy ∧ counts q.v q.cx q.cy q.ax q.ay ∧ counts q.w q.ax q.ay q.bx q.by'
        (¬all → r.tri v0 v1 v2 = none) ∧
        (all → ∃ num : FpNum, f.rounds 1 num (q.u.real * q.az.real + q.v.real * q.bz.real + q.w.real * q.cz.real) ∧
          (num.isFin = true → ∃ (t u v : FpNum) (wt wu wv : Word), r.tri v0 v1 v2 = some (wt, wu, wv) ∧
            ∀ p ∈ [(num, t, wt), (q.v, u, wu), (q.w, v, wv)],
              f.rounds 1 p.2.1 (p.1.real / det.real) ∧
                (p.2.1.isFin = true → fp32.rounds 1 (fp32.value p.2.2.toNat) p.2.1.real)))))) ∧
  -- the nodes and the traversal
  (∀ v j : Nat, j < 8 →
    let c := childOf v j
    let ref := v / 2 ^ (8 * (64 + 8 * j)) % 2 ^ 64
    let byte (k : Nat) : Nat := v / 2 ^ (8 * k) % 256
    let q (hi a : Nat) : Nat := byte (16 + 6 * j + 3 * hi + a)
    let o (a : Nat) : FpNum := fp32.value (v / 2 ^ (32 * a) % 2 ^ 32)
    c.ref = ref ∧ (c.present = true ↔ ref / 2 ^ 62 ≠ 0 ∧ ∀ a < 3, q 0 a ≤ q 1 a) ∧
    ∀ a < 3, (o a).isFin = true →
      fp32.rounds 4 (Vec3.get c.lo a) ((o a).real + q 0 a * 2 ^ ((byte (12 + a) : ℤ) - 127)) ∧
      fp32.rounds 3 (Vec3.get c.hi a) ((o a).real + q 1 a * 2 ^ ((byte (12 + a) : ℤ) - 127))) ∧
  (∀ (w : Walk) (t0 : FpNum) (t : Word) (id : Nat),
    let x := fp32.value t.toNat
    w.tbest.isNan = false → t0.isNan = false → x.isNan = false →
    (w.beats t0 t id = true ↔ x.lt t0 = false ∧ w.tbest.lt x = false ∧
      ∀ b, w.best = some b → x.lt w.tbest = true ∨ (x.eqv w.tbest = true ∧ id < b.2.1))) ∧
  (∀ (o : RayOp) (r : RayV) (n va : Nat) (w : Walk) (s s1 : State) (v : Nat), o.chunks s va 3 = (.ok v, s1) →
    let word (k : Nat) : Nat := v / 2 ^ (32 * k) % 2 ^ 32
    let vx (i : Nat) : Vec3 := (fp32.value (word (3 * i)), fp32.value (word (3 * i + 1)), fp32.value (word (3 * i + 2)))
    let tested : Walk := { w with tris := w.tris + 1 }
    o.leaf r (n + 1) va w s =
      if word 10 % 2 = 1 then o.leaf r n (va + 48) w s1
      else match r.tri (vx 0) (vx 1) (vx 2) with
        | none => o.leaf r n (va + 48) tested s1
        | some (t, p, q) =>
          if w.beats r.t0 t (word 9) then
            let hit : Walk := { tested with best := some (t, word 9, p, q), tbest := fp32.value t.toNat }
            if o.occl then ({ hit with ended := some (1, 0) }, s1) else o.leaf r n (va + 48) hit s1
          else o.leaf r n (va + 48) tested s1) ∧
  (∀ (o : RayOp) (r : RayV) (va level : Nat) (w : Walk) (s : State),
    (65536 ≤ w.boxes → o.visit r va level w s = ({ w with ended := some (5, 0) }, s)) ∧
    ∀ v s1, w.boxes < 65536 → o.chunks s va 8 = (.ok v, s1) →
      let enters (j : Nat) (tn : FpNum) : Prop := (childOf v j).present = true ∧
        ∃ tf, r.box (childOf v j).lo (childOf v j).hi w.tbest = some (tn, tf)
      ∃ l : List (Nat × FpNum),
        (∀ j tn, (j, tn) ∈ l ↔ j < 8 ∧ enters j tn) ∧
        l.Pairwise (fun a b => a.2.lt b.2 = true ∨ (a.2.eqv b.2 = true ∧ a.1 < b.1)) ∧
        o.visit r va level w s = ({ w with
          boxes := w.boxes + 1
          stack := (l.map fun p => { ref := (childOf v p.1).ref, tn := p.2, level := level + 1 }) ++ w.stack }, s1)) ∧
  (∀ (o : RayOp) (r : RayV) (n : Nat) (w : Walk) (s : State) (p : Pend) (rest : List Pend),
    w.ended = none → w.waits = false → w.stack = p :: rest →
    let kind := p.ref / 2 ^ 62 % 4
    let count := p.ref / 2 ^ 56 % 64
    let va := p.ref % 2 ^ 48
    let popped : Walk := { w with stack := rest }
    let skip : Prop := p.root = false ∧ w.tbest.lt p.tn = true
    let malformed : Prop := kind = 3 ∨ (kind = 1 ∧ (va % 128 ≠ 0 ∨ count ≠ 0)) ∨ (kind = 2 ∧ va % 16 ≠ 0)
    let goesOn (a : Walk × State) : Prop := o.walk r (n + 1) w s = o.walk r n a.1 a.2
    (skip → goesOn (popped, s)) ∧ (¬skip → malformed → o.walk r (n + 1) w s = ({ popped with ended := some (6, 0) }, s)) ∧
    (¬skip → ¬malformed → kind = 2 → goesOn (o.leaf r (count + 1) va popped s)) ∧
    (¬skip → ¬malformed → kind = 1 →
      (32 < p.level → o.walk r (n + 1) w s = ({ popped with ended := some (4, 0) }, s)) ∧
      (p.level ≤ 32 → goesOn (o.visit r va p.level popped s)))) ∧
  -- the example of R214
  (let r := rayOf [0x3F000000, 0, 0xBF800000, 0, 0, 0x3F800000, 0, 0x42C80000]
   let at' (l : List Word) : Vec3 := vecOf l 0
   r.tri (at' [0, 0, 0]) (at' [0x3F800000, 0, 0]) (at' [0, 0x3F800000, 0]) = none ∧
   r.tri (at' [0x3F800000, 0, 0]) (at' [0, 0, 0]) (at' [0x3F000000, 0xBF800000, 0]) = some (0x3F800000, 0x3F000000, 0)) ∧
  ∀ (s : State) (c : Clause) (x y : BitVec 6) (z : BitVec 8),
    let i := s.found c 1
    let core := coreOf s.cur
    let e := s.coreAt core
    let g := s.grp
    let u := s.unitAt g.unit
    let X (k : Nat) : Nat := (g.sAt (x.toNat + k)).toNat
    let Y := (g.sAt y.toNat).toNat
    let sl := FMap.get {} g.segs 1
    let trap (ins : Instr) (cls cause info : Nat) : Prop := exec ins s = .next (i.s.takeTrap s.cur (i.trap cls cause 0 info))
    let issued (ins : Instr) (srcs : List Span) (ctr : Nat) (p : State → Prop) : Prop :=
      ∃ t, s.completes c ins srcs t ∧ s.sameRegs t ∧ t.mem = s.mem ∧
        FMap.get 0 t.grp.ctr ctr = FMap.get 0 g.ctr ctr + 1 ∧ p t
    let pos (l : Nat) : Word × Word × Word := (g.vAt z.toNat l, g.vAt (z.toNat + 1) l, g.vAt (z.toNat + 2) l)
    -- the hash grid
    (s.ready c [spanS x.toNat 8] [] →
      let h : HgCfg :=
        { valid := true, levels := X 0 % 16 + 1, feats := if (X 0).testBit 8 then 4 else 2, log2t := nbits (X 0) 20 16
          n0 := g.sAt (x.toNat + 1), growth := g.sAt (x.toNat + 2), toff := X 3 % 2 ^ 25, goff := X 4 % 2 ^ 25 }
      let size := h.levels * 2 ^ h.log2t * 2 * h.feats
      let reserved : Prop := X 0 / 2 ^ 21 = 0 ∧ nbits (X 0) 15 9 = 0 ∧ nbits (X 0) 7 4 = 0 ∧ X 3 / 2 ^ 25 = 0 ∧
        X 4 / 2 ^ 25 = 0 ∧ X 5 = 0 ∧ X 6 = 0 ∧ X 7 = 0
      let formed : Prop := reserved ∧ 10 ≤ h.log2t ∧ h.log2t ≤ 22 ∧
        (∃ m k, fp32.value h.n0.toNat = .fin false m k ∧ (1 : ℚ) ≤ m * 2 ^ k) ∧
        (∃ m k, fp32.value h.growth.toNat = .fin false m k ∧ (1 : ℚ) ≤ m * 2 ^ k) ∧ h.res (h.levels - 1) ≤ 2 ^ 20 ∧
        h.toff % 256 = 0 ∧ h.goff % 256 = 0 ∧ h.toff + size / 4 ≤ 2 ^ 25 ∧ h.goff + 2 * size / 4 ≤ 2 ^ 25 ∧
        s.tableIn core u.dev (FMap.get {} g.segs 2) h.toff (size / 4) = true ∧
        s.tableIn core u.dev (FMap.get {} g.segs 2) h.goff (2 * size / 4) = true
      (formed → ∃ t, s.completes c (.hgCfg x) [spanS x.toNat 8] t ∧ s.sameRegs t ∧ t.mem = s.mem ∧ t.grp.hg = h) ∧
      (¬formed → trap (.hgCfg x) 3 0x48 0)) ∧
    (let srcs : List Span := [spanS x.toNat 1, (z.toNat, 3)]
     s.ready c srcs [] → g.ctrFull 4 = false → i.heldBack true = false →
      (g.hg.valid = false → trap (.hgEnc x z) 3 0x48 0 ∧ trap (.hgGrad x z) 3 0x48 0) ∧
      (g.hg.valid = true →
        (i.row (X 0) = none → trap (.hgEnc x z) 3 0x41 0) ∧
        (∀ r off, i.row (X 0) = some (r, off) →
          let bf : Prop := r.buf = 0 ∧ r.fmt = 2 ∧ r.mx = false ∧ r.lay = false
          (¬bf → trap (.hgEnc x z) 3 0x41 0) ∧ (bf → r.rows < off + 64 → trap (.hgEnc x z) 3 0x44 0) ∧
          (bf → off + 64 ≤ r.rows → issued (.hgEnc x z) srcs 4 fun t => ∃ o : HgOp, (t.coreAt core).hg = e.hg ++ [o] ∧
            o.agent = s.cur ∧ o.unit = g.unit ∧ o.grad = false ∧ o.cfg = g.hg ∧ o.exec = c.threads g ∧
            o.xs = (List.range 64).map pos ∧ o.row = r.row0 + off)) ∧
        (X 0 % 4 ≠ 0 → trap (.hgGrad x z) 4 0 (X 0)) ∧
        (X 0 % 4 = 0 →
          let why := s.rangeCause u.dev sl 0 (X 0) (256 * g.hg.levels * g.hg.feats) false
          (∀ k, why = some k → trap (.hgGrad x z) 3 k (X 0)) ∧
          (why = none → issued (.hgGrad x z) srcs 4 fun t => ∃ o : HgOp, (t.coreAt core).hg = e.hg ++ [o] ∧
            o.agent = s.cur ∧ o.unit = g.unit ∧ o.grad = true ∧ o.cfg = g.hg ∧ o.exec = c.threads g ∧
            o.adds.length = 8 * g.hg.levels * g.hg.feats * ((List.range 64).countP fun l => (c.threads g).getLsbD l))))) ∧
    -- rays
    (let ray (ins : Instr) (occl : Bool) : Prop :=
       let srcs : List Span := [spanS x.toNat 2, spanS y.toNat 1, (z.toNat, 8)]
       let root := X 0 + 2 ^ 32 * X 1
       let why := s.rangeCause u.dev sl 0 Y 2048 true
       let aligned : Prop := root < 2 ^ 48 ∧ root % 128 = 0
       s.ready c srcs [] → g.ctrFull 5 = false → i.heldBack true = false →
         (¬aligned → trap ins 4 0 root) ∧ (aligned → Y % 32 ≠ 0 → trap ins 4 0 Y) ∧
         (aligned → Y % 32 = 0 → (∀ k, why = some k → trap ins 3 k Y) ∧
           (why = none → issued ins srcs 5 fun t => ∃ o : RayOp, (t.coreAt core).rays = e.rays ++ [o] ∧ o.agent = s.cur ∧
             o.unit = g.unit ∧ o.occl = occl ∧ o.dev = u.dev ∧ o.asid = u.asid ∧ o.exec = c.threads g ∧ o.root = root ∧
             o.rays = (List.range 64).map (fun l => (List.range 8).map fun k => g.vAt (z.toNat + k) l) ∧
             o.out = sloc core (sl.base + Y)))
     ray (.rayTrace x y z) false ∧ ray (.rayOccl x y z) true) ∧
    (let lanes := (List.range 64).filter fun l => (c.threads g).getLsbD l
     let reg (k l : Nat) : Word := g.vAt (z.toNat + k) l
     let row (n l : Nat) : List Word := (List.range n).map fun k => reg k l
     let late (ins : Instr) (n m : Nat) (f : Nat → List Word) : Prop :=
       s.ready c [(z.toNat, n)] [(z.toNat + n, m)] →
       ∃ t, s.completes c ins [(z.toNat, n)] t ∧ s.sameRegs t ∧ t.mem = s.mem ∧
         s.owes t c (lanes.flatMap fun l => (List.range m).map fun k => Reg.v (z.toNat + n + k) l)
           (lanes.flatMap fun l => (List.range m).map fun k => (f l).getD k 0)
     late (.rayTri z) 17 3 (fun l =>
       let r := rayOf (row 17 l)
       match (if r.invalid then none else r.tri (vecOf (row 17 l) 8) (vecOf (row 17 l) 11) (vecOf (row 17 l) 14)) with
       | none => [0x7F800000, 0, 0]
       | some (t, p, q) =>
         if r.t0.le (fp32.value t.toNat) = true ∧ (fp32.value t.toNat).le r.t1 = true then [t, p, q]
         else [0x7F800000, 0, 0]) ∧
     late (.rayBox z) 14 2 (fun l =>
       let r := rayOf (row 14 l)
       match (if r.invalid then none else r.box (vecOf (row 14 l) 8) (vecOf (row 14 l) 11) r.t1) with
       | none => [0x7F800000, 0x7F800000]
       | some (p, q) => [delivered p, delivered q])) ∧
    -- search trees
    (let tree (ins : Instr) (form n : Nat) (off align bytes : Nat) (write : Bool) : Prop :=
       let formed : Prop := X 0 / 2 ^ 14 = 0 ∧ nbits (X 0) 7 6 = 0 ∧ nbits (X 0) 13 8 < 4 * diesPer s.mode
       let chk := if align = 0 then none else i.sliceOperand off align bytes write
       let srcs : List Span := [spanS x.toNat (if form = 2 ∨ form = 3 ∨ form = 7 then 3 else 2)]
       s.ready c srcs [spanS y.toNat 1] → g.ctrFull 6 = false → i.heldBack true = false →
         (¬formed → trap ins 3 0x38 0) ∧
         (formed → (∀ q, chk = some q → exec ins s = .next (i.s.takeTrap s.cur q)) ∧
           (chk = none → issued ins srcs 6 fun t => ∃ o : TreeOp, (t.coreAt core).trees = e.trees ++ [o] ∧
             o.agent = s.cur ∧ o.unit = g.unit ∧ o.dev = u.dev ∧ o.asid = u.asid ∧ o.form = form ∧ o.ref = X 0 ∧
             o.a = X 1 ∧ o.b = X 2 ∧ o.z = n ∧ o.result = none ∧ (align ≠ 0 → o.place = sloc core (sl.base + off)) ∧
             t.grp.outs = g.outs ++ [{ regs := [.s y.toNat], vals := none, tok := o.tok, slices := c.slices }]))
     tree (.trInit x y) 0 0 (X 1) 64 64 false ∧ tree (.trDesc x y z) 1 z.toNat (X 1) 16 (16 * z.toNat) true ∧
     tree (.trExp x y z) 2 z.toNat (X 2) 8 (8 * z.toNat) false ∧ tree (.trBack x y) 3 0 0 0 0 false ∧
     tree (.trUndo x y) 4 0 0 0 0 false ∧ tree (.trReuse x y) 5 0 0 0 0 false ∧ tree (.trFree x y) 6 0 0 0 0 false ∧
     tree (.trStat x y) 7 0 (X 2) 32 576 true)

/-! ## System instructions, traps and translation -/

/-- R398, R399, R427 to R431, R459, R461, R469: the privileged instructions raise PRIV at user privilege. sys.segw writes
one segment register, or refuses an image that breaks R428; sys.csrr delivers a control register's value and sys.csrw
stores its RW fields and changes no other register, or refuses an absent number or a value that breaks its rule; sys.halt
halts the context; sys.ckpt ends with NO_TIER or waits; sched.sleep and sched.yield stop the group for a time. The model's
readings: what a write of CPYCTL or PREQ starts goes in front of the inbox (log entry 26), TFRAME, ERRRING and CFRING are
checked whatever V is (log entry 27), CECNTk is there for the dies of the device (log entry 28), NO_TIER comes at once (log
entry 32), and INFO of these traps is 0 (log entry 34). -/
def Obligations.SystemInstructions : Prop :=
  ∀ (s : State) (c : Clause) (x y : BitVec 6) (n : BitVec 8),
    let i := s.found c 1
    let dev := (s.unitAt s.grp.unit).dev
    let asid := (s.unitAt s.grp.unit).asid
    let ctx := s.ctxAt dev asid
    let pair (k : Nat) : Nat := (s.grp.sAt k).toNat + 2 ^ 32 * (s.grp.sAt (k + 1)).toNat
    let trap (ins : Instr) (cls cause : Nat) : Prop := exec ins s = .next (i.s.takeTrap s.cur (i.trap cls cause 0 0))
    let moved (ins : Instr) (p : State → Prop) : Prop :=
      ∃ t : State, exec ins s = .next t.closeClause ∧ t.mem = s.mem ∧ s.sameRegs t ∧ p t
    -- privilege
    (s.grp.priv = false →
      (s.ready c [spanS x.toNat 4] [] → trap (.sysSegw x n) 2 0) ∧
      (s.ready c [] [spanS x.toNat 2] → trap (.sysCsrr x n) 2 0) ∧
      (s.ready c [spanS x.toNat 2] [] → trap (.sysCsrw x n) 2 0) ∧
      (s.ready c [] [spanS 60 4, (0xCC, 7)] → trap .sysEret 2 0) ∧ (s.ready c [] [] → trap .sysHalt 2 0) ∧
      (s.ready c [spanS x.toNat 2] [spanS y.toNat 1] → trap (.sysCkpt x y) 2 0)) ∧
    -- segments
    (s.grp.priv = true → s.ready c [spanS x.toNat 4] [] → n.toNat < 7 →
      let w0 := pair x.toNat
      let w1 := pair (x.toNat + 2)
      let base := w0 % 2 ^ 48
      let limit := w1 % 2 ^ 48
      let wr := w1.testBit 62
      let bound : Prop :=
        (n = 0 → base + 64 * limit ≤ 2 ^ 25) ∧ (n = 1 → base + limit ≤ 2 ^ 25) ∧
        (n = 2 → base + limit ≤ globalSize s.mode) ∧ (n = 3 → base + limit ≤ 2 ^ 48) ∧
        (n = 4 → base + limit ≤ globalSize s.mode ∧ wr = false) ∧ (n = 5 → base + limit ≤ 2 ^ 18 ∧ wr = false) ∧
        (n = 6 → base + limit ≤ 2 ^ 22)
      let legal : Prop := w0 / 2 ^ 48 = 0 ∧ nbits w1 61 48 = 0 ∧ (w1.testBit 63 = true → bound)
      (legal → ∃ t, s.completes c (.sysSegw x n) [spanS x.toNat 4] t ∧ t.mem = s.mem ∧ s.sameRegs t ∧
        ∀ k, FMap.get {} t.grp.segs k =
          if k = n.toNat then { v := w1.testBit 63, wr := wr, base := base, limit := limit } else FMap.get {} s.grp.segs k) ∧
      (¬legal → trap (.sysSegw x n) 3 0x60)) ∧
    -- control registers
    (s.grp.priv = true → s.ready c [] [spanS x.toNat 2] →
      (csrPresent s.mode n.toNat = false → trap (.sysCsrr x n) 3 0x61) ∧
      ∀ v : Nat, csrPresent s.mode n.toNat = true →
        ((n = 0x00 ∧ v = asid) ∨ (n = 0x08 ∧ v = ctx.ptroot.toNat) ∨
          (∃ k < 4, n.toNat = 0x10 + k ∧ v = (s.dieAt (firstDie s.mode dev + k)).logbase.toNat) ∨
          (n = 0x20 ∧ v = ctx.cpyctl.toNat + 2 ^ 32 * (s.pendingFaults dev asid % 2 ^ 32)) ∨
          (n = 0x21 ∧ v = (s.devAt dev).xpool) ∨ (n = 0x40 ∧ v = (s.devAt dev).keymap.toNat) ∨
          (n = 0x41 ∧ v = (s.devAt dev).keyerr) ∨ (n = 0x80 ∧ v = ctx.tvec.toNat) ∨ (n = 0x81 ∧ v = ctx.tframe.toNat) ∨
          (n = 0x82 ∧ v = ctx.errring.toNat) ∨ (n = 0x83 ∧ v = ctx.errCount % 2 ^ 32 + 2 ^ 32 * (ctx.errLost % 2 ^ 32)) ∨
          (n = 0x84 ∧ v = ctx.cfring.toNat) ∨ (n = 0x85 ∧ v = ctx.cfCount % 2 ^ 32 + 2 ^ 32 * (ctx.cfLost % 2 ^ 32)) ∨
          (n = 0x88 ∧ v = ctx.psave.toNat) ∨ (n = 0x89 ∧ v = ctx.preq.toNat) ∨ (n = 0x8A ∧ v = ctx.pstat)) →
        ∃ t, s.completes c (.sysCsrr x n) [] t ∧ t.mem = s.mem ∧ s.sameRegs t ∧
          s.owes t c [.s x.toNat, .s (x.toNat + 1)] [BitVec.ofNat 32 v, BitVec.ofNat 32 (v / 2 ^ 32)]) ∧
    (s.grp.priv = true → s.ready c [spanS x.toNat 2] [] → i.heldBack true = false →
      let v := pair x.toNat &&& csrMask n.toNat
      let ins : Instr := .sysCsrw x n
      (csrPresent s.mode n.toNat = false ∨ csrMask n.toNat = 0 → trap ins 3 0x61) ∧
      (csrPresent s.mode n.toNat = true → csrMask n.toNat ≠ 0 →
        (s.csrBad dev n.toNat v = true → trap ins 3 0x62) ∧
        (s.csrBad dev n.toNat v = false →
          (n ∈ [0x08, 0x21, 0x80, 0x81, 0x82, 0x84, 0x88, 0xA0, 0xA1] →
            ∃ t, s.completes c ins [spanS x.toNat 2] t ∧ t.mem = s.mem ∧ s.sameRegs t ∧ t.inbox = s.inbox ∧
              t.csr dev asid n.toNat = v ∧ ∀ m, m ≠ n.toNat → t.csr dev asid m = s.csr dev asid m) ∧
          (n = 0x20 → ∃ t, s.completes c ins [spanS x.toNat 2] t ∧ t.mem = s.mem ∧
            (t.ctxAt dev asid).cpyctl = BitVec.ofNat 64 v ∧
            t.inbox = { msg := if v.testBit 31 then .cpyctlAbort dev asid (v % 2 ^ 14)
                               else .cpyctlResume dev asid (v % 2 ^ 14) } :: s.inbox) ∧
          (n = 0x89 → ∃ t, s.completes c ins [spanS x.toNat 2] t ∧ t.mem = s.mem ∧
            (t.ctxAt dev asid).preq = BitVec.ofNat 64 v ∧
            t.inbox = { msg := if v.testBit 63 then .restoreRequest dev asid else .preemptRequest dev asid } :: s.inbox)))) ∧
    -- halt, checkpoint
    (s.grp.priv = true → s.ready c [] [] → moved .sysHalt fun t => (t.ctxAt dev asid).halted = true) ∧
    (s.grp.priv = true → s.ready c [spanS x.toNat 2] [spanS y.toNat 1] →
      ((s.devAt dev).tier = [] → moved (.sysCkpt x y) fun t => s.owes t c [.s y.toNat] [2]) ∧
      ((s.devAt dev).tier ≠ [] → moved (.sysCkpt x y) fun t => ∃ tok,
        t.grp.outs = s.grp.outs ++ [{ regs := [.s y.toNat], vals := none, tok := tok, slices := c.slices }] ∧
        ∀ p ∈ t.grp.paths, p.slices &&& c.slices ≠ 0 → p.wait = some (.ckpt (pair x.toNat) tok))) ∧
    -- sleep and yield
    (let yields (ins : Instr) : Prop := moved ins fun t => t.grp.outs = s.grp.outs ∧ t.grp.yieldFor = i.s.rivals s.cur ∧
       t.grp.wake = if i.s.rivals s.cur = [] then none else some (s.cycle + 256)
     let k := (s.grp.sAt x.toNat).toNat
     (s.ready c [] [] → yields .schedYield) ∧
     (s.ready c [spanS x.toNat 1] [] →
      (k = 0 → s.grp.cancel = false → yields (.schedSleep x)) ∧
      (k ≠ 0 ∨ s.grp.cancel = true → moved (.schedSleep x) fun t => t.grp.outs = s.grp.outs ∧ t.grp.yieldFor = [] ∧
        t.grp.wake = some (s.cycle + k))))

/-- R449 to R455, R459, R460: sys.svc and sys.bkpt write the trap frame, raise the group to supervisor privilege, set s60
and s61 and send the path to TVEC.ADDR; sys.trap, and any trap raised without a vector or inside a handler, ends the unit
with status error, with its frame and its record in the error ring; sys.eret restores s60 to s63, q0 to q6, the privilege
and the slices from the frame as it stands in memory, where that holds no error, but for the threads that have run exit in
the handler (R393). The model's readings: eret's ALIGN goes before CODE_TARGET (log entry 35), and INFO of ALIGN is the
address, of ERET_STATE and CODE_TARGET 0 (log entry 34). -/
def Obligations.TrapsAndReturns : Prop :=
  (∀ (s : State) (dev asid : Nat) (rec : List Byte),
    let x := s.ctxAt dev asid
    let slot := s.lvAt dev (x.errring.toNat % 2 ^ 33 + 64 * (x.errCount % 256))
    let t := s.appendRing dev asid true 64 rec
    rec.length = 64 → s.parked = [] → (∀ l ∈ s.levels, s.lvAt l.1 l.2 / 8 ≠ slot / 8) →
    (x.errring.getLsbD 63 = true → s.tagFull slot = false →
      t.rdBytes slot 64 = rec ∧ t.tagFull slot = true ∧ (t.ctxAt dev asid).errCount = x.errCount + 1 ∧
        s.onlyAt t [(slot, 64)]) ∧
    (x.errring.getLsbD 63 = false ∨ s.tagFull slot = true →
      t.mem = s.mem ∧ (t.ctxAt dev asid).errCount = x.errCount ∧ (t.ctxAt dev asid).errLost = x.errLost + 1)) ∧
  ∀ (s : State) (c : Clause) (n : BitVec 8),
    let i := s.found c 1
    let a := s.cur
    let g := s.grp
    let uid := g.unit
    let u := s.unitAt uid
    let x := s.ctxAt u.dev u.asid
    let off := x.tframe.toNat % 2 ^ 33 + 64 * a
    let f := s.lvAt u.dev off
    let word0 (cls : Nat) (dbl : Bool) : Nat := cls + 65536 * (c.k % 16) + (if dbl then 2 ^ 20 else 0) +
      (if g.priv then 2 ^ 22 else 0) + (if isSteer a then 2 ^ 23 else 0)
    let framed (t : State) (w : Nat) : Prop :=
      t.rdN f 4 = w % 2 ^ 32 ∧ t.rdN (f + 4) 4 = c.base % 2 ^ 32 ∧ t.rdN (f + 8) 4 = c.after % 2 ^ 32 ∧
        t.rdN (f + 12) 4 = (if isSteer a then 0 else 65536 * c.slices.toNat) ∧ t.rdN (f + 16) 8 = n.toNat ∧
        (∀ k < 4, t.rdN (f + 24 + 4 * k) 4 = (g.sAt (60 + k)).toNat) ∧ t.rdN (f + 40) 4 = g.q.toNat ∧
        t.rdN (f + 44) 4 = u.level % 2 ^ 32
    let enters (ins : Instr) (cls : Nat) : Prop :=
      s.ready c [] [] → g.ecc = none → u.ending = false → g.cancel = false → g.handler = none → x.tvec.getLsbD 63 = true →
      x.tframe.getLsbD 63 = true →
      ∃ t : State, exec ins s = .next t ∧ framed t (word0 cls false) ∧ s.onlyAt t [(f, 48)] ∧
        t.grp.priv = true ∧ t.grp.handler.isSome = true ∧
        t.grp.sAt 60 = BitVec.ofInt 32 ((off : ℤ) - (FMap.get {} g.segs 2).base) ∧
        t.grp.sAt 61 = BitVec.ofNat 32 (word0 cls false) ∧ (∀ r, r ≠ 60 → r ≠ 61 → t.grp.sAt r = g.sAt r) ∧
        t.grp.v = g.v ∧ t.grp.p = g.p ∧ t.grp.q = g.q ∧ t.grp.t = g.t ∧ t.grp.fflags = g.fflags ∧
        t.grp.slices.length = g.slices.length ∧
        (∀ k y z, g.slices[k]? = some y → t.grp.slices[k]? = some z →
          z = if c.slices.getLsbD k then { y with pc := nbits x.tvec.toNat 17 2 * 4, stack := [], fell := none } else y) ∧
        ∀ p ∈ t.grp.paths, p.slices &&& c.slices = 0 → p.held = true
    let fails (ins : Instr) (t : State) : Prop :=
      exec ins s = .next t ∧ (t.unitAt uid).ending = true ∧ (t.unitAt uid).errored = true ∧
        .event u.dev "ERRRING" x.errCount ∈ t.outbox
    enters (.sysSvc n) 0x13 ∧ enters (.sysBkpt n) 0x11 ∧
    (s.ready c [] [] →
      (∃ t, fails (.sysTrap n) t) ∧
      (g.ecc = none → u.ending = false → g.cancel = false →
        g.handler.isSome = true ∨ x.tvec.getLsbD 63 = false ∨ x.tframe.getLsbD 63 = false →
        (∃ t, fails (.sysSvc n) t) ∧ ∃ t, fails (.sysBkpt n) t) ∧
      (u.slots = [a] → g.holds = [] → (s.grpOf (17 * u.core + 16)).holds = [] → x.tframe.getLsbD 63 = true → s.parked = [] →
        let slot := s.lvAt u.dev (x.errring.toNat % 2 ^ 33 + 64 * (x.errCount % 256))
        let ctr := s.lvAt u.dev u.level
        ∃ t, fails (.sysTrap n) t ∧ s.onlyAt t [(f, 48), (slot, 64), (ctr, 4)] ∧
          (f + 48 ≤ slot ∨ slot + 64 ≤ f → f + 48 ≤ ctr ∨ ctr + 4 ≤ f →
            framed t (word0 3 g.handler.isSome + 256 * 0x70)))) ∧
    -- the return
    (s.ready c [] [spanS 60 4, (0xCC, 7)] → g.priv = true → i.heldBack true = false →
      (g.handler = none → exec .sysEret s = .next (i.s.takeTrap a (i.trap 3 0x71 0 0))) ∧
      ∀ h, g.handler = some h → s.clean → s.lvFrozen u.dev h.frame = false →
        let p := s.lvAt u.dev h.frame
        let resume := s.rdN (p + 8) 4
        let which : BitVec 16 := if isSteer a then 1 else BitVec.ofNat 16 (s.rdN (p + 14) 2)
        (resume % 4 ≠ 0 → exec .sysEret s = .next (i.s.takeTrap a (i.trap 4 0 0 resume))) ∧
        (resume % 4 = 0 → 2 ^ 18 ≤ resume → exec .sysEret s = .next (i.s.takeTrap a (i.trap 3 0x59 0 0))) ∧
        (resume % 4 = 0 → resume < 2 ^ 18 → (s.rdN p 4).testBit 21 = false →
          ∃ t : State, exec .sysEret s = .next t.closeClause ∧ t.mem = s.mem ∧ t.tags = s.tags ∧
            (∀ k < 4, t.grp.sAt (60 + k) = BitVec.ofNat 32 (s.rdN (p + 24 + 4 * k) 4)) ∧
            (∀ r < 60, t.grp.sAt r = g.sAt r) ∧ t.grp.q = BitVec.ofNat 7 (s.rdN (p + 40) 2) ∧
            t.grp.priv = (s.rdN p 4).testBit 22 ∧ t.grp.handler = none ∧ t.grp.v = g.v ∧ t.grp.p = g.p ∧ t.grp.t = g.t ∧
            t.grp.slices.length = g.slices.length ∧
            (∀ k y z, g.slices[k]? = some y → t.grp.slices[k]? = some z →
              let x : Slice := h.saved.getD k {}
              let stays : BitVec 4 := ~~~((h.exited >>> (4 * k)).setWidth 4)
              z = if which.getLsbD k then
                  { x with pc := resume, fell := none, mask := x.mask &&& stays
                           stack := x.stack.map fun e => { e with mask := e.mask &&& stays } }
                else y) ∧
            ∀ q ∈ t.grp.paths, q.held = false))

/-- R284 to R290, R293 to R296, R299 to R302: the privileged pt instructions. pt.inv appends an entry under the next sequence
number to every die's log; a die that applies its log discards exactly the held translations that an entry covers, of its
cores and of its clusters; pt.fence, legal at both privileges (R75), waits for every older access and for each page that is
being migrated; pt.migb, pt.migf and pt.migd open, freeze and finish the migration of a page, each with its
status; pt.hotl restarts the memory tiles' sketches. The model's readings: PT_OPERAND goes before PT_LOG, and pt.inv,
pt.fence and pt.migd raise PT_LOG for the log of any die (log entry 67); a page whose walk at pt.migd finds no entry has
CHANGED (log entry 68); INFO of these traps is 0 (log entry 34). -/
def Obligations.TranslationInstructions : Prop :=
  (∀ (w0 w1 : Nat) (t : TlbEnt),
    logCovers w0 w1 t = true ↔
      (nbits w0 59 58 = 0 ∧ t.asid = nbits w0 55 48 ∧ t.va < w0 % 2 ^ 48 + 65536 * (nbits w1 47 32 + 1) ∧
        w0 % 2 ^ 48 < t.va + t.size) ∨
      (nbits w0 59 58 = 1 ∧ t.asid = nbits w0 55 48) ∨ 2 ≤ nbits w0 59 58) ∧
  (∀ (s : State) (die core : Nat),
    let x := s.dieAt die
    let d := s.devAt (devOfDie s.mode die)
    let t := s.applyLog die
    let word (j k : Nat) : Nat := s.readAt noCore die (s.logSlot die ((x.gen + 1 + j) % 2 ^ 32) + 8 * k) 8
    x.logbase.getLsbD 63 = true → x.gen < 2 ^ 32 → d.invSeq < 2 ^ 32 → dieOfCore core = die → s.clean → s.owed = [] →
    let kept (e : TlbEnt) : Prop :=
      ∀ j < (d.invSeq + 2 ^ 32 - x.gen) % 2 ^ 32, logCovers (word j 0) (word j 1) e = false
    (t.dieAt die).gen = d.invSeq ∧ t.mem = s.mem ∧ (∀ a, ∃ w, t.grpOf a = { s.grpOf a with windows := w }) ∧
      (∀ e, e ∈ (t.coreAt core).tlb ↔ e ∈ (s.coreAt core).tlb ∧ kept e) ∧
      ∀ k e, k / 13 = die → (e ∈ FMap.get [] t.tlb2 k ↔ e ∈ FMap.get [] s.tlb2 k ∧ kept e)) ∧
  (∀ (s : State) (dev w0 count : Nat),
    let n := ((s.devAt dev).invSeq + 1) % 2 ^ 32
    let dies := diesOfDev s.mode dev
    let t := (s.appendLog dev w0 count).2
    dev < 4 → (∀ p, s.migOf p = none) →
    (∀ j ∈ dies, ∀ k ∈ dies, j ≠ k → s.logSlot j n + 16 ≤ s.logSlot k n ∨ s.logSlot k n + 16 ≤ s.logSlot j n) →
    (s.appendLog dev w0 count).1 = n ∧ (t.devAt dev).invSeq = n ∧
      (∀ k ∈ dies, t.rdN (s.logSlot k n) 8 = w0 % 2 ^ 64 ∧
        t.rdN (s.logSlot k n + 8) 8 = (n + 2 ^ 32 * count) % 2 ^ 64) ∧
      s.onlyAt t (dies.map fun k => (s.logSlot k n, 16)) ∧
      ∀ k ∈ dies, (s.dieAt k).logbase.getLsbD 63 = true → (s.dieAt k).gen < 2 ^ 32 →
        (n + 2 ^ 32 - (t.dieAt k).gen) % 2 ^ 32 ≤ 4096) ∧
  (∀ (s : State) (w : Walked) (e : Nat), w.place < 2 ^ 48 → w.place % 8 = 0 → s.migOf w.place = none → e < 2 ^ 64 →
    (s.putLeaf w e).homeAt w.place 8 = e) ∧
  (∀ e m : Nat, e < 2 ^ 64 → m < 4 → pteMig (withMig e m) = m ∧
    ∀ b < 64, b ≠ 55 → b ≠ 56 → (withMig e m).testBit b = e.testBit b) ∧
  ∀ (s : State) (c : Clause) (x y : BitVec 6) (z : BitVec 8),
    let i := s.found c 1
    let core := coreOf s.cur
    let dev := (s.unitAt s.grp.unit).dev
    let asid := (s.unitAt s.grp.unit).asid
    let d := s.devAt dev
    let dies := diesOfDev s.mode dev
    let va := (s.grp.sAt x.toNat).toNat + 2 ^ 32 * (s.grp.sAt (x.toNat + 1)).toNat
    let X := (s.grp.sAt x.toNat).toNat
    let Y := (s.grp.sAt y.toNat).toNat
    let missing : Prop := ∃ k ∈ dies, (s.dieAt k).logbase.getLsbD 63 = false
    let pair (r : BitVec 6) : List Span := [spanS r.toNat 2]
    let trap (ins : Instr) (cls cause : Nat) : Prop := exec ins s = .next (i.s.takeTrap s.cur (i.trap cls cause 0 0))
    let plain (ins : Instr) (srcs : List Span) (p : State → Prop) : Prop :=
      ∃ t, s.completes c ins srcs t ∧ s.sameRegs t ∧ t.grp.outs = s.grp.outs ∧ p t
    let ends (ins : Instr) (srcs : List Span) (st : Nat) (p : State → Prop) : Prop :=
      ∃ t, s.completes c ins srcs t ∧ s.sameRegs t ∧ s.owes t c [.s (z.toNat - 0x80)] [BitVec.ofNat 32 st] ∧ p t
    let keeps (t : State) : Prop := t.mem = s.mem ∧ (t.devAt dev).migs = d.migs ∧ (t.devAt dev).invSeq = d.invSeq
    let leaf := i.s.leafOf (dieOfCore core) dev asid va
    -- privilege
    (s.grp.priv = false →
      (s.ready c [] [] → trap .ptApply 2 0) ∧
      (s.ready c [spanS x.toNat 2, spanS y.toNat 1] [] → trap (.ptInv x y) 2 0) ∧
      (s.ready c [spanS x.toNat 2, spanS y.toNat 2] [(z.toNat, 1)] → trap (.ptMigb x y z) 2 0) ∧
      (s.ready c (pair x) [(z.toNat, 1)] → trap (.ptMigf x z) 2 0 ∧ trap (.ptMigd x z) 2 0) ∧
      (s.ready c [spanS x.toNat 1, spanS y.toNat 1] [] → trap (.ptHotl x y) 2 0)) ∧
    -- the fence
    (s.ready c [] [] →
      let old (g : Nat) : Bool := seqBelow g d.invSeq
      let stamped (g : Option Nat) : Prop := ∃ n, g = some n ∧ old n = true
      let mine (k : Nat) : Prop := s.devOfCore k = dev
      let older : Prop :=
        (∃ o ∈ s.stalled, mine o.core ∧ (stamped o.gen ∨ o.agent = s.cur)) ∨
        (∃ r ∈ s.parked, mine (coreOf r.agent) ∧ stamped r.gen) ∨
        (∃ p ∈ s.cores, mine p.1 ∧
          ((∃ k ∈ p.2.copies, ∃ r, k.run = some r ∧ old r.2.2 = true) ∨
            (∃ e ∈ p.2.mq, old e.gen = true ∧ ∃ k q vas v add sr sat tok, e.cmd = .mdrn k (.mem q vas) v add sr sat tok) ∨
            ∃ a ∈ p.2.addons, a.tile = none ∧ old a.gen = true)) ∨
        (∃ o ∈ s.colls, o.dev = dev ∧ stamped o.gen) ∨ ∃ m ∈ d.migs, m.st ≠ 0
      (missing → trap .ptFence 3 0x21) ∧
      (¬missing → ¬older →
        ∃ t : State, exec .ptFence s = .next t.closeClause ∧ t.mem = s.mem ∧ s.sameRegs t ∧ t.grp.outs = s.grp.outs ∧
          ∀ k ∈ dies, (s.dieAt k).gen < 2 ^ 32 → d.invSeq < 2 ^ 32 → devOfDie s.mode k = dev →
            (t.dieAt k).gen = d.invSeq) ∧
      (¬missing → older →
        ∃ t : State, exec .ptFence s = .next t.closeClause ∧ t.mem = s.mem ∧ s.sameRegs t ∧
          ∀ p ∈ t.grp.paths, p.slices &&& c.slices ≠ 0 → ∃ toks, p.wait = some (.ptFence d.invSeq toks) ∧ toks ≠ [])) ∧
    (s.grp.priv = true →
      -- invalidation
      (s.ready c [spanS x.toNat 2, spanS y.toNat 1] [] → i.heldBack true = false →
        let srcs : List Span := [spanS x.toNat 2, spanS y.toNat 1]
        let kind := nbits Y 25 24
        let legal : Prop := (kind = 0 ∧ va % 65536 = 0 ∧ va < 2 ^ 48) ∨ (kind = 1 ∧ va = 0 ∧ Y % 65536 = 0) ∨
          (kind = 2 ∧ va = 0 ∧ Y % 65536 = 0 ∧ nbits Y 23 16 = 0)
        (¬legal → trap (.ptInv x y) 3 0x20) ∧ (legal → missing → trap (.ptInv x y) 3 0x21) ∧
        (legal → ¬missing → plain (.ptInv x y) srcs fun t =>
          t.mem = (s.appendLog dev (kind * 2 ^ 58 + nbits Y 23 16 * 2 ^ 48 + va) (Y % 65536)).2.mem ∧
          (t.devAt dev).invSeq = (d.invSeq + 1) % 2 ^ 32)) ∧
      (s.ready c [] [] →
        let die := dieOfCore core
        ((s.dieAt die).logbase.getLsbD 63 = false → trap .ptApply 3 0x21) ∧
        ((s.dieAt die).logbase.getLsbD 63 = true → plain .ptApply [] fun t =>
          t.mem = s.mem ∧ t.dies = (s.applyLog die).dies ∧ t.cores = (s.applyLog die).cores)) ∧
      -- migration
      (s.ready c [spanS x.toNat 2, spanS y.toNat 2] [(z.toNat, 1)] → i.heldBack true = false → i.walkHeld va = false →
        let ins : Instr := .ptMigb x y z
        let srcs : List Span := [spanS x.toNat 2, spanS y.toNat 2]
        let dst := (s.grp.sAt y.toNat).toNat + 2 ^ 32 * (s.grp.sAt (y.toNat + 1)).toNat
        let a := pteAddr dst
        let mine := d.migs.filter fun m => decide (m.asid = asid)
        let many : Prop := ∃ w, d.owner.accepted = some w ∧ w.2.getLsbD 6 = true
        let free (n : Nat) : Prop := n ∈ (s.ctxAt dev asid).migs ∧ ∀ m ∈ d.migs, m.idx ≠ n
        (leaf.1 = none → ends ins srcs 1 keeps) ∧
        ∀ w, leaf.1 = some w →
          let size := pageSize w.lv
          let state : Prop := pteMig w.e = 1 ∨ pteMig w.e = 2 ∨
            ∃ m ∈ d.migs, m.asid = asid ∧ m.va ≤ va ∧ va < m.va + m.size
          let frame : Prop := dst ≠ (if pteLoc dst then 2 ^ 57 else 0) + pteKey dst * 2 ^ 49 + a ∨ a % size ≠ 0 ∨
            (pteLoc dst = true ∧ (globalSize s.mode < a + size ∨ pteKey dst ≠ 0 ∨
              s.guardedRange (gloc s.mode dev a) size = true)) ∨
            (pteLoc dst = false ∧ hbmSize s.mode < a + size) ∨ (pteLoc dst = pteLoc w.e ∧ a = pteAddr w.e)
          let full : Prop := (¬many ∧ 16 ≤ mine.length) ∨ ∀ n, ¬free n
          (state → ends ins srcs 2 keeps) ∧ (¬state → w.lv = 2 → ends ins srcs 3 keeps) ∧
          (¬state → w.lv ≠ 2 → frame → ends ins srcs 4 keeps) ∧
          (¬state → w.lv ≠ 2 → ¬frame → full → ends ins srcs 5 keeps) ∧
          (¬state → w.lv ≠ 2 → ¬frame → ¬full → w.place < 2 ^ 48 → s.migOf w.place = none →
            ends ins srcs 0 fun t => t.mem = (leaf.2.putLeaf w (withMig w.e 1)).mem ∧
              ∃ n tok, free n ∧ (t.devAt dev).migs = d.migs ++
                [{ idx := n, tok := tok, asid := asid, va := va / size * size, size := size, srcLoc := pteLoc w.e
                   src := framePlace s.mode dev (pteLoc w.e) (pteAddr w.e), dstLoc := pteLoc dst
                   dst := framePlace s.mode dev (pteLoc dst) a, dstKey := pteKey dst, srcKey := pteKey w.e }])) ∧
      (s.ready c (pair x) [(z.toNat, 1)] → i.heldBack true = false → i.walkHeld va = false →
        let rec? := d.migAt asid va
        let put (m : Mig) (l : List Mig) : List Mig := l.map fun n => if n.idx = m.idx then m else n
        (rec? = none → ends (.ptMigf x z) (pair x) 2 keeps ∧ ends (.ptMigd x z) (pair x) 2 keeps) ∧
        ∀ m, rec? = some m →
          (m.st ≠ 0 → ends (.ptMigf x z) (pair x) 2 keeps) ∧ (m.st = 0 → ends (.ptMigd x z) (pair x) 2 keeps) ∧
          (m.st = 1 ∨ m.st = 3 → exec (.ptMigd x z) s = .next s.blocked) ∧
          (m.st = 0 → ∀ w, leaf.1 = some w → w.place < 2 ^ 48 → s.migOf w.place = none →
            ends (.ptMigf x z) (pair x) 0 fun t => t.mem = (leaf.2.putLeaf w (withMig w.e 2)).mem ∧
              (t.devAt dev).migs = put { m with st := 1 } d.migs) ∧
          (m.st = 2 → missing → trap (.ptMigd x z) 3 0x21) ∧
          (m.st = 2 → ¬missing → s.stalled = [] → s.parked = [] →
            let lf := i.s.leafOf (dieOfCore core) dev asid m.va
            let entry := lf.2.pageEntry (dieOfCore core) dev m
            (entry = none → ends (.ptMigd x z) (pair x) 6 fun t => t.mem = s.mem ∧
              (t.devAt dev).migs = d.migs.filter fun n => decide (n.idx ≠ m.idx)) ∧
            ∀ w, entry = some w → w.place < 2 ^ 48 → s.migOf w.place = none →
              (framePlace s.mode dev (pteLoc w.e) (pteAddr w.e) ≠ m.src → ends (.ptMigd x z) (pair x) 6 fun t =>
                t.mem = (lf.2.putLeaf w (withMig w.e 0)).mem ∧
                (t.devAt dev).migs = d.migs.filter fun n => decide (n.idx ≠ m.idx)) ∧
              (framePlace s.mode dev (pteLoc w.e) (pteAddr w.e) = m.src → m.dstKey < 64 →
                (∀ k ∈ dies, ∀ j < 16, s.migOf (s.logSlot k ((d.invSeq + 1) % 2 ^ 32) + j) = none) →
                ∀ a, m.dst = framePlace s.mode dev m.dstLoc a → a % 256 = 0 → a < 2 ^ 48 →
                ends (.ptMigd x z) (pair x) 0 fun t => ∃ e,
                  t.mem = ((lf.2.putLeaf w e).appendLog dev (asid * 2 ^ 48 + m.va) (m.size / 65536 - 1)).2.mem ∧
                  (∀ b < 64, 58 ≤ b ∨ b < 8 → e.testBit b = w.e.testBit b) ∧ pteMig e = 3 ∧ pteLoc e = m.dstLoc ∧
                  pteKey e = m.dstKey ∧ pteAddr e = a ∧
                  (t.devAt dev).invSeq = (d.invSeq + 1) % 2 ^ 32 ∧
                  (t.devAt dev).migs = put { m with st := 3, seq := (d.invSeq + 1) % 2 ^ 32 } d.migs))) ∧
      -- gust lists
      (s.ready c [spanS x.toNat 1, spanS y.toNat 1] [] → i.heldBack true = false →
        let tiles := 2 * diesPer s.mode
        let legal : Prop := X % 1024 = 0 ∧ X + 1024 * tiles ≤ globalSize s.mode ∧ nbits Y 30 5 = 0 ∧ 6 ≤ Y % 32 ∧ Y % 32 ≤ 20
        (¬legal → trap (.ptHotl x y) 3 0x20) ∧
        (legal → plain (.ptHotl x y) [spanS x.toNat 1, spanS y.toNat 1] fun t => t.mem = s.mem ∧
          ∀ k < tiles, FMap.get {} (t.devAt dev).gusts k =
            { enabled := Y.testBit 31, area := X + 1024 * k, n := Y % 32 })))

/-! ## Engines -/

/-- R307 to R313, R318: the units of a copy write what their form makes of their source words, or update their destination;
a run whose sides lie in SRAM performs every unit that is left and completes with STATUS 0; an indexed unit outside its
segment ends it with STATUS 4; a translation that fails is a copy fault with its record; CPYCTL resumes or ends a pending
command; a loaded segment holds the page's bytes and completes every cfetch that waits for it. The model's readings: a
scatter's destination is checked as a write, and the source's fault is the one reported when both sides fail (log entry
41). -/
def Obligations.CopyEvents : Prop :=
  (∀ ws : List Nat, (∀ w ∈ ws, w < 2 ^ 32) →
    let num (l : List Nat) : Nat := l.foldr (fun w m => w + 2 ^ 32 * m) 0
    (ws.length = 6 → (packUnit 6 ws).length = 8 ∧
      ∀ i < 32, num (packUnit 6 ws) / 2 ^ (8 * i) % 256 = num ws / 2 ^ (6 * i) % 64) ∧
    (ws.length = 8 → (packUnit 7 ws).length = 6 ∧
      ∀ i < 32, num (packUnit 7 ws) / 2 ^ (6 * i) % 64 = num ws / 2 ^ (8 * i) % 64) ∧
    ∀ f < 6, packUnit f ws = ws) ∧
  (∀ d x : Nat, d < 2 ^ 32 → x < 2 ^ 32 →
    let i (v : Nat) : ℤ := (BitVec.ofNat 32 v).toInt
    let adds (f : Fmt) (p q r : Nat) : Prop := (f.value p).isFin = true → (f.value q).isFin = true →
      (f.value p).real + (f.value q).real > 0 →
        ∃ n m : Nat, 0 < m ∧ (n : ℚ) / m = (f.value p).real + (f.value q).real ∧ r = (f.roundTo 1 false false n m false 0).1
    let least (f : Fmt) (p q r : Nat) (o : ℚ → ℚ → ℚ) : Prop := (f.value p).isFin = true → (f.value q).isFin = true →
      (f.value r).real = o (f.value p).real (f.value q).real
    let lo (v : Nat) : Nat := v % 65536
    let hi (v : Nat) : Nat := v / 65536
    redUnit 8 0 d x = (d + x) % 2 ^ 32 ∧ redUnit 8 1 d x = (d + x) % 2 ^ 32 ∧
    i (redUnit 9 0 d x) = min (i d) (i x) ∧ i (redUnit 10 0 d x) = max (i d) (i x) ∧
    redUnit 9 1 d x = min d x ∧ redUnit 10 1 d x = max d x ∧
    adds fp32 d x (redUnit 8 2 d x) ∧ least fp32 d x (redUnit 9 2 d x) min ∧ least fp32 d x (redUnit 10 2 d x) max ∧
    ∀ p ∈ [(3, fp16), (4, bf16)],
      adds p.2 (lo d) (lo x) (lo (redUnit 8 p.1 d x)) ∧ adds p.2 (hi d) (hi x) (hi (redUnit 8 p.1 d x)) ∧
      least p.2 (lo d) (lo x) (lo (redUnit 9 p.1 d x)) min ∧ least p.2 (hi d) (hi x) (hi (redUnit 9 p.1 d x)) min ∧
      least p.2 (lo d) (lo x) (lo (redUnit 10 p.1 d x)) max ∧ least p.2 (hi d) (hi x) (hi (redUnit 10 p.1 d x)) max) ∧
  -- one unit, its destination in SRAM
  (∀ (s : State) (k : CopyCmd) (u : Nat) (a : Nat × Nat), s.clean → (∀ p, s.migOf p = none) → k.d.ss ≤ 1 → k.d.ds ≤ 1 →
    (k.idx.getD (0, 0, false)).2.2 = false →
    let core := coreOf k.agent
    let word (i : Nat) : Nat := s.readAt core (dieOfCore core) (s.sidePlace k k.d.ss [] (a.1 + 4 * i)) 4
    let dst := s.sidePlace k k.d.ds [] a.2
    let t := s.doUnit k [] [] u a
    dst + 32 ≤ 2 ^ 33 →
    (k.form < 8 →
      let out := packUnit k.form (if k.form = 5 then [k.d.aux] else (List.range (srcBytes k.form / 4)).map word)
      (∀ i < out.length, t.rdN (dst + 4 * i) 4 = out.getD i 0 % 2 ^ 32) ∧ s.onlyAt t [(dst, 4 * out.length)]) ∧
    (8 ≤ k.form → k.form ≤ 10 →
      t.rdN dst 4 = redUnit k.form k.d.et (s.rdN dst 4) (word 0) % 2 ^ 32 ∧ s.onlyAt t [(dst, 4)])) ∧
  -- the end of a command, and a fault
  (∀ (s : State) (core st : Nat) (k : CopyCmd), k.cseg = none → (∀ p, s.migOf p = none) → k.desc + 64 ≤ 2 ^ 33 →
    let t := s.endCopy core k st
    t.rdN (k.desc + 48) 4 = k.next % 2 ^ 32 ∧ t.rdN (k.desc + 52) 4 = st % 2 ^ 32 ∧
      t.rdN (k.desc + 56) 8 = k.faultva % 2 ^ 64 ∧ s.onlyAt t [(k.desc + 48, 16)] ∧
      (t.coreAt core).copies = (s.coreAt core).copies.filter (fun q => decide (q.tok ≠ k.tok)) ∧
      (k.preload = false → s.lowered t k.agent k.unit 1)) ∧
  (∀ (s : State) (core va cause : Nat) (k : CopyCmd) (wr : Bool), k.cseg = none → s.parked = [] →
    (∀ p, s.migOf p = none) → k.desc + 64 ≤ 2 ^ 33 →
    let x := s.ctxAt k.dev k.asid
    let slot := s.lvAt k.dev (x.cfring.toNat % 2 ^ 33 + 16 * (x.cfCount % 256))
    let t := s.copyFault core k va cause wr
    k.desc + 64 ≤ slot ∨ slot + 16 ≤ k.desc + 48 → (∀ l ∈ s.levels, s.lvAt l.1 l.2 / 8 ≠ slot / 8) →
    t.rdN (k.desc + 48) 4 = k.next % 2 ^ 32 ∧ t.rdN (k.desc + 52) 4 = 2 ∧ t.rdN (k.desc + 56) 8 = va % 2 ^ 64 ∧
      (∀ q ∈ (s.coreAt core).copies, q.tok = k.tok → { k with status := 2, faultva := va } ∈ (t.coreAt core).copies) ∧
      .event k.dev "CFRING" x.cfCount ∈ t.outbox ∧
      (x.cfring.getLsbD 63 = true → s.tagFull slot = false →
        t.rdN slot 8 = va % 2 ^ 64 ∧ t.rdN (slot + 8) 2 = (64 * core + k.slot) % 65536 ∧
        t.rdN (slot + 10) 1 = k.asid % 256 ∧ t.rdN (slot + 11) 1 = (if wr then 1 else 0) ∧
        t.rdN (slot + 12) 1 = cause % 256 ∧ t.rdN (slot + 13) 3 = 0 ∧ t.tagFull slot = true ∧
        (t.ctxAt k.dev k.asid).cfCount = x.cfCount + 1) ∧
      (x.cfring.getLsbD 63 = false ∨ s.tagFull slot = true →
        (t.ctxAt k.dev k.asid).cfCount = x.cfCount ∧ (t.ctxAt k.dev k.asid).cfLost = x.cfLost + 1)) ∧
  -- runs
  (∀ (s : State) (core slot : Nat) (k : CopyCmd), s.msg = .copyRun core slot → coreOf k.agent = core →
    (s.coreAt core).copies.find? (fun q => decide (q.slot = slot)) = some k →
    let k1 := (s.readIdx k k.next).1
    let s1 := (s.readIdx k k.next).2
    let row := (k.d.at k.form k.next).2.1
    let a := k1.unitAddr k.next
    let left := k.d.units k.form - k.next
    (k.status ≠ 1 ∨ k.cseg ≠ none → exec .copyRun s = .next s) ∧
    (s.frozen k.desc = true → exec .copyRun s = .next s) ∧
    (k.status = 1 → k.cseg = none → s.clean → (∀ p, s.migOf p = none) → s.lazy = 0 → k.run = none →
        (k.form = 11 → (s.unitAt k.unit).away = false) →
      (k.form = 3 ∨ k.form = 4 → k.idx.map Prod.fst ≠ some row →
        k1.idx = some (row, s.readAt core (dieOfCore core) (k.idxPlace row) 4, false)) ∧
      (k.form = 3 → s1.rangeCause k.dev (k.segOf k.d.ss) k.d.ss a.1 4 false ≠ none →
        exec .copyRun s = .next (s1.endCopy core k1 4)) ∧
      (k.form = 4 → s1.rangeCause k.dev (k.segOf k.d.ds) k.d.ds a.2 4 true ≠ none →
        exec .copyRun s = .next (s1.endCopy core k1 4)) ∧
      (k.form ≠ 3 → k.form ≠ 4 → k1 = k ∧
        (k.d.ss ≤ 1 → k.d.ds ≤ 1 → 0 < left →
          exec .copyRun s = .next (((List.range left).foldl
            (fun s j => s.doUnit k [] [] (k.next + j) (k.unitAddr (k.next + j))) s).endCopy core
              { k with next := k.d.units k.form } 0)) ∧
        (∀ cause s2, k.form ≠ 5 → k.d.ss = 2 → s.sideStalls k a.1 (srcBytes k.form) = false →
          (k.d.ds = 2 → k.form ≠ 11 → s.sideStalls k a.2 (dstBytes k.form) = false) →
          s.translate core (dieOfCore core) k.dev k.asid a.1 false true = (.error cause, s2) →
          exec .copyRun s = .next (s2.copyFault core k a.1 cause false)) ∧
        (∀ cause s2, k.form ≠ 11 → k.d.ss ≠ 2 → k.d.ds = 2 → s.sideStalls k a.2 (dstBytes k.form) = false →
          s.translate core (dieOfCore core) k.dev k.asid a.2 true true = (.error cause, s2) →
          exec .copyRun s = .next (s2.copyFault core k a.2 cause true))))) ∧
  -- CPYCTL
  (∀ (s : State) (dev asid tag : Nat) (ins : Instr), (ins = .cpyctlResume ∧ s.msg = .cpyctlResume dev asid tag) ∨
      (ins = .cpyctlAbort ∧ s.msg = .cpyctlAbort dev asid tag) →
    let core := tag / 64
    (s.pendingCopy dev asid tag = none → exec ins s = .next s) ∧
    ∀ k, s.pendingCopy dev asid tag = some k → k.cseg = none → (∀ p, s.migOf p = none) → k.desc + 64 ≤ 2 ^ 33 →
      ∃ t, exec ins s = .next t ∧ t.rdN (k.desc + 48) 4 = k.next % 2 ^ 32 ∧ s.onlyAt t [(k.desc + 48, 16)] ∧
        (ins = .cpyctlResume → t.rdN (k.desc + 52) 4 = 1 ∧
          ({ k with status := 1 } ∈ (t.coreAt core).copies ∨ { k with status := 1 } ∈ (t.coreAt core).shelved)) ∧
        (ins = .cpyctlAbort → t.rdN (k.desc + 52) 4 = 3 ∧ (k.preload = false → s.lowered t k.agent k.unit 1) ∧
          ∀ q ∈ (t.coreAt core).copies ++ (t.coreAt core).shelved, q.tok ≠ k.tok)) ∧
  -- code
  ∀ (s : State) (core n : Nat), s.msg = .codeSegmentLoaded core n →
    let c := s.coreAt core
    ((c.seg n).st ≠ 1 → exec .codeSegmentLoaded s = .next s) ∧
    ((c.seg n).st = 1 → ∀ k, c.copies.find? (fun k => decide (k.cseg = some n ∧ k.status = 1)) = some k →
      (s.walkStalls (dieOfCore core) k.dev k.asid k.va = true → exec .codeSegmentLoaded s = .next s) ∧
      (s.walkStalls (dieOfCore core) k.dev k.asid k.va = false →
      (∀ cause s1, s.translate core (dieOfCore core) k.dev k.asid k.va false true = (.error cause, s1) → k.preload = false →
        (∀ q ∈ c.copies, ¬(q.cseg = some n ∧ q.status = 2)) →
        exec .codeSegmentLoaded s = .next (s1.copyFault core k k.va cause false)) ∧
      ∀ p s1, s.translate core (dieOfCore core) k.dev k.asid k.va false true = (.ok p, s1) → s1.clean →
        let ka := p.place s.mode k.dev k.va
        (s1.frozen ka = true → exec .codeSegmentLoaded s = .next s1) ∧
        (s1.frozen ka = false →
          ∃ t, exec .codeSegmentLoaded s = .next t ∧ (t.coreAt core).seg n = { st := 2, va := k.va } ∧
            (∀ i < 1024, t.rdN (iloc core (4096 * n) + 4 * i) 4 =
              s1.readAt core (dieOfCore core) (ka + 4 * i) 4 (some (k.asid, k.va + 4 * i))) ∧
            s1.onlyAt t [(iloc core (4096 * n), 4096)] ∧ ∀ q ∈ (t.coreAt core).copies, q.cseg ≠ some n)))

/-- R108, R109, R125, R127, R169 to R173, R176, R180, R183 to R185, R189, R190, R193, R194: the factors that a record gives, the
step sum of the window, the blocks that mxq derives, each command's effect at the head of its core's queue, the saved
accumulators that come back to a restored holder of the baton among them, one K-step of an mma, one home's part of an
add-on-store, and the end of a batch. -/
def Obligations.MatrixEvents : Prop :=
  -- the window sum
  (∀ ps : List FpNum, (∀ p ∈ ps, p.isFin = true) →
    let r := windowSum (ps.map some)
    ((∀ p ∈ ps, p.real = 0) → r = 0) ∧
    ∀ top : ℚ, 0 < top → (∃ p ∈ ps, |p.real| = top) → (∀ p ∈ ps, |p.real| ≤ top) →
      let g : ℚ := 2 ^ (Int.log 2 top - 48)
      let w : ℚ := (ps.map fun p => (if p.isNeg then -1 else 1) * (⌊|p.real| / g⌋ : ℚ) * g).sum
      (w = 0 → r = 0) ∧
      (w ≠ 0 → ∃ n d : Nat, 0 < d ∧ (n : ℚ) / d = |w| ∧ r = (fp32.roundTo 1 false (decide (w < 0)) n d false 0).1)) ∧
  (∀ ps : List (Option FpNum),
    let has (b : Bool) : Prop := some (.inf b) ∈ ps
    let bad : Prop := none ∈ ps ∨ (∃ k, some (.nan k) ∈ ps) ∨ (has true ∧ has false)
    (bad → windowSum ps = fp32.canon) ∧ ∀ b, ¬bad → has b → windowSum ps = fp32.infBits b) ∧
  -- what a drain makes of an element
  (∀ (cvt : Nat) (sr sat : Bool) (v : Word) (r16 : Nat),
    drainValue 0 sr sat v r16 = v.toNat ∧ drainValue 6 sr sat v r16 = v.toNat ∧
    drainValue 5 sr sat v r16 = (BitVec.ofInt 8 (max (-128) (min 127 v.toInt))).toNat ∧
    (1 ≤ cvt → cvt ≤ 4 → ∀ neg m e, fp32.value v.toNat = .fin neg m e → m ≠ 0 →
      ∃ n d : Nat, 0 < d ∧ (n : ℚ) / d = m * 2 ^ e ∧
        drainValue cvt sr sat v r16 = ((fmtOf cvt).roundTo (if sr then 6 else 1) sat neg n d false r16).1)) ∧
  -- the factors that a record's rows and scale bytes give
  (∀ a : Option FpNum, product none a = some (.fin false 0 0) ∧ product a none = some (.fin false 0 0)) ∧
  (∀ (c : Core) (r : Rec) (o i k : Nat),
    let byte (a : Nat) : Nat := (FMap.get 0 (if r.buf = 0 then c.opb else c.wb) a).toNat
    let K := if r.fmt = 1 ∨ r.fmt = 2 then 128 else if r.fmt = 7 ∧ r.exp = false then 512 else 256
    let w := if r.fmt = 1 ∨ r.fmt = 2 then 16 else if r.fmt = 7 ∨ r.fmt = 15 then 4 else 8
    let cb := K * w / (if r.cmp then 16 else 8)
    let rps := (16 * cb + (if r.cmp then 2 * K else 0)) / 256
    let line := if r.lay then o + 16 * i else o + i
    let base := if r.buf = 0 then 256 * (r.row0 + line) else 256 * (r.row0 + o) + i * cb
    let elem (m : Nat) : Nat :=
      if w = 16 then byte (base + 2 * m) + 256 * byte (base + 2 * m + 1)
      else if w = 4 then byte (base + m / 2) / 16 ^ (m % 2) % 16 else byte (base + m)
    let index (m : Nat) : Nat := byte (256 * (r.row0 + o) + 16 * cb + i * (K / 8) + m / 4) / 4 ^ (m % 4) % 4
    let X := byte (256 * (r.row0 + r.scoff) + (if r.buf = 0 then line * (K / 32) else o / rps * (K / 2) + i * (K / 32)) + k / 32)
    let g := 2 * (k / 4)
    let kept (m : Nat) : Prop := if r.cmp = false then m = k
      else (m = g + 1 ∧ index (g + 1) = k % 4) ∨ (m = g ∧ index g = k % 4 ∧ index (g + 1) ≠ k % 4)
    (r.cmp = true → index g ≠ k % 4 → index (g + 1) ≠ k % 4 → c.factor r o i k = none ∧ c.factorInt r o i k = 0) ∧
    ∀ m, kept m → c.factorInt r o i k = (BitVec.ofNat w (elem m)).toInt ∧
      ∃ v, c.factor r o i k = some v ∧
        let v0 := (fmtOf r.fmt).value (elem m)
        (r.mx = false → v = v0) ∧
        (r.mx = true →
          (X = 255 ∨ v0.isNan = true → v.isNan = true) ∧ (X ≠ 255 → ∀ b, v0 = .inf b → v = .inf b) ∧
          (X ≠ 255 → v0.isFin = true → v.isFin = true ∧ v.isNeg = v0.isNeg ∧ v.real = v0.real * 2 ^ ((X : ℤ) - 127)))) ∧
  -- a block scale, and the blocks that mxq derives
  (∀ (f : Fmt) (emax : ℤ) (vs : List FpNum),
    let r := blockScale f emax vs
    ((∃ v ∈ vs, v.isFin = false) → r = (0xFF, vs.map fun _ => 0)) ∧
    ((∀ v ∈ vs, v.isFin = true ∧ v.real = 0) → r = (127, vs.map fun v => if v.isNeg then 2 ^ (f.eb + f.mb) else 0)) ∧
    ∀ top : ℚ, 0 < top → (∀ v ∈ vs, v.isFin = true ∧ |v.real| ≤ top) → (∃ v ∈ vs, |v.real| = top) →
      (r.1 : ℤ) = max 0 (min 254 (Int.log 2 top - emax + 127)) ∧ r.2.length = vs.length ∧
      ∀ (i : Nat) (v : FpNum), vs[i]? = some v → ∃ n d : Nat, 0 < d ∧ (n : ℚ) / d = |v.real| / 2 ^ ((r.1 : ℤ) - 127) ∧
        r.2[i]? = some (f.roundTo 1 true v.isNeg n d false 0).1) ∧
  (∀ (c : Core) (ra rb : Rec) (oa ob k : Nat),
    (∀ r ∈ [ra, rb], r.buf = 0 ∧ r.lay = false ∧ r.mx = true ∧ r.cmp = false ∧ r.exp = false ∧ 3 ≤ r.fmt ∧ r.fmt ≤ 7) →
    let n := ra.depth
    let blocks := rb.depth / 32
    let clear (p q : Nat × Nat) : Prop := p.1 + p.2 ≤ q.1 ∨ q.1 + q.2 ≤ p.1
    let data : Nat × Nat := (256 * (rb.row0 + ob), 256 * n)
    let scales : Nat × Nat := (256 * (rb.row0 + rb.scoff) + ob * blocks, n * blocks)
    k < blocks → clear data scales →
    (∀ q ∈ [data, scales], clear (256 * (ra.row0 + oa), 256 * 32) q ∧
      clear (256 * (ra.row0 + ra.scoff) + oa * (n / 32), n) q) →
    let d := c.doXq ra rb oa ob k
    ∀ j < n,
      let block := blockScale (fmtOf rb.fmt) ([8, 15, 2, 4, 2].getD (rb.fmt - 3) 2)
        ((List.range 32).map fun i => (c.factor ra (oa + i) 0 j).getD (.fin false 0 0))
      let row := 256 * (rb.row0 + ob + j)
      bufByte d.opb (scales.1 + j * blocks + k) = block.1 ∧
        (∀ b < blocks, b ≠ k → bufByte d.opb (scales.1 + j * blocks + b) = bufByte c.opb (scales.1 + j * blocks + b)) ∧
        ∀ e < rb.depth, bufElem d.opb rb.width row e =
          if e / 32 = k then block.2.getD (e % 32) 0 else bufElem c.opb rb.width row e) ∧
  -- commands
  (∀ (s : State) (core : Nat), s.msg = .matrixCommandEffect core →
    let c := s.coreAt core
    (c.mq = [] → exec .matrixCommandEffect s = .next s) ∧
    ∀ e rest, c.mq = e :: rest → c.soft = [] →
      let after (p : State → Core → Prop) : Prop :=
        ∃ t, exec .matrixCommandEffect s = .next t ∧ (t.coreAt core).mq = rest ∧ p t (t.coreAt core)
      (∀ acc ra rb oa ob n da db clr, e.cmd = .mma acc ra rb oa ob n da db clr → exec .matrixCommandEffect s = .next s) ∧
      (∀ n r, e.cmd = .mres n (some r) → after fun t d => t.mem = s.mem ∧
        ∀ m, d.recs.find m = if m = n then some r else c.recs.find m) ∧
      (∀ n, e.cmd = .mres n none → after fun t d => t.mem = s.mem ∧
        ∀ m, d.recs.find m = if m = n then none else c.recs.find m) ∧
      (∀ src dst rows, e.cmd = .mwld src dst rows → c.opbPoison = [] → after fun t d => t.mem = s.mem ∧ d.opb = c.opb ∧
        ∀ b, FMap.get 0 d.wb b =
          if 256 * dst ≤ b ∧ b < 256 * (dst + rows) then FMap.get 0 c.opb (256 * src + (b - 256 * dst))
          else FMap.get 0 c.wb b) ∧
      (∀ acc, e.cmd = .mzero acc → after fun t d => t.mem = s.mem ∧
        (∀ k, (FMap.get zeroTile d.acc acc).getD k 0 = 0) ∧ ∀ a, a ≠ acc → FMap.get zeroTile d.acc a = FMap.get zeroTile c.acc a) ∧
      (∀ ra rb oa ob k, e.cmd = .mxq ra rb oa ob k → after fun t d => t.mem = s.mem ∧ d.opb = (c.doXq ra rb oa ob k).opb) ∧
      (∀ acc bad, e.cmd = .restore acc bad → after fun t d => t.mem = s.mem ∧ d.acc = acc ∧ d.accPoison = bad) ∧
      (e.cmd = .close → after fun t d => t.mem = s.mem ∧
        d.batches = c.batches.map fun b => if b.tok = e.tok then { b with effected := true } else b) ∧
      ∀ acc dst cvt add sat tok, e.cmd = .mdrn acc dst cvt add false sat tok → c.accPoison = [] →
        let v (k : Nat) : Word := (FMap.get zeroTile c.acc acc).getD k 0
        let r (k : Nat) : Nat := drainValue cvt false sat (v k) 0
        let n := cvtBytes cvt
        (∀ j, dst = .tile j → add = false → (s.grpOf e.agent).unit = e.unit → after fun t d => t.mem = s.mem ∧
          d.acc = c.acc ∧ (t.grpOf e.agent).outs = (s.grpOf e.agent).outs.map fun o =>
            if o.tok = tok then { o with vals := some ((List.range 256).map fun k => BitVec.ofNat 32 (r k)) } else o) ∧
        (∀ rc off col, dst = .opb rc off col → (16 * col + 16) * (rc.width / 8) ≤ 256 → 8 ≤ rc.width →
          after fun t d => t.mem = s.mem ∧ ∀ i < 16, ∀ j < 16, ∀ b < rc.width / 8,
            FMap.get 0 d.opb (256 * (rc.row0 + rc.lineRow off i) + (16 * col + j) * (rc.width / 8) + b) =
              BitVec.ofNat 8 (r (16 * i + j) / 256 ^ b)) ∧
        (∀ (as : List Nat) (vas : List (Nat × Nat)), dst = .mem as vas → as.length = 256 → (∀ p, s.migOf p = none) → (∀ a ∈ as, a + 4 ≤ 2 ^ 33) →
          (add = false → (∀ i < 256, ∀ j < 256, i ≠ j → as.getD i 0 + n ≤ as.getD j 0 ∨ as.getD j 0 + n ≤ as.getD i 0) →
            after fun t _ => (∀ k < 256, t.rdN (as.getD k 0) n = r k % 256 ^ n) ∧ s.onlyAt t (as.map fun a => (a, n))) ∧
          (add = true → after fun t d => t.mem = s.mem ∧ ∃ parts : List AddOn, d.addons = c.addons ++ parts ∧
            (∀ o ∈ parts, o.tile = none ∧ o.cvt = cvt ∧ o.tok = tok ∧ ∀ p ∈ o.elems, ∀ q ∈ o.elems, homeOf p.1 = homeOf q.1) ∧
            ∀ k < 256, ∃ o ∈ parts, (as.getD k 0, v k, 0#32, false) ∈ o.elems))) ∧
  -- K-steps
  (∀ (s : State) (core : Nat), s.msg = .mmaKStep core →
    let c := s.coreAt core
    (c.mq = [] → exec .mmaKStep s = .next s) ∧
    ∀ e rest acc ra rb oa ob n da db clr, c.mq = e :: rest → e.cmd = .mma acc ra rb oa ob n da db clr → c.soft = [] →
      let a := oa + e.step * da
      let b := ob + e.step * db
      let old (k : Nat) : Word := if clr = true ∧ e.step = 0 then 0 else (FMap.get zeroTile c.acc acc).getD k 0
      let new (k : Nat) : Word :=
        if ra.isInt then
          old k + BitVec.ofInt 32 ((List.range ra.depth).map fun m => c.factorInt ra a (k / 16) m * c.factorInt rb b (k % 16) m).sum
        else BitVec.ofNat 32 (fp32.addRne (old k).toNat (windowSum ((List.range ra.depth).map fun m =>
          product (c.factor ra a (k / 16) m) (c.factor rb b (k % 16) m))))
      ∃ t, exec .mmaKStep s = .next t ∧ t.mem = s.mem ∧
        (t.coreAt core).mq = (if n ≤ e.step + 1 then rest else { e with step := e.step + 1 } :: rest) ∧
        (∀ k < 256, (FMap.get zeroTile (t.coreAt core).acc acc).getD k 0 = new k) ∧
        (∀ x, x ≠ acc → FMap.get zeroTile (t.coreAt core).acc x = FMap.get zeroTile c.acc x) ∧
        -- a non-finite value shows in NF once its batch is complete
        ((s.grpOf e.agent).unit = e.unit → t.grpOf e.agent =
          if ra.isInt = false ∧ ((List.range 256).any fun k => fp32.nonFinite (new k).toNat) = true
          then (s.grpOf e.agent).nonFinite e.batch else s.grpOf e.agent)) ∧
  -- add-on-stores
  (∀ (s : State) (k : Nat), s.msg = .addOnStoreUpdate k →
    let all := s.cores.flatMap fun p => p.2.addons
    (all[k]? = none → exec .addOnStoreUpdate s = .next s) ∧
    ∀ o, all[k]? = some o →
      let new (old : Nat) (e : Nat × Word × Word × Bool) : Nat := addOnValue o.cvt o.sr o.sat old e.2.1 e.2.2.1.toNat
      let n := cvtBytes o.cvt
      let taken (t : State) : Prop := (t.coreAt o.core).addons = (s.coreAt o.core).addons.erase o
      (∀ j, o.tile = some j → (s.grpOf o.agent).unit = o.unit →
        ∃ t, exec .addOnStoreUpdate s = .next t ∧ taken t ∧ t.mem = s.mem ∧
          (t.grpOf o.agent).outs = (s.grpOf o.agent).outs.map fun p => if p.tok = o.tok then
            { p with vals := some (o.elems.map fun e => BitVec.ofNat 32 (new ((s.grpOf o.agent).tAt j e.1).toNat e)) } else p) ∧
      (o.tile = none → (∃ e ∈ o.elems, s.frozen e.1 = true) → exec .addOnStoreUpdate s = .next s) ∧
      (o.tile = none → (∀ p, s.migOf p = none) → s.decls = [] → (∀ e ∈ o.elems, e.1 + 4 ≤ 2 ^ 33) →
        (∀ i < o.elems.length, ∀ j < o.elems.length, i ≠ j → ∀ p q, o.elems[i]? = some p → o.elems[j]? = some q →
          p.1 + n ≤ q.1 ∨ q.1 + n ≤ p.1) →
        ∃ t, exec .addOnStoreUpdate s = .next t ∧ taken t ∧
          (∀ e ∈ o.elems, t.rdN e.1 n = new (s.rdN e.1 n) e % 256 ^ n) ∧ s.onlyAt t (o.elems.map fun e => (e.1, n)))) ∧
  (∀ (sr sat : Bool) (old : Nat) (v : Word) (r16 : Nat), old < 2 ^ 32 →
    addOnValue 6 sr sat old v r16 = (old + v.toNat) % 2 ^ 32 ∧
    ∀ cvt ∈ [0, 1, 2], ∀ f : Fmt, f = (if cvt = 0 then fp32 else fmtOf cvt) →
      ((f.value old).isNan = true ∨ (fp32.value v.toNat).isNan = true → addOnValue cvt sr sat old v r16 = f.canon) ∧
      ((f.value old).isFin = true → (fp32.value v.toNat).isFin = true →
        let w := (f.value old).real + (fp32.value v.toNat).real
        w ≠ 0 → ∃ n d : Nat, 0 < d ∧ (n : ℚ) / d = |w| ∧ addOnValue cvt sr sat old v r16 =
          (f.roundTo (if cvt ≠ 0 ∧ sr then 6 else 1) (cvt ≠ 0 && sat) (decide (w < 0)) n d false (if cvt = 0 then 0 else r16)).1)) ∧
  -- batches
  ∀ (s : State) (core slot : Nat), s.msg = .matrixBatchComplete core slot →
    let c := s.coreAt core
    let oldest := c.batches.find? fun b => decide (slotOf b.agent = slot)
    (oldest = none → exec .matrixBatchComplete s = .next s) ∧
    ∀ b, oldest = some b →
      (b.effected = false → exec .matrixBatchComplete s = .next s) ∧
      (b.effected = true → c.addons = [] → c.tileDrains = [] → s.stalled = [] →
        c.batches.find? (fun d => decide (d.agent = b.agent)) = some b →
        ∃ t, exec .matrixBatchComplete s = .next t ∧ t.mem = s.mem ∧ (t.coreAt core).batches = c.batches.erase b ∧
          s.lowered t b.agent b.unit 2 ∧
          let g := s.grpOf b.agent
          let entry := g.nf.find? fun p => decide (p.1 = b.number)
          (g.unit = b.unit →
            (entry = none → (t.grpOf b.agent).fflags = g.fflags) ∧
            (entry = some (b.number, false) → (t.grpOf b.agent).fflags = g.fflags ||| fNF)))

/-- R201, R203 to R205, R207, R214, R216, R325, R327, R335 to R357, R359: a collective completes at its member, and an rset
once every participant has issued it; an encoding writes its rows, a gradient add updates one word; a ray's record is
written; a tree operation is accepted in order, does to its tree what R338 to R343 and R350 to R359 say, and then completes.
Each completion lowers its group's counter. The model's readings: a source of hg.grad may read as any value that it had since
the instruction issued (log entry 54), and an operation whose slot belongs to another context finds it free (log entry 56). -/
def Obligations.EngineEvents : Prop :=
  -- collectives
  (∀ (s : State) (a b k : Nat), s.msg = .collectiveComplete a b k →
    (s.colls[k]? = none → exec .collectiveComplete s = .next s) ∧
    ∀ c, s.colls[k]? = some c →
      let g := s.grpOf c.agent
      let oldest : Prop := (s.colls.find? fun d => decide (d.agent = c.agent ∧ d.unit = c.unit)).map (fun d => d.tok) = some c.tok
      let held : Prop := (c.result = none ∧ s.gobjBad c.dev c.obj = false) ∨ (∃ p ∈ c.buf, s.frozen p = true) ∨ ¬oldest
      (held → exec .collectiveComplete s = .next s) ∧
      (¬held → c.result = none → ∃ t, exec .collectiveComplete s = .next t ∧ t.mem = s.mem ∧
        ∀ d ∈ s.collsOf c.dev c.obj, d.result = none → { d with result := some (2, []) } ∈ t.colls) ∧
      (¬held → s.parked = [] → g.unit = c.unit → ∀ st ws, c.result = some (st, ws) →
        let gives (t : State) (f : Group → Group) : Prop :=
          exec .collectiveComplete s = .next t ∧ t.colls = s.colls.filter (fun d => decide (d.tok ≠ c.tok)) ∧
            s.lowered t c.agent c.unit 3 ∧
            s.received t c.agent c.unit (fun g => (f g).landNow (c.tok + 1) [BitVec.ofNat 32 st]) ∧
            ∀ n, c.bar = some n → ((s.unitAt c.unit).abar n).count ≠ 0 → ((s.unitAt c.unit).abar n).pend ≠ 0 →
              ((t.unitAt c.unit).abar n).xp = sintOf 32 (bitsOf 32 (((s.unitAt c.unit).abar n).xp - 1))
        let without (g : Group) : Group := { g with outs := g.outs.filter fun o => decide (o.tok ≠ c.tok) }
        (st = 0 → ws ≠ [] → c.form ≠ 3 → c.form ≠ 6 → ∃ t, t.mem = s.mem ∧
          gives t fun g => g.landNow c.tok ws) ∧
        (st ≠ 0 ∨ (ws = [] ∧ c.form ≠ 3 ∧ c.form ≠ 6) → ∃ t, t.mem = s.mem ∧ gives t without) ∧
        (st = 0 → c.form = 3 ∨ c.form = 6 → (∀ p, s.migOf p = none) → (∀ p ∈ c.buf, p + 64 ≤ 2 ^ 33 ∧ p % 64 = 0) →
          (∀ l ∈ s.levels, s.lvAt l.1 l.2 / 64 ∉ c.buf.map (· / 64)) → c.buf.Nodup → ws.length = 16 * c.buf.length →
          ∃ t, gives t without ∧ s.onlyAt t (c.buf.map fun p => (p, 64)) ∧
            ∀ i p, c.buf[i]? = some p → ∀ j < 16, t.rdN (p + 4 * j) 4 = (ws.getD (16 * i + j) 0).toNat ∧
              (c.form = 6 → t.tagFull (p + 4 * j) = true)))) ∧
  (∀ (s : State) (dev i : Nat), s.msg = .collRsetEffect dev i →
    (∀ c ∈ s.colls, c.behindRset s.colls = false) →
    (∀ c ∈ s.colls, c.obj = i → c.result = none → s.needsEnded c = false) →
    let asked := (s.collsOf dev i).filter fun c => decide (c.form = 7 ∧ c.result = none)
    let all (o : GObj) : Prop := o.m * o.p ≤ ((asked.map fun c => (c.rank, c.k)).eraseDups).length
    (s.gobj dev i = none → exec .collRsetEffect s = .next s) ∧
    ∀ o, s.gobj dev i = some o →
      (¬all o → exec .collRsetEffect s = .next s) ∧
      (all o → (s.colls.map fun c => c.tok).Nodup → ∃ t, exec .collRsetEffect s = .next t ∧ t.mem = s.mem ∧
        t.colls = (s.colls.map fun c => if c ∈ s.collsOf dev i ∧ c.result = none then
          { c with result := some (if c.form = 7 then 0 else 1, []) } else c) ∧
        (∀ d ∈ s.gobjDevs dev i, ∀ x, s.gobj d i = some x → t.gobj d i = some { x with mismatch := false, seqs := [] }) ∧
        ∀ d j, d ∉ s.gobjDevs dev i ∨ j ≠ i → t.gobj d j = s.gobj d j)) ∧
  -- the hash grid
  (∀ (g : HgCfg) (l c : Nat) (p : Word × Word × Word), c < 8 →
    let n := g.res l
    let k (w : Word) (b : Nat) : Nat := (axisCell (clampCoord w) n).1 + (if c.testBit b then 1 else 0)
    let h (m q : Nat) : BitVec 32 := BitVec.ofNat 32 (m * q)
    ∃ w, (g.corners l p)[c]? = some
      (if (n + 1) ^ 3 ≤ 2 ^ g.log2t then k p.1 0 + (n + 1) * (k p.2.1 1 + (n + 1) * k p.2.2 2)
       else (h (k p.1 0) 1 ^^^ h (k p.2.1 1) 0x9E3779B1 ^^^ h (k p.2.2 2) 0xC2B2AE3D).toNat % 2 ^ g.log2t, w)) ∧
  (∀ (w : Word) (n : Nat), 0 < n → n ≤ 2 ^ 20 →
    let p := clampCoord w
    let r := axisCell p n
    ∃ u : Nat, (fp32.value u).isFin = true ∧ r.1 = min ⌊(fp32.value u).real⌋.toNat (n - 1) ∧
      r.2.real = (fp32.value u).real - r.1 ∧ 0 ≤ p.real ∧ p.real ≤ 1 ∧ (p.real = 0 → u = 0) ∧
      (0 < p.real → ∃ a b : Nat, 0 < b ∧ (a : ℚ) / b = p.real * n ∧ u = (fp32.roundTo 1 false false a b false 0).1)) ∧
  (∀ (s : State) (core k : Nat), s.msg = .hgEncComplete core k →
    let c := s.coreAt core
    (c.hg[k]? = none → exec .hgEncComplete s = .next s) ∧
    ∀ o, c.hg[k]? = some o →
      (o.grad = true → exec .hgEncComplete s = .next s) ∧
      (o.grad = false → s.clean → (∀ p, s.migOf p = none) → s.lazy = 0 → o.xs.length = 64 →
          o.cfg.levels ≤ 16 → o.cfg.feats ≤ 4 →
        let out (l : Nat) : List Nat := (o.encode s (o.xs.getD l (0, 0, 0))).1
        ∃ t, exec .hgEncComplete s = .next t ∧ t.mem = s.mem ∧ s.lowered t o.agent o.unit 4 ∧
          (t.coreAt core).hg = c.hg.filter (fun h => decide (h.tok ≠ o.tok)) ∧
          ∀ l b, b < 256 → FMap.get 0 (t.coreAt core).opb (256 * (o.row + l) + b) =
            if l < 64 ∧ o.exec.getLsbD l ∧ l ∉ o.done ∧ b < 2 * (o.cfg.levels * o.cfg.feats) then
              BitVec.ofNat 8 ((out l).getD (b / 2) 0 / 256 ^ (b % 2))
            else FMap.get 0 c.opb (256 * (o.row + l) + b))) ∧
  (∀ (s : State) (core k : Nat), s.msg = .hgGradAdd core k →
    let c := s.coreAt core
    (c.hg[k]? = none → exec .hgGradAdd s = .next s) ∧
    ∀ o, c.hg[k]? = some o → o.grad = true →
      let ended (t : State) : Prop := s.lowered t o.agent o.unit 4 ∧
        (t.coreAt core).hg = c.hg.filter fun h => decide (h.tok ≠ o.tok)
      (o.adds = [] → ∃ t, exec .hgGradAdd s = .next t ∧ t.mem = s.mem ∧ ended t) ∧
      (o.adds ≠ [] → s.clean → (∀ p, s.migOf p = none) → (∀ a ∈ o.adds, a.1 + 4 ≤ 2 ^ 33) →
        ∃ t a, exec .hgGradAdd s = .next t ∧ a ∈ o.adds ∧ s.onlyAt t [(a.1, 4)] ∧
          -- the source is read once, and kept for the other corners
          (∃ g : Nat,
            (match o.got.find? fun g => decide (g.1 = a.2.2) with
             | some w => g = w.2.1.toNat
             | none =>
               (s.writtenSince o.start (kplace a.2.2) 4 = false →
                 g = s.readAt (coreOf o.agent) (dieOfCore (coreOf o.agent)) a.2.2 4) ∧
               (s.vis = [] → a.2.2 + 4 ≤ 2 ^ 33 → o.start ≤ s.past.length →
                 ∃ k, o.start ≤ k ∧ k ≤ s.past.length ∧ g = s.pastN k a.2.2 4)) ∧
            let d := rne32 ((fp32.value a.2.1.toNat).mul (fp32.value g))
            t.rdN a.1 4 = fp32.addRne (s.rdN a.1 4) d.toNat % 2 ^ 32 ∧
            (1 < o.adds.length → ∀ h ∈ (t.coreAt core).hg, h.tok = o.tok →
              h.adds = o.adds.erase a ∧ (h.got.find? fun g => decide (g.1 = a.2.2)).map (fun g => g.2.1.toNat) = some g)) ∧
          (o.adds.length = 1 → ended t) ∧ (1 < o.adds.length → t.groups = s.groups))) ∧
  -- rays
  (∀ (o : RayOp) (s : State) (ws : List Word), (rayOf ws).invalid = true →
    let r := o.run s ws
    r.2 = s ∧ r.1.waits = false ∧ r.1.boxes = 0 ∧ r.1.tris = 0 ∧ r.1.ended = some (2, 0)) ∧
  (∀ w : Walk,
    let f (k : Nat) : Nat := ofBytes ((w.record.drop (4 * k)).take 4)
    w.record.length = 32 ∧ f 5 = w.boxes % 2 ^ 32 ∧ f 6 = w.tris % 2 ^ 32 ∧ f 7 = 0 ∧
    (∀ t id u v, w.best = some (t, id, u, v) → w.ended = none ∨ (∃ a, w.ended = some (1, a)) →
      f 0 = t.toNat ∧ f 1 = id % 2 ^ 32 ∧ f 2 = u.toNat ∧ f 3 = v.toNat ∧ f 4 = 1) ∧
    (w.best = none → w.ended = none → f 0 = 0x7F800000 ∧ f 1 = 0xFFFFFFFF ∧ f 2 = 0 ∧ f 3 = 0 ∧ f 4 = 0) ∧
    ∀ st a, w.ended = some (st, a) → st ≠ 1 → f 0 = 0x7F800000 ∧ f 1 = 0xFFFFFFFF ∧ f 2 = a % 2 ^ 32 ∧
      f 3 = a / 2 ^ 32 % 2 ^ 32 ∧ f 4 = st % 2 ^ 32) ∧
  (∀ (s : State) (core k : Nat), s.msg = .rayComplete core k →
    let c := s.coreAt core
    (c.rays[k]? = none → exec .rayComplete s = .next s) ∧
    ∀ o, c.rays[k]? = some o →
      let p := (s.goingLanes (o.ready s)).foldl (fun (r : RayOp × State) l => r.1.lane r.2 l) (o, s)
      ∃ t, exec .rayComplete s = .next t ∧ t.mem = p.2.mem ∧
        (p.1.left = [] → p.2.lowered t o.agent o.unit 5 ∧ ∀ r ∈ (t.coreAt core).rays, r.tok ≠ o.tok) ∧
        (p.1.left ≠ [] → t.groups = p.2.groups ∧ ∀ r ∈ (t.coreAt core).rays, r.tok = o.tok → r = p.1)) ∧
  (∀ (o : RayOp) (s : State) (l : Nat), l < 64 →
    let r := o.run s (o.rays.getD l [])
    let q := o.lane s l
    (r.1.waits = true → q = (o, r.2)) ∧
    (r.1.waits = false → o.out + 2048 ≤ 2 ^ 33 → (∀ p, r.2.migOf p = none) →
      q.1 = { o with done := l :: o.done } ∧ q.2.rdBytes (o.out + 32 * l) 32 = r.1.record ∧
        r.2.onlyAt q.2 [(o.out + 32 * l, 32)])) ∧
  -- trees
  (∀ (s : State) (core k : Nat), s.msg = .treeOperationComplete core k →
    let c := s.coreAt core
    (c.trees[k]? = none → exec .treeOperationComplete s = .next s) ∧
    ∀ o, c.trees[k]? = some o →
      let before : Prop := ∃ p ∈ c.trees, p.agent = o.agent ∧ p.ref = o.ref ∧ p.tok < o.tok ∧ p.result = none
      let slot := 64 * nbits o.ref 13 8 + nbits o.ref 5 0
      (o.result = none → before ∨ o.stalls s = true → exec .treeOperationComplete s = .next s) ∧
      (o.result = none → ¬before → o.stalls s = false →
        let a := o.accept s
        ∃ t, exec .treeOperationComplete s = .next t ∧ t.mem = a.2.2.mem ∧ t.groups = a.2.2.groups ∧
          ∀ p ∈ (t.coreAt core).trees, p.tok = o.tok → p.result = some (a.1, a.2.1)) ∧
      (s.clean → (∀ p, s.migOf p = none) → o.place + o.operandLen ≤ 2 ^ 33 → slot ∉ (s.ctxAt o.dev o.asid).trees ∨ (o.form ≠ 0 ∧ (s.treeD (o.at' s.mode)).live ≠ 1) →
        o.accept s = ([], 3, s)) ∧
      (∀ ws st, o.result = some (ws, st) → (∀ p, s.migOf p = none) →
        ∃ t, exec .treeOperationComplete s = .next t ∧ s.lowered t o.agent o.unit 6 ∧
          s.received t o.agent o.unit (fun g => g.landNow o.tok [BitVec.ofNat 32 st]) ∧
          (∀ p ∈ (t.coreAt core).trees, p.tok ≠ o.tok) ∧
          (ws = [] → t.mem = s.mem) ∧
          ∀ w, ws = [w] → w.1 + w.2.length ≤ 2 ^ 33 → w.2.length % 8 = 0 →
            t.rdBytes w.1 w.2.length = w.2 ∧ s.onlyAt t [(w.1, w.2.length)])) ∧
  -- what an operation does to its tree: first one descent, and the child that it chooses
  (∀ (d : TreeD) (x c : Node),
    let f (b : Nat) : FpNum := fp32.value b
    (∀ b ∈ [c.w, c.p, d.cpuct, d.vq, d.fpu], (f b).isFin = true) →
    ∃ dn pn vl dif q a b m e u : FpNum,
      fp32.rounds 1 dn (c.n + c.vl * d.vn) ∧ fp32.rounds 1 pn (x.n + x.vl * d.vn) ∧
      fp32.rounds 1 vl (c.vl * (f d.vq).real) ∧ (vl.isFin = true → fp32.rounds 1 dif ((f c.w).real - vl.real)) ∧
      (dn.isFin = true → dn.real = 0 → q = f d.fpu) ∧
      (dn.isFin = true → dn.real ≠ 0 → dif.isFin = true → fp32.rounds 1 q (dif.real / dn.real)) ∧
      fp32.rounds 1 a ((f d.cpuct).real * (f c.p).real) ∧ b = f (funOp 2 false 1 false 0 0 pn).1 ∧
      (a.isFin = true → b.isFin = true → fp32.rounds 1 m (a.real * b.real)) ∧
      (dn.isFin = true → fp32.rounds 1 e (1 + dn.real)) ∧
      (m.isFin = true → e.isFin = true → e.real ≠ 0 → fp32.rounds 1 u (m.real / e.real)) ∧
      (q.isFin = true → u.isFin = true → fp32.rounds 1 (treeScore d x c) (q.real + u.real))) ∧
  (∀ (s : State) (t : TreeAt) (d : TreeD) (x : Node), x.cnt ≠ 0 →
    let score (i : Nat) : FpNum := treeScore d x (s.nodeAt t d i)
    let greater (i j : Nat) : Prop := (score i).isNan = false ∧ ((score j).isNan = true ∨ (score j).lt (score i) = true)
    let b := s.bestChild t d x
    b ∈ x.children ∧ ∀ i ∈ x.children, (i < b → greater b i) ∧ (b < i → ¬greater i b)) ∧
  (∀ (s : State) (t : TreeAt) (p : Nat → Nat) (n : Nat), s.still → t.slot < 64 →
    let d := s.treeD t
    let N (i : Nat) : Node := s.nodeAt t d (p i)
    0x1000 ≤ d.abase → n < 4096 → p 0 = d.root → (∀ i ≤ n, ∀ j ≤ n, p i = p j → i = j) →
    (∀ i < n, (N i).st = 2 ∧ (N i).cnt ≠ 0 ∧ p (i + 1) = s.bestChild t d (N i)) →
    let r := s.descent t
    let entry (id st : Nat) : List Byte :=
      bytesOf 4 id ++ bytesOf 4 (p n) ++ bytesOf 4 (N n).action ++ bytesOf 2 n ++ bytesOf 1 st ++ bytesOf 1 0
    let full : Prop := ∃ i ≤ n, (N i).vl = 65535
    ((N n).st = 2 → n = 4095 → r.1 = entry 0xFFFFFFFF 3 ∧ r.2.2 = s) ∧
    ((N n).st ≠ 2 → full → r.1 = entry 0xFFFFFFFF 4 ∧ r.2.2 = s) ∧
    (¬full → ∀ st, (N n).st = st → st = 0 ∨ st = 1 ∨ st = 3 →
      let u := r.2.2
      r.1 = entry (p n % 2 ^ 20 + d.gen % 2 ^ 11 * 2 ^ 20 + (if st = 1 then 2 ^ 31 else 0))
        (if st = 0 then 0 else if st = 3 then 1 else 2) ∧
      (∀ i ≤ n, u.nodeAt t d (p i) = { N i with vl := (N i).vl + 1, st := if i = n ∧ st = 0 then 1 else (N i).st }) ∧
      u.treeD t = { d with opened := (d.opened + 1) % 2 ^ 32 } ∧
      s.onlyAt u ((t.desc + 44, 4) :: (List.range (n + 1)).map fun i => (t.node d (p i), 32)))) ∧
  -- the nodes that a collapse reaches
  (∀ (s : State) (t : TreeAt) (fuel : Nat) (start : List Nat) (size : Nat → Nat),
    let d := s.treeD t
    let N (i : Nat) : Node := s.nodeAt t d i
    let met (i : Nat) : Prop := ∃ a ∈ start, Relation.ReflTransGen (fun x y => (N x).st = 2 ∧ y ∈ (N x).children) a i
    (∀ i, met i → 1 + (if (N i).st = 2 then ((N i).children.map size).sum else 0) ≤ size i) → (start.map size).sum ≤ fuel →
    ∀ r, r ∈ (s.runsBelow t d fuel start).1 ↔
      ∃ i, met i ∧ (N i).st = 2 ∧ (N i).cnt ≠ 0 ∧ r = ((N i).first, (N i).cnt)) ∧
  -- an error in what it reads
  (∀ (s : State) (o : TreeOp), s.latent = [] → o.owned s = true → o.form ≠ 0 →
    s.poisoned (o.at' s.mode).desc 64 = true ∨ (∃ q ∈ o.reads s, s.poisoned q.1 q.2 = true) →
    ∃ u, o.accept s = ([], 7, u) ∧ u.mem = s.mem) ∧
  -- the eight operations
  ∀ (s : State) (o : TreeOp), s.still → o.place + o.operandLen ≤ 2 ^ 33 → o.owned s = true →
    let t := o.at' s.mode
    let d := s.treeD t
    let N (i : Nat) : Node := s.nodeAt t d i
    let gives (st : Nat) (u : State) : Prop := o.accept s = ([], st, u)
    let done (p : State → Prop) : Prop := ∃ u, gives 0 u ∧ p u
    (o.form = 0 →
      let f (k : Nat) : Nat := s.rdN (o.place + k) 4
      let legal : Prop := f 0 % 256 = 0 ∧ 0x1000 ≤ f 0 ∧ f 4 ≤ 1048448 ∧ f 0 + 32 * f 4 ≤ 2 ^ 25 ∧ f 24 ≤ 1024 ∧
        (∃ c, 1 ≤ c ∧ c ≤ 64 ∧ (f 36 = c ∨ f 36 = c + 256)) ∧ ∀ k ∈ [20, 28, 32], (fp32.value (f k)).isFin = true
      let clash : Prop := ∃ k < 64, k ≠ t.slot ∧
        let e := s.treeD { t with slot := k }
        e.live = 1 ∧ e.abase < f 0 + 32 * f 4 ∧ f 0 < e.abase + 32 * e.cap
      let busy : Prop := d.live = 1 ∧ d.opened ≠ 0
      (busy → gives 2 s) ∧
      (¬busy → f 4 = 0 → done fun u =>
        u.treeD t = { d with live := 0, gen := (d.gen + 1) % 2 ^ 32 } ∧ s.onlyAt u [(t.desc, 64)]) ∧
      (¬busy → f 4 ≠ 0 → ¬legal ∨ clash → gives 6 s) ∧
      (¬busy → f 4 ≠ 0 → legal → ¬clash → done fun u =>
        let d' : TreeD :=
          { abase := f 0, cap := f 4, top := 1, free := 0xFFFFFFFF, root := 0, cpuct := f 20, vn := f 24, vq := f 28
            fpu := f 32, ctl := f 36, gen := (d.gen + 1) % 2 ^ 32, opened := 0, live := 1 }
        u.treeD t = d' ∧ s.onlyAt u [(t.desc, 64), (t.slice + f 0, 32)] ∧
        u.nodeAt t d' 0 = { parent := 0xFFFFFFFF, first := 0xFFFFFFFF, cnt := 0, st := 0, vl := 0, n := 0, w := 0
                            p := 0x3F800000, action := 0xFFFFFFFF })) ∧
    (d.live = 1 → 0x1000 ≤ d.abase →
      (o.form = 1 → ∃ (e : Nat → List Byte) (σ : Nat → State), σ 0 = s ∧
        (∀ j < o.z, (σ j).descent t = (e j, ((σ j).descent t).2.1, σ (j + 1))) ∧
        o.accept s = ([(o.place, (List.range o.z).flatMap e)], 0, σ o.z)) ∧
      (∀ (p : Nat → Nat) (n : Nat), s.rootward t p n → p 0 = o.a % 2 ^ 20 →
        let e := p 0
        let valid : Prop := nbits o.a 30 20 = d.gen % 2 ^ 11 ∧ e < d.top ∧ (N e).st ≠ 7 ∧ 1 ≤ d.opened ∧
          ∀ i ≤ n, 1 ≤ (N (p i)).vl
        let open' : Prop := o.a.testBit 31 = false ∧ (N e).st = 1
        (o.form = 2 →
          (¬valid → gives 4 s) ∧ (valid → ¬open' → gives 5 s) ∧ (valid → open' → d.ctl % 128 < o.z → gives 6 s) ∧
          (valid → open' → o.z = 0 → done fun u =>
            u.nodeAt t d e = { N e with st := 3 } ∧ s.onlyAt u [(t.node d e, 32)]) ∧
          -- r 0, …, r (m - 1) are the free runs that are too short
          (valid → open' → 0 < o.z → o.z ≤ d.ctl % 128 → d.cap ≤ 2 ^ 20 → ∀ (r : Nat → Nat) (m : Nat), m ≤ d.top →
            r 0 = d.free → (∀ i < m, r i ≠ noNode ∧ (N (r i)).first < o.z ∧ r (i + 1) = (N (r i)).parent) →
            let len := (N (r m)).first
            let put (u : State) (f : Nat) : Prop := u.nodeAt t d e = { N e with first := f, cnt := o.z, st := 2 } ∧
              ∀ i < o.z, u.nodeAt t d (f + i) =
                { parent := e, first := 0xFFFFFFFF, cnt := 0, st := 0, vl := 0, n := 0, w := 0
                  p := s.rdN (o.place + 8 * i + 4) 4, action := s.rdN (o.place + 8 * i) 4 }
            let own (f : Nat) : List (Nat × Nat) := [(t.desc, 64), (t.node d e, 32), (t.node d f, 32 * o.z)]
            (r m = noNode → d.cap < d.top + o.z → gives 1 s) ∧
            (r m = noNode → d.top + o.z ≤ d.cap → done fun u =>
              put u d.top ∧ u.treeD t = { d with top := d.top + o.z } ∧ s.onlyAt u (own d.top)) ∧
            (r m ≠ noNode → o.z ≤ len → r m + len ≤ d.cap → (e < r m ∨ r m + len ≤ e) →
              (∀ i < m, r i ≠ e ∧ (r i < r m ∨ r m + len ≤ r i)) → done fun u =>
                let rest := if len = o.z then (N (r m)).parent else r m + o.z
                put u (r m) ∧ (m = 0 → u.treeD t = { d with free := rest }) ∧
                (∀ k, m = k + 1 → u.treeD t = d ∧ u.nodeAt t d (r k) = { N (r k) with parent := rest }) ∧
                (o.z < len →
                  let h := u.nodeAt t d (r m + o.z)
                  h.st = 7 ∧ h.first = len - o.z ∧ h.parent = (N (r m)).parent) ∧
                s.onlyAt u (own (r m) ++ (if o.z < len then [(t.node d (r m + o.z), 32)] else []) ++
                  (if m = 0 then [] else [(t.node d (r (m - 1)), 32)]))))) ∧
        (o.form = 3 ∨ o.form = 4 →
          (¬valid → gives 4 s) ∧
          (valid → done fun u =>
            (∀ i ≤ n, ∃ w : Nat,
              (let x := fp32.value (N (p i)).w
               let v := fp32.value o.b
               (x.isNan = true ∨ v.isNan = true → w = 0x7FC00000) ∧
               (x.isFin = true → v.isFin = true →
                 fp32.rounds 1 (fp32.value w) (x.real + if d.ctl.testBit 8 ∧ i % 2 = 1 then -v.real else v.real))) ∧
              u.nodeAt t d (p i) =
                { N (p i) with
                  n := if o.form = 3 then min ((N (p i)).n + 1) 0xFFFFFFFF else (N (p i)).n
                  w := if o.form = 3 then w else (N (p i)).w, vl := (N (p i)).vl - 1
                  st := if i = 0 ∧ open' then 0 else (N (p i)).st }) ∧
            u.treeD t = { d with opened := d.opened - 1 } ∧
            s.onlyAt u ((t.desc + 44, 4) :: (List.range (n + 1)).map fun i => (t.node d (p i), 32))))) ∧
      (o.form = 5 →
        let c := o.a
        let R := N d.root
        let absent : Prop := d.top ≤ c ∨ (N c).st = 7
        (d.opened ≠ 0 → gives 2 s) ∧ (d.opened = 0 → absent → gives 6 s) ∧
        (d.opened = 0 → ¬absent → (N c).parent ≠ d.root → gives 5 s) ∧
        (d.opened = 0 → ¬absent → (N c).parent = d.root → R.first ≤ c → c < R.first + R.cnt →
          let parts := [(d.root, 1), (R.first, c - R.first), (c + 1, R.first + R.cnt - (c + 1))].filter fun r => decide (r.2 ≠ 0)
          let runs := parts ++ (s.runsBelow t d (d.cap + 1) (R.children.filter fun i => decide (i ≠ c))).1
          d.runsApart c runs → done fun u =>
            s.runsFreed u t runs ∧ u.nodeAt t d c = { N c with parent := 0xFFFFFFFF } ∧
            u.treeD t = { d with root := c, gen := (d.gen + 1) % 2 ^ 32, free := (u.treeD t).free } ∧
            s.onlyAt u ((t.desc, 64) :: (t.node d c, 32) :: runs.map fun r => (t.node d r.1, 32 * r.2)))) ∧
      (o.form = 6 →
        let x := N o.a
        let absent : Prop := d.top ≤ o.a ∨ x.st = 7
        let bare : Node := { x with st := 0, first := 0xFFFFFFFF, cnt := 0 }
        let runs := (s.runsBelow t d (d.cap + 1) [o.a]).1
        (absent → gives 6 s) ∧ (¬absent → x.st = 0 → gives 0 s) ∧ (¬absent → x.st = 1 → gives 5 s) ∧
        (¬absent → x.st = 2 → (∃ i ∈ x.children, (N i).vl ≠ 0) → gives 2 s) ∧
        (¬absent → x.st = 2 → (∀ i ∈ x.children, (N i).vl = 0) → d.runsApart o.a runs → done fun u =>
          s.runsFreed u t runs ∧ u.nodeAt t d o.a = bare ∧ u.treeD t = { d with free := (u.treeD t).free } ∧
          s.onlyAt u ((t.desc, 64) :: (t.node d o.a, 32) :: runs.map fun r => (t.node d r.1, 32 * r.2))) ∧
        (¬absent → x.st = 3 → done fun u => u.nodeAt t d o.a = bare ∧ s.onlyAt u [(t.node d o.a, 32)])) ∧
      (o.form = 7 →
        let i := if o.a = 0xFFFFFFFF then d.root else o.a
        let x := N i
        (d.top ≤ i ∨ x.st = 7 → gives 6 s) ∧
        (i < d.top → x.st ≠ 7 → ∃ bs, o.accept s = ([(o.place, bs)], 0, s) ∧
          let w (k : Nat) : Nat := ofBytes ((bs.drop (4 * k)).take 4)
          bs.length = 64 + 8 * x.cnt ∧ bs.take 32 = s.rdBytes (t.node d i) 32 ∧
          (x.cnt = 0 → w 8 = 0xFFFFFFFF ∧ w 9 = 0xFFFFFFFF) ∧
          (x.cnt ≠ 0 → ∃ b ∈ x.children, w 8 = b % 2 ^ 32 ∧ w 9 = (N b).action ∧
            ∀ c ∈ x.children, (N c).n ≤ (N b).n ∧ (c < b → (N c).n < (N b).n)) ∧
          w 10 = x.cnt ∧ w 11 = d.gen ∧ w 12 = d.opened ∧ w 13 = d.top ∧ w 14 = d.free ∧ w 15 = d.root ∧
          ∀ j < x.cnt, w (16 + 2 * j) = (N (x.first + j)).action ∧ w (17 + 2 * j) = (N (x.first + j)).n)))

/-! ## Groups and units -/

/-- R34, R36, R40, R41, R43, R191, R234, R252, R365, R384, R388, R393 to R395, R401, R403, R430, R450, R463: the group selects
a path and fetches its clause, or takes the trap that stands in its way; what the clause check refuses, with the index that it
records, by R44, R49, R62, R73, R75, R230, R231, R238, R248, R278, R303, R447 and R462; late register writes, stalled accesses,
writes becoming visible, sleeps, demotion, the forced background issue, the pool and the scrub each happen by themselves; a
pending cancel ends the unit. The model's readings: the clause and index of a late ECC trap are free (log entry 13), INFO 0 of
ILLEGAL and PRIV (log entry 34). -/
def Obligations.GroupEvents : Prop :=
  -- selection
  (∀ g : Group,
    (g.select = none ↔ ∀ p ∈ g.paths, p.eligible = false) ∧
    ∀ p, g.select = some p → p ∈ g.paths ∧ p.eligible = true ∧ ∀ q ∈ g.paths, q.eligible = true →
      (p.demoted = true → q.demoted = true) ∧
      (p.demoted = q.demoted → g.pcOf p ≤ g.pcOf q ∧ (g.pcOf p = g.pcOf q → p.low ≤ q.low))) ∧
  -- fetch
  (∀ s : State,
    let a := s.cur
    let core := coreOf a
    let g0 : Group := { s.grp with clause := none }
    let g1 := g0.resolveAll.split
    let u := s.unitAt s.grp.unit
    (s.grp.atBoundary = false → exec .clauseFetch s = .next s) ∧
    (s.grp.atBoundary = true →
      (∀ e, g0.ecc = some e → ∃ t : Trap, t.cls = 5 ∧ t.info = e.addr ∧ t.thread = e.thread ∧ t.slices = e.slices ∧
        exec .clauseFetch s = .next ((s.setGrpOf a { g0 with ecc := none }).takeTrap a t)) ∧
      (g0.ecc = none → u.ending = true → exec .clauseFetch s = .next ((s.setGrpOf a g0).killGroup a)) ∧
      (g0.ecc = none → u.ending = false → g1.finished = true →
        exec .clauseFetch s = .next ((s.setGrpOf a g1).exitGroup a)) ∧
      (g0.ecc = none → u.ending = false → g1.finished = false → g1.select = none →
        exec .clauseFetch s = .next (s.setGrpOf a g1)) ∧
      ∀ p, g0.ecc = none → u.ending = false → g1.finished = false → g1.select = some p →
        let g := (g1.regang p).1
        let q := (g1.regang p).2
        let pc := g.pcOf q
        let s1 := s.setGrpOf a g
        let seg := ((s.coreAt core).seg (pc / 4096)).st
        let hdr := s.codeWord core pc
        let n := hdr.toNat % 16
        let words := (List.range n).map fun i => s.codeWord core (pc + 4 * (i + 1))
        let trap (cls index clause resume info : Nat) (s : State) : State := s.takeTrap a
          { cls := cls, index := index, clause := clause, resume := resume, info := info, slices := q.slices }
        let fell := (sliceList q.slices).findSome? fun i => (g.slices.getD i {}).fell
        (∀ f, fell = some f → exec .clauseFetch s = .next (trap 1 15 f pc 0 s1)) ∧
        (fell = none → seg = 1 ∨ (seg = 0 ∧ g.cancel = true) →
          exec .clauseFetch s = .next { s1 with waits := a :: s1.waits }) ∧
        (fell = none → seg = 0 → g.cancel = false → exec .clauseFetch s = .next (trap 0x10 0 pc pc pc s1)) ∧
        (fell = none → seg = 2 → s.clean →
          (clauseCheck (s1.fetchAs a) pc hdr words = none → exec .clauseFetch s = .next (s1.setGrpOf a { g with
            clause := some { base := pc, hdr := hdr, words := words, slices := q.slices }
            ret := if g.ret = some pc then none else g.ret })) ∧
          ∀ cls index, clauseCheck (s1.fetchAs a) pc hdr words = some (cls, index) → g.ret ≠ some pc →
            exec .clauseFetch s = .next (trap cls index pc (pc + 4 * (n + 1)) 0 s1)))) ∧
  -- the clause check: the header, and clauses of nops alone
  (∀ (f : FetchAs) (base n pipes : Nat) (hdr : Word) (words : List Word), 1 ≤ n → n ≤ 15 → pipes < 16 → f.steer = false →
    f.feat.testBit 0 = true →
    let nops : List Word := List.replicate n 0x02000000
    let checked := clauseCheck f base (BitVec.ofNat 32 (0xC0000000 + 16 * pipes + n)) nops
    (hdr.toNat / 2 ^ 28 ≠ 0xC → clauseCheck f base hdr words = some (1, 15)) ∧
    (base % 4096 / 4 + n < 1024 → pipes = 0 → checked = none) ∧
    (base % 4 = 0 → 1024 ≤ base % 4096 / 4 + n ∨ pipes ≠ 0 → checked = some (1, 15))) ∧
  -- k nops, the word w and what follows: a misuse in w is recorded with index k whatever comes behind
  (∀ (f : FetchAs) (base k : Nat) (w : Word) (rest : List Word), k + 1 + rest.length ≤ 15 →
    base % 4096 / 4 + k + 1 + rest.length < 1024 → f.steer = false → f.feat % 2 ^ 11 = 2 ^ 11 - 1 →
    let field (v : Word) (hi lo : Nat) : Nat := nbits v.toNat hi lo
    let op := field w 31 25
    let fn := field w 24 20
    let X := field w 19 14
    let Y := field w 13 8
    let Z := field w 7 0
    let D := field w 23 16
    let A := field w 15 8
    let words : List Word := List.replicate k 0x02000000 ++ w :: rest
    let refused : Prop := ∀ hdr : Word, hdr.toNat / 2 ^ 28 = 0xC → clauseCheck f base hdr words = some (1, k)
    let on (l : List (Nat × Nat)) : Prop := (op, fn) ∈ l
    let sreg (c : Nat) : Prop := 0x80 ≤ c ∧ c ≤ 0xBF
    let perThread (c : Nat) : Prop := c < 0x80 ∨ (0xC0 ≤ c ∧ c ≤ 0xCB) ∨ c = 0xDC ∨ c = 0xDD ∨ (0xE0 ≤ c ∧ c ≤ 0xEF)
    let noSource (c : Nat) : Prop := c = 0xDF ∨ (0xF0 ≤ c ∧ c ≤ 0xFE) ∨ (0xC0 ≤ c ∧ c ≤ 0xC3)
    -- the FN values of each major of format E
    let assigned : List (Nat × List Nat) := [(0x04, [0, 1]), (0x05, [0]), (0x06, [0]),
      (0x50, [8, 9, 10, 11, 12, 13, 16, 17, 18, 19, 20, 21, 24, 25, 26, 27, 28, 29]), (0x51, List.range 5),
      (0x52, [1, 2, 3, 4, 5, 6, 7]), (0x53, [0]), (0x54, List.range 6), (0x55, List.range 5), (0x56, [0, 1]),
      (0x58, List.range 12), (0x59, [0]), (0x5A, List.range 8), (0x5B, [0, 1]), (0x5C, [0, 1]), (0x5D, [0]), (0x60, [0, 1]),
      (0x61, [0]), (0x62, List.range 8), (0x63, [0]), (0x64, [0]), (0x65, List.range 16),
      (0x66, [0, 1, 8, 9, 10, 11, 12, 13, 14, 15]), (0x67, [0]), (0x68, List.range 3), (0x69, List.range 4), (0x6C, List.range 8),
      (0x70, [0, 1]), (0x71, List.range 6), (0x72, [0, 1]), (0x74, [0, 1]), (0x78, List.range 9), (0x79, List.range 7)]
    (∀ p ∈ assigned, op = p.1 → fn ∉ p.2 → refused) ∧
    -- the uses that the synchronization, translation and system forms do not allow
    (let misused : Prop :=
       ((op = 0x50 ∨ on [(0x53, 0), (0x79, 0), (0x79, 2), (0x78, 1), (0x78, 3)]) ∧ (X ≠ 0 ∨ Y ≠ 0 ∨ Z ≠ 0)) ∨
       ((op = 0x52 ∨ on [(0x78, 0), (0x78, 2), (0x78, 4)]) ∧ (X ≠ 0 ∨ Y ≠ 0)) ∨
       (on [(0x51, 0)] ∧ (Y % 4 ≠ 0 ∨ 3 < Z)) ∨ (on [(0x51, 1)] ∧ (Y ≠ 0 ∨ 3 < Z)) ∨ (on [(0x51, 2)] ∧ (Y ≠ 0 ∨ 1 < Z)) ∨
       (on [(0x51, 3)] ∧ (Y ≠ 0 ∨ Z ≠ 0)) ∨ (on [(0x51, 4)] ∧ 1 < Z) ∨ ((op = 0x54 ∨ op = 0x55) ∧ 63 < Z) ∨
       ((on [(0x54, 2), (0x54, 3)] ∨ op = 0x55) ∧ Y ≠ 0) ∨ (on [(0x55, 4)] ∧ X ≠ 0) ∨
       (on [(0x79, 1), (0x78, 8)] ∧ (X % 2 = 1 ∨ Z ≠ 0)) ∨ (on [(0x79, 3)] ∧ (X % 2 = 1 ∨ Y % 2 = 1 ∨ ¬sreg Z)) ∨
       (on [(0x79, 4), (0x79, 5)] ∧ (X % 2 = 1 ∨ Y ≠ 0 ∨ ¬sreg Z)) ∨ (on [(0x79, 6)] ∧ Z ≠ 0) ∨
       (on [(0x78, 5)] ∧ (X % 4 ≠ 0 ∨ Y ≠ 0 ∨ 6 < Z)) ∨ (on [(0x78, 6), (0x78, 7)] ∧ (X % 2 = 1 ∨ Y ≠ 0 ∨ Z ∉ csrNumbers))
     let privileged : Prop := op = 0x53 ∨ (op = 0x79 ∧ fn ≠ 0) ∨ on [(0x78, 1), (0x78, 3), (0x78, 5), (0x78, 6), (0x78, 7), (0x78, 8)]
     (misused → refused) ∧
     (∀ p ∈ assigned, op = p.1 → fn ∈ p.2 → (0x50 ≤ op ∧ op ≤ 0x55) ∨ op = 0x78 ∨ op = 0x79 → ¬misused → rest = [] →
       (privileged → f.priv = false → ∀ hdr : Word, hdr.toNat / 2 ^ 28 = 0xC → clauseCheck f base hdr words = some (2, k)) ∧
       (f.priv = true ∨ ¬privileged → clauseCheck f base (BitVec.ofNat 32 (0xC0000080 + k + 1)) words = none))) ∧
    -- an instruction that must end its clause, and a branch out of its segment
    (rest ≠ [] → op = 0x02 ∨ op = 0x03 ∨ op = 0x04 ∨ op = 0x05 ∨ op = 0x06 ∨ op = 0x52 ∨ op = 0x53 ∨ op = 0x72 ∨ op = 0x74 ∨
      on [(0x51, 2), (0x54, 2), (0x54, 3), (0x55, 3), (0x55, 4), (0x66, 0), (0x79, 0), (0x78, 0), (0x78, 1), (0x78, 2),
        (0x78, 3), (0x78, 4), (0x78, 8)] ∨ (on [(0x70, 1)] ∧ Z % 2 = 1) → refused) ∧
    (op = 0x02 ∨ op = 0x03 →
      let target : ℤ := base + 4 * sintOf 20 (nbits w.toNat 19 0)
      ¬((base / 4096 * 4096 : ℕ) ≤ target ∧ target < (base / 4096 * 4096 + 4096 : ℕ)) → refused) ∧
    -- the operand codes of the lane instructions; no latch has been written
    (0x08 ≤ op → op ≤ 0x3A →
      let two : Prop := op ≠ 0x23 ∧ op ≠ 0x2F ∧ op ≠ 0x3A
      let uniform : Prop := sreg D ∨ (0xCC ≤ D ∧ D ≤ 0xD2)
      (¬(D < 0xC0 ∨ (0xC4 ≤ D ∧ D ≤ 0xD2)) → refused) ∧ (noSource A ∨ (two ∧ noSource Z) → refused) ∧
      (uniform → op ≤ 0x37 → perThread A ∨ (two ∧ perThread Z) → refused) ∧
      (∀ b < 4, 0x40 + 16 * b ≤ A → A < 0x50 + 16 * b → f.blocks.getLsbD b = false → refused)) ∧
    -- the fields of format M
    ∀ (m : Word) (tl : List Word), rest = m :: tl →
      let space := field m 13 11
      let sz := field m 10 8
      let ord := field m 15 14
      let aop := field m 23 20
      let inv := field m 19 19
      let scope := field m 18 16
      let E := field m 7 0
      let row (o : Nat) (spaces sizes orders : List Nat) : Prop := op = o ∧ (space ∉ spaces ∨ sz ∉ sizes ∨ ord ∉ orders)
      0x40 ≤ op → op ≤ 0x47 →
        row 0x40 [0, 1, 2, 3, 4, 5, 6] [0, 1, 2, 3, 4, 5] [0, 1] ∨ row 0x41 [0, 1, 2, 3, 6] [0, 1, 2, 3, 4, 5] [0, 2] ∨
        row 0x42 [0, 1, 2, 3, 6] [2, 3] [0, 1, 2, 3] ∨ row 0x43 [1, 2] [2, 3] [0, 1] ∨ row 0x44 [1, 2] [2, 3] [0, 2] ∨
        row 0x45 [1, 2, 3] [2] [0, 1] ∨ row 0x46 [1, 2, 3] [2] [0, 2] ∨ row 0x47 [2, 3] [2] [0] ∨
        (op = 0x40 ∧ ((space = 4 ∨ space = 5) ∧ ord ≠ 0 ∨ 5 ≤ space ∧ 3 < sz)) ∨ (op = 0x41 ∧ space = 6 ∧ 3 < sz) ∨
        (op = 0x42 ∧ (aop = 15 ∨ (sz = 3 ∧ aop ∈ [1, 11, 12, 13, 14]))) ∨ ((op = 0x43 ∨ op = 0x44) ∧ 2 < aop) ∨
        (op ∉ [0x42, 0x43, 0x44] ∧ aop ≠ 0) ∨ (inv = 1 ∧ (ord ≠ 0 ∨ op ∉ [0x40, 0x45])) ∨ (op ≠ 0x42 ∧ E ≠ 0) ∨ 5 < scope ∨
        (op = 0x47 ∧ (scope ≠ 0 ∨ D ≠ 0)) ∨ ¬sreg A ∨ (space = 3 ∧ A % 2 = 1) ∨
        (op ∈ [0x40, 0x42, 0x43] ∧ (0xC0 ≤ D ∨ (sreg D ∧ (perThread Z ∨ (op = 0x42 ∧ perThread E))))) ∨
        (op ∈ [0x45, 0x46] ∧ (3 < D ∨ perThread Z)) → refused) ∧
  -- late register writes
  (∀ (s : State) (a k : Nat), s.msg = .registerWriteComplete a k →
    let g := s.grpOf a
    (g.outs[k]? = none ∨ (∃ o, g.outs[k]? = some o ∧ o.vals = none) → exec .registerWriteComplete s = .next s) ∧
    -- the tile drains of one batch reach their registers together
    (∀ o vs, g.outs[k]? = some o → o.vals = some vs → s.drainToks a o ≠ [] →
      let ts := s.drainToks a o
      ((∃ q ∈ g.outs, q.tok ∈ ts ∧ q.vals = none) → exec .registerWriteComplete s = .next s) ∧
      ((∀ q ∈ g.outs, q.tok ∈ ts → q.vals ≠ none) → ∃ t, exec .registerWriteComplete s = .next t ∧
        (t.grpOf a).outs = g.outs.filter (fun q => decide (q.tok ∉ ts)) ∧ t.mem = s.mem)) ∧
    ∀ o vs, g.outs[k]? = some o → o.vals = some vs → s.drainToks a o = [] →
      ∃ t h, exec .registerWriteComplete s = .next t ∧ t.grpOf a = h ∧
        h.outs = g.outs.filter (fun q => decide (q ≠ o)) ∧ t.mem = s.mem ∧
        h.slices = g.slices ∧ h.b = g.b ∧ h.bvalid = g.bvalid ∧ h.fflags = g.fflags ∧
        ∀ r w, o.regs = [r] → vs = [w] →
          (∀ n, h.sAt n = if r = .s n then w else g.sAt n) ∧
          (∀ n l, l < 64 → h.vAt n l = if r = .v n l then w else g.vAt n l) ∧
          (∀ n l, l < 64 → (h.pAt n).getLsbD l = if r = .p n l then decide (w ≠ 0) else (g.pAt n).getLsbD l) ∧
          (∀ n, n < 7 → h.q.getLsbD n = if r = .q n then decide (w ≠ 0) else g.q.getLsbD n)) ∧
  -- stalled accesses and visibility
  (∀ (s : State) (k : Nat), s.msg = .memoryAccessPerform k →
    (s.stalled[k]? = none → exec .memoryAccessPerform s = .next s) ∧
    ∀ o, s.stalled[k]? = some o →
      let able := s.able o (s.stalled.take k)
      (able = [] → exec .memoryAccessPerform s = .next s) ∧
      (∀ e ∈ able, e ∈ o.elems ∧ ((∀ t, o.kind ≠ .tag t) → s.frozen e.addr = false) ∧
        (o.drain = none → s.behind o.agent o.unit o.kind o.bytes e (s.stalled.take k) = false)) ∧
      (∀ e, o.elems = [e] → able ≠ [] → (∀ p, s.migOf p = none) →
        e.addr + o.bytes ≤ 2 ^ 33 → s.clean → o.acq = none →
        (s.grpOf o.agent).unit = o.unit →
        ∃ t, exec .memoryAccessPerform s = .next t ∧ t.stalled = s.stalled.eraseIdx k ∧
          (o.kind = .store → t.rdN e.addr o.bytes = e.data % 256 ^ o.bytes ∧ s.onlyAt t [(e.addr, o.bytes)]) ∧
          (o.kind = .load → o.got = [] → t.mem = s.mem ∧
            let got := e.regs.zip (wordsOfNat o.bytes (s.readAt o.core (dieOfCore o.core) e.addr o.bytes e.va))
            t.grpOf o.agent = (s.grpOf o.agent).bring o.tok (got.map Prod.fst) (got.map Prod.snd)))) ∧
  (∀ (s : State) (view : Nat), s.msg = .writeVisibleAtDie view →
    ((∀ w ∈ s.vis, view ∉ w.unseen) → exec .writeVisibleAtDie s = .next s) ∧
    ((∃ w ∈ s.vis, view ∈ w.unseen) → ∃ w ∈ s.vis, view ∈ w.unseen ∧
      let vis : List VisW := s.vis.map fun x => if x = w then { x with unseen := x.unseen.filter fun v => decide (v ≠ view) } else x
      exec .writeVisibleAtDie s = .next { s with vis := settleVis vis })) ∧
  (∀ (s : State) (line : Nat), s.msg = .hbmScrub line →
    ∃ t, exec .hbmScrub s = .next t ∧ t.mem = s.mem ∧
      (isHbm line = false → t = s) ∧
      (isHbm line = true → (∀ p, p ∈ t.latent ↔ p ∈ s.latent ∧ p.1 / 64 ≠ line / 64) ∧
        ∀ w, w ∈ t.poison ↔ w ∈ s.poison ∨ ∃ p ∈ s.latent, p.2 = true ∧ p.1 / 64 = line / 64 ∧ w = p.1 / 8)) ∧
  -- sleeps, demotion, forced issue, the pool
  (∀ (s : State) (a : Nat),
    let g := s.grpOf a
    let awake : State := s.setGrpOf a { g with wake := none, yieldFor := [], age := s.cycle + 1 }
    let due : Prop := ∃ c, g.wake = some c ∧ c ≤ s.cycle
    (s.msg = .yieldTimeout a → (due ∧ g.yieldFor ≠ [] → exec .yieldTimeout s = .next awake) ∧
      (¬(due ∧ g.yieldFor ≠ []) → exec .yieldTimeout s = .next s)) ∧
    (s.msg = .sleepEnd a →
      (g.wake ≠ none → g.yieldFor = [] → due ∨ g.preempt = true → exec .sleepEnd s = .next awake) ∧
      (¬(g.wake ≠ none ∧ g.yieldFor = [] ∧ (due ∨ g.preempt = true)) → exec .sleepEnd s = .next s)) ∧
    (s.msg = .pathDemote a → exec .pathDemote s = .next (s.setGrpOf a { g with
      paths := g.paths.map fun p => if 64 ≤ p.spin then { p with demoted := true } else p }))) ∧
  (∀ (s : State) (core pipe : Nat), s.msg = .backgroundForcedIssue core pipe →
    let n := FMap.get 0 (s.coreAt core).passed pipe
    ∃ t, exec .backgroundForcedIssue s = .next t ∧ t.mem = s.mem ∧ t.groups = s.groups ∧
      (n = 7 → FMap.get 0 (t.coreAt core).passed pipe = 8) ∧ (n ≠ 7 → t = s)) ∧
  (∀ (s : State) (core : Nat), s.msg = .xpoolTakeEffect core →
    let pool := (s.devAt (s.devOfCore core)).xpool
    let empty : Prop := ∀ p ∈ s.units, p.2.core = core → p.2.started = true → p.2.away = true
    (empty → ∃ t, exec .xpoolTakeEffect s = .next t ∧ (t.coreAt core).withheld = pool ∧ t.mem = s.mem ∧
      t.groups = s.groups) ∧
    (¬empty → exec .xpoolTakeEffect s = .next s)) ∧
  -- cancel
  ∀ (s : State) (a : Nat), s.msg = .cancel a →
    let g := s.grpOf a
    let u := s.unitAt g.unit
    let here : Prop := (g.wake ≠ none ∧ g.yieldFor = []) ∨ (∃ p ∈ g.paths, p.wait ≠ none) ∨
      ∃ pc, g.nextPc = some pc ∧ ((s.safePoint u pc ≠ none ∧ s.tablesFrozen u = false) ∨ s.segState (coreOf a) pc ≠ 2)
    -- a late ECC trap goes before it
    let point : Prop := g.live = true ∧ g.cancel = true ∧ g.ecc = none ∧ g.paths ≠ [] ∧ u.ending = false ∧ g.atBoundary = true ∧ here
    (¬point → exec .cancel s = .next s) ∧
    (point → ∃ t, exec .cancel s = .next t ∧ (t.unitAt g.unit).ending = true ∧ (t.unitAt g.unit).cancelled = true ∧
      (u.slots = [a] → (t.grpOf a).paths = [] ∧ (t.grpOf a).outs = []))

/-- R53, R295, R363, R364, R366, R371, R375, R408 to R411, R458, R466: a level that is due ends with its status and raises its
parent's count; a phase's budget cancels its background graphs; the dispatcher starts a node's unit; a unit is preloaded and
starts; a pre-emption and a restoration are requested and carried out; an error in a level object is found. The model's
readings: a pre-emption of a unit that has not started is refused (log entry 30), a unit whose save area was changed ends when
it is restored (log entry 31), and a register outside the live mask comes back with its value or with 0 (log entry 14). -/
def Obligations.WorkEvents : Prop :=
  -- levels
  (∀ (s : State) (place : Nat),
    (s.levelAt place = none → (s.msg = .levelEnd place → exec .levelEnd s = .next s) ∧
      (s.msg = .budgetExpiry place → exec .budgetExpiry s = .next s) ∧
      (s.msg = .scrubbing place → exec .scrubbing s = .next s)) ∧
    ∀ dev l, s.levelAt place = some (dev, l) →
      let a := s.lvAt dev l
      let unit := s.unitOfLevel dev l
      let closed : Bool := s.lvFlag dev l 1
      let due : Prop := s.lvRunning dev l = true ∧ closed = true ∧ s.lvCtr dev l = 0 ∧ ∀ n, unit = some n → s.unitQuiet n = true
      let err : Prop := s.lvFlag dev l 4 = true ∨ s.lvErr dev l ≠ 0
      (s.msg = .levelEnd place → s.clean →
        (s.lvBroken dev l = false → ¬due → exec .levelEnd s = .next s) ∧
        (due → s.lvFrozen dev l = true → exec .levelEnd s = .next s) ∧
        (due → s.lvFrozen dev l = false → s.parked = [] → s.vers = [] →
            (∀ n, unit = some n → (s.unitAt n).node = none) →
          let parent := s.lvParent dev l
          let b := s.lvAt dev parent
          ∃ t st, exec .levelEnd s = .next t ∧ t.rdN (a + 5) 1 = st ∧ t.tagFull a = true ∧
            (dev, l) ∉ t.levels ∧
            (unit = none → st = if s.lvFlag dev l 0 = true then 3 else if s.lvFlag dev l 4 = true ∨ s.lvErr dev l ≠ 0 then 4 else 2) ∧
            (∀ n, unit = some n → (err ∨ (s.unitAt n).errored = true → st = 4) ∧
              (¬err → (s.unitAt n).errored = false →
                ((s.unitAt n).cancelled = true ∨ (s.unitAt n).started = false → st = 3) ∧
                ((s.unitAt n).cancelled = false → (s.unitAt n).started = true → st = 2)) ∧
              FMap.find t.units n = none ∧
              -- the registers of its groups stay as they are in their slots
              ∀ k ∈ (s.unitAt n).slots, (s.grpOf k).unit = n →
                let g := s.grpOf k
                let h := t.grpOf k
                h.live = false ∧ h.v = g.v ∧ h.s = g.s ∧ h.p = g.p ∧ h.q = g.q ∧ h.t = g.t ∧ h.fflags = g.fflags) ∧
            (parent = 0xFFFFFFFF → s.onlyAt t [(a + 5, 1)]) ∧
            (parent ≠ 0xFFFFFFFF → s.lvFrozen dev parent = false → s.lvBroken dev parent = false → (b + 64 ≤ a ∨ a + 64 ≤ b) →
              s.onlyAt t [(a + 5, 1), (b, 4), (b + 12, 4)] ∧ t.rdN b 4 = (s.rdN b 4 + (2 ^ 32 - 1)) % 2 ^ 32 ∧
              t.rdN (b + 12) 4 = (s.rdN (b + 12) 4 + if st = 4 ∧ s.lvFlag dev l 3 = false then 1 else 0) % 2 ^ 32))) ∧
      (s.msg = .budgetExpiry place →
        let spent : Prop := s.lvRunning dev l = true ∧ s.lvKind dev l = 3 ∧ s.lvBudget dev l ≠ 0 ∧ (dev, l) ∉ s.spent ∧
          s.lvOpenCyc dev l + s.lvBudget dev l ≤ s.devCycle dev (s.lvAsid dev l)
        let kids := s.levels.filter fun p => decide (p.1 = dev ∧ s.lvParent dev p.2 = l ∧ s.lvKind dev p.2 = 2 ∧
          s.lvFlag dev p.2 2 = true ∧ s.lvRunning dev p.2 = true)
        (¬spent → exec .budgetExpiry s = .next s) ∧
        (spent → kids = [] → exec .budgetExpiry s = .next { s with spent := s.spent ++ [(dev, l)] }) ∧
        (spent → ∀ k, kids = [(dev, k)] →
          exec .budgetExpiry s = .next (({ s with spent := s.spent ++ [(dev, l)] }.lvSetFlag dev k 5).cancelLevel dev k))) ∧
      (s.msg = .scrubbing place →
        (s.clean → exec .scrubbing s = .next s) ∧
        (s.lvRunning dev l = true → s.lvDescendants dev l = [] → s.lvParent dev l = 0xFFFFFFFF → unit = none → s.vers = [] →
          s.lvFrozen dev l = false → s.parked = [] → a % 64 = 0 → isSram a = true → s.poison = [a / 8 + 1] → s.latent = [] →
          ∃ t, exec .scrubbing s = .next t ∧ s.onlyAt t [(a, 8)] ∧ t.rdN a 4 = 0xFFFFFFFF ∧ t.rdN (a + 4) 1 = s.lvKind dev l ∧
            t.rdN (a + 5) 1 = 4 ∧ t.rdN (a + 6) 1 = s.lvFlags dev l ||| 0x13 ∧ t.tagFull a = true))) ∧
  -- the dispatcher
  (∀ (s : State) (dev n : Nat),
    let e := s.nodeEnt dev n
    let x := s.nodeSt dev n
    let ready := readyList x.recs
    let can : Prop := e.v = true ∧ s.lvRunning dev e.graph = true ∧ s.lvFlag dev e.graph 0 = false ∧ s.lvBad dev e.graph = false
    (s.nodeDue dev n = true ↔ ready ≠ [] ∧ (e.c ≤ ready.length ∨ s.lvFlag dev e.graph 1 = true ∨
      ∃ r t, ready.head? = some r ∧ r.ready = some t ∧ t.1 + e.timer ≤ s.cycle)) ∧
    (s.msg = .nodeTimerExpiry dev n →
      (s.clean → s.nodeDue dev n = false → x.waiters = [] → exec .nodeTimerExpiry s = .next s) ∧
      (can → s.nodeDue dev n = true → x.waiters = [] → ready.length ≤ e.c → x.running.length < e.most → s.clean →
        ∃ t, exec .nodeTimerExpiry s = .next t ∧ (t.nodeSt dev n).started = x.started + 1 ∧
          (t.nodeSt dev n).recs = x.recs.filter (fun r => decide (r ∉ ready)) ∧
          (t.nodeSt dev n).running.length = x.running.length + 1))) ∧
  -- preload and start
  (∀ (u : UnitSt) (uid k cycle : Nat), k < 16 → u.args.length ≤ 62 → u.node = none →
    let g := u.startGroup uid k cycle
    g.live = true ∧ g.unit = uid ∧ g.gidx = k ∧ g.priv = u.priv ∧ g.segs = u.segs ∧ g.clause = none ∧
    g.slices = List.replicate 16 { pc := u.entry, mask := 15, finished := false } ∧ g.paths = [{ slices := 0xFFFF }] ∧
    (∀ r, r < u.args.length → g.sAt r = u.args.getD r 0) ∧ g.sAt 62 = u.link ∧ g.sAt 63 = 0 ∧
    (∀ r l, g.vAt r l = 0) ∧ (∀ i, g.pAt i = 0) ∧ g.q = 0 ∧ g.fmode = 1 ∧ g.batchNo = 0 ∧ g.outs = [] ∧
    ∀ n < 65, g.gen n = genSeed u.seed u.uidx k n) ∧
  (∀ (s : State) (core : Nat),
    let c := s.coreAt core
    (c.head = none → (s.msg = .unitPreload core → exec .unitPreload s = .next s) ∧
      (s.msg = .unitStart core → exec .unitStart s = .next s)) ∧
    ∀ uid, c.head = some uid →
      let u := s.unitAt uid
      (s.msg = .unitPreload core →
        (c.asid ≠ u.asid ∨ u.loaded = true → exec .unitPreload s = .next s) ∧
        (c.asid = u.asid → u.loaded = false →
          (s.preloadOk u = false → ∃ t, exec .unitPreload s = .next t ∧ (t.unitAt uid).errored = true ∧
            (t.unitAt uid).ending = true) ∧
          (s.preloadOk u = true → s.preloaded uid = true →
            exec .unitPreload s = .next (s.setUnit uid { u with loaded := true })) ∧
          (s.preloadOk u = true → s.preloaded uid = false → ∃ t, exec .unitPreload s = .next t ∧ t.mem = s.mem ∧
            ∀ i < u.nsegs, ((t.coreAt core).seg (u.firstSeg + i)).st ≠ 0))) ∧
      (s.msg = .unitStart core →
        (s.startDue core = true → ∃ t, exec .unitStart s = .next t ∧ (t.unitAt uid).started = true ∧
          uid ∉ (t.coreAt core).arrivals ∧ u.groups ≤ (t.unitAt uid).slots.length ∧
          ∀ k < u.groups, ∃ a, (t.unitAt uid).slots[k]? = some a ∧ coreOf a = core ∧ (s.grpOf a).live = false ∧
            t.grpOf a = u.startGroup uid k s.cycle) ∧
        (s.startDue core = false → u.loaded = true → s.preloaded uid = false →
          exec .unitStart s = .next (s.setUnit uid { u with loaded := false })) ∧
        (s.startDue core = false → u.loaded = false ∨ s.preloaded uid = true → exec .unitStart s = .next s))) ∧
  -- pre-emption
  (∀ (s : State) (dev asid : Nat),
    let x := s.ctxAt dev asid
    let named := s.unitNamed dev asid (x.preq.toNat % 2 ^ 33)
    let busy : Prop := ∃ v ∈ x.saved, v.complete = false ∨ v.restoring = true
    let refused : State := s.setCtx dev asid { x with pstat := 3 }
    (s.msg = .preemptRequest dev asid →
      (named = none → exec .preemptRequest s = .next refused) ∧
      ∀ uid, named = some uid →
        let u := s.unitAt uid
        (busy ∨ u.started = false ∨ u.away = true → exec .preemptRequest s = .next refused) ∧
        (¬busy → u.started = true → u.away = false → u.ending = true →
          exec .preemptRequest s = .next (s.setCtx dev asid { x with pstat := 2 })) ∧
        (¬busy → u.started = true → u.away = false → u.ending = false →
          ∃ t, exec .preemptRequest s = .next t ∧ t.mem = s.mem ∧ (t.ctxAt dev asid).pstat = 1 ∧
            (t.unitAt uid).preempting = true ∧
            (∃ v ∈ (t.ctxAt dev asid).saved, v.uid = uid ∧ v.area = x.psave.toNat ∧ v.complete = false) ∧
            ∀ a ∈ u.slots, (s.grpOf a).unit = uid → (t.grpOf a).preempt = true)) ∧
    (s.msg = .restoreRequest dev asid →
      let has (v : Saved) : Prop := v.level = x.preq.toNat % 2 ^ 33 ∧ v.area = x.psave.toNat ∧ v.complete = true
      (busy ∨ named = none ∨ (∀ v ∈ x.saved, ¬has v) → exec .restoreRequest s = .next refused) ∧
      (¬busy → named ≠ none → ∀ v ∈ x.saved, has v →
        ∃ t, exec .restoreRequest s = .next t ∧ t.mem = s.mem ∧ (t.ctxAt dev asid).pstat = 1 ∧
          { v with restoring := true } ∈ (t.ctxAt dev asid).saved))) ∧
  (∀ (s : State) (a : Nat), s.msg = .preempt a →
    let g := s.grpOf a
    let u := s.unitAt g.unit
    (s.preemptPoint a = false → s.saveReady a = false → exec .preempt s = .next s) ∧
    (s.preemptPoint a = true → g.cancel = true → exec .preempt s = .next (s.takeCancel a)) ∧
    (s.preemptPoint a = true → g.cancel = false → ∃ t, exec .preempt s = .next t ∧ t.mem = s.mem ∧
      let h := t.grpOf a
      h.stopped = true ∧ h.taken = true ∧ h.clause = none ∧ h.wake = none ∧ h.slices = g.slices ∧ h.paths = g.paths ∧
      -- its open batch is closed, an empty one too
      (isSteer a = false → h.batchNo = (g.batchNo + 1) % 2 ^ 32 ∧ h.openCmds = 0 ∧
        FMap.get 0 h.ctr 2 = FMap.get 0 g.ctr 2 + 1)) ∧
    (s.preemptPoint a = false → s.saveReady a = true → 1 < u.slots.length →
      (∃ v ∈ (s.ctxAt u.dev u.asid).saved, v.uid = g.unit) →
      ∃ t, exec .preempt s = .next t ∧ (t.grpOf a).live = false ∧
        ∀ v ∈ (t.ctxAt u.dev u.asid).saved, v.uid = g.unit → ∃ h w, (a, h, w) ∈ v.groups ∧ h.p = g.p ∧ h.q = g.q ∧ h.t = g.t ∧
          h.slices = g.slices ∧ h.ctr = g.ctr ∧ h.fmode = g.fmode ∧ h.fflags = g.fflags ∧ h.gens = g.gens ∧ h.segs = g.segs ∧
          ∀ r l, h.vAt r l = g.vAt r l ∨ h.vAt r l = 0)) ∧
  ∀ (s : State) (dev l : Nat), s.msg = .unitRestore dev l →
    (s.unitOfLevel dev l = none → exec .unitRestore s = .next s) ∧
    ∀ uid, s.unitOfLevel dev l = some uid →
      let u := s.unitAt uid
      let x := s.ctxAt dev u.asid
      let entry := x.saved.find? fun v => decide (v.uid = uid)
      (entry = none → exec .unitRestore s = .next s) ∧
      ∀ v, entry = some v →
        (v.restoring = false ∨ s.restoreReady v = false → exec .unitRestore s = .next s) ∧
        (v.restoring = true → s.restoreReady v = true →
          let read := (s.setCtx dev u.asid { x with pstat := 2, saved := x.saved.filter fun q => decide (q.uid ≠ uid) }).areaIntact
            dev u.asid v
          (read.1 = false → ∃ t, exec .unitRestore s = .next t ∧ (t.unitAt uid).errored = true ∧
            (t.unitAt uid).ending = true ∧ (t.ctxAt dev u.asid).pstat = 2) ∧
          (∀ a g, read.1 = true → v.groups = [(a, g, {})] → g.acc = none → (∀ p ∈ g.paths, p.wait = none) →
            ∃ t, exec .unitRestore s = .next t ∧ t.mem = read.2.mem ∧ (t.unitAt uid).away = false ∧
              (t.ctxAt dev u.asid).pstat = 2 ∧ t.grpOf a = { g with age := s.cycle + 1 }))

/-! ## The device and the package -/

/-- R29, R281, R282, R287, R293 to R296, R298, R299, R424, R435, R467 to R469, R471: a walk by itself holds the leaf that it
finds; a die applies its log; the migration copier copies a line; a forwarding record is freed; a tile counts a request and
publishes its list; a core changes its context; a checkpoint starts and completes, and any one peer's bytes of a stripe follow
from the others; the package boots; its clock moves by 20 MHz. The model's readings: memory reads 0 after power-on and reset
(log entry 1); what an image holds beside the spec's lists, how its header is coded and that it completes from outside (log
entry 33); a publication in four steps (log entry 69); what a core drops as it switches (log entry 70); how a TLB is replaced
(log entry 110). -/
def Obligations.DeviceEvents : Prop :=
  -- walks
  (∀ (s : State) (die dev asid va a2 a3 a4 : Nat),
    let root := nbits (s.ctxAt dev asid).ptroot.toNat 47 12 * 4096
    let place (a i : Nat) : Nat := hloc s.mode dev (a + 8 * i)
    let entry (a i : Nat) : Nat := s.readAt noCore die (place a i) 8
    let e1 := entry root (nbits va 47 39)
    let e2 := entry a2 (nbits va 38 30)
    let e3 := entry a3 (nbits va 29 21)
    let e4 := entry a4 (nbits va 20 16)
    let points (e a align : Nat) : Prop := pteV e = true ∧ e.testBit 48 = false ∧ pteLeaf e = false ∧ nbits e 61 49 = 0 ∧
      pteAddr e = a ∧ a % align = 0
    root + 4096 ≤ hbmSize s.mode →
    (pteV e1 = false → s.walk die dev asid va = none) ∧
    (points e1 a2 4096 → a2 + 4096 ≤ hbmSize s.mode → points e2 a3 4096 → a3 + 4096 ≤ hbmSize s.mode →
      points e3 a4 256 → a4 + 256 ≤ hbmSize s.mode →
      (pteV e4 = false ∨ e4.testBit 48 = true ∨ pteLeaf e4 = false → s.walk die dev asid va = none) ∧
      (pteV e4 = true → e4.testBit 48 = false → pteLeaf e4 = true → pteLoc e4 = false →
        (pteAddr e4 % 65536 = 0 → pteAddr e4 + 65536 ≤ hbmSize s.mode →
          s.walk die dev asid va = some ⟨place a4 (nbits va 20 16), e4, 4⟩) ∧
        (pteAddr e4 % 65536 ≠ 0 → s.walk die dev asid va = none)))) ∧
  (∀ (s : State) (core va : Nat), s.msg = .pageWalk core va →
    let asid := (s.coreAt core).asid
    let w := s.walk (dieOfCore core) (s.devOfCore core) asid va
    (2 ^ 48 ≤ va ∨ w = none → exec .pageWalk s = .next s) ∧
    ∀ x, va < 2 ^ 48 → w = some x → core ≠ noCore →
      ∃ t, exec .pageWalk s = .next t ∧ t.mem = s.mem ∧ (t.coreAt core).tlb.length ≤ 96 ∧
        (t.tlb2Of core).length ≤ 2048 ∧
        ∀ l ∈ [(t.coreAt core).tlb, t.tlb2Of core],
          l.head? = some { asid := asid, va := va / pageSize x.lv * pageSize x.lv, size := pageSize x.lv,
                           leaf := BitVec.ofNat 64 x.e }) ∧
  (∀ (s : State) (die : Nat), s.msg = .logApply die → exec .logApply s = .next (s.applyLog die)) ∧
  -- migration
  (∀ (s : State) (dev k : Nat),
    let d := s.devAt dev
    let found := d.migs.find? fun m => decide (m.idx = k)
    (found = none → (s.msg = .copierLineCopy dev k → exec .copierLineCopy s = .next s) ∧
      (s.msg = .migrationRecordFree dev k → exec .migrationRecordFree s = .next s)) ∧
    ∀ m, found = some m →
      let lines := m.size / 256
      let put (x : Mig) : List Mig := d.migs.map fun n => if n.idx = k then x else n
      (s.msg = .copierLineCopy dev k →
        (2 ≤ m.st ∨ (m.st = 0 ∧ lines ≤ m.copied) → exec .copierLineCopy s = .next s) ∧
        (m.st = 1 → lines ≤ m.copied → m.dirty = [] →
          exec .copierLineCopy s = .next (s.setDev dev { d with migs := put { m with st := 2 } })) ∧
        (∀ line, (m.st ≤ 1 ∧ m.copied < lines ∧ line = m.copied) ∨
            (m.st = 1 ∧ lines ≤ m.copied ∧ m.dirty.head? = some line ∧ line < lines) →
          s.clean → m.srcLoc = true → m.src + m.size ≤ 2 ^ 33 → m.dst + m.size ≤ 2 ^ 33 → m.dstKey < 64 →
          (m.src + m.size ≤ m.dst ∨ m.dst + m.size ≤ m.src) → (∀ p, m.dst ≤ p → p < m.dst + m.size → s.migOf p = none) →
          ∃ t x, exec .copierLineCopy s = .next t ∧ s.onlyAt t [(m.dst + 256 * line, 256)] ∧
            t.rdBytes (m.dst + 256 * line) 256 = s.rdBytes (m.src + 256 * line) 256 ∧ (t.devAt dev).migs = put x ∧
            x.copied = (if m.copied < lines then m.copied + 1 else m.copied) ∧
            x.dirty = (if m.copied < lines then m.dirty else m.dirty.tail) ∧
            x.st = (if m.st = 1 ∧ lines ≤ x.copied ∧ x.dirty = [] then 2 else m.st))) ∧
      (s.msg = .migrationRecordFree dev k →
        let free : Prop := m.st = 3 ∧ (∀ j ∈ diesOfDev s.mode dev, seqBelow (s.dieAt j).gen m.seq = false) ∧
          s.olderAccesses dev m.seq 4096 = []
        (¬free → exec .migrationRecordFree s = .next s) ∧
        (free → exec .migrationRecordFree s =
          .next (s.setDev dev { d with migs := d.migs.filter fun n => decide (n.idx ≠ k) })))) ∧
  -- gust lists
  (∀ (s : State) (stack : Nat), s.msg = .gustListPublish stack →
    let per := 2 * diesPer s.mode
    let dev := stack / per
    let g := FMap.get {} (s.devAt dev).gusts (stack % per)
    let a := s.lvAt dev g.area
    let n := (g.interval + 1) % 2 ^ 32
    (g.enabled = false ∨ s.lvFrozen dev g.area = true → exec .gustListPublish s = .next s) ∧
    -- the four steps of a publication
    (g.enabled = true → s.lvFrozen dev g.area = false → ∃ t, exec .gustListPublish s = .next t ∧
      let h := FMap.get {} (t.devAt dev).gusts (stack % per)
      (g.stage = 0 → h = { g with stage := 1 } ∧ t.rdN a 4 = 0xFFFFFFFF ∧ s.onlyAt t [(a, 4)]) ∧
      (g.stage = 1 → h = { g with stage := 2 } ∧ s.onlyAt t [(a + 4, 572)] ∧ t.rdN (a + 4) 4 = g.n % 2 ^ 32 ∧
        (∀ i < 56, t.rdByte (a + 8 + i) = 0) ∧ ∃ es, List.Perm es g.cand ∧
        es.Pairwise (fun p q => q.2 < p.2 ∨ (p.2 = q.2 ∧ p.1 ≤ q.1)) ∧
        ∀ i < 64, t.rdN (a + 64 + 8 * i) 8 = match es[i]? with
          | some p => (p.1 % 2 ^ 32 + p.2 * 2 ^ 32) % 2 ^ 64
          | none => 0xFFFFFFFF) ∧
      (g.stage = 2 → h = { g with stage := 3, interval := n } ∧ t.rdN a 4 = n ∧ s.onlyAt t [(a, 4)]) ∧
      (3 ≤ g.stage → h = { g with stage := 0, counters := [], cand := [] } ∧ t.mem = s.mem))) ∧
  -- the sketch of a memory tile that serves a request to frame f
  (∀ (g : Gust) (f : Nat), f < 2 ^ 32 →
    let mul : List Nat := [0x9E3779B1, 0xC2B2AE3D, 0x6F4A7C15, 0xB5297A4D]
    let counter (r : Nat) : Nat := 4096 * r + f * mul.getD r 0 % 2 ^ 32 / 2 ^ 20
    let h := g.count f
    (∀ k, FMap.get 0 h.counters k =
      if ∃ r < 4, k = counter r then min (FMap.get 0 g.counters k + 1) 0xFFFF else FMap.get 0 g.counters k) ∧
    ∃ est, (∃ r < 4, est = FMap.get 0 h.counters (counter r)) ∧ (∀ r < 4, est ≤ FMap.get 0 h.counters (counter r)) ∧
      ((∃ p ∈ g.cand, p.1 = f) → h.cand = g.cand.map fun p => if p.1 = f then (f, est) else p) ∧
      ((∀ p ∈ g.cand, p.1 ≠ f) →
        (g.cand.length < 64 → h.cand = g.cand ++ [(f, est)]) ∧
        (64 ≤ g.cand.length → ∃ l ∈ g.cand, (∀ p ∈ g.cand, l.2 < p.2 ∨ (l.2 = p.2 ∧ p.1 ≤ l.1)) ∧
          h.cand = if l.2 < est then (g.cand.filter fun p => decide (p.1 ≠ l.1)) ++ [(f, est)] else g.cand))) ∧
  -- contexts
  (∀ (s : State) (core asid : Nat), s.msg = .contextSwitch core asid →
    let c := s.coreAt core
    let ok : Prop := c.asid ≠ asid ∧ core ∈ (s.ctxAt (s.devOfCore core) asid).cores ∧
      (∀ p ∈ s.units, p.2.core = core → p.2.started = true → p.2.away = true) ∧ ∀ k ∈ c.copies, k.status = 2
    (¬ok → exec .contextSwitch s = .next s) ∧
    (ok → ∃ t, exec .contextSwitch s = .next t ∧
      (∀ a, t.rdByte a = if iloc core 0 ≤ a ∧ a < iloc core 0 + 2 ^ 18 then 0 else s.rdByte a) ∧
      (let e := t.coreAt core
       e.asid = asid ∧ e.opb = [] ∧ e.wb = [] ∧ e.acc = [] ∧ e.recs = [] ∧ e.baton = none ∧ e.tlb = [] ∧ e.binds = [] ∧
       (∀ k ∈ e.copies, k.asid = asid ∧ k ∈ c.shelved) ∧ (∀ k ∈ c.copies, k ∈ e.shelved) ∧ e.retired = c.retired) ∧
      ∀ p ∈ t.groups, coreOf p.1 ≠ core)) ∧
  -- checkpoints
  (∀ (s : State) (dev : Nat), s.msg = .checkpointStart dev →
    (s.ckptAgent dev = none → exec .checkpointStart s = .next s) ∧
    ∀ a va tok, s.ckptAgent dev = some a → (s.grpOf a).ckptWait = some (va, tok) →
      let uid := (s.grpOf a).unit
      let asid := (s.unitAt uid).asid
      let go : Prop := (s.devAt dev).ckpt = none ∧ s.ckptQuiet dev uid = true ∧ (s.ctxAt dev asid).busy = false
      (¬go → exec .checkpointStart s = .next s) ∧
      (go → ∃ t, exec .checkpointStart s = .next t ∧ t.mem = s.mem ∧ (t.devAt dev).ckpt = some (asid, a, uid) ∧
        (t.unitAt uid).preempting = true ∧ ∃ v ∈ (t.ctxAt dev asid).saved, v.uid = uid ∧ v.area = va)) ∧
  (∀ (s : State) (dev : Nat) (done : Bool), s.msg = .checkpointComplete dev done →
    (s.ckptSaved dev = none → exec .checkpointComplete s = .next s) ∧
    (s.ckptSaved dev ≠ none → ∃ t im, exec .checkpointComplete s = .next t ∧ (t.devAt dev).ckpt = none ∧
      im.mode = s.mode ∧ im.dev = dev ∧ (∀ f, f ∈ im.frames ↔ f ∈ s.mappedFrames dev) ∧ im.frames.Pairwise (· < ·) ∧
      im.mem = (s.mem.filter fun c => imagePlace s.mode dev im.frames c.1) ∧ im.keyInst = (s.devAt dev).keyInst ∧
      im.slot = (match (s.devAt dev).images with | [] => 0 | old :: _ => 1 - old.slot) ∧
      im.peers = (s.devAt dev).tier.length ∧
      -- each peer of the tier is sent its part
      (∀ (q : Nat) p, (s.devAt dev).tier[q]? = some p → .ckpt dev p.1 q im ∈ t.outbox) ∧
      (done = false → (t.devAt dev).images = (s.devAt dev).images.take 1) ∧
      (done = true → (t.devAt dev).images = im :: (s.devAt dev).images.take 1 ∧
        (∀ p ∈ (s.devAt dev).tier, .trailer dev p.1 im.slot im.gen im.digest ∈ t.outbox) ∧
        ((s.devAt dev).owner.sess = true → .ckptKey dev im.wrapKey ∈ t.outbox)))) ∧
  -- the bytes of an image, and the parity that its peers store with them
  (∀ im : Image,
    let dies := diesPer im.mode
    let first := firstDie im.mode im.dev
    let sram := 2 ^ 26 + dies * 2 ^ 31
    let queue := sram + dies * 2 ^ 22
    let at' (a : Nat) : Byte := FMap.get 0 im.mem a
    (∀ i, 2 ^ 26 ≤ i → i < sram → im.byte i = at' (first * 2 ^ 31 + (i - 2 ^ 26))) ∧
    (∀ i, sram ≤ i → i < queue → im.byte i = at' (qloc first (i - sram))) ∧
    (∀ k f b, im.frames[k]? = some f → b < 65536 →
      im.byte (queue + 65536 * k + b) = at' (hloc im.mode im.dev (65536 * f + b))) ∧
    (2 ≤ im.peers → ∀ q S b, q < im.peers →
      let p := im.peers
      let k := if q < S % p then q else q - 1
      let u := S * (p - 1) + k
      im.rebuilt q S b = im.peerByte q S b ∧
        (q ≠ S % p → im.peerByte q S b = if u < im.units1M then im.byte (2 ^ 20 * u + b) else 0))) ∧
  -- boot and clock
  (∀ (s : State) (images : List FwImage) (i : Instr),
    (i = .powerOn ∧ s.msg = .powerOn images) ∨ (i = .packageReset ∧ s.msg = .packageReset images) →
    let good (x : FwImage) : Prop := x.sigOk = true ∧ x.minimum ≤ x.version
    ∃ t, exec i s = .next t ∧ t.mem = [] ∧ t.tags = [] ∧ t.groups = [] ∧ t.units = [] ∧ t.ctxs = [] ∧ t.inbox = s.inbox ∧
      (∀ d, (t.devAt d).owner.sess = false ∧ (t.devAt d).images = (s.devAt d).images) ∧
      ((∀ x ∈ images.take 4, good x) → 4 ≤ images.length → t.pkg.released = 15 ∧ t.pkg.failing = none) ∧
      ∀ k x, k < 4 → images[k]? = some x → ¬good x → (∀ y ∈ images.take k, good y) →
        t.pkg.failing = some k ∧ t.pkg.released.toNat = 2 ^ k - 1) ∧
  ∀ s : State,
    let f (n : Nat) : State := s.setPkg { s.pkg with clock := n }
    (s.msg = .clockLower → exec .clockLower s = .next (if s.pkg.clock < 620 then s else f (s.pkg.clock - 20))) ∧
    (s.msg = .clockRaise → exec .clockRaise s = .next (if 920 < s.pkg.clock then s else f (s.pkg.clock + 20)))

/-! ## The host and the owner -/

/-- R435, R437 to R439: nothing answers before the package is released, and after a failed boot the front port states the
failing image; each SPDM message in its place; Busy for a second owner session; what the feature negotiation settles. The
order of the messages and the names of the errors but UnsupportedRequest and Busy are the model's presumption (log entry
63), and so is what a rollover keeps beside R446. The model's readings: KEY_UPDATE carries whether both directions change (75);
FEATURE_ACCEPT without a session is dropped (72); an accepted negotiation stays (73). -/
def Obligations.SecurityMessages : Prop :=
  ∀ (s : State) (port dev n : Nat) (b1 b2 b3 b4 : Bool) (w0 w1 : BitVec 128),
    let x := s.spdmAt port
    let d := s.devAt dev
    let up : Prop := s.pkg.failing = none ∧ s.pkg.released = 15 ∧ port ≤ 16
    let tells (i : Instr) (name : String) (body : List Nat) (t : State) : Prop := exec i s = .next (t.send (.spdm port name body))
    let after (i : Instr) (p q : Prop) : Prop := (p → q) ∧ (¬p → tells i "ERROR UnexpectedRequest" [] s)
    let chain := s.certChain
    let slot (i : Nat) : List Nat := [i, FMap.get 0 s.pkg.meas i]
    let session : Prop := if port = 0 then ∃ p ∈ s.devs, p.2.owner.sess = true else x.opened = true
    let l := s.linkAt (port - 1)
    (∀ i m, (i, m) ∈ ([(.getVersion, .getVersion port), (.getCapabilities, .getCapabilities port),
        (.negotiateAlgorithms, .negotiateAlgorithms port b1 b2 b3 b4), (.getDigests, .getDigests port),
        (.getCertificate, .getCertificate port n), (.challenge, .challenge port n),
        (.getMeasurements, .getMeasurements port n), (.keyExchange, .keyExchange port dev), (.finish, .finish port dev b1),
        (.keyUpdate, .keyUpdate port b1), (.heartbeat, .heartbeat port),
        (.endSession, .endSession port dev)] : List (Instr × Msg)) → s.msg = m → ¬up →
      (∀ k, s.pkg.failing = some k → port = 0 → exec i s = .next (s.send (.spdm 0 "ERROR" [k]))) ∧
      (s.pkg.failing = none ∨ port ≠ 0 → exec i s = .next s)) ∧
    (up →
      (s.msg = .getVersion port → tells .getVersion "VERSION" [0x13]
        (s.setSpdm port { version := true, opened := x.opened, keyGen := x.keyGen })) ∧
      (s.msg = .getCapabilities port → after .getCapabilities (x.version = true)
        (tells .getCapabilities "CAPABILITIES" [] (s.setSpdm port { x with caps := true }))) ∧
      (s.msg = .negotiateAlgorithms port b1 b2 b3 b4 → after .negotiateAlgorithms (x.caps = true)
        (((b1 && b2 && b3 && b4) = true → tells .negotiateAlgorithms "ALGORITHMS" [] (s.setSpdm port { x with algs := true })) ∧
         ((b1 && b2 && b3 && b4) = false → tells .negotiateAlgorithms "ERROR UnsupportedRequest" [] s))) ∧
      (s.msg = .getDigests port → after .getDigests (x.algs = true) (tells .getDigests "DIGESTS" [Config.digest [chain]] s)) ∧
      (s.msg = .getCertificate port n → after .getCertificate (x.algs = true)
        ((n = 0 → tells .getCertificate "CERTIFICATE" [chain] s) ∧
         (n ≠ 0 → tells .getCertificate "ERROR InvalidRequest" [] s))) ∧
      (s.msg = .challenge port n → after .challenge (x.algs = true)
        (tells .challenge "CHALLENGE_AUTH" [chain, n, Config.sign [1, chain, n]] s)) ∧
      (s.msg = .getMeasurements port n → after .getMeasurements (x.algs = true)
        ((1 ≤ n → n ≤ 8 → tells .getMeasurements "MEASUREMENTS" (slot n ++ [Config.sign (2 :: slot n)]) s) ∧
         (n = 255 →
           let all := slot 1 ++ slot 2 ++ slot 3 ++ slot 4 ++ slot 5 ++ slot 6 ++ slot 7 ++ slot 8
           tells .getMeasurements "MEASUREMENTS" (all ++ [Config.sign (2 :: all)]) s) ∧
         (n = 0 ∨ 8 < n ∧ n ≠ 255 → tells .getMeasurements "ERROR InvalidRequest" [] s))) ∧
      (s.msg = .keyExchange port dev → after .keyExchange (x.algs = true)
        ((port ≠ 0 → ∃ r, tells .keyExchange "KEY_EXCHANGE_RSP" [r] (s.setSpdm port { x with kex := true })) ∧
         (port = 0 →
           (s.mode ≤ dev → tells .keyExchange "ERROR InvalidRequest" [] s) ∧
           (dev < s.mode → d.owner.sess = true → tells .keyExchange "ERROR Busy" [] s) ∧
           (dev < s.mode → d.owner.sess = false → ∃ r, tells .keyExchange "KEY_EXCHANGE_RSP" [r]
             (s.setDev dev { d with owner := { d.owner with kex := true } }))))) ∧
      (s.msg = .finish port dev b1 →
        (port = 0 → after .finish (d.owner.kex = true ∧ dev < s.mode)
          ((b1 = false → tells .finish "ERROR DecryptError" [] (s.setDev dev { d with owner := { d.owner with kex := false } })) ∧
           (b1 = true → exec .finish s =
             .next (((s.setDev dev { d with owner := { sess := true } }).send (.spdm 0 "FINISH_RSP" [])).send
               (.spdm 0 "FEATURES" [(offeredWords dev).1.toNat, (offeredWords dev).2.toNat]))))) ∧
        (port ≠ 0 → after .finish (x.kex = true)
          ((b1 = false → tells .finish "ERROR DecryptError" [] s) ∧
           (b1 = true → ∃ t, tells .finish "FINISH_RSP" [] t ∧ t.mem = s.mem ∧ (t.spdmAt port).opened = true ∧
             ∃ k1 k2, k1 ≠ k2 ∧ t.linkAt (port - 1) = { up := true, txKey := k1, rxKey := k2 })))) ∧
      (s.msg = .keyUpdate port b1 →
        (port = 0 → after .keyUpdate session (tells .keyUpdate "KEY_UPDATE_ACK" [] (s.setSpdm 0 { x with keyGen := x.keyGen + 1 }))) ∧
        (port ≠ 0 →
          let can : Prop := x.opened = true ∧ l.up = true ∧ l.rxOld = none ∧ (b1 = true → l.drainTo = none ∧ l.marker = none)
          after .keyUpdate can (∃ t, tells .keyUpdate "KEY_UPDATE_ACK" [] t ∧ t.mem = s.mem ∧
            let m := t.linkAt (port - 1)
            let waits : Prop := (∃ f ∈ l.replay, f.num < l.txNext) ∨ 4096 ≤ l.replay.length
            m.up = true ∧ m.rxNext = l.rxNext ∧ m.rxOld = some l.rxKey ∧ m.rxKg = 1 - l.rxKg ∧
            (b1 = false → m.txKg = l.txKg ∧ m.txKey = l.txKey ∧ m.drainTo = l.drainTo ∧ m.replay = l.replay ∧
              m.txNext = l.txNext) ∧
            (b1 = true → m.txKg = 1 - l.txKg ∧
              (waits → m.drainTo = some l.txNext ∧ m.replay = l.replay ∧ m.txNext = l.txNext) ∧
              (¬waits → m.drainTo = none ∧ m.marker = some l.txNext ∧ m.txNext = l.txNext + 1 ∧
                ∃ f, m.replay = l.replay ++ [f] ∧ f.typ = 4 ∧ f.num = l.txNext ∧ f.kg = 1 - l.txKg))))) ∧
      (s.msg = .heartbeat port → after .heartbeat session (tells .heartbeat "HEARTBEAT_ACK" [] s)) ∧
      (s.msg = .endSession port dev →
        (port = 0 → after .endSession (d.owner.sess = true) (∃ t, tells .endSession "END_SESSION_ACK" [] t ∧
          (t.devAt dev).owner = {} ∧ (t.devAt dev).wiping = true ∧
          ∀ a, a < 256 → FMap.find s.ctxs (ctxKey dev a) ≠ none → (t.ctxAt dev a).dying = true)) ∧
        (port ≠ 0 → after .endSession (x.opened = true) (∃ t, tells .endSession "END_SESSION_ACK" [] t ∧
          t.linkAt (port - 1) = {} ∧ (t.spdmAt port).opened = false)))) ∧
    (s.msg = .featureAccept dev w0 w1 →
      let valid : Prop := w0 &&& ~~~(offeredWords dev).1 = 0 ∧ w1 &&& ~~~(offeredWords dev).2 = 0 ∧ w0.getLsbD 0 = true
      let live : Prop := dev < s.mode ∧ d.owner.sess = true ∧ d.wiping = false
      (¬live ∨ d.owner.accepted ≠ none → exec .featureAccept s = .next s) ∧
      (live → d.owner.accepted = none →
        (valid → exec .featureAccept s = .next (s.setDev dev { d with owner := { d.owner with accepted := some (w0, w1) } })) ∧
        (¬valid → ∃ m, exec .featureAccept s = .next (s.send m))))

/-- R421, R423, R433, R439, R441, R471, R478, R501 to R504: only the owner session's commands count; the first condition
that holds is the reply, and nothing else changes; what a command that is done leaves. RESTORE takes the newest image that is
complete by what the peers of the named tier hold, rebuilds one lost unit of a stripe and makes the device a replacement that
waits for its takeover. The model's choices: the limits of an export index, of a region's bounds and of a rebound offset are read
from R442, R443 and R503 (log entries 64 and 65); a context that finds others gives no empty tags and frees only its own trees
(49 and 117); a mode change clears the other devices and ends their sessions (71); a command outside a session is dropped (72);
FEATURE before an accepted negotiation, OPERAND for object numbers above 255 and for a LAUNCH's offsets (73); a changed tier
gives up its images (74); the event RESTORE FAILED 3 and the number of a restored device (33). -/
def Obligations.OwnerCommands : Prop :=
  ∀ (s : State) (dev mode asid job decls obj m p rank mdev off slot va len rkey index remote out width height : Nat)
    (cores trees objs migs tier : List Nat) (key : Nat) (held : List Held) (members peers : List (Nat × Nat)) (sup r w : Bool)
    (record parent : Nat) (stream : Stream),
    let d := s.devAt dev
    let cmd : Prop := dev < s.mode ∧ d.owner.sess = true ∧ d.wiping = false
    let live : Prop := s.ctxLive dev asid = true
    let done (t : State) : State := t.send (.reply dev 0 0)
    let feature (b : Nat) : Prop := ∃ w, d.owner.accepted = some w ∧ w.2.getLsbD b = true
    let bad (o n : Nat) : Prop := o % 64 ≠ 0 ∨ globalSize s.mode < o + n ∨ s.guardedRange (gloc s.mode dev o) n = true
    let o := (s.gobj dev obj).getD {}
    (∀ i m', (i, m') ∈ ([(.ctxCreate, .ctxCreate dev mode asid job cores trees objs decls migs),
        (.ctxDestroy, .ctxDestroy dev asid), (.launch, .launch dev asid sup record parent),
        (.gobjCreate, .gobjCreate dev obj m p members), (.gobjDestroy, .gobjDestroy dev obj),
        (.gobjRebind, .gobjRebind dev obj rank mdev off), (.keyInstall, .keyInstall dev slot), (.keyErase, .keyErase dev slot),
        (.mrReg, .mrReg dev asid va len r w rkey), (.mrDereg, .mrDereg dev rkey),
        (.exportSet, .exportSet dev index remote asid va len r w), (.ckptTier, .ckptTier dev peers),
        (.restore, .restore dev tier key held), (.ctxContinue, .ctxContinue dev asid),
        (.outputConfigure, .outputConfigure dev out width height stream)] : List (Instr × Msg)) →
      s.msg = m' → ¬cmd → exec i s = .next s) ∧
    (cmd →
      -- contexts and units
      (s.msg = .ctxCreate dev mode asid job cores trees objs decls migs →
        let dev' := devOfDie mode (firstDie s.mode dev)
        let n := (s.ctxs.filter fun p => decide (p.1 / 256 = dev)).length
        s.replies .ctxCreate dev
          [((mode ≠ 1 ∧ mode ≠ 2 ∧ mode ≠ 4) ∨ asid = 0 ∨ 255 < asid ∨ job % 64 ≠ 0 ∨ globalSize mode < job + 64 ∨ 256 < decls ∨
             s.guarded (gloc mode dev' job) 64 = true ∨ (∃ c ∈ cores, c ∉ coresOfDev mode dev') ∨
             (∃ t ∈ trees, 64 * 4 * diesPer mode ≤ t) ∨ (∃ o ∈ objs, 256 ≤ o) ∨ (∃ i ∈ migs, 64 ≤ i), 1),
           (∃ x, (ctxKey dev asid, x) ∈ s.ctxs, 2), (255 ≤ n, 4), (mode ≠ s.mode ∧ s.ctxs ≠ [], 5),
           (d.owner.accepted = none, 6)]
          (∃ t, exec .ctxCreate s = .next t ∧ t.outbox = s.outbox ++ [.reply dev' 0 0] ∧ t.mode = mode ∧
            t.ctxAt dev' asid = { cores := cores, trees := trees, objs := objs, decls := decls, migs := migs, job := job,
                                  cyc0 := s.cycle } ∧
            -- the first context of a device finds no sequence number, no tree and no full tag
            (n = 0 → (t.devAt dev').invSeq = 0 ∧ (∀ k ∈ diesOfDev mode dev', (t.dieAt k).gen = 0) ∧
              ∀ a, homeOfDev mode dev' (8 * a) = true → t.tagFull (8 * a) = false) ∧
            ((∀ p, s.migOf p = none) →
              t.lvRunning dev' job = true ∧ t.lvKind dev' job = 4 ∧ t.lvCtr dev' job = 0 ∧ t.lvFlags dev' job = 0 ∧
              t.lvParent dev' job = 0xFFFFFFFF ∧ t.lvBudget dev' job = 0 ∧ t.lvErr dev' job = 0 ∧
              (mode = s.mode →
                let tree (k : Nat) : Nat := boraSlice mode dev' (k / 64) * 2 ^ 25 + 64 * (k % 64)
                let freed (q : Nat) : Prop := n = 0 ∧ isTreeDesc q = true ∧ homeOfDev mode dev' q = true
                (∀ q, ¬freed q → (∀ r ∈ (gloc mode dev' job, 64) :: trees.map (fun k => (tree k, 64)), q < r.1 ∨ r.1 + r.2 ≤ q) →
                  t.rdByte q = s.rdByte q) ∧
                (∀ q, freed q → t.rdByte q = 0) ∧ ∀ k ∈ trees, t.rdN (tree k) 64 = 0)))) ∧
      (s.msg = .ctxDestroy dev asid → s.replies .ctxDestroy dev [(¬live, 3)]
        (∃ t, exec .ctxDestroy s = .next t ∧ (t.ctxAt dev asid).dying = true ∧ (t.ctxAt dev asid).halted = false ∧
          ∀ uid u, FMap.find s.units uid = some u → u.dev = dev → u.asid = asid → (t.unitAt uid).ending = true)) ∧
      (s.msg = .launch dev asid sup record parent →
        let at' := if parent = 0xFFFFFFFF then (s.ctxAt dev asid).job else parent
        let y := s.launch dev asid record at' sup
        s.replies .launch dev [(bad record 512 ∨ bad at' 64, 1), (¬live, 3)]
          ((y.1 = 0 → exec .launch s = .next (done y.2)) ∧
           (y.1 ≠ 0 → exec .launch s = .next (y.2.send (.reply dev 7 y.1)) ∧
             (s.clean → y.2.mem = s.mem ∧ y.2.units = s.units)))) ∧
      (s.msg = .ctxContinue dev asid → s.replies .ctxContinue dev [(¬live, 3)]
        (exec .ctxContinue s = .next (done (s.setCtx dev asid { s.ctxAt dev asid with halted := false, haltTold := false })))) ∧
      -- group objects
      (s.msg = .gobjCreate dev obj m p members → s.replies .gobjCreate dev
        [(255 < obj ∨ m < 2 ∨ 4096 < m ∨ p < 1 ∨ 16 < p ∨ members.length ≠ m ∨ (∃ e ∈ members, e.2 % 64 ≠ 0 ∨ 2 ^ 33 ≤ e.2) ∨
           ¬members.Nodup, 1), (s.gobj dev obj ≠ none, 2)]
        (∃ t, exec .gobjCreate s = .next (done t) ∧ t = s.setDev dev (t.devAt dev) ∧
          t.gobj dev obj = some { m := m, p := p, members := members.map fun e => { dev := e.1, off := e.2 } } ∧
          ∀ i, i ≠ obj → t.gobj dev i = s.gobj dev i)) ∧
      (s.msg = .gobjDestroy dev obj → s.replies .gobjDestroy dev [(255 < obj, 1), (s.gobj dev obj = none, 3)]
        (∃ t, exec .gobjDestroy s = .next (done t) ∧ t.mem = s.mem ∧ t.gobj dev obj = none ∧
          (∀ i, i ≠ obj → t.gobj dev i = s.gobj dev i) ∧
          ((∀ c ∈ s.colls, c.obj = obj → c.form ≠ 7) →
            (∀ k g, k ∈ s.gobjDevs dev obj → k ≠ dev → s.gobj k obj = some g → t.gobj k obj = some { g with
              members := g.members.map fun e => if e.dev = dev then { e with ended := true } else e }) ∧
            ∀ k, k ∉ s.gobjDevs dev obj → k ≠ dev → t.gobj k obj = s.gobj k obj) ∧
          ((s.colls.map fun c => c.tok).Nodup → ∀ c ∈ s.colls, c.dev = dev → c.obj = obj → c.result = none →
            { c with result := some (2, []) } ∈ t.colls))) ∧
      (s.msg = .gobjRebind dev obj rank mdev off → s.replies .gobjRebind dev
        [(255 < obj ∨ off % 64 ≠ 0 ∨ 2 ^ 33 ≤ off ∨ (s.gobj dev obj ≠ none ∧ (o.m ≤ rank ∨
           ∃ e ∈ o.members.eraseIdx rank, e.dev = mdev ∧ e.off = off)), 1), (s.gobj dev obj = none, 3)]
        (∃ t, exec .gobjRebind s = .next (done t) ∧ t = s.setDev dev (t.devAt dev) ∧
          t.gobj dev obj = some { o with mismatch := false, seqs := [], members := o.members.set rank { dev := mdev, off := off } } ∧
          ∀ i, i ≠ obj → t.gobj dev i = s.gobj dev i)) ∧
      -- keys
      (s.msg = .keyInstall dev slot → s.replies .keyInstall dev [(slot = 0 ∨ 63 < slot, 1)]
        (∃ t, exec .keyInstall s = .next (done t) ∧ t.mem = s.mem ∧ t.tok = s.tok + 1 ∧
          t.keyOf dev slot = some s.tok ∧ ∀ i, i ≠ slot → t.keyOf dev i = s.keyOf dev i)) ∧
      (s.msg = .keyErase dev slot → s.replies .keyErase dev [(slot = 0 ∨ 63 < slot, 1)]
        (∃ t, exec .keyErase s = .next (done t) ∧ t.mem = s.mem ∧ t.keyOf dev slot = none ∧
          ∀ i, i ≠ slot → (i < 64 → t.keyOf dev i = s.keyOf dev i))) ∧
      -- regions, exports, the checkpoint tier
      (s.msg = .mrReg dev asid va len r w rkey → s.replies .mrReg dev
        [(2 ^ 48 < va + len ∨ 2 ^ 32 ≤ rkey, 1), (¬live, 3), (1024 ≤ d.regions.length, 4), (¬feature 0, 6)]
        (exec .mrReg s = .next (done (s.setDev dev { d with
          regions := d.regions ++ [{ asid := asid, va := va, len := len, r := r, w := w, rkey := rkey }] })))) ∧
      (s.msg = .mrDereg dev rkey → s.replies .mrDereg dev [(∀ x ∈ d.regions, x.rkey ≠ rkey, 3), (¬feature 0, 6)]
        (exec .mrDereg s = .next (done (s.setDev dev { d with
          regions := d.regions.filter fun x => decide (x.rkey ≠ rkey) })))) ∧
      (s.msg = .exportSet dev index remote asid va len r w → s.replies .exportSet dev
        [(2 ^ 48 < va + len, 1), (¬live, 3), (64 ≤ index, 4)]
        (exec .exportSet s = .next (done (s.setDev dev { d with
          exports := d.exports.ins index { remote := remote, asid := asid, va := va, len := len, r := r, w := w } })))) ∧
      (s.msg = .ckptTier dev peers →
        let n := peers.length
        let share := 2 * ((s.imageSize dev + n - 2) / (n - 1)) + 128 * 2 ^ 20
        s.replies .ckptTier dev [(n < 4 ∨ 16 < n ∨ ∃ p ∈ peers, p.2 < share, 1), (¬feature 4, 6)]
          (∃ t, exec .ckptTier s = .next (done t) ∧ t = s.setDev dev (t.devAt dev) ∧ (t.devAt dev).tier = peers ∧
            (d.tier = peers → (t.devAt dev).images = d.images))) ∧
      (s.msg = .restore dev tier key held →
        -- an image is complete where each peer of the tier that answers holds it with its trailer; the newest such is taken
        let complete (im : Image) : Prop := im.peers = tier.length ∧ (∃ h ∈ held, h.image = im) ∧
          ∀ q ∈ tier, (∃ h ∈ held, h.peer = q) → ∃ h ∈ held, h.peer = q ∧ h.image = im ∧ h.trailer = true
        let newest := newestImage tier held
        (newest = none ↔ ∀ im, ¬complete im) ∧
        (∀ im, newest = some im → complete im ∧ ∀ x, complete x → x.gen ≤ im.gen) ∧
        s.replies .restore dev
          [(tier.length < 4 ∨ 16 < tier.length ∨ (∃ im, newest = some im ∧ devOfDie im.mode (firstDie s.mode dev) ≠ im.dev), 1),
           (newest = none, 3),
           ((∃ x, x ∈ s.ctxs ∧ x.1 / 256 = dev) ∨ (s.ctxs ≠ [] ∧ ∃ im, newest = some im ∧ im.mode ≠ s.mode), 5), (¬feature 4, 6)]
          (∀ im, newest = some im → im.peers ≤ im.units1M →
            -- stripe q holds peers - 1 units; its parity lies at peer q mod peers, its units at the others in order
            let at' (q i : Nat) : Nat := if i < q % im.peers then i else i + 1
            let holds (q x : Nat) : Prop := x = q % im.peers ∨
              ∃ i < im.peers - 1, q * (im.peers - 1) + i < im.units1M ∧ x = at' q i
            let gone (x : Nat) : Prop := ∀ p, tier[x]? = some p → ∀ h ∈ held, h.peer ≠ p
            let damaged (x q : Nat) : Prop := ∃ h ∈ held, tier[x]? = some h.peer ∧ h.image = im ∧ q ∈ h.damaged
            let bad (q x : Nat) : Prop := holds q x ∧ (gone x ∨ damaged x q)
            let lost : Prop := ∃ q x y, x < y ∧ y < im.peers ∧ bad q x ∧ bad q y
            (lost → exec .restore s = .next ((done s).send (.event dev "RESTORE FAILED" 3))) ∧
            (¬lost → ∃ t, exec .restore s = .next t ∧ .reply dev 0 0 ∈ t.outbox ∧ t.mode = im.mode ∧
              im.dev ∈ t.timer.joining ∧ (t.devAt im.dev).keymap = im.keymap ∧ (t.devAt im.dev).migs = [] ∧
              (key = im.wrapKey → ∀ i, i ≠ 0 → im.keymap.getLsbD i = true →
                t.keyOf im.dev i = some (FMap.get 0 im.keyInst i)) ∧
              ∀ i g, FMap.find im.gobjs i = some g → ∃ g', t.gobj im.dev i = some g' ∧ g'.m = g.m ∧ g'.p = g.p ∧
                g'.seqs = g.seqs ∧ g'.mismatch = g.mismatch ∧ g'.members.length = g.members.length ∧
                ∀ e ∈ g'.members, e.dev ≠ im.dev → e.ended = true))) ∧
      -- outputs
      (s.msg = .outputConfigure dev out width height stream → s.replies .outputConfigure dev
        [(7 < out ∨ width = 0 ∨ 8192 < width ∨ height = 0 ∨ 8192 < height, 1), (¬feature 2, 6)]
        (∃ t, exec .outputConfigure s = .next (done t) ∧ t = s.setPkg t.pkg ∧
          (t.output out).configured = true ∧ (t.output out).dev = dev ∧ (t.output out).stream = stream ∧ (t.output out).w = width ∧ (t.output out).h = height ∧
          (t.output out).top = (s.output out).top ∧ ∀ i, i ≠ out → t.output i = s.output i)))

/-- R435, R440, R442 to R446, R480: packets and the peer requests that a live link delivered are checked whole; flits, taken
apart from their 256 bytes, are accepted in order under the key of their KG, answered, replayed as stored; the rollover's
marker; a link that goes down and opens again; a sync flit's exchange and the deadline that it names or acknowledges. The model's
readings: a SEND is acknowledged, and flits carry peer requests (log entries 106 and 107); an ACK flit is not answered (75); PTP
messages set the time (79); the layout of a sync flit and the acknowledgement of a takeover (78). -/
def Obligations.LinkEvents : Prop :=
  -- packets and peer requests
  (∀ (s : State) (dev qp rkey remote asid va len : Nat) (data : Option (List Byte)) (mirror : Option Mirror),
    let d := s.devAt dev
    let answers : Prop := dev < s.mode ∧ s.pkg.released = 15
    let fits : Prop := ∀ bs, data = some bs → bs.length = len
    let long : Prop := data ≠ none ∧ 4096 < len
    let covered (rs : List (Nat × Nat × Bool × Bool)) : Prop := ∃ x ∈ rs, x.1 ≤ va ∧ va + len ≤ x.1 + x.2.1 ∧
      (if data = none then x.2.2.1 else x.2.2.2) = true
    let regions := (d.regions.filter fun x => decide (x.rkey = rkey)).map fun x => (x.va, x.len, x.r, x.w)
    let exported := (d.exports.filter fun x => decide (x.2.remote = remote ∧ x.2.asid = asid)).map fun x =>
      (x.2.va, x.2.len, x.2.r, x.2.w)
    (s.msg = .roceRequestPacket dev qp rkey va len data →
      (¬answers → exec .roceRequestPacket s = .next s) ∧
      (answers → 64 / s.mode ≤ qp ∨ long ∨ ¬fits ∨ ¬covered regions →
        exec .roceRequestPacket s = .next (s.send (.roce dev qp false []))) ∧
      (answers → qp < 64 / s.mode → ¬long → fits → covered regions →
        ∃ t l, exec .roceRequestPacket s = .next t ∧ t.outbox = s.outbox ++ l ∧ l ≠ [] ∧
          ∀ m ∈ l, ∃ ok bs, m = .roce dev qp ok bs ∧ bs.length ≤ 4096)) ∧
    (∀ bs, s.msg = .roceSend dev qp bs →
      (¬answers → exec .roceRequestPacket s = .next s) ∧
      (answers → exec .roceRequestPacket s =
        .next (s.send (.roce dev qp (decide (qp < 64 / s.mode ∧ bs.length ≤ 4096)) [])))) ∧
    (let r : PeerReq := { dev := dev, remote := remote, asid := asid, va := va, len := len, data := data, mirror := mirror }
     s.msg = .peerRequest r →
      (s.deliveredOn r = none → exec .peerRequest s = .next s) ∧
      ∀ port, s.deliveredOn r = some port →
        let l := s.linkAt port
        let x := s.setLink port { l with got := l.got.erase r }
        (¬fits ∨ ¬covered exported → exec .peerRequest s = .next (x.send (.peer dev false []))) ∧
        (fits → covered exported →
          ∃ t ok bs, exec .peerRequest s = .next t ∧ t.outbox = s.outbox ++ [.peer dev ok bs]) ∧
        -- the bytes of a request that an entry covers move all together, or none
        (fits → covered exported → s.clean →
          let y := x.portPlaces dev asid va len data.isSome
          (y.1 = none → exec .peerRequest s = .next (y.2.send (.peer dev false []))) ∧
          ∀ l, y.1 = some l →
            (data = none → ∃ t, exec .peerRequest s = .next (t.send (.peer dev true
                (l.flatMap fun p => bytesOf p.2 (y.2.readAt noCore (peerView remote) p.1 p.2)))) ∧ y.2.onlyAt t [] ∧
              ∀ m, mirror = some m → t.pkg.mirrors.head? = some m) ∧
            ∀ bs, data = some bs → ∃ t, exec .peerRequest s = .next (t.send (.peer dev true [])) ∧
              (∀ m, mirror = some m → t.pkg.mirrors.head? = some m) ∧
              ((∀ p ∈ l, kplace p.1 < 2 ^ 33 ∧ y.2.migOf (kplace p.1) = none) →
                y.2.onlyAt t (l.map fun p => (kplace p.1, p.2)) ∧
                ∀ a, l = [(a, len)] → t.rdBytes (kplace a) len = bs))) ∧
    -- the bytes move all together, or none
    (∀ x ∈ d.regions, x.rkey = rkey → (∀ y ∈ d.regions, y.rkey = rkey → y = x) → x.va ≤ va → va + len ≤ x.va + x.len →
      s.msg = .roceRequestPacket dev qp rkey va len data → answers → qp < 64 / s.mode → ¬long → fits → s.clean →
      (if data = none then x.r else x.w) = true →
      let y := s.portPlaces dev x.asid va len data.isSome
      (y.1 = none → exec .roceRequestPacket s = .next (y.2.send (.roce dev qp false []))) ∧
      ∀ a, len ≤ 8 → va % 8 + len ≤ 8 → 0 < len → y.1 = some [(a, len)] → kplace a < 2 ^ 33 → y.2.migOf (kplace a) = none →
        (data = none → ∃ t, exec .roceRequestPacket s =
          .next (t.send (.roce dev qp true (bytesOf len (y.2.readAt noCore hostView a len)))) ∧ y.2.onlyAt t []) ∧
        ∀ bs, data = some bs → ∃ t, exec .roceRequestPacket s = .next (t.send (.roce dev qp true [])) ∧
          y.2.onlyAt t [(kplace a, len)] ∧ t.rdBytes (kplace a) len = bs)) ∧
  -- flits
  (∀ (s : State) (port typ : Nat) (bs : List Byte) (carries : Option PeerReq) (i : Instr),
    let l := s.linkAt port
    let seq := ofBytes (bs.take 3)
    let byte3 := ofBytes ((bs.drop 3).take 1)
    let ack := ofBytes ((bs.drop 4).take 3)
    let nak := (ofBytes ((bs.drop 7).take 1)).testBit 0
    let d := (seq + 2 ^ 24 - l.rxNext % 2 ^ 24) % 2 ^ 24
    let key : Option Nat := if byte3 / 16 % 2 = l.rxKg then some l.rxKey else l.rxOld
    let good : Prop := ∃ k, key = some k ∧
      ofBytes ((bs.drop 240).take 16) = Config.gcmTag k l.rxNext (ofBytes (bs.take 8)) (ofBytes ((bs.drop 8).take 232)) % 2 ^ 128
    let taken := (s.setLink port { l with rxNext := l.rxNext + 1 }).takeAck port ack nak
    (i = .flitIdle ∧ s.msg = .flitIdle port bs ∧ typ = 0) ∨ (i = .flitData ∧ s.msg = .flitData port bs carries ∧ typ = 1) ∨
        (i = .flitAck ∧ s.msg = .flitAck port bs ∧ typ = 2) ∨
        (i = .flitSync ∧ (∃ time m k a, s.msg = .flitSync port bs time m k a) ∧ typ = 3) ∨
        (i = .flitMarker ∧ s.msg = .flitMarker port bs ∧ typ = 4) →
      (l.up = false ∨ byte3 % 16 ≠ typ ∨ bs.length ≠ 256 → exec i s = .next s) ∧
      (l.up = true → byte3 % 16 = typ → bs.length = 256 →
        ((0 < d ∧ d < 2 ^ 23) ∨ (d = 0 ∧ ¬good) → exec i s = .next (s.answerFlit port true)) ∧
        (2 ^ 23 ≤ d → exec i s = .next (s.answerFlit port false)) ∧
        (d = 0 → good →
          (typ = 0 → exec i s = .next (taken.answerFlit port false)) ∧
          (typ = 1 → exec i s = .next ((taken.setLink port
            { taken.linkAt port with got := (taken.linkAt port).got ++ carries.toList }).answerFlit port false)) ∧
          (typ = 2 → exec i s = .next taken) ∧
          (typ = 4 → exec i s = .next ((taken.setLink port { taken.linkAt port with rxOld := none }).answerFlit port false)) ∧
          -- an exchange; a takeover deadline that the member covered names is adopted and acknowledged; the buddy's
          -- acknowledgement of the one named on this port is taken
          (typ = 3 → ∀ time m take ack, s.msg = .flitSync port bs time m take ack →
            let x := s.timer
            let off : Int := (x.now : Int) - (time : Int)
            let n := if -80 ≤ off ∧ off ≤ 80 then x.good + 1 else 0
            let met : Timer := if x.enabled = true then
                { x with offset := off, good := n, locked := x.locked || decide (16 ≤ n), lastSync := x.now
                         heard := x.heard.ins m x.now }
              else x
            ∃ T : Timer, T = { met with takeover := T.takeover, namedAck := T.namedAck } ∧
              (∀ k, take = some k → x.covering = some m → x.k + 1 ≤ k → T.takeover = some (m, k) ∧
                exec i s = .next (((taken.setTimer T).answerFlit port false).sealFlit port 3 false (T.syncPayload (some k)))) ∧
              (¬(x.covering = some m ∧ ∃ k, take = some k ∧ x.k + 1 ≤ k) → T.takeover = x.takeover ∧
                exec i s = .next ((taken.setTimer T).answerFlit port false)) ∧
              (T.namedAck = true ↔ x.namedAck = true ∨
                ∃ k, ack = some k ∧ x.named = some k ∧ m = (x.lock.extractLsb' 16 5).toNat ∧ x.k + 1 ≤ k ∧ port ∈ x.namedBy))))) ∧
  (∀ (s : State) (port : Nat) (bs : List Byte), s.msg = .flitOtherType port bs → exec .flitOtherType s = .next s) ∧
  -- what an answer seals, and what an acknowledgement frees
  (∀ (s : State) (port : Nat) (nak : Bool),
    let l := s.linkAt port
    let t := s.answerFlit port nak
    let worn : Prop := 2 ^ 32 - 1 ≤ l.txNext - l.txFrom
    let rolls : Prop := l.drainTo = none ∧ l.marker = none
    (l.up = false ∨ 4096 ≤ l.replay.length ∨ (worn ∧ ¬rolls) → t = s) ∧
    (l.up = true → l.replay.length < 4096 → ¬worn → ∃ (f : Flit) (h : List Byte), f.num = l.txNext ∧ f.typ = 2 ∧
      f.kg = l.txKg ∧ f.nak = nak ∧ f.ackseq = (l.rxNext + 2 ^ 24 - 1) % 2 ^ 24 ∧ h.length = 8 ∧ f.bytes.length = 256 ∧
      t.outbox = s.outbox ++ [.delwell port 0x89D2 h [f.bytes]] ∧
      t.linkAt port = { l with txNext := l.txNext + 1, replay := l.replay ++ [f] }) ∧
    (l.up = true → l.replay.length < 4096 → worn → rolls →
      (t.linkAt port).txKg = 1 - l.txKg ∧ (t.linkAt port).txFrom = l.txNext ∧ (t.linkAt port).txKey = s.tok ∧
      .spdm (port + 1) "KEY_UPDATE" [] ∈ t.outbox)) ∧
  (∀ (s : State) (port ack : Nat) (nak : Bool),
    let l := s.linkAt port
    let t := s.takeAck port ack nak
    let kept := l.replay.filter fun f => decide (2 ^ 23 ≤ (ack + 2 ^ 24 - f.num % 2 ^ 24) % 2 ^ 24)
    (l.drainTo = none →
      (t.linkAt port).replay = kept ∧ (t.linkAt port).txNext = l.txNext ∧ (t.linkAt port).rxOld = l.rxOld ∧
      (nak = false → t.outbox = s.outbox) ∧
      (nak = true → ∃ fr : List (List Byte × List (List Byte)),
        t.outbox = s.outbox ++ fr.map (fun p => .delwell port 0x89D2 p.1 p.2) ∧
        (fr.flatMap fun p => p.2) = kept.map Flit.bytes ∧
        ∀ p ∈ fr, p.1.length = 8 ∧ 1 ≤ p.2.length ∧ p.2.length ≤ 32)) ∧
    (∀ n, l.drainTo = some n →
      ((∃ f ∈ kept, f.num < n) → (t.linkAt port).drainTo = some n ∧ (t.linkAt port).replay = kept) ∧
      ((∀ f ∈ kept, n ≤ f.num) → kept.length < 4096 → (t.linkAt port).drainTo = none ∧
        (t.linkAt port).marker = some l.txNext ∧ ∃ m : Flit, m.num = l.txNext ∧ m.typ = 4 ∧ m.kg = l.txKg ∧
          (t.linkAt port).replay = kept ++ [m]))) ∧
  -- links and time
  (∀ (s : State) (port dev time : Nat),
    let l := s.linkAt port
    (s.msg = .linkDown port → (l.up = false → exec .linkDown s = .next s) ∧
      (l.up = true → ∃ t, exec .linkDown s = .next t ∧ t.linkAt port = {} ∧ (t.spdmAt (port + 1)).opened = false)) ∧
    (s.msg = .linkReopen port → (l.up = true ∨ 16 ≤ port ∨ s.pkg.released ≠ 15 → exec .linkReopen s = .next s) ∧
      (l.up = false → port < 16 → s.pkg.released = 15 → ∃ t k1 k2, exec .linkReopen s = .next t ∧ k1 ≠ k2 ∧ t.mem = s.mem ∧
        t.linkAt port = { up := true, txKey := k1, rxKey := k2 } ∧ (t.spdmAt (port + 1)).opened = true)) ∧
    (s.msg = .ptpMessage dev time → exec .ptpMessage s =
      .next (if dev < s.mode ∧ s.pkg.released = 15 then
        (s.setDev dev { s.devAt dev with ptp := time }).setTimer { s.timer with now := time } else s)))

/-- R472, R475 to R479: sync flits and the takeover deadline they name; LOCKED lost; a member lost, whose collectives end; at a
deadline the transmissions of the last period end and one frame of every configured output begins, the newest or a substitute,
and the RETIRED words; a buddy's frames for the member that it covers, of its newest mirror or with colours of 0; what the
reprojection makes of a frame. The model's choices: a replacement's outputs wait for its takeover (log entry 78), as do the
layout of a sync flit and the stream of a covered output without a mirror; a frame's pixels and what goes out where no frame was
ever sent (77); which links lead to a member (76). -/
def Obligations.FrameEvents : Prop :=
  (∀ s : State, s.msg = .syncFlitSend →
    let T := s.timer
    let late : Prop := T.named = none ∨ (T.namedAck = false ∧ ∃ k, T.named = some k ∧ k ≤ T.k + 1)
    let names : Prop := T.joining ≠ [] ∧ T.locked = true ∧ late
    (T.enabled = false → exec .syncFlitSend s = .next s) ∧
    (T.enabled = true → ∃ t, exec .syncFlitSend s = .next t ∧ t.mem = s.mem ∧
      (names → t.timer.named = some (T.k + 4) ∧ t.timer.namedAck = false) ∧
      (¬names → t.timer.named = T.named ∧ t.timer.namedAck = T.namedAck) ∧
      ∀ port < 16, let l := s.linkAt port
        (l.up = false → t.linkAt port = l) ∧
        (l.up = true → T.joining ≠ [] → t.timer.named ≠ none → t.timer.namedAck = false → port ∈ t.timer.namedBy) ∧
        (l.up = true → l.replay.length < 4096 → l.worn = false → ∃ f : Flit, f.num = l.txNext ∧ f.typ = 3 ∧ f.kg = l.txKg ∧
          t.linkAt port = { l with txNext := l.txNext + 1, replay := l.replay ++ [f] }))) ∧
  (∀ s : State, s.msg = .lockLoss →
    let T := s.timer
    -- the bound in units of 1/100,000 ns: |OFFSET|, and 1 ns for each 100 µs since
    let lost : Prop := T.locked = true ∧ 100 * 100000 < T.offset.natAbs * 100000 + (T.now - T.lastSync)
    (¬lost → exec .lockLoss s = .next s) ∧
    (lost → exec .lockLoss s = .next (s.setTimer { T with locked := false, good := 0 }))) ∧
  (∀ (s : State) (member : Nat), s.msg = .memberLost member →
    let T := s.timer
    let silent : Prop := T.enabled = true ∧ ∃ p ∈ T.heard, p.1 = member ∧ p.2 + 2 * T.period ≤ T.now
    let cut : Prop := Config.memberPorts member ≠ [] ∧ ∀ n ∈ Config.memberPorts member, (s.linkAt n).up = false
    (¬(silent ∨ cut) → exec .memberLost s = .next s) ∧
    (silent ∨ cut → ∃ t, exec .memberLost s = .next t ∧ t.mem = s.mem ∧ t.groups = s.groups ∧
      (t.timer = if T.lock.getLsbD 8 = true ∧ T.lock.getLsbD 15 = true ∧ (T.lock.extractLsb' 10 5).toNat = member
        then { T with heard := T.heard.del member, covering := some member, takeover := none }
        else { T with heard := T.heard.del member }) ∧
      ((s.colls.map fun c => c.tok).Nodup → ∀ c ∈ s.colls, c.result = none → ∀ g, s.gobj c.dev c.obj = some g →
        (∃ r ∈ c.needs g, ∃ e, g.members[r]? = some e ∧ 4 ≤ e.dev ∧ Config.memberOf e.dev = member) →
        { c with result := some (3, []) } ∈ t.colls))) ∧
  -- a deadline
  (∀ (s : State) (o : Nat), s.msg = .frameDeadline → o < 8 →
    let T := s.timer
    let k := T.k
    let x := s.output o
    let me := (T.lock.extractLsb' 24 5).toNat
    let tookOver : Prop := ∃ n, T.named = some n ∧ T.namedAck = true ∧ n ≤ k
    let waits : Prop := T.enabled = true ∧ x.dev ∈ T.joining ∧ ¬tookOver
    let fault (dev : Nat) : Prop := (∃ p ∈ s.ctxs, p.1 / 256 = dev ∧ p.2.halted = true) ∨ (s.devAt dev).ckpt ≠ none ∨
      s.pkg.released.getLsbD 2 = false ∨ s.pkg.engineFault = true
    let top (f : Frame) : Prop := f ∈ x.posted ∧ ∀ g ∈ x.posted, g ≠ f → g.seq < f.seq
    let quiet : Prop := ∀ i < 8, (s.output i).sending = none
    let alone : Prop := s.still ∧ s.parked = [] ∧ ∀ i < 8, i ≠ o → (s.output i).configured = false
    let word (f : Frame) : Nat := kplace (f.desc + 48)
    let noLevel (f : Frame) : Prop := ∀ p ∈ s.levels, s.lvAt p.1 p.2 / 8 ≠ word f / 8
    let starts (f : Frame) (sub : Bool) (age : Nat) : Option Sending :=
      some { out := o, k := k, member := me, stream := x.stream, frame := f, sub := sub, age := age }
    ∃ t, exec .frameDeadline s = .next t ∧
      -- the timer goes on; a written period takes effect at the second deadline after the write
      (T.nextPeriod = none → T.nextEpoch = none → t.timer.k = k + 1 ∧ t.timer.period = T.period ∧ t.timer.epoch = T.epoch) ∧
      (∀ v, T.nextPeriod = some (v, 2) → T.nextEpoch = none → t.timer.period = T.period ∧ t.timer.nextPeriod = some (v, 1)) ∧
      (∀ v, T.nextPeriod = some (v, 1) → T.nextEpoch = none → t.timer.period = v ∧ t.timer.nextPeriod = none ∧
        (v ≠ T.period → t.timer.k = (t.timer.now - T.epoch) / v + 1)) ∧
      t.timer.now = max T.now (T.epoch + k * T.period) ∧
      -- the takeover of a replacement
      (T.enabled = true → tookOver → t.timer.joining = [] ∧ t.timer.named = none) ∧
      (¬(T.enabled = true ∧ tookOver) → t.timer.joining = T.joining ∧ t.timer.named = T.named) ∧
      -- what was being sent goes out, and its mirror to the buddy
      (∀ y, x.sending = some y → (∀ i < 8, i ≠ o → (s.output i).sending = none) → s.clean →
        let f := y.frame
        let s0 := s.setOutput o { x with sending := none }
        (s0.frameStalls y = true → .frame y ∈ t.owed) ∧
        (s0.frameStalls y = false → ∃ c z v : List Word, c = (s0.readPlane f f.color f.pitch).1 ∧
          c.length = f.w * f.h ∧ z.length = f.w * f.h ∧ v.length = f.w * f.h ∧
          (y.sub = false → .frame y.out y.k y.member y.stream f.seq false 0 c ∈ t.outbox) ∧
          (y.sub = true → .frame y.out y.k y.member y.stream f.seq true y.age (reproject f.w f.h y.age c z v) ∈ t.outbox) ∧
          (y.sub = false → f.mirror = true → T.enabled = true →
            (∃ n ∈ Config.memberPorts (T.lock.extractLsb' 16 5).toNat, (s.linkAt n).up = true) →
            .mirror (T.lock.extractLsb' 16 5).toNat { member := me, out := y.out, stream := y.stream, w := f.w, h := f.h
                                                      seq := f.seq, k := y.k, color := c, depth := z, motion := v } ∈ t.outbox))) ∧
      -- what begins
      (x.configured = false ∨ waits → t.output o = { x with sending := none }) ∧
      (¬waits → x.configured = true → s.clean →
        (∀ f, top f → ¬fault f.dev →
          t.output o = { x with posted := [], last := some (f, k), sending := starts f false 0 } ∧
          (quiet → alone → x.last = none → ∀ g ∈ x.posted, g ≠ f → noLevel g →
            t.rdN (word g) 8 = 2 ^ 64 - 1 ∧ t.tagFull (word g) = true) ∧
          (quiet → alone → ∀ g kg, x.last = some (g, kg) → x.posted = [f] → kg < 2 ^ 64 → noLevel g →
            s.onlyAt t [(word g, 8)] ∧ t.rdN (word g) 8 = kg ∧ t.tagFull (word g) = true)) ∧
        ((x.posted = [] ∨ ∃ f, top f ∧ fault f.dev) →
          (quiet → alone → t.mem = s.mem) ∧
          (∀ g kg, x.last = some (g, kg) → t.output o = { x with sending := starts g true (min (k - kg) 4) }) ∧
          (x.last = none → t.output o = { x with sending := none } ∧
            ∃ seq a px, .frame o k me x.stream seq true a px ∈ t.outbox ∧ px.length = x.w * x.h))) ∧
      -- what a buddy sends for the member that it covers
      (∀ m, T.covering = some m →
        let ended : Prop := ∃ r n, T.takeover = some (r, n) ∧ n ≤ k
        (ended → t.timer.covering = none ∧ t.timer.takeover = none) ∧
        (¬ended → t.timer.covering = some m ∧
          (∀ r, s.mirrorOf m o = some r → .frame o k m r.stream r.seq true (min (k - r.k) 4)
            (reproject r.w r.h (min (k - r.k) 4) r.color r.depth r.motion) ∈ t.outbox) ∧
          (s.mirrorOf m o = none → ∀ fmt wide addrs ext w h, Config.memberOutput m o = some (fmt, wide, addrs, ext, w, h) →
            .frame o k m { format := videoFormat fmt, wide := wide, addrs := addrs, ext := ext } 0 true 4
              (List.replicate (w * h) 0) ∈ t.outbox)))) ∧
  -- a pixel that nobody has written since the post
  (∀ (s u : State) (f : Frame) (va : Nat) (p : Page),
    s.translate noCore (firstDie s.mode f.dev) f.dev f.asid va false true = (.ok p, u) → u.still → u.past.length ≤ f.start →
    kplace (p.place u.mode f.dev va) < 2 ^ 33 →
    (s.planeWord f va).1 = BitVec.ofNat 32 (u.rdN (kplace (p.place u.mode f.dev va)) 4)) ∧
  -- where a pixel moves, and which one a target takes
  (∀ (i age : Nat) (d : FpNum),
    (d.isFin = false → movedTo i age d = none) ∧
    (d.isFin = true → ∃ v : Int, movedTo i age d = some v ∧ |(v : ℚ) - ((i : ℚ) + age * d.real)| ≤ 1 / 2 ∧
      (|(v : ℚ) - ((i : ℚ) + age * d.real)| = 1 / 2 → v % 2 = 0))) ∧
  ∀ (w h age t : Nat) (color depth motion : List Word), color.length = w * h → t < w * h →
    let z (i : Nat) : FpNum := fp32.value (depth.getD i 0).toNat
    let at' (i : Nat) (x y : Int) : Prop := movedTo (i % w) age (motionOf (motion.getD i 0)).1 = some x ∧
      movedTo (i / w) age (motionOf (motion.getD i 0)).2 = some y
    let lands (i : Nat) : Prop := i < w * h ∧ at' i ((t % w : Nat) : Int) ((t / w : Nat) : Int)
    (∀ i, lands i → (z i).lt (.inf false) = true →
      (∀ j, lands j → (j < i → (z i).lt (z j) = true ∨ (z j).lt (.inf false) = false) ∧ (i < j → (z j).lt (z i) = false)) →
      (reproject w h age color depth motion)[t]? = color[i]?) ∧
    ((∀ i, lands i → (z i).lt (.inf false) = false) → (reproject w h age color depth motion)[t]? = color[t]?)

/-! ## Words, steps and the whole machine -/

/-- Words written out in the spec (R73, R77, R84, R152, R156, R269, R316, R318, R331, R357, R413 to R418, R430, R431, R474)
decode to the instructions that the spec gives them for. -/
def Obligations.DecodeWords : Prop :=
  let dec (ws : List Word) (i : Instr) : Prop := decode ws = some (i, [])
  dec [0x02000000] .nop ∧ dec [0x0C000000] .exit ∧ dec [0x05600005] (.br 11 0 5) ∧ dec [0x047FFFF8] (.br 3 1 0xFFFF8) ∧
  dec [0x07EFFFFE] (.call 15 0 0xFFFFE) ∧ dec [0x08014000] (.jr 5) ∧ dec [0x08100000] .ret ∧ dec [0x0A014000] (.jf 5 0) ∧
  dec [0x720201D5] (.shfx 0 2 1 0xD5) ∧ dec [0x76830006] (.movsRead 0 0x83 6) ∧ dec [0x7600FF86] (.movsWrite 0xFF 6) ∧
  dec [0x80088A02, 0x04035200] (.ld 8 0x8A 2 4 0 3 1 2 2 0) ∧ dec [0xA1300000] (.fenceRel 3) ∧ dec [0xA0C00000] (.fenceAcq 4) ∧
  dec [0xA1C00000] (.fenceAr 4) ∧ dec [0xA4100000] (.waitc 1 0) ∧ dec [0xA4200002] (.waitc 2 2) ∧ dec [0xA6000000] .drain ∧
  dec [0xB0010000] (.cpyLin 4) ∧ dec [0xB0810000] (.cpyRedAdd 4) ∧ dec [0xB2010009] (.cfetch 4 0 9) ∧
  dec [0xB4020C22] (.collAred 8 12 2 0 2) ∧ dec [0xB6010500] (.cntDecl 4 5) ∧ dec [0xB6110005] (.cntTrig 4 5) ∧
  dec [0xD2008610] (.rayTrace 2 6 16) ∧ dec [0xE8000003] (.xregAcq 3) ∧ dec [0xF0520002] (.sysSegw 8 2) ∧
  dec [0xF0610008] (.sysCsrr 4 8) ∧ dec [0xF0718020] (.sysCsrw 6 0x20) ∧ dec [0xBA020C00] (.presentPost 8 12)

/-- Decode of encode is the instruction, whatever follows it, with every operand at every value that its fields admit; an
instruction has one or two words; a row without a word has none. -/
def Obligations.DecodeOfEncode : Prop :=
  ∀ i : Instr, (encode i).length ≤ 2 ∧ ∀ rest, encode i ≠ [] → decode (encode i ++ rest) = some (i, rest)

/-- A step runs the instruction that the next words of the chosen agent's clause decode to, or the fetch of its
next clause, or the row that a message names; around it stand only the choice, what follows at the same instant, and the
passing of time. -/
def Obligations.StepRunsDecoded : Prop :=
  ∀ (s : State) (x : Arrived) (rest : List Arrived), s.chosen = some (x, rest) →
    let b := s.begin x rest
    let ends (i : Instr) : Prop :=
      (∀ t, exec i b = .next t → step s = .next (t.finishStep b x.msg (decide (i = .clauseFetch)))) ∧
      (∀ f, exec i b = .fault f → step s = .fault f) ∧ ∀ r, exec i b = .refused r → step s = .refused r
    b.mem = s.mem ∧ b.groups = s.groups ∧ b.cores = s.cores ∧ b.msg = x.msg ∧ b.inbox = rest ∧
    (s.admits x = false → step s = .next b.idleStep) ∧
    (s.admits x = true →
      (∀ a, x.msg = .agent a → b.cur = a ∧
        (b.fetches a (b.grpOf a) = true → ends .clauseFetch) ∧
        (∀ c i tail, b.fetches a (b.grpOf a) = false → (b.grpOf a).clause = some c →
          decode (c.words.drop c.wi) = some (i, tail) → ends i)) ∧
      ∀ i, (∀ a, x.msg ≠ .agent a) → x.msg.instr = some i → ends i)

/-- What every step that answers a next state leaves: one more step counted, and a higher cycle counter but for a boot and for the
first half of a pair that issues as one instruction (R60, R185); a wait changes nothing but who waits and time. No step refuses:
every row of the table has its meaning. A step may fault where an instruction has no clause in hand (log entry 91). The model's
choices: how far the cycle counter rises (3), and that one event happens in a step (25). -/
def Obligations.EveryStepGoesOn : Prop :=
  (∀ s t : State, step s = .next t → t.count = s.count + 1 ∧
    (s.cycle < t.cycle ∨ (t.cycle = s.cycle ∧ ∃ a x rest, s.chosen = some (x, rest) ∧ x.msg = .agent a ∧ t.halfway a = true) ∨
      ∃ x images rest, s.chosen = some (x, rest) ∧ (x.msg = .powerOn images ∨ x.msg = .packageReset images))) ∧
  (∀ (s : State) (r : Refusal), step s ≠ .refused r) ∧
  (∀ s : State, s.chosen = none → ∃ t, step s = .next t ∧ t = { s with waits := [], cycle := t.cycle, count := t.count }) ∧
  ∀ (s : State) (a : Nat) (x : Arrived) (rest : List Arrived) (i : Instr), s.chosen = some (x, rest) → x.msg = .agent a →
    let b := s.begin x rest
    b.turnOf a = .run i → exec i b = .next b.blocked →
    ∃ t, step s = .next t ∧ t = { b with waits := a :: s.waits, cycle := t.cycle, count := t.count }

/-- Memory keeps its canonical form at every step. -/
def Obligations.StepKeepsMemoryForm : Prop :=
  ∀ s t : State, Memory.wf s = true → step s = .next t → Memory.wf t = true

/-- R23, R242, R429, R435, R456: what reset leaves: no unit, group or context, no die released, no byte of memory written (each
reads 0 in the model, log entry 1), every tag empty, and every control register at the value of its table; FEAT0 and FEAT1 hold 0
before a negotiation by the model's choice (log entry 22). -/
def Obligations.ResetState : Prop :=
  let r := State.reset
  Memory.wf r = true ∧ (∀ a, r.rdByte a = 0 ∧ r.tagFull a = false) ∧
  r.groups = [] ∧ r.units = [] ∧ r.ctxs = [] ∧ r.pkg.released = 0 ∧ r.pkg.failing = none ∧
  (∀ dev, (r.devAt dev).owner.sess = false) ∧
  ∀ dev asid n, n ∈ csrNumbers →
    r.csr dev asid n = if n = 0 then asid else if n = 0x40 then 1 else if n = 0xA0 then 16666667 else 0
end

