-- ==== Sys2Proof/Laws/Maps.lean ====
section
/-!
SUPPORT. Finite maps: what is read back after a key is set or removed.
-/
namespace Sys2Proof.Machine

/-- What a set key, and any other, reads as. -/
theorem FMap.get_ins {α : Type} (d x : α) (i j : Nat) : ∀ m : FMap α, (m.ins i x).get d j = if j = i then x else m.get d j
  | [] => by simp only [FMap.ins, FMap.get, eq_comm]
  | (k, v) :: t => by
    have later := FMap.get_ins d x i j t
    unfold FMap.ins
    grind [FMap.get]

@[simp] theorem FMap.get_ins_same {α : Type} (d : α) (m : FMap α) (i : Nat) (x : α) : (m.ins i x).get d i = x := by
  simp [FMap.get_ins]

theorem FMap.get_ins_other {α : Type} (d : α) (m : FMap α) (x : α) {i j : Nat} (h : j ≠ i) :
    (m.ins i x).get d j = m.get d j := by simp [FMap.get_ins, h]

/-- Of two settings of a key the later one stays. -/
theorem FMap.ins_ins {α : Type} (i : Nat) (x y : α) : ∀ m : FMap α, (m.ins i x).ins i y = m.ins i y
  | [] => by simp [FMap.ins]
  | (k, v) :: t => by
    have later := FMap.ins_ins i x y t
    grind [FMap.ins]

@[simp] theorem FMap.ins_ins_same {α : Type} (m : FMap α) (i : Nat) (x y : α) : (m.ins i x).ins i y = m.ins i y :=
  FMap.ins_ins i x y m

/-- What a removed key, and any other, reads as. -/
theorem FMap.get_del {α : Type} (d : α) (i j : Nat) : ∀ m : FMap α, (m.del i).get d j = if j = i then d else m.get d j
  | [] => by simp [FMap.del, FMap.get]
  | (k, v) :: t => by
    have later := FMap.get_del d i j t
    by_cases ji : j = i <;> by_cases kj : k = j <;> by_cases ki : k = i <;> simp_all [FMap.del, FMap.get]

theorem FMap.get_del_other {α : Type} (d : α) (m : FMap α) {i j : Nat} (h : j ≠ i) : (m.del i).get d j = m.get d j := by
  simp [FMap.get_del, h]

@[simp] theorem FMap.get_del_same {α : Type} (d : α) (m : FMap α) (i : Nat) : (m.del i).get d i = d := by simp [FMap.get_del]

/-- Setting a key lists nothing but it and what was listed. -/
theorem FMap.ins_subset {α : Type} (i : Nat) (x : α) : ∀ m : FMap α, m.ins i x ⊆ (i, x) :: m
  | [] => List.Subset.refl _
  | (k, v) :: t => by
    have later := FMap.ins_subset i x t
    intro p hp
    unfold FMap.ins at hp
    grind

@[simp] theorem FMap.get_put_same {α : Type} [DecidableEq α] (d : α) (m : FMap α) (i : Nat) (x : α) :
    (m.put d i x).get d i = x := by
  unfold FMap.put
  split
  · rename_i h; simp [h]
  · simp

theorem FMap.get_put_other {α : Type} [DecidableEq α] (d e : α) (m : FMap α) (x : α) {i j : Nat} (h : j ≠ i) :
    (m.put e i x).get d j = m.get d j := by
  unfold FMap.put
  split
  · exact FMap.get_del_other d m h
  · exact FMap.get_ins_other d m x h

/-! ## Bytes -/

theorem length_bytesOf : ∀ (n v : Nat), (bytesOf n v).length = n
  | 0, _ => rfl
  | n + 1, v => by simp [bytesOf, length_bytesOf n]

/-- The bytes of a number spell it, up to their width. -/
theorem ofBytes_bytesOf : ∀ (n v : Nat), ofBytes (bytesOf n v) = v % 256 ^ n
  | 0, v => by simp [bytesOf, ofBytes, Nat.mod_one]
  | n + 1, v => by
    rw [bytesOf, ofBytes, ofBytes_bytesOf n, BitVec.toNat_ofNat, pow_succ' 256 n, Nat.mod_mul]
    norm_num

end Sys2Proof.Machine
end

