-- ==== Sys2Proof/Laws/State.lean ====
section
/-!
SUPPORT. What the updates of the state and of a group leave alone: one lemma for each field and update, so that no proof
unfolds a record update; and what is read back.
-/
namespace Sys2Proof.Machine

/-! ### State.setGrpOf -/

@[simp] theorem State.setGrpOf_cur (s : State) (a : Nat) (g : Group) : (s.setGrpOf a g).cur = s.cur := rfl
@[simp] theorem State.setGrpOf_msg (s : State) (a : Nat) (g : Group) : (s.setGrpOf a g).msg = s.msg := rfl
@[simp] theorem State.setGrpOf_inbox (s : State) (a : Nat) (g : Group) : (s.setGrpOf a g).inbox = s.inbox := rfl
@[simp] theorem State.setGrpOf_outbox (s : State) (a : Nat) (g : Group) : (s.setGrpOf a g).outbox = s.outbox := rfl
@[simp] theorem State.setGrpOf_cycle (s : State) (a : Nat) (g : Group) : (s.setGrpOf a g).cycle = s.cycle := rfl
@[simp] theorem State.setGrpOf_waits (s : State) (a : Nat) (g : Group) : (s.setGrpOf a g).waits = s.waits := rfl
@[simp] theorem State.setGrpOf_count (s : State) (a : Nat) (g : Group) : (s.setGrpOf a g).count = s.count := rfl
@[simp] theorem State.setGrpOf_lazy (s : State) (a : Nat) (g : Group) : (s.setGrpOf a g).lazy = s.lazy := rfl
@[simp] theorem State.setGrpOf_tok (s : State) (a : Nat) (g : Group) : (s.setGrpOf a g).tok = s.tok := rfl
@[simp] theorem State.setGrpOf_mem (s : State) (a : Nat) (g : Group) : (s.setGrpOf a g).mem = s.mem := rfl
@[simp] theorem State.setGrpOf_tags (s : State) (a : Nat) (g : Group) : (s.setGrpOf a g).tags = s.tags := rfl
@[simp] theorem State.setGrpOf_crypt (s : State) (a : Nat) (g : Group) : (s.setGrpOf a g).crypt = s.crypt := rfl
@[simp] theorem State.setGrpOf_poison (s : State) (a : Nat) (g : Group) : (s.setGrpOf a g).poison = s.poison := rfl
@[simp] theorem State.setGrpOf_latent (s : State) (a : Nat) (g : Group) : (s.setGrpOf a g).latent = s.latent := rfl
@[simp] theorem State.setGrpOf_crc (s : State) (a : Nat) (g : Group) : (s.setGrpOf a g).crc = s.crc := rfl
@[simp] theorem State.setGrpOf_eccDue (s : State) (a : Nat) (g : Group) : (s.setGrpOf a g).eccDue = s.eccDue := rfl
@[simp] theorem State.setGrpOf_cores (s : State) (a : Nat) (g : Group) : (s.setGrpOf a g).cores = s.cores := rfl
@[simp] theorem State.setGrpOf_units (s : State) (a : Nat) (g : Group) : (s.setGrpOf a g).units = s.units := rfl
@[simp] theorem State.setGrpOf_ctxs (s : State) (a : Nat) (g : Group) : (s.setGrpOf a g).ctxs = s.ctxs := rfl
@[simp] theorem State.setGrpOf_devs (s : State) (a : Nat) (g : Group) : (s.setGrpOf a g).devs = s.devs := rfl
@[simp] theorem State.setGrpOf_dies (s : State) (a : Nat) (g : Group) : (s.setGrpOf a g).dies = s.dies := rfl
@[simp] theorem State.setGrpOf_pkg (s : State) (a : Nat) (g : Group) : (s.setGrpOf a g).pkg = s.pkg := rfl
@[simp] theorem State.setGrpOf_parked (s : State) (a : Nat) (g : Group) : (s.setGrpOf a g).parked = s.parked := rfl
@[simp] theorem State.setGrpOf_sobjQ (s : State) (a : Nat) (g : Group) : (s.setGrpOf a g).sobjQ = s.sobjQ := rfl
@[simp] theorem State.setGrpOf_vis (s : State) (a : Nat) (g : Group) : (s.setGrpOf a g).vis = s.vis := rfl
@[simp] theorem State.setGrpOf_past (s : State) (a : Nat) (g : Group) : (s.setGrpOf a g).past = s.past := rfl
@[simp] theorem State.setGrpOf_since (s : State) (a : Nat) (g : Group) : (s.setGrpOf a g).since = s.since := rfl
@[simp] theorem State.setGrpOf_tlb2 (s : State) (a : Nat) (g : Group) : (s.setGrpOf a g).tlb2 = s.tlb2 := rfl
@[simp] theorem State.setGrpOf_owed (s : State) (a : Nat) (g : Group) : (s.setGrpOf a g).owed = s.owed := rfl
@[simp] theorem State.setGrpOf_stalled (s : State) (a : Nat) (g : Group) : (s.setGrpOf a g).stalled = s.stalled := rfl
@[simp] theorem State.setGrpOf_levels (s : State) (a : Nat) (g : Group) : (s.setGrpOf a g).levels = s.levels := rfl
@[simp] theorem State.setGrpOf_spent (s : State) (a : Nat) (g : Group) : (s.setGrpOf a g).spent = s.spent := rfl
@[simp] theorem State.setGrpOf_vers (s : State) (a : Nat) (g : Group) : (s.setGrpOf a g).vers = s.vers := rfl
@[simp] theorem State.setGrpOf_colls (s : State) (a : Nat) (g : Group) : (s.setGrpOf a g).colls = s.colls := rfl
@[simp] theorem State.setGrpOf_decls (s : State) (a : Nat) (g : Group) : (s.setGrpOf a g).decls = s.decls := rfl

/-! ### State.setGrp -/

@[simp] theorem State.setGrp_cur (s : State) (g : Group) : (s.setGrp g).cur = s.cur := rfl
@[simp] theorem State.setGrp_msg (s : State) (g : Group) : (s.setGrp g).msg = s.msg := rfl
@[simp] theorem State.setGrp_inbox (s : State) (g : Group) : (s.setGrp g).inbox = s.inbox := rfl
@[simp] theorem State.setGrp_outbox (s : State) (g : Group) : (s.setGrp g).outbox = s.outbox := rfl
@[simp] theorem State.setGrp_cycle (s : State) (g : Group) : (s.setGrp g).cycle = s.cycle := rfl
@[simp] theorem State.setGrp_waits (s : State) (g : Group) : (s.setGrp g).waits = s.waits := rfl
@[simp] theorem State.setGrp_count (s : State) (g : Group) : (s.setGrp g).count = s.count := rfl
@[simp] theorem State.setGrp_lazy (s : State) (g : Group) : (s.setGrp g).lazy = s.lazy := rfl
@[simp] theorem State.setGrp_tok (s : State) (g : Group) : (s.setGrp g).tok = s.tok := rfl
@[simp] theorem State.setGrp_mem (s : State) (g : Group) : (s.setGrp g).mem = s.mem := rfl
@[simp] theorem State.setGrp_tags (s : State) (g : Group) : (s.setGrp g).tags = s.tags := rfl
@[simp] theorem State.setGrp_crypt (s : State) (g : Group) : (s.setGrp g).crypt = s.crypt := rfl
@[simp] theorem State.setGrp_poison (s : State) (g : Group) : (s.setGrp g).poison = s.poison := rfl
@[simp] theorem State.setGrp_latent (s : State) (g : Group) : (s.setGrp g).latent = s.latent := rfl
@[simp] theorem State.setGrp_crc (s : State) (g : Group) : (s.setGrp g).crc = s.crc := rfl
@[simp] theorem State.setGrp_eccDue (s : State) (g : Group) : (s.setGrp g).eccDue = s.eccDue := rfl
@[simp] theorem State.setGrp_cores (s : State) (g : Group) : (s.setGrp g).cores = s.cores := rfl
@[simp] theorem State.setGrp_units (s : State) (g : Group) : (s.setGrp g).units = s.units := rfl
@[simp] theorem State.setGrp_ctxs (s : State) (g : Group) : (s.setGrp g).ctxs = s.ctxs := rfl
@[simp] theorem State.setGrp_devs (s : State) (g : Group) : (s.setGrp g).devs = s.devs := rfl
@[simp] theorem State.setGrp_dies (s : State) (g : Group) : (s.setGrp g).dies = s.dies := rfl
@[simp] theorem State.setGrp_pkg (s : State) (g : Group) : (s.setGrp g).pkg = s.pkg := rfl
@[simp] theorem State.setGrp_parked (s : State) (g : Group) : (s.setGrp g).parked = s.parked := rfl
@[simp] theorem State.setGrp_sobjQ (s : State) (g : Group) : (s.setGrp g).sobjQ = s.sobjQ := rfl
@[simp] theorem State.setGrp_vis (s : State) (g : Group) : (s.setGrp g).vis = s.vis := rfl
@[simp] theorem State.setGrp_past (s : State) (g : Group) : (s.setGrp g).past = s.past := rfl
@[simp] theorem State.setGrp_since (s : State) (g : Group) : (s.setGrp g).since = s.since := rfl
@[simp] theorem State.setGrp_tlb2 (s : State) (g : Group) : (s.setGrp g).tlb2 = s.tlb2 := rfl
@[simp] theorem State.setGrp_owed (s : State) (g : Group) : (s.setGrp g).owed = s.owed := rfl
@[simp] theorem State.setGrp_stalled (s : State) (g : Group) : (s.setGrp g).stalled = s.stalled := rfl
@[simp] theorem State.setGrp_levels (s : State) (g : Group) : (s.setGrp g).levels = s.levels := rfl
@[simp] theorem State.setGrp_spent (s : State) (g : Group) : (s.setGrp g).spent = s.spent := rfl
@[simp] theorem State.setGrp_vers (s : State) (g : Group) : (s.setGrp g).vers = s.vers := rfl
@[simp] theorem State.setGrp_colls (s : State) (g : Group) : (s.setGrp g).colls = s.colls := rfl
@[simp] theorem State.setGrp_decls (s : State) (g : Group) : (s.setGrp g).decls = s.decls := rfl

/-! ### State.setCore -/

@[simp] theorem State.setCore_cur (s : State) (c : Nat) (x : Core) : (s.setCore c x).cur = s.cur := rfl
@[simp] theorem State.setCore_msg (s : State) (c : Nat) (x : Core) : (s.setCore c x).msg = s.msg := rfl
@[simp] theorem State.setCore_inbox (s : State) (c : Nat) (x : Core) : (s.setCore c x).inbox = s.inbox := rfl
@[simp] theorem State.setCore_outbox (s : State) (c : Nat) (x : Core) : (s.setCore c x).outbox = s.outbox := rfl
@[simp] theorem State.setCore_cycle (s : State) (c : Nat) (x : Core) : (s.setCore c x).cycle = s.cycle := rfl
@[simp] theorem State.setCore_waits (s : State) (c : Nat) (x : Core) : (s.setCore c x).waits = s.waits := rfl
@[simp] theorem State.setCore_count (s : State) (c : Nat) (x : Core) : (s.setCore c x).count = s.count := rfl
@[simp] theorem State.setCore_lazy (s : State) (c : Nat) (x : Core) : (s.setCore c x).lazy = s.lazy := rfl
@[simp] theorem State.setCore_tok (s : State) (c : Nat) (x : Core) : (s.setCore c x).tok = s.tok := rfl
@[simp] theorem State.setCore_mem (s : State) (c : Nat) (x : Core) : (s.setCore c x).mem = s.mem := rfl
@[simp] theorem State.setCore_tags (s : State) (c : Nat) (x : Core) : (s.setCore c x).tags = s.tags := rfl
@[simp] theorem State.setCore_crypt (s : State) (c : Nat) (x : Core) : (s.setCore c x).crypt = s.crypt := rfl
@[simp] theorem State.setCore_poison (s : State) (c : Nat) (x : Core) : (s.setCore c x).poison = s.poison := rfl
@[simp] theorem State.setCore_latent (s : State) (c : Nat) (x : Core) : (s.setCore c x).latent = s.latent := rfl
@[simp] theorem State.setCore_crc (s : State) (c : Nat) (x : Core) : (s.setCore c x).crc = s.crc := rfl
@[simp] theorem State.setCore_eccDue (s : State) (c : Nat) (x : Core) : (s.setCore c x).eccDue = s.eccDue := rfl
@[simp] theorem State.setCore_groups (s : State) (c : Nat) (x : Core) : (s.setCore c x).groups = s.groups := rfl
@[simp] theorem State.setCore_units (s : State) (c : Nat) (x : Core) : (s.setCore c x).units = s.units := rfl
@[simp] theorem State.setCore_ctxs (s : State) (c : Nat) (x : Core) : (s.setCore c x).ctxs = s.ctxs := rfl
@[simp] theorem State.setCore_devs (s : State) (c : Nat) (x : Core) : (s.setCore c x).devs = s.devs := rfl
@[simp] theorem State.setCore_dies (s : State) (c : Nat) (x : Core) : (s.setCore c x).dies = s.dies := rfl
@[simp] theorem State.setCore_pkg (s : State) (c : Nat) (x : Core) : (s.setCore c x).pkg = s.pkg := rfl
@[simp] theorem State.setCore_parked (s : State) (c : Nat) (x : Core) : (s.setCore c x).parked = s.parked := rfl
@[simp] theorem State.setCore_sobjQ (s : State) (c : Nat) (x : Core) : (s.setCore c x).sobjQ = s.sobjQ := rfl
@[simp] theorem State.setCore_vis (s : State) (c : Nat) (x : Core) : (s.setCore c x).vis = s.vis := rfl
@[simp] theorem State.setCore_past (s : State) (c : Nat) (x : Core) : (s.setCore c x).past = s.past := rfl
@[simp] theorem State.setCore_since (s : State) (c : Nat) (x : Core) : (s.setCore c x).since = s.since := rfl
@[simp] theorem State.setCore_tlb2 (s : State) (c : Nat) (x : Core) : (s.setCore c x).tlb2 = s.tlb2 := rfl
@[simp] theorem State.setCore_owed (s : State) (c : Nat) (x : Core) : (s.setCore c x).owed = s.owed := rfl
@[simp] theorem State.setCore_stalled (s : State) (c : Nat) (x : Core) : (s.setCore c x).stalled = s.stalled := rfl
@[simp] theorem State.setCore_levels (s : State) (c : Nat) (x : Core) : (s.setCore c x).levels = s.levels := rfl
@[simp] theorem State.setCore_spent (s : State) (c : Nat) (x : Core) : (s.setCore c x).spent = s.spent := rfl
@[simp] theorem State.setCore_vers (s : State) (c : Nat) (x : Core) : (s.setCore c x).vers = s.vers := rfl
@[simp] theorem State.setCore_colls (s : State) (c : Nat) (x : Core) : (s.setCore c x).colls = s.colls := rfl
@[simp] theorem State.setCore_decls (s : State) (c : Nat) (x : Core) : (s.setCore c x).decls = s.decls := rfl

/-! ### State.setUnit -/

@[simp] theorem State.setUnit_cur (s : State) (u : Nat) (x : UnitSt) : (s.setUnit u x).cur = s.cur := rfl
@[simp] theorem State.setUnit_msg (s : State) (u : Nat) (x : UnitSt) : (s.setUnit u x).msg = s.msg := rfl
@[simp] theorem State.setUnit_inbox (s : State) (u : Nat) (x : UnitSt) : (s.setUnit u x).inbox = s.inbox := rfl
@[simp] theorem State.setUnit_outbox (s : State) (u : Nat) (x : UnitSt) : (s.setUnit u x).outbox = s.outbox := rfl
@[simp] theorem State.setUnit_cycle (s : State) (u : Nat) (x : UnitSt) : (s.setUnit u x).cycle = s.cycle := rfl
@[simp] theorem State.setUnit_waits (s : State) (u : Nat) (x : UnitSt) : (s.setUnit u x).waits = s.waits := rfl
@[simp] theorem State.setUnit_count (s : State) (u : Nat) (x : UnitSt) : (s.setUnit u x).count = s.count := rfl
@[simp] theorem State.setUnit_lazy (s : State) (u : Nat) (x : UnitSt) : (s.setUnit u x).lazy = s.lazy := rfl
@[simp] theorem State.setUnit_tok (s : State) (u : Nat) (x : UnitSt) : (s.setUnit u x).tok = s.tok := rfl
@[simp] theorem State.setUnit_mem (s : State) (u : Nat) (x : UnitSt) : (s.setUnit u x).mem = s.mem := rfl
@[simp] theorem State.setUnit_tags (s : State) (u : Nat) (x : UnitSt) : (s.setUnit u x).tags = s.tags := rfl
@[simp] theorem State.setUnit_crypt (s : State) (u : Nat) (x : UnitSt) : (s.setUnit u x).crypt = s.crypt := rfl
@[simp] theorem State.setUnit_poison (s : State) (u : Nat) (x : UnitSt) : (s.setUnit u x).poison = s.poison := rfl
@[simp] theorem State.setUnit_latent (s : State) (u : Nat) (x : UnitSt) : (s.setUnit u x).latent = s.latent := rfl
@[simp] theorem State.setUnit_crc (s : State) (u : Nat) (x : UnitSt) : (s.setUnit u x).crc = s.crc := rfl
@[simp] theorem State.setUnit_eccDue (s : State) (u : Nat) (x : UnitSt) : (s.setUnit u x).eccDue = s.eccDue := rfl
@[simp] theorem State.setUnit_groups (s : State) (u : Nat) (x : UnitSt) : (s.setUnit u x).groups = s.groups := rfl
@[simp] theorem State.setUnit_cores (s : State) (u : Nat) (x : UnitSt) : (s.setUnit u x).cores = s.cores := rfl
@[simp] theorem State.setUnit_ctxs (s : State) (u : Nat) (x : UnitSt) : (s.setUnit u x).ctxs = s.ctxs := rfl
@[simp] theorem State.setUnit_devs (s : State) (u : Nat) (x : UnitSt) : (s.setUnit u x).devs = s.devs := rfl
@[simp] theorem State.setUnit_dies (s : State) (u : Nat) (x : UnitSt) : (s.setUnit u x).dies = s.dies := rfl
@[simp] theorem State.setUnit_pkg (s : State) (u : Nat) (x : UnitSt) : (s.setUnit u x).pkg = s.pkg := rfl
@[simp] theorem State.setUnit_parked (s : State) (u : Nat) (x : UnitSt) : (s.setUnit u x).parked = s.parked := rfl
@[simp] theorem State.setUnit_sobjQ (s : State) (u : Nat) (x : UnitSt) : (s.setUnit u x).sobjQ = s.sobjQ := rfl
@[simp] theorem State.setUnit_vis (s : State) (u : Nat) (x : UnitSt) : (s.setUnit u x).vis = s.vis := rfl
@[simp] theorem State.setUnit_past (s : State) (u : Nat) (x : UnitSt) : (s.setUnit u x).past = s.past := rfl
@[simp] theorem State.setUnit_since (s : State) (u : Nat) (x : UnitSt) : (s.setUnit u x).since = s.since := rfl
@[simp] theorem State.setUnit_tlb2 (s : State) (u : Nat) (x : UnitSt) : (s.setUnit u x).tlb2 = s.tlb2 := rfl
@[simp] theorem State.setUnit_owed (s : State) (u : Nat) (x : UnitSt) : (s.setUnit u x).owed = s.owed := rfl
@[simp] theorem State.setUnit_stalled (s : State) (u : Nat) (x : UnitSt) : (s.setUnit u x).stalled = s.stalled := rfl
@[simp] theorem State.setUnit_levels (s : State) (u : Nat) (x : UnitSt) : (s.setUnit u x).levels = s.levels := rfl
@[simp] theorem State.setUnit_spent (s : State) (u : Nat) (x : UnitSt) : (s.setUnit u x).spent = s.spent := rfl
@[simp] theorem State.setUnit_vers (s : State) (u : Nat) (x : UnitSt) : (s.setUnit u x).vers = s.vers := rfl
@[simp] theorem State.setUnit_colls (s : State) (u : Nat) (x : UnitSt) : (s.setUnit u x).colls = s.colls := rfl
@[simp] theorem State.setUnit_decls (s : State) (u : Nat) (x : UnitSt) : (s.setUnit u x).decls = s.decls := rfl

/-! ### State.setDev -/

@[simp] theorem State.setDev_cur (s : State) (d : Nat) (x : Device) : (s.setDev d x).cur = s.cur := rfl
@[simp] theorem State.setDev_msg (s : State) (d : Nat) (x : Device) : (s.setDev d x).msg = s.msg := rfl
@[simp] theorem State.setDev_inbox (s : State) (d : Nat) (x : Device) : (s.setDev d x).inbox = s.inbox := rfl
@[simp] theorem State.setDev_outbox (s : State) (d : Nat) (x : Device) : (s.setDev d x).outbox = s.outbox := rfl
@[simp] theorem State.setDev_cycle (s : State) (d : Nat) (x : Device) : (s.setDev d x).cycle = s.cycle := rfl
@[simp] theorem State.setDev_waits (s : State) (d : Nat) (x : Device) : (s.setDev d x).waits = s.waits := rfl
@[simp] theorem State.setDev_count (s : State) (d : Nat) (x : Device) : (s.setDev d x).count = s.count := rfl
@[simp] theorem State.setDev_lazy (s : State) (d : Nat) (x : Device) : (s.setDev d x).lazy = s.lazy := rfl
@[simp] theorem State.setDev_tok (s : State) (d : Nat) (x : Device) : (s.setDev d x).tok = s.tok := rfl
@[simp] theorem State.setDev_mem (s : State) (d : Nat) (x : Device) : (s.setDev d x).mem = s.mem := rfl
@[simp] theorem State.setDev_tags (s : State) (d : Nat) (x : Device) : (s.setDev d x).tags = s.tags := rfl
@[simp] theorem State.setDev_crypt (s : State) (d : Nat) (x : Device) : (s.setDev d x).crypt = s.crypt := rfl
@[simp] theorem State.setDev_poison (s : State) (d : Nat) (x : Device) : (s.setDev d x).poison = s.poison := rfl
@[simp] theorem State.setDev_latent (s : State) (d : Nat) (x : Device) : (s.setDev d x).latent = s.latent := rfl
@[simp] theorem State.setDev_crc (s : State) (d : Nat) (x : Device) : (s.setDev d x).crc = s.crc := rfl
@[simp] theorem State.setDev_eccDue (s : State) (d : Nat) (x : Device) : (s.setDev d x).eccDue = s.eccDue := rfl
@[simp] theorem State.setDev_groups (s : State) (d : Nat) (x : Device) : (s.setDev d x).groups = s.groups := rfl
@[simp] theorem State.setDev_cores (s : State) (d : Nat) (x : Device) : (s.setDev d x).cores = s.cores := rfl
@[simp] theorem State.setDev_units (s : State) (d : Nat) (x : Device) : (s.setDev d x).units = s.units := rfl
@[simp] theorem State.setDev_ctxs (s : State) (d : Nat) (x : Device) : (s.setDev d x).ctxs = s.ctxs := rfl
@[simp] theorem State.setDev_dies (s : State) (d : Nat) (x : Device) : (s.setDev d x).dies = s.dies := rfl
@[simp] theorem State.setDev_pkg (s : State) (d : Nat) (x : Device) : (s.setDev d x).pkg = s.pkg := rfl
@[simp] theorem State.setDev_parked (s : State) (d : Nat) (x : Device) : (s.setDev d x).parked = s.parked := rfl
@[simp] theorem State.setDev_sobjQ (s : State) (d : Nat) (x : Device) : (s.setDev d x).sobjQ = s.sobjQ := rfl
@[simp] theorem State.setDev_vis (s : State) (d : Nat) (x : Device) : (s.setDev d x).vis = s.vis := rfl
@[simp] theorem State.setDev_past (s : State) (d : Nat) (x : Device) : (s.setDev d x).past = s.past := rfl
@[simp] theorem State.setDev_since (s : State) (d : Nat) (x : Device) : (s.setDev d x).since = s.since := rfl
@[simp] theorem State.setDev_tlb2 (s : State) (d : Nat) (x : Device) : (s.setDev d x).tlb2 = s.tlb2 := rfl
@[simp] theorem State.setDev_owed (s : State) (d : Nat) (x : Device) : (s.setDev d x).owed = s.owed := rfl
@[simp] theorem State.setDev_stalled (s : State) (d : Nat) (x : Device) : (s.setDev d x).stalled = s.stalled := rfl
@[simp] theorem State.setDev_levels (s : State) (d : Nat) (x : Device) : (s.setDev d x).levels = s.levels := rfl
@[simp] theorem State.setDev_spent (s : State) (d : Nat) (x : Device) : (s.setDev d x).spent = s.spent := rfl
@[simp] theorem State.setDev_vers (s : State) (d : Nat) (x : Device) : (s.setDev d x).vers = s.vers := rfl
@[simp] theorem State.setDev_colls (s : State) (d : Nat) (x : Device) : (s.setDev d x).colls = s.colls := rfl
@[simp] theorem State.setDev_decls (s : State) (d : Nat) (x : Device) : (s.setDev d x).decls = s.decls := rfl

/-! ### State.setDie -/

@[simp] theorem State.setDie_cur (s : State) (d : Nat) (x : Die) : (s.setDie d x).cur = s.cur := rfl
@[simp] theorem State.setDie_msg (s : State) (d : Nat) (x : Die) : (s.setDie d x).msg = s.msg := rfl
@[simp] theorem State.setDie_inbox (s : State) (d : Nat) (x : Die) : (s.setDie d x).inbox = s.inbox := rfl
@[simp] theorem State.setDie_outbox (s : State) (d : Nat) (x : Die) : (s.setDie d x).outbox = s.outbox := rfl
@[simp] theorem State.setDie_cycle (s : State) (d : Nat) (x : Die) : (s.setDie d x).cycle = s.cycle := rfl
@[simp] theorem State.setDie_waits (s : State) (d : Nat) (x : Die) : (s.setDie d x).waits = s.waits := rfl
@[simp] theorem State.setDie_count (s : State) (d : Nat) (x : Die) : (s.setDie d x).count = s.count := rfl
@[simp] theorem State.setDie_lazy (s : State) (d : Nat) (x : Die) : (s.setDie d x).lazy = s.lazy := rfl
@[simp] theorem State.setDie_tok (s : State) (d : Nat) (x : Die) : (s.setDie d x).tok = s.tok := rfl
@[simp] theorem State.setDie_mem (s : State) (d : Nat) (x : Die) : (s.setDie d x).mem = s.mem := rfl
@[simp] theorem State.setDie_tags (s : State) (d : Nat) (x : Die) : (s.setDie d x).tags = s.tags := rfl
@[simp] theorem State.setDie_crypt (s : State) (d : Nat) (x : Die) : (s.setDie d x).crypt = s.crypt := rfl
@[simp] theorem State.setDie_poison (s : State) (d : Nat) (x : Die) : (s.setDie d x).poison = s.poison := rfl
@[simp] theorem State.setDie_latent (s : State) (d : Nat) (x : Die) : (s.setDie d x).latent = s.latent := rfl
@[simp] theorem State.setDie_crc (s : State) (d : Nat) (x : Die) : (s.setDie d x).crc = s.crc := rfl
@[simp] theorem State.setDie_eccDue (s : State) (d : Nat) (x : Die) : (s.setDie d x).eccDue = s.eccDue := rfl
@[simp] theorem State.setDie_groups (s : State) (d : Nat) (x : Die) : (s.setDie d x).groups = s.groups := rfl
@[simp] theorem State.setDie_cores (s : State) (d : Nat) (x : Die) : (s.setDie d x).cores = s.cores := rfl
@[simp] theorem State.setDie_units (s : State) (d : Nat) (x : Die) : (s.setDie d x).units = s.units := rfl
@[simp] theorem State.setDie_ctxs (s : State) (d : Nat) (x : Die) : (s.setDie d x).ctxs = s.ctxs := rfl
@[simp] theorem State.setDie_devs (s : State) (d : Nat) (x : Die) : (s.setDie d x).devs = s.devs := rfl
@[simp] theorem State.setDie_pkg (s : State) (d : Nat) (x : Die) : (s.setDie d x).pkg = s.pkg := rfl
@[simp] theorem State.setDie_parked (s : State) (d : Nat) (x : Die) : (s.setDie d x).parked = s.parked := rfl
@[simp] theorem State.setDie_sobjQ (s : State) (d : Nat) (x : Die) : (s.setDie d x).sobjQ = s.sobjQ := rfl
@[simp] theorem State.setDie_vis (s : State) (d : Nat) (x : Die) : (s.setDie d x).vis = s.vis := rfl
@[simp] theorem State.setDie_past (s : State) (d : Nat) (x : Die) : (s.setDie d x).past = s.past := rfl
@[simp] theorem State.setDie_since (s : State) (d : Nat) (x : Die) : (s.setDie d x).since = s.since := rfl
@[simp] theorem State.setDie_tlb2 (s : State) (d : Nat) (x : Die) : (s.setDie d x).tlb2 = s.tlb2 := rfl
@[simp] theorem State.setDie_owed (s : State) (d : Nat) (x : Die) : (s.setDie d x).owed = s.owed := rfl
@[simp] theorem State.setDie_stalled (s : State) (d : Nat) (x : Die) : (s.setDie d x).stalled = s.stalled := rfl
@[simp] theorem State.setDie_levels (s : State) (d : Nat) (x : Die) : (s.setDie d x).levels = s.levels := rfl
@[simp] theorem State.setDie_spent (s : State) (d : Nat) (x : Die) : (s.setDie d x).spent = s.spent := rfl
@[simp] theorem State.setDie_vers (s : State) (d : Nat) (x : Die) : (s.setDie d x).vers = s.vers := rfl
@[simp] theorem State.setDie_colls (s : State) (d : Nat) (x : Die) : (s.setDie d x).colls = s.colls := rfl
@[simp] theorem State.setDie_decls (s : State) (d : Nat) (x : Die) : (s.setDie d x).decls = s.decls := rfl

/-! ### State.setCtx -/

@[simp] theorem State.setCtx_cur (s : State) (d k : Nat) (x : Ctx) : (s.setCtx d k x).cur = s.cur := rfl
@[simp] theorem State.setCtx_msg (s : State) (d k : Nat) (x : Ctx) : (s.setCtx d k x).msg = s.msg := rfl
@[simp] theorem State.setCtx_inbox (s : State) (d k : Nat) (x : Ctx) : (s.setCtx d k x).inbox = s.inbox := rfl
@[simp] theorem State.setCtx_outbox (s : State) (d k : Nat) (x : Ctx) : (s.setCtx d k x).outbox = s.outbox := rfl
@[simp] theorem State.setCtx_cycle (s : State) (d k : Nat) (x : Ctx) : (s.setCtx d k x).cycle = s.cycle := rfl
@[simp] theorem State.setCtx_waits (s : State) (d k : Nat) (x : Ctx) : (s.setCtx d k x).waits = s.waits := rfl
@[simp] theorem State.setCtx_count (s : State) (d k : Nat) (x : Ctx) : (s.setCtx d k x).count = s.count := rfl
@[simp] theorem State.setCtx_lazy (s : State) (d k : Nat) (x : Ctx) : (s.setCtx d k x).lazy = s.lazy := rfl
@[simp] theorem State.setCtx_tok (s : State) (d k : Nat) (x : Ctx) : (s.setCtx d k x).tok = s.tok := rfl
@[simp] theorem State.setCtx_mem (s : State) (d k : Nat) (x : Ctx) : (s.setCtx d k x).mem = s.mem := rfl
@[simp] theorem State.setCtx_tags (s : State) (d k : Nat) (x : Ctx) : (s.setCtx d k x).tags = s.tags := rfl
@[simp] theorem State.setCtx_crypt (s : State) (d k : Nat) (x : Ctx) : (s.setCtx d k x).crypt = s.crypt := rfl
@[simp] theorem State.setCtx_poison (s : State) (d k : Nat) (x : Ctx) : (s.setCtx d k x).poison = s.poison := rfl
@[simp] theorem State.setCtx_latent (s : State) (d k : Nat) (x : Ctx) : (s.setCtx d k x).latent = s.latent := rfl
@[simp] theorem State.setCtx_crc (s : State) (d k : Nat) (x : Ctx) : (s.setCtx d k x).crc = s.crc := rfl
@[simp] theorem State.setCtx_eccDue (s : State) (d k : Nat) (x : Ctx) : (s.setCtx d k x).eccDue = s.eccDue := rfl
@[simp] theorem State.setCtx_groups (s : State) (d k : Nat) (x : Ctx) : (s.setCtx d k x).groups = s.groups := rfl
@[simp] theorem State.setCtx_cores (s : State) (d k : Nat) (x : Ctx) : (s.setCtx d k x).cores = s.cores := rfl
@[simp] theorem State.setCtx_units (s : State) (d k : Nat) (x : Ctx) : (s.setCtx d k x).units = s.units := rfl
@[simp] theorem State.setCtx_devs (s : State) (d k : Nat) (x : Ctx) : (s.setCtx d k x).devs = s.devs := rfl
@[simp] theorem State.setCtx_dies (s : State) (d k : Nat) (x : Ctx) : (s.setCtx d k x).dies = s.dies := rfl
@[simp] theorem State.setCtx_pkg (s : State) (d k : Nat) (x : Ctx) : (s.setCtx d k x).pkg = s.pkg := rfl
@[simp] theorem State.setCtx_parked (s : State) (d k : Nat) (x : Ctx) : (s.setCtx d k x).parked = s.parked := rfl
@[simp] theorem State.setCtx_sobjQ (s : State) (d k : Nat) (x : Ctx) : (s.setCtx d k x).sobjQ = s.sobjQ := rfl
@[simp] theorem State.setCtx_vis (s : State) (d k : Nat) (x : Ctx) : (s.setCtx d k x).vis = s.vis := rfl
@[simp] theorem State.setCtx_past (s : State) (d k : Nat) (x : Ctx) : (s.setCtx d k x).past = s.past := rfl
@[simp] theorem State.setCtx_since (s : State) (d k : Nat) (x : Ctx) : (s.setCtx d k x).since = s.since := rfl
@[simp] theorem State.setCtx_tlb2 (s : State) (d k : Nat) (x : Ctx) : (s.setCtx d k x).tlb2 = s.tlb2 := rfl
@[simp] theorem State.setCtx_owed (s : State) (d k : Nat) (x : Ctx) : (s.setCtx d k x).owed = s.owed := rfl
@[simp] theorem State.setCtx_stalled (s : State) (d k : Nat) (x : Ctx) : (s.setCtx d k x).stalled = s.stalled := rfl
@[simp] theorem State.setCtx_levels (s : State) (d k : Nat) (x : Ctx) : (s.setCtx d k x).levels = s.levels := rfl
@[simp] theorem State.setCtx_spent (s : State) (d k : Nat) (x : Ctx) : (s.setCtx d k x).spent = s.spent := rfl
@[simp] theorem State.setCtx_vers (s : State) (d k : Nat) (x : Ctx) : (s.setCtx d k x).vers = s.vers := rfl
@[simp] theorem State.setCtx_colls (s : State) (d k : Nat) (x : Ctx) : (s.setCtx d k x).colls = s.colls := rfl
@[simp] theorem State.setCtx_decls (s : State) (d k : Nat) (x : Ctx) : (s.setCtx d k x).decls = s.decls := rfl

/-! ### State.setPkg -/

@[simp] theorem State.setPkg_cur (s : State) (p : Pkg) : (s.setPkg p).cur = s.cur := rfl
@[simp] theorem State.setPkg_msg (s : State) (p : Pkg) : (s.setPkg p).msg = s.msg := rfl
@[simp] theorem State.setPkg_inbox (s : State) (p : Pkg) : (s.setPkg p).inbox = s.inbox := rfl
@[simp] theorem State.setPkg_outbox (s : State) (p : Pkg) : (s.setPkg p).outbox = s.outbox := rfl
@[simp] theorem State.setPkg_cycle (s : State) (p : Pkg) : (s.setPkg p).cycle = s.cycle := rfl
@[simp] theorem State.setPkg_waits (s : State) (p : Pkg) : (s.setPkg p).waits = s.waits := rfl
@[simp] theorem State.setPkg_count (s : State) (p : Pkg) : (s.setPkg p).count = s.count := rfl
@[simp] theorem State.setPkg_lazy (s : State) (p : Pkg) : (s.setPkg p).lazy = s.lazy := rfl
@[simp] theorem State.setPkg_tok (s : State) (p : Pkg) : (s.setPkg p).tok = s.tok := rfl
@[simp] theorem State.setPkg_mem (s : State) (p : Pkg) : (s.setPkg p).mem = s.mem := rfl
@[simp] theorem State.setPkg_tags (s : State) (p : Pkg) : (s.setPkg p).tags = s.tags := rfl
@[simp] theorem State.setPkg_crypt (s : State) (p : Pkg) : (s.setPkg p).crypt = s.crypt := rfl
@[simp] theorem State.setPkg_poison (s : State) (p : Pkg) : (s.setPkg p).poison = s.poison := rfl
@[simp] theorem State.setPkg_latent (s : State) (p : Pkg) : (s.setPkg p).latent = s.latent := rfl
@[simp] theorem State.setPkg_crc (s : State) (p : Pkg) : (s.setPkg p).crc = s.crc := rfl
@[simp] theorem State.setPkg_eccDue (s : State) (p : Pkg) : (s.setPkg p).eccDue = s.eccDue := rfl
@[simp] theorem State.setPkg_groups (s : State) (p : Pkg) : (s.setPkg p).groups = s.groups := rfl
@[simp] theorem State.setPkg_cores (s : State) (p : Pkg) : (s.setPkg p).cores = s.cores := rfl
@[simp] theorem State.setPkg_units (s : State) (p : Pkg) : (s.setPkg p).units = s.units := rfl
@[simp] theorem State.setPkg_ctxs (s : State) (p : Pkg) : (s.setPkg p).ctxs = s.ctxs := rfl
@[simp] theorem State.setPkg_devs (s : State) (p : Pkg) : (s.setPkg p).devs = s.devs := rfl
@[simp] theorem State.setPkg_dies (s : State) (p : Pkg) : (s.setPkg p).dies = s.dies := rfl
@[simp] theorem State.setPkg_parked (s : State) (p : Pkg) : (s.setPkg p).parked = s.parked := rfl
@[simp] theorem State.setPkg_sobjQ (s : State) (p : Pkg) : (s.setPkg p).sobjQ = s.sobjQ := rfl
@[simp] theorem State.setPkg_vis (s : State) (p : Pkg) : (s.setPkg p).vis = s.vis := rfl
@[simp] theorem State.setPkg_past (s : State) (p : Pkg) : (s.setPkg p).past = s.past := rfl
@[simp] theorem State.setPkg_since (s : State) (p : Pkg) : (s.setPkg p).since = s.since := rfl
@[simp] theorem State.setPkg_tlb2 (s : State) (p : Pkg) : (s.setPkg p).tlb2 = s.tlb2 := rfl
@[simp] theorem State.setPkg_owed (s : State) (p : Pkg) : (s.setPkg p).owed = s.owed := rfl
@[simp] theorem State.setPkg_stalled (s : State) (p : Pkg) : (s.setPkg p).stalled = s.stalled := rfl
@[simp] theorem State.setPkg_levels (s : State) (p : Pkg) : (s.setPkg p).levels = s.levels := rfl
@[simp] theorem State.setPkg_spent (s : State) (p : Pkg) : (s.setPkg p).spent = s.spent := rfl
@[simp] theorem State.setPkg_vers (s : State) (p : Pkg) : (s.setPkg p).vers = s.vers := rfl
@[simp] theorem State.setPkg_colls (s : State) (p : Pkg) : (s.setPkg p).colls = s.colls := rfl
@[simp] theorem State.setPkg_decls (s : State) (p : Pkg) : (s.setPkg p).decls = s.decls := rfl

/-! ### State.send -/

@[simp] theorem State.send_cur (s : State) (m : OutMsg) : (s.send m).cur = s.cur := rfl
@[simp] theorem State.send_msg (s : State) (m : OutMsg) : (s.send m).msg = s.msg := rfl
@[simp] theorem State.send_inbox (s : State) (m : OutMsg) : (s.send m).inbox = s.inbox := rfl
@[simp] theorem State.send_cycle (s : State) (m : OutMsg) : (s.send m).cycle = s.cycle := rfl
@[simp] theorem State.send_waits (s : State) (m : OutMsg) : (s.send m).waits = s.waits := rfl
@[simp] theorem State.send_count (s : State) (m : OutMsg) : (s.send m).count = s.count := rfl
@[simp] theorem State.send_lazy (s : State) (m : OutMsg) : (s.send m).lazy = s.lazy := rfl
@[simp] theorem State.send_tok (s : State) (m : OutMsg) : (s.send m).tok = s.tok := rfl
@[simp] theorem State.send_mem (s : State) (m : OutMsg) : (s.send m).mem = s.mem := rfl
@[simp] theorem State.send_tags (s : State) (m : OutMsg) : (s.send m).tags = s.tags := rfl
@[simp] theorem State.send_crypt (s : State) (m : OutMsg) : (s.send m).crypt = s.crypt := rfl
@[simp] theorem State.send_poison (s : State) (m : OutMsg) : (s.send m).poison = s.poison := rfl
@[simp] theorem State.send_latent (s : State) (m : OutMsg) : (s.send m).latent = s.latent := rfl
@[simp] theorem State.send_crc (s : State) (m : OutMsg) : (s.send m).crc = s.crc := rfl
@[simp] theorem State.send_eccDue (s : State) (m : OutMsg) : (s.send m).eccDue = s.eccDue := rfl
@[simp] theorem State.send_groups (s : State) (m : OutMsg) : (s.send m).groups = s.groups := rfl
@[simp] theorem State.send_cores (s : State) (m : OutMsg) : (s.send m).cores = s.cores := rfl
@[simp] theorem State.send_units (s : State) (m : OutMsg) : (s.send m).units = s.units := rfl
@[simp] theorem State.send_ctxs (s : State) (m : OutMsg) : (s.send m).ctxs = s.ctxs := rfl
@[simp] theorem State.send_devs (s : State) (m : OutMsg) : (s.send m).devs = s.devs := rfl
@[simp] theorem State.send_dies (s : State) (m : OutMsg) : (s.send m).dies = s.dies := rfl
@[simp] theorem State.send_pkg (s : State) (m : OutMsg) : (s.send m).pkg = s.pkg := rfl
@[simp] theorem State.send_parked (s : State) (m : OutMsg) : (s.send m).parked = s.parked := rfl
@[simp] theorem State.send_sobjQ (s : State) (m : OutMsg) : (s.send m).sobjQ = s.sobjQ := rfl
@[simp] theorem State.send_vis (s : State) (m : OutMsg) : (s.send m).vis = s.vis := rfl
@[simp] theorem State.send_past (s : State) (m : OutMsg) : (s.send m).past = s.past := rfl
@[simp] theorem State.send_since (s : State) (m : OutMsg) : (s.send m).since = s.since := rfl
@[simp] theorem State.send_tlb2 (s : State) (m : OutMsg) : (s.send m).tlb2 = s.tlb2 := rfl
@[simp] theorem State.send_owed (s : State) (m : OutMsg) : (s.send m).owed = s.owed := rfl
@[simp] theorem State.send_stalled (s : State) (m : OutMsg) : (s.send m).stalled = s.stalled := rfl
@[simp] theorem State.send_levels (s : State) (m : OutMsg) : (s.send m).levels = s.levels := rfl
@[simp] theorem State.send_spent (s : State) (m : OutMsg) : (s.send m).spent = s.spent := rfl
@[simp] theorem State.send_vers (s : State) (m : OutMsg) : (s.send m).vers = s.vers := rfl
@[simp] theorem State.send_colls (s : State) (m : OutMsg) : (s.send m).colls = s.colls := rfl
@[simp] theorem State.send_decls (s : State) (m : OutMsg) : (s.send m).decls = s.decls := rfl

/-! ### State.wrByte -/

@[simp] theorem State.wrByte_cur (s : State) (a : Nat) (b : Byte) : (s.wrByte a b).cur = s.cur := rfl
@[simp] theorem State.wrByte_msg (s : State) (a : Nat) (b : Byte) : (s.wrByte a b).msg = s.msg := rfl
@[simp] theorem State.wrByte_inbox (s : State) (a : Nat) (b : Byte) : (s.wrByte a b).inbox = s.inbox := rfl
@[simp] theorem State.wrByte_outbox (s : State) (a : Nat) (b : Byte) : (s.wrByte a b).outbox = s.outbox := rfl
@[simp] theorem State.wrByte_cycle (s : State) (a : Nat) (b : Byte) : (s.wrByte a b).cycle = s.cycle := rfl
@[simp] theorem State.wrByte_waits (s : State) (a : Nat) (b : Byte) : (s.wrByte a b).waits = s.waits := rfl
@[simp] theorem State.wrByte_count (s : State) (a : Nat) (b : Byte) : (s.wrByte a b).count = s.count := rfl
@[simp] theorem State.wrByte_lazy (s : State) (a : Nat) (b : Byte) : (s.wrByte a b).lazy = s.lazy := rfl
@[simp] theorem State.wrByte_tok (s : State) (a : Nat) (b : Byte) : (s.wrByte a b).tok = s.tok := rfl
@[simp] theorem State.wrByte_tags (s : State) (a : Nat) (b : Byte) : (s.wrByte a b).tags = s.tags := rfl
@[simp] theorem State.wrByte_crypt (s : State) (a : Nat) (b : Byte) : (s.wrByte a b).crypt = s.crypt := rfl
@[simp] theorem State.wrByte_poison (s : State) (a : Nat) (b : Byte) : (s.wrByte a b).poison = s.poison := rfl
@[simp] theorem State.wrByte_latent (s : State) (a : Nat) (b : Byte) : (s.wrByte a b).latent = s.latent := rfl
@[simp] theorem State.wrByte_crc (s : State) (a : Nat) (b : Byte) : (s.wrByte a b).crc = s.crc := rfl
@[simp] theorem State.wrByte_eccDue (s : State) (a : Nat) (b : Byte) : (s.wrByte a b).eccDue = s.eccDue := rfl
@[simp] theorem State.wrByte_groups (s : State) (a : Nat) (b : Byte) : (s.wrByte a b).groups = s.groups := rfl
@[simp] theorem State.wrByte_cores (s : State) (a : Nat) (b : Byte) : (s.wrByte a b).cores = s.cores := rfl
@[simp] theorem State.wrByte_units (s : State) (a : Nat) (b : Byte) : (s.wrByte a b).units = s.units := rfl
@[simp] theorem State.wrByte_ctxs (s : State) (a : Nat) (b : Byte) : (s.wrByte a b).ctxs = s.ctxs := rfl
@[simp] theorem State.wrByte_devs (s : State) (a : Nat) (b : Byte) : (s.wrByte a b).devs = s.devs := rfl
@[simp] theorem State.wrByte_dies (s : State) (a : Nat) (b : Byte) : (s.wrByte a b).dies = s.dies := rfl
@[simp] theorem State.wrByte_pkg (s : State) (a : Nat) (b : Byte) : (s.wrByte a b).pkg = s.pkg := rfl
@[simp] theorem State.wrByte_parked (s : State) (a : Nat) (b : Byte) : (s.wrByte a b).parked = s.parked := rfl
@[simp] theorem State.wrByte_sobjQ (s : State) (a : Nat) (b : Byte) : (s.wrByte a b).sobjQ = s.sobjQ := rfl
@[simp] theorem State.wrByte_vis (s : State) (a : Nat) (b : Byte) : (s.wrByte a b).vis = s.vis := rfl
@[simp] theorem State.wrByte_past (s : State) (a : Nat) (b : Byte) : (s.wrByte a b).past = s.past := rfl
@[simp] theorem State.wrByte_since (s : State) (a : Nat) (b : Byte) : (s.wrByte a b).since = s.since := rfl
@[simp] theorem State.wrByte_tlb2 (s : State) (a : Nat) (b : Byte) : (s.wrByte a b).tlb2 = s.tlb2 := rfl
@[simp] theorem State.wrByte_owed (s : State) (a : Nat) (b : Byte) : (s.wrByte a b).owed = s.owed := rfl
@[simp] theorem State.wrByte_stalled (s : State) (a : Nat) (b : Byte) : (s.wrByte a b).stalled = s.stalled := rfl
@[simp] theorem State.wrByte_levels (s : State) (a : Nat) (b : Byte) : (s.wrByte a b).levels = s.levels := rfl
@[simp] theorem State.wrByte_spent (s : State) (a : Nat) (b : Byte) : (s.wrByte a b).spent = s.spent := rfl
@[simp] theorem State.wrByte_vers (s : State) (a : Nat) (b : Byte) : (s.wrByte a b).vers = s.vers := rfl
@[simp] theorem State.wrByte_colls (s : State) (a : Nat) (b : Byte) : (s.wrByte a b).colls = s.colls := rfl
@[simp] theorem State.wrByte_decls (s : State) (a : Nat) (b : Byte) : (s.wrByte a b).decls = s.decls := rfl

/-! ### State.putTag -/

@[simp] theorem State.putTag_cur (s : State) (a : Nat) (b : Bool) : (s.putTag a b).cur = s.cur := rfl
@[simp] theorem State.putTag_msg (s : State) (a : Nat) (b : Bool) : (s.putTag a b).msg = s.msg := rfl
@[simp] theorem State.putTag_inbox (s : State) (a : Nat) (b : Bool) : (s.putTag a b).inbox = s.inbox := rfl
@[simp] theorem State.putTag_outbox (s : State) (a : Nat) (b : Bool) : (s.putTag a b).outbox = s.outbox := rfl
@[simp] theorem State.putTag_cycle (s : State) (a : Nat) (b : Bool) : (s.putTag a b).cycle = s.cycle := rfl
@[simp] theorem State.putTag_waits (s : State) (a : Nat) (b : Bool) : (s.putTag a b).waits = s.waits := rfl
@[simp] theorem State.putTag_count (s : State) (a : Nat) (b : Bool) : (s.putTag a b).count = s.count := rfl
@[simp] theorem State.putTag_lazy (s : State) (a : Nat) (b : Bool) : (s.putTag a b).lazy = s.lazy := rfl
@[simp] theorem State.putTag_tok (s : State) (a : Nat) (b : Bool) : (s.putTag a b).tok = s.tok := rfl
@[simp] theorem State.putTag_mem (s : State) (a : Nat) (b : Bool) : (s.putTag a b).mem = s.mem := rfl
@[simp] theorem State.putTag_crypt (s : State) (a : Nat) (b : Bool) : (s.putTag a b).crypt = s.crypt := rfl
@[simp] theorem State.putTag_poison (s : State) (a : Nat) (b : Bool) : (s.putTag a b).poison = s.poison := rfl
@[simp] theorem State.putTag_latent (s : State) (a : Nat) (b : Bool) : (s.putTag a b).latent = s.latent := rfl
@[simp] theorem State.putTag_crc (s : State) (a : Nat) (b : Bool) : (s.putTag a b).crc = s.crc := rfl
@[simp] theorem State.putTag_eccDue (s : State) (a : Nat) (b : Bool) : (s.putTag a b).eccDue = s.eccDue := rfl
@[simp] theorem State.putTag_groups (s : State) (a : Nat) (b : Bool) : (s.putTag a b).groups = s.groups := rfl
@[simp] theorem State.putTag_cores (s : State) (a : Nat) (b : Bool) : (s.putTag a b).cores = s.cores := rfl
@[simp] theorem State.putTag_units (s : State) (a : Nat) (b : Bool) : (s.putTag a b).units = s.units := rfl
@[simp] theorem State.putTag_ctxs (s : State) (a : Nat) (b : Bool) : (s.putTag a b).ctxs = s.ctxs := rfl
@[simp] theorem State.putTag_devs (s : State) (a : Nat) (b : Bool) : (s.putTag a b).devs = s.devs := rfl
@[simp] theorem State.putTag_dies (s : State) (a : Nat) (b : Bool) : (s.putTag a b).dies = s.dies := rfl
@[simp] theorem State.putTag_pkg (s : State) (a : Nat) (b : Bool) : (s.putTag a b).pkg = s.pkg := rfl
@[simp] theorem State.putTag_parked (s : State) (a : Nat) (b : Bool) : (s.putTag a b).parked = s.parked := rfl
@[simp] theorem State.putTag_sobjQ (s : State) (a : Nat) (b : Bool) : (s.putTag a b).sobjQ = s.sobjQ := rfl
@[simp] theorem State.putTag_vis (s : State) (a : Nat) (b : Bool) : (s.putTag a b).vis = s.vis := rfl
@[simp] theorem State.putTag_past (s : State) (a : Nat) (b : Bool) : (s.putTag a b).past = s.past := rfl
@[simp] theorem State.putTag_since (s : State) (a : Nat) (b : Bool) : (s.putTag a b).since = s.since := rfl
@[simp] theorem State.putTag_tlb2 (s : State) (a : Nat) (b : Bool) : (s.putTag a b).tlb2 = s.tlb2 := rfl
@[simp] theorem State.putTag_owed (s : State) (a : Nat) (b : Bool) : (s.putTag a b).owed = s.owed := rfl
@[simp] theorem State.putTag_stalled (s : State) (a : Nat) (b : Bool) : (s.putTag a b).stalled = s.stalled := rfl
@[simp] theorem State.putTag_levels (s : State) (a : Nat) (b : Bool) : (s.putTag a b).levels = s.levels := rfl
@[simp] theorem State.putTag_spent (s : State) (a : Nat) (b : Bool) : (s.putTag a b).spent = s.spent := rfl
@[simp] theorem State.putTag_vers (s : State) (a : Nat) (b : Bool) : (s.putTag a b).vers = s.vers := rfl
@[simp] theorem State.putTag_colls (s : State) (a : Nat) (b : Bool) : (s.putTag a b).colls = s.colls := rfl
@[simp] theorem State.putTag_decls (s : State) (a : Nat) (b : Bool) : (s.putTag a b).decls = s.decls := rfl

/-! ### Reading back -/

@[simp] theorem State.grpOf_setGrpOf_same (s : State) (a : Nat) (g : Group) : (s.setGrpOf a g).grpOf a = g := by
  simp [State.grpOf, State.setGrpOf]
theorem State.grpOf_setGrpOf_other (s : State) {a b : Nat} (g : Group) (h : b ≠ a) :
    (s.setGrpOf a g).grpOf b = s.grpOf b := by
  simp [State.grpOf, State.setGrpOf, FMap.get_ins_other _ _ _ h]
@[simp] theorem State.grp_setGrp (s : State) (g : Group) : (s.setGrp g).grp = g := by
  simp [State.grp, State.setGrp]
@[simp] theorem State.grpOf_cur (s : State) : s.grpOf s.cur = s.grp := rfl
theorem State.setGrp_eq (s : State) (g : Group) : s.setGrp g = s.setGrpOf s.cur g := rfl
@[simp] theorem State.setGrpOf_setGrpOf (s : State) (a : Nat) (g h : Group) :
    (s.setGrpOf a g).setGrpOf a h = s.setGrpOf a h := by
  simp [State.setGrpOf]
@[simp] theorem State.setGrp_setGrp (s : State) (g h : Group) : (s.setGrp g).setGrp h = s.setGrp h := by
  simp [State.setGrp, State.setGrpOf]
@[simp] theorem State.coreAt_setCore_same (s : State) (c : Nat) (x : Core) : (s.setCore c x).coreAt c = x := by
  simp [State.coreAt, State.setCore]
@[simp] theorem State.unitAt_setUnit_same (s : State) (u : Nat) (x : UnitSt) : (s.setUnit u x).unitAt u = x := by
  simp [State.unitAt, State.setUnit]
@[simp] theorem State.devAt_setDev_same (s : State) (d : Nat) (x : Device) : (s.setDev d x).devAt d = x := by
  simp [State.devAt, State.setDev]
@[simp] theorem State.dieAt_setDie_same (s : State) (d : Nat) (x : Die) : (s.setDie d x).dieAt d = x := by
  simp [State.dieAt, State.setDie]
@[simp] theorem State.ctxAt_setCtx_same (s : State) (d k : Nat) (x : Ctx) : (s.setCtx d k x).ctxAt d k = x := by
  simp [State.ctxAt, State.setCtx]
@[simp] theorem State.rdByte_setGrp (s : State) (g : Group) (a : Nat) : (s.setGrp g).rdByte a = s.rdByte a := rfl
@[simp] theorem State.mode_setGrp (s : State) (g : Group) : (s.setGrp g).mode = s.mode := rfl
@[simp] theorem State.grpOf_setCore (s : State) (c a : Nat) (x : Core) : (s.setCore c x).grpOf a = s.grpOf a := rfl
@[simp] theorem State.grpOf_setUnit (s : State) (u a : Nat) (x : UnitSt) : (s.setUnit u x).grpOf a = s.grpOf a := rfl
@[simp] theorem State.grp_setCore (s : State) (c : Nat) (x : Core) : (s.setCore c x).grp = s.grp := rfl
@[simp] theorem State.grp_setUnit (s : State) (u : Nat) (x : UnitSt) : (s.setUnit u x).grp = s.grp := rfl
@[simp] theorem State.grp_setDev (s : State) (d : Nat) (x : Device) : (s.setDev d x).grp = s.grp := rfl
@[simp] theorem State.grp_setCtx (s : State) (d k : Nat) (x : Ctx) : (s.setCtx d k x).grp = s.grp := rfl
@[simp] theorem State.grp_send (s : State) (m : OutMsg) : (s.send m).grp = s.grp := rfl
@[simp] theorem State.unitAt_setGrp (s : State) (g : Group) (u : Nat) : (s.setGrp g).unitAt u = s.unitAt u := rfl
@[simp] theorem State.coreAt_setGrp (s : State) (g : Group) (c : Nat) : (s.setGrp g).coreAt c = s.coreAt c := rfl

/-! ### Group.setV -/

@[simp] theorem Group.setV_live (g : Group) (r : Nat) (ex : Lanes) (f : Nat → Word) : (g.setV r ex f).live = g.live := rfl
@[simp] theorem Group.setV_unit (g : Group) (r : Nat) (ex : Lanes) (f : Nat → Word) : (g.setV r ex f).unit = g.unit := rfl
@[simp] theorem Group.setV_gidx (g : Group) (r : Nat) (ex : Lanes) (f : Nat → Word) : (g.setV r ex f).gidx = g.gidx := rfl
@[simp] theorem Group.setV_s (g : Group) (r : Nat) (ex : Lanes) (f : Nat → Word) : (g.setV r ex f).s = g.s := rfl
@[simp] theorem Group.setV_p (g : Group) (r : Nat) (ex : Lanes) (f : Nat → Word) : (g.setV r ex f).p = g.p := rfl
@[simp] theorem Group.setV_q (g : Group) (r : Nat) (ex : Lanes) (f : Nat → Word) : (g.setV r ex f).q = g.q := rfl
@[simp] theorem Group.setV_t (g : Group) (r : Nat) (ex : Lanes) (f : Nat → Word) : (g.setV r ex f).t = g.t := rfl
@[simp] theorem Group.setV_b (g : Group) (r : Nat) (ex : Lanes) (f : Nat → Word) : (g.setV r ex f).b = g.b := rfl
@[simp] theorem Group.setV_bvalid (g : Group) (r : Nat) (ex : Lanes) (f : Nat → Word) : (g.setV r ex f).bvalid = g.bvalid := rfl
@[simp] theorem Group.setV_blocks (g : Group) (r : Nat) (ex : Lanes) (f : Nat → Word) : (g.setV r ex f).blocks = g.blocks := rfl
@[simp] theorem Group.setV_slices (g : Group) (r : Nat) (ex : Lanes) (f : Nat → Word) : (g.setV r ex f).slices = g.slices := rfl
@[simp] theorem Group.setV_paths (g : Group) (r : Nat) (ex : Lanes) (f : Nat → Word) : (g.setV r ex f).paths = g.paths := rfl
@[simp] theorem Group.setV_fflags (g : Group) (r : Nat) (ex : Lanes) (f : Nat → Word) : (g.setV r ex f).fflags = g.fflags := rfl
@[simp] theorem Group.setV_fmode (g : Group) (r : Nat) (ex : Lanes) (f : Nat → Word) : (g.setV r ex f).fmode = g.fmode := rfl
@[simp] theorem Group.setV_gens (g : Group) (r : Nat) (ex : Lanes) (f : Nat → Word) : (g.setV r ex f).gens = g.gens := rfl
@[simp] theorem Group.setV_drainGen (g : Group) (r : Nat) (ex : Lanes) (f : Nat → Word) : (g.setV r ex f).drainGen = g.drainGen := rfl
@[simp] theorem Group.setV_batchNo (g : Group) (r : Nat) (ex : Lanes) (f : Nat → Word) : (g.setV r ex f).batchNo = g.batchNo := rfl
@[simp] theorem Group.setV_ctr (g : Group) (r : Nat) (ex : Lanes) (f : Nat → Word) : (g.setV r ex f).ctr = g.ctr := rfl
@[simp] theorem Group.setV_segs (g : Group) (r : Nat) (ex : Lanes) (f : Nat → Word) : (g.setV r ex f).segs = g.segs := rfl
@[simp] theorem Group.setV_hg (g : Group) (r : Nat) (ex : Lanes) (f : Nat → Word) : (g.setV r ex f).hg = g.hg := rfl
@[simp] theorem Group.setV_outs (g : Group) (r : Nat) (ex : Lanes) (f : Nat → Word) : (g.setV r ex f).outs = g.outs := rfl
@[simp] theorem Group.setV_priv (g : Group) (r : Nat) (ex : Lanes) (f : Nat → Word) : (g.setV r ex f).priv = g.priv := rfl
@[simp] theorem Group.setV_handler (g : Group) (r : Nat) (ex : Lanes) (f : Nat → Word) : (g.setV r ex f).handler = g.handler := rfl
@[simp] theorem Group.setV_ret (g : Group) (r : Nat) (ex : Lanes) (f : Nat → Word) : (g.setV r ex f).ret = g.ret := rfl
@[simp] theorem Group.setV_clause (g : Group) (r : Nat) (ex : Lanes) (f : Nat → Word) : (g.setV r ex f).clause = g.clause := rfl
@[simp] theorem Group.setV_age (g : Group) (r : Nat) (ex : Lanes) (f : Nat → Word) : (g.setV r ex f).age = g.age := rfl
@[simp] theorem Group.setV_wake (g : Group) (r : Nat) (ex : Lanes) (f : Nat → Word) : (g.setV r ex f).wake = g.wake := rfl
@[simp] theorem Group.setV_yieldFor (g : Group) (r : Nat) (ex : Lanes) (f : Nat → Word) : (g.setV r ex f).yieldFor = g.yieldFor := rfl
@[simp] theorem Group.setV_bg (g : Group) (r : Nat) (ex : Lanes) (f : Nat → Word) : (g.setV r ex f).bg = g.bg := rfl
@[simp] theorem Group.setV_ecc (g : Group) (r : Nat) (ex : Lanes) (f : Nat → Word) : (g.setV r ex f).ecc = g.ecc := rfl
@[simp] theorem Group.setV_cancel (g : Group) (r : Nat) (ex : Lanes) (f : Nat → Word) : (g.setV r ex f).cancel = g.cancel := rfl
@[simp] theorem Group.setV_preempt (g : Group) (r : Nat) (ex : Lanes) (f : Nat → Word) : (g.setV r ex f).preempt = g.preempt := rfl
@[simp] theorem Group.setV_stopped (g : Group) (r : Nat) (ex : Lanes) (f : Nat → Word) : (g.setV r ex f).stopped = g.stopped := rfl
@[simp] theorem Group.setV_taken (g : Group) (r : Nat) (ex : Lanes) (f : Nat → Word) : (g.setV r ex f).taken = g.taken := rfl
@[simp] theorem Group.setV_acc (g : Group) (r : Nat) (ex : Lanes) (f : Nat → Word) : (g.setV r ex f).acc = g.acc := rfl
@[simp] theorem Group.setV_clk0 (g : Group) (r : Nat) (ex : Lanes) (f : Nat → Word) : (g.setV r ex f).clk0 = g.clk0 := rfl
@[simp] theorem Group.setV_holds (g : Group) (r : Nat) (ex : Lanes) (f : Nat → Word) : (g.setV r ex f).holds = g.holds := rfl
@[simp] theorem Group.setV_openCmds (g : Group) (r : Nat) (ex : Lanes) (f : Nat → Word) : (g.setV r ex f).openCmds = g.openCmds := rfl
@[simp] theorem Group.setV_poison (g : Group) (r : Nat) (ex : Lanes) (f : Nat → Word) : (g.setV r ex f).poison = g.poison := rfl
@[simp] theorem Group.setV_soft (g : Group) (r : Nat) (ex : Lanes) (f : Nat → Word) : (g.setV r ex f).soft = g.soft := rfl
@[simp] theorem Group.setV_nf (g : Group) (r : Nat) (ex : Lanes) (f : Nat → Word) : (g.setV r ex f).nf = g.nf := rfl
@[simp] theorem Group.setV_windows (g : Group) (r : Nat) (ex : Lanes) (f : Nat → Word) : (g.setV r ex f).windows = g.windows := rfl

/-! ### Group.setS -/

@[simp] theorem Group.setS_live (g : Group) (r : Nat) (w : Word) : (g.setS r w).live = g.live := rfl
@[simp] theorem Group.setS_unit (g : Group) (r : Nat) (w : Word) : (g.setS r w).unit = g.unit := rfl
@[simp] theorem Group.setS_gidx (g : Group) (r : Nat) (w : Word) : (g.setS r w).gidx = g.gidx := rfl
@[simp] theorem Group.setS_v (g : Group) (r : Nat) (w : Word) : (g.setS r w).v = g.v := rfl
@[simp] theorem Group.setS_p (g : Group) (r : Nat) (w : Word) : (g.setS r w).p = g.p := rfl
@[simp] theorem Group.setS_q (g : Group) (r : Nat) (w : Word) : (g.setS r w).q = g.q := rfl
@[simp] theorem Group.setS_t (g : Group) (r : Nat) (w : Word) : (g.setS r w).t = g.t := rfl
@[simp] theorem Group.setS_b (g : Group) (r : Nat) (w : Word) : (g.setS r w).b = g.b := rfl
@[simp] theorem Group.setS_bvalid (g : Group) (r : Nat) (w : Word) : (g.setS r w).bvalid = g.bvalid := rfl
@[simp] theorem Group.setS_blocks (g : Group) (r : Nat) (w : Word) : (g.setS r w).blocks = g.blocks := rfl
@[simp] theorem Group.setS_slices (g : Group) (r : Nat) (w : Word) : (g.setS r w).slices = g.slices := rfl
@[simp] theorem Group.setS_paths (g : Group) (r : Nat) (w : Word) : (g.setS r w).paths = g.paths := rfl
@[simp] theorem Group.setS_fflags (g : Group) (r : Nat) (w : Word) : (g.setS r w).fflags = g.fflags := rfl
@[simp] theorem Group.setS_fmode (g : Group) (r : Nat) (w : Word) : (g.setS r w).fmode = g.fmode := rfl
@[simp] theorem Group.setS_gens (g : Group) (r : Nat) (w : Word) : (g.setS r w).gens = g.gens := rfl
@[simp] theorem Group.setS_drainGen (g : Group) (r : Nat) (w : Word) : (g.setS r w).drainGen = g.drainGen := rfl
@[simp] theorem Group.setS_batchNo (g : Group) (r : Nat) (w : Word) : (g.setS r w).batchNo = g.batchNo := rfl
@[simp] theorem Group.setS_ctr (g : Group) (r : Nat) (w : Word) : (g.setS r w).ctr = g.ctr := rfl
@[simp] theorem Group.setS_segs (g : Group) (r : Nat) (w : Word) : (g.setS r w).segs = g.segs := rfl
@[simp] theorem Group.setS_hg (g : Group) (r : Nat) (w : Word) : (g.setS r w).hg = g.hg := rfl
@[simp] theorem Group.setS_outs (g : Group) (r : Nat) (w : Word) : (g.setS r w).outs = g.outs := rfl
@[simp] theorem Group.setS_priv (g : Group) (r : Nat) (w : Word) : (g.setS r w).priv = g.priv := rfl
@[simp] theorem Group.setS_handler (g : Group) (r : Nat) (w : Word) : (g.setS r w).handler = g.handler := rfl
@[simp] theorem Group.setS_ret (g : Group) (r : Nat) (w : Word) : (g.setS r w).ret = g.ret := rfl
@[simp] theorem Group.setS_clause (g : Group) (r : Nat) (w : Word) : (g.setS r w).clause = g.clause := rfl
@[simp] theorem Group.setS_age (g : Group) (r : Nat) (w : Word) : (g.setS r w).age = g.age := rfl
@[simp] theorem Group.setS_wake (g : Group) (r : Nat) (w : Word) : (g.setS r w).wake = g.wake := rfl
@[simp] theorem Group.setS_yieldFor (g : Group) (r : Nat) (w : Word) : (g.setS r w).yieldFor = g.yieldFor := rfl
@[simp] theorem Group.setS_bg (g : Group) (r : Nat) (w : Word) : (g.setS r w).bg = g.bg := rfl
@[simp] theorem Group.setS_ecc (g : Group) (r : Nat) (w : Word) : (g.setS r w).ecc = g.ecc := rfl
@[simp] theorem Group.setS_cancel (g : Group) (r : Nat) (w : Word) : (g.setS r w).cancel = g.cancel := rfl
@[simp] theorem Group.setS_preempt (g : Group) (r : Nat) (w : Word) : (g.setS r w).preempt = g.preempt := rfl
@[simp] theorem Group.setS_stopped (g : Group) (r : Nat) (w : Word) : (g.setS r w).stopped = g.stopped := rfl
@[simp] theorem Group.setS_taken (g : Group) (r : Nat) (w : Word) : (g.setS r w).taken = g.taken := rfl
@[simp] theorem Group.setS_acc (g : Group) (r : Nat) (w : Word) : (g.setS r w).acc = g.acc := rfl
@[simp] theorem Group.setS_clk0 (g : Group) (r : Nat) (w : Word) : (g.setS r w).clk0 = g.clk0 := rfl
@[simp] theorem Group.setS_holds (g : Group) (r : Nat) (w : Word) : (g.setS r w).holds = g.holds := rfl
@[simp] theorem Group.setS_openCmds (g : Group) (r : Nat) (w : Word) : (g.setS r w).openCmds = g.openCmds := rfl
@[simp] theorem Group.setS_poison (g : Group) (r : Nat) (w : Word) : (g.setS r w).poison = g.poison := rfl
@[simp] theorem Group.setS_soft (g : Group) (r : Nat) (w : Word) : (g.setS r w).soft = g.soft := rfl
@[simp] theorem Group.setS_nf (g : Group) (r : Nat) (w : Word) : (g.setS r w).nf = g.nf := rfl
@[simp] theorem Group.setS_windows (g : Group) (r : Nat) (w : Word) : (g.setS r w).windows = g.windows := rfl

/-! ### Group.setP -/

@[simp] theorem Group.setP_live (g : Group) (i : Nat) (ex : Lanes) (f : Nat → Bool) : (g.setP i ex f).live = g.live := rfl
@[simp] theorem Group.setP_unit (g : Group) (i : Nat) (ex : Lanes) (f : Nat → Bool) : (g.setP i ex f).unit = g.unit := rfl
@[simp] theorem Group.setP_gidx (g : Group) (i : Nat) (ex : Lanes) (f : Nat → Bool) : (g.setP i ex f).gidx = g.gidx := rfl
@[simp] theorem Group.setP_v (g : Group) (i : Nat) (ex : Lanes) (f : Nat → Bool) : (g.setP i ex f).v = g.v := rfl
@[simp] theorem Group.setP_s (g : Group) (i : Nat) (ex : Lanes) (f : Nat → Bool) : (g.setP i ex f).s = g.s := rfl
@[simp] theorem Group.setP_q (g : Group) (i : Nat) (ex : Lanes) (f : Nat → Bool) : (g.setP i ex f).q = g.q := rfl
@[simp] theorem Group.setP_t (g : Group) (i : Nat) (ex : Lanes) (f : Nat → Bool) : (g.setP i ex f).t = g.t := rfl
@[simp] theorem Group.setP_b (g : Group) (i : Nat) (ex : Lanes) (f : Nat → Bool) : (g.setP i ex f).b = g.b := rfl
@[simp] theorem Group.setP_bvalid (g : Group) (i : Nat) (ex : Lanes) (f : Nat → Bool) : (g.setP i ex f).bvalid = g.bvalid := rfl
@[simp] theorem Group.setP_blocks (g : Group) (i : Nat) (ex : Lanes) (f : Nat → Bool) : (g.setP i ex f).blocks = g.blocks := rfl
@[simp] theorem Group.setP_slices (g : Group) (i : Nat) (ex : Lanes) (f : Nat → Bool) : (g.setP i ex f).slices = g.slices := rfl
@[simp] theorem Group.setP_paths (g : Group) (i : Nat) (ex : Lanes) (f : Nat → Bool) : (g.setP i ex f).paths = g.paths := rfl
@[simp] theorem Group.setP_fflags (g : Group) (i : Nat) (ex : Lanes) (f : Nat → Bool) : (g.setP i ex f).fflags = g.fflags := rfl
@[simp] theorem Group.setP_fmode (g : Group) (i : Nat) (ex : Lanes) (f : Nat → Bool) : (g.setP i ex f).fmode = g.fmode := rfl
@[simp] theorem Group.setP_gens (g : Group) (i : Nat) (ex : Lanes) (f : Nat → Bool) : (g.setP i ex f).gens = g.gens := rfl
@[simp] theorem Group.setP_drainGen (g : Group) (i : Nat) (ex : Lanes) (f : Nat → Bool) : (g.setP i ex f).drainGen = g.drainGen := rfl
@[simp] theorem Group.setP_batchNo (g : Group) (i : Nat) (ex : Lanes) (f : Nat → Bool) : (g.setP i ex f).batchNo = g.batchNo := rfl
@[simp] theorem Group.setP_ctr (g : Group) (i : Nat) (ex : Lanes) (f : Nat → Bool) : (g.setP i ex f).ctr = g.ctr := rfl
@[simp] theorem Group.setP_segs (g : Group) (i : Nat) (ex : Lanes) (f : Nat → Bool) : (g.setP i ex f).segs = g.segs := rfl
@[simp] theorem Group.setP_hg (g : Group) (i : Nat) (ex : Lanes) (f : Nat → Bool) : (g.setP i ex f).hg = g.hg := rfl
@[simp] theorem Group.setP_outs (g : Group) (i : Nat) (ex : Lanes) (f : Nat → Bool) : (g.setP i ex f).outs = g.outs := rfl
@[simp] theorem Group.setP_priv (g : Group) (i : Nat) (ex : Lanes) (f : Nat → Bool) : (g.setP i ex f).priv = g.priv := rfl
@[simp] theorem Group.setP_handler (g : Group) (i : Nat) (ex : Lanes) (f : Nat → Bool) : (g.setP i ex f).handler = g.handler := rfl
@[simp] theorem Group.setP_ret (g : Group) (i : Nat) (ex : Lanes) (f : Nat → Bool) : (g.setP i ex f).ret = g.ret := rfl
@[simp] theorem Group.setP_clause (g : Group) (i : Nat) (ex : Lanes) (f : Nat → Bool) : (g.setP i ex f).clause = g.clause := rfl
@[simp] theorem Group.setP_age (g : Group) (i : Nat) (ex : Lanes) (f : Nat → Bool) : (g.setP i ex f).age = g.age := rfl
@[simp] theorem Group.setP_wake (g : Group) (i : Nat) (ex : Lanes) (f : Nat → Bool) : (g.setP i ex f).wake = g.wake := rfl
@[simp] theorem Group.setP_yieldFor (g : Group) (i : Nat) (ex : Lanes) (f : Nat → Bool) : (g.setP i ex f).yieldFor = g.yieldFor := rfl
@[simp] theorem Group.setP_bg (g : Group) (i : Nat) (ex : Lanes) (f : Nat → Bool) : (g.setP i ex f).bg = g.bg := rfl
@[simp] theorem Group.setP_ecc (g : Group) (i : Nat) (ex : Lanes) (f : Nat → Bool) : (g.setP i ex f).ecc = g.ecc := rfl
@[simp] theorem Group.setP_cancel (g : Group) (i : Nat) (ex : Lanes) (f : Nat → Bool) : (g.setP i ex f).cancel = g.cancel := rfl
@[simp] theorem Group.setP_preempt (g : Group) (i : Nat) (ex : Lanes) (f : Nat → Bool) : (g.setP i ex f).preempt = g.preempt := rfl
@[simp] theorem Group.setP_stopped (g : Group) (i : Nat) (ex : Lanes) (f : Nat → Bool) : (g.setP i ex f).stopped = g.stopped := rfl
@[simp] theorem Group.setP_taken (g : Group) (i : Nat) (ex : Lanes) (f : Nat → Bool) : (g.setP i ex f).taken = g.taken := rfl
@[simp] theorem Group.setP_acc (g : Group) (i : Nat) (ex : Lanes) (f : Nat → Bool) : (g.setP i ex f).acc = g.acc := rfl
@[simp] theorem Group.setP_clk0 (g : Group) (i : Nat) (ex : Lanes) (f : Nat → Bool) : (g.setP i ex f).clk0 = g.clk0 := rfl
@[simp] theorem Group.setP_holds (g : Group) (i : Nat) (ex : Lanes) (f : Nat → Bool) : (g.setP i ex f).holds = g.holds := rfl
@[simp] theorem Group.setP_openCmds (g : Group) (i : Nat) (ex : Lanes) (f : Nat → Bool) : (g.setP i ex f).openCmds = g.openCmds := rfl
@[simp] theorem Group.setP_poison (g : Group) (i : Nat) (ex : Lanes) (f : Nat → Bool) : (g.setP i ex f).poison = g.poison := rfl
@[simp] theorem Group.setP_soft (g : Group) (i : Nat) (ex : Lanes) (f : Nat → Bool) : (g.setP i ex f).soft = g.soft := rfl
@[simp] theorem Group.setP_nf (g : Group) (i : Nat) (ex : Lanes) (f : Nat → Bool) : (g.setP i ex f).nf = g.nf := rfl
@[simp] theorem Group.setP_windows (g : Group) (i : Nat) (ex : Lanes) (f : Nat → Bool) : (g.setP i ex f).windows = g.windows := rfl

/-! ### Group.setT -/

@[simp] theorem Group.setT_live (g : Group) (k : Nat) (f : Nat → Word) : (g.setT k f).live = g.live := rfl
@[simp] theorem Group.setT_unit (g : Group) (k : Nat) (f : Nat → Word) : (g.setT k f).unit = g.unit := rfl
@[simp] theorem Group.setT_gidx (g : Group) (k : Nat) (f : Nat → Word) : (g.setT k f).gidx = g.gidx := rfl
@[simp] theorem Group.setT_v (g : Group) (k : Nat) (f : Nat → Word) : (g.setT k f).v = g.v := rfl
@[simp] theorem Group.setT_s (g : Group) (k : Nat) (f : Nat → Word) : (g.setT k f).s = g.s := rfl
@[simp] theorem Group.setT_p (g : Group) (k : Nat) (f : Nat → Word) : (g.setT k f).p = g.p := rfl
@[simp] theorem Group.setT_q (g : Group) (k : Nat) (f : Nat → Word) : (g.setT k f).q = g.q := rfl
@[simp] theorem Group.setT_b (g : Group) (k : Nat) (f : Nat → Word) : (g.setT k f).b = g.b := rfl
@[simp] theorem Group.setT_bvalid (g : Group) (k : Nat) (f : Nat → Word) : (g.setT k f).bvalid = g.bvalid := rfl
@[simp] theorem Group.setT_blocks (g : Group) (k : Nat) (f : Nat → Word) : (g.setT k f).blocks = g.blocks := rfl
@[simp] theorem Group.setT_slices (g : Group) (k : Nat) (f : Nat → Word) : (g.setT k f).slices = g.slices := rfl
@[simp] theorem Group.setT_paths (g : Group) (k : Nat) (f : Nat → Word) : (g.setT k f).paths = g.paths := rfl
@[simp] theorem Group.setT_fflags (g : Group) (k : Nat) (f : Nat → Word) : (g.setT k f).fflags = g.fflags := rfl
@[simp] theorem Group.setT_fmode (g : Group) (k : Nat) (f : Nat → Word) : (g.setT k f).fmode = g.fmode := rfl
@[simp] theorem Group.setT_gens (g : Group) (k : Nat) (f : Nat → Word) : (g.setT k f).gens = g.gens := rfl
@[simp] theorem Group.setT_drainGen (g : Group) (k : Nat) (f : Nat → Word) : (g.setT k f).drainGen = g.drainGen := rfl
@[simp] theorem Group.setT_batchNo (g : Group) (k : Nat) (f : Nat → Word) : (g.setT k f).batchNo = g.batchNo := rfl
@[simp] theorem Group.setT_ctr (g : Group) (k : Nat) (f : Nat → Word) : (g.setT k f).ctr = g.ctr := rfl
@[simp] theorem Group.setT_segs (g : Group) (k : Nat) (f : Nat → Word) : (g.setT k f).segs = g.segs := rfl
@[simp] theorem Group.setT_hg (g : Group) (k : Nat) (f : Nat → Word) : (g.setT k f).hg = g.hg := rfl
@[simp] theorem Group.setT_outs (g : Group) (k : Nat) (f : Nat → Word) : (g.setT k f).outs = g.outs := rfl
@[simp] theorem Group.setT_priv (g : Group) (k : Nat) (f : Nat → Word) : (g.setT k f).priv = g.priv := rfl
@[simp] theorem Group.setT_handler (g : Group) (k : Nat) (f : Nat → Word) : (g.setT k f).handler = g.handler := rfl
@[simp] theorem Group.setT_ret (g : Group) (k : Nat) (f : Nat → Word) : (g.setT k f).ret = g.ret := rfl
@[simp] theorem Group.setT_clause (g : Group) (k : Nat) (f : Nat → Word) : (g.setT k f).clause = g.clause := rfl
@[simp] theorem Group.setT_age (g : Group) (k : Nat) (f : Nat → Word) : (g.setT k f).age = g.age := rfl
@[simp] theorem Group.setT_wake (g : Group) (k : Nat) (f : Nat → Word) : (g.setT k f).wake = g.wake := rfl
@[simp] theorem Group.setT_yieldFor (g : Group) (k : Nat) (f : Nat → Word) : (g.setT k f).yieldFor = g.yieldFor := rfl
@[simp] theorem Group.setT_bg (g : Group) (k : Nat) (f : Nat → Word) : (g.setT k f).bg = g.bg := rfl
@[simp] theorem Group.setT_ecc (g : Group) (k : Nat) (f : Nat → Word) : (g.setT k f).ecc = g.ecc := rfl
@[simp] theorem Group.setT_cancel (g : Group) (k : Nat) (f : Nat → Word) : (g.setT k f).cancel = g.cancel := rfl
@[simp] theorem Group.setT_preempt (g : Group) (k : Nat) (f : Nat → Word) : (g.setT k f).preempt = g.preempt := rfl
@[simp] theorem Group.setT_stopped (g : Group) (k : Nat) (f : Nat → Word) : (g.setT k f).stopped = g.stopped := rfl
@[simp] theorem Group.setT_taken (g : Group) (k : Nat) (f : Nat → Word) : (g.setT k f).taken = g.taken := rfl
@[simp] theorem Group.setT_acc (g : Group) (k : Nat) (f : Nat → Word) : (g.setT k f).acc = g.acc := rfl
@[simp] theorem Group.setT_clk0 (g : Group) (k : Nat) (f : Nat → Word) : (g.setT k f).clk0 = g.clk0 := rfl
@[simp] theorem Group.setT_holds (g : Group) (k : Nat) (f : Nat → Word) : (g.setT k f).holds = g.holds := rfl
@[simp] theorem Group.setT_openCmds (g : Group) (k : Nat) (f : Nat → Word) : (g.setT k f).openCmds = g.openCmds := rfl
@[simp] theorem Group.setT_poison (g : Group) (k : Nat) (f : Nat → Word) : (g.setT k f).poison = g.poison := rfl
@[simp] theorem Group.setT_soft (g : Group) (k : Nat) (f : Nat → Word) : (g.setT k f).soft = g.soft := rfl
@[simp] theorem Group.setT_nf (g : Group) (k : Nat) (f : Nat → Word) : (g.setT k f).nf = g.nf := rfl
@[simp] theorem Group.setT_windows (g : Group) (k : Nat) (f : Nat → Word) : (g.setT k f).windows = g.windows := rfl

/-! ### Group.raise -/

@[simp] theorem Group.raise_live (g : Group) (fl : BitVec 5) : (g.raise fl).live = g.live := rfl
@[simp] theorem Group.raise_unit (g : Group) (fl : BitVec 5) : (g.raise fl).unit = g.unit := rfl
@[simp] theorem Group.raise_gidx (g : Group) (fl : BitVec 5) : (g.raise fl).gidx = g.gidx := rfl
@[simp] theorem Group.raise_v (g : Group) (fl : BitVec 5) : (g.raise fl).v = g.v := rfl
@[simp] theorem Group.raise_s (g : Group) (fl : BitVec 5) : (g.raise fl).s = g.s := rfl
@[simp] theorem Group.raise_p (g : Group) (fl : BitVec 5) : (g.raise fl).p = g.p := rfl
@[simp] theorem Group.raise_q (g : Group) (fl : BitVec 5) : (g.raise fl).q = g.q := rfl
@[simp] theorem Group.raise_t (g : Group) (fl : BitVec 5) : (g.raise fl).t = g.t := rfl
@[simp] theorem Group.raise_b (g : Group) (fl : BitVec 5) : (g.raise fl).b = g.b := rfl
@[simp] theorem Group.raise_bvalid (g : Group) (fl : BitVec 5) : (g.raise fl).bvalid = g.bvalid := rfl
@[simp] theorem Group.raise_blocks (g : Group) (fl : BitVec 5) : (g.raise fl).blocks = g.blocks := rfl
@[simp] theorem Group.raise_slices (g : Group) (fl : BitVec 5) : (g.raise fl).slices = g.slices := rfl
@[simp] theorem Group.raise_paths (g : Group) (fl : BitVec 5) : (g.raise fl).paths = g.paths := rfl
@[simp] theorem Group.raise_fmode (g : Group) (fl : BitVec 5) : (g.raise fl).fmode = g.fmode := rfl
@[simp] theorem Group.raise_gens (g : Group) (fl : BitVec 5) : (g.raise fl).gens = g.gens := rfl
@[simp] theorem Group.raise_drainGen (g : Group) (fl : BitVec 5) : (g.raise fl).drainGen = g.drainGen := rfl
@[simp] theorem Group.raise_batchNo (g : Group) (fl : BitVec 5) : (g.raise fl).batchNo = g.batchNo := rfl
@[simp] theorem Group.raise_ctr (g : Group) (fl : BitVec 5) : (g.raise fl).ctr = g.ctr := rfl
@[simp] theorem Group.raise_segs (g : Group) (fl : BitVec 5) : (g.raise fl).segs = g.segs := rfl
@[simp] theorem Group.raise_hg (g : Group) (fl : BitVec 5) : (g.raise fl).hg = g.hg := rfl
@[simp] theorem Group.raise_outs (g : Group) (fl : BitVec 5) : (g.raise fl).outs = g.outs := rfl
@[simp] theorem Group.raise_priv (g : Group) (fl : BitVec 5) : (g.raise fl).priv = g.priv := rfl
@[simp] theorem Group.raise_handler (g : Group) (fl : BitVec 5) : (g.raise fl).handler = g.handler := rfl
@[simp] theorem Group.raise_ret (g : Group) (fl : BitVec 5) : (g.raise fl).ret = g.ret := rfl
@[simp] theorem Group.raise_clause (g : Group) (fl : BitVec 5) : (g.raise fl).clause = g.clause := rfl
@[simp] theorem Group.raise_age (g : Group) (fl : BitVec 5) : (g.raise fl).age = g.age := rfl
@[simp] theorem Group.raise_wake (g : Group) (fl : BitVec 5) : (g.raise fl).wake = g.wake := rfl
@[simp] theorem Group.raise_yieldFor (g : Group) (fl : BitVec 5) : (g.raise fl).yieldFor = g.yieldFor := rfl
@[simp] theorem Group.raise_bg (g : Group) (fl : BitVec 5) : (g.raise fl).bg = g.bg := rfl
@[simp] theorem Group.raise_ecc (g : Group) (fl : BitVec 5) : (g.raise fl).ecc = g.ecc := rfl
@[simp] theorem Group.raise_cancel (g : Group) (fl : BitVec 5) : (g.raise fl).cancel = g.cancel := rfl
@[simp] theorem Group.raise_preempt (g : Group) (fl : BitVec 5) : (g.raise fl).preempt = g.preempt := rfl
@[simp] theorem Group.raise_stopped (g : Group) (fl : BitVec 5) : (g.raise fl).stopped = g.stopped := rfl
@[simp] theorem Group.raise_taken (g : Group) (fl : BitVec 5) : (g.raise fl).taken = g.taken := rfl
@[simp] theorem Group.raise_acc (g : Group) (fl : BitVec 5) : (g.raise fl).acc = g.acc := rfl
@[simp] theorem Group.raise_clk0 (g : Group) (fl : BitVec 5) : (g.raise fl).clk0 = g.clk0 := rfl
@[simp] theorem Group.raise_holds (g : Group) (fl : BitVec 5) : (g.raise fl).holds = g.holds := rfl
@[simp] theorem Group.raise_openCmds (g : Group) (fl : BitVec 5) : (g.raise fl).openCmds = g.openCmds := rfl
@[simp] theorem Group.raise_poison (g : Group) (fl : BitVec 5) : (g.raise fl).poison = g.poison := rfl
@[simp] theorem Group.raise_soft (g : Group) (fl : BitVec 5) : (g.raise fl).soft = g.soft := rfl
@[simp] theorem Group.raise_nf (g : Group) (fl : BitVec 5) : (g.raise fl).nf = g.nf := rfl
@[simp] theorem Group.raise_windows (g : Group) (fl : BitVec 5) : (g.raise fl).windows = g.windows := rfl

/-! ### Group.progress -/

@[simp] theorem Group.progress_live (g : Group) (m : BitVec 16) : (g.progress m).live = g.live := rfl
@[simp] theorem Group.progress_unit (g : Group) (m : BitVec 16) : (g.progress m).unit = g.unit := rfl
@[simp] theorem Group.progress_gidx (g : Group) (m : BitVec 16) : (g.progress m).gidx = g.gidx := rfl
@[simp] theorem Group.progress_v (g : Group) (m : BitVec 16) : (g.progress m).v = g.v := rfl
@[simp] theorem Group.progress_s (g : Group) (m : BitVec 16) : (g.progress m).s = g.s := rfl
@[simp] theorem Group.progress_p (g : Group) (m : BitVec 16) : (g.progress m).p = g.p := rfl
@[simp] theorem Group.progress_q (g : Group) (m : BitVec 16) : (g.progress m).q = g.q := rfl
@[simp] theorem Group.progress_t (g : Group) (m : BitVec 16) : (g.progress m).t = g.t := rfl
@[simp] theorem Group.progress_b (g : Group) (m : BitVec 16) : (g.progress m).b = g.b := rfl
@[simp] theorem Group.progress_bvalid (g : Group) (m : BitVec 16) : (g.progress m).bvalid = g.bvalid := rfl
@[simp] theorem Group.progress_blocks (g : Group) (m : BitVec 16) : (g.progress m).blocks = g.blocks := rfl
@[simp] theorem Group.progress_slices (g : Group) (m : BitVec 16) : (g.progress m).slices = g.slices := rfl
@[simp] theorem Group.progress_fflags (g : Group) (m : BitVec 16) : (g.progress m).fflags = g.fflags := rfl
@[simp] theorem Group.progress_fmode (g : Group) (m : BitVec 16) : (g.progress m).fmode = g.fmode := rfl
@[simp] theorem Group.progress_gens (g : Group) (m : BitVec 16) : (g.progress m).gens = g.gens := rfl
@[simp] theorem Group.progress_drainGen (g : Group) (m : BitVec 16) : (g.progress m).drainGen = g.drainGen := rfl
@[simp] theorem Group.progress_batchNo (g : Group) (m : BitVec 16) : (g.progress m).batchNo = g.batchNo := rfl
@[simp] theorem Group.progress_ctr (g : Group) (m : BitVec 16) : (g.progress m).ctr = g.ctr := rfl
@[simp] theorem Group.progress_segs (g : Group) (m : BitVec 16) : (g.progress m).segs = g.segs := rfl
@[simp] theorem Group.progress_hg (g : Group) (m : BitVec 16) : (g.progress m).hg = g.hg := rfl
@[simp] theorem Group.progress_outs (g : Group) (m : BitVec 16) : (g.progress m).outs = g.outs := rfl
@[simp] theorem Group.progress_priv (g : Group) (m : BitVec 16) : (g.progress m).priv = g.priv := rfl
@[simp] theorem Group.progress_handler (g : Group) (m : BitVec 16) : (g.progress m).handler = g.handler := rfl
@[simp] theorem Group.progress_ret (g : Group) (m : BitVec 16) : (g.progress m).ret = g.ret := rfl
@[simp] theorem Group.progress_clause (g : Group) (m : BitVec 16) : (g.progress m).clause = g.clause := rfl
@[simp] theorem Group.progress_age (g : Group) (m : BitVec 16) : (g.progress m).age = g.age := rfl
@[simp] theorem Group.progress_wake (g : Group) (m : BitVec 16) : (g.progress m).wake = g.wake := rfl
@[simp] theorem Group.progress_yieldFor (g : Group) (m : BitVec 16) : (g.progress m).yieldFor = g.yieldFor := rfl
@[simp] theorem Group.progress_bg (g : Group) (m : BitVec 16) : (g.progress m).bg = g.bg := rfl
@[simp] theorem Group.progress_ecc (g : Group) (m : BitVec 16) : (g.progress m).ecc = g.ecc := rfl
@[simp] theorem Group.progress_cancel (g : Group) (m : BitVec 16) : (g.progress m).cancel = g.cancel := rfl
@[simp] theorem Group.progress_preempt (g : Group) (m : BitVec 16) : (g.progress m).preempt = g.preempt := rfl
@[simp] theorem Group.progress_stopped (g : Group) (m : BitVec 16) : (g.progress m).stopped = g.stopped := rfl
@[simp] theorem Group.progress_taken (g : Group) (m : BitVec 16) : (g.progress m).taken = g.taken := rfl
@[simp] theorem Group.progress_acc (g : Group) (m : BitVec 16) : (g.progress m).acc = g.acc := rfl
@[simp] theorem Group.progress_clk0 (g : Group) (m : BitVec 16) : (g.progress m).clk0 = g.clk0 := rfl
@[simp] theorem Group.progress_holds (g : Group) (m : BitVec 16) : (g.progress m).holds = g.holds := rfl
@[simp] theorem Group.progress_openCmds (g : Group) (m : BitVec 16) : (g.progress m).openCmds = g.openCmds := rfl
@[simp] theorem Group.progress_poison (g : Group) (m : BitVec 16) : (g.progress m).poison = g.poison := rfl
@[simp] theorem Group.progress_soft (g : Group) (m : BitVec 16) : (g.progress m).soft = g.soft := rfl
@[simp] theorem Group.progress_nf (g : Group) (m : BitVec 16) : (g.progress m).nf = g.nf := rfl
@[simp] theorem Group.progress_windows (g : Group) (m : BitVec 16) : (g.progress m).windows = g.windows := rfl

/-! ### Group.wakePath -/

@[simp] theorem Group.wakePath_live (g : Group) (m : BitVec 16) : (g.wakePath m).live = g.live := rfl
@[simp] theorem Group.wakePath_unit (g : Group) (m : BitVec 16) : (g.wakePath m).unit = g.unit := rfl
@[simp] theorem Group.wakePath_gidx (g : Group) (m : BitVec 16) : (g.wakePath m).gidx = g.gidx := rfl
@[simp] theorem Group.wakePath_v (g : Group) (m : BitVec 16) : (g.wakePath m).v = g.v := rfl
@[simp] theorem Group.wakePath_s (g : Group) (m : BitVec 16) : (g.wakePath m).s = g.s := rfl
@[simp] theorem Group.wakePath_p (g : Group) (m : BitVec 16) : (g.wakePath m).p = g.p := rfl
@[simp] theorem Group.wakePath_q (g : Group) (m : BitVec 16) : (g.wakePath m).q = g.q := rfl
@[simp] theorem Group.wakePath_t (g : Group) (m : BitVec 16) : (g.wakePath m).t = g.t := rfl
@[simp] theorem Group.wakePath_b (g : Group) (m : BitVec 16) : (g.wakePath m).b = g.b := rfl
@[simp] theorem Group.wakePath_bvalid (g : Group) (m : BitVec 16) : (g.wakePath m).bvalid = g.bvalid := rfl
@[simp] theorem Group.wakePath_blocks (g : Group) (m : BitVec 16) : (g.wakePath m).blocks = g.blocks := rfl
@[simp] theorem Group.wakePath_slices (g : Group) (m : BitVec 16) : (g.wakePath m).slices = g.slices := rfl
@[simp] theorem Group.wakePath_fflags (g : Group) (m : BitVec 16) : (g.wakePath m).fflags = g.fflags := rfl
@[simp] theorem Group.wakePath_fmode (g : Group) (m : BitVec 16) : (g.wakePath m).fmode = g.fmode := rfl
@[simp] theorem Group.wakePath_gens (g : Group) (m : BitVec 16) : (g.wakePath m).gens = g.gens := rfl
@[simp] theorem Group.wakePath_drainGen (g : Group) (m : BitVec 16) : (g.wakePath m).drainGen = g.drainGen := rfl
@[simp] theorem Group.wakePath_batchNo (g : Group) (m : BitVec 16) : (g.wakePath m).batchNo = g.batchNo := rfl
@[simp] theorem Group.wakePath_ctr (g : Group) (m : BitVec 16) : (g.wakePath m).ctr = g.ctr := rfl
@[simp] theorem Group.wakePath_segs (g : Group) (m : BitVec 16) : (g.wakePath m).segs = g.segs := rfl
@[simp] theorem Group.wakePath_hg (g : Group) (m : BitVec 16) : (g.wakePath m).hg = g.hg := rfl
@[simp] theorem Group.wakePath_outs (g : Group) (m : BitVec 16) : (g.wakePath m).outs = g.outs := rfl
@[simp] theorem Group.wakePath_priv (g : Group) (m : BitVec 16) : (g.wakePath m).priv = g.priv := rfl
@[simp] theorem Group.wakePath_handler (g : Group) (m : BitVec 16) : (g.wakePath m).handler = g.handler := rfl
@[simp] theorem Group.wakePath_ret (g : Group) (m : BitVec 16) : (g.wakePath m).ret = g.ret := rfl
@[simp] theorem Group.wakePath_clause (g : Group) (m : BitVec 16) : (g.wakePath m).clause = g.clause := rfl
@[simp] theorem Group.wakePath_age (g : Group) (m : BitVec 16) : (g.wakePath m).age = g.age := rfl
@[simp] theorem Group.wakePath_wake (g : Group) (m : BitVec 16) : (g.wakePath m).wake = g.wake := rfl
@[simp] theorem Group.wakePath_yieldFor (g : Group) (m : BitVec 16) : (g.wakePath m).yieldFor = g.yieldFor := rfl
@[simp] theorem Group.wakePath_bg (g : Group) (m : BitVec 16) : (g.wakePath m).bg = g.bg := rfl
@[simp] theorem Group.wakePath_ecc (g : Group) (m : BitVec 16) : (g.wakePath m).ecc = g.ecc := rfl
@[simp] theorem Group.wakePath_cancel (g : Group) (m : BitVec 16) : (g.wakePath m).cancel = g.cancel := rfl
@[simp] theorem Group.wakePath_preempt (g : Group) (m : BitVec 16) : (g.wakePath m).preempt = g.preempt := rfl
@[simp] theorem Group.wakePath_stopped (g : Group) (m : BitVec 16) : (g.wakePath m).stopped = g.stopped := rfl
@[simp] theorem Group.wakePath_taken (g : Group) (m : BitVec 16) : (g.wakePath m).taken = g.taken := rfl
@[simp] theorem Group.wakePath_acc (g : Group) (m : BitVec 16) : (g.wakePath m).acc = g.acc := rfl
@[simp] theorem Group.wakePath_clk0 (g : Group) (m : BitVec 16) : (g.wakePath m).clk0 = g.clk0 := rfl
@[simp] theorem Group.wakePath_holds (g : Group) (m : BitVec 16) : (g.wakePath m).holds = g.holds := rfl
@[simp] theorem Group.wakePath_openCmds (g : Group) (m : BitVec 16) : (g.wakePath m).openCmds = g.openCmds := rfl
@[simp] theorem Group.wakePath_poison (g : Group) (m : BitVec 16) : (g.wakePath m).poison = g.poison := rfl
@[simp] theorem Group.wakePath_soft (g : Group) (m : BitVec 16) : (g.wakePath m).soft = g.soft := rfl
@[simp] theorem Group.wakePath_nf (g : Group) (m : BitVec 16) : (g.wakePath m).nf = g.nf := rfl
@[simp] theorem Group.wakePath_windows (g : Group) (m : BitVec 16) : (g.wakePath m).windows = g.windows := rfl

/-! ### Group.late -/

@[simp] theorem Group.late_live (g : Group) (tok : Nat) (m : BitVec 16) (rs : List Reg) (vs : Option (List Word)) : (g.late tok m rs vs).live = g.live := rfl
@[simp] theorem Group.late_unit (g : Group) (tok : Nat) (m : BitVec 16) (rs : List Reg) (vs : Option (List Word)) : (g.late tok m rs vs).unit = g.unit := rfl
@[simp] theorem Group.late_gidx (g : Group) (tok : Nat) (m : BitVec 16) (rs : List Reg) (vs : Option (List Word)) : (g.late tok m rs vs).gidx = g.gidx := rfl
@[simp] theorem Group.late_v (g : Group) (tok : Nat) (m : BitVec 16) (rs : List Reg) (vs : Option (List Word)) : (g.late tok m rs vs).v = g.v := rfl
@[simp] theorem Group.late_s (g : Group) (tok : Nat) (m : BitVec 16) (rs : List Reg) (vs : Option (List Word)) : (g.late tok m rs vs).s = g.s := rfl
@[simp] theorem Group.late_p (g : Group) (tok : Nat) (m : BitVec 16) (rs : List Reg) (vs : Option (List Word)) : (g.late tok m rs vs).p = g.p := rfl
@[simp] theorem Group.late_q (g : Group) (tok : Nat) (m : BitVec 16) (rs : List Reg) (vs : Option (List Word)) : (g.late tok m rs vs).q = g.q := rfl
@[simp] theorem Group.late_t (g : Group) (tok : Nat) (m : BitVec 16) (rs : List Reg) (vs : Option (List Word)) : (g.late tok m rs vs).t = g.t := rfl
@[simp] theorem Group.late_b (g : Group) (tok : Nat) (m : BitVec 16) (rs : List Reg) (vs : Option (List Word)) : (g.late tok m rs vs).b = g.b := rfl
@[simp] theorem Group.late_bvalid (g : Group) (tok : Nat) (m : BitVec 16) (rs : List Reg) (vs : Option (List Word)) : (g.late tok m rs vs).bvalid = g.bvalid := rfl
@[simp] theorem Group.late_blocks (g : Group) (tok : Nat) (m : BitVec 16) (rs : List Reg) (vs : Option (List Word)) : (g.late tok m rs vs).blocks = g.blocks := rfl
@[simp] theorem Group.late_slices (g : Group) (tok : Nat) (m : BitVec 16) (rs : List Reg) (vs : Option (List Word)) : (g.late tok m rs vs).slices = g.slices := rfl
@[simp] theorem Group.late_paths (g : Group) (tok : Nat) (m : BitVec 16) (rs : List Reg) (vs : Option (List Word)) : (g.late tok m rs vs).paths = g.paths := rfl
@[simp] theorem Group.late_fflags (g : Group) (tok : Nat) (m : BitVec 16) (rs : List Reg) (vs : Option (List Word)) : (g.late tok m rs vs).fflags = g.fflags := rfl
@[simp] theorem Group.late_fmode (g : Group) (tok : Nat) (m : BitVec 16) (rs : List Reg) (vs : Option (List Word)) : (g.late tok m rs vs).fmode = g.fmode := rfl
@[simp] theorem Group.late_gens (g : Group) (tok : Nat) (m : BitVec 16) (rs : List Reg) (vs : Option (List Word)) : (g.late tok m rs vs).gens = g.gens := rfl
@[simp] theorem Group.late_drainGen (g : Group) (tok : Nat) (m : BitVec 16) (rs : List Reg) (vs : Option (List Word)) : (g.late tok m rs vs).drainGen = g.drainGen := rfl
@[simp] theorem Group.late_batchNo (g : Group) (tok : Nat) (m : BitVec 16) (rs : List Reg) (vs : Option (List Word)) : (g.late tok m rs vs).batchNo = g.batchNo := rfl
@[simp] theorem Group.late_ctr (g : Group) (tok : Nat) (m : BitVec 16) (rs : List Reg) (vs : Option (List Word)) : (g.late tok m rs vs).ctr = g.ctr := rfl
@[simp] theorem Group.late_segs (g : Group) (tok : Nat) (m : BitVec 16) (rs : List Reg) (vs : Option (List Word)) : (g.late tok m rs vs).segs = g.segs := rfl
@[simp] theorem Group.late_hg (g : Group) (tok : Nat) (m : BitVec 16) (rs : List Reg) (vs : Option (List Word)) : (g.late tok m rs vs).hg = g.hg := rfl
@[simp] theorem Group.late_priv (g : Group) (tok : Nat) (m : BitVec 16) (rs : List Reg) (vs : Option (List Word)) : (g.late tok m rs vs).priv = g.priv := rfl
@[simp] theorem Group.late_handler (g : Group) (tok : Nat) (m : BitVec 16) (rs : List Reg) (vs : Option (List Word)) : (g.late tok m rs vs).handler = g.handler := rfl
@[simp] theorem Group.late_ret (g : Group) (tok : Nat) (m : BitVec 16) (rs : List Reg) (vs : Option (List Word)) : (g.late tok m rs vs).ret = g.ret := rfl
@[simp] theorem Group.late_clause (g : Group) (tok : Nat) (m : BitVec 16) (rs : List Reg) (vs : Option (List Word)) : (g.late tok m rs vs).clause = g.clause := rfl
@[simp] theorem Group.late_age (g : Group) (tok : Nat) (m : BitVec 16) (rs : List Reg) (vs : Option (List Word)) : (g.late tok m rs vs).age = g.age := rfl
@[simp] theorem Group.late_wake (g : Group) (tok : Nat) (m : BitVec 16) (rs : List Reg) (vs : Option (List Word)) : (g.late tok m rs vs).wake = g.wake := rfl
@[simp] theorem Group.late_yieldFor (g : Group) (tok : Nat) (m : BitVec 16) (rs : List Reg) (vs : Option (List Word)) : (g.late tok m rs vs).yieldFor = g.yieldFor := rfl
@[simp] theorem Group.late_bg (g : Group) (tok : Nat) (m : BitVec 16) (rs : List Reg) (vs : Option (List Word)) : (g.late tok m rs vs).bg = g.bg := rfl
@[simp] theorem Group.late_ecc (g : Group) (tok : Nat) (m : BitVec 16) (rs : List Reg) (vs : Option (List Word)) : (g.late tok m rs vs).ecc = g.ecc := rfl
@[simp] theorem Group.late_cancel (g : Group) (tok : Nat) (m : BitVec 16) (rs : List Reg) (vs : Option (List Word)) : (g.late tok m rs vs).cancel = g.cancel := rfl
@[simp] theorem Group.late_preempt (g : Group) (tok : Nat) (m : BitVec 16) (rs : List Reg) (vs : Option (List Word)) : (g.late tok m rs vs).preempt = g.preempt := rfl
@[simp] theorem Group.late_stopped (g : Group) (tok : Nat) (m : BitVec 16) (rs : List Reg) (vs : Option (List Word)) : (g.late tok m rs vs).stopped = g.stopped := rfl
@[simp] theorem Group.late_taken (g : Group) (tok : Nat) (m : BitVec 16) (rs : List Reg) (vs : Option (List Word)) : (g.late tok m rs vs).taken = g.taken := rfl
@[simp] theorem Group.late_acc (g : Group) (tok : Nat) (m : BitVec 16) (rs : List Reg) (vs : Option (List Word)) : (g.late tok m rs vs).acc = g.acc := rfl
@[simp] theorem Group.late_clk0 (g : Group) (tok : Nat) (m : BitVec 16) (rs : List Reg) (vs : Option (List Word)) : (g.late tok m rs vs).clk0 = g.clk0 := rfl
@[simp] theorem Group.late_holds (g : Group) (tok : Nat) (m : BitVec 16) (rs : List Reg) (vs : Option (List Word)) : (g.late tok m rs vs).holds = g.holds := rfl
@[simp] theorem Group.late_openCmds (g : Group) (tok : Nat) (m : BitVec 16) (rs : List Reg) (vs : Option (List Word)) : (g.late tok m rs vs).openCmds = g.openCmds := rfl
@[simp] theorem Group.late_poison (g : Group) (tok : Nat) (m : BitVec 16) (rs : List Reg) (vs : Option (List Word)) : (g.late tok m rs vs).poison = g.poison := rfl
@[simp] theorem Group.late_soft (g : Group) (tok : Nat) (m : BitVec 16) (rs : List Reg) (vs : Option (List Word)) : (g.late tok m rs vs).soft = g.soft := rfl
@[simp] theorem Group.late_nf (g : Group) (tok : Nat) (m : BitVec 16) (rs : List Reg) (vs : Option (List Word)) : (g.late tok m rs vs).nf = g.nf := rfl
@[simp] theorem Group.late_windows (g : Group) (tok : Nat) (m : BitVec 16) (rs : List Reg) (vs : Option (List Word)) : (g.late tok m rs vs).windows = g.windows := rfl

/-! ### Group.setPc -/

@[simp] theorem Group.setPc_live (g : Group) (m : BitVec 16) (pc : Nat) (fl : Option Nat) : (g.setPc m pc fl).live = g.live := rfl
@[simp] theorem Group.setPc_unit (g : Group) (m : BitVec 16) (pc : Nat) (fl : Option Nat) : (g.setPc m pc fl).unit = g.unit := rfl
@[simp] theorem Group.setPc_gidx (g : Group) (m : BitVec 16) (pc : Nat) (fl : Option Nat) : (g.setPc m pc fl).gidx = g.gidx := rfl
@[simp] theorem Group.setPc_v (g : Group) (m : BitVec 16) (pc : Nat) (fl : Option Nat) : (g.setPc m pc fl).v = g.v := rfl
@[simp] theorem Group.setPc_s (g : Group) (m : BitVec 16) (pc : Nat) (fl : Option Nat) : (g.setPc m pc fl).s = g.s := rfl
@[simp] theorem Group.setPc_p (g : Group) (m : BitVec 16) (pc : Nat) (fl : Option Nat) : (g.setPc m pc fl).p = g.p := rfl
@[simp] theorem Group.setPc_q (g : Group) (m : BitVec 16) (pc : Nat) (fl : Option Nat) : (g.setPc m pc fl).q = g.q := rfl
@[simp] theorem Group.setPc_t (g : Group) (m : BitVec 16) (pc : Nat) (fl : Option Nat) : (g.setPc m pc fl).t = g.t := rfl
@[simp] theorem Group.setPc_b (g : Group) (m : BitVec 16) (pc : Nat) (fl : Option Nat) : (g.setPc m pc fl).b = g.b := rfl
@[simp] theorem Group.setPc_bvalid (g : Group) (m : BitVec 16) (pc : Nat) (fl : Option Nat) : (g.setPc m pc fl).bvalid = g.bvalid := rfl
@[simp] theorem Group.setPc_blocks (g : Group) (m : BitVec 16) (pc : Nat) (fl : Option Nat) : (g.setPc m pc fl).blocks = g.blocks := rfl
@[simp] theorem Group.setPc_paths (g : Group) (m : BitVec 16) (pc : Nat) (fl : Option Nat) : (g.setPc m pc fl).paths = g.paths := rfl
@[simp] theorem Group.setPc_fflags (g : Group) (m : BitVec 16) (pc : Nat) (fl : Option Nat) : (g.setPc m pc fl).fflags = g.fflags := rfl
@[simp] theorem Group.setPc_fmode (g : Group) (m : BitVec 16) (pc : Nat) (fl : Option Nat) : (g.setPc m pc fl).fmode = g.fmode := rfl
@[simp] theorem Group.setPc_gens (g : Group) (m : BitVec 16) (pc : Nat) (fl : Option Nat) : (g.setPc m pc fl).gens = g.gens := rfl
@[simp] theorem Group.setPc_drainGen (g : Group) (m : BitVec 16) (pc : Nat) (fl : Option Nat) : (g.setPc m pc fl).drainGen = g.drainGen := rfl
@[simp] theorem Group.setPc_batchNo (g : Group) (m : BitVec 16) (pc : Nat) (fl : Option Nat) : (g.setPc m pc fl).batchNo = g.batchNo := rfl
@[simp] theorem Group.setPc_ctr (g : Group) (m : BitVec 16) (pc : Nat) (fl : Option Nat) : (g.setPc m pc fl).ctr = g.ctr := rfl
@[simp] theorem Group.setPc_segs (g : Group) (m : BitVec 16) (pc : Nat) (fl : Option Nat) : (g.setPc m pc fl).segs = g.segs := rfl
@[simp] theorem Group.setPc_hg (g : Group) (m : BitVec 16) (pc : Nat) (fl : Option Nat) : (g.setPc m pc fl).hg = g.hg := rfl
@[simp] theorem Group.setPc_outs (g : Group) (m : BitVec 16) (pc : Nat) (fl : Option Nat) : (g.setPc m pc fl).outs = g.outs := rfl
@[simp] theorem Group.setPc_priv (g : Group) (m : BitVec 16) (pc : Nat) (fl : Option Nat) : (g.setPc m pc fl).priv = g.priv := rfl
@[simp] theorem Group.setPc_handler (g : Group) (m : BitVec 16) (pc : Nat) (fl : Option Nat) : (g.setPc m pc fl).handler = g.handler := rfl
@[simp] theorem Group.setPc_ret (g : Group) (m : BitVec 16) (pc : Nat) (fl : Option Nat) : (g.setPc m pc fl).ret = g.ret := rfl
@[simp] theorem Group.setPc_clause (g : Group) (m : BitVec 16) (pc : Nat) (fl : Option Nat) : (g.setPc m pc fl).clause = g.clause := rfl
@[simp] theorem Group.setPc_age (g : Group) (m : BitVec 16) (pc : Nat) (fl : Option Nat) : (g.setPc m pc fl).age = g.age := rfl
@[simp] theorem Group.setPc_wake (g : Group) (m : BitVec 16) (pc : Nat) (fl : Option Nat) : (g.setPc m pc fl).wake = g.wake := rfl
@[simp] theorem Group.setPc_yieldFor (g : Group) (m : BitVec 16) (pc : Nat) (fl : Option Nat) : (g.setPc m pc fl).yieldFor = g.yieldFor := rfl
@[simp] theorem Group.setPc_bg (g : Group) (m : BitVec 16) (pc : Nat) (fl : Option Nat) : (g.setPc m pc fl).bg = g.bg := rfl
@[simp] theorem Group.setPc_ecc (g : Group) (m : BitVec 16) (pc : Nat) (fl : Option Nat) : (g.setPc m pc fl).ecc = g.ecc := rfl
@[simp] theorem Group.setPc_cancel (g : Group) (m : BitVec 16) (pc : Nat) (fl : Option Nat) : (g.setPc m pc fl).cancel = g.cancel := rfl
@[simp] theorem Group.setPc_preempt (g : Group) (m : BitVec 16) (pc : Nat) (fl : Option Nat) : (g.setPc m pc fl).preempt = g.preempt := rfl
@[simp] theorem Group.setPc_stopped (g : Group) (m : BitVec 16) (pc : Nat) (fl : Option Nat) : (g.setPc m pc fl).stopped = g.stopped := rfl
@[simp] theorem Group.setPc_taken (g : Group) (m : BitVec 16) (pc : Nat) (fl : Option Nat) : (g.setPc m pc fl).taken = g.taken := rfl
@[simp] theorem Group.setPc_acc (g : Group) (m : BitVec 16) (pc : Nat) (fl : Option Nat) : (g.setPc m pc fl).acc = g.acc := rfl
@[simp] theorem Group.setPc_clk0 (g : Group) (m : BitVec 16) (pc : Nat) (fl : Option Nat) : (g.setPc m pc fl).clk0 = g.clk0 := rfl
@[simp] theorem Group.setPc_holds (g : Group) (m : BitVec 16) (pc : Nat) (fl : Option Nat) : (g.setPc m pc fl).holds = g.holds := rfl
@[simp] theorem Group.setPc_openCmds (g : Group) (m : BitVec 16) (pc : Nat) (fl : Option Nat) : (g.setPc m pc fl).openCmds = g.openCmds := rfl
@[simp] theorem Group.setPc_poison (g : Group) (m : BitVec 16) (pc : Nat) (fl : Option Nat) : (g.setPc m pc fl).poison = g.poison := rfl
@[simp] theorem Group.setPc_soft (g : Group) (m : BitVec 16) (pc : Nat) (fl : Option Nat) : (g.setPc m pc fl).soft = g.soft := rfl
@[simp] theorem Group.setPc_nf (g : Group) (m : BitVec 16) (pc : Nat) (fl : Option Nat) : (g.setPc m pc fl).nf = g.nf := rfl
@[simp] theorem Group.setPc_windows (g : Group) (m : BitVec 16) (pc : Nat) (fl : Option Nat) : (g.setPc m pc fl).windows = g.windows := rfl

/-! ### Group.park -/

@[simp] theorem Group.park_live (g : Group) (m : BitVec 16) (w : Wait) (src k : Nat) : (g.park m w src k).live = g.live := rfl
@[simp] theorem Group.park_unit (g : Group) (m : BitVec 16) (w : Wait) (src k : Nat) : (g.park m w src k).unit = g.unit := rfl
@[simp] theorem Group.park_gidx (g : Group) (m : BitVec 16) (w : Wait) (src k : Nat) : (g.park m w src k).gidx = g.gidx := rfl
@[simp] theorem Group.park_v (g : Group) (m : BitVec 16) (w : Wait) (src k : Nat) : (g.park m w src k).v = g.v := rfl
@[simp] theorem Group.park_s (g : Group) (m : BitVec 16) (w : Wait) (src k : Nat) : (g.park m w src k).s = g.s := rfl
@[simp] theorem Group.park_p (g : Group) (m : BitVec 16) (w : Wait) (src k : Nat) : (g.park m w src k).p = g.p := rfl
@[simp] theorem Group.park_q (g : Group) (m : BitVec 16) (w : Wait) (src k : Nat) : (g.park m w src k).q = g.q := rfl
@[simp] theorem Group.park_t (g : Group) (m : BitVec 16) (w : Wait) (src k : Nat) : (g.park m w src k).t = g.t := rfl
@[simp] theorem Group.park_b (g : Group) (m : BitVec 16) (w : Wait) (src k : Nat) : (g.park m w src k).b = g.b := rfl
@[simp] theorem Group.park_bvalid (g : Group) (m : BitVec 16) (w : Wait) (src k : Nat) : (g.park m w src k).bvalid = g.bvalid := rfl
@[simp] theorem Group.park_blocks (g : Group) (m : BitVec 16) (w : Wait) (src k : Nat) : (g.park m w src k).blocks = g.blocks := rfl
@[simp] theorem Group.park_slices (g : Group) (m : BitVec 16) (w : Wait) (src k : Nat) : (g.park m w src k).slices = g.slices := rfl
@[simp] theorem Group.park_fflags (g : Group) (m : BitVec 16) (w : Wait) (src k : Nat) : (g.park m w src k).fflags = g.fflags := rfl
@[simp] theorem Group.park_fmode (g : Group) (m : BitVec 16) (w : Wait) (src k : Nat) : (g.park m w src k).fmode = g.fmode := rfl
@[simp] theorem Group.park_gens (g : Group) (m : BitVec 16) (w : Wait) (src k : Nat) : (g.park m w src k).gens = g.gens := rfl
@[simp] theorem Group.park_drainGen (g : Group) (m : BitVec 16) (w : Wait) (src k : Nat) : (g.park m w src k).drainGen = g.drainGen := rfl
@[simp] theorem Group.park_batchNo (g : Group) (m : BitVec 16) (w : Wait) (src k : Nat) : (g.park m w src k).batchNo = g.batchNo := rfl
@[simp] theorem Group.park_ctr (g : Group) (m : BitVec 16) (w : Wait) (src k : Nat) : (g.park m w src k).ctr = g.ctr := rfl
@[simp] theorem Group.park_segs (g : Group) (m : BitVec 16) (w : Wait) (src k : Nat) : (g.park m w src k).segs = g.segs := rfl
@[simp] theorem Group.park_hg (g : Group) (m : BitVec 16) (w : Wait) (src k : Nat) : (g.park m w src k).hg = g.hg := rfl
@[simp] theorem Group.park_outs (g : Group) (m : BitVec 16) (w : Wait) (src k : Nat) : (g.park m w src k).outs = g.outs := rfl
@[simp] theorem Group.park_priv (g : Group) (m : BitVec 16) (w : Wait) (src k : Nat) : (g.park m w src k).priv = g.priv := rfl
@[simp] theorem Group.park_handler (g : Group) (m : BitVec 16) (w : Wait) (src k : Nat) : (g.park m w src k).handler = g.handler := rfl
@[simp] theorem Group.park_ret (g : Group) (m : BitVec 16) (w : Wait) (src k : Nat) : (g.park m w src k).ret = g.ret := rfl
@[simp] theorem Group.park_clause (g : Group) (m : BitVec 16) (w : Wait) (src k : Nat) : (g.park m w src k).clause = g.clause := rfl
@[simp] theorem Group.park_age (g : Group) (m : BitVec 16) (w : Wait) (src k : Nat) : (g.park m w src k).age = g.age := rfl
@[simp] theorem Group.park_wake (g : Group) (m : BitVec 16) (w : Wait) (src k : Nat) : (g.park m w src k).wake = g.wake := rfl
@[simp] theorem Group.park_yieldFor (g : Group) (m : BitVec 16) (w : Wait) (src k : Nat) : (g.park m w src k).yieldFor = g.yieldFor := rfl
@[simp] theorem Group.park_bg (g : Group) (m : BitVec 16) (w : Wait) (src k : Nat) : (g.park m w src k).bg = g.bg := rfl
@[simp] theorem Group.park_ecc (g : Group) (m : BitVec 16) (w : Wait) (src k : Nat) : (g.park m w src k).ecc = g.ecc := rfl
@[simp] theorem Group.park_cancel (g : Group) (m : BitVec 16) (w : Wait) (src k : Nat) : (g.park m w src k).cancel = g.cancel := rfl
@[simp] theorem Group.park_preempt (g : Group) (m : BitVec 16) (w : Wait) (src k : Nat) : (g.park m w src k).preempt = g.preempt := rfl
@[simp] theorem Group.park_stopped (g : Group) (m : BitVec 16) (w : Wait) (src k : Nat) : (g.park m w src k).stopped = g.stopped := rfl
@[simp] theorem Group.park_taken (g : Group) (m : BitVec 16) (w : Wait) (src k : Nat) : (g.park m w src k).taken = g.taken := rfl
@[simp] theorem Group.park_acc (g : Group) (m : BitVec 16) (w : Wait) (src k : Nat) : (g.park m w src k).acc = g.acc := rfl
@[simp] theorem Group.park_clk0 (g : Group) (m : BitVec 16) (w : Wait) (src k : Nat) : (g.park m w src k).clk0 = g.clk0 := rfl
@[simp] theorem Group.park_holds (g : Group) (m : BitVec 16) (w : Wait) (src k : Nat) : (g.park m w src k).holds = g.holds := rfl
@[simp] theorem Group.park_openCmds (g : Group) (m : BitVec 16) (w : Wait) (src k : Nat) : (g.park m w src k).openCmds = g.openCmds := rfl
@[simp] theorem Group.park_poison (g : Group) (m : BitVec 16) (w : Wait) (src k : Nat) : (g.park m w src k).poison = g.poison := rfl
@[simp] theorem Group.park_soft (g : Group) (m : BitVec 16) (w : Wait) (src k : Nat) : (g.park m w src k).soft = g.soft := rfl
@[simp] theorem Group.park_nf (g : Group) (m : BitVec 16) (w : Wait) (src k : Nat) : (g.park m w src k).nf = g.nf := rfl
@[simp] theorem Group.park_windows (g : Group) (m : BitVec 16) (w : Wait) (src k : Nat) : (g.park m w src k).windows = g.windows := rfl

/-! ### Group.resolveAll -/

@[simp] theorem Group.resolveAll_live (g : Group) : g.resolveAll.live = g.live := rfl
@[simp] theorem Group.resolveAll_unit (g : Group) : g.resolveAll.unit = g.unit := rfl
@[simp] theorem Group.resolveAll_gidx (g : Group) : g.resolveAll.gidx = g.gidx := rfl
@[simp] theorem Group.resolveAll_v (g : Group) : g.resolveAll.v = g.v := rfl
@[simp] theorem Group.resolveAll_s (g : Group) : g.resolveAll.s = g.s := rfl
@[simp] theorem Group.resolveAll_p (g : Group) : g.resolveAll.p = g.p := rfl
@[simp] theorem Group.resolveAll_q (g : Group) : g.resolveAll.q = g.q := rfl
@[simp] theorem Group.resolveAll_t (g : Group) : g.resolveAll.t = g.t := rfl
@[simp] theorem Group.resolveAll_b (g : Group) : g.resolveAll.b = g.b := rfl
@[simp] theorem Group.resolveAll_bvalid (g : Group) : g.resolveAll.bvalid = g.bvalid := rfl
@[simp] theorem Group.resolveAll_blocks (g : Group) : g.resolveAll.blocks = g.blocks := rfl
@[simp] theorem Group.resolveAll_paths (g : Group) : g.resolveAll.paths = g.paths := rfl
@[simp] theorem Group.resolveAll_fflags (g : Group) : g.resolveAll.fflags = g.fflags := rfl
@[simp] theorem Group.resolveAll_fmode (g : Group) : g.resolveAll.fmode = g.fmode := rfl
@[simp] theorem Group.resolveAll_gens (g : Group) : g.resolveAll.gens = g.gens := rfl
@[simp] theorem Group.resolveAll_drainGen (g : Group) : g.resolveAll.drainGen = g.drainGen := rfl
@[simp] theorem Group.resolveAll_batchNo (g : Group) : g.resolveAll.batchNo = g.batchNo := rfl
@[simp] theorem Group.resolveAll_ctr (g : Group) : g.resolveAll.ctr = g.ctr := rfl
@[simp] theorem Group.resolveAll_segs (g : Group) : g.resolveAll.segs = g.segs := rfl
@[simp] theorem Group.resolveAll_hg (g : Group) : g.resolveAll.hg = g.hg := rfl
@[simp] theorem Group.resolveAll_outs (g : Group) : g.resolveAll.outs = g.outs := rfl
@[simp] theorem Group.resolveAll_priv (g : Group) : g.resolveAll.priv = g.priv := rfl
@[simp] theorem Group.resolveAll_handler (g : Group) : g.resolveAll.handler = g.handler := rfl
@[simp] theorem Group.resolveAll_ret (g : Group) : g.resolveAll.ret = g.ret := rfl
@[simp] theorem Group.resolveAll_clause (g : Group) : g.resolveAll.clause = g.clause := rfl
@[simp] theorem Group.resolveAll_age (g : Group) : g.resolveAll.age = g.age := rfl
@[simp] theorem Group.resolveAll_wake (g : Group) : g.resolveAll.wake = g.wake := rfl
@[simp] theorem Group.resolveAll_yieldFor (g : Group) : g.resolveAll.yieldFor = g.yieldFor := rfl
@[simp] theorem Group.resolveAll_bg (g : Group) : g.resolveAll.bg = g.bg := rfl
@[simp] theorem Group.resolveAll_ecc (g : Group) : g.resolveAll.ecc = g.ecc := rfl
@[simp] theorem Group.resolveAll_cancel (g : Group) : g.resolveAll.cancel = g.cancel := rfl
@[simp] theorem Group.resolveAll_preempt (g : Group) : g.resolveAll.preempt = g.preempt := rfl
@[simp] theorem Group.resolveAll_stopped (g : Group) : g.resolveAll.stopped = g.stopped := rfl
@[simp] theorem Group.resolveAll_taken (g : Group) : g.resolveAll.taken = g.taken := rfl
@[simp] theorem Group.resolveAll_acc (g : Group) : g.resolveAll.acc = g.acc := rfl
@[simp] theorem Group.resolveAll_clk0 (g : Group) : g.resolveAll.clk0 = g.clk0 := rfl
@[simp] theorem Group.resolveAll_holds (g : Group) : g.resolveAll.holds = g.holds := rfl
@[simp] theorem Group.resolveAll_openCmds (g : Group) : g.resolveAll.openCmds = g.openCmds := rfl
@[simp] theorem Group.resolveAll_poison (g : Group) : g.resolveAll.poison = g.poison := rfl
@[simp] theorem Group.resolveAll_soft (g : Group) : g.resolveAll.soft = g.soft := rfl
@[simp] theorem Group.resolveAll_nf (g : Group) : g.resolveAll.nf = g.nf := rfl
@[simp] theorem Group.resolveAll_windows (g : Group) : g.resolveAll.windows = g.windows := rfl

/-! ### Group.split -/

@[simp] theorem Group.split_live (g : Group) : g.split.live = g.live := rfl
@[simp] theorem Group.split_unit (g : Group) : g.split.unit = g.unit := rfl
@[simp] theorem Group.split_gidx (g : Group) : g.split.gidx = g.gidx := rfl
@[simp] theorem Group.split_v (g : Group) : g.split.v = g.v := rfl
@[simp] theorem Group.split_s (g : Group) : g.split.s = g.s := rfl
@[simp] theorem Group.split_p (g : Group) : g.split.p = g.p := rfl
@[simp] theorem Group.split_q (g : Group) : g.split.q = g.q := rfl
@[simp] theorem Group.split_t (g : Group) : g.split.t = g.t := rfl
@[simp] theorem Group.split_b (g : Group) : g.split.b = g.b := rfl
@[simp] theorem Group.split_bvalid (g : Group) : g.split.bvalid = g.bvalid := rfl
@[simp] theorem Group.split_blocks (g : Group) : g.split.blocks = g.blocks := rfl
@[simp] theorem Group.split_slices (g : Group) : g.split.slices = g.slices := rfl
@[simp] theorem Group.split_fflags (g : Group) : g.split.fflags = g.fflags := rfl
@[simp] theorem Group.split_fmode (g : Group) : g.split.fmode = g.fmode := rfl
@[simp] theorem Group.split_gens (g : Group) : g.split.gens = g.gens := rfl
@[simp] theorem Group.split_drainGen (g : Group) : g.split.drainGen = g.drainGen := rfl
@[simp] theorem Group.split_batchNo (g : Group) : g.split.batchNo = g.batchNo := rfl
@[simp] theorem Group.split_ctr (g : Group) : g.split.ctr = g.ctr := rfl
@[simp] theorem Group.split_segs (g : Group) : g.split.segs = g.segs := rfl
@[simp] theorem Group.split_hg (g : Group) : g.split.hg = g.hg := rfl
@[simp] theorem Group.split_outs (g : Group) : g.split.outs = g.outs := rfl
@[simp] theorem Group.split_priv (g : Group) : g.split.priv = g.priv := rfl
@[simp] theorem Group.split_handler (g : Group) : g.split.handler = g.handler := rfl
@[simp] theorem Group.split_ret (g : Group) : g.split.ret = g.ret := rfl
@[simp] theorem Group.split_clause (g : Group) : g.split.clause = g.clause := rfl
@[simp] theorem Group.split_age (g : Group) : g.split.age = g.age := rfl
@[simp] theorem Group.split_wake (g : Group) : g.split.wake = g.wake := rfl
@[simp] theorem Group.split_yieldFor (g : Group) : g.split.yieldFor = g.yieldFor := rfl
@[simp] theorem Group.split_bg (g : Group) : g.split.bg = g.bg := rfl
@[simp] theorem Group.split_ecc (g : Group) : g.split.ecc = g.ecc := rfl
@[simp] theorem Group.split_cancel (g : Group) : g.split.cancel = g.cancel := rfl
@[simp] theorem Group.split_preempt (g : Group) : g.split.preempt = g.preempt := rfl
@[simp] theorem Group.split_stopped (g : Group) : g.split.stopped = g.stopped := rfl
@[simp] theorem Group.split_taken (g : Group) : g.split.taken = g.taken := rfl
@[simp] theorem Group.split_acc (g : Group) : g.split.acc = g.acc := rfl
@[simp] theorem Group.split_clk0 (g : Group) : g.split.clk0 = g.clk0 := rfl
@[simp] theorem Group.split_holds (g : Group) : g.split.holds = g.holds := rfl
@[simp] theorem Group.split_openCmds (g : Group) : g.split.openCmds = g.openCmds := rfl
@[simp] theorem Group.split_poison (g : Group) : g.split.poison = g.poison := rfl
@[simp] theorem Group.split_soft (g : Group) : g.split.soft = g.soft := rfl
@[simp] theorem Group.split_nf (g : Group) : g.split.nf = g.nf := rfl
@[simp] theorem Group.split_windows (g : Group) : g.split.windows = g.windows := rfl

/-! ### Group.setQ -/

@[simp] theorem Group.setQ_live (g : Group) (i : Nat) (b : Bool) : (g.setQ i b).live = g.live := by unfold Group.setQ; split <;> rfl
@[simp] theorem Group.setQ_unit (g : Group) (i : Nat) (b : Bool) : (g.setQ i b).unit = g.unit := by unfold Group.setQ; split <;> rfl
@[simp] theorem Group.setQ_gidx (g : Group) (i : Nat) (b : Bool) : (g.setQ i b).gidx = g.gidx := by unfold Group.setQ; split <;> rfl
@[simp] theorem Group.setQ_v (g : Group) (i : Nat) (b : Bool) : (g.setQ i b).v = g.v := by unfold Group.setQ; split <;> rfl
@[simp] theorem Group.setQ_s (g : Group) (i : Nat) (b : Bool) : (g.setQ i b).s = g.s := by unfold Group.setQ; split <;> rfl
@[simp] theorem Group.setQ_p (g : Group) (i : Nat) (b : Bool) : (g.setQ i b).p = g.p := by unfold Group.setQ; split <;> rfl
@[simp] theorem Group.setQ_t (g : Group) (i : Nat) (b : Bool) : (g.setQ i b).t = g.t := by unfold Group.setQ; split <;> rfl
@[simp] theorem Group.setQ_b (g : Group) (i : Nat) (b : Bool) : (g.setQ i b).b = g.b := by unfold Group.setQ; split <;> rfl
@[simp] theorem Group.setQ_bvalid (g : Group) (i : Nat) (b : Bool) : (g.setQ i b).bvalid = g.bvalid := by unfold Group.setQ; split <;> rfl
@[simp] theorem Group.setQ_blocks (g : Group) (i : Nat) (b : Bool) : (g.setQ i b).blocks = g.blocks := by unfold Group.setQ; split <;> rfl
@[simp] theorem Group.setQ_slices (g : Group) (i : Nat) (b : Bool) : (g.setQ i b).slices = g.slices := by unfold Group.setQ; split <;> rfl
@[simp] theorem Group.setQ_paths (g : Group) (i : Nat) (b : Bool) : (g.setQ i b).paths = g.paths := by unfold Group.setQ; split <;> rfl
@[simp] theorem Group.setQ_fflags (g : Group) (i : Nat) (b : Bool) : (g.setQ i b).fflags = g.fflags := by unfold Group.setQ; split <;> rfl
@[simp] theorem Group.setQ_fmode (g : Group) (i : Nat) (b : Bool) : (g.setQ i b).fmode = g.fmode := by unfold Group.setQ; split <;> rfl
@[simp] theorem Group.setQ_gens (g : Group) (i : Nat) (b : Bool) : (g.setQ i b).gens = g.gens := by unfold Group.setQ; split <;> rfl
@[simp] theorem Group.setQ_drainGen (g : Group) (i : Nat) (b : Bool) : (g.setQ i b).drainGen = g.drainGen := by unfold Group.setQ; split <;> rfl
@[simp] theorem Group.setQ_batchNo (g : Group) (i : Nat) (b : Bool) : (g.setQ i b).batchNo = g.batchNo := by unfold Group.setQ; split <;> rfl
@[simp] theorem Group.setQ_ctr (g : Group) (i : Nat) (b : Bool) : (g.setQ i b).ctr = g.ctr := by unfold Group.setQ; split <;> rfl
@[simp] theorem Group.setQ_segs (g : Group) (i : Nat) (b : Bool) : (g.setQ i b).segs = g.segs := by unfold Group.setQ; split <;> rfl
@[simp] theorem Group.setQ_hg (g : Group) (i : Nat) (b : Bool) : (g.setQ i b).hg = g.hg := by unfold Group.setQ; split <;> rfl
@[simp] theorem Group.setQ_outs (g : Group) (i : Nat) (b : Bool) : (g.setQ i b).outs = g.outs := by unfold Group.setQ; split <;> rfl
@[simp] theorem Group.setQ_priv (g : Group) (i : Nat) (b : Bool) : (g.setQ i b).priv = g.priv := by unfold Group.setQ; split <;> rfl
@[simp] theorem Group.setQ_handler (g : Group) (i : Nat) (b : Bool) : (g.setQ i b).handler = g.handler := by unfold Group.setQ; split <;> rfl
@[simp] theorem Group.setQ_ret (g : Group) (i : Nat) (b : Bool) : (g.setQ i b).ret = g.ret := by unfold Group.setQ; split <;> rfl
@[simp] theorem Group.setQ_clause (g : Group) (i : Nat) (b : Bool) : (g.setQ i b).clause = g.clause := by unfold Group.setQ; split <;> rfl
@[simp] theorem Group.setQ_age (g : Group) (i : Nat) (b : Bool) : (g.setQ i b).age = g.age := by unfold Group.setQ; split <;> rfl
@[simp] theorem Group.setQ_wake (g : Group) (i : Nat) (b : Bool) : (g.setQ i b).wake = g.wake := by unfold Group.setQ; split <;> rfl
@[simp] theorem Group.setQ_yieldFor (g : Group) (i : Nat) (b : Bool) : (g.setQ i b).yieldFor = g.yieldFor := by unfold Group.setQ; split <;> rfl
@[simp] theorem Group.setQ_bg (g : Group) (i : Nat) (b : Bool) : (g.setQ i b).bg = g.bg := by unfold Group.setQ; split <;> rfl
@[simp] theorem Group.setQ_ecc (g : Group) (i : Nat) (b : Bool) : (g.setQ i b).ecc = g.ecc := by unfold Group.setQ; split <;> rfl
@[simp] theorem Group.setQ_cancel (g : Group) (i : Nat) (b : Bool) : (g.setQ i b).cancel = g.cancel := by unfold Group.setQ; split <;> rfl
@[simp] theorem Group.setQ_preempt (g : Group) (i : Nat) (b : Bool) : (g.setQ i b).preempt = g.preempt := by unfold Group.setQ; split <;> rfl
@[simp] theorem Group.setQ_stopped (g : Group) (i : Nat) (b : Bool) : (g.setQ i b).stopped = g.stopped := by unfold Group.setQ; split <;> rfl
@[simp] theorem Group.setQ_taken (g : Group) (i : Nat) (b : Bool) : (g.setQ i b).taken = g.taken := by unfold Group.setQ; split <;> rfl
@[simp] theorem Group.setQ_acc (g : Group) (i : Nat) (b : Bool) : (g.setQ i b).acc = g.acc := by unfold Group.setQ; split <;> rfl
@[simp] theorem Group.setQ_clk0 (g : Group) (i : Nat) (b : Bool) : (g.setQ i b).clk0 = g.clk0 := by unfold Group.setQ; split <;> rfl
@[simp] theorem Group.setQ_holds (g : Group) (i : Nat) (b : Bool) : (g.setQ i b).holds = g.holds := by unfold Group.setQ; split <;> rfl
@[simp] theorem Group.setQ_openCmds (g : Group) (i : Nat) (b : Bool) : (g.setQ i b).openCmds = g.openCmds := by unfold Group.setQ; split <;> rfl
@[simp] theorem Group.setQ_poison (g : Group) (i : Nat) (b : Bool) : (g.setQ i b).poison = g.poison := by unfold Group.setQ; split <;> rfl
@[simp] theorem Group.setQ_soft (g : Group) (i : Nat) (b : Bool) : (g.setQ i b).soft = g.soft := by unfold Group.setQ; split <;> rfl
@[simp] theorem Group.setQ_nf (g : Group) (i : Nat) (b : Bool) : (g.setQ i b).nf = g.nf := by unfold Group.setQ; split <;> rfl
@[simp] theorem Group.setQ_windows (g : Group) (i : Nat) (b : Bool) : (g.setQ i b).windows = g.windows := by unfold Group.setQ; split <;> rfl

/-! ### Ix.latch -/

@[simp] theorem Ix.latch_live (x : Ix) (g : Group) (f : Nat → Word) : (x.latch g f).live = g.live := rfl
@[simp] theorem Ix.latch_unit (x : Ix) (g : Group) (f : Nat → Word) : (x.latch g f).unit = g.unit := rfl
@[simp] theorem Ix.latch_gidx (x : Ix) (g : Group) (f : Nat → Word) : (x.latch g f).gidx = g.gidx := rfl
@[simp] theorem Ix.latch_v (x : Ix) (g : Group) (f : Nat → Word) : (x.latch g f).v = g.v := rfl
@[simp] theorem Ix.latch_s (x : Ix) (g : Group) (f : Nat → Word) : (x.latch g f).s = g.s := rfl
@[simp] theorem Ix.latch_p (x : Ix) (g : Group) (f : Nat → Word) : (x.latch g f).p = g.p := rfl
@[simp] theorem Ix.latch_q (x : Ix) (g : Group) (f : Nat → Word) : (x.latch g f).q = g.q := rfl
@[simp] theorem Ix.latch_t (x : Ix) (g : Group) (f : Nat → Word) : (x.latch g f).t = g.t := rfl
@[simp] theorem Ix.latch_blocks (x : Ix) (g : Group) (f : Nat → Word) : (x.latch g f).blocks = g.blocks := rfl
@[simp] theorem Ix.latch_slices (x : Ix) (g : Group) (f : Nat → Word) : (x.latch g f).slices = g.slices := rfl
@[simp] theorem Ix.latch_paths (x : Ix) (g : Group) (f : Nat → Word) : (x.latch g f).paths = g.paths := rfl
@[simp] theorem Ix.latch_fflags (x : Ix) (g : Group) (f : Nat → Word) : (x.latch g f).fflags = g.fflags := rfl
@[simp] theorem Ix.latch_fmode (x : Ix) (g : Group) (f : Nat → Word) : (x.latch g f).fmode = g.fmode := rfl
@[simp] theorem Ix.latch_gens (x : Ix) (g : Group) (f : Nat → Word) : (x.latch g f).gens = g.gens := rfl
@[simp] theorem Ix.latch_drainGen (x : Ix) (g : Group) (f : Nat → Word) : (x.latch g f).drainGen = g.drainGen := rfl
@[simp] theorem Ix.latch_batchNo (x : Ix) (g : Group) (f : Nat → Word) : (x.latch g f).batchNo = g.batchNo := rfl
@[simp] theorem Ix.latch_ctr (x : Ix) (g : Group) (f : Nat → Word) : (x.latch g f).ctr = g.ctr := rfl
@[simp] theorem Ix.latch_segs (x : Ix) (g : Group) (f : Nat → Word) : (x.latch g f).segs = g.segs := rfl
@[simp] theorem Ix.latch_hg (x : Ix) (g : Group) (f : Nat → Word) : (x.latch g f).hg = g.hg := rfl
@[simp] theorem Ix.latch_outs (x : Ix) (g : Group) (f : Nat → Word) : (x.latch g f).outs = g.outs := rfl
@[simp] theorem Ix.latch_priv (x : Ix) (g : Group) (f : Nat → Word) : (x.latch g f).priv = g.priv := rfl
@[simp] theorem Ix.latch_handler (x : Ix) (g : Group) (f : Nat → Word) : (x.latch g f).handler = g.handler := rfl
@[simp] theorem Ix.latch_ret (x : Ix) (g : Group) (f : Nat → Word) : (x.latch g f).ret = g.ret := rfl
@[simp] theorem Ix.latch_clause (x : Ix) (g : Group) (f : Nat → Word) : (x.latch g f).clause = g.clause := rfl
@[simp] theorem Ix.latch_age (x : Ix) (g : Group) (f : Nat → Word) : (x.latch g f).age = g.age := rfl
@[simp] theorem Ix.latch_wake (x : Ix) (g : Group) (f : Nat → Word) : (x.latch g f).wake = g.wake := rfl
@[simp] theorem Ix.latch_yieldFor (x : Ix) (g : Group) (f : Nat → Word) : (x.latch g f).yieldFor = g.yieldFor := rfl
@[simp] theorem Ix.latch_bg (x : Ix) (g : Group) (f : Nat → Word) : (x.latch g f).bg = g.bg := rfl
@[simp] theorem Ix.latch_ecc (x : Ix) (g : Group) (f : Nat → Word) : (x.latch g f).ecc = g.ecc := rfl
@[simp] theorem Ix.latch_cancel (x : Ix) (g : Group) (f : Nat → Word) : (x.latch g f).cancel = g.cancel := rfl
@[simp] theorem Ix.latch_preempt (x : Ix) (g : Group) (f : Nat → Word) : (x.latch g f).preempt = g.preempt := rfl
@[simp] theorem Ix.latch_stopped (x : Ix) (g : Group) (f : Nat → Word) : (x.latch g f).stopped = g.stopped := rfl
@[simp] theorem Ix.latch_taken (x : Ix) (g : Group) (f : Nat → Word) : (x.latch g f).taken = g.taken := rfl
@[simp] theorem Ix.latch_acc (x : Ix) (g : Group) (f : Nat → Word) : (x.latch g f).acc = g.acc := rfl
@[simp] theorem Ix.latch_clk0 (x : Ix) (g : Group) (f : Nat → Word) : (x.latch g f).clk0 = g.clk0 := rfl
@[simp] theorem Ix.latch_holds (x : Ix) (g : Group) (f : Nat → Word) : (x.latch g f).holds = g.holds := rfl
@[simp] theorem Ix.latch_openCmds (x : Ix) (g : Group) (f : Nat → Word) : (x.latch g f).openCmds = g.openCmds := rfl
@[simp] theorem Ix.latch_poison (x : Ix) (g : Group) (f : Nat → Word) : (x.latch g f).poison = g.poison := rfl
@[simp] theorem Ix.latch_soft (x : Ix) (g : Group) (f : Nat → Word) : (x.latch g f).soft = g.soft := rfl
@[simp] theorem Ix.latch_nf (x : Ix) (g : Group) (f : Nat → Word) : (x.latch g f).nf = g.nf := rfl
@[simp] theorem Ix.latch_windows (x : Ix) (g : Group) (f : Nat → Word) : (x.latch g f).windows = g.windows := rfl

end Sys2Proof.Machine
end

