-- ==== Sys2Proof/Laws/Issue.lean ====
section
/-!
SUPPORT. The issue of one instruction: what it can answer, said once.
-/
namespace Sys2Proof.Machine

@[simp] theorem State.found_ex (s : State) (c : Clause) (n : Nat) : (s.found c n).ex = c.threads s.grp := rfl
@[simp] theorem State.found_s_grp (s : State) (c : Clause) (n : Nat) : (s.found c n).s.grp = (s.found c n).g := by
  simp [State.found]
@[simp] theorem State.found_s_cur (s : State) (c : Clause) (n : Nat) : (s.found c n).s.cur = s.cur := rfl

theorem issue_noClause {s : State} (n : Nat) (srcs dsts : List Span) (body : Ix → Eff) (h : s.grp.clause = none) :
    issue s n srcs dsts body = .fault .noClause := by
  unfold issue; rw [h]

/-- With an empty executing set the instruction does nothing but lose a loop that stood ready for it, and the clause goes
on (R38, R185). -/
theorem issue_empty {s : State} {c : Clause} (n : Nat) (srcs dsts : List Span) (body : Ix → Eff)
    (h : s.grp.clause = some c) (he : c.threads s.grp = 0) :
    issue s n srcs dsts body = .next ((s.found c n).skip.advance (c.wordsOf n srcs) true) := by
  unfold issue; rw [h]; simp [he]

/-- An operand with an outstanding write makes the instruction wait (R36). -/
theorem issue_busy {s : State} {c : Clause} (n : Nat) {srcs dsts : List Span} (body : Ix → Eff)
    (h : s.grp.clause = some c) (he : c.threads s.grp ≠ 0) (hb : s.grp.busy (srcs ++ dsts) = true) :
    issue s n srcs dsts body = .next s.blocked := by
  have he' : ¬c.threads s.grp = 0#64 := he
  unfold issue; rw [h]; simp [he', hb]

/-- A poisoned source raises ECC (R465). -/
theorem issue_tainted {s : State} {c : Clause} (n : Nat) {srcs dsts : List Span} (body : Ix → Eff)
    (h : s.grp.clause = some c) (he : c.threads s.grp ≠ 0) (hb : s.grp.busy (srcs ++ dsts) = false)
    (ht : s.grp.tainted srcs = true) :
    issue s n srcs dsts body =
      .next (((s.found c n).s.registerError s.cur srcs).takeTrap s.cur ((s.found c n).trap 5 0 0 0)) := by
  have he' : ¬c.threads s.grp = 0#64 := he
  unfold issue; rw [h]; simp [he', hb, ht]

/-- With no single-bit error in a source nothing is corrected (R463). -/
theorem State.corrected_none {s : State} {srcs : List Span}
    (h : (s.grp.soft.any fun p => srcs.any fun x => spanHas x p) = false) : s.corrected srcs = s := by
  unfold State.corrected; dsimp only; rw [h]; simp

/-- An instruction that is ready answers what its effect says. -/
theorem issue_ready {s : State} {c : Clause} (n : Nat) {srcs dsts : List Span} (body : Ix → Eff)
    (h : s.ready c srcs dsts) :
    issue s n srcs dsts body = (s.found c n).outcome s (c.wordsOf n srcs) dsts (body (s.found c n)) := by
  obtain ⟨hc, he, hb, ht, hs⟩ := h
  have he' : ¬c.threads s.grp = 0#64 := he
  unfold issue; rw [hc, State.corrected_none hs]; simp [he', hb, ht]

/-- Everything an instruction with a word can answer: never a refusal, and a fault only where no clause is in progress. -/
theorem issue_next {s : State} {c : Clause} (n : Nat) (srcs dsts : List Span) (body : Ix → Eff)
    (h : s.grp.clause = some c) : ∃ t, issue s n srcs dsts body = .next t := by
  unfold issue; rw [h]; dsimp only
  split
  · exact ⟨_, rfl⟩
  · split
    · exact ⟨_, rfl⟩
    · split
      · exact ⟨_, rfl⟩
      · cases body ((s.corrected srcs).found c n) <;> exact ⟨_, rfl⟩

end Sys2Proof.Machine
end

