-- ==== Sys2Proof/Laws/Lanes.lean ====
section
/-!
SUPPORT. The V and U pipes: what a result leaves in the registers and in the latch, said once for every instruction.
-/
namespace Sys2Proof.Machine

/-! ## Reading a register after a write -/

theorem getD_map_range {α : Type} (n : Nat) (f : Nat → α) (d : α) {l : Nat} (h : l < n) :
    ((List.range n).map f).getD l d = f l := by
  simp [List.getD_eq_getElem?_getD, List.getElem?_map, List.getElem?_range h]

theorem getLsbD_ofBoolListLE (l : List Bool) (i : Nat) : (BitVec.ofBoolListLE l).getLsbD i = l.getD i false := by
  induction l generalizing i with
  | nil => simp [BitVec.ofBoolListLE]
  | cons b t ih =>
    cases i with
    | zero => simp [BitVec.ofBoolListLE]
    | succ i => simp [BitVec.ofBoolListLE, ih]

theorem lanesOf_getLsbD (f : Nat → Bool) {l : Nat} (h : l < 64) : (lanesOf f).getLsbD l = f l := by
  unfold lanesOf
  rw [BitVec.getLsbD_setWidth, getLsbD_ofBoolListLE, getD_map_range 64 _ _ h]
  simp [h]

theorem Group.vAt_setV (g : Group) (r : Nat) (ex : Lanes) (f : Nat → Word) (q : Nat) {l : Nat} (h : l < 64) :
    (g.setV r ex f).vAt q l = if q = r ∧ ex.getLsbD l then f l else g.vAt q l := by
  by_cases hq : q = r
  · subst hq
    simp only [Group.vAt, Group.setV, FMap.get_put_same, true_and]
    rw [getD_map_range 64 _ _ h]
  · simp [Group.vAt, Group.setV, FMap.get_put_other _ _ _ _ hq, hq]

theorem Group.sAt_setS (g : Group) (r : Nat) (w : Word) (q : Nat) :
    (g.setS r w).sAt q = if q = r then w else g.sAt q := by
  by_cases hq : q = r
  · subst hq; simp [Group.sAt, Group.setS]
  · simp [Group.sAt, Group.setS, FMap.get_put_other _ _ _ _ hq, hq]

theorem Group.pAt_setP (g : Group) (i : Nat) (ex : Lanes) (f : Nat → Bool) (q : Nat) {l : Nat} (h : l < 64) :
    ((g.setP i ex f).pAt q).getLsbD l = if q = i ∧ ex.getLsbD l then f l else (g.pAt q).getLsbD l := by
  by_cases hq : q = i
  · subst hq
    simp only [Group.pAt, Group.setP, FMap.get_put_same, true_and]
    rw [lanesOf_getLsbD _ h]
  · simp [Group.pAt, Group.setP, FMap.get_put_other _ _ _ _ hq, hq]

theorem Group.q_setQ (g : Group) (i : Nat) (b : Bool) {k : Nat} (h : k < 7) :
    (g.setQ i b).q.getLsbD k = if k = i then b else g.q.getLsbD k := by
  unfold Group.setQ
  by_cases hi : i < 7
  · rw [if_pos hi]
    interval_cases k <;> interval_cases i <;> cases b <;> simp
  · rw [if_neg hi, if_neg (by omega)]

theorem Ix.bAt_latch (x : Ix) (g : Group) (f : Nat → Word) (i : Nat) {l : Nat} (h : l < 64) :
    (x.latch g f).bAt i l = if i = x.c.k % 4 then f l else g.bAt i l := by
  by_cases hi : i = x.c.k % 4
  · subst hi
    simp only [Group.bAt, Ix.latch, FMap.get_ins_same, if_true]
    rw [getD_map_range 64 _ _ h]
  · simp [Group.bAt, Ix.latch, FMap.get_ins_other _ _ _ hi, hi]

/-! ## A write of one kind leaves the others alone -/

@[simp] theorem Ix.latch_reads_vAt (x : Ix) (g : Group) (f : Nat → Word) (j l : Nat) : (x.latch g f).vAt j l = g.vAt j l := rfl
@[simp] theorem Ix.latch_reads_sAt (x : Ix) (g : Group) (f : Nat → Word) (j : Nat) : (x.latch g f).sAt j = g.sAt j := rfl
@[simp] theorem Ix.latch_reads_pAt (x : Ix) (g : Group) (f : Nat → Word) (j : Nat) : (x.latch g f).pAt j = g.pAt j := rfl
@[simp] theorem Ix.latch_reads_q (x : Ix) (g : Group) (f : Nat → Word) : (x.latch g f).q = g.q := rfl
@[simp] theorem Group.setV_reads_sAt (g : Group) (r : Nat) (ex : Lanes) (f : Nat → Word) (j : Nat) : (g.setV r ex f).sAt j = g.sAt j := rfl
@[simp] theorem Group.setV_reads_pAt (g : Group) (r : Nat) (ex : Lanes) (f : Nat → Word) (j : Nat) : (g.setV r ex f).pAt j = g.pAt j := rfl
@[simp] theorem Group.setV_reads_q (g : Group) (r : Nat) (ex : Lanes) (f : Nat → Word) : (g.setV r ex f).q = g.q := rfl
@[simp] theorem Group.setV_reads_bAt (g : Group) (r : Nat) (ex : Lanes) (f : Nat → Word) (j l : Nat) : (g.setV r ex f).bAt j l = g.bAt j l := rfl
@[simp] theorem Group.setV_reads_bvalid (g : Group) (r : Nat) (ex : Lanes) (f : Nat → Word) : (g.setV r ex f).bvalid = g.bvalid := rfl
@[simp] theorem Group.setS_reads_vAt (g : Group) (r : Nat) (w : Word) (j l : Nat) : (g.setS r w).vAt j l = g.vAt j l := rfl
@[simp] theorem Group.setS_reads_pAt (g : Group) (r : Nat) (w : Word) (j : Nat) : (g.setS r w).pAt j = g.pAt j := rfl
@[simp] theorem Group.setS_reads_q (g : Group) (r : Nat) (w : Word) : (g.setS r w).q = g.q := rfl
@[simp] theorem Group.setS_reads_bAt (g : Group) (r : Nat) (w : Word) (j l : Nat) : (g.setS r w).bAt j l = g.bAt j l := rfl
@[simp] theorem Group.setS_reads_bvalid (g : Group) (r : Nat) (w : Word) : (g.setS r w).bvalid = g.bvalid := rfl
@[simp] theorem Group.setP_reads_vAt (g : Group) (i : Nat) (ex : Lanes) (f : Nat → Bool) (j l : Nat) : (g.setP i ex f).vAt j l = g.vAt j l := rfl
@[simp] theorem Group.setP_reads_sAt (g : Group) (i : Nat) (ex : Lanes) (f : Nat → Bool) (j : Nat) : (g.setP i ex f).sAt j = g.sAt j := rfl
@[simp] theorem Group.setP_reads_q (g : Group) (i : Nat) (ex : Lanes) (f : Nat → Bool) : (g.setP i ex f).q = g.q := rfl
@[simp] theorem Group.setP_reads_bAt (g : Group) (i : Nat) (ex : Lanes) (f : Nat → Bool) (j l : Nat) : (g.setP i ex f).bAt j l = g.bAt j l := rfl
@[simp] theorem Group.setP_reads_bvalid (g : Group) (i : Nat) (ex : Lanes) (f : Nat → Bool) : (g.setP i ex f).bvalid = g.bvalid := rfl
@[simp] theorem Group.setQ_reads_vAt (g : Group) (i : Nat) (b : Bool) (j l : Nat) : (g.setQ i b).vAt j l = g.vAt j l := by unfold Group.setQ; split <;> rfl
@[simp] theorem Group.setQ_reads_sAt (g : Group) (i : Nat) (b : Bool) (j : Nat) : (g.setQ i b).sAt j = g.sAt j := by unfold Group.setQ; split <;> rfl
@[simp] theorem Group.setQ_reads_pAt (g : Group) (i : Nat) (b : Bool) (j : Nat) : (g.setQ i b).pAt j = g.pAt j := by unfold Group.setQ; split <;> rfl
@[simp] theorem Group.setQ_reads_bAt (g : Group) (i : Nat) (b : Bool) (j l : Nat) : (g.setQ i b).bAt j l = g.bAt j l := by unfold Group.setQ; split <;> rfl
@[simp] theorem Group.setQ_reads_bvalid (g : Group) (i : Nat) (b : Bool) : (g.setQ i b).bvalid = g.bvalid := by unfold Group.setQ; split <;> rfl

/-! ## A result written -/

theorem Ix.write_wrote (x : Ix) (ws : Bool) (d : BitVec 8) (f : Nat → Word) (g : Group) (hd : legalDest d = true)
    (hv : ∀ r l, g.vAt r l = x.g.vAt r l) (hs : ∀ r, g.sAt r = x.g.sAt r) (hp : ∀ r, g.pAt r = x.g.pAt r)
    (hq : g.q = x.g.q) (hb : ∀ i l, g.bAt i l = x.g.bAt i l) (hbv : g.bvalid = x.g.bvalid) :
    Wrote x ws d f (x.write g ws d.toNat f) := by
  have hlt := d.isLt
  simp only [legalDest, isV, isS, isP, Bool.or_eq_true, decide_eq_true_eq] at hd
  have hcls : (isV d.toNat = true ∧ isS d.toNat = false ∧ isP d.toNat = false ∧ d.toNat < 0x80) ∨
      (isV d.toNat = false ∧ isS d.toNat = true ∧ isP d.toNat = false ∧ 0x80 ≤ d.toNat ∧ d.toNat < 0xC0) ∨
      (isV d.toNat = false ∧ isS d.toNat = false ∧ isP d.toNat = true ∧ 0xC4 ≤ d.toNat ∧ d.toNat < 0xCC) ∨
      (isV d.toNat = false ∧ isS d.toNat = false ∧ isP d.toNat = false ∧ 0xCC ≤ d.toNat ∧ d.toNat ≤ 0xD3) := by
    simp only [isV, isS, isP, decide_eq_true_eq, decide_eq_false_iff_not]
    omega
  rcases hcls with ⟨h1, h2, h3, h4⟩ | ⟨h1, h2, h3, h4⟩ | ⟨h1, h2, h3, h4⟩ | ⟨h1, h2, h3, h4⟩
  · have e : x.write g ws d.toNat f = x.latch (if ws then g else g.setV d.toNat x.ex f) (fun l => if x.ex.getLsbD l then f l else 0) := by
      simp [Ix.write, h1]
    rw [e]
    refine ⟨fun r l hl => ?_, fun r => ?_, fun i l hl => ?_, fun i hi => ?_, fun i l _ hl => ?_, ?_⟩
    · cases ws <;> simp [h1, hv, Group.vAt_setV _ _ _ _ _ hl]
    · cases ws <;> simp [h2, hs]
    · cases ws <;> simp [h3, hp]
    · cases ws <;> simp [hq, show ¬(0xCC + i = d.toNat) by omega]
    · rw [Ix.bAt_latch _ _ _ _ hl]; cases ws <;> simp [latchLane, h1, hb]
    · cases ws <;> simp [Ix.latch, hbv]
  · have e : x.write g ws d.toNat f = x.latch (if ws then g else g.setS (d.toNat - 0x80) (f (lowLane x.ex))) fun _ => f (lowLane x.ex) := by
      simp [Ix.write, h1, h2]
    rw [e]
    refine ⟨fun r l hl => ?_, fun r => ?_, fun i l hl => ?_, fun i hi => ?_, fun i l _ hl => ?_, ?_⟩
    · cases ws <;> simp [h1, hv]
    · cases ws <;> simp [h2, hs, Group.sAt_setS, show (r = d.toNat - 128) ↔ (128 + r = d.toNat) by omega]
    · cases ws <;> simp [h3, hp]
    · cases ws <;> simp [hq, show ¬(0xCC + i = d.toNat) by omega]
    · rw [Ix.bAt_latch _ _ _ _ hl]; cases ws <;> simp [latchLane, h1, h2, hb]
    · cases ws <;> simp [Ix.latch, hbv]
  · have e : x.write g ws d.toNat f = x.latch (if ws then g else g.setP (d.toNat - 0xC4) x.ex fun l => decide (f l ≠ 0)) (fun l => if x.ex.getLsbD l then asPred (f l) else 0) := by
      simp [Ix.write, h1, h2, h3]
    rw [e]
    refine ⟨fun r l hl => ?_, fun r => ?_, fun i l hl => ?_, fun i hi => ?_, fun i l _ hl => ?_, ?_⟩
    · cases ws <;> simp [h1, hv]
    · cases ws <;> simp [h2, hs]
    · cases ws <;> simp [h3, hp, Group.pAt_setP _ _ _ _ _ hl, show (i = d.toNat - 196) ↔ (196 + i = d.toNat) by omega]
    · cases ws <;> simp [hq, show ¬(0xCC + i = d.toNat) by omega]
    · rw [Ix.bAt_latch _ _ _ _ hl]; cases ws <;> simp [latchLane, asPred, h1, h2, h3, hb]
    · cases ws <;> simp [Ix.latch, hbv]
  · have e : x.write g ws d.toNat f = x.latch (if ws then g else g.setQ (d.toNat - 0xCC) (decide (f (lowLane x.ex) ≠ 0))) fun _ => asPred (f (lowLane x.ex)) := by
      simp [Ix.write, h1, h2, h3]
    rw [e]
    refine ⟨fun r l hl => ?_, fun r => ?_, fun i l hl => ?_, fun i hi => ?_, fun i l _ hl => ?_, ?_⟩
    · cases ws <;> simp [h1, hv]
    · cases ws <;> simp [h2, hs]
    · cases ws <;> simp [h3, hp]
    · cases ws <;> simp [hq, Group.q_setQ _ _ _ hi, show (i = d.toNat - 204) ↔ (204 + i = d.toNat) by omega]
    · rw [Ix.bAt_latch _ _ _ _ hl]; cases ws <;> simp [latchLane, asPred, h1, h2, h3, hb]
    · cases ws <;> simp [Ix.latch, hbv]

/-! ## What follows a result -/

/-- A group after an effect on it has taken its turn: progress, the windows that remain, good data in place of errors. -/
def Ix.after (x : Ix) (dsts : List Span) (g : Group) : Group :=
  { g with paths := if g.changed x.g then (g.progress x.c.slices).paths else g.paths
           poison := g.poison.filter fun p => !wholeWrite x.ex dsts p
           soft := g.soft.filter fun p => !wholeWrite x.ex dsts p
           windows := if g.s = x.g.s then g.windows else g.windows.filter fun w =>
             decide ((g.sAt w.pair).toNat + (g.sAt (w.pair + 1)).toNat * pow2 32 = w.base) }

/-- Unmapping no block drops no register. -/
theorem Group.clearBlocks_zero (g : Group) : g.clearBlocks 0 = g := by
  unfold Group.clearBlocks; simp

theorem Group.keepWindows_eq (g : Group) : g.keepWindows = { g with windows := (g.windows.filter fun w =>
    decide ((g.sAt w.pair).toNat + (g.sAt (w.pair + 1)).toNat * pow2 32 = w.base)) } := by
  unfold Group.keepWindows; split
  · rename_i hw; cases g; simp_all
  · rfl

/-- What follows an effect on the group that maps and unmaps no block. -/
theorem State.landed_setGrp (s : State) (c : Clause) (n : Nat) (dsts : List Span) (g : Group)
    (hg : g.blocks = (s.found c n).g.blocks) :
    (s.found c n).landed dsts ((s.found c n).s.setGrp g) = s.setGrp ((s.found c n).after dsts g) := by
  have e : (s.found c n).s.setGrp g = s.setGrp g := State.setGrp_setGrp s _ g
  have hz : (s.found c n).g.clearBlocks ((s.found c n).g.blocks &&& ~~~g.blocks) = (s.found c n).g := by
    rw [hg, BitVec.and_not_self]; exact Group.clearBlocks_zero _
  unfold Ix.landed Ix.after
  rw [e, State.grp_setGrp, hz]
  have hk : ∀ h : Group, h.s = g.s → ∃ r : Group, r = { h with windows := if g.s = (s.found c n).g.s then h.windows else
        (h.windows.filter fun w => decide ((g.sAt w.pair).toNat + (g.sAt (w.pair + 1)).toNat * pow2 32 = w.base)) } ∧
      (if h.windows = [] ∨ h.s = (s.found c n).g.s then s.setGrp h else s.setGrp h.keepWindows) = s.setGrp r := by
    intro h hs
    refine ⟨_, rfl, ?_⟩
    have ha : ∀ i, h.sAt i = g.sAt i := fun i => by simp only [Group.sAt, hs]
    rw [Group.keepWindows_eq]
    simp only [ha, ← hs]
    by_cases h1 : h.s = (s.found c n).g.s
    · simp only [h1, or_true, if_true]; rw [← h1]
    · by_cases h2 : h.windows = []
      · simp only [h2, h1, or_false, if_true, List.filter_nil, if_false]; rw [← h2]
      · simp only [h1, h2, or_self, if_false]
  have hl : ∀ h : Group, (if h.poison = [] ∧ h.soft = [] then s.setGrp h else s.setGrp { h with
      poison := h.poison.filter fun p => !wholeWrite (s.found c n).ex dsts p
      soft := h.soft.filter fun p => !wholeWrite (s.found c n).ex dsts p }) = s.setGrp { h with
      poison := h.poison.filter fun p => !wholeWrite (s.found c n).ex dsts p
      soft := h.soft.filter fun p => !wholeWrite (s.found c n).ex dsts p } := by
    intro h; split
    · rename_i hp; cases h; simp_all
    · rfl
  by_cases hc : g.changed (s.found c n).g
  · obtain ⟨r, hr, er⟩ := hk (g.progress (s.found c n).c.slices) rfl
    simp only [hc, if_true, State.setGrp_setGrp, State.grp_setGrp]
    rw [er]
    simp only [State.setGrp_setGrp, State.grp_setGrp, hl]; rw [hr]; rfl
  · obtain ⟨r, hr, er⟩ := hk g rfl
    simp only [hc, Bool.false_eq_true, if_false, State.setGrp_setGrp, State.grp_setGrp]
    rw [er]
    simp only [State.setGrp_setGrp, State.grp_setGrp, hl]; rw [hr]

theorem Wrote.after {x : Ix} {ws : Bool} {d : BitVec 8} {f : Nat → Word} {g : Group} (dsts : List Span)
    (h : Wrote x ws d f g) : Wrote x ws d f (x.after dsts g) :=
  ⟨h.vecs, h.scalars, h.preds, h.uniforms, h.latch, h.valid⟩

theorem Kept.after {x : Ix} (dsts : List Span) {g : Group} (ht : g.t = x.g.t) (hp : g.paths = x.g.paths)
    (hq : g.poison = x.g.poison) (ho : g.soft = x.g.soft) (hw : g.windows = x.g.windows)
    (hr : { g with v := x.g.v, s := x.g.s, p := x.g.p, q := x.g.q, b := x.g.b, bvalid := x.g.bvalid
                   fflags := x.g.fflags, gens := x.g.gens } = x.g) : Kept x dsts (x.after dsts g) := by
  refine ⟨ht, ?_, ?_, ?_, ?_, ?_⟩
  · have e : ∀ h, (x.after dsts g).changed h = g.changed h := fun _ => rfl
    rw [e]; simp [Ix.after, Group.progress, hp]
  · simp [Ix.after, hq]
  · simp [Ix.after, ho]
  · rw [← hw]; rfl
  · rw [← hr]; simp [Ix.after, hp, hq, ho, hw, ht]

/-! ## One instruction of the V or U pipe -/

/-- Only the registers and the latch of a group are written by a destination. -/
theorem Ix.write_rest (x : Ix) (g : Group) (ws : Bool) (d : Nat) (f : Nat → Word) :
    x.write g ws d f =
      { g with v := (x.write g ws d f).v, s := (x.write g ws d f).s, p := (x.write g ws d f).p
               q := (x.write g ws d f).q, b := (x.write g ws d f).b, bvalid := (x.write g ws d f).bvalid } := by
  unfold Ix.write Ix.latch
  dsimp only
  split
  · cases ws <;> rfl
  · split
    · cases ws <;> rfl
    · split
      · cases ws <;> rfl
      · cases ws <;> simp only [Bool.false_eq_true, if_false, if_true]
        unfold Group.setQ; split <;> rfl

/-- What an instruction whose result is written by `Ix.write` answers. -/
theorem write_lands {s : State} {c : Clause} {srcs : List Span} {ws : BitVec 1} {d : BitVec 8} (body : Ix → Eff)
    (f : Nat → Word) (fl : BitVec 5) (gens : FMap Word) (hr : s.ready c srcs (destSpan ws d 1))
    (hd : legalDest d = true)
    (hb : body (s.found c 1) = .done ((s.found c 1).s.setGrp
      (((s.found c 1).write { (s.found c 1).g with gens := gens } (ws == 1) d.toNat f).raise fl))) :
    Lands s c srcs ws d f fl gens (issue s 1 srcs (destSpan ws d 1) body) := by
  have W0 := Ix.write_wrote (s.found c 1) (ws == 1) d f { (s.found c 1).g with gens := gens } hd (fun _ _ => rfl)
    (fun _ => rfl) (fun _ => rfl) rfl (fun _ _ => rfl) rfl
  have R := Ix.write_rest (s.found c 1) { (s.found c 1).g with gens := gens } (ws == 1) d.toNat f
  generalize (s.found c 1).write { (s.found c 1).g with gens := gens } (ws == 1) d.toNat f = gw at hb W0 R
  have W : Wrote (s.found c 1) (ws == 1) d f (gw.raise fl) :=
    ⟨W0.vecs, W0.scalars, W0.preds, W0.uniforms, W0.latch, W0.valid⟩
  rw [issue_ready 1 body hr, hb]
  refine ⟨(s.found c 1).after (destSpan ws d 1) (gw.raise fl), W.after _, Kept.after _ ?_ ?_ ?_ ?_ ?_ ?_, ?_, ?_, ?_⟩
  rotate_right
  · simp only [Ix.outcome]
    rw [State.landed_setGrp _ _ _ _ _ (by rw [R]; rfl)]
  all_goals (rw [R]; rfl)

/-- The lowest thread of a set that is not empty is one of its threads. -/
theorem lowLane_mem {ex : Lanes} (h : ex ≠ 0) : lowLane ex < 64 ∧ ex.getLsbD (lowLane ex) = true := by
  unfold lowLane
  cases hf : (List.range 64).find? fun l => ex.getLsbD l with
  | none =>
    exfalso; apply h
    apply BitVec.eq_of_getLsbD_eq
    intro i hi
    have := List.find?_eq_none.mp hf i (List.mem_range.mpr hi)
    simpa using this
  | some l =>
    have h1 := List.find?_some hf
    have h2 := List.mem_of_find?_eq_some hf
    exact ⟨List.mem_range.mp h2, h1⟩

/-- Only the values in the lanes that the destination takes matter. -/
theorem Wrote.congr {x : Ix} {ws : Bool} {d : BitVec 8} {f k : Nat → Word} {h : Group} (w : Wrote x ws d f h)
    (hl : uniformDest d.toNat = false → ∀ l, l < 64 → x.ex.getLsbD l = true → f l = k l)
    (h0 : f (lowLane x.ex) = k (lowLane x.ex)) : Wrote x ws d k h := by
  have hV : ∀ l, l < 64 → isV d.toNat = true → x.ex.getLsbD l = true → f l = k l := fun l h1 h2 h3 => by
    refine hl ?_ l h1 h3
    simp only [isV, decide_eq_true_eq] at h2
    simp only [uniformDest, isS, isQ, Bool.or_eq_false_iff, decide_eq_false_iff_not]
    omega
  have hP : ∀ l, l < 64 → isP d.toNat = true → x.ex.getLsbD l = true → f l = k l := fun l h1 h2 h3 => by
    refine hl ?_ l h1 h3
    simp only [isP, decide_eq_true_eq] at h2
    simp only [uniformDest, isS, isQ, Bool.or_eq_false_iff, decide_eq_false_iff_not]
    omega
  refine ⟨fun r l h1 => ?_, fun r => ?_, fun i l h1 => ?_, fun i h1 => ?_, fun i l h1 h2 => ?_, w.valid⟩
  · rw [w.vecs r l h1]; split
    · rename_i hc; exact hV l h1 hc.2.1 hc.2.2.2
    · rfl
  · rw [w.scalars r, h0]
  · rw [w.preds i l h1]; split
    · rename_i hc; rw [hP l h1 hc.2.1 hc.2.2.2]
    · rfl
  · rw [w.uniforms i h1, h0]
  · rw [w.latch i l h1 h2]
    split
    · unfold latchLane
      rw [h0]
      split
      · split
        · rename_i hv he; exact hV l h2 hv he
        · rfl
      · split
        · rfl
        · split
          · split
            · rename_i hp he; rw [hP l h2 hp he]
            · rfl
          · rfl
    · rfl

theorem Lands.congr {s : State} {c : Clause} {srcs : List Span} {ws : BitVec 1} {d : BitVec 8} {f k : Nat → Word}
    {fl : BitVec 5} {gens : FMap Word} {o : Host.Outcome State Fault Refusal} (h : Lands s c srcs ws d f fl gens o)
    (hl : uniformDest d.toNat = false → ∀ l, l < 64 → (c.threads s.grp).getLsbD l = true → f l = k l)
    (h0 : f (lowLane (c.threads s.grp)) = k (lowLane (c.threads s.grp))) : Lands s c srcs ws d k fl gens o := by
  obtain ⟨g, h1, h2⟩ := h
  exact ⟨g, h1.congr hl h0, h2⟩

/-- Every integer instruction of one destination and one lane's result. -/
theorem intInstr_lands {s : State} {c : Clause} {srcs : List (BitVec 8)} {ws : BitVec 1} {d : BitVec 8}
    (f : Ix → Nat → Word) (hr : s.ready c (ops srcs) (destSpan ws d 1)) (hd : legalDest d = true) :
    LandsInt s c (ops srcs) ws d (f (s.found c 1)) (intInstr s ws d (srcs.map BitVec.toNat) f) := by
  have hex : c.threads s.grp ≠ 0 := hr.2.1
  have hlow := lowLane_mem hex
  have hs : (srcs.map BitVec.toNat).map (fun c => (c, 1)) = ops srcs := by simp [ops]
  unfold intInstr laneInstr
  rw [hs]
  cases hu : uniformDest d.toNat with
  | true =>
    refine (write_lands (f := fun _ => f (s.found c 1) (lowLane (c.threads s.grp))) (fl := 0) (gens := s.grp.gens) _ hr
      hd ?_).congr ?_ rfl
    · simp only [Ix.lanes, hu, if_true, Group.drawn, State.found_ex, ite_self]
      rfl
    · simp [hu]
  | false =>
    have key : ∀ l, l < 64 → (s.found c 1).ex.getLsbD l = true →
        (((List.range 64).map fun l => if (s.found c 1).ex.getLsbD l then (f (s.found c 1) l, (0 : BitVec 5)) else
          (0, 0)).getD l (0, 0)).1 = f (s.found c 1) l := by
      intro l h1 h2
      rw [getD_map_range 64 _ _ h1, if_pos h2]
    refine (write_lands (f := fun l => (((List.range 64).map fun l => if (s.found c 1).ex.getLsbD l then
      (f (s.found c 1) l, (0 : BitVec 5)) else (0, 0)).getD l (0, 0)).1) (fl := 0) (gens := s.grp.gens) _ hr hd ?_).congr
      (fun _ => key) (key _ hlow.1 hlow.2)
    simp only [Ix.lanes, hu, Group.drawn, ite_self, if_true, Bool.false_eq_true, if_false]
    have fl0 : ∀ (g : Nat → Word × BitVec 5) (L : List Nat) (m : BitVec 5), (∀ l, (g l).2 = 0) →
        (L.map g).foldl (fun m r => m ||| r.2) m = m := by
      intro g L
      induction L with
      | nil => intro m _; rfl
      | cons a t ih => intro m h; simp only [List.map_cons, List.foldl_cons]; rw [ih _ h, h a]; simp
    rw [fl0 _ _ _ (by intro l; split <;> rfl)]
    rfl

theorem Group.drawn_gens (g : Group) (u : Bool) (e : Lanes) (n : Nat) :
    { g with gens := (g.drawn u e n).gens } = g.drawn u e n := by
  unfold Group.drawn; split
  · rfl
  · split <;> rfl

theorem Group.drawn_gens_congr {g h : Group} (hg : g.gens = h.gens) (u : Bool) (e : Lanes) (n : Nat) :
    (g.drawn u e n).gens = (h.drawn u e n).gens := by
  have hgen : g.gen = h.gen := by funext i; simp [Group.gen, hg]
  unfold Group.drawn
  by_cases hn : n = 0
  · simp [hn, hg]
  · cases u <;> simp [hn, hg, hgen]

/-- Every instruction of one destination whose lanes deliver a word with flags, and draw under the stochastic mode. -/
theorem laneInstr_lands {s : State} {c : Clause} {srcs : List (BitVec 8)} {ws : BitVec 1} {d : BitVec 8} (nd : Nat)
    (f : Ix → Nat → (Nat → Nat) → Word × BitVec 5) (hr : s.ready c (ops srcs) (destSpan ws d 1))
    (hd : legalDest d = true) :
    LandsDraw s c (ops srcs) ws d nd (f (s.found c 1)) (laneInstr s ws d (srcs.map BitVec.toNat) nd f) := by
  have hlow := lowLane_mem (ex := (s.found c 1).ex) hr.2.1
  have hs : (srcs.map BitVec.toNat).map (fun c => (c, 1)) = ops srcs := by simp [ops]
  unfold laneInstr LandsDraw
  rw [hs]
  dsimp only
  set x := s.found c 1 with hx
  have hg : x.g.gen = s.grp.gen := rfl
  have hgens : (s.grp.drawn (uniformDest d.toNat) (c.threads s.grp) (if x.mode = 6 then nd else 0)).gens =
      (x.g.drawn (uniformDest d.toNat) x.ex (if x.mode = 6 then nd else 0)).gens := by
    exact Group.drawn_gens_congr (g := s.grp) (h := x.g) rfl _ _ _
  rw [hgens]
  set r : Nat → Word × BitVec 5 := fun l => f x l (drawAt (s.grp.gen (genOf d.toNat l))) with hrdef
  set G := (x.g.drawn (uniformDest d.toNat) x.ex (if x.mode = 6 then nd else 0)).gens with hG
  have hGd : { x.g with gens := G } = x.g.drawn (uniformDest d.toNat) x.ex (if x.mode = 6 then nd else 0) :=
    Group.drawn_gens _ _ _ _
  by_cases hu : uniformDest d.toNat = true
  · have hr64 : r (lowLane x.ex) = f x (lowLane x.ex) (drawAt (x.g.gen 64)) := by simp [hrdef, genOf, hu, hg]
    have hfl : laneFlags (c.threads s.grp) d.toNat (fun l => (r l).2) = (r (lowLane x.ex)).2 := by
      simp only [laneFlags, hu, if_true]; rfl
    rw [hfl]
    have W := write_lands (s := s) (c := c) (srcs := ops srcs) (ws := ws) (d := d)
      (fun y => .done (y.lanes (ws == 1) d.toNat nd (f y))) (fun _ => (r (lowLane x.ex)).1) (r (lowLane x.ex)).2 G hr hd
      (by
        show Eff.done (x.lanes (ws == 1) d.toNat nd (f x)) = _
        rw [← hx, hGd, hr64]
        simp only [Ix.lanes, hu, if_true])
    refine Lands.congr W (fun h => absurd hu (by simp [h])) rfl
  · have hu' : uniformDest d.toNat = false := by simpa using hu
    have hrl : ∀ l, r l = f x l (drawAt (x.g.gen l)) := by intro l; simp [hrdef, genOf, hu', hg]
    have hfl : laneFlags (c.threads s.grp) d.toNat (fun l => (r l).2) =
        ((List.range 64).map fun l => if x.ex.getLsbD l then r l else (0, 0)).foldl (fun m q => m ||| q.2) 0 := by
      simp only [laneFlags, hu', Bool.false_eq_true, if_false]
      rw [List.foldl_map, List.foldl_map]
      congr 1
      funext m l
      show m ||| (if x.ex.getLsbD l then (r l).2 else 0) = _
      split <;> rfl
    rw [hfl]
    have W := write_lands (s := s) (c := c) (srcs := ops srcs) (ws := ws) (d := d)
      (fun y => .done (y.lanes (ws == 1) d.toNat nd (f y)))
      (fun l => (((List.range 64).map fun l => if x.ex.getLsbD l then r l else (0, 0)).getD l (0, 0)).1)
      (((List.range 64).map fun l => if x.ex.getLsbD l then r l else (0, 0)).foldl (fun m q => m ||| q.2) 0) G hr hd
      (by
        show Eff.done (x.lanes (ws == 1) d.toNat nd (f x)) = _
        rw [← hx, hGd]
        simp only [Ix.lanes, hu', if_false, Bool.false_eq_true, hrl])
    have key : ∀ l, l < 64 → x.ex.getLsbD l = true →
        (((List.range 64).map fun l => if x.ex.getLsbD l then r l else (0, 0)).getD l (0, 0)).1 = (r l).1 := by
      intro l h1 h2
      rw [getD_map_range 64 _ _ h1, if_pos h2]
    exact Lands.congr W (fun _ => key) (key _ hlow.1 hlow.2)

end Sys2Proof.Machine
end

