-- ==== Sys2Proof/Laws/Memory.lean ====
section
/-!
SUPPORT. Memory: the canonical form is kept by every operation that writes bytes, and what is read back.
-/
namespace Sys2Proof.Machine

/-! ## The canonical form -/

theorem memSorted_tail {c : Host.Cell} {t : List Host.Cell} (h : memSorted (c :: t) = true) : memSorted t = true := by
  cases t with
  | nil => rfl
  | cons d t => simp [memSorted] at h; exact h.2

/-- Every address of a canonical list lies above a bound that lies below its first address. -/
theorem memSorted_above {c : Host.Cell} {t : List Host.Cell} (h : memSorted (c :: t) = true) :
    ∀ d ∈ t, c.1 < d.1 := by
  induction t generalizing c with
  | nil => simp
  | cons e t ih =>
    simp only [memSorted, Bool.and_eq_true, decide_eq_true_eq] at h
    intro d hd
    rcases List.mem_cons.mp hd with rfl | hd
    · exact h.1.2
    · exact lt_trans h.1.2 (ih h.2 d hd)

theorem memSorted_head {c : Host.Cell} {t : List Host.Cell} (h : memSorted (c :: t) = true) : c.2 ≠ 0 := by
  cases t with
  | nil => simpa [memSorted] using h
  | cons d t => simp [memSorted] at h; exact h.1.1

theorem memSorted_cons {c : Host.Cell} {t : List Host.Cell} (h0 : c.2 ≠ 0) (ha : ∀ d ∈ t, c.1 < d.1)
    (ht : memSorted t = true) : memSorted (c :: t) = true := by
  cases t with
  | nil => exact decide_eq_true h0
  | cons d t =>
    have h1 := ha d (by simp)
    simp only [memSorted, Bool.and_eq_true, decide_eq_true_eq]
    exact ⟨⟨h0, h1⟩, ht⟩

theorem memSorted_filter (p : Host.Cell → Bool) {m : List Host.Cell} (h : memSorted m = true) :
    memSorted (m.filter p) = true := by
  induction m with
  | nil => rfl
  | cons c t ih =>
    rw [List.filter_cons]
    split
    · exact memSorted_cons (memSorted_head h) (fun d hd => memSorted_above h d (List.mem_filter.mp hd).1)
        (ih (memSorted_tail h))
    · exact ih (memSorted_tail h)

theorem memSorted_ins {a : Nat} {b : Byte} {m : List Host.Cell} (hb : b ≠ 0) (h : memSorted m = true) :
    memSorted (FMap.ins m a b) = true := by
  induction m with
  | nil => exact decide_eq_true hb
  | cons c t ih =>
    obtain ⟨k, v⟩ := c
    simp only [FMap.ins]
    split
    · rename_i hlt
      refine memSorted_cons hb ?_ h
      intro d hd
      rcases List.mem_cons.mp hd with rfl | hd
      · exact hlt
      · exact lt_trans hlt (memSorted_above h d hd)
    · split
      · rename_i _ heq
        subst heq
        exact memSorted_cons hb (fun d hd => memSorted_above h d hd) (memSorted_tail h)
      · rename_i h1 h2
        refine memSorted_cons (memSorted_head h) ?_ (ih (memSorted_tail h))
        intro d hd
        rcases List.mem_cons.mp (FMap.ins_subset a b t hd) with rfl | hd
        · show k < a; omega
        · exact memSorted_above h d hd

theorem memSorted_put (a : Nat) (b : Byte) {m : List Host.Cell} (h : memSorted m = true) :
    memSorted (FMap.put 0 m a b) = true := by
  unfold FMap.put
  split
  · exact memSorted_filter _ h
  · rename_i hb; exact memSorted_ins hb h

/-- Setting one byte after another, whatever decides where and what. -/
theorem memSorted_foldl_put {α : Type} (f : α → Nat) (g : α → Byte) (l : List α) {m : List Host.Cell}
    (h : memSorted m = true) : memSorted (l.foldl (fun m x => FMap.put 0 m (f x) (g x)) m) = true := by
  induction l generalizing m with
  | nil => exact h
  | cons x t ih => exact ih (memSorted_put _ _ h)

/-- An operation that does not touch memory keeps its form. -/
theorem wf_of_mem_eq {s t : State} (h : t.mem = s.mem) (hs : Memory.wf s = true) : Memory.wf t = true := by
  unfold Memory.wf at *; rw [h]; exact hs

theorem State.wrByte_wf (a : Nat) (b : Byte) {s : State} (h : Memory.wf s = true) : Memory.wf (s.wrByte a b) = true :=
  memSorted_put a b h

theorem State.rawN_wf (a n v : Nat) {s : State} (h : Memory.wf s = true) : Memory.wf (s.rawN a n v) = true := by
  induction n generalizing a v s with
  | zero => exact h
  | succ n ih => exact ih _ _ (State.wrByte_wf _ _ h)

theorem State.rawBytes_wf (a : Nat) (bs : List Byte) {s : State} (h : Memory.wf s = true) :
    Memory.wf (s.rawBytes a bs) = true := by
  induction bs generalizing a s with
  | nil => exact h
  | cons b t ih => exact ih _ (State.wrByte_wf _ _ h)

@[simp] theorem State.publish_mem (s : State) (m : Nat → Bool) (f : VisW → Bool) : (s.publish m f).mem = s.mem := rfl
@[simp] theorem State.witness_mem (s : State) (d a n : Nat) : (s.witness d a n).mem = s.mem := rfl
@[simp] theorem State.settleAt_mem (s : State) (a n : Nat) : (s.settleAt a n).mem = s.mem := by
  unfold State.settleAt; split <;> rfl
@[simp] theorem State.cleanse_mem (s : State) (a n : Nat) : (s.cleanse a n).mem = s.mem := by
  unfold State.cleanse; split <;> rfl
@[simp] theorem State.findErrors_mem (s : State) (a n : Nat) : (s.findErrors a n).mem = s.mem := by
  unfold State.findErrors; split <;> rfl
@[simp] theorem State.touch_mem (s : State) (a : Nat) : (s.touch a).mem = s.mem := by
  unfold State.touch; dsimp only; split <;> (try split) <;> rfl
@[simp] theorem State.markDirty_mem (s : State) (a : Nat) : (s.markDirty a).mem = s.mem := by
  unfold State.markDirty; dsimp only; split <;> (try split) <;> rfl
@[simp] theorem State.keyError_mem (s : State) (d : Nat) : (s.keyError d).mem = s.mem := rfl
@[simp] theorem State.served_mem (s : State) (a n : Nat) : (s.served a n).mem = s.mem := by
  unfold State.served; dsimp only; split <;> simp
@[simp] theorem State.crcDone_mem (s : State) (a n : Nat) : (s.crcDone a n).mem = s.mem := by
  unfold State.crcDone; split <;> rfl
@[simp] theorem State.poisonAt_mem (s : State) (a n : Nat) : (s.poisonAt a n).mem = s.mem := rfl
@[simp] theorem State.flitDone_mem (s : State) (a n : Nat) : (s.flitDone a n).mem = s.mem := by
  unfold State.flitDone; split <;> (try split) <;> simp
@[simp] theorem State.stored_mem (s : State) (a n : Nat) : (s.stored a n).mem = s.mem := by simp [State.stored]
@[simp] theorem State.badRead_mem (s : State) (a n : Nat) : (s.badRead a n).2.mem = s.mem := by simp [State.badRead]
@[simp] theorem State.badHome_mem (s : State) (a n : Nat) : (s.badHome a n).2.mem = s.mem := by simp [State.badHome]

/-- A fold whose every step leaves memory alone leaves it alone. -/
theorem foldl_mem {α : Type} (f : State → α → State) (l : List α) (s : State)
    (hf : ∀ (t : State) (x : α), (f t x).mem = t.mem) : (l.foldl f s).mem = s.mem := by
  induction l generalizing s with
  | nil => rfl
  | cons x t ih => exact (ih _).trans (hf _ _)

@[simp] theorem State.markLines_mem (s : State) (a n : Nat) : (s.markLines a n).mem = s.mem :=
  foldl_mem _ _ _ fun t _ => State.markDirty_mem t _
@[simp] theorem State.overwrite_mem (s : State) (a n : Nat) : (s.overwrite a n).mem = s.mem := by
  unfold State.overwrite; dsimp only; split <;> simp
@[simp] theorem State.newWrite_mem (s : State) (g c a n m : Nat) (va : Option (Nat × Nat)) :
    (s.newWrite g c a n m va).mem = s.mem := by
  unfold State.newWrite; simp

theorem State.wrN_wf (a n v : Nat) {s : State} (h : Memory.wf s = true) : Memory.wf (s.wrN a n v) = true :=
  wf_of_mem_eq (State.stored_mem _ _ _) (State.rawN_wf _ _ _ (wf_of_mem_eq (by simp) h))

theorem State.wrBytes_wf (a : Nat) (bs : List Byte) {s : State} (h : Memory.wf s = true) :
    Memory.wf (s.wrBytes a bs) = true :=
  wf_of_mem_eq (State.stored_mem _ _ _) (State.rawBytes_wf _ _ (wf_of_mem_eq (by simp) h))

theorem State.wrLate_wf (a n v : Nat) {s : State} (h : Memory.wf s = true) : Memory.wf (s.wrLate a n v) = true :=
  wf_of_mem_eq (State.stored_mem _ _ _) (State.rawN_wf _ _ _ (wf_of_mem_eq (State.newWrite_mem _ _ _ _ _ _ _) h))

theorem State.wrBytesFor_wf (core a : Nat) (bs : List Byte) {s : State} (h : Memory.wf s = true) :
    Memory.wf (s.wrBytesFor core a bs) = true :=
  wf_of_mem_eq (State.stored_mem _ _ _) (State.rawBytes_wf _ _ (wf_of_mem_eq (State.newWrite_mem _ _ _ _ _ _ _) h))

/-- A fold whose every step keeps the form keeps it. -/
theorem foldl_wf {α : Type} (f : State → α → State) (l : List α) {s : State} (h : Memory.wf s = true)
    (hf : ∀ (t : State) (x : α), Memory.wf t = true → Memory.wf (f t x) = true) : Memory.wf (l.foldl f s) = true := by
  induction l generalizing s with
  | nil => exact h
  | cons x t ih => exact ih (hf _ _ h)

theorem State.rawN_crypt_wf (a n v : Nat) (c : FMap Nat) {s : State} (h : Memory.wf s = true) :
    Memory.wf { s.rawN a n v with crypt := c } = true := State.rawN_wf a n v h

theorem State.rekey_wf (key a n : Nat) {s : State} (h : Memory.wf s = true) : Memory.wf (s.rekey key a n) = true := by
  unfold State.rekey
  split
  · refine foldl_wf _ _ h ?_
    intro t blk ht
    dsimp only
    split
    · exact ht
    · exact State.rawN_crypt_wf _ _ _ _ ht
  · exact h

theorem State.writeAt_wf (agent core ka n v : Nat) (va : Option (Nat × Nat)) {s : State} (h : Memory.wf s = true) :
    Memory.wf (s.writeAt agent core ka n v va) = true := by
  unfold State.writeAt
  dsimp only
  split
  · exact h
  · rename_i key _
    exact wf_of_mem_eq (State.stored_mem _ _ _) (State.rawN_wf _ n v
      (wf_of_mem_eq (State.newWrite_mem _ _ _ _ _ _ _) (State.rekey_wf _ _ _ h)))

/-! ## Reading back -/

@[simp] theorem State.rdByte_wrByte_same (s : State) (a : Nat) (b : Byte) : (s.wrByte a b).rdByte a = b := by
  simp [State.rdByte, State.wrByte]
theorem State.rdByte_wrByte_other (s : State) (b : Byte) {a c : Nat} (h : c ≠ a) :
    (s.wrByte a b).rdByte c = s.rdByte c := by
  simp only [State.rdByte, State.wrByte]; exact FMap.get_put_other 0 0 _ _ h

/-- A write of n bytes leaves every other byte alone. -/
theorem State.rdByte_rawN_outside (a n v : Nat) (s : State) {c : Nat} (h : c < a ∨ a + n ≤ c) :
    (s.rawN a n v).rdByte c = s.rdByte c := by
  induction n generalizing a v s with
  | zero => rfl
  | succ n ih =>
    rw [State.rawN, ih (a + 1) _ _ (by omega)]
    exact State.rdByte_wrByte_other _ _ (by omega)

/-- Reading a byte asks memory alone. -/
theorem State.rdByte_of_mem {s t : State} (h : t.mem = s.mem) (c : Nat) : t.rdByte c = s.rdByte c := by
  unfold State.rdByte; rw [h]

theorem State.rdN_of_mem {s t : State} (h : t.mem = s.mem) (c n : Nat) : t.rdN c n = s.rdN c n := by
  induction n generalizing c with
  | zero => rfl
  | succ n ih => unfold State.rdN; rw [ih, State.rdByte_of_mem h]

theorem State.rdByte_wrN_outside (a n v : Nat) (s : State) {c : Nat} (h : c < a ∨ a + n ≤ c) :
    (s.wrN a n v).rdByte c = s.rdByte c := by
  unfold State.wrN
  rw [State.rdByte_of_mem (State.stored_mem _ _ _), State.rdByte_rawN_outside _ _ _ _ h]
  exact State.rdByte_of_mem (by simp) _

/-- What was written is read back. -/
theorem State.rdN_rawN (a n v : Nat) (s : State) : (s.rawN a n v).rdN a n = v % 256 ^ n := by
  induction n generalizing a v s with
  | zero => simp [State.rdN, Nat.mod_one]
  | succ n ih =>
    rw [State.rawN, State.rdN, ih, State.rdByte_rawN_outside _ _ _ _ (by omega)]
    simp only [State.rdByte_wrByte_same, BitVec.toNat_ofNat, Nat.reducePow]
    rw [Nat.mod_mod_of_dvd _ (by norm_num), pow_succ, Nat.mul_comm (256 ^ n) 256, Nat.mod_mul]

theorem State.rdN_wrN (a n v : Nat) (s : State) : (s.wrN a n v).rdN a n = v % 256 ^ n :=
  (State.rdN_of_mem (State.stored_mem _ _ _) _ _).trans (State.rdN_rawN _ _ _ _)

theorem State.reset_wf : Memory.wf State.reset = true := rfl

end Sys2Proof.Machine
end

