-- ==== Sys2Proof/Laws/PerInstr.lean ====
section
/-!
SUPPORT. The family RoundTrip: what the encoder writes, the decoder reads back, with every operand at every value that its
field admits. One lemma for each constructor of Instr.
-/
namespace Sys2Proof

set_option Elab.async false

theorem nbits_eq (x hi lo : Nat) : nbits x hi lo = x / 2 ^ lo % 2 ^ (hi + 1 - lo) := by
  simp [nbits, pow2, Nat.shiftRight_eq_div_pow, Nat.shiftLeft_eq]

theorem fld_eq {w lo x : Nat} (b : BitVec w) (h : x / 2 ^ lo % 2 ^ w = b.toNat) : fld w lo x = b := by
  apply BitVec.eq_of_toNat_eq
  simpa [fld, Nat.shiftRight_eq_div_pow] using h

/-- An instruction of one word. -/
theorem decode_one (n op : Nat) (i : Instr) (rest : List Word) (hn : n < 4294967296) (ho : n / 33554432 = op)
    (hf : isFormatM op = false) (hd : decodeOp op n = some i) : decode (BitVec.ofNat 32 n :: rest) = some (i, rest) := by
  have h1 : (BitVec.ofNat 32 n).toNat = n := by simp; omega
  have h2 : n >>> 25 = op := by rw [Nat.shiftRight_eq_div_pow]; exact ho
  simp [decode, h1, h2, hf, hd]

/-- The two words of format M. -/
theorem decode_two (op aop : Nat) (d a b off : BitVec 8) (inv : BitVec 1) (scope : BitVec 3) (ord : BitVec 2)
    (space sz : BitVec 3) (e : BitVec 8) (rest : List Word)
    (f : BitVec 8 → BitVec 8 → BitVec 8 → BitVec 8 → BitVec 1 → BitVec 3 → BitVec 2 → BitVec 3 → BitVec 3 → BitVec 8 → Instr)
    (ho : op < 128) (ha : aop < 16) (hf : isFormatM op = true) (hd : decodeM op aop = some f) :
    decode (encodeM op aop d a b off inv scope ord space sz e ++ rest) =
      some (f d a b off inv scope ord space sz e, rest) := by
  have k1 := d.isLt; have k2 := a.isLt; have k3 := b.isLt; have k4 := off.isLt; have k5 := inv.isLt
  have k6 := scope.isLt; have k7 := ord.isLt; have k8 := space.isLt; have k9 := sz.isLt; have k10 := e.isLt
  simp only [Nat.reducePow] at k1 k2 k3 k4 k5 k6 k7 k8 k9 k10
  have hn : (BitVec.ofNat 32 (op * 33554432 + d.toNat * 65536 + a.toNat * 256 + b.toNat)).toNat =
      op * 33554432 + d.toNat * 65536 + a.toNat * 256 + b.toNat := by simp; omega
  have hm : (BitVec.ofNat 32 (off.toNat * 16777216 + aop * 1048576 + inv.toNat * 524288 + scope.toNat * 65536 +
      ord.toNat * 16384 + space.toNat * 2048 + sz.toNat * 256 + e.toNat)).toNat =
      off.toNat * 16777216 + aop * 1048576 + inv.toNat * 524288 + scope.toNat * 65536 +
      ord.toNat * 16384 + space.toNat * 2048 + sz.toNat * 256 + e.toNat := by simp; omega
  have h2 : (op * 33554432 + d.toNat * 65536 + a.toNat * 256 + b.toNat) >>> 25 = op := by
    rw [Nat.shiftRight_eq_div_pow]; omega
  have h3 : nbits (op * 33554432 + d.toNat * 65536 + a.toNat * 256 + b.toNat) 24 24 = 0 := by
    rw [nbits_eq]; omega
  have h4 : nbits (off.toNat * 16777216 + aop * 1048576 + inv.toNat * 524288 + scope.toNat * 65536 +
      ord.toNat * 16384 + space.toNat * 2048 + sz.toNat * 256 + e.toNat) 23 20 = aop := by
    rw [nbits_eq]; omega
  simp only [encodeM, List.cons_append, List.nil_append, decode, hn, hm, h2, hf, if_true, h3, h4, hd, Option.map_some]
  rw [fld_eq d (by omega), fld_eq a (by omega), fld_eq b (by omega), fld_eq off (by omega), fld_eq inv (by omega),
    fld_eq scope (by omega), fld_eq ord (by omega), fld_eq space (by omega), fld_eq sz (by omega), fld_eq e (by omega)]

/-- The decoder reads back what the encoder writes. -/
def Laws.RoundTrip.Statement (i : Instr) : Prop := encode i ≠ [] → ∀ rest, decode (encode i ++ rest) = some (i, rest)

theorem decodeOp_01 (x : Nat) : decodeOp 0x01 x =
    if nbits x 24 0 = 0 then some .nop
    else none := rfl
theorem decodeOp_02 (x : Nat) : decodeOp 0x02 x =
    some (.br (fld 4 21 x) (fld 1 20 x) (fld 20 0 x)) := rfl
theorem decodeOp_03 (x : Nat) : decodeOp 0x03 x =
    some (.call (fld 4 21 x) (fld 1 20 x) (fld 20 0 x)) := rfl
theorem decodeOp_04 (x : Nat) : decodeOp 0x04 x =
    if nbits x 24 20 = 0 ∧ nbits x 13 0 = 0 then some (.jr (fld 6 14 x))
    else if nbits x 24 0 = 1048576 then some .ret
    else none := rfl
theorem decodeOp_05 (x : Nat) : decodeOp 0x05 x =
    if nbits x 24 20 = 0 ∧ nbits x 13 1 = 0 then some (.jf (fld 6 14 x) (fld 1 0 x))
    else none := rfl
theorem decodeOp_06 (x : Nat) : decodeOp 0x06 x =
    if nbits x 24 0 = 0 then some .exit
    else none := rfl
theorem decodeOp_07 (x : Nat) : decodeOp 0x07 x =
    if nbits x 3 0 = 0 then some (.modPrefix (fld 8 17 x) (fld 3 14 x) (fld 1 13 x) (fld 1 12 x) (fld 1 11 x) (fld 1 10 x) (fld 1 9 x) (fld 1 8 x) (fld 4 4 x))
    else none := rfl
theorem decodeOp_08 (x : Nat) : decodeOp 0x08 x =
    some (.iadd (fld 1 24 x) (fld 8 16 x) (fld 8 8 x) (fld 8 0 x)) := rfl
theorem decodeOp_09 (x : Nat) : decodeOp 0x09 x =
    some (.isub (fld 1 24 x) (fld 8 16 x) (fld 8 8 x) (fld 8 0 x)) := rfl
theorem decodeOp_0A (x : Nat) : decodeOp 0x0A x =
    some (.imul (fld 1 24 x) (fld 8 16 x) (fld 8 8 x) (fld 8 0 x)) := rfl
theorem decodeOp_0B (x : Nat) : decodeOp 0x0B x =
    some (.imulhs (fld 1 24 x) (fld 8 16 x) (fld 8 8 x) (fld 8 0 x)) := rfl
theorem decodeOp_0C (x : Nat) : decodeOp 0x0C x =
    some (.imulhu (fld 1 24 x) (fld 8 16 x) (fld 8 8 x) (fld 8 0 x)) := rfl
theorem decodeOp_0D (x : Nat) : decodeOp 0x0D x =
    some (.imad (fld 1 24 x) (fld 8 16 x) (fld 8 8 x) (fld 8 0 x)) := rfl
theorem decodeOp_0E (x : Nat) : decodeOp 0x0E x =
    some (.imin (fld 1 24 x) (fld 8 16 x) (fld 8 8 x) (fld 8 0 x)) := rfl
theorem decodeOp_0F (x : Nat) : decodeOp 0x0F x =
    some (.imax (fld 1 24 x) (fld 8 16 x) (fld 8 8 x) (fld 8 0 x)) := rfl
theorem decodeOp_10 (x : Nat) : decodeOp 0x10 x =
    some (.umin (fld 1 24 x) (fld 8 16 x) (fld 8 8 x) (fld 8 0 x)) := rfl
theorem decodeOp_11 (x : Nat) : decodeOp 0x11 x =
    some (.umax (fld 1 24 x) (fld 8 16 x) (fld 8 8 x) (fld 8 0 x)) := rfl
theorem decodeOp_12 (x : Nat) : decodeOp 0x12 x =
    some (.and (fld 1 24 x) (fld 8 16 x) (fld 8 8 x) (fld 8 0 x)) := rfl
theorem decodeOp_13 (x : Nat) : decodeOp 0x13 x =
    some (.or (fld 1 24 x) (fld 8 16 x) (fld 8 8 x) (fld 8 0 x)) := rfl
theorem decodeOp_14 (x : Nat) : decodeOp 0x14 x =
    some (.xor (fld 1 24 x) (fld 8 16 x) (fld 8 8 x) (fld 8 0 x)) := rfl
theorem decodeOp_15 (x : Nat) : decodeOp 0x15 x =
    some (.andn (fld 1 24 x) (fld 8 16 x) (fld 8 8 x) (fld 8 0 x)) := rfl
theorem decodeOp_16 (x : Nat) : decodeOp 0x16 x =
    some (.shl (fld 1 24 x) (fld 8 16 x) (fld 8 8 x) (fld 8 0 x)) := rfl
theorem decodeOp_17 (x : Nat) : decodeOp 0x17 x =
    some (.shr (fld 1 24 x) (fld 8 16 x) (fld 8 8 x) (fld 8 0 x)) := rfl
theorem decodeOp_18 (x : Nat) : decodeOp 0x18 x =
    some (.sar (fld 1 24 x) (fld 8 16 x) (fld 8 8 x) (fld 8 0 x)) := rfl
theorem decodeOp_19 (x : Nat) : decodeOp 0x19 x =
    some (.bfe (fld 1 24 x) (fld 8 16 x) (fld 8 8 x) (fld 8 0 x)) := rfl
theorem decodeOp_1A (x : Nat) : decodeOp 0x1A x =
    some (.bfi (fld 1 24 x) (fld 8 16 x) (fld 8 8 x) (fld 8 0 x)) := rfl
theorem decodeOp_1B (x : Nat) : decodeOp 0x1B x =
    some (.sel (fld 1 24 x) (fld 8 16 x) (fld 8 8 x) (fld 8 0 x)) := rfl
theorem decodeOp_1C (x : Nat) : decodeOp 0x1C x =
    some (.iadd64 (fld 1 24 x) (fld 8 16 x) (fld 8 8 x) (fld 8 0 x)) := rfl
theorem decodeOp_1D (x : Nat) : decodeOp 0x1D x =
    some (.ieq (fld 1 24 x) (fld 8 16 x) (fld 8 8 x) (fld 8 0 x)) := rfl
theorem decodeOp_1E (x : Nat) : decodeOp 0x1E x =
    some (.ine (fld 1 24 x) (fld 8 16 x) (fld 8 8 x) (fld 8 0 x)) := rfl
theorem decodeOp_1F (x : Nat) : decodeOp 0x1F x =
    some (.ilt (fld 1 24 x) (fld 8 16 x) (fld 8 8 x) (fld 8 0 x)) := rfl
theorem decodeOp_20 (x : Nat) : decodeOp 0x20 x =
    some (.ile (fld 1 24 x) (fld 8 16 x) (fld 8 8 x) (fld 8 0 x)) := rfl
theorem decodeOp_21 (x : Nat) : decodeOp 0x21 x =
    some (.ult (fld 1 24 x) (fld 8 16 x) (fld 8 8 x) (fld 8 0 x)) := rfl
theorem decodeOp_22 (x : Nat) : decodeOp 0x22 x =
    some (.ule (fld 1 24 x) (fld 8 16 x) (fld 8 8 x) (fld 8 0 x)) := rfl
theorem decodeOp_23 (x : Nat) : decodeOp 0x23 x =
    if nbits x 7 0 = 0 then some (.mov (fld 1 24 x) (fld 8 16 x) (fld 8 8 x))
    else if nbits x 7 0 = 1 then some (.not (fld 1 24 x) (fld 8 16 x) (fld 8 8 x))
    else if nbits x 7 0 = 2 then some (.clz (fld 1 24 x) (fld 8 16 x) (fld 8 8 x))
    else if nbits x 7 0 = 3 then some (.ctz (fld 1 24 x) (fld 8 16 x) (fld 8 8 x))
    else if nbits x 7 0 = 4 then some (.popc (fld 1 24 x) (fld 8 16 x) (fld 8 8 x))
    else if nbits x 7 0 = 5 then some (.brev (fld 1 24 x) (fld 8 16 x) (fld 8 8 x))
    else if nbits x 7 0 = 6 then some (.sext8 (fld 1 24 x) (fld 8 16 x) (fld 8 8 x))
    else if nbits x 7 0 = 7 then some (.sext16 (fld 1 24 x) (fld 8 16 x) (fld 8 8 x))
    else if nbits x 7 0 = 8 then some (.zext8 (fld 1 24 x) (fld 8 16 x) (fld 8 8 x))
    else if nbits x 7 0 = 9 then some (.zext16 (fld 1 24 x) (fld 8 16 x) (fld 8 8 x))
    else if nbits x 7 0 = 10 then some (.pkp (fld 1 24 x) (fld 8 16 x) (fld 8 8 x))
    else if nbits x 7 0 = 11 then some (.upkp (fld 1 24 x) (fld 8 16 x) (fld 8 8 x))
    else none := rfl
theorem decodeOp_24 (x : Nat) : decodeOp 0x24 x =
    some (.fadd (fld 1 24 x) (fld 8 16 x) (fld 8 8 x) (fld 8 0 x)) := rfl
theorem decodeOp_25 (x : Nat) : decodeOp 0x25 x =
    some (.fsub (fld 1 24 x) (fld 8 16 x) (fld 8 8 x) (fld 8 0 x)) := rfl
theorem decodeOp_26 (x : Nat) : decodeOp 0x26 x =
    some (.fmul (fld 1 24 x) (fld 8 16 x) (fld 8 8 x) (fld 8 0 x)) := rfl
theorem decodeOp_27 (x : Nat) : decodeOp 0x27 x =
    some (.ffma (fld 1 24 x) (fld 8 16 x) (fld 8 8 x) (fld 8 0 x)) := rfl
theorem decodeOp_28 (x : Nat) : decodeOp 0x28 x =
    some (.fmin (fld 1 24 x) (fld 8 16 x) (fld 8 8 x) (fld 8 0 x)) := rfl
theorem decodeOp_29 (x : Nat) : decodeOp 0x29 x =
    some (.fmax (fld 1 24 x) (fld 8 16 x) (fld 8 8 x) (fld 8 0 x)) := rfl
theorem decodeOp_2A (x : Nat) : decodeOp 0x2A x =
    some (.feq (fld 1 24 x) (fld 8 16 x) (fld 8 8 x) (fld 8 0 x)) := rfl
theorem decodeOp_2B (x : Nat) : decodeOp 0x2B x =
    some (.fne (fld 1 24 x) (fld 8 16 x) (fld 8 8 x) (fld 8 0 x)) := rfl
theorem decodeOp_2C (x : Nat) : decodeOp 0x2C x =
    some (.flt (fld 1 24 x) (fld 8 16 x) (fld 8 8 x) (fld 8 0 x)) := rfl
theorem decodeOp_2D (x : Nat) : decodeOp 0x2D x =
    some (.fle (fld 1 24 x) (fld 8 16 x) (fld 8 8 x) (fld 8 0 x)) := rfl
theorem decodeOp_2E (x : Nat) : decodeOp 0x2E x =
    some (.funo (fld 1 24 x) (fld 8 16 x) (fld 8 8 x) (fld 8 0 x)) := rfl
theorem decodeOp_2F (x : Nat) : decodeOp 0x2F x =
    if nbits x 7 0 = 0 then some (.frcp (fld 1 24 x) (fld 8 16 x) (fld 8 8 x))
    else if nbits x 7 0 = 1 then some (.frsq (fld 1 24 x) (fld 8 16 x) (fld 8 8 x))
    else if nbits x 7 0 = 2 then some (.fsqrt (fld 1 24 x) (fld 8 16 x) (fld 8 8 x))
    else if nbits x 7 0 = 3 then some (.fex2 (fld 1 24 x) (fld 8 16 x) (fld 8 8 x))
    else if nbits x 7 0 = 4 then some (.flg2 (fld 1 24 x) (fld 8 16 x) (fld 8 8 x))
    else if nbits x 7 0 = 5 then some (.fsin (fld 1 24 x) (fld 8 16 x) (fld 8 8 x))
    else if nbits x 7 0 = 6 then some (.fcos (fld 1 24 x) (fld 8 16 x) (fld 8 8 x))
    else if nbits x 7 0 = 7 then some (.ffrac (fld 1 24 x) (fld 8 16 x) (fld 8 8 x))
    else if nbits x 7 0 = 8 then some (.fround (fld 1 24 x) (fld 8 16 x) (fld 8 8 x))
    else if nbits x 7 0 = 9 then some (.fclass (fld 1 24 x) (fld 8 16 x) (fld 8 8 x))
    else if nbits x 7 4 = 4 then some (.cvtFromF32 (fld 1 24 x) (fld 8 16 x) (fld 8 8 x) (fld 4 0 x))
    else if nbits x 7 4 = 6 then some (.cvtToF32 (fld 1 24 x) (fld 8 16 x) (fld 8 8 x) (fld 4 0 x))
    else none := rfl
theorem decodeOp_30 (x : Nat) : decodeOp 0x30 x =
    some (.hadd2 (fld 1 24 x) (fld 8 16 x) (fld 8 8 x) (fld 8 0 x)) := rfl
theorem decodeOp_31 (x : Nat) : decodeOp 0x31 x =
    some (.hmul2 (fld 1 24 x) (fld 8 16 x) (fld 8 8 x) (fld 8 0 x)) := rfl
theorem decodeOp_32 (x : Nat) : decodeOp 0x32 x =
    some (.hfma2 (fld 1 24 x) (fld 8 16 x) (fld 8 8 x) (fld 8 0 x)) := rfl
theorem decodeOp_33 (x : Nat) : decodeOp 0x33 x =
    some (.badd2 (fld 1 24 x) (fld 8 16 x) (fld 8 8 x) (fld 8 0 x)) := rfl
theorem decodeOp_34 (x : Nat) : decodeOp 0x34 x =
    some (.bmul2 (fld 1 24 x) (fld 8 16 x) (fld 8 8 x) (fld 8 0 x)) := rfl
theorem decodeOp_35 (x : Nat) : decodeOp 0x35 x =
    some (.bfma2 (fld 1 24 x) (fld 8 16 x) (fld 8 8 x) (fld 8 0 x)) := rfl
theorem decodeOp_36 (x : Nat) : decodeOp 0x36 x =
    some (.hdot2 (fld 1 24 x) (fld 8 16 x) (fld 8 8 x) (fld 8 0 x)) := rfl
theorem decodeOp_37 (x : Nat) : decodeOp 0x37 x =
    some (.bdot2 (fld 1 24 x) (fld 8 16 x) (fld 8 8 x) (fld 8 0 x)) := rfl
theorem decodeOp_38 (x : Nat) : decodeOp 0x38 x =
    some (.shfl (fld 1 24 x) (fld 8 16 x) (fld 8 8 x) (fld 8 0 x)) := rfl
theorem decodeOp_39 (x : Nat) : decodeOp 0x39 x =
    some (.shfx (fld 1 24 x) (fld 8 16 x) (fld 8 8 x) (fld 8 0 x)) := rfl
theorem decodeOp_3A (x : Nat) : decodeOp 0x3A x =
    if nbits x 7 0 = 0 then some (.ballot (fld 1 24 x) (fld 8 16 x) (fld 8 8 x))
    else if nbits x 7 0 = 1 then some (.any (fld 1 24 x) (fld 8 16 x) (fld 8 8 x))
    else if nbits x 7 0 = 2 then some (.all (fld 1 24 x) (fld 8 16 x) (fld 8 8 x))
    else if nbits x 7 0 = 3 then some (.radd (fld 1 24 x) (fld 8 16 x) (fld 8 8 x))
    else if nbits x 7 0 = 4 then some (.rfadd (fld 1 24 x) (fld 8 16 x) (fld 8 8 x))
    else if nbits x 7 0 = 5 then some (.rmin (fld 1 24 x) (fld 8 16 x) (fld 8 8 x))
    else if nbits x 7 0 = 6 then some (.rmax (fld 1 24 x) (fld 8 16 x) (fld 8 8 x))
    else if nbits x 7 0 = 7 then some (.rumin (fld 1 24 x) (fld 8 16 x) (fld 8 8 x))
    else if nbits x 7 0 = 8 then some (.rumax (fld 1 24 x) (fld 8 16 x) (fld 8 8 x))
    else if nbits x 7 0 = 9 then some (.rand (fld 1 24 x) (fld 8 16 x) (fld 8 8 x))
    else if nbits x 7 0 = 10 then some (.ror (fld 1 24 x) (fld 8 16 x) (fld 8 8 x))
    else if nbits x 7 0 = 11 then some (.pfadd (fld 1 24 x) (fld 8 16 x) (fld 8 8 x))
    else if nbits x 7 0 = 12 then some (.pffadd (fld 1 24 x) (fld 8 16 x) (fld 8 8 x))
    else if nbits x 7 0 = 13 then some (.bcst (fld 1 24 x) (fld 8 16 x) (fld 8 8 x))
    else if nbits x 7 0 = 14 then some (.laneFirst (fld 1 24 x) (fld 8 16 x) (fld 8 8 x))
    else none := rfl
theorem decodeOp_3B (x : Nat) : decodeOp 0x3B x =
    if nbits x 15 7 = 0 then some (.movsRead (fld 1 24 x) (fld 8 16 x) (fld 7 0 x))
    else if nbits x 24 16 = 0 ∧ nbits x 7 7 = 1 then some (.movsWrite (fld 8 8 x) (fld 7 0 x))
    else none := rfl
theorem decodeOp_50 (x : Nat) : decodeOp 0x50 x =
    if nbits x 24 23 = 1 ∧ nbits x 19 0 = 0 then some (.fenceAcq (fld 3 20 x))
    else if nbits x 24 23 = 2 ∧ nbits x 19 0 = 0 then some (.fenceRel (fld 3 20 x))
    else if nbits x 24 23 = 3 ∧ nbits x 19 0 = 0 then some (.fenceAr (fld 3 20 x))
    else none := rfl
theorem decodeOp_51 (x : Nat) : decodeOp 0x51 x =
    if nbits x 24 20 = 0 then some (.sobjBind (fld 6 14 x) (fld 6 8 x) (fld 8 0 x))
    else if nbits x 24 20 = 1 ∧ nbits x 13 8 = 0 then some (.sobjUnbind (fld 6 14 x) (fld 8 0 x))
    else if nbits x 24 20 = 2 ∧ nbits x 13 1 = 0 then some (.sobjAcq (fld 6 14 x) (fld 1 0 x))
    else if nbits x 24 20 = 3 ∧ nbits x 13 0 = 0 then some (.sobjRel (fld 6 14 x))
    else if nbits x 24 20 = 4 ∧ nbits x 7 1 = 0 then some (.sobjTryacq (fld 6 14 x) (fld 6 8 x) (fld 1 0 x))
    else none := rfl
theorem decodeOp_52 (x : Nat) : decodeOp 0x52 x =
    if nbits x 19 8 = 0 then some (.waitc (fld 5 20 x) (fld 8 0 x))
    else none := rfl
theorem decodeOp_53 (x : Nat) : decodeOp 0x53 x =
    if nbits x 24 0 = 0 then some .drain
    else none := rfl
theorem decodeOp_54 (x : Nat) : decodeOp 0x54 x =
    if nbits x 24 20 = 0 then some (.queueInit (fld 6 14 x) (fld 6 8 x) (fld 8 0 x))
    else if nbits x 24 20 = 1 then some (.queueAllow (fld 6 14 x) (fld 6 8 x) (fld 8 0 x))
    else if nbits x 24 20 = 2 ∧ nbits x 13 8 = 0 then some (.queuePush (fld 6 14 x) (fld 8 0 x))
    else if nbits x 24 20 = 3 ∧ nbits x 13 8 = 0 then some (.queuePop (fld 6 14 x) (fld 8 0 x))
    else if nbits x 24 20 = 4 then some (.queueTrypush (fld 6 14 x) (fld 6 8 x) (fld 8 0 x))
    else if nbits x 24 20 = 5 then some (.queueTrypop (fld 6 14 x) (fld 6 8 x) (fld 8 0 x))
    else none := rfl
theorem decodeOp_55 (x : Nat) : decodeOp 0x55 x =
    if nbits x 24 20 = 0 ∧ nbits x 13 8 = 0 then some (.abarInit (fld 6 14 x) (fld 8 0 x))
    else if nbits x 24 20 = 1 ∧ nbits x 13 8 = 0 then some (.abarExpect (fld 6 14 x) (fld 8 0 x))
    else if nbits x 24 20 = 2 ∧ nbits x 13 8 = 0 then some (.abarArrive (fld 6 14 x) (fld 8 0 x))
    else if nbits x 24 20 = 3 ∧ nbits x 13 8 = 0 then some (.abarWait (fld 6 14 x) (fld 8 0 x))
    else if nbits x 24 8 = 16384 then some (.abarArrwait (fld 8 0 x))
    else none := rfl
theorem decodeOp_56 (x : Nat) : decodeOp 0x56 x =
    if nbits x 24 20 = 0 ∧ nbits x 7 0 = 0 then some (.verPubv (fld 6 14 x) (fld 6 8 x))
    else if nbits x 24 20 = 1 ∧ nbits x 7 0 = 0 then some (.verQver (fld 6 14 x) (fld 6 8 x))
    else none := rfl
theorem decodeOp_58 (x : Nat) : decodeOp 0x58 x =
    if nbits x 24 20 = 0 ∧ nbits x 13 0 = 0 then some (.cpyLin (fld 6 14 x))
    else if nbits x 24 20 = 1 ∧ nbits x 13 0 = 0 then some (.cpyBlk2 (fld 6 14 x))
    else if nbits x 24 20 = 2 ∧ nbits x 13 0 = 0 then some (.cpyBlk3 (fld 6 14 x))
    else if nbits x 24 20 = 3 ∧ nbits x 13 0 = 0 then some (.cpyGath (fld 6 14 x))
    else if nbits x 24 20 = 4 ∧ nbits x 13 0 = 0 then some (.cpyScat (fld 6 14 x))
    else if nbits x 24 20 = 5 ∧ nbits x 13 0 = 0 then some (.cpyFill (fld 6 14 x))
    else if nbits x 24 20 = 6 ∧ nbits x 13 0 = 0 then some (.cpyExp6 (fld 6 14 x))
    else if nbits x 24 20 = 7 ∧ nbits x 13 0 = 0 then some (.cpyPak6 (fld 6 14 x))
    else if nbits x 24 20 = 8 ∧ nbits x 13 0 = 0 then some (.cpyRedAdd (fld 6 14 x))
    else if nbits x 24 20 = 9 ∧ nbits x 13 0 = 0 then some (.cpyRedMin (fld 6 14 x))
    else if nbits x 24 20 = 10 ∧ nbits x 13 0 = 0 then some (.cpyRedMax (fld 6 14 x))
    else if nbits x 24 20 = 11 ∧ nbits x 13 0 = 0 then some (.cpyOpb (fld 6 14 x))
    else none := rfl
theorem decodeOp_59 (x : Nat) : decodeOp 0x59 x =
    if nbits x 24 20 = 0 ∧ nbits x 13 7 = 0 then some (.cfetch (fld 6 14 x) (fld 1 6 x) (fld 6 0 x))
    else none := rfl
theorem decodeOp_5A (x : Nat) : decodeOp 0x5A x =
    if nbits x 24 20 = 0 ∧ nbits x 7 6 = 0 then some (.collAred (fld 6 14 x) (fld 6 8 x) (fld 2 4 x) (fld 2 2 x) (fld 2 0 x))
    else if nbits x 24 20 = 1 ∧ nbits x 7 6 = 0 then some (.collRed (fld 6 14 x) (fld 6 8 x) (fld 2 4 x) (fld 2 2 x) (fld 2 0 x))
    else if nbits x 24 20 = 2 ∧ nbits x 7 2 = 0 then some (.collBcst (fld 6 14 x) (fld 6 8 x) (fld 2 0 x))
    else if nbits x 24 20 = 3 ∧ nbits x 7 2 = 0 then some (.collAgth (fld 6 14 x) (fld 6 8 x) (fld 2 0 x))
    else if nbits x 24 20 = 4 ∧ nbits x 7 6 = 0 then some (.collRsct (fld 6 14 x) (fld 6 8 x) (fld 2 4 x) (fld 2 2 x) (fld 2 0 x))
    else if nbits x 24 20 = 5 ∧ nbits x 7 2 = 0 then some (.collSend (fld 6 14 x) (fld 6 8 x) (fld 2 0 x))
    else if nbits x 24 20 = 6 ∧ nbits x 7 0 = 0 then some (.collRecv (fld 6 14 x) (fld 6 8 x))
    else if nbits x 24 20 = 7 ∧ nbits x 7 0 = 0 then some (.collRset (fld 6 14 x) (fld 6 8 x))
    else none := rfl
theorem decodeOp_5B (x : Nat) : decodeOp 0x5B x =
    if nbits x 24 20 = 0 ∧ nbits x 7 0 = 0 then some (.cntDecl (fld 6 14 x) (fld 6 8 x))
    else if nbits x 24 20 = 1 ∧ nbits x 13 8 = 0 then some (.cntTrig (fld 6 14 x) (fld 8 0 x))
    else none := rfl
theorem decodeOp_5C (x : Nat) : decodeOp 0x5C x =
    if nbits x 24 20 = 0 ∧ nbits x 7 0 = 0 then some (.dspInit (fld 6 14 x) (fld 6 8 x))
    else if nbits x 24 20 = 1 ∧ nbits x 7 0 = 0 then some (.dspNext (fld 6 14 x) (fld 6 8 x))
    else none := rfl
theorem decodeOp_5D (x : Nat) : decodeOp 0x5D x =
    if nbits x 24 20 = 0 ∧ nbits x 7 0 = 0 then some (.presentPost (fld 6 14 x) (fld 6 8 x))
    else none := rfl
theorem decodeOp_60 (x : Nat) : decodeOp 0x60 x =
    if nbits x 24 20 = 0 then some (.mres (fld 6 14 x) (fld 6 8 x) (fld 8 0 x))
    else if nbits x 24 8 = 4096 then some (.mresRel (fld 8 0 x))
    else none := rfl
theorem decodeOp_61 (x : Nat) : decodeOp 0x61 x =
    if nbits x 24 20 = 0 then some (.mwld (fld 6 14 x) (fld 6 8 x) (fld 8 0 x))
    else none := rfl
theorem decodeOp_62 (x : Nat) : decodeOp 0x62 x =
    if nbits x 24 23 = 0 ∧ nbits x 7 1 = 0 then some (.mma (fld 3 20 x) (fld 6 14 x) (fld 6 8 x) (fld 1 0 x))
    else none := rfl
theorem decodeOp_63 (x : Nat) : decodeOp 0x63 x =
    if nbits x 24 20 = 0 ∧ nbits x 7 0 = 0 then some (.mloop (fld 6 14 x) (fld 6 8 x))
    else none := rfl
theorem decodeOp_64 (x : Nat) : decodeOp 0x64 x =
    if nbits x 24 20 = 0 ∧ nbits x 13 0 = 0 then some (.mbat (fld 6 14 x))
    else none := rfl
theorem decodeOp_65 (x : Nat) : decodeOp 0x65 x =
    if nbits x 24 23 = 0 then some (.mdrn (fld 3 20 x) (fld 6 14 x) (fld 6 8 x) (fld 3 5 x) (fld 3 2 x) (fld 1 1 x) (fld 1 0 x))
    else if nbits x 24 23 = 1 then some (.mdrnAdd (fld 3 20 x) (fld 6 14 x) (fld 6 8 x) (fld 3 5 x) (fld 3 2 x) (fld 1 1 x) (fld 1 0 x))
    else none := rfl
theorem decodeOp_66 (x : Nat) : decodeOp 0x66 x =
    if nbits x 24 0 = 0 then some .mtake
    else if nbits x 24 0 = 1048576 then some .mgive
    else if nbits x 24 23 = 1 ∧ nbits x 19 0 = 0 then some (.mzero (fld 3 20 x))
    else none := rfl
theorem decodeOp_67 (x : Nat) : decodeOp 0x67 x =
    if nbits x 24 20 = 0 then some (.mxq (fld 6 14 x) (fld 6 8 x) (fld 8 0 x))
    else none := rfl
theorem decodeOp_68 (x : Nat) : decodeOp 0x68 x =
    if nbits x 24 20 = 0 ∧ nbits x 13 0 = 0 then some (.hgCfg (fld 6 14 x))
    else if nbits x 24 20 = 1 ∧ nbits x 13 8 = 0 then some (.hgEnc (fld 6 14 x) (fld 8 0 x))
    else if nbits x 24 20 = 2 ∧ nbits x 13 8 = 0 then some (.hgGrad (fld 6 14 x) (fld 8 0 x))
    else none := rfl
theorem decodeOp_69 (x : Nat) : decodeOp 0x69 x =
    if nbits x 24 20 = 0 then some (.rayTrace (fld 6 14 x) (fld 6 8 x) (fld 8 0 x))
    else if nbits x 24 20 = 1 then some (.rayOccl (fld 6 14 x) (fld 6 8 x) (fld 8 0 x))
    else if nbits x 24 8 = 8192 then some (.rayTri (fld 8 0 x))
    else if nbits x 24 8 = 12288 then some (.rayBox (fld 8 0 x))
    else none := rfl
theorem decodeOp_6C (x : Nat) : decodeOp 0x6C x =
    if nbits x 24 20 = 0 ∧ nbits x 7 0 = 0 then some (.trInit (fld 6 14 x) (fld 6 8 x))
    else if nbits x 24 20 = 1 then some (.trDesc (fld 6 14 x) (fld 6 8 x) (fld 8 0 x))
    else if nbits x 24 20 = 2 then some (.trExp (fld 6 14 x) (fld 6 8 x) (fld 8 0 x))
    else if nbits x 24 20 = 3 ∧ nbits x 7 0 = 0 then some (.trBack (fld 6 14 x) (fld 6 8 x))
    else if nbits x 24 20 = 4 ∧ nbits x 7 0 = 0 then some (.trUndo (fld 6 14 x) (fld 6 8 x))
    else if nbits x 24 20 = 5 ∧ nbits x 7 0 = 0 then some (.trReuse (fld 6 14 x) (fld 6 8 x))
    else if nbits x 24 20 = 6 ∧ nbits x 7 0 = 0 then some (.trFree (fld 6 14 x) (fld 6 8 x))
    else if nbits x 24 20 = 7 ∧ nbits x 7 0 = 0 then some (.trStat (fld 6 14 x) (fld 6 8 x))
    else none := rfl
theorem decodeOp_70 (x : Nat) : decodeOp 0x70 x =
    if nbits x 24 20 = 0 then some (.taskSubmit (fld 6 14 x) (fld 6 8 x) (fld 8 0 x))
    else if nbits x 24 20 = 1 ∧ nbits x 13 0 = 0 then some (.taskDone (fld 6 14 x))
    else if nbits x 24 20 = 1 ∧ nbits x 13 0 = 1 then some (.taskDoneWait (fld 6 14 x))
    else none := rfl
theorem decodeOp_71 (x : Nat) : decodeOp 0x71 x =
    if nbits x 24 20 = 0 ∧ nbits x 7 0 = 0 then some (.lvlLaunch (fld 6 14 x) (fld 6 8 x))
    else if nbits x 24 20 = 1 ∧ nbits x 7 0 = 0 then some (.lvlCancel (fld 6 14 x) (fld 6 8 x))
    else if nbits x 24 20 = 2 ∧ nbits x 7 0 = 0 then some (.lvlCtr (fld 6 14 x) (fld 6 8 x))
    else if nbits x 24 20 = 3 then some (.lvlOpen (fld 6 14 x) (fld 6 8 x) (fld 8 0 x))
    else if nbits x 24 20 = 4 ∧ nbits x 7 0 = 0 then some (.lvlClose (fld 6 14 x) (fld 6 8 x))
    else if nbits x 24 20 = 5 ∧ nbits x 7 0 = 0 then some (.lvlBudget (fld 6 14 x) (fld 6 8 x))
    else none := rfl
theorem decodeOp_72 (x : Nat) : decodeOp 0x72 x =
    if nbits x 24 0 = 0 then some .schedYield
    else if nbits x 24 20 = 1 ∧ nbits x 13 0 = 0 then some (.schedSleep (fld 6 14 x))
    else none := rfl
theorem decodeOp_74 (x : Nat) : decodeOp 0x74 x =
    if nbits x 24 4 = 0 then some (.xregAcq (fld 4 0 x))
    else if nbits x 24 4 = 65536 then some (.xregRel (fld 4 0 x))
    else none := rfl
theorem decodeOp_78 (x : Nat) : decodeOp 0x78 x =
    if nbits x 24 8 = 0 then some (.sysTrap (fld 8 0 x))
    else if nbits x 24 0 = 1048576 then some .sysEret
    else if nbits x 24 8 = 8192 then some (.sysSvc (fld 8 0 x))
    else if nbits x 24 0 = 3145728 then some .sysHalt
    else if nbits x 24 8 = 16384 then some (.sysBkpt (fld 8 0 x))
    else if nbits x 24 20 = 5 ∧ nbits x 13 8 = 0 then some (.sysSegw (fld 6 14 x) (fld 8 0 x))
    else if nbits x 24 20 = 6 ∧ nbits x 13 8 = 0 then some (.sysCsrr (fld 6 14 x) (fld 8 0 x))
    else if nbits x 24 20 = 7 ∧ nbits x 13 8 = 0 then some (.sysCsrw (fld 6 14 x) (fld 8 0 x))
    else if nbits x 24 20 = 8 ∧ nbits x 7 0 = 0 then some (.sysCkpt (fld 6 14 x) (fld 6 8 x))
    else none := rfl
theorem decodeOp_79 (x : Nat) : decodeOp 0x79 x =
    if nbits x 24 0 = 0 then some .ptFence
    else if nbits x 24 20 = 1 ∧ nbits x 7 0 = 0 then some (.ptInv (fld 6 14 x) (fld 6 8 x))
    else if nbits x 24 0 = 2097152 then some .ptApply
    else if nbits x 24 20 = 3 then some (.ptMigb (fld 6 14 x) (fld 6 8 x) (fld 8 0 x))
    else if nbits x 24 20 = 4 ∧ nbits x 13 8 = 0 then some (.ptMigf (fld 6 14 x) (fld 8 0 x))
    else if nbits x 24 20 = 5 ∧ nbits x 13 8 = 0 then some (.ptMigd (fld 6 14 x) (fld 8 0 x))
    else if nbits x 24 20 = 6 ∧ nbits x 7 0 = 0 then some (.ptHotl (fld 6 14 x) (fld 6 8 x))
    else none := rfl
theorem Laws.RoundTrip.modPrefix (x0 : BitVec 8) (x1 : BitVec 3) (x2 : BitVec 1) (x3 : BitVec 1) (x4 : BitVec 1) (x5 : BitVec 1) (x6 : BitVec 1) (x7 : BitVec 1) (x8 : BitVec 4) : Laws.RoundTrip.Statement (.modPrefix x0 x1 x2 x3 x4 x5 x6 x7 x8) := by
  intro _ rest
  have hx0 := x0.isLt
  have hx1 := x1.isLt
  have hx2 := x2.isLt
  have hx3 := x3.isLt
  have hx4 := x4.isLt
  have hx5 := x5.isLt
  have hx6 := x6.isLt
  have hx7 := x7.isLt
  have hx8 := x8.isLt
  refine decode_one (234881024 + x0.toNat * 131072 + x1.toNat * 16384 + x2.toNat * 8192 + x3.toNat * 4096 + x4.toNat * 2048 + x5.toNat * 1024 + x6.toNat * 512 + x7.toNat * 256 + x8.toNat * 16) 7 _ rest (by omega) (by omega) rfl ?_
  rw [decodeOp_07, if_pos (by rw [nbits_eq]; omega)]
  rw [fld_eq x0 (by omega), fld_eq x1 (by omega), fld_eq x2 (by omega), fld_eq x3 (by omega), fld_eq x4 (by omega), fld_eq x5 (by omega), fld_eq x6 (by omega), fld_eq x7 (by omega), fld_eq x8 (by omega)]
theorem Laws.RoundTrip.br (x0 : BitVec 4) (x1 : BitVec 1) (x2 : BitVec 20) : Laws.RoundTrip.Statement (.br x0 x1 x2) := by
  intro _ rest
  have hx0 := x0.isLt
  have hx1 := x1.isLt
  have hx2 := x2.isLt
  refine decode_one (67108864 + x0.toNat * 2097152 + x1.toNat * 1048576 + x2.toNat) 2 _ rest (by omega) (by omega) rfl ?_
  rw [decodeOp_02]
  rw [fld_eq x0 (by omega), fld_eq x1 (by omega), fld_eq x2 (by omega)]
theorem Laws.RoundTrip.call (x0 : BitVec 4) (x1 : BitVec 1) (x2 : BitVec 20) : Laws.RoundTrip.Statement (.call x0 x1 x2) := by
  intro _ rest
  have hx0 := x0.isLt
  have hx1 := x1.isLt
  have hx2 := x2.isLt
  refine decode_one (100663296 + x0.toNat * 2097152 + x1.toNat * 1048576 + x2.toNat) 3 _ rest (by omega) (by omega) rfl ?_
  rw [decodeOp_03]
  rw [fld_eq x0 (by omega), fld_eq x1 (by omega), fld_eq x2 (by omega)]
theorem Laws.RoundTrip.jr (x0 : BitVec 6) : Laws.RoundTrip.Statement (.jr x0) := by
  intro _ rest
  have hx0 := x0.isLt
  refine decode_one (134217728 + x0.toNat * 16384) 4 _ rest (by omega) (by omega) rfl ?_
  rw [decodeOp_04, if_pos (by rw [nbits_eq, nbits_eq]; omega)]
  rw [fld_eq x0 (by omega)]
theorem Laws.RoundTrip.jf (x0 : BitVec 6) (x1 : BitVec 1) : Laws.RoundTrip.Statement (.jf x0 x1) := by
  intro _ rest
  have hx0 := x0.isLt
  have hx1 := x1.isLt
  refine decode_one (167772160 + x0.toNat * 16384 + x1.toNat) 5 _ rest (by omega) (by omega) rfl ?_
  rw [decodeOp_05, if_pos (by rw [nbits_eq, nbits_eq]; omega)]
  rw [fld_eq x0 (by omega), fld_eq x1 (by omega)]
theorem Laws.RoundTrip.iadd (x0 : BitVec 1) (x1 : BitVec 8) (x2 : BitVec 8) (x3 : BitVec 8) : Laws.RoundTrip.Statement (.iadd x0 x1 x2 x3) := by
  intro _ rest
  have hx0 := x0.isLt
  have hx1 := x1.isLt
  have hx2 := x2.isLt
  have hx3 := x3.isLt
  refine decode_one (268435456 + x0.toNat * 16777216 + x1.toNat * 65536 + x2.toNat * 256 + x3.toNat) 8 _ rest (by omega) (by omega) rfl ?_
  rw [decodeOp_08]
  rw [fld_eq x0 (by omega), fld_eq x1 (by omega), fld_eq x2 (by omega), fld_eq x3 (by omega)]
theorem Laws.RoundTrip.isub (x0 : BitVec 1) (x1 : BitVec 8) (x2 : BitVec 8) (x3 : BitVec 8) : Laws.RoundTrip.Statement (.isub x0 x1 x2 x3) := by
  intro _ rest
  have hx0 := x0.isLt
  have hx1 := x1.isLt
  have hx2 := x2.isLt
  have hx3 := x3.isLt
  refine decode_one (301989888 + x0.toNat * 16777216 + x1.toNat * 65536 + x2.toNat * 256 + x3.toNat) 9 _ rest (by omega) (by omega) rfl ?_
  rw [decodeOp_09]
  rw [fld_eq x0 (by omega), fld_eq x1 (by omega), fld_eq x2 (by omega), fld_eq x3 (by omega)]
theorem Laws.RoundTrip.imul (x0 : BitVec 1) (x1 : BitVec 8) (x2 : BitVec 8) (x3 : BitVec 8) : Laws.RoundTrip.Statement (.imul x0 x1 x2 x3) := by
  intro _ rest
  have hx0 := x0.isLt
  have hx1 := x1.isLt
  have hx2 := x2.isLt
  have hx3 := x3.isLt
  refine decode_one (335544320 + x0.toNat * 16777216 + x1.toNat * 65536 + x2.toNat * 256 + x3.toNat) 10 _ rest (by omega) (by omega) rfl ?_
  rw [decodeOp_0A]
  rw [fld_eq x0 (by omega), fld_eq x1 (by omega), fld_eq x2 (by omega), fld_eq x3 (by omega)]
theorem Laws.RoundTrip.imulhs (x0 : BitVec 1) (x1 : BitVec 8) (x2 : BitVec 8) (x3 : BitVec 8) : Laws.RoundTrip.Statement (.imulhs x0 x1 x2 x3) := by
  intro _ rest
  have hx0 := x0.isLt
  have hx1 := x1.isLt
  have hx2 := x2.isLt
  have hx3 := x3.isLt
  refine decode_one (369098752 + x0.toNat * 16777216 + x1.toNat * 65536 + x2.toNat * 256 + x3.toNat) 11 _ rest (by omega) (by omega) rfl ?_
  rw [decodeOp_0B]
  rw [fld_eq x0 (by omega), fld_eq x1 (by omega), fld_eq x2 (by omega), fld_eq x3 (by omega)]
theorem Laws.RoundTrip.imulhu (x0 : BitVec 1) (x1 : BitVec 8) (x2 : BitVec 8) (x3 : BitVec 8) : Laws.RoundTrip.Statement (.imulhu x0 x1 x2 x3) := by
  intro _ rest
  have hx0 := x0.isLt
  have hx1 := x1.isLt
  have hx2 := x2.isLt
  have hx3 := x3.isLt
  refine decode_one (402653184 + x0.toNat * 16777216 + x1.toNat * 65536 + x2.toNat * 256 + x3.toNat) 12 _ rest (by omega) (by omega) rfl ?_
  rw [decodeOp_0C]
  rw [fld_eq x0 (by omega), fld_eq x1 (by omega), fld_eq x2 (by omega), fld_eq x3 (by omega)]
theorem Laws.RoundTrip.imad (x0 : BitVec 1) (x1 : BitVec 8) (x2 : BitVec 8) (x3 : BitVec 8) : Laws.RoundTrip.Statement (.imad x0 x1 x2 x3) := by
  intro _ rest
  have hx0 := x0.isLt
  have hx1 := x1.isLt
  have hx2 := x2.isLt
  have hx3 := x3.isLt
  refine decode_one (436207616 + x0.toNat * 16777216 + x1.toNat * 65536 + x2.toNat * 256 + x3.toNat) 13 _ rest (by omega) (by omega) rfl ?_
  rw [decodeOp_0D]
  rw [fld_eq x0 (by omega), fld_eq x1 (by omega), fld_eq x2 (by omega), fld_eq x3 (by omega)]
theorem Laws.RoundTrip.imin (x0 : BitVec 1) (x1 : BitVec 8) (x2 : BitVec 8) (x3 : BitVec 8) : Laws.RoundTrip.Statement (.imin x0 x1 x2 x3) := by
  intro _ rest
  have hx0 := x0.isLt
  have hx1 := x1.isLt
  have hx2 := x2.isLt
  have hx3 := x3.isLt
  refine decode_one (469762048 + x0.toNat * 16777216 + x1.toNat * 65536 + x2.toNat * 256 + x3.toNat) 14 _ rest (by omega) (by omega) rfl ?_
  rw [decodeOp_0E]
  rw [fld_eq x0 (by omega), fld_eq x1 (by omega), fld_eq x2 (by omega), fld_eq x3 (by omega)]
theorem Laws.RoundTrip.imax (x0 : BitVec 1) (x1 : BitVec 8) (x2 : BitVec 8) (x3 : BitVec 8) : Laws.RoundTrip.Statement (.imax x0 x1 x2 x3) := by
  intro _ rest
  have hx0 := x0.isLt
  have hx1 := x1.isLt
  have hx2 := x2.isLt
  have hx3 := x3.isLt
  refine decode_one (503316480 + x0.toNat * 16777216 + x1.toNat * 65536 + x2.toNat * 256 + x3.toNat) 15 _ rest (by omega) (by omega) rfl ?_
  rw [decodeOp_0F]
  rw [fld_eq x0 (by omega), fld_eq x1 (by omega), fld_eq x2 (by omega), fld_eq x3 (by omega)]
theorem Laws.RoundTrip.umin (x0 : BitVec 1) (x1 : BitVec 8) (x2 : BitVec 8) (x3 : BitVec 8) : Laws.RoundTrip.Statement (.umin x0 x1 x2 x3) := by
  intro _ rest
  have hx0 := x0.isLt
  have hx1 := x1.isLt
  have hx2 := x2.isLt
  have hx3 := x3.isLt
  refine decode_one (536870912 + x0.toNat * 16777216 + x1.toNat * 65536 + x2.toNat * 256 + x3.toNat) 16 _ rest (by omega) (by omega) rfl ?_
  rw [decodeOp_10]
  rw [fld_eq x0 (by omega), fld_eq x1 (by omega), fld_eq x2 (by omega), fld_eq x3 (by omega)]
theorem Laws.RoundTrip.umax (x0 : BitVec 1) (x1 : BitVec 8) (x2 : BitVec 8) (x3 : BitVec 8) : Laws.RoundTrip.Statement (.umax x0 x1 x2 x3) := by
  intro _ rest
  have hx0 := x0.isLt
  have hx1 := x1.isLt
  have hx2 := x2.isLt
  have hx3 := x3.isLt
  refine decode_one (570425344 + x0.toNat * 16777216 + x1.toNat * 65536 + x2.toNat * 256 + x3.toNat) 17 _ rest (by omega) (by omega) rfl ?_
  rw [decodeOp_11]
  rw [fld_eq x0 (by omega), fld_eq x1 (by omega), fld_eq x2 (by omega), fld_eq x3 (by omega)]
theorem Laws.RoundTrip.and (x0 : BitVec 1) (x1 : BitVec 8) (x2 : BitVec 8) (x3 : BitVec 8) : Laws.RoundTrip.Statement (.and x0 x1 x2 x3) := by
  intro _ rest
  have hx0 := x0.isLt
  have hx1 := x1.isLt
  have hx2 := x2.isLt
  have hx3 := x3.isLt
  refine decode_one (603979776 + x0.toNat * 16777216 + x1.toNat * 65536 + x2.toNat * 256 + x3.toNat) 18 _ rest (by omega) (by omega) rfl ?_
  rw [decodeOp_12]
  rw [fld_eq x0 (by omega), fld_eq x1 (by omega), fld_eq x2 (by omega), fld_eq x3 (by omega)]
theorem Laws.RoundTrip.or (x0 : BitVec 1) (x1 : BitVec 8) (x2 : BitVec 8) (x3 : BitVec 8) : Laws.RoundTrip.Statement (.or x0 x1 x2 x3) := by
  intro _ rest
  have hx0 := x0.isLt
  have hx1 := x1.isLt
  have hx2 := x2.isLt
  have hx3 := x3.isLt
  refine decode_one (637534208 + x0.toNat * 16777216 + x1.toNat * 65536 + x2.toNat * 256 + x3.toNat) 19 _ rest (by omega) (by omega) rfl ?_
  rw [decodeOp_13]
  rw [fld_eq x0 (by omega), fld_eq x1 (by omega), fld_eq x2 (by omega), fld_eq x3 (by omega)]
theorem Laws.RoundTrip.xor (x0 : BitVec 1) (x1 : BitVec 8) (x2 : BitVec 8) (x3 : BitVec 8) : Laws.RoundTrip.Statement (.xor x0 x1 x2 x3) := by
  intro _ rest
  have hx0 := x0.isLt
  have hx1 := x1.isLt
  have hx2 := x2.isLt
  have hx3 := x3.isLt
  refine decode_one (671088640 + x0.toNat * 16777216 + x1.toNat * 65536 + x2.toNat * 256 + x3.toNat) 20 _ rest (by omega) (by omega) rfl ?_
  rw [decodeOp_14]
  rw [fld_eq x0 (by omega), fld_eq x1 (by omega), fld_eq x2 (by omega), fld_eq x3 (by omega)]
theorem Laws.RoundTrip.andn (x0 : BitVec 1) (x1 : BitVec 8) (x2 : BitVec 8) (x3 : BitVec 8) : Laws.RoundTrip.Statement (.andn x0 x1 x2 x3) := by
  intro _ rest
  have hx0 := x0.isLt
  have hx1 := x1.isLt
  have hx2 := x2.isLt
  have hx3 := x3.isLt
  refine decode_one (704643072 + x0.toNat * 16777216 + x1.toNat * 65536 + x2.toNat * 256 + x3.toNat) 21 _ rest (by omega) (by omega) rfl ?_
  rw [decodeOp_15]
  rw [fld_eq x0 (by omega), fld_eq x1 (by omega), fld_eq x2 (by omega), fld_eq x3 (by omega)]
theorem Laws.RoundTrip.shl (x0 : BitVec 1) (x1 : BitVec 8) (x2 : BitVec 8) (x3 : BitVec 8) : Laws.RoundTrip.Statement (.shl x0 x1 x2 x3) := by
  intro _ rest
  have hx0 := x0.isLt
  have hx1 := x1.isLt
  have hx2 := x2.isLt
  have hx3 := x3.isLt
  refine decode_one (738197504 + x0.toNat * 16777216 + x1.toNat * 65536 + x2.toNat * 256 + x3.toNat) 22 _ rest (by omega) (by omega) rfl ?_
  rw [decodeOp_16]
  rw [fld_eq x0 (by omega), fld_eq x1 (by omega), fld_eq x2 (by omega), fld_eq x3 (by omega)]
theorem Laws.RoundTrip.shr (x0 : BitVec 1) (x1 : BitVec 8) (x2 : BitVec 8) (x3 : BitVec 8) : Laws.RoundTrip.Statement (.shr x0 x1 x2 x3) := by
  intro _ rest
  have hx0 := x0.isLt
  have hx1 := x1.isLt
  have hx2 := x2.isLt
  have hx3 := x3.isLt
  refine decode_one (771751936 + x0.toNat * 16777216 + x1.toNat * 65536 + x2.toNat * 256 + x3.toNat) 23 _ rest (by omega) (by omega) rfl ?_
  rw [decodeOp_17]
  rw [fld_eq x0 (by omega), fld_eq x1 (by omega), fld_eq x2 (by omega), fld_eq x3 (by omega)]
theorem Laws.RoundTrip.sar (x0 : BitVec 1) (x1 : BitVec 8) (x2 : BitVec 8) (x3 : BitVec 8) : Laws.RoundTrip.Statement (.sar x0 x1 x2 x3) := by
  intro _ rest
  have hx0 := x0.isLt
  have hx1 := x1.isLt
  have hx2 := x2.isLt
  have hx3 := x3.isLt
  refine decode_one (805306368 + x0.toNat * 16777216 + x1.toNat * 65536 + x2.toNat * 256 + x3.toNat) 24 _ rest (by omega) (by omega) rfl ?_
  rw [decodeOp_18]
  rw [fld_eq x0 (by omega), fld_eq x1 (by omega), fld_eq x2 (by omega), fld_eq x3 (by omega)]
theorem Laws.RoundTrip.bfe (x0 : BitVec 1) (x1 : BitVec 8) (x2 : BitVec 8) (x3 : BitVec 8) : Laws.RoundTrip.Statement (.bfe x0 x1 x2 x3) := by
  intro _ rest
  have hx0 := x0.isLt
  have hx1 := x1.isLt
  have hx2 := x2.isLt
  have hx3 := x3.isLt
  refine decode_one (838860800 + x0.toNat * 16777216 + x1.toNat * 65536 + x2.toNat * 256 + x3.toNat) 25 _ rest (by omega) (by omega) rfl ?_
  rw [decodeOp_19]
  rw [fld_eq x0 (by omega), fld_eq x1 (by omega), fld_eq x2 (by omega), fld_eq x3 (by omega)]
theorem Laws.RoundTrip.bfi (x0 : BitVec 1) (x1 : BitVec 8) (x2 : BitVec 8) (x3 : BitVec 8) : Laws.RoundTrip.Statement (.bfi x0 x1 x2 x3) := by
  intro _ rest
  have hx0 := x0.isLt
  have hx1 := x1.isLt
  have hx2 := x2.isLt
  have hx3 := x3.isLt
  refine decode_one (872415232 + x0.toNat * 16777216 + x1.toNat * 65536 + x2.toNat * 256 + x3.toNat) 26 _ rest (by omega) (by omega) rfl ?_
  rw [decodeOp_1A]
  rw [fld_eq x0 (by omega), fld_eq x1 (by omega), fld_eq x2 (by omega), fld_eq x3 (by omega)]
theorem Laws.RoundTrip.sel (x0 : BitVec 1) (x1 : BitVec 8) (x2 : BitVec 8) (x3 : BitVec 8) : Laws.RoundTrip.Statement (.sel x0 x1 x2 x3) := by
  intro _ rest
  have hx0 := x0.isLt
  have hx1 := x1.isLt
  have hx2 := x2.isLt
  have hx3 := x3.isLt
  refine decode_one (905969664 + x0.toNat * 16777216 + x1.toNat * 65536 + x2.toNat * 256 + x3.toNat) 27 _ rest (by omega) (by omega) rfl ?_
  rw [decodeOp_1B]
  rw [fld_eq x0 (by omega), fld_eq x1 (by omega), fld_eq x2 (by omega), fld_eq x3 (by omega)]
theorem Laws.RoundTrip.iadd64 (x0 : BitVec 1) (x1 : BitVec 8) (x2 : BitVec 8) (x3 : BitVec 8) : Laws.RoundTrip.Statement (.iadd64 x0 x1 x2 x3) := by
  intro _ rest
  have hx0 := x0.isLt
  have hx1 := x1.isLt
  have hx2 := x2.isLt
  have hx3 := x3.isLt
  refine decode_one (939524096 + x0.toNat * 16777216 + x1.toNat * 65536 + x2.toNat * 256 + x3.toNat) 28 _ rest (by omega) (by omega) rfl ?_
  rw [decodeOp_1C]
  rw [fld_eq x0 (by omega), fld_eq x1 (by omega), fld_eq x2 (by omega), fld_eq x3 (by omega)]
theorem Laws.RoundTrip.ieq (x0 : BitVec 1) (x1 : BitVec 8) (x2 : BitVec 8) (x3 : BitVec 8) : Laws.RoundTrip.Statement (.ieq x0 x1 x2 x3) := by
  intro _ rest
  have hx0 := x0.isLt
  have hx1 := x1.isLt
  have hx2 := x2.isLt
  have hx3 := x3.isLt
  refine decode_one (973078528 + x0.toNat * 16777216 + x1.toNat * 65536 + x2.toNat * 256 + x3.toNat) 29 _ rest (by omega) (by omega) rfl ?_
  rw [decodeOp_1D]
  rw [fld_eq x0 (by omega), fld_eq x1 (by omega), fld_eq x2 (by omega), fld_eq x3 (by omega)]
theorem Laws.RoundTrip.ine (x0 : BitVec 1) (x1 : BitVec 8) (x2 : BitVec 8) (x3 : BitVec 8) : Laws.RoundTrip.Statement (.ine x0 x1 x2 x3) := by
  intro _ rest
  have hx0 := x0.isLt
  have hx1 := x1.isLt
  have hx2 := x2.isLt
  have hx3 := x3.isLt
  refine decode_one (1006632960 + x0.toNat * 16777216 + x1.toNat * 65536 + x2.toNat * 256 + x3.toNat) 30 _ rest (by omega) (by omega) rfl ?_
  rw [decodeOp_1E]
  rw [fld_eq x0 (by omega), fld_eq x1 (by omega), fld_eq x2 (by omega), fld_eq x3 (by omega)]
theorem Laws.RoundTrip.ilt (x0 : BitVec 1) (x1 : BitVec 8) (x2 : BitVec 8) (x3 : BitVec 8) : Laws.RoundTrip.Statement (.ilt x0 x1 x2 x3) := by
  intro _ rest
  have hx0 := x0.isLt
  have hx1 := x1.isLt
  have hx2 := x2.isLt
  have hx3 := x3.isLt
  refine decode_one (1040187392 + x0.toNat * 16777216 + x1.toNat * 65536 + x2.toNat * 256 + x3.toNat) 31 _ rest (by omega) (by omega) rfl ?_
  rw [decodeOp_1F]
  rw [fld_eq x0 (by omega), fld_eq x1 (by omega), fld_eq x2 (by omega), fld_eq x3 (by omega)]
theorem Laws.RoundTrip.ile (x0 : BitVec 1) (x1 : BitVec 8) (x2 : BitVec 8) (x3 : BitVec 8) : Laws.RoundTrip.Statement (.ile x0 x1 x2 x3) := by
  intro _ rest
  have hx0 := x0.isLt
  have hx1 := x1.isLt
  have hx2 := x2.isLt
  have hx3 := x3.isLt
  refine decode_one (1073741824 + x0.toNat * 16777216 + x1.toNat * 65536 + x2.toNat * 256 + x3.toNat) 32 _ rest (by omega) (by omega) rfl ?_
  rw [decodeOp_20]
  rw [fld_eq x0 (by omega), fld_eq x1 (by omega), fld_eq x2 (by omega), fld_eq x3 (by omega)]
theorem Laws.RoundTrip.ult (x0 : BitVec 1) (x1 : BitVec 8) (x2 : BitVec 8) (x3 : BitVec 8) : Laws.RoundTrip.Statement (.ult x0 x1 x2 x3) := by
  intro _ rest
  have hx0 := x0.isLt
  have hx1 := x1.isLt
  have hx2 := x2.isLt
  have hx3 := x3.isLt
  refine decode_one (1107296256 + x0.toNat * 16777216 + x1.toNat * 65536 + x2.toNat * 256 + x3.toNat) 33 _ rest (by omega) (by omega) rfl ?_
  rw [decodeOp_21]
  rw [fld_eq x0 (by omega), fld_eq x1 (by omega), fld_eq x2 (by omega), fld_eq x3 (by omega)]
theorem Laws.RoundTrip.ule (x0 : BitVec 1) (x1 : BitVec 8) (x2 : BitVec 8) (x3 : BitVec 8) : Laws.RoundTrip.Statement (.ule x0 x1 x2 x3) := by
  intro _ rest
  have hx0 := x0.isLt
  have hx1 := x1.isLt
  have hx2 := x2.isLt
  have hx3 := x3.isLt
  refine decode_one (1140850688 + x0.toNat * 16777216 + x1.toNat * 65536 + x2.toNat * 256 + x3.toNat) 34 _ rest (by omega) (by omega) rfl ?_
  rw [decodeOp_22]
  rw [fld_eq x0 (by omega), fld_eq x1 (by omega), fld_eq x2 (by omega), fld_eq x3 (by omega)]
theorem Laws.RoundTrip.mov (x0 : BitVec 1) (x1 : BitVec 8) (x2 : BitVec 8) : Laws.RoundTrip.Statement (.mov x0 x1 x2) := by
  intro _ rest
  have hx0 := x0.isLt
  have hx1 := x1.isLt
  have hx2 := x2.isLt
  refine decode_one (1174405120 + x0.toNat * 16777216 + x1.toNat * 65536 + x2.toNat * 256) 35 _ rest (by omega) (by omega) rfl ?_
  rw [decodeOp_23, if_pos (by rw [nbits_eq]; omega)]
  rw [fld_eq x0 (by omega), fld_eq x1 (by omega), fld_eq x2 (by omega)]
theorem Laws.RoundTrip.not (x0 : BitVec 1) (x1 : BitVec 8) (x2 : BitVec 8) : Laws.RoundTrip.Statement (.not x0 x1 x2) := by
  intro _ rest
  have hx0 := x0.isLt
  have hx1 := x1.isLt
  have hx2 := x2.isLt
  refine decode_one (1174405121 + x0.toNat * 16777216 + x1.toNat * 65536 + x2.toNat * 256) 35 _ rest (by omega) (by omega) rfl ?_
  rw [decodeOp_23, if_neg (by rw [nbits_eq]; omega), if_pos (by rw [nbits_eq]; omega)]
  rw [fld_eq x0 (by omega), fld_eq x1 (by omega), fld_eq x2 (by omega)]
theorem Laws.RoundTrip.clz (x0 : BitVec 1) (x1 : BitVec 8) (x2 : BitVec 8) : Laws.RoundTrip.Statement (.clz x0 x1 x2) := by
  intro _ rest
  have hx0 := x0.isLt
  have hx1 := x1.isLt
  have hx2 := x2.isLt
  refine decode_one (1174405122 + x0.toNat * 16777216 + x1.toNat * 65536 + x2.toNat * 256) 35 _ rest (by omega) (by omega) rfl ?_
  rw [decodeOp_23, if_neg (by rw [nbits_eq]; omega), if_neg (by rw [nbits_eq]; omega), if_pos (by rw [nbits_eq]; omega)]
  rw [fld_eq x0 (by omega), fld_eq x1 (by omega), fld_eq x2 (by omega)]
theorem Laws.RoundTrip.ctz (x0 : BitVec 1) (x1 : BitVec 8) (x2 : BitVec 8) : Laws.RoundTrip.Statement (.ctz x0 x1 x2) := by
  intro _ rest
  have hx0 := x0.isLt
  have hx1 := x1.isLt
  have hx2 := x2.isLt
  refine decode_one (1174405123 + x0.toNat * 16777216 + x1.toNat * 65536 + x2.toNat * 256) 35 _ rest (by omega) (by omega) rfl ?_
  rw [decodeOp_23, if_neg (by rw [nbits_eq]; omega), if_neg (by rw [nbits_eq]; omega), if_neg (by rw [nbits_eq]; omega), if_pos (by rw [nbits_eq]; omega)]
  rw [fld_eq x0 (by omega), fld_eq x1 (by omega), fld_eq x2 (by omega)]
theorem Laws.RoundTrip.popc (x0 : BitVec 1) (x1 : BitVec 8) (x2 : BitVec 8) : Laws.RoundTrip.Statement (.popc x0 x1 x2) := by
  intro _ rest
  have hx0 := x0.isLt
  have hx1 := x1.isLt
  have hx2 := x2.isLt
  refine decode_one (1174405124 + x0.toNat * 16777216 + x1.toNat * 65536 + x2.toNat * 256) 35 _ rest (by omega) (by omega) rfl ?_
  rw [decodeOp_23, if_neg (by rw [nbits_eq]; omega), if_neg (by rw [nbits_eq]; omega), if_neg (by rw [nbits_eq]; omega), if_neg (by rw [nbits_eq]; omega), if_pos (by rw [nbits_eq]; omega)]
  rw [fld_eq x0 (by omega), fld_eq x1 (by omega), fld_eq x2 (by omega)]
theorem Laws.RoundTrip.brev (x0 : BitVec 1) (x1 : BitVec 8) (x2 : BitVec 8) : Laws.RoundTrip.Statement (.brev x0 x1 x2) := by
  intro _ rest
  have hx0 := x0.isLt
  have hx1 := x1.isLt
  have hx2 := x2.isLt
  refine decode_one (1174405125 + x0.toNat * 16777216 + x1.toNat * 65536 + x2.toNat * 256) 35 _ rest (by omega) (by omega) rfl ?_
  rw [decodeOp_23, if_neg (by rw [nbits_eq]; omega), if_neg (by rw [nbits_eq]; omega), if_neg (by rw [nbits_eq]; omega), if_neg (by rw [nbits_eq]; omega), if_neg (by rw [nbits_eq]; omega), if_pos (by rw [nbits_eq]; omega)]
  rw [fld_eq x0 (by omega), fld_eq x1 (by omega), fld_eq x2 (by omega)]
theorem Laws.RoundTrip.sext8 (x0 : BitVec 1) (x1 : BitVec 8) (x2 : BitVec 8) : Laws.RoundTrip.Statement (.sext8 x0 x1 x2) := by
  intro _ rest
  have hx0 := x0.isLt
  have hx1 := x1.isLt
  have hx2 := x2.isLt
  refine decode_one (1174405126 + x0.toNat * 16777216 + x1.toNat * 65536 + x2.toNat * 256) 35 _ rest (by omega) (by omega) rfl ?_
  rw [decodeOp_23, if_neg (by rw [nbits_eq]; omega), if_neg (by rw [nbits_eq]; omega), if_neg (by rw [nbits_eq]; omega), if_neg (by rw [nbits_eq]; omega), if_neg (by rw [nbits_eq]; omega), if_neg (by rw [nbits_eq]; omega), if_pos (by rw [nbits_eq]; omega)]
  rw [fld_eq x0 (by omega), fld_eq x1 (by omega), fld_eq x2 (by omega)]
theorem Laws.RoundTrip.sext16 (x0 : BitVec 1) (x1 : BitVec 8) (x2 : BitVec 8) : Laws.RoundTrip.Statement (.sext16 x0 x1 x2) := by
  intro _ rest
  have hx0 := x0.isLt
  have hx1 := x1.isLt
  have hx2 := x2.isLt
  refine decode_one (1174405127 + x0.toNat * 16777216 + x1.toNat * 65536 + x2.toNat * 256) 35 _ rest (by omega) (by omega) rfl ?_
  rw [decodeOp_23, if_neg (by rw [nbits_eq]; omega), if_neg (by rw [nbits_eq]; omega), if_neg (by rw [nbits_eq]; omega), if_neg (by rw [nbits_eq]; omega), if_neg (by rw [nbits_eq]; omega), if_neg (by rw [nbits_eq]; omega), if_neg (by rw [nbits_eq]; omega), if_pos (by rw [nbits_eq]; omega)]
  rw [fld_eq x0 (by omega), fld_eq x1 (by omega), fld_eq x2 (by omega)]
theorem Laws.RoundTrip.zext8 (x0 : BitVec 1) (x1 : BitVec 8) (x2 : BitVec 8) : Laws.RoundTrip.Statement (.zext8 x0 x1 x2) := by
  intro _ rest
  have hx0 := x0.isLt
  have hx1 := x1.isLt
  have hx2 := x2.isLt
  refine decode_one (1174405128 + x0.toNat * 16777216 + x1.toNat * 65536 + x2.toNat * 256) 35 _ rest (by omega) (by omega) rfl ?_
  rw [decodeOp_23, if_neg (by rw [nbits_eq]; omega), if_neg (by rw [nbits_eq]; omega), if_neg (by rw [nbits_eq]; omega), if_neg (by rw [nbits_eq]; omega), if_neg (by rw [nbits_eq]; omega), if_neg (by rw [nbits_eq]; omega), if_neg (by rw [nbits_eq]; omega), if_neg (by rw [nbits_eq]; omega), if_pos (by rw [nbits_eq]; omega)]
  rw [fld_eq x0 (by omega), fld_eq x1 (by omega), fld_eq x2 (by omega)]
theorem Laws.RoundTrip.zext16 (x0 : BitVec 1) (x1 : BitVec 8) (x2 : BitVec 8) : Laws.RoundTrip.Statement (.zext16 x0 x1 x2) := by
  intro _ rest
  have hx0 := x0.isLt
  have hx1 := x1.isLt
  have hx2 := x2.isLt
  refine decode_one (1174405129 + x0.toNat * 16777216 + x1.toNat * 65536 + x2.toNat * 256) 35 _ rest (by omega) (by omega) rfl ?_
  rw [decodeOp_23, if_neg (by rw [nbits_eq]; omega), if_neg (by rw [nbits_eq]; omega), if_neg (by rw [nbits_eq]; omega), if_neg (by rw [nbits_eq]; omega), if_neg (by rw [nbits_eq]; omega), if_neg (by rw [nbits_eq]; omega), if_neg (by rw [nbits_eq]; omega), if_neg (by rw [nbits_eq]; omega), if_neg (by rw [nbits_eq]; omega), if_pos (by rw [nbits_eq]; omega)]
  rw [fld_eq x0 (by omega), fld_eq x1 (by omega), fld_eq x2 (by omega)]
theorem Laws.RoundTrip.pkp (x0 : BitVec 1) (x1 : BitVec 8) (x2 : BitVec 8) : Laws.RoundTrip.Statement (.pkp x0 x1 x2) := by
  intro _ rest
  have hx0 := x0.isLt
  have hx1 := x1.isLt
  have hx2 := x2.isLt
  refine decode_one (1174405130 + x0.toNat * 16777216 + x1.toNat * 65536 + x2.toNat * 256) 35 _ rest (by omega) (by omega) rfl ?_
  rw [decodeOp_23, if_neg (by rw [nbits_eq]; omega), if_neg (by rw [nbits_eq]; omega), if_neg (by rw [nbits_eq]; omega), if_neg (by rw [nbits_eq]; omega), if_neg (by rw [nbits_eq]; omega), if_neg (by rw [nbits_eq]; omega), if_neg (by rw [nbits_eq]; omega), if_neg (by rw [nbits_eq]; omega), if_neg (by rw [nbits_eq]; omega), if_neg (by rw [nbits_eq]; omega), if_pos (by rw [nbits_eq]; omega)]
  rw [fld_eq x0 (by omega), fld_eq x1 (by omega), fld_eq x2 (by omega)]
theorem Laws.RoundTrip.upkp (x0 : BitVec 1) (x1 : BitVec 8) (x2 : BitVec 8) : Laws.RoundTrip.Statement (.upkp x0 x1 x2) := by
  intro _ rest
  have hx0 := x0.isLt
  have hx1 := x1.isLt
  have hx2 := x2.isLt
  refine decode_one (1174405131 + x0.toNat * 16777216 + x1.toNat * 65536 + x2.toNat * 256) 35 _ rest (by omega) (by omega) rfl ?_
  rw [decodeOp_23, if_neg (by rw [nbits_eq]; omega), if_neg (by rw [nbits_eq]; omega), if_neg (by rw [nbits_eq]; omega), if_neg (by rw [nbits_eq]; omega), if_neg (by rw [nbits_eq]; omega), if_neg (by rw [nbits_eq]; omega), if_neg (by rw [nbits_eq]; omega), if_neg (by rw [nbits_eq]; omega), if_neg (by rw [nbits_eq]; omega), if_neg (by rw [nbits_eq]; omega), if_neg (by rw [nbits_eq]; omega), if_pos (by rw [nbits_eq]; omega)]
  rw [fld_eq x0 (by omega), fld_eq x1 (by omega), fld_eq x2 (by omega)]
theorem Laws.RoundTrip.fadd (x0 : BitVec 1) (x1 : BitVec 8) (x2 : BitVec 8) (x3 : BitVec 8) : Laws.RoundTrip.Statement (.fadd x0 x1 x2 x3) := by
  intro _ rest
  have hx0 := x0.isLt
  have hx1 := x1.isLt
  have hx2 := x2.isLt
  have hx3 := x3.isLt
  refine decode_one (1207959552 + x0.toNat * 16777216 + x1.toNat * 65536 + x2.toNat * 256 + x3.toNat) 36 _ rest (by omega) (by omega) rfl ?_
  rw [decodeOp_24]
  rw [fld_eq x0 (by omega), fld_eq x1 (by omega), fld_eq x2 (by omega), fld_eq x3 (by omega)]
theorem Laws.RoundTrip.fsub (x0 : BitVec 1) (x1 : BitVec 8) (x2 : BitVec 8) (x3 : BitVec 8) : Laws.RoundTrip.Statement (.fsub x0 x1 x2 x3) := by
  intro _ rest
  have hx0 := x0.isLt
  have hx1 := x1.isLt
  have hx2 := x2.isLt
  have hx3 := x3.isLt
  refine decode_one (1241513984 + x0.toNat * 16777216 + x1.toNat * 65536 + x2.toNat * 256 + x3.toNat) 37 _ rest (by omega) (by omega) rfl ?_
  rw [decodeOp_25]
  rw [fld_eq x0 (by omega), fld_eq x1 (by omega), fld_eq x2 (by omega), fld_eq x3 (by omega)]
theorem Laws.RoundTrip.fmul (x0 : BitVec 1) (x1 : BitVec 8) (x2 : BitVec 8) (x3 : BitVec 8) : Laws.RoundTrip.Statement (.fmul x0 x1 x2 x3) := by
  intro _ rest
  have hx0 := x0.isLt
  have hx1 := x1.isLt
  have hx2 := x2.isLt
  have hx3 := x3.isLt
  refine decode_one (1275068416 + x0.toNat * 16777216 + x1.toNat * 65536 + x2.toNat * 256 + x3.toNat) 38 _ rest (by omega) (by omega) rfl ?_
  rw [decodeOp_26]
  rw [fld_eq x0 (by omega), fld_eq x1 (by omega), fld_eq x2 (by omega), fld_eq x3 (by omega)]
theorem Laws.RoundTrip.ffma (x0 : BitVec 1) (x1 : BitVec 8) (x2 : BitVec 8) (x3 : BitVec 8) : Laws.RoundTrip.Statement (.ffma x0 x1 x2 x3) := by
  intro _ rest
  have hx0 := x0.isLt
  have hx1 := x1.isLt
  have hx2 := x2.isLt
  have hx3 := x3.isLt
  refine decode_one (1308622848 + x0.toNat * 16777216 + x1.toNat * 65536 + x2.toNat * 256 + x3.toNat) 39 _ rest (by omega) (by omega) rfl ?_
  rw [decodeOp_27]
  rw [fld_eq x0 (by omega), fld_eq x1 (by omega), fld_eq x2 (by omega), fld_eq x3 (by omega)]
theorem Laws.RoundTrip.fmin (x0 : BitVec 1) (x1 : BitVec 8) (x2 : BitVec 8) (x3 : BitVec 8) : Laws.RoundTrip.Statement (.fmin x0 x1 x2 x3) := by
  intro _ rest
  have hx0 := x0.isLt
  have hx1 := x1.isLt
  have hx2 := x2.isLt
  have hx3 := x3.isLt
  refine decode_one (1342177280 + x0.toNat * 16777216 + x1.toNat * 65536 + x2.toNat * 256 + x3.toNat) 40 _ rest (by omega) (by omega) rfl ?_
  rw [decodeOp_28]
  rw [fld_eq x0 (by omega), fld_eq x1 (by omega), fld_eq x2 (by omega), fld_eq x3 (by omega)]
theorem Laws.RoundTrip.fmax (x0 : BitVec 1) (x1 : BitVec 8) (x2 : BitVec 8) (x3 : BitVec 8) : Laws.RoundTrip.Statement (.fmax x0 x1 x2 x3) := by
  intro _ rest
  have hx0 := x0.isLt
  have hx1 := x1.isLt
  have hx2 := x2.isLt
  have hx3 := x3.isLt
  refine decode_one (1375731712 + x0.toNat * 16777216 + x1.toNat * 65536 + x2.toNat * 256 + x3.toNat) 41 _ rest (by omega) (by omega) rfl ?_
  rw [decodeOp_29]
  rw [fld_eq x0 (by omega), fld_eq x1 (by omega), fld_eq x2 (by omega), fld_eq x3 (by omega)]
theorem Laws.RoundTrip.feq (x0 : BitVec 1) (x1 : BitVec 8) (x2 : BitVec 8) (x3 : BitVec 8) : Laws.RoundTrip.Statement (.feq x0 x1 x2 x3) := by
  intro _ rest
  have hx0 := x0.isLt
  have hx1 := x1.isLt
  have hx2 := x2.isLt
  have hx3 := x3.isLt
  refine decode_one (1409286144 + x0.toNat * 16777216 + x1.toNat * 65536 + x2.toNat * 256 + x3.toNat) 42 _ rest (by omega) (by omega) rfl ?_
  rw [decodeOp_2A]
  rw [fld_eq x0 (by omega), fld_eq x1 (by omega), fld_eq x2 (by omega), fld_eq x3 (by omega)]
theorem Laws.RoundTrip.fne (x0 : BitVec 1) (x1 : BitVec 8) (x2 : BitVec 8) (x3 : BitVec 8) : Laws.RoundTrip.Statement (.fne x0 x1 x2 x3) := by
  intro _ rest
  have hx0 := x0.isLt
  have hx1 := x1.isLt
  have hx2 := x2.isLt
  have hx3 := x3.isLt
  refine decode_one (1442840576 + x0.toNat * 16777216 + x1.toNat * 65536 + x2.toNat * 256 + x3.toNat) 43 _ rest (by omega) (by omega) rfl ?_
  rw [decodeOp_2B]
  rw [fld_eq x0 (by omega), fld_eq x1 (by omega), fld_eq x2 (by omega), fld_eq x3 (by omega)]
theorem Laws.RoundTrip.flt (x0 : BitVec 1) (x1 : BitVec 8) (x2 : BitVec 8) (x3 : BitVec 8) : Laws.RoundTrip.Statement (.flt x0 x1 x2 x3) := by
  intro _ rest
  have hx0 := x0.isLt
  have hx1 := x1.isLt
  have hx2 := x2.isLt
  have hx3 := x3.isLt
  refine decode_one (1476395008 + x0.toNat * 16777216 + x1.toNat * 65536 + x2.toNat * 256 + x3.toNat) 44 _ rest (by omega) (by omega) rfl ?_
  rw [decodeOp_2C]
  rw [fld_eq x0 (by omega), fld_eq x1 (by omega), fld_eq x2 (by omega), fld_eq x3 (by omega)]
theorem Laws.RoundTrip.fle (x0 : BitVec 1) (x1 : BitVec 8) (x2 : BitVec 8) (x3 : BitVec 8) : Laws.RoundTrip.Statement (.fle x0 x1 x2 x3) := by
  intro _ rest
  have hx0 := x0.isLt
  have hx1 := x1.isLt
  have hx2 := x2.isLt
  have hx3 := x3.isLt
  refine decode_one (1509949440 + x0.toNat * 16777216 + x1.toNat * 65536 + x2.toNat * 256 + x3.toNat) 45 _ rest (by omega) (by omega) rfl ?_
  rw [decodeOp_2D]
  rw [fld_eq x0 (by omega), fld_eq x1 (by omega), fld_eq x2 (by omega), fld_eq x3 (by omega)]
theorem Laws.RoundTrip.funo (x0 : BitVec 1) (x1 : BitVec 8) (x2 : BitVec 8) (x3 : BitVec 8) : Laws.RoundTrip.Statement (.funo x0 x1 x2 x3) := by
  intro _ rest
  have hx0 := x0.isLt
  have hx1 := x1.isLt
  have hx2 := x2.isLt
  have hx3 := x3.isLt
  refine decode_one (1543503872 + x0.toNat * 16777216 + x1.toNat * 65536 + x2.toNat * 256 + x3.toNat) 46 _ rest (by omega) (by omega) rfl ?_
  rw [decodeOp_2E]
  rw [fld_eq x0 (by omega), fld_eq x1 (by omega), fld_eq x2 (by omega), fld_eq x3 (by omega)]
theorem Laws.RoundTrip.frcp (x0 : BitVec 1) (x1 : BitVec 8) (x2 : BitVec 8) : Laws.RoundTrip.Statement (.frcp x0 x1 x2) := by
  intro _ rest
  have hx0 := x0.isLt
  have hx1 := x1.isLt
  have hx2 := x2.isLt
  refine decode_one (1577058304 + x0.toNat * 16777216 + x1.toNat * 65536 + x2.toNat * 256) 47 _ rest (by omega) (by omega) rfl ?_
  rw [decodeOp_2F, if_pos (by rw [nbits_eq]; omega)]
  rw [fld_eq x0 (by omega), fld_eq x1 (by omega), fld_eq x2 (by omega)]
theorem Laws.RoundTrip.frsq (x0 : BitVec 1) (x1 : BitVec 8) (x2 : BitVec 8) : Laws.RoundTrip.Statement (.frsq x0 x1 x2) := by
  intro _ rest
  have hx0 := x0.isLt
  have hx1 := x1.isLt
  have hx2 := x2.isLt
  refine decode_one (1577058305 + x0.toNat * 16777216 + x1.toNat * 65536 + x2.toNat * 256) 47 _ rest (by omega) (by omega) rfl ?_
  rw [decodeOp_2F, if_neg (by rw [nbits_eq]; omega), if_pos (by rw [nbits_eq]; omega)]
  rw [fld_eq x0 (by omega), fld_eq x1 (by omega), fld_eq x2 (by omega)]
theorem Laws.RoundTrip.fsqrt (x0 : BitVec 1) (x1 : BitVec 8) (x2 : BitVec 8) : Laws.RoundTrip.Statement (.fsqrt x0 x1 x2) := by
  intro _ rest
  have hx0 := x0.isLt
  have hx1 := x1.isLt
  have hx2 := x2.isLt
  refine decode_one (1577058306 + x0.toNat * 16777216 + x1.toNat * 65536 + x2.toNat * 256) 47 _ rest (by omega) (by omega) rfl ?_
  rw [decodeOp_2F, if_neg (by rw [nbits_eq]; omega), if_neg (by rw [nbits_eq]; omega), if_pos (by rw [nbits_eq]; omega)]
  rw [fld_eq x0 (by omega), fld_eq x1 (by omega), fld_eq x2 (by omega)]
theorem Laws.RoundTrip.fex2 (x0 : BitVec 1) (x1 : BitVec 8) (x2 : BitVec 8) : Laws.RoundTrip.Statement (.fex2 x0 x1 x2) := by
  intro _ rest
  have hx0 := x0.isLt
  have hx1 := x1.isLt
  have hx2 := x2.isLt
  refine decode_one (1577058307 + x0.toNat * 16777216 + x1.toNat * 65536 + x2.toNat * 256) 47 _ rest (by omega) (by omega) rfl ?_
  rw [decodeOp_2F, if_neg (by rw [nbits_eq]; omega), if_neg (by rw [nbits_eq]; omega), if_neg (by rw [nbits_eq]; omega), if_pos (by rw [nbits_eq]; omega)]
  rw [fld_eq x0 (by omega), fld_eq x1 (by omega), fld_eq x2 (by omega)]
theorem Laws.RoundTrip.flg2 (x0 : BitVec 1) (x1 : BitVec 8) (x2 : BitVec 8) : Laws.RoundTrip.Statement (.flg2 x0 x1 x2) := by
  intro _ rest
  have hx0 := x0.isLt
  have hx1 := x1.isLt
  have hx2 := x2.isLt
  refine decode_one (1577058308 + x0.toNat * 16777216 + x1.toNat * 65536 + x2.toNat * 256) 47 _ rest (by omega) (by omega) rfl ?_
  rw [decodeOp_2F, if_neg (by rw [nbits_eq]; omega), if_neg (by rw [nbits_eq]; omega), if_neg (by rw [nbits_eq]; omega), if_neg (by rw [nbits_eq]; omega), if_pos (by rw [nbits_eq]; omega)]
  rw [fld_eq x0 (by omega), fld_eq x1 (by omega), fld_eq x2 (by omega)]
theorem Laws.RoundTrip.fsin (x0 : BitVec 1) (x1 : BitVec 8) (x2 : BitVec 8) : Laws.RoundTrip.Statement (.fsin x0 x1 x2) := by
  intro _ rest
  have hx0 := x0.isLt
  have hx1 := x1.isLt
  have hx2 := x2.isLt
  refine decode_one (1577058309 + x0.toNat * 16777216 + x1.toNat * 65536 + x2.toNat * 256) 47 _ rest (by omega) (by omega) rfl ?_
  rw [decodeOp_2F, if_neg (by rw [nbits_eq]; omega), if_neg (by rw [nbits_eq]; omega), if_neg (by rw [nbits_eq]; omega), if_neg (by rw [nbits_eq]; omega), if_neg (by rw [nbits_eq]; omega), if_pos (by rw [nbits_eq]; omega)]
  rw [fld_eq x0 (by omega), fld_eq x1 (by omega), fld_eq x2 (by omega)]
theorem Laws.RoundTrip.fcos (x0 : BitVec 1) (x1 : BitVec 8) (x2 : BitVec 8) : Laws.RoundTrip.Statement (.fcos x0 x1 x2) := by
  intro _ rest
  have hx0 := x0.isLt
  have hx1 := x1.isLt
  have hx2 := x2.isLt
  refine decode_one (1577058310 + x0.toNat * 16777216 + x1.toNat * 65536 + x2.toNat * 256) 47 _ rest (by omega) (by omega) rfl ?_
  rw [decodeOp_2F, if_neg (by rw [nbits_eq]; omega), if_neg (by rw [nbits_eq]; omega), if_neg (by rw [nbits_eq]; omega), if_neg (by rw [nbits_eq]; omega), if_neg (by rw [nbits_eq]; omega), if_neg (by rw [nbits_eq]; omega), if_pos (by rw [nbits_eq]; omega)]
  rw [fld_eq x0 (by omega), fld_eq x1 (by omega), fld_eq x2 (by omega)]
theorem Laws.RoundTrip.ffrac (x0 : BitVec 1) (x1 : BitVec 8) (x2 : BitVec 8) : Laws.RoundTrip.Statement (.ffrac x0 x1 x2) := by
  intro _ rest
  have hx0 := x0.isLt
  have hx1 := x1.isLt
  have hx2 := x2.isLt
  refine decode_one (1577058311 + x0.toNat * 16777216 + x1.toNat * 65536 + x2.toNat * 256) 47 _ rest (by omega) (by omega) rfl ?_
  rw [decodeOp_2F, if_neg (by rw [nbits_eq]; omega), if_neg (by rw [nbits_eq]; omega), if_neg (by rw [nbits_eq]; omega), if_neg (by rw [nbits_eq]; omega), if_neg (by rw [nbits_eq]; omega), if_neg (by rw [nbits_eq]; omega), if_neg (by rw [nbits_eq]; omega), if_pos (by rw [nbits_eq]; omega)]
  rw [fld_eq x0 (by omega), fld_eq x1 (by omega), fld_eq x2 (by omega)]
theorem Laws.RoundTrip.fround (x0 : BitVec 1) (x1 : BitVec 8) (x2 : BitVec 8) : Laws.RoundTrip.Statement (.fround x0 x1 x2) := by
  intro _ rest
  have hx0 := x0.isLt
  have hx1 := x1.isLt
  have hx2 := x2.isLt
  refine decode_one (1577058312 + x0.toNat * 16777216 + x1.toNat * 65536 + x2.toNat * 256) 47 _ rest (by omega) (by omega) rfl ?_
  rw [decodeOp_2F, if_neg (by rw [nbits_eq]; omega), if_neg (by rw [nbits_eq]; omega), if_neg (by rw [nbits_eq]; omega), if_neg (by rw [nbits_eq]; omega), if_neg (by rw [nbits_eq]; omega), if_neg (by rw [nbits_eq]; omega), if_neg (by rw [nbits_eq]; omega), if_neg (by rw [nbits_eq]; omega), if_pos (by rw [nbits_eq]; omega)]
  rw [fld_eq x0 (by omega), fld_eq x1 (by omega), fld_eq x2 (by omega)]
theorem Laws.RoundTrip.fclass (x0 : BitVec 1) (x1 : BitVec 8) (x2 : BitVec 8) : Laws.RoundTrip.Statement (.fclass x0 x1 x2) := by
  intro _ rest
  have hx0 := x0.isLt
  have hx1 := x1.isLt
  have hx2 := x2.isLt
  refine decode_one (1577058313 + x0.toNat * 16777216 + x1.toNat * 65536 + x2.toNat * 256) 47 _ rest (by omega) (by omega) rfl ?_
  rw [decodeOp_2F, if_neg (by rw [nbits_eq]; omega), if_neg (by rw [nbits_eq]; omega), if_neg (by rw [nbits_eq]; omega), if_neg (by rw [nbits_eq]; omega), if_neg (by rw [nbits_eq]; omega), if_neg (by rw [nbits_eq]; omega), if_neg (by rw [nbits_eq]; omega), if_neg (by rw [nbits_eq]; omega), if_neg (by rw [nbits_eq]; omega), if_pos (by rw [nbits_eq]; omega)]
  rw [fld_eq x0 (by omega), fld_eq x1 (by omega), fld_eq x2 (by omega)]
theorem Laws.RoundTrip.cvtFromF32 (x0 : BitVec 1) (x1 : BitVec 8) (x2 : BitVec 8) (x3 : BitVec 4) : Laws.RoundTrip.Statement (.cvtFromF32 x0 x1 x2 x3) := by
  intro _ rest
  have hx0 := x0.isLt
  have hx1 := x1.isLt
  have hx2 := x2.isLt
  have hx3 := x3.isLt
  refine decode_one (1577058368 + x0.toNat * 16777216 + x1.toNat * 65536 + x2.toNat * 256 + x3.toNat) 47 _ rest (by omega) (by omega) rfl ?_
  rw [decodeOp_2F, if_neg (by rw [nbits_eq]; omega), if_neg (by rw [nbits_eq]; omega), if_neg (by rw [nbits_eq]; omega), if_neg (by rw [nbits_eq]; omega), if_neg (by rw [nbits_eq]; omega), if_neg (by rw [nbits_eq]; omega), if_neg (by rw [nbits_eq]; omega), if_neg (by rw [nbits_eq]; omega), if_neg (by rw [nbits_eq]; omega), if_neg (by rw [nbits_eq]; omega), if_pos (by rw [nbits_eq]; omega)]
  rw [fld_eq x0 (by omega), fld_eq x1 (by omega), fld_eq x2 (by omega), fld_eq x3 (by omega)]
theorem Laws.RoundTrip.cvtToF32 (x0 : BitVec 1) (x1 : BitVec 8) (x2 : BitVec 8) (x3 : BitVec 4) : Laws.RoundTrip.Statement (.cvtToF32 x0 x1 x2 x3) := by
  intro _ rest
  have hx0 := x0.isLt
  have hx1 := x1.isLt
  have hx2 := x2.isLt
  have hx3 := x3.isLt
  refine decode_one (1577058400 + x0.toNat * 16777216 + x1.toNat * 65536 + x2.toNat * 256 + x3.toNat) 47 _ rest (by omega) (by omega) rfl ?_
  rw [decodeOp_2F, if_neg (by rw [nbits_eq]; omega), if_neg (by rw [nbits_eq]; omega), if_neg (by rw [nbits_eq]; omega), if_neg (by rw [nbits_eq]; omega), if_neg (by rw [nbits_eq]; omega), if_neg (by rw [nbits_eq]; omega), if_neg (by rw [nbits_eq]; omega), if_neg (by rw [nbits_eq]; omega), if_neg (by rw [nbits_eq]; omega), if_neg (by rw [nbits_eq]; omega), if_neg (by rw [nbits_eq]; omega), if_pos (by rw [nbits_eq]; omega)]
  rw [fld_eq x0 (by omega), fld_eq x1 (by omega), fld_eq x2 (by omega), fld_eq x3 (by omega)]
theorem Laws.RoundTrip.hadd2 (x0 : BitVec 1) (x1 : BitVec 8) (x2 : BitVec 8) (x3 : BitVec 8) : Laws.RoundTrip.Statement (.hadd2 x0 x1 x2 x3) := by
  intro _ rest
  have hx0 := x0.isLt
  have hx1 := x1.isLt
  have hx2 := x2.isLt
  have hx3 := x3.isLt
  refine decode_one (1610612736 + x0.toNat * 16777216 + x1.toNat * 65536 + x2.toNat * 256 + x3.toNat) 48 _ rest (by omega) (by omega) rfl ?_
  rw [decodeOp_30]
  rw [fld_eq x0 (by omega), fld_eq x1 (by omega), fld_eq x2 (by omega), fld_eq x3 (by omega)]
theorem Laws.RoundTrip.hmul2 (x0 : BitVec 1) (x1 : BitVec 8) (x2 : BitVec 8) (x3 : BitVec 8) : Laws.RoundTrip.Statement (.hmul2 x0 x1 x2 x3) := by
  intro _ rest
  have hx0 := x0.isLt
  have hx1 := x1.isLt
  have hx2 := x2.isLt
  have hx3 := x3.isLt
  refine decode_one (1644167168 + x0.toNat * 16777216 + x1.toNat * 65536 + x2.toNat * 256 + x3.toNat) 49 _ rest (by omega) (by omega) rfl ?_
  rw [decodeOp_31]
  rw [fld_eq x0 (by omega), fld_eq x1 (by omega), fld_eq x2 (by omega), fld_eq x3 (by omega)]
theorem Laws.RoundTrip.hfma2 (x0 : BitVec 1) (x1 : BitVec 8) (x2 : BitVec 8) (x3 : BitVec 8) : Laws.RoundTrip.Statement (.hfma2 x0 x1 x2 x3) := by
  intro _ rest
  have hx0 := x0.isLt
  have hx1 := x1.isLt
  have hx2 := x2.isLt
  have hx3 := x3.isLt
  refine decode_one (1677721600 + x0.toNat * 16777216 + x1.toNat * 65536 + x2.toNat * 256 + x3.toNat) 50 _ rest (by omega) (by omega) rfl ?_
  rw [decodeOp_32]
  rw [fld_eq x0 (by omega), fld_eq x1 (by omega), fld_eq x2 (by omega), fld_eq x3 (by omega)]
theorem Laws.RoundTrip.badd2 (x0 : BitVec 1) (x1 : BitVec 8) (x2 : BitVec 8) (x3 : BitVec 8) : Laws.RoundTrip.Statement (.badd2 x0 x1 x2 x3) := by
  intro _ rest
  have hx0 := x0.isLt
  have hx1 := x1.isLt
  have hx2 := x2.isLt
  have hx3 := x3.isLt
  refine decode_one (1711276032 + x0.toNat * 16777216 + x1.toNat * 65536 + x2.toNat * 256 + x3.toNat) 51 _ rest (by omega) (by omega) rfl ?_
  rw [decodeOp_33]
  rw [fld_eq x0 (by omega), fld_eq x1 (by omega), fld_eq x2 (by omega), fld_eq x3 (by omega)]
theorem Laws.RoundTrip.bmul2 (x0 : BitVec 1) (x1 : BitVec 8) (x2 : BitVec 8) (x3 : BitVec 8) : Laws.RoundTrip.Statement (.bmul2 x0 x1 x2 x3) := by
  intro _ rest
  have hx0 := x0.isLt
  have hx1 := x1.isLt
  have hx2 := x2.isLt
  have hx3 := x3.isLt
  refine decode_one (1744830464 + x0.toNat * 16777216 + x1.toNat * 65536 + x2.toNat * 256 + x3.toNat) 52 _ rest (by omega) (by omega) rfl ?_
  rw [decodeOp_34]
  rw [fld_eq x0 (by omega), fld_eq x1 (by omega), fld_eq x2 (by omega), fld_eq x3 (by omega)]
theorem Laws.RoundTrip.bfma2 (x0 : BitVec 1) (x1 : BitVec 8) (x2 : BitVec 8) (x3 : BitVec 8) : Laws.RoundTrip.Statement (.bfma2 x0 x1 x2 x3) := by
  intro _ rest
  have hx0 := x0.isLt
  have hx1 := x1.isLt
  have hx2 := x2.isLt
  have hx3 := x3.isLt
  refine decode_one (1778384896 + x0.toNat * 16777216 + x1.toNat * 65536 + x2.toNat * 256 + x3.toNat) 53 _ rest (by omega) (by omega) rfl ?_
  rw [decodeOp_35]
  rw [fld_eq x0 (by omega), fld_eq x1 (by omega), fld_eq x2 (by omega), fld_eq x3 (by omega)]
theorem Laws.RoundTrip.hdot2 (x0 : BitVec 1) (x1 : BitVec 8) (x2 : BitVec 8) (x3 : BitVec 8) : Laws.RoundTrip.Statement (.hdot2 x0 x1 x2 x3) := by
  intro _ rest
  have hx0 := x0.isLt
  have hx1 := x1.isLt
  have hx2 := x2.isLt
  have hx3 := x3.isLt
  refine decode_one (1811939328 + x0.toNat * 16777216 + x1.toNat * 65536 + x2.toNat * 256 + x3.toNat) 54 _ rest (by omega) (by omega) rfl ?_
  rw [decodeOp_36]
  rw [fld_eq x0 (by omega), fld_eq x1 (by omega), fld_eq x2 (by omega), fld_eq x3 (by omega)]
theorem Laws.RoundTrip.bdot2 (x0 : BitVec 1) (x1 : BitVec 8) (x2 : BitVec 8) (x3 : BitVec 8) : Laws.RoundTrip.Statement (.bdot2 x0 x1 x2 x3) := by
  intro _ rest
  have hx0 := x0.isLt
  have hx1 := x1.isLt
  have hx2 := x2.isLt
  have hx3 := x3.isLt
  refine decode_one (1845493760 + x0.toNat * 16777216 + x1.toNat * 65536 + x2.toNat * 256 + x3.toNat) 55 _ rest (by omega) (by omega) rfl ?_
  rw [decodeOp_37]
  rw [fld_eq x0 (by omega), fld_eq x1 (by omega), fld_eq x2 (by omega), fld_eq x3 (by omega)]
theorem Laws.RoundTrip.shfl (x0 : BitVec 1) (x1 : BitVec 8) (x2 : BitVec 8) (x3 : BitVec 8) : Laws.RoundTrip.Statement (.shfl x0 x1 x2 x3) := by
  intro _ rest
  have hx0 := x0.isLt
  have hx1 := x1.isLt
  have hx2 := x2.isLt
  have hx3 := x3.isLt
  refine decode_one (1879048192 + x0.toNat * 16777216 + x1.toNat * 65536 + x2.toNat * 256 + x3.toNat) 56 _ rest (by omega) (by omega) rfl ?_
  rw [decodeOp_38]
  rw [fld_eq x0 (by omega), fld_eq x1 (by omega), fld_eq x2 (by omega), fld_eq x3 (by omega)]
theorem Laws.RoundTrip.shfx (x0 : BitVec 1) (x1 : BitVec 8) (x2 : BitVec 8) (x3 : BitVec 8) : Laws.RoundTrip.Statement (.shfx x0 x1 x2 x3) := by
  intro _ rest
  have hx0 := x0.isLt
  have hx1 := x1.isLt
  have hx2 := x2.isLt
  have hx3 := x3.isLt
  refine decode_one (1912602624 + x0.toNat * 16777216 + x1.toNat * 65536 + x2.toNat * 256 + x3.toNat) 57 _ rest (by omega) (by omega) rfl ?_
  rw [decodeOp_39]
  rw [fld_eq x0 (by omega), fld_eq x1 (by omega), fld_eq x2 (by omega), fld_eq x3 (by omega)]
theorem Laws.RoundTrip.ballot (x0 : BitVec 1) (x1 : BitVec 8) (x2 : BitVec 8) : Laws.RoundTrip.Statement (.ballot x0 x1 x2) := by
  intro _ rest
  have hx0 := x0.isLt
  have hx1 := x1.isLt
  have hx2 := x2.isLt
  refine decode_one (1946157056 + x0.toNat * 16777216 + x1.toNat * 65536 + x2.toNat * 256) 58 _ rest (by omega) (by omega) rfl ?_
  rw [decodeOp_3A, if_pos (by rw [nbits_eq]; omega)]
  rw [fld_eq x0 (by omega), fld_eq x1 (by omega), fld_eq x2 (by omega)]
theorem Laws.RoundTrip.any (x0 : BitVec 1) (x1 : BitVec 8) (x2 : BitVec 8) : Laws.RoundTrip.Statement (.any x0 x1 x2) := by
  intro _ rest
  have hx0 := x0.isLt
  have hx1 := x1.isLt
  have hx2 := x2.isLt
  refine decode_one (1946157057 + x0.toNat * 16777216 + x1.toNat * 65536 + x2.toNat * 256) 58 _ rest (by omega) (by omega) rfl ?_
  rw [decodeOp_3A, if_neg (by rw [nbits_eq]; omega), if_pos (by rw [nbits_eq]; omega)]
  rw [fld_eq x0 (by omega), fld_eq x1 (by omega), fld_eq x2 (by omega)]
theorem Laws.RoundTrip.all (x0 : BitVec 1) (x1 : BitVec 8) (x2 : BitVec 8) : Laws.RoundTrip.Statement (.all x0 x1 x2) := by
  intro _ rest
  have hx0 := x0.isLt
  have hx1 := x1.isLt
  have hx2 := x2.isLt
  refine decode_one (1946157058 + x0.toNat * 16777216 + x1.toNat * 65536 + x2.toNat * 256) 58 _ rest (by omega) (by omega) rfl ?_
  rw [decodeOp_3A, if_neg (by rw [nbits_eq]; omega), if_neg (by rw [nbits_eq]; omega), if_pos (by rw [nbits_eq]; omega)]
  rw [fld_eq x0 (by omega), fld_eq x1 (by omega), fld_eq x2 (by omega)]
theorem Laws.RoundTrip.radd (x0 : BitVec 1) (x1 : BitVec 8) (x2 : BitVec 8) : Laws.RoundTrip.Statement (.radd x0 x1 x2) := by
  intro _ rest
  have hx0 := x0.isLt
  have hx1 := x1.isLt
  have hx2 := x2.isLt
  refine decode_one (1946157059 + x0.toNat * 16777216 + x1.toNat * 65536 + x2.toNat * 256) 58 _ rest (by omega) (by omega) rfl ?_
  rw [decodeOp_3A, if_neg (by rw [nbits_eq]; omega), if_neg (by rw [nbits_eq]; omega), if_neg (by rw [nbits_eq]; omega), if_pos (by rw [nbits_eq]; omega)]
  rw [fld_eq x0 (by omega), fld_eq x1 (by omega), fld_eq x2 (by omega)]
theorem Laws.RoundTrip.rfadd (x0 : BitVec 1) (x1 : BitVec 8) (x2 : BitVec 8) : Laws.RoundTrip.Statement (.rfadd x0 x1 x2) := by
  intro _ rest
  have hx0 := x0.isLt
  have hx1 := x1.isLt
  have hx2 := x2.isLt
  refine decode_one (1946157060 + x0.toNat * 16777216 + x1.toNat * 65536 + x2.toNat * 256) 58 _ rest (by omega) (by omega) rfl ?_
  rw [decodeOp_3A, if_neg (by rw [nbits_eq]; omega), if_neg (by rw [nbits_eq]; omega), if_neg (by rw [nbits_eq]; omega), if_neg (by rw [nbits_eq]; omega), if_pos (by rw [nbits_eq]; omega)]
  rw [fld_eq x0 (by omega), fld_eq x1 (by omega), fld_eq x2 (by omega)]
theorem Laws.RoundTrip.rmin (x0 : BitVec 1) (x1 : BitVec 8) (x2 : BitVec 8) : Laws.RoundTrip.Statement (.rmin x0 x1 x2) := by
  intro _ rest
  have hx0 := x0.isLt
  have hx1 := x1.isLt
  have hx2 := x2.isLt
  refine decode_one (1946157061 + x0.toNat * 16777216 + x1.toNat * 65536 + x2.toNat * 256) 58 _ rest (by omega) (by omega) rfl ?_
  rw [decodeOp_3A, if_neg (by rw [nbits_eq]; omega), if_neg (by rw [nbits_eq]; omega), if_neg (by rw [nbits_eq]; omega), if_neg (by rw [nbits_eq]; omega), if_neg (by rw [nbits_eq]; omega), if_pos (by rw [nbits_eq]; omega)]
  rw [fld_eq x0 (by omega), fld_eq x1 (by omega), fld_eq x2 (by omega)]
theorem Laws.RoundTrip.rmax (x0 : BitVec 1) (x1 : BitVec 8) (x2 : BitVec 8) : Laws.RoundTrip.Statement (.rmax x0 x1 x2) := by
  intro _ rest
  have hx0 := x0.isLt
  have hx1 := x1.isLt
  have hx2 := x2.isLt
  refine decode_one (1946157062 + x0.toNat * 16777216 + x1.toNat * 65536 + x2.toNat * 256) 58 _ rest (by omega) (by omega) rfl ?_
  rw [decodeOp_3A, if_neg (by rw [nbits_eq]; omega), if_neg (by rw [nbits_eq]; omega), if_neg (by rw [nbits_eq]; omega), if_neg (by rw [nbits_eq]; omega), if_neg (by rw [nbits_eq]; omega), if_neg (by rw [nbits_eq]; omega), if_pos (by rw [nbits_eq]; omega)]
  rw [fld_eq x0 (by omega), fld_eq x1 (by omega), fld_eq x2 (by omega)]
theorem Laws.RoundTrip.rumin (x0 : BitVec 1) (x1 : BitVec 8) (x2 : BitVec 8) : Laws.RoundTrip.Statement (.rumin x0 x1 x2) := by
  intro _ rest
  have hx0 := x0.isLt
  have hx1 := x1.isLt
  have hx2 := x2.isLt
  refine decode_one (1946157063 + x0.toNat * 16777216 + x1.toNat * 65536 + x2.toNat * 256) 58 _ rest (by omega) (by omega) rfl ?_
  rw [decodeOp_3A, if_neg (by rw [nbits_eq]; omega), if_neg (by rw [nbits_eq]; omega), if_neg (by rw [nbits_eq]; omega), if_neg (by rw [nbits_eq]; omega), if_neg (by rw [nbits_eq]; omega), if_neg (by rw [nbits_eq]; omega), if_neg (by rw [nbits_eq]; omega), if_pos (by rw [nbits_eq]; omega)]
  rw [fld_eq x0 (by omega), fld_eq x1 (by omega), fld_eq x2 (by omega)]
theorem Laws.RoundTrip.rumax (x0 : BitVec 1) (x1 : BitVec 8) (x2 : BitVec 8) : Laws.RoundTrip.Statement (.rumax x0 x1 x2) := by
  intro _ rest
  have hx0 := x0.isLt
  have hx1 := x1.isLt
  have hx2 := x2.isLt
  refine decode_one (1946157064 + x0.toNat * 16777216 + x1.toNat * 65536 + x2.toNat * 256) 58 _ rest (by omega) (by omega) rfl ?_
  rw [decodeOp_3A, if_neg (by rw [nbits_eq]; omega), if_neg (by rw [nbits_eq]; omega), if_neg (by rw [nbits_eq]; omega), if_neg (by rw [nbits_eq]; omega), if_neg (by rw [nbits_eq]; omega), if_neg (by rw [nbits_eq]; omega), if_neg (by rw [nbits_eq]; omega), if_neg (by rw [nbits_eq]; omega), if_pos (by rw [nbits_eq]; omega)]
  rw [fld_eq x0 (by omega), fld_eq x1 (by omega), fld_eq x2 (by omega)]
theorem Laws.RoundTrip.rand (x0 : BitVec 1) (x1 : BitVec 8) (x2 : BitVec 8) : Laws.RoundTrip.Statement (.rand x0 x1 x2) := by
  intro _ rest
  have hx0 := x0.isLt
  have hx1 := x1.isLt
  have hx2 := x2.isLt
  refine decode_one (1946157065 + x0.toNat * 16777216 + x1.toNat * 65536 + x2.toNat * 256) 58 _ rest (by omega) (by omega) rfl ?_
  rw [decodeOp_3A, if_neg (by rw [nbits_eq]; omega), if_neg (by rw [nbits_eq]; omega), if_neg (by rw [nbits_eq]; omega), if_neg (by rw [nbits_eq]; omega), if_neg (by rw [nbits_eq]; omega), if_neg (by rw [nbits_eq]; omega), if_neg (by rw [nbits_eq]; omega), if_neg (by rw [nbits_eq]; omega), if_neg (by rw [nbits_eq]; omega), if_pos (by rw [nbits_eq]; omega)]
  rw [fld_eq x0 (by omega), fld_eq x1 (by omega), fld_eq x2 (by omega)]
theorem Laws.RoundTrip.ror (x0 : BitVec 1) (x1 : BitVec 8) (x2 : BitVec 8) : Laws.RoundTrip.Statement (.ror x0 x1 x2) := by
  intro _ rest
  have hx0 := x0.isLt
  have hx1 := x1.isLt
  have hx2 := x2.isLt
  refine decode_one (1946157066 + x0.toNat * 16777216 + x1.toNat * 65536 + x2.toNat * 256) 58 _ rest (by omega) (by omega) rfl ?_
  rw [decodeOp_3A, if_neg (by rw [nbits_eq]; omega), if_neg (by rw [nbits_eq]; omega), if_neg (by rw [nbits_eq]; omega), if_neg (by rw [nbits_eq]; omega), if_neg (by rw [nbits_eq]; omega), if_neg (by rw [nbits_eq]; omega), if_neg (by rw [nbits_eq]; omega), if_neg (by rw [nbits_eq]; omega), if_neg (by rw [nbits_eq]; omega), if_neg (by rw [nbits_eq]; omega), if_pos (by rw [nbits_eq]; omega)]
  rw [fld_eq x0 (by omega), fld_eq x1 (by omega), fld_eq x2 (by omega)]
theorem Laws.RoundTrip.pfadd (x0 : BitVec 1) (x1 : BitVec 8) (x2 : BitVec 8) : Laws.RoundTrip.Statement (.pfadd x0 x1 x2) := by
  intro _ rest
  have hx0 := x0.isLt
  have hx1 := x1.isLt
  have hx2 := x2.isLt
  refine decode_one (1946157067 + x0.toNat * 16777216 + x1.toNat * 65536 + x2.toNat * 256) 58 _ rest (by omega) (by omega) rfl ?_
  rw [decodeOp_3A, if_neg (by rw [nbits_eq]; omega), if_neg (by rw [nbits_eq]; omega), if_neg (by rw [nbits_eq]; omega), if_neg (by rw [nbits_eq]; omega), if_neg (by rw [nbits_eq]; omega), if_neg (by rw [nbits_eq]; omega), if_neg (by rw [nbits_eq]; omega), if_neg (by rw [nbits_eq]; omega), if_neg (by rw [nbits_eq]; omega), if_neg (by rw [nbits_eq]; omega), if_neg (by rw [nbits_eq]; omega), if_pos (by rw [nbits_eq]; omega)]
  rw [fld_eq x0 (by omega), fld_eq x1 (by omega), fld_eq x2 (by omega)]
theorem Laws.RoundTrip.pffadd (x0 : BitVec 1) (x1 : BitVec 8) (x2 : BitVec 8) : Laws.RoundTrip.Statement (.pffadd x0 x1 x2) := by
  intro _ rest
  have hx0 := x0.isLt
  have hx1 := x1.isLt
  have hx2 := x2.isLt
  refine decode_one (1946157068 + x0.toNat * 16777216 + x1.toNat * 65536 + x2.toNat * 256) 58 _ rest (by omega) (by omega) rfl ?_
  rw [decodeOp_3A, if_neg (by rw [nbits_eq]; omega), if_neg (by rw [nbits_eq]; omega), if_neg (by rw [nbits_eq]; omega), if_neg (by rw [nbits_eq]; omega), if_neg (by rw [nbits_eq]; omega), if_neg (by rw [nbits_eq]; omega), if_neg (by rw [nbits_eq]; omega), if_neg (by rw [nbits_eq]; omega), if_neg (by rw [nbits_eq]; omega), if_neg (by rw [nbits_eq]; omega), if_neg (by rw [nbits_eq]; omega), if_neg (by rw [nbits_eq]; omega), if_pos (by rw [nbits_eq]; omega)]
  rw [fld_eq x0 (by omega), fld_eq x1 (by omega), fld_eq x2 (by omega)]
theorem Laws.RoundTrip.bcst (x0 : BitVec 1) (x1 : BitVec 8) (x2 : BitVec 8) : Laws.RoundTrip.Statement (.bcst x0 x1 x2) := by
  intro _ rest
  have hx0 := x0.isLt
  have hx1 := x1.isLt
  have hx2 := x2.isLt
  refine decode_one (1946157069 + x0.toNat * 16777216 + x1.toNat * 65536 + x2.toNat * 256) 58 _ rest (by omega) (by omega) rfl ?_
  rw [decodeOp_3A, if_neg (by rw [nbits_eq]; omega), if_neg (by rw [nbits_eq]; omega), if_neg (by rw [nbits_eq]; omega), if_neg (by rw [nbits_eq]; omega), if_neg (by rw [nbits_eq]; omega), if_neg (by rw [nbits_eq]; omega), if_neg (by rw [nbits_eq]; omega), if_neg (by rw [nbits_eq]; omega), if_neg (by rw [nbits_eq]; omega), if_neg (by rw [nbits_eq]; omega), if_neg (by rw [nbits_eq]; omega), if_neg (by rw [nbits_eq]; omega), if_neg (by rw [nbits_eq]; omega), if_pos (by rw [nbits_eq]; omega)]
  rw [fld_eq x0 (by omega), fld_eq x1 (by omega), fld_eq x2 (by omega)]
theorem Laws.RoundTrip.laneFirst (x0 : BitVec 1) (x1 : BitVec 8) (x2 : BitVec 8) : Laws.RoundTrip.Statement (.laneFirst x0 x1 x2) := by
  intro _ rest
  have hx0 := x0.isLt
  have hx1 := x1.isLt
  have hx2 := x2.isLt
  refine decode_one (1946157070 + x0.toNat * 16777216 + x1.toNat * 65536 + x2.toNat * 256) 58 _ rest (by omega) (by omega) rfl ?_
  rw [decodeOp_3A, if_neg (by rw [nbits_eq]; omega), if_neg (by rw [nbits_eq]; omega), if_neg (by rw [nbits_eq]; omega), if_neg (by rw [nbits_eq]; omega), if_neg (by rw [nbits_eq]; omega), if_neg (by rw [nbits_eq]; omega), if_neg (by rw [nbits_eq]; omega), if_neg (by rw [nbits_eq]; omega), if_neg (by rw [nbits_eq]; omega), if_neg (by rw [nbits_eq]; omega), if_neg (by rw [nbits_eq]; omega), if_neg (by rw [nbits_eq]; omega), if_neg (by rw [nbits_eq]; omega), if_neg (by rw [nbits_eq]; omega), if_pos (by rw [nbits_eq]; omega)]
  rw [fld_eq x0 (by omega), fld_eq x1 (by omega), fld_eq x2 (by omega)]
theorem Laws.RoundTrip.movsRead (x0 : BitVec 1) (x1 : BitVec 8) (x2 : BitVec 7) : Laws.RoundTrip.Statement (.movsRead x0 x1 x2) := by
  intro _ rest
  have hx0 := x0.isLt
  have hx1 := x1.isLt
  have hx2 := x2.isLt
  refine decode_one (1979711488 + x0.toNat * 16777216 + x1.toNat * 65536 + x2.toNat) 59 _ rest (by omega) (by omega) rfl ?_
  rw [decodeOp_3B, if_pos (by rw [nbits_eq]; omega)]
  rw [fld_eq x0 (by omega), fld_eq x1 (by omega), fld_eq x2 (by omega)]
theorem Laws.RoundTrip.movsWrite (x0 : BitVec 8) (x1 : BitVec 7) : Laws.RoundTrip.Statement (.movsWrite x0 x1) := by
  intro _ rest
  have hx0 := x0.isLt
  have hx1 := x1.isLt
  refine decode_one (1979711616 + x0.toNat * 256 + x1.toNat) 59 _ rest (by omega) (by omega) rfl ?_
  rw [decodeOp_3B, if_neg (by rw [nbits_eq]; omega), if_pos (by rw [nbits_eq, nbits_eq]; omega)]
  rw [fld_eq x0 (by omega), fld_eq x1 (by omega)]
theorem Laws.RoundTrip.ld (x0 : BitVec 8) (x1 : BitVec 8) (x2 : BitVec 8) (x3 : BitVec 8) (x4 : BitVec 1) (x5 : BitVec 3) (x6 : BitVec 2) (x7 : BitVec 3) (x8 : BitVec 3) (x9 : BitVec 8) : Laws.RoundTrip.Statement (.ld x0 x1 x2 x3 x4 x5 x6 x7 x8 x9) := fun _ rest =>
  decode_two 0x40 0 x0 x1 x2 x3 x4 x5 x6 x7 x8 x9 rest .ld (by decide) (by decide) rfl rfl
theorem Laws.RoundTrip.st (x0 : BitVec 8) (x1 : BitVec 8) (x2 : BitVec 8) (x3 : BitVec 8) (x4 : BitVec 1) (x5 : BitVec 3) (x6 : BitVec 2) (x7 : BitVec 3) (x8 : BitVec 3) (x9 : BitVec 8) : Laws.RoundTrip.Statement (.st x0 x1 x2 x3 x4 x5 x6 x7 x8 x9) := fun _ rest =>
  decode_two 0x41 0 x0 x1 x2 x3 x4 x5 x6 x7 x8 x9 rest .st (by decide) (by decide) rfl rfl
theorem Laws.RoundTrip.atomAdd (x0 : BitVec 8) (x1 : BitVec 8) (x2 : BitVec 8) (x3 : BitVec 8) (x4 : BitVec 1) (x5 : BitVec 3) (x6 : BitVec 2) (x7 : BitVec 3) (x8 : BitVec 3) (x9 : BitVec 8) : Laws.RoundTrip.Statement (.atomAdd x0 x1 x2 x3 x4 x5 x6 x7 x8 x9) := fun _ rest =>
  decode_two 0x42 0 x0 x1 x2 x3 x4 x5 x6 x7 x8 x9 rest .atomAdd (by decide) (by decide) rfl rfl
theorem Laws.RoundTrip.atomFadd (x0 : BitVec 8) (x1 : BitVec 8) (x2 : BitVec 8) (x3 : BitVec 8) (x4 : BitVec 1) (x5 : BitVec 3) (x6 : BitVec 2) (x7 : BitVec 3) (x8 : BitVec 3) (x9 : BitVec 8) : Laws.RoundTrip.Statement (.atomFadd x0 x1 x2 x3 x4 x5 x6 x7 x8 x9) := fun _ rest =>
  decode_two 0x42 1 x0 x1 x2 x3 x4 x5 x6 x7 x8 x9 rest .atomFadd (by decide) (by decide) rfl rfl
theorem Laws.RoundTrip.atomMin (x0 : BitVec 8) (x1 : BitVec 8) (x2 : BitVec 8) (x3 : BitVec 8) (x4 : BitVec 1) (x5 : BitVec 3) (x6 : BitVec 2) (x7 : BitVec 3) (x8 : BitVec 3) (x9 : BitVec 8) : Laws.RoundTrip.Statement (.atomMin x0 x1 x2 x3 x4 x5 x6 x7 x8 x9) := fun _ rest =>
  decode_two 0x42 2 x0 x1 x2 x3 x4 x5 x6 x7 x8 x9 rest .atomMin (by decide) (by decide) rfl rfl
theorem Laws.RoundTrip.atomMax (x0 : BitVec 8) (x1 : BitVec 8) (x2 : BitVec 8) (x3 : BitVec 8) (x4 : BitVec 1) (x5 : BitVec 3) (x6 : BitVec 2) (x7 : BitVec 3) (x8 : BitVec 3) (x9 : BitVec 8) : Laws.RoundTrip.Statement (.atomMax x0 x1 x2 x3 x4 x5 x6 x7 x8 x9) := fun _ rest =>
  decode_two 0x42 3 x0 x1 x2 x3 x4 x5 x6 x7 x8 x9 rest .atomMax (by decide) (by decide) rfl rfl
theorem Laws.RoundTrip.atomUmin (x0 : BitVec 8) (x1 : BitVec 8) (x2 : BitVec 8) (x3 : BitVec 8) (x4 : BitVec 1) (x5 : BitVec 3) (x6 : BitVec 2) (x7 : BitVec 3) (x8 : BitVec 3) (x9 : BitVec 8) : Laws.RoundTrip.Statement (.atomUmin x0 x1 x2 x3 x4 x5 x6 x7 x8 x9) := fun _ rest =>
  decode_two 0x42 4 x0 x1 x2 x3 x4 x5 x6 x7 x8 x9 rest .atomUmin (by decide) (by decide) rfl rfl
theorem Laws.RoundTrip.atomUmax (x0 : BitVec 8) (x1 : BitVec 8) (x2 : BitVec 8) (x3 : BitVec 8) (x4 : BitVec 1) (x5 : BitVec 3) (x6 : BitVec 2) (x7 : BitVec 3) (x8 : BitVec 3) (x9 : BitVec 8) : Laws.RoundTrip.Statement (.atomUmax x0 x1 x2 x3 x4 x5 x6 x7 x8 x9) := fun _ rest =>
  decode_two 0x42 5 x0 x1 x2 x3 x4 x5 x6 x7 x8 x9 rest .atomUmax (by decide) (by decide) rfl rfl
theorem Laws.RoundTrip.atomAnd (x0 : BitVec 8) (x1 : BitVec 8) (x2 : BitVec 8) (x3 : BitVec 8) (x4 : BitVec 1) (x5 : BitVec 3) (x6 : BitVec 2) (x7 : BitVec 3) (x8 : BitVec 3) (x9 : BitVec 8) : Laws.RoundTrip.Statement (.atomAnd x0 x1 x2 x3 x4 x5 x6 x7 x8 x9) := fun _ rest =>
  decode_two 0x42 6 x0 x1 x2 x3 x4 x5 x6 x7 x8 x9 rest .atomAnd (by decide) (by decide) rfl rfl
theorem Laws.RoundTrip.atomOr (x0 : BitVec 8) (x1 : BitVec 8) (x2 : BitVec 8) (x3 : BitVec 8) (x4 : BitVec 1) (x5 : BitVec 3) (x6 : BitVec 2) (x7 : BitVec 3) (x8 : BitVec 3) (x9 : BitVec 8) : Laws.RoundTrip.Statement (.atomOr x0 x1 x2 x3 x4 x5 x6 x7 x8 x9) := fun _ rest =>
  decode_two 0x42 7 x0 x1 x2 x3 x4 x5 x6 x7 x8 x9 rest .atomOr (by decide) (by decide) rfl rfl
theorem Laws.RoundTrip.atomXor (x0 : BitVec 8) (x1 : BitVec 8) (x2 : BitVec 8) (x3 : BitVec 8) (x4 : BitVec 1) (x5 : BitVec 3) (x6 : BitVec 2) (x7 : BitVec 3) (x8 : BitVec 3) (x9 : BitVec 8) : Laws.RoundTrip.Statement (.atomXor x0 x1 x2 x3 x4 x5 x6 x7 x8 x9) := fun _ rest =>
  decode_two 0x42 8 x0 x1 x2 x3 x4 x5 x6 x7 x8 x9 rest .atomXor (by decide) (by decide) rfl rfl
theorem Laws.RoundTrip.atomXchg (x0 : BitVec 8) (x1 : BitVec 8) (x2 : BitVec 8) (x3 : BitVec 8) (x4 : BitVec 1) (x5 : BitVec 3) (x6 : BitVec 2) (x7 : BitVec 3) (x8 : BitVec 3) (x9 : BitVec 8) : Laws.RoundTrip.Statement (.atomXchg x0 x1 x2 x3 x4 x5 x6 x7 x8 x9) := fun _ rest =>
  decode_two 0x42 9 x0 x1 x2 x3 x4 x5 x6 x7 x8 x9 rest .atomXchg (by decide) (by decide) rfl rfl
theorem Laws.RoundTrip.atomCas (x0 : BitVec 8) (x1 : BitVec 8) (x2 : BitVec 8) (x3 : BitVec 8) (x4 : BitVec 1) (x5 : BitVec 3) (x6 : BitVec 2) (x7 : BitVec 3) (x8 : BitVec 3) (x9 : BitVec 8) : Laws.RoundTrip.Statement (.atomCas x0 x1 x2 x3 x4 x5 x6 x7 x8 x9) := fun _ rest =>
  decode_two 0x42 10 x0 x1 x2 x3 x4 x5 x6 x7 x8 x9 rest .atomCas (by decide) (by decide) rfl rfl
theorem Laws.RoundTrip.atomFmin (x0 : BitVec 8) (x1 : BitVec 8) (x2 : BitVec 8) (x3 : BitVec 8) (x4 : BitVec 1) (x5 : BitVec 3) (x6 : BitVec 2) (x7 : BitVec 3) (x8 : BitVec 3) (x9 : BitVec 8) : Laws.RoundTrip.Statement (.atomFmin x0 x1 x2 x3 x4 x5 x6 x7 x8 x9) := fun _ rest =>
  decode_two 0x42 11 x0 x1 x2 x3 x4 x5 x6 x7 x8 x9 rest .atomFmin (by decide) (by decide) rfl rfl
theorem Laws.RoundTrip.atomFmax (x0 : BitVec 8) (x1 : BitVec 8) (x2 : BitVec 8) (x3 : BitVec 8) (x4 : BitVec 1) (x5 : BitVec 3) (x6 : BitVec 2) (x7 : BitVec 3) (x8 : BitVec 3) (x9 : BitVec 8) : Laws.RoundTrip.Statement (.atomFmax x0 x1 x2 x3 x4 x5 x6 x7 x8 x9) := fun _ rest =>
  decode_two 0x42 12 x0 x1 x2 x3 x4 x5 x6 x7 x8 x9 rest .atomFmax (by decide) (by decide) rfl rfl
theorem Laws.RoundTrip.atomHadd2 (x0 : BitVec 8) (x1 : BitVec 8) (x2 : BitVec 8) (x3 : BitVec 8) (x4 : BitVec 1) (x5 : BitVec 3) (x6 : BitVec 2) (x7 : BitVec 3) (x8 : BitVec 3) (x9 : BitVec 8) : Laws.RoundTrip.Statement (.atomHadd2 x0 x1 x2 x3 x4 x5 x6 x7 x8 x9) := fun _ rest =>
  decode_two 0x42 13 x0 x1 x2 x3 x4 x5 x6 x7 x8 x9 rest .atomHadd2 (by decide) (by decide) rfl rfl
theorem Laws.RoundTrip.atomBadd2 (x0 : BitVec 8) (x1 : BitVec 8) (x2 : BitVec 8) (x3 : BitVec 8) (x4 : BitVec 1) (x5 : BitVec 3) (x6 : BitVec 2) (x7 : BitVec 3) (x8 : BitVec 3) (x9 : BitVec 8) : Laws.RoundTrip.Statement (.atomBadd2 x0 x1 x2 x3 x4 x5 x6 x7 x8 x9) := fun _ rest =>
  decode_two 0x42 14 x0 x1 x2 x3 x4 x5 x6 x7 x8 x9 rest .atomBadd2 (by decide) (by decide) rfl rfl
theorem Laws.RoundTrip.ldtFf (x0 : BitVec 8) (x1 : BitVec 8) (x2 : BitVec 8) (x3 : BitVec 8) (x4 : BitVec 1) (x5 : BitVec 3) (x6 : BitVec 2) (x7 : BitVec 3) (x8 : BitVec 3) (x9 : BitVec 8) : Laws.RoundTrip.Statement (.ldtFf x0 x1 x2 x3 x4 x5 x6 x7 x8 x9) := fun _ rest =>
  decode_two 0x43 0 x0 x1 x2 x3 x4 x5 x6 x7 x8 x9 rest .ldtFf (by decide) (by decide) rfl rfl
theorem Laws.RoundTrip.ldtFe (x0 : BitVec 8) (x1 : BitVec 8) (x2 : BitVec 8) (x3 : BitVec 8) (x4 : BitVec 1) (x5 : BitVec 3) (x6 : BitVec 2) (x7 : BitVec 3) (x8 : BitVec 3) (x9 : BitVec 8) : Laws.RoundTrip.Statement (.ldtFe x0 x1 x2 x3 x4 x5 x6 x7 x8 x9) := fun _ rest =>
  decode_two 0x43 1 x0 x1 x2 x3 x4 x5 x6 x7 x8 x9 rest .ldtFe (by decide) (by decide) rfl rfl
theorem Laws.RoundTrip.ldtXx (x0 : BitVec 8) (x1 : BitVec 8) (x2 : BitVec 8) (x3 : BitVec 8) (x4 : BitVec 1) (x5 : BitVec 3) (x6 : BitVec 2) (x7 : BitVec 3) (x8 : BitVec 3) (x9 : BitVec 8) : Laws.RoundTrip.Statement (.ldtXx x0 x1 x2 x3 x4 x5 x6 x7 x8 x9) := fun _ rest =>
  decode_two 0x43 2 x0 x1 x2 x3 x4 x5 x6 x7 x8 x9 rest .ldtXx (by decide) (by decide) rfl rfl
theorem Laws.RoundTrip.sttEf (x0 : BitVec 8) (x1 : BitVec 8) (x2 : BitVec 8) (x3 : BitVec 8) (x4 : BitVec 1) (x5 : BitVec 3) (x6 : BitVec 2) (x7 : BitVec 3) (x8 : BitVec 3) (x9 : BitVec 8) : Laws.RoundTrip.Statement (.sttEf x0 x1 x2 x3 x4 x5 x6 x7 x8 x9) := fun _ rest =>
  decode_two 0x44 0 x0 x1 x2 x3 x4 x5 x6 x7 x8 x9 rest .sttEf (by decide) (by decide) rfl rfl
theorem Laws.RoundTrip.sttXf (x0 : BitVec 8) (x1 : BitVec 8) (x2 : BitVec 8) (x3 : BitVec 8) (x4 : BitVec 1) (x5 : BitVec 3) (x6 : BitVec 2) (x7 : BitVec 3) (x8 : BitVec 3) (x9 : BitVec 8) : Laws.RoundTrip.Statement (.sttXf x0 x1 x2 x3 x4 x5 x6 x7 x8 x9) := fun _ rest =>
  decode_two 0x44 1 x0 x1 x2 x3 x4 x5 x6 x7 x8 x9 rest .sttXf (by decide) (by decide) rfl rfl
theorem Laws.RoundTrip.sttXe (x0 : BitVec 8) (x1 : BitVec 8) (x2 : BitVec 8) (x3 : BitVec 8) (x4 : BitVec 1) (x5 : BitVec 3) (x6 : BitVec 2) (x7 : BitVec 3) (x8 : BitVec 3) (x9 : BitVec 8) : Laws.RoundTrip.Statement (.sttXe x0 x1 x2 x3 x4 x5 x6 x7 x8 x9) := fun _ rest =>
  decode_two 0x44 2 x0 x1 x2 x3 x4 x5 x6 x7 x8 x9 rest .sttXe (by decide) (by decide) rfl rfl
theorem Laws.RoundTrip.ldtile (x0 : BitVec 8) (x1 : BitVec 8) (x2 : BitVec 8) (x3 : BitVec 8) (x4 : BitVec 1) (x5 : BitVec 3) (x6 : BitVec 2) (x7 : BitVec 3) (x8 : BitVec 3) (x9 : BitVec 8) : Laws.RoundTrip.Statement (.ldtile x0 x1 x2 x3 x4 x5 x6 x7 x8 x9) := fun _ rest =>
  decode_two 0x45 0 x0 x1 x2 x3 x4 x5 x6 x7 x8 x9 rest .ldtile (by decide) (by decide) rfl rfl
theorem Laws.RoundTrip.sttile (x0 : BitVec 8) (x1 : BitVec 8) (x2 : BitVec 8) (x3 : BitVec 8) (x4 : BitVec 1) (x5 : BitVec 3) (x6 : BitVec 2) (x7 : BitVec 3) (x8 : BitVec 3) (x9 : BitVec 8) : Laws.RoundTrip.Statement (.sttile x0 x1 x2 x3 x4 x5 x6 x7 x8 x9) := fun _ rest =>
  decode_two 0x46 0 x0 x1 x2 x3 x4 x5 x6 x7 x8 x9 rest .sttile (by decide) (by decide) rfl rfl
theorem Laws.RoundTrip.prf (x0 : BitVec 8) (x1 : BitVec 8) (x2 : BitVec 8) (x3 : BitVec 8) (x4 : BitVec 1) (x5 : BitVec 3) (x6 : BitVec 2) (x7 : BitVec 3) (x8 : BitVec 3) (x9 : BitVec 8) : Laws.RoundTrip.Statement (.prf x0 x1 x2 x3 x4 x5 x6 x7 x8 x9) := fun _ rest =>
  decode_two 0x47 0 x0 x1 x2 x3 x4 x5 x6 x7 x8 x9 rest .prf (by decide) (by decide) rfl rfl
theorem Laws.RoundTrip.fenceAcq (x0 : BitVec 3) : Laws.RoundTrip.Statement (.fenceAcq x0) := by
  intro _ rest
  have hx0 := x0.isLt
  refine decode_one (2692743168 + x0.toNat * 1048576) 80 _ rest (by omega) (by omega) rfl ?_
  rw [decodeOp_50, if_pos (by rw [nbits_eq, nbits_eq]; omega)]
  rw [fld_eq x0 (by omega)]
theorem Laws.RoundTrip.fenceRel (x0 : BitVec 3) : Laws.RoundTrip.Statement (.fenceRel x0) := by
  intro _ rest
  have hx0 := x0.isLt
  refine decode_one (2701131776 + x0.toNat * 1048576) 80 _ rest (by omega) (by omega) rfl ?_
  rw [decodeOp_50, if_neg (by rw [nbits_eq, nbits_eq]; omega), if_pos (by rw [nbits_eq, nbits_eq]; omega)]
  rw [fld_eq x0 (by omega)]
theorem Laws.RoundTrip.fenceAr (x0 : BitVec 3) : Laws.RoundTrip.Statement (.fenceAr x0) := by
  intro _ rest
  have hx0 := x0.isLt
  refine decode_one (2709520384 + x0.toNat * 1048576) 80 _ rest (by omega) (by omega) rfl ?_
  rw [decodeOp_50, if_neg (by rw [nbits_eq, nbits_eq]; omega), if_neg (by rw [nbits_eq, nbits_eq]; omega), if_pos (by rw [nbits_eq, nbits_eq]; omega)]
  rw [fld_eq x0 (by omega)]
theorem Laws.RoundTrip.sobjBind (x0 : BitVec 6) (x1 : BitVec 6) (x2 : BitVec 8) : Laws.RoundTrip.Statement (.sobjBind x0 x1 x2) := by
  intro _ rest
  have hx0 := x0.isLt
  have hx1 := x1.isLt
  have hx2 := x2.isLt
  refine decode_one (2717908992 + x0.toNat * 16384 + x1.toNat * 256 + x2.toNat) 81 _ rest (by omega) (by omega) rfl ?_
  rw [decodeOp_51, if_pos (by rw [nbits_eq]; omega)]
  rw [fld_eq x0 (by omega), fld_eq x1 (by omega), fld_eq x2 (by omega)]
theorem Laws.RoundTrip.sobjUnbind (x0 : BitVec 6) (x1 : BitVec 8) : Laws.RoundTrip.Statement (.sobjUnbind x0 x1) := by
  intro _ rest
  have hx0 := x0.isLt
  have hx1 := x1.isLt
  refine decode_one (2718957568 + x0.toNat * 16384 + x1.toNat) 81 _ rest (by omega) (by omega) rfl ?_
  rw [decodeOp_51, if_neg (by rw [nbits_eq]; omega), if_pos (by rw [nbits_eq, nbits_eq]; omega)]
  rw [fld_eq x0 (by omega), fld_eq x1 (by omega)]
theorem Laws.RoundTrip.sobjAcq (x0 : BitVec 6) (x1 : BitVec 1) : Laws.RoundTrip.Statement (.sobjAcq x0 x1) := by
  intro _ rest
  have hx0 := x0.isLt
  have hx1 := x1.isLt
  refine decode_one (2720006144 + x0.toNat * 16384 + x1.toNat) 81 _ rest (by omega) (by omega) rfl ?_
  rw [decodeOp_51, if_neg (by rw [nbits_eq]; omega), if_neg (by rw [nbits_eq, nbits_eq]; omega), if_pos (by rw [nbits_eq, nbits_eq]; omega)]
  rw [fld_eq x0 (by omega), fld_eq x1 (by omega)]
theorem Laws.RoundTrip.sobjRel (x0 : BitVec 6) : Laws.RoundTrip.Statement (.sobjRel x0) := by
  intro _ rest
  have hx0 := x0.isLt
  refine decode_one (2721054720 + x0.toNat * 16384) 81 _ rest (by omega) (by omega) rfl ?_
  rw [decodeOp_51, if_neg (by rw [nbits_eq]; omega), if_neg (by rw [nbits_eq, nbits_eq]; omega), if_neg (by rw [nbits_eq, nbits_eq]; omega), if_pos (by rw [nbits_eq, nbits_eq]; omega)]
  rw [fld_eq x0 (by omega)]
theorem Laws.RoundTrip.sobjTryacq (x0 : BitVec 6) (x1 : BitVec 6) (x2 : BitVec 1) : Laws.RoundTrip.Statement (.sobjTryacq x0 x1 x2) := by
  intro _ rest
  have hx0 := x0.isLt
  have hx1 := x1.isLt
  have hx2 := x2.isLt
  refine decode_one (2722103296 + x0.toNat * 16384 + x1.toNat * 256 + x2.toNat) 81 _ rest (by omega) (by omega) rfl ?_
  rw [decodeOp_51, if_neg (by rw [nbits_eq]; omega), if_neg (by rw [nbits_eq, nbits_eq]; omega), if_neg (by rw [nbits_eq, nbits_eq]; omega), if_neg (by rw [nbits_eq, nbits_eq]; omega), if_pos (by rw [nbits_eq, nbits_eq]; omega)]
  rw [fld_eq x0 (by omega), fld_eq x1 (by omega), fld_eq x2 (by omega)]
theorem Laws.RoundTrip.waitc (x0 : BitVec 5) (x1 : BitVec 8) : Laws.RoundTrip.Statement (.waitc x0 x1) := by
  intro _ rest
  have hx0 := x0.isLt
  have hx1 := x1.isLt
  refine decode_one (2751463424 + x0.toNat * 1048576 + x1.toNat) 82 _ rest (by omega) (by omega) rfl ?_
  rw [decodeOp_52, if_pos (by rw [nbits_eq]; omega)]
  rw [fld_eq x0 (by omega), fld_eq x1 (by omega)]
theorem Laws.RoundTrip.queueInit (x0 : BitVec 6) (x1 : BitVec 6) (x2 : BitVec 8) : Laws.RoundTrip.Statement (.queueInit x0 x1 x2) := by
  intro _ rest
  have hx0 := x0.isLt
  have hx1 := x1.isLt
  have hx2 := x2.isLt
  refine decode_one (2818572288 + x0.toNat * 16384 + x1.toNat * 256 + x2.toNat) 84 _ rest (by omega) (by omega) rfl ?_
  rw [decodeOp_54, if_pos (by rw [nbits_eq]; omega)]
  rw [fld_eq x0 (by omega), fld_eq x1 (by omega), fld_eq x2 (by omega)]
theorem Laws.RoundTrip.queueAllow (x0 : BitVec 6) (x1 : BitVec 6) (x2 : BitVec 8) : Laws.RoundTrip.Statement (.queueAllow x0 x1 x2) := by
  intro _ rest
  have hx0 := x0.isLt
  have hx1 := x1.isLt
  have hx2 := x2.isLt
  refine decode_one (2819620864 + x0.toNat * 16384 + x1.toNat * 256 + x2.toNat) 84 _ rest (by omega) (by omega) rfl ?_
  rw [decodeOp_54, if_neg (by rw [nbits_eq]; omega), if_pos (by rw [nbits_eq]; omega)]
  rw [fld_eq x0 (by omega), fld_eq x1 (by omega), fld_eq x2 (by omega)]
theorem Laws.RoundTrip.queuePush (x0 : BitVec 6) (x1 : BitVec 8) : Laws.RoundTrip.Statement (.queuePush x0 x1) := by
  intro _ rest
  have hx0 := x0.isLt
  have hx1 := x1.isLt
  refine decode_one (2820669440 + x0.toNat * 16384 + x1.toNat) 84 _ rest (by omega) (by omega) rfl ?_
  rw [decodeOp_54, if_neg (by rw [nbits_eq]; omega), if_neg (by rw [nbits_eq]; omega), if_pos (by rw [nbits_eq, nbits_eq]; omega)]
  rw [fld_eq x0 (by omega), fld_eq x1 (by omega)]
theorem Laws.RoundTrip.queuePop (x0 : BitVec 6) (x1 : BitVec 8) : Laws.RoundTrip.Statement (.queuePop x0 x1) := by
  intro _ rest
  have hx0 := x0.isLt
  have hx1 := x1.isLt
  refine decode_one (2821718016 + x0.toNat * 16384 + x1.toNat) 84 _ rest (by omega) (by omega) rfl ?_
  rw [decodeOp_54, if_neg (by rw [nbits_eq]; omega), if_neg (by rw [nbits_eq]; omega), if_neg (by rw [nbits_eq, nbits_eq]; omega), if_pos (by rw [nbits_eq, nbits_eq]; omega)]
  rw [fld_eq x0 (by omega), fld_eq x1 (by omega)]
theorem Laws.RoundTrip.queueTrypush (x0 : BitVec 6) (x1 : BitVec 6) (x2 : BitVec 8) : Laws.RoundTrip.Statement (.queueTrypush x0 x1 x2) := by
  intro _ rest
  have hx0 := x0.isLt
  have hx1 := x1.isLt
  have hx2 := x2.isLt
  refine decode_one (2822766592 + x0.toNat * 16384 + x1.toNat * 256 + x2.toNat) 84 _ rest (by omega) (by omega) rfl ?_
  rw [decodeOp_54, if_neg (by rw [nbits_eq]; omega), if_neg (by rw [nbits_eq]; omega), if_neg (by rw [nbits_eq, nbits_eq]; omega), if_neg (by rw [nbits_eq, nbits_eq]; omega), if_pos (by rw [nbits_eq]; omega)]
  rw [fld_eq x0 (by omega), fld_eq x1 (by omega), fld_eq x2 (by omega)]
theorem Laws.RoundTrip.queueTrypop (x0 : BitVec 6) (x1 : BitVec 6) (x2 : BitVec 8) : Laws.RoundTrip.Statement (.queueTrypop x0 x1 x2) := by
  intro _ rest
  have hx0 := x0.isLt
  have hx1 := x1.isLt
  have hx2 := x2.isLt
  refine decode_one (2823815168 + x0.toNat * 16384 + x1.toNat * 256 + x2.toNat) 84 _ rest (by omega) (by omega) rfl ?_
  rw [decodeOp_54, if_neg (by rw [nbits_eq]; omega), if_neg (by rw [nbits_eq]; omega), if_neg (by rw [nbits_eq, nbits_eq]; omega), if_neg (by rw [nbits_eq, nbits_eq]; omega), if_neg (by rw [nbits_eq]; omega), if_pos (by rw [nbits_eq]; omega)]
  rw [fld_eq x0 (by omega), fld_eq x1 (by omega), fld_eq x2 (by omega)]
theorem Laws.RoundTrip.abarInit (x0 : BitVec 6) (x1 : BitVec 8) : Laws.RoundTrip.Statement (.abarInit x0 x1) := by
  intro _ rest
  have hx0 := x0.isLt
  have hx1 := x1.isLt
  refine decode_one (2852126720 + x0.toNat * 16384 + x1.toNat) 85 _ rest (by omega) (by omega) rfl ?_
  rw [decodeOp_55, if_pos (by rw [nbits_eq, nbits_eq]; omega)]
  rw [fld_eq x0 (by omega), fld_eq x1 (by omega)]
theorem Laws.RoundTrip.abarExpect (x0 : BitVec 6) (x1 : BitVec 8) : Laws.RoundTrip.Statement (.abarExpect x0 x1) := by
  intro _ rest
  have hx0 := x0.isLt
  have hx1 := x1.isLt
  refine decode_one (2853175296 + x0.toNat * 16384 + x1.toNat) 85 _ rest (by omega) (by omega) rfl ?_
  rw [decodeOp_55, if_neg (by rw [nbits_eq, nbits_eq]; omega), if_pos (by rw [nbits_eq, nbits_eq]; omega)]
  rw [fld_eq x0 (by omega), fld_eq x1 (by omega)]
theorem Laws.RoundTrip.abarArrive (x0 : BitVec 6) (x1 : BitVec 8) : Laws.RoundTrip.Statement (.abarArrive x0 x1) := by
  intro _ rest
  have hx0 := x0.isLt
  have hx1 := x1.isLt
  refine decode_one (2854223872 + x0.toNat * 16384 + x1.toNat) 85 _ rest (by omega) (by omega) rfl ?_
  rw [decodeOp_55, if_neg (by rw [nbits_eq, nbits_eq]; omega), if_neg (by rw [nbits_eq, nbits_eq]; omega), if_pos (by rw [nbits_eq, nbits_eq]; omega)]
  rw [fld_eq x0 (by omega), fld_eq x1 (by omega)]
theorem Laws.RoundTrip.abarWait (x0 : BitVec 6) (x1 : BitVec 8) : Laws.RoundTrip.Statement (.abarWait x0 x1) := by
  intro _ rest
  have hx0 := x0.isLt
  have hx1 := x1.isLt
  refine decode_one (2855272448 + x0.toNat * 16384 + x1.toNat) 85 _ rest (by omega) (by omega) rfl ?_
  rw [decodeOp_55, if_neg (by rw [nbits_eq, nbits_eq]; omega), if_neg (by rw [nbits_eq, nbits_eq]; omega), if_neg (by rw [nbits_eq, nbits_eq]; omega), if_pos (by rw [nbits_eq, nbits_eq]; omega)]
  rw [fld_eq x0 (by omega), fld_eq x1 (by omega)]
theorem Laws.RoundTrip.abarArrwait (x0 : BitVec 8) : Laws.RoundTrip.Statement (.abarArrwait x0) := by
  intro _ rest
  have hx0 := x0.isLt
  refine decode_one (2856321024 + x0.toNat) 85 _ rest (by omega) (by omega) rfl ?_
  rw [decodeOp_55, if_neg (by rw [nbits_eq, nbits_eq]; omega), if_neg (by rw [nbits_eq, nbits_eq]; omega), if_neg (by rw [nbits_eq, nbits_eq]; omega), if_neg (by rw [nbits_eq, nbits_eq]; omega), if_pos (by rw [nbits_eq]; omega)]
  rw [fld_eq x0 (by omega)]
theorem Laws.RoundTrip.verPubv (x0 : BitVec 6) (x1 : BitVec 6) : Laws.RoundTrip.Statement (.verPubv x0 x1) := by
  intro _ rest
  have hx0 := x0.isLt
  have hx1 := x1.isLt
  refine decode_one (2885681152 + x0.toNat * 16384 + x1.toNat * 256) 86 _ rest (by omega) (by omega) rfl ?_
  rw [decodeOp_56, if_pos (by rw [nbits_eq, nbits_eq]; omega)]
  rw [fld_eq x0 (by omega), fld_eq x1 (by omega)]
theorem Laws.RoundTrip.verQver (x0 : BitVec 6) (x1 : BitVec 6) : Laws.RoundTrip.Statement (.verQver x0 x1) := by
  intro _ rest
  have hx0 := x0.isLt
  have hx1 := x1.isLt
  refine decode_one (2886729728 + x0.toNat * 16384 + x1.toNat * 256) 86 _ rest (by omega) (by omega) rfl ?_
  rw [decodeOp_56, if_neg (by rw [nbits_eq, nbits_eq]; omega), if_pos (by rw [nbits_eq, nbits_eq]; omega)]
  rw [fld_eq x0 (by omega), fld_eq x1 (by omega)]
theorem Laws.RoundTrip.cpyLin (x0 : BitVec 6) : Laws.RoundTrip.Statement (.cpyLin x0) := by
  intro _ rest
  have hx0 := x0.isLt
  refine decode_one (2952790016 + x0.toNat * 16384) 88 _ rest (by omega) (by omega) rfl ?_
  rw [decodeOp_58, if_pos (by rw [nbits_eq, nbits_eq]; omega)]
  rw [fld_eq x0 (by omega)]
theorem Laws.RoundTrip.cpyBlk2 (x0 : BitVec 6) : Laws.RoundTrip.Statement (.cpyBlk2 x0) := by
  intro _ rest
  have hx0 := x0.isLt
  refine decode_one (2953838592 + x0.toNat * 16384) 88 _ rest (by omega) (by omega) rfl ?_
  rw [decodeOp_58, if_neg (by rw [nbits_eq, nbits_eq]; omega), if_pos (by rw [nbits_eq, nbits_eq]; omega)]
  rw [fld_eq x0 (by omega)]
theorem Laws.RoundTrip.cpyBlk3 (x0 : BitVec 6) : Laws.RoundTrip.Statement (.cpyBlk3 x0) := by
  intro _ rest
  have hx0 := x0.isLt
  refine decode_one (2954887168 + x0.toNat * 16384) 88 _ rest (by omega) (by omega) rfl ?_
  rw [decodeOp_58, if_neg (by rw [nbits_eq, nbits_eq]; omega), if_neg (by rw [nbits_eq, nbits_eq]; omega), if_pos (by rw [nbits_eq, nbits_eq]; omega)]
  rw [fld_eq x0 (by omega)]
theorem Laws.RoundTrip.cpyGath (x0 : BitVec 6) : Laws.RoundTrip.Statement (.cpyGath x0) := by
  intro _ rest
  have hx0 := x0.isLt
  refine decode_one (2955935744 + x0.toNat * 16384) 88 _ rest (by omega) (by omega) rfl ?_
  rw [decodeOp_58, if_neg (by rw [nbits_eq, nbits_eq]; omega), if_neg (by rw [nbits_eq, nbits_eq]; omega), if_neg (by rw [nbits_eq, nbits_eq]; omega), if_pos (by rw [nbits_eq, nbits_eq]; omega)]
  rw [fld_eq x0 (by omega)]
theorem Laws.RoundTrip.cpyScat (x0 : BitVec 6) : Laws.RoundTrip.Statement (.cpyScat x0) := by
  intro _ rest
  have hx0 := x0.isLt
  refine decode_one (2956984320 + x0.toNat * 16384) 88 _ rest (by omega) (by omega) rfl ?_
  rw [decodeOp_58, if_neg (by rw [nbits_eq, nbits_eq]; omega), if_neg (by rw [nbits_eq, nbits_eq]; omega), if_neg (by rw [nbits_eq, nbits_eq]; omega), if_neg (by rw [nbits_eq, nbits_eq]; omega), if_pos (by rw [nbits_eq, nbits_eq]; omega)]
  rw [fld_eq x0 (by omega)]
theorem Laws.RoundTrip.cpyFill (x0 : BitVec 6) : Laws.RoundTrip.Statement (.cpyFill x0) := by
  intro _ rest
  have hx0 := x0.isLt
  refine decode_one (2958032896 + x0.toNat * 16384) 88 _ rest (by omega) (by omega) rfl ?_
  rw [decodeOp_58, if_neg (by rw [nbits_eq, nbits_eq]; omega), if_neg (by rw [nbits_eq, nbits_eq]; omega), if_neg (by rw [nbits_eq, nbits_eq]; omega), if_neg (by rw [nbits_eq, nbits_eq]; omega), if_neg (by rw [nbits_eq, nbits_eq]; omega), if_pos (by rw [nbits_eq, nbits_eq]; omega)]
  rw [fld_eq x0 (by omega)]
theorem Laws.RoundTrip.cpyExp6 (x0 : BitVec 6) : Laws.RoundTrip.Statement (.cpyExp6 x0) := by
  intro _ rest
  have hx0 := x0.isLt
  refine decode_one (2959081472 + x0.toNat * 16384) 88 _ rest (by omega) (by omega) rfl ?_
  rw [decodeOp_58, if_neg (by rw [nbits_eq, nbits_eq]; omega), if_neg (by rw [nbits_eq, nbits_eq]; omega), if_neg (by rw [nbits_eq, nbits_eq]; omega), if_neg (by rw [nbits_eq, nbits_eq]; omega), if_neg (by rw [nbits_eq, nbits_eq]; omega), if_neg (by rw [nbits_eq, nbits_eq]; omega), if_pos (by rw [nbits_eq, nbits_eq]; omega)]
  rw [fld_eq x0 (by omega)]
theorem Laws.RoundTrip.cpyPak6 (x0 : BitVec 6) : Laws.RoundTrip.Statement (.cpyPak6 x0) := by
  intro _ rest
  have hx0 := x0.isLt
  refine decode_one (2960130048 + x0.toNat * 16384) 88 _ rest (by omega) (by omega) rfl ?_
  rw [decodeOp_58, if_neg (by rw [nbits_eq, nbits_eq]; omega), if_neg (by rw [nbits_eq, nbits_eq]; omega), if_neg (by rw [nbits_eq, nbits_eq]; omega), if_neg (by rw [nbits_eq, nbits_eq]; omega), if_neg (by rw [nbits_eq, nbits_eq]; omega), if_neg (by rw [nbits_eq, nbits_eq]; omega), if_neg (by rw [nbits_eq, nbits_eq]; omega), if_pos (by rw [nbits_eq, nbits_eq]; omega)]
  rw [fld_eq x0 (by omega)]
theorem Laws.RoundTrip.cpyRedAdd (x0 : BitVec 6) : Laws.RoundTrip.Statement (.cpyRedAdd x0) := by
  intro _ rest
  have hx0 := x0.isLt
  refine decode_one (2961178624 + x0.toNat * 16384) 88 _ rest (by omega) (by omega) rfl ?_
  rw [decodeOp_58, if_neg (by rw [nbits_eq, nbits_eq]; omega), if_neg (by rw [nbits_eq, nbits_eq]; omega), if_neg (by rw [nbits_eq, nbits_eq]; omega), if_neg (by rw [nbits_eq, nbits_eq]; omega), if_neg (by rw [nbits_eq, nbits_eq]; omega), if_neg (by rw [nbits_eq, nbits_eq]; omega), if_neg (by rw [nbits_eq, nbits_eq]; omega), if_neg (by rw [nbits_eq, nbits_eq]; omega), if_pos (by rw [nbits_eq, nbits_eq]; omega)]
  rw [fld_eq x0 (by omega)]
theorem Laws.RoundTrip.cpyRedMin (x0 : BitVec 6) : Laws.RoundTrip.Statement (.cpyRedMin x0) := by
  intro _ rest
  have hx0 := x0.isLt
  refine decode_one (2962227200 + x0.toNat * 16384) 88 _ rest (by omega) (by omega) rfl ?_
  rw [decodeOp_58, if_neg (by rw [nbits_eq, nbits_eq]; omega), if_neg (by rw [nbits_eq, nbits_eq]; omega), if_neg (by rw [nbits_eq, nbits_eq]; omega), if_neg (by rw [nbits_eq, nbits_eq]; omega), if_neg (by rw [nbits_eq, nbits_eq]; omega), if_neg (by rw [nbits_eq, nbits_eq]; omega), if_neg (by rw [nbits_eq, nbits_eq]; omega), if_neg (by rw [nbits_eq, nbits_eq]; omega), if_neg (by rw [nbits_eq, nbits_eq]; omega), if_pos (by rw [nbits_eq, nbits_eq]; omega)]
  rw [fld_eq x0 (by omega)]
theorem Laws.RoundTrip.cpyRedMax (x0 : BitVec 6) : Laws.RoundTrip.Statement (.cpyRedMax x0) := by
  intro _ rest
  have hx0 := x0.isLt
  refine decode_one (2963275776 + x0.toNat * 16384) 88 _ rest (by omega) (by omega) rfl ?_
  rw [decodeOp_58, if_neg (by rw [nbits_eq, nbits_eq]; omega), if_neg (by rw [nbits_eq, nbits_eq]; omega), if_neg (by rw [nbits_eq, nbits_eq]; omega), if_neg (by rw [nbits_eq, nbits_eq]; omega), if_neg (by rw [nbits_eq, nbits_eq]; omega), if_neg (by rw [nbits_eq, nbits_eq]; omega), if_neg (by rw [nbits_eq, nbits_eq]; omega), if_neg (by rw [nbits_eq, nbits_eq]; omega), if_neg (by rw [nbits_eq, nbits_eq]; omega), if_neg (by rw [nbits_eq, nbits_eq]; omega), if_pos (by rw [nbits_eq, nbits_eq]; omega)]
  rw [fld_eq x0 (by omega)]
theorem Laws.RoundTrip.cpyOpb (x0 : BitVec 6) : Laws.RoundTrip.Statement (.cpyOpb x0) := by
  intro _ rest
  have hx0 := x0.isLt
  refine decode_one (2964324352 + x0.toNat * 16384) 88 _ rest (by omega) (by omega) rfl ?_
  rw [decodeOp_58, if_neg (by rw [nbits_eq, nbits_eq]; omega), if_neg (by rw [nbits_eq, nbits_eq]; omega), if_neg (by rw [nbits_eq, nbits_eq]; omega), if_neg (by rw [nbits_eq, nbits_eq]; omega), if_neg (by rw [nbits_eq, nbits_eq]; omega), if_neg (by rw [nbits_eq, nbits_eq]; omega), if_neg (by rw [nbits_eq, nbits_eq]; omega), if_neg (by rw [nbits_eq, nbits_eq]; omega), if_neg (by rw [nbits_eq, nbits_eq]; omega), if_neg (by rw [nbits_eq, nbits_eq]; omega), if_neg (by rw [nbits_eq, nbits_eq]; omega), if_pos (by rw [nbits_eq, nbits_eq]; omega)]
  rw [fld_eq x0 (by omega)]
theorem Laws.RoundTrip.cfetch (x0 : BitVec 6) (x1 : BitVec 1) (x2 : BitVec 6) : Laws.RoundTrip.Statement (.cfetch x0 x1 x2) := by
  intro _ rest
  have hx0 := x0.isLt
  have hx1 := x1.isLt
  have hx2 := x2.isLt
  refine decode_one (2986344448 + x0.toNat * 16384 + x1.toNat * 64 + x2.toNat) 89 _ rest (by omega) (by omega) rfl ?_
  rw [decodeOp_59, if_pos (by rw [nbits_eq, nbits_eq]; omega)]
  rw [fld_eq x0 (by omega), fld_eq x1 (by omega), fld_eq x2 (by omega)]
theorem Laws.RoundTrip.collAred (x0 : BitVec 6) (x1 : BitVec 6) (x2 : BitVec 2) (x3 : BitVec 2) (x4 : BitVec 2) : Laws.RoundTrip.Statement (.collAred x0 x1 x2 x3 x4) := by
  intro _ rest
  have hx0 := x0.isLt
  have hx1 := x1.isLt
  have hx2 := x2.isLt
  have hx3 := x3.isLt
  have hx4 := x4.isLt
  refine decode_one (3019898880 + x0.toNat * 16384 + x1.toNat * 256 + x2.toNat * 16 + x3.toNat * 4 + x4.toNat) 90 _ rest (by omega) (by omega) rfl ?_
  rw [decodeOp_5A, if_pos (by rw [nbits_eq, nbits_eq]; omega)]
  rw [fld_eq x0 (by omega), fld_eq x1 (by omega), fld_eq x2 (by omega), fld_eq x3 (by omega), fld_eq x4 (by omega)]
theorem Laws.RoundTrip.collRed (x0 : BitVec 6) (x1 : BitVec 6) (x2 : BitVec 2) (x3 : BitVec 2) (x4 : BitVec 2) : Laws.RoundTrip.Statement (.collRed x0 x1 x2 x3 x4) := by
  intro _ rest
  have hx0 := x0.isLt
  have hx1 := x1.isLt
  have hx2 := x2.isLt
  have hx3 := x3.isLt
  have hx4 := x4.isLt
  refine decode_one (3020947456 + x0.toNat * 16384 + x1.toNat * 256 + x2.toNat * 16 + x3.toNat * 4 + x4.toNat) 90 _ rest (by omega) (by omega) rfl ?_
  rw [decodeOp_5A, if_neg (by rw [nbits_eq, nbits_eq]; omega), if_pos (by rw [nbits_eq, nbits_eq]; omega)]
  rw [fld_eq x0 (by omega), fld_eq x1 (by omega), fld_eq x2 (by omega), fld_eq x3 (by omega), fld_eq x4 (by omega)]
theorem Laws.RoundTrip.collBcst (x0 : BitVec 6) (x1 : BitVec 6) (x2 : BitVec 2) : Laws.RoundTrip.Statement (.collBcst x0 x1 x2) := by
  intro _ rest
  have hx0 := x0.isLt
  have hx1 := x1.isLt
  have hx2 := x2.isLt
  refine decode_one (3021996032 + x0.toNat * 16384 + x1.toNat * 256 + x2.toNat) 90 _ rest (by omega) (by omega) rfl ?_
  rw [decodeOp_5A, if_neg (by rw [nbits_eq, nbits_eq]; omega), if_neg (by rw [nbits_eq, nbits_eq]; omega), if_pos (by rw [nbits_eq, nbits_eq]; omega)]
  rw [fld_eq x0 (by omega), fld_eq x1 (by omega), fld_eq x2 (by omega)]
theorem Laws.RoundTrip.collAgth (x0 : BitVec 6) (x1 : BitVec 6) (x2 : BitVec 2) : Laws.RoundTrip.Statement (.collAgth x0 x1 x2) := by
  intro _ rest
  have hx0 := x0.isLt
  have hx1 := x1.isLt
  have hx2 := x2.isLt
  refine decode_one (3023044608 + x0.toNat * 16384 + x1.toNat * 256 + x2.toNat) 90 _ rest (by omega) (by omega) rfl ?_
  rw [decodeOp_5A, if_neg (by rw [nbits_eq, nbits_eq]; omega), if_neg (by rw [nbits_eq, nbits_eq]; omega), if_neg (by rw [nbits_eq, nbits_eq]; omega), if_pos (by rw [nbits_eq, nbits_eq]; omega)]
  rw [fld_eq x0 (by omega), fld_eq x1 (by omega), fld_eq x2 (by omega)]
theorem Laws.RoundTrip.collRsct (x0 : BitVec 6) (x1 : BitVec 6) (x2 : BitVec 2) (x3 : BitVec 2) (x4 : BitVec 2) : Laws.RoundTrip.Statement (.collRsct x0 x1 x2 x3 x4) := by
  intro _ rest
  have hx0 := x0.isLt
  have hx1 := x1.isLt
  have hx2 := x2.isLt
  have hx3 := x3.isLt
  have hx4 := x4.isLt
  refine decode_one (3024093184 + x0.toNat * 16384 + x1.toNat * 256 + x2.toNat * 16 + x3.toNat * 4 + x4.toNat) 90 _ rest (by omega) (by omega) rfl ?_
  rw [decodeOp_5A, if_neg (by rw [nbits_eq, nbits_eq]; omega), if_neg (by rw [nbits_eq, nbits_eq]; omega), if_neg (by rw [nbits_eq, nbits_eq]; omega), if_neg (by rw [nbits_eq, nbits_eq]; omega), if_pos (by rw [nbits_eq, nbits_eq]; omega)]
  rw [fld_eq x0 (by omega), fld_eq x1 (by omega), fld_eq x2 (by omega), fld_eq x3 (by omega), fld_eq x4 (by omega)]
theorem Laws.RoundTrip.collSend (x0 : BitVec 6) (x1 : BitVec 6) (x2 : BitVec 2) : Laws.RoundTrip.Statement (.collSend x0 x1 x2) := by
  intro _ rest
  have hx0 := x0.isLt
  have hx1 := x1.isLt
  have hx2 := x2.isLt
  refine decode_one (3025141760 + x0.toNat * 16384 + x1.toNat * 256 + x2.toNat) 90 _ rest (by omega) (by omega) rfl ?_
  rw [decodeOp_5A, if_neg (by rw [nbits_eq, nbits_eq]; omega), if_neg (by rw [nbits_eq, nbits_eq]; omega), if_neg (by rw [nbits_eq, nbits_eq]; omega), if_neg (by rw [nbits_eq, nbits_eq]; omega), if_neg (by rw [nbits_eq, nbits_eq]; omega), if_pos (by rw [nbits_eq, nbits_eq]; omega)]
  rw [fld_eq x0 (by omega), fld_eq x1 (by omega), fld_eq x2 (by omega)]
theorem Laws.RoundTrip.collRecv (x0 : BitVec 6) (x1 : BitVec 6) : Laws.RoundTrip.Statement (.collRecv x0 x1) := by
  intro _ rest
  have hx0 := x0.isLt
  have hx1 := x1.isLt
  refine decode_one (3026190336 + x0.toNat * 16384 + x1.toNat * 256) 90 _ rest (by omega) (by omega) rfl ?_
  rw [decodeOp_5A, if_neg (by rw [nbits_eq, nbits_eq]; omega), if_neg (by rw [nbits_eq, nbits_eq]; omega), if_neg (by rw [nbits_eq, nbits_eq]; omega), if_neg (by rw [nbits_eq, nbits_eq]; omega), if_neg (by rw [nbits_eq, nbits_eq]; omega), if_neg (by rw [nbits_eq, nbits_eq]; omega), if_pos (by rw [nbits_eq, nbits_eq]; omega)]
  rw [fld_eq x0 (by omega), fld_eq x1 (by omega)]
theorem Laws.RoundTrip.collRset (x0 : BitVec 6) (x1 : BitVec 6) : Laws.RoundTrip.Statement (.collRset x0 x1) := by
  intro _ rest
  have hx0 := x0.isLt
  have hx1 := x1.isLt
  refine decode_one (3027238912 + x0.toNat * 16384 + x1.toNat * 256) 90 _ rest (by omega) (by omega) rfl ?_
  rw [decodeOp_5A, if_neg (by rw [nbits_eq, nbits_eq]; omega), if_neg (by rw [nbits_eq, nbits_eq]; omega), if_neg (by rw [nbits_eq, nbits_eq]; omega), if_neg (by rw [nbits_eq, nbits_eq]; omega), if_neg (by rw [nbits_eq, nbits_eq]; omega), if_neg (by rw [nbits_eq, nbits_eq]; omega), if_neg (by rw [nbits_eq, nbits_eq]; omega), if_pos (by rw [nbits_eq, nbits_eq]; omega)]
  rw [fld_eq x0 (by omega), fld_eq x1 (by omega)]
theorem Laws.RoundTrip.cntDecl (x0 : BitVec 6) (x1 : BitVec 6) : Laws.RoundTrip.Statement (.cntDecl x0 x1) := by
  intro _ rest
  have hx0 := x0.isLt
  have hx1 := x1.isLt
  refine decode_one (3053453312 + x0.toNat * 16384 + x1.toNat * 256) 91 _ rest (by omega) (by omega) rfl ?_
  rw [decodeOp_5B, if_pos (by rw [nbits_eq, nbits_eq]; omega)]
  rw [fld_eq x0 (by omega), fld_eq x1 (by omega)]
theorem Laws.RoundTrip.cntTrig (x0 : BitVec 6) (x1 : BitVec 8) : Laws.RoundTrip.Statement (.cntTrig x0 x1) := by
  intro _ rest
  have hx0 := x0.isLt
  have hx1 := x1.isLt
  refine decode_one (3054501888 + x0.toNat * 16384 + x1.toNat) 91 _ rest (by omega) (by omega) rfl ?_
  rw [decodeOp_5B, if_neg (by rw [nbits_eq, nbits_eq]; omega), if_pos (by rw [nbits_eq, nbits_eq]; omega)]
  rw [fld_eq x0 (by omega), fld_eq x1 (by omega)]
theorem Laws.RoundTrip.dspInit (x0 : BitVec 6) (x1 : BitVec 6) : Laws.RoundTrip.Statement (.dspInit x0 x1) := by
  intro _ rest
  have hx0 := x0.isLt
  have hx1 := x1.isLt
  refine decode_one (3087007744 + x0.toNat * 16384 + x1.toNat * 256) 92 _ rest (by omega) (by omega) rfl ?_
  rw [decodeOp_5C, if_pos (by rw [nbits_eq, nbits_eq]; omega)]
  rw [fld_eq x0 (by omega), fld_eq x1 (by omega)]
theorem Laws.RoundTrip.dspNext (x0 : BitVec 6) (x1 : BitVec 6) : Laws.RoundTrip.Statement (.dspNext x0 x1) := by
  intro _ rest
  have hx0 := x0.isLt
  have hx1 := x1.isLt
  refine decode_one (3088056320 + x0.toNat * 16384 + x1.toNat * 256) 92 _ rest (by omega) (by omega) rfl ?_
  rw [decodeOp_5C, if_neg (by rw [nbits_eq, nbits_eq]; omega), if_pos (by rw [nbits_eq, nbits_eq]; omega)]
  rw [fld_eq x0 (by omega), fld_eq x1 (by omega)]
theorem Laws.RoundTrip.presentPost (x0 : BitVec 6) (x1 : BitVec 6) : Laws.RoundTrip.Statement (.presentPost x0 x1) := by
  intro _ rest
  have hx0 := x0.isLt
  have hx1 := x1.isLt
  refine decode_one (3120562176 + x0.toNat * 16384 + x1.toNat * 256) 93 _ rest (by omega) (by omega) rfl ?_
  rw [decodeOp_5D, if_pos (by rw [nbits_eq, nbits_eq]; omega)]
  rw [fld_eq x0 (by omega), fld_eq x1 (by omega)]
theorem Laws.RoundTrip.mres (x0 : BitVec 6) (x1 : BitVec 6) (x2 : BitVec 8) : Laws.RoundTrip.Statement (.mres x0 x1 x2) := by
  intro _ rest
  have hx0 := x0.isLt
  have hx1 := x1.isLt
  have hx2 := x2.isLt
  refine decode_one (3221225472 + x0.toNat * 16384 + x1.toNat * 256 + x2.toNat) 96 _ rest (by omega) (by omega) rfl ?_
  rw [decodeOp_60, if_pos (by rw [nbits_eq]; omega)]
  rw [fld_eq x0 (by omega), fld_eq x1 (by omega), fld_eq x2 (by omega)]
theorem Laws.RoundTrip.mresRel (x0 : BitVec 8) : Laws.RoundTrip.Statement (.mresRel x0) := by
  intro _ rest
  have hx0 := x0.isLt
  refine decode_one (3222274048 + x0.toNat) 96 _ rest (by omega) (by omega) rfl ?_
  rw [decodeOp_60, if_neg (by rw [nbits_eq]; omega), if_pos (by rw [nbits_eq]; omega)]
  rw [fld_eq x0 (by omega)]
theorem Laws.RoundTrip.mwld (x0 : BitVec 6) (x1 : BitVec 6) (x2 : BitVec 8) : Laws.RoundTrip.Statement (.mwld x0 x1 x2) := by
  intro _ rest
  have hx0 := x0.isLt
  have hx1 := x1.isLt
  have hx2 := x2.isLt
  refine decode_one (3254779904 + x0.toNat * 16384 + x1.toNat * 256 + x2.toNat) 97 _ rest (by omega) (by omega) rfl ?_
  rw [decodeOp_61, if_pos (by rw [nbits_eq]; omega)]
  rw [fld_eq x0 (by omega), fld_eq x1 (by omega), fld_eq x2 (by omega)]
theorem Laws.RoundTrip.mma (x0 : BitVec 3) (x1 : BitVec 6) (x2 : BitVec 6) (x3 : BitVec 1) : Laws.RoundTrip.Statement (.mma x0 x1 x2 x3) := by
  intro _ rest
  have hx0 := x0.isLt
  have hx1 := x1.isLt
  have hx2 := x2.isLt
  have hx3 := x3.isLt
  refine decode_one (3288334336 + x0.toNat * 1048576 + x1.toNat * 16384 + x2.toNat * 256 + x3.toNat) 98 _ rest (by omega) (by omega) rfl ?_
  rw [decodeOp_62, if_pos (by rw [nbits_eq, nbits_eq]; omega)]
  rw [fld_eq x0 (by omega), fld_eq x1 (by omega), fld_eq x2 (by omega), fld_eq x3 (by omega)]
theorem Laws.RoundTrip.mloop (x0 : BitVec 6) (x1 : BitVec 6) : Laws.RoundTrip.Statement (.mloop x0 x1) := by
  intro _ rest
  have hx0 := x0.isLt
  have hx1 := x1.isLt
  refine decode_one (3321888768 + x0.toNat * 16384 + x1.toNat * 256) 99 _ rest (by omega) (by omega) rfl ?_
  rw [decodeOp_63, if_pos (by rw [nbits_eq, nbits_eq]; omega)]
  rw [fld_eq x0 (by omega), fld_eq x1 (by omega)]
theorem Laws.RoundTrip.mbat (x0 : BitVec 6) : Laws.RoundTrip.Statement (.mbat x0) := by
  intro _ rest
  have hx0 := x0.isLt
  refine decode_one (3355443200 + x0.toNat * 16384) 100 _ rest (by omega) (by omega) rfl ?_
  rw [decodeOp_64, if_pos (by rw [nbits_eq, nbits_eq]; omega)]
  rw [fld_eq x0 (by omega)]
theorem Laws.RoundTrip.mdrn (x0 : BitVec 3) (x1 : BitVec 6) (x2 : BitVec 6) (x3 : BitVec 3) (x4 : BitVec 3) (x5 : BitVec 1) (x6 : BitVec 1) : Laws.RoundTrip.Statement (.mdrn x0 x1 x2 x3 x4 x5 x6) := by
  intro _ rest
  have hx0 := x0.isLt
  have hx1 := x1.isLt
  have hx2 := x2.isLt
  have hx3 := x3.isLt
  have hx4 := x4.isLt
  have hx5 := x5.isLt
  have hx6 := x6.isLt
  refine decode_one (3388997632 + x0.toNat * 1048576 + x1.toNat * 16384 + x2.toNat * 256 + x3.toNat * 32 + x4.toNat * 4 + x5.toNat * 2 + x6.toNat) 101 _ rest (by omega) (by omega) rfl ?_
  rw [decodeOp_65, if_pos (by rw [nbits_eq]; omega)]
  rw [fld_eq x0 (by omega), fld_eq x1 (by omega), fld_eq x2 (by omega), fld_eq x3 (by omega), fld_eq x4 (by omega), fld_eq x5 (by omega), fld_eq x6 (by omega)]
theorem Laws.RoundTrip.mdrnAdd (x0 : BitVec 3) (x1 : BitVec 6) (x2 : BitVec 6) (x3 : BitVec 3) (x4 : BitVec 3) (x5 : BitVec 1) (x6 : BitVec 1) : Laws.RoundTrip.Statement (.mdrnAdd x0 x1 x2 x3 x4 x5 x6) := by
  intro _ rest
  have hx0 := x0.isLt
  have hx1 := x1.isLt
  have hx2 := x2.isLt
  have hx3 := x3.isLt
  have hx4 := x4.isLt
  have hx5 := x5.isLt
  have hx6 := x6.isLt
  refine decode_one (3397386240 + x0.toNat * 1048576 + x1.toNat * 16384 + x2.toNat * 256 + x3.toNat * 32 + x4.toNat * 4 + x5.toNat * 2 + x6.toNat) 101 _ rest (by omega) (by omega) rfl ?_
  rw [decodeOp_65, if_neg (by rw [nbits_eq]; omega), if_pos (by rw [nbits_eq]; omega)]
  rw [fld_eq x0 (by omega), fld_eq x1 (by omega), fld_eq x2 (by omega), fld_eq x3 (by omega), fld_eq x4 (by omega), fld_eq x5 (by omega), fld_eq x6 (by omega)]
theorem Laws.RoundTrip.mzero (x0 : BitVec 3) : Laws.RoundTrip.Statement (.mzero x0) := by
  intro _ rest
  have hx0 := x0.isLt
  refine decode_one (3430940672 + x0.toNat * 1048576) 102 _ rest (by omega) (by omega) rfl ?_
  rw [decodeOp_66, if_neg (by rw [nbits_eq]; omega), if_neg (by rw [nbits_eq]; omega), if_pos (by rw [nbits_eq, nbits_eq]; omega)]
  rw [fld_eq x0 (by omega)]
theorem Laws.RoundTrip.mxq (x0 : BitVec 6) (x1 : BitVec 6) (x2 : BitVec 8) : Laws.RoundTrip.Statement (.mxq x0 x1 x2) := by
  intro _ rest
  have hx0 := x0.isLt
  have hx1 := x1.isLt
  have hx2 := x2.isLt
  refine decode_one (3456106496 + x0.toNat * 16384 + x1.toNat * 256 + x2.toNat) 103 _ rest (by omega) (by omega) rfl ?_
  rw [decodeOp_67, if_pos (by rw [nbits_eq]; omega)]
  rw [fld_eq x0 (by omega), fld_eq x1 (by omega), fld_eq x2 (by omega)]
theorem Laws.RoundTrip.hgCfg (x0 : BitVec 6) : Laws.RoundTrip.Statement (.hgCfg x0) := by
  intro _ rest
  have hx0 := x0.isLt
  refine decode_one (3489660928 + x0.toNat * 16384) 104 _ rest (by omega) (by omega) rfl ?_
  rw [decodeOp_68, if_pos (by rw [nbits_eq, nbits_eq]; omega)]
  rw [fld_eq x0 (by omega)]
theorem Laws.RoundTrip.hgEnc (x0 : BitVec 6) (x1 : BitVec 8) : Laws.RoundTrip.Statement (.hgEnc x0 x1) := by
  intro _ rest
  have hx0 := x0.isLt
  have hx1 := x1.isLt
  refine decode_one (3490709504 + x0.toNat * 16384 + x1.toNat) 104 _ rest (by omega) (by omega) rfl ?_
  rw [decodeOp_68, if_neg (by rw [nbits_eq, nbits_eq]; omega), if_pos (by rw [nbits_eq, nbits_eq]; omega)]
  rw [fld_eq x0 (by omega), fld_eq x1 (by omega)]
theorem Laws.RoundTrip.hgGrad (x0 : BitVec 6) (x1 : BitVec 8) : Laws.RoundTrip.Statement (.hgGrad x0 x1) := by
  intro _ rest
  have hx0 := x0.isLt
  have hx1 := x1.isLt
  refine decode_one (3491758080 + x0.toNat * 16384 + x1.toNat) 104 _ rest (by omega) (by omega) rfl ?_
  rw [decodeOp_68, if_neg (by rw [nbits_eq, nbits_eq]; omega), if_neg (by rw [nbits_eq, nbits_eq]; omega), if_pos (by rw [nbits_eq, nbits_eq]; omega)]
  rw [fld_eq x0 (by omega), fld_eq x1 (by omega)]
theorem Laws.RoundTrip.rayTrace (x0 : BitVec 6) (x1 : BitVec 6) (x2 : BitVec 8) : Laws.RoundTrip.Statement (.rayTrace x0 x1 x2) := by
  intro _ rest
  have hx0 := x0.isLt
  have hx1 := x1.isLt
  have hx2 := x2.isLt
  refine decode_one (3523215360 + x0.toNat * 16384 + x1.toNat * 256 + x2.toNat) 105 _ rest (by omega) (by omega) rfl ?_
  rw [decodeOp_69, if_pos (by rw [nbits_eq]; omega)]
  rw [fld_eq x0 (by omega), fld_eq x1 (by omega), fld_eq x2 (by omega)]
theorem Laws.RoundTrip.rayOccl (x0 : BitVec 6) (x1 : BitVec 6) (x2 : BitVec 8) : Laws.RoundTrip.Statement (.rayOccl x0 x1 x2) := by
  intro _ rest
  have hx0 := x0.isLt
  have hx1 := x1.isLt
  have hx2 := x2.isLt
  refine decode_one (3524263936 + x0.toNat * 16384 + x1.toNat * 256 + x2.toNat) 105 _ rest (by omega) (by omega) rfl ?_
  rw [decodeOp_69, if_neg (by rw [nbits_eq]; omega), if_pos (by rw [nbits_eq]; omega)]
  rw [fld_eq x0 (by omega), fld_eq x1 (by omega), fld_eq x2 (by omega)]
theorem Laws.RoundTrip.rayTri (x0 : BitVec 8) : Laws.RoundTrip.Statement (.rayTri x0) := by
  intro _ rest
  have hx0 := x0.isLt
  refine decode_one (3525312512 + x0.toNat) 105 _ rest (by omega) (by omega) rfl ?_
  rw [decodeOp_69, if_neg (by rw [nbits_eq]; omega), if_neg (by rw [nbits_eq]; omega), if_pos (by rw [nbits_eq]; omega)]
  rw [fld_eq x0 (by omega)]
theorem Laws.RoundTrip.rayBox (x0 : BitVec 8) : Laws.RoundTrip.Statement (.rayBox x0) := by
  intro _ rest
  have hx0 := x0.isLt
  refine decode_one (3526361088 + x0.toNat) 105 _ rest (by omega) (by omega) rfl ?_
  rw [decodeOp_69, if_neg (by rw [nbits_eq]; omega), if_neg (by rw [nbits_eq]; omega), if_neg (by rw [nbits_eq]; omega), if_pos (by rw [nbits_eq]; omega)]
  rw [fld_eq x0 (by omega)]
theorem Laws.RoundTrip.trInit (x0 : BitVec 6) (x1 : BitVec 6) : Laws.RoundTrip.Statement (.trInit x0 x1) := by
  intro _ rest
  have hx0 := x0.isLt
  have hx1 := x1.isLt
  refine decode_one (3623878656 + x0.toNat * 16384 + x1.toNat * 256) 108 _ rest (by omega) (by omega) rfl ?_
  rw [decodeOp_6C, if_pos (by rw [nbits_eq, nbits_eq]; omega)]
  rw [fld_eq x0 (by omega), fld_eq x1 (by omega)]
theorem Laws.RoundTrip.trDesc (x0 : BitVec 6) (x1 : BitVec 6) (x2 : BitVec 8) : Laws.RoundTrip.Statement (.trDesc x0 x1 x2) := by
  intro _ rest
  have hx0 := x0.isLt
  have hx1 := x1.isLt
  have hx2 := x2.isLt
  refine decode_one (3624927232 + x0.toNat * 16384 + x1.toNat * 256 + x2.toNat) 108 _ rest (by omega) (by omega) rfl ?_
  rw [decodeOp_6C, if_neg (by rw [nbits_eq, nbits_eq]; omega), if_pos (by rw [nbits_eq]; omega)]
  rw [fld_eq x0 (by omega), fld_eq x1 (by omega), fld_eq x2 (by omega)]
theorem Laws.RoundTrip.trExp (x0 : BitVec 6) (x1 : BitVec 6) (x2 : BitVec 8) : Laws.RoundTrip.Statement (.trExp x0 x1 x2) := by
  intro _ rest
  have hx0 := x0.isLt
  have hx1 := x1.isLt
  have hx2 := x2.isLt
  refine decode_one (3625975808 + x0.toNat * 16384 + x1.toNat * 256 + x2.toNat) 108 _ rest (by omega) (by omega) rfl ?_
  rw [decodeOp_6C, if_neg (by rw [nbits_eq, nbits_eq]; omega), if_neg (by rw [nbits_eq]; omega), if_pos (by rw [nbits_eq]; omega)]
  rw [fld_eq x0 (by omega), fld_eq x1 (by omega), fld_eq x2 (by omega)]
theorem Laws.RoundTrip.trBack (x0 : BitVec 6) (x1 : BitVec 6) : Laws.RoundTrip.Statement (.trBack x0 x1) := by
  intro _ rest
  have hx0 := x0.isLt
  have hx1 := x1.isLt
  refine decode_one (3627024384 + x0.toNat * 16384 + x1.toNat * 256) 108 _ rest (by omega) (by omega) rfl ?_
  rw [decodeOp_6C, if_neg (by rw [nbits_eq, nbits_eq]; omega), if_neg (by rw [nbits_eq]; omega), if_neg (by rw [nbits_eq]; omega), if_pos (by rw [nbits_eq, nbits_eq]; omega)]
  rw [fld_eq x0 (by omega), fld_eq x1 (by omega)]
theorem Laws.RoundTrip.trUndo (x0 : BitVec 6) (x1 : BitVec 6) : Laws.RoundTrip.Statement (.trUndo x0 x1) := by
  intro _ rest
  have hx0 := x0.isLt
  have hx1 := x1.isLt
  refine decode_one (3628072960 + x0.toNat * 16384 + x1.toNat * 256) 108 _ rest (by omega) (by omega) rfl ?_
  rw [decodeOp_6C, if_neg (by rw [nbits_eq, nbits_eq]; omega), if_neg (by rw [nbits_eq]; omega), if_neg (by rw [nbits_eq]; omega), if_neg (by rw [nbits_eq, nbits_eq]; omega), if_pos (by rw [nbits_eq, nbits_eq]; omega)]
  rw [fld_eq x0 (by omega), fld_eq x1 (by omega)]
theorem Laws.RoundTrip.trReuse (x0 : BitVec 6) (x1 : BitVec 6) : Laws.RoundTrip.Statement (.trReuse x0 x1) := by
  intro _ rest
  have hx0 := x0.isLt
  have hx1 := x1.isLt
  refine decode_one (3629121536 + x0.toNat * 16384 + x1.toNat * 256) 108 _ rest (by omega) (by omega) rfl ?_
  rw [decodeOp_6C, if_neg (by rw [nbits_eq, nbits_eq]; omega), if_neg (by rw [nbits_eq]; omega), if_neg (by rw [nbits_eq]; omega), if_neg (by rw [nbits_eq, nbits_eq]; omega), if_neg (by rw [nbits_eq, nbits_eq]; omega), if_pos (by rw [nbits_eq, nbits_eq]; omega)]
  rw [fld_eq x0 (by omega), fld_eq x1 (by omega)]
theorem Laws.RoundTrip.trFree (x0 : BitVec 6) (x1 : BitVec 6) : Laws.RoundTrip.Statement (.trFree x0 x1) := by
  intro _ rest
  have hx0 := x0.isLt
  have hx1 := x1.isLt
  refine decode_one (3630170112 + x0.toNat * 16384 + x1.toNat * 256) 108 _ rest (by omega) (by omega) rfl ?_
  rw [decodeOp_6C, if_neg (by rw [nbits_eq, nbits_eq]; omega), if_neg (by rw [nbits_eq]; omega), if_neg (by rw [nbits_eq]; omega), if_neg (by rw [nbits_eq, nbits_eq]; omega), if_neg (by rw [nbits_eq, nbits_eq]; omega), if_neg (by rw [nbits_eq, nbits_eq]; omega), if_pos (by rw [nbits_eq, nbits_eq]; omega)]
  rw [fld_eq x0 (by omega), fld_eq x1 (by omega)]
theorem Laws.RoundTrip.trStat (x0 : BitVec 6) (x1 : BitVec 6) : Laws.RoundTrip.Statement (.trStat x0 x1) := by
  intro _ rest
  have hx0 := x0.isLt
  have hx1 := x1.isLt
  refine decode_one (3631218688 + x0.toNat * 16384 + x1.toNat * 256) 108 _ rest (by omega) (by omega) rfl ?_
  rw [decodeOp_6C, if_neg (by rw [nbits_eq, nbits_eq]; omega), if_neg (by rw [nbits_eq]; omega), if_neg (by rw [nbits_eq]; omega), if_neg (by rw [nbits_eq, nbits_eq]; omega), if_neg (by rw [nbits_eq, nbits_eq]; omega), if_neg (by rw [nbits_eq, nbits_eq]; omega), if_neg (by rw [nbits_eq, nbits_eq]; omega), if_pos (by rw [nbits_eq, nbits_eq]; omega)]
  rw [fld_eq x0 (by omega), fld_eq x1 (by omega)]
theorem Laws.RoundTrip.taskSubmit (x0 : BitVec 6) (x1 : BitVec 6) (x2 : BitVec 8) : Laws.RoundTrip.Statement (.taskSubmit x0 x1 x2) := by
  intro _ rest
  have hx0 := x0.isLt
  have hx1 := x1.isLt
  have hx2 := x2.isLt
  refine decode_one (3758096384 + x0.toNat * 16384 + x1.toNat * 256 + x2.toNat) 112 _ rest (by omega) (by omega) rfl ?_
  rw [decodeOp_70, if_pos (by rw [nbits_eq]; omega)]
  rw [fld_eq x0 (by omega), fld_eq x1 (by omega), fld_eq x2 (by omega)]
theorem Laws.RoundTrip.taskDone (x0 : BitVec 6) : Laws.RoundTrip.Statement (.taskDone x0) := by
  intro _ rest
  have hx0 := x0.isLt
  refine decode_one (3759144960 + x0.toNat * 16384) 112 _ rest (by omega) (by omega) rfl ?_
  rw [decodeOp_70, if_neg (by rw [nbits_eq]; omega), if_pos (by rw [nbits_eq, nbits_eq]; omega)]
  rw [fld_eq x0 (by omega)]
theorem Laws.RoundTrip.taskDoneWait (x0 : BitVec 6) : Laws.RoundTrip.Statement (.taskDoneWait x0) := by
  intro _ rest
  have hx0 := x0.isLt
  refine decode_one (3759144961 + x0.toNat * 16384) 112 _ rest (by omega) (by omega) rfl ?_
  rw [decodeOp_70, if_neg (by rw [nbits_eq]; omega), if_neg (by rw [nbits_eq, nbits_eq]; omega), if_pos (by rw [nbits_eq, nbits_eq]; omega)]
  rw [fld_eq x0 (by omega)]
theorem Laws.RoundTrip.lvlLaunch (x0 : BitVec 6) (x1 : BitVec 6) : Laws.RoundTrip.Statement (.lvlLaunch x0 x1) := by
  intro _ rest
  have hx0 := x0.isLt
  have hx1 := x1.isLt
  refine decode_one (3791650816 + x0.toNat * 16384 + x1.toNat * 256) 113 _ rest (by omega) (by omega) rfl ?_
  rw [decodeOp_71, if_pos (by rw [nbits_eq, nbits_eq]; omega)]
  rw [fld_eq x0 (by omega), fld_eq x1 (by omega)]
theorem Laws.RoundTrip.lvlCancel (x0 : BitVec 6) (x1 : BitVec 6) : Laws.RoundTrip.Statement (.lvlCancel x0 x1) := by
  intro _ rest
  have hx0 := x0.isLt
  have hx1 := x1.isLt
  refine decode_one (3792699392 + x0.toNat * 16384 + x1.toNat * 256) 113 _ rest (by omega) (by omega) rfl ?_
  rw [decodeOp_71, if_neg (by rw [nbits_eq, nbits_eq]; omega), if_pos (by rw [nbits_eq, nbits_eq]; omega)]
  rw [fld_eq x0 (by omega), fld_eq x1 (by omega)]
theorem Laws.RoundTrip.lvlCtr (x0 : BitVec 6) (x1 : BitVec 6) : Laws.RoundTrip.Statement (.lvlCtr x0 x1) := by
  intro _ rest
  have hx0 := x0.isLt
  have hx1 := x1.isLt
  refine decode_one (3793747968 + x0.toNat * 16384 + x1.toNat * 256) 113 _ rest (by omega) (by omega) rfl ?_
  rw [decodeOp_71, if_neg (by rw [nbits_eq, nbits_eq]; omega), if_neg (by rw [nbits_eq, nbits_eq]; omega), if_pos (by rw [nbits_eq, nbits_eq]; omega)]
  rw [fld_eq x0 (by omega), fld_eq x1 (by omega)]
theorem Laws.RoundTrip.lvlOpen (x0 : BitVec 6) (x1 : BitVec 6) (x2 : BitVec 8) : Laws.RoundTrip.Statement (.lvlOpen x0 x1 x2) := by
  intro _ rest
  have hx0 := x0.isLt
  have hx1 := x1.isLt
  have hx2 := x2.isLt
  refine decode_one (3794796544 + x0.toNat * 16384 + x1.toNat * 256 + x2.toNat) 113 _ rest (by omega) (by omega) rfl ?_
  rw [decodeOp_71, if_neg (by rw [nbits_eq, nbits_eq]; omega), if_neg (by rw [nbits_eq, nbits_eq]; omega), if_neg (by rw [nbits_eq, nbits_eq]; omega), if_pos (by rw [nbits_eq]; omega)]
  rw [fld_eq x0 (by omega), fld_eq x1 (by omega), fld_eq x2 (by omega)]
theorem Laws.RoundTrip.lvlClose (x0 : BitVec 6) (x1 : BitVec 6) : Laws.RoundTrip.Statement (.lvlClose x0 x1) := by
  intro _ rest
  have hx0 := x0.isLt
  have hx1 := x1.isLt
  refine decode_one (3795845120 + x0.toNat * 16384 + x1.toNat * 256) 113 _ rest (by omega) (by omega) rfl ?_
  rw [decodeOp_71, if_neg (by rw [nbits_eq, nbits_eq]; omega), if_neg (by rw [nbits_eq, nbits_eq]; omega), if_neg (by rw [nbits_eq, nbits_eq]; omega), if_neg (by rw [nbits_eq]; omega), if_pos (by rw [nbits_eq, nbits_eq]; omega)]
  rw [fld_eq x0 (by omega), fld_eq x1 (by omega)]
theorem Laws.RoundTrip.lvlBudget (x0 : BitVec 6) (x1 : BitVec 6) : Laws.RoundTrip.Statement (.lvlBudget x0 x1) := by
  intro _ rest
  have hx0 := x0.isLt
  have hx1 := x1.isLt
  refine decode_one (3796893696 + x0.toNat * 16384 + x1.toNat * 256) 113 _ rest (by omega) (by omega) rfl ?_
  rw [decodeOp_71, if_neg (by rw [nbits_eq, nbits_eq]; omega), if_neg (by rw [nbits_eq, nbits_eq]; omega), if_neg (by rw [nbits_eq, nbits_eq]; omega), if_neg (by rw [nbits_eq]; omega), if_neg (by rw [nbits_eq, nbits_eq]; omega), if_pos (by rw [nbits_eq, nbits_eq]; omega)]
  rw [fld_eq x0 (by omega), fld_eq x1 (by omega)]
theorem Laws.RoundTrip.schedSleep (x0 : BitVec 6) : Laws.RoundTrip.Statement (.schedSleep x0) := by
  intro _ rest
  have hx0 := x0.isLt
  refine decode_one (3826253824 + x0.toNat * 16384) 114 _ rest (by omega) (by omega) rfl ?_
  rw [decodeOp_72, if_neg (by rw [nbits_eq]; omega), if_pos (by rw [nbits_eq, nbits_eq]; omega)]
  rw [fld_eq x0 (by omega)]
theorem Laws.RoundTrip.xregAcq (x0 : BitVec 4) : Laws.RoundTrip.Statement (.xregAcq x0) := by
  intro _ rest
  have hx0 := x0.isLt
  refine decode_one (3892314112 + x0.toNat) 116 _ rest (by omega) (by omega) rfl ?_
  rw [decodeOp_74, if_pos (by rw [nbits_eq]; omega)]
  rw [fld_eq x0 (by omega)]
theorem Laws.RoundTrip.xregRel (x0 : BitVec 4) : Laws.RoundTrip.Statement (.xregRel x0) := by
  intro _ rest
  have hx0 := x0.isLt
  refine decode_one (3893362688 + x0.toNat) 116 _ rest (by omega) (by omega) rfl ?_
  rw [decodeOp_74, if_neg (by rw [nbits_eq]; omega), if_pos (by rw [nbits_eq]; omega)]
  rw [fld_eq x0 (by omega)]
theorem Laws.RoundTrip.sysTrap (x0 : BitVec 8) : Laws.RoundTrip.Statement (.sysTrap x0) := by
  intro _ rest
  have hx0 := x0.isLt
  refine decode_one (4026531840 + x0.toNat) 120 _ rest (by omega) (by omega) rfl ?_
  rw [decodeOp_78, if_pos (by rw [nbits_eq]; omega)]
  rw [fld_eq x0 (by omega)]
theorem Laws.RoundTrip.sysSvc (x0 : BitVec 8) : Laws.RoundTrip.Statement (.sysSvc x0) := by
  intro _ rest
  have hx0 := x0.isLt
  refine decode_one (4028628992 + x0.toNat) 120 _ rest (by omega) (by omega) rfl ?_
  rw [decodeOp_78, if_neg (by rw [nbits_eq]; omega), if_neg (by rw [nbits_eq]; omega), if_pos (by rw [nbits_eq]; omega)]
  rw [fld_eq x0 (by omega)]
theorem Laws.RoundTrip.sysBkpt (x0 : BitVec 8) : Laws.RoundTrip.Statement (.sysBkpt x0) := by
  intro _ rest
  have hx0 := x0.isLt
  refine decode_one (4030726144 + x0.toNat) 120 _ rest (by omega) (by omega) rfl ?_
  rw [decodeOp_78, if_neg (by rw [nbits_eq]; omega), if_neg (by rw [nbits_eq]; omega), if_neg (by rw [nbits_eq]; omega), if_neg (by rw [nbits_eq]; omega), if_pos (by rw [nbits_eq]; omega)]
  rw [fld_eq x0 (by omega)]
theorem Laws.RoundTrip.sysSegw (x0 : BitVec 6) (x1 : BitVec 8) : Laws.RoundTrip.Statement (.sysSegw x0 x1) := by
  intro _ rest
  have hx0 := x0.isLt
  have hx1 := x1.isLt
  refine decode_one (4031774720 + x0.toNat * 16384 + x1.toNat) 120 _ rest (by omega) (by omega) rfl ?_
  rw [decodeOp_78, if_neg (by rw [nbits_eq]; omega), if_neg (by rw [nbits_eq]; omega), if_neg (by rw [nbits_eq]; omega), if_neg (by rw [nbits_eq]; omega), if_neg (by rw [nbits_eq]; omega), if_pos (by rw [nbits_eq, nbits_eq]; omega)]
  rw [fld_eq x0 (by omega), fld_eq x1 (by omega)]
theorem Laws.RoundTrip.sysCsrr (x0 : BitVec 6) (x1 : BitVec 8) : Laws.RoundTrip.Statement (.sysCsrr x0 x1) := by
  intro _ rest
  have hx0 := x0.isLt
  have hx1 := x1.isLt
  refine decode_one (4032823296 + x0.toNat * 16384 + x1.toNat) 120 _ rest (by omega) (by omega) rfl ?_
  rw [decodeOp_78, if_neg (by rw [nbits_eq]; omega), if_neg (by rw [nbits_eq]; omega), if_neg (by rw [nbits_eq]; omega), if_neg (by rw [nbits_eq]; omega), if_neg (by rw [nbits_eq]; omega), if_neg (by rw [nbits_eq, nbits_eq]; omega), if_pos (by rw [nbits_eq, nbits_eq]; omega)]
  rw [fld_eq x0 (by omega), fld_eq x1 (by omega)]
theorem Laws.RoundTrip.sysCsrw (x0 : BitVec 6) (x1 : BitVec 8) : Laws.RoundTrip.Statement (.sysCsrw x0 x1) := by
  intro _ rest
  have hx0 := x0.isLt
  have hx1 := x1.isLt
  refine decode_one (4033871872 + x0.toNat * 16384 + x1.toNat) 120 _ rest (by omega) (by omega) rfl ?_
  rw [decodeOp_78, if_neg (by rw [nbits_eq]; omega), if_neg (by rw [nbits_eq]; omega), if_neg (by rw [nbits_eq]; omega), if_neg (by rw [nbits_eq]; omega), if_neg (by rw [nbits_eq]; omega), if_neg (by rw [nbits_eq, nbits_eq]; omega), if_neg (by rw [nbits_eq, nbits_eq]; omega), if_pos (by rw [nbits_eq, nbits_eq]; omega)]
  rw [fld_eq x0 (by omega), fld_eq x1 (by omega)]
theorem Laws.RoundTrip.sysCkpt (x0 : BitVec 6) (x1 : BitVec 6) : Laws.RoundTrip.Statement (.sysCkpt x0 x1) := by
  intro _ rest
  have hx0 := x0.isLt
  have hx1 := x1.isLt
  refine decode_one (4034920448 + x0.toNat * 16384 + x1.toNat * 256) 120 _ rest (by omega) (by omega) rfl ?_
  rw [decodeOp_78, if_neg (by rw [nbits_eq]; omega), if_neg (by rw [nbits_eq]; omega), if_neg (by rw [nbits_eq]; omega), if_neg (by rw [nbits_eq]; omega), if_neg (by rw [nbits_eq]; omega), if_neg (by rw [nbits_eq, nbits_eq]; omega), if_neg (by rw [nbits_eq, nbits_eq]; omega), if_neg (by rw [nbits_eq, nbits_eq]; omega), if_pos (by rw [nbits_eq, nbits_eq]; omega)]
  rw [fld_eq x0 (by omega), fld_eq x1 (by omega)]
theorem Laws.RoundTrip.ptInv (x0 : BitVec 6) (x1 : BitVec 6) : Laws.RoundTrip.Statement (.ptInv x0 x1) := by
  intro _ rest
  have hx0 := x0.isLt
  have hx1 := x1.isLt
  refine decode_one (4061134848 + x0.toNat * 16384 + x1.toNat * 256) 121 _ rest (by omega) (by omega) rfl ?_
  rw [decodeOp_79, if_neg (by rw [nbits_eq]; omega), if_pos (by rw [nbits_eq, nbits_eq]; omega)]
  rw [fld_eq x0 (by omega), fld_eq x1 (by omega)]
theorem Laws.RoundTrip.ptMigb (x0 : BitVec 6) (x1 : BitVec 6) (x2 : BitVec 8) : Laws.RoundTrip.Statement (.ptMigb x0 x1 x2) := by
  intro _ rest
  have hx0 := x0.isLt
  have hx1 := x1.isLt
  have hx2 := x2.isLt
  refine decode_one (4063232000 + x0.toNat * 16384 + x1.toNat * 256 + x2.toNat) 121 _ rest (by omega) (by omega) rfl ?_
  rw [decodeOp_79, if_neg (by rw [nbits_eq]; omega), if_neg (by rw [nbits_eq, nbits_eq]; omega), if_neg (by rw [nbits_eq]; omega), if_pos (by rw [nbits_eq]; omega)]
  rw [fld_eq x0 (by omega), fld_eq x1 (by omega), fld_eq x2 (by omega)]
theorem Laws.RoundTrip.ptMigf (x0 : BitVec 6) (x1 : BitVec 8) : Laws.RoundTrip.Statement (.ptMigf x0 x1) := by
  intro _ rest
  have hx0 := x0.isLt
  have hx1 := x1.isLt
  refine decode_one (4064280576 + x0.toNat * 16384 + x1.toNat) 121 _ rest (by omega) (by omega) rfl ?_
  rw [decodeOp_79, if_neg (by rw [nbits_eq]; omega), if_neg (by rw [nbits_eq, nbits_eq]; omega), if_neg (by rw [nbits_eq]; omega), if_neg (by rw [nbits_eq]; omega), if_pos (by rw [nbits_eq, nbits_eq]; omega)]
  rw [fld_eq x0 (by omega), fld_eq x1 (by omega)]
theorem Laws.RoundTrip.ptMigd (x0 : BitVec 6) (x1 : BitVec 8) : Laws.RoundTrip.Statement (.ptMigd x0 x1) := by
  intro _ rest
  have hx0 := x0.isLt
  have hx1 := x1.isLt
  refine decode_one (4065329152 + x0.toNat * 16384 + x1.toNat) 121 _ rest (by omega) (by omega) rfl ?_
  rw [decodeOp_79, if_neg (by rw [nbits_eq]; omega), if_neg (by rw [nbits_eq, nbits_eq]; omega), if_neg (by rw [nbits_eq]; omega), if_neg (by rw [nbits_eq]; omega), if_neg (by rw [nbits_eq, nbits_eq]; omega), if_pos (by rw [nbits_eq, nbits_eq]; omega)]
  rw [fld_eq x0 (by omega), fld_eq x1 (by omega)]
theorem Laws.RoundTrip.ptHotl (x0 : BitVec 6) (x1 : BitVec 6) : Laws.RoundTrip.Statement (.ptHotl x0 x1) := by
  intro _ rest
  have hx0 := x0.isLt
  have hx1 := x1.isLt
  refine decode_one (4066377728 + x0.toNat * 16384 + x1.toNat * 256) 121 _ rest (by omega) (by omega) rfl ?_
  rw [decodeOp_79, if_neg (by rw [nbits_eq]; omega), if_neg (by rw [nbits_eq, nbits_eq]; omega), if_neg (by rw [nbits_eq]; omega), if_neg (by rw [nbits_eq]; omega), if_neg (by rw [nbits_eq, nbits_eq]; omega), if_neg (by rw [nbits_eq, nbits_eq]; omega), if_pos (by rw [nbits_eq, nbits_eq]; omega)]
  rw [fld_eq x0 (by omega), fld_eq x1 (by omega)]
theorem Laws.RoundTrip.nop : Laws.RoundTrip.Statement .nop := fun _ _ => rfl
theorem Laws.RoundTrip.ret : Laws.RoundTrip.Statement .ret := fun _ _ => rfl
theorem Laws.RoundTrip.exit : Laws.RoundTrip.Statement .exit := fun _ _ => rfl
theorem Laws.RoundTrip.drain : Laws.RoundTrip.Statement .drain := fun _ _ => rfl
theorem Laws.RoundTrip.mtake : Laws.RoundTrip.Statement .mtake := fun _ _ => rfl
theorem Laws.RoundTrip.mgive : Laws.RoundTrip.Statement .mgive := fun _ _ => rfl
theorem Laws.RoundTrip.schedYield : Laws.RoundTrip.Statement .schedYield := fun _ _ => rfl
theorem Laws.RoundTrip.sysEret : Laws.RoundTrip.Statement .sysEret := fun _ _ => rfl
theorem Laws.RoundTrip.sysHalt : Laws.RoundTrip.Statement .sysHalt := fun _ _ => rfl
theorem Laws.RoundTrip.ptFence : Laws.RoundTrip.Statement .ptFence := fun _ _ => rfl
theorem Laws.RoundTrip.ptApply : Laws.RoundTrip.Statement .ptApply := fun _ _ => rfl
theorem Laws.RoundTrip.clauseFetch : Laws.RoundTrip.Statement .clauseFetch := fun h => absurd rfl h
theorem Laws.RoundTrip.backgroundForcedIssue : Laws.RoundTrip.Statement .backgroundForcedIssue := fun h => absurd rfl h
theorem Laws.RoundTrip.pathDemote : Laws.RoundTrip.Statement .pathDemote := fun h => absurd rfl h
theorem Laws.RoundTrip.registerWriteComplete : Laws.RoundTrip.Statement .registerWriteComplete := fun h => absurd rfl h
theorem Laws.RoundTrip.memoryAccessPerform : Laws.RoundTrip.Statement .memoryAccessPerform := fun h => absurd rfl h
theorem Laws.RoundTrip.writeVisibleAtDie : Laws.RoundTrip.Statement .writeVisibleAtDie := fun h => absurd rfl h
theorem Laws.RoundTrip.hbmScrub : Laws.RoundTrip.Statement .hbmScrub := fun h => absurd rfl h
theorem Laws.RoundTrip.copyRun : Laws.RoundTrip.Statement .copyRun := fun h => absurd rfl h
theorem Laws.RoundTrip.cpyctlResume : Laws.RoundTrip.Statement .cpyctlResume := fun h => absurd rfl h
theorem Laws.RoundTrip.cpyctlAbort : Laws.RoundTrip.Statement .cpyctlAbort := fun h => absurd rfl h
theorem Laws.RoundTrip.codeSegmentLoaded : Laws.RoundTrip.Statement .codeSegmentLoaded := fun h => absurd rfl h
theorem Laws.RoundTrip.collectiveComplete : Laws.RoundTrip.Statement .collectiveComplete := fun h => absurd rfl h
theorem Laws.RoundTrip.collRsetEffect : Laws.RoundTrip.Statement .collRsetEffect := fun h => absurd rfl h
theorem Laws.RoundTrip.addOnStoreUpdate : Laws.RoundTrip.Statement .addOnStoreUpdate := fun h => absurd rfl h
theorem Laws.RoundTrip.matrixCommandEffect : Laws.RoundTrip.Statement .matrixCommandEffect := fun h => absurd rfl h
theorem Laws.RoundTrip.mmaKStep : Laws.RoundTrip.Statement .mmaKStep := fun h => absurd rfl h
theorem Laws.RoundTrip.matrixBatchComplete : Laws.RoundTrip.Statement .matrixBatchComplete := fun h => absurd rfl h
theorem Laws.RoundTrip.hgEncComplete : Laws.RoundTrip.Statement .hgEncComplete := fun h => absurd rfl h
theorem Laws.RoundTrip.hgGradAdd : Laws.RoundTrip.Statement .hgGradAdd := fun h => absurd rfl h
theorem Laws.RoundTrip.rayComplete : Laws.RoundTrip.Statement .rayComplete := fun h => absurd rfl h
theorem Laws.RoundTrip.treeOperationComplete : Laws.RoundTrip.Statement .treeOperationComplete := fun h => absurd rfl h
theorem Laws.RoundTrip.nodeTimerExpiry : Laws.RoundTrip.Statement .nodeTimerExpiry := fun h => absurd rfl h
theorem Laws.RoundTrip.budgetExpiry : Laws.RoundTrip.Statement .budgetExpiry := fun h => absurd rfl h
theorem Laws.RoundTrip.levelEnd : Laws.RoundTrip.Statement .levelEnd := fun h => absurd rfl h
theorem Laws.RoundTrip.unitPreload : Laws.RoundTrip.Statement .unitPreload := fun h => absurd rfl h
theorem Laws.RoundTrip.unitStart : Laws.RoundTrip.Statement .unitStart := fun h => absurd rfl h
theorem Laws.RoundTrip.yieldTimeout : Laws.RoundTrip.Statement .yieldTimeout := fun h => absurd rfl h
theorem Laws.RoundTrip.sleepEnd : Laws.RoundTrip.Statement .sleepEnd := fun h => absurd rfl h
theorem Laws.RoundTrip.xpoolTakeEffect : Laws.RoundTrip.Statement .xpoolTakeEffect := fun h => absurd rfl h
theorem Laws.RoundTrip.preemptRequest : Laws.RoundTrip.Statement .preemptRequest := fun h => absurd rfl h
theorem Laws.RoundTrip.restoreRequest : Laws.RoundTrip.Statement .restoreRequest := fun h => absurd rfl h
theorem Laws.RoundTrip.preempt : Laws.RoundTrip.Statement .preempt := fun h => absurd rfl h
theorem Laws.RoundTrip.unitRestore : Laws.RoundTrip.Statement .unitRestore := fun h => absurd rfl h
theorem Laws.RoundTrip.cancel : Laws.RoundTrip.Statement .cancel := fun h => absurd rfl h
theorem Laws.RoundTrip.pageWalk : Laws.RoundTrip.Statement .pageWalk := fun h => absurd rfl h
theorem Laws.RoundTrip.logApply : Laws.RoundTrip.Statement .logApply := fun h => absurd rfl h
theorem Laws.RoundTrip.copierLineCopy : Laws.RoundTrip.Statement .copierLineCopy := fun h => absurd rfl h
theorem Laws.RoundTrip.migrationRecordFree : Laws.RoundTrip.Statement .migrationRecordFree := fun h => absurd rfl h
theorem Laws.RoundTrip.gustListPublish : Laws.RoundTrip.Statement .gustListPublish := fun h => absurd rfl h
theorem Laws.RoundTrip.contextSwitch : Laws.RoundTrip.Statement .contextSwitch := fun h => absurd rfl h
theorem Laws.RoundTrip.checkpointStart : Laws.RoundTrip.Statement .checkpointStart := fun h => absurd rfl h
theorem Laws.RoundTrip.checkpointComplete : Laws.RoundTrip.Statement .checkpointComplete := fun h => absurd rfl h
theorem Laws.RoundTrip.powerOn : Laws.RoundTrip.Statement .powerOn := fun h => absurd rfl h
theorem Laws.RoundTrip.packageReset : Laws.RoundTrip.Statement .packageReset := fun h => absurd rfl h
theorem Laws.RoundTrip.clockLower : Laws.RoundTrip.Statement .clockLower := fun h => absurd rfl h
theorem Laws.RoundTrip.clockRaise : Laws.RoundTrip.Statement .clockRaise := fun h => absurd rfl h
theorem Laws.RoundTrip.getVersion : Laws.RoundTrip.Statement .getVersion := fun h => absurd rfl h
theorem Laws.RoundTrip.getCapabilities : Laws.RoundTrip.Statement .getCapabilities := fun h => absurd rfl h
theorem Laws.RoundTrip.negotiateAlgorithms : Laws.RoundTrip.Statement .negotiateAlgorithms := fun h => absurd rfl h
theorem Laws.RoundTrip.getDigests : Laws.RoundTrip.Statement .getDigests := fun h => absurd rfl h
theorem Laws.RoundTrip.getCertificate : Laws.RoundTrip.Statement .getCertificate := fun h => absurd rfl h
theorem Laws.RoundTrip.challenge : Laws.RoundTrip.Statement .challenge := fun h => absurd rfl h
theorem Laws.RoundTrip.getMeasurements : Laws.RoundTrip.Statement .getMeasurements := fun h => absurd rfl h
theorem Laws.RoundTrip.keyExchange : Laws.RoundTrip.Statement .keyExchange := fun h => absurd rfl h
theorem Laws.RoundTrip.finish : Laws.RoundTrip.Statement .finish := fun h => absurd rfl h
theorem Laws.RoundTrip.keyUpdate : Laws.RoundTrip.Statement .keyUpdate := fun h => absurd rfl h
theorem Laws.RoundTrip.heartbeat : Laws.RoundTrip.Statement .heartbeat := fun h => absurd rfl h
theorem Laws.RoundTrip.endSession : Laws.RoundTrip.Statement .endSession := fun h => absurd rfl h
theorem Laws.RoundTrip.featureAccept : Laws.RoundTrip.Statement .featureAccept := fun h => absurd rfl h
theorem Laws.RoundTrip.ctxCreate : Laws.RoundTrip.Statement .ctxCreate := fun h => absurd rfl h
theorem Laws.RoundTrip.ctxDestroy : Laws.RoundTrip.Statement .ctxDestroy := fun h => absurd rfl h
theorem Laws.RoundTrip.launch : Laws.RoundTrip.Statement .launch := fun h => absurd rfl h
theorem Laws.RoundTrip.gobjCreate : Laws.RoundTrip.Statement .gobjCreate := fun h => absurd rfl h
theorem Laws.RoundTrip.gobjDestroy : Laws.RoundTrip.Statement .gobjDestroy := fun h => absurd rfl h
theorem Laws.RoundTrip.gobjRebind : Laws.RoundTrip.Statement .gobjRebind := fun h => absurd rfl h
theorem Laws.RoundTrip.keyInstall : Laws.RoundTrip.Statement .keyInstall := fun h => absurd rfl h
theorem Laws.RoundTrip.keyErase : Laws.RoundTrip.Statement .keyErase := fun h => absurd rfl h
theorem Laws.RoundTrip.mrReg : Laws.RoundTrip.Statement .mrReg := fun h => absurd rfl h
theorem Laws.RoundTrip.mrDereg : Laws.RoundTrip.Statement .mrDereg := fun h => absurd rfl h
theorem Laws.RoundTrip.exportSet : Laws.RoundTrip.Statement .exportSet := fun h => absurd rfl h
theorem Laws.RoundTrip.ckptTier : Laws.RoundTrip.Statement .ckptTier := fun h => absurd rfl h
theorem Laws.RoundTrip.restore : Laws.RoundTrip.Statement .restore := fun h => absurd rfl h
theorem Laws.RoundTrip.ctxContinue : Laws.RoundTrip.Statement .ctxContinue := fun h => absurd rfl h
theorem Laws.RoundTrip.outputConfigure : Laws.RoundTrip.Statement .outputConfigure := fun h => absurd rfl h
theorem Laws.RoundTrip.roceRequestPacket : Laws.RoundTrip.Statement .roceRequestPacket := fun h => absurd rfl h
theorem Laws.RoundTrip.peerRequest : Laws.RoundTrip.Statement .peerRequest := fun h => absurd rfl h
theorem Laws.RoundTrip.ptpMessage : Laws.RoundTrip.Statement .ptpMessage := fun h => absurd rfl h
theorem Laws.RoundTrip.flitIdle : Laws.RoundTrip.Statement .flitIdle := fun h => absurd rfl h
theorem Laws.RoundTrip.flitData : Laws.RoundTrip.Statement .flitData := fun h => absurd rfl h
theorem Laws.RoundTrip.flitAck : Laws.RoundTrip.Statement .flitAck := fun h => absurd rfl h
theorem Laws.RoundTrip.flitSync : Laws.RoundTrip.Statement .flitSync := fun h => absurd rfl h
theorem Laws.RoundTrip.flitMarker : Laws.RoundTrip.Statement .flitMarker := fun h => absurd rfl h
theorem Laws.RoundTrip.linkDown : Laws.RoundTrip.Statement .linkDown := fun h => absurd rfl h
theorem Laws.RoundTrip.linkReopen : Laws.RoundTrip.Statement .linkReopen := fun h => absurd rfl h
theorem Laws.RoundTrip.syncFlitSend : Laws.RoundTrip.Statement .syncFlitSend := fun h => absurd rfl h
theorem Laws.RoundTrip.lockLoss : Laws.RoundTrip.Statement .lockLoss := fun h => absurd rfl h
theorem Laws.RoundTrip.memberLost : Laws.RoundTrip.Statement .memberLost := fun h => absurd rfl h
theorem Laws.RoundTrip.frameDeadline : Laws.RoundTrip.Statement .frameDeadline := fun h => absurd rfl h
theorem Laws.RoundTrip.scrubbing : Laws.RoundTrip.Statement .scrubbing := fun h => absurd rfl h
theorem Laws.RoundTrip.flitOtherType : Laws.RoundTrip.Statement .flitOtherType := fun h => absurd rfl h

end Sys2Proof
end

