-- ==== Sys2Proof/Tests/Slice0.lean ====
section
/-!
SUPPORT. The model's own tests: decoding of words written out from the spec, ill-formed terms, one step of an instruction
here and there, and for every statement with hypotheses a state and operands that meet them.
-/
namespace Sys2Proof.Tests
open Sys2Proof Sys2Proof.Machine

-- One test after the other: each of the many threads that would check them at once takes a stack of its own.
set_option Elab.async false

/-! ## States -/

/-- A group of core 0 in a clause. -/
def base : State := State.reset.withFetchWord 32 0x02000000

def theClause (s : State) : Clause := s.grp.clause.getD { base := 0, hdr := 0, words := [], slices := 0 }

def readyNow (s : State) (srcs dsts : List Span) : Bool :=
  s.grp.clause.isSome && decide ((theClause s).threads s.grp ≠ 0) && !s.grp.busy (srcs ++ dsts) && !s.grp.tainted srcs &&
    !(s.grp.soft.any fun p => srcs.any fun x => spanHas x p)

theorem ready_of {s : State} {srcs dsts : List Span} (h : readyNow s srcs dsts = true) :
    s.ready (theClause s) srcs dsts := by
  simp only [readyNow, Bool.and_eq_true, decide_eq_true_eq, Bool.not_eq_true'] at h
  obtain ⟨⟨⟨⟨h1, h2⟩, h3⟩, h4⟩, h5⟩ := h
  refine ⟨?_, h2, h3, h4, h5⟩
  unfold theClause
  cases h : s.grp.clause <;> simp_all

theorem migOf_none {s : State} (h : (s.devs.all fun p => p.2.migs.isEmpty) = true) (a : Nat) : s.migOf a = none := by
  simp only [List.all_eq_true, List.isEmpty_iff] at h
  simp only [State.migOf, List.findSome?_eq_none_iff]
  intro p hp
  simp [h p hp]

theorem clean_of {s : State} (h : s.poison = [] ∧ s.latent = [] ∧ s.crc = []) : s.clean := h

theorem apart_of_one {p : Nat} : ∀ q ∈ [p], q = p ∨ apart 4 p q := by simp

/-- Registers of the group set. -/
def withRegs (s : State) (l : List (Nat × Word)) : State := s.setGrp { s.grp with s := l }

/-- Bytes of memory set. -/
def withWord (s : State) (a v : Nat) : State := s.wrN a 4 v

/-- The clause with a mod prefix that names C and SAT. -/
def prefixed (c : BitVec 8) : State :=
  base.setGrp { base.grp with clause := some { theClause base with modp := some { c := c, sat := true } } }

/-! ## Operands of the V and U pipes -/

theorem met_IntegerArithmetic : base.ready (theClause base) (ops [1, 2]) (destSpan 0 3 1) ∧ legalDest 3 = true :=
  ⟨ready_of (by decide +kernel), by decide +kernel⟩
theorem met_IntegerArithmetic_uniform :
    base.ready (theClause base) (ops [0x81, 0xFF]) (destSpan 1 0x83 1) ∧ legalDest 0x83 = true :=
  ⟨ready_of (by decide +kernel), by decide +kernel⟩
theorem met_ShiftsAndFields : legalDest 3 = true ∧ base.ready (theClause base) (ops [1, 2]) (destSpan 0 3 1) ∧
    base.ready (theClause base) (ops [1, 2, (theClause base).third 3]) (destSpan 0 3 1) :=
  ⟨by decide +kernel, ready_of (by decide +kernel), ready_of (by decide +kernel)⟩
theorem met_ThreeSources : (prefixed 7).ready (theClause (prefixed 7)) (ops [1, 2, (theClause (prefixed 7)).third 3])
    (destSpan 0 3 1) ∧ legalDest 3 = true ∧ (theClause (prefixed 7)).third 3 = 7 :=
  ⟨ready_of (by decide +kernel), by decide +kernel, by decide +kernel⟩
theorem met_IntegerComparesAndUnary : base.ready (theClause base) (ops [1, 2]) (destSpan 0 0xC4 1) ∧
    base.ready (theClause base) (ops [0xFF]) (destSpan 0 0xCC 1) ∧ legalDest 0xC4 = true ∧ legalDest 0xCC = true :=
  ⟨ready_of (by decide +kernel), ready_of (by decide +kernel), by decide +kernel, by decide +kernel⟩
theorem met_PairsAndPredicateSets :
    ((isV 4 ∨ isS 4) ∧ 4 % 2 = 0) ∧ base.ready (theClause base) [(2, 2), (6, 2)] (destSpan 0 4 2) ∧
    base.ready (theClause base) (ops [1]) (destSpan 0 4 2) ∧
    base.ready (theClause base) ((List.range 8).map fun i => (0xC4 + i, 1)) (destSpan 0 3 1) ∧
    base.ready (theClause base) ((List.range 8).map fun i => (0xCC + i, 1)) (destSpan 0 0x83 1) ∧
    base.ready (theClause base) (ops [1]) (destSpan 0 0xC4 8) ∧ base.ready (theClause base) (ops [0x81]) (destSpan 0 0xCC 8) :=
  ⟨by decide +kernel, ready_of (by decide +kernel), ready_of (by decide +kernel), ready_of (by decide +kernel), ready_of (by decide +kernel), ready_of (by decide +kernel),
    ready_of (by decide +kernel)⟩
theorem met_FloatArithmetic : legalDest 3 = true ∧ base.ready (theClause base) (ops [1, 2]) (destSpan 0 3 1) ∧
    base.ready (theClause base) (ops [1, 2, (theClause base).third 3]) (destSpan 0 3 1) := met_ShiftsAndFields
theorem met_FloatCompares : base.ready (theClause base) (ops [1, 2]) (destSpan 0 0xC4 1) ∧ legalDest 0xC4 = true ∧
    (fp32.value 0x3F800000).isFin = true ∧ (fp32.value 0x80000000).isFin = true ∧ (fp32.value 0x7F800000).isNan = false :=
  ⟨ready_of (by decide +kernel), by decide +kernel, by decide +kernel, by decide +kernel, by decide +kernel⟩
theorem met_FloatFunctions : base.ready (theClause base) (ops [1]) (destSpan 0 3 1) ∧ legalDest 3 = true :=
  ⟨ready_of (by decide +kernel), by decide +kernel⟩
theorem met_PackedAndDot : legalDest 3 = true ∧ base.ready (theClause base) (ops [1, 2]) (destSpan 0 3 1) ∧
    base.ready (theClause base) (ops [1, 2, (theClause base).third 3]) (destSpan 0 3 1) := met_ShiftsAndFields
theorem met_CrossLane : isP 0xC5 = true ∧ base.ready (theClause base) (ops [1, 0xD5]) (destSpan 0 0xC5 1) ∧
    isV 3 = true ∧ base.ready (theClause base) (ops [1]) (destSpan 0 3 1) ∧ legalDest 3 = true :=
  ⟨by decide +kernel, ready_of (by decide +kernel), by decide +kernel, ready_of (by decide +kernel), by decide +kernel⟩
theorem met_FloatSums : base.ready (theClause base) (ops [1]) (destSpan 0 3 1) ∧ legalDest 3 = true ∧ isV 3 = true ∧
    1 ≤ base.grp.fmode.toNat % 8 ∧ base.grp.fmode.toNat % 8 ≤ 5 := ⟨ready_of (by decide +kernel), by decide +kernel⟩
theorem met_SpecialRegistersNopAndMod : base.ready (theClause base) [] (destSpan 0 0x83 1) ∧ legalDest 0x83 = true ∧
    base.ready (theClause base) (ops [0x81]) [] ∧ base.ready (theClause base) [] [] ∧ base.grp.clause = some (theClause base) :=
  ⟨ready_of (by decide +kernel), by decide +kernel, ready_of (by decide +kernel), ready_of (by decide +kernel), by decide +kernel⟩

/-! ## Numbers -/

theorem met_NumberFormatsAndRounding : fp32 ∈ [fp32, fp16, bf16, e4m3, e5m2, e2m3, e3m2, e2m1] ∧ e2m1 ∈ [fp32, e2m1] ∧
    1 ≤ 6 ∧ 0 < 7 ∧ 65535 < 65536 ∧ (e2m1.roundTo 1 false false 7 1 false 0).2 = fOF ||| fNX ∧
    (fp32.roundTo 1 false false 1 3 false 0).2 = fNX := by decide +kernel
/-- FTZ flushes −2^−130 to −0 with UF and NX (R118); SCL halves 3, SAT clamps it (R61, R132). -/
theorem met_NumberFormatsAndRounding_lane : 1 ≠ 0 ∧
    finish32 true 1 false 0 0 false (some (.fin true 1 (-130))) = (2 ^ 31, fUF ||| fNX) ∧
    (finish32 false 1 true (-1) 0 false (some (.fin false 3 0))).1 = 0x3F800000 ∧
    finish32 false 1 false (-1) 0 true (some (.fin false 3 0)) = (0x3FC00000, fIV) := by decide +kernel
theorem met_SumsAndProductsAreExact : (FpNum.fin true 3 (-1)).isFin = true ∧ (FpNum.fin false 0 5).isFin = true := by decide +kernel
theorem met_SatStaysInTheUnitInterval : 1 ≤ 6 ∧ 6 ≤ 6 ∧ 65535 < 65536 := by decide +kernel
theorem met_ValuesOfFunctionsAndConversions : 1 ≤ 6 ∧ 65535 < 65536 ∧ 0 < 16777215 ∧ 16777215 < 2 ^ 24 ∧ (-149 : Int) ≤ 104 ∧
    9 ≤ 14 ∧ 126 ≤ 126 ∧ 5 ∈ [5, 6] := by decide +kernel
/-- An argument between the bounds of fex2's range, and one at each of them (R147). -/
theorem met_ValuesOfFunctionsAndConversions_real : |(1 : ℝ) * 1 * 2 ^ (0 : ℤ)| < 1024 ∧ (1024 : ℝ) ≤ 1 * 1 * 2 ^ (10 : ℤ) ∧
    (-1 : ℝ) * 1 * 2 ^ (10 : ℤ) ≤ -1024 := by
  norm_num
theorem met_AtomicValues : (4 = 4 ∨ 4 = 8) ∧ 0x3F800000 < 256 ^ 4 ∧ (fp32.value 0x3F800000).isFin = true ∧
    fp32.value 0x3F800000 = .fin false 0x800000 (-23) := by decide +kernel
/-- A NaN, the infinities and the zeros of the adds and of fmin and fmax (R145, R238); 1 + 1 in each half. -/
theorem met_AtomicValues_special : (fp32.value 0x7F800001).isNan = true ∧ fp32.value 0xFF800000 = .inf true ∧
    atomNew 1 4 0x7F800000 0xFF800000 0 = 0x7FC00000 ∧ atomNew 1 4 0x80000000 0 0 = 0 ∧
    atomNew 11 4 0 0x80000000 0 = 0x80000000 ∧ atomNew 12 4 0x80000000 0 0 = 0 ∧ atomNew 11 4 0x7F800001 0x7F800000 0 = 0x7F800000 ∧
    atomNew 13 4 0x3C003C00 0x3C003C00 0 = 0x40004000 ∧ atomNew 14 4 0x3F803F80 0x3F803F80 0 = 0x40004000 := by decide +kernel
theorem met_AtomicEvents : [(1, 0), (2, 0)] ≠ [] ∧ 0 ≠ 1 ∧ 0 ≠ 0xD ∧ [(1, 0), (2, 0)].map Prod.fst = 1 :: [2] ∧
    1 < [(1, 0), (2, 0)].length := by decide +kernel

/-! ## Control -/

/-- The base group with s5 = 8: a target in front of the clause's end. -/
def jumps (v : Word) : State := withRegs base [(5, v), (62, v)]

theorem met_ControlTransfers :
    base.ready (theClause base) [(0xC4, 1)] [spanS 62 1] ∧ ((8 : Nat) : ℤ) = (theClause base).base + 4 * (2#20).toInt ∧
    (jumps 8).ready (theClause (jumps 8)) [spanS 5 1] [] ∧ (8 % 4 = 0 ∧ 8 / 4096 = (theClause (jumps 8)).base / 4096) ∧
    (jumps 4095).ready (theClause (jumps 4095)) [spanS 5 1] [] ∧ ((jumps 4095).grp.sAt 5).toNat % 4 ≠ 0 ∧
    ((jumps 0x40000).grp.sAt 5).toNat / 4096 ≠ (theClause base).base / 4096 ∧ 2 ^ 18 ≤ ((jumps 0x40000).grp.sAt 5).toNat :=
  ⟨ready_of (by decide +kernel), by decide +kernel, ready_of (by decide +kernel), by decide +kernel, ready_of (by decide +kernel), by decide +kernel, by decide +kernel, by decide +kernel⟩

/-- No thread is taken: nothing splits. -/
theorem met_ControlTransfers_room : roomToSplit base.grp (theClause base) 0 8 := by
  intro i x _ _ _ _ h _
  simp at h

/-- Slices whose stacks are full, two threads of each taken: no room. -/
def fullStacks : State :=
  let y : Slice := { mask := 15, finished := false, stack := List.replicate 8 { pc := 0, mask := 1 } }
  base.setGrp { base.grp with slices := List.replicate 16 y }

theorem met_ControlTransfers_noRoom : ¬roomToSplit fullStacks.grp (theClause fullStacks) 3 8 := by
  intro h
  exact absurd (h 0 _ (by rfl) (by decide +kernel) (by decide +kernel) (by decide +kernel) (by decide +kernel) (by decide +kernel)) (by decide +kernel)

theorem met_ExitClearsMasks : base.ready (theClause base) [] [] := ready_of (by decide +kernel)

/-- Core 0 with one block left, which another group holds, and with none at all. -/
def fewBlocks : State :=
  (base.setCore 0 { base.coreAt 0 with withheld := 63 }).setGrpOf 1 { base.grp with blocks := 1 }
def noBlocks : State := base.setCore 0 { base.coreAt 0 with withheld := 64 }

theorem met_ExtendedRegisters : base.ready (theClause base) [] [] ∧
    (base.grp.blocks &&& 3 = 0 ∧ (base.coreAt (coreOf base.cur)).xq = [] ∧ 2 ≤ base.poolCap (coreOf base.cur) ∧
      2 ≤ base.poolFree (coreOf base.cur)) ∧
    (fewBlocks.ready (theClause fewBlocks) [] [] ∧ 1 ≤ fewBlocks.poolCap 0 ∧ fewBlocks.poolFree 0 < 1) ∧
    (noBlocks.ready (theClause noBlocks) [] [] ∧ noBlocks.poolCap 0 < 1) ∧
    (let s := base.setGrp { base.grp with blocks := 1 }
     s.ready (theClause s) [] [] ∧ s.grp.blocks &&& 3 ≠ 0) :=
  ⟨ready_of (by decide +kernel), by decide +kernel, ⟨ready_of (by decide +kernel), by decide +kernel⟩, ⟨ready_of (by decide +kernel), by decide +kernel⟩,
    ready_of (by decide +kernel), by decide +kernel⟩

theorem met_ClausesWaitsAndOperands :
    base.grp.clause = some (theClause base) ∧ (theClause base).wi + 1 < (theClause base).words.length ∧
    (theClause base).words.length ≤ (theClause base).wi + 4 ∧ (base.unitAt base.grp.unit).ending = false ∧
    (base.grp.slices.any fun x => !x.finished && decide (x.mask ≠ 0)) = true ∧
    (let w : OutWrite := { regs := [.v 1 0], vals := none, tok := 9, slices := 1 }
     let s := base.setGrp { base.grp with outs := [w] }
     (theClause s).threads s.grp ≠ 0 ∧ s.grp.busy (ops [1, 2] ++ destSpan 0 3 1) = true) ∧
    (let s := base.setGrp { base.grp with poison := [1] }
     s.grp.busy (ops [1, 2] ++ destSpan 0 3 1) = false ∧ s.grp.tainted (ops [1, 2]) = true) ∧
    (let s := base.setGrp { base.grp with clause := some { theClause base with exec := some 0 } }
     (theClause s).threads s.grp = 0) ∧ 63 < 64 := by decide +kernel

/-! ## Memory -/

theorem met_ReadsSeeWrites : 0 < 16 ∧ 16 ≤ 16 ∧ (∀ a, base.migOf a = none) ∧ dieOfPlace base.mode (kplace 0x1000) < 4 ∧
    isHbm (kplace 0x1000 + 16 - 1) = isHbm (kplace 0x1000) ∧ base.vis = [] ∧ (base.accessKey 0x1000).isSome = true ∧
    (∀ i < 16, some (base.writtenUnder (kplace 0x1000 + i)) = base.accessKey 0x1000) ∧
    base.accessKey (keyed (2 ^ 40) 5) = none :=
  ⟨by decide +kernel, by decide +kernel, migOf_none (by decide +kernel), by decide +kernel⟩

/-- Bounds of an access at the edges of a segment: its last word inside, one byte more outside. -/
theorem met_AddressesAreChecked :
    (let seg := FMap.get {} base.grp.segs 1
     seg.v = true ∧ (0 : ℤ) ≤ 2 ^ 25 - 4 ∧ (2 ^ 25 - 4 : ℤ) + 4 ≤ seg.limit ∧ ¬((2 ^ 25 - 3 : ℤ) + 4 ≤ seg.limit) ∧
     kplace (sloc 0 (seg.base + (2 ^ 25 - 4))) % 4 = 0 ∧ seg.wr = true ∧ base.guarded (sloc 0 (seg.base + (2 ^ 25 - 4))) 4 = false) ∧
    (FMap.get {} base.grp.segs 7).v = false ∧ (FMap.get {} base.grp.segs 3).v = true ∧
    (FMap.get {} base.grp.segs 2).v = true ∧ globalSize base.mode = (FMap.get {} base.grp.segs 2).limit := by decide +kernel

/-- ld and st of one word of global space from s0 and s1, by the group. -/
def ldArgs : MArgs := mkArgs 0x85 0x80 0x81 0 0 0 2 2 0
def stArgs : MArgs := mkArgs 0x85 0x80 0x81 0 0 0 2 2 0
def oneThread : State := base.setGrp { base.grp with clause := some { theClause base with exec := some 1 } }

/-- The state in which the accesses of an instruction leave translation. -/
def located (x : Ix) (m : MArgs) (writes : Bool) (ps : List (Nat × Nat)) : List (Except Trap Nat) × State :=
  (x.opened m).locateAll (x.opened m).s m.space (x.base m) m.disp m.bytes writes true
    (ps.map fun p => (p.1, p.2, (x.src m.b p.1).toNat))

theorem reaches_of {x : Ix} {m : MArgs} {writes : Bool} {ps : List (Nat × Nat)} {places : List Nat}
    (h : (x.opened m).walkWaits m (ps.map fun p => (x.src m.b p.1).toNat) = false ∧
      ((located x m writes ps).1.map fun r => r.toOption) = places.map some) :
    x.reaches m writes ps places (located x m writes ps).2 := by
  refine ⟨h.1, ?_⟩
  replace h := h.2
  have e : (located x m writes ps).1 = places.map Except.ok := by
    revert h
    generalize (located x m writes ps).1 = l
    induction l generalizing places with
    | nil => cases places <;> simp
    | cons a l ih =>
      cases places with
      | nil => simp
      | cons b places =>
        intro h
        simp only [List.map_cons, List.cons.injEq] at h ⊢
        exact ⟨by cases a <;> simp_all [Except.toOption], ih h.2⟩
  exact Prod.ext e rfl

theorem met_Loads : base.ready (theClause base) [ldArgs.baseSpan, (ldArgs.b, 1)] [(ldArgs.d, ldArgs.regs)] ∧
    (base.found (theClause base) 2).heldBack false = false ∧
    (let x := base.found (theClause base) 2
     let s1 := (located x ldArgs false (x.performers true)).2
     x.reaches ldArgs false (x.performers true) [gloc 1 0 0] s1 ∧ (s1.released ldArgs).servable ldArgs.chunk true (ldArgs.spots [gloc 1 0 0]) ∧
      s1.noneLeft base.cur base.grp.unit) :=
  ⟨ready_of (by decide +kernel), by decide +kernel, reaches_of (by decide +kernel), ⟨by decide +kernel, by decide +kernel⟩, by decide +kernel, by decide +kernel⟩
theorem met_Stores : oneThread.ready (theClause oneThread) [stArgs.baseSpan, (stArgs.b, 1), dataSpan stArgs.d stArgs.bytes] [] ∧
    (oneThread.found (theClause oneThread) 2).heldBack false = false ∧
    (let x := oneThread.found (theClause oneThread) 2
     let s1 := (located x stArgs true (x.performers false)).2
     x.reaches stArgs true (x.performers false) [gloc 1 0 0] s1 ∧
      (s1.released stArgs).servable stArgs.chunk false (stArgs.spots [gloc 1 0 0]) ∧ (∀ a, s1.migOf a = none) ∧ x.performers false = [(0, 0)] ∧
      s1.noneLeft oneThread.cur oneThread.grp.unit) :=
  ⟨ready_of (by decide +kernel), by decide +kernel, reaches_of (by decide +kernel), ⟨by decide +kernel, by decide +kernel⟩, migOf_none (by decide +kernel), by decide +kernel,
    by decide +kernel, by decide +kernel⟩
/-- The same with a load of this kind by the group still under way: a load follows it at the same bytes, a store anywhere. -/
def loading (s : State) (a : Nat) : State :=
  { s with stalled := [{ agent := s.cur, unit := s.grp.unit, core := 0, kind := .load, bytes := 4, slices := 0xFFFF, tok := 9
                         elems := [{ lane := 0, addr := a }] }] }
theorem met_Loads_later :
    let s := loading base (gloc 1 0 0)
    let x := s.found (theClause s) 2
    let s1 := (located x ldArgs false (x.performers true)).2
    s.ready (theClause s) [ldArgs.baseSpan, (ldArgs.b, 1)] [(ldArgs.d, ldArgs.regs)] ∧ x.heldBack false = false ∧
    x.reaches ldArgs false (x.performers true) [gloc 1 0 0] s1 ∧ (s1.released ldArgs).servable ldArgs.chunk true (ldArgs.spots [gloc 1 0 0]) ∧
    s1.follows s.cur s.grp.unit .load ldArgs.chunk
      (x.elems ldArgs .load true (fun _ _ => 0) (fun _ _ => 0) (x.performers true) [gloc 1 0 0]) :=
  ⟨ready_of (by decide +kernel), by decide +kernel, reaches_of (by decide +kernel), ⟨by decide +kernel, by decide +kernel⟩,
    by unfold State.follows; decide +kernel⟩
theorem met_Stores_later :
    let s := loading oneThread (gloc 1 0 4096)
    let x := s.found (theClause s) 2
    let s1 := (located x stArgs true (x.performers false)).2
    s.ready (theClause s) [stArgs.baseSpan, (stArgs.b, 1), dataSpan stArgs.d stArgs.bytes] [] ∧ x.heldBack false = false ∧
    x.reaches stArgs true (x.performers false) [gloc 1 0 0] s1 ∧ (s1.released stArgs).servable stArgs.chunk false (stArgs.spots [gloc 1 0 0]) ∧
    s1.follows s.cur s.grp.unit .store stArgs.chunk
      (x.elems stArgs .store false (fun x l => x.data stArgs.d stArgs.bytes l) (fun _ _ => 0) (x.performers false) [gloc 1 0 0]) :=
  ⟨ready_of (by decide +kernel), by decide +kernel, reaches_of (by decide +kernel), ⟨by decide +kernel, by decide +kernel⟩,
    by unfold State.follows; decide +kernel⟩

/-- atom.add and atom.cas: operand s4, new value s5. -/
def atomArgs : MArgs := mkArgs 0x85 0x80 0x81 0 0 0 2 2 0x84
theorem met_Atomics :
    oneThread.ready (theClause oneThread) ([atomArgs.baseSpan, (atomArgs.b, 1), (atomArgs.e, (dataSpan atomArgs.e 4).2)] ++
      [(atomArgs.d, atomArgs.regs)]) [(atomArgs.d, atomArgs.regs)] ∧
    (let x := oneThread.found (theClause oneThread) 2
     let s1 := (located x atomArgs true (x.performers true)).2
     x.heldBack false = false ∧ x.reaches atomArgs true (x.performers true) [gloc 1 0 0] s1 ∧
      (s1.released atomArgs).servable atomArgs.chunk true (atomArgs.spots [gloc 1 0 0]) ∧ (∀ a, s1.migOf a = none) ∧
      ((∀ i < 4, some (s1.writtenUnder (kplace (gloc 1 0 0) + i)) = s1.accessKey (gloc 1 0 0)) ∧
        (s1.accessKey (gloc 1 0 0)).isSome = true ∧ isHbm (kplace (gloc 1 0 0)) = false) ∧
      s1.noneLeft oneThread.cur oneThread.grp.unit ∧
      ∀ q ∈ [gloc 1 0 0], q = gloc 1 0 0 ∨ apart 4 (gloc 1 0 0) q) :=
  ⟨ready_of (by decide +kernel), by decide +kernel, reaches_of (by decide +kernel), ⟨by decide +kernel, by decide +kernel⟩, migOf_none (by decide +kernel), by decide +kernel,
    ⟨by decide +kernel, by decide +kernel⟩, apart_of_one⟩

/-- ldt and stt of a 64-bit word: empty, and full. -/
def tagArgs : MArgs := mkArgs 0x86 0x80 0x81 0 4 0 2 3 0
def fullWord : State := oneThread.putTag (gloc 1 0 0) true
theorem met_TagOperations : ∀ s ∈ [oneThread, fullWord],
    s.parked = [] ∧ s.clean ∧ (∀ a, s.migOf a = none) ∧ isHbm (kplace (gloc 1 0 0)) = false ∧
    (s.found (theClause s) 2).heldBack false = false ∧
    s.ready (theClause s) [tagArgs.baseSpan, (tagArgs.b, 1)] [(tagArgs.d, tagArgs.regs)] ∧
    s.ready (theClause s) [tagArgs.baseSpan, (tagArgs.b, 1), dataSpan tagArgs.d tagArgs.bytes] [] ∧
    (let x := s.found (theClause s) 2
     let s1 := (located x tagArgs false (x.performers true)).2
     let s2 := (located x tagArgs true (x.performers false)).2
     x.reaches tagArgs false (x.performers true) [gloc 1 0 0] s1 ∧ x.reaches tagArgs true (x.performers false) [gloc 1 0 0] s2 ∧
      (s1.clean ∧ s2.clean) ∧ (s1.parked = [] ∧ s1.stalled = [] ∧ s2.parked = [] ∧ s2.stalled = [] ∧ s1.lazy = 0 ∧
        s1.levels = [] ∧ s2.levels = []) ∧ (∀ a, s1.migOf a = none) ∧
      (∀ a, s2.migOf a = none) ∧ x.performers true = [(0, 0)] ∧ x.performers false = [(0, 0)]) := by
  intro s h
  simp only [List.mem_cons, List.not_mem_nil, or_false] at h
  rcases h with rfl | rfl <;>
    exact ⟨by decide +kernel, clean_of (by decide +kernel), migOf_none (by decide +kernel), by decide +kernel, by decide +kernel, ready_of (by decide +kernel),
      ready_of (by decide +kernel), reaches_of (by decide +kernel), reaches_of (by decide +kernel),
      ⟨clean_of (by decide +kernel), clean_of (by decide +kernel)⟩, by decide +kernel, migOf_none (by decide +kernel),
      migOf_none (by decide +kernel), by decide +kernel, by decide +kernel⟩
theorem met_TagOperations_tags : oneThread.tagFull (gloc 1 0 0) = false ∧ fullWord.tagFull (gloc 1 0 0) = true := by decide +kernel

theorem fst_eq {α β : Type} {p : α × β} {a : α} (h : p.1 = a) : p = (a, p.2) := by subst h; rfl

theorem locateAll_of {x : Ix} {s : State} {m : MArgs} {writes : Bool} {offs : List (Nat × Nat × Nat)} {places : List Nat}
    (h : ((x.locateAll s m.space (x.base m) m.disp 4 writes true offs).1.map fun r => r.toOption) = places.map some) :
    x.locateAll s m.space (x.base m) m.disp 4 writes true offs =
      (places.map Except.ok, (x.locateAll s m.space (x.base m) m.disp 4 writes true offs).2) := by
  refine Prod.ext ?_ rfl
  revert h
  generalize (x.locateAll s m.space (x.base m) m.disp 4 writes true offs).1 = l
  simp only
  induction l generalizing places with
  | nil => cases places <;> simp
  | cons a l ih =>
    cases places with
    | nil => simp
    | cons b places =>
      intro h
      simp only [List.map_cons, List.cons.injEq] at h ⊢
      exact ⟨by cases a <;> simp_all [Except.toOption], ih h.2⟩

/-- A tile at a row stride of 64 bytes from s5, and its places. -/
def tiled (v : Word) : State := withRegs oneThread [(5, v)]
def tileArgs : MArgs := mkArgs 0 0x80 0x85 0 0 0 2 2 0
def tileOffs : List (Nat × Nat × Nat) := (List.range 256).map fun k => (0, 0, 64 * (k / 16) + 4 * (k % 16))
def tilePlaces : List Nat := (List.range 256).map fun k => gloc 1 0 (4 * k)
theorem met_TilesAndPrefetch :
    (tiled 64).ready (theClause (tiled 64)) [tileArgs.baseSpan, (tileArgs.b, 1)] [(256, 1)] ∧
    (tiled 64).ready (theClause (tiled 64)) [tileArgs.baseSpan, (tileArgs.b, 1), (256, 1)] [] ∧
    ((tiled 64).found (theClause (tiled 64)) 2).heldBack false = false ∧ 64 % 4 = 0 ∧
    (∃ s1, let x := (tiled 64).found (theClause (tiled 64)) 2
      x.locateAll x.s tileArgs.space (x.base tileArgs) tileArgs.disp 4 false true tileOffs = (tilePlaces.map Except.ok, s1) ∧
      s1.servable 4 true tilePlaces ∧ s1.noneLeft (tiled 64).cur (tiled 64).grp.unit) ∧
    (∃ s1, let x := (tiled 64).found (theClause (tiled 64)) 2
      x.locateAll x.s tileArgs.space (x.base tileArgs) tileArgs.disp 4 true true tileOffs = (tilePlaces.map Except.ok, s1) ∧
      s1.servable 4 false tilePlaces ∧ s1.noneLeft (tiled 64).cur (tiled 64).grp.unit) ∧
    ((tiled 66).ready (theClause (tiled 66)) [tileArgs.baseSpan, (tileArgs.b, 1)] [(256, 1)] ∧ 66 % 4 ≠ 0) :=
  ⟨ready_of (by decide +kernel), ready_of (by decide +kernel), by decide +kernel, by decide +kernel,
    ⟨_, locateAll_of (m := tileArgs) (by decide +kernel), ⟨by decide +kernel, by decide +kernel⟩, by decide +kernel, by decide +kernel⟩,
    ⟨_, locateAll_of (m := tileArgs) (by decide +kernel), ⟨by decide +kernel, by decide +kernel⟩, by decide +kernel, by decide +kernel⟩, ready_of (by decide +kernel), by decide +kernel⟩

/-! ## Ordering and synchronization -/

/-- The group seen by an instruction of one word. -/
def seen (s : State) : Ix := s.found (theClause s) 1

/-- The mode of the group after reset is the supervisor; this is a group without the privilege. -/
def user : State := base.setGrp { base.grp with priv := false }

/-- An access of this kind that the group has still to perform. -/
def owing (s : State) (k : MKind) : State :=
  { s with stalled := [{ agent := 0, unit := 1, core := 0, kind := k, bytes := 4, slices := 0xFFFF, tok := 9
                         elems := [{ lane := 0, addr := 64 }] }] }

theorem met_Fences : base.ready (theClause base) [] [] ∧ (seen base).heldBack true = false ∧
    (let w : VisW := { agent := 85, core := 5, addr := 0, old := [0], unseen := [1, 2, 4] }
     let s := { base with vis := [w] }
     s.ready (theClause s) [] [] ∧ dieOfCore (coreOf s.cur) ∉ w.unseen ∧ 1 ∈ w.unseen ∧ 4 ≤ 5) ∧
    (let s := owing base .load
     s.ready (theClause s) [] [] ∧ ∃ o ∈ s.stalled, o.agent = s.cur ∧ o.unit = s.grp.unit ∧ o.drain = none ∧ o.kind.reads = true) ∧
    (let s := base.setDie 0 { base.dieAt 0 with logbase := BitVec.ofNat 64 (2 ^ 63) }
     (s.dieAt 0).logbase.getLsbD 63 = true ∧ (s.dieAt 0).gen < 2 ^ 32 ∧ (s.devAt 0).invSeq < 2 ^ 32) :=
  ⟨ready_of (by decide +kernel), by decide +kernel, ⟨ready_of (by decide +kernel), by decide +kernel⟩,
    ⟨ready_of (by decide +kernel), by decide +kernel⟩, by decide +kernel⟩

/-- An object word in global space; its holder. -/
def objWord : Nat := gloc 1 0 0
def holding (sh : Bool) : State :=
  let s := base.wrN objWord 8 (sobjTaken (base.rdN objWord 8) base.cur sh)
  s.setGrp { s.grp with holds := [(objWord, sh)] }
def binder : State := withRegs base [(4, 0), (5, 0), (6, 256), (7, 2)]
/-- A binding of the object, and the core with the table full of those of another object. -/
def bind0 (obj : Nat) : Bind := { unit := 1, obj := obj, slot := 0, main := false, len := 256, base := gloc 1 0 0 }
def bindsFull : State := binder.setCore 0 { binder.coreAt 0 with binds := List.replicate 32 (bind0 (objWord + 64)) }
theorem met_SynchronizationObjects :
    -- free, and taken as it is; claimed already; four others claimed; held by another
    (∃ s1, (seen base).object (base.grp.sAt 4).toNat = (.ok objWord, s1)) ∧ base.clean ∧ (∀ a, base.migOf a = none) ∧
    (base.ready (theClause base) [spanS 4 1] [] ∧ base.ready (theClause base) [spanS 4 1] [spanS 9 1]) ∧
    ((seen base).readsLeft = false ∧ (base.unitAt base.grp.unit).faulty = false ∧ base.claims base.cur = [] ∧
      base.sobjOpen objWord false = true ∧ base.sobjOpen objWord true = true) ∧
    ((holding true).ready (theClause (holding true)) [spanS 4 1] [] ∧ ((holding true).claims 0).contains objWord = true ∧
      (holding true).sobjOpen objWord false = false) ∧
    (let s := base.setGrp { base.grp with holds := (List.range 4).map fun i => (objWord + 64 + 64 * i, false) }
     s.ready (theClause s) [spanS 4 1] [] ∧ (s.claims 0).contains objWord = false ∧ 4 ≤ (s.claims 0).length) ∧
    -- a release, with nobody and with somebody waiting, and with a bound write that the die sees
    (∃ s1, (seen (holding true)).object ((holding true).grp.sAt 4).toNat = (.ok objWord, s1)) ∧
    ((seen (holding true)).heldBack true = false ∧
      ((holding true).grp.holds.find? fun q => decide (q.1 = objWord)) = some (objWord, true) ∧ (holding true).sobjQ = [] ∧
      (∀ q ∈ base.grp.holds, q.1 ≠ objWord)) ∧
    (let s := { holding false with sobjQ := [(17, 1, objWord, false)] }
     s.ready (theClause s) [spanS 4 1] [] ∧ (∀ r ∈ s.sobjQ, r.2.2.1 = objWord → r.1 ≠ s.cur) ∧
      (s.sobjQ.find? fun r => decide (r.2.2.1 = objWord)) = some (17, 1, objWord, false) ∧
      sobjFree (sobjFreed (s.rdN objWord 8) false % 2 ^ 64) false = true ∧
      sobjFree (sobjFreed ((holding true).rdN objWord 8 + 2 ^ 48) true % 2 ^ 64) false = false) ∧
    (let w : VisW := { agent := 0, core := 0, addr := gloc 1 0 64, old := [0], unseen := [1], named := gloc 1 0 64 }
     let s := (holding true).setCore 0 { (holding true).coreAt 0 with binds := [bind0 objWord] }
     let s := { s with vis := [w] }
     s.ready (theClause s) [spanS 4 1] [] ∧ w.core = coreOf s.cur ∧ s.takes (bind0 objWord) w.named w.old.length w.va = true ∧
      s.takes (bind0 objWord) (gloc 1 0 4096) 1 none = false ∧ w.meets objWord 8 = false) ∧
    -- binds
    (∃ s1, (seen binder).object (binder.grp.sAt 4).toNat = (.ok objWord, s1)) ∧
    (binder.ready (theClause binder) [spanS 4 1, spanS 4 4] [] ∧ binder.grp.sAt 7 = 2 ∧ binder.grp.sAt 5 = 0 ∧
      bindOk binder.grp false 0 256 = true ∧ bindOk binder.grp false 1 256 = false ∧
      binder.unitHolds binder.grp.unit objWord = false ∧ (binder.coreAt 0).binds.length < 32 ∧
      (holding true).unitHolds 1 objWord = true) ∧
    (bindsFull.ready (theClause bindsFull) [spanS 4 1, spanS 4 4] [] ∧ 32 ≤ (bindsFull.coreAt 0).binds.length ∧
      ∀ b ∈ (bindsFull.coreAt 0).binds, ¬(b.unit = 1 ∧ b.obj = objWord ∧ b.slot = 0)) :=
  ⟨⟨_, fst_eq (by decide +kernel)⟩, clean_of (by decide +kernel), migOf_none (by decide +kernel),
    ⟨ready_of (by decide +kernel), ready_of (by decide +kernel)⟩, by decide +kernel, ⟨ready_of (by decide +kernel), by decide +kernel⟩,
    ⟨ready_of (by decide +kernel), by decide +kernel⟩, ⟨_, fst_eq (by decide +kernel)⟩, by decide +kernel,
    ⟨ready_of (by decide +kernel), by decide +kernel⟩, ⟨ready_of (by decide +kernel), by decide +kernel⟩,
    ⟨_, fst_eq (by decide +kernel)⟩, ⟨ready_of (by decide +kernel), by decide +kernel⟩, ready_of (by decide +kernel), by decide +kernel⟩

def counting (n : Nat) : State := base.setGrp { base.grp with ctr := [(1, n)] }
theorem met_CounterWaits : (counting 3).ready (theClause (counting 3)) [] [] ∧ FMap.get 0 (counting 3).grp.ctr 1 ≤ 3 ∧
    2 < FMap.get 0 (counting 3).grp.ctr 1 ∧ base.grp.priv = true ∧ (seen base).s.liveToks 0 = [] ∧
    (user.ready (theClause user) [] [] ∧ user.grp.priv = false) ∧
    ((owing base .load).ready (theClause (owing base .load)) [] [] ∧ (seen (owing base .load)).s.liveToks 0 ≠ []) :=
  ⟨ready_of (by decide +kernel), by decide +kernel, by decide +kernel, by decide +kernel, by decide +kernel,
    ⟨ready_of (by decide +kernel), by decide +kernel⟩, ready_of (by decide +kernel), by decide +kernel⟩

/-- The largest queue that fits, and a queue of two entries of one word with some entries in it. -/
def queueRegs : State := withRegs base [(4, 32), (5, BitVec.ofNat 32 4096)]
def queued (n : Nat) : State :=
  base.setUnit base.grp.unit { base.unitAt base.grp.unit with
    queues := [(3, { cap := 2, ring := sloc 0 0, count := n, producers := 1, consumers := 1 })] }
theorem met_NamedQueues :
    queueRegs.ready (theClause queueRegs) [spanS 4 1, spanS 5 1] [] ∧ (queueRegs.grp.sAt 4).toNat % 32 = 0 ∧
    (queueRegs.grp.sAt 5).toNat % 8192 = 4096 ∧
    ((32 + 4096 * 4 * 2 ^ (4096 / 2 ^ 16 % 4) : Nat) : ℤ) ≤ (FMap.get {} queueRegs.grp.segs 1).limit ∧
    (∀ n, n ≤ 2 → (queued n).ready (theClause (queued n)) [spanS 4 (queueWords (queued n) 3)] [] ∧
      (queued n).ready (theClause (queued n)) [spanS 4 (queueWords (queued n) 3)] [spanS 5 1] ∧
      (queued n).ready (theClause (queued n)) [] [spanS 4 (queueWords (queued n) 3)] ∧
      queueCause (((queued n).unitAt base.grp.unit).queue 3) true base.grp.gidx 4 = none ∧
      queueCause (((queued n).unitAt base.grp.unit).queue 3) false base.grp.gidx 4 = none ∧
      (seen (queued n)).heldBack true = false ∧ (seen (queued n)).heldBack false = false) ∧
    -- a queue never set up, one that does not admit the group, a register that is not aligned; a set-up that is refused
    (base.ready (theClause base) [spanS 4 (queueWords base 3)] [] ∧ ((base.unitAt base.grp.unit).queue 3).cap = 0 ∧
      (seen base).heldBack true = false ∧ (seen base).heldBack false = false) ∧
    (let s := base.setUnit base.grp.unit { base.unitAt base.grp.unit with queues := [(3, { cap := 2, ring := sloc 0 0 })] }
     s.ready (theClause s) [spanS 4 (queueWords s 3)] [] ∧ ((s.unitAt 1).queue 3).cap ≠ 0 ∧
      ((s.unitAt 1).queue 3).producers.getLsbD s.grp.gidx = false) ∧
    (let s := base.setUnit base.grp.unit { base.unitAt base.grp.unit with
       queues := [(3, { cap := 2, ring := sloc 0 0, lw := 1, producers := 1, consumers := 1 })] }
     s.ready (theClause s) [spanS 5 (queueWords s 3)] [] ∧ 5 % queueWords s 3 ≠ 0) ∧
    (let s := queueRegs.setUnit 1 { queueRegs.unitAt 1 with queues := [(3, { cap := 2, ring := sloc 0 0, pushers := [(0, 1, [])] })] }
     s.ready (theClause s) [spanS 4 1, spanS 5 1] [] ∧ ((s.unitAt 1).queue 3).pushers ≠ []) ∧
    (let s := withRegs base [(4, 33), (5, 4096)]
     s.ready (theClause s) [spanS 4 1, spanS 5 1] [] ∧ 33 % 32 ≠ 0 ∧ 2 ^ 17 ≤ 2 ^ 17) := by
  refine ⟨ready_of (by decide +kernel), by decide +kernel, by decide +kernel, by decide +kernel, ?_,
    ⟨ready_of (by decide +kernel), by decide +kernel⟩, ⟨ready_of (by decide +kernel), by decide +kernel⟩,
    ⟨ready_of (by decide +kernel), by decide +kernel⟩, ⟨ready_of (by decide +kernel), by decide +kernel⟩,
    ready_of (by decide +kernel), by decide +kernel⟩
  intro n h
  interval_cases n <;>
    exact ⟨ready_of (by decide +kernel), ready_of (by decide +kernel), ready_of (by decide +kernel), by decide +kernel, by decide +kernel⟩

/-- A barrier in a phase, and registers for its set-up and its expectations at their bounds. -/
def barrier (a : AbarSt) (v : Word) : State :=
  (withRegs base [(4, v)]).setUnit base.grp.unit { base.unitAt base.grp.unit with abars := [(2, a)] }
def abarAtWork : AbarSt := { count := 2, pend := 1, phase := 5 }
theorem met_Barriers :
    (barrier {} 1023).ready (theClause (barrier {} 1023)) [spanS 4 1] [] ∧
    (seen (barrier {} 1023)).s.abarWaited base.grp.unit 2 = false ∧
    (barrier abarAtWork 65535).ready (theClause (barrier abarAtWork 65535)) [spanS 4 1] [] ∧
    (barrier abarAtWork 5).ready (theClause (barrier abarAtWork 5)) [spanS 4 1] [] ∧
    (barrier abarAtWork 5).ready (theClause (barrier abarAtWork 5)) [] [spanS 4 1] ∧
    (barrier abarAtWork 5).ready (theClause (barrier abarAtWork 5)) [] [] ∧
    0 < abarAtWork.count ∧ 0 < abarAtWork.pend ∧ abarAtWork.xp + 65535 < 2 ^ 31 ∧
    (((barrier abarAtWork 5).unitAt base.grp.unit).abar 2).phase = ((barrier abarAtWork 5).grp.sAt 4).toNat ∧
    ((base.unitAt base.grp.unit).abar 2).count = 0 ∧ ({ abarAtWork with pend := 0 } : AbarSt).count ≠ 0 ∧
    (seen (barrier abarAtWork 5)).heldBack true = false ∧
    (seen base).heldBack true = false :=
  ⟨ready_of (by decide +kernel), by decide +kernel, ready_of (by decide +kernel), ready_of (by decide +kernel), ready_of (by decide +kernel),
    ready_of (by decide +kernel), by decide +kernel⟩

/-! ## The work hierarchy -/

/-- Values put in memory: address, bytes, value. -/
def puts (s : State) (l : List (Nat × Nat × Nat)) : State := l.foldl (fun s p => s.wrN p.1 p.2.1 p.2.2) s

/-- A level of a kind at offset 64 that runs below a level of another kind at offset 0; s4 and s5 name them. -/
def leveled (kind parent flags : Nat) (a : Word) : State :=
  withRegs ((base.lvOpen 0 1 0 parent 1 0 0xFFFFFFFF 0).lvOpen 0 1 64 kind 0 flags 0 0) [(4, 64), (5, a), (6, 0), (7, 0)]
/-- The level at offset 64 not open yet. -/
def opening : State := withRegs (base.lvOpen 0 1 0 4 0 0 0xFFFFFFFF 0) [(4, 64), (5, 0), (6, 7), (7, 2)]
/-- A launch record for two units of one group on core 0, with its level objects from offset 128; the parent is a graph. -/
def launching : State :=
  withRegs (puts (base.lvOpen 0 1 0 2 0 0 0xFFFFFFFF 0)
    [(gloc 1 0 1024 + 13, 1, 1), (gloc 1 0 1024 + 14, 1, 1), (gloc 1 0 1024 + 16, 4, 2), (gloc 1 0 1024 + 26, 2, 1),
      (gloc 1 0 1024 + 28, 4, 128)]) [(4, 1024), (5, 0)]
theorem met_LevelInstructions :
    (let s := leveled 3 4 0 (BitVec.ofInt 32 5)
     s.clean ∧ (∀ a, s.migOf a = none) ∧ (seen s).heldBack true = false ∧ s.ready (theClause s) ([spanS 4 1] ++ [spanS 5 1]) [spanS 5 1] ∧
      s.ready (theClause s) [spanS 4 1] [spanS 5 1] ∧ s.ready (theClause s) [spanS 4 2] [spanS 5 1] ∧
      (seen s).object64 64 64 true = .ok 64 ∧ s.lvBroken 0 64 = false ∧ s.lvRunning 0 64 = true ∧ s.lvCtr 0 64 < 2 ^ 31 ∧
      s.lvKind 0 64 = 3 ∧ s.lvFlag 0 64 1 = false ∧ s.lvFlag 0 64 0 = false ∧ s.nodesOf 0 64 = [] ∧
      (∀ p ∈ s.levels, p.2 % 64 = 0 ∧ p.2 < globalSize s.mode)) ∧
    (let s := leveled 2 3 1 0
     s.ready (theClause s) [spanS 4 1] [spanS 5 1] ∧ s.lvFlag 0 64 0 = true) ∧
    (let s := opening
     s.clean ∧ (seen s).heldBack true = false ∧ s.ready (theClause s) [spanS 4 4] [spanS 9 1] ∧
      (seen s).object64 64 64 true = .ok 64 ∧ (seen s).object64 0 64 true = .ok 0 ∧ s.lvBroken 0 64 = false ∧
      s.lvBroken 0 0 = false ∧ s.lvRunning 0 64 = false ∧ wider 3 (s.lvKind 0 0) = true ∧ s.lvRefuses 0 0 = false ∧
      (2 < 4 ∧ 2 % 2 = 0)) ∧
    (let s := launching
     let r := s.readRecord 0 1 1024
     s.clean ∧ (seen s).heldBack true = false ∧ s.ready (theClause s) [spanS 4 2] [spanS 9 1] ∧
      (seen s).object64 1024 512 false = .ok 1024 ∧ (seen s).object64 0 64 true = .ok 0 ∧ s.lvBroken 0 0 = false ∧
      r.bad = false ∧ r.badUnits = false ∧ r.badPlace = false ∧
      (∀ o ∈ (List.range (r.units + 1)).map fun i => r.level + 64 * i, s.lvBroken 0 o = false ∧ s.lvRunning 0 o = false) ∧
      wider 1 (s.lvKind 0 0) = true ∧ s.lvRefuses 0 0 = false ∧ r.units = 2) :=
  ⟨⟨⟨by decide +kernel, by decide +kernel, by decide +kernel⟩, migOf_none (by decide +kernel), by decide +kernel, ready_of (by decide +kernel), ready_of (by decide +kernel), ready_of (by decide +kernel), by decide +kernel⟩,
    ⟨ready_of (by decide +kernel), by decide +kernel⟩,
    ⟨⟨by decide +kernel, by decide +kernel, by decide +kernel⟩, by decide +kernel, ready_of (by decide +kernel), by decide +kernel⟩,
    ⟨⟨by decide +kernel, by decide +kernel, by decide +kernel⟩, by decide +kernel, ready_of (by decide +kernel), by decide +kernel⟩⟩

/-- A graph at offset 0 and node 0 of it: C = 4, a timer, bins for 8 records; a record without operands at slice offset
4096, which s4 names. -/
def noded : State :=
  withRegs (puts (base.lvOpen 0 1 0 2 0 0 0xFFFFFFFF 0)
    [(base.nodePlace 0 0 + 12, 4, 100 + 3 * 2 ^ 24), (base.nodePlace 0 0 + 16, 4, 1024), (base.nodePlace 0 0 + 24, 4, 8),
      (base.nodePlace 0 0 + 28, 4, 1), (sloc 0 4098, 2, 3)]) [(4, 4096)]
/-- The same, with the group's unit started by the node and with these records in its bins. -/
def tasked (l : List BinRec) : State :=
  let s := noded.setNode 0 0 { recs := l }
  s.setUnit 1 { s.unitAt 1 with node := some 0, recoff := 8192 }
/-- A dispenser, or a version, at offset 64 of global space; s4 names it and s5 a place in the slice. -/
def named (v : Word) : State := withRegs base [(4, 64), (5, v), (6, 9), (7, 1)]
def versioned : State :=
  withRegs (base.lvOpen 0 1 0 2 0 0 0xFFFFFFFF 0) [(4, 64), (5, 0), (6, 9), (7, 1)]

theorem met_TasksDispensersVersions :
    (let s := noded
     let rec' : List Byte := (List.range 8).flatMap fun w =>
       bytesOf 4 ((s.releaseAt 0 4).readAt 0 (dieOfCore 0) (sloc 0 0 + 4096 + 4 * w) 4)
     let e := s.nodeEnt 0 0
     s.clean ∧ (∀ a, s.migOf a = none) ∧ (seen s).heldBack true = false ∧
      s.grp.ctrFull 7 = false ∧ s.ready (theClause s) [spanS 4 1] [spanS 5 1] ∧
      (seen s).sliceOperand 4096 32 (32 * 1) false = none ∧ s.recordCause (seen s) rec' = 0 ∧
      (s.nodeSt 0 0).recs = [] ∧ ofBytes ((rec'.drop 2).take 2) % 4 = 3 ∧ 2 ≤ e.c ∧ 0 < e.timer ∧
      s.lvFlag 0 e.graph 1 = false ∧ s.lvAt 0 e.graph + 64 ≤ 2 ^ 33 ∧ e.die < 4 ∧
      qloc e.die (32 * (e.binrec + (s.nodeSt 0 0).tail % e.bincap)) ≠ s.nodePlace 0 0) ∧
    (let s := base
     s.ready (theClause s) [spanS 4 1] [spanS 5 1] ∧ (seen s).sliceOperand 0 32 (32 * 1) false = none ∧
      s.recordCause (seen s) (List.replicate 32 0) ≠ 0) ∧
    (∀ l ∈ [[], [{ slot := 0, missing := 0, ready := some (0, 0) }]],
      let s := tasked l
      (s.unitAt s.grp.unit).node = some 0 ∧ s.ready (theClause s) [] [spanS 4 1] ∧ (s.nodeSt 0 0).waiters = [] ∧
        (readyList (s.nodeSt 0 0).recs = [] ↔ l = []) ∧ s.lvFlag 0 (s.nodeSt 0 0).graph 0 = false ∧
        s.lvFlag 0 (s.nodeSt 0 0).graph 1 = false) ∧
    (let s := named (BitVec.ofNat 32 (65535 * 65536 + 1))
     s.ready (theClause s) ([spanS 4 1] ++ [spanS 5 1]) [] ∧ (seen s).object64 64 64 true = .ok 64) ∧
    (let s := named 8
     s.ready (theClause s) ([spanS 4 1] ++ [spanS 5 1]) [] ∧ (seen s).object64 64 64 true = .ok 64 ∧
      (seen s).sliceOperand 8 8 8 true = none ∧ s.parked = [] ∧ sloc 0 0 + 8 < 2 ^ 33 ∧
      (sloc 0 0 + 8 + 8 ≤ gloc s.mode 0 64 ∨ gloc s.mode 0 64 + 64 ≤ sloc 0 0 + 8)) ∧
    (let s := named 0xFFFFFFFF
     s.ready (theClause s) [spanS 4 4] [spanS 9 1] ∧ (seen s).object64 64 64 true = .ok 64 ∧
      s.ready (theClause s) [spanS 4 1] [spanS 8 4] ∧ (seen s).object64 64 64 false = .ok 64) ∧
    (let s := versioned
     s.ready (theClause s) [spanS 4 4] [spanS 9 1] ∧ (seen s).object64 64 64 true = .ok 64 ∧
      (seen s).object64 0 64 false = .ok 0 ∧ s.lvStatus 0 0 = 1 ∧ base.lvStatus 0 0 = 0) := by
  refine ⟨⟨⟨by decide +kernel, by decide +kernel⟩, migOf_none (by decide +kernel), by decide +kernel, by decide +kernel, ready_of (by decide +kernel),
      by decide +kernel⟩, ⟨ready_of (by decide +kernel), by decide +kernel⟩, ?_, ⟨ready_of (by decide +kernel), by decide +kernel⟩,
    ⟨ready_of (by decide +kernel), by decide +kernel⟩,
    ⟨ready_of (by decide +kernel), by decide +kernel, ready_of (by decide +kernel), by decide +kernel⟩,
    ⟨ready_of (by decide +kernel), by decide +kernel⟩⟩
  intro l h
  simp only [List.mem_cons, List.not_mem_nil, or_false] at h
  rcases h with rfl | rfl <;> exact ⟨by decide +kernel, ready_of (by decide +kernel), by decide +kernel⟩

/-! ## Engines -/

/-- A descriptor at slice offset 4096: 64 bytes of slice space from 8192 to 12288. -/
def copying (len : Nat) : State :=
  withRegs (puts base [(sloc 0 4096, 8, 8192), (sloc 0 4104, 8, 12288), (sloc 0 4112, 4, len), (sloc 0 4116, 2, 1),
    (sloc 0 4118, 2, 1)]) [(4, 4096), (5, 0)]
/-- A descriptor of an operand load: 64 bytes of slice space into buffer row 0, a record of which stands. -/
def copyingOpb : State :=
  (puts base [(sloc 0 4096, 8, 8192), (sloc 0 4112, 4, 64), (sloc 0 4116, 2, 1), (sloc 0 4118, 2, 1)])
def descOf (s : State) : CopyDesc × Nat × Nat := readDesc fun o n => s.readAt 0 (dieOfCore 0) (sloc 0 4096 + o) n
def cmdOf (s : State) (form : Nat) : CopyCmd :=
  { slot := (s.coreAt 0).freeSlot.getD 0, agent := s.cur, unit := s.grp.unit, dev := 0, asid := 1, form := form
    d := (descOf s).1, desc := sloc 0 4096, sslice := FMap.get {} s.grp.segs 1, sglobal := FMap.get {} s.grp.segs 2
    smain := FMap.get {} s.grp.segs 3, tok := s.tok }
theorem met_CopyInstructions :
    (let s := copying 64
     s.grp.ctrFull 1 = false ∧ (seen s).heldBack true = false ∧ s.ready (theClause s) [spanS 4 1] [] ∧ (4096 % 64 = 0 ∧ (FMap.get {} s.grp.segs 1).v = true ∧
      4096 + 64 ≤ (FMap.get {} s.grp.segs 1).limit) ∧ descOk 0 (descOf s).1 (descOf s).2.1 (descOf s).2.2 = true ∧
      descAligned 0 (descOf s).1 = true ∧ s.copyCause (cmdOf s 0) = none ∧ (s.coreAt 0).freeSlot.isSome = true) ∧
    (let s := copying 63
     ¬descOk 0 (descOf s).1 (descOf s).2.1 (descOf s).2.2 = true) ∧
    (let s := copying (2 ^ 30)
     descOk 0 (descOf s).1 (descOf s).2.1 (descOf s).2.2 = true ∧ descAligned 0 (descOf s).1 = true ∧
      s.copyCause (cmdOf s 0) = some 0x02) ∧
    (let s := copyingOpb
     descOk 11 (descOf s).1 (descOf s).2.1 (descOf s).2.2 = true ∧ descAligned 11 (descOf s).1 = true ∧
      s.copyCause (cmdOf s 11) = none ∧ (s.coreAt 0).recsPending = false) ∧
    (let s := copying 64
     s.ready (theClause s) [spanS 4 2] [] ∧ (seen s).heldBack true = false ∧ 4096 % 4096 = 0 ∧
      s.rangeCause 0 (FMap.get {} s.grp.segs 3) 2 4096 4096 false = none ∧
      ¬(63 = (theClause s).base / 4096 ∨ (((s.coreAt 0).seg 63).st = 1 ∧ ((s.coreAt 0).seg 63).va ≠ 4096)) ∧
      (s.coreAt 0).freeSlot = some 0 ∧ 0 = (theClause s).base / 4096) :=
  ⟨⟨by decide +kernel, by decide +kernel, ready_of (by decide +kernel), by decide +kernel⟩, by decide +kernel, by decide +kernel, by decide +kernel,
    ready_of (by decide +kernel), by decide +kernel⟩

/-- Object 5 of two units, of which the group's is the first, granted to the context. -/
def grouped : State :=
  let o : GObj := { members := [{ dev := 0, off := 64, unit := some 1 }, { dev := 0, off := 192, unit := some 2 }] }
  ((withRegs base [(4, 5), (5, 0), (6, 8192)]).setGobj 0 5 o).setCtx 0 1 { base.ctxAt 0 1 with objs := [5] }
/-- The other member's ared stands. -/
def otherAred : CollOp :=
  { dev := 0, obj := 5, agent := 17, unit := 2, rank := 1, k := 0, form := 0, peer := 0, et := 0, op := 0, tile := 0, n := 0
    data := List.replicate 256 1, tok := 0 }
theorem met_Collectives :
    (let s := grouped
     let o := (s.gobj 0 5).getD {}
     s.ready (theClause s) ([spanS 4 4] ++ [(258, 1)]) ([spanS 9 1] ++ [(258, 1)]) ∧ s.grp.ctrFull 3 = false ∧ (seen s).heldBack true = false ∧
      s.gobj 0 5 = some o ∧ s.gobjGranted (s.unitAt 1) 5 = true ∧ s.grp.gidx < o.p ∧ o.rankOf 0 s.grp.unit = some 0 ∧
      (nbits 5 30 28 = 0 ∧ (5).testBit 15 = false ∧ nbits 5 27 16 = 0 ∧ (5).testBit 31 = false ∧ (5).testBit 14 = false) ∧
      o.mismatch = false ∧ o.poisoned = false ∧ 2 ≤ o.m ∧ (∀ m ∈ o.members, m.ended = false) ∧ s.colls = []) ∧
    (∃ places s1, (seen grouped).bufLines (seen grouped).s false 8192 32 true (etesianDie 1 0 5) = (.ok (some places), s1)) ∧
    (let s := { grouped with colls := [otherAred] }
     s.ready (theClause s) ([spanS 4 4] ++ [(258, 1)]) ([spanS 9 1] ++ [(258, 1)]) ∧ (seen s).heldBack true = false ∧ s.colls = [otherAred] ∧
      otherAred.n = ((s.gobj 0 5).getD {}).seqOf 0 0 0 0 ∧ otherAred.rank ≠ 0) ∧
    base.gobj 0 0 = none :=
  ⟨⟨ready_of (by decide +kernel), by decide +kernel⟩, ⟨(List.range 32).map fun k => gloc 1 0 0 + sloc 0 (8192 + 64 * k), _,
    fst_eq (by decide +kernel)⟩, ⟨ready_of (by decide +kernel), by decide +kernel⟩, by decide +kernel⟩

/-- A declaration of two lines at offset 64 of global space with these counts; a barrier of the unit. -/
def counted (l : List Nat) : State :=
  { (barrier abarAtWork 64) with decls := [{ dev := 0, unit := 1, first := gloc 1 0 64, lines := 2, left := l }] }
/-- A frame descriptor at offset 64 of global space for output 7, which is configured. -/
def posting (seq : Nat) : State :=
  let s := withRegs (puts base [(gloc 1 0 64 + 24, 4, 16), (gloc 1 0 64 + 28, 2, 4), (gloc 1 0 64 + 30, 2, 2),
    (gloc 1 0 64 + 32, 4, seq), (gloc 1 0 64 + 36, 1, 7)]) [(4, 64)]
  s.setOutput 7 { configured := true, w := 4, h := 2, top := some 4 }
/-- s4 and s5 name the most lines with the highest count. -/
def declaring : State :=
  (withRegs base [(4, 64), (5, BitVec.ofNat 32 (4095 * 65536 + 65535))]).setCtx 0 1 { base.ctxAt 0 1 with decls := 1 }
theorem met_CountedLinesAndPresent :
    (let s := declaring
     s.ready (theClause s) [spanS 4 1, spanS 5 1] [] ∧ (seen s).readsLeft = false ∧ (seen s).linesLeft (gloc 1 0 64) 4096 = false ∧
      s.levels = [] ∧ 64 % 64 = 0 ∧ (4095 * 65536 + 65535) / 2 ^ 28 = 0 ∧
      s.rangeCause 0 (FMap.get {} s.grp.segs 2) 1 64 (64 * 4096) true = none ∧
      gloc 1 0 64 / 2 ^ 25 = (gloc 1 0 64 + 64 * 4096 - 1) / 2 ^ 25 ∧ s.decls = [] ∧ s.parked = [] ∧
      0 < min 256 (s.ctxAt 0 1).decls) ∧
    (let s := counted [1, 0]
     s.ready (theClause s) [spanS 4 1] [] ∧ (seen s).readsLeft = false ∧ (seen s).linesLeft (gloc 1 0 64) 2 = false ∧ s.levels = [] ∧
      (∃ n ∈ [1, 0], n ≠ 0) ∧ ((s.unitAt 1).abar 2).count ≠ 0 ∧
      ((s.unitAt 1).abar 2).pend ≠ 0 ∧ (∀ n ∈ ([0, 0] : List Nat), n = 0)) ∧
    (let s := posting 5
     let fr := s.readFrame 0 1 (gloc 1 0 64) (kplace (gloc 1 0 64))
     s.ready (theClause s) [spanS 4 1] [spanS 9 1] ∧ s.clean ∧ (∀ q, s.migOf q = none) ∧ (seen s).heldBack true = false ∧ s.levels = [] ∧
      (seen s).object64 64 64 true = .ok 64 ∧ fr.1 = 7 ∧ fr.2.1 = true ∧ fr.2.2.seq = 5 ∧
      (s.output 7).top = some 4 ∧ (s.output 7).posted.length < 3 ∧ fr.2.2.w = (s.output 7).w ∧ fr.2.2.h = (s.output 7).h ∧
      ((s.releaseAt 0 4).planeOk 0 1 0 (16 * (2 - 1) + 4 * 4)).1 = false) :=
  ⟨⟨ready_of (by decide +kernel), by decide +kernel⟩, ⟨ready_of (by decide +kernel), by decide +kernel⟩,
    ready_of (by decide +kernel), clean_of (by decide +kernel), migOf_none (by decide +kernel), by decide +kernel⟩

/-- The holder of the baton, with a record of 64 rows in each buffer, and grants for both buffers. -/
def rec0 : Rec := { buf := 0, rows := 64, row0 := 0, fmt := 3 }
def rec1 : Rec := { buf := 1, rows := 64, row0 := 0, fmt := 3 }
def batoned : State :=
  let s := withRegs base [(4, 0), (5, BitVec.ofNat 32 65536)]
  let s := s.setCore 0 { s.coreAt 0 with baton := some s.cur, recs := [(0, rec0), (1, rec1)] }
  let s := s.setUnit 1 { s.unitAt 1 with mrec := 15, opCount := 4096, wbCount := 2048 }
  s.setGrp { s.grp with clause := some { theClause s with loop := some { n := 2, da := 16, db := 16 } } }
/-- Words of record 2: the last 16 rows of the operand buffer, FP8. -/
def recWords : State := withRegs batoned [(4, BitVec.ofNat 32 (16 * 65536 + 4080)), (5, BitVec.ofNat 32 (3 * 2 ^ 28))]
theorem met_MatrixInstructions :
    (let s := recWords
     let r := recOf (16 * 65536 + 4080) (3 * 2 ^ 28)
     s.ready (theClause s) [spanS 4 1, spanS 5 1] [] ∧ r.2 = true ∧ recOk r.1 = true ∧ r.1.row0 + r.1.rows = 4096 ∧
      (s.unitAt s.grp.unit).grants 2 r.1 = true ∧ overlaps (s.coreAt 0).recsAfter 2 r.1 = false ∧
      (base.unitAt 1).grants 2 r.1 = false ∧ overlaps ((s.coreAt 0).recsAfter.ins 3 r.1) 2 r.1 = true ∧
      recOk (recOf (17 * 65536 + 4080) (3 * 2 ^ 28)).1 = false) ∧
    (let s := batoned
     s.ready (theClause s) [] [] ∧ (s.unitAt s.grp.unit).mrec.getLsbD 3 = true ∧ (s.unitAt s.grp.unit).mrec.getLsbD 4 = false) ∧
    (base.ready (theClause base) [spanS 4 1, spanS 5 1] [] ∧ ¬(base.coreAt 0).baton = some base.cur) ∧
    (let s := batoned
     let c := theClause s
     let i := seen s
     s.ready c [spanS 4 1, spanS 5 1] [] ∧ (s.coreAt 0).baton = some s.cur ∧
      let ra := rec0
      let rb := rec1
      i.row 0 = some (ra, 0) ∧ i.row 65536 = some (rb, 0) ∧ ra.buf = 0 ∧ rb.buf = 1 ∧ 0 + 63 < ra.rows ∧
        ra.rows ≤ 0 + 64 ∧ (c.loop.getD {}).n = 2 ∧ pairOk ra rb = true ∧
        (∀ j < 2, ra.stepIn (0 + j * 16) = true ∧ rb.stepIn (0 + j * 16) = true) ∧ ra.stepIn 64 = false) ∧
    (let s := batoned
     let c := theClause s
     let i := seen s
     s.ready c ([spanS 4 1] ++ []) [] ∧ drainRefused 0 0 0 0 0 false = false ∧ i.heldBack true = false ∧
      (∃ s1, i.drainDst 4 0 0 0 = (.ok (.tile 0), s1)) ∧ s.grp.busy [(256, 1)] = false ∧
      (∃ q s1, i.drainDst 5 0 0 0 = (.error q, s1))) ∧
    (let s := batoned
     s.ready (theClause s) [] [spanS 4 1] ∧ s.grp.ctrFull 2 = false) ∧
    ((base.coreAt 0).baton = none ∧ (base.coreAt 0).batonQ = []) ∧
    (let s := base.setCore 0 { base.coreAt 0 with baton := some 1 }
     s.ready (theClause s) [] [] ∧ ¬(s.coreAt 0).baton = some s.cur ∧ ¬((s.coreAt 0).baton = none ∧ (s.coreAt 0).batonQ = [])) :=
  ⟨⟨ready_of (by decide +kernel), by decide +kernel⟩, ⟨ready_of (by decide +kernel), by decide +kernel⟩, ⟨ready_of (by decide +kernel), by decide +kernel⟩,
    ⟨ready_of (by decide +kernel), by decide +kernel⟩,
    ⟨ready_of (by decide +kernel), by decide +kernel, by decide +kernel, ⟨_, fst_eq (by decide +kernel)⟩, by decide +kernel, _, _, fst_eq rfl⟩,
    ⟨ready_of (by decide +kernel), by decide +kernel⟩, by decide +kernel, ready_of (by decide +kernel), by decide +kernel⟩

/-- The clause of a wave with a hash-grid configuration at its bounds in s8 to s15 and x, y, z in v4 to v6. -/
def gridRegs : State := withRegs batoned [(4, 64), (8, BitVec.ofNat 32 (10 * 65536)), (9, 0x3F800000), (10, 0x3F800000), (11, 4096), (12, 8192)]
def gridCfg : HgCfg :=
  { valid := true, levels := 1, feats := 2, log2t := 10, n0 := 0x3F800000, growth := 0x3F800000, toff := 4096, goff := 8192 }
def gridded : State := gridRegs.setGrp { gridRegs.grp with hg := gridCfg }
def treeRegs (r a : Word) : State := withRegs base [(4, r), (5, a), (6, a), (7, 0)]
theorem met_EncodingsRaysTrees :
    (let s := gridRegs
     s.ready (theClause s) [spanS 8 8] [] ∧ fp32.value 0x3F800000 = .fin false 0x800000 (-23) ∧ gridCfg.res 0 ≤ 2 ^ 20 ∧
      10 ≤ gridCfg.log2t ∧ s.tableIn 0 0 (FMap.get {} s.grp.segs 2) 4096 1024 = true ∧
      s.tableIn 0 0 (FMap.get {} s.grp.segs 2) 8192 2048 = true) ∧
    (base.ready (theClause base) [spanS 8 8] [] ∧ ¬10 ≤ nbits (base.grp.sAt 8).toNat 20 16) ∧
    (let s := gridded
     s.ready (theClause s) [spanS 20 1, (4, 3)] [] ∧ s.grp.ctrFull 4 = false ∧ (seen s).heldBack true = false ∧ s.grp.hg.valid = true ∧
      (seen s).row 0 = some (rec0, 0) ∧ rec0.fmt ≠ 2 ∧ 0 % 4 = 0 ∧
      s.rangeCause 0 (FMap.get {} s.grp.segs 1) 0 0 (256 * 1 * 2) false = none ∧
      s.ready (theClause s) [spanS 4 1, (4, 3)] []) ∧
    (let s := gridded
     let t := s.setCore 0 { s.coreAt 0 with recs := [(0, { rec0 with fmt := 2 })] }
     t.ready (theClause t) [spanS 20 1, (4, 3)] [] ∧ (seen t).heldBack true = false ∧ (seen t).row 0 = some ({ rec0 with fmt := 2 }, 0) ∧ 0 + 64 ≤ 64 ∧
      base.grp.hg.valid = false ∧ base.ready (theClause base) [spanS 20 1, (4, 3)] []) ∧
    (let s := withRegs base [(4, 0xFFFFFF80), (5, 0xFFFF), (6, BitVec.ofNat 32 (2 ^ 25 - 2048))]
     s.ready (theClause s) [spanS 4 2, spanS 6 1, (4, 8)] [] ∧ s.grp.ctrFull 5 = false ∧ (seen s).heldBack true = false ∧
      0xFFFFFF80 + 2 ^ 32 * 0xFFFF < 2 ^ 48 ∧ (0xFFFFFF80 + 2 ^ 32 * 0xFFFF) % 128 = 0 ∧ (2 ^ 25 - 2048) % 32 = 0 ∧
      s.rangeCause 0 (FMap.get {} s.grp.segs 1) 0 (2 ^ 25 - 2048) 2048 true = none) ∧
    (base.ready (theClause base) [(4, 17)] [(21, 3)] ∧ base.ready (theClause base) [(4, 14)] [(18, 2)]) ∧
    (let s := treeRegs (BitVec.ofNat 32 (15 * 256 + 63)) 4096
     s.ready (theClause s) [spanS 4 4] [spanS 9 1] ∧ s.grp.ctrFull 6 = false ∧ (seen s).heldBack true = false ∧ nbits (15 * 256 + 63) 7 6 = 0 ∧
      nbits (15 * 256 + 63) 13 8 < 4 * diesPer s.mode ∧ (seen s).sliceOperand 4096 64 64 false = none ∧
      (seen s).sliceOperand 4096 16 (16 * 255) true = none ∧ (seen s).sliceOperand 4096 32 576 true = none ∧
      ((seen s).sliceOperand (2 ^ 25) 8 8 false).isSome = true) :=
  ⟨⟨ready_of (by decide +kernel), by decide +kernel⟩, ⟨ready_of (by decide +kernel), by decide +kernel⟩,
    ⟨ready_of (by decide +kernel), by decide +kernel, by decide +kernel, by decide +kernel, by decide +kernel, by decide +kernel, by decide +kernel, by decide +kernel, ready_of (by decide +kernel)⟩,
    ⟨ready_of (by decide +kernel), by decide +kernel, by decide +kernel, by decide +kernel, by decide +kernel, ready_of (by decide +kernel)⟩, ⟨ready_of (by decide +kernel), by decide +kernel⟩,
    ⟨ready_of (by decide +kernel), ready_of (by decide +kernel)⟩, ready_of (by decide +kernel), by decide +kernel⟩

/-! ## System instructions, traps and translation -/

theorem met_SystemInstructions :
    (user.grp.priv = false ∧ user.ready (theClause user) [spanS 4 4] [] ∧ user.ready (theClause user) [] [spanS 4 2] ∧
      user.ready (theClause user) [spanS 4 2] [] ∧ user.ready (theClause user) [] [spanS 60 4, (0xCC, 7)] ∧
      user.ready (theClause user) [spanS 4 2] [spanS 9 1]) ∧
    (let s := withRegs base [(4, BitVec.ofNat 32 (2 ^ 24)), (5, 0), (6, BitVec.ofNat 32 (2 ^ 24)), (7, BitVec.ofNat 32 (2 ^ 31))]
     s.grp.priv = true ∧ s.ready (theClause s) [spanS 4 4] [] ∧ (2 ^ 24 + 2 ^ 24 ≤ 2 ^ 25 ∧ ¬2 ^ 24 + 2 ^ 24 ≤ 2 ^ 22)) ∧
    (base.ready (theClause base) [] [spanS 4 2] ∧ csrPresent base.mode 0x13 = true ∧ csrPresent base.mode 0x14 = false ∧
      csrMask 0x00 = 0) ∧
    (let s := withRegs base [(4, 0x3FFF), (5, 0x80000000)]
     s.ready (theClause s) [spanS 4 2] [] ∧ (seen s).heldBack true = false ∧ csrPresent s.mode 0x20 = true ∧
      csrMask 0x20 ≠ 0 ∧ s.csrBad 0 0x20 ((0x3FFF + 2 ^ 63) &&& csrMask 0x20) = false ∧ s.csrBad 0 0x21 65 = true ∧
      csrPresent s.mode 0x89 = true ∧ s.csrBad 0 0x89 ((0x3FFF + 2 ^ 63) &&& csrMask 0x89) = false) ∧
    (base.ready (theClause base) [spanS 4 2] [spanS 9 1] ∧ (base.devAt 0).tier = [] ∧
      (let d := base.devAt 0
       let s := base.setDev 0 { d with tier := [1] }
       s.ready (theClause s) [spanS 4 2] [spanS 9 1] ∧ (s.devAt 0).tier ≠ [])) ∧
    (base.ready (theClause base) [spanS 4 1] [] ∧ (base.grp.sAt 4).toNat = 0 ∧ base.grp.cancel = false) :=
  ⟨⟨by decide +kernel, ready_of (by decide +kernel), ready_of (by decide +kernel), ready_of (by decide +kernel), ready_of (by decide +kernel), ready_of (by decide +kernel)⟩,
    ⟨by decide +kernel, ready_of (by decide +kernel), by decide +kernel⟩, ⟨ready_of (by decide +kernel), by decide +kernel⟩,
    ⟨ready_of (by decide +kernel), by decide +kernel, by decide +kernel⟩,
    ⟨ready_of (by decide +kernel), by decide +kernel, ready_of (by decide +kernel), by decide +kernel⟩, ready_of (by decide +kernel), by decide +kernel⟩

/-- A trap vector and trap frames; the group in its handler, with a frame to return to. -/
def vectored : State := base.setCtx 0 1 { base.ctxAt 0 1 with tvec := BitVec.ofNat 64 (2 ^ 63 + 4096), tframe := BitVec.ofNat 64 (2 ^ 63 + 65536) }
def handling (resume : Nat) : State :=
  let s := puts vectored [(gloc 1 0 65536, 4, 0x13), (gloc 1 0 65544, 4, resume), (gloc 1 0 65550, 2, 0xFFFF)]
  s.setGrp { s.grp with handler := some { frame := 65536, saved := s.grp.slices } }
theorem met_TrapsAndReturns :
    (let s := vectored
     s.ready (theClause s) [] [] ∧ s.grp.ecc = none ∧ (s.unitAt 1).ending = false ∧ s.grp.cancel = false ∧
      s.grp.handler = none ∧ (s.ctxAt 0 1).tvec.getLsbD 63 = true ∧ (s.ctxAt 0 1).tframe.getLsbD 63 = true ∧
      (s.unitAt 1).slots = [s.cur] ∧ s.grp.holds = [] ∧ (s.grpOf 16).holds = [] ∧ s.parked = []) ∧
    (base.ready (theClause base) [] [] ∧ (base.ctxAt 0 1).tvec.getLsbD 63 = false) ∧
    (∀ r ∈ [2 ^ 18 - 4, 2 ^ 18, 2 ^ 18 - 2],
      let s := handling r
      s.ready (theClause s) [] [spanS 60 4, (0xCC, 7)] ∧ s.grp.priv = true ∧ (seen s).heldBack true = false ∧ (s.poison = [] ∧ s.latent = [] ∧ s.crc = []) ∧
        (∃ h, s.grp.handler = some h ∧ s.rdN (gloc 1 0 h.frame + 8) 4 = r ∧
          s.lvFrozen 0 h.frame = false ∧ (s.rdN (gloc 1 0 h.frame) 4).testBit 21 = false)) ∧
    (base.ready (theClause base) [] [spanS 60 4, (0xCC, 7)] ∧ base.grp.handler = none ∧ (seen base).heldBack true = false) ∧
    (let s := base.setCtx 0 1 { base.ctxAt 0 1 with errring := BitVec.ofNat 64 (2 ^ 63) }
     (List.replicate 64 (1 : Byte)).length = 64 ∧ s.parked = [] ∧ (s.ctxAt 0 1).errring.getLsbD 63 = true ∧
      (∀ l ∈ s.levels, s.lvAt l.1 l.2 / 8 ≠ gloc s.mode 0 0 / 8) ∧ s.tagFull (gloc s.mode 0 0) = false ∧ (s.putTag (gloc s.mode 0 0) true).tagFull (gloc s.mode 0 0) = true) := by
  refine ⟨⟨ready_of (by decide +kernel), by decide +kernel⟩, ⟨ready_of (by decide +kernel), by decide +kernel⟩, ?_, ⟨ready_of (by decide +kernel), by decide +kernel⟩, by decide +kernel⟩
  intro r h
  simp only [List.mem_cons, List.not_mem_nil, or_false] at h
  rcases h with rfl | rfl | rfl <;> exact ⟨ready_of (by decide +kernel), by decide +kernel, by decide +kernel, by decide +kernel, _, rfl, by decide +kernel⟩

/-- Page 0 of 2 MiB, in SRAM, by tables at the start of HBM; every die's log valid; one migration record to take. -/
def paged : State :=
  let h := hloc 1 0
  let s := puts base [(h 0, 8, 2 ^ 63 + 4096), (h 4096, 8, 2 ^ 63 + 8192), (h 8192, 8, 15 * 2 ^ 60 + 2 ^ 57 + 2 ^ 21)]
  let s := s.setCtx 0 1 { s.ctxAt 0 1 with migs := [3] }
  (List.range 4).foldl (fun s k => s.setDie k { s.dieAt k with logbase := BitVec.ofNat 64 (2 ^ 63 + 65536 * k) }) s
def pagedRegs : State := withRegs paged [(4, 0), (5, 0), (6, BitVec.ofNat 32 (2 ^ 22)), (7, BitVec.ofNat 32 (2 ^ 25))]
def theLeaf (s : State) : Walked := ((s.leafOf 0 0 1 0).1).getD ⟨0, 0, 0⟩
def migrating (st : Nat) : State :=
  let s := pagedRegs
  let m : Mig := { idx := 3, asid := 1, va := 0, size := 2 ^ 21, srcLoc := true, src := 2 ^ 21, dstLoc := true, dst := 2 ^ 22
                   dstKey := 0, srcKey := 0, st := st }
  let d := s.devAt 0
  s.setDev 0 { d with migs := [m] }
theorem met_TranslationInstructions :
    (user.grp.priv = false ∧ user.ready (theClause user) [] [] ∧ user.ready (theClause user) [spanS 4 2, spanS 6 1] [] ∧
      user.ready (theClause user) [spanS 4 2, spanS 6 2] [(0x89, 1)]) ∧
    (let s := pagedRegs
     s.grp.priv = true ∧ s.ready (theClause s) [spanS 4 2, spanS 8 1] [] ∧ (seen s).heldBack true = false ∧
      (∀ k ∈ diesOfDev s.mode 0, (s.dieAt k).logbase.getLsbD 63 = true) ∧ s.ready (theClause s) [] [] ∧ s.stalled = [] ∧
      s.parked = [] ∧ s.colls = [] ∧ (s.coreAt 0).mq = [] ∧ (s.coreAt 0).addons = []) ∧
    (base.grp.priv = true ∧ 0 ∈ diesOfDev base.mode 0 ∧ (base.dieAt 0).logbase.getLsbD 63 = false) ∧
    (let s := pagedRegs
     let w := theLeaf s
     s.ready (theClause s) [spanS 4 2, spanS 6 2] [(0x89, 1)] ∧ (seen s).heldBack true = false ∧ (s.leafOf 0 0 1 0).1 = some w ∧ w.lv = 3 ∧ pteMig w.e = 0 ∧
      (s.devAt 0).migs = [] ∧ 3 ∈ (s.ctxAt 0 1).migs ∧ w.place < 2 ^ 48 ∧ pteAddr w.e = 2 ^ 21 ∧ pteLoc w.e = true ∧
      pteLoc (2 ^ 57 + 2 ^ 22) = true ∧ (2 ^ 57 + 2 ^ 22 : Nat) = 2 ^ 57 + pteKey (2 ^ 57 + 2 ^ 22) * 2 ^ 49 + pteAddr (2 ^ 57 + 2 ^ 22) ∧
      s.guardedRange (gloc 1 0 (2 ^ 22)) (2 ^ 21) = false) ∧
    (∀ st ∈ [0, 1, 2],
      let s := migrating st
      s.ready (theClause s) [spanS 4 2] [(0x89, 1)] ∧ (seen s).heldBack true = false ∧ ((s.devAt 0).migAt 1 0).isSome = true ∧
        (s.leafOf 0 0 1 0).1 = some (theLeaf s) ∧
        framePlace s.mode 0 (pteLoc (theLeaf s).e) (pteAddr (theLeaf s).e) = 2 ^ 21 ∧ framePlace s.mode 0 true (2 ^ 22) = 2 ^ 22) ∧
    (let s := withRegs base [(4, BitVec.ofNat 32 (globalSize 1 - 8192)), (5, 20)]
     s.ready (theClause s) [spanS 4 1, spanS 5 1] [] ∧ (seen s).heldBack true = false ∧ 2 * diesPer s.mode = 8 ∧ nbits 20 30 5 = 0 ∧
      s.guardedRange (gloc s.mode 0 (globalSize 1 - 8192)) 8192 = false) := by
  refine ⟨⟨by decide +kernel, ready_of (by decide +kernel), ready_of (by decide +kernel), ready_of (by decide +kernel)⟩,
    ⟨by decide +kernel, ready_of (by decide +kernel), by decide +kernel, by decide +kernel, ready_of (by decide +kernel), by decide +kernel⟩, by decide +kernel,
    ⟨ready_of (by decide +kernel), by decide +kernel⟩, ?_, ready_of (by decide +kernel), by decide +kernel⟩
  intro r h
  simp only [List.mem_cons, List.not_mem_nil, or_false] at h
  rcases h with rfl | rfl | rfl <;> exact ⟨ready_of (by decide +kernel), by decide +kernel⟩

/-- Logs that lie apart, with nothing under way; a record that an older access of the group holds back; the entry of a page
whose migration ends. -/
theorem met_TranslationInstructions_logs :
    (let s := pagedRegs
     (s.dieAt 0).logbase.getLsbD 63 = true ∧ (s.dieAt 0).gen < 2 ^ 32 ∧ (s.devAt 0).invSeq < 2 ^ 32 ∧ dieOfCore 0 = 0 ∧
      s.clean ∧ s.owed = [] ∧ (∀ a, s.migOf a = none) ∧
      (∀ j ∈ diesOfDev s.mode 0, ∀ k ∈ diesOfDev s.mode 0, j ≠ k → s.logSlot j 1 + 16 ≤ s.logSlot k 1 ∨ s.logSlot k 1 + 16 ≤ s.logSlot j 1) ∧
      ∀ k ∈ diesOfDev s.mode 0, devOfDie s.mode k = 0) ∧
    (let s := owing pagedRegs .load
     s.ready (theClause s) [] [] ∧ ∃ o ∈ s.stalled, s.devOfCore o.core = 0 ∧ o.agent = s.cur) ∧
    (let s := migrating 2
     let m : Option Mig := (s.devAt 0).migAt 1 0
     let w := theLeaf s
     (m.map fun m => m.dstKey) = some 0 ∧ (m.map fun m => m.dst) = some (framePlace s.mode 0 true (2 ^ 22)) ∧
      (m.map fun m => (((seen s).s.leafOf 0 0 1 m.va).2.pageEntry 0 0 m).map fun w => (w.place, w.e)) = some (some (w.place, w.e)) ∧
      (seen s).walkHeld 0 = false ∧ w.place < 2 ^ 48 ∧ w.place % 8 = 0 ∧ s.migOf w.place = none ∧ w.e < 2 ^ 64 ∧
      (∀ k ∈ diesOfDev s.mode 0, ∀ j < 16, s.migOf (s.logSlot k (((s.devAt 0).invSeq + 1) % 2 ^ 32) + j) = none) ∧
      2 ^ 22 % 256 = 0) :=
  ⟨⟨by decide +kernel, by decide +kernel, by decide +kernel, by decide +kernel, clean_of (by decide +kernel), by decide +kernel,
      migOf_none (by decide +kernel), by decide +kernel⟩, ⟨ready_of (by decide +kernel), by decide +kernel⟩, by decide +kernel⟩

/-! ## Events -/

/-- The machine with this event in hand. -/
def heard (s : State) (m : Msg) : State := { s with msg := m }
def copyCmd : CopyCmd :=
  { cmdOf (copying 64) 0 with tok := 9 }
/-- A command of the core; its agent is the group. -/
def copyRunning (k : CopyCmd) : State :=
  let s := copying 64
  s.setCore 0 { s.coreAt 0 with copies := [k] }
theorem met_CopyEvents :
    (∀ w ∈ [0, 1, 2, 3, 4, 2 ^ 32 - 1], w < 2 ^ 32) ∧
    ((fp32.value 0x3F800000).isFin = true ∧ (fp16.value 0x3C00).isFin = true) ∧
    ((copying 64).clean ∧ (∀ p, (copying 64).migOf p = none) ∧ copyCmd.d.ss ≤ 1 ∧ copyCmd.d.ds ≤ 1 ∧
      (copying 64).sidePlace copyCmd copyCmd.d.ds [] (copyCmd.unitAddr 0).2 + 32 ≤ 2 ^ 33 ∧ copyCmd.form < 8 ∧
      (copyCmd.idx.getD (0, 0, false)).2.2 = false) ∧
    (copyCmd.cseg = none ∧ (copying 64).parked = [] ∧ copyCmd.desc + 64 ≤ 2 ^ 33 ∧
      (let s := copying 64
       let x := s.ctxAt 0 1
       let slot := gloc s.mode 0 (x.cfring.toNat % 2 ^ 33 + 16 * (x.cfCount % 256))
       copyCmd.desc + 64 ≤ slot ∨ slot + 16 ≤ copyCmd.desc + 48)) ∧
    (let s := heard (copyRunning copyCmd) (.copyRun 0 0)
     s.msg = .copyRun 0 0 ∧ coreOf copyCmd.agent = 0 ∧
      (s.coreAt 0).copies.find? (fun q => decide (q.slot = 0)) = some copyCmd ∧ copyCmd.status = 1 ∧
      0 < copyCmd.d.units copyCmd.form - copyCmd.next ∧ s.clean ∧ s.lazy = 0 ∧ copyCmd.run = none ∧
      s.frozen copyCmd.desc = false ∧ ∀ p, s.migOf p = none) ∧
    -- copies of main space, whose pages do not stall: from a page without an entry, and into one
    (let s := paged
     s.sideStalls copyCmd 0 4 = false ∧ (s.translate 0 0 0 1 (2 ^ 40) false true).1.toOption = none ∧
      s.sideStalls copyCmd (2 ^ 40) 4 = false) ∧
    (let k := { copyCmd with status := 2 }
     let s := heard (copyRunning k) (.cpyctlResume 0 1 0)
     s.msg = .cpyctlResume 0 1 0 ∧ s.pendingCopy 0 1 0 = some k) ∧
    (let k := { copyCmd with cseg := some 5, va := 0 }
     let s := paged.setCore 0 { paged.coreAt 0 with copies := [k], segs := [(5, { st := 1, va := 0 })] }
     let s := heard s (.codeSegmentLoaded 0 5)
     s.msg = .codeSegmentLoaded 0 5 ∧ ((s.coreAt 0).seg 5).st = 1 ∧
      (s.coreAt 0).copies.find? (fun k => decide (k.cseg = some 5 ∧ k.status = 1)) = some k ∧
      s.walkStalls (dieOfCore 0) k.dev k.asid k.va = false ∧
      (∃ p, ((s.translate 0 0 0 1 0 false true).1.toOption = some p)) ∧
      (let t := heard s (.codeSegmentLoaded 0 6)
       ((t.coreAt 0).seg 6).st ≠ 1)) :=
  ⟨by decide +kernel, by decide +kernel, ⟨clean_of (by decide +kernel), migOf_none (by decide +kernel), by decide +kernel⟩, by decide +kernel,
    ⟨by decide +kernel, by decide +kernel, by decide +kernel, by decide +kernel, by decide +kernel, clean_of (by decide +kernel),
      by decide +kernel, by decide +kernel, by decide +kernel, migOf_none (by decide +kernel)⟩, by decide +kernel,
    by decide +kernel, by decide +kernel, by decide +kernel, by decide +kernel, by decide +kernel, ⟨_, rfl⟩, by decide +kernel⟩

/-- Descriptors that no level object meets; an indexed copy that reads its row and whose unit leaves its segment; a pending
command; a segment whose page is frozen, and one that the walk does not reach. -/
theorem met_CopyEvents_more :
    ((copying 64).levels = [] ∧ copyCmd.desc + 64 ≤ 2 ^ 33) ∧
    (∀ f ∈ [3, 4],
      let k : CopyCmd := { copyCmd with form := f, sslice := {} }
      let s := heard (copyRunning k) (.copyRun 0 0)
      let r := s.readIdx k k.next
      s.msg = .copyRun 0 0 ∧ coreOf k.agent = 0 ∧ ((s.coreAt 0).copies.find? fun q => decide (q.slot = 0)) = some k ∧
        k.status = 1 ∧ k.cseg = none ∧ s.clean ∧ s.lazy = 0 ∧ k.run = none ∧ s.frozen k.desc = false ∧
        k.idx.map Prod.fst ≠ some (k.d.at k.form k.next).2.1 ∧
        (f = 3 → r.2.rangeCause k.dev (k.segOf k.d.ss) k.d.ss (r.1.unitAddr k.next).1 4 false ≠ none) ∧
        (f = 4 → r.2.rangeCause k.dev (k.segOf k.d.ds) k.d.ds (r.1.unitAddr k.next).2 4 true ≠ none) ∧
        ∀ p, s.migOf p = none) ∧
    (let k : CopyCmd := { copyCmd with cseg := some 5, va := 0 }
     let at' (s : State) : State :=
       heard (s.setCore 0 { s.coreAt 0 with copies := [k], segs := [(5, { st := 1, va := 0 })] }) (.codeSegmentLoaded 0 5)
     (at' base).walkStalls (dieOfCore 0) 0 1 0 = false ∧ k.preload = false ∧
      ((at' base).translate 0 0 0 1 0 false true).1.toOption = none ∧
      (∀ q ∈ ((at' base).coreAt 0).copies, ¬(q.cseg = some 5 ∧ q.status = 2)) ∧
      (at' (migrating 2)).walkStalls (dieOfCore 0) 0 1 0 = false ∧
      ∃ p, ((at' (migrating 2)).translate 0 0 0 1 0 false true).1.toOption = some p ∧
        ((at' (migrating 2)).translate 0 0 0 1 0 false true).2.frozen (p.place 1 0 0) = true) := by
  refine ⟨by decide +kernel, ?_, by decide +kernel, by decide +kernel, by decide +kernel, by decide +kernel, by decide +kernel,
    _, rfl, by decide +kernel⟩
  intro f h
  simp only [List.mem_cons, List.not_mem_nil, or_false] at h
  rcases h with rfl | rfl <;>
    exact ⟨rfl, by decide +kernel, by decide +kernel, by decide +kernel, by decide +kernel, clean_of (by decide +kernel), by decide +kernel,
      by decide +kernel, by decide +kernel, by decide +kernel, by decide +kernel, by decide +kernel, migOf_none (by decide +kernel)⟩

/-- One entry at the head of the core's queue. -/
def queuedCmd (cmd : MCmd) (m : Msg) : State :=
  let e : MEntry := { agent := 0, unit := 1, batch := 0, cmd := cmd, tok := 9 }
  heard (batoned.setCore 0 { batoned.coreAt 0 with mq := [e] }) m
theorem met_MatrixEvents :
    (∀ p ∈ [fp32.value 0x3F800000, fp32.value 0xBF800000], p.isFin = true) ∧
    ((fp32.value 0x3F800000) = .fin false 0x800000 (-23) ∧ 0x800000 ≠ 0) ∧
    (∀ cmd ∈ [MCmd.mres 2 (some rec0), .mres 2 none, .mwld 0 0 64, .mzero 3, .close, .mma 3 rec0 rec1 0 0 2 16 16 true,
        .mdrn 3 (.tile 2) 6 false false false 9, .mdrn 3 (.opb rec0 0 15) 3 false false false 9,
        .mdrn 3 (.mem (List.replicate 256 64) []) 0 false false false 9],
      let s := queuedCmd cmd (.matrixCommandEffect 0)
      s.msg = .matrixCommandEffect 0 ∧ (∃ e, (s.coreAt 0).mq = [e] ∧ e.cmd = cmd ∧ (s.grpOf e.agent).unit = e.unit) ∧
        (s.coreAt 0).opbPoison = [] ∧ (s.coreAt 0).accPoison = [] ∧ (s.coreAt 0).soft = [] ∧ ∀ p, s.migOf p = none) ∧
    ((16 * 15 + 16) * (rec0.width / 8) ≤ 256 ∧ 8 ≤ rec0.width ∧ (List.replicate 256 64).length = 256) ∧
    (let s := queuedCmd (.mma 3 rec0 rec1 0 0 2 16 16 true) (.mmaKStep 0)
     s.msg = .mmaKStep 0 ∧ (s.coreAt 0).mq ≠ [] ∧ (s.coreAt 0).soft = []) ∧
    (let o : AddOn := { agent := 0, unit := 1, core := 0, batch := 0, cvt := 0, sr := false, sat := false, tile := none
                        elems := [(64, 0, 0, false), (68, 0, 0, false)], tok := 9, gen := 0 }
     let s := heard (base.setCore 0 { base.coreAt 0 with addons := [o] }) (.addOnStoreUpdate 0)
     s.msg = .addOnStoreUpdate 0 ∧ (s.cores.flatMap fun p => p.2.addons)[0]? = some o ∧ s.decls = [] ∧
      (∀ e ∈ o.elems, e.1 + 4 ≤ 2 ^ 33) ∧ (∀ e ∈ o.elems, s.frozen e.1 = false)) ∧
    (∀ l ∈ [[], [(0, false)]],
      let b : Batch := { agent := 0, unit := 1, number := 0, effected := true, tok := 9 }
      let s := base.setCore 0 { base.coreAt 0 with batches := [b] }
      let s := heard (s.setGrp { s.grp with nf := l }) (.matrixBatchComplete 0 0)
      s.msg = .matrixBatchComplete 0 0 ∧ ((s.coreAt 0).batches.find? fun b => decide (slotOf b.agent = 0)) = some b ∧
        ((s.coreAt 0).batches.find? fun d => decide (d.agent = b.agent)) = some b ∧ (s.grpOf b.agent).unit = b.unit ∧
        ((s.grpOf b.agent).nf.find? fun p => decide (p.1 = b.number)) = l.head? ∧
        (s.coreAt 0).addons = [] ∧ (s.coreAt 0).tileDrains = [] ∧ s.stalled = []) := by
  refine ⟨by decide +kernel, by decide +kernel, ?_, by decide +kernel, by decide +kernel, by decide +kernel, by decide +kernel⟩
  intro cmd h
  simp only [List.mem_cons, List.not_mem_nil, or_false] at h
  rcases h with rfl | rfl | rfl | rfl | rfl | rfl | rfl | rfl | rfl <;>
    exact ⟨rfl, ⟨_, rfl, rfl, by decide +kernel⟩, rfl, rfl, rfl, migOf_none (by decide +kernel)⟩

theorem real_one : (fp32.value 0x3F800000).real = 1 ∧ (fp32.value 0xBF800000).real = -1 := by
  have h : fp32.value 0x3F800000 = .fin false 0x800000 (-23) ∧ fp32.value 0xBF800000 = .fin true 0x800000 (-23) := by decide +kernel
  rw [h.1, h.2]
  norm_num [FpNum.real]
/-- Lines from row 0 of the operand buffer and the rows that mxq derives from them, each with its rows of scales. -/
def mxRec (row0 : Nat) : Rec := { buf := 0, rows := 264, row0 := row0, fmt := 3, mx := true, scoff := 256 }
def drainMem (add : Bool) : State :=
  queuedCmd (.mdrn 3 (.mem ((List.range 256).map fun k => 64 + 4 * k) []) 6 add false false 9) (.matrixCommandEffect 0)
theorem met_MatrixEvents_more :
    -- magnitudes with a largest one, blocks of numbers that are not finite or all zero
    ((∀ p ∈ [fp32.value 0x3F800000, fp32.value 0xBF800000], p.isFin = true ∧ |p.real| = 1) ∧
      (fp32.value 0x7F800000).isFin = false ∧ (fp32.value 0).real = 0) ∧
    -- a compressed element: at its second index, at its first, and at none
    (let c : Core := { opb := [(16 * 128, 4)] }
     let index (m : Nat) : Nat := (FMap.get 0 c.opb (16 * 128 + m / 4)).toNat / 4 ^ (m % 4) % 4
     index 0 = 0 ∧ index 1 = 1 ∧ index 2 = 0 ∧ index 3 = 0) ∧
    -- mxq
    ((∀ r ∈ [mxRec 0, mxRec 264], r.buf = 0 ∧ r.lay = false ∧ r.mx = true ∧ r.cmp = false ∧ r.exp = false ∧ 3 ≤ r.fmt ∧ r.fmt ≤ 7) ∧
      (mxRec 0).depth = 256 ∧ (mxRec 264).depth / 32 = 8 ∧
      256 * 264 + 256 * 256 ≤ 256 * (264 + 256) ∧ 256 * 32 ≤ 256 * 264 ∧ 256 * 256 + 256 ≤ 256 * 264) ∧
    -- the saved accumulators of a restored holder; a drain to places that lie apart
    (let s := queuedCmd (.restore [] [3]) (.matrixCommandEffect 0)
     s.msg = .matrixCommandEffect 0 ∧ (s.coreAt 0).mq ≠ [] ∧ (s.coreAt 0).soft = []) ∧
    (∀ add, (drainMem add).msg = .matrixCommandEffect 0 ∧ ((drainMem add).coreAt 0).mq ≠ [] ∧ ((drainMem add).coreAt 0).soft = [] ∧
      ((drainMem add).coreAt 0).accPoison = [] ∧ ∀ p, (drainMem add).migOf p = none) ∧
    (let as := (List.range 256).map fun k => 64 + 4 * k
     as.length = 256 ∧ (∀ a ∈ as, a + 4 ≤ 2 ^ 33) ∧
      ∀ i < 256, ∀ j < 256, i ≠ j → as.getD i 0 + 4 ≤ as.getD j 0 ∨ as.getD j 0 + 4 ≤ as.getD i 0) ∧
    -- an add-on-store to a frozen page; finite terms of one
    (let s := migrating 2
     s.frozen (2 ^ 21) = true ∧ (fp32.value 0x3F800000).isFin = true) := by
  have h0 : fp32.value 0 = .fin false 0 (-149) := by decide +kernel
  refine ⟨⟨?_, by decide +kernel, by simp [h0, FpNum.real]⟩, by decide +kernel, by decide +kernel, by decide +kernel, ?_, ?_, by decide +kernel⟩
  · simp only [List.mem_cons, List.not_mem_nil, or_false, forall_eq_or_imp, forall_eq, real_one]
    exact ⟨⟨by decide +kernel, by norm_num⟩, by decide +kernel, by norm_num⟩
  · intro b
    cases b <;> exact ⟨rfl, by decide +kernel, by decide +kernel, by decide +kernel, migOf_none (by decide +kernel)⟩
  · refine ⟨by decide +kernel, by decide +kernel, ?_⟩
    intro i hi j hj h
    simp [List.getD_eq_getElem?_getD, hi, hj]
    omega

/-- A collective of the group with its result. -/
def collDone (ws : List Word) (buf : List Nat) : State :=
  heard { grouped with colls := [{ otherAred with agent := 0, unit := 1, rank := 0, buf := buf, result := some (0, ws)
                                                  form := if buf = [] then 0 else 6 }] } (.collectiveComplete 0 5 0)
def hgOp (grad : Bool) : HgOp :=
  { agent := 0, unit := 1, grad := grad, cfg := gridCfg, exec := 1, xs := List.replicate 64 (0, 0, 0)
    adds := if grad then [(64, 0, 128)] else [], tok := 9 }
def rayOp : RayOp :=
  { agent := 0, unit := 1, occl := false, dev := 0, asid := 1, exec := 1, root := 0
    rays := List.replicate 64 (List.replicate 8 0), out := 4096, tok := 9 }
def treeOp (res : Option (List (Nat × List Byte) × Nat)) : TreeOp :=
  { agent := 0, unit := 1, dev := 0, asid := 1, form := 7, ref := 0, a := 0, b := 0, z := 0, place := 0, result := res, tok := 9 }
theorem met_EngineEvents :
    (∀ p ∈ [([1], []), (List.replicate 16 1, [64])],
      let s := collDone p.1 p.2
      s.msg = .collectiveComplete 0 5 0 ∧ s.parked = [] ∧ (∀ q, s.migOf q = none) ∧
        (∃ c, s.colls = [c] ∧ c.result = some (0, p.1) ∧ (s.grpOf c.agent).unit = c.unit ∧ c.buf = p.2 ∧
          ((s.colls.find? fun d => decide (d.agent = c.agent ∧ d.unit = c.unit)).map fun d => d.tok) = some c.tok) ∧
        (∀ q ∈ p.2, s.frozen q = false ∧ q + 64 ≤ 2 ^ 33 ∧ q % 64 = 0) ∧ (p.2 ≠ [] → p.1.length = 16 * p.2.length)) ∧
    (let r (rank : Nat) : CollOp := { otherAred with form := 7, agent := 17 * rank, unit := rank + 1, rank := rank, tok := rank }
     let s := heard { grouped with colls := [r 0, r 1] } (.collRsetEffect 0 5)
     s.msg = .collRsetEffect 0 5 ∧ (∀ c ∈ s.colls, c.behindRset s.colls = false) ∧
      (∃ o, s.gobj 0 5 = some o ∧ o.m * o.p ≤ ((((s.collsOf 0 5).filter fun c => decide (c.form = 7 ∧ c.result = none)).map
        fun c => (c.rank, c.k)).eraseDups).length) ∧ (s.colls.map fun c => c.tok).Nodup ∧ s.gobj 0 6 = none) ∧
    -- one that waits at an object with an uncorrectable error
    (let o : GObj := { (grouped.gobj 0 5).getD {} with poisoned := true }
     let s := heard { grouped.setGobj 0 5 o with colls := [otherAred] } (.collectiveComplete 0 5 0)
     s.gobjBad 0 5 = true ∧ otherAred.result = none ∧ otherAred.buf = [] ∧ s.colls = [otherAred]) ∧
    (7 < 8 ∧ 0 < 2 ^ 20) ∧
    (let s := heard (base.setCore 0 { base.coreAt 0 with hg := [hgOp false] }) (.hgEncComplete 0 0)
     s.msg = .hgEncComplete 0 0 ∧ (s.coreAt 0).hg[0]? = some (hgOp false) ∧ s.clean ∧ s.lazy = 0 ∧ (hgOp false).xs.length = 64 ∧
      (hgOp false).cfg.levels ≤ 16 ∧ (hgOp false).cfg.feats ≤ 4 ∧ ∀ p, s.migOf p = none) ∧
    (let s := heard (base.setCore 0 { base.coreAt 0 with hg := [hgOp true] }) (.hgGradAdd 0 0)
     s.msg = .hgGradAdd 0 0 ∧ (s.coreAt 0).hg[0]? = some (hgOp true) ∧ (hgOp true).adds ≠ [] ∧ s.clean ∧
      (∀ a ∈ (hgOp true).adds, a.1 + 4 ≤ 2 ^ 33) ∧ ∀ p, s.migOf p = none) ∧
    (rayOf (List.replicate 8 0)).invalid = true ∧
    (let s := heard (base.setCore 0 { base.coreAt 0 with rays := [rayOp] }) (.rayComplete 0 0)
     s.msg = .rayComplete 0 0 ∧ (s.coreAt 0).rays[0]? = some rayOp ∧ rayOp.ready s = [0] ∧ rayOp.left = [0] ∧
      (rayOp.run s (rayOp.rays.getD 0 [])).1.waits = false ∧ rayOp.out + 2048 ≤ 2 ^ 33 ∧
      { rayOp with done := [0] }.left = []) ∧
    (∀ r ∈ [none, some ([], 3), some ([(4096, List.replicate 32 1)], 0)],
      let s := heard (base.setCore 0 { base.coreAt 0 with trees := [treeOp r] }) (.treeOperationComplete 0 0)
      s.msg = .treeOperationComplete 0 0 ∧ (s.coreAt 0).trees[0]? = some (treeOp r) ∧ s.clean ∧
        (treeOp r).result = r ∧ 0 ∉ (s.ctxAt 0 1).trees ∧ (treeOp r).stalls s = false ∧
        (treeOp r).place + (treeOp r).operandLen ≤ 2 ^ 33 ∧ ∀ p, s.migOf p = none) := by
  refine ⟨?_, by decide +kernel, by decide +kernel, by decide +kernel,
    ⟨by decide +kernel, by decide +kernel, clean_of (by decide +kernel), by decide +kernel, by decide +kernel, by decide +kernel,
      by decide +kernel, migOf_none (by decide +kernel)⟩,
    ⟨by decide +kernel, by decide +kernel, by decide +kernel, clean_of (by decide +kernel), by decide +kernel, migOf_none (by decide +kernel)⟩,
    by decide +kernel, by decide +kernel, ?_⟩
  · intro p h
    simp only [List.mem_cons, List.not_mem_nil, or_false] at h
    rcases h with rfl | rfl <;> exact ⟨rfl, rfl, migOf_none rfl, ⟨_, rfl, rfl, rfl, rfl, rfl⟩, by decide +kernel, by decide +kernel⟩
  · intro r h
    simp only [List.mem_cons, List.not_mem_nil, or_false] at h
    rcases h with rfl | rfl | rfl <;>
      exact ⟨rfl, rfl, ⟨rfl, rfl, rfl⟩, rfl, by decide +kernel, by decide +kernel, by decide +kernel, migOf_none rfl⟩

def ray1 : RayV := rayOf [0, 0, 0xBF800000, 0, 0, 0x3F800000, 0, 0x42C80000]
def corner (x y z : Word) : Vec3 := vecOf [x, y, z] 0
/-- The three edge values of a triangle. -/
def edges (q : Shear) : List FpNum := [q.u, q.v, q.w]
theorem real_nonpos (m : Nat) (e : ℤ) : (FpNum.fin true m e).real ≤ 0 := by
  have : (0 : ℚ) ≤ (m : ℚ) * 2 ^ e := by positivity
  simp only [FpNum.real, if_true]; linarith
theorem real_pos {m : Nat} (h : 0 < m) (e : ℤ) : 0 < (FpNum.fin false m e).real := by
  have : (0 : ℚ) < m := by exact_mod_cast h
  simp only [FpNum.real, Bool.false_eq_true, if_false, one_mul]; positivity
theorem met_RaysByTheirRules :
    -- a box around the way of the ray, an axis along it and one across
    ((axes ray1.o ++ axes ray1.d).all FpNum.isFin = true ∧ (Vec3.get ray1.d 0).real = 0 ∧ (Vec3.get ray1.d 2).real ≠ 0 ∧
      (ray1.box (corner 0xBF800000 0xBF800000 0) (corner 0x3F800000 0x3F800000 0x3F800000) ray1.t1).isSome = true) ∧
    -- the axis of the largest magnitude; a triangle hit within, one hit on an edge, one missed
    ((∀ a < 3, (Vec3.get ray1.d a).isFin = true ∧ |(Vec3.get ray1.d a).real| ≤ |(Vec3.get ray1.d 2).real| ∧
        (a < 2 → |(Vec3.get ray1.d a).real| < |(Vec3.get ray1.d 2).real|)) ∧ ¬(Vec3.get ray1.d 2).real < 0) ∧
    (let q := fp32.shear ray1 (corner 0xBF800000 0xBF800000 0) (corner 0x40000000 0xBF800000 0) (corner 0 0x40000000 0) 0 1 2
     (∀ x ∈ [q.ax, q.ay, q.az, q.bx, q.by', q.bz, q.cx, q.cy, q.cz, q.u, q.v, q.w], x.isFin = true) ∧
      (q.u.isZero || q.v.isZero || q.w.isZero) = false ∧ ∀ e ∈ edges q, e.real ≤ 0) ∧
    (let q := fp64.shear ray1 (corner 0 0 0) (corner 0x3F800000 0 0) (corner 0 0x3F800000 0) 0 1 2
     (∀ x ∈ [q.ax, q.ay, q.az, q.bx, q.by', q.bz, q.cx, q.cy, q.cz, q.u, q.v, q.w], x.isFin = true)) ∧
    (let q := fp32.shear ray1 (corner 0x3F800000 0x3F800000 0) (corner 0x40000000 0x3F800000 0) (corner 0x3F800000 0x40000000 0) 0 1 2
     ¬((∀ e ∈ edges q, 0 ≤ e.real) ∨ ∀ e ∈ edges q, e.real ≤ 0)) := by
  have d0 : Vec3.get ray1.d 0 = .fin false 0 (-149) := by decide +kernel
  have d1 : Vec3.get ray1.d 1 = .fin false 0 (-149) := by decide +kernel
  have d2 : Vec3.get ray1.d 2 = .fin false 8388608 (-23) := by decide +kernel
  refine ⟨⟨by decide +kernel, by rw [d0]; norm_num [FpNum.real], by rw [d2]; norm_num [FpNum.real], by decide +kernel⟩,
    ⟨?_, by rw [d2]; norm_num [FpNum.real]⟩, ⟨by decide +kernel, by decide +kernel, ?_⟩, by decide +kernel, ?_⟩
  · intro a h
    interval_cases a <;> simp only [d0, d1, d2] <;> norm_num [FpNum.real, FpNum.isFin]
  · have e : edges (fp32.shear ray1 (corner 0xBF800000 0xBF800000 0) (corner 0x40000000 0xBF800000 0) (corner 0 0x40000000 0) 0 1 2) =
        [.fin true 8388608 (-21), .fin true 8388608 (-22), .fin true 12582912 (-22)] := by decide +kernel
    rw [e]
    simp only [List.mem_cons, List.not_mem_nil, or_false]
    rintro x (rfl | rfl | rfl) <;> exact real_nonpos _ _
  · have e : edges (fp32.shear ray1 (corner 0x3F800000 0x3F800000 0) (corner 0x40000000 0x3F800000 0)
        (corner 0x3F800000 0x40000000 0) 0 1 2) =
        [.fin true 12582912 (-22), .fin false 8388608 (-23), .fin false 8388608 (-23)] := by decide +kernel
    simp only [e, List.mem_cons, List.not_mem_nil, or_false, forall_eq_or_imp, forall_eq]
    norm_num [FpNum.real]

/-- A walk with this reference pending at a depth, its box entered at 1, and the best hit at 1. -/
def walking (ref level : Nat) (boxes : Nat) : Walk :=
  { stack := [{ ref := ref, tn := fp32.value 0x3F800000, level := level }], tbest := fp32.value 0x3F800000
    best := some (0x3F800000, 5, 0, 0), boxes := boxes }
def valueOf : RayRead → Option Nat
  | .ok v => some v
  | _ => none
theorem read_of {p : RayRead × State} {v : Nat} (h : valueOf p.1 = some v) : ∃ v s1, p = (.ok v, s1) := by
  obtain ⟨r, s1⟩ := p
  cases r <;> simp [valueOf] at h ⊢
theorem met_RayTraversal :
    -- a reference of each kind that goes on, one that is malformed in each way, one too deep, one behind the best hit
    (∀ x ∈ [(2 ^ 62 + 128, 32), (2 ^ 63 + 63 * 2 ^ 56 + 16, 33), (2 ^ 62 + 2 ^ 63, 0), (2 ^ 62 + 64, 0), (2 ^ 62 + 2 ^ 56, 0),
        (2 ^ 63 + 8, 0), (2 ^ 62, 33)],
      let w := walking x.1 x.2 65535
      w.ended = none ∧ w.waits = false ∧ w.boxes < 65536 ∧ 65536 ≤ (walking 0 0 65536).boxes ∧
        w.stack.length = 1 ∧ (w.stack.all fun p => !p.root && !w.tbest.lt p.tn) = true) ∧
    ((fp32.value 0x3F000000).lt (fp32.value 0x3F800000) = true ∧ (fp32.value 0x3F800000).isNan = false) ∧
    ((walking 0 0 0).beats (fp32.value 0) 0x3F800000 4 = true ∧ (walking 0 0 0).beats (fp32.value 0) 0x3F800000 6 = false) ∧
    -- the pieces of a triangle and of a box are read; the origin of the box of zeros is finite
    ((∃ v s1, rayOp.chunks paged 0 3 = (.ok v, s1)) ∧ (∃ v s1, rayOp.chunks paged 0 8 = (.ok v, s1)) ∧
      ∀ a < 3, (fp32.value (0 / 2 ^ (32 * a) % 2 ^ 32)).isFin = true) :=
  ⟨by decide +kernel, by decide +kernel, by decide +kernel,
    read_of (v := 0) (by decide +kernel), read_of (v := 0) (by decide +kernel), by decide +kernel⟩

/-- Words of memory, from a place on. -/
def words (a : Nat) (l : List Nat) : List (Nat × Nat × Nat) := l.zipIdx.map fun p => (a + 4 * p.2, 4, p.1)
/-- A node of the tree of slot 0: parent, first, CNT, ST, VL. -/
def node (i : Nat) (parent first cnt st vl : Nat) : List (Nat × Nat × Nat) :=
  words (boraSlice 1 0 0 * 2 ^ 25 + 0x1000 + 32 * i) [parent, first, cnt + 256 * st + 65536 * vl, 0, 0, 0x3F800000, i]
/-- A tree in slot 0, which the context owns: node 0 has children 1 (handed out) and 2, which has children 3 and 4; node 5 has
none; the free runs are 6, and 7 to 10. -/
def grown (free cap opened vl : Nat) : State :=
  let b := boraSlice 1 0 0 * 2 ^ 25
  let s := puts base (words b [0x1000, cap, 11, free, 0, 0x3F800000, 3, 0x3F800000, 0, 256 + 4, 0, opened, 1] ++
    node 0 0xFFFFFFFF 1 2 2 vl ++ node 1 0 0xFFFFFFFF 0 1 vl ++ node 2 0 3 2 2 0 ++ node 3 2 0xFFFFFFFF 0 0 0 ++
    node 4 2 0xFFFFFFFF 0 0 0 ++ node 5 0 0xFFFFFFFF 0 3 0 ++ node 6 7 1 0 7 0 ++ node 7 0xFFFFFFFF 4 0 7 0)
  { s.setCtx 0 1 { s.ctxAt 0 1 with trees := [0] } with vis := [] }
def slot0 : TreeAt := { slice := boraSlice 1 0 0 * 2 ^ 25, slot := 0 }
def onTree (form a z : Nat) : TreeOp :=
  { agent := 0, unit := 1, dev := 0, asid := 1, form := form, ref := 0, a := a, b := 0x3F800000, z := z, place := 4096, result := none, tok := 9 }
/-- Node 1 and the way to the root. -/
def toRoot (i : Nat) : Nat := if i = 0 then 1 else 0
/-- No error, no write under way and no migration record, in a form that can be decided. -/
def calm (s : State) : Bool :=
  decide (s.poison = [] ∧ s.latent = [] ∧ s.crc = [] ∧ s.vis = []) && s.devs.all fun p => p.2.migs.isEmpty
theorem still_of {s : State} (h : calm s = true) : s.still := by
  simp only [calm, Bool.and_eq_true, decide_eq_true_eq] at h
  exact ⟨clean_of ⟨h.1.1, h.1.2.1, h.1.2.2.1⟩, h.1.2.2.2, migOf_none h.2⟩
theorem met_EngineEvents_trees :
    (∀ x ∈ [(6, 16, 1, 1), (6, 16, 0, 0), (0xFFFFFFFF, 16, 1, 1), (0xFFFFFFFF, 12, 1, 1), (6, 16, 1, 65535)],
      let s := grown x.1 x.2.1 x.2.2.1 x.2.2.2
      s.still ∧ (onTree 2 1 2).owned s = true ∧ ((onTree 2 1 2).at' s.mode).slice = slot0.slice ∧ ((onTree 2 1 2).at' s.mode).slot = 0 ∧ (onTree 2 1 2).place + 16 ≤ 2 ^ 33 ∧
        (s.treeD slot0).live = 1 ∧ 0x1000 ≤ (s.treeD slot0).abase) ∧
    -- a handle to an open node; the runs that are too short, and what follows them
    (let s := grown 6 16 1 1
     let d := s.treeD slot0
     s.rootward slot0 toRoot 1 ∧ toRoot 0 = 1 % 2 ^ 20 ∧
      (nbits 1 30 20 = d.gen % 2 ^ 11 ∧ 1 < d.top ∧ (s.nodeAt slot0 d 1).st = 1 ∧ 1 ≤ d.opened ∧
        ∀ i ≤ 1, 1 ≤ (s.nodeAt slot0 d (toRoot i)).vl) ∧ d.ctl % 128 = 4 ∧
      (let r (i : Nat) : Nat := 6 + i
       r 0 = d.free ∧ (∀ i < 1, r i ≠ noNode ∧ (s.nodeAt slot0 d (r i)).first < 2 ∧ r (i + 1) = (s.nodeAt slot0 d (r i)).parent) ∧
        r 1 ≠ noNode ∧ 2 ≤ (s.nodeAt slot0 d (r 1)).first ∧ r 1 + (s.nodeAt slot0 d (r 1)).first ≤ d.cap) ∧
      (let e := (grown 0xFFFFFFFF 16 1 1).treeD slot0
       e.free = noNode ∧ e.top + 2 ≤ e.cap) ∧
      (let e := (grown 0xFFFFFFFF 12 1 1).treeD slot0
       e.free = noNode ∧ e.cap < e.top + 2)) ∧
    -- the way of a descent, and one with a VL that is full
    (∀ v ∈ [1, 65535],
      let s := grown 6 16 1 v
      let d := s.treeD slot0
      let c := s.bestChild slot0 d (s.nodeAt slot0 d 0)
      d.root = 0 ∧ (s.nodeAt slot0 d 0).st = 2 ∧ (s.nodeAt slot0 d 0).cnt ≠ 0 ∧ (c = 1 ∨ c = 2) ∧
        ((s.nodeAt slot0 d 0).vl = 65535 ↔ v = 65535) ∧ (s.nodeAt slot0 d 3).st = 0 ∧ (s.nodeAt slot0 d 1).st = 1) ∧
    -- a root that moves down, subtrees that are cut off, and what stands in the way
    (let s := grown 6 16 0 0
     let d := s.treeD slot0
     let N (i : Nat) : Node := s.nodeAt slot0 d i
     d.opened = 0 ∧ d.cap ≤ 2 ^ 20 ∧ (N 2).st = 2 ∧ (N 2).parent = d.root ∧ (N 0).first ≤ 2 ∧ 2 < (N 0).first + (N 0).cnt ∧
      (s.runsBelow slot0 d (d.cap + 1) [2]).1 = [(3, 2)] ∧ (s.runsBelow slot0 d (d.cap + 1) [1]).1 = [] ∧
      d.runsApart 2 [(0, 1), (1, 1)] ∧ d.runsApart 2 [(3, 2)] ∧ (∀ i ∈ (N 2).children, (N i).vl = 0) ∧ (N 3).st = 0 ∧
      (N 1).st = 1 ∧ (N 5).st = 3 ∧ (N 7).st = 7 ∧ d.top ≤ 11 ∧ (N 3).parent ≠ d.root) := by
  refine ⟨?_, ?_, by decide +kernel, by unfold TreeD.runsApart; decide +kernel⟩
  · intro x h
    simp only [List.mem_cons, List.not_mem_nil, or_false] at h
    rcases h with rfl | rfl | rfl | rfl | rfl <;>
      exact (fun h : _ ∧ _ => ⟨still_of h.1, h.2⟩) (by decide +kernel : calm _ = true ∧ _)
  · unfold State.rootward
    decide +kernel
/-- An image for tr.init at the operand's place: its words. -/
def image (l : List Nat) (live : Bool) : State :=
  let s := grown 6 16 0 0
  let s := if live then s else puts s (words (slot0.desc + 44) [0, 0])
  { puts s (words 4096 l ++ words (slot0.desc + 64) [0x9000, 4, 0, 0, 0, 0, 0, 0, 0, 0, 0, 0, 1]) with vis := [] }
def goodImage (a : Nat) : List Nat := [a, 4, 0, 0, 0, 0x3F800000, 3, 0x3F800000, 0, 256 + 64]
theorem met_EngineEvents_init :
    (∀ l ∈ [goodImage 0x1000, goodImage 0x9000, [], [0x1001, 4]],
      let s := image l false
      s.still ∧ (onTree 0 0 0).owned s = true ∧ (onTree 0 0 0).place + 64 ≤ 2 ^ 33 ∧
        (s.treeD slot0).live = 0 ∧ s.rdN 4096 4 = l.getD 0 0 ∧ s.rdN 4100 4 = l.getD 1 0) ∧
    -- the image that stands, and the one that meets the tree of slot 1
    (let s := image (goodImage 0x1000) false
     let f (k : Nat) : Nat := s.rdN (4096 + k) 4
     let e := s.treeD { slot0 with slot := 1 }
     (f 0 % 256 = 0 ∧ 0x1000 ≤ f 0 ∧ f 4 ≤ 1048448 ∧ f 0 + 32 * f 4 ≤ 2 ^ 25 ∧ f 24 ≤ 1024 ∧ f 36 = 64 + 256 ∧
      ∀ k ∈ [20, 28, 32], (fp32.value (f k)).isFin = true) ∧
      e.live = 1 ∧ ¬(e.abase < f 0 + 32 * f 4 ∧ f 0 < e.abase + 32 * e.cap) ∧
      (∀ k < 64, 2 ≤ k → (s.treeD { slot0 with slot := k }).live = 0) ∧
      e.abase < 0x9000 + 32 * 4 ∧ 0x9000 < e.abase + 32 * e.cap) ∧
    ((image [] true).treeD slot0).live = 1 ∧ ((grown 6 16 1 1).treeD slot0).opened ≠ 0 ∧
    -- an error in the descriptor, and one in a node that an operation reads
    (let s := { grown 6 16 1 1 with poison := [slot0.desc / 8] }
     s.latent = [] ∧ (onTree 2 1 2).owned s = true ∧ s.poisoned slot0.desc 64 = true) ∧
    (let s := { grown 6 16 1 1 with poison := [(slot0.slice + 0x1000 + 32) / 8] }
     s.latent = [] ∧ ∃ q ∈ (onTree 2 1 2).reads s, s.poisoned q.1 q.2 = true) := by
  refine ⟨?_, by decide +kernel⟩
  intro l h
  simp only [List.mem_cons, List.not_mem_nil, or_false] at h
  rcases h with rfl | rfl | rfl | rfl <;>
    exact (fun h : _ ∧ _ => ⟨still_of h.1, h.2⟩) (by decide +kernel : calm _ = true ∧ _)
/-- How many nodes a collapse meets from a node of the tree on. -/
def below (i : Nat) : Nat := if i = 0 then 5 else if i = 2 then 3 else 1
theorem met_EngineEvents_runs :
    let s := grown 6 16 0 0
    let N (i : Nat) : Node := s.nodeAt slot0 (s.treeD slot0) i
    (∀ i, (∃ a ∈ [0], Relation.ReflTransGen (fun x y => (N x).st = 2 ∧ y ∈ (N x).children) a i) →
      1 + (if (N i).st = 2 then ((N i).children.map below).sum else 0) ≤ below i) ∧ (([0] : List Nat).map below).sum ≤ 5 := by
  intro s N
  have key : ∀ i ∈ List.range 5, ((N i).st = 2 → ∀ j ∈ (N i).children, j ∈ List.range 5) ∧
      1 + (if (N i).st = 2 then ((N i).children.map below).sum else 0) ≤ below i := by decide +kernel
  refine ⟨?_, by decide⟩
  rintro i ⟨a, ha, h⟩
  refine (key i ?_).2
  induction h with
  | refl => simp_all
  | tail _ hb ih => exact (key _ ih).1 hb.1 _ hb.2
/-- An end of a counted buffer that no level object meets; a source of a gradient that nothing has written. -/
theorem met_EngineEvents_more :
    (let s := collDone (List.replicate 16 1) [64]
     s.levels = [] ∧ ([64] : List Nat).Nodup) ∧
    (let s := heard { grouped with colls := [otherAred] } (.collRsetEffect 0 5)
     (∀ c ∈ s.colls, c.behindRset s.colls = false) ∧ ∀ c ∈ s.colls, c.obj = 5 → c.result = none → s.needsEnded c = false) ∧
    (let s := heard (base.setCore 0 { base.coreAt 0 with hg := [hgOp true] }) (.hgGradAdd 0 0)
     s.vis = [] ∧ (hgOp true).start ≤ s.past.length ∧ s.writtenSince (hgOp true).start (kplace 128) 4 = false ∧ 128 + 4 ≤ 2 ^ 33 ∧
      (hgOp true).adds.length = 1) ∧
    (let x := fp32.value 0x3F800000
     x.isFin = true ∧ (1 : Nat) ≤ 2 ^ 20) := by decide +kernel

/-- The group between clauses, with a clause of three nops at the start of its code. -/
def between (seg : Nat) : State :=
  let s := base.setCore 0 { base.coreAt 0 with segs := [(0, { st := seg, va := 0 })] }
  let s := s.setGrp { s.grp with clause := none }
  puts s [(iloc 0 0, 4, 0xC0000003), (iloc 0 4, 4, 0x02000000), (iloc 0 8, 4, 0x02000000), (iloc 0 12, 4, 0x02000000)]
def outWrite : OutWrite := { regs := [.s 5], vals := some [7], tok := 9, slices := 1 }
def stalledOp (kind : MKind) : MOp :=
  { agent := 0, unit := 1, core := 0, kind := kind, bytes := 4, elems := [{ lane := 0, addr := 64, data := 5 }]
    slices := 0xFFFF, tok := 9 }
def sleeping (w : Option Nat) (l : List Nat) (m : Msg) : State := heard (base.setGrp { base.grp with wake := w, yieldFor := l }) m
theorem met_GroupEvents :
    (base.grp.select.isSome = true ∧ base.grp.atBoundary = false) ∧
    (∀ st ∈ [0, 1, 2],
      let s := between st
      let g0 : Group := { s.grp with clause := none }
      let g1 := g0.resolveAll.split
      s.grp.atBoundary = true ∧ g0.ecc = none ∧ (s.unitAt s.grp.unit).ending = false ∧ g1.finished = false ∧
        (∃ p, g1.select = some p ∧ ((sliceList ((g1.regang p).2).slices).findSome? fun i =>
          ((g1.regang p).1.slices.getD i {}).fell) = none) ∧
        ((s.coreAt 0).seg 0).st = st ∧ s.clean) ∧
    (let s := between 2
     s.codeWord 0 0 = 0xC0000003 ∧ clauseCheck (s.fetchAs 0) 0 (s.codeWord 0 0) [s.codeWord 0 4, s.codeWord 0 8, s.codeWord 0 12] = none ∧
      (clauseCheck (s.fetchAs 0) 0 (s.codeWord 0 0) [0xFFFFFFFF, s.codeWord 0 8, s.codeWord 0 12]).isSome = true) ∧
    (let s := heard (base.setGrp { base.grp with outs := [outWrite] }) (.registerWriteComplete 0 0)
     s.msg = .registerWriteComplete 0 0 ∧ (s.grpOf 0).outs[0]? = some outWrite ∧ (s.grpOf 0).outs[1]? = none) ∧
    (∀ kind ∈ [MKind.load, .store],
      let s := heard { base with stalled := [stalledOp kind] } (.memoryAccessPerform 0)
      s.msg = .memoryAccessPerform 0 ∧ s.stalled[0]? = some (stalledOp kind) ∧ (∀ p, s.migOf p = none) ∧ s.clean ∧
        (s.grpOf (stalledOp kind).agent).unit = (stalledOp kind).unit ∧ (stalledOp kind).acq = none ∧
        s.able (stalledOp kind) (s.stalled.take 0) ≠ [] ∧ (stalledOp kind).got = []) ∧
    (let w : VisW := { agent := 85, core := 5, addr := 0, old := [0], unseen := [3] }
     let s := heard { base with vis := [w] } (.writeVisibleAtDie 3)
     s.msg = .writeVisibleAtDie 3 ∧ ∃ w ∈ s.vis, 3 ∈ w.unseen) ∧
    (isHbm (hloc 1 0 64) = true ∧ isHbm 64 = false) ∧
    (let s := sleeping (some 0) [3] (.yieldTimeout 0)
     s.msg = .yieldTimeout 0 ∧ (s.grpOf 0).wake = some 0 ∧ 0 ≤ s.cycle ∧ (s.grpOf 0).yieldFor ≠ []) ∧
    (let s := sleeping (some 0) [] (.sleepEnd 0)
     s.msg = .sleepEnd 0 ∧ (s.grpOf 0).wake = some 0 ∧ 0 ≤ s.cycle ∧ (s.grpOf 0).yieldFor = []) ∧
    (let s := heard (base.setCore 0 { base.coreAt 0 with passed := [(2, 7)] }) (.backgroundForcedIssue 0 2)
     s.msg = .backgroundForcedIssue 0 2 ∧ FMap.get 0 (s.coreAt 0).passed 2 = 7) ∧
    (let s := heard base (.xpoolTakeEffect 1)
     s.msg = .xpoolTakeEffect 1 ∧ ∀ p ∈ s.units, p.2.core = 1 → p.2.started = true → p.2.away = true) ∧
    (let s := between 0
     let s := heard (s.setGrp { s.grp with cancel := true }) (.cancel 0)
     let g := s.grpOf 0
     s.msg = .cancel 0 ∧ g.live = true ∧ g.cancel = true ∧ g.paths ≠ [] ∧ (s.unitAt g.unit).ending = false ∧
      g.atBoundary = true ∧ g.nextPc = some 0 ∧ s.segState 0 0 ≠ 2 ∧ (s.unitAt g.unit).slots = [0]) := by
  refine ⟨by decide +kernel, ?_, by decide +kernel, by decide +kernel, ?_, by decide +kernel, by decide +kernel, by decide +kernel, by decide +kernel, by decide +kernel, by decide +kernel,
    by decide +kernel⟩
  · intro st h
    simp only [List.mem_cons, List.not_mem_nil, or_false] at h
    rcases h with rfl | rfl | rfl <;>
      exact ⟨rfl, rfl, rfl, rfl, ⟨_, rfl, by decide +kernel⟩, rfl, by decide +kernel, by decide +kernel⟩
  · intro kind h
    simp only [List.mem_cons, List.not_mem_nil, or_false] at h
    rcases h with rfl | rfl <;> exact ⟨rfl, rfl, migOf_none rfl, ⟨rfl, rfl, rfl⟩, rfl, rfl, by decide +kernel⟩

/-- Two tile drains of one batch, one of them done; a late error; a cancel that waits for it. -/
theorem met_GroupEvents_more :
    (let o (tok : Nat) (vals : Option (List Word)) : OutWrite := { regs := [.t 0 0], vals := vals, tok := tok, slices := 1 }
     ∀ second ∈ [none, some [8]],
       let s := heard ((base.setGrp { base.grp with outs := [o 4 (some [7]), o 5 second] }).setCore 0
         { base.coreAt 0 with tileDrains := [(0, 0, 4), (0, 0, 5)] }) (.registerWriteComplete 0 0)
       s.msg = .registerWriteComplete 0 0 ∧ s.drainToks 0 (o 4 (some [7])) ≠ []) ∧
    (let s := between 2
     let s := s.setGrp { s.grp with ecc := some { addr := 64, thread := 5, slices := 1 } }
     s.grp.atBoundary = true ∧ s.grp.ecc.isSome = true) := by
  decide +kernel

/-- A closed phase at offset 64 below a job at offset 128, or below nothing. -/
def ending (parent : Nat) : State :=
  heard ((base.lvOpen 0 1 128 4 1 0 0xFFFFFFFF 0).lvOpen 0 1 64 3 0 2 parent 5) (.levelEnd (gloc 1 0 64))
/-- A unit of one group behind the running one, whose code is present. -/
def arriving : State :=
  let u : UnitSt := { asid := 1, groups := 1, firstSeg := 1, nsegs := 1, entry := 4096, segs := (base.unitAt 1).segs, level := 64
                      loaded := true, codeva := 0, args := List.replicate 62 1 }
  let s := base.setUnit 2 u
  s.setCore 0 { s.coreAt 0 with arrivals := [2], segs := [(1, { st := 2, va := 0 })] }
/-- The unit of the group runs below a level object at offset 64. -/
def levelled : State :=
  let s := base.lvOpen 0 1 64 0 1 0 0xFFFFFFFF 0
  let s := s.setUnit 1 { s.unitAt 1 with level := 64 }
  s.setCtx 0 1 { s.ctxAt 0 1 with preq := 64 }
def savedUnit : Saved :=
  { uid := 1, level := 64, complete := true, restoring := true, area := 0, groups := [(0, base.grp, {})] }
theorem met_WorkEvents :
    (∀ p ∈ [128, 0xFFFFFFFF],
      let s := ending p
      s.levelAt (gloc 1 0 64) = some (0, 64) ∧ s.msg = .levelEnd (gloc 1 0 64) ∧ s.clean ∧ s.lvRunning 0 64 = true ∧
        s.lvFlag 0 64 1 = true ∧ s.lvCtr 0 64 = 0 ∧ s.unitOfLevel 0 64 = none ∧ s.parked = [] ∧ s.vers = [] ∧
        s.lvParent 0 64 = p ∧ s.lvBroken 0 128 = false ∧ s.lvAt 0 64 + 64 ≤ s.lvAt 0 128) ∧
    (let s := heard { ending 128 with cycle := 5 } (.budgetExpiry (gloc 1 0 64))
     s.lvRunning 0 64 = true ∧ s.lvKind 0 64 = 3 ∧ s.lvBudget 0 64 ≠ 0 ∧ (0, 64) ∉ s.spent ∧
      s.lvOpenCyc 0 64 + s.lvBudget 0 64 ≤ s.devCycle 0 (s.lvAsid 0 64)) ∧
    (let s := heard { ending 0xFFFFFFFF with poison := [gloc 1 0 64 / 8 + 1] } (.scrubbing (gloc 1 0 64))
     s.lvDescendants 0 64 = [] ∧ s.lvAt 0 64 % 64 = 0 ∧ isSram (s.lvAt 0 64) = true ∧ s.poison = [s.lvAt 0 64 / 8 + 1]) ∧
    (let s := heard { tasked [{ slot := 0, missing := 0, ready := some (0, 0) }] with cycle := 100 } (.nodeTimerExpiry 0 0)
     let e := s.nodeEnt 0 0
     e.v = true ∧ s.lvRunning 0 e.graph = true ∧ s.lvFlag 0 e.graph 0 = false ∧ s.lvBad 0 e.graph = false ∧
      s.nodeDue 0 0 = true ∧ (s.nodeSt 0 0).waiters = [] ∧ (readyList (s.nodeSt 0 0).recs).length ≤ e.c ∧
      (s.nodeSt 0 0).running.length < e.most ∧ s.clean) ∧
    (let s := arriving
     let u := s.unitAt 2
     15 < 16 ∧ u.args.length ≤ 62 ∧ u.node = none ∧ (s.coreAt 0).head = some 2 ∧ (s.coreAt 0).asid = u.asid ∧ u.loaded = true ∧
      s.preloadOk u = true ∧ s.preloaded 2 = true ∧ s.startDue 0 = true) ∧
    (let s := heard levelled (.preemptRequest 0 1)
     let x := s.ctxAt 0 1
     s.unitNamed 0 1 (x.preq.toNat % 2 ^ 33) = some 1 ∧ x.saved = [] ∧ (s.unitAt 1).started = true ∧
      (s.unitAt 1).away = false ∧ (s.unitAt 1).ending = false) ∧
    (let s := levelled.setCtx 0 1 { levelled.ctxAt 0 1 with saved := [{ savedUnit with restoring := false }] }
     s.unitNamed 0 1 64 ≠ none ∧ savedUnit.level = (s.ctxAt 0 1).preq.toNat % 2 ^ 33 ∧
      savedUnit.area = (s.ctxAt 0 1).psave.toNat ∧ savedUnit.complete = true) ∧
    (let s := between 2
     let g := s.grp
     let p := heard (s.setGrp { g with preempt := true, wake := some 5 }) (.preempt 0)
     let q := heard (s.setGrp { g with preempt := true, stopped := true, taken := true }) (.preempt 0)
     p.preemptPoint 0 = true ∧ (p.grpOf 0).cancel = false ∧ q.preemptPoint 0 = false ∧ q.saveReady 0 = true) ∧
    (let s := levelled.setCtx 0 1 { levelled.ctxAt 0 1 with saved := [savedUnit] }
     let s := heard (s.setGrp { s.grp with live := false }) (.unitRestore 0 64)
     s.unitOfLevel 0 64 = some 1 ∧ ((s.ctxAt 0 1).saved.find? fun v => decide (v.uid = 1)) = some savedUnit ∧
      savedUnit.restoring = true ∧ s.restoreReady savedUnit = true ∧ (s.areaIntact 0 1 savedUnit).1 = true ∧ base.grp.acc = none ∧
      ∀ p ∈ base.grp.paths, p.wait = none) := by
  refine ⟨?_, by decide +kernel, by decide +kernel,
    ⟨by decide +kernel, by decide +kernel, by decide +kernel, by decide +kernel, by decide +kernel, by decide +kernel,
      by decide +kernel, by decide +kernel, by decide +kernel, by decide +kernel⟩, by decide +kernel, by decide +kernel, by decide +kernel,
    by decide +kernel, by decide +kernel⟩
  intro p h
  simp only [List.mem_cons, List.not_mem_nil, or_false] at h
  rcases h with rfl | rfl <;> exact ⟨by decide +kernel, rfl, clean_of (by decide +kernel), by decide +kernel⟩

/-- A unit's level that is due, whose group has ended. -/
def unitDue : State :=
  let s := base.lvOpen 0 1 64 0 0 2 0xFFFFFFFF 0
  let s := s.setUnit 1 { s.unitAt 1 with level := 64, started := true }
  heard (s.setGrp { s.grp with live := false, outs := [] }) (.levelEnd (gloc 1 0 64))
theorem met_WorkEvents_more :
    (∀ p ∈ [128, 0xFFFFFFFF],
      let s := ending p
      s.lvFrozen 0 64 = false ∧ (p = 128 → s.lvFrozen 0 128 = false)) ∧
    (let s := unitDue
     s.levelAt (gloc 1 0 64) = some (0, 64) ∧ s.lvRunning 0 64 = true ∧ s.lvFlag 0 64 1 = true ∧ s.lvCtr 0 64 = 0 ∧
      s.unitOfLevel 0 64 = some 1 ∧ s.unitQuiet 1 = true ∧ s.lvFrozen 0 64 = false ∧ s.parked = [] ∧ s.vers = [] ∧
      (s.unitAt 1).node = none ∧ (s.unitAt 1).slots = [0] ∧ (s.grpOf 0).unit = 1) ∧
    (let s := heard { ending 0xFFFFFFFF with poison := [gloc 1 0 64 / 8 + 1] } (.scrubbing (gloc 1 0 64))
     s.lvRunning 0 64 = true ∧ s.lvParent 0 64 = 0xFFFFFFFF ∧ s.unitOfLevel 0 64 = none ∧ s.vers = [] ∧ s.lvFrozen 0 64 = false ∧
      s.parked = [] ∧ s.latent = []) ∧
    (let s := between 2
     let g := s.grp
     let s := s.setGrp { g with preempt := true, stopped := true, taken := true }
     let s := s.setUnit 1 { s.unitAt 1 with slots := [0, 1] }
     let s := heard (s.setCtx 0 1 { s.ctxAt 0 1 with saved := [savedUnit] }) (.preempt 0)
     s.preemptPoint 0 = false ∧ s.saveReady 0 = true ∧ 1 < (s.unitAt 1).slots.length ∧ savedUnit.uid = (s.grpOf 0).unit) := by
  exact ⟨by decide +kernel, by decide +kernel, by decide +kernel, by decide +kernel⟩

theorem met_DeviceEvents :
    (let s := paged
     nbits (s.ctxAt 0 1).ptroot.toNat 47 12 * 4096 + 4096 ≤ hbmSize s.mode ∧
      (s.readAt noCore 0 (hloc s.mode 0 0) 8) = 2 ^ 63 + 4096 ∧ pteV (s.readAt noCore 0 (hloc s.mode 0 8) 8) = false) ∧
    (let s := heard (paged.setCore 0 { paged.coreAt 0 with asid := 1 }) (.pageWalk 0 5)
     s.msg = .pageWalk 0 5 ∧ (s.walk (dieOfCore 0) (s.devOfCore 0) 1 5).isSome = true ∧ 0 ≠ noCore) ∧
    (∀ st ∈ [0, 1],
      let s := heard (migrating st) (.copierLineCopy 0 3)
      ∃ m, ((s.devAt 0).migs.find? fun m => decide (m.idx = 3)) = some m ∧ m.st ≤ 1 ∧ m.copied < m.size / 256 ∧ s.clean ∧
        m.srcLoc = true ∧ m.src + m.size ≤ 2 ^ 33 ∧ m.dst + m.size ≤ 2 ^ 33 ∧ m.src + m.size ≤ m.dst ∧ m.dstKey < 64) ∧
    (let s := heard (migrating 3) (.migrationRecordFree 0 3)
     (∀ j ∈ diesOfDev s.mode 0, seqBelow (s.dieAt j).gen 0 = false) ∧ s.olderAccesses 0 0 4096 = []) ∧
    (let d := base.devAt 0
     let s := heard (base.setDev 0 { d with gusts := [(7, { enabled := true, area := 7168 })] }) (.gustListPublish 7)
     s.msg = .gustListPublish 7 ∧ 7 / (2 * diesPer s.mode) = 0 ∧ (FMap.get {} (s.devAt 0).gusts 7).enabled = true ∧
      (FMap.get {} (s.devAt 0).gusts 7).stage = 0) ∧
    (let s := heard (base.setCtx 0 2 { base.ctxAt 0 1 with cores := [1] }) (.contextSwitch 1 2)
     (s.coreAt 1).asid ≠ 2 ∧ 1 ∈ (s.ctxAt (s.devOfCore 1) 2).cores ∧ (s.coreAt 1).copies = [] ∧
      ∀ p ∈ s.units, p.2.core = 1 → p.2.started = true → p.2.away = true) ∧
    (let s := heard (base.setGrp { base.grp with paths := [{ slices := 0xFFFF, wait := some (.ckpt 0 9) }] }) (.checkpointStart 0)
     s.ckptAgent 0 = some 0 ∧ (s.grpOf 0).ckptWait = some (0, 9) ∧ (s.devAt 0).ckpt = none ∧ s.ckptQuiet 0 1 = true ∧
      (s.ctxAt 0 1).busy = false) ∧
    (let g : Group := { base.grp with paths := [{ slices := 0xFFFF, wait := some (.ckpt 0 9) }] }
     let d := base.devAt 0
     let s := (base.setDev 0 { d with ckpt := some (1, 0, 1) }).setCtx 0 1
       { base.ctxAt 0 1 with saved := [{ savedUnit with groups := [(0, g, {})] }] }
     s.ckptSaved 0 ≠ none) ∧
    (let im : FwImage := { digest := 1, sigOk := true, version := 2, minimum := 2 }
     let bad : FwImage := { digest := 1, sigOk := true, version := 1, minimum := 2 }
     (∀ x ∈ List.replicate 4 im, x.sigOk = true ∧ x.minimum ≤ x.version) ∧ ¬(bad.sigOk = true ∧ bad.minimum ≤ bad.version)) ∧
    ¬base.pkg.clock < 620 ∧ 920 < base.pkg.clock := by
  refine ⟨by decide +kernel, by decide +kernel, ?_, by decide +kernel, by decide +kernel, by decide +kernel, by decide +kernel, by decide +kernel, by decide +kernel, by decide +kernel⟩
  intro st h
  simp only [List.mem_cons, List.not_mem_nil, or_false] at h
  rcases h with rfl | rfl <;>
    exact ⟨_, rfl, by decide +kernel, by decide +kernel, clean_of (by decide +kernel), by decide +kernel, by decide +kernel, by decide +kernel, by decide +kernel, by decide +kernel⟩

theorem migOf_above {s : State} {b a : Nat} (h : (s.devs.all fun p => p.2.migs.all fun m => decide (m.src + m.size ≤ b)) = true)
    (ha : b ≤ a) : s.migOf a = none := by
  simp only [List.all_eq_true, decide_eq_true_eq] at h
  simp only [State.migOf, List.findSome?_eq_none_iff, Option.map_eq_none_iff, List.find?_eq_none, decide_eq_true_eq]
  intro p hp m hm
  have := h p hp m hm
  omega
/-- A record whose pages a copy can reach; a tile's table, not full, full, and with the frame in it; an image of two peers. -/
theorem met_DeviceEvents_more :
    (∀ st ∈ [0, 1],
      let m : Option Mig := ((migrating st).devAt 0).migs.head?
      (m.map fun m => (decide (m.src + m.size ≤ m.dst), m.dstKey)) = some (true, 0) ∧ ∀ p, 2 ^ 22 ≤ p → p < 2 ^ 22 + 2 ^ 21 → (migrating st).migOf p = none) ∧
    (let d := base.devAt 0
     ∀ st ∈ [0, 1, 2, 3],
       let s := heard (base.setDev 0 { d with gusts := [(7, { enabled := true, area := 7168, stage := st })] }) (.gustListPublish 7)
       (FMap.get {} (s.devAt 0).gusts 7).enabled = true ∧ s.lvFrozen 0 7168 = false ∧ (FMap.get {} (s.devAt 0).gusts 7).stage = st) ∧
    (let g : Gust := { cand := [(5, 1)] }
     let full : Gust := { cand := (List.range 64).map fun i => (i + 6, i + 1) }
     (∃ p ∈ g.cand, p.1 = 5) ∧ (∀ p ∈ g.cand, p.1 ≠ 6) ∧ g.cand.length < 64 ∧ 64 ≤ full.cand.length ∧ ∀ p ∈ full.cand, p.1 ≠ 5) ∧
    (let g : Group := { base.grp with paths := [{ slices := 0xFFFF, wait := some (.ckpt 0 9) }] }
     let d := base.devAt 0
     let s := (base.setDev 0 { d with ckpt := some (1, 0, 1), tier := [(4, 0), (5, 0)], owner := { sess := true } }).setCtx 0 1
       { base.ctxAt 0 1 with saved := [{ savedUnit with groups := [(0, g, {})] }] }
     let s := heard s (.checkpointComplete 0 true)
     s.msg = .checkpointComplete 0 true ∧ s.ckptSaved 0 ≠ none ∧ ((s.devAt 0).tier)[1]? = some (5, 0) ∧
      2 ≤ (s.devAt 0).tier.length ∧ (s.devAt 0).owner.sess = true) := by
  refine ⟨?_, by decide +kernel, by decide +kernel, by decide +kernel⟩
  intro st h
  simp only [List.mem_cons, List.not_mem_nil, or_false] at h
  rcases h with rfl | rfl <;> exact ⟨by decide +kernel, fun p h _ => migOf_above (by decide +kernel) h⟩

/-! ## The host, the owner, the links and the frames -/

/-- A released package with an SPDM state on a port and an owner of device 0. -/
def booted (port : Nat) (x : Spdm) (o : Owner) : State :=
  let s := base.setPkg { base.pkg with released := 15 }
  let d := s.devAt 0
  (s.setDev 0 { d with owner := o }).setSpdm port x
def allDone : Spdm := { version := true, caps := true, algs := true, kex := true, opened := true }
theorem accept_one (x : BitVec 128) : 1 &&& ~~~((x &&& 0x7FF) ||| 1) = 0 := by
  ext i h
  by_cases hi : i = 0
  · subst hi; simp
  · simp [hi]
theorem met_SecurityMessages :
    (base.pkg.released ≠ 15) ∧
    (let s := heard (booted 16 allDone {}) (.getMeasurements 16 255)
     (s.pkg.failing = none ∧ s.pkg.released = 15 ∧ 16 ≤ 16) ∧ s.msg = .getMeasurements 16 255 ∧ (s.spdmAt 16).version = true ∧
      (s.spdmAt 16).caps = true ∧ (s.spdmAt 16).algs = true ∧ (s.spdmAt 16).kex = true ∧ (s.spdmAt 16).opened = true) ∧
    (let s := heard (booted 0 allDone { kex := true }) (.finish 0 0 true)
     s.msg = .finish 0 0 true ∧ (s.devAt 0).owner.kex = true ∧ 0 < s.mode ∧ (s.devAt 0).owner.sess = false) ∧
    (let s := heard ((booted 1 allDone {}).setLink 0 { up := true }) (.keyUpdate 1 true)
     s.msg = .keyUpdate 1 true ∧ (s.spdmAt 1).opened = true ∧ (s.linkAt 0).up = true ∧ (s.linkAt 0).rxOld = none ∧
      (s.linkAt 0).drainTo = none ∧ (s.linkAt 0).marker = none) ∧
    (let s := heard (booted 0 allDone { sess := true }) (.featureAccept 0 1 0)
     (s.devAt 0).owner.sess = true ∧ (s.devAt 0).wiping = false ∧ (s.devAt 0).owner.accepted = none ∧
      1 &&& ~~~(offeredWords 0).1 = 0 ∧ 0 &&& ~~~(offeredWords 0).2 = 0 ∧ (1 : BitVec 128).getLsbD 0 = true) := by
  refine ⟨by decide +kernel, by decide +kernel, by decide +kernel, by decide +kernel, by decide +kernel, by decide +kernel, by decide +kernel, accept_one _, ?_, by decide +kernel⟩
  simp

/-- An owner that has accepted the features, and one that has not. -/
def owned (b : Bool) : State :=
  booted 0 allDone { sess := true, accepted := if b then some (0x7FF, 0x7F) else none }
/-- A running job below which a launch may stand. -/
def jobbed (m : Msg) : State :=
  let s := { owned true with mem := [] }
  let s := s.lvOpen 0 1 64 4 0 0 0xFFFFFFFF 0
  heard (s.setCtx 0 1 { s.ctxAt 0 1 with job := 64 }) m
theorem met_OwnerCommands :
    (let s := owned true
     (0 < s.mode ∧ (s.devAt 0).owner.sess = true ∧ (s.devAt 0).wiping = false) ∧ s.ctxLive 0 1 = true ∧ s.ctxLive 0 2 = false ∧
      (∃ w, (s.devAt 0).owner.accepted = some w ∧ w.2.getLsbD 0 = true ∧ w.2.getLsbD 2 = true ∧ w.2.getLsbD 4 = true)) ∧
    (base.setDev 0 {}).devAt 0 = {} ∧
    -- CTX_CREATE: each operand at its bound, and a job that does not fit
    (let s := heard (owned true) (.ctxCreate 0 1 255 (globalSize 1 - 64) [0, 207] [0, 1023] [255] 256 [63])
     s.mode = 1 ∧ (globalSize 1 - 64) % 64 = 0 ∧ s.guarded (gloc 1 0 (globalSize 1 - 64)) 64 = false ∧
      (∀ c ∈ [0, 207], c ∈ coresOfDev 1 0) ∧ (∀ t ∈ [0, 1023], t < 64 * 4 * diesPer 1) ∧
      (∀ p ∈ s.ctxs, p.1 ≠ ctxKey 0 255) ∧ (s.ctxs.filter fun p => decide (p.1 / 256 = 0)).length < 255) ∧
    (let s := jobbed (.launch 0 1 true 1024 0xFFFFFFFF)
     1024 % 64 = 0 ∧ s.guardedRange (gloc s.mode 0 1024) 512 = false ∧ (s.ctxAt 0 1).job = 64 ∧
      (s.launch 0 1 1024 64 true).1 ≠ 0) ∧
    (let s := grouped
     (s.gobj 0 5).isSome = true ∧ s.gobj 0 255 = none ∧ 0 < ((s.gobj 0 5).getD {}).m) ∧
    ([(0, 0), (0, 64)] : List (Nat × Nat)).Nodup ∧
    ((owned true).devAt 0).regions.length < 1024 ∧ ((owned true).devAt 0).images = [] ∧
    (let n := 4
     2 * (((owned true).imageSize 0 + n - 2) / (n - 1)) + 128 * 2 ^ 20 < 2 ^ 60) := by
  refine ⟨by decide +kernel, by decide +kernel, by decide +kernel, by decide +kernel, by decide +kernel, by decide +kernel, by decide +kernel, by decide +kernel, by decide +kernel⟩

/-- The 256 bytes of flit 0 of a type, with its tag under key 3. -/
def flit (typ : Nat) : List Byte :=
  bytesOf 8 (typ * 2 ^ 24) ++ bytesOf 232 0 ++ bytesOf 16 (Config.gcmTag 3 0 (typ * 2 ^ 24) 0)
theorem flit_good {typ : Nat} (h : typ < 16) : (flit typ).length = 256 ∧
    ofBytes (((flit typ).drop 240).take 16) =
      Config.gcmTag 3 0 (ofBytes ((flit typ).take 8)) (ofBytes (((flit typ).drop 8).take 232)) % 2 ^ 128 := by
  have e1 : (flit typ).take 8 = bytesOf 8 (typ * 2 ^ 24) := by
    simp [flit, length_bytesOf]
  have e2 : ((flit typ).drop 8).take 232 = bytesOf 232 0 := by
    simp [flit, List.append_assoc, List.drop_left', length_bytesOf]
  have e3 : ((flit typ).drop 240).take 16 = bytesOf 16 (Config.gcmTag 3 0 (typ * 2 ^ 24) 0) := by
    rw [flit, List.drop_left' (by simp [length_bytesOf]), List.take_of_length_le (by simp [length_bytesOf])]
  refine ⟨by simp [flit, length_bytesOf], ?_⟩
  rw [e1, e2, e3, ofBytes_bytesOf, ofBytes_bytesOf, ofBytes_bytesOf, Nat.mod_eq_of_lt (a := typ * 2 ^ 24) (by omega)]
  norm_num
def linked (m : Msg) : State := heard ((booted 1 allDone {}).setLink 0 { up := true, rxKey := 3 }) m
theorem met_LinkEvents :
    (let x : Region := { asid := 1, va := 0, len := 4096, r := true, w := true, rkey := 7 }
     let s := paged
     let d := s.devAt 0
     let s := s.setPkg { s.pkg with released := 15 }
     let s := heard (s.setDev 0 { d with regions := [x], exports := [(63, { remote := 9, asid := 1, va := 0, len := 4096, r := true, w := true })] })
       (.roceRequestPacket 0 63 7 4088 8 none)
     s.msg = .roceRequestPacket 0 63 7 4088 8 none ∧ (0 < s.mode ∧ s.pkg.released = 15) ∧ 63 < 64 / s.mode ∧ (s.devAt 0).regions = [x] ∧ x.va ≤ 4088 ∧
      4088 + 8 ≤ x.va + x.len ∧ s.clean ∧ (s.portPlaces 0 1 4088 8 false).1 = some [(gloc 1 0 (2 ^ 21 + 4088), 8)] ∧
      4088 % 8 + 8 ≤ 8 ∧ kplace (gloc 1 0 (2 ^ 21 + 4088)) < 2 ^ 33 ∧ ∀ a, (s.portPlaces 0 1 4088 8 false).2.migOf a = none) ∧
    -- a peer's request that a live link has delivered
    (let r : PeerReq := { dev := 0, remote := 9, asid := 1, va := 0, len := 8, data := none }
     let s := (booted 1 allDone {}).setLink 3 { up := true, got := [r] }
     let d := s.devAt 0
     let s := heard (s.setDev 0 { d with exports := [(63, { remote := 9, asid := 1, va := 0, len := 4096, r := true, w := true })] })
       (.peerRequest r)
     s.deliveredOn r = some 3 ∧ ((s.devAt 0).exportOf r).isSome = true ∧ base.deliveredOn r = none) ∧
    (∀ p ∈ ([(0, .flitIdle 0 (flit 0)), (1, .flitData 0 (flit 1) none), (2, .flitAck 0 (flit 2)),
        (3, .flitSync 0 (flit 3) 0 0 none none), (4, .flitMarker 0 (flit 4))] : List (Nat × Msg)),
      let s := linked p.2
      let byte3 := ofBytes (((flit p.1).drop 3).take 1)
      s.msg = p.2 ∧ (s.linkAt 0).up = true ∧ byte3 % 16 = p.1 ∧
        (ofBytes ((flit p.1).take 3) + 2 ^ 24 - (s.linkAt 0).rxNext % 2 ^ 24) % 2 ^ 24 = 0 ∧
        byte3 / 16 % 2 = (s.linkAt 0).rxKg ∧ p.1 < 16) ∧
    ((linked .clockLower).linkAt 0).rxKey = 3 ∧
    -- a sender that has sealed all it may under one key, before and behind a rollover
    (2 ^ 32 - 1 ≤ ({ txNext := 2 ^ 32, txFrom := 1 } : Link).txNext - 1 ∧ ({ drainTo := some 1 } : Link).drainTo ≠ none) ∧
    (let f : Flit := { num := 0, typ := 1, kg := 0, vc := 0, ackseq := 0, nak := false, payload := 0, tag := 0 }
     let s := (booted 1 allDone {}).setLink 0 { up := true, drainTo := some 1, replay := [f] }
     (s.linkAt 0).drainTo = some 1 ∧ (s.linkAt 0).replay.length < 4096 ∧
      (∀ f ∈ (s.linkAt 0).replay.filter (fun f => decide (2 ^ 23 ≤ (0 + 2 ^ 24 - f.num % 2 ^ 24) % 2 ^ 24)), 1 ≤ f.num)) ∧
    ((booted 1 allDone {}).linkAt 15).up = false ∧ (booted 1 allDone {}).pkg.released = 15 := by
  refine ⟨⟨by decide +kernel, by decide +kernel, by decide +kernel, by decide +kernel, by decide +kernel, by decide +kernel,
    clean_of (by decide +kernel), by decide +kernel, by decide +kernel, by decide +kernel, migOf_none (by decide +kernel)⟩, by decide +kernel,
    ?_, by decide +kernel, by decide +kernel, by decide +kernel, by decide +kernel, by decide +kernel⟩
  intro p h
  simp only [List.mem_cons, List.not_mem_nil, or_false] at h
  rcases h with rfl | rfl | rfl | rfl | rfl <;>
    exact ⟨rfl, by decide +kernel, by decide +kernel, by decide +kernel, by decide +kernel, by decide +kernel⟩

/-- An image of five units on a tier of four peers, 4 to 7, of which these hold it. -/
def image5 : Image :=
  { dev := 0, mode := 1, frames := [0], mem := [], tags := [], crypt := [], poison := [], ctxs := [], units := [], keymap := 2
    keyInst := [(1, 7)], wrapKey := 9, gobjs := [], nodes := [], levels := [], spent := [], vers := [], logbase := [], asid := 1
    uid := 1, agent := 0, tok := 9, cycle := 0, slot := 0, gen := 3, units1M := 5, peers := 4 }
def heldBy (l : List Nat) : List Held := l.map fun p => { peer := p, image := image5 }
theorem met_OwnerCommands_restore :
    (let s := heard (owned true) (.restore 0 [4, 5, 6, 7] 9 (heldBy [4, 5, 6]))
     let s := { s with ctxs := [], groups := [], units := [] }
     (0 < s.mode ∧ (s.devAt 0).owner.sess = true ∧ (s.devAt 0).wiping = false) ∧
      s.msg = .restore 0 [4, 5, 6, 7] 9 (heldBy [4, 5, 6]) ∧ newestImage [4, 5, 6, 7] (heldBy [4, 5, 6]) = some image5 ∧
      devOfDie 1 (firstDie s.mode 0) = image5.dev ∧ s.ctxs = [] ∧ image5.mode = s.mode ∧ image5.peers ≤ image5.units1M ∧
      (∀ i, i < 64 → (image5.keymap.getLsbD i = true ↔ i = 1))) ∧
    -- one peer is missing, which leaves every stripe with what it needs; two are missing, which does not
    ((∀ x < 4, ∀ y < 4, x < y → ¬((∀ h ∈ heldBy [4, 5, 6], h.peer ≠ [4, 5, 6, 7].getD x 0) ∧
        ∀ h ∈ heldBy [4, 5, 6], h.peer ≠ [4, 5, 6, 7].getD y 0)) ∧
      newestImage [4, 5, 6, 7] (heldBy [4, 5]) = some image5 ∧
      (∀ x ∈ [2, 3], ∀ h ∈ heldBy [4, 5], h.peer ≠ [4, 5, 6, 7].getD x 0) ∧ newestImage [4, 5, 6, 7] [] = none) ∧
    (let s := grouped
     ∀ c ∈ s.colls, c.obj = 5 → c.form ≠ 7) :=
  ⟨by decide +kernel, by decide +kernel, by decide +kernel⟩
/-- A peer's request that an export covers, its bytes at one place; a sync flit whose deadline is adopted, and one that
acknowledges. -/
theorem met_LinkEvents_more :
    (∀ data ∈ [none, some (List.replicate 8 (1 : Byte))],
      let r : PeerReq := { dev := 0, remote := 9, asid := 1, va := 4088, len := 8, data := data }
      let s := paged.setLink 3 { up := true, got := [r] }
      let d := s.devAt 0
      let s := heard (s.setDev 0 { d with exports := [(63, { remote := 9, asid := 1, va := 0, len := 4096, r := true, w := true })] })
        (.peerRequest r)
      let y := (s.setLink 3 { up := true, got := [] }).portPlaces 0 1 4088 8 data.isSome
      s.msg = .peerRequest r ∧ s.deliveredOn r = some 3 ∧ (s.poison = [] ∧ s.latent = [] ∧ s.crc = []) ∧
        y.1 = some [(gloc 1 0 (2 ^ 21 + 4088), 8)] ∧ kplace (gloc 1 0 (2 ^ 21 + 4088)) < 2 ^ 33 ∧
        y.2.migOf (kplace (gloc 1 0 (2 ^ 21 + 4088))) = none) ∧
    (let s := linked (.flitSync 0 (flit 3) 0 3 (some 9) none)
     let s := s.setTimer { s.timer with covering := some 3, k := 4 }
     s.timer.covering = some 3 ∧ s.timer.k + 1 ≤ 9) ∧
    (let s := linked (.flitSync 0 (flit 3) 0 0 none (some 9))
     let s := s.setTimer { s.timer with named := some 9, namedBy := [0], k := 4 }
     s.timer.named = some 9 ∧ 0 = (s.timer.lock.extractLsb' 16 5).toNat ∧ s.timer.k + 1 ≤ 9 ∧ 0 ∈ s.timer.namedBy) := by
  exact ⟨by decide +kernel, ⟨rfl, by decide⟩, rfl, by decide, by decide, by decide⟩

def frame1 (seq : Nat) : Frame :=
  { dev := 0, asid := 1, desc := gloc 1 0 64, color := 0, depth := 0, motion := 0, pitch := 16, w := 4, h := 2, seq := seq, mirror := false }
/-- A timer in a lock group, member 0, which covers member 3. -/
def timed (x : Output) (f : Timer → Timer) (m : Msg) : State :=
  let s := (booted 1 allDone {}).setOutput 7 x
  heard (s.setTimer (f { s.timer with lock := BitVec.ofNat 64 (2 ^ 8 + 2 ^ 15 + 3 * 2 ^ 10), locked := true })) m
/-- A package with a link up on a port that leads to a member, if one does. -/
def reached (m : Nat) : State :=
  match Config.memberPorts m with
  | [] => base
  | n :: _ => base.setLink n { up := true }
theorem met_FrameEvents :
    (let s := (timed {} (fun t => { t with joining := [0] }) .syncFlitSend).setLink 0 { up := true }
     s.msg = .syncFlitSend ∧ s.timer.enabled = true ∧ s.timer.joining ≠ [] ∧ s.timer.locked = true ∧ s.timer.named = none ∧
      (s.linkAt 0).up = true ∧ (s.linkAt 0).replay.length < 4096 ∧ (s.linkAt 0).worn = false ∧ (s.linkAt 1).up = false ∧
      base.timer.enabled = false) ∧
    (let s := timed {} (fun t => { t with offset := -100, now := 1 }) .lockLoss
     s.msg = .lockLoss ∧ s.timer.locked = true ∧ 100 * 100000 < s.timer.offset.natAbs * 100000 + (s.timer.now - s.timer.lastSync)) ∧
    (let s := timed {} (fun t => { t with heard := [(3, 0)], now := 2 * t.period }) (.memberLost 3)
     s.msg = .memberLost 3 ∧ s.timer.enabled = true ∧ (3, 0) ∈ s.timer.heard ∧ 0 + 2 * s.timer.period ≤ s.timer.now ∧
      s.timer.lock.getLsbD 8 = true ∧ s.timer.lock.getLsbD 15 = true ∧ (s.timer.lock.extractLsb' 10 5).toNat = 3) ∧
    -- the newest frame, beside one never sent before and one sent before; no frame
    (∀ posted ∈ [[frame1 5], [frame1 5, frame1 3], []],
      let s := timed { configured := true, w := 4, h := 2, posted := posted
                       last := if posted.length = 2 then none else some (frame1 4, 0) } id .frameDeadline
      s.msg = .frameDeadline ∧ s.timer.joining = [] ∧ (s.output 7).configured = true ∧ (s.output 7).sending = none ∧
        (∀ i < 8, i ≠ 7 → (s.output i).configured = false ∧ (s.output i).sending = none) ∧ s.timer.covering = none ∧
        s.parked = [] ∧ s.still ∧ (∀ f ∈ posted, f ≠ frame1 5 → f.seq < (frame1 5).seq) ∧ s.levels = [] ∧
        (∀ p ∈ s.ctxs, p.2.halted = false) ∧ (s.devAt 0).ckpt = none ∧ s.pkg.released.getLsbD 2 = true ∧
        s.pkg.engineFault = false ∧ s.timer.nextPeriod = none ∧ s.timer.nextEpoch = none) ∧
    -- a device fault, and outputs that have never sent a frame
    (let s := timed { configured := true, w := 4, h := 2, posted := [frame1 5] } id .frameDeadline
     let s := s.setPkg { s.pkg with engineFault := true }
     s.pkg.engineFault = true ∧ (s.output 7).last = none ∧ (s.output 7).posted = [frame1 5]) ∧
    -- a replacement before its takeover, and at it
    (let s := timed { configured := true, w := 4, h := 2 } (fun t => { t with joining := [0] }) .frameDeadline
     s.timer.enabled = true ∧ (s.output 7).dev ∈ s.timer.joining ∧ s.timer.named = none) ∧
    (let s := timed { configured := true, w := 4, h := 2 }
       (fun t => { t with joining := [0], named := some 2, namedAck := true, k := 2 }) .frameDeadline
     s.timer.enabled = true ∧ s.timer.named = some 2 ∧ s.timer.namedAck = true ∧ 2 ≤ s.timer.k) ∧
    -- a frame whose transmission ends, with a mirror and without
    (∀ b ∈ [true, false],
      let y : Sending := { out := 7, k := 0, member := 0, stream := {}, frame := frame1 4, sub := b, age := 1 }
      let s := timed { configured := true, w := 4, h := 2, sending := some y } id .frameDeadline
      (s.output 7).sending = some y ∧ (∀ i < 8, i ≠ 7 → (s.output i).sending = none) ∧ s.clean ∧
        (s.setOutput 7 { s.output 7 with sending := none }).frameStalls y = false) ∧
    (let f : Frame := { frame1 4 with color := 0 }
     (migrating 2).frameStalls { out := 7, k := 0, member := 0, stream := {}, frame := f, sub := false, age := 0 } = true) ∧
    -- a member covered, with a mirror and without, and the end of it; a written period on its way
    (let r : Mirror := { member := 3, out := 7, stream := {}, w := 1, h := 1, seq := 4, k := 0, color := [7], depth := [0], motion := [0] }
     let s := timed {} (fun t => { t with covering := some 3, k := 9, nextPeriod := some (20000000, 1) }) .frameDeadline
     let t := s.setPkg { s.pkg with mirrors := [r] }
     s.timer.covering = some 3 ∧ s.timer.takeover = none ∧ s.mirrorOf 3 7 = none ∧ t.mirrorOf 3 7 = some r ∧
      s.timer.nextPeriod = some (20000000, 1) ∧ s.timer.nextEpoch = none) ∧
    (let s := timed {} (fun t => { t with covering := some 3, takeover := some (3, 9), k := 9, nextPeriod := some (20000000, 2) }) .frameDeadline
     s.timer.covering = some 3 ∧ s.timer.takeover = some (3, 9) ∧ 9 ≤ s.timer.k ∧ s.timer.nextPeriod = some (20000000, 2)) := by
  refine ⟨by decide +kernel, by decide +kernel, by decide +kernel, ?_, by decide +kernel, by decide +kernel, by decide +kernel, ?_,
    by decide +kernel, by decide +kernel, by decide +kernel⟩
  · intro x h
    simp only [List.mem_cons, List.not_mem_nil, or_false] at h
    rcases h with rfl | rfl | rfl <;>
      exact ⟨rfl, by decide +kernel, by decide +kernel, by decide +kernel, by decide +kernel, by decide +kernel, by decide +kernel,
        ⟨clean_of (by decide +kernel), by decide +kernel, migOf_none (by decide +kernel)⟩, by decide +kernel⟩
  · intro x h
    simp only [List.mem_cons, List.not_mem_nil, or_false] at h
    rcases h with rfl | rfl <;>
      exact ⟨by decide +kernel, by decide +kernel, clean_of (by decide +kernel), by decide +kernel⟩
/-- A member that is there: it has not been silent, and where links lead to it one of them is up. -/
theorem met_FrameEvents_member : (∀ p ∈ (reached 3).timer.heard, p.1 ≠ 3) ∧
    ¬(Config.memberPorts 3 ≠ [] ∧ ∀ n ∈ Config.memberPorts 3, ((reached 3).linkAt n).up = false) := by
  unfold reached
  cases h : Config.memberPorts 3 with
  | nil => exact ⟨by decide +kernel, by simp⟩
  | cons n l =>
    refine ⟨?_, ?_⟩
    · have e : (base.setLink n { up := true }).timer.heard = [] := rfl
      simp [e]
    · simp [State.setLink, State.linkAt, State.setPkg]
/-- The page again, with the accessed bit of its entry set. -/
def accessed : State := puts paged [(hloc 1 0 8192, 8, 31 * 2 ^ 59 + 2 ^ 57 + 2 ^ 21)]
theorem some_of {α β : Type} {x : Except α β} {p : β} (h : x.toOption = some p) : x = .ok p := by
  cases x <;> simp_all [Except.toOption]
/-- A word of a plane in a page that translates; a pixel whose motion is finite, and one of infinite depth. -/
theorem met_FrameEvents_planes :
    (∃ p u, accessed.translate noCore (firstDie accessed.mode 0) 0 1 0 false true = (.ok p, u) ∧ u.still ∧
      u.past.length ≤ (frame1 4).start ∧ kplace (p.place u.mode 0 0) < 2 ^ 33) ∧
    ((fp16.value 0x3C00).isFin = true ∧ (fp16.value 0x7C00).isFin = false) ∧
    (movedTo (0 % 2) 1 (motionOf 0x3C00).1 = some 1 ∧ movedTo (0 / 2) 1 (motionOf 0x3C00).2 = some 0 ∧
      (fp32.value 0).lt (.inf false) = true ∧ (fp32.value 0x7F800000).lt (.inf false) = false) := by
  refine ⟨?_, by decide +kernel, by decide +kernel⟩
  obtain ⟨p, hp, hb⟩ : ∃ p, (accessed.translate noCore (firstDie accessed.mode 0) 0 1 0 false true).1.toOption = some p ∧
      kplace (p.place (accessed.translate noCore (firstDie accessed.mode 0) 0 1 0 false true).2.mode 0 0) < 2 ^ 33 :=
    ⟨_, rfl, by decide +kernel⟩
  exact ⟨p, _, fst_eq (some_of hp), ⟨clean_of (by decide +kernel), by decide +kernel, migOf_none (by decide +kernel)⟩,
    by decide +kernel, hb⟩

/-! ## Steps -/

/-- The one agent of the base state has the turn, and its clause's next words are a nop. -/
theorem met_StepRunsDecoded : base.chosen = some ({ msg := .agent 0 }, []) ∧ base.admits { msg := .agent 0 } = true ∧
    (base.begin { msg := .agent 0 } []).fetches 0 ((base.begin { msg := .agent 0 } []).grpOf 0) = false ∧
    ((base.begin { msg := .agent 0 } []).grpOf 0).clause = some (theClause base) ∧
    (decode ((theClause base).words.drop (theClause base).wi)).map (fun p => p.1) = some .nop := by decide +kernel
theorem met_StepRunsDecoded_events :
    ({ base with groups := [], units := [], inbox := [{ msg := .clockLower }] } : State).chosen = some ({ msg := .clockLower }, []) ∧
    (Msg.clockLower).instr = some .clockLower := by decide +kernel
/-- A datagram that repeats a sequence number of its session, and one that fails authentication (R438). -/
theorem met_StepRunsDecoded_dropped :
    (let s := booted 0 allDone { sess := true, seqs := [7] }
     s.admits { msg := .mrDereg 0 1, seq := 7 } = false ∧ s.admits { msg := .mrDereg 0 1, seq := 8, auth := false } = false ∧
      s.admits { msg := .mrDereg 0 1, seq := 8 } = true) := by decide +kernel
theorem met_EveryStepGoesOn : ({ base with groups := [] } : State).chosen = none := by decide +kernel
theorem met_StepKeepsMemoryForm : Memory.wf base = true := by decide +kernel

/-! ## Decoding: words by the formats of R58 to R64, with the codes of R66 to R73 -/

/-- Formats V and U: OP, WS, D, A, B. -/
def wordV (op : BitVec 7) (ws : BitVec 1) (d a b : BitVec 8) : Word := op ++ ws ++ d ++ a ++ b
/-- Format B: OP, PK, NEG, offset. -/
def wordB (op : BitVec 7) (pk : BitVec 4) (neg : BitVec 1) (off : BitVec 20) : Word := op ++ pk ++ neg ++ off
/-- Format E: OP, FN, X, Y, Z. -/
def wordE (op : BitVec 7) (fn : BitVec 5) (x y : BitVec 6) (z : BitVec 8) : Word := op ++ fn ++ x ++ y ++ z
/-- The second word of format M: OFF8, AOP, INV, SCOPE, ORD, SPACE, SZ, E. -/
def wordM (off : BitVec 8) (aop : BitVec 4) (inv : BitVec 1) (scope : BitVec 3) (ord : BitVec 2) (space sz : BitVec 3)
    (e : BitVec 8) : Word := off ++ aop ++ inv ++ scope ++ ord ++ space ++ sz ++ e
/-- The words decode to the instruction and leave what follows. -/
def reads (ws : List Word) (i : Instr) : Bool := decode (ws ++ [7]) == some (i, [7])

/-- Words that the spec itself writes out (R57, R61, R67, R73 and the examples beside the instructions). -/
theorem test_words_of_the_spec :
    reads [0x02000000] .nop ∧ reads [0x49030182] (.fadd 1 3 1 0x82) ∧ reads [0x4C04C0FF] (.fmul 0 4 0xC0 0xFF) ∧
    reads [0x0E0A9000] (.modPrefix 5 2 0 1 0 0 0 0 0) ∧ reads [0x4E060102] (.ffma 0 6 1 2) ∧
    reads [0x80088A02, 0x04035200] (.ld 8 0x8A 2 4 0 3 1 2 2 0) ∧ reads [0x720201D5] (.shfx 0 2 1 0xD5) ∧
    reads [0x76830006] (.movsRead 0 0x83 6) ∧ reads [0x7600FF86] (.movsWrite 0xFF 6) ∧ reads [0xA1300000] (.fenceRel 3) ∧
    reads [0xB4720C00] (.collRset 8 12) ∧ reads [0xF0810A00] (.sysCkpt 4 10) ∧ reads [0xF2620900] (.ptHotl 8 9) ∧
    reads [0x860C8800, 0x00145300] (.ldtFe 0xC 0x88 0 0 0 4 1 2 3 0) ∧
    reads [0x880A8800, 0x00049300] (.sttEf 0xA 0x88 0 0 0 4 2 2 3 0) := by decide +kernel
/-- Transfers, integer and floating arithmetic, cross-lane. -/
theorem test_lane_words :
    reads [wordB 0x02 9 1 0x80001] (.br 9 1 0x80001) ∧ reads [wordB 0x03 5 0 0x7FFFE] (.call 5 0 0x7FFFE) ∧
    reads [wordE 0x04 0 62 0 0] (.jr 62) ∧ reads [wordE 0x04 1 0 0 0] .ret ∧ reads [wordE 0x05 0 33 0 1] (.jf 33 1) ∧
    reads [wordV 0x08 1 0x83 2 0xC1] (.iadd 1 0x83 2 0xC1) ∧ reads [wordV 0x0D 0 5 6 7] (.imad 0 5 6 7) ∧
    reads [wordV 0x18 0 5 6 7] (.sar 0 5 6 7) ∧ reads [wordV 0x1A 0 5 6 7] (.bfi 0 5 6 7) ∧
    reads [wordV 0x1C 0 4 6 8] (.iadd64 0 4 6 8) ∧ reads [wordV 0x22 0 0xC4 6 8] (.ule 0 0xC4 6 8) ∧
    reads [wordV 0x23 1 4 6 0x02] (.clz 1 4 6) ∧ reads [wordV 0x23 0 4 0xC4 0x0A] (.pkp 0 4 0xC4) ∧
    reads [wordV 0x25 0 4 6 8] (.fsub 0 4 6 8) ∧ reads [wordV 0x29 0 4 6 8] (.fmax 0 4 6 8) ∧
    reads [wordV 0x2D 0 0xC4 6 8] (.fle 0 0xC4 6 8) ∧ reads [wordV 0x2F 0 4 6 0x05] (.fsin 0 4 6) ∧
    reads [wordV 0x2F 0 4 6 0x43] (.cvtFromF32 0 4 6 3) ∧ reads [wordV 0x2F 0 4 6 0x6C] (.cvtToF32 0 4 6 12) ∧
    reads [wordV 0x32 0 4 6 8] (.hfma2 0 4 6 8) ∧ reads [wordV 0x37 0 4 6 8] (.bdot2 0 4 6 8) ∧
    reads [wordV 0x38 0 4 6 0x81] (.shfl 0 4 6 0x81) ∧ reads [wordV 0x3A 0 4 6 0x00] (.ballot 0 4 6) ∧
    reads [wordV 0x3A 0 4 6 0x0C] (.pffadd 0 4 6) ∧ reads [wordV 0x3A 0 4 6 0x0E] (.laneFirst 0 4 6) := by decide +kernel
/-- Memory, ordering, synchronization, work. -/
theorem test_memory_words :
    reads [wordV 0x41 0 4 0x82 5, wordM 0x80 0 0 2 2 1 5 0] (.st 4 0x82 5 0x80 0 2 2 1 5 0) ∧
    reads [wordV 0x42 0 4 0x82 5, wordM 1 0 0 4 3 2 3 6] (.atomAdd 4 0x82 5 1 0 4 3 2 3 6) ∧
    reads [wordV 0x45 0 3 0x82 0x85, wordM 1 0 1 4 0 3 2 0] (.ldtile 3 0x82 0x85 1 1 4 0 3 2 0) ∧
    reads [wordV 0x46 0 3 0x82 0x85, wordM 1 0 0 4 2 3 2 0] (.sttile 3 0x82 0x85 1 0 4 2 3 2 0) ∧
    reads [wordV 0x47 0 0 0x82 5, wordM 1 0 0 0 0 3 2 0] (.prf 0 0x82 5 1 0 0 0 3 2 0) ∧
    reads [wordE 0x50 29 0 0 0] (.fenceAr 5) ∧ reads [wordE 0x51 0 4 8 3] (.sobjBind 4 8 3) ∧
    reads [wordE 0x51 4 4 8 1] (.sobjTryacq 4 8 1) ∧ reads [wordE 0x52 7 0 0 255] (.waitc 7 255) ∧
    reads [wordE 0x53 0 0 0 0] .drain ∧ reads [wordE 0x54 1 4 8 63] (.queueAllow 4 8 63) ∧
    reads [wordE 0x54 5 4 8 63] (.queueTrypop 4 8 63) ∧ reads [wordE 0x55 4 0 0 63] (.abarArrwait 63) ∧
    reads [wordE 0x56 1 4 8 0] (.verQver 4 8) ∧ reads [wordE 0x58 11 4 0 0] (.cpyOpb 4) ∧
    reads [wordE 0x59 0 4 0 0x7F] (.cfetch 4 1 63) ∧ reads [wordE 0x5A 4 4 8 0b100110] (.collRsct 4 8 2 1 2) ∧
    reads [wordE 0x5B 1 4 0 63] (.cntTrig 4 63) ∧ reads [wordE 0x5C 1 4 8 0] (.dspNext 4 8) ∧
    reads [wordE 0x5D 0 4 8 0] (.presentPost 4 8) ∧ reads [wordE 0x70 0 4 8 64] (.taskSubmit 4 8 64) ∧
    reads [wordE 0x70 1 4 0 1] (.taskDoneWait 4) ∧ reads [wordE 0x71 3 4 8 3] (.lvlOpen 4 8 3) ∧
    reads [wordE 0x71 5 4 8 0] (.lvlBudget 4 8) ∧ reads [wordE 0x72 1 4 0 0] (.schedSleep 4) ∧
    reads [wordE 0x74 1 0 0 15] (.xregRel 15) := by decide +kernel
/-- The matrix engine, encodings, rays, trees, system and translation. -/
theorem test_engine_words :
    reads [wordE 0x60 0 4 8 15] (.mres 4 8 15) ∧ reads [wordE 0x60 1 0 0 15] (.mresRel 15) ∧
    reads [wordE 0x61 0 4 8 255] (.mwld 4 8 255) ∧ reads [wordE 0x62 7 4 8 1] (.mma 7 4 8 1) ∧
    reads [wordE 0x63 0 4 8 0] (.mloop 4 8) ∧ reads [wordE 0x64 0 4 0 0] (.mbat 4) ∧
    reads [wordE 0x65 5 4 8 0b01001010] (.mdrn 5 4 8 2 2 1 0) ∧ reads [wordE 0x65 13 4 8 0b01001001] (.mdrnAdd 5 4 8 2 2 0 1) ∧
    reads [wordE 0x66 0 0 0 0] .mtake ∧ reads [wordE 0x66 1 0 0 0] .mgive ∧ reads [wordE 0x66 14 0 0 0] (.mzero 6) ∧
    reads [wordE 0x67 0 4 8 7] (.mxq 4 8 7) ∧ reads [wordE 0x68 0 8 0 0] (.hgCfg 8) ∧ reads [wordE 0x68 1 4 0 12] (.hgEnc 4 12) ∧
    reads [wordE 0x68 2 4 0 12] (.hgGrad 4 12) ∧ reads [wordE 0x69 1 4 8 16] (.rayOccl 4 8 16) ∧
    reads [wordE 0x69 2 0 0 20] (.rayTri 20) ∧ reads [wordE 0x69 3 0 0 32] (.rayBox 32) ∧
    reads [wordE 0x6C 0 4 8 0] (.trInit 4 8) ∧ reads [wordE 0x6C 2 4 8 64] (.trExp 4 8 64) ∧
    reads [wordE 0x6C 7 4 8 0] (.trStat 4 8) ∧ reads [wordE 0x78 0 0 0 9] (.sysTrap 9) ∧ reads [wordE 0x78 1 0 0 0] .sysEret ∧
    reads [wordE 0x78 4 0 0 9] (.sysBkpt 9) ∧ reads [wordE 0x78 7 4 0 0x89] (.sysCsrw 4 0x89) ∧
    reads [wordE 0x79 2 0 0 0] .ptApply ∧ reads [wordE 0x79 3 4 8 0x89] (.ptMigb 4 8 0x89) ∧
    reads [wordE 0x79 5 4 0 0x89] (.ptMigd 4 0x89) := by decide +kernel
/-- Reserved majors, function codes and bits are refused (R65 to R73). -/
theorem test_words_refused :
    (([0, 0x02000001, 0xFE000000, wordV 0x3C 0 0 0 0, wordV 0x48 0 0 0 0, wordV 0x57 0 0 0 0, wordV 0x73 0 0 0 0,
      wordE 0x04 2 0 0 0, wordE 0x04 0 5 0 1, wordV 0x23 0 4 6 0x0C, wordV 0x2F 0 4 6 0x0A,
      wordV 0x3A 0 4 6 0x0F, wordE 0x50 8 0 0 1, wordE 0x51 5 0 0 0, wordE 0x58 12 4 0 0, wordE 0x66 2 0 0 0,
      wordE 0x78 9 0 0 0, wordE 0x79 7 0 0 0, wordE 0x79 0 1 0 0] : List Word).all fun w => (decode [w, 0]).isNone) = true := by decide +kernel

/-! ## Ill-formed instructions, one for each check of R41 on an instruction's own words -/

theorem test_wellFormed_accepts :
    ∀ i ∈ ([.iadd 0 3 1 0xFF, .iadd64 0 4 6 0xD5, .upkp 0 0xC4 5, .shfx 0 4 6 0x81, .ballot 0 4 6, .ldtFe 12 0x88 0 0 0 4 1 2 3 0,
      .atomCas 4 0x82 5 1 0 4 3 2 3 6, .sttile 3 0x82 0x85 1 0 4 2 3 2 0, .fenceAr 5, .sobjBind 4 8 3, .waitc 7 255,
      .collAred 4 8 2 0 3, .mdrn 5 4 8 2 2 1 0, .rayTrace 4 8 16, .trExp 4 8 64, .sysCsrw 4 0x89, .ptMigb 4 8 0x88] : List Instr),
      wellFormed i = true := by decide +kernel
theorem test_wellFormed_operands :
    ∀ i ∈ ([.modPrefix 0 7 0 0 0 0 0 0 0, .iadd 0 0xC0 1 2, .iadd 0 0xDF 1 2, .iadd 0 3 0xDF 2, .iadd 0 3 1 0xF0, .iadd64 0 5 6 8,
      .iadd64 0 4 7 8, .iadd64 0 0xC4 6 8, .pkp 0 3 5, .upkp 0 3 5, .shfl 0 0x83 6 7, .shfx 0 4 6 7, .ballot 0 0xC4 6,
      .pfadd 0 0x84 0x86, .cvtFromF32 0 4 6 0, .cvtToF32 0 4 6 15, .movsRead 0 3 8, .movsWrite 4 6, .movsWrite 0x84 5] : List Instr),
      wellFormed i = false := by decide +kernel
theorem test_wellFormed_memory :
    ∀ i ∈ ([.ld 8 0x8A 2 4 0 3 1 7 2 0, .ld 8 0x8A 2 4 0 3 1 2 6 0, .ld 8 0x8A 2 4 0 3 2 2 2 0, .ld 8 0x8A 2 4 0 6 1 2 2 0,
      .ld 8 0x8A 2 4 1 3 1 2 2 0, .ld 8 0x8A 2 4 0 3 1 2 2 1, .ld 8 0x0A 2 4 0 3 1 2 2 0, .ld 8 0x8B 2 4 0 3 1 3 2 0,
      .ld 9 0x8A 2 4 0 3 1 2 3 0, .ld 0x88 0x8A 2 4 0 3 1 2 2 0, .st 4 0x82 5 0 0 2 1 1 2 0, .atomFadd 4 0x82 5 1 0 4 3 2 3 6,
      .ldtFf 12 0x88 0 0 0 4 1 3 3 0, .sttEf 10 0x88 0 0 0 4 2 2 1 0, .ldtile 4 0x82 0x85 1 0 4 0 3 2 0,
      .sttile 3 0x82 5 1 0 4 2 3 2 0, .prf 1 0x82 5 1 0 0 0 3 2 0] : List Instr), wellFormed i = false := by decide +kernel
theorem test_wellFormed_engines :
    ∀ i ∈ ([.fenceAcq 6, .sobjBind 4 9 3, .sobjBind 4 8 4, .waitc 0 0, .waitc 8 0, .queuePush 4 64, .abarWait 4 64, .verPubv 5 8,
      .verQver 4 9, .verQver 4 61, .cfetch 5 0 9, .collAred 5 8 2 0 3, .collAred 4 8 3 0 3, .cntTrig 4 64, .mres 4 8 16,
      .mdrn 5 4 8 5 2 1 0, .mdrn 5 4 0 0 1 0 0, .mdrn 5 4 9 4 1 0 0, .mdrnAdd 5 4 0 1 1 0 0, .hgCfg 9, .hgEnc 4 13, .rayTrace 5 8 16,
      .rayTrace 4 8 12, .rayTri 0x80, .rayBox 62, .trInit 5 8, .trDesc 4 8 0, .trExp 4 8 65, .taskSubmit 4 8 0, .taskSubmit 4 8 65,
      .lvlOpen 4 8 1, .lvlOpen 5 8 2, .lvlLaunch 5 8, .xregAcq 0, .sysSegw 5 2, .sysSegw 4 7, .sysCsrr 5 8, .sysCsrr 4 9, .sysCkpt 5 8,
      .ptInv 5 8, .ptMigb 4 9 0x88, .ptMigf 4 8] : List Instr), wellFormed i = false := by decide +kernel

/-- A supervisor with every feature and block (R41). -/
def allowed (priv : Bool) : FetchAs := { steer := false, priv := priv, feat := 0x7FF, blocks := 15 }
theorem met_GroupEvents_check :
    ((allowed true).steer = false ∧ (allowed true).feat.testBit 0 = true ∧ (allowed true).feat % 2 ^ 11 = 2 ^ 11 - 1) ∧
    -- the last words of a segment
    ((4096 - 16 * 4) % 4096 / 4 + 15 < 1024 ∧ 1024 ≤ (4096 - 15 * 4) % 4096 / 4 + 15 ∧ (4096 - 15 * 4) % 4 = 0) ∧
    14 + 1 + ([] : List Word).length ≤ 15 ∧ 0 % 4096 / 4 + 14 + 1 + ([] : List Word).length < 1024 ∧
    -- an FN that is not assigned, a fence with a field, a form that user privilege does not have, one that it has
    (let w := wordE 0x04 2 0 0 0
     nbits w.toNat 31 25 = 0x04 ∧ nbits w.toNat 24 20 ∉ [0, 1]) ∧
    (let w := wordE 0x50 8 0 1 0
     nbits w.toNat 31 25 = 0x50 ∧ nbits w.toNat 13 8 ≠ 0) ∧
    (let w := wordE 0x53 0 0 0 0
     nbits w.toNat 31 25 = 0x53 ∧ nbits w.toNat 24 20 = 0 ∧ nbits w.toNat 19 0 = 0 ∧ (allowed false).priv = false) ∧
    (let w := wordE 0x55 4 0 0 63
     nbits w.toNat 31 25 = 0x55 ∧ nbits w.toNat 24 20 = 4 ∧ nbits w.toNat 19 14 = 0 ∧ nbits w.toNat 13 8 = 0 ∧ nbits w.toNat 7 0 ≤ 63) ∧
    -- a branch that is not last, and one out of its segment; an uniform destination of a per-thread source
    (nbits (wordB 0x02 9 1 0x80000).toNat 31 25 = 0x02 ∧ ((0 : ℤ) + 4 * sintOf 20 (nbits (wordB 0x02 9 1 0x80000).toNat 19 0) < 0)) ∧
    (let w := wordV 0x08 0 0x83 2 0xC1
     8 ≤ nbits w.toNat 31 25 ∧ nbits w.toNat 31 25 ≤ 0x37 ∧ 0x80 ≤ nbits w.toNat 23 16 ∧ nbits w.toNat 15 8 < 0x80) ∧
    -- a load in constant space with ORD 1
    (let w := wordV 0x40 0 8 0x8A 2
     let m := wordM 4 0 0 3 1 4 2 0
     nbits w.toNat 31 25 = 0x40 ∧ nbits m.toNat 13 11 = 4 ∧ nbits m.toNat 15 14 ≠ 0) := by decide +kernel

/-! ## Single steps; the expected results are worked out by hand from the rules named -/

/-- The group after one step on this word with these s-registers. -/
def stepped (w : Word) (l : List (Nat × Word)) : Option Group :=
  match step (withRegs (State.reset.withFetchWord 32 w.toNat) l) with
  | .next t => some (t.grpOf 0)
  | _ => none
/-- The s-register that one step leaves. -/
def sAfter (w : Word) (l : List (Nat × Word)) (r : Nat) : Option Word := (stepped w l).map fun g => g.sAt r

/-- R136: the sum wraps. -/
theorem test_iadd_wraps : sAfter (wordV 0x08 0 0x83 0x81 0x82) [(1, 0xFFFFFFFF), (2, 3)] 3 = some 2 := by decide +kernel
/-- R136: the high half of −2 · 3 is all ones. -/
theorem test_imulhs_sign : sAfter (wordV 0x0B 0 0x83 0x81 0x82) [(1, 0xFFFFFFFE), (2, 3)] 3 = some 0xFFFFFFFF := by
  decide +kernel
/-- R136: a source that is also the destination is read before it is written. -/
theorem test_isub_in_place : sAfter (wordV 0x09 0 0x81 0x82 0x81) [(1, 5), (2, 3)] 1 = some 0xFFFFFFFE := by decide +kernel
/-- R137: a shift by 32 of a negative number. -/
theorem test_sar_full : sAfter (wordV 0x18 0 0x83 0x81 0x82) [(1, 0x80000000), (2, 32)] 3 = some 0xFFFFFFFF := by decide +kernel
/-- R137: a shift by 64 takes bits [5:0] of the count, 0. -/
theorem test_shl_count : sAfter (wordV 0x16 0 0x83 0x81 0x82) [(1, 5), (2, 64)] 3 = some 5 := by decide +kernel
/-- R142: brev. -/
theorem test_brev : sAfter (wordV 0x23 0 0x83 0x81 0x05) [(1, 1)] 3 = some 0x80000000 := by decide +kernel
/-- R111, R144: 1 + 2^−24 is a tie, which goes to the even 1; 2^−24 more is rounded up. -/
theorem test_fadd_tie : sAfter (wordV 0x24 0 0x83 0x81 0x82) [(1, 0x3F800000), (2, 0x33800000)] 3 = some 0x3F800000 := by
  decide +kernel
theorem test_fadd_up : sAfter (wordV 0x24 0 0x83 0x81 0x82) [(1, 0x3F800001), (2, 0x33800000)] 3 = some 0x3F800002 := by
  decide +kernel
/-- R111: the inexact flag, NX. -/
theorem test_fadd_flag : (stepped (wordV 0x24 0 0x83 0x81 0x82) [(1, 0x3F800000), (2, 0x33800000)]).map (fun g => g.fflags &&& fNX)
    = some fNX := by decide +kernel
/-- R57: the suppressed write leaves the register and writes the latch: 2.0 + 0.25 = 2.25. -/
theorem test_ws : (stepped (wordV 0x24 1 0x83 0x81 0x82) [(1, 0x40000000), (2, 0x3E800000), (3, 7)]).map
    (fun g => (g.sAt 3, g.bAt 0 0)) = some (7, 0x40100000) := by decide +kernel
/-- R413: a call links the clause behind its own, here with N = 4, and goes to its target. -/
theorem test_call : (stepped (wordB 0x03 15 0 8) []).map (fun g => (g.sAt 62, (g.slices.getD 0 {}).pc)) = some (20, 32) := by
  decide +kernel
/-- R416: exit ends every thread. -/
theorem test_exit : (stepped 0x0C000000 []).map (fun g => g.slices.all fun x => x.finished) = some true := by decide +kernel
/-- R459: sys.trap ends the unit with an error. -/
theorem test_trap : (match step (State.reset.withFetchWord 32 0xF0000009) with
    | .next t => some ((t.unitAt 1).ending, (t.unitAt 1).errored)
    | _ => none) = some (true, true) := by decide +kernel

end Sys2Proof.Tests
end

section
/-!
Reads and writes at their homes (R1, R234, R237, R252, R432): a write in HBM leaves its blocks under the writer's key, its writer
sees it at once, and bytes that stand under the reader's key read as they are stored.
-/
namespace Sys2Proof.Machine

/-! ## What an access at a home depends on besides bytes -/

/-- Two states agree on the devices and the package, by which places are routed and keys chosen. -/
structure State.SameHomes (s t : State) : Prop where
  devs : t.devs = s.devs
  pkg : t.pkg = s.pkg

theorem State.SameHomes.trans {s t u : State} (h : s.SameHomes t) (h' : t.SameHomes u) : s.SameHomes u :=
  ⟨h'.devs.trans h.devs, h'.pkg.trans h.pkg⟩

theorem State.SameHomes.migOf {s t : State} (h : s.SameHomes t) (a : Nat) : t.migOf a = s.migOf a := by
  unfold State.migOf; rw [h.devs]

theorem State.SameHomes.accessKey {s t : State} (h : s.SameHomes t) (ka : Nat) : t.accessKey ka = s.accessKey ka := by
  unfold State.accessKey State.keyOf State.devAt State.mode; rw [h.devs, h.pkg]

theorem State.route_of_noMig {s : State} (h : ∀ a, s.migOf a = none) (ka : Nat) : s.route ka = ka := by
  simp [State.route, h]

/-! ## What storing bytes leaves alone -/

theorem State.rawN_eq (s : State) (a n v : Nat) : s.rawN a n v = { s with mem := (s.rawN a n v).mem } := by
  induction n generalizing s a v with
  | zero => rfl
  | succ n ih => rw [State.rawN, ih]; rfl

theorem State.stored_eq (s : State) (a n : Nat) :
    s.stored a n = { s with
      poison := (s.stored a n).poison, latent := (s.stored a n).latent, crc := (s.stored a n).crc } := by
  have cleanse : s.cleanse a n = { s with poison := (s.cleanse a n).poison, latent := (s.cleanse a n).latent } := by
    unfold State.cleanse; dsimp only; split <;> rfl
  have flit (t : State) : t.flitDone a n = { t with poison := (t.flitDone a n).poison, crc := (t.flitDone a n).crc } := by
    unfold State.flitDone State.poisonAt State.crcDone
    split
    · rfl
    · split <;> split <;> rfl
  unfold State.stored
  rw [flit, cleanse]

theorem State.markLines_of_noMig {s : State} (h : ∀ a, s.migOf a = none) (a n : Nat) : s.markLines a n = s := by
  unfold State.markLines
  generalize List.range _ = l
  induction l with
  | nil => rfl
  | cons i l ih => rw [List.foldl_cons, State.markDirty, h]; exact ih

theorem State.overwrite_eq {s : State} (h : ∀ a, s.migOf a = none) (a n : Nat) :
    s.overwrite a n = { s with past := (s.overwrite a n).past } := by
  unfold State.overwrite
  rw [State.markLines_of_noMig h]
  split <;> rfl

/-- With no migration record a new write adds itself to what is not yet visible everywhere, and owes nothing to a device. -/
theorem State.newWrite_eq {s : State} (h : ∀ a, s.migOf a = none) (agent core a n named : Nat) (va : Option (Nat × Nat)) :
    ∃ w past, s.newWrite agent core a n named va = { s with vis := w :: s.vis, past := past } ∧
      w.core = core ∧ w.addr = a ∧ w.old.length = n := by
  unfold State.newWrite
  exact ⟨_, _, State.overwrite_eq (by exact h) a n, rfl, rfl, by simp [State.rdBytes]⟩

/-! ## Re-encryption (R432) -/

/-- A block of HBM written anew under a key, where it was under another. -/
def State.rekeyBlock (key : Nat) (s : State) (blk : Nat) : State :=
  if FMap.get 0 s.crypt blk = key then s
  else { s.rawN (16 * blk) 16 (s.blockUnder key (16 * blk) (s.rdN (16 * blk) 16)) with crypt := FMap.put 0 s.crypt blk key }

/-- The 16-byte blocks that n bytes at a touch. -/
def blocksOf (a n : Nat) : List Nat := (List.range ((a + n - 1) / 16 - a / 16 + 1)).map fun i => a / 16 + i

theorem State.rekey_eq (s : State) (key a n : Nat) :
    s.rekey key a n = if isHbm a then (blocksOf a n).foldl (State.rekeyBlock key) s else s := rfl

theorem mem_blocksOf {a n b : Nat} (hn : 0 < n) : b ∈ blocksOf a n ↔ a / 16 ≤ b ∧ b ≤ (a + n - 1) / 16 := by
  simp only [blocksOf, List.mem_map, List.mem_range]
  constructor
  · rintro ⟨i, hi, rfl⟩; omega
  · intro h; exact ⟨b - a / 16, by omega, by omega⟩

theorem State.rekeyBlock_frame (key : Nat) (s : State) (blk : Nat) :
    s.SameHomes (s.rekeyBlock key blk) ∧ (s.rekeyBlock key blk).vis = s.vis := by
  unfold State.rekeyBlock
  split
  · exact ⟨⟨rfl, rfl⟩, rfl⟩
  · rw [State.rawN_eq]; exact ⟨⟨rfl, rfl⟩, rfl⟩

theorem State.crypt_rekeyBlock (key : Nat) (s : State) (blk b : Nat) :
    FMap.get 0 (s.rekeyBlock key blk).crypt b = if b = blk then key else FMap.get 0 s.crypt b := by
  unfold State.rekeyBlock
  split
  next h => split <;> simp_all
  · by_cases hb : b = blk
    · simp [hb]
    · simp [hb, FMap.get_put_other]

theorem State.rdByte_rekeyBlock (key : Nat) (s : State) {blk q : Nat} (h : q / 16 ≠ blk) :
    (s.rekeyBlock key blk).rdByte q = s.rdByte q := by
  unfold State.rekeyBlock
  split
  · rfl
  · exact State.rdByte_rawN_outside _ _ _ s (by omega)

theorem State.rekeyBlocks_frame (key : Nat) (s : State) (l : List Nat) :
    s.SameHomes (l.foldl (State.rekeyBlock key) s) ∧ (l.foldl (State.rekeyBlock key) s).vis = s.vis := by
  induction l generalizing s with
  | nil => exact ⟨⟨rfl, rfl⟩, rfl⟩
  | cons blk l ih =>
    obtain ⟨homes, vis⟩ := s.rekeyBlock_frame key blk
    exact ⟨homes.trans (ih _).1, (ih _).2.trans vis⟩

theorem State.crypt_rekeyBlocks (key : Nat) (s : State) (l : List Nat) (b : Nat) :
    FMap.get 0 (l.foldl (State.rekeyBlock key) s).crypt b = if b ∈ l then key else FMap.get 0 s.crypt b := by
  induction l generalizing s with
  | nil => rfl
  | cons blk l ih =>
    rw [List.foldl_cons, ih, State.crypt_rekeyBlock]
    by_cases hb : b = blk <;> simp [hb]

theorem State.rdByte_rekeyBlocks (key : Nat) (s : State) {l : List Nat} {q : Nat} (h : q / 16 ∉ l) :
    (l.foldl (State.rekeyBlock key) s).rdByte q = s.rdByte q := by
  induction l generalizing s with
  | nil => rfl
  | cons blk l ih =>
    rw [List.mem_cons, not_or] at h
    exact (ih _ h.2).trans (State.rdByte_rekeyBlock key s h.1)

theorem State.rekey_frame (s : State) (key a n : Nat) :
    s.SameHomes (s.rekey key a n) ∧ (s.rekey key a n).vis = s.vis := by
  rw [State.rekey_eq]
  split
  · exact State.rekeyBlocks_frame key s _
  · exact ⟨⟨rfl, rfl⟩, rfl⟩

theorem isHbm_iff {a : Nat} : isHbm a = true ↔ 2 ^ 40 ≤ a := by
  simp only [isHbm, pow2, Nat.one_shiftLeft, decide_eq_true_eq]

/-- Places from a place of HBM on are in HBM. -/
theorem isHbm_mono {a b : Nat} (h : isHbm a = true) (hab : a ≤ b) : isHbm b = true :=
  isHbm_iff.2 ((isHbm_iff.1 h).trans hab)

/-- After it every byte that the n touch in HBM is under the key. -/
theorem State.writtenUnder_rekey (s : State) {key a n i : Nat} (ha : isHbm a = true) (hi : i < n) :
    (s.rekey key a n).writtenUnder (a + i) = key := by
  have hmem : (a + i) / 16 ∈ blocksOf a n := (mem_blocksOf (by omega)).2 (by omega)
  rw [State.rekey_eq, if_pos ha, State.writtenUnder, if_pos (isHbm_mono ha (by omega)), State.crypt_rekeyBlocks, if_pos hmem]

/-- It writes no byte outside the blocks of HBM that the n touch. -/
theorem State.rdByte_rekey_outside (s : State) {key a n q : Nat} (hn : 0 < n)
    (h : isHbm q = true → q / 16 < a / 16 ∨ (a + n - 1) / 16 < q / 16) : (s.rekey key a n).rdByte q = s.rdByte q := by
  rw [State.rekey_eq]
  split
  next ha =>
    refine State.rdByte_rekeyBlocks key s fun hq => ?_
    rw [mem_blocksOf hn] at hq
    have hbm : isHbm q = true := by rw [isHbm_iff] at ha ⊢; omega
    have := h hbm
    omega
  · rfl

/-! ## Reading -/

theorem State.rdN_eq_sum (s : State) (a n : Nat) :
    s.rdN a n = ((List.range n).map fun i => (s.rdByte (a + i)).toNat * 256 ^ i).sum := by
  induction n generalizing a with
  | zero => rfl
  | succ n ih =>
    rw [State.rdN, ih, List.range_succ_eq_map, List.map_cons, List.sum_cons, List.map_map, ← List.sum_map_mul_left]
    simp only [Nat.add_zero, pow_zero, mul_one]
    refine congrArg ((s.rdByte a).toNat + List.sum ·) (List.map_congr_left fun i _ => ?_)
    simp only [Function.comp_apply, Nat.succ_eq_add_one, pow_succ]
    rw [show a + 1 + i = a + (i + 1) by omega]; ring

/-- Bytes that stand under the key of the read are returned as they are stored. -/
theorem State.plainN_of_writtenUnder {s : State} {rd : Nat → Nat → Nat} {key a n : Nat}
    (hk : ∀ i < n, s.writtenUnder (a + i) = key) (hr : ∀ i < n, rd (a + i) 1 = (s.rdByte (a + i)).toNat) :
    s.plainN rd key a n = s.rdN a n := by
  induction n generalizing a with
  | zero => rfl
  | succ n ih =>
    have first : s.plain rd key a = (s.rdByte a).toNat := by
      have hk₀ : s.writtenUnder a = key := hk 0 n.succ_pos
      have hr₀ : rd a 1 = (s.rdByte a).toNat := hr 0 n.succ_pos
      rw [State.plain, if_pos hk₀, hr₀]
      exact Nat.mod_eq_of_lt (s.rdByte a).isLt
    have later : s.plainN rd key (a + 1) n = s.rdN (a + 1) n := by
      refine ih (fun i hi => ?_) fun i hi => ?_
      · rw [show a + 1 + i = a + (i + 1) by omega]; exact hk _ (by omega)
      · rw [show a + 1 + i = a + (i + 1) by omega]; exact hr _ (by omega)
    rw [State.plainN, State.rdN, first, later]

theorem State.seenN_one (s : State) (core die : Nat) (bound : Bool) (a : Nat) :
    s.seenN core die bound a 1 = (seenByte core die bound a s.vis (s.rdByte a)).toNat := rfl

/-- Its writer sees the newest write. -/
theorem seenByte_own {w : VisW} {a : Nat} (l : List VisW) (die : Nat) (bound : Bool) (b : Byte) (h : w.covers a = true) :
    seenByte w.core die bound a (w :: l) b = b := by
  simp [seenByte, VisW.seenBy, h]

/-- With no migration record a read serves its own place, if its slot holds a key. -/
theorem State.readAt_eq {s : State} (h : ∀ a, s.migOf a = none) {ka key : Nat} (hk : s.accessKey ka = some key)
    (core die n : Nat) (va : Option (Nat × Nat)) :
    s.readAt core die ka n va = s.plainN (s.seenN core die (s.boundAt core (kplace ka) n va)) key (kplace ka) n := by
  simp only [State.readAt, State.route_of_noMig h, hk]

/-- A read with nothing in flight returns the bytes at their home. -/
theorem State.readAt_eq_rdN {s : State} (h : ∀ a, s.migOf a = none) (hv : s.vis = []) {ka key n : Nat}
    (hk : s.accessKey ka = some key) (hw : ∀ i < n, s.writtenUnder (kplace ka + i) = key) (core die : Nat)
    (va : Option (Nat × Nat)) : s.readAt core die ka n va = s.rdN (kplace ka) n := by
  rw [State.readAt_eq h hk]
  refine State.plainN_of_writtenUnder hw fun i _ => ?_
  rw [State.seenN_one, hv, seenByte]

theorem State.readAt_of_noKey {s : State} (h : ∀ a, s.migOf a = none) {ka : Nat} (hk : s.accessKey ka = none)
    (core die n : Nat) (va : Option (Nat × Nat)) : s.readAt core die ka n va = 0 := by
  simp only [State.readAt, State.route_of_noMig h, hk]

/-- An invariant load of bytes not written since its launch began is a load. -/
theorem State.readInvariant_of_unwritten {s : State} (h : ∀ a, s.migOf a = none) {t ka n : Nat}
    (hs : s.writtenSince t (kplace ka) n = false) (core die pick : Nat) (va : Option (Nat × Nat)) :
    s.readInvariant core die t pick ka n va = s.readAt core die ka n va := by
  unfold State.readInvariant
  rw [State.route_of_noMig h]
  dsimp only
  split
  · rw [hs]; rfl
  next hk => rw [State.readAt_of_noKey h hk]

/-! ## Writing -/

/-- A write with its key: the parts of `writeAt`. -/
theorem State.writeAt_eq {s : State} (h : ∀ a, s.migOf a = none) {ka key : Nat} (hk : s.accessKey ka = some key)
    (agent core n v : Nat) (va : Option (Nat × Nat)) :
    s.writeAt agent core ka n v va =
      (((s.rekey key (kplace ka) n).newWrite agent core (kplace ka) n (kplace ka) va).rawN (kplace ka) n v).stored
        (kplace ka) n := by
  unfold State.writeAt
  rw [State.route_of_noMig h]
  dsimp only
  rw [hk]

theorem State.writeAt_of_noKey {s : State} (h : ∀ a, s.migOf a = none) {ka : Nat} (hk : s.accessKey ka = none)
    (agent core n v : Nat) (va : Option (Nat × Nat)) : s.writeAt agent core ka n v va = s := by
  simp only [State.writeAt, State.route_of_noMig h, hk]

theorem State.rdN_writeAt {s : State} (h : ∀ a, s.migOf a = none) {ka key : Nat} (hk : s.accessKey ka = some key)
    (agent core n v : Nat) (va : Option (Nat × Nat)) :
    (s.writeAt agent core ka n v va).rdN (kplace ka) n = v % 256 ^ n := by
  rw [State.writeAt_eq h hk, State.rdN_of_mem (State.stored_mem _ _ _), State.rdN_rawN]

/-- What a write leaves: the same homes, its blocks under its key, itself as the newest write not yet visible everywhere. -/
theorem State.writeAt_frame {s : State} (h : ∀ a, s.migOf a = none) {ka key : Nat} (hk : s.accessKey ka = some key)
    (agent core n v : Nat) (va : Option (Nat × Nat)) :
    s.SameHomes (s.writeAt agent core ka n v va) ∧
    (s.writeAt agent core ka n v va).crypt = (s.rekey key (kplace ka) n).crypt ∧
    ∃ w, (s.writeAt agent core ka n v va).vis = w :: s.vis ∧ w.core = core ∧ w.addr = kplace ka ∧ w.old.length = n := by
  obtain ⟨homes, vis⟩ := s.rekey_frame key (kplace ka) n
  obtain ⟨w, past, hw, own⟩ := State.newWrite_eq (fun a => (homes.migOf a).trans (h a)) agent core (kplace ka) n (kplace ka) va
  rw [State.writeAt_eq h hk, State.stored_eq, State.rawN_eq, hw]
  exact ⟨⟨homes.devs, homes.pkg⟩, rfl, w, by rw [← vis], own⟩

/-- After a write the n bytes stand under its key; in SRAM, which has none, they always do. -/
theorem State.writtenUnder_writeAt {s : State} (h : ∀ a, s.migOf a = none) {ka key n i : Nat} (hk : s.accessKey ka = some key)
    (hend : isHbm (kplace ka + n - 1) = isHbm (kplace ka)) (hi : i < n) (agent core v : Nat) (va : Option (Nat × Nat)) :
    (s.writeAt agent core ka n v va).writtenUnder (kplace ka + i) = key := by
  obtain ⟨-, hcrypt, -⟩ := State.writeAt_frame h hk agent core n v va
  have same : (s.writeAt agent core ka n v va).writtenUnder (kplace ka + i) =
      (s.rekey key (kplace ka) n).writtenUnder (kplace ka + i) := by simp only [State.writtenUnder, hcrypt]
  rw [same]
  cases ha : isHbm (kplace ka) with
  | true => exact s.writtenUnder_rekey ha hi
  | false =>
    have hlow : isHbm (kplace ka + i) = false :=
      Bool.eq_false_iff.2 fun hi' => Bool.eq_false_iff.1 (hend.trans ha) (isHbm_mono hi' (by omega))
    have : key = 0 := by simpa [State.accessKey, ha, eq_comm] using hk
    rw [State.writtenUnder, hlow, this]; rfl

/-- What a core writes it reads back at once (R234, R252). -/
theorem State.readAt_writeAt {s : State} (h : ∀ a, s.migOf a = none) {ka key n : Nat} (hk : s.accessKey ka = some key)
    (hend : isHbm (kplace ka + n - 1) = isHbm (kplace ka)) (agent core die v : Nat) :
    (s.writeAt agent core ka n v).readAt core die ka n = v % 256 ^ n := by
  obtain ⟨homes, -, w, hvis, rfl, haddr, hlen⟩ := State.writeAt_frame h hk agent core n v none
  rw [State.readAt_eq (fun a => (homes.migOf a).trans (h a)) ((homes.accessKey ka).trans hk)]
  refine (State.plainN_of_writtenUnder (fun i hi => State.writtenUnder_writeAt h hk hend hi _ _ _ _) fun i hi => ?_).trans
    (State.rdN_writeAt h hk _ _ _ _ _)
  rw [State.seenN_one, hvis, seenByte_own _ _ _ _ (by simp only [VisW.covers, haddr, hlen, decide_eq_true_eq]; omega)]

theorem State.writeAt_sameOutside {s : State} (h : ∀ a, s.migOf a = none) {ka n : Nat} (hn : 0 < n)
    (agent core v : Nat) : sameOutside s (s.writeAt agent core ka n v) n [ka] := by
  intro q hq hblock
  cases hk : s.accessKey ka with
  | none => rw [State.writeAt_of_noKey h hk]
  | some key =>
    rw [State.writeAt_eq h hk, State.rdByte_of_mem (State.stored_mem _ _ _),
      State.rdByte_rawN_outside _ _ _ _ (hq ka (by simp)), State.rdByte_of_mem (State.newWrite_mem _ _ _ _ _ _ _)]
    exact State.rdByte_rekey_outside s hn fun hbm => hblock hbm ka (by simp)

/-- Settles O21: reads of bytes under their own key are reads of their homes; a write leaves its bytes there, under its key and
seen by its core. -/
theorem readsSeeWrites : Obligations.ReadsSeeWrites := by
  unfold Obligations.ReadsSeeWrites
  intro s agent core die ka n v hn _ hmig _ hend
  refine ⟨fun hvis hsome hw => ?_, fun hsome => ?_, State.writeAt_sameOutside hmig hn agent core v, fun hk => ?_,
    fun t pick hs => State.readInvariant_of_unwritten hmig hs core die pick none⟩
  · obtain ⟨key, hk⟩ := Option.isSome_iff_exists.mp hsome
    rw [State.readAt_eq_rdN hmig hvis hk (fun i hi => Option.some.inj ((hw i hi).trans hk)), State.rdN_eq_sum]
  · obtain ⟨key, hk⟩ := Option.isSome_iff_exists.mp hsome
    exact ⟨State.readAt_writeAt hmig hk hend agent core die v, State.rdN_writeAt hmig hk agent core n v none⟩
  · exact ⟨State.writeAt_of_noKey hmig hk agent core n v none, State.readAt_of_noKey hmig hk core die n none⟩

end Sys2Proof.Machine
end

section
/-!
What the parts of a step keep. A step is made of functions from state to state; each is given one lemma, whose proof is the
chain of the lemmas of the functions that it calls, with a case for each branch. What is kept: no step and no cycle is counted,
which the end of a step alone does, and memory stays in its canonical form. So every instruction and every event but a boot
keeps it.
-/
namespace Sys2Proof.Machine

/-! ## The relation -/

/-- A part of a step that leads from s₀ to s counts no step and no cycle and keeps the form of memory. -/
structure State.Keeps (s₀ s : State) : Prop where
  count : s.count = s₀.count
  cycle : s.cycle = s₀.cycle
  wf : Memory.wf s₀ = true → Memory.wf s = true

/-- The same of a function that returns a state beside its result. As a predicate of the pair it is compared by the pair's
parts; stated of the pair's second part, the kernel would evaluate the walk of a page table that decides which pair it is. -/
def State.KeepsOut {α : Type} (s₀ : State) (p : α × State) : Prop := s₀.Keeps p.2

/-- The same of the state that an event leads to, if it takes place. -/
def State.KeepsAny (s₀ : State) : Option State → Prop
  | some t => s₀.Keeps t
  | none => True

/-- The same of what an instruction's body asks for. -/
def Eff.Keeps (s₀ : State) : Eff → Prop
  | .done t => s₀.Keeps t
  | .moved t => s₀.Keeps t
  | .wait => True
  | .trap _ => True
  | .trapIn t _ => s₀.Keeps t

/-- The same of the next state of an instruction or an event, which no refusal takes the place of. -/
def State.Ends (s₀ : State) : Host.Outcome State Fault Refusal → Prop
  | .next t => s₀.Keeps t
  | .fault _ => True
  | .refused _ => False

/-! ## Through the forms of a definition -/

section
variable {s₀ s t : State} {α β : Type} {c : Prop} {_ : Decidable c}

namespace State.Keeps

theorem refl (s : State) : s.Keeps s := ⟨rfl, rfl, id⟩

/-- An update of any fields but memory and the two counters. -/
theorem upd {cur msg inbox outbox waits lazy tok tags crypt poison latent crc eccDue groups cores units ctxs devs dies pkg
    parked sobjQ vis past since tlb2 owed stalled levels spent vers colls decls} (h : s₀.Keeps s) :
    s₀.Keeps ⟨cur, msg, inbox, outbox, s.cycle, waits, s.count, lazy, tok, s.mem, tags, crypt, poison, latent, crc,
      eccDue, groups, cores, units, ctxs, devs, dies, pkg, parked, sobjQ, vis, past, since, tlb2, owed, stalled, levels,
      spent, vers, colls, decls⟩ :=
  ⟨h.count, h.cycle, h.wf⟩

/-- The state beside a result, where a pattern has named it. -/
theorem out {p : α × State} {a : α} (h : s₀.Keeps p.2) (e : p = (a, t)) : s₀.Keeps t := by
  subst e; exact h

theorem out₂ {p : α × β × State} {a : α} {b : β} (h : s₀.Keeps p.2.2) (e : p = (a, b, t)) : s₀.Keeps t := by
  subst e; exact h

theorem ite (hs : s₀.Keeps s) (ht : s₀.Keeps t) : s₀.Keeps (if c then s else t) := by
  split <;> assumption

/-- A step taken on a condition. -/
theorem when (hs : s₀.Keeps s) (ht : s₀.Keeps s → s₀.Keeps t) : s₀.Keeps (if c then t else s) := ite (ht hs) hs

theorem whenNot (hs : s₀.Keeps s) (ht : s₀.Keeps s → s₀.Keeps t) : s₀.Keeps (if c then s else t) := ite hs (ht hs)

theorem foldl {f : State → α → State} {l : List α} (h : s₀.Keeps s) (hf : ∀ t x, s₀.Keeps t → s₀.Keeps (f t x)) :
    s₀.Keeps (l.foldl f s) := by
  induction l generalizing s with
  | nil => exact h
  | cons x l ih => exact ih (hf _ _ h)

theorem elim {o : Option α} {f : α → State} (h : s₀.Keeps s) (hf : ∀ x, s₀.Keeps (f x)) : s₀.Keeps (o.elim s f) := by
  cases o with
  | none => exact h
  | some x => exact hf x

end State.Keeps

namespace State.KeepsOut

theorem mk {a : α} (h : s₀.Keeps t) : s₀.KeepsOut (a, t) := h

theorem ite {p q : α × State} (hp : s₀.KeepsOut p) (hq : s₀.KeepsOut q) : s₀.KeepsOut (if c then p else q) := by
  split <;> assumption

theorem foldl {f : β × State → α → β × State} {l : List α} {p : β × State} (h : s₀.KeepsOut p)
    (hf : ∀ p x, s₀.Keeps p.2 → s₀.KeepsOut (f p x)) : s₀.KeepsOut (l.foldl f p) := by
  induction l generalizing p with
  | nil => exact h
  | cons x l ih => exact ih (hf _ _ h)

end State.KeepsOut

theorem State.Keeps.foldlPair {f : β × State → α → β × State} {l : List α} {p : β × State} (h : s₀.Keeps p.2)
    (hf : ∀ p x, s₀.Keeps p.2 → s₀.Keeps (f p x).2) : s₀.Keeps (l.foldl f p).2 :=
  State.KeepsOut.foldl h hf

namespace State.KeepsAny

theorem some (h : s₀.Keeps s) : s₀.KeepsAny (some s) := h

theorem none : s₀.KeepsAny none := trivial

theorem ite {o p : Option State} (ho : s₀.KeepsAny o) (hp : s₀.KeepsAny p) : s₀.KeepsAny (if c then o else p) := by
  split <;> assumption

theorem of_eq {o : Option State} (h : s₀.KeepsAny o) (e : o = Option.some t) : s₀.Keeps t := by
  rw [e] at h; exact h

end State.KeepsAny

namespace Eff.Keeps

theorem done (h : s₀.Keeps s) : (Eff.done s).Keeps s₀ := h

theorem moved (h : s₀.Keeps s) : (Eff.moved s).Keeps s₀ := h

theorem wait : Eff.wait.Keeps s₀ := trivial

theorem trap {r} : (Eff.trap r).Keeps s₀ := trivial

theorem trapIn {r} (h : s₀.Keeps s) : (Eff.trapIn s r).Keeps s₀ := h

theorem ite {e f : Eff} (he : e.Keeps s₀) (hf : f.Keeps s₀) : (if c then e else f).Keeps s₀ := by
  split <;> assumption

end Eff.Keeps

namespace State.Ends

theorem next (h : s₀.Keeps s) : s₀.Ends (.next s) := h

theorem ite {o p : Host.Outcome State Fault Refusal} (ho : s₀.Ends o) (hp : s₀.Ends p) :
    s₀.Ends (if c then o else p) := by
  split <;> assumption

end State.Ends

end

/-- Induction on the number by which a function recurs, one unfolding at a time: the equation that the function has at a
successor would make the kernel evaluate its branches. -/
theorem brecOn_induction {α : Type} (F : (n : Nat) → Nat.below (motive := fun _ => α) n → α) {P : α → Prop}
    (zero : ∀ B, P (F 0 B))
    (succ : ∀ n (B : Nat.below (motive := fun _ => α) (Nat.succ n)), P B.1 → P (F (Nat.succ n) B)) (n : Nat) :
    P (Nat.brecOn (motive := fun _ => α) n F) := by
  induction n with
  | zero => exact zero _
  | succ n ih => exact succ n _ ih

end Sys2Proof.Machine
end

section
/-! The parts of the state: what each function keeps. -/
namespace Sys2Proof.Machine
namespace State.Keeps
variable {s₀ s : State}

theorem setGrpOf {a g} (h : s₀.Keeps s) : s₀.Keeps (s.setGrpOf a g) := h.upd

theorem setGrp {g} (h : s₀.Keeps s) : s₀.Keeps (s.setGrp g) := h.setGrpOf

theorem setCore {c x} (h : s₀.Keeps s) : s₀.Keeps (s.setCore c x) := h.upd

theorem setUnit {u x} (h : s₀.Keeps s) : s₀.Keeps (s.setUnit u x) := h.upd

theorem setDev {d x} (h : s₀.Keeps s) : s₀.Keeps (s.setDev d x) := h.upd

theorem setDie {d x} (h : s₀.Keeps s) : s₀.Keeps (s.setDie d x) := h.upd

theorem setCtx {dev asid x} (h : s₀.Keeps s) : s₀.Keeps (s.setCtx dev asid x) := h.upd

theorem setPkg {p} (h : s₀.Keeps s) : s₀.Keeps (s.setPkg p) := h.upd

theorem send {m} (h : s₀.Keeps s) : s₀.Keeps (s.send m) := h.upd

theorem fresh (h : s₀.Keeps s) : s₀.Keeps s.fresh.2 := h.upd

end State.Keeps
end Sys2Proof.Machine
end

section
/-! Memory at its homes: what each function keeps. -/
namespace Sys2Proof.Machine
namespace State.Keeps
variable {s₀ s : State}

theorem wrByte {a b} (h : s₀.Keeps s) : s₀.Keeps (s.wrByte a b) :=
  ⟨h.count, h.cycle, fun hw => State.wrByte_wf a b (h.wf hw)⟩

theorem rawN {a n v} (h : s₀.Keeps s) : s₀.Keeps (s.rawN a n v) := by
  fun_induction State.rawN s a n v with
  | case1 => exact h
  | case2 => rename_i ih; exact ih h.wrByte

theorem rawBytes {a bs} (h : s₀.Keeps s) : s₀.Keeps (s.rawBytes a bs) := by
  fun_induction State.rawBytes s a bs with
  | case1 => exact h
  | case2 => rename_i ih; exact ih h.wrByte

theorem markDirty {a} (h : s₀.Keeps s) : s₀.Keeps (s.markDirty a) := by
  fun_cases State.markDirty s a with
  | case1 => exact h.setDev
  | case2 | case3 => exact h

theorem markLines {a n} (h : s₀.Keeps s) : s₀.Keeps (s.markLines a n) := h.foldl fun _ _ h => h.markDirty

theorem cleanse {a n} (h : s₀.Keeps s) : s₀.Keeps (s.cleanse a n) := by
  fun_cases State.cleanse s a n with
  | case1 => exact h
  | case2 => exact h.upd

theorem publish {views which} (h : s₀.Keeps s) : s₀.Keeps (s.publish views which) := h.upd

theorem witness {die a n} (h : s₀.Keeps s) : s₀.Keeps (s.witness die a n) := h.publish

theorem settleAt {a n} (h : s₀.Keeps s) : s₀.Keeps (s.settleAt a n) := by
  fun_cases State.settleAt s a n with
  | case1 => exact h
  | case2 => exact h.publish

theorem overwrite {a n} (h : s₀.Keeps s) : s₀.Keeps (s.overwrite a n) := by
  fun_cases State.overwrite s a n with
  | case1 => exact h.markLines
  | case2 => exact h.markLines.upd

theorem crcDone {a n} (h : s₀.Keeps s) : s₀.Keeps (s.crcDone a n) := by
  fun_cases State.crcDone s a n with
  | case1 => exact h
  | case2 => exact h.upd

theorem poisonAt {a n} (h : s₀.Keeps s) : s₀.Keeps (s.poisonAt a n) := h.upd

theorem flitDone {a n} (h : s₀.Keeps s) : s₀.Keeps (s.flitDone a n) := by
  fun_cases State.flitDone s a n with
  | case1 => exact h
  | case2 => exact h.crcDone.poisonAt
  | case3 => exact h.crcDone

theorem stored {a n} (h : s₀.Keeps s) : s₀.Keeps (s.stored a n) := h.cleanse.flitDone

theorem wrN {a n v} (h : s₀.Keeps s) : s₀.Keeps (s.wrN a n v) := h.settleAt.overwrite.rawN.stored

theorem wrBytes {a bs} (h : s₀.Keeps s) : s₀.Keeps (s.wrBytes a bs) := h.settleAt.overwrite.rawBytes.stored

theorem newWrite {agent core a n named va} (h : s₀.Keeps s) : s₀.Keeps (s.newWrite agent core a n named va) :=
  h.upd.overwrite

theorem wrLate {a n v} (h : s₀.Keeps s) : s₀.Keeps (s.wrLate a n v) := h.newWrite.rawN.stored

theorem wrBytesFor {core a bs} (h : s₀.Keeps s) : s₀.Keeps (s.wrBytesFor core a bs) :=
  h.newWrite.rawBytes.stored

theorem dieUe {d n} (h : s₀.Keeps s) : s₀.Keeps (dieUe s d n) := h.setDie

theorem findErrors {a n} (h : s₀.Keeps s) : s₀.Keeps (s.findErrors a n) := by
  fun_cases State.findErrors s a n with
  | case1 => exact h
  | case2 => exact h.setDie.upd

theorem noteEcc {dev asid level addr} (h : s₀.Keeps s) : s₀.Keeps (s.noteEcc dev asid level addr) := by
  fun_cases State.noteEcc s dev asid level addr with
  | case1 => exact h
  | case2 => exact h.upd

theorem noteUnit {uid addr} (h : s₀.Keeps s) : s₀.Keeps (s.noteUnit uid addr) := h.noteEcc

theorem touch {a} (h : s₀.Keeps s) : s₀.Keeps (s.touch a) := by
  fun_cases State.touch s a with
  | case1 => exact h.setDev
  | case2 | case3 => exact h

theorem keyError {dev} (h : s₀.Keeps s) : s₀.Keeps (s.keyError dev) := h.setDev

theorem served {ka n} (h : s₀.Keeps s) : s₀.Keeps (s.served ka n) := by
  fun_cases State.served s ka n with
  | case1 => exact h.findErrors.touch
  | case2 => exact h.findErrors.touch.keyError

theorem rekey {key a n} (h : s₀.Keeps s) : s₀.Keeps (s.rekey key a n) := by
  fun_cases State.rekey s key a n with
  | case1 => exact h.foldl fun _ _ h => h.whenNot fun h => h.rawN.upd
  | case2 => exact h

theorem writeAt {agent core ka n v va} (h : s₀.Keeps s) : s₀.Keeps (s.writeAt agent core ka n v va) := by
  fun_cases State.writeAt s agent core ka n v va with
  | case1 => exact h
  | case2 => exact h.rekey.newWrite.rawN.stored

theorem wrHome {a n v} (h : s₀.Keeps s) : s₀.Keeps (s.wrHome a n v) := h.wrN

theorem wrHomeFor {core a n v} (h : s₀.Keeps s) : s₀.Keeps (s.wrHomeFor core a n v) := h.wrBytesFor

theorem badRead {a n} (h : s₀.Keeps s) : s₀.Keeps (s.badRead a n).2 := h.findErrors.crcDone

theorem badHome {a n} (h : s₀.Keeps s) : s₀.Keeps (s.badHome a n).2 := h.badRead

theorem putTag {a full} (h : s₀.Keeps s) : s₀.Keeps (s.putTag a full) := h.upd

end State.Keeps
end Sys2Proof.Machine
end

section
/-! Level objects and arrivals: what each function keeps. -/
namespace Sys2Proof.Machine
namespace State.Keeps
variable {s₀ s : State}

theorem owe {op} (h : s₀.Keeps s) : s₀.Keeps (s.owe op) := h.upd

theorem lvSetCtr {dev l v} (h : s₀.Keeps s) : s₀.Keeps (s.lvSetCtr dev l v) := by
  fun_cases State.lvSetCtr s dev l v with
  | case1 => exact h.owe
  | case2 => exact h.wrN

theorem lvSetFlag {dev l i} (h : s₀.Keeps s) : s₀.Keeps (s.lvSetFlag dev l i) := by
  fun_cases State.lvSetFlag s dev l i with
  | case1 => exact h.owe
  | case2 => exact h.wrN

theorem lvAdd {dev l d} (h : s₀.Keeps s) : s₀.Keeps (s.lvAdd dev l d) := by
  fun_cases State.lvAdd s dev l d with
  | case1 => exact h.owe
  | case2 => exact h.findErrors
  | case3 => exact h.findErrors.lvSetCtr

theorem lvErrUp {dev l} (h : s₀.Keeps s) : s₀.Keeps (s.lvErrUp dev l) := by
  fun_cases State.lvErrUp s dev l with
  | case1 => exact h.owe
  | case2 => exact h.wrN

theorem lvOpen {dev asid l kind ctr flags parent budget} (h : s₀.Keeps s) :
    s₀.Keeps (s.lvOpen dev asid l kind ctr flags parent budget) := by
  fun_cases State.lvOpen s dev asid l kind ctr flags parent budget with
  | case1 => exact h.owe
  | case2 => exact h.wrN.wrN.wrN.wrN.wrN.wrN.wrN.cleanse.putTag.upd

theorem updGroup {agent unit f} (h : s₀.Keeps s) : s₀.Keeps (s.updGroup agent unit f) := by
  fun_cases State.updGroup s agent unit f with
  | case1 => exact h.setGrpOf
  | case2 => exact h.upd

theorem deliver {agent unit tok vals} (h : s₀.Keeps s) : s₀.Keeps (s.deliver agent unit tok vals) :=
  h.updGroup

theorem deliverNow {agent unit tok vals} (h : s₀.Keeps s) : s₀.Keeps (s.deliverNow agent unit tok vals) :=
  h.updGroup

theorem deliverRegs {agent unit tok regs vals} (h : s₀.Keeps s) : s₀.Keeps (s.deliverRegs agent unit tok regs vals) :=
  h.updGroup

theorem lower {agent unit cls} (h : s₀.Keeps s) : s₀.Keeps (s.lower agent unit cls) := h.updGroup

theorem bindMembers {dev off uid} (h : s₀.Keeps s) : s₀.Keeps (s.bindMembers dev off uid) := h.upd

theorem arrive {u} (h : s₀.Keeps s) : s₀.Keeps (s.arrive u) := by
  fun_cases State.arrive s u with
  | case1 => exact (h.fresh.out ‹_›).setUnit.setCore.bindMembers
  | case2 => exact (h.fresh.out ‹_›).setUnit.setCore

theorem openUnit {uid ctr flags} (h : s₀.Keeps s) : s₀.Keeps (s.openUnit uid ctr flags) := by
  fun_cases State.openUnit s uid ctr flags with
  | case1 => exact h
  | case2 => exact h.setUnit.lvOpen.bindMembers

theorem setNode {dev n x} (h : s₀.Keeps s) : s₀.Keeps (s.setNode dev n x) := h.setDev

theorem nodeErrors {dev n} (h : s₀.Keeps s) : s₀.Keeps (s.nodeErrors dev n) := by
  fun_cases State.nodeErrors s dev n with
  | case1 => exact h.findErrors.lvSetFlag.noteEcc
  | case2 => exact h.findErrors

theorem takeRecords {dev n} (h : s₀.Keeps s) : s₀.Keeps (s.takeRecords dev n).2 :=
  (((h.foldl fun _ _ h => h.findErrors).setNode).lvAdd).when fun h => h.lvSetFlag.noteEcc

theorem putRecords {u recs} (h : s₀.Keeps s) : s₀.Keeps (s.putRecords u recs) :=
  h.foldl fun _ _ h => h.wrBytes

theorem startNodeUnit {dev n} (h : s₀.Keeps s) : s₀.Keeps (s.startNodeUnit dev n) := by
  unfold State.startNodeUnit
  extract_lets e x asid
  split
  case h_1 => exact h
  case h_2 =>
    split
    next lost s₁ hlost =>
      extract_lets s₂ r r' lv
      have h₂ : s₀.Keeps s₂ := (h.badHome.out hlost).when fun h => h.noteEcc
      split
      next recs s₃ hrecs =>
        have h₃ := h₂.takeRecords.out hrecs
        exact h₃.lvAdd.setNode.setUnit.fresh.openUnit.ite h₃.lvAdd.setNode.arrive

theorem serveDone {dev n w} (h : s₀.Keeps s) : s₀.Keeps (s.serveDone dev n w) := by
  fun_cases State.serveDone s dev n w
  exact (h.takeRecords.out ‹_›).setNode.putRecords.setGrpOf.deliverNow.lower

theorem dropWaiters {dev n} (h : s₀.Keeps s) : s₀.Keeps (s.dropWaiters dev n) :=
  h.setNode.foldl fun _ _ h => h.setGrpOf.deliverNow.lower

theorem dispatchNode {dev n k} (h : s₀.Keeps s) : s₀.Keeps (s.dispatchNode dev n k) := by
  fun_induction State.dispatchNode s dev n k with
  | case1 | case2 | case5 | case6 => exact h
  | case3 => rename_i ih; exact ih h.serveDone
  | case4 => rename_i ih; exact ih h.startNodeUnit

theorem dispatch {dev n} (h : s₀.Keeps s) : s₀.Keeps (s.dispatch dev n) := by
  fun_cases State.dispatch s dev n with
  | case1 => exact h.nodeErrors.dispatchNode.dropWaiters
  | case2 => exact h.nodeErrors.dispatchNode

theorem operandFull {dev n slot} (h : s₀.Keeps s) : s₀.Keeps (s.operandFull dev n slot) :=
  h.setNode.fresh.dispatch

theorem dropBins {dev graph} (h : s₀.Keeps s) : s₀.Keeps (s.dropBins dev graph) :=
  h.foldl fun _ _ h => h.setNode.upd.lvAdd.dropWaiters

theorem dropArrival {uid err} (h : s₀.Keeps s) : s₀.Keeps (s.dropArrival uid err) :=
  h.setCore.openUnit.setUnit.lvSetCtr

theorem cancelUnit {dev l} (h : s₀.Keeps s) : s₀.Keeps (s.cancelUnit dev l) := by
  fun_cases State.cancelUnit s dev l with
  | case1 => exact h
  | case2 => exact h.foldl fun _ _ h => h.updGroup
  | case3 => exact h.dropArrival

theorem cancelOne {dev l} (h : s₀.Keeps s) : s₀.Keeps (s.cancelOne dev l) := by
  fun_cases State.cancelOne s dev l with
  | case1 => exact h.lvSetFlag.cancelUnit
  | case2 => exact (h.lvSetFlag.foldl fun _ _ h => h.dropArrival).dropBins
  | case3 => exact h.lvSetFlag

theorem cancelLevel {dev l} (h : s₀.Keeps s) : s₀.Keeps (s.cancelLevel dev l) :=
  h.foldl fun _ _ h => h.cancelOne

theorem publishVer {a ok payload} (h : s₀.Keeps s) : s₀.Keeps (s.publishVer a ok payload) :=
  (h.wrN.wrN.ite h.wrN).wrN

theorem settleVer {dev off ok} (h : s₀.Keeps s) : s₀.Keeps (s.settleVer dev off ok) := by
  fun_cases State.settleVer s dev off ok with
  | case1 => exact h.owe
  | case2 => exact h.publishVer

theorem endVersions {dev l ok} (h : s₀.Keeps s) : s₀.Keeps (s.endVersions dev l ok) :=
  h.upd.foldl fun _ _ h => h.settleVer

end State.Keeps
end Sys2Proof.Machine
end

section
/-! Walks and translations: what each function keeps. -/
namespace Sys2Proof.Machine
namespace State.Keeps
variable {s₀ s : State}

theorem updateLeaf {die dev asid va write touch fuel w} (h : s₀.Keeps s) :
    s₀.Keeps (s.updateLeaf die dev asid va write touch fuel w).2 := by
  delta State.updateLeaf
  revert s w
  refine brecOn_induction (State.updateLeaf._f die dev asid va write touch)
    (P := fun f => ∀ {s : State} {w : Walked}, s₀.Keeps s → s₀.KeepsOut (f s w)) ?_ ?_ fuel
  · exact fun _ _ _ h => h
  · intro n B ih s w h
    refine .ite h (.ite h.touch.writeAt ?_)
    extract_lets t
    split
    · exact h.publish
    · exact ih h.publish

theorem touchWalk {die dev asid va} (h : s₀.Keeps s) : s₀.Keeps (s.touchWalk die dev asid va) :=
  h.foldl fun _ _ h => h.findErrors.touch

theorem freshWalk {die dev asid va write touch} (h : s₀.Keeps s) :
    s₀.Keeps (s.freshWalk die dev asid va write touch).2 := by
  show s₀.KeepsOut _
  rw [show @State.freshWalk = _ by delta State.freshWalk; rfl]
  extract_lets t
  split
  · exact h.touchWalk
  · exact h.touchWalk.updateLeaf

theorem hold {core asid p} (h : s₀.Keeps s) : s₀.Keeps (s.hold core asid p) := by
  fun_cases State.hold s core asid p with
  | case1 => exact h
  | case2 => exact h.setCore.upd

theorem translateVia {via core die dev asid va write touch} (h : s₀.Keeps s) :
    s₀.Keeps (s.translateVia via core die dev asid va write touch).2 := by
  show s₀.KeepsOut _
  have hfresh := h.freshWalk (die := die) (dev := dev) (asid := asid) (va := va) (write := write) (touch := touch)
  rw [show @State.translateVia = _ by delta State.translateVia; rfl]
  obtain ⟨fresh, hf⟩ : ∃ f, @State.freshWalk = f := exists_eq'
  obtain ⟨walk, hw⟩ : ∃ f, @State.walk = f := exists_eq'
  rw [hf] at hfresh ⊢
  rw [hw]
  extract_lets need done walked
  have hdone (p : Page) {t : State} (ht : s₀.Keeps t) : s₀.KeepsOut (done p t) := .ite ht ht
  have hwalked : s₀.KeepsOut (walked s) := by
    dsimp only [walked]
    split
    next ht => exact hfresh.out ht
    next ht => exact hdone _ (hfresh.out ht).hold
  split
  · exact hwalked
  · exact .ite (hdone _ h) (.ite (hdone _ h) hwalked)

theorem translate {core die dev asid va write touch} (h : s₀.Keeps s) :
    s₀.Keeps (s.translate core die dev asid va write touch).2 :=
  h.translateVia

theorem dropHeld {dev gone} (h : s₀.Keeps s) : s₀.Keeps (s.dropHeld dev gone) := h.upd

theorem dropWindows {core} (h : s₀.Keeps s) : s₀.Keeps (s.dropWindows core) := by
  fun_cases State.dropWindows s core with
  | case1 => exact h.upd
  | case2 => exact h

theorem logEntry {die n} (h : s₀.Keeps s) : s₀.Keeps (s.logEntry die n).2.2 := by
  fun_cases State.logEntry s die n with
  | case1 => exact h
  | case2 => exact h.badHome.out ‹_›

theorem applyOne {die} (h : s₀.Keeps s) : s₀.Keeps (s.applyOne die) := by
  fun_cases State.applyOne s die
  exact (((h.logEntry.out₂ ‹_›).foldl fun _ _ h => (h.whenNot fun h => h.setCore).dropWindows).upd).setDie

theorem applyEntries {die k} (h : s₀.Keeps s) : s₀.Keeps (s.applyEntries die k) := by
  fun_induction State.applyEntries s die k with
  | case1 => exact h
  | case2 => rename_i ih; exact ih h.applyOne

theorem applyLog {die} (h : s₀.Keeps s) : s₀.Keeps (s.applyLog die) := by
  fun_cases State.applyLog s die with
  | case1 => exact h.applyEntries
  | case2 => exact h

theorem releaseAt {core scope} (h : s₀.Keeps s) : s₀.Keeps (s.releaseAt core scope) := by
  fun_cases State.releaseAt s core scope with
  | case1 => exact h
  | case2 => exact h.publish

theorem acquireAt {core scope} (h : s₀.Keeps s) : s₀.Keeps (s.acquireAt core scope) := by
  fun_cases State.acquireAt s core scope with
  | case1 => exact h.applyLog
  | case2 => exact h

end State.Keeps
end Sys2Proof.Machine
end

section
/-! Tags: what each function keeps. -/
namespace Sys2Proof.Machine
namespace State.Keeps
variable {s₀ s : State}

theorem reTag {a full} (h : s₀.Keeps s) : s₀.Keeps (s.reTag a full) := by
  fun_cases State.reTag s a full with
  | case1 => exact h
  | case2 => exact h.putTag

theorem performTag {r} (h : s₀.Keeps s) : s₀.Keeps (s.performTag r) := by
  fun_cases State.performTag s r with
  | case1 | case2 | case3 =>
    refine ((h.served.when fun h => h.crcDone).when fun h => h.setGrpOf).ite ?_
    split
    · exact (((h.served.when fun h => h.crcDone).deliverRegs).witness).acquireAt
    · exact ((h.served.when fun h => h.crcDone).deliverRegs).witness
  | case4 =>
    refine State.Keeps.reTag (((h.served.when fun h => h.crcDone).when fun h => h.setGrpOf).ite ?_)
    split
    · exact (((h.served.when fun h => h.crcDone).deliverRegs).witness).acquireAt
    · exact ((h.served.when fun h => h.crcDone).deliverRegs).witness
  | case5 | case6 | case7 => exact (((h.served.when fun h => h.crcDone).writeAt).when fun h => h.setGrpOf).reTag
  | case8 => exact (h.served.when fun h => h.crcDone).operandFull

theorem serveTags {a k} (h : s₀.Keeps s) : s₀.Keeps (s.serveTags a k) := by
  fun_induction State.serveTags s a k with
  | case1 | case2 => exact h
  | case3 => rename_i ih; exact ih h.upd.performTag

theorem setTag {a full} (h : s₀.Keeps s) : s₀.Keeps (s.setTag a full) := h.reTag.serveTags

theorem arriveTag {r} (h : s₀.Keeps s) : s₀.Keeps (s.arriveTag r) := by
  fun_cases State.arriveTag s r with
  | case1 => exact h.performTag.serveTags
  | case2 => exact h.upd

end State.Keeps
end Sys2Proof.Machine
end

section
/-! Groups, units, traps and the form of an instruction: what each function keeps. -/
namespace Sys2Proof.Machine
namespace State.Keeps
variable {s₀ s : State}

theorem closeBatch {a entry} (h : s₀.Keeps s) : s₀.Keeps (s.closeBatch a entry) := by
  fun_cases State.closeBatch s a entry
  exact (h.fresh.out ‹_›).setGrpOf.setCore

theorem passBaton {core} (h : s₀.Keeps s) : s₀.Keeps (s.passBaton core) := by
  fun_cases State.passBaton s core with
  | case1 => exact h.setCore
  | case2 | case3 => exact h.setCore.setGrpOf

theorem dropBaton {a} (h : s₀.Keeps s) : s₀.Keeps (s.dropBaton a) := by
  fun_cases State.dropBaton s a with
  | case1 => exact h.passBaton
  | case2 => exact h

theorem setSobj {obj w} (h : s₀.Keeps s) : s₀.Keeps (s.setSobj obj w) := h.wrHome

theorem serveSobj {obj k} (h : s₀.Keeps s) : s₀.Keeps (s.serveSobj obj k) := by
  fun_induction State.serveSobj s obj k with
  | case1 | case2 | case4 => exact h
  | case3 => rename_i ih; exact ih h.setSobj.upd.setGrpOf.applyLog

theorem freeSobj {obj shared} (h : s₀.Keeps s) : s₀.Keeps (s.freeSobj obj shared) := by
  fun_cases State.freeSobj s obj shared with
  | case1 => exact h.owe
  | case2 => exact h.setSobj.serveSobj

theorem publishBound {core obj} (h : s₀.Keeps s) : s₀.Keeps (s.publishBound core obj) := by
  fun_cases State.publishBound s core obj with
  | case1 => exact h
  | case2 => exact h.upd

theorem dropBinds {core gone} (h : s₀.Keeps s) : s₀.Keeps (s.dropBinds core gone) :=
  (h.whenNot fun h => h.publish).setCore

theorem dropHolds {a exits} (h : s₀.Keeps s) : s₀.Keeps (s.dropHolds a exits) :=
  h.setGrpOf.foldl fun _ _ h => (h.when fun h => h.publishBound).freeSobj

theorem servePool {core k} (h : s₀.Keeps s) : s₀.Keeps (s.servePool core k) := by
  fun_induction State.servePool s core k with
  | case1 | case2 | case4 => exact h
  | case3 => rename_i ih; exact ih h.setCore.setGrpOf

theorem releaseBlocks {a m} (h : s₀.Keeps s) : s₀.Keeps (s.releaseBlocks a m) := h.setGrpOf.servePool

theorem withdraw {a} (h : s₀.Keeps s) : s₀.Keeps (s.withdraw a) := by
  fun_cases State.withdraw s a with
  | case1 => exact h.upd.setCore.setUnit
  | case2 => exact h.upd.setCore.setUnit.setNode

theorem dropTagOps {a} (h : s₀.Keeps s) : s₀.Keeps (s.dropTagOps a) := h.upd

theorem exitGroup {a} (h : s₀.Keeps s) : s₀.Keeps (s.exitGroup a) := by
  fun_cases State.exitGroup s a with
  | case1 => exact h.setGrpOf.setUnit.lvAdd
  | case2 => exact h.closeBatch.setGrpOf.dropBaton.dropHolds.releaseBlocks.lvAdd

theorem appendRing {dev asid err size rec} (h : s₀.Keeps s) : s₀.Keeps (s.appendRing dev asid err size rec) := by
  fun_cases State.appendRing s dev asid err size rec with
  | case1 => exact h.send.wrBytes.cleanse.setCtx.setTag
  | case2 => exact h.send.setCtx

theorem killGroup {a} (h : s₀.Keeps s) : s₀.Keeps (s.killGroup a) := by
  fun_cases State.killGroup s a with
  | case1 => exact h
  | case2 =>
    exact ((((((h.withdraw.dropTagOps.whenNot fun h =>
      h.closeBatch).setGrpOf).dropBaton).dropHolds).releaseBlocks).when fun h => h.setUnit).lvSetCtr
  | case3 =>
    exact (((((h.withdraw.dropTagOps.whenNot fun h =>
      h.closeBatch).setGrpOf).dropBaton).dropHolds).releaseBlocks).when fun h => h.setUnit

theorem forget {a} (h : s₀.Keeps s) : s₀.Keeps (s.forget a) := h.withdraw.dropTagOps.setGrpOf

theorem terminate {uid err} (h : s₀.Keeps s) : s₀.Keeps (s.terminate uid err) :=
  h.setUnit.foldl fun _ _ h => h.whenNot fun h => h.forget.ite (h.when fun h => h.killGroup)

theorem failTrap {a t dbl} (h : s₀.Keeps s) : s₀.Keeps (s.failTrap a t dbl) :=
  ((((h.when fun h => h.wrBytesFor).appendRing).when fun h => h.settleAt).setGrpOf).terminate

theorem enterHandler {a t} (h : s₀.Keeps s) : s₀.Keeps (s.enterHandler a t) := by
  fun_cases State.enterHandler s a t with
  | case1 => exact h.failTrap
  | case2 => exact h.wrBytesFor.setGrpOf

theorem takeTrap {a t} (h : s₀.Keeps s) : s₀.Keeps (s.takeTrap a t) := by
  fun_cases State.takeTrap s a t with
  | case1 => exact h.failTrap
  | case2 => exact h.enterHandler

theorem takeCancel {a} (h : s₀.Keeps s) : s₀.Keeps (s.takeCancel a) := h.setGrpOf.terminate

theorem growCheck {core} (h : s₀.Keeps s) : s₀.Keeps (s.growCheck core) := by
  fun_cases State.growCheck s core with
  | case1 | case3 => exact h
  | case2 => exact h.setCore.takeTrap

theorem requestBlocks {a slices m src k} (h : s₀.Keeps s) : s₀.Keeps (s.requestBlocks a slices m src k) :=
  h.setGrpOf.setCore.servePool

theorem returnFrom {a hd} (h : s₀.Keeps s) : s₀.Keeps (s.returnFrom a hd) := h.setGrpOf

theorem closeClause (h : s₀.Keeps s) : s₀.Keeps s.closeClause := by
  fun_cases State.closeClause s with
  | case1 => exact h.setGrp.killGroup
  | case2 => exact h.setGrp.exitGroup
  | case3 => exact h.setGrp

theorem fallThrough {c} (h : s₀.Keeps s) : s₀.Keeps (s.fallThrough c) := h.setGrp

theorem advance {n count} (h : s₀.Keeps s) : s₀.Keeps (s.advance n count) := by
  fun_cases State.advance s n count with
  | case1 => exact h
  | case2 => exact h.setGrp.fallThrough.closeClause
  | case3 => exact h.setGrp

theorem parked {x : Ix} {w} (h : s₀.Keeps s) : s₀.Keeps (x.parked s w) := h.fallThrough.setGrp

theorem access {x : Ix} {cause} : (x.access cause).Keeps s₀ := trivial

theorem align {x : Ix} {addr} : (x.align addr).Keeps s₀ := trivial

theorem blocked (h : s₀.Keeps s) : s₀.Keeps s.blocked := h.upd

theorem registerError {a srcs} (h : s₀.Keeps s) : s₀.Keeps (s.registerError a srcs) := h.setCore.dieUe

theorem corrected {srcs} (h : s₀.Keeps s) : s₀.Keeps (s.corrected srcs) := by
  fun_cases State.corrected s srcs with
  | case1 => exact h.setGrp.setDie
  | case2 => exact h

theorem found {c n} (h : s₀.Keeps s) : s₀.Keeps (s.found c n).s := h.setGrp

theorem landed {x : Ix} {dsts} (h : s₀.Keeps s) : s₀.Keeps (x.landed dsts s) := by
  fun_cases Ix.landed x dsts s with
  | case1 => exact (h.when fun h => h.setGrp).whenNot fun h => h.setGrp
  | case2 => exact ((h.when fun h => h.setGrp).whenNot fun h => h.setGrp).setGrp

theorem outcome {x : Ix} {len dsts} {e : Eff} (hx : s₀.Keeps x.s) (h : s₀.Keeps s) (he : e.Keeps s₀) :
    s₀.Ends (x.outcome s len dsts e) := by
  cases e with
  | done t => exact (landed he).advance
  | moved t => exact closeClause he
  | wait => exact h.blocked
  | trap t => exact hx.takeTrap
  | trapIn t r => exact takeTrap he

theorem skip {x : Ix} (hx : s₀.Keeps x.s) : s₀.Keeps x.skip := hx.setGrp

/-- An instruction that issues keeps what its body keeps. -/
theorem issue {n srcs dsts body} (h : s₀.Keeps s) (hf : ∀ x : Ix, s₀.Keeps x.s → (body x).Keeps s₀) :
    s₀.Ends (issue s n srcs dsts body) := by
  unfold Machine.issue
  split
  · trivial
  next c _ =>
    have hx {t : State} (ht : s₀.Keeps t) : s₀.Keeps (t.found c n).s := ht.found
    exact .ite (hx h).skip.advance (.ite h.blocked (.ite (hx h).registerError.takeTrap
      ((hx h.corrected).outcome h (hf _ (hx h.corrected)))))

theorem priv {x : Ix} {e} (he : e.Keeps s₀) : (privileged x e).Keeps s₀ := by
  unfold Machine.privileged
  split
  · exact he
  · trivial

/-- So does an event. -/
theorem event {f} (hf : ∀ m, s₀.KeepsAny (f m)) : s₀.Ends (event s f) := by
  unfold Machine.event
  split
  next ht => exact (hf _).of_eq ht
  · trivial

end State.Keeps
end Sys2Proof.Machine
end

section
/-! Operands of the lanes: what each function keeps. -/
namespace Sys2Proof.Machine
namespace State.Keeps
variable {s₀ s : State}

theorem lanes {x : Ix} {ws d nd f} (hx : s₀.Keeps x.s) : s₀.Keeps (x.lanes ws d nd f) := by
  fun_cases Ix.lanes x ws d nd f <;> exact hx.setGrp

theorem laneInstr {ws d srcs nd f} (h : s₀.Keeps s) : s₀.Ends (laneInstr s ws d srcs nd f) :=
  h.issue fun _ hx => .done hx.lanes

theorem intInstr {ws d srcs f} (h : s₀.Keeps s) : s₀.Ends (intInstr s ws d srcs f) := h.laneInstr

end State.Keeps
end Sys2Proof.Machine
end

section
/-! Memory accesses: what each function keeps. -/
namespace Sys2Proof.Machine
namespace State.Keeps
variable {s₀ s : State}

theorem formWindow {pair} (h : s₀.Keeps s) : s₀.Keeps (s.formWindow pair) := by
  fun_cases State.formWindow s pair with
  | case1 => exact h.setGrp
  | case2 => exact h
  | case3 => exact h.translate.out ‹_›
  | case4 => exact (h.translate.out ‹_›).setGrp

theorem locate {x : Ix} {space base off disp bytes writes touch lane thread} (h : s₀.Keeps s) :
    s₀.Keeps (x.locate s space base off disp bytes writes touch lane thread).2 := by
  fun_cases Ix.locate x s space base off disp bytes writes touch lane thread with
  | case1 | case2 | case3 | case6 | case7 | case8 | case9 | case10 | case11 | case12 => exact h
  | case4 | case5 => exact h.translateVia.out ‹_›

theorem locateAll {x : Ix} {space base disp bytes writes touch l} (h : s₀.Keeps s) :
    s₀.Keeps (x.locateAll s space base disp bytes writes touch l).2 := by
  fun_induction Ix.locateAll x s space base disp bytes writes touch l with
  | case1 => exact h
  | case2 => rename_i ih; exact (ih (h.locate.out ‹_›)).out ‹_›

theorem foundPoison {kind es bytes} (h : s₀.Keeps s) : s₀.Keeps (s.foundPoison kind es bytes).2 :=
  (h.foldl fun _ _ h => h.served).foldl fun _ _ h => h.crcDone

theorem lookPoison {es bytes} (h : s₀.Keeps s) : s₀.Keeps (s.lookPoison es bytes).2 :=
  h.foldl fun _ _ h => h.findErrors

theorem performElems {o es} (h : s₀.Keeps s) : s₀.Keeps (s.performElems o es).2 := by
  fun_cases State.performElems s o es with
  | case1 | case2 => exact h
  | case3 => exact h.foldl fun _ _ h => h.writeAt.when fun h => h.poisonAt
  | case4 => exact (State.Keeps.foldlPair h fun _ _ h => h.witness.writeAt).out ‹_›
  | case5 => exact h.foldl fun _ _ h => h.arriveTag

theorem perform {x : Ix} {kind bytes es acq gen} (h : s₀.Keeps s) : (x.perform s kind bytes es acq gen).Keeps s₀ := by
  unfold Ix.perform
  split
  next tok s₁ hs₁ =>
    have h₁ := h.fresh.out hs₁
    extract_lets +onlyGivenNames op waits free way stays hot tagged
    split
    next early s₂ hs₂ =>
      have h₂ : s₀.Keeps s₂ := by
        split at hs₂
        · exact h₁.lookPoison.out hs₂
        · exact h₁.lookPoison.out hs₂
        · exact out h₁ hs₂
      split
      next bad s₃ hs₃ =>
        have h₃ : s₀.Keeps s₃ := by
          split at hs₃
          · exact out h₂ hs₃
          · exact h₂.foundPoison.out hs₃
        split
        · exact h₃
        · extract_lets +onlyGivenNames s₄ left all s₅
          have h₅ : s₀.Keeps s₅ := (h₃.when fun h => h.foldl fun _ _ h => h.served).when fun h => h.setGrp
          split
          next vals s₆ hs₆ =>
            have h₆ {g} : s₀.Keeps (s₆.setGrp g) := (h₅.performElems.out hs₆).setGrp
            dsimp only
            split
            · dsimp only [Eff.Keeps]
              split
              · exact h₆.whenNot fun h => h.acquireAt
              · exact h₆
            · exact h₆.upd

theorem afterReads {x : Ix} {e} (he : e.Keeps s₀) : (x.afterReads e).Keeps s₀ := by
  fun_cases Ix.afterReads x e with
  | case1 => exact trivial
  | case2 => exact he

theorem afterAcquires {x : Ix} {e} (he : e.Keeps s₀) : (x.afterAcquires e).Keeps s₀ := by
  fun_cases Ix.afterAcquires x e with
  | case1 => exact trivial
  | case2 => exact he

theorem afterAll {x : Ix} {e} (he : e.Keeps s₀) : (x.afterAll e).Keeps s₀ := by
  fun_cases Ix.afterAll x e with
  | case1 => exact trivial
  | case2 => exact he

theorem afterMoving {x : Ix} {e} (he : e.Keeps s₀) : (x.afterMoving e).Keeps s₀ := by
  fun_cases Ix.afterMoving x e with
  | case1 => exact trivial
  | case2 => exact he

theorem performPart {k o now} (h : s₀.Keeps s) : s₀.Keeps (s.performPart k o now) := by
  unfold State.performPart
  extract_lets +onlyGivenNames tagged
  have hb : s₀.KeepsOut (if o.kind = .store then ((none : Option MElem), now.foldl (fun s e => s.served e.addr
    o.bytes) s)
      else if tagged then (none, s) else s.foundPoison o.kind now o.bytes) :=
    .ite (h.foldl fun _ _ h => h.served) (.ite h h.foundPoison)
  split
  next bad s₁ hbad =>
    have h₁ := out hb hbad
    split
    · exact h₁.upd.updGroup
    · split
      next vals s₂ hvals =>
        extract_lets +onlyGivenNames left regs got s₃ s₄ s₅
        have h₄ : s₀.Keeps s₄ := (h₁.performElems.out hvals).upd.when fun h => h.setGrpOf
        have h₅ : s₀.Keeps s₅ := (h₄.when fun h => h.deliverRegs).ite (h₄.whenNot fun h => h.deliverRegs)
        split
        · exact h₅.when fun h => h.acquireAt
        · exact h₅

theorem execMemoryAccessPerform (h : s₀.Keeps s) : s₀.Ends (execMemoryAccessPerform s) := by
  refine event fun _ => ?_
  split
  · split
    · exact .some (h.whenNot fun h => h.performPart)
    · exact .some h
  · exact .none

theorem opened {x : Ix} {m} (hx : s₀.Keeps x.s) : s₀.Keeps (x.opened m).s := by
  fun_cases Ix.opened x m with
  | case1 => exact hx.formWindow
  | case2 => exact hx

theorem accessInstr {m kind uniform srcs dsts data data2} (h : s₀.Keeps s) :
    s₀.Ends (accessInstr s m kind uniform srcs dsts data data2) := by
  refine h.issue fun _ hx => .ite .wait ?_
  split
  split
  · exact .trapIn (hx.opened.locateAll.out ‹_›)
  · exact ((hx.opened.locateAll.out ‹_›).when fun h => h.releaseAt).perform

theorem atomic {m aop} (h : s₀.Keeps s) : s₀.Ends (atomic s m aop) := h.accessInstr

theorem tagInstr {m kind store} (h : s₀.Keeps s) : s₀.Ends (tagInstr s m kind store) := h.accessInstr

theorem tileInstr {m inv store} (h : s₀.Keeps s) : s₀.Ends (tileInstr s m inv store) := by
  unfold Machine.tileInstr
  extract_lets +onlyGivenNames t
  refine h.issue fun _ hx => .ite .wait (.ite align ?_)
  split
  split
  · exact .trapIn (hx.opened.locateAll.out ‹_›)
  · exact ((hx.opened.locateAll.out ‹_›).when fun h => h.releaseAt).perform

theorem execPrf {d a b off inv scope ord space sz e} (h : s₀.Keeps s) :
    s₀.Ends (execPrf d a b off inv scope ord space sz e s) := by
  unfold Machine.execPrf
  extract_lets +onlyGivenNames m
  refine h.issue fun _ hx => ?_
  extract_lets +onlyGivenNames x
  split
  refine .done ((hx.opened.locateAll.out ‹_›).foldl fun _ _ h => ?_)
  split
  · exact h.touch
  · exact h

end State.Keeps
end Sys2Proof.Machine
end

section
/-! Synchronization objects, queues and barriers: what each function keeps. -/
namespace Sys2Proof.Machine
namespace State.Keeps
variable {s₀ s : State}

theorem fenceAcqAt {core scope} (h : s₀.Keeps s) : s₀.Keeps (s.fenceAcqAt core scope) := by
  fun_cases State.fenceAcqAt s core scope with
  | case1 => exact h.releaseAt.acquireAt
  | case2 => exact h

theorem execFenceAcq {c} (h : s₀.Keeps s) : s₀.Ends (execFenceAcq c s) :=
  h.issue fun _ hx => .ite .wait (.done hx.fenceAcqAt)

theorem execFenceRel {c} (h : s₀.Keeps s) : s₀.Ends (execFenceRel c s) :=
  h.issue fun _ hx => .ite .wait (.done hx.releaseAt)

theorem execFenceAr {c} (h : s₀.Keeps s) : s₀.Ends (execFenceAr c s) :=
  h.issue fun _ hx => .ite .wait (.done hx.releaseAt.fenceAcqAt)

theorem object {x : Ix} {off} (hx : s₀.Keeps x.s) : s₀.Keeps (x.object off).2 := by
  fun_cases Ix.object x off
  exact hx.locate.out ‹_›

theorem unitState {x : Ix} {e} (hx : s₀.Keeps x.s) (he : e.Keeps s₀) : (x.unitState e).Keeps s₀ := by
  fun_cases Ix.unitState x e with
  | case1 => exact hx.dieUe.noteUnit.terminate
  | case2 => exact he

theorem withObject {x : Ix} {n f} (hx : s₀.Keeps x.s) (hf : ∀ a t, s₀.Keeps t → (f a t).Keeps s₀) :
    (x.withObject n f).Keeps s₀ := by
  refine hx.unitState ?_
  split
  next hobj => exact hx.object.out hobj
  next a t hobj =>
    have h : s₀.Keeps (t.findErrors (kplace (t.route a)) 8) := (hx.object.out hobj).findErrors
    dsimp only
    split
    · trivial
    · split
      · exact h
      · exact hf _ _ h

theorem execSobjBind {x y k} (h : s₀.Keeps s) : s₀.Ends (execSobjBind x y k s) :=
  h.issue fun _ hx => hx.withObject fun _ _ h₁ => .ite (.trapIn h₁) (.ite (.trapIn h₁) (.ite (.trapIn h₁) (.done
    h₁.dropBinds.setCore)))

theorem execSobjUnbind {x k} (h : s₀.Keeps s) : s₀.Ends (execSobjUnbind x k s) :=
  h.issue fun _ hx => hx.withObject fun _ _ h₁ => .ite (.trapIn h₁) (.done h₁.dropBinds)

theorem takeSobj {obj shared} (h : s₀.Keeps s) : s₀.Keeps (s.takeSobj obj shared) := h.setSobj.setGrp.applyLog

theorem execSobjAcq {x hd} (h : s₀.Keeps s) : s₀.Ends (execSobjAcq x hd s) := by
  refine h.issue fun _ hx => afterReads (hx.withObject fun _ _ h₁ => ?_)
  split
  · exact .trapIn h₁
  · exact .ite (.done h₁.takeSobj) (.moved h₁.parked.upd)

theorem execSobjTryacq {x y hd} (h : s₀.Keeps s) : s₀.Ends (execSobjTryacq x y hd s) := by
  refine h.issue fun _ hx => afterReads (hx.withObject fun _ _ h₁ => ?_)
  split
  · exact .trapIn h₁
  · extract_lets
    split
    exact .done ((((h₁.when fun h => h.takeSobj).fresh).out ‹_›).setGrp)

theorem execSobjRel {x} (h : s₀.Keeps s) : s₀.Ends (execSobjRel x s) := by
  refine h.issue fun _ hx => afterReads (hx.withObject fun _ _ h₁ => ?_)
  split
  · exact .trapIn h₁
  · exact .ite .wait (.done h₁.publishBound.setGrp.freeSobj)

theorem execWaitc {c n} (h : s₀.Keeps s) : s₀.Ends (execWaitc c n s) :=
  h.issue fun _ hx => .ite (.done hx) (.moved hx.parked)

theorem execDrain (h : s₀.Keeps s) : s₀.Ends (execDrain s) :=
  h.issue fun _ hx => priv (.ite (.done hx.releaseAt.fenceAcqAt) (.moved hx.parked))

theorem setQueue {uid q x} (h : s₀.Keeps s) : s₀.Keeps (s.setQueue uid q x) := h.setUnit

theorem enqueue {uid q vals} (h : s₀.Keeps s) : s₀.Keeps (s.enqueue uid q vals) := h.wrBytesFor.setQueue

theorem queueError {uid q} (h : s₀.Keeps s) : s₀.Keeps (s.queueError uid q) :=
  h.findErrors.noteUnit.setUnit.terminate

theorem dequeue {uid q} (h : s₀.Keeps s) : s₀.Keeps (s.dequeue uid q).2 := h.findErrors.setQueue

theorem serveQueue {uid q k} (h : s₀.Keeps s) : s₀.Keeps (s.serveQueue uid q k) := by
  fun_induction State.serveQueue s uid q k with
  | case1 | case5 | case6 | case8 | case9 => exact h
  | case2 => exact h.queueError
  | case3 => rename_i ih; exact ih (h.setQueue.dequeue.out ‹_›).setGrpOf.deliver
  | case4 | case7 => rename_i ih; exact ih h.setQueue.setGrpOf.enqueue

theorem execQueueInit {x y q} (h : s₀.Keeps s) : s₀.Ends (execQueueInit x y q s) :=
  h.issue fun _ hx => hx.unitState (.ite access (.ite access (.done hx.setQueue)))

theorem execQueueAllow {x y q} (h : s₀.Keeps s) : s₀.Ends (execQueueAllow x y q s) :=
  h.issue fun _ hx => hx.unitState (.ite access (.done hx.setQueue))

theorem execQueuePush {x q} (h : s₀.Keeps s) : s₀.Ends (execQueuePush x q s) := by
  refine h.issue fun _ hx => hx.unitState (afterAll ?_)
  extract_lets
  split
  · exact access
  · exact .ite (.done hx.releaseAt.setGrp.enqueue.serveQueue) (.moved hx.releaseAt.setGrp.parked.setQueue.serveQueue)

theorem execQueuePop {x q} (h : s₀.Keeps s) : s₀.Ends (execQueuePop x q s) := by
  refine h.issue fun _ hx => hx.unitState (afterAcquires ?_)
  extract_lets
  split
  · exact access
  · split
    refine .ite (.moved (hx.fresh.out ‹_›).setGrp.queueError) (.ite ?_ (.moved (hx.fresh.out
      ‹_›).setGrp.parked.setQueue.serveQueue))
    split
    exact .done ((hx.fresh.out ‹_›).setGrp.dequeue.out ‹_›).deliver.serveQueue

theorem execQueueTrypush {x y q} (h : s₀.Keeps s) : s₀.Ends (execQueueTrypush x y q s) := by
  refine h.issue fun _ hx => hx.unitState (afterAll ?_)
  extract_lets
  split
  · exact access
  · split
    exact .done ((((hx.setGrp.when fun h => h.releaseAt.enqueue.serveQueue).fresh).out ‹_›).setGrp)

theorem execQueueTrypop {x y q} (h : s₀.Keeps s) : s₀.Ends (execQueueTrypop x y q s) := by
  refine h.issue fun _ hx => hx.unitState (afterAcquires ?_)
  extract_lets
  split
  · exact access
  · refine .ite (.moved hx.queueError) ?_
    split
    next s₁ hs₁ =>
      have h₁ : s₀.Keeps s₁ := out (State.KeepsOut.ite hx.setGrp.dequeue (.mk hx.setGrp)) hs₁
      extract_lets
      split
      exact .done ((h₁.when fun h => h.serveQueue).fresh.out ‹_›).setGrp

theorem setAbar {uid b x} (h : s₀.Keeps s) : s₀.Keeps (s.setAbar uid b x) := h.setUnit

theorem serveAbar {uid b} (h : s₀.Keeps s) : s₀.Keeps (s.serveAbar uid b) := h.upd

theorem updateAbar {uid b x} (h : s₀.Keeps s) : s₀.Keeps (s.updateAbar uid b x) := h.setAbar.serveAbar

theorem abarComplete {uid b} (h : s₀.Keeps s) : s₀.Keeps (s.abarComplete uid b) := by
  fun_cases State.abarComplete s uid b with
  | case1 => exact h
  | case2 => exact h.updateAbar

theorem execAbarInit {x b} (h : s₀.Keeps s) : s₀.Ends (execAbarInit x b s) :=
  h.issue fun _ hx => hx.unitState (.ite access (.ite access (.done hx.setAbar)))

theorem execAbarExpect {x b} (h : s₀.Keeps s) : s₀.Ends (execAbarExpect x b s) :=
  h.issue fun _ hx => hx.unitState (.ite access (.ite access (.done hx.updateAbar)))

theorem execAbarArrive {x b} (h : s₀.Keeps s) : s₀.Ends (execAbarArrive x b s) := by
  refine h.issue fun _ hx => hx.unitState (afterAll (.ite access (.ite access ?_)))
  split
  exact .done (hx.releaseAt.fresh.out ‹_›).setGrp.updateAbar

theorem execAbarWait {x b} (h : s₀.Keeps s) : s₀.Ends (execAbarWait x b s) :=
  h.issue fun _ hx => hx.unitState (.ite access (.ite (.done hx) (.moved hx.parked)))

theorem execAbarArrwait {b} (h : s₀.Keeps s) : s₀.Ends (execAbarArrwait b s) :=
  h.issue fun _ hx => hx.unitState (afterAll (.ite access (.ite access (.moved hx.releaseAt.parked.updateAbar))))

end State.Keeps
end Sys2Proof.Machine
end

section
/-! The copy engine: what each function keeps. -/
namespace Sys2Proof.Machine
namespace State.Keeps
variable {s₀ s : State}

theorem putDesc {k} (h : s₀.Keeps s) : s₀.Keeps (s.putDesc k) := by
  fun_cases State.putDesc s k with
  | case1 => exact h
  | case2 => exact h.wrHomeFor.wrHomeFor.wrHomeFor

theorem copyInstr {r form} (h : s₀.Keeps s) : s₀.Ends (copyInstr s r form) := by
  refine h.issue fun _ hx => .ite .wait (.ite align (.ite .trap (.ite .trap (.ite .wait ?_))))
  split
  refine .ite (.trapIn (hx.badHome.out ‹_›)) ?_
  split
  refine .ite access (.ite align ?_)
  split
  · exact access
  · refine .ite (.ite .wait ?_) (.ite .wait (.done (hx.badHome.out ‹_›).fresh.putDesc.setGrp.setCore))
    split
    · exact access
    · exact .ite .wait (.done (hx.badHome.out ‹_›).fresh.putDesc.setGrp.setCore)

theorem readIdx {k u} (h : s₀.Keeps s) : s₀.Keeps (s.readIdx k u).2 := by
  fun_cases State.readIdx s k u with
  | case1 => exact (h.served.badHome.out ‹_›).when fun h => h.noteUnit
  | case2 => exact h

theorem sidePages {k a n write} (h : s₀.Keeps s) : s₀.Keeps (s.sidePages k a n write).2 := by
  fun_cases State.sidePages s k a n write with
  | case1 | case2 => exact h.translate.out ‹_›
  | case3 | case4 => exact (h.translate.out ‹_›).translate.out ‹_›

theorem wrOpb {core row byte len v bad} (h : s₀.Keeps s) : s₀.Keeps (s.wrOpb core row byte len v bad) :=
  h.setCore

theorem doUnit {k sp dp u a} (h : s₀.Keeps s) : s₀.Keeps (s.doUnit k sp dp u a) := by
  fun_cases State.doUnit s k sp dp u a with
  | case1 => exact (((h.foldl fun _ _ h => h.served).foldl fun _ _ h => h.crcDone).wrOpb).noteUnit
  | case2 => exact ((h.foldl fun _ _ h => h.served).foldl fun _ _ h => h.crcDone).wrOpb
  | case3 => exact (h.foldl fun _ _ h => h.served).foldl fun _ _ h => h.crcDone
  | case4 => exact (((((h.foldl fun _ _ h => h.served).foldl fun _ _ h => h.crcDone).served).writeAt).poisonAt).noteUnit
  | case5 => exact (((h.foldl fun _ _ h => h.served).foldl fun _ _ h => h.crcDone).served).writeAt
  | case6 =>
    exact ((h.foldl fun _ _ h => h.served).foldl fun _ _ h => h.crcDone).foldl fun _ _ h => h.served.writeAt.when
      fun h => h.poisonAt.noteUnit

theorem putCopy {core k} (h : s₀.Keeps s) : s₀.Keeps (s.putCopy core k) := h.setCore

theorem endCopy {core k status} (h : s₀.Keeps s) : s₀.Keeps (s.endCopy core k status) := by
  fun_cases State.endCopy s core k status with
  | case1 => exact h.putDesc.setCore
  | case2 => exact h.putDesc.setCore.lower

theorem copyFault {core k va cause write} (h : s₀.Keeps s) : s₀.Keeps (s.copyFault core k va cause write) :=
  h.putCopy.putDesc.appendRing

theorem runUnits {core k sp dp first k2 k3} (h : s₀.Keeps s) : s₀.Keeps (s.runUnits core k sp dp first k2 k3) := by
  fun_induction State.runUnits s core k sp dp first k2 k3 with
  | case1 | case2 => exact h.putCopy
  | case3 => exact (h.readIdx.out ‹_›).endCopy
  | case4 => exact (h.readIdx.out ‹_›).putCopy.putDesc
  | case5 => exact (h.readIdx.out ‹_›).putCopy
  | case6 => exact (h.readIdx.out ‹_›).doUnit.endCopy
  | case7 => rename_i ih; exact ih (h.readIdx.out ‹_›).doUnit
  | case8 => exact (h.readIdx.out ‹_›).doUnit.putCopy.putDesc

theorem copyRun {core k} (h : s₀.Keeps s) : s₀.Keeps (s.copyRun core k) := by
  unfold State.copyRun
  extract_lets fuel r
  split
  · exact h
  · split
    next k' s₁ hs₁ =>
      have h₁ := h.readIdx.out hs₁
      split
      · exact h₁.runUnits
      · split
        · exact h₁.endCopy
        · extract_lets a src dst
          split
          · exact h₁
          · have hsrc : s₀.Keeps (if src then s₁.sidePages k' a.1 (srcBytes k'.form) false else (.ok [], s₁)).2 := by
              split
              · exact h₁.sidePages
              · exact h₁
            split
            next hs₂ => exact (hsrc.out hs₂).copyFault
            next sp s₂ hs₂ =>
              have hdst : s₀.Keeps (if dst then s₂.sidePages k' a.2 (dstBytes k'.form) true else (.ok [], s₂)).2 := by
                split
                · exact (hsrc.out hs₂).sidePages
                · exact hsrc.out hs₂
              split
              next hs₃ => exact (hdst.out hs₃).copyFault
              next hs₃ => exact (hdst.out hs₃).runUnits

theorem execCopyRun (h : s₀.Keeps s) : s₀.Ends (execCopyRun s) := by
  refine event fun _ => ?_
  split
  · split
    · exact .ite (.some h.copyRun) (.some h)
    · exact .some h
  · exact .none

theorem putPending {core k} (h : s₀.Keeps s) : s₀.Keeps (s.putPending core k) := h.setCore

theorem dropLoad {core n} (h : s₀.Keeps s) : s₀.Keeps (s.dropLoad core n) :=
  h.setCore.foldl fun _ _ h => h.endCopy

theorem abortCopy {core k} (h : s₀.Keeps s) : s₀.Keeps (s.abortCopy core k) := by
  fun_cases State.abortCopy s core k with
  | case1 | case3 => exact h.setCore.endCopy
  | case2 => exact h.setCore.endCopy.dropLoad

theorem resumeCopy {core k} (h : s₀.Keeps s) : s₀.Keeps (s.resumeCopy core k) := h.putPending.putDesc

theorem execCpyctlResume (h : s₀.Keeps s) : s₀.Ends (execCpyctlResume s) := by
  refine event fun _ => ?_
  split
  · exact .some (elim h fun _ => h.resumeCopy)
  · exact .none

theorem execCpyctlAbort (h : s₀.Keeps s) : s₀.Ends (execCpyctlAbort s) := by
  refine event fun _ => ?_
  split
  · exact .some (elim h fun _ => h.abortCopy)
  · exact .none

theorem execCfetch {x f n} (h : s₀.Keeps s) : s₀.Ends (execCfetch x f n s) := by
  refine h.issue fun _ hx => .ite .wait (.ite align ?_)
  split
  · exact .trap
  · refine .ite .trap (.ite (.done hx) ?_)
    split
    · exact .wait
    · exact .done hx.fresh.setGrp.setCore

theorem loadSegment {core n} (h : s₀.Keeps s) : s₀.Keeps (s.loadSegment core n) := by
  fun_cases State.loadSegment s core n with
  | case1 | case2 => exact h
  | case3 => exact (h.translate.out ‹_›).setCore.dropLoad.dropArrival
  | case4 | case6 => exact h.translate.out ‹_›
  | case5 => exact (h.translate.out ‹_›).copyFault
  | case7 =>
    exact (((h.translate.out ‹_›).served.crcDone.wrBytes.poisonAt.noteUnit.ite (h.translate.out
      ‹_›).served.crcDone.wrBytes.cleanse).setCore).foldl fun _ _ h => h.endCopy

theorem execCodeSegmentLoaded (h : s₀.Keeps s) : s₀.Ends (execCodeSegmentLoaded s) := by
  refine event fun _ => ?_
  split
  · exact .some (h.when fun h => h.loadSegment)
  · exact .none

end State.Keeps
end Sys2Proof.Machine
end

section
/-! Collectives and counted lines: what each function keeps. -/
namespace Sys2Proof.Machine
namespace State.Keeps
variable {s₀ s : State}

theorem setGobj {dev i o} (h : s₀.Keeps s) : s₀.Keeps (s.setGobj dev i o) := h.setDev

theorem settleColls {toks res} (h : s₀.Keeps s) : s₀.Keeps (s.settleColls toks res) := h.upd

theorem markMismatch {dev i} (h : s₀.Keeps s) : s₀.Keeps (s.markMismatch dev i) :=
  h.foldl fun _ _ h => by split; exacts [h.setGobj, h]

theorem matchColl {c} (h : s₀.Keeps s) : s₀.Keeps (s.matchColl c) := by
  fun_cases State.matchColl s c with
  | case1 | case2 => exact h
  | case3 => exact h.settleColls.settleColls.markMismatch
  | case4 => exact h.settleColls

theorem placeColl {c} (h : s₀.Keeps s) : s₀.Keeps (s.placeColl c).2 := by
  fun_cases State.placeColl s c with
  | case1 | case3 => exact h
  | case2 => exact h.setGobj

theorem replaceColl {tok} (h : s₀.Keeps s) : s₀.Keeps (s.replaceColl tok) := by
  fun_cases State.replaceColl s tok with
  | case1 => exact (h.placeColl.out ‹_›).upd
  | case2 => exact h

theorem meetColl {c} (h : s₀.Keeps s) : s₀.Keeps (s.meetColl c) := by
  fun_cases State.meetColl s c with
  | case1 => exact h.settleColls
  | case2 => exact h.matchColl

theorem rematchColl {tok} (h : s₀.Keeps s) : s₀.Keeps (s.rematchColl tok) := by
  fun_cases State.rematchColl s tok with
  | case1 => exact h.meetColl
  | case2 => exact h

theorem takePlaces {behind} (h : s₀.Keeps s) : s₀.Keeps (s.takePlaces behind) :=
  (h.foldl fun _ _ h => h.replaceColl).foldl fun _ _ h => h.rematchColl

theorem losePeers {i} (h : s₀.Keeps s) : s₀.Keeps (s.losePeers i) := h.settleColls.takePlaces

theorem failGobj {dev i} (h : s₀.Keeps s) : s₀.Keeps (s.failGobj dev i) :=
  h.settleColls.foldl fun _ _ h => h.dieUe.noteUnit

theorem enterColl {c} (h : s₀.Keeps s) : s₀.Keeps (s.enterColl c) := by
  fun_cases State.enterColl s c with
  | case1 => exact h.upd
  | case2 => exact (h.placeColl.out ‹_›).upd.failGobj
  | case3 => exact (h.placeColl.out ‹_›).upd.meetColl.losePeers

theorem bufLines {x : Ix} {main addr lines write die} (h : s₀.Keeps s) :
    s₀.Keeps (x.bufLines s main addr lines write die).2 := by
  show s₀.KeepsOut _
  have htr := @translate s₀
  rw [show @Ix.bufLines = _ by delta Ix.bufLines; rfl]
  obtain ⟨tr, e⟩ : ∃ f, @State.translate = f := exists_eq'
  rw [e] at htr ⊢
  extract_lets u seg core
  split
  · exact h
  · refine .ite h (.ite h (.ite h ?_))
    refine foldlPair h fun acc i h => ?_
    split
    · exact h
    · dsimp only
      split
      next ht => exact (htr h).out ht
      next ht => exact (htr h).out ht

theorem readsBad {places} (h : s₀.Keeps s) : s₀.Keeps (s.readsBad places).2 :=
  State.Keeps.foldlPair h fun _ _ h => h.served.badHome

theorem collInstr {form r y ty op t} (h : s₀.Keeps s) : s₀.Ends (collInstr s form r y ty op t) := by
  unfold Machine.collInstr
  extract_lets +onlyGivenNames reads writes
  refine h.issue fun x hx => .ite .wait ?_
  split
  · exact access
  · split
    · exact access
    · refine .ite access (.ite access ?_)
      extract_lets +onlyGivenNames lines isBuf die
      refine .ite .wait ?_
      extract_lets +onlyGivenNames found
      have h₀ : s₀.KeepsOut found := .ite hx.bufLines (.mk hx)
      clear_value found
      split
      · exact .trapIn h₀
      · have h₁ := out h₀ rfl
        refine .ite .wait ?_
        extract_lets +onlyGivenNames core s₁ va
        split
        next hb =>
          have h₂ := out (State.KeepsOut.ite h₁.releaseAt.readsBad (.mk h₁.releaseAt)) hb
          exact .done ((h₂.when fun h => h.noteUnit).upd.setGrp.enterColl)

theorem putBuffer {agent tags va k k2} (h : s₀.Keeps s) : s₀.Keeps (s.putBuffer agent tags va k k2) := by
  fun_induction State.putBuffer s agent tags va k k2 with
  | case1 => exact h
  | case2 => rename_i ih; exact ih ((h.foldl fun _ _ h => h.served.writeAt).when fun h => h.foldl fun _ _ h => h.setTag)

theorem dropOut {agent unit tok} (h : s₀.Keeps s) : s₀.Keeps (s.dropOut agent unit tok) := h.updGroup

theorem completeColl {c} (h : s₀.Keeps s) : s₀.Keeps (s.completeColl c) := by
  unfold State.completeColl
  split
  · exact h
  · extract_lets s₁ s₂ s₃ s₄ s₅
    have h₂ : s₀.Keeps s₂ := h.upd.when fun h => h.putBuffer
    have h₄ : s₀.Keeps s₄ := (h₂.deliverNow.ite h₂.dropOut).deliverNow
    have h₅ : s₀.Keeps s₅ := by
      dsimp only [s₅]
      split
      · exact h₄.abarComplete
      · exact h₄
    exact h₅.lower

theorem execCollectiveComplete (h : s₀.Keeps s) : s₀.Ends (execCollectiveComplete s) := by
  refine event fun _ => ?_
  split
  · split
    · exact .some (h.when fun h => h.completeColl.ite h.failGobj)
    · exact .some h
  · exact .none

theorem rsetEffect {dev i} (h : s₀.Keeps s) : s₀.Keeps (s.rsetEffect dev i) :=
  (((h.settleColls.foldl fun _ _ h => by split; exacts [h.setGobj, h]).settleColls).takePlaces).losePeers

theorem execCollRsetEffect (h : s₀.Keeps s) : s₀.Ends (execCollRsetEffect s) := by
  refine event fun _ => ?_
  split
  · exact .some (h.when fun h => h.rsetEffect)
  · exact .none

theorem endMembers {uid} (h : s₀.Keeps s) : s₀.Keeps (s.endMembers uid) :=
  h.upd.foldl fun _ _ h => h.losePeers

theorem fireTrigs {d} (h : s₀.Keeps s) : s₀.Keeps (s.fireTrigs d) := by
  fun_cases State.fireTrigs s d with
  | case1 => exact h.upd.foldl fun _ _ h => h.abarComplete
  | case2 => exact h

theorem contribute {places} (h : s₀.Keeps s) : s₀.Keeps (s.contribute places) :=
  h.foldl fun _ _ h => h.whenNot fun h => (h.upd.foldl fun _ _ h => h.settleAt.setTag).fireTrigs

theorem execCntDecl {x y} (h : s₀.Keeps s) : s₀.Ends (execCntDecl x y s) := by
  refine h.issue fun _ hx => afterReads (.ite align (.ite access ?_))
  split
  · exact .trap
  · exact .ite .wait (.ite (.done hx.upd) (.ite access (.ite access (.done (hx.upd.foldl fun _ _ h => h.setTag)))))

theorem execCntTrig {x b} (h : s₀.Keeps s) : s₀.Ends (execCntTrig x b s) := by
  refine h.issue fun _ hx => afterReads ?_
  extract_lets
  split
  · exact access
  · exact .ite .wait (.ite access (.ite access (.done hx.upd.fireTrigs)))

end State.Keeps
end Sys2Proof.Machine
end

section
/-! Control flow: what each function keeps. -/
namespace Sys2Proof.Machine
namespace State.Keeps
variable {s₀ s : State}

theorem transfer {x : Ix} {taken target link} (hx : s₀.Keeps x.s) : (x.transfer taken target link).Keeps s₀ := by
  fun_cases Ix.transfer x taken target link with
  | case1 => exact access
  | case2 => exact hx.setGrp

theorem execBr {k n o} (h : s₀.Keeps s) : s₀.Ends (execBr k n o s) := h.issue fun _ hx => hx.transfer

theorem execCall {k n o} (h : s₀.Keeps s) : s₀.Ends (execCall k n o s) := h.issue fun _ hx => hx.transfer

theorem jump {x : Ix} {target far link} (hx : s₀.Keeps x.s) : (x.jump target far link).Keeps s₀ := by
  fun_cases Ix.jump x target far link with
  | case1 => exact align
  | case2 => exact access
  | case3 => exact hx.transfer

theorem execJr {x} (h : s₀.Keeps s) : s₀.Ends (execJr x s) := h.issue fun _ hx => hx.jump

theorem execRet (h : s₀.Keeps s) : s₀.Ends (execRet s) := h.issue fun _ hx => hx.jump

theorem execJf {x l} (h : s₀.Keeps s) : s₀.Ends (execJf x l s) := h.issue fun _ hx => hx.jump

theorem execExit (h : s₀.Keeps s) : s₀.Ends (execExit s) := h.issue fun _ hx => .ite .wait (.moved hx.setGrp)

theorem execXregAcq {m} (h : s₀.Keeps s) : s₀.Ends (execXregAcq m s) :=
  h.issue fun _ hx => .ite access (.ite access (.moved hx.fallThrough.requestBlocks))

theorem execXregRel {m} (h : s₀.Keeps s) : s₀.Ends (execXregRel m s) :=
  h.issue fun _ hx => .done hx.releaseBlocks

end State.Keeps
end Sys2Proof.Machine
end

section
/-! The matrix engine: what each function keeps. -/
namespace Sys2Proof.Machine
namespace State.Keeps
variable {s₀ s : State}

theorem enqueueCmd {cmd} (h : s₀.Keeps s) : s₀.Keeps (s.enqueueCmd cmd) := by
  fun_cases State.enqueueCmd s cmd
  exact (h.fresh.out ‹_›).setCore.setGrp

theorem holder {x : Ix} {e} (he : e.Keeps s₀) : (x.holder e).Keeps s₀ := by
  fun_cases Ix.holder x e with
  | case1 => exact he
  | case2 => exact access

theorem execMres {x y n} (h : s₀.Keeps s) : s₀.Ends (execMres x y n s) := by
  refine h.issue fun _ hx => ?_
  split
  exact .ite access (.ite access (.ite access (.done hx.enqueueCmd)))

theorem execMresRel {n} (h : s₀.Keeps s) : s₀.Ends (execMresRel n s) :=
  h.issue fun _ hx => .ite access (.done hx.enqueueCmd)

theorem execMwld {x y n} (h : s₀.Keeps s) : s₀.Ends (execMwld x y n s) := by
  refine h.issue fun _ hx => holder ?_
  split
  · exact .ite access (.ite access (.done hx.enqueueCmd))
  · exact access

theorem withLoop {x : Ix} {l} (hx : s₀.Keeps x.s) : s₀.Keeps (x.withLoop l) := hx.setGrp

theorem execMloop {x y} (h : s₀.Keeps s) : s₀.Ends (execMloop x y s) := by
  unfold Machine.execMloop
  split
  · trivial
  · exact .ite h.found.withLoop.advance (h.issue fun _ hx => holder (.done hx.withLoop))

theorem execMma {k x y c} (h : s₀.Keeps s) : s₀.Ends (execMma k x y c s) := by
  refine h.issue fun _ hx => holder ?_
  extract_lets
  split
  · exact .ite access (.ite access (.done hx.setGrp.enqueueCmd))
  · exact access

theorem execMbat {x} (h : s₀.Keeps s) : s₀.Ends (execMbat x s) :=
  h.issue fun _ hx => .ite .wait (.done hx.closeBatch.setGrp)

theorem drainDst {x : Ix} {rx ry d v} (h : s₀.Keeps x.s) : s₀.Keeps (x.drainDst rx ry d v).2 := by
  show s₀.KeepsOut _
  unfold Ix.drainDst
  extract_lets +onlyGivenNames w err
  refine .ite (.ite h h) (.ite ?_ ?_)
  · refine .ite h ?_
    split
    · exact h
    · exact .ite h (.ite h h)
  · refine .ite h (.ite h ?_)
    extract_lets +onlyGivenNames offs
    split
    next hl => exact h.locateAll.out hl

theorem drainInstr {k x y d v sr a add} (h : s₀.Keeps s) : s₀.Ends (drainInstr s k x y d v sr a add) := by
  refine h.issue fun _ hx => .ite .trap (afterAll (holder ?_))
  split
  · exact .trapIn (hx.drainDst.out ‹_›)
  · split
    extract_lets
    split
    · exact .ite .wait (.done ((hx.drainDst.out ‹_›).fresh.out ‹_›).setGrp.setCore.enqueueCmd)
    · exact .done ((hx.drainDst.out ‹_›).fresh.out ‹_›).enqueueCmd

theorem execMtake (h : s₀.Keeps s) : s₀.Ends (execMtake s) :=
  h.issue fun _ hx => .ite (.done hx) (.ite (.done hx.setCore) (.moved hx.parked.setCore))

theorem execMgive (h : s₀.Keeps s) : s₀.Ends (execMgive s) :=
  h.issue fun _ hx => holder (.ite .wait (.done hx.closeBatch.passBaton))

theorem execMzero {k} (h : s₀.Keeps s) : s₀.Ends (execMzero k s) :=
  h.issue fun _ hx => holder (.done hx.enqueueCmd)

theorem execMxq {x y c} (h : s₀.Keeps s) : s₀.Ends (execMxq x y c s) := by
  refine h.issue fun _ hx => holder ?_
  split
  · exact .ite access (.ite access (.ite access (.done hx.enqueueCmd)))
  · exact access

theorem doDrain {core e acc dst cvt add sr sat tok} (h : s₀.Keeps s) :
    s₀.Keeps (s.doDrain core e acc dst cvt add sr sat tok) := by
  fun_cases State.doDrain s core e acc dst cvt add sr sat tok with
  | case1 | case4 | case5 => exact ((h.when fun h => h.noteUnit).when fun h => h.setGrpOf).setCore
  | case2 => exact (((h.when fun h => h.noteUnit).when fun h => h.setGrpOf).deliver).setGrpOf
  | case3 => exact ((h.when fun h => h.noteUnit).when fun h => h.setGrpOf).deliver
  | case6 =>
    exact ((h.when fun h => h.noteUnit).when fun h => h.setGrpOf).foldl fun _ _ h => h.served.writeAt.when fun h =>
      h.poisonAt
  | case7 =>
    exact (((h.when fun h => h.noteUnit).when fun h => h.setGrpOf).foldl fun _ _ h => h.served.writeAt.when fun h =>
      h.poisonAt).upd

theorem mend {core reads} (h : s₀.Keeps s) : s₀.Keeps (s.mend core reads) := by
  fun_cases State.mend s core reads with
  | case1 => exact h.setCore.setDie
  | case2 => exact h

theorem popCmd {core} (h : s₀.Keeps s) : s₀.Keeps (s.popCmd core) := h.setCore

theorem bufferEffect {core e c} (h : s₀.Keeps s) : s₀.Keeps (s.bufferEffect core e c) := by
  fun_cases State.bufferEffect s core e c with
  | case1 => exact h.setCore.noteUnit
  | case2 => exact h.setCore

theorem commandEffect {core e} (h : s₀.Keeps s) : s₀.Keeps (s.commandEffect core e) := by
  fun_cases State.commandEffect s core e with
  | case1 | case2 | case6 | case8 | case9 => exact h.popCmd.mend.setCore
  | case3 | case7 => exact h.popCmd.mend.bufferEffect
  | case4 => exact h.popCmd.mend
  | case5 => exact h.popCmd.mend.doDrain

theorem execMatrixCommandEffect (h : s₀.Keeps s) : s₀.Ends (execMatrixCommandEffect s) := by
  refine event fun _ => ?_
  split
  · split
    · exact .some h
    · split
      · exact .some h
      · exact .some h.commandEffect
  · exact .none

theorem kStep {core e acc ra rb oa ob n inca incb clr} (h : s₀.Keeps s) :
    s₀.Keeps (s.kStep core e acc ra rb oa ob n inca incb clr) := by
  fun_cases State.kStep s core e acc ra rb oa ob n inca incb clr with
  | case1 => exact (h.mend.setCore.whenNot fun h => h.noteUnit).updGroup
  | case2 => exact h.mend.setCore.whenNot fun h => h.noteUnit

theorem execMmaKStep (h : s₀.Keeps s) : s₀.Ends (execMmaKStep s) := by
  refine event fun _ => ?_
  split
  · split
    · exact .some h
    · split
      · exact .some h.kStep
      · exact .some h
  · exact .none

theorem addOnElem {o n e va} (h : s₀.Keeps s) : s₀.Keeps (s.addOnElem o n e va) := by
  fun_cases State.addOnElem s o n e va with
  | case1 => exact ((h.served.badHome.out ‹_›).witness.writeAt.when fun h => h.poisonAt).noteUnit
  | case2 => exact (h.served.badHome.out ‹_›).witness.writeAt.when fun h => h.poisonAt

theorem execAddOnStoreUpdate (h : s₀.Keeps s) : s₀.Ends (execAddOnStoreUpdate s) := by
  refine event fun _ => ?_
  split
  · split
    · exact .some h
    · extract_lets
      split
      · exact .some (h.setCore.deliver.when fun h => h.updGroup)
      · exact .ite (.some h) (.some ((h.setCore.foldl fun _ _ h => h.addOnElem).contribute))
  · exact .none

theorem execMatrixBatchComplete (h : s₀.Keeps s) : s₀.Ends (execMatrixBatchComplete s) := by
  refine event fun _ => ?_
  split
  · extract_lets
    split
    · exact .some h
    · exact .ite (.some h.setCore.lower.updGroup) (.some h)
  · exact .none

end State.Keeps
end Sys2Proof.Machine
end

section
/-! The hash grid: what each function keeps. -/
namespace Sys2Proof.Machine
namespace State.Keeps
variable {s₀ s : State}

theorem execHgCfg {x} (h : s₀.Keeps s) : s₀.Ends (execHgCfg x s) :=
  h.issue fun _ hx => .ite (.done hx.setGrp) access

theorem hgLevel {o p l} (h : s₀.Keeps s) : s₀.Keeps (HgOp.level o s p l).2 := by
  show s₀.KeepsOut _
  unfold HgOp.level
  extract_lets +onlyGivenNames core die cs place home n s₁ lost s₂
  have h₂ : s₀.Keeps s₂ := (h.foldl fun _ _ h => h.served).foldl fun _ _ h => h.crcDone
  exact .ite (.mk h₂.noteUnit) (.mk h₂)

theorem hgEncode {o p} (h : s₀.Keeps s) : s₀.Keeps (HgOp.encode o s p).2 := by
  show s₀.KeepsOut _
  unfold HgOp.encode
  refine .foldl h fun acc l h => ?_
  split
  next hl => exact h.hgLevel.out hl

theorem addHg {o} (h : s₀.Keeps s) : s₀.Keeps (s.addHg o) := h.setCore.setGrp

theorem execHgEnc {x z} (h : s₀.Keeps s) : s₀.Ends (execHgEnc x z s) := by
  refine h.issue fun _ hx => .ite .wait (.ite access ?_)
  split
  · exact access
  · refine .ite access (.ite access ?_)
    split
    exact .done (hx.fresh.out ‹_›).addHg

theorem execHgGrad {x z} (h : s₀.Keeps s) : s₀.Ends (execHgGrad x z s) := by
  refine h.issue fun _ hx => .ite .wait (.ite access (.ite align ?_))
  split
  · exact .trap
  · split
    exact .done (hx.fresh.out ‹_›).addHg

theorem endHg {core o} (h : s₀.Keeps s) : s₀.Keeps (s.endHg core o) := h.setCore.lower

theorem encRow {core o l} (h : s₀.Keeps s) : s₀.Keeps (s.encRow core o l) := by
  fun_cases State.encRow s core o l
  exact (h.hgEncode.out ‹_›).setCore

theorem putHg {core o} (h : s₀.Keeps s) : s₀.Keeps (s.putHg core o) := h.setCore

theorem encRows {core o} (h : s₀.Keeps s) : s₀.Keeps (s.encRows core o) := by
  fun_cases State.encRows s core o with
  | case1 => exact (h.foldl fun _ _ h => h.encRow).endHg
  | case2 => exact (h.foldl fun _ _ h => h.encRow).putHg

theorem execHgEncComplete (h : s₀.Keeps s) : s₀.Ends (execHgEncComplete s) := by
  refine event fun _ => ?_
  split
  · split
    · exact .ite (.some h) (.some h.encRows)
    · exact .some h
  · exact .none

theorem gradRead {o src} (h : s₀.Keeps s) : s₀.Keeps (s.gradRead o src).2.2 := by
  fun_cases State.gradRead s o src with
  | case1 => exact h
  | case2 => exact h.served.crcDone

theorem gradAdd {o a} (h : s₀.Keeps s) : s₀.Keeps (s.gradAdd o a).2 := by
  fun_cases State.gradAdd s o a
  exact ((h.gradRead.out₂ ‹_›).served.badHome.out ‹_›).witness.writeAt.when fun h => h.poisonAt.noteUnit

theorem execHgGradAdd (h : s₀.Keeps s) : s₀.Ends (execHgGradAdd s) := by
  refine event fun _ => ?_
  split
  · split
    · exact .some h
    · refine .ite (.some (h.when fun h => h.endHg)) ?_
      split
      · exact .some h
      · extract_lets
        split
        exact .some ((h.gradAdd.out ‹_›).endHg.ite (h.gradAdd.out ‹_›).putHg)
  · exact .none

end State.Keeps
end Sys2Proof.Machine
end

section
/-! The ray engine: what each function keeps. -/
namespace Sys2Proof.Machine
namespace State.Keeps
variable {s₀ s : State}

theorem rayChunk {o va} (h : s₀.Keeps s) : s₀.Keeps (RayOp.chunk o s va).2 := by
  fun_cases RayOp.chunk o s va with
  | case1 | case2 => exact h
  | case3 | case4 | case5 => exact h.translate.out ‹_›
  | case6 => exact (h.translate.out ‹_›).served.crcDone.noteUnit
  | case7 => exact (h.translate.out ‹_›).served.crcDone

theorem rayChunks {o va k} (h : s₀.Keeps s) : s₀.Keeps (RayOp.chunks o s va k).2 := by
  fun_induction RayOp.chunks o s va k with
  | case1 => exact h
  | case2 => rename_i ih; exact (ih (h.rayChunk.out ‹_›)).out ‹_›
  | case3 => rename_i ih; exact ih (h.rayChunk.out ‹_›)
  | case4 => exact h.rayChunk

theorem rayLeaf {o r n va w} (h : s₀.Keeps s) : s₀.Keeps (RayOp.leaf o r n va w s).2 := by
  delta RayOp.leaf
  revert va w s
  refine brecOn_induction (RayOp.leaf._f o r) (P := fun f => ∀ {s va w}, s₀.Keeps s → s₀.KeepsOut (f va w s)) ?_ ?_ n
  · exact fun _ _ _ _ h => h
  · intro n B ih s va w h
    dsimp only [RayOp.leaf._f]
    split
    next hs => exact h.rayChunks.out hs
    next hs => exact h.rayChunks.out hs
    next hs =>
      have h₁ := h.rayChunks.out hs
      refine .ite (ih h₁) ?_
      split
      · exact ih h₁
      · exact .ite (.ite (.mk h₁) (ih h₁)) (ih h₁)

theorem rayVisit {o r va level w} (h : s₀.Keeps s) : s₀.Keeps (RayOp.visit o r va level w s).2 := by
  fun_cases RayOp.visit o r va level w s with
  | case1 => exact h
  | case2 | case3 | case4 => exact h.rayChunks.out ‹_›

theorem rayWalk {o r fuel w} (h : s₀.Keeps s) : s₀.Keeps (RayOp.walk o r fuel w s).2 := by
  fun_induction RayOp.walk o r fuel w s with
  | case1 | case2 | case3 | case5 | case7 => exact h
  | case4 => rename_i ih; exact ih h
  | case6 => rename_i ih; exact ih (h.rayLeaf.out ‹_›)
  | case8 => rename_i ih; exact ih (h.rayVisit.out ‹_›)

theorem rayRun {o ws} (h : s₀.Keeps s) : s₀.Keeps (RayOp.run o s ws).2 := by
  fun_cases RayOp.run o s ws with
  | case1 => exact h
  | case2 => exact h.rayWalk

theorem rayInstr {x y z occl} (h : s₀.Keeps s) : s₀.Ends (rayInstr s x y z occl) := by
  refine h.issue fun _ hx => .ite .wait (.ite align (.ite align ?_))
  split
  · exact .trap
  · split
    exact .done (hx.fresh.out ‹_›).setCore.setGrp

theorem lateLanes {x : Ix} {r n f} (hx : s₀.Keeps x.s) : (x.lateLanes r n f).Keeps s₀ := by
  fun_cases Ix.lateLanes x r n f
  exact (hx.fresh.out ‹_›).setGrp

theorem execRayTri {z} (h : s₀.Keeps s) : s₀.Ends (execRayTri z s) := h.issue fun _ hx => hx.lateLanes

theorem execRayBox {z} (h : s₀.Keeps s) : s₀.Ends (execRayBox z s) := h.issue fun _ hx => hx.lateLanes

theorem rayLane {o l} (h : s₀.Keeps s) : s₀.Keeps (RayOp.lane o s l).2 := by
  fun_cases RayOp.lane o s l with
  | case1 => exact h.rayRun.out ‹_›
  | case2 => exact (h.rayRun.out ‹_›).foldl fun _ _ h => h.writeAt

theorem rayLanes {core o} (h : s₀.Keeps s) : s₀.Keeps (s.rayLanes core o) := by
  fun_cases State.rayLanes s core o with
  | case1 => exact (((State.Keeps.foldlPair h fun _ _ h => h.rayLane).out ‹_›).setCore).lower
  | case2 => exact ((State.Keeps.foldlPair h fun _ _ h => h.rayLane).out ‹_›).setCore

theorem execRayComplete (h : s₀.Keeps s) : s₀.Ends (execRayComplete s) := by
  refine event fun _ => ?_
  split
  · split
    · exact .some h
    · exact .some h.rayLanes
  · exact .none

end State.Keeps
end Sys2Proof.Machine
end

section
/-! The tree engine: what each function keeps. -/
namespace Sys2Proof.Machine
namespace State.Keeps
variable {s₀ s : State}

theorem putNode {t d i x} (h : s₀.Keeps s) : s₀.Keeps (s.putNode t d i x) := h.wrBytes

theorem putD {t off v} (h : s₀.Keeps s) : s₀.Keeps (s.putD t off v) := h.wrN

theorem descent {t} (h : s₀.Keeps s) : s₀.Keeps (s.descent t).2.2 := by
  fun_cases State.descent s t with
  | case1 | case2 => exact h
  | case3 => exact ((h.foldl fun _ _ h => h.putNode).when fun h => h.putNode).putD

theorem descents {t k} (h : s₀.Keeps s) : s₀.Keeps (s.descents t k).2.2 := by
  fun_induction State.descents s t k with
  | case1 => exact h
  | case2 => rename_i ih; exact (ih (h.descent.out₂ ‹_›)).out₂ ‹_›

theorem allocate {t k} (h : s₀.Keeps s) : s₀.Keeps (s.allocate t k).2.2 := by
  fun_cases State.allocate s t k with
  | case1 => exact h.wrN
  | case2 => exact h.wrN.wrN.wrN
  | case3 => exact h.putD
  | case4 => exact h

theorem reclaim {t runs} (h : s₀.Keeps s) : s₀.Keeps (s.reclaim t runs) :=
  h.foldl fun _ _ h => ((h.foldl fun _ _ h => h.putNode).putNode).putD

theorem treeInit {t img} (h : s₀.Keeps s) : s₀.Keeps (s.treeInit t img).s := by
  fun_cases State.treeInit s t img with
  | case1 | case3 | case4 => exact h
  | case2 => exact h.putD.putD
  | case5 => exact h.wrBytes.putNode

theorem treeExp {t id k arr} (h : s₀.Keeps s) : s₀.Keeps (s.treeExp t id k arr).s := by
  fun_cases State.treeExp s t id k arr with
  | case1 | case2 | case3 | case5 => exact h
  | case4 => exact h.putNode
  | case6 => exact ((h.allocate.out₂ ‹_›).foldl fun _ _ h => h.putNode).putNode

theorem treeResolve {t id v back} (h : s₀.Keeps s) : s₀.Keeps (s.treeResolve t id v back).s := by
  fun_cases State.treeResolve s t id v back with
  | case1 => exact h
  | case2 => exact ((h.foldl fun _ _ h => h.putNode).when fun h => h.putNode).putD

theorem treeReuse {t c} (h : s₀.Keeps s) : s₀.Keeps (s.treeReuse t c).s := by
  fun_cases State.treeReuse s t c with
  | case1 | case2 | case3 | case4 => exact h
  | case5 => exact h.reclaim.putNode.putD.putD

theorem treeFree {t n} (h : s₀.Keeps s) : s₀.Keeps (s.treeFree t n).s := by
  fun_cases State.treeFree s t n with
  | case1 | case2 | case3 | case4 | case7 => exact h
  | case5 => exact h.reclaim.putNode
  | case6 => exact h.putNode

theorem treeStat {t arg place} (h : s₀.Keeps s) : s₀.Keeps (s.treeStat t arg place).s := by
  fun_cases State.treeStat s t arg place <;> exact h

theorem treeServeOperand {o} (h : s₀.Keeps s) : s₀.Keeps (TreeOp.serveOperand o s).2 :=
  State.Keeps.foldlPair h fun _ _ h => h.served.crcDone

theorem treeRun {o} (h : s₀.Keeps s) : s₀.Keeps (TreeOp.run o s).s := by
  fun_cases TreeOp.run o s with
  | case1 | case3 => exact h
  | case2 => exact h.treeInit
  | case4 => exact h.descents.out₂ ‹_›
  | case5 => exact h.treeExp
  | case6 | case7 => exact h.treeResolve
  | case8 => exact h.treeReuse
  | case9 => exact h.treeFree
  | case10 => exact h.treeStat

theorem treeFinds {o} (h : s₀.Keeps s) : s₀.Keeps (TreeOp.finds o s).2 := by
  unfold TreeOp.finds
  extract_lets t
  split
  split
  next bad s₁ hs₁ =>
    have h₁ : s₀.Keeps s₁ := by
      split at hs₁
      · exact h.treeServeOperand.out hs₁
      · exact out h hs₁
    extract_lets s₂ places s₃
    have h₃ : s₀.Keeps s₃ := h₁.findErrors.foldl fun _ _ h => h.findErrors
    split
    · exact h₁.findErrors
    · split
      · exact h₃
      · split
        · exact h₃.treeServeOperand
        · exact h₃

theorem treeAccept {o} (h : s₀.Keeps s) : s₀.Keeps (TreeOp.accept o s).2.2 := by
  fun_cases TreeOp.accept o s with
  | case1 => exact h
  | case2 => exact (h.treeFinds.out ‹_›).noteUnit
  | case3 => exact (h.treeFinds.out ‹_›).treeRun

theorem treeInstr {x y form z} (h : s₀.Keeps s) : s₀.Ends (treeInstr s x y form z) := by
  refine h.issue fun _ hx => .ite .wait (.ite access ?_)
  split
  · exact .trap
  · split
    exact .done (hx.fresh.out ‹_›).setCore.setGrp

theorem execTreeOperationComplete (h : s₀.Keeps s) : s₀.Ends (execTreeOperationComplete s) := by
  refine event fun _ => ?_
  split
  · extract_lets
    split
    · exact .some h
    · split
      · refine .ite (.some h) ?_
        split
        exact .some (h.treeAccept.out₂ ‹_›).setCore
      · exact .ite (.some h) (.some ((((h.foldl fun _ _ h => h.served.writeAt).setCore).deliverNow).lower))
  · exact .none

end State.Keeps
end Sys2Proof.Machine
end

section
/-! The work hierarchy: what each function keeps. -/
namespace Sys2Proof.Machine
namespace State.Keeps
variable {s₀ s : State}

theorem retireUnit {uid} (h : s₀.Keeps s) : s₀.Keeps (s.retireUnit uid) := by
  fun_cases State.retireUnit s uid with
  | case1 => exact (((((h.foldl fun _ _ h => h.when fun h => h.setGrpOf).setCore).dropBinds).upd).endMembers).upd
  | case2 =>
    exact (((((((h.foldl fun _ _ h => h.when fun h =>
      h.setGrpOf).setCore).dropBinds).upd).endMembers).upd).setNode).dispatch

theorem endToward {dev parent err} (h : s₀.Keeps s) : s₀.Keeps (s.endToward dev parent err) := by
  fun_cases State.endToward s dev parent err with
  | case1 => exact h.whenNot fun h => h.findErrors
  | case2 => exact ((h.whenNot fun h => h.findErrors).lvAdd).lvErrUp
  | case3 => exact (h.whenNot fun h => h.findErrors).lvAdd

theorem forgetLaunch {dev l} (h : s₀.Keeps s) : s₀.Keeps (s.forgetLaunch dev l) := h.upd

theorem endLevel {dev l} (h : s₀.Keeps s) : s₀.Keeps (s.endLevel dev l) := by
  unfold State.endLevel
  generalize s.unitOfLevel dev l = unit
  extract_lets +onlyGivenNames unit' s₁ s₂
  have h₂ : s₀.Keeps s₂ := h.upd.forgetLaunch
  refine ite (elim h₂ fun _ => h₂.retireUnit) ?_
  extract_lets +onlyGivenNames st s₃
  have h₃ : s₀.Keeps s₃ := by
    cases unit with
    | none => exact h₂
    | some uid => exact h₂.releaseAt
  exact elim h₃.wrN.setTag.endToward.endVersions fun _ => h₃.wrN.setTag.endToward.endVersions.retireUnit

theorem execLevelEnd (h : s₀.Keeps s) : s₀.Ends (execLevelEnd s) := by
  refine event fun _ => ?_
  split
  · split
    · exact .some (h.when fun h => h.endLevel)
    · exact .some h
  · exact .none

theorem breakLevel {dev l} (h : s₀.Keeps s) : s₀.Keeps (s.breakLevel dev l) := by
  fun_cases State.breakLevel s dev l with
  | case1 => exact (((h.noteEcc.wrN.cleanse.setTag.foldl fun _ _ h => h.cancelOne).cancelUnit).endToward).endVersions
  | case2 =>
    exact ((((h.noteEcc.wrN.cleanse.setTag.foldl fun _ _ h => h.cancelOne).cancelUnit).endToward).endVersions).upd

theorem breakFound {k} (h : s₀.Keeps s) : s₀.Keeps (s.breakFound k) := by
  fun_induction State.breakFound s k with
  | case1 | case2 => exact h
  | case3 => rename_i ih; exact ih h.breakLevel

theorem checkLevel {dev l} (h : s₀.Keeps s) : s₀.Keeps (s.checkLevel dev l).2 := by
  fun_cases State.checkLevel s dev l with
  | case1 | case3 => exact h.findErrors
  | case2 => exact h.findErrors.when fun h => h.breakLevel

theorem execScrubbing (h : s₀.Keeps s) : s₀.Ends (execScrubbing s) := by
  refine event fun _ => ?_
  split
  · split
    · exact .some (h.whenNot fun h => h.checkLevel)
    · exact .some h
  · exact .none

theorem launch {dev asid record parent priv} (h : s₀.Keeps s) : s₀.Keeps (s.launch dev asid record parent priv).2 := by
  show s₀.KeepsOut _
  unfold State.launch
  split
  next bad s₁ hs₁ =>
    split
    next lost s₂ hs₂ =>
      have h₂ := (h.checkLevel.out hs₁).badHome.out hs₂
      extract_lets +onlyGivenNames r objs bound
      refine .ite h₂ (.ite h₂ (.ite h₂ (.ite h₂ (.ite h₂ (.ite h₂ ?_)))))
      exact foldl (foldl h₂.lvAdd.lvOpen fun _ _ h => h.lvOpen) fun _ _ h => h.arrive

theorem withObjects {i : Ix} {objs f} (hx : s₀.Keeps i.s) (hf : ∀ k k2, s₀.Keeps k2 → (f k k2).Keeps s₀) :
    (i.withObjects objs f).Keeps s₀ := by
  fun_cases Ix.withObjects i objs f with
  | case1 | case2 | case3 | case4 => exact trivial
  | case5 => exact hf _ _ hx.releaseAt

theorem soundObject {i : Ix} {a f} (h : s₀.Keeps s) (hf : ∀ k, s₀.Keeps k → (f k).Keeps s₀) :
    (i.soundObject s a f).Keeps s₀ := by
  fun_cases Ix.soundObject i s a f with
  | case1 => exact h.badRead.out ‹_›
  | case2 => exact hf _ (h.badRead.out ‹_›)

theorem results {i : Ix} {r vs} (h : s₀.Keeps s) : (i.results s r vs).Keeps s₀ := by
  fun_cases Ix.results i s r vs
  exact (h.fresh.out ‹_›).setGrp

theorem status {i : Ix} {r st} (h : s₀.Keeps s) : (i.status s r st).Keeps s₀ := h.results

theorem execLvlLaunch {x y} (h : s₀.Keeps s) : s₀.Ends (execLvlLaunch x y s) := by
  refine h.issue fun _ hx => hx.withObjects fun _ _ h₁ => .ite .wait ?_
  split
  exact (h₁.launch.out ‹_›).status

theorem execLvlCancel {x y} (h : s₀.Keeps s) : s₀.Ends (execLvlCancel x y s) := by
  refine h.issue fun _ hx => hx.withObjects fun _ _ h₁ => ?_
  extract_lets
  split
  exact .ite (h₁.checkLevel.out ‹_›).status (.ite (h₁.checkLevel.out ‹_›).status (((h₁.checkLevel.out ‹_›).whenNot
    fun h => h.cancelLevel).status))

theorem execLvlCtr {x y} (h : s₀.Keeps s) : s₀.Ends (execLvlCtr x y s) := by
  refine h.issue fun _ hx => hx.withObjects fun _ _ h₁ => ?_
  extract_lets
  split
  exact .ite (h₁.checkLevel.out ‹_›).status (.ite (h₁.checkLevel.out ‹_›).status (h₁.checkLevel.out
    ‹_›).lvSetCtr.status)

theorem resetNodes {dev graph} (h : s₀.Keeps s) : s₀.Keeps (s.resetNodes dev graph) := h.setDev

theorem execLvlOpen {x y z} (h : s₀.Keeps s) : s₀.Ends (execLvlOpen x y z s) := by
  refine h.issue fun _ hx => hx.withObjects fun _ _ h₁ => .ite (.trapIn h₁) ?_
  extract_lets
  split
  split
  exact .ite ((h₁.checkLevel.out ‹_›).checkLevel.out ‹_›).status (.ite ((h₁.checkLevel.out ‹_›).checkLevel.out
    ‹_›).status (.ite ((h₁.checkLevel.out ‹_›).checkLevel.out ‹_›).status (.ite ((h₁.checkLevel.out
      ‹_›).checkLevel.out ‹_›).status ((((h₁.checkLevel.out ‹_›).checkLevel.out ‹_›).lvAdd.lvOpen.when fun h =>
        h.resetNodes).status))))

theorem execLvlClose {x y} (h : s₀.Keeps s) : s₀.Ends (execLvlClose x y s) := by
  refine h.issue fun _ hx => hx.withObjects fun _ _ h₁ => ?_
  extract_lets
  split
  exact .ite (h₁.checkLevel.out ‹_›).status (.ite (h₁.checkLevel.out ‹_›).status (.ite (h₁.checkLevel.out ‹_›).status
    (((h₁.checkLevel.out ‹_›).lvSetFlag.foldl fun _ _ h => h.dispatch).status)))

theorem execLvlBudget {x y} (h : s₀.Keeps s) : s₀.Ends (execLvlBudget x y s) := by
  refine h.issue fun _ hx => hx.withObjects fun _ _ h₁ => ?_
  extract_lets
  split
  exact .ite (h₁.checkLevel.out ‹_›).status (.ite (h₁.checkLevel.out ‹_›).status (.ite (h₁.checkLevel.out ‹_›).status
    (h₁.checkLevel.out ‹_›).upd.wrN.status))

theorem expire {dev l} (h : s₀.Keeps s) : s₀.Keeps (s.expire dev l) :=
  h.upd.foldl fun _ _ h => h.lvSetFlag.cancelLevel

theorem execBudgetExpiry (h : s₀.Keeps s) : s₀.Ends (execBudgetExpiry s) := by
  refine event fun _ => ?_
  split
  · split
    · exact .some (h.when fun h => h.expire)
    · exact .some h
  · exact .none

theorem execNodeTimerExpiry (h : s₀.Keeps s) : s₀.Ends (execNodeTimerExpiry s) := by
  refine event fun _ => ?_
  split
  · exact .some h.dispatch
  · exact .none

theorem acceptRecord {i : Ix} {bs bad} (h : s₀.Keeps s) : s₀.Keeps (s.acceptRecord i bs bad) := by
  fun_cases State.acceptRecord s i bs bad
  exact (((((h.lvAdd.wrBytes.when fun h => h.poisonAt).fresh).out ‹_›).setNode).foldl fun _ _ h => h.arriveTag).dispatch

theorem submit {i : Ix} {l} (h : s₀.Keeps s) : s₀.Keeps (s.submit i l).2.2 := by
  fun_induction State.submit s i l with
  | case1 => exact h
  | case2 => exact h.when fun h => h.nodeErrors
  | case3 => rename_i ih; exact (ih (h.when fun h => h.nodeErrors).acceptRecord).out₂ ‹_›

theorem execTaskSubmit {x y n} (h : s₀.Keeps s) : s₀.Ends (execTaskSubmit x y n s) := by
  refine h.issue fun _ hx => .ite .wait ?_
  split
  · exact .trap
  · extract_lets
    split
    next s₁ hs =>
      have h₁ : s₀.Keeps s₁ := by
        refine out ?_ hs
        exact State.KeepsOut.foldl (.mk hx.releaseAt) fun _ _ h => h.served.badHome
      refine .ite .wait ?_
      split
      exact (h₁.submit.out₂ ‹_›).status

theorem execTaskDone {x} (h : s₀.Keeps s) : s₀.Ends (execTaskDone x s) := by
  refine h.issue fun _ hx => .ite .wait ?_
  split
  · exact access
  · refine .ite .wait ?_
    split
    exact (hx.releaseAt.nodeErrors.takeRecords.out ‹_›).putRecords.status

theorem execTaskDoneWait {x} (h : s₀.Keeps s) : s₀.Ends (execTaskDoneWait x s) := by
  refine h.issue fun _ hx => .ite .wait ?_
  split
  · exact access
  · extract_lets
    split
    exact .moved (hx.releaseAt.fresh.out ‹_›).setGrp.parked.setNode.dispatch

theorem execDspInit {x y} (h : s₀.Keeps s) : s₀.Ends (execDspInit x y s) := by
  refine h.issue fun _ hx => ?_
  split
  · exact .trap
  · exact .trap
  · exact .ite access (.ite .wait (.done hx.wrN))

theorem execDspNext {x y} (h : s₀.Keeps s) : s₀.Ends (execDspNext x y s) := by
  refine h.issue fun _ hx => .ite .wait ?_
  split
  · exact .trap
  · exact .trap
  · exact .trap
  · exact .ite .wait (hx.soundObject fun _ h₁ => .done ((h₁.when fun h => h.wrN).arriveTag))

theorem execVerPubv {x y} (h : s₀.Keeps s) : s₀.Ends (execVerPubv x y s) :=
  h.issue fun _ hx => hx.withObjects fun _ _ h₁ => h₁.soundObject fun _ h₂ => .ite h₂.status (.ite h₂.status (.ite
    h₂.publishVer.status (.ite h₂.wrN.wrN.wrN.upd.status h₂.publishVer.status)))

theorem execVerQver {x y} (h : s₀.Keeps s) : s₀.Ends (execVerQver x y s) :=
  h.issue fun _ hx => hx.withObjects fun _ _ h₁ => h₁.soundObject fun _ h₂ => h₂.acquireAt.results

end State.Keeps
end Sys2Proof.Machine
end

section
/-! Fetch, ends and timers: what each function keeps. -/
namespace Sys2Proof.Machine
namespace State.Keeps
variable {s₀ s : State}

theorem fetchAt {a g p} (h : s₀.Keeps s) : s₀.Keeps (s.fetchAt a g p) := by
  fun_cases State.fetchAt s a g p with
  | case1 | case3 => exact h.setGrpOf.takeTrap
  | case2 => exact h.setGrpOf.upd
  | case4 => exact h.setGrpOf.findErrors.setCore.noteUnit.upd
  | case5 => exact h.setGrpOf.findErrors.setCore.noteUnit.takeTrap
  | case6 => exact h.setGrpOf.findErrors.failTrap
  | case7 => exact h.setGrpOf.findErrors.takeTrap
  | case8 => exact h.setGrpOf.findErrors.setGrpOf

theorem fetch {a} (h : s₀.Keeps s) : s₀.Keeps (s.fetch a) := by
  fun_cases State.fetch s a with
  | case1 => exact h.setGrpOf.takeTrap
  | case2 => exact h.setGrpOf.killGroup
  | case3 => exact h.setGrpOf.setGrpOf.exitGroup
  | case4 => exact h.setGrpOf.setGrpOf
  | case5 => exact h.setGrpOf.setGrpOf.fetchAt

theorem execClauseFetch (h : s₀.Keeps s) : s₀.Ends (execClauseFetch s) := .ite (.next h.fetch) (.next h)

theorem readTable {uid off n} (h : s₀.Keeps s) : s₀.Keeps (s.readTable uid off n) := by
  fun_cases State.readTable s uid off n with
  | case1 => exact (h.badRead.out ‹_›).noteUnit
  | case2 => exact h.badRead.out ‹_›

theorem readTables {uid masks} (h : s₀.Keeps s) : s₀.Keeps (s.readTables uid masks) :=
  (h.foldl fun _ _ h => h.readTable).foldl fun _ _ h => h.readTable

theorem execCancel (h : s₀.Keeps s) : s₀.Ends (execCancel s) := by
  refine event fun _ => ?_
  split
  · exact .some (h.when fun h => h.readTables.takeCancel)
  · exact .none

theorem yield {x : Ix} (hx : s₀.Keeps x.s) : x.yield.Keeps s₀ := hx.fallThrough.setGrp

theorem execSchedYield (h : s₀.Keeps s) : s₀.Ends (execSchedYield s) := h.issue fun _ hx => hx.yield

theorem execSchedSleep {x} (h : s₀.Keeps s) : s₀.Ends (execSchedSleep x s) :=
  h.issue fun _ hx => .ite hx.yield (.moved hx.fallThrough.setGrp)

theorem wakeGroup {a} (h : s₀.Keeps s) : s₀.Keeps (s.wakeGroup a) := h.setGrpOf

theorem execYieldTimeout (h : s₀.Keeps s) : s₀.Ends (execYieldTimeout s) := by
  refine event fun _ => ?_
  split
  · exact .some (h.when fun h => h.wakeGroup)
  · exact .none

theorem execSleepEnd (h : s₀.Keeps s) : s₀.Ends (execSleepEnd s) := by
  refine event fun _ => ?_
  split
  · exact .some (h.when fun h => h.wakeGroup)
  · exact .none

theorem preloadSeg {core uid n va} (h : s₀.Keeps s) : s₀.Keeps (s.preloadSeg core uid n va) := by
  fun_cases State.preloadSeg s core uid n va with
  | case1 => exact h
  | case2 => exact (h.fresh.out ‹_›).setCore

theorem execUnitPreload (h : s₀.Keeps s) : s₀.Ends (execUnitPreload s) := by
  refine event fun _ => ?_
  split
  · split
    · exact .some h
    · exact .some (h.whenNot fun h => h.dropArrival.ite (h.setUnit.ite (h.foldl fun _ _ h => h.preloadSeg)))
  · exact .none

theorem startUnit {core uid} (h : s₀.Keeps s) : s₀.Keeps (s.startUnit core uid) := by
  fun_cases State.startUnit s core uid with
  | case1 =>
    exact (((h.setCore.setUnit.foldl fun _ _ h => h.setGrpOf).openUnit).when fun h => h.setGrpOf.lvAdd).putRecords
  | case2 =>
    exact ((((h.setCore.setUnit.foldl fun _ _ h => h.setGrpOf).openUnit).when fun h => h.setGrpOf.lvAdd).putRecords).upd

theorem execUnitStart (h : s₀.Keeps s) : s₀.Ends (execUnitStart s) := by
  refine event fun _ => ?_
  split
  · split
    · exact .some h
    · exact .some (h.startUnit.ite (h.when fun h => h.setUnit))
  · exact .none

theorem completeWrite {a k} (h : s₀.Keeps s) : s₀.Keeps (s.completeWrite a k) := by
  fun_cases State.completeWrite s a k with
  | case1 | case4 => exact h
  | case2 | case3 => exact h.setGrpOf

theorem execRegisterWriteComplete (h : s₀.Keeps s) : s₀.Ends (execRegisterWriteComplete s) := by
  refine event fun _ => ?_
  split
  · exact .some h.completeWrite
  · exact .none

theorem execWriteVisibleAtDie (h : s₀.Keeps s) : s₀.Ends (execWriteVisibleAtDie s) := by
  refine event fun _ => ?_
  split
  · extract_lets
    split
    · exact .some h
    · exact .some h.publish
  · exact .none

theorem execPathDemote (h : s₀.Keeps s) : s₀.Ends (execPathDemote s) := by
  refine event fun _ => ?_
  split
  · exact .some h.setGrpOf
  · exact .none

theorem execBackgroundForcedIssue (h : s₀.Keeps s) : s₀.Ends (execBackgroundForcedIssue s) := by
  refine event fun _ => ?_
  split
  · exact .some (h.when fun h => h.setCore)
  · exact .none

theorem execHbmScrub (h : s₀.Keeps s) : s₀.Ends (execHbmScrub s) := by
  refine event fun _ => ?_
  split
  · exact .some (h.when fun h => h.findErrors)
  · exact .none

end State.Keeps
end Sys2Proof.Machine
end

section
/-! System instructions: what each function keeps. -/
namespace Sys2Proof.Machine
namespace State.Keeps
variable {s₀ s : State}

theorem execSysSegw {x sp} (h : s₀.Keeps s) : s₀.Ends (execSysSegw x sp s) :=
  h.issue fun _ hx => priv (.ite (.done hx.setGrp) access)

theorem csrStore {dev asid n v} (h : s₀.Keeps s) : s₀.Keeps (s.csrStore dev asid n v) := by
  fun_cases State.csrStore s dev asid n v with
  | case1 => exact h.setDie
  | case2 | case5 | case6 | case7 | case8 | case9 => exact h.setCtx
  | case3 | case10 => exact h.setCtx.upd
  | case4 => exact h.setDev
  | case11 | case12 | case13 => exact h.setPkg
  | case14 => exact h

theorem execSysCsrr {x n} (h : s₀.Keeps s) : s₀.Ends (execSysCsrr x n s) :=
  h.issue fun _ hx => priv (.ite hx.results access)

theorem execSysCsrw {x n} (h : s₀.Keeps s) : s₀.Ends (execSysCsrw x n s) :=
  h.issue fun _ hx => priv (.ite .wait (.ite access (.ite access (.done hx.releaseAt.csrStore))))

theorem execXpoolTakeEffect (h : s₀.Keeps s) : s₀.Ends (execXpoolTakeEffect s) := by
  refine event fun _ => ?_
  split
  · exact .some (h.when fun h => h.setCore)
  · exact .none

theorem execSysTrap {n} (h : s₀.Keeps s) : s₀.Ends (execSysTrap n s) := h.issue fun _ _ => .trap

theorem raise {i : Ix} {cls n} (hx : s₀.Keeps i.s) : (i.raise cls n).Keeps s₀ := by
  fun_cases Ix.raise i cls n with
  | case1 => exact hx.fallThrough
  | case2 => exact trivial

theorem execSysSvc {n} (h : s₀.Keeps s) : s₀.Ends (execSysSvc n s) := h.issue fun _ hx => hx.raise

theorem execSysBkpt {n} (h : s₀.Keeps s) : s₀.Ends (execSysBkpt n s) := h.issue fun _ hx => hx.raise

theorem execSysEret (h : s₀.Keeps s) : s₀.Ends (execSysEret s) := by
  refine h.issue fun _ hx => priv (afterAll ?_)
  split
  · exact access
  · extract_lets
    split
    refine .ite .wait (.ite (.trapIn (hx.badRead.out ‹_›)) (.ite align (.ite access ?_)))
    extract_lets
    split
    · exact .moved (hx.badRead.out ‹_›).returnFrom
    · exact .ite (.trapIn (hx.badRead.out ‹_›).returnFrom) (.ite (.trapIn (hx.badRead.out ‹_›).returnFrom) (.moved
        (hx.badRead.out ‹_›).returnFrom.requestBlocks))

theorem execSysHalt (h : s₀.Keeps s) : s₀.Ends (execSysHalt s) :=
  h.issue fun _ hx => priv (.moved hx.fallThrough.setCtx)

theorem tellHalt (h : s₀.Keeps s) : s₀.Keeps s.tellHalt := h.foldl fun _ _ h => h.when fun h => h.setCtx.send

end State.Keeps
end Sys2Proof.Machine
end

section
/-! Saving and restoring: what each function keeps. -/
namespace Sys2Proof.Machine
namespace State.Keeps
variable {s₀ s : State}

theorem beginSave {dev asid uid area} (h : s₀.Keeps s) : s₀.Keeps (s.beginSave dev asid uid area) :=
  (h.setUnit.foldl fun _ _ h => h.updGroup).setCtx

theorem execPreemptRequest (h : s₀.Keeps s) : s₀.Ends (execPreemptRequest s) := by
  refine event fun _ => ?_
  split
  · extract_lets
    split
    · exact .some h.setCtx
    · exact .some (h.setCtx.ite (h.setCtx.ite h.beginSave.setCtx))
  · exact .none

theorem execRestoreRequest (h : s₀.Keeps s) : s₀.Ends (execRestoreRequest s) := by
  refine event fun _ => ?_
  split
  · exact .some (h.setCtx.ite h.setCtx)
  · exact .none

theorem writeArea {u area n} (h : s₀.Keeps s) : s₀.Keeps (s.writeArea u area n).2 := by
  refine State.KeepsOut.foldl h fun acc i h => ?_
  extract_lets t va
  split
  next ht => exact h.translate.out ht
  next ht => exact (h.translate.out ht).served.writeAt

theorem areaIntact {dev asid v} (h : s₀.Keeps s) : s₀.Keeps (s.areaIntact dev asid v).2 := by
  refine State.KeepsOut.foldl h fun acc c h => ?_
  extract_lets va
  split
  next ht => exact h.translate.out ht
  next ht =>
    extract_lets ka
    split
    next hb => exact ((h.translate.out ht).served.badHome.out hb).when fun h => h.noteUnit

theorem finishSave {uid} (h : s₀.Keeps s) : s₀.Keeps (s.finishSave uid) := by
  fun_cases State.finishSave s uid
  exact (h.writeArea.out ‹_›).setCore.dropBinds.setUnit.setCtx

theorem saveGroup {a} (h : s₀.Keeps s) : s₀.Keeps (s.saveGroup a) := by
  fun_cases State.saveGroup s a with
  | case1 => exact ((((h.withdraw.readTables.when fun h => h.passBaton).upd).servePool).setCtx).finishSave
  | case2 => exact (((h.withdraw.readTables.when fun h => h.passBaton).upd).servePool).setCtx

theorem execPreempt (h : s₀.Keeps s) : s₀.Ends (execPreempt s) := by
  refine event fun _ => ?_
  split
  · exact .some ((h.takeCancel.ite ((h.whenNot fun h => h.closeBatch).setGrpOf)).ite (h.when fun h => h.saveGroup))
  · exact .none

theorem reissueAll {uid a w} (h : s₀.Keeps s) : s₀.Keeps (s.reissueAll uid a w) := by
  fun_cases State.reissueAll s uid a w with
  | case1 =>
    exact (((((h.foldl fun _ _ h => h.arriveTag).foldl fun _ _ h => h.upd.serveSobj).foldl fun _ _ h =>
      h.setCore.servePool).foldl fun _ _ h => h.setCore.when fun h => h.passBaton).foldl fun _ _ h =>
        h.setQueue.serveQueue).foldl fun _ _ h => h.setQueue.serveQueue
  | case2 =>
    exact ((((((h.foldl fun _ _ h => h.arriveTag).foldl fun _ _ h => h.upd.serveSobj).foldl fun _ _ h =>
      h.setCore.servePool).foldl fun _ _ h => h.setCore.when fun h => h.passBaton).foldl fun _ _ h =>
        h.setQueue.serveQueue).foldl fun _ _ h => h.setQueue.serveQueue).foldl fun _ _ h => h.setNode.dispatch

theorem placeGroup {a g} (h : s₀.Keeps s) : s₀.Keeps (s.placeGroup a g) := by
  fun_cases State.placeGroup s a g with
  | case1 => exact h.setGrpOf
  | case2 | case3 => exact h.setCore.setGrpOf

theorem dropSaved {v} (h : s₀.Keeps s) : s₀.Keeps (s.dropSaved v) :=
  h.foldl fun _ _ h => h.foldl fun _ _ h => h.freeSobj

theorem restoreUnit {dev asid v} (h : s₀.Keeps s) : s₀.Keeps (s.restoreUnit dev asid v) := by
  fun_cases State.restoreUnit s dev asid v with
  | case1 =>
    exact (((h.setCtx.areaIntact.out ‹_›).setCore.setUnit.foldl fun _ _ h => h.placeGroup).foldl fun _ _ h =>
      h.reissueAll).foldl fun _ _ h => h.serveAbar
  | case2 => exact (h.setCtx.areaIntact.out ‹_›).dropSaved.setUnit.lvSetCtr

theorem execUnitRestore (h : s₀.Keeps s) : s₀.Ends (execUnitRestore s) := by
  refine event fun _ => ?_
  split
  · split
    · exact .some h
    · extract_lets
      split
      · exact .some h
      · exact .some (h.when fun h => h.restoreUnit)
  · exact .none

theorem settleSaves (h : s₀.Keeps s) : s₀.Keeps s.settleSaves :=
  h.foldl fun _ _ h => h.when fun h => (h.foldl fun _ _ h => h.dropSaved).setCtx

theorem execSysCkpt {x y} (h : s₀.Keeps s) : s₀.Ends (execSysCkpt x y s) := by
  refine h.issue fun _ hx => priv (.ite ?_ ?_)
  · split
    exact .moved (hx.fresh.out ‹_›).setGrp.fallThrough
  · split
    exact .moved (hx.fresh.out ‹_›).setGrp.parked

theorem execCheckpointStart (h : s₀.Keeps s) : s₀.Ends (execCheckpointStart s) := by
  refine event fun _ => ?_
  split
  · split
    · exact .some h
    · extract_lets
      split
      · exact .some h
      · exact .some (h.setDev.beginSave.ite h)
  · exact .none

theorem endCkpt {agent uid tok status} (h : s₀.Keeps s) : s₀.Keeps (s.endCkpt agent uid tok status) :=
  h.updGroup.deliver

theorem resumeCkpt {dev asid agent uid tok status} (h : s₀.Keeps s) :
    s₀.Keeps (s.resumeCkpt dev asid agent uid tok status) := by
  fun_cases State.resumeCkpt s dev asid agent uid tok status with
  | case1 => exact h.endCkpt
  | case2 => exact h.endCkpt.restoreUnit.setCtx

theorem finishCkpt {dev complete} (h : s₀.Keeps s) : s₀.Keeps (s.finishCkpt dev complete) := by
  fun_cases State.finishCkpt s dev complete with
  | case1 => exact h
  | case2 =>
    exact ((((h.fresh.out ‹_›).setDev.foldl fun _ _ h => h.send).when fun h => h.foldl fun _ _ h => h.send).when
      fun h => h.send).resumeCkpt

theorem execCheckpointComplete (h : s₀.Keeps s) : s₀.Ends (execCheckpointComplete s) := by
  refine event fun _ => ?_
  split
  · exact .some h.finishCkpt
  · exact .none

theorem settleCkpt {dev} (h : s₀.Keeps s) : s₀.Keeps (s.settleCkpt dev) := by
  fun_cases State.settleCkpt s dev with
  | case1 | case3 => exact h
  | case2 => exact h.setDev

end State.Keeps
end Sys2Proof.Machine
end

section
/-! Page tables and migration: what each function keeps. -/
namespace Sys2Proof.Machine
namespace State.Keeps
variable {s₀ s : State}

theorem storeLog {die n w0 w1} (h : s₀.Keeps s) : s₀.Keeps (s.storeLog die n w0 w1) := by
  fun_cases State.storeLog s die n w0 w1 with
  | case1 => exact h.owe
  | case2 => exact h.wrHome.wrHome

theorem appendLog {dev w0 count} (h : s₀.Keeps s) : s₀.Keeps (s.appendLog dev w0 count).2 :=
  ((h.foldl fun _ _ h => h.when fun h => h.applyLog).setDev).foldl fun _ _ h => h.storeLog

theorem execPtInv {x y} (h : s₀.Keeps s) : s₀.Ends (execPtInv x y s) :=
  h.issue fun _ hx => priv (.ite .wait (.ite access (.ite access (.done hx.releaseAt.appendLog))))

theorem execPtApply (h : s₀.Keeps s) : s₀.Ends (execPtApply s) :=
  h.issue fun _ hx => priv (.ite (.done hx.applyLog) access)

theorem execPtFence (h : s₀.Keeps s) : s₀.Ends (execPtFence s) :=
  h.issue fun _ hx => .ite access (.ite (.moved ((hx.foldl fun _ _ h => h.applyLog).parked)) (.moved (((hx.foldl
    fun _ _ h => h.applyLog).fenceAcqAt).fallThrough)))

theorem execLogApply (h : s₀.Keeps s) : s₀.Ends (execLogApply s) := by
  refine event fun _ => ?_
  split
  · exact .some h.applyLog
  · exact .none

theorem execPageWalk (h : s₀.Keeps s) : s₀.Ends (execPageWalk s) := by
  refine event fun _ => ?_
  split
  · extract_lets
    split
    · exact .some h
    · split
      · exact .some h
      · exact .some h.touchWalk.hold
  · exact .none

theorem leafOf {die dev asid va} (h : s₀.Keeps s) : s₀.Keeps (s.leafOf die dev asid va).2 := by
  fun_cases State.leafOf s die dev asid va with
  | case1 => exact h
  | case2 | case3 => exact h.touchWalk
  | case4 => exact h.touchWalk.publish

theorem putLeaf {w e} (h : s₀.Keeps s) : s₀.Keeps (s.putLeaf w e) := h.touch.writeAt.settleAt

theorem execPtMigb {x y z} (h : s₀.Keeps s) : s₀.Ends (execPtMigb x y z s) := by
  refine h.issue fun _ hx => priv (afterMoving (.ite .wait ?_))
  split
  · exact (hx.leafOf.out ‹_›).status
  · refine .ite (hx.leafOf.out ‹_›).status (.ite (hx.leafOf.out ‹_›).status (.ite (hx.leafOf.out ‹_›).status ?_))
    split
    · exact (hx.leafOf.out ‹_›).status
    · split
      split
      exact (((hx.leafOf.out ‹_›).fresh.out ‹_›).fresh.out ‹_›).putLeaf.setDev.status

theorem execPtMigf {x z} (h : s₀.Keeps s) : s₀.Ends (execPtMigf x z s) := by
  refine h.issue fun _ hx => priv (afterMoving (.ite .wait ?_))
  split
  · exact hx.status
  · refine .ite hx.status ?_
    extract_lets +onlyGivenNames s₁
    have h₁ : s₀.Keeps s₁ := by
      unfold s₁
      split
      · exact (hx.leafOf.out ‹_›).putLeaf
      · exact hx.leafOf.out ‹_›
    exact h₁.setDev.status

theorem thaw {m} (h : s₀.Keeps s) : s₀.Keeps (s.thaw m) :=
  ((h.foldl fun _ _ h => by split; exacts [h, h.performPart]).upd).foldl fun _ _ h => h.arriveTag

theorem execPtMigd {x z} (h : s₀.Keeps s) : s₀.Ends (execPtMigd x z s) := by
  refine h.issue fun _ hx => priv (afterMoving (.ite .wait ?_))
  extract_lets
  split
  · exact hx.status
  · refine .ite hx.status (.ite .wait (.ite access ?_))
    extract_lets +onlyGivenNames s₁ w moved
    have h₁ : s₀.Keeps s₁ := hx.leafOf
    clear_value moved w
    refine .ite ?_ ?_
    · extract_lets +onlyGivenNames s₂
      have h₂ : s₀.Keeps s₂ := by
        unfold s₂
        split
        · exact h₁
        · exact h₁.putLeaf
      exact h₂.setDev.thaw.status
    · extract_lets
      split
      exact (h₁.putLeaf.setDev.thaw.releaseAt.appendLog.out ‹_›).setDev.status

theorem copyLine {dev m line} (h : s₀.Keeps s) : s₀.Keeps (s.copyLine dev m line) :=
  ((h.findErrors.crcDone.when fun h => h.keyError).foldl fun _ _ h => (((h.when fun h =>
    h.served).writeAt).settleAt).when fun h => h.poisonAt).upd

theorem execCopierLineCopy (h : s₀.Keeps s) : s₀.Ends (execCopierLineCopy s) := by
  refine event fun _ => ?_
  split
  · refine .some ?_
    split
    · exact h
    · refine h.whenNot fun h => ?_
      extract_lets lines
      split
      next s₁ m₁ hs₁ =>
        have h₁ : s₀.Keeps s₁ := by
          split at hs₁
          · rw [← (Prod.mk.inj hs₁).1]; exact h.copyLine
          · split at hs₁
            · rw [← (Prod.mk.inj hs₁).1]; exact h
            · rw [← (Prod.mk.inj hs₁).1]; exact h.copyLine
        exact h₁.setDev
  · exact .none

theorem abandonMigs {dev whose} (h : s₀.Keeps s) : s₀.Keeps (s.abandonMigs dev whose) :=
  h.foldl fun _ _ h => h.setDev.thaw

theorem execMigrationRecordFree (h : s₀.Keeps s) : s₀.Ends (execMigrationRecordFree s) := by
  refine event fun _ => ?_
  split
  · split
    · exact .some h
    · exact .some (h.when fun h => h.setDev)
  · exact .none

theorem execPtHotl {x y} (h : s₀.Keeps s) : s₀.Ends (execPtHotl x y s) :=
  h.issue fun _ hx => priv (afterAll (.ite access (.done hx.setDev)))

theorem gustStep {dev tile g} (h : s₀.Keeps s) : s₀.Keeps (s.gustStep dev tile g) := by
  fun_cases State.gustStep s dev tile g with
  | case1 | case3 => exact h.settleAt.setDev.wrLate
  | case2 => exact h.settleAt.setDev.foldl fun _ _ h => h.wrLate
  | case4 => exact h.settleAt.setDev

theorem execGustListPublish (h : s₀.Keeps s) : s₀.Ends (execGustListPublish s) := by
  refine event fun _ => ?_
  split
  · exact .some (h.when fun h => h.gustStep)
  · exact .none

end State.Keeps
end Sys2Proof.Machine
end

section
/-! Trust, boot and the host commands: what each function keeps. -/
namespace Sys2Proof.Machine
namespace State.Keeps
variable {s₀ s : State}

theorem clearPlaces {which} (h : s₀.Keeps s) : s₀.Keeps (s.clearPlaces which) :=
  ⟨h.count, h.cycle, fun hw => memSorted_filter _ (h.wf hw)⟩

theorem switchCore {core asid} (h : s₀.Keeps s) : s₀.Keeps (s.switchCore core asid) :=
  h.clearPlaces.upd.setCore.applyLog

theorem execContextSwitch (h : s₀.Keeps s) : s₀.Ends (execContextSwitch s) := by
  refine event fun _ => ?_
  split
  · exact .some (h.when fun h => h.switchCore)
  · exact .none

theorem destroyUnit {uid} (h : s₀.Keeps s) : s₀.Keeps (s.destroyUnit uid) := by
  fun_cases State.destroyUnit s uid with
  | case1 => exact h.dropArrival
  | case2 => exact h.setUnit.lvSetCtr
  | case3 => exact h.terminate

theorem beginDestroy {dev asid} (h : s₀.Keeps s) : s₀.Keeps (s.beginDestroy dev asid) :=
  (h.setCtx.abandonMigs.when fun h => h.cancelLevel).foldl fun _ _ h => h.destroyUnit

theorem reply {dev status} (h : s₀.Keeps s) : s₀.Keeps (s.reply dev status) := h.send

theorem removeCtx {dev asid} (h : s₀.Keeps s) : s₀.Keeps (s.removeCtx dev asid) :=
  h.setDev.upd.dropHeld.foldl fun _ _ h => h.when fun h => h.switchCore

theorem wipe {dev} (h : s₀.Keeps s) : s₀.Keeps (s.wipe dev) :=
  (((h.clearPlaces.dropHeld.foldl fun _ _ h => h.upd.setCore).foldl fun _ _ h => h.setDie).setDev).upd

theorem settleTrust (h : s₀.Keeps s) : s₀.Keeps s.settleTrust :=
  (h.foldl fun _ _ h => h.whenNot fun h => h.abandonMigs.when fun h => h.removeCtx.whenNot fun h => h.reply).foldl
    fun _ _ h => h.when fun h => h.wipe

theorem execClockLower (h : s₀.Keeps s) : s₀.Ends (execClockLower s) := by
  refine event fun _ => ?_
  split
  · exact .some (h.when fun h => h.setPkg)
  · exact .none

theorem execClockRaise (h : s₀.Keeps s) : s₀.Ends (execClockRaise s) := by
  refine event fun _ => ?_
  split
  · exact .some (h.when fun h => h.setPkg)
  · exact .none

theorem setSpdm {port x} (h : s₀.Keeps s) : s₀.Keeps (s.setSpdm port x) := h.setPkg

theorem spdmError {port code} (h : s₀.Keeps s) : s₀.Keeps (s.spdmError port code) := h.send

theorem responder {port f} (h : s₀.Keeps s) (hf : ∀ k, s₀.Keeps (f k)) : s₀.Keeps (s.responder port f) := by
  fun_cases State.responder s port f with
  | case1 => exact h.send
  | case2 | case4 => exact h
  | case3 => exact hf _

theorem spdmAfter {t : State} {port ok} (h : s₀.Keeps s) (h1 : s₀.Keeps t) : s₀.Keeps (s.spdmAfter port ok t) := by
  fun_cases State.spdmAfter s port ok t with
  | case1 => exact h1
  | case2 => exact h.spdmError

theorem execGetVersion (h : s₀.Keeps s) : s₀.Ends (execGetVersion s) := by
  refine event fun _ => ?_
  split
  · exact .some (h.responder fun _ => h.setSpdm.send)
  · exact .none

theorem execGetCapabilities (h : s₀.Keeps s) : s₀.Ends (execGetCapabilities s) := by
  refine event fun _ => ?_
  split
  · exact .some (h.responder fun _ => h.spdmAfter h.setSpdm.send)
  · exact .none

theorem execNegotiateAlgorithms (h : s₀.Keeps s) : s₀.Ends (execNegotiateAlgorithms s) := by
  refine event fun _ => ?_
  split
  · exact .some (h.responder fun _ => h.spdmAfter (h.setSpdm.send.ite h.spdmError))
  · exact .none

theorem execGetDigests (h : s₀.Keeps s) : s₀.Ends (execGetDigests s) := by
  refine event fun _ => ?_
  split
  · exact .some (h.responder fun _ => h.spdmAfter h.send)
  · exact .none

theorem execGetCertificate (h : s₀.Keeps s) : s₀.Ends (execGetCertificate s) := by
  refine event fun _ => ?_
  split
  · exact .some (h.responder fun _ => h.spdmAfter (h.send.ite h.spdmError))
  · exact .none

theorem execChallenge (h : s₀.Keeps s) : s₀.Ends (execChallenge s) := by
  refine event fun _ => ?_
  split
  · exact .some (h.responder fun _ => h.spdmAfter h.send)
  · exact .none

theorem execGetMeasurements (h : s₀.Keeps s) : s₀.Ends (execGetMeasurements s) := by
  refine event fun _ => ?_
  split
  · exact .some (h.responder fun _ => h.spdmAfter (h.send.ite h.spdmError))
  · exact .none

theorem setOwner {dev o} (h : s₀.Keeps s) : s₀.Keeps (s.setOwner dev o) := h.setDev

theorem execKeyExchange (h : s₀.Keeps s) : s₀.Ends (execKeyExchange s) := by
  refine event fun _ => ?_
  split
  · exact .some (h.responder fun _ => h.spdmAfter (h.setSpdm.send.ite (h.spdmError.ite (h.spdmError.ite
      h.setOwner.send))))
  · exact .none

theorem setLink {n x} (h : s₀.Keeps s) : s₀.Keeps (s.setLink n x) := h.setPkg

theorem openLink {n} (h : s₀.Keeps s) : s₀.Keeps (s.openLink n) := by
  fun_cases State.openLink s n
  exact ((h.fresh.out ‹_›).fresh.out ‹_›).setLink

theorem execFinish (h : s₀.Keeps s) : s₀.Ends (execFinish s) := by
  refine event fun _ => ?_
  split
  · exact .some (h.responder fun _ => (h.spdmAfter (h.setSpdm.openLink.send.ite h.spdmError)).ite (h.spdmAfter
      (h.setOwner.send.send.ite h.setOwner.spdmError)))
  · exact .none

theorem wire {port k k2} (h : s₀.Keeps s) : s₀.Keeps (s.wire port k k2) := by
  fun_induction State.wire s port k k2 with
  | case1 | case2 => exact h
  | case3 => rename_i ih; exact ih h.send

theorem sealNow {port typ nak plain} (h : s₀.Keeps s) : s₀.Keeps (s.sealNow port typ nak plain) :=
  h.setLink.wire

theorem rollTx {n} (h : s₀.Keeps s) : s₀.Keeps (s.rollTx n) := by
  fun_cases State.rollTx s n
  exact (h.fresh.out ‹_›).setLink

theorem drainLink {port} (h : s₀.Keeps s) : s₀.Keeps (s.drainLink port) := by
  fun_cases State.drainLink s port with
  | case1 | case2 => exact h
  | case3 => exact h.setLink.sealNow

theorem sealFlit {port typ nak plain} (h : s₀.Keeps s) : s₀.Keeps (s.sealFlit port typ nak plain) := by
  fun_cases State.sealFlit s port typ nak plain with
  | case1 | case4 => exact h
  | case2 => exact h.sealNow
  | case3 => exact h.send.rollTx.sealNow.drainLink

theorem answerFlit {port nak} (h : s₀.Keeps s) : s₀.Keeps (s.answerFlit port nak) := h.sealFlit

theorem rollRx {n} (h : s₀.Keeps s) : s₀.Keeps (s.rollRx n) := by
  fun_cases State.rollRx s n
  exact (h.fresh.out ‹_›).setLink

theorem execKeyUpdate (h : s₀.Keeps s) : s₀.Ends (execKeyUpdate s) := by
  refine event fun _ => ?_
  split
  · exact .some (h.responder fun _ => (h.spdmAfter h.setSpdm.send).ite (h.spdmAfter ((h.setSpdm.rollRx.when fun h =>
      h.rollTx.drainLink).send)))
  · exact .none

theorem execHeartbeat (h : s₀.Keeps s) : s₀.Ends (execHeartbeat s) := by
  refine event fun _ => ?_
  split
  · exact .some (h.responder fun _ => h.spdmAfter h.send)
  · exact .none

theorem linkPeers {n} (h : s₀.Keeps s) : s₀.Keeps (s.linkPeers n) := h.settleColls

theorem dropLink {n} (h : s₀.Keeps s) : s₀.Keeps (s.dropLink n) := by
  fun_cases State.dropLink s n with
  | case1 => exact h.setLink.linkPeers.setSpdm.finishCkpt
  | case2 => exact h.setLink.linkPeers.setSpdm

theorem execEndSession (h : s₀.Keeps s) : s₀.Ends (execEndSession s) := by
  refine event fun _ => ?_
  split
  · exact .some (h.responder fun _ => (h.spdmAfter ((h.setDev.foldl fun _ _ h => h.beginDestroy).send)).ite
      (h.spdmAfter h.dropLink.send))
  · exact .none

theorem command {dev f} (h : s₀.Keeps s) (hf : ∀ k, s₀.Keeps (f k)) : s₀.Keeps (s.command dev f) := by
  fun_cases State.command s dev f with
  | case1 => exact hf _
  | case2 => exact h

theorem checked {t : State} {dev l} (h : s₀.Keeps s) (ht : s₀.Keeps t) : s₀.Keeps (s.checked dev l t) := by
  fun_induction State.checked s dev l t with
  | case1 => exact ht
  | case2 => exact h.reply
  | case3 => rename_i ih; exact ih ht

theorem execFeatureAccept (h : s₀.Keeps s) : s₀.Ends (execFeatureAccept s) := by
  refine event fun _ => ?_
  split
  · exact .some (h.command fun _ => h.whenNot fun h => h.setOwner.ite h.send)
  · exact .none

theorem setMode {dev mode} (h : s₀.Keeps s) : s₀.Keeps (s.setMode dev mode) := by
  unfold State.setMode
  split
  · exact h
  · extract_lets at' s₁
    have h₁ : s₀.Keeps s₁ := h.foldl fun _ _ h => h.when fun h => h.wipe
    exact ⟨h₁.count, h₁.cycle, fun _ => memSorted_foldl_put _ _ _ rfl⟩

theorem firstContext {dev} (h : s₀.Keeps s) : s₀.Keeps (s.firstContext dev) :=
  ((h.setDev.foldl fun _ _ h => h.setDie).clearPlaces).upd

theorem execCtxCreate (h : s₀.Keeps s) : s₀.Ends (execCtxCreate s) := by
  refine event fun _ => ?_
  split
  · exact .some (h.command fun _ => h.checked (((((h.setMode.when fun h => h.firstContext).foldl fun _ _ h =>
      h.wrN).setCtx).lvOpen).reply))
  · exact .none

theorem execCtxDestroy (h : s₀.Keeps s) : s₀.Ends (execCtxDestroy s) := by
  refine event fun _ => ?_
  split
  · exact .some (h.command fun _ => h.checked h.beginDestroy)
  · exact .none

theorem execLaunch (h : s₀.Keeps s) : s₀.Ends (execLaunch s) := by
  refine event fun _ => ?_
  split
  · split
    · extract_lets
      split
      exact .some (h.command fun _ => h.checked ((h.launch.out ‹_›).reply.ite (h.launch.out ‹_›).send))
    · extract_lets
      split
      exact .some (h.command fun _ => h.checked ((h.launch.out ‹_›).reply.ite (h.launch.out ‹_›).send))
  · exact .none

theorem execGobjCreate (h : s₀.Keeps s) : s₀.Ends (execGobjCreate s) := by
  refine event fun _ => ?_
  split
  · exact .some (h.command fun _ => h.checked h.setGobj.reply)
  · exact .none

theorem execGobjDestroy (h : s₀.Keeps s) : s₀.Ends (execGobjDestroy s) := by
  refine event fun _ => ?_
  split
  · refine .some (h.command fun _ => h.checked ?_)
    refine (foldl h.settleColls.setDev fun _ _ h => ?_).losePeers.reply
    split
    · exact h.setGobj
    · exact h
  · exact .none

theorem execGobjRebind (h : s₀.Keeps s) : s₀.Ends (execGobjRebind s) := by
  refine event fun _ => ?_
  split
  · exact .some (h.command fun _ => h.checked h.setGobj.reply)
  · exact .none

theorem execKeyInstall (h : s₀.Keeps s) : s₀.Ends (execKeyInstall s) := by
  refine event fun _ => ?_
  split
  · split
    exact .some (h.command fun _ => h.checked (h.fresh.out ‹_›).setDev.reply)
  · exact .none

theorem execKeyErase (h : s₀.Keeps s) : s₀.Ends (execKeyErase s) := by
  refine event fun _ => ?_
  split
  · exact .some (h.command fun _ => h.checked h.setDev.reply)
  · exact .none

theorem execMrReg (h : s₀.Keeps s) : s₀.Ends (execMrReg s) := by
  refine event fun _ => ?_
  split
  · exact .some (h.command fun _ => h.checked h.setDev.reply)
  · exact .none

theorem execMrDereg (h : s₀.Keeps s) : s₀.Ends (execMrDereg s) := by
  refine event fun _ => ?_
  split
  · exact .some (h.command fun _ => h.checked h.setDev.reply)
  · exact .none

theorem execExportSet (h : s₀.Keeps s) : s₀.Ends (execExportSet s) := by
  refine event fun _ => ?_
  split
  · exact .some (h.command fun _ => h.checked h.setDev.reply)
  · exact .none

theorem execCkptTier (h : s₀.Keeps s) : s₀.Ends (execCkptTier s) := by
  refine event fun _ => ?_
  split
  · exact .some (h.command fun _ => h.checked h.setDev.reply)
  · exact .none

theorem restoreImage {dev key im} (h : s₀.Keeps s) : s₀.Keeps (s.restoreImage dev key im) := by
  unfold State.restoreImage
  extract_lets s₁ d ring rings tags s₂ s₃
  have h₁ : s₀.Keeps s₁ := h.clearPlaces
  have h₂ : s₀.Keeps s₂ := ⟨h₁.count, h₁.cycle, fun hw => memSorted_foldl_put _ _ _ (h₁.wf hw)⟩
  exact foldl h₂.setDev fun _ _ h => h.setDie

theorem execRestore (h : s₀.Keeps s) : s₀.Ends (execRestore s) := by
  refine event fun _ => ?_
  split
  · refine .some (h.command fun _ => h.checked ?_)
    split
    · exact h
    · exact h.reply.send.ite h.reply.setMode.setPkg.setDev.restoreImage.switchCore.resumeCkpt
  · exact .none

theorem execCtxContinue (h : s₀.Keeps s) : s₀.Ends (execCtxContinue s) := by
  refine event fun _ => ?_
  split
  · exact .some (h.command fun _ => h.checked h.setCtx.reply)
  · exact .none

end State.Keeps
end Sys2Proof.Machine
end

section
/-! Ports and links: what each function keeps. -/
namespace Sys2Proof.Machine
namespace State.Keeps
variable {s₀ s : State}

theorem portPlaces {dev asid va len write} (h : s₀.Keeps s) : s₀.Keeps (s.portPlaces dev asid va len write).2 :=
  State.Keeps.foldlPair h fun _ _ h => by
    split
    · exact h
    · split
      · exact h
      · split <;> exact h.translate.out ‹_›

theorem portWrite {view ka n v} (h : s₀.Keeps s) : s₀.Keeps (s.portWrite view ka n v) := h.writeAt.publish

theorem portPerform {view ps data} (h : s₀.Keeps s) : s₀.Keeps (s.portPerform view ps data).2 := by
  unfold State.portPerform
  extract_lets s₁
  have h₁ : s₀.Keeps s₁ := h.foldl fun _ _ h => h.served
  split
  · split
    next bad s₂ hs₂ =>
      have h₂ : s₀.Keeps s₂ := out (foldlPair h₁ fun _ _ h => by split; next hb => exact h.badHome.out hb) hs₂
      split <;> exact h₂
  · exact foldlPair h₁ fun _ _ h => h.portWrite

theorem portRequest {view dev asid va len data} (h : s₀.Keeps s) :
    s₀.Keeps (s.portRequest view dev asid va len data).2 := by
  fun_cases State.portRequest s view dev asid va len data with
  | case1 => exact h.portPlaces.out ‹_›
  | case2 => exact ((h.portPlaces.out ‹_›).portPerform.out ‹_›).noteEcc
  | case3 => exact (h.portPlaces.out ‹_›).portPerform

theorem roceBack {dev qp k k2} (h : s₀.Keeps s) : s₀.Keeps (s.roceBack dev qp k k2) := by
  fun_induction State.roceBack s dev qp k k2 with
  | case1 => exact h
  | case2 => exact h.send
  | case3 => rename_i ih; exact ih h.send

theorem execRoceRequestPacket (h : s₀.Keeps s) : s₀.Ends (execRoceRequestPacket s) := by
  refine event fun _ => ?_
  split
  · extract_lets
    split
    · exact .some h
    · split
      · exact .some h.send
      · split
        · exact .some h.send
        · split
          · exact .some (h.portRequest.out ‹_›).send
          · exact .some (h.portRequest.out ‹_›).roceBack
  · exact .some (h.when fun h => h.send)
  · exact .none

theorem keepMirror {m} (h : s₀.Keeps s) : s₀.Keeps (s.keepMirror m) := by
  fun_cases State.keepMirror s m with
  | case1 => exact h
  | case2 => exact h.setPkg

theorem execPeerRequest (h : s₀.Keeps s) : s₀.Ends (execPeerRequest s) := by
  refine event fun _ => ?_
  split
  · split
    · exact .some h
    · extract_lets
      split
      · exact .some h.setLink.send
      · split
        · exact .some (h.setLink.portRequest.out ‹_›).send
        · exact .some (h.setLink.portRequest.out ‹_›).keepMirror.send
  · exact .none

theorem execPtpMessage (h : s₀.Keeps s) : s₀.Ends (execPtpMessage s) := by
  refine event fun _ => ?_
  split
  · exact .some (h.when fun h => h.setDev.setPkg)
  · exact .none

theorem takeAck {port ackseq nak} (h : s₀.Keeps s) : s₀.Keeps (s.takeAck port ackseq nak) :=
  (h.setLink.when fun h => h.wire).drainLink

theorem receive {port typ bs} (h : s₀.Keeps s) : s₀.Keeps (s.receive port typ bs).2 := by
  fun_cases State.receive s port typ bs with
  | case1 => exact h
  | case2 => exact h.setLink.takeAck
  | case3 | case4 | case5 => exact h.answerFlit

theorem receiveAck {port typ bs} (h : s₀.Keeps s) : s₀.Keeps (s.receiveAck port typ bs) := by
  fun_cases State.receiveAck s port typ bs with
  | case1 => exact (h.receive.out ‹_›).answerFlit
  | case2 => exact h.receive.out ‹_›

theorem execFlitIdle (h : s₀.Keeps s) : s₀.Ends (execFlitIdle s) := by
  refine event fun _ => ?_
  split
  · exact .some h.receiveAck
  · exact .none

theorem execFlitData (h : s₀.Keeps s) : s₀.Ends (execFlitData s) := by
  refine event fun _ => ?_
  split
  · split
    · exact .some (h.receive.out ‹_›).setLink.answerFlit
    · exact .some (h.receive.out ‹_›)
  · exact .none

theorem execFlitAck (h : s₀.Keeps s) : s₀.Ends (execFlitAck s) := by
  refine event fun _ => ?_
  split
  · exact .some h.receive
  · exact .none

theorem execFlitMarker (h : s₀.Keeps s) : s₀.Ends (execFlitMarker s) := by
  refine event fun _ => ?_
  split
  · split
    · exact .some (h.receive.out ‹_›).setLink.answerFlit
    · exact .some (h.receive.out ‹_›)
  · exact .none

theorem execFlitOtherType (h : s₀.Keeps s) : s₀.Ends (execFlitOtherType s) := by
  refine event fun _ => ?_
  split
  · exact .some h
  · exact .none

theorem execLinkDown (h : s₀.Keeps s) : s₀.Ends (execLinkDown s) := by
  refine event fun _ => ?_
  split
  · exact .some (h.when fun h => h.dropLink)
  · exact .none

theorem execLinkReopen (h : s₀.Keeps s) : s₀.Ends (execLinkReopen s) := by
  refine event fun _ => ?_
  split
  · exact .some (h.whenNot fun h => h.openLink.setSpdm)
  · exact .none

end State.Keeps
end Sys2Proof.Machine
end

section
/-! Frames: what each function keeps. -/
namespace Sys2Proof.Machine
namespace State.Keeps
variable {s₀ s : State}

theorem setTimer {t} (h : s₀.Keeps s) : s₀.Keeps (s.setTimer t) := h.setPkg

theorem setOutput {o x} (h : s₀.Keeps s) : s₀.Keeps (s.setOutput o x) := h.setPkg

theorem execFlitSync (h : s₀.Keeps s) : s₀.Ends (execFlitSync s) := by
  refine event fun _ => ?_
  split
  · split
    · exact .some (h.receive.out ‹_›)
    · exact .some ((h.receive.out ‹_›).setTimer.answerFlit.when fun h => h.sealFlit)
  · exact .none

theorem execSyncFlitSend (h : s₀.Keeps s) : s₀.Ends (execSyncFlitSend s) := by
  refine event fun _ => ?_
  split
  · exact .some (h.when fun h => h.setTimer.foldl fun _ _ h => h.sealFlit.when fun h => h.setTimer)
  · exact .none

theorem execLockLoss (h : s₀.Keeps s) : s₀.Ends (execLockLoss s) := by
  refine event fun _ => ?_
  split
  · exact .some (h.when fun h => h.setTimer)
  · exact .none

theorem execMemberLost (h : s₀.Keeps s) : s₀.Ends (execMemberLost s) := by
  refine event fun _ => ?_
  split
  · exact .ite (.some h) (.some (h.setTimer.upd.foldl fun _ _ h => h.losePeers))
  · exact .none

theorem execOutputConfigure (h : s₀.Keeps s) : s₀.Ends (execOutputConfigure s) := by
  refine event fun _ => ?_
  split
  · exact .some (h.command fun _ => h.checked h.setOutput.reply)
  · exact .none

theorem planeOk {dev asid va len} (h : s₀.Keeps s) : s₀.Keeps (s.planeOk dev asid va len).2 := by
  fun_cases State.planeOk s dev asid va len with
  | case1 => exact h
  | case2 => exact State.Keeps.foldlPair h fun _ _ h => by split; exacts [by split <;> exact h.translate.out ‹_›, h]

theorem execPresentPost {x y} (h : s₀.Keeps s) : s₀.Ends (execPresentPost x y s) := by
  refine h.issue fun _ hx => afterAll (hx.withObjects fun _ _ h₁ => ?_)
  extract_lets
  split
  next hs₂ =>
    have h₂ := h₁.releaseAt.badRead.out hs₂
    refine .ite h₂.noteUnit.status ?_
    split
    refine .ite h₂.status (.ite h₂.status (.ite h₂.status (.ite .wait ?_)))
    split
    next hs₃ =>
      have h₃ := h₂.planeOk.out hs₃
      split
      next hs₄ =>
        have h₄ := out (State.KeepsOut.ite h₃.planeOk (.mk h₃)) hs₄
        split
        next hs₅ =>
          have h₅ := out (State.KeepsOut.ite h₄.planeOk (.mk h₄)) hs₅
          exact .ite h₅.setOutput.setTag.status h₅.status

theorem planeWord {f va} (h : s₀.Keeps s) : s₀.Keeps (s.planeWord f va).2 := by
  show s₀.KeepsOut _
  rw [show @State.planeWord = _ by delta State.planeWord; rfl]
  extract_lets die free
  split
  next ht => exact h.translate.out ht
  next ht =>
    extract_lets ka
    split
    next hb =>
      have h₂ := (h.translate.out ht).served.badHome.out hb
      exact .ite h₂.noteEcc h₂

theorem readPlane {f va pitch} (h : s₀.Keeps s) : s₀.Keeps (s.readPlane f va pitch).2 := by
  refine State.KeepsOut.foldl h fun acc i h => ?_
  split
  next hw => exact h.planeWord.out hw

theorem mirrorOut {x color depth motion} (h : s₀.Keeps s) : s₀.Keeps (s.mirrorOut x color depth motion) := by
  fun_cases State.mirrorOut s x color depth motion with
  | case1 => exact h.send
  | case2 => exact h

theorem sendFrame {x} (h : s₀.Keeps s) : s₀.Keeps (s.sendFrame x) := by
  unfold State.sendFrame
  split
  · exact h.owe
  · extract_lets f
    split
    next c s₁ hs₁ =>
      have h₁ := h.readPlane.out hs₁
      split
      · split
        next z s₂ hs₂ =>
          split
          next v s₃ hs₃ =>
            have h₃ := (h₁.readPlane.out hs₂).readPlane.out hs₃
            exact h₃.send.ite h₃.send.mirrorOut
      · exact h₁.send

theorem endFrame {o} (h : s₀.Keeps s) : s₀.Keeps (s.endFrame o) := by
  fun_cases State.endFrame s o with
  | case1 => exact h
  | case2 => exact h.setOutput.sendFrame

theorem retire {desc v} (h : s₀.Keeps s) : s₀.Keeps (s.retire desc v) := by
  fun_cases State.retire s desc v with
  | case1 => exact h.owe
  | case2 => exact h.wrHome.setTag

theorem outputAt {o k} (h : s₀.Keeps s) : s₀.Keeps (s.outputAt o k) := by
  fun_cases State.outputAt s o k with
  | case1 => exact h
  | case2 _ _ _ f _ s₁ s₂ =>
    have h₁ : s₀.Keeps s₁ := h.foldl fun _ _ h => h.retire
    have h₂ : s₀.Keeps s₂ := by
      unfold s₂
      split
      · exact h₁.retire
      · exact h₁
    exact h₂.setOutput
  | case3 => exact h.setOutput
  | case4 => exact h.send

theorem coverAt {member o k} (h : s₀.Keeps s) : s₀.Keeps (s.coverAt member o k) := by
  fun_cases State.coverAt s member o k with
  | case1 | case3 => exact h.send
  | case2 => exact h

theorem execFrameDeadline (h : s₀.Keeps s) : s₀.Ends (execFrameDeadline s) := by
  refine event fun _ => ?_
  split
  · extract_lets +onlyGivenNames t k s₁ t₁ s₂ s₃ t₂ s₄ t₃ s₅
    have h₁ : s₀.Keeps s₁ := h.foldl fun _ _ h => h.endFrame
    have h₂ : s₀.Keeps s₂ := h₁.setTimer
    have h₃ : s₀.Keeps s₃ := h₂.foldl fun _ _ h => h.whenNot fun h => h.outputAt
    have h₄ : s₀.Keeps s₄ := h₃.when fun h => h.setTimer
    have h₅ : s₀.Keeps s₅ := by
      unfold s₅
      split
      · exact h₄.setTimer.ite (h₄.foldl fun _ _ h => h.coverAt)
      · exact h₄
    exact .some h₅.setTimer
  · exact .none

end State.Keeps
end Sys2Proof.Machine
end

section
/-! Across lanes: what each function keeps. -/
namespace Sys2Proof.Machine
namespace State.Keeps
variable {s₀ s : State}

theorem shuffle {w d a b f} (h : s₀.Keeps s) : s₀.Ends (shuffle s w d a b f) := h.intInstr

theorem reduce {w d a f} (h : s₀.Keeps s) : s₀.Ends (reduce s w d a f) := h.issue fun _ hx => .done hx.setGrp

theorem foldLanes {w d a z f} (h : s₀.Keeps s) : s₀.Ends (foldLanes s w d a z f) := h.reduce

theorem execBallot {w d a} (h : s₀.Keeps s) : s₀.Ends (execBallot w d a s) :=
  h.issue fun _ hx => .done hx.setGrp

theorem execRfadd {w d a} (h : s₀.Keeps s) : s₀.Ends (execRfadd w d a s) := by
  refine h.issue fun _ hx => ?_
  extract_lets
  split
  exact .done hx.setGrp

theorem execPffadd {w d a} (h : s₀.Keeps s) : s₀.Ends (execPffadd w d a s) := by
  refine h.issue fun _ hx => ?_
  extract_lets
  split
  exact .done hx.setGrp

theorem execMovsRead {w d n} (h : s₀.Keeps s) : s₀.Ends (execMovsRead w d n s) :=
  h.issue fun _ hx => .done hx.setGrp

theorem execMovsWrite {a n} (h : s₀.Keeps s) : s₀.Ends (execMovsWrite a n s) :=
  h.issue fun _ hx => .done hx.setGrp

theorem execNop (h : s₀.Keeps s) : s₀.Ends (execNop s) := h.issue fun _ hx => .done hx

theorem execModPrefix {c r sat ng nb nc aa ab l} (h : s₀.Keeps s) :
    s₀.Ends (execModPrefix c r sat ng nb nc aa ab l s) := by
  unfold Machine.execModPrefix
  split
  · trivial
  · exact .next h.setGrp

end State.Keeps
end Sys2Proof.Machine
end

section
/-! Floating point in lanes: what each function keeps. -/
namespace Sys2Proof.Machine
namespace State.Keeps
variable {s₀ s : State}

theorem fpArith {w d srcs ops f} (h : s₀.Keeps s) : s₀.Ends (fpArith s w d srcs ops f) := h.laneInstr

theorem fpCmp {w d a b k} (h : s₀.Keeps s) : s₀.Ends (fpCmp s w d a b k) := h.laneInstr

theorem fpFun {w d a code} (h : s₀.Keeps s) : s₀.Ends (fpFun s w d a code) := h.laneInstr

theorem packed {w d srcs fm ops f} (h : s₀.Keeps s) : s₀.Ends (packed s w d srcs fm ops f) := h.laneInstr

theorem dot2 {w d a b fm pk} (h : s₀.Keeps s) : s₀.Ends (dot2 s w d a b fm pk) := h.laneInstr

theorem execHfma2 {w d a b} (h : s₀.Keeps s) : s₀.Ends (execHfma2 w d a b s) := by
  unfold Machine.execHfma2
  exact h.packed

theorem execBfma2 {w d a b} (h : s₀.Keeps s) : s₀.Ends (execBfma2 w d a b s) := by
  unfold Machine.execBfma2
  exact h.packed

end State.Keeps
end Sys2Proof.Machine
end

section
/-! Integers in lanes: what each function keeps. -/
namespace Sys2Proof.Machine
namespace State.Keeps
variable {s₀ s : State}

theorem intBin {w d a b f} (h : s₀.Keeps s) : s₀.Ends (intBin s w d a b f) := h.intInstr

theorem satBin {w d a b f} (h : s₀.Keeps s) : s₀.Ends (satBin s w d a b f) := h.intInstr

theorem intUn {w d a f} (h : s₀.Keeps s) : s₀.Ends (intUn s w d a f) := h.intInstr

theorem intCmp {w d a b f} (h : s₀.Keeps s) : s₀.Ends (intCmp s w d a b f) := h.intBin

theorem execIadd64 {w d a b} (h : s₀.Keeps s) : s₀.Ends (execIadd64 w d a b s) := by
  unfold Machine.execIadd64
  extract_lets nb
  exact h.issue fun _ hx => .done hx.setGrp

theorem execUpkp {w d a} (h : s₀.Keeps s) : s₀.Ends (execUpkp w d a s) := h.issue fun _ hx => .done hx.setGrp

end State.Keeps
end Sys2Proof.Machine
end

section
/-! The start of a step: what each function keeps. -/
namespace Sys2Proof.Machine
namespace State.Keeps
variable {s₀ s : State}

theorem noteSeq {x} (h : s₀.Keeps s) : s₀.Keeps (s.noteSeq x) := by
  fun_cases State.noteSeq s x with
  | case1 | case3 => exact h
  | case2 => exact h.setDev

theorem begin {x rest} (h : s₀.Keeps s) : s₀.Keeps (s.begin x rest) := h.noteSeq.upd

end State.Keeps
end Sys2Proof.Machine
end

section
/-! What follows at the same instant: what each function keeps. -/
namespace Sys2Proof.Machine
namespace State.Keeps
variable {s₀ s : State}

theorem endWait {a w} (h : s₀.Keeps s) : s₀.KeepsAny (s.endWait a w) := by
  fun_cases State.endWait s a w with
  | case1 => exact h
  | case2 | case3 | case5 | case7 => exact trivial
  | case4 => exact h.releaseAt.fenceAcqAt
  | case6 => exact h.fenceAcqAt

theorem endWaits {a} (h : s₀.Keeps s) : s₀.Keeps (s.endWaits a) := by
  refine h.foldl fun s p h => ?_
  split
  · exact h
  · split
    · exact h
    next ht => exact (h.endWait.of_eq ht).setGrpOf

theorem settleWaits (h : s₀.Keeps s) : s₀.Keeps s.settleWaits := h.foldl fun _ _ h => h.endWaits

theorem settleGrow (h : s₀.Keeps s) : s₀.Keeps s.settleGrow := h.foldl fun _ _ h => h.growCheck

theorem settleFaults (h : s₀.Keeps s) : s₀.Keeps s.settleFaults :=
  h.foldl fun _ _ h => h.foldl fun _ _ h => h.abortCopy

theorem settleYields {issued} (h : s₀.Keeps s) : s₀.Keeps (s.settleYields issued) :=
  h.foldl fun _ _ h => h.whenNot fun h => h.wakeGroup.ite h.setGrpOf

theorem settleEcc (h : s₀.Keeps s) : s₀.Keeps s.settleEcc :=
  h.upd.foldl fun _ _ h => h.when fun h => h.appendRing

theorem pay {op} (h : s₀.Keeps s) : s₀.Keeps (s.pay op) := by
  fun_cases State.pay s op with
  | case1 => exact h.freeSobj
  | case2 => exact h.lvAdd
  | case3 => exact h.lvSetCtr
  | case4 => exact h.lvSetFlag
  | case5 => exact h.lvErrUp
  | case6 => exact h.lvOpen
  | case7 => exact h.settleVer
  | case8 => exact h.retire
  | case9 => exact h.sendFrame
  | case10 => exact h.storeLog

theorem payOwed (h : s₀.Keeps s) : s₀.Keeps s.payOwed := by
  fun_cases State.payOwed s with
  | case1 => exact h
  | case2 => exact h.upd.foldl fun _ _ h => h.pay

theorem settleHomes (h : s₀.Keeps s) : s₀.Keeps s.settleHomes :=
  (h.payOwed.foldl fun _ _ h => h.whenNot fun h => h.serveTags).foldl fun _ _ h => h.serveSobj

theorem settle {issued} (h : s₀.Keeps s) : s₀.Keeps (s.settle issued) := by
  unfold State.settle
  extract_lets s₁ s₂ s₃
  have h₁ : s₀.Keeps s₁ := (h.whenNot fun h => h.breakFound).settleHomes
  have h₂ : s₀.Keeps s₂ := h₁.settleWaits.settleGrow.settleFaults.settleYields
  have h₃ : s₀.Keeps s₃ := h₂.settleEcc.tellHalt.settleSaves
  exact (h₃.foldl fun _ _ h => h.settleCkpt).settleTrust

theorem reage {before} (h : s₀.Keeps s) : s₀.Keeps (s.reage before) := h.upd

theorem passOver {t : State} {a} (h : s₀.Keeps t) : s₀.Keeps (t.passOver s a) := by
  fun_cases State.passOver t s a with
  | case1 => exact h.when fun h => h.setCore
  | case2 => exact (h.when fun h => h.setCore).setCore

end State.Keeps
end Sys2Proof.Machine
end

section
/-! Every step keeps the form of memory. -/
namespace Sys2Proof.Machine

/-! ## Every instruction -/

/-- Every instruction, and every row without a word, but a boot. -/
theorem State.Keeps.exec {s₀ s : State} {i : Instr} (h : s₀.Keeps s) (on : i ≠ .powerOn) (reset : i ≠ .packageReset) :
    s₀.Ends (exec i s) := by
  unfold Machine.exec
  cases i with
  | powerOn => exact absurd rfl on
  | packageReset => exact absurd rfl reset
  | modPrefix => exact h.execModPrefix
  | br => exact h.execBr
  | call => exact h.execCall
  | jr => exact h.execJr
  | jf => exact h.execJf
  | iadd | isub | imul => exact h.satBin
  | imulhs | imulhu | imin | imax | umin | umax | and | or | xor | andn | shl | shr | sar | bfe => exact h.intBin
  | imad | bfi | sel | pkp | pfadd => exact h.intInstr
  | iadd64 => exact h.execIadd64
  | ieq | ine | ilt | ile | ult | ule => exact h.intCmp
  | mov | not | clz | ctz | popc | brev | sext8 | sext16 | zext8 | zext16 => exact h.intUn
  | upkp => exact h.execUpkp
  | fadd | fsub | fmul | ffma => exact h.fpArith
  | fmin | fmax | ffrac | fround | fclass | cvtFromF32 | cvtToF32 => exact h.laneInstr
  | feq | fne | flt | fle | funo => exact h.fpCmp
  | frcp | frsq | fsqrt | fex2 | flg2 | fsin | fcos => exact h.fpFun
  | hadd2 | hmul2 | badd2 | bmul2 => exact h.packed
  | hfma2 => exact h.execHfma2
  | bfma2 => exact h.execBfma2
  | hdot2 | bdot2 => exact h.dot2
  | shfl | shfx => exact h.shuffle
  | ballot => exact h.execBallot
  | any | all | bcst | laneFirst => exact h.reduce
  | radd | rmin | rmax | rumin | rumax | rand | ror => exact h.foldLanes
  | rfadd => exact h.execRfadd
  | pffadd => exact h.execPffadd
  | movsRead => exact h.execMovsRead
  | movsWrite => exact h.execMovsWrite
  | ld | st => exact h.accessInstr
  | atomAdd | atomFadd | atomMin | atomMax | atomUmin | atomUmax | atomAnd | atomOr | atomXor | atomXchg | atomCas
    | atomFmin | atomFmax | atomHadd2 | atomBadd2 => exact h.atomic
  | ldtFf | ldtFe | ldtXx | sttEf | sttXf | sttXe => exact h.tagInstr
  | ldtile | sttile => exact h.tileInstr
  | prf _ _ _ _ inv => exact h.execPrf (inv := inv)
  | fenceAcq => exact h.execFenceAcq
  | fenceRel => exact h.execFenceRel
  | fenceAr => exact h.execFenceAr
  | sobjBind => exact h.execSobjBind
  | sobjUnbind => exact h.execSobjUnbind
  | sobjAcq => exact h.execSobjAcq
  | sobjRel => exact h.execSobjRel
  | sobjTryacq => exact h.execSobjTryacq
  | waitc => exact h.execWaitc
  | queueInit => exact h.execQueueInit
  | queueAllow => exact h.execQueueAllow
  | queuePush => exact h.execQueuePush
  | queuePop => exact h.execQueuePop
  | queueTrypush => exact h.execQueueTrypush
  | queueTrypop => exact h.execQueueTrypop
  | abarInit => exact h.execAbarInit
  | abarExpect => exact h.execAbarExpect
  | abarArrive => exact h.execAbarArrive
  | abarWait => exact h.execAbarWait
  | abarArrwait => exact h.execAbarArrwait
  | verPubv => exact h.execVerPubv
  | verQver => exact h.execVerQver
  | cpyLin | cpyBlk2 | cpyBlk3 | cpyGath | cpyScat | cpyFill | cpyExp6 | cpyPak6 | cpyRedAdd | cpyRedMin | cpyRedMax
    | cpyOpb => exact h.copyInstr
  | cfetch => exact h.execCfetch
  | collAred | collRed | collBcst | collAgth | collRsct | collSend | collRecv | collRset => exact h.collInstr
  | cntDecl => exact h.execCntDecl
  | cntTrig => exact h.execCntTrig
  | dspInit => exact h.execDspInit
  | dspNext => exact h.execDspNext
  | presentPost => exact h.execPresentPost
  | mres => exact h.execMres
  | mresRel => exact h.execMresRel
  | mwld => exact h.execMwld
  | mma => exact h.execMma
  | mloop => exact h.execMloop
  | mbat => exact h.execMbat
  | mdrn | mdrnAdd => exact h.drainInstr
  | mzero => exact h.execMzero
  | mxq => exact h.execMxq
  | hgCfg => exact h.execHgCfg
  | hgEnc => exact h.execHgEnc
  | hgGrad => exact h.execHgGrad
  | rayTrace | rayOccl => exact h.rayInstr
  | rayTri => exact h.execRayTri
  | rayBox => exact h.execRayBox
  | trInit | trDesc | trExp | trBack | trUndo | trReuse | trFree | trStat => exact h.treeInstr
  | taskSubmit => exact h.execTaskSubmit
  | taskDone => exact h.execTaskDone
  | taskDoneWait => exact h.execTaskDoneWait
  | lvlLaunch => exact h.execLvlLaunch
  | lvlCancel => exact h.execLvlCancel
  | lvlCtr => exact h.execLvlCtr
  | lvlOpen => exact h.execLvlOpen
  | lvlClose => exact h.execLvlClose
  | lvlBudget => exact h.execLvlBudget
  | schedSleep => exact h.execSchedSleep
  | xregAcq => exact h.execXregAcq
  | xregRel => exact h.execXregRel
  | sysTrap => exact h.execSysTrap
  | sysSvc => exact h.execSysSvc
  | sysBkpt => exact h.execSysBkpt
  | sysSegw => exact h.execSysSegw
  | sysCsrr => exact h.execSysCsrr
  | sysCsrw => exact h.execSysCsrw
  | sysCkpt => exact h.execSysCkpt
  | ptInv => exact h.execPtInv
  | ptMigb => exact h.execPtMigb
  | ptMigf => exact h.execPtMigf
  | ptMigd => exact h.execPtMigd
  | ptHotl => exact h.execPtHotl
  | nop => exact h.execNop
  | ret => exact h.execRet
  | exit => exact h.execExit
  | drain => exact h.execDrain
  | mtake => exact h.execMtake
  | mgive => exact h.execMgive
  | schedYield => exact h.execSchedYield
  | sysEret => exact h.execSysEret
  | sysHalt => exact h.execSysHalt
  | ptFence => exact h.execPtFence
  | ptApply => exact h.execPtApply
  | clauseFetch => exact h.execClauseFetch
  | backgroundForcedIssue => exact h.execBackgroundForcedIssue
  | pathDemote => exact h.execPathDemote
  | registerWriteComplete => exact h.execRegisterWriteComplete
  | memoryAccessPerform => exact h.execMemoryAccessPerform
  | writeVisibleAtDie => exact h.execWriteVisibleAtDie
  | hbmScrub => exact h.execHbmScrub
  | copyRun => exact h.execCopyRun
  | cpyctlResume => exact h.execCpyctlResume
  | cpyctlAbort => exact h.execCpyctlAbort
  | codeSegmentLoaded => exact h.execCodeSegmentLoaded
  | collectiveComplete => exact h.execCollectiveComplete
  | collRsetEffect => exact h.execCollRsetEffect
  | addOnStoreUpdate => exact h.execAddOnStoreUpdate
  | matrixCommandEffect => exact h.execMatrixCommandEffect
  | mmaKStep => exact h.execMmaKStep
  | matrixBatchComplete => exact h.execMatrixBatchComplete
  | hgEncComplete => exact h.execHgEncComplete
  | hgGradAdd => exact h.execHgGradAdd
  | rayComplete => exact h.execRayComplete
  | treeOperationComplete => exact h.execTreeOperationComplete
  | nodeTimerExpiry => exact h.execNodeTimerExpiry
  | budgetExpiry => exact h.execBudgetExpiry
  | levelEnd => exact h.execLevelEnd
  | unitPreload => exact h.execUnitPreload
  | unitStart => exact h.execUnitStart
  | yieldTimeout => exact h.execYieldTimeout
  | sleepEnd => exact h.execSleepEnd
  | xpoolTakeEffect => exact h.execXpoolTakeEffect
  | preemptRequest => exact h.execPreemptRequest
  | restoreRequest => exact h.execRestoreRequest
  | preempt => exact h.execPreempt
  | unitRestore => exact h.execUnitRestore
  | cancel => exact h.execCancel
  | pageWalk => exact h.execPageWalk
  | logApply => exact h.execLogApply
  | copierLineCopy => exact h.execCopierLineCopy
  | migrationRecordFree => exact h.execMigrationRecordFree
  | gustListPublish => exact h.execGustListPublish
  | contextSwitch => exact h.execContextSwitch
  | checkpointStart => exact h.execCheckpointStart
  | checkpointComplete => exact h.execCheckpointComplete
  | clockLower => exact h.execClockLower
  | clockRaise => exact h.execClockRaise
  | getVersion => exact h.execGetVersion
  | getCapabilities => exact h.execGetCapabilities
  | negotiateAlgorithms => exact h.execNegotiateAlgorithms
  | getDigests => exact h.execGetDigests
  | getCertificate => exact h.execGetCertificate
  | challenge => exact h.execChallenge
  | getMeasurements => exact h.execGetMeasurements
  | keyExchange => exact h.execKeyExchange
  | finish => exact h.execFinish
  | keyUpdate => exact h.execKeyUpdate
  | heartbeat => exact h.execHeartbeat
  | endSession => exact h.execEndSession
  | featureAccept => exact h.execFeatureAccept
  | ctxCreate => exact h.execCtxCreate
  | ctxDestroy => exact h.execCtxDestroy
  | launch => exact h.execLaunch
  | gobjCreate => exact h.execGobjCreate
  | gobjDestroy => exact h.execGobjDestroy
  | gobjRebind => exact h.execGobjRebind
  | keyInstall => exact h.execKeyInstall
  | keyErase => exact h.execKeyErase
  | mrReg => exact h.execMrReg
  | mrDereg => exact h.execMrDereg
  | exportSet => exact h.execExportSet
  | ckptTier => exact h.execCkptTier
  | restore => exact h.execRestore
  | ctxContinue => exact h.execCtxContinue
  | outputConfigure => exact h.execOutputConfigure
  | roceRequestPacket => exact h.execRoceRequestPacket
  | peerRequest => exact h.execPeerRequest
  | ptpMessage => exact h.execPtpMessage
  | flitIdle => exact h.execFlitIdle
  | flitData => exact h.execFlitData
  | flitAck => exact h.execFlitAck
  | flitSync => exact h.execFlitSync
  | flitMarker => exact h.execFlitMarker
  | linkDown => exact h.execLinkDown
  | linkReopen => exact h.execLinkReopen
  | syncFlitSend => exact h.execSyncFlitSend
  | lockLoss => exact h.execLockLoss
  | memberLost => exact h.execMemberLost
  | frameDeadline => exact h.execFrameDeadline
  | scrubbing => exact h.execScrubbing
  | flitOtherType => exact h.execFlitOtherType

/-! ## The form of memory at every step -/

theorem State.boot_wf (s : State) (images : List FwImage) : Memory.wf (s.boot images) = true :=
  wf_of_mem_eq rfl State.reset_wf

theorem next_of_event {s t : State} {f : Msg → Option State} (h : event s f = .next t) : f s.msg = some t := by
  unfold event at h
  split at h
  next hf => rw [hf, Host.Outcome.next.inj h]
  · cases h

/-- A boot is the step of POWER_ON. -/
theorem boot_of_powerOn {s t : State} (h : exec .powerOn s = .next t) : ∃ images, t = s.boot images := by
  change execPowerOn s = _ at h
  have hm := next_of_event h
  split at hm
  · exact ⟨_, (Option.some.inj hm).symm⟩
  · cases hm

/-- It is that of PACKAGE_RESET too. -/
theorem boot_of_packageReset {s t : State} (h : exec .packageReset s = .next t) : ∃ images, t = s.boot images := by
  change execPackageReset s = _ at h
  have hm := next_of_event h
  split at hm
  · exact ⟨_, (Option.some.inj hm).symm⟩
  · cases hm

theorem exec_wf {i : Instr} {s t : State} (hs : Memory.wf s = true) (h : exec i s = .next t) : Memory.wf t = true := by
  by_cases on : i = .powerOn
  · subst on
    obtain ⟨images, rfl⟩ := boot_of_powerOn h
    exact s.boot_wf images
  by_cases reset : i = .packageReset
  · subst reset
    obtain ⟨images, rfl⟩ := boot_of_packageReset h
    exact s.boot_wf images
  have ends := (State.Keeps.refl s).exec on reset
  rw [h] at ends
  exact State.Keeps.wf ends hs

theorem State.tick_wf {s : State} (h : Memory.wf s = true) : Memory.wf s.tick = true := wf_of_mem_eq rfl h

theorem State.idleStep_wf {s : State} (h : Memory.wf s = true) : Memory.wf s.idleStep = true := wf_of_mem_eq rfl h

theorem State.finishStep_wf {s t : State} {m : Msg} {fetch : Bool} (h : Memory.wf t = true) :
    Memory.wf (t.finishStep s m fetch) = true := by
  have ht : t.Keeps { t with waits := [] } := (State.Keeps.refl t).upd
  fun_cases State.finishStep t s m fetch with
  | case1 => exact tick_wf h
  | case2 | case5 => exact tick_wf (ht.settle.reage.wf h)
  | case3 => exact wf_of_mem_eq rfl h
  | case4 => exact tick_wf (ht.passOver.settle.reage.wf h)

theorem runJob_wf {s t : State} {x : Arrived} {rest : List Arrived} (hs : Memory.wf s = true)
    (h : runJob s x rest = .next t) : Memory.wf t = true := by
  have hb : Memory.wf (s.begin x rest) = true := (State.Keeps.refl s).begin.wf hs
  unfold runJob at h
  extract_lets b at h
  split at h
  · cases h; exact State.idleStep_wf hb
  · cases h
  · split at h
    next he => cases h; exact State.finishStep_wf (exec_wf hb he)
    · cases h
    · cases h

/-- Settles O59: memory changes by a byte set, by bytes removed and by a boot alone, each of which keeps the form; the lemmas of
the functions of a step carry this to the whole step. -/
theorem stepKeepsMemoryForm : Obligations.StepKeepsMemoryForm := by
  unfold Obligations.StepKeepsMemoryForm
  intro s t hs h
  unfold step at h
  split at h
  · cases h; exact State.idleStep_wf hs
  · exact runJob_wf hs h

end Sys2Proof.Machine
end

section
/-! Bytes written one after another: what is read back, and what a write owes where no migration record holds its place. -/
namespace Sys2Proof.Machine

/-! ## Numbers as bytes -/

theorem State.rdBytes_succ (s : State) (a n : Nat) : s.rdBytes a (n + 1) = s.rdByte a :: s.rdBytes (a + 1) n := by
  unfold State.rdBytes
  rw [List.range_succ_eq_map, List.map_cons, List.map_map]
  refine congrArg _ (List.map_congr_left fun i _ => ?_)
  simp only [Function.comp_apply, Nat.succ_eq_add_one]
  rw [Nat.add_right_comm]; rfl

theorem State.rdN_eq_ofBytes (s : State) (a n : Nat) : s.rdN a n = ofBytes (s.rdBytes a n) := by
  induction n generalizing a with
  | zero => rfl
  | succ n ih => rw [State.rdN, ih, State.rdBytes_succ, ofBytes]

@[simp] theorem State.length_rdBytes (s : State) (a n : Nat) : (s.rdBytes a n).length = n := by simp [State.rdBytes]

/-- Storing the number that bytes spell stores the bytes. -/
theorem State.rawN_ofBytes (s : State) (a : Nat) (bs : List Byte) : s.rawN a bs.length (ofBytes bs) = s.rawBytes a bs := by
  induction bs generalizing s a with
  | nil => rfl
  | cons b t ih =>
    have hb := b.isLt
    have low : (b.toNat + 256 * ofBytes t) % 256 = b.toNat := by omega
    have high : (b.toNat + 256 * ofBytes t) / 256 = ofBytes t := by omega
    rw [List.length_cons, State.rawN, ofBytes, low, high, BitVec.ofNat_toNat, BitVec.setWidth_eq, ih]
    rfl

theorem State.rdByte_rawBytes (s : State) (a : Nat) (bs : List Byte) (q : Nat) :
    (s.rawBytes a bs).rdByte q = if a ≤ q ∧ q < a + bs.length then bs.getD (q - a) 0 else s.rdByte q := by
  induction bs generalizing s a with
  | nil => rw [if_neg (by simp)]; rfl
  | cons b t ih =>
    rw [State.rawBytes, ih]
    by_cases hq : q = a
    · subst hq; simp
    · rw [State.rdByte_wrByte_other _ _ hq]
      by_cases hin : a + 1 ≤ q ∧ q < a + 1 + t.length
      · rw [if_pos hin, if_pos (by simp only [List.length_cons]; omega), show q - a = (q - (a + 1)) + 1 by omega,
          List.getD_cons_succ]
      · rw [if_neg hin, if_neg (by simp only [List.length_cons]; omega)]

/-- What the bytes of a range are, read as one list. -/
theorem State.rdBytes_eq {s : State} {a : Nat} {bs : List Byte} (h : ∀ i < bs.length, s.rdByte (a + i) = bs.getD i 0) :
    s.rdBytes a bs.length = bs := by
  refine List.ext_getElem (by simp) fun i hi hi' => ?_
  rw [← List.getD_eq_getElem bs 0 hi', ← h i hi']
  simp [State.rdBytes]

theorem State.rdBytes_part (s : State) (a : Nat) {o n m : Nat} (h : o + n ≤ m) :
    s.rdBytes (a + o) n = ((s.rdBytes a m).drop o).take n := by
  refine List.ext_getElem (by simp; omega) fun i hi hi' => ?_
  simp [State.rdBytes, Nat.add_assoc]

/-! ## Events -/

theorem event_eq {s t : State} {f : Msg → Option State} (h : f s.msg = some t) : event s f = .next t := by
  unfold event; rw [h]

/-! ## What an invariant of each step gives of all -/

theorem foldl_range_invariant {α : Type} (P : Nat → α → Prop) (f : α → Nat → α) {n : Nat} {x : α} (base : P 0 x)
    (step : ∀ k y, k < n → P k y → P (k + 1) (f y k)) : P n ((List.range n).foldl f x) := by
  induction n with
  | zero => exact base
  | succ n ih =>
    rw [List.range_succ, List.foldl_append]
    exact step n _ n.lt_succ_self (ih fun k y hk => step k y (by omega))

/-! ## A write where no record holds the place -/

theorem State.stored_of_clean {s : State} (h : s.clean) (a n : Nat) : s.stored a n = s := by
  obtain ⟨hp, hl, hc⟩ := h
  simp only [State.stored, State.cleanse, State.flitDone, hp, hl, hc]

theorem State.findErrors_of_clean {s : State} (h : s.clean) (a n : Nat) : s.findErrors a n = s := by
  simp only [State.findErrors, h.2.1]

theorem State.rawN_clean {s : State} {a n v : Nat} : (s.rawN a n v).clean ↔ s.clean := by rw [State.rawN_eq]; rfl

theorem State.markLines_of_free {s : State} {a n : Nat} (hn : 0 < n) (h : ∀ p, a ≤ p → p < a + n → s.migOf p = none) :
    s.markLines a n = s := by
  refine foldl_range_invariant (fun _ t => t = s) _ rfl fun i t hi ht => ?_
  rw [ht, State.markDirty, h _ (le_max_left _ _) (by omega)]

theorem State.overwrite_of_free {s : State} {a n : Nat} (hn : 0 < n) (h : ∀ p, a ≤ p → p < a + n → s.migOf p = none) :
    s.overwrite a n = { s with past := (s.overwrite a n).past } := by
  unfold State.overwrite
  rw [State.markLines_of_free hn h]
  split <;> rfl

theorem State.newWrite_of_free {s : State} {a n : Nat} (hn : 0 < n) (h : ∀ p, a ≤ p → p < a + n → s.migOf p = none)
    (agent core named : Nat) (va : Option (Nat × Nat)) :
    ∃ vis past, s.newWrite agent core a n named va = { s with vis := vis, past := past } := by
  unfold State.newWrite
  exact ⟨_, _, State.overwrite_of_free hn (by exact h)⟩

theorem kplace_keyed {a : Nat} (h : a < 2 ^ 48) (key : Nat) : kplace (keyed a key) = a := by
  simp only [kplace, keyed, pow2, Nat.one_shiftLeft, Nat.add_mul_mod_self_right]
  exact Nat.mod_eq_of_lt h

theorem State.route_of_free {s : State} {ka : Nat} (h : s.migOf (kplace ka) = none) : s.route ka = ka := by
  simp only [State.route, h]

theorem isHbm_of_low {a : Nat} (h : a < 2 ^ 40) : isHbm a = false :=
  Bool.eq_false_iff.2 fun hb => absurd (isHbm_iff.1 hb) (by omega)

theorem State.accessKey_of_low (s : State) {ka : Nat} (h : kplace ka < 2 ^ 40) : s.accessKey ka = some 0 := by
  simp [State.accessKey, isHbm_of_low h]

theorem State.rekey_of_low (s : State) {a : Nat} (h : a < 2 ^ 40) (key n : Nat) : s.rekey key a n = s := by
  rw [State.rekey_eq, isHbm_of_low h]; rfl

/-- Below HBM a write at a place of no record stores its bytes and leaves the devices alone. -/
theorem State.writeAt_of_free {s : State} (hclean : s.clean) {ka n : Nat} (hn : 0 < n) (hlow : kplace ka < 2 ^ 40)
    (h : ∀ p, kplace ka ≤ p → p < kplace ka + n → s.migOf p = none) (agent core v : Nat) (va : Option (Nat × Nat)) :
    ∃ t : State, s.writeAt agent core ka n v va = t.rawN (kplace ka) n v ∧ t.mem = s.mem ∧ t.devs = s.devs ∧ t.clean := by
  obtain ⟨vis, past, hw⟩ := State.newWrite_of_free hn h agent core (kplace ka) va
  have hcl : ({ s with vis := vis, past := past } : State).clean := hclean
  refine ⟨{ s with vis := vis, past := past }, ?_, rfl, rfl, hcl⟩
  unfold State.writeAt
  rw [State.route_of_free (h _ le_rfl (by omega))]
  dsimp only
  rw [s.accessKey_of_low hlow]
  dsimp only
  rw [s.rekey_of_low hlow, hw, State.stored_of_clean (State.rawN_clean.2 hcl)]

end Sys2Proof.Machine
end

section
/-! Walks of the page tables (R281, R282), and the translations that a core holds. -/
namespace Sys2Proof.Machine

/-! ## One level of a walk -/

/-- The place of the entry that a walk reads in the table at address a of level lv. -/
def State.entryPlace (s : State) (dev va lv a : Nat) : Nat := hloc s.mode dev (a + 8 * walkIdx va lv)

/-- The entry there as a die's walkers see it. -/
def State.entryIn (s : State) (die dev va lv a : Nat) : Nat := s.readAt noCore die (s.entryPlace dev va lv a) 8

/-- An entry points to a table at an address with an alignment (R281). -/
def pointsTo (e a align : Nat) : Prop :=
  pteV e = true ∧ e.testBit 48 = false ∧ pteLeaf e = false ∧ nbits e 61 49 = 0 ∧ pteAddr e = a ∧ a % align = 0

theorem State.walk_eq {s : State} {dev asid : Nat} (h : s.walkRoot dev asid + 4096 ≤ hbmSize s.mode) (die va : Nat) :
    s.walk die dev asid va = s.walkFrom die dev va 4 1 (s.walkRoot dev asid) := by
  simp only [State.walk, if_neg (Nat.not_lt.2 h)]

theorem State.walkFrom_invalid {s : State} {die dev va fuel lv a : Nat}
    (h : pteV (s.entryIn die dev va lv a) = false ∨ (s.entryIn die dev va lv a).testBit 48 = true) :
    s.walkFrom die dev va fuel lv a = none := by
  cases fuel with
  | zero => rfl
  | succ fuel => exact if_pos (by rcases h with h | h <;> simp_all [State.entryIn, State.entryPlace])

theorem State.walkFrom_noLeaf {s : State} {die dev va fuel a : Nat} (h : pteLeaf (s.entryIn die dev va 4 a) = false) :
    s.walkFrom die dev va fuel 4 a = none := by
  cases fuel with
  | zero => rfl
  | succ fuel =>
    unfold State.entryIn State.entryPlace at h
    simp [State.walkFrom, h]

/-- A walk goes on in the table that an entry points to. -/
theorem State.walkFrom_table {s : State} {die dev va fuel lv a b align : Nat} (hlv : lv < 4)
    (h : pointsTo (s.entryIn die dev va lv a) b align) (halign : lv < 3 → align = 4096)
    (hroom : b + (if lv < 3 then 4096 else 256) ≤ hbmSize s.mode) :
    s.walkFrom die dev va (fuel + 1) lv a = s.walkFrom die dev va fuel (lv + 1) b := by
  obtain ⟨hv, hbit, hleaf, hzero, hb, hal⟩ := h
  unfold State.entryIn State.entryPlace at *
  have hne : lv ≠ 4 := by omega
  have hok : ¬(lv < 3 ∧ b % 4096 ≠ 0) := by rintro ⟨h3, h⟩; exact h (halign h3 ▸ hal)
  simp only [State.walkFrom, hv, hbit, hleaf, hzero, hb, hne, Nat.not_lt.2 hroom]
  simp [hok]

/-- A walk ends at a leaf, which it returns if the leaf passes the checks of its level. -/
theorem State.walkFrom_leaf {s : State} {die dev va fuel lv a : Nat} (hv : pteV (s.entryIn die dev va lv a) = true)
    (hbit : (s.entryIn die dev va lv a).testBit 48 = false) (hleaf : pteLeaf (s.entryIn die dev va lv a) = true) :
    s.walkFrom die dev va (fuel + 1) lv a = if s.leafOk dev (s.entryIn die dev va lv a) lv then
      some ⟨s.entryPlace dev va lv a, s.entryIn die dev va lv a, lv⟩ else none := by
  unfold State.entryIn State.entryPlace at *
  simp [State.walkFrom, hv, hbit, hleaf]

/-- A walk returns a leaf of 64 KiB in HBM that is aligned and inside, and none that is not aligned. -/
theorem State.walkFrom_page {s : State} {die dev va fuel a e : Nat} (he : s.entryIn die dev va 4 a = e) (hv : pteV e = true)
    (hbit : e.testBit 48 = false) (hleaf : pteLeaf e = true) (hloc : pteLoc e = false) :
    (pteAddr e % 65536 = 0 → pteAddr e + 65536 ≤ hbmSize s.mode →
      s.walkFrom die dev va (fuel + 1) 4 a = some ⟨s.entryPlace dev va 4 a, e, 4⟩) ∧
    (pteAddr e % 65536 ≠ 0 → s.walkFrom die dev va (fuel + 1) 4 a = none) := by
  subst he
  have ok : s.leafOk dev (s.entryIn die dev va 4 a) 4 = decide (pteAddr (s.entryIn die dev va 4 a) % 65536 = 0 ∧
      pteAddr (s.entryIn die dev va 4 a) + 65536 ≤ hbmSize s.mode) := by simp [State.leafOk, hloc, pageSize, pow2]
  rw [State.walkFrom_leaf hv hbit hleaf, ok]
  exact ⟨fun hal hend => by simp [hal, hend], fun hal => by simp [hal]⟩

/-! ## Translations that a core holds -/

theorem State.hold_eq (s : State) {core : Nat} (h : core ≠ noCore) (asid : Nat) (p : Page) :
    s.hold core asid p =
      let t : TlbEnt := { asid := asid, va := p.va, size := p.size, leaf := BitVec.ofNat 64 p.e }
      { s.setCore core { s.coreAt core with tlb := holdIn t 96 (s.coreAt core).tlb } with
        tlb2 := s.tlb2.ins (clusterOfCore core) (holdIn t 2048 (s.tlb2Of core)) } :=
  if_neg h

theorem holdIn_length (t : TlbEnt) (n : Nat) (l : List TlbEnt) : (holdIn t n l).length ≤ n := by
  simp [holdIn]

theorem holdIn_head (t : TlbEnt) {n : Nat} (hn : 0 < n) (l : List TlbEnt) : (holdIn t n l).head? = some t := by
  obtain ⟨m, rfl⟩ := Nat.exists_eq_succ_of_ne_zero hn.ne'
  simp [holdIn]

theorem State.tlb_hold (s : State) {core : Nat} (h : core ≠ noCore) (asid : Nat) (p : Page) :
    ((s.hold core asid p).coreAt core).tlb =
      holdIn { asid := asid, va := p.va, size := p.size, leaf := BitVec.ofNat 64 p.e } 96 (s.coreAt core).tlb := by
  rw [s.hold_eq h]
  exact congrArg Core.tlb (State.coreAt_setCore_same s core _)

theorem State.tlb2Of_hold (s : State) {core : Nat} (h : core ≠ noCore) (asid : Nat) (p : Page) :
    (s.hold core asid p).tlb2Of core =
      holdIn { asid := asid, va := p.va, size := p.size, leaf := BitVec.ofNat 64 p.e } 2048 (s.tlb2Of core) := by
  rw [s.hold_eq h]
  exact FMap.get_ins_same _ _ _ _

theorem State.hold_mem (s : State) (core asid : Nat) (p : Page) : (s.hold core asid p).mem = s.mem := by
  unfold State.hold; split <;> rfl

theorem State.touchWalk_mem (s : State) (die dev asid va : Nat) : (s.touchWalk die dev asid va).mem = s.mem :=
  foldl_mem _ _ _ fun t _ => by rw [State.touch_mem, State.findErrors_mem]

/-- PAGE_WALK remembers no walk that finds nothing. -/
theorem exec_pageWalk_of_none {s : State} {core va : Nat} (h : s.msg = .pageWalk core va)
    (hw : 2 ^ 48 ≤ va ∨ s.walk (dieOfCore core) (s.devOfCore core) (s.coreAt core).asid va = none) :
    exec .pageWalk s = .next s := by
  show execPageWalk s = _
  refine event_eq ?_
  simp only [h, pow2, Nat.one_shiftLeft]
  rcases hw with hw | hw
  · rw [if_pos hw]
  · rw [hw, ite_self]

/-- A translation found is held at the core and its cluster, and the tiles count the requests of the walk. -/
theorem exec_pageWalk_of_some {s : State} {core va : Nat} {w : Walked} (h : s.msg = .pageWalk core va) (hva : va < 2 ^ 48)
    (hw : s.walk (dieOfCore core) (s.devOfCore core) (s.coreAt core).asid va = some w) :
    exec .pageWalk s = .next ((s.touchWalk (dieOfCore core) (s.devOfCore core) (s.coreAt core).asid va).hold core
      (s.coreAt core).asid { va := va / pageSize w.lv * pageSize w.lv, size := pageSize w.lv, e := w.e }) := by
  show execPageWalk s = _
  refine event_eq ?_
  simp only [h, pow2, Nat.one_shiftLeft]
  rw [if_neg (Nat.not_le.2 hva), hw]

end Sys2Proof.Machine
end

section
/-! The migration copier (R293 to R295): a line between two places of SRAM, and the record's state after it. -/
namespace Sys2Proof.Machine

/-! ## One line -/

/-- State t is s but for bytes written from place a on, which read as the list says; devices are as before, and no error has
come. -/
structure State.Filled (s t : State) (a : Nat) (bs : List Byte) : Prop where
  devs : t.devs = s.devs
  clean : t.clean
  byte : ∀ q, t.rdByte q = if a ≤ q ∧ q < a + bs.length then bs.getD (q - a) 0 else s.rdByte q

theorem State.Filled.nil {s : State} (h : s.clean) (a : Nat) : s.Filled s a [] := ⟨rfl, h, fun q => by simp⟩

theorem State.Filled.append {s t u : State} {a : Nat} {bs cs : List Byte} (h : s.Filled t a bs)
    (h' : t.Filled u (a + bs.length) cs) : s.Filled u a (bs ++ cs) where
  devs := h'.devs.trans h.devs
  clean := h'.clean
  byte q := by
    rw [h'.byte, h.byte, List.length_append]
    by_cases hq : a ≤ q ∧ q < a + bs.length
    · rw [if_neg (by omega), if_pos hq, if_pos (by omega), List.getD_append _ _ _ _ (by omega)]
    · by_cases hq' : a + bs.length ≤ q ∧ q < a + bs.length + cs.length
      · rw [if_pos hq', if_pos (by omega), List.getD_append_right _ _ _ _ (by omega),
          show q - (a + bs.length) = q - a - bs.length by omega]
      · rw [if_neg hq', if_neg hq, if_neg (by omega)]

theorem State.Filled.rdBytes_apart {s t : State} {a : Nat} {bs : List Byte} (h : s.Filled t a bs) {p n : Nat}
    (hp : p + n ≤ a ∨ a + bs.length ≤ p) : t.rdBytes p n = s.rdBytes p n :=
  List.map_congr_left fun i hi => by
    have := List.mem_range.1 hi
    rw [h.byte, if_neg (by omega)]

theorem State.Filled.rdBytes_same {s t : State} {a n : Nat} {bs : List Byte} (h : s.Filled t a bs) (hn : bs.length = n) :
    t.rdBytes a n = bs := by
  subst hn
  exact State.rdBytes_eq fun i hi => by rw [h.byte, if_pos (by omega), Nat.add_sub_cancel_left]

theorem State.Filled.onlyAt {s t : State} {a n : Nat} {bs : List Byte} (h : s.Filled t a bs) (hn : bs.length = n) :
    s.onlyAt t [(a, n)] := fun q hq => by
  have := hq (a, n) (List.mem_singleton.2 rfl)
  rw [h.byte, if_neg (by omega)]

theorem State.plainN_of_low {s : State} {a n : Nat} (h : a + n ≤ 2 ^ 40) : s.plainN s.rdN 0 a n = s.rdN a n :=
  State.plainN_of_writtenUnder (fun i hi => by rw [State.writtenUnder, isHbm_of_low (by omega)]; rfl) fun i _ => rfl

theorem State.Filled.settleAt {s t : State} {a : Nat} {bs : List Byte} (h : s.Filled t a bs) (b n : Nat) :
    s.Filled (t.settleAt b n) a bs := by
  fun_cases State.settleAt t b n with
  | case1 => exact h
  | case2 => exact ⟨h.devs, h.clean, h.byte⟩

/-- Bytes written below HBM at a place of no record. -/
theorem State.writeAt_filled {s : State} (hclean : s.clean) {ka : Nat} {bs : List Byte} (hbs : bs ≠ [])
    (hlow : kplace ka < 2 ^ 40) (h : ∀ p, kplace ka ≤ p → p < kplace ka + bs.length → s.migOf p = none) (agent core : Nat) :
    s.Filled (s.writeAt agent core ka bs.length (ofBytes bs)) (kplace ka) bs := by
  obtain ⟨t, hw, hmem, hdevs, hcl⟩ :=
    State.writeAt_of_free hclean (List.length_pos_iff.2 hbs) hlow h agent core (ofBytes bs) none
  rw [hw]
  refine ⟨?_, State.rawN_clean.2 hcl, fun q => ?_⟩
  · rw [State.rawN_eq]; exact hdevs
  · rw [State.rawN_ofBytes, State.rdByte_rawBytes, State.rdByte_of_mem hmem]

/-- The word that the copier moves at step k of a line. -/
theorem State.copyWord {s : State} (hclean : s.clean) {src ka : Nat} (hsrc : src + 8 ≤ 2 ^ 40) (hlow : kplace ka < 2 ^ 40)
    (h : ∀ p, kplace ka ≤ p → p < kplace ka + 8 → s.migOf p = none) :
    s.Filled ((s.writeAt 0 noCore ka 8 (s.plainN s.rdN 0 src 8)).settleAt (kplace ka) 8) (kplace ka) (s.rdBytes src 8) := by
  rw [State.plainN_of_low hsrc, State.rdN_eq_ofBytes]
  exact (State.writeAt_filled hclean (bs := s.rdBytes src 8) (List.cons_ne_nil _ _) hlow h 0 noCore).settleAt _ _

theorem State.poisoned_of_clean {s : State} (h : s.clean) (a n : Nat) : s.poisoned a n = false := by
  rw [State.poisoned, h.1]; rfl

theorem State.rdBytes_add (s : State) (a n m : Nat) : s.rdBytes a (n + m) = s.rdBytes a n ++ s.rdBytes (a + n) m := by
  simp only [State.rdBytes, List.range_add, List.map_append, List.map_map, Function.comp_def, Nat.add_assoc]

theorem State.served_of_low {s : State} (hclean : s.clean) {ka : Nat} (hlow : kplace ka < 2 ^ 40)
    (h : s.migOf (kplace ka) = none) (n : Nat) : s.served ka n = s := by
  unfold State.served
  rw [State.route_of_free h]
  dsimp only
  rw [State.findErrors_of_clean hclean, State.touch, isHbm_of_low hlow]
  simp only [Bool.false_eq_true, if_false, s.accessKey_of_low hlow]

theorem keyed_add (a b key : Nat) : keyed a key + b = keyed (a + b) key := by unfold keyed; omega

theorem State.devAt_of_devs {s t : State} (h : t.devs = s.devs) (dev : Nat) : t.devAt dev = s.devAt dev := by
  unfold State.devAt; rw [h]

theorem State.migOf_of_devs {s t : State} (h : t.devs = s.devs) (p : Nat) : t.migOf p = s.migOf p := by
  unfold State.migOf; rw [h]

/-- A line between two places of SRAM comes over whole. -/
theorem State.copyLine_filled {s : State} (hclean : s.clean) {m : Mig} {line : Nat} (hloc : m.srcLoc = true)
    (hsrc : m.src + 256 * line + 256 ≤ 2 ^ 33) (hdst : m.dst + 256 * line + 256 ≤ 2 ^ 33)
    (hapart : m.src + 256 * line + 256 ≤ m.dst + 256 * line ∨ m.dst + 256 * line + 256 ≤ m.src + 256 * line)
    (hfree : ∀ p, m.dst + 256 * line ≤ p → p < m.dst + 256 * line + 256 → s.migOf p = none) (dev : Nat) :
    s.Filled (s.copyLine dev m line) (m.dst + 256 * line) (s.rdBytes (m.src + 256 * line) 256) := by
  generalize hS : m.src + 256 * line = src at *
  generalize hD : m.dst + 256 * line = dst at *
  obtain ⟨hpoison, hlatent, hcrc⟩ := id hclean
  have hline : kplace (Machine.keyed dst m.dstKey) = dst := kplace_keyed (by omega) _
  have mono : ∀ {t : State}, s.Filled t dst (s.rdBytes src 256) →
      s.Filled { t with past := s.past } dst (s.rdBytes src 256) := fun h => ⟨h.devs, h.clean, h.byte⟩
  have lost (a n : Nat) : s.crcLost a n = false := by rw [State.crcLost, hcrc]; rfl
  simp only [State.copyLine, hS, hD, hloc, State.findErrors_of_clean hclean, State.crcDone, hcrc, lost, if_true,
    Option.isNone_some, Bool.false_eq_true, if_false, Bool.or_false]
  refine mono ?_
  refine foldl_range_invariant (fun k t => s.Filled t dst (s.rdBytes src (8 * k))) _ (State.Filled.nil hclean dst)
    fun k t hk ht => ?_
  have hka : kplace (Machine.keyed dst m.dstKey + 8 * k) = dst + 8 * k := by
    rw [keyed_add]; exact kplace_keyed (by omega) _
  have free (p : Nat) (hp : dst ≤ p) (hp' : p < dst + 256) : t.migOf p = none :=
    (State.migOf_of_devs ht.devs p).trans (hfree p hp hp')
  have noServe : (if k = 0 then t.served (Machine.keyed dst m.dstKey) 256 else t) = t := by
    by_cases h0 : k = 0
    · subst h0
      exact State.served_of_low ht.clean (by rw [hline]; omega) (by rw [hline]; exact free _ le_rfl (by omega)) 256
    · rw [if_neg h0]
  have word := State.copyWord ht.clean (src := src + 8 * k) (by omega) (by rw [hka]; omega)
    (fun p hp hp' => free p (by omega) (by omega))
  rw [hka, ht.rdBytes_apart (by rw [State.length_rdBytes]; omega)] at word
  rw [Nat.mul_succ, State.rdBytes_add]
  refine ht.append ?_
  rw [State.length_rdBytes]
  simpa only [State.poisoned_of_clean ht.clean, noServe, Bool.false_eq_true, if_false, hline, hka] using word

/-! ## The record -/

/-- The record whose index is k. -/
def Device.migIdx (d : Device) (k : Nat) : Option Mig := d.migs.find? fun m => decide (m.idx = k)

theorem Device.idx_of_migIdx {d : Device} {k : Nat} {m : Mig} (h : d.migIdx k = some m) : m.idx = k := by
  unfold Device.migIdx at h
  simpa using List.find?_some h

/-- The line that the copier takes next, if one is left, and the record with it taken. -/
def Mig.nextLine (m : Mig) : Option (Nat × Mig) :=
  if m.copied < m.size / 256 then some (m.copied, { m with copied := m.copied + 1 })
  else
    match m.dirty with
    | [] => none
    | l :: t => some (l, { m with dirty := t })

/-- A frozen record with nothing left to copy is ready (R295). -/
def Mig.readied (m : Mig) : Mig := if m.st = 1 ∧ m.size / 256 ≤ m.copied ∧ m.dirty = [] then { m with st := 2 } else m

theorem Mig.copierDue_eq_false {m : Mig} (h : 2 ≤ m.st ∨ (m.st = 0 ∧ m.size / 256 ≤ m.copied)) : m.copierDue = false := by
  simp only [Mig.copierDue, Bool.or_eq_false_iff, Bool.and_eq_false_iff, decide_eq_false_iff_not]
  omega

/-- The line that is next: one not yet copied, or, after the freeze, a dirty one. -/
def Mig.isNext (m : Mig) (line : Nat) : Prop :=
  (m.st ≤ 1 ∧ m.copied < m.size / 256 ∧ line = m.copied) ∨
    (m.st = 1 ∧ m.size / 256 ≤ m.copied ∧ m.dirty.head? = some line ∧ line < m.size / 256)

theorem Mig.copierDue_of_isNext {m : Mig} {line : Nat} (h : m.isNext line) : m.copierDue = true := by
  simp only [Mig.copierDue, Bool.or_eq_true, Bool.and_eq_true, decide_eq_true_eq]
  rcases h with ⟨hst, hlt, -⟩ | ⟨hst, -⟩ <;> omega

theorem Mig.lt_of_isNext {m : Mig} {line : Nat} (h : m.isNext line) : 256 * line + 256 ≤ m.size := by
  have : line < m.size / 256 := by rcases h with ⟨-, hlt, rfl⟩ | ⟨-, -, -, hlt⟩ <;> assumption
  omega

/-- The copier takes it, and of the record only what is left to copy changes. -/
theorem Mig.nextLine_of_isNext {m : Mig} {line : Nat} (h : m.isNext line) :
    ∃ m', m.nextLine = some (line, m') ∧ m'.idx = m.idx ∧ m'.st = m.st ∧ m'.size = m.size ∧
      m'.copied = (if m.copied < m.size / 256 then m.copied + 1 else m.copied) ∧
      m'.dirty = (if m.copied < m.size / 256 then m.dirty else m.dirty.tail) := by
  unfold Mig.nextLine
  rcases h with ⟨-, hlt, rfl⟩ | ⟨-, hall, hhead, -⟩
  · simp only [if_pos hlt]
    exact ⟨_, rfl, rfl, rfl, rfl, rfl, rfl⟩
  · simp only [if_neg (Nat.not_lt.2 hall)]
    obtain ⟨t, hd⟩ := List.head?_eq_some_iff.1 hhead
    rw [hd]
    exact ⟨_, rfl, rfl, rfl, rfl, rfl, rfl⟩

theorem Mig.readied_idx (m : Mig) : m.readied.idx = m.idx := by unfold Mig.readied; split <;> rfl
theorem Mig.readied_copied (m : Mig) : m.readied.copied = m.copied := by unfold Mig.readied; split <;> rfl
theorem Mig.readied_dirty (m : Mig) : m.readied.dirty = m.dirty := by unfold Mig.readied; split <;> rfl
theorem Mig.readied_st (m : Mig) :
    m.readied.st = if m.st = 1 ∧ m.size / 256 ≤ m.copied ∧ m.dirty = [] then 2 else m.st := by
  unfold Mig.readied; split <;> rfl

/-- A record takes the place of the one of its index. -/
theorem Device.migs_putMig (d : Device) {x : Mig} {k : Nat} (h : x.idx = k) :
    d.putMig x = { d with migs := d.migs.map fun n => if n.idx = k then x else n } := by
  subst h; rfl

theorem exec_copierLineCopy_of_none {s : State} {dev k : Nat} (h : s.msg = .copierLineCopy dev k)
    (hm : (s.devAt dev).migIdx k = none) : exec .copierLineCopy s = .next s := by
  show execCopierLineCopy s = _
  refine event_eq ?_
  simp only [h]
  rw [show (s.devAt dev).migs.find? _ = none from hm]

theorem exec_copierLineCopy_of_idle {s : State} {dev k : Nat} {m : Mig} (h : s.msg = .copierLineCopy dev k)
    (hm : (s.devAt dev).migIdx k = some m) (hdue : m.copierDue = false) : exec .copierLineCopy s = .next s := by
  show execCopierLineCopy s = _
  refine event_eq ?_
  simp only [h]
  rw [show (s.devAt dev).migs.find? _ = some m from hm]
  simp only [hdue, Bool.not_false, if_true]

/-- With no line left the record is ready. -/
theorem exec_copierLineCopy_of_ready {s : State} {dev k : Nat} {m : Mig} (h : s.msg = .copierLineCopy dev k)
    (hm : (s.devAt dev).migIdx k = some m) (hst : m.st = 1) (hall : m.size / 256 ≤ m.copied) (hdirty : m.dirty = []) :
    exec .copierLineCopy s = .next (s.setDev dev ((s.devAt dev).putMig { m with st := 2 })) := by
  show execCopierLineCopy s = _
  refine event_eq ?_
  simp only [h]
  rw [show (s.devAt dev).migs.find? _ = some m from hm]
  simp [Mig.copierDue, hst, hdirty, Nat.not_lt.2 hall, hall]

/-- Else the next line is copied. -/
theorem exec_copierLineCopy_of_line {s : State} {dev k line : Nat} {m m' : Mig} (h : s.msg = .copierLineCopy dev k)
    (hm : (s.devAt dev).migIdx k = some m) (hdue : m.copierDue = true) (hline : m.nextLine = some (line, m')) :
    exec .copierLineCopy s =
      .next ((s.copyLine dev m line).setDev dev (((s.copyLine dev m line).devAt dev).putMig m'.readied)) := by
  show execCopierLineCopy s = _
  refine event_eq ?_
  simp only [h]
  rw [show (s.devAt dev).migs.find? _ = some m from hm]
  simp only [hdue, Bool.not_true, Bool.false_eq_true, if_false]
  unfold Mig.nextLine at hline
  split at hline
  next hlt =>
    obtain ⟨rfl, rfl⟩ := Option.some.inj hline
    rw [if_pos hlt]; rfl
  next hlt =>
    rw [if_neg hlt]
    cases hd : m.dirty with
    | nil =>
      rw [hd] at hline
      cases hline
    | cons l t =>
      rw [hd] at hline
      obtain ⟨rfl, rfl⟩ := Option.some.inj hline
      rfl

/-- MIGRATION_RECORD_FREE, for a record that it finds or not. -/
theorem exec_migrationRecordFree {s : State} {dev k : Nat} (h : s.msg = .migrationRecordFree dev k) :
    exec .migrationRecordFree s = .next (match (s.devAt dev).migIdx k with
      | none => s
      | some m => if s.migFree dev m then s.setDev dev ((s.devAt dev).dropMig k) else s) := by
  show execMigrationRecordFree s = _
  exact event_eq (by simp only [h]; rfl)

theorem State.migFree_iff (s : State) (dev : Nat) (m : Mig) : s.migFree dev m = true ↔
    m.st = 3 ∧ (∀ j ∈ diesOfDev s.mode dev, seqBelow (s.dieAt j).gen m.seq = false) ∧ s.olderAccesses dev m.seq 4096 = [] := by
  simp [State.migFree, and_assoc]

end Sys2Proof.Machine
end

section
/-! Gust lists (R298, R299): the four steps of a publication, and the sketch of a memory tile. -/
namespace Sys2Proof.Machine

/-- Which bytes a write stores rests on memory alone. -/
theorem State.rawN_mem_congr {s t : State} (h : t.mem = s.mem) (a n v : Nat) : (t.rawN a n v).mem = (s.rawN a n v).mem := by
  induction n generalizing s t a v with
  | zero => exact h
  | succ n ih => exact ih (congrArg (FMap.put 0 · a _) h) _ _

theorem State.devAt_setDev (s : State) (d e : Nat) (x : Device) :
    (s.setDev d x).devAt e = if e = d then x else s.devAt e :=
  FMap.get_ins _ _ _ _ _

/-! ## A write that becomes visible later -/

theorem State.wrLate_mem (s : State) (a n v : Nat) : (s.wrLate a n v).mem = (s.rawN a n v).mem := by
  rw [State.wrLate, State.stored_mem]
  exact State.rawN_mem_congr (State.newWrite_mem _ _ _ _ _ _ _) a n v

theorem State.rdByte_wrLate (s : State) (a : Nat) (bs : List Byte) (q : Nat) :
    (s.wrLate a bs.length (ofBytes bs)).rdByte q =
      if a ≤ q ∧ q < a + bs.length then bs.getD (q - a) 0 else s.rdByte q := by
  rw [State.rdByte_of_mem (State.wrLate_mem _ _ _ _), State.rawN_ofBytes, State.rdByte_rawBytes]

theorem State.rdN_wrLate (s : State) (a n v : Nat) : (s.wrLate a n v).rdN a n = v % 256 ^ n := by
  rw [State.rdN_of_mem (State.wrLate_mem _ _ _ _), State.rdN_rawN]

theorem State.wrLate_onlyAt (s : State) (a n v : Nat) : s.onlyAt (s.wrLate a n v) [(a, n)] := fun q hq => by
  rw [State.rdByte_of_mem (State.wrLate_mem _ _ _ _)]
  exact State.rdByte_rawN_outside _ _ _ _ (hq (a, n) (List.mem_singleton.2 rfl))

/-- Only the records of migrations change with it, where a copier has passed. -/
theorem State.markDirty_gusts (s : State) (a dev : Nat) : ((s.markDirty a).devAt dev).gusts = (s.devAt dev).gusts := by
  fun_cases State.markDirty s a with
  | case1 =>
    rw [State.devAt_setDev]
    split
    next h => rw [h]
    next => rfl
  | case2 | case3 => rfl

theorem State.markLines_gusts (s : State) (a n dev : Nat) :
    ((s.markLines a n).devAt dev).gusts = (s.devAt dev).gusts :=
  foldl_range_invariant (fun _ (t : State) => (t.devAt dev).gusts = (s.devAt dev).gusts) _ rfl fun _ t _ ht =>
    (t.markDirty_gusts _ dev).trans ht

theorem State.wrLate_gusts (s : State) (a n v dev : Nat) : ((s.wrLate a n v).devAt dev).gusts = (s.devAt dev).gusts := by
  have keeps (t : State) : ((t.overwrite a n).devAt dev).gusts = (t.devAt dev).gusts := by
    fun_cases State.overwrite t a n with
    | case1 | case2 => exact t.markLines_gusts a n dev
  rw [State.wrLate, State.stored_eq, State.rawN_eq]
  exact keeps _

end Sys2Proof.Machine
end

section
/-! Lists that the model sorts, and lists of chunks of one length. -/
namespace Sys2Proof.Machine

theorem insertBy_eq_orderedInsert {α : Type} (le : α → α → Bool) (x : α) (l : List α) :
    insertBy le x l = l.orderedInsert (fun a b => le a b = true) x := by
  induction l with
  | nil => rfl
  | cons y t ih => rw [insertBy, List.orderedInsert_cons, ih]

theorem sortBy_eq_insertionSort {α : Type} (le : α → α → Bool) (l : List α) :
    sortBy le l = l.insertionSort fun a b => le a b = true := by
  induction l with
  | nil => rfl
  | cons x t ih => rw [sortBy, ih, insertBy_eq_orderedInsert, List.insertionSort_cons]

theorem sortBy_perm {α : Type} (le : α → α → Bool) (l : List α) : List.Perm (sortBy le l) l := by
  rw [sortBy_eq_insertionSort]; exact List.perm_insertionSort _ l

theorem sortBy_pairwise {α : Type} {le : α → α → Bool} (total : ∀ a b, le a b = true ∨ le b a = true)
    (trans : ∀ a b c, le a b = true → le b c = true → le a c = true) (l : List α) :
    (sortBy le l).Pairwise fun a b => le a b = true := by
  have : Std.Total fun a b => le a b = true := ⟨total⟩
  have : IsTrans α fun a b => le a b = true := ⟨trans⟩
  rw [sortBy_eq_insertionSort]
  exact List.pairwise_insertionSort _ l

theorem eraseDups_nodup (l : List Nat) : l.eraseDups.Nodup := by
  induction h : l.length using Nat.strong_induction_on generalizing l with
  | _ n ih =>
    cases l with
    | nil => exact List.nodup_nil
    | cons a t =>
      rw [List.eraseDups_cons, List.nodup_cons, List.mem_eraseDups]
      subst h
      refine ⟨by simp, ih _ ?_ _ rfl⟩
      exact Nat.lt_succ_of_le (List.length_filter_le _ _)

/-- The i-th of chunks that have one length. -/
theorem flatMap_chunk {α : Type} {f : Nat → List α} {n : Nat} (hf : ∀ i, (f i).length = n) {m i : Nat} (hi : i < m) :
    (((List.range m).flatMap f).drop (n * i)).take n = f i := by
  have len (m : Nat) : ((List.range m).flatMap f).length = n * m := by
    simp [List.length_flatMap, hf, Nat.mul_comm]
  induction m with
  | zero => omega
  | succ m ih =>
    rw [List.range_succ, List.flatMap_append, List.flatMap_singleton]
    rcases Nat.lt_succ_iff_lt_or_eq.1 hi with hlt | rfl
    · have : n * i + n ≤ n * m := by rw [← Nat.mul_succ]; exact Nat.mul_le_mul_left n hlt
      rw [List.drop_append_of_le_length (by rw [len]; omega),
        List.take_append_of_le_length (by rw [List.length_drop, len]; omega), ih hlt]
    · rw [← len i, List.drop_left, List.take_of_length_le (hf i).le]

end Sys2Proof.Machine
end

section
/-! The publication of a gust list (R299). -/
namespace Sys2Proof.Machine

/-! ## The bytes of a list -/

/-- The candidates as a list has them: by falling estimate, then rising frame number. -/
def Gust.listed (g : Gust) : List (Nat × Nat) :=
  sortBy (fun a b => decide (b.2 < a.2 ∨ (a.2 = b.2 ∧ a.1 ≤ b.1))) g.cand

/-- The word of entry i of a list. -/
def gustWord (es : List (Nat × Nat)) (i : Nat) : Nat :=
  match es[i]? with
  | some p => p.1 % 2 ^ 32 + p.2 * 2 ^ 32
  | none => 0xFFFFFFFF

/-- What stands behind the sequence number of a list. -/
def Gust.body (g : Gust) : List Byte :=
  bytesOf 4 g.n ++ (List.replicate 56 0 ++ (List.range 64).flatMap fun i => bytesOf 8 (gustWord g.listed i))

theorem Gust.bytes_eq (g : Gust) (seq : Nat) : g.bytes seq = bytesOf 4 seq ++ g.body := by
  have word (i : Nat) : bytesOf 8 (gustWord g.listed i) = (match g.listed[i]? with
      | some e => bytesOf 8 (e.1 % pow2 32 + e.2 * pow2 32)
      | none => bytesOf 8 0xFFFFFFFF) := by
    unfold gustWord
    cases g.listed[i]? <;> rfl
  rw [Gust.body, List.flatMap_congr fun i _ => word i, ← List.append_assoc, ← List.append_assoc]
  rfl

theorem Gust.length_body (g : Gust) : g.body.length = 572 := by
  simp [Gust.body, length_bytesOf, List.length_flatMap]

theorem Gust.listed_perm (g : Gust) : List.Perm g.listed g.cand := sortBy_perm _ _

theorem Gust.listed_pairwise (g : Gust) : g.listed.Pairwise fun p q => q.2 < p.2 ∨ (p.2 = q.2 ∧ p.1 ≤ q.1) := by
  refine (sortBy_pairwise (fun a b => ?_) (fun a b c => ?_) g.cand).imp of_decide_eq_true
  · simp only [decide_eq_true_eq]; omega
  · simp only [decide_eq_true_eq]; omega

theorem Gust.body_n (g : Gust) : (g.body.drop 0).take 4 = bytesOf 4 g.n := by
  rw [List.drop_zero, Gust.body, List.take_left' (length_bytesOf 4 _)]

theorem Gust.body_zero (g : Gust) {i : Nat} (hi : i < 56) : g.body.getD (4 + i) 0 = 0 := by
  rw [Gust.body, List.getD_append_right _ _ _ _ (by rw [length_bytesOf]; omega), length_bytesOf, Nat.add_sub_cancel_left,
    List.getD_append _ _ _ _ (by rw [List.length_replicate]; exact hi)]
  exact List.getD_replicate _ hi

theorem Gust.body_word (g : Gust) {i : Nat} (hi : i < 64) :
    (g.body.drop (60 + 8 * i)).take 8 = bytesOf 8 (gustWord g.listed i) := by
  rw [Gust.body, ← List.append_assoc, ← List.drop_drop, List.drop_left' (by simp [length_bytesOf])]
  exact flatMap_chunk (fun _ => length_bytesOf 8 _) hi

/-! ## A list written word by word -/

theorem State.wrLate_chunks (s : State) (a n m : Nat) {bs : List Byte} (h : bs.length = n * m) :
    let t := (List.range m).foldl (fun (s : State) k => s.wrLate (a + n * k) n (ofBytes ((bs.drop (n * k)).take n))) s
    (∀ q, t.rdByte q = if a ≤ q ∧ q < a + bs.length then bs.getD (q - a) 0 else s.rdByte q) ∧
      ∀ dev, (t.devAt dev).gusts = (s.devAt dev).gusts := by
  rw [h]
  refine foldl_range_invariant (fun k (t : State) =>
    (∀ q, t.rdByte q = if a ≤ q ∧ q < a + n * k then bs.getD (q - a) 0 else s.rdByte q) ∧
      ∀ dev, (t.devAt dev).gusts = (s.devAt dev).gusts) _ ⟨fun q => by rw [if_neg (by omega)], fun _ => rfl⟩
    fun k t hk ht => ⟨fun q => ?_, fun dev => (t.wrLate_gusts _ _ _ dev).trans (ht.2 dev)⟩
  have room : n * k + n ≤ bs.length := by rw [h, ← Nat.mul_succ]; exact Nat.mul_le_mul_left n hk
  have len : ((bs.drop (n * k)).take n).length = n := by rw [List.length_take, List.length_drop]; omega
  have wrote := t.rdByte_wrLate (a + n * k) ((bs.drop (n * k)).take n) q
  rw [len] at wrote
  rw [wrote, ht.1 q, Nat.mul_succ]
  by_cases hq : a + n * k ≤ q ∧ q < a + n * k + n
  · rw [if_pos hq, if_pos (by omega)]
    simp only [List.getD_eq_getElem?_getD, List.getElem?_take, List.getElem?_drop]
    rw [if_pos (by omega), show n * k + (q - (a + n * k)) = q - a by omega]
  · rw [if_neg hq]
    by_cases hq' : a ≤ q ∧ q < a + n * k
    · rw [if_pos hq', if_pos (by omega)]
    · rw [if_neg hq', if_neg (by omega)]

/-! ## The four steps -/

/-- The tile's state. -/
def State.gustAt (s : State) (dev tile : Nat) : Gust := FMap.get {} (s.devAt dev).gusts tile

def State.putGust (s : State) (dev tile : Nat) (g : Gust) : State :=
  s.setDev dev { s.devAt dev with gusts := (s.devAt dev).gusts.ins tile g }

theorem State.gustAt_putGust (s : State) (dev tile : Nat) (g : Gust) : (s.putGust dev tile g).gustAt dev tile = g := by
  rw [State.gustAt, State.putGust, State.devAt_setDev_same, FMap.get_ins_same]

theorem State.putGust_mem (s : State) (dev tile : Nat) (g : Gust) : (s.putGust dev tile g).mem = s.mem := rfl

theorem State.gustAt_of_gusts {s t : State} {dev : Nat} (h : (t.devAt dev).gusts = (s.devAt dev).gusts) (tile : Nat) :
    t.gustAt dev tile = s.gustAt dev tile := by
  unfold State.gustAt; rw [h]

section
variable (s : State) (dev tile : Nat) (g : Gust)

theorem State.gustStep_first (h : g.stage = 0) : s.gustStep dev tile g =
    ((s.settleAt (s.lvAt dev g.area) 1024).putGust dev tile { g with stage := 1 }).wrLate
      (s.lvAt dev g.area) 4 0xFFFFFFFF := by
  simp only [State.gustStep, h]; rfl

theorem State.gustStep_body (h : g.stage = 1) : s.gustStep dev tile g =
    (List.range 143).foldl (fun (t : State) k =>
        t.wrLate (s.lvAt dev g.area + 4 + 4 * k) 4 (ofBytes ((g.body.drop (4 * k)).take 4)))
      ((s.settleAt (s.lvAt dev g.area) 1024).putGust dev tile { g with stage := 2 }) := by
  have body : (g.bytes 0).drop 4 = g.body := by rw [Gust.bytes_eq, List.drop_left' (length_bytesOf 4 0)]
  simp only [State.gustStep, h, body]; rfl

theorem State.gustStep_number (h : g.stage = 2) : s.gustStep dev tile g =
    ((s.settleAt (s.lvAt dev g.area) 1024).putGust dev tile { g with stage := 3, interval := (g.interval + 1) % 2 ^ 32 }).wrLate
      (s.lvAt dev g.area) 4 ((g.interval + 1) % 2 ^ 32) := by
  simp only [State.gustStep, h]; rfl

theorem State.gustStep_clear (h : 3 ≤ g.stage) : s.gustStep dev tile g =
    (s.settleAt (s.lvAt dev g.area) 1024).putGust dev tile { g with stage := 0, counters := [], cand := [] } := by
  obtain ⟨n, hn⟩ := Nat.exists_eq_add_of_le' h
  simp only [State.gustStep, hn]; rfl

end

/-- A step that writes a number to the head of the area. -/
theorem State.wrote_number (s : State) (dev tile : Nat) (g : Gust) (a : Nat) {v : Nat} (hv : v < 2 ^ 32) :
    let t := ((s.settleAt a 1024).putGust dev tile g).wrLate a 4 v
    t.gustAt dev tile = g ∧ t.rdN a 4 = v ∧ s.onlyAt t [(a, 4)] := by
  refine ⟨(State.gustAt_of_gusts (State.wrLate_gusts _ _ _ _ dev) tile).trans (State.gustAt_putGust _ _ _ _),
    (State.rdN_wrLate _ _ _ _).trans (Nat.mod_eq_of_lt hv), fun q hq => ?_⟩
  rw [State.wrLate_onlyAt _ _ _ _ q hq]
  exact State.rdByte_of_mem ((State.putGust_mem _ _ _ _).trans (State.settleAt_mem s _ _)) q

theorem State.gustStep_first_spec {s : State} {dev tile : Nat} {g : Gust} (h : g.stage = 0) :
    (s.gustStep dev tile g).gustAt dev tile = { g with stage := 1 } ∧
      (s.gustStep dev tile g).rdN (s.lvAt dev g.area) 4 = 0xFFFFFFFF ∧
      s.onlyAt (s.gustStep dev tile g) [(s.lvAt dev g.area, 4)] := by
  rw [s.gustStep_first dev tile g h]
  exact State.wrote_number _ _ _ _ _ (by decide)

theorem State.gustStep_number_spec {s : State} {dev tile : Nat} {g : Gust} (h : g.stage = 2) :
    (s.gustStep dev tile g).gustAt dev tile = { g with stage := 3, interval := (g.interval + 1) % 2 ^ 32 } ∧
      (s.gustStep dev tile g).rdN (s.lvAt dev g.area) 4 = (g.interval + 1) % 2 ^ 32 ∧
      s.onlyAt (s.gustStep dev tile g) [(s.lvAt dev g.area, 4)] := by
  rw [s.gustStep_number dev tile g h]
  exact State.wrote_number _ _ _ _ _ (Nat.mod_lt _ (by decide))

/-- The second step writes everything behind the number. -/
theorem State.gustStep_body_spec {s : State} {dev tile : Nat} {g : Gust} (h : g.stage = 1) :
    (s.gustStep dev tile g).gustAt dev tile = { g with stage := 2 } ∧
      ∀ q, (s.gustStep dev tile g).rdByte q =
        if s.lvAt dev g.area + 4 ≤ q ∧ q < s.lvAt dev g.area + 4 + g.body.length then
          g.body.getD (q - (s.lvAt dev g.area + 4)) 0
        else s.rdByte q := by
  rw [s.gustStep_body dev tile g h]
  obtain ⟨bytes, gusts⟩ := ((s.settleAt (s.lvAt dev g.area) 1024).putGust dev tile { g with stage := 2 }).wrLate_chunks
    (s.lvAt dev g.area + 4) 4 143 g.length_body
  refine ⟨(State.gustAt_of_gusts (gusts dev) tile).trans (State.gustAt_putGust _ _ _ _), fun q => (bytes q).trans ?_⟩
  rw [State.rdByte_of_mem ((State.putGust_mem _ _ _ _).trans (State.settleAt_mem s _ _))]

/-- So a reader finds there the parameter, 56 zero bytes, and the words of the entries. -/
theorem State.gustStep_body_read {s : State} {dev tile : Nat} {g : Gust} (h : g.stage = 1) :
    let t := s.gustStep dev tile g
    let a := s.lvAt dev g.area
    s.onlyAt t [(a + 4, 572)] ∧ t.rdN (a + 4) 4 = g.n % 2 ^ 32 ∧ (∀ i < 56, t.rdByte (a + 8 + i) = 0) ∧
      ∀ i < 64, t.rdN (a + 64 + 8 * i) 8 = gustWord g.listed i % 2 ^ 64 := by
  intro t a
  have byte := (s.gustStep_body_spec (dev := dev) (tile := tile) h).2
  have read : t.rdBytes (a + 4) 572 = g.body := by
    rw [← g.length_body]
    exact State.rdBytes_eq fun i hi => by rw [byte, if_pos (by omega), Nat.add_sub_cancel_left]
  rw [g.length_body] at byte
  have number {o n v : Nat} (ho : o + n ≤ 572) (hv : (g.body.drop o).take n = bytesOf n v) :
      t.rdN (a + 4 + o) n = v % 256 ^ n := by
    rw [State.rdN_eq_ofBytes, t.rdBytes_part (a + 4) ho, read, hv, ofBytes_bytesOf]
  refine ⟨fun q hq => ?_, ?_, fun i hi => ?_, fun i hi => ?_⟩
  · have := hq (a + 4, 572) (List.mem_singleton.2 rfl)
    rw [byte, if_neg (by omega)]
  · exact number (o := 0) (by omega) g.body_n
  · rw [byte, if_pos (by omega), show a + 8 + i - (a + 4) = 4 + i by omega, g.body_zero hi]
  · rw [show a + 64 + 8 * i = a + 4 + (60 + 8 * i) by omega]
    exact number (by omega) (g.body_word hi)

theorem State.gustStep_clear_spec {s : State} {dev tile : Nat} {g : Gust} (h : 3 ≤ g.stage) :
    (s.gustStep dev tile g).gustAt dev tile = { g with stage := 0, counters := [], cand := [] } ∧
      (s.gustStep dev tile g).mem = s.mem := by
  rw [s.gustStep_clear dev tile g h]
  exact ⟨State.gustAt_putGust _ _ _ _, (State.putGust_mem _ _ _ _).trans (State.settleAt_mem s _ _)⟩

/-- GUST_LIST_PUBLISH: an enabled tile whose area is not frozen goes one step on. -/
theorem exec_gustListPublish {s : State} {stack dev tile : Nat} {g : Gust} (h : s.msg = .gustListPublish stack)
    (hdev : stack / (2 * diesPer s.mode) = dev) (htile : stack % (2 * diesPer s.mode) = tile)
    (hg : s.gustAt dev tile = g) :
    (g.enabled = false ∨ s.lvFrozen dev g.area = true → exec .gustListPublish s = .next s) ∧
    (g.enabled = true → s.lvFrozen dev g.area = false → exec .gustListPublish s = .next (s.gustStep dev tile g)) := by
  have step : exec .gustListPublish s =
      .next (if g.enabled && !s.lvFrozen dev g.area then s.gustStep dev tile g else s) := by
    subst hdev htile hg
    show execGustListPublish s = _
    exact event_eq (by rw [h]; rfl)
  rw [step]
  refine ⟨fun h => congrArg _ (if_neg ?_), fun hen hfr => congrArg _ (if_pos (by rw [hen, hfr]; rfl))⟩
  rcases h with h | h
  · rw [h]; exact Bool.false_ne_true
  · rw [h, Bool.not_true, Bool.and_false]; exact Bool.false_ne_true

end Sys2Proof.Machine
end

section
/-! The sketch of a memory tile (R298). -/
namespace Sys2Proof.Machine

/-! ## The counters -/

/-- The counter of row r that a frame counts in. -/
def sketchKey (f r : Nat) : Nat := 4096 * r + sketchIdx r f

theorem sketchIdx_lt (r f : Nat) : sketchIdx r f < 4096 := by
  unfold sketchIdx
  rw [nbits_eq]
  exact Nat.mod_lt _ (by decide)

/-- Counters of different rows differ. -/
theorem sketchKey_inj {f r r' : Nat} (h : sketchKey f r = sketchKey f r') : r = r' := by
  have := sketchIdx_lt r f
  have := sketchIdx_lt r' f
  unfold sketchKey at h
  omega

theorem sketchIdx_eq {f : Nat} (hf : f < 2 ^ 32) (r : Nat) :
    sketchIdx r f = f * sketchMul.getD r 0 % 2 ^ 32 / 2 ^ 20 := by
  unfold sketchIdx
  rw [nbits_eq, pow2, Nat.one_shiftLeft, Nat.mod_eq_of_lt hf]
  omega

/-- A counter raised by 1, up to its greatest value. -/
def bump (m : FMap Nat) (k : Nat) : FMap Nat := FMap.put 0 m k (min (FMap.get 0 m k + 1) 0xFFFF)

theorem get_bump (m : FMap Nat) (k j : Nat) :
    FMap.get 0 (bump m k) j = if j = k then min (FMap.get 0 m k + 1) 0xFFFF else FMap.get 0 m j := by
  split
  next h => rw [h, bump, FMap.get_put_same]
  next h => rw [bump, FMap.get_put_other _ _ _ _ h]

/-- Counters raised one after another, each once. -/
theorem get_bumps {key : Nat → Nat} (inj : ∀ r r', key r = key r' → r = r') (m : FMap Nat) (n j : Nat) :
    FMap.get 0 ((List.range n).foldl (fun m r => bump m (key r)) m) j =
      if ∃ r < n, j = key r then min (FMap.get 0 m j + 1) 0xFFFF else FMap.get 0 m j := by
  induction n with
  | zero => rw [if_neg (by simp)]; rfl
  | succ n ih =>
    rw [List.range_succ, List.foldl_append, List.foldl_cons, List.foldl_nil, get_bump]
    by_cases hj : j = key n
    · have hn : ¬∃ r < n, key n = key r := by rintro ⟨r, hr, h⟩; have := inj _ _ h; omega
      rw [if_pos hj, ← hj, ih, if_neg (hj ▸ hn), if_pos ⟨n, n.lt_succ_self, hj⟩]
    · rw [if_neg hj, ih]
      refine if_congr ?_ rfl rfl
      constructor
      · rintro ⟨r, hr, h⟩; exact ⟨r, by omega, h⟩
      · rintro ⟨r, hr, h⟩
        rcases Nat.lt_succ_iff_lt_or_eq.1 hr with hr | rfl
        · exact ⟨r, hr, h⟩
        · exact absurd h hj

/-- The least of some numbers, none above a bound. -/
theorem foldl_min_spec (g : Nat → Nat) {n b : Nat} (hb : ∀ r < n, g r ≤ b) (hn : 0 < n) :
    (∃ r < n, (List.range n).foldl (fun m r => min m (g r)) b = g r) ∧
      ∀ r < n, (List.range n).foldl (fun m r => min m (g r)) b ≤ g r := by
  have all : (∀ r < n, (List.range n).foldl (fun m r => min m (g r)) b ≤ g r) ∧
      ((List.range n).foldl (fun m r => min m (g r)) b = b ∨
        ∃ r < n, (List.range n).foldl (fun m r => min m (g r)) b = g r) := by
    refine foldl_range_invariant (fun k x => (∀ r < k, x ≤ g r) ∧ (x = b ∨ ∃ r < k, x = g r)) _ ⟨by simp, .inl rfl⟩
      fun k x hk hx => ⟨fun r hr => ?_, ?_⟩
    · rcases Nat.lt_succ_iff_lt_or_eq.1 hr with hr | rfl
      · exact (min_le_left _ _).trans (hx.1 r hr)
      · exact min_le_right _ _
    · rcases min_choice x (g k) with h | h
      · rw [h]; exact hx.2.imp id fun ⟨r, hr, e⟩ => ⟨r, by omega, e⟩
      · exact .inr ⟨k, k.lt_succ_self, h⟩
  refine ⟨all.2.elim (fun h => ⟨0, hn, le_antisymm (all.1 0 hn) ?_⟩) id, all.1⟩
  rw [h]; exact hb 0 hn

/-- The candidate that gives way: of the least estimate, and among equals of the highest frame. -/
theorem leastCand_spec {l : List (Nat × Nat)} (h : l ≠ []) : leastCand l ∈ l ∧
    ∀ p ∈ l, (leastCand l).2 < p.2 ∨ ((leastCand l).2 = p.2 ∧ p.1 ≤ (leastCand l).1) := by
  fun_induction leastCand l with
  | case1 => exact absurd rfl h
  | case2 p => exact ⟨List.mem_singleton.2 rfl, by simp⟩
  | case3 p t ht q hq ih =>
    refine ⟨List.mem_cons_self, List.forall_mem_cons.2 ⟨.inr ⟨rfl, le_rfl⟩, fun x hx => ?_⟩⟩
    have hq : p.2 < (leastCand t).2 ∨ (p.2 = (leastCand t).2 ∧ (leastCand t).1 < p.1) := hq
    have := (ih ht).2 x hx
    omega
  | case4 p t ht q hq ih =>
    have hq : ¬(p.2 < (leastCand t).2 ∨ (p.2 = (leastCand t).2 ∧ (leastCand t).1 < p.1)) := hq
    refine ⟨List.mem_cons_of_mem _ (ih ht).1, List.forall_mem_cons.2 ⟨?_, (ih ht).2⟩⟩
    change (leastCand t).2 < p.2 ∨ ((leastCand t).2 = p.2 ∧ p.1 ≤ (leastCand t).1)
    omega

/-! ## One request -/

/-- The estimate of a frame after its count. -/
def Gust.estimate (g : Gust) (f : Nat) : Nat :=
  (List.range 4).foldl (fun m r => min m (FMap.get 0 (g.count f).counters (sketchKey f r))) 0xFFFF

theorem Gust.counters_count (g : Gust) (f : Nat) :
    (g.count f).counters = (List.range 4).foldl (fun m r => bump m (sketchKey f r)) g.counters := by
  simp only [Gust.count, bump, sketchKey]

theorem Gust.get_count_counters (g : Gust) (f k : Nat) : FMap.get 0 (g.count f).counters k =
    if ∃ r < 4, k = sketchKey f r then min (FMap.get 0 g.counters k + 1) 0xFFFF else FMap.get 0 g.counters k := by
  rw [g.counters_count]
  exact get_bumps (fun _ _ => sketchKey_inj) g.counters 4 k

/-- The estimate is the least of the frame's counters. -/
theorem Gust.estimate_spec (g : Gust) (f : Nat) :
    (∃ r < 4, g.estimate f = FMap.get 0 (g.count f).counters (sketchKey f r)) ∧
      ∀ r < 4, g.estimate f ≤ FMap.get 0 (g.count f).counters (sketchKey f r) :=
  foldl_min_spec _ (fun r hr => by rw [g.get_count_counters, if_pos ⟨r, hr, rfl⟩]; exact min_le_right _ _) (by decide)

theorem Gust.cand_count (g : Gust) (f : Nat) : (g.count f).cand =
    if ∃ p ∈ g.cand, p.1 = f then g.cand.map fun p => if p.1 = f then (f, g.estimate f) else p
    else if g.cand.length < 64 then g.cand ++ [(f, g.estimate f)]
    else if (leastCand g.cand).2 < g.estimate f then
      (g.cand.filter fun p => decide (p.1 ≠ (leastCand g.cand).1)) ++ [(f, g.estimate f)]
    else g.cand := by
  have has : (g.cand.any fun p => decide (p.1 = f)) = true ↔ ∃ p ∈ g.cand, p.1 = f := by simp
  simp only [Gust.estimate, Gust.count, sketchKey, has]

theorem Gust.cand_count_of_mem {g : Gust} {f : Nat} (h : ∃ p ∈ g.cand, p.1 = f) :
    (g.count f).cand = g.cand.map fun p => if p.1 = f then (f, g.estimate f) else p := by
  rw [g.cand_count, if_pos h]

theorem Gust.cand_count_of_room {g : Gust} {f : Nat} (h : ∀ p ∈ g.cand, p.1 ≠ f) (hroom : g.cand.length < 64) :
    (g.count f).cand = g.cand ++ [(f, g.estimate f)] := by
  rw [g.cand_count, if_neg (by rintro ⟨p, hp, hf⟩; exact h p hp hf), if_pos hroom]

/-- A frame that a full list does not have takes the place of the least candidate, if its estimate is higher. -/
theorem Gust.cand_count_of_full {g : Gust} {f : Nat} (h : ∀ p ∈ g.cand, p.1 ≠ f) (hfull : 64 ≤ g.cand.length) :
    ∃ l ∈ g.cand, (∀ p ∈ g.cand, l.2 < p.2 ∨ (l.2 = p.2 ∧ p.1 ≤ l.1)) ∧ (g.count f).cand =
      if l.2 < g.estimate f then (g.cand.filter fun p => decide (p.1 ≠ l.1)) ++ [(f, g.estimate f)] else g.cand := by
  obtain ⟨mem, least⟩ := leastCand_spec (l := g.cand) (by rintro h; rw [h] at hfull; simp at hfull)
  exact ⟨_, mem, least, by rw [g.cand_count, if_neg (by rintro ⟨p, hp, hf⟩; exact h p hp hf), if_neg (Nat.not_lt.2 hfull)]⟩

end Sys2Proof.Machine
end

section
/-! Context switches (R424): what applying a log leaves, and what a core is cleared of. -/
namespace Sys2Proof.Machine

/-! ## What a die that applies its log drops -/

/-- A core whose TLB keeps some of its entries. -/
def Core.keeping (c : Core) (keep : TlbEnt → Bool) : Core := { c with tlb := c.tlb.filter keep }

theorem Core.keeping_all (c : Core) : c.keeping (fun _ => true) = c := by simp [Core.keeping]

theorem Core.keeping_keeping (c : Core) (keep keep' : TlbEnt → Bool) :
    (c.keeping keep).keeping keep' = c.keeping fun x => keep x && keep' x := by
  simp [Core.keeping, Bool.and_comm]

/-- State t is s but for translations and windows dropped: memory and devices' queues aside, each core is the same but for its
TLB, which has lost entries, and the same agents have groups. -/
structure State.DropsHeld (s t : State) : Prop where
  mem : t.mem = s.mem
  cores : ∀ c, ∃ keep, t.coreAt c = (s.coreAt c).keeping keep
  agents : t.groups.map Prod.fst = s.groups.map Prod.fst

namespace State.DropsHeld
variable {s t u : State}

theorem of_eq (hm : t.mem = s.mem) (hc : t.cores = s.cores) (hg : t.groups = s.groups) : s.DropsHeld t where
  mem := hm
  cores c := ⟨fun _ => true, by rw [Core.keeping_all, State.coreAt, hc]; rfl⟩
  agents := by rw [hg]

theorem refl (s : State) : s.DropsHeld s := of_eq rfl rfl rfl

theorem trans (h : s.DropsHeld t) (h' : t.DropsHeld u) : s.DropsHeld u where
  mem := h'.mem.trans h.mem
  cores c := by
    obtain ⟨keep, hk⟩ := h.cores c
    obtain ⟨keep', hk'⟩ := h'.cores c
    exact ⟨_, by rw [hk', hk, Core.keeping_keeping]⟩
  agents := h'.agents.trans h.agents

theorem foldl {α : Type} {f : State → α → State} (hf : ∀ (t : State) x, t.DropsHeld (f t x)) (l : List α) (s : State) :
    s.DropsHeld (l.foldl f s) := by
  induction l generalizing s with
  | nil => exact refl s
  | cons x l ih => exact (hf s x).trans (ih _)

theorem badHome (s : State) (a n : Nat) : s.DropsHeld (s.badHome a n).2 := by
  have errors (a n : Nat) : s.DropsHeld (s.findErrors a n) := by
    fun_cases State.findErrors s a n with
    | case1 | case2 => exact of_eq rfl rfl rfl
  have crc (t : State) (a n : Nat) : t.DropsHeld (t.crcDone a n) := by
    fun_cases State.crcDone t a n with
    | case1 | case2 => exact of_eq rfl rfl rfl
  exact (errors _ _).trans (crc _ _ _)

theorem logEntry (s : State) (die n : Nat) : s.DropsHeld (s.logEntry die n).2.2 := by
  fun_cases State.logEntry s die n with
  | case1 => exact refl s
  | case2 =>
    rename_i h
    have := badHome s (s.logSlot die n) 16
    rwa [h] at this

theorem dropWindows (s : State) (core : Nat) : s.DropsHeld (s.dropWindows core) := by
  fun_cases State.dropWindows s core with
  | case1 =>
    refine ⟨rfl, (refl s).cores, ?_⟩
    rw [List.map_map]
    refine List.map_congr_left fun p _ => ?_
    simp only [Function.comp_apply]
    split <;> rfl
  | case2 => exact refl s

theorem setTlb (s : State) (core : Nat) (keep : TlbEnt → Bool) :
    s.DropsHeld (s.setCore core ((s.coreAt core).keeping keep)) where
  mem := rfl
  cores c := by
    by_cases h : c = core
    · exact ⟨keep, by rw [h, State.coreAt_setCore_same]⟩
    · exact ⟨_, (FMap.get_ins_other _ _ _ h).trans (Core.keeping_all _).symm⟩
  agents := rfl

theorem setDie (s : State) (die : Nat) (x : Die) : s.DropsHeld (s.setDie die x) := of_eq rfl rfl rfl

theorem setTlb2 (s : State) (l : FMap (List TlbEnt)) : s.DropsHeld { s with tlb2 := l } := of_eq rfl rfl rfl

/-- One entry of the log at one core. -/
theorem applyAt (s : State) (core : Nat) (keep : TlbEnt → Bool) :
    s.DropsHeld ((if (s.coreAt core).tlb = [] then s
      else s.setCore core ((s.coreAt core).keeping keep)).dropWindows core) := by
  refine trans ?_ (dropWindows _ core)
  split
  · exact refl s
  · exact setTlb s core keep

theorem applyOne (s : State) (die : Nat) : s.DropsHeld (s.applyOne die) := by
  fun_cases State.applyOne s die
  rename_i h _ _ _
  have entry := logEntry s die (((s.dieAt die).gen + 1) % pow2 32)
  rw [h] at entry
  exact ((entry.trans (foldl (fun t c => applyAt t c _) _ _)).trans (setTlb2 _ _)).trans (setDie _ _ _)

theorem applyEntries (s : State) (die n : Nat) : s.DropsHeld (s.applyEntries die n) := by
  fun_induction State.applyEntries s die n with
  | case1 => exact refl _
  | case2 s n ih => exact (applyOne s die).trans ih

theorem applyLog (s : State) (die : Nat) : s.DropsHeld (s.applyLog die) := by
  fun_cases State.applyLog s die with
  | case1 => exact applyEntries s die _
  | case2 => exact refl s

end State.DropsHeld

/-! ## The switch -/

theorem FMap.get_filter {α : Type} (d : α) (f : Nat → Bool) (k : Nat) (m : FMap α) :
    FMap.get d (m.filter fun p => f p.1) k = if f k then FMap.get d m k else d := by
  induction m with
  | nil => simp [FMap.get]
  | cons p t ih =>
    obtain ⟨i, x⟩ := p
    by_cases hi : i = k
    · subst hi
      cases hf : f i <;> simp_all [FMap.get]
    · cases hf : f i <;> simp_all [FMap.get]

theorem State.rdByte_clearPlaces (s : State) (which : Nat → Bool) (a : Nat) :
    (s.clearPlaces which).rdByte a = if which a then 0 else s.rdByte a := by
  refine (FMap.get_filter 0 (fun a => !which a) a s.mem).trans ?_
  cases which a <;> rfl

theorem inIloc_iff {core a : Nat} : inIloc core a = true ↔ iloc core 0 ≤ a ∧ a < iloc core 0 + 2 ^ 18 := by
  simp only [inIloc, pow2, Nat.one_shiftLeft, decide_eq_true_eq]

/-- The core's own memory is cleared, and no other. -/
theorem State.rdByte_switchCore (s : State) (core asid a : Nat) : (s.switchCore core asid).rdByte a =
    if iloc core 0 ≤ a ∧ a < iloc core 0 + 2 ^ 18 then 0 else s.rdByte a := by
  unfold State.switchCore
  extract_lets c mine back segs cleared gone switched
  rw [State.rdByte_of_mem (State.DropsHeld.applyLog switched _).mem, ← if_congr inIloc_iff rfl rfl]
  exact s.rdByte_clearPlaces (inIloc core) a

/-- No group is left on the core. -/
theorem State.groups_switchCore {s : State} {core asid : Nat} : ∀ p ∈ (s.switchCore core asid).groups, coreOf p.1 ≠ core := by
  unfold State.switchCore
  extract_lets c mine back segs cleared gone switched
  intro p hp
  have agent : p.1 ∈ switched.groups.map Prod.fst := by
    rw [← (State.DropsHeld.applyLog switched (dieOfCore core)).agents]
    exact List.mem_map_of_mem hp
  obtain ⟨q, hq, hqp⟩ := List.mem_map.1 agent
  rw [← hqp]
  exact of_decide_eq_true (List.mem_filter.1 hq).2

/-- What the core holds for the new context: its pending copy faults alone. -/
theorem State.coreAt_switchCore (s : State) (core asid : Nat) :
    let c := s.coreAt core
    let e := (s.switchCore core asid).coreAt core
    e.asid = asid ∧ e.opb = [] ∧ e.wb = [] ∧ e.acc = [] ∧ e.recs = [] ∧ e.baton = none ∧ e.tlb = [] ∧ e.binds = [] ∧
      e.copies = c.shelved.filter (fun k => decide (k.asid = asid)) ∧
      e.shelved = (c.shelved.filter fun k => !decide (k.asid = asid)) ++ c.copies ∧ e.retired = c.retired := by
  unfold State.switchCore
  extract_lets c mine back segs cleared gone switched e
  obtain ⟨keep, hk⟩ := (State.DropsHeld.applyLog switched (dieOfCore core)).cores core
  have core' : e = Core.keeping _ keep := hk.trans (congrArg (Core.keeping · keep) (State.coreAt_setCore_same _ _ _))
  rw [core']
  exact ⟨rfl, rfl, rfl, rfl, rfl, rfl, rfl, rfl, rfl, rfl, rfl⟩

theorem State.switchOk_iff (s : State) (core asid : Nat) : s.switchOk core asid = true ↔
    (s.coreAt core).asid ≠ asid ∧ core ∈ (s.ctxAt (s.devOfCore core) asid).cores ∧
      (∀ p ∈ s.units, p.2.core = core → p.2.started = true → p.2.away = true) ∧
      ∀ k ∈ (s.coreAt core).copies, k.status = 2 := by
  have empty : s.coreEmpty core = true ↔ ∀ p ∈ s.units, p.2.core = core → p.2.started = true → p.2.away = true := by
    simp only [State.coreEmpty, List.all_eq_true, Bool.not_eq_true', Bool.and_eq_false_iff, Bool.not_eq_false',
      decide_eq_false_iff_not]
    refine forall₂_congr fun p _ => ?_
    cases p.2.started <;> cases p.2.away <;> simp
  simp only [State.switchOk, Bool.and_eq_true, decide_eq_true_eq, List.contains_iff_mem, empty, List.all_eq_true, and_assoc]

theorem exec_contextSwitch {s : State} {core asid : Nat} (h : s.msg = .contextSwitch core asid) :
    exec .contextSwitch s = .next (if s.switchOk core asid then s.switchCore core asid else s) := by
  show execContextSwitch s = _
  exact event_eq (by rw [h])

end Sys2Proof.Machine
end

section
/-! The start of a checkpoint (R469). -/
namespace Sys2Proof.Machine

/-- A change of a group leaves memory, devices and units alone. -/
theorem State.updGroup_frame (s : State) (a uid : Nat) (f : Group → Group) :
    (s.updGroup a uid f).mem = s.mem ∧ (s.updGroup a uid f).devs = s.devs ∧ (s.updGroup a uid f).units = s.units := by
  fun_cases State.updGroup s a uid f with
  | case1 | case2 => exact ⟨rfl, rfl, rfl⟩

theorem State.foldl_updGroup_frame (l : List Nat) (uid : Nat) (f : Group → Group) (s : State) :
    (l.foldl (fun s a => s.updGroup a uid f) s).mem = s.mem ∧
      (l.foldl (fun s a => s.updGroup a uid f) s).devs = s.devs ∧
      (l.foldl (fun s a => s.updGroup a uid f) s).units = s.units := by
  induction l generalizing s with
  | nil => exact ⟨rfl, rfl, rfl⟩
  | cons a l ih =>
    obtain ⟨mem, devs, units⟩ := ih (s.updGroup a uid f)
    obtain ⟨mem', devs', units'⟩ := s.updGroup_frame a uid f
    exact ⟨mem.trans mem', devs.trans devs', units.trans units'⟩

theorem State.beginSave_spec (s : State) (dev asid uid area : Nat) :
    let t := s.beginSave dev asid uid area
    t.mem = s.mem ∧ t.devs = s.devs ∧ (t.unitAt uid).preempting = true ∧
      ∃ v ∈ (t.ctxAt dev asid).saved, v.uid = uid ∧ v.area = area := by
  unfold State.beginSave
  extract_lets u x marked asked t
  obtain ⟨mem, devs, units⟩ := State.foldl_updGroup_frame u.slots uid (fun g => { g with preempt := true }) marked
  refine ⟨mem, devs, ?_, { uid := uid, level := u.level, area := area }, ?_, rfl, rfl⟩
  · rw [show t.unitAt uid = marked.unitAt uid from congrArg (FMap.get _ · uid) units, State.unitAt_setUnit_same]
  · rw [State.ctxAt_setCtx_same]
    exact List.mem_append_right _ (List.mem_singleton.2 rfl)

theorem exec_checkpointStart_of_none {s : State} {dev : Nat} (h : s.msg = .checkpointStart dev)
    (ha : s.ckptAgent dev = none) : exec .checkpointStart s = .next s := by
  show execCheckpointStart s = _
  exact event_eq (by simp only [h, ha])

/-- CHECKPOINT_START, where a group waits. -/
theorem exec_checkpointStart_of_some {s : State} {dev a va tok : Nat} (h : s.msg = .checkpointStart dev)
    (ha : s.ckptAgent dev = some a) (hw : (s.grpOf a).ckptWait = some (va, tok)) :
    let uid := (s.grpOf a).unit
    let asid := (s.unitAt uid).asid
    exec .checkpointStart s = .next (
      if (s.devAt dev).ckpt.isNone && s.ckptQuiet dev uid && !(s.ctxAt dev asid).busy then
        (s.setDev dev { s.devAt dev with ckpt := some (asid, a, uid) }).beginSave dev asid uid va
      else s) := by
  show execCheckpointStart s = _
  exact event_eq (by simp only [h, ha, hw])

end Sys2Proof.Machine
end

section
/-! The bytes of a checkpoint image, and what its peers store of them (R468, R471). -/
namespace Sys2Proof.Machine

/-! ## Where a byte comes from -/

theorem Image.byte_of_place {im : Image} {i a : Nat} (h : im.placeAt i = some a) : im.byte i = FMap.get 0 im.mem a := by
  rw [Image.byte, h]

section
variable (im : Image) {i : Nat}

theorem Image.placeAt_sram (h : 2 ^ 26 ≤ i) (h' : i < 2 ^ 26 + diesPer im.mode * 2 ^ 31) :
    im.placeAt i = some (firstDie im.mode im.dev * 2 ^ 31 + (i - 2 ^ 26)) := by
  simp only [Image.placeAt, pow2, Nat.one_shiftLeft]
  rw [if_neg (by omega), if_pos h']

theorem Image.placeAt_queue (h : 2 ^ 26 + diesPer im.mode * 2 ^ 31 ≤ i)
    (h' : i < 2 ^ 26 + diesPer im.mode * 2 ^ 31 + diesPer im.mode * 2 ^ 22) :
    im.placeAt i = some (qloc (firstDie im.mode im.dev) (i - (2 ^ 26 + diesPer im.mode * 2 ^ 31))) := by
  simp only [Image.placeAt, pow2, Nat.one_shiftLeft]
  rw [if_neg (by omega), if_neg (by omega), if_pos h', Nat.sub_sub]

theorem Image.placeAt_frame {k f b : Nat} (hf : im.frames[k]? = some f) (hb : b < 65536) :
    im.placeAt (2 ^ 26 + diesPer im.mode * 2 ^ 31 + diesPer im.mode * 2 ^ 22 + 65536 * k + b) =
      some (hloc im.mode im.dev (65536 * f + b)) := by
  simp only [Image.placeAt, pow2, Nat.one_shiftLeft]
  rw [if_neg (by omega), if_neg (by omega), if_neg (by omega)]
  have hj (x y : Nat) : 2 ^ 26 + x + y + 65536 * k + b - 2 ^ 26 - x - y = 65536 * k + b := by omega
  rw [hj, show (65536 * k + b) / 65536 = k by omega, show (65536 * k + b) % 65536 = b by omega, hf]
  rfl

end

/-! ## What the peers store -/

theorem xorBytes_cons (x : Byte) (l : List Byte) : xorBytes (x :: l) = x ^^^ xorBytes l := rfl

theorem xorBytes_perm {l m : List Byte} (h : List.Perm l m) : xorBytes l = xorBytes m := by
  have : LeftCommutative fun x y : Byte => x ^^^ y := ⟨fun x y z => by
    rw [← BitVec.xor_assoc, BitVec.xor_comm x, BitVec.xor_assoc]⟩
  exact h.foldr_eq 0

/-- The byte that one peer lacks is the XOR of the others', where the XOR of all is 0. -/
theorem xorBytes_eraseIdx {l : List Byte} (h : xorBytes l = 0) {q : Nat} (hq : q < l.length) :
    xorBytes (l.eraseIdx q) = l.getD q 0 := by
  rw [← xorBytes_perm (List.getElem_cons_eraseIdx_perm hq), xorBytes_cons] at h
  rw [← BitVec.xor_eq_zero_iff.1 h, List.getD_eq_getElem _ _ hq]

section
variable (im : Image) (S b : Nat)

/-- The bytes of the data units of a stripe. -/
def Image.dataBytes : List Byte := (List.range (im.peers - 1)).map fun k => im.unitByte (S * (im.peers - 1) + k) b

theorem Image.row_eq : im.row S b = (im.dataBytes S b).insertIdx (S % im.peers) (xorBytes (im.dataBytes S b)) := rfl

variable {im} (h : 2 ≤ im.peers)
include h

theorem Image.parity_le : S % im.peers ≤ (im.dataBytes S b).length := by
  have := Nat.mod_lt S (show im.peers > 0 by omega)
  simp only [Image.dataBytes, List.length_map, List.length_range]
  omega

theorem Image.length_row : (im.row S b).length = im.peers := by
  rw [Image.row_eq, List.length_insertIdx_of_le_length (Image.parity_le S b h)]
  simp only [Image.dataBytes, List.length_map, List.length_range]
  omega

/-- With their parity the bytes of a stripe XOR to 0. -/
theorem Image.xorBytes_row : xorBytes (im.row S b) = 0 := by
  rw [Image.row_eq, xorBytes_perm (List.perm_insertIdx _ _ (Image.parity_le S b h)), xorBytes_cons, BitVec.xor_self]
  rfl

theorem Image.rebuilt_eq {q : Nat} (hq : q < im.peers) : im.rebuilt q S b = im.peerByte q S b :=
  xorBytes_eraseIdx (Image.xorBytes_row S b h) (by rw [Image.length_row S b h]; exact hq)

/-- A peer that does not hold the parity holds its data unit, in ascending order. -/
theorem Image.peerByte_eq {q : Nat} (hq : q < im.peers) (hne : q ≠ S % im.peers) :
    im.peerByte q S b = im.unitByte (S * (im.peers - 1) + if q < S % im.peers then q else q - 1) b := by
  have hS := Nat.mod_lt S (show im.peers > 0 by omega)
  have data {k : Nat} (hk : k < im.peers - 1) : (im.dataBytes S b)[k]? = some (im.unitByte (S * (im.peers - 1) + k) b) := by
    simp [Image.dataBytes, hk]
  rw [Image.peerByte, Image.row_eq, List.getD_eq_getElem?_getD, List.getElem?_insertIdx]
  split
  next hlt => rw [data (by omega)]; rfl
  next hge => rw [data (by omega)]; rfl

end

end Sys2Proof.Machine
end

section
/-! Boot and reset of the package (R435), and its clock (R29). -/
namespace Sys2Proof.Machine

/-- An image that the boot ROM takes. -/
def FwImage.good (x : FwImage) : Prop := x.sigOk = true ∧ x.minimum ≤ x.version

theorem FwImage.good_iff (x : FwImage) : (x.sigOk && decide (x.minimum ≤ x.version)) = true ↔ x.good := by
  simp [FwImage.good]

section
variable {p : Pkg} {k : Nat} {x : FwImage} {t : List FwImage}

/-- A good image releases its dies, and the next image is tried. -/
theorem Pkg.bootFrom_good (hk : k < 4) (h : x.good) : ∃ meas,
    p.bootFrom k (x :: t) = Pkg.bootFrom { p with meas := meas, released := p.released ||| (1#4 <<< k) } (k + 1) t := by
  rw [Pkg.bootFrom, if_neg (Nat.not_le.2 hk)]
  dsimp only
  rw [if_pos (x.good_iff.2 h)]
  exact ⟨_, rfl⟩

/-- At the first image that is not good the boot ends. -/
theorem Pkg.bootFrom_bad (hk : k < 4) (h : ¬x.good) : ∃ meas,
    p.bootFrom k (x :: t) = { p with meas := meas, failing := some k } := by
  rw [Pkg.bootFrom, if_neg (Nat.not_le.2 hk)]
  dsimp only
  rw [if_neg (mt x.good_iff.1 h)]
  exact ⟨_, rfl⟩

theorem Pkg.bootFrom_done (l : List FwImage) : p.bootFrom 4 l = p := by
  cases l <;> simp [Pkg.bootFrom]

end

/-- After k good images the dies of those k are released, and the boot goes on with the rest. -/
theorem Pkg.bootFrom_goods {l : List FwImage} {k : Nat} (hk : k ≤ 4) (hlen : k ≤ l.length) (h : ∀ x ∈ l.take k, x.good)
    {p : Pkg} (hp : p.released = 0) : ∃ q : Pkg, p.bootFrom 0 l = q.bootFrom k (l.drop k) ∧
      q.released = BitVec.ofNat 4 (2 ^ k - 1) ∧ q.failing = p.failing := by
  induction k with
  | zero => exact ⟨p, rfl, hp, rfl⟩
  | succ k ih =>
    obtain ⟨q, hq, hrel, hfail⟩ := ih (by omega) (by omega) fun x hx => h x (List.take_subset_take_left l (by omega) hx)
    have hx : l[k] ∈ l.take (k + 1) := List.mem_take_iff_getElem.2 ⟨k, by omega, rfl⟩
    have hk : k < 4 := by omega
    obtain ⟨meas, hb⟩ := Pkg.bootFrom_good (p := q) (t := l.drop (k + 1)) hk (h _ hx)
    refine ⟨_, hq.trans ((congrArg _ (List.drop_eq_getElem_cons hlen)).trans hb), ?_, hfail⟩
    simp only [hrel]
    interval_cases k <;> decide

section
variable {l : List FwImage} {p : Pkg} (hrel : p.released = 0)
include hrel

/-- Four good images release the package. -/
theorem Pkg.bootFrom_all (hlen : 4 ≤ l.length) (h : ∀ x ∈ l.take 4, x.good) (hfail : p.failing = none) :
    (p.bootFrom 0 l).released = 15 ∧ (p.bootFrom 0 l).failing = none := by
  obtain ⟨q, hq, hr, hf⟩ := Pkg.bootFrom_goods (Nat.le_refl 4) hlen h hrel
  rw [hq, Pkg.bootFrom_done]
  exact ⟨hr, hf.trans hfail⟩

/-- The first image that is not good is the failing one, and the dies of those before it are released. -/
theorem Pkg.bootFrom_failing {k : Nat} {x : FwImage} (hk : k < 4) (hx : l[k]? = some x) (hbad : ¬x.good)
    (h : ∀ y ∈ l.take k, y.good) :
    (p.bootFrom 0 l).failing = some k ∧ (p.bootFrom 0 l).released.toNat = 2 ^ k - 1 := by
  obtain ⟨hlen, rfl⟩ := List.getElem?_eq_some_iff.1 hx
  obtain ⟨q, hq, hr, -⟩ := Pkg.bootFrom_goods hk.le hlen.le h hrel
  obtain ⟨meas, hb⟩ := Pkg.bootFrom_bad (p := q) (t := l.drop (k + 1)) hk hbad
  rw [hq, List.drop_eq_getElem_cons hlen, hb]
  refine ⟨rfl, ?_⟩
  simp only [hr, BitVec.toNat_ofNat]
  exact Nat.mod_eq_of_lt (by interval_cases k <;> decide)

end

/-! ## The state after a boot -/

/-- A map whose values a function replaces, where the function keeps the default. -/
theorem FMap.get_map {α : Type} {d : α} {f : α → α} (hd : f d = d) (i : Nat) (m : FMap α) :
    FMap.get d (m.map fun p => (p.1, f p.2)) i = f (m.get d i) := by
  induction m with
  | nil => exact hd.symm
  | cons p m ih =>
    simp only [List.map_cons, FMap.get]
    split
    · rfl
    · exact ih

theorem devAt_boot (s : State) (images : List FwImage) (d : Nat) :
    (s.boot images).devAt d = { images := (s.devAt d).images } :=
  FMap.get_map (f := fun x : Device => { images := x.images }) rfl d s.devs

theorem exec_boot {s : State} {images : List FwImage} {i : Instr}
    (h : (i = .powerOn ∧ s.msg = .powerOn images) ∨ (i = .packageReset ∧ s.msg = .packageReset images)) :
    exec i s = .next (s.boot images) := by
  obtain ⟨rfl, h⟩ | ⟨rfl, h⟩ := h
  · change execPowerOn s = _
    exact event_eq (by rw [h])
  · change execPackageReset s = _
    exact event_eq (by rw [h])

/-! ## The clock -/

theorem exec_clockLower {s : State} (h : s.msg = .clockLower) : exec .clockLower s =
    .next (if s.pkg.clock < 620 then s else s.setPkg { s.pkg with clock := s.pkg.clock - 20 }) := by
  change execClockLower s = _
  refine event_eq ?_
  simp only [h]
  by_cases hc : s.pkg.clock < 620
  · rw [if_pos hc, if_neg (by omega)]
  · rw [if_neg hc, if_pos (by omega)]

theorem exec_clockRaise {s : State} (h : s.msg = .clockRaise) : exec .clockRaise s =
    .next (if 920 < s.pkg.clock then s else s.setPkg { s.pkg with clock := s.pkg.clock + 20 }) := by
  change execClockRaise s = _
  refine event_eq ?_
  simp only [h]
  by_cases hc : 920 < s.pkg.clock
  · rw [if_pos hc, if_neg (by omega)]
  · rw [if_neg hc, if_pos (by omega)]

end Sys2Proof.Machine
end

section
/-! What the wake-up of a unit after its checkpoint leaves: the images, the running checkpoints and the messages sent (R469).
The lemmas follow the functions that a restoration calls, one for each, as those of `State.Keeps` do. -/
namespace Sys2Proof.Machine

/-- What a function leaves of each value of a map. -/
theorem FMap.proj_get_map {α β : Type} {d : α} {f : Nat × α → Nat × α} {g : α → β} (hk : ∀ p, (f p).1 = p.1)
    (h : ∀ p, g (f p).2 = g p.2) (i : Nat) (m : FMap α) : g (FMap.get d (m.map f) i) = g (m.get d i) := by
  induction m with
  | nil => rfl
  | cons p m ih =>
    simp only [List.map_cons, FMap.get, hk]
    split
    · exact h p
    · exact ih

/-! ## The relation -/

/-- A part of a step that leads from s₀ to s sends nothing and leaves the images and the running checkpoint of each device. -/
structure State.KeepsImages (s₀ s : State) : Prop where
  outbox : s.outbox = s₀.outbox
  images : ∀ d, (s.devAt d).images = (s₀.devAt d).images
  ckpt : ∀ d, (s.devAt d).ckpt = (s₀.devAt d).ckpt

/-- The same of a function that returns a state beside its result; a predicate of the pair for the reason that
`State.KeepsOut` states. -/
def State.KeepsImagesOut {α : Type} (s₀ : State) (p : α × State) : Prop := s₀.KeepsImages p.2

section
variable {s₀ s t : State} {α β : Type} {c : Prop} {_ : Decidable c}

namespace State.KeepsImages

theorem refl (s : State) : s.KeepsImages s := ⟨rfl, fun _ => rfl, fun _ => rfl⟩

/-- An update of any fields but the messages sent and the devices. -/
theorem upd {cur msg inbox cycle waits count lazy tok mem tags crypt poison latent crc eccDue groups cores units ctxs dies pkg
    parked sobjQ vis past since tlb2 owed stalled levels spent vers colls decls} (h : s₀.KeepsImages s) :
    s₀.KeepsImages ⟨cur, msg, inbox, s.outbox, cycle, waits, count, lazy, tok, mem, tags, crypt, poison, latent, crc,
      eccDue, groups, cores, units, ctxs, s.devs, dies, pkg, parked, sobjQ, vis, past, since, tlb2, owed, stalled, levels,
      spent, vers, colls, decls⟩ :=
  ⟨h.outbox, h.images, h.ckpt⟩

theorem out {p : α × State} {a : α} (h : s₀.KeepsImages p.2) (e : p = (a, t)) : s₀.KeepsImages t := by
  subst e; exact h

theorem out₂ {p : α × β × State} {a : α} {b : β} (h : s₀.KeepsImages p.2.2) (e : p = (a, b, t)) : s₀.KeepsImages t := by
  subst e; exact h

theorem ite (hs : s₀.KeepsImages s) (ht : s₀.KeepsImages t) : s₀.KeepsImages (if c then s else t) := by
  split <;> assumption

theorem when (hs : s₀.KeepsImages s) (ht : s₀.KeepsImages s → s₀.KeepsImages t) : s₀.KeepsImages (if c then t else s) :=
  ite (ht hs) hs

theorem whenNot (hs : s₀.KeepsImages s) (ht : s₀.KeepsImages s → s₀.KeepsImages t) :
    s₀.KeepsImages (if c then s else t) :=
  ite hs (ht hs)

theorem foldl {f : State → α → State} {l : List α} (h : s₀.KeepsImages s)
    (hf : ∀ t x, s₀.KeepsImages t → s₀.KeepsImages (f t x)) : s₀.KeepsImages (l.foldl f s) := by
  induction l generalizing s with
  | nil => exact h
  | cons x l ih => exact ih (hf _ _ h)

end State.KeepsImages

namespace State.KeepsImagesOut

theorem ite {p q : α × State} (hp : s₀.KeepsImagesOut p) (hq : s₀.KeepsImagesOut q) :
    s₀.KeepsImagesOut (if c then p else q) := by
  split <;> assumption

theorem foldl {f : β × State → α → β × State} {l : List α} {p : β × State} (h : s₀.KeepsImagesOut p)
    (hf : ∀ p x, s₀.KeepsImages p.2 → s₀.KeepsImagesOut (f p x)) : s₀.KeepsImagesOut (l.foldl f p) := by
  induction l generalizing p with
  | nil => exact h
  | cons x l ih => exact ih (hf _ _ h)

end State.KeepsImagesOut

end

/-! ## What each function keeps -/

namespace State.KeepsImages
variable {s₀ s : State}

/-! ### The parts of the state -/

theorem setGrpOf {a g} (h : s₀.KeepsImages s) : s₀.KeepsImages (s.setGrpOf a g) := h.upd

theorem setCore {c x} (h : s₀.KeepsImages s) : s₀.KeepsImages (s.setCore c x) := h.upd

theorem setUnit {u x} (h : s₀.KeepsImages s) : s₀.KeepsImages (s.setUnit u x) := h.upd

/-- A device whose images and running checkpoint stay. -/
theorem setDev {d x} (h : s₀.KeepsImages s) (images : x.images = (s.devAt d).images := by rfl)
    (ckpt : x.ckpt = (s.devAt d).ckpt := by rfl) : s₀.KeepsImages (s.setDev d x) := by
  refine ⟨h.outbox, fun e => ?_, fun e => ?_⟩ <;> rw [State.devAt_setDev] <;> split
  next he => subst he; rw [images, h.images]
  next => exact h.images e
  next he => subst he; rw [ckpt, h.ckpt]
  next => exact h.ckpt e

theorem setDie {d x} (h : s₀.KeepsImages s) : s₀.KeepsImages (s.setDie d x) := h.upd

theorem setCtx {dev asid x} (h : s₀.KeepsImages s) : s₀.KeepsImages (s.setCtx dev asid x) := h.upd

theorem fresh (h : s₀.KeepsImages s) : s₀.KeepsImages s.fresh.2 := h.upd

/-! ### Memory at its homes -/

theorem wrByte {a b} (h : s₀.KeepsImages s) : s₀.KeepsImages (s.wrByte a b) := h.upd

theorem rawN {a n v} (h : s₀.KeepsImages s) : s₀.KeepsImages (s.rawN a n v) := by
  fun_induction State.rawN s a n v with
  | case1 => exact h
  | case2 => rename_i ih; exact ih h.wrByte

theorem rawBytes {a bs} (h : s₀.KeepsImages s) : s₀.KeepsImages (s.rawBytes a bs) := by
  fun_induction State.rawBytes s a bs with
  | case1 => exact h
  | case2 => rename_i ih; exact ih h.wrByte

theorem markDirty {a} (h : s₀.KeepsImages s) : s₀.KeepsImages (s.markDirty a) := by
  fun_cases State.markDirty s a with
  | case1 => exact h.setDev
  | case2 | case3 => exact h

theorem markLines {a n} (h : s₀.KeepsImages s) : s₀.KeepsImages (s.markLines a n) := h.foldl fun _ _ h => h.markDirty

theorem cleanse {a n} (h : s₀.KeepsImages s) : s₀.KeepsImages (s.cleanse a n) := by
  fun_cases State.cleanse s a n with
  | case1 => exact h
  | case2 => exact h.upd

theorem publish {views which} (h : s₀.KeepsImages s) : s₀.KeepsImages (s.publish views which) := h.upd

theorem witness {die a n} (h : s₀.KeepsImages s) : s₀.KeepsImages (s.witness die a n) := h.publish

theorem settleAt {a n} (h : s₀.KeepsImages s) : s₀.KeepsImages (s.settleAt a n) := by
  fun_cases State.settleAt s a n with
  | case1 => exact h
  | case2 => exact h.publish

theorem overwrite {a n} (h : s₀.KeepsImages s) : s₀.KeepsImages (s.overwrite a n) := by
  fun_cases State.overwrite s a n with
  | case1 => exact h.markLines
  | case2 => exact h.markLines.upd

theorem crcDone {a n} (h : s₀.KeepsImages s) : s₀.KeepsImages (s.crcDone a n) := by
  fun_cases State.crcDone s a n with
  | case1 => exact h
  | case2 => exact h.upd

theorem poisonAt {a n} (h : s₀.KeepsImages s) : s₀.KeepsImages (s.poisonAt a n) := h.upd

theorem flitDone {a n} (h : s₀.KeepsImages s) : s₀.KeepsImages (s.flitDone a n) := by
  fun_cases State.flitDone s a n with
  | case1 => exact h
  | case2 => exact h.crcDone.poisonAt
  | case3 => exact h.crcDone

theorem stored {a n} (h : s₀.KeepsImages s) : s₀.KeepsImages (s.stored a n) := h.cleanse.flitDone

theorem wrN {a n v} (h : s₀.KeepsImages s) : s₀.KeepsImages (s.wrN a n v) := h.settleAt.overwrite.rawN.stored

theorem wrBytes {a bs} (h : s₀.KeepsImages s) : s₀.KeepsImages (s.wrBytes a bs) := h.settleAt.overwrite.rawBytes.stored

theorem newWrite {agent core a n named va} (h : s₀.KeepsImages s) : s₀.KeepsImages (s.newWrite agent core a n named va) :=
  h.upd.overwrite

theorem wrBytesFor {core a bs} (h : s₀.KeepsImages s) : s₀.KeepsImages (s.wrBytesFor core a bs) :=
  h.newWrite.rawBytes.stored

theorem findErrors {a n} (h : s₀.KeepsImages s) : s₀.KeepsImages (s.findErrors a n) := by
  fun_cases State.findErrors s a n with
  | case1 => exact h
  | case2 => exact h.setDie.upd

theorem noteEcc {dev asid level addr} (h : s₀.KeepsImages s) : s₀.KeepsImages (s.noteEcc dev asid level addr) := by
  fun_cases State.noteEcc s dev asid level addr with
  | case1 => exact h
  | case2 => exact h.upd

theorem noteUnit {uid addr} (h : s₀.KeepsImages s) : s₀.KeepsImages (s.noteUnit uid addr) := h.noteEcc

theorem touch {a} (h : s₀.KeepsImages s) : s₀.KeepsImages (s.touch a) := by
  fun_cases State.touch s a with
  | case1 => exact h.setDev
  | case2 | case3 => exact h

theorem keyError {dev} (h : s₀.KeepsImages s) : s₀.KeepsImages (s.keyError dev) := h.setDev

theorem served {ka n} (h : s₀.KeepsImages s) : s₀.KeepsImages (s.served ka n) := by
  fun_cases State.served s ka n with
  | case1 => exact h.findErrors.touch
  | case2 => exact h.findErrors.touch.keyError

theorem rekey {key a n} (h : s₀.KeepsImages s) : s₀.KeepsImages (s.rekey key a n) := by
  fun_cases State.rekey s key a n with
  | case1 => exact h.foldl fun _ _ h => h.whenNot fun h => h.rawN.upd
  | case2 => exact h

theorem writeAt {agent core ka n v va} (h : s₀.KeepsImages s) : s₀.KeepsImages (s.writeAt agent core ka n v va) := by
  fun_cases State.writeAt s agent core ka n v va with
  | case1 => exact h
  | case2 => exact h.rekey.newWrite.rawN.stored

theorem wrHome {a n v} (h : s₀.KeepsImages s) : s₀.KeepsImages (s.wrHome a n v) := h.wrN

theorem badRead {a n} (h : s₀.KeepsImages s) : s₀.KeepsImages (s.badRead a n).2 := h.findErrors.crcDone

theorem badHome {a n} (h : s₀.KeepsImages s) : s₀.KeepsImages (s.badHome a n).2 := h.badRead

theorem putTag {a full} (h : s₀.KeepsImages s) : s₀.KeepsImages (s.putTag a full) := h.upd

/-! ### Level objects, nodes and arrivals -/

theorem owe {op} (h : s₀.KeepsImages s) : s₀.KeepsImages (s.owe op) := h.upd

theorem lvSetCtr {dev l v} (h : s₀.KeepsImages s) : s₀.KeepsImages (s.lvSetCtr dev l v) := by
  fun_cases State.lvSetCtr s dev l v with
  | case1 => exact h.owe
  | case2 => exact h.wrN

theorem lvSetFlag {dev l i} (h : s₀.KeepsImages s) : s₀.KeepsImages (s.lvSetFlag dev l i) := by
  fun_cases State.lvSetFlag s dev l i with
  | case1 => exact h.owe
  | case2 => exact h.wrN

theorem lvAdd {dev l d} (h : s₀.KeepsImages s) : s₀.KeepsImages (s.lvAdd dev l d) := by
  fun_cases State.lvAdd s dev l d with
  | case1 => exact h.owe
  | case2 => exact h.findErrors
  | case3 => exact h.findErrors.lvSetCtr

theorem lvOpen {dev asid l kind ctr flags parent budget} (h : s₀.KeepsImages s) :
    s₀.KeepsImages (s.lvOpen dev asid l kind ctr flags parent budget) := by
  fun_cases State.lvOpen s dev asid l kind ctr flags parent budget with
  | case1 => exact h.owe
  | case2 => exact h.wrN.wrN.wrN.wrN.wrN.wrN.wrN.cleanse.putTag.upd

theorem updGroup {agent unit f} (h : s₀.KeepsImages s) : s₀.KeepsImages (s.updGroup agent unit f) := by
  fun_cases State.updGroup s agent unit f with
  | case1 => exact h.setGrpOf
  | case2 => exact h.upd

theorem deliver {agent unit tok vals} (h : s₀.KeepsImages s) : s₀.KeepsImages (s.deliver agent unit tok vals) :=
  h.updGroup

theorem deliverNow {agent unit tok vals} (h : s₀.KeepsImages s) : s₀.KeepsImages (s.deliverNow agent unit tok vals) :=
  h.updGroup

theorem deliverRegs {agent unit tok regs vals} (h : s₀.KeepsImages s) :
    s₀.KeepsImages (s.deliverRegs agent unit tok regs vals) :=
  h.updGroup

theorem lower {agent unit cls} (h : s₀.KeepsImages s) : s₀.KeepsImages (s.lower agent unit cls) := h.updGroup

theorem bindMembers {dev off uid} (h : s₀.KeepsImages s) : s₀.KeepsImages (s.bindMembers dev off uid) := by
  refine ⟨h.outbox, fun d => Eq.trans ?_ (h.images d), fun d => Eq.trans ?_ (h.ckpt d)⟩
  · refine FMap.proj_get_map (g := Device.images) ?_ ?_ d s.devs <;> exact fun _ => rfl
  · refine FMap.proj_get_map (g := Device.ckpt) ?_ ?_ d s.devs <;> exact fun _ => rfl

theorem arrive {u} (h : s₀.KeepsImages s) : s₀.KeepsImages (s.arrive u) := by
  fun_cases State.arrive s u with
  | case1 => exact (h.fresh.out ‹_›).setUnit.setCore.bindMembers
  | case2 => exact (h.fresh.out ‹_›).setUnit.setCore

theorem openUnit {uid ctr flags} (h : s₀.KeepsImages s) : s₀.KeepsImages (s.openUnit uid ctr flags) := by
  fun_cases State.openUnit s uid ctr flags with
  | case1 => exact h
  | case2 => exact h.setUnit.lvOpen.bindMembers

theorem setNode {dev n x} (h : s₀.KeepsImages s) : s₀.KeepsImages (s.setNode dev n x) := h.setDev

theorem nodeErrors {dev n} (h : s₀.KeepsImages s) : s₀.KeepsImages (s.nodeErrors dev n) := by
  fun_cases State.nodeErrors s dev n with
  | case1 => exact h.findErrors.lvSetFlag.noteEcc
  | case2 => exact h.findErrors

theorem takeRecords {dev n} (h : s₀.KeepsImages s) : s₀.KeepsImages (s.takeRecords dev n).2 :=
  (((h.foldl fun _ _ h => h.findErrors).setNode).lvAdd).when fun h => h.lvSetFlag.noteEcc

theorem putRecords {u recs} (h : s₀.KeepsImages s) : s₀.KeepsImages (s.putRecords u recs) :=
  h.foldl fun _ _ h => h.wrBytes

theorem startNodeUnit {dev n} (h : s₀.KeepsImages s) : s₀.KeepsImages (s.startNodeUnit dev n) := by
  unfold State.startNodeUnit
  extract_lets e x asid
  split
  case h_1 => exact h
  case h_2 =>
    split
    next lost s₁ hlost =>
      extract_lets s₂ r r' lv
      have h₂ : s₀.KeepsImages s₂ := (h.badHome.out hlost).when fun h => h.noteEcc
      split
      next recs s₃ hrecs =>
        have h₃ := h₂.takeRecords.out hrecs
        exact h₃.lvAdd.setNode.setUnit.fresh.openUnit.ite h₃.lvAdd.setNode.arrive

theorem serveDone {dev n w} (h : s₀.KeepsImages s) : s₀.KeepsImages (s.serveDone dev n w) := by
  fun_cases State.serveDone s dev n w
  exact (h.takeRecords.out ‹_›).setNode.putRecords.setGrpOf.deliverNow.lower

theorem dropWaiters {dev n} (h : s₀.KeepsImages s) : s₀.KeepsImages (s.dropWaiters dev n) :=
  h.setNode.foldl fun _ _ h => h.setGrpOf.deliverNow.lower

theorem dispatchNode {dev n k} (h : s₀.KeepsImages s) : s₀.KeepsImages (s.dispatchNode dev n k) := by
  fun_induction State.dispatchNode s dev n k with
  | case1 | case2 | case5 | case6 => exact h
  | case3 => rename_i ih; exact ih h.serveDone
  | case4 => rename_i ih; exact ih h.startNodeUnit

theorem dispatch {dev n} (h : s₀.KeepsImages s) : s₀.KeepsImages (s.dispatch dev n) := by
  fun_cases State.dispatch s dev n with
  | case1 => exact h.nodeErrors.dispatchNode.dropWaiters
  | case2 => exact h.nodeErrors.dispatchNode

theorem operandFull {dev n slot} (h : s₀.KeepsImages s) : s₀.KeepsImages (s.operandFull dev n slot) :=
  h.setNode.fresh.dispatch

/-! ### Walks and translations -/

theorem updateLeaf {die dev asid va write touch fuel w} (h : s₀.KeepsImages s) :
    s₀.KeepsImages (s.updateLeaf die dev asid va write touch fuel w).2 := by
  delta State.updateLeaf
  revert s w
  refine brecOn_induction (State.updateLeaf._f die dev asid va write touch)
    (P := fun f => ∀ {s : State} {w : Walked}, s₀.KeepsImages s → s₀.KeepsImagesOut (f s w)) ?_ ?_ fuel
  · exact fun _ _ _ h => h
  · intro n B ih s w h
    refine .ite h (.ite h.touch.writeAt ?_)
    extract_lets t
    split
    · exact h.publish
    · exact ih h.publish

theorem touchWalk {die dev asid va} (h : s₀.KeepsImages s) : s₀.KeepsImages (s.touchWalk die dev asid va) :=
  h.foldl fun _ _ h => h.findErrors.touch

theorem freshWalk {die dev asid va write touch} (h : s₀.KeepsImages s) :
    s₀.KeepsImages (s.freshWalk die dev asid va write touch).2 := by
  show s₀.KeepsImagesOut _
  rw [show @State.freshWalk = _ by delta State.freshWalk; rfl]
  extract_lets t
  split
  · exact h.touchWalk
  · exact h.touchWalk.updateLeaf

theorem hold {core asid p} (h : s₀.KeepsImages s) : s₀.KeepsImages (s.hold core asid p) := by
  fun_cases State.hold s core asid p with
  | case1 => exact h
  | case2 => exact h.setCore.upd

theorem translateVia {via core die dev asid va write touch} (h : s₀.KeepsImages s) :
    s₀.KeepsImages (s.translateVia via core die dev asid va write touch).2 := by
  show s₀.KeepsImagesOut _
  have hfresh := h.freshWalk (die := die) (dev := dev) (asid := asid) (va := va) (write := write) (touch := touch)
  rw [show @State.translateVia = _ by delta State.translateVia; rfl]
  obtain ⟨fresh, hf⟩ : ∃ f, @State.freshWalk = f := exists_eq'
  obtain ⟨walk, hw⟩ : ∃ f, @State.walk = f := exists_eq'
  rw [hf] at hfresh ⊢
  rw [hw]
  extract_lets need done walked
  have hdone (p : Page) {t : State} (ht : s₀.KeepsImages t) : s₀.KeepsImagesOut (done p t) := .ite ht ht
  have hwalked : s₀.KeepsImagesOut (walked s) := by
    dsimp only [walked]
    split
    next ht => exact hfresh.out ht
    next ht => exact hdone _ (hfresh.out ht).hold
  split
  · exact hwalked
  · exact .ite (hdone _ h) (.ite (hdone _ h) hwalked)

theorem translate {core die dev asid va write touch} (h : s₀.KeepsImages s) :
    s₀.KeepsImages (s.translate core die dev asid va write touch).2 :=
  h.translateVia

theorem dropWindows {core} (h : s₀.KeepsImages s) : s₀.KeepsImages (s.dropWindows core) := by
  fun_cases State.dropWindows s core with
  | case1 => exact h.upd
  | case2 => exact h

theorem logEntry {die n} (h : s₀.KeepsImages s) : s₀.KeepsImages (s.logEntry die n).2.2 := by
  fun_cases State.logEntry s die n with
  | case1 => exact h
  | case2 => exact h.badHome.out ‹_›

theorem applyOne {die} (h : s₀.KeepsImages s) : s₀.KeepsImages (s.applyOne die) := by
  fun_cases State.applyOne s die
  exact (((h.logEntry.out₂ ‹_›).foldl fun _ _ h => (h.whenNot fun h => h.setCore).dropWindows).upd).setDie

theorem applyEntries {die k} (h : s₀.KeepsImages s) : s₀.KeepsImages (s.applyEntries die k) := by
  fun_induction State.applyEntries s die k with
  | case1 => exact h
  | case2 => rename_i ih; exact ih h.applyOne

theorem applyLog {die} (h : s₀.KeepsImages s) : s₀.KeepsImages (s.applyLog die) := by
  fun_cases State.applyLog s die with
  | case1 => exact h.applyEntries
  | case2 => exact h

theorem acquireAt {core scope} (h : s₀.KeepsImages s) : s₀.KeepsImages (s.acquireAt core scope) := by
  fun_cases State.acquireAt s core scope with
  | case1 => exact h.applyLog
  | case2 => exact h

/-! ### Tags -/

theorem reTag {a full} (h : s₀.KeepsImages s) : s₀.KeepsImages (s.reTag a full) := by
  fun_cases State.reTag s a full with
  | case1 => exact h
  | case2 => exact h.putTag

theorem performTag {r} (h : s₀.KeepsImages s) : s₀.KeepsImages (s.performTag r) := by
  fun_cases State.performTag s r with
  | case1 | case2 | case3 =>
    refine ((h.served.when fun h => h.crcDone).when fun h => h.setGrpOf).ite ?_
    split
    · exact (((h.served.when fun h => h.crcDone).deliverRegs).witness).acquireAt
    · exact ((h.served.when fun h => h.crcDone).deliverRegs).witness
  | case4 =>
    refine State.KeepsImages.reTag (((h.served.when fun h => h.crcDone).when fun h => h.setGrpOf).ite ?_)
    split
    · exact (((h.served.when fun h => h.crcDone).deliverRegs).witness).acquireAt
    · exact ((h.served.when fun h => h.crcDone).deliverRegs).witness
  | case5 | case6 | case7 => exact (((h.served.when fun h => h.crcDone).writeAt).when fun h => h.setGrpOf).reTag
  | case8 => exact (h.served.when fun h => h.crcDone).operandFull

theorem serveTags {a k} (h : s₀.KeepsImages s) : s₀.KeepsImages (s.serveTags a k) := by
  fun_induction State.serveTags s a k with
  | case1 | case2 => exact h
  | case3 => rename_i ih; exact ih h.upd.performTag

theorem arriveTag {r} (h : s₀.KeepsImages s) : s₀.KeepsImages (s.arriveTag r) := by
  fun_cases State.arriveTag s r with
  | case1 => exact h.performTag.serveTags
  | case2 => exact h.upd

/-! ### Groups and units -/

theorem closeBatch {a entry} (h : s₀.KeepsImages s) : s₀.KeepsImages (s.closeBatch a entry) := by
  fun_cases State.closeBatch s a entry
  exact (h.fresh.out ‹_›).setGrpOf.setCore

theorem passBaton {core} (h : s₀.KeepsImages s) : s₀.KeepsImages (s.passBaton core) := by
  fun_cases State.passBaton s core with
  | case1 => exact h.setCore
  | case2 | case3 => exact h.setCore.setGrpOf

theorem dropBaton {a} (h : s₀.KeepsImages s) : s₀.KeepsImages (s.dropBaton a) := by
  fun_cases State.dropBaton s a with
  | case1 => exact h.passBaton
  | case2 => exact h

theorem setSobj {obj w} (h : s₀.KeepsImages s) : s₀.KeepsImages (s.setSobj obj w) := h.wrHome

theorem serveSobj {obj k} (h : s₀.KeepsImages s) : s₀.KeepsImages (s.serveSobj obj k) := by
  fun_induction State.serveSobj s obj k with
  | case1 | case2 | case4 => exact h
  | case3 => rename_i ih; exact ih h.setSobj.upd.setGrpOf.applyLog

theorem freeSobj {obj shared} (h : s₀.KeepsImages s) : s₀.KeepsImages (s.freeSobj obj shared) := by
  fun_cases State.freeSobj s obj shared with
  | case1 => exact h.owe
  | case2 => exact h.setSobj.serveSobj

theorem publishBound {core obj} (h : s₀.KeepsImages s) : s₀.KeepsImages (s.publishBound core obj) := by
  fun_cases State.publishBound s core obj with
  | case1 => exact h
  | case2 => exact h.upd

theorem dropHolds {a exits} (h : s₀.KeepsImages s) : s₀.KeepsImages (s.dropHolds a exits) :=
  h.setGrpOf.foldl fun _ _ h => (h.when fun h => h.publishBound).freeSobj

theorem servePool {core k} (h : s₀.KeepsImages s) : s₀.KeepsImages (s.servePool core k) := by
  fun_induction State.servePool s core k with
  | case1 | case2 | case4 => exact h
  | case3 => rename_i ih; exact ih h.setCore.setGrpOf

theorem releaseBlocks {a m} (h : s₀.KeepsImages s) : s₀.KeepsImages (s.releaseBlocks a m) := h.setGrpOf.servePool

theorem withdraw {a} (h : s₀.KeepsImages s) : s₀.KeepsImages (s.withdraw a) := by
  fun_cases State.withdraw s a with
  | case1 => exact h.upd.setCore.setUnit
  | case2 => exact h.upd.setCore.setUnit.setNode

theorem dropTagOps {a} (h : s₀.KeepsImages s) : s₀.KeepsImages (s.dropTagOps a) := h.upd

theorem killGroup {a} (h : s₀.KeepsImages s) : s₀.KeepsImages (s.killGroup a) := by
  fun_cases State.killGroup s a with
  | case1 => exact h
  | case2 =>
    exact ((((((h.withdraw.dropTagOps.whenNot fun h =>
      h.closeBatch).setGrpOf).dropBaton).dropHolds).releaseBlocks).when fun h => h.setUnit).lvSetCtr
  | case3 =>
    exact (((((h.withdraw.dropTagOps.whenNot fun h =>
      h.closeBatch).setGrpOf).dropBaton).dropHolds).releaseBlocks).when fun h => h.setUnit

theorem forget {a} (h : s₀.KeepsImages s) : s₀.KeepsImages (s.forget a) := h.withdraw.dropTagOps.setGrpOf

theorem terminate {uid err} (h : s₀.KeepsImages s) : s₀.KeepsImages (s.terminate uid err) :=
  h.setUnit.foldl fun _ _ h => h.whenNot fun h => h.forget.ite (h.when fun h => h.killGroup)

/-! ### Queues and barriers -/

theorem setQueue {uid q x} (h : s₀.KeepsImages s) : s₀.KeepsImages (s.setQueue uid q x) := h.setUnit

theorem enqueue {uid q vals} (h : s₀.KeepsImages s) : s₀.KeepsImages (s.enqueue uid q vals) := h.wrBytesFor.setQueue

theorem queueError {uid q} (h : s₀.KeepsImages s) : s₀.KeepsImages (s.queueError uid q) :=
  h.findErrors.noteUnit.setUnit.terminate

theorem dequeue {uid q} (h : s₀.KeepsImages s) : s₀.KeepsImages (s.dequeue uid q).2 := h.findErrors.setQueue

theorem serveQueue {uid q k} (h : s₀.KeepsImages s) : s₀.KeepsImages (s.serveQueue uid q k) := by
  fun_induction State.serveQueue s uid q k with
  | case1 | case5 | case6 | case8 | case9 => exact h
  | case2 => exact h.queueError
  | case3 => rename_i ih; exact ih (h.setQueue.dequeue.out ‹_›).setGrpOf.deliver
  | case4 | case7 => rename_i ih; exact ih h.setQueue.setGrpOf.enqueue

theorem serveAbar {uid b} (h : s₀.KeepsImages s) : s₀.KeepsImages (s.serveAbar uid b) := h.upd

/-! ### Restoration -/

theorem areaIntact {dev asid v} (h : s₀.KeepsImages s) : s₀.KeepsImages (s.areaIntact dev asid v).2 := by
  refine State.KeepsImagesOut.foldl h fun acc c h => ?_
  extract_lets va
  split
  next ht => exact h.translate.out ht
  next ht =>
    extract_lets ka
    split
    next hb => exact ((h.translate.out ht).served.badHome.out hb).when fun h => h.noteUnit

theorem placeGroup {a g} (h : s₀.KeepsImages s) : s₀.KeepsImages (s.placeGroup a g) := by
  fun_cases State.placeGroup s a g with
  | case1 => exact h.setGrpOf
  | case2 | case3 => exact h.setCore.setGrpOf

theorem reissueAll {uid a w} (h : s₀.KeepsImages s) : s₀.KeepsImages (s.reissueAll uid a w) := by
  fun_cases State.reissueAll s uid a w with
  | case1 =>
    exact (((((h.foldl fun _ _ h => h.arriveTag).foldl fun _ _ h => h.upd.serveSobj).foldl fun _ _ h =>
      h.setCore.servePool).foldl fun _ _ h => h.setCore.when fun h => h.passBaton).foldl fun _ _ h =>
        h.setQueue.serveQueue).foldl fun _ _ h => h.setQueue.serveQueue
  | case2 =>
    exact ((((((h.foldl fun _ _ h => h.arriveTag).foldl fun _ _ h => h.upd.serveSobj).foldl fun _ _ h =>
      h.setCore.servePool).foldl fun _ _ h => h.setCore.when fun h => h.passBaton).foldl fun _ _ h =>
        h.setQueue.serveQueue).foldl fun _ _ h => h.setQueue.serveQueue).foldl fun _ _ h => h.setNode.dispatch

theorem dropSaved {v} (h : s₀.KeepsImages s) : s₀.KeepsImages (s.dropSaved v) :=
  h.foldl fun _ _ h => h.foldl fun _ _ h => h.freeSobj

theorem restoreUnit {dev asid v} (h : s₀.KeepsImages s) : s₀.KeepsImages (s.restoreUnit dev asid v) := by
  fun_cases State.restoreUnit s dev asid v with
  | case1 =>
    exact (((h.setCtx.areaIntact.out ‹_›).setCore.setUnit.foldl fun _ _ h => h.placeGroup).foldl fun _ _ h =>
      h.reissueAll).foldl fun _ _ h => h.serveAbar
  | case2 => exact (h.setCtx.areaIntact.out ‹_›).dropSaved.setUnit.lvSetCtr

theorem endCkpt {agent uid tok status} (h : s₀.KeepsImages s) : s₀.KeepsImages (s.endCkpt agent uid tok status) :=
  h.updGroup.deliver

theorem resumeCkpt {dev asid agent uid tok status} (h : s₀.KeepsImages s) :
    s₀.KeepsImages (s.resumeCkpt dev asid agent uid tok status) := by
  fun_cases State.resumeCkpt s dev asid agent uid tok status with
  | case1 => exact h.endCkpt
  | case2 => exact h.endCkpt.restoreUnit.setCtx

end State.KeepsImages
end Sys2Proof.Machine
end

section
/-! The end of a checkpoint (R467 to R469): what its image holds, and what is sent. -/
namespace Sys2Proof.Machine

/-! ## The image -/

/-- Which frames the tables map rests on memory, on the contexts and on the mode. -/
theorem State.tableFrames_congr {s t : State} (hm : t.mem = s.mem) (hmode : t.mode = s.mode) (dev fuel lv a : Nat) :
    t.tableFrames dev fuel lv a = s.tableFrames dev fuel lv a := by
  induction fuel generalizing lv a with
  | zero => rfl
  | succ fuel ih => simp only [State.tableFrames, hmode, State.rdN_of_mem hm, ih]

theorem State.mappedFrames_congr {s t : State} (hm : t.mem = s.mem) (hc : t.ctxs = s.ctxs) (hmode : t.mode = s.mode)
    (dev : Nat) : t.mappedFrames dev = s.mappedFrames dev := by
  unfold State.mappedFrames
  simp only [hc, State.tableFrames_congr hm hmode]

theorem State.mappedFrames_fresh (s : State) (dev : Nat) : s.fresh.2.mappedFrames dev = s.mappedFrames dev :=
  State.mappedFrames_congr (s := s) (t := s.fresh.2) rfl rfl rfl dev

section
variable (s : State) (dev asid a uid tok K : Nat)

theorem State.mem_frames_image (f : Nat) : f ∈ (s.image dev asid a uid tok K).frames ↔ f ∈ s.mappedFrames dev :=
  (sortBy_perm _ _).mem_iff.trans List.mem_eraseDups

/-- The frames of an image ascend, none listed twice. -/
theorem State.frames_image_pairwise : (s.image dev asid a uid tok K).frames.Pairwise (· < ·) := by
  have sorted := sortBy_pairwise (le := fun a b : Nat => decide (a ≤ b)) (fun a b => by simpa using Nat.le_total a b)
    (fun a b c => by simpa using Nat.le_trans) (s.mappedFrames dev).eraseDups
  have once : List.Nodup (sortBy (fun a b : Nat => decide (a ≤ b)) (s.mappedFrames dev).eraseDups) :=
    (sortBy_perm _ _).nodup_iff.2 (eraseDups_nodup _)
  exact (sorted.and once).imp fun h => Nat.lt_of_le_of_ne (of_decide_eq_true h.1) h.2

theorem State.slot_image : (s.image dev asid a uid tok K).slot =
    (match (s.devAt dev).images with | [] => 0 | old :: _ => 1 - old.slot) := by
  change ((s.devAt dev).images.head?.map _).getD 0 = _
  cases (s.devAt dev).images <;> rfl

end

/-! ## What is sent -/

/-- The state with messages sent. -/
def State.sendAll (s : State) (l : List OutMsg) : State := { s with outbox := s.outbox ++ l }

theorem State.foldl_send {α : Type} (f : α → OutMsg) (l : List α) (s : State) :
    l.foldl (fun s x => s.send (f x)) s = s.sendAll (l.map f) := by
  induction l generalizing s with
  | nil => simp [State.sendAll]
  | cons x l ih => rw [List.foldl_cons, ih]; simp [State.send, State.sendAll]

/-- The messages of a checkpoint's end: to each peer its part, and where it completes to each the trailer and K to the owner. -/
def Device.ckptMessages (d : Device) (dev : Nat) (done : Bool) (im : Image) : List OutMsg :=
  d.tier.zipIdx.map (fun p => .ckpt dev p.1.1 p.2 im) ++
    (if done then d.tier.map fun p => .trailer dev p.1 im.slot im.gen im.digest else []) ++
    if done && d.owner.sess then [.ckptKey dev im.wrapKey] else []

theorem State.sendAll_ckptMessages (s : State) (d : Device) (dev : Nat) (done : Bool) (im : Image) :
    s.sendAll (d.ckptMessages dev done im) =
      (let s := d.tier.zipIdx.foldl (fun s p => s.send (.ckpt dev p.1.1 p.2 im)) s
       let s := if done then d.tier.foldl (fun s p => s.send (.trailer dev p.1 im.slot im.gen im.digest)) s else s
       if done && d.owner.sess then s.send (.ckptKey dev im.wrapKey) else s) := by
  simp only [Device.ckptMessages, State.foldl_send]
  cases done
  · simp
  · cases d.owner.sess <;> simp [State.sendAll, State.send]

section
variable {d : Device} {dev : Nat} {done : Bool} {im : Image}

theorem Device.ckpt_mem_messages {q : Nat} {p : Nat × Nat} (h : d.tier[q]? = some p) :
    .ckpt dev p.1 q im ∈ d.ckptMessages dev done im :=
  List.mem_append_left _ (List.mem_append_left _ (List.mem_map.2 ⟨(p, q), List.mem_zipIdx_iff_getElem?.2 h, rfl⟩))

theorem Device.trailer_mem_messages {p : Nat × Nat} (hp : p ∈ d.tier) :
    .trailer dev p.1 im.slot im.gen im.digest ∈ d.ckptMessages dev true im :=
  List.mem_append_left _ (List.mem_append_right _ (List.mem_map.2 ⟨p, hp, rfl⟩))

theorem Device.key_mem_messages (h : d.owner.sess = true) : .ckptKey dev im.wrapKey ∈ d.ckptMessages dev true im :=
  List.mem_append_right _ (by simp [h])

end

/-! ## The end -/

/-- The device of an ended checkpoint: the image joins the newest complete one, or the slot is lost. -/
def Device.ckptEnded (d : Device) (done : Bool) (im : Image) : Device :=
  { d with ckpt := none, images := if done then im :: d.images.take 1 else d.images.take 1 }

theorem State.finishCkpt_eq {s : State} {dev asid a uid tok : Nat} (h : s.ckptSaved dev = some (asid, a, uid, tok))
    (done : Bool) :
    let im := s.fresh.2.image dev asid a uid tok s.tok
    s.finishCkpt dev done =
      ((s.fresh.2.setDev dev ((s.devAt dev).ckptEnded done im)).sendAll ((s.devAt dev).ckptMessages dev done im)).resumeCkpt
        dev asid a uid tok (if done then 0 else 3) := by
  intro im
  rw [State.finishCkpt, h, State.sendAll_ckptMessages]
  rfl

/-- The unit's wake-up changes neither the images nor what was sent. -/
theorem State.finishCkpt_spec {s : State} {dev asid a uid tok : Nat} (h : s.ckptSaved dev = some (asid, a, uid, tok))
    (done : Bool) :
    let im := s.fresh.2.image dev asid a uid tok s.tok
    let t := s.finishCkpt dev done
    t.outbox = s.outbox ++ (s.devAt dev).ckptMessages dev done im ∧
      (t.devAt dev).images = ((s.devAt dev).ckptEnded done im).images ∧ (t.devAt dev).ckpt = none := by
  intro im t
  have ended (x : Device) (l : List OutMsg) : ((s.fresh.2.setDev dev x).sendAll l).devAt dev = x :=
    State.devAt_setDev_same s.fresh.2 dev x
  have keeps := (State.KeepsImages.refl
    ((s.fresh.2.setDev dev ((s.devAt dev).ckptEnded done im)).sendAll ((s.devAt dev).ckptMessages dev done im))).resumeCkpt
      (dev := dev) (asid := asid) (agent := a) (uid := uid) (tok := tok) (status := if done then 0 else 3)
  rw [show t = _ from State.finishCkpt_eq h done]
  exact ⟨keeps.outbox, (keeps.images dev).trans (by rw [ended]), (keeps.ckpt dev).trans (by rw [ended]; rfl)⟩

theorem State.finishCkpt_of_none {s : State} {dev : Nat} (h : s.ckptSaved dev = none) (done : Bool) :
    s.finishCkpt dev done = s := by
  rw [State.finishCkpt, h]

theorem exec_checkpointComplete {s : State} {dev : Nat} {done : Bool} (h : s.msg = .checkpointComplete dev done) :
    exec .checkpointComplete s = .next (s.finishCkpt dev done) := by
  show execCheckpointComplete s = _
  exact event_eq (by rw [h])

end Sys2Proof.Machine
end

section
/-! Device events: the parts of the obligation, and its settlement. -/
namespace Sys2Proof.Machine

/-! ## Walks and logs -/

theorem walk_follows_entries : ∀ (s : State) (die dev asid va a2 a3 a4 : Nat),
    let root := nbits (s.ctxAt dev asid).ptroot.toNat 47 12 * 4096
    let place (a i : Nat) : Nat := hloc s.mode dev (a + 8 * i)
    let entry (a i : Nat) : Nat := s.readAt noCore die (place a i) 8
    let e1 := entry root (nbits va 47 39)
    let e2 := entry a2 (nbits va 38 30)
    let e3 := entry a3 (nbits va 29 21)
    let e4 := entry a4 (nbits va 20 16)
    let points (e a align : Nat) : Prop := pteV e = true ∧ e.testBit 48 = false ∧ pteLeaf e = false ∧ nbits e 61 49 = 0 ∧
      pteAddr e = a ∧ a % align = 0
    root + 4096 ≤ hbmSize s.mode →
    (pteV e1 = false → s.walk die dev asid va = none) ∧
    (points e1 a2 4096 → a2 + 4096 ≤ hbmSize s.mode → points e2 a3 4096 → a3 + 4096 ≤ hbmSize s.mode →
      points e3 a4 256 → a4 + 256 ≤ hbmSize s.mode →
      (pteV e4 = false ∨ e4.testBit 48 = true ∨ pteLeaf e4 = false → s.walk die dev asid va = none) ∧
      (pteV e4 = true → e4.testBit 48 = false → pteLeaf e4 = true → pteLoc e4 = false →
        (pteAddr e4 % 65536 = 0 → pteAddr e4 + 65536 ≤ hbmSize s.mode →
          s.walk die dev asid va = some ⟨place a4 (nbits va 20 16), e4, 4⟩) ∧
        (pteAddr e4 % 65536 ≠ 0 → s.walk die dev asid va = none))) := by
  intro s die dev asid va a2 a3 a4 root place entry e1 e2 e3 e4 points hroot
  have start : s.walk die dev asid va = s.walkFrom die dev va 4 1 root := s.walk_eq hroot die va
  refine ⟨fun hv => start.trans (State.walkFrom_invalid (.inl hv)), fun h1 hr2 h2 hr3 h3 hr4 => ?_⟩
  have last : s.walk die dev asid va = s.walkFrom die dev va 1 4 a4 :=
    calc s.walk die dev asid va = s.walkFrom die dev va 4 1 root := start
      _ = s.walkFrom die dev va 3 2 a2 := State.walkFrom_table (by decide) h1 (fun _ => rfl) (by simpa using hr2)
      _ = s.walkFrom die dev va 2 3 a3 := State.walkFrom_table (by decide) h2 (fun _ => rfl) (by simpa using hr3)
      _ = s.walkFrom die dev va 1 4 a4 := State.walkFrom_table (by decide) h3 (by simp) (by simpa using hr4)
  rw [last]
  refine ⟨?_, fun hv hbit hleaf hloc => ?_⟩
  · rintro (h | h | h)
    · exact State.walkFrom_invalid (.inl h)
    · exact State.walkFrom_invalid (.inr h)
    · exact State.walkFrom_noLeaf h
  · exact State.walkFrom_page rfl hv hbit hleaf hloc

theorem pageWalk_holds_leaf : ∀ (s : State) (core va : Nat), s.msg = .pageWalk core va →
    let asid := (s.coreAt core).asid
    let w := s.walk (dieOfCore core) (s.devOfCore core) asid va
    (2 ^ 48 ≤ va ∨ w = none → exec .pageWalk s = .next s) ∧
    ∀ x, va < 2 ^ 48 → w = some x → core ≠ noCore →
      ∃ t, exec .pageWalk s = .next t ∧ t.mem = s.mem ∧ (t.coreAt core).tlb.length ≤ 96 ∧
        (t.tlb2Of core).length ≤ 2048 ∧
        ∀ l ∈ [(t.coreAt core).tlb, t.tlb2Of core],
          l.head? = some { asid := asid, va := va / pageSize x.lv * pageSize x.lv, size := pageSize x.lv,
                           leaf := BitVec.ofNat 64 x.e } := by
  intro s core va hm asid w
  refine ⟨exec_pageWalk_of_none hm, fun x hva hx hcore => ⟨_, exec_pageWalk_of_some hm hva hx, ?_, ?_, ?_, ?_⟩⟩
  · rw [State.hold_mem, State.touchWalk_mem]
  · rw [State.tlb_hold _ hcore]; exact holdIn_length _ _ _
  · rw [State.tlb2Of_hold _ hcore]; exact holdIn_length _ _ _
  · simp only [State.tlb_hold _ hcore, State.tlb2Of_hold _ hcore, List.forall_mem_cons, List.not_mem_nil, false_implies,
      implies_true, and_true]
    exact ⟨holdIn_head _ (by decide) _, holdIn_head _ (by decide) _⟩

theorem exec_logApply (s : State) (die : Nat) (h : s.msg = .logApply die) : exec .logApply s = .next (s.applyLog die) := by
  show execLogApply s = _
  exact event_eq (by rw [h])

/-! ## Migrations and gust lists -/

theorem migration_by_lines : ∀ (s : State) (dev k : Nat),
    let d := s.devAt dev
    let found := d.migs.find? fun m => decide (m.idx = k)
    (found = none → (s.msg = .copierLineCopy dev k → exec .copierLineCopy s = .next s) ∧
      (s.msg = .migrationRecordFree dev k → exec .migrationRecordFree s = .next s)) ∧
    ∀ m, found = some m →
      let lines := m.size / 256
      let put (x : Mig) : List Mig := d.migs.map fun n => if n.idx = k then x else n
      (s.msg = .copierLineCopy dev k →
        (2 ≤ m.st ∨ (m.st = 0 ∧ lines ≤ m.copied) → exec .copierLineCopy s = .next s) ∧
        (m.st = 1 → lines ≤ m.copied → m.dirty = [] →
          exec .copierLineCopy s = .next (s.setDev dev { d with migs := put { m with st := 2 } })) ∧
        (∀ line, (m.st ≤ 1 ∧ m.copied < lines ∧ line = m.copied) ∨
            (m.st = 1 ∧ lines ≤ m.copied ∧ m.dirty.head? = some line ∧ line < lines) →
          s.clean → m.srcLoc = true → m.src + m.size ≤ 2 ^ 33 → m.dst + m.size ≤ 2 ^ 33 → m.dstKey < 64 →
          (m.src + m.size ≤ m.dst ∨ m.dst + m.size ≤ m.src) → (∀ p, m.dst ≤ p → p < m.dst + m.size → s.migOf p = none) →
          ∃ t x, exec .copierLineCopy s = .next t ∧ s.onlyAt t [(m.dst + 256 * line, 256)] ∧
            t.rdBytes (m.dst + 256 * line) 256 = s.rdBytes (m.src + 256 * line) 256 ∧ (t.devAt dev).migs = put x ∧
            x.copied = (if m.copied < lines then m.copied + 1 else m.copied) ∧
            x.dirty = (if m.copied < lines then m.dirty else m.dirty.tail) ∧
            x.st = (if m.st = 1 ∧ lines ≤ x.copied ∧ x.dirty = [] then 2 else m.st))) ∧
      (s.msg = .migrationRecordFree dev k →
        let free : Prop := m.st = 3 ∧ (∀ j ∈ diesOfDev s.mode dev, seqBelow (s.dieAt j).gen m.seq = false) ∧
          s.olderAccesses dev m.seq 4096 = []
        (¬free → exec .migrationRecordFree s = .next s) ∧
        (free → exec .migrationRecordFree s =
          .next (s.setDev dev { d with migs := d.migs.filter fun n => decide (n.idx ≠ k) }))) := by
  intro s dev k d found
  refine ⟨fun hnone => ⟨fun h => exec_copierLineCopy_of_none h hnone, fun h => ?_⟩, fun m hm => ?_⟩
  · rw [exec_migrationRecordFree h, show d.migIdx k = none from hnone]
  intro lines put
  have hidx : m.idx = k := Device.idx_of_migIdx hm
  refine ⟨fun h => ⟨?_, ?_, ?_⟩, fun h => ⟨?_, ?_⟩⟩
  · intro hst
    exact exec_copierLineCopy_of_idle h hm (m.copierDue_eq_false hst)
  · intro hst hall hdirty
    exact (exec_copierLineCopy_of_ready h hm hst hall hdirty).trans
      (congrArg (fun x => Host.Outcome.next (s.setDev dev x)) (Device.migs_putMig d hidx))
  · intro line hline hclean hloc hsrc hdst _ hapart hfree
    have hnext : m.isNext line := hline
    have hle := m.lt_of_isNext hnext
    have filled := State.copyLine_filled hclean hloc (line := line) (by omega) (by omega) (by omega)
      (fun p hp hp' => hfree p (by omega) (by omega)) dev
    obtain ⟨m', hm', hidx', hst, hsize, hcopied, hdirty⟩ := Mig.nextLine_of_isNext hnext
    have steps := exec_copierLineCopy_of_line h hm (m.copierDue_of_isNext hnext) hm'
    generalize s.copyLine dev m line = u at filled steps
    refine ⟨_, m'.readied, steps, filled.onlyAt (State.length_rdBytes _ _ _),
      filled.rdBytes_same (State.length_rdBytes _ _ _), ?_, m'.readied_copied.trans hcopied, m'.readied_dirty.trans hdirty, ?_⟩
    · rw [State.devAt_setDev_same, State.devAt_of_devs filled.devs,
        Device.migs_putMig _ (m'.readied_idx.trans (hidx'.trans hidx))]
    · rw [m'.readied_st, m'.readied_copied, m'.readied_dirty, hst, hsize]
  · intro hfree
    rw [exec_migrationRecordFree h, show d.migIdx k = some m from hm]
    exact congrArg _ (if_neg (by rw [State.migFree_iff]; exact hfree))
  · intro hfree
    rw [exec_migrationRecordFree h, show d.migIdx k = some m from hm]
    exact congrArg _ (if_pos ((s.migFree_iff dev m).2 hfree))

theorem gustList_by_steps : ∀ (s : State) (stack : Nat), s.msg = .gustListPublish stack →
    let per := 2 * diesPer s.mode
    let dev := stack / per
    let g := FMap.get {} (s.devAt dev).gusts (stack % per)
    let a := s.lvAt dev g.area
    let n := (g.interval + 1) % 2 ^ 32
    (g.enabled = false ∨ s.lvFrozen dev g.area = true → exec .gustListPublish s = .next s) ∧
    -- the four steps of a publication
    (g.enabled = true → s.lvFrozen dev g.area = false → ∃ t, exec .gustListPublish s = .next t ∧
      let h := FMap.get {} (t.devAt dev).gusts (stack % per)
      (g.stage = 0 → h = { g with stage := 1 } ∧ t.rdN a 4 = 0xFFFFFFFF ∧ s.onlyAt t [(a, 4)]) ∧
      (g.stage = 1 → h = { g with stage := 2 } ∧ s.onlyAt t [(a + 4, 572)] ∧ t.rdN (a + 4) 4 = g.n % 2 ^ 32 ∧
        (∀ i < 56, t.rdByte (a + 8 + i) = 0) ∧ ∃ es, List.Perm es g.cand ∧
        es.Pairwise (fun p q => q.2 < p.2 ∨ (p.2 = q.2 ∧ p.1 ≤ q.1)) ∧
        ∀ i < 64, t.rdN (a + 64 + 8 * i) 8 = match es[i]? with
          | some p => (p.1 % 2 ^ 32 + p.2 * 2 ^ 32) % 2 ^ 64
          | none => 0xFFFFFFFF) ∧
      (g.stage = 2 → h = { g with stage := 3, interval := n } ∧ t.rdN a 4 = n ∧ s.onlyAt t [(a, 4)]) ∧
      (3 ≤ g.stage → h = { g with stage := 0, counters := [], cand := [] } ∧ t.mem = s.mem)) := by
  intro s stack hm per dev g a n
  obtain ⟨idle, step⟩ := exec_gustListPublish (g := g) hm rfl rfl rfl
  refine ⟨idle, fun hen hfr => ⟨_, step hen hfr, State.gustStep_first_spec, fun h => ?_, State.gustStep_number_spec,
    State.gustStep_clear_spec⟩⟩
  obtain ⟨only, param, zeros, words⟩ := State.gustStep_body_read (s := s) (dev := dev) (tile := stack % per) h
  refine ⟨(State.gustStep_body_spec h).1, only, param, zeros, g.listed, g.listed_perm, g.listed_pairwise,
    fun i hi => (words i hi).trans ?_⟩
  unfold gustWord
  cases g.listed[i]? <;> rfl

theorem count_raises_counters : ∀ (g : Gust) (f : Nat), f < 2 ^ 32 →
    let mul : List Nat := [0x9E3779B1, 0xC2B2AE3D, 0x6F4A7C15, 0xB5297A4D]
    let counter (r : Nat) : Nat := 4096 * r + f * mul.getD r 0 % 2 ^ 32 / 2 ^ 20
    let h := g.count f
    (∀ k, FMap.get 0 h.counters k =
      if ∃ r < 4, k = counter r then min (FMap.get 0 g.counters k + 1) 0xFFFF else FMap.get 0 g.counters k) ∧
    ∃ est, (∃ r < 4, est = FMap.get 0 h.counters (counter r)) ∧ (∀ r < 4, est ≤ FMap.get 0 h.counters (counter r)) ∧
      ((∃ p ∈ g.cand, p.1 = f) → h.cand = g.cand.map fun p => if p.1 = f then (f, est) else p) ∧
      ((∀ p ∈ g.cand, p.1 ≠ f) →
        (g.cand.length < 64 → h.cand = g.cand ++ [(f, est)]) ∧
        (64 ≤ g.cand.length → ∃ l ∈ g.cand, (∀ p ∈ g.cand, l.2 < p.2 ∨ (l.2 = p.2 ∧ p.1 ≤ l.1)) ∧
          h.cand = if l.2 < est then (g.cand.filter fun p => decide (p.1 ≠ l.1)) ++ [(f, est)] else g.cand)) := by
  intro g f hf mul counter h
  have key (r : Nat) : counter r = sketchKey f r := by rw [sketchKey, sketchIdx_eq hf]; rfl
  simp only [key]
  exact ⟨g.get_count_counters f, g.estimate f, (g.estimate_spec f).1, (g.estimate_spec f).2, Gust.cand_count_of_mem,
    fun new => ⟨Gust.cand_count_of_room new, Gust.cand_count_of_full new⟩⟩

/-! ## Contexts and checkpoints -/

theorem contextSwitch_clears_core : ∀ (s : State) (core asid : Nat), s.msg = .contextSwitch core asid →
    let c := s.coreAt core
    let ok : Prop := c.asid ≠ asid ∧ core ∈ (s.ctxAt (s.devOfCore core) asid).cores ∧
      (∀ p ∈ s.units, p.2.core = core → p.2.started = true → p.2.away = true) ∧ ∀ k ∈ c.copies, k.status = 2
    (¬ok → exec .contextSwitch s = .next s) ∧
    (ok → ∃ t, exec .contextSwitch s = .next t ∧
      (∀ a, t.rdByte a = if iloc core 0 ≤ a ∧ a < iloc core 0 + 2 ^ 18 then 0 else s.rdByte a) ∧
      (let e := t.coreAt core
       e.asid = asid ∧ e.opb = [] ∧ e.wb = [] ∧ e.acc = [] ∧ e.recs = [] ∧ e.baton = none ∧ e.tlb = [] ∧ e.binds = [] ∧
       (∀ k ∈ e.copies, k.asid = asid ∧ k ∈ c.shelved) ∧ (∀ k ∈ c.copies, k ∈ e.shelved) ∧ e.retired = c.retired) ∧
      ∀ p ∈ t.groups, coreOf p.1 ≠ core) := by
  intro s core asid hm c ok
  have step := exec_contextSwitch hm
  refine ⟨fun h => step.trans (congrArg _ (if_neg fun hok => h ((s.switchOk_iff core asid).1 hok))), fun h =>
    ⟨_, step.trans (congrArg _ (if_pos ((s.switchOk_iff core asid).2 h))), s.rdByte_switchCore core asid, ?_,
      State.groups_switchCore⟩⟩
  obtain ⟨hasid, hopb, hwb, hacc, hrecs, hbaton, htlb, hbinds, hcopies, hshelved, hretired⟩ := s.coreAt_switchCore core asid
  refine ⟨hasid, hopb, hwb, hacc, hrecs, hbaton, htlb, hbinds, fun k hk => ?_, fun k hk => ?_, hretired⟩
  · rw [hcopies] at hk
    exact ⟨of_decide_eq_true (List.mem_filter.1 hk).2, (List.mem_filter.1 hk).1⟩
  · rw [hshelved]
    exact List.mem_append_right _ hk

theorem checkpointStart_saves_unit : ∀ (s : State) (dev : Nat), s.msg = .checkpointStart dev →
    (s.ckptAgent dev = none → exec .checkpointStart s = .next s) ∧
    ∀ a va tok, s.ckptAgent dev = some a → (s.grpOf a).ckptWait = some (va, tok) →
      let uid := (s.grpOf a).unit
      let asid := (s.unitAt uid).asid
      let go : Prop := (s.devAt dev).ckpt = none ∧ s.ckptQuiet dev uid = true ∧ (s.ctxAt dev asid).busy = false
      (¬go → exec .checkpointStart s = .next s) ∧
      (go → ∃ t, exec .checkpointStart s = .next t ∧ t.mem = s.mem ∧ (t.devAt dev).ckpt = some (asid, a, uid) ∧
        (t.unitAt uid).preempting = true ∧ ∃ v ∈ (t.ctxAt dev asid).saved, v.uid = uid ∧ v.area = va) := by
  intro s dev hm
  refine ⟨exec_checkpointStart_of_none hm, fun a va tok ha hw => ?_⟩
  intro uid asid go
  have step := exec_checkpointStart_of_some hm ha hw
  have cond : ((s.devAt dev).ckpt.isNone && s.ckptQuiet dev uid && !(s.ctxAt dev asid).busy) = true ↔ go := by
    simp [go, and_assoc]
  refine ⟨fun h => step.trans (congrArg _ (if_neg (mt cond.1 h))), fun h =>
    ⟨_, step.trans (congrArg _ (if_pos (cond.2 h))), ?_⟩⟩
  obtain ⟨mem, devs, marked, saved⟩ :=
    (s.setDev dev { s.devAt dev with ckpt := some (asid, a, uid) }).beginSave_spec dev asid uid va
  exact ⟨mem, by rw [State.devAt_of_devs devs, State.devAt_setDev_same], marked, saved⟩

theorem checkpointComplete_stores_image : ∀ (s : State) (dev : Nat) (done : Bool), s.msg = .checkpointComplete dev done →
    (s.ckptSaved dev = none → exec .checkpointComplete s = .next s) ∧
    (s.ckptSaved dev ≠ none → ∃ t im, exec .checkpointComplete s = .next t ∧ (t.devAt dev).ckpt = none ∧
      im.mode = s.mode ∧ im.dev = dev ∧ (∀ f, f ∈ im.frames ↔ f ∈ s.mappedFrames dev) ∧ im.frames.Pairwise (· < ·) ∧
      im.mem = (s.mem.filter fun c => imagePlace s.mode dev im.frames c.1) ∧ im.keyInst = (s.devAt dev).keyInst ∧
      im.slot = (match (s.devAt dev).images with | [] => 0 | old :: _ => 1 - old.slot) ∧
      im.peers = (s.devAt dev).tier.length ∧
      -- each peer of the tier is sent its part
      (∀ (q : Nat) p, (s.devAt dev).tier[q]? = some p → .ckpt dev p.1 q im ∈ t.outbox) ∧
      (done = false → (t.devAt dev).images = (s.devAt dev).images.take 1) ∧
      (done = true → (t.devAt dev).images = im :: (s.devAt dev).images.take 1 ∧
        (∀ p ∈ (s.devAt dev).tier, .trailer dev p.1 im.slot im.gen im.digest ∈ t.outbox) ∧
        ((s.devAt dev).owner.sess = true → .ckptKey dev im.wrapKey ∈ t.outbox))) := by
  intro s dev done hm
  have step := exec_checkpointComplete hm
  refine ⟨fun h => by rw [step, State.finishCkpt_of_none h], fun h => ?_⟩
  obtain ⟨⟨asid, a, uid, tok⟩, hs⟩ := Option.ne_none_iff_exists'.1 h
  obtain ⟨sent, images, ckpt⟩ := State.finishCkpt_spec hs done
  have inOutbox {m : OutMsg} (h : m ∈ (s.devAt dev).ckptMessages dev done _) : m ∈ (s.finishCkpt dev done).outbox :=
    sent ▸ List.mem_append_right _ h
  refine ⟨_, s.fresh.2.image dev asid a uid tok s.tok, step, ckpt, rfl, rfl,
    fun f => (State.mem_frames_image _ _ _ _ _ _ _ f).trans (by rw [State.mappedFrames_fresh]),
    State.frames_image_pairwise _ _ _ _ _ _ _, rfl, rfl, State.slot_image _ _ _ _ _ _ _, rfl,
    fun q p hp => inOutbox (Device.ckpt_mem_messages hp), ?_, ?_⟩
  · rintro rfl
    exact images
  · rintro rfl
    exact ⟨images, fun p hp => inOutbox (Device.trailer_mem_messages hp), fun h => inOutbox (Device.key_mem_messages h)⟩

theorem image_bytes_and_parity : ∀ im : Image,
    let dies := diesPer im.mode
    let first := firstDie im.mode im.dev
    let sram := 2 ^ 26 + dies * 2 ^ 31
    let queue := sram + dies * 2 ^ 22
    let at' (a : Nat) : Byte := FMap.get 0 im.mem a
    (∀ i, 2 ^ 26 ≤ i → i < sram → im.byte i = at' (first * 2 ^ 31 + (i - 2 ^ 26))) ∧
    (∀ i, sram ≤ i → i < queue → im.byte i = at' (qloc first (i - sram))) ∧
    (∀ k f b, im.frames[k]? = some f → b < 65536 →
      im.byte (queue + 65536 * k + b) = at' (hloc im.mode im.dev (65536 * f + b))) ∧
    (2 ≤ im.peers → ∀ q S b, q < im.peers →
      let p := im.peers
      let k := if q < S % p then q else q - 1
      let u := S * (p - 1) + k
      im.rebuilt q S b = im.peerByte q S b ∧
        (q ≠ S % p → im.peerByte q S b = if u < im.units1M then im.byte (2 ^ 20 * u + b) else 0)) := by
  intro im dies first sram queue at'
  refine ⟨fun i h h' => Image.byte_of_place (im.placeAt_sram h h'),
    fun i h h' => Image.byte_of_place (im.placeAt_queue h h'),
    fun k f b hf hb => Image.byte_of_place (im.placeAt_frame hf hb), fun h q S b hq => ?_⟩
  intro p k u
  refine ⟨Image.rebuilt_eq S b h hq, fun hne => (Image.peerByte_eq S b h hq hne).trans ?_⟩
  rw [Image.unitByte, pow2, Nat.one_shiftLeft, Nat.mul_comm _ (2 ^ 20)]

/-! ## Boot and clock -/

theorem boot_releases_dies : ∀ (s : State) (images : List FwImage) (i : Instr),
    (i = .powerOn ∧ s.msg = .powerOn images) ∨ (i = .packageReset ∧ s.msg = .packageReset images) →
    let good (x : FwImage) : Prop := x.sigOk = true ∧ x.minimum ≤ x.version
    ∃ t, exec i s = .next t ∧ t.mem = [] ∧ t.tags = [] ∧ t.groups = [] ∧ t.units = [] ∧ t.ctxs = [] ∧ t.inbox = s.inbox ∧
      (∀ d, (t.devAt d).owner.sess = false ∧ (t.devAt d).images = (s.devAt d).images) ∧
      ((∀ x ∈ images.take 4, good x) → 4 ≤ images.length → t.pkg.released = 15 ∧ t.pkg.failing = none) ∧
      ∀ k x, k < 4 → images[k]? = some x → ¬good x → (∀ y ∈ images.take k, good y) →
        t.pkg.failing = some k ∧ t.pkg.released.toNat = 2 ^ k - 1 := by
  intro s images i hi good
  refine ⟨_, exec_boot hi, rfl, rfl, rfl, rfl, rfl, rfl, fun d => ?_, fun hall hlen => ?_, fun k x hk hx hbad hgood => ?_⟩
  · rw [devAt_boot]
    exact ⟨rfl, rfl⟩
  · exact Pkg.bootFrom_all rfl hlen hall rfl
  · exact Pkg.bootFrom_failing rfl hk hx hbad hgood

theorem clock_moves : ∀ s : State,
    let f (n : Nat) : State := s.setPkg { s.pkg with clock := n }
    (s.msg = .clockLower → exec .clockLower s = .next (if s.pkg.clock < 620 then s else f (s.pkg.clock - 20))) ∧
    (s.msg = .clockRaise → exec .clockRaise s = .next (if 920 < s.pkg.clock then s else f (s.pkg.clock + 20))) :=
  fun _ => ⟨exec_clockLower, exec_clockRaise⟩

/-- Settles O50: each of its parts is a theorem above. -/
theorem deviceEvents : Obligations.DeviceEvents :=
  ⟨walk_follows_entries, pageWalk_holds_leaf, exec_logApply, migration_by_lines, gustList_by_steps,
    count_raises_counters, contextSwitch_clears_core, checkpointStart_saves_unit,
    checkpointComplete_stores_image, image_bytes_and_parity, boot_releases_dies, clock_moves⟩

end Sys2Proof.Machine
end

section
/-! The state that reset leaves. -/
namespace Sys2Proof.Machine

/-- Every control register of a context that runs on no core holds the value of its table. -/
theorem csr_reset (dev asid : Nat) : ∀ n ∈ csrNumbers, State.reset.csr dev asid n =
    if n = 0 then asid else if n = 0x40 then 1 else if n = 0xA0 then 16666667 else 0 := by
  simp [csrNumbers, State.csr, State.reset, FMap.get, State.ctxAt, State.devAt, State.dieAt, State.pendingFaults, bitsOf]

/-- Settles O60: its parts hold by the reset state's definition, and its table register by register. -/
theorem resetState : Obligations.ResetState :=
  ⟨State.reset_wf, fun _ => ⟨rfl, rfl⟩, rfl, rfl, rfl, rfl, rfl, fun _ => rfl, csr_reset⟩

end Sys2Proof.Machine
end

section
/-! The encoder and the decoder agree (R57, R64, R73). -/
namespace Sys2Proof

/-- An instruction has one word, in format M two (R62), and a row without a word none. -/
theorem length_encode_le (i : Instr) : (encode i).length ≤ 2 := by
  cases i <;> exact Nat.le_of_ble_eq_true rfl

/-- The decoder reads back every instruction; a row without a word has nothing to read. -/
theorem decode_encode (i : Instr) : Laws.RoundTrip.Statement i := by
  cases i with
  | modPrefix => exact Laws.RoundTrip.modPrefix _ _ _ _ _ _ _ _ _
  | br => exact Laws.RoundTrip.br _ _ _
  | call => exact Laws.RoundTrip.call _ _ _
  | jr => exact Laws.RoundTrip.jr _
  | jf => exact Laws.RoundTrip.jf _ _
  | iadd => exact Laws.RoundTrip.iadd _ _ _ _
  | isub => exact Laws.RoundTrip.isub _ _ _ _
  | imul => exact Laws.RoundTrip.imul _ _ _ _
  | imulhs => exact Laws.RoundTrip.imulhs _ _ _ _
  | imulhu => exact Laws.RoundTrip.imulhu _ _ _ _
  | imad => exact Laws.RoundTrip.imad _ _ _ _
  | imin => exact Laws.RoundTrip.imin _ _ _ _
  | imax => exact Laws.RoundTrip.imax _ _ _ _
  | umin => exact Laws.RoundTrip.umin _ _ _ _
  | umax => exact Laws.RoundTrip.umax _ _ _ _
  | and => exact Laws.RoundTrip.and _ _ _ _
  | or => exact Laws.RoundTrip.or _ _ _ _
  | xor => exact Laws.RoundTrip.xor _ _ _ _
  | andn => exact Laws.RoundTrip.andn _ _ _ _
  | shl => exact Laws.RoundTrip.shl _ _ _ _
  | shr => exact Laws.RoundTrip.shr _ _ _ _
  | sar => exact Laws.RoundTrip.sar _ _ _ _
  | bfe => exact Laws.RoundTrip.bfe _ _ _ _
  | bfi => exact Laws.RoundTrip.bfi _ _ _ _
  | sel => exact Laws.RoundTrip.sel _ _ _ _
  | iadd64 => exact Laws.RoundTrip.iadd64 _ _ _ _
  | ieq => exact Laws.RoundTrip.ieq _ _ _ _
  | ine => exact Laws.RoundTrip.ine _ _ _ _
  | ilt => exact Laws.RoundTrip.ilt _ _ _ _
  | ile => exact Laws.RoundTrip.ile _ _ _ _
  | ult => exact Laws.RoundTrip.ult _ _ _ _
  | ule => exact Laws.RoundTrip.ule _ _ _ _
  | mov => exact Laws.RoundTrip.mov _ _ _
  | not => exact Laws.RoundTrip.not _ _ _
  | clz => exact Laws.RoundTrip.clz _ _ _
  | ctz => exact Laws.RoundTrip.ctz _ _ _
  | popc => exact Laws.RoundTrip.popc _ _ _
  | brev => exact Laws.RoundTrip.brev _ _ _
  | sext8 => exact Laws.RoundTrip.sext8 _ _ _
  | sext16 => exact Laws.RoundTrip.sext16 _ _ _
  | zext8 => exact Laws.RoundTrip.zext8 _ _ _
  | zext16 => exact Laws.RoundTrip.zext16 _ _ _
  | pkp => exact Laws.RoundTrip.pkp _ _ _
  | upkp => exact Laws.RoundTrip.upkp _ _ _
  | fadd => exact Laws.RoundTrip.fadd _ _ _ _
  | fsub => exact Laws.RoundTrip.fsub _ _ _ _
  | fmul => exact Laws.RoundTrip.fmul _ _ _ _
  | ffma => exact Laws.RoundTrip.ffma _ _ _ _
  | fmin => exact Laws.RoundTrip.fmin _ _ _ _
  | fmax => exact Laws.RoundTrip.fmax _ _ _ _
  | feq => exact Laws.RoundTrip.feq _ _ _ _
  | fne => exact Laws.RoundTrip.fne _ _ _ _
  | flt => exact Laws.RoundTrip.flt _ _ _ _
  | fle => exact Laws.RoundTrip.fle _ _ _ _
  | funo => exact Laws.RoundTrip.funo _ _ _ _
  | frcp => exact Laws.RoundTrip.frcp _ _ _
  | frsq => exact Laws.RoundTrip.frsq _ _ _
  | fsqrt => exact Laws.RoundTrip.fsqrt _ _ _
  | fex2 => exact Laws.RoundTrip.fex2 _ _ _
  | flg2 => exact Laws.RoundTrip.flg2 _ _ _
  | fsin => exact Laws.RoundTrip.fsin _ _ _
  | fcos => exact Laws.RoundTrip.fcos _ _ _
  | ffrac => exact Laws.RoundTrip.ffrac _ _ _
  | fround => exact Laws.RoundTrip.fround _ _ _
  | fclass => exact Laws.RoundTrip.fclass _ _ _
  | cvtFromF32 => exact Laws.RoundTrip.cvtFromF32 _ _ _ _
  | cvtToF32 => exact Laws.RoundTrip.cvtToF32 _ _ _ _
  | hadd2 => exact Laws.RoundTrip.hadd2 _ _ _ _
  | hmul2 => exact Laws.RoundTrip.hmul2 _ _ _ _
  | hfma2 => exact Laws.RoundTrip.hfma2 _ _ _ _
  | badd2 => exact Laws.RoundTrip.badd2 _ _ _ _
  | bmul2 => exact Laws.RoundTrip.bmul2 _ _ _ _
  | bfma2 => exact Laws.RoundTrip.bfma2 _ _ _ _
  | hdot2 => exact Laws.RoundTrip.hdot2 _ _ _ _
  | bdot2 => exact Laws.RoundTrip.bdot2 _ _ _ _
  | shfl => exact Laws.RoundTrip.shfl _ _ _ _
  | shfx => exact Laws.RoundTrip.shfx _ _ _ _
  | ballot => exact Laws.RoundTrip.ballot _ _ _
  | any => exact Laws.RoundTrip.any _ _ _
  | all => exact Laws.RoundTrip.all _ _ _
  | radd => exact Laws.RoundTrip.radd _ _ _
  | rfadd => exact Laws.RoundTrip.rfadd _ _ _
  | rmin => exact Laws.RoundTrip.rmin _ _ _
  | rmax => exact Laws.RoundTrip.rmax _ _ _
  | rumin => exact Laws.RoundTrip.rumin _ _ _
  | rumax => exact Laws.RoundTrip.rumax _ _ _
  | rand => exact Laws.RoundTrip.rand _ _ _
  | ror => exact Laws.RoundTrip.ror _ _ _
  | pfadd => exact Laws.RoundTrip.pfadd _ _ _
  | pffadd => exact Laws.RoundTrip.pffadd _ _ _
  | bcst => exact Laws.RoundTrip.bcst _ _ _
  | laneFirst => exact Laws.RoundTrip.laneFirst _ _ _
  | movsRead => exact Laws.RoundTrip.movsRead _ _ _
  | movsWrite => exact Laws.RoundTrip.movsWrite _ _
  | ld => exact Laws.RoundTrip.ld _ _ _ _ _ _ _ _ _ _
  | st => exact Laws.RoundTrip.st _ _ _ _ _ _ _ _ _ _
  | atomAdd => exact Laws.RoundTrip.atomAdd _ _ _ _ _ _ _ _ _ _
  | atomFadd => exact Laws.RoundTrip.atomFadd _ _ _ _ _ _ _ _ _ _
  | atomMin => exact Laws.RoundTrip.atomMin _ _ _ _ _ _ _ _ _ _
  | atomMax => exact Laws.RoundTrip.atomMax _ _ _ _ _ _ _ _ _ _
  | atomUmin => exact Laws.RoundTrip.atomUmin _ _ _ _ _ _ _ _ _ _
  | atomUmax => exact Laws.RoundTrip.atomUmax _ _ _ _ _ _ _ _ _ _
  | atomAnd => exact Laws.RoundTrip.atomAnd _ _ _ _ _ _ _ _ _ _
  | atomOr => exact Laws.RoundTrip.atomOr _ _ _ _ _ _ _ _ _ _
  | atomXor => exact Laws.RoundTrip.atomXor _ _ _ _ _ _ _ _ _ _
  | atomXchg => exact Laws.RoundTrip.atomXchg _ _ _ _ _ _ _ _ _ _
  | atomCas => exact Laws.RoundTrip.atomCas _ _ _ _ _ _ _ _ _ _
  | atomFmin => exact Laws.RoundTrip.atomFmin _ _ _ _ _ _ _ _ _ _
  | atomFmax => exact Laws.RoundTrip.atomFmax _ _ _ _ _ _ _ _ _ _
  | atomHadd2 => exact Laws.RoundTrip.atomHadd2 _ _ _ _ _ _ _ _ _ _
  | atomBadd2 => exact Laws.RoundTrip.atomBadd2 _ _ _ _ _ _ _ _ _ _
  | ldtFf => exact Laws.RoundTrip.ldtFf _ _ _ _ _ _ _ _ _ _
  | ldtFe => exact Laws.RoundTrip.ldtFe _ _ _ _ _ _ _ _ _ _
  | ldtXx => exact Laws.RoundTrip.ldtXx _ _ _ _ _ _ _ _ _ _
  | sttEf => exact Laws.RoundTrip.sttEf _ _ _ _ _ _ _ _ _ _
  | sttXf => exact Laws.RoundTrip.sttXf _ _ _ _ _ _ _ _ _ _
  | sttXe => exact Laws.RoundTrip.sttXe _ _ _ _ _ _ _ _ _ _
  | ldtile => exact Laws.RoundTrip.ldtile _ _ _ _ _ _ _ _ _ _
  | sttile => exact Laws.RoundTrip.sttile _ _ _ _ _ _ _ _ _ _
  | prf => exact Laws.RoundTrip.prf _ _ _ _ _ _ _ _ _ _
  | fenceAcq => exact Laws.RoundTrip.fenceAcq _
  | fenceRel => exact Laws.RoundTrip.fenceRel _
  | fenceAr => exact Laws.RoundTrip.fenceAr _
  | sobjBind => exact Laws.RoundTrip.sobjBind _ _ _
  | sobjUnbind => exact Laws.RoundTrip.sobjUnbind _ _
  | sobjAcq => exact Laws.RoundTrip.sobjAcq _ _
  | sobjRel => exact Laws.RoundTrip.sobjRel _
  | sobjTryacq => exact Laws.RoundTrip.sobjTryacq _ _ _
  | waitc => exact Laws.RoundTrip.waitc _ _
  | queueInit => exact Laws.RoundTrip.queueInit _ _ _
  | queueAllow => exact Laws.RoundTrip.queueAllow _ _ _
  | queuePush => exact Laws.RoundTrip.queuePush _ _
  | queuePop => exact Laws.RoundTrip.queuePop _ _
  | queueTrypush => exact Laws.RoundTrip.queueTrypush _ _ _
  | queueTrypop => exact Laws.RoundTrip.queueTrypop _ _ _
  | abarInit => exact Laws.RoundTrip.abarInit _ _
  | abarExpect => exact Laws.RoundTrip.abarExpect _ _
  | abarArrive => exact Laws.RoundTrip.abarArrive _ _
  | abarWait => exact Laws.RoundTrip.abarWait _ _
  | abarArrwait => exact Laws.RoundTrip.abarArrwait _
  | verPubv => exact Laws.RoundTrip.verPubv _ _
  | verQver => exact Laws.RoundTrip.verQver _ _
  | cpyLin => exact Laws.RoundTrip.cpyLin _
  | cpyBlk2 => exact Laws.RoundTrip.cpyBlk2 _
  | cpyBlk3 => exact Laws.RoundTrip.cpyBlk3 _
  | cpyGath => exact Laws.RoundTrip.cpyGath _
  | cpyScat => exact Laws.RoundTrip.cpyScat _
  | cpyFill => exact Laws.RoundTrip.cpyFill _
  | cpyExp6 => exact Laws.RoundTrip.cpyExp6 _
  | cpyPak6 => exact Laws.RoundTrip.cpyPak6 _
  | cpyRedAdd => exact Laws.RoundTrip.cpyRedAdd _
  | cpyRedMin => exact Laws.RoundTrip.cpyRedMin _
  | cpyRedMax => exact Laws.RoundTrip.cpyRedMax _
  | cpyOpb => exact Laws.RoundTrip.cpyOpb _
  | cfetch => exact Laws.RoundTrip.cfetch _ _ _
  | collAred => exact Laws.RoundTrip.collAred _ _ _ _ _
  | collRed => exact Laws.RoundTrip.collRed _ _ _ _ _
  | collBcst => exact Laws.RoundTrip.collBcst _ _ _
  | collAgth => exact Laws.RoundTrip.collAgth _ _ _
  | collRsct => exact Laws.RoundTrip.collRsct _ _ _ _ _
  | collSend => exact Laws.RoundTrip.collSend _ _ _
  | collRecv => exact Laws.RoundTrip.collRecv _ _
  | collRset => exact Laws.RoundTrip.collRset _ _
  | cntDecl => exact Laws.RoundTrip.cntDecl _ _
  | cntTrig => exact Laws.RoundTrip.cntTrig _ _
  | dspInit => exact Laws.RoundTrip.dspInit _ _
  | dspNext => exact Laws.RoundTrip.dspNext _ _
  | presentPost => exact Laws.RoundTrip.presentPost _ _
  | mres => exact Laws.RoundTrip.mres _ _ _
  | mresRel => exact Laws.RoundTrip.mresRel _
  | mwld => exact Laws.RoundTrip.mwld _ _ _
  | mma => exact Laws.RoundTrip.mma _ _ _ _
  | mloop => exact Laws.RoundTrip.mloop _ _
  | mbat => exact Laws.RoundTrip.mbat _
  | mdrn => exact Laws.RoundTrip.mdrn _ _ _ _ _ _ _
  | mdrnAdd => exact Laws.RoundTrip.mdrnAdd _ _ _ _ _ _ _
  | mzero => exact Laws.RoundTrip.mzero _
  | mxq => exact Laws.RoundTrip.mxq _ _ _
  | hgCfg => exact Laws.RoundTrip.hgCfg _
  | hgEnc => exact Laws.RoundTrip.hgEnc _ _
  | hgGrad => exact Laws.RoundTrip.hgGrad _ _
  | rayTrace => exact Laws.RoundTrip.rayTrace _ _ _
  | rayOccl => exact Laws.RoundTrip.rayOccl _ _ _
  | rayTri => exact Laws.RoundTrip.rayTri _
  | rayBox => exact Laws.RoundTrip.rayBox _
  | trInit => exact Laws.RoundTrip.trInit _ _
  | trDesc => exact Laws.RoundTrip.trDesc _ _ _
  | trExp => exact Laws.RoundTrip.trExp _ _ _
  | trBack => exact Laws.RoundTrip.trBack _ _
  | trUndo => exact Laws.RoundTrip.trUndo _ _
  | trReuse => exact Laws.RoundTrip.trReuse _ _
  | trFree => exact Laws.RoundTrip.trFree _ _
  | trStat => exact Laws.RoundTrip.trStat _ _
  | taskSubmit => exact Laws.RoundTrip.taskSubmit _ _ _
  | taskDone => exact Laws.RoundTrip.taskDone _
  | taskDoneWait => exact Laws.RoundTrip.taskDoneWait _
  | lvlLaunch => exact Laws.RoundTrip.lvlLaunch _ _
  | lvlCancel => exact Laws.RoundTrip.lvlCancel _ _
  | lvlCtr => exact Laws.RoundTrip.lvlCtr _ _
  | lvlOpen => exact Laws.RoundTrip.lvlOpen _ _ _
  | lvlClose => exact Laws.RoundTrip.lvlClose _ _
  | lvlBudget => exact Laws.RoundTrip.lvlBudget _ _
  | schedSleep => exact Laws.RoundTrip.schedSleep _
  | xregAcq => exact Laws.RoundTrip.xregAcq _
  | xregRel => exact Laws.RoundTrip.xregRel _
  | sysTrap => exact Laws.RoundTrip.sysTrap _
  | sysSvc => exact Laws.RoundTrip.sysSvc _
  | sysBkpt => exact Laws.RoundTrip.sysBkpt _
  | sysSegw => exact Laws.RoundTrip.sysSegw _ _
  | sysCsrr => exact Laws.RoundTrip.sysCsrr _ _
  | sysCsrw => exact Laws.RoundTrip.sysCsrw _ _
  | sysCkpt => exact Laws.RoundTrip.sysCkpt _ _
  | ptInv => exact Laws.RoundTrip.ptInv _ _
  | ptMigb => exact Laws.RoundTrip.ptMigb _ _ _
  | ptMigf => exact Laws.RoundTrip.ptMigf _ _
  | ptMigd => exact Laws.RoundTrip.ptMigd _ _
  | ptHotl => exact Laws.RoundTrip.ptHotl _ _
  | nop => exact Laws.RoundTrip.nop
  | ret => exact Laws.RoundTrip.ret
  | exit => exact Laws.RoundTrip.exit
  | drain => exact Laws.RoundTrip.drain
  | mtake => exact Laws.RoundTrip.mtake
  | mgive => exact Laws.RoundTrip.mgive
  | schedYield => exact Laws.RoundTrip.schedYield
  | sysEret => exact Laws.RoundTrip.sysEret
  | sysHalt => exact Laws.RoundTrip.sysHalt
  | ptFence => exact Laws.RoundTrip.ptFence
  | ptApply => exact Laws.RoundTrip.ptApply
  | _ => exact fun h => absurd rfl h

/-- Settles O56: the instructions one by one, each by the lemma of its format. -/
theorem decodeOfEncode : Obligations.DecodeOfEncode :=
  fun i => ⟨length_encode_le i, fun rest h => decode_encode i h rest⟩

end Sys2Proof
end

section
/-! A step and what it runs (R37, R41, R383). -/
namespace Sys2Proof.Machine

/-! ## The beginning of a step -/

section
variable (s : State) (x : Arrived) (rest : List Arrived)

@[simp] theorem State.noteSeq_mem : (s.noteSeq x).mem = s.mem := by fun_cases State.noteSeq s x <;> rfl
@[simp] theorem State.noteSeq_groups : (s.noteSeq x).groups = s.groups := by fun_cases State.noteSeq s x <;> rfl
@[simp] theorem State.noteSeq_cores : (s.noteSeq x).cores = s.cores := by fun_cases State.noteSeq s x <;> rfl
@[simp] theorem State.noteSeq_waits : (s.noteSeq x).waits = s.waits := by fun_cases State.noteSeq s x <;> rfl

@[simp] theorem State.begin_mem : (s.begin x rest).mem = s.mem := s.noteSeq_mem x
@[simp] theorem State.begin_groups : (s.begin x rest).groups = s.groups := s.noteSeq_groups x
@[simp] theorem State.begin_cores : (s.begin x rest).cores = s.cores := s.noteSeq_cores x
@[simp] theorem State.begin_waits : (s.begin x rest).waits = s.waits := s.noteSeq_waits x
@[simp] theorem State.begin_msg : (s.begin x rest).msg = x.msg := rfl
@[simp] theorem State.begin_inbox : (s.begin x rest).inbox = rest := rfl

end

theorem State.begin_cur {s : State} {x : Arrived} {a : Nat} (h : x.msg = .agent a) (rest : List Arrived) :
    (s.begin x rest).cur = a := by
  simp [State.begin, h]

/-! ## The job of a step -/

theorem State.turnOf_fetch {s : State} {a : Nat} (h : s.fetches a (s.grpOf a) = true) : s.turnOf a = .run .clauseFetch := by
  simp [State.turnOf, h]

theorem State.turnOf_decoded {s : State} {a : Nat} {c : Clause} {i : Instr} {tail : List Word}
    (h : s.fetches a (s.grpOf a) = false) (hc : (s.grpOf a).clause = some c)
    (hd : decode (c.words.drop c.wi) = some (i, tail)) : s.turnOf a = .run i := by
  simp [State.turnOf, h, hc, hd]

theorem State.jobOf_agent {s : State} {m : Msg} {a : Nat} (h : m = .agent a) : s.jobOf m = s.turnOf a := by
  subst h; rfl

theorem State.jobOf_row {s : State} {m : Msg} {i : Instr} (ha : ∀ a, m ≠ .agent a) (h : m.instr = some i) :
    s.jobOf m = .run i := by
  unfold State.jobOf
  split
  · exact absurd rfl (ha _)
  · rw [h]

/-! ## The outcome of a step -/

theorem step_of_chosen {s : State} {x : Arrived} {rest : List Arrived} (h : s.chosen = some (x, rest)) :
    step s = runJob s x rest := by
  unfold step; rw [h]

theorem step_of_none {s : State} (h : s.chosen = none) : step s = .next s.idleStep := by
  unfold step; rw [h]

/-- A datagram that is not admitted is dropped. -/
theorem runJob_dropped {s : State} {x : Arrived} (h : s.admits x = false) (rest : List Arrived) :
    runJob s x rest = .next (s.begin x rest).idleStep := by
  simp [runJob, h]

/-- A step whose job is to run i ends as i ends. -/
theorem runJob_run {s : State} {x : Arrived} {rest : List Arrived} {i : Instr} (ha : s.admits x = true)
    (hj : (s.begin x rest).jobOf x.msg = .run i) :
    (∀ t, exec i (s.begin x rest) = .next t →
      runJob s x rest = .next (t.finishStep (s.begin x rest) x.msg (decide (i = .clauseFetch)))) ∧
    (∀ f, exec i (s.begin x rest) = .fault f → runJob s x rest = .fault f) ∧
    ∀ r, exec i (s.begin x rest) = .refused r → runJob s x rest = .refused r := by
  simp only [runJob, ha, if_true, hj]
  exact ⟨fun t h => by rw [h], fun f h => by rw [h], fun r h => by rw [h]⟩

/-- Settles O57: the job of the chosen subject is run on the state as the step begins on it. -/
theorem stepRunsDecoded : Obligations.StepRunsDecoded := by
  unfold Obligations.StepRunsDecoded
  intro s x rest hc
  extract_lets b ends
  have runs {i : Instr} (ha : s.admits x = true) (hj : b.jobOf x.msg = .run i) : ends i := by
    simpa only [ends, step_of_chosen hc] using runJob_run ha hj
  refine ⟨s.begin_mem x rest, s.begin_groups x rest, s.begin_cores x rest, rfl, rfl, fun ha => ?_, fun ha => ⟨?_, ?_⟩⟩
  · rw [step_of_chosen hc, runJob_dropped ha]
  · intro a hm
    have hj : b.jobOf x.msg = b.turnOf a := State.jobOf_agent hm
    exact ⟨State.begin_cur hm rest, fun hf => runs ha (hj.trans (State.turnOf_fetch hf)),
      fun c i tail hf hcl hd => runs ha (hj.trans (State.turnOf_decoded hf hcl hd))⟩
  · exact fun i hn hi => runs ha (State.jobOf_row hn hi)

/-! ## Count and time -/

theorem State.tick_count (s : State) : s.tick.count = s.count + 1 := rfl

theorem State.lt_tick_cycle (s : State) : s.cycle < s.tick.cycle := by
  simp only [State.tick]; omega

/-- A state that ends a step which counts once, and in which time passes, keeps the two facts of what leads to it. -/
theorem State.Keeps.tick {s t : State} (h : s.Keeps t) : t.tick.count = s.count + 1 ∧ s.cycle < t.tick.cycle :=
  ⟨by rw [State.tick_count, h.count], h.cycle ▸ t.lt_tick_cycle⟩

theorem State.Keeps.idleStep {s t : State} (h : s.Keeps t) : t.idleStep.count = s.count + 1 ∧ s.cycle < t.idleStep.cycle :=
  State.Keeps.tick (t := { t with waits := [] }) h.upd

/-- The end of a step counts it once, and passes time but after the first half of a pair (R60, R185). -/
theorem State.finishStep_time (s t : State) (m : Msg) (fetch : Bool) :
    let u := t.finishStep s m fetch
    u.count = t.count + 1 ∧ (t.cycle < u.cycle ∨ (u.cycle = t.cycle ∧ ∃ a, m = .agent a ∧ u.halfway a = true)) := by
  have ht : t.Keeps { t with waits := [] } := (State.Keeps.refl t).upd
  have timed {v : State} (h : t.Keeps v) : v.tick.count = t.count + 1 ∧ (t.cycle < v.tick.cycle ∨
      (v.tick.cycle = t.cycle ∧ ∃ a, m = .agent a ∧ v.tick.halfway a = true)) := ⟨h.tick.1, .inl h.tick.2⟩
  fun_cases State.finishStep t s m fetch with
  | case1 => exact timed (.refl t)
  | case2 | case5 => exact timed ht.settle.reage
  | case3 _ _ a _ hw => exact ⟨rfl, .inr ⟨rfl, a, rfl, (Bool.and_eq_true_iff.mp hw).1⟩⟩
  | case4 => exact timed ht.passOver.settle.reage

theorem powerOn_msg {s t : State} (h : exec .powerOn s = .next t) : ∃ images, s.msg = .powerOn images ∧ t = s.boot images := by
  change execPowerOn s = _ at h
  have hm := next_of_event h
  split at hm
  next images e => exact ⟨images, e, (Option.some.inj hm).symm⟩
  · cases hm

theorem packageReset_msg {s t : State} (h : exec .packageReset s = .next t) :
    ∃ images, s.msg = .packageReset images ∧ t = s.boot images := by
  change execPackageReset s = _ at h
  have hm := next_of_event h
  split at hm
  next images e => exact ⟨images, e, (Option.some.inj hm).symm⟩
  · cases hm

theorem event_ne_refused (s : State) (f : Msg → Option State) (r : Refusal) : event s f ≠ .refused r := by
  unfold event; split <;> simp

theorem exec_ne_refused (i : Instr) (s : State) (r : Refusal) : exec i s ≠ .refused r := by
  by_cases on : i = .powerOn
  · subst on; change execPowerOn s ≠ _; exact event_ne_refused s _ r
  by_cases reset : i = .packageReset
  · subst reset; change execPackageReset s ≠ _; exact event_ne_refused s _ r
  have ends := (State.Keeps.refl s).exec on reset
  intro h
  rw [h] at ends
  exact ends

/-- An instruction or event counts nothing and passes no time, but for a boot, which its message names. -/
theorem exec_time {i : Instr} {s t : State} (h : exec i s = .next t) :
    t.count = s.count ∧ (t.cycle = s.cycle ∨ ∃ images, s.msg = .powerOn images ∨ s.msg = .packageReset images) := by
  by_cases on : i = .powerOn
  · subst on
    obtain ⟨images, hm, rfl⟩ := powerOn_msg h
    exact ⟨rfl, .inr ⟨images, .inl hm⟩⟩
  by_cases reset : i = .packageReset
  · subst reset
    obtain ⟨images, hm, rfl⟩ := packageReset_msg h
    exact ⟨rfl, .inr ⟨images, .inr hm⟩⟩
  have ends := (State.Keeps.refl s).exec on reset
  rw [h] at ends
  exact ⟨State.Keeps.count ends, .inl (State.Keeps.cycle ends)⟩

/-- A step that goes on has passed time alone, or ends as what it ran left it. -/
theorem runJob_next {s t : State} {x : Arrived} {rest : List Arrived} (h : runJob s x rest = .next t) :
    t = (s.begin x rest).idleStep ∨
      ∃ i u fetch, exec i (s.begin x rest) = .next u ∧ t = u.finishStep (s.begin x rest) x.msg fetch := by
  unfold runJob at h
  extract_lets b at h
  split at h
  · exact .inl (Host.Outcome.next.inj h).symm
  · cases h
  · split at h
    next i _ _ u he => exact .inr ⟨i, u, _, he, (Host.Outcome.next.inj h).symm⟩
    · cases h
    · cases h

/-- What the step of a chosen subject counts, and when time passes in it. -/
theorem runJob_time {s t : State} {x : Arrived} {rest : List Arrived} (h : runJob s x rest = .next t) :
    t.count = s.count + 1 ∧ (s.cycle < t.cycle ∨ (t.cycle = s.cycle ∧ ∃ a, x.msg = .agent a ∧ t.halfway a = true) ∨
      ∃ images, x.msg = .powerOn images ∨ x.msg = .packageReset images) := by
  have begun : s.Keeps (s.begin x rest) := (State.Keeps.refl s).begin
  obtain rfl | ⟨i, u, fetch, he, rfl⟩ := runJob_next h
  · have idle := begun.idleStep
    exact ⟨idle.1, .inl idle.2⟩
  obtain ⟨hn, hc⟩ := exec_time he
  obtain ⟨fn, fc⟩ := State.finishStep_time (s.begin x rest) u x.msg fetch
  refine ⟨by rw [fn, hn, begun.count], ?_⟩
  obtain hc | boots := hc
  · rw [hc, begun.cycle] at fc
    exact fc.imp_right .inl
  · exact .inr (.inr boots)

theorem runJob_ne_refused (s : State) (x : Arrived) (rest : List Arrived) (r : Refusal) : runJob s x rest ≠ .refused r := by
  unfold runJob
  extract_lets b
  split
  · simp
  · simp
  next i _ =>
    have goes := exec_ne_refused i b
    split
    · simp
    · simp
    next r' he => exact absurd he (goes r')

/-- An agent whose instruction waits: the step adds it to those who wait, and time passes. -/
theorem step_blocked {s : State} {a : Nat} {x : Arrived} {rest : List Arrived} {i : Instr} (hc : s.chosen = some (x, rest))
    (hm : x.msg = .agent a) (hr : (s.begin x rest).turnOf a = .run i)
    (hw : exec i (s.begin x rest) = .next (s.begin x rest).blocked) : step s = .next (s.begin x rest).blocked.tick := by
  have ha : s.admits x = true := by simp [State.admits, hm, Msg.commandOf]
  have hb : (s.begin x rest).blocked.blockedSince (s.begin x rest) = true := by simp [State.blockedSince, State.blocked]
  rw [step_of_chosen hc, (runJob_run ha ((State.jobOf_agent hm).trans hr)).1 _ hw, State.finishStep, if_pos hb]

/-- Settles O58: what a step runs keeps count and time, a boot but for its time; the end of a step counts it and passes time. -/
theorem everyStepGoesOn : Obligations.EveryStepGoesOn := by
  unfold Obligations.EveryStepGoesOn
  refine ⟨fun s t h => ?_, fun s r h => ?_, fun s h => ⟨_, step_of_none h, rfl⟩, ?_⟩
  · cases hc : s.chosen with
    | none =>
      rw [step_of_none hc] at h
      cases h
      have idle := (State.Keeps.refl s).idleStep
      exact ⟨idle.1, .inl idle.2⟩
    | some p =>
      obtain ⟨x, rest⟩ := p
      rw [step_of_chosen hc] at h
      obtain ⟨hn, late | ⟨same, a, hm, half⟩ | ⟨images, boots⟩⟩ := runJob_time h
      · exact ⟨hn, .inl late⟩
      · exact ⟨hn, .inr (.inl ⟨same, a, x, rest, rfl, hm, half⟩)⟩
      · exact ⟨hn, .inr (.inr ⟨x, images, rest, rfl, boots⟩)⟩
  · cases hc : s.chosen with
    | none => rw [step_of_none hc] at h; cases h
    | some p => rw [step_of_chosen hc] at h; exact runJob_ne_refused _ _ _ _ h
  · intro s a x rest i hc hm b hr hw
    refine ⟨_, step_blocked hc hm hr hw, ?_⟩
    rw [← State.begin_cur hm rest, ← s.begin_waits x rest]
    rfl

end Sys2Proof.Machine
end

section
/-! The exit of threads that run a handler (R393, R416). -/
namespace Sys2Proof.Machine

/-- A clause of an exit alone, in progress for lane 0. -/
def exitClause : Clause := { base := 0, hdr := 0xC0000001, words := [0x0C000000], slices := 1, exec := some 1 }

/-- A group of one slice that executes it within a handler. -/
def handlerGroup : Group :=
  { live := true, slices := [{ mask := 15, finished := false }], paths := [{ slices := 1 }]
    handler := some { frame := 0, saved := [] }, clause := some exitClause }

/-- The state where this group is the only one. -/
def exitInHandler : State := { State.reset with cur := 0, groups := [(0, handlerGroup)] }

theorem exitInHandler_ready : exitInHandler.ready exitClause [] [] := ⟨rfl, by decide, rfl, rfl, rfl⟩

/-- The threads that the handler of the current group remembers to have run exit, after a step that goes on. -/
def exitedThen : Host.Outcome State Fault Refusal → Option Lanes
  | .next t => t.grp.handler.map Handler.exited
  | _ => none

/-- The group with its slices after the exit, and nothing else changed. -/
def slicesLeft : Group := { handlerGroup with slices := [{ pc := 8, mask := 14, finished := false }] }

theorem exit_in_handler : exitedThen (exec .exit exitInHandler) = some 1 := by decide

theorem exit_but_for_handler : exitedThen (.next (exitInHandler.setGrp slicesLeft).closeClause) = some 0 := by decide

/-- Refutes O18: a handler remembers which threads have run exit in it (R393), so that more changes than the slices. Lane 0 of the
group `handlerGroup` executes exit within a handler. -/
theorem not_exitClearsMasks : ¬ Obligations.ExitClearsMasks := by
  unfold Obligations.ExitClearsMasks
  intro hall
  obtain ⟨h, hlen, hslices, hrest, hwaits, hgoes⟩ := hall exitInHandler exitClause exitInHandler_ready
  have hs : h.slices = slicesLeft.slices := by
    obtain ⟨z, hz⟩ := List.length_eq_one_iff.mp hlen
    rw [hz, hslices 0 _ z rfl (by rw [hz]; rfl)]
    decide
  have hg : h = slicesLeft := calc
    h = { ({ h with slices := (exitInHandler.found exitClause 1).g.slices } : Group) with slices := h.slices } := rfl
    _ = slicesLeft := by rw [hrest, hs]; rfl
  have goes := hgoes fun hw => absurd hw.1 (by rw [hg]; decide)
  have same := exit_in_handler
  rw [goes, hg, exit_but_for_handler] at same
  exact absurd same (by decide)

end Sys2Proof.Machine
end

section
/-! What each operand code reads (R44 to R48). -/
namespace Sys2Proof.Machine

section
variable (x : Ix) (l : Nat)

theorem Ix.src_v {r : Nat} (h : r < 0x80) : x.src r l = x.g.vAt r l := by
  simp [Ix.src, Ix.srcPk, isV, h]

theorem Ix.src_s {r : Nat} (h : r < 64) : x.src (0x80 + r) l = x.g.sAt r := by
  simp [Ix.src, Ix.srcPk, isV, isS, show 128 + r < 192 by omega]

theorem Ix.src_b {r : Nat} (h : r < 4) : x.src (0xC0 + r) l = x.g.bAt r l := by
  simp [Ix.src, Ix.srcPk, isV, isS, isB, show 192 + r < 196 by omega, show ¬192 + r < 128 by omega]

theorem Ix.src_p {r : Nat} (h : r < 8) : x.src (0xC4 + r) l = if (x.g.pAt r).getLsbD l then 1 else 0 := by
  simp [Ix.src, Ix.srcPk, isV, isS, isB, isP, show 196 + r < 204 by omega, show ¬196 + r < 128 by omega, show ¬196 + r < 192 by omega]

theorem Ix.src_q {r : Nat} (h : r < 8) : x.src (0xCC + r) l = if x.g.qAt r then 1 else 0 := by
  simp [Ix.src, Ix.srcPk, isV, isS, isB, isP, isQ, show 204 + r ≤ 211 by omega, show ¬204 + r < 128 by omega, show ¬204 + r < 192 by omega,
    show ¬204 + r < 196 by omega]

/-- Tile k by columns from 4 j on, or by rows (R48). -/
theorem Ix.src_tile {k imm : Nat} (hk : k < 4) (hi : imm < 2) :
    let j := ((x.g.sAt 63).toNat + imm) % 4
    x.src (0xE0 + 4 * k + imm) l = x.g.tAt k (16 * (4 * j + l / 16) + l % 16) ∧
      x.src (0xE0 + 4 * k + 2 + imm) l = x.g.tAt k (16 * (l % 16) + (4 * j + l / 16)) := by
  interval_cases k <;> interval_cases imm <;> exact ⟨rfl, rfl⟩

end

/-- What each operand code reads, of the group as an instruction of n words finds it. -/
theorem found_operands (s : State) (c : Clause) (n l : Nat) :
    let x := s.found c n
    (∀ r, r < 0x80 → x.src r l = s.grp.vAt r l) ∧
    (∀ r, r < 64 → x.src (0x80 + r) l = s.grp.sAt r) ∧
    (∀ r, r < 4 → x.src (0xC0 + r) l = s.grp.bAt r l) ∧
    (∀ r, r < 8 → x.src (0xC4 + r) l = if (s.grp.pAt r).getLsbD l then 1 else 0) ∧
    (∀ r, r < 7 → x.src (0xCC + r) l = if s.grp.q.getLsbD r then 1 else 0) ∧
    x.src 0xD3 l = 1 ∧ x.src 0xD4 l = 0 ∧ x.src 0xD5 l = 1 ∧ x.src 0xD6 l = 0xFFFFFFFF ∧ x.src 0xD7 l = 2 ∧
    x.src 0xD8 l = 0x3F000000 ∧ x.src 0xD9 l = 0x3F800000 ∧ x.src 0xDA l = 0x40000000 ∧ x.src 0xDB l = 0xBF800000 ∧
    x.src 0xDC l = BitVec.ofNat 32 l ∧ x.src 0xDD l = BitVec.ofNat 32 (l / 4) ∧ x.src 0xDE l = BitVec.ofNat 32 s.grp.gidx ∧
    x.src 0xFF l = c.words.getD (c.wi + n) 0 := by
  refine ⟨fun r => Ix.src_v _ l, fun r => Ix.src_s _ l, fun r => Ix.src_b _ l, fun r => Ix.src_p _ l, fun r hr => ?_,
    rfl, rfl, rfl, rfl, rfl, rfl, rfl, rfl, rfl, rfl, rfl, rfl, rfl⟩
  rw [Ix.src_q _ l (by omega), Group.qAt, decide_eq_false (by omega), Bool.false_or]
  rfl

end Sys2Proof.Machine
end

section
/-! Instructions that write a register pair or a whole predicate set (R55, R139, R143, R155). -/
namespace Sys2Proof.Machine

/-! ## An effect on registers alone -/

/-- Group g differs from the group that the instruction found in registers and latches alone. -/
def Ix.RegsOnly (x : Ix) (g : Group) : Prop :=
  g = { x.g with v := g.v, s := g.s, p := g.p, q := g.q, b := g.b, bvalid := g.bvalid }

theorem Ix.RegsOnly.refl (x : Ix) : x.RegsOnly x.g := rfl

theorem Ix.RegsOnly.same {x : Ix} {g : Group} (h : x.RegsOnly g) {α : Type} (part : Group → α) :
    part g = part { x.g with v := g.v, s := g.s, p := g.p, q := g.q, b := g.b, bvalid := g.bvalid } := congrArg part h

theorem Ix.RegsOnly.setV {x : Ix} {g : Group} (h : x.RegsOnly g) (r : Nat) (ex : Lanes) (f : Nat → Word) :
    x.RegsOnly (g.setV r ex f) := by
  unfold Ix.RegsOnly at h ⊢; rw [h]; rfl

theorem Ix.RegsOnly.setS {x : Ix} {g : Group} (h : x.RegsOnly g) (r : Nat) (w : Word) : x.RegsOnly (g.setS r w) := by
  unfold Ix.RegsOnly at h ⊢; rw [h]; rfl

theorem Ix.RegsOnly.setP {x : Ix} {g : Group} (h : x.RegsOnly g) (i : Nat) (ex : Lanes) (f : Nat → Bool) :
    x.RegsOnly (g.setP i ex f) := by
  unfold Ix.RegsOnly at h ⊢; rw [h]; rfl

theorem Ix.RegsOnly.setQ {x : Ix} {g : Group} (h : x.RegsOnly g) (i : Nat) (b : Bool) : x.RegsOnly (g.setQ i b) := by
  unfold Group.setQ
  split
  · unfold Ix.RegsOnly at h ⊢; rw [h]
  · exact h

theorem Ix.RegsOnly.latch {x : Ix} {g : Group} (h : x.RegsOnly g) (f : Nat → Word) : x.RegsOnly (x.latch g f) := by
  unfold Ix.RegsOnly at h ⊢; rw [h]; rfl

theorem Ix.RegsOnly.foldl {x : Ix} {g : Group} {α : Type} {f : Group → α → Group} {l : List α} (h : x.RegsOnly g)
    (hf : ∀ g a, x.RegsOnly g → x.RegsOnly (f g a)) : x.RegsOnly (l.foldl f g) := by
  induction l generalizing g with
  | nil => exact h
  | cons a l ih => exact ih (hf g a h)

/-- An instruction that does nothing but write registers leaves every other part as it was, and the clause goes on. -/
theorem issue_regsOnly {s : State} {c : Clause} {srcs dsts : List Span} {body : Ix → Eff} {g : Group}
    (hr : s.ready c srcs dsts) (hb : body (s.found c 1) = .done ((s.found c 1).s.setGrp g)) (hg : (s.found c 1).RegsOnly g) :
    let h := (s.found c 1).after dsts g
    Kept (s.found c 1) dsts h ∧ h.fflags = s.grp.fflags ∧ h.gens = s.grp.gens ∧
      issue s 1 srcs dsts body = .next ((s.setGrp h).advance (c.wordsOf 1 srcs) true) := by
  refine ⟨Kept.after _ (hg.same Group.t) (hg.same Group.paths) (hg.same Group.poison) (hg.same Group.soft)
    (hg.same Group.windows) ?_, hg.same Group.fflags, hg.same Group.gens, ?_⟩
  · rw [hg]
  · rw [issue_ready 1 body hr, hb]
    simp only [Ix.outcome]
    rw [State.landed_setGrp _ _ _ _ _ (hg.same Group.blocks)]

/-! ## Register pairs -/

/-- A pair's destination is an even v- or s-register. -/
theorem pair_cases {d : BitVec 8} (hd : (isV d.toNat ∨ isS d.toNat) ∧ d.toNat % 2 = 0) :
    (isV d.toNat = true ∧ isS d.toNat = false ∧ isP d.toNat = false ∧ d.toNat + 1 < 0x80) ∨
      (isV d.toNat = false ∧ isS d.toNat = true ∧ isP d.toNat = false ∧ 0x80 ≤ d.toNat ∧ d.toNat + 1 < 0xC0) := by
  simp only [isV, isS, isP, decide_eq_true_eq, decide_eq_false_iff_not] at hd ⊢
  omega

theorem Ix.write64_regsOnly {x : Ix} {g : Group} (h : x.RegsOnly g) (ws : Bool) {d : BitVec 8}
    (hd : (isV d.toNat ∨ isS d.toNat) ∧ d.toNat % 2 = 0) (f : Nat → Nat) :
    x.RegsOnly (x.write64 g ws d.toNat f) := by
  unfold Ix.write64 Ix.write
  rcases pair_cases hd with ⟨v, _⟩ | ⟨v, s, _⟩
  · cases ws <;> simp only [v, if_true, if_false, Bool.false_eq_true]
    · exact ((h.setV _ _ _).setV _ _ _).latch _
    · exact h.latch _
  · cases ws <;> simp only [v, s, if_true, if_false, Bool.false_eq_true]
    · exact ((h.setS _ _).setS _ _).latch _
    · exact h.latch _

/-- A pair holds the low half of a 64-bit result and then its high half; the latch takes the low half. -/
theorem Ix.write64_wrote (x : Ix) (ws : Bool) {d : BitVec 8} (hd : (isV d.toNat ∨ isS d.toNat) ∧ d.toNat % 2 = 0)
    (f : Nat → BitVec 64) : WrotePair x ws d f (x.write64 x.g ws d.toNat fun l => (f l).toNat) := by
  have low (l : Nat) : BitVec.ofNat 32 (f l).toNat = (f l).setWidth 32 := by
    apply BitVec.eq_of_toNat_eq; simp
  have high (l : Nat) : BitVec.ofNat 32 ((f l).toNat / pow2 32) = (f l).extractLsb' 32 32 := by
    apply BitVec.eq_of_toNat_eq; simp [pow2, Nat.shiftRight_eq_div_pow]
  unfold Ix.write64 Ix.write
  simp only [low, high]
  rcases pair_cases hd with ⟨v, s, p, lt⟩ | ⟨v, s, p, ge, lt⟩
  · simp only [v, if_true]
    refine ⟨fun r l hl => ?_, fun r => ?_, fun i l hl => ?_, ?_, fun i l _ hl => ?_, ?_⟩
    · cases ws <;> simp [Group.vAt_setV _ _ _ _ _ hl, v]
      grind
    · cases ws <;> simp [s]
    · cases ws <;> simp
    · cases ws <;> simp
    · rw [Ix.bAt_latch _ _ _ _ hl]; cases ws <;> simp [latchLane, v]
    · cases ws <;> simp [Ix.latch]
  · simp only [v, s, if_true, if_false, Bool.false_eq_true]
    refine ⟨fun r l hl => ?_, fun r => ?_, fun i l hl => ?_, ?_, fun i l _ hl => ?_, ?_⟩
    · cases ws <;> simp [v]
    · cases ws <;> simp [s, Group.sAt_setS]
      grind
    · cases ws <;> simp
    · cases ws <;> simp
    · rw [Ix.bAt_latch _ _ _ _ hl]; cases ws <;> simp [latchLane, v, s]
    · cases ws <;> simp [Ix.latch]

theorem WrotePair.after {x : Ix} {ws : Bool} {d : BitVec 8} {f : Nat → BitVec 64} {g : Group} (dsts : List Span)
    (h : WrotePair x ws d f g) : WrotePair x ws d f (x.after dsts g) :=
  ⟨h.vecs, h.scalars, h.preds, h.uniforms, h.latch, h.valid⟩

/-- An instruction whose effect is a 64-bit result. -/
theorem pair_lands {s : State} {c : Clause} {srcs : List Span} {ws : BitVec 1} {d : BitVec 8} {body : Ix → Eff}
    (f : Nat → BitVec 64) (hd : (isV d.toNat ∨ isS d.toNat) ∧ d.toNat % 2 = 0) (hr : s.ready c srcs (destSpan ws d 2))
    (hb : body (s.found c 1) = .done ((s.found c 1).s.setGrp
      ((s.found c 1).write64 (s.found c 1).g (ws == 1) d.toNat fun l => (f l).toNat))) :
    LandsPair s c srcs ws d f (issue s 1 srcs (destSpan ws d 2) body) := by
  obtain ⟨kept, fl, gens, out⟩ := issue_regsOnly hr hb (Ix.write64_regsOnly (.refl _) _ hd _)
  exact ⟨_, ((s.found c 1).write64_wrote _ hd f).after _, kept, fl, gens, out⟩

theorem toNat_ofNat_add (a b : Nat) : (BitVec.ofNat 64 a + BitVec.ofNat 64 b).toNat = (a + b) % pow2 64 := by
  simp [pow2]

theorem iadd64_lands {s : State} {c : Clause} {w : BitVec 1} {d a b : BitVec 8} {nb : Nat}
    (hnb : nb = if isV b.toNat || isS b.toNat then 2 else 1) (hd : (isV d.toNat ∨ isS d.toNat) ∧ d.toNat % 2 = 0)
    (hr : s.ready c [(a.toNat, 2), (b.toNat, nb)] (destSpan w d 2)) :
    LandsPair s c [(a.toNat, 2), (b.toNat, nb)] w d (fun l =>
      BitVec.ofNat 64 ((s.found c 1).src64 a.toNat l) + BitVec.ofNat 64 ((s.found c 1).src64 b.toNat l))
      (exec (.iadd64 w d a b) s) := by
  subst hnb
  refine pair_lands (body := fun x => .done (x.s.setGrp (x.write64 x.g (w == 1) d.toNat fun l =>
    (x.src64 a.toNat l + x.src64 b.toNat l) % pow2 64))) _ hd hr ?_
  simp only [toNat_ofNat_add]

theorem ballot_lands {s : State} {c : Clause} {w : BitVec 1} {d a : BitVec 8}
    (hd : (isV d.toNat ∨ isS d.toNat) ∧ d.toNat % 2 = 0) (hr : s.ready c (ops [a]) (destSpan w d 2)) :
    LandsPair s c (ops [a]) w d (fun _ => lanesOf fun l =>
      (s.found c 1).ex.getLsbD l && decide ((s.found c 1).src a.toNat l ≠ 0)) (exec (.ballot w d a) s) :=
  pair_lands (body := fun x => .done (x.s.setGrp (x.write64 x.g (w == 1) d.toNat fun _ =>
    (lanesOf fun l => x.ex.getLsbD l && decide (x.src a.toNat l ≠ 0)).toNat))) _ hd hr rfl

/-! ## Predicate sets -/

/-- pkp reads eight predicates that follow each other. -/
theorem pkp_lands {s : State} {c : Clause} {w : BitVec 1} {d a : BitVec 8} (ha : a.toNat < 248) (hd : legalDest d = true)
    (hr : s.ready c ((List.range 8).map fun i => (a.toNat + i, 1)) (destSpan w d 1)) :
    LandsInt s c ((List.range 8).map fun i => (a.toNat + i, 1)) w d
      (fun l => BitVec.ofNat 32 ((List.range 8).map fun i => ((s.found c 1).src (a.toNat + i) l).toNat <<< i).sum)
      (exec (.pkp w d a) s) := by
  let srcs : List (BitVec 8) := (List.range 8).map fun i => a + BitVec.ofNat 8 i
  have codes : srcs.map BitVec.toNat = (List.range 8).map (a.toNat + ·) := by
    simp only [srcs, List.map_map]
    refine List.map_congr_left fun i hi => ?_
    have := List.mem_range.mp hi
    simp; omega
  have spans : ops srcs = (List.range 8).map fun i => (a.toNat + i, 1) := by
    rw [show ops srcs = (srcs.map BitVec.toNat).map fun c => (c, 1) by simp [ops], codes, List.map_map]; rfl
  rw [← spans] at hr ⊢
  have lands := intInstr_lands (fun x l =>
    BitVec.ofNat 32 ((List.range 8).foldl (fun m i => m + (x.src (a.toNat + i) l).toNat <<< i) 0)) hr hd
  rw [codes] at lands
  simp only [List.sum_eq_foldl, List.foldl_map]
  exact lands

theorem pkp_p_lands {s : State} {c : Clause} {w : BitVec 1} {d : BitVec 8} (hd : legalDest d = true)
    (hr : s.ready c ((List.range 8).map fun i => (0xC4 + i, 1)) (destSpan w d 1)) :
    LandsInt s c ((List.range 8).map fun i => (0xC4 + i, 1)) w d
      (fun l => BitVec.ofNat 32 ((List.range 8).map fun i => if (s.grp.pAt i).getLsbD l then 2 ^ i else 0).sum)
      (exec (.pkp w d 0xC4) s) := by
  have bit (l i : Nat) (hi : i ∈ List.range 8) : ((s.found c 1).src (0xC4 + i) l).toNat <<< i =
      if (s.grp.pAt i).getLsbD l then 2 ^ i else 0 := by
    rw [Ix.src_p _ _ (List.mem_range.mp hi), show (s.found c 1).g.pAt i = s.grp.pAt i from rfl]
    split <;> simp [Nat.shiftLeft_eq]
  have lands := pkp_lands (a := 0xC4) (by decide) hd hr
  simp only [show (0xC4 : BitVec 8).toNat = 0xC4 from rfl] at lands
  simpa only [List.map_congr_left (bit _)] using lands

/-- The uniform predicates with q7, which is 1, as a number (R51). -/
theorem sum_q (q : BitVec 7) :
    ((List.range 8).map fun i => if decide (i = 7) || q.getLsbD i then 2 ^ i else 0).sum = q.toNat + 2 ^ 7 := by
  revert q; decide

theorem pkp_q_lands {s : State} {c : Clause} {w : BitVec 1} {d : BitVec 8} (hd : legalDest d = true)
    (hr : s.ready c ((List.range 8).map fun i => (0xCC + i, 1)) (destSpan w d 1)) :
    LandsInt s c ((List.range 8).map fun i => (0xCC + i, 1)) w d
      (fun _ => BitVec.ofNat 32 (s.grp.q.toNat + 2 ^ 7)) (exec (.pkp w d 0xCC) s) := by
  have bit (l i : Nat) (hi : i ∈ List.range 8) : ((s.found c 1).src (0xCC + i) l).toNat <<< i =
      if decide (i = 7) || s.grp.q.getLsbD i then 2 ^ i else 0 := by
    rw [Ix.src_q _ _ (List.mem_range.mp hi), Group.qAt, show (s.found c 1).g.q = s.grp.q from rfl]
    split <;> simp [Nat.shiftLeft_eq]
  have lands := pkp_lands (a := 0xCC) (by decide) hd hr
  simp only [show (0xCC : BitVec 8).toNat = 0xCC from rfl] at lands
  simpa only [List.map_congr_left (bit _), sum_q] using lands

/-- Predicates 0 to n − 1 written in the lanes of a set. -/
def Group.setPs (g : Group) (n : Nat) (ex : Lanes) (f : Nat → Nat → Bool) : Group :=
  (List.range n).foldl (fun g i => g.setP i ex (f i)) g

theorem Group.setPs_succ (g : Group) (n : Nat) (ex : Lanes) (f : Nat → Nat → Bool) :
    g.setPs (n + 1) ex f = (g.setPs n ex f).setP n ex (f n) := by
  simp [Group.setPs, List.range_succ]

theorem Group.setPs_rest (g : Group) (n : Nat) (ex : Lanes) (f : Nat → Nat → Bool) :
    g.setPs n ex f = { g with p := (g.setPs n ex f).p } := by
  induction n with
  | zero => rfl
  | succ n ih => rw [Group.setPs_succ, ih]; rfl

theorem Group.pAt_setPs (g : Group) (n : Nat) (ex : Lanes) (f : Nat → Nat → Bool) (i : Nat) {l : Nat} (hl : l < 64) :
    ((g.setPs n ex f).pAt i).getLsbD l = if i < n ∧ ex.getLsbD l then f i l else (g.pAt i).getLsbD l := by
  induction n with
  | zero => simp [Group.setPs]
  | succ n ih =>
    rw [Group.setPs_succ, Group.pAt_setP _ _ _ _ _ hl, ih]
    by_cases hi : i = n
    · subst hi; simp
    · simp only [hi, false_and, if_false, show i < n + 1 ↔ i < n by omega]

/-- Uniform predicates 0 to n − 1 written. -/
def Group.setQs (g : Group) (n : Nat) (f : Nat → Bool) : Group := (List.range n).foldl (fun g i => g.setQ i (f i)) g

theorem Group.setQs_succ (g : Group) (n : Nat) (f : Nat → Bool) : g.setQs (n + 1) f = (g.setQs n f).setQ n (f n) := by
  simp [Group.setQs, List.range_succ]

theorem Group.setQs_rest (g : Group) (n : Nat) (f : Nat → Bool) : g.setQs n f = { g with q := (g.setQs n f).q } := by
  induction n with
  | zero => rfl
  | succ n ih => rw [Group.setQs_succ, ih]; unfold Group.setQ; split <;> rfl

theorem Group.q_setQs (g : Group) (n : Nat) (f : Nat → Bool) {k : Nat} (hk : k < 7) :
    (g.setQs n f).q.getLsbD k = if k < n then f k else g.q.getLsbD k := by
  induction n with
  | zero => simp [Group.setQs]
  | succ n ih =>
    rw [Group.setQs_succ, Group.q_setQ _ _ _ hk, ih]
    by_cases hi : k = n
    · subst hi; simp
    · simp only [hi, if_false, show k < n + 1 ↔ k < n by omega]

/-- A byte that is not 0, as a predicate has it. -/
theorem asPred_low_byte (w : Word) : asPred (w &&& 0xFF) = if w.toNat % 256 ≠ 0 then 1 else 0 := by
  have h : (w &&& 0xFF).toNat = w.toNat % 256 := by
    rw [BitVec.toNat_and]; exact Nat.and_two_pow_sub_one_eq_mod _ 8
  have hz : (w &&& 0xFF = 0) ↔ w.toNat % 256 = 0 := by rw [← h, BitVec.toNat_eq]; rfl
  simp only [asPred, hz, ite_not]

theorem getLsbD_low_byte (w : Word) {i : Nat} (hi : i < 8) : (w &&& 0xFF).getLsbD i = w.getLsbD i := by
  rw [BitVec.getLsbD_and]
  interval_cases i <;> simp

theorem upkp_p_lands {s : State} {c : Clause} {w : BitVec 1} {a : BitVec 8}
    (hr : s.ready c (ops [a]) (destSpan w 0xC4 8)) :
    let x := s.found c 1
    ∃ h, Kept x (destSpan w 0xC4 8) h ∧ h.v = x.g.v ∧ h.s = x.g.s ∧ h.q = x.g.q ∧ h.fflags = x.g.fflags ∧
      h.gens = x.g.gens ∧ h.bvalid = x.g.bvalid ||| (1#4 <<< (c.k % 4)) ∧
      (∀ i l, i < 8 → l < 64 → (h.pAt i).getLsbD l =
        if w = 0 ∧ x.ex.getLsbD l then (x.src a.toNat l).getLsbD i else (x.g.pAt i).getLsbD l) ∧
      (∀ i l, i < 4 → l < 64 → h.bAt i l =
        if i = c.k % 4 then (if x.ex.getLsbD l ∧ (x.src a.toNat l).toNat % 256 ≠ 0 then 1 else 0) else x.g.bAt i l) ∧
      exec (.upkp w 0xC4 a) s = .next ((s.setGrp h).advance (c.wordsOf 1 (ops [a])) true) := by
  intro x
  let g : Group := if w = 1 then x.g else x.g.setPs 8 x.ex fun i l => (x.src a.toNat l &&& 0xFF).getLsbD i
  have rest : g = { x.g with p := g.p } := by
    simp only [g]; split
    · rfl
    · exact Group.setPs_rest _ _ _ _
  have hb : g.b = x.g.b := by rw [rest]
  have hbv : g.bvalid = x.g.bvalid := by rw [rest]
  have only : x.RegsOnly g := by unfold Ix.RegsOnly; rw [rest]
  obtain ⟨kept, fl, gens, out⟩ := issue_regsOnly (body := fun x => .done (x.s.setGrp
    (x.latch (if w = 1 then x.g else x.g.setPs 8 x.ex fun i l => (x.src a.toNat l &&& 0xFF).getLsbD i) fun l =>
      if x.ex.getLsbD l then asPred (x.src a.toNat l &&& 0xFF) else 0))) hr rfl (only.latch _)
  refine ⟨_, kept, show g.v = _ by rw [rest], show g.s = _ by rw [rest], show g.q = _ by rw [rest], fl, gens,
    congrArg (· ||| _) hbv, fun i l hi hl => ?_, fun i l _ hl => ?_, out⟩
  · change (g.pAt i).getLsbD l = _
    by_cases hw : w = 1
    · simp [g, hw]
    · have h0 : w = 0 := by bv_omega
      rw [show g = x.g.setPs 8 x.ex _ from if_neg hw, Group.pAt_setPs _ _ _ _ _ hl, getLsbD_low_byte _ hi]
      simp only [h0, hi, true_and]
  · change (x.latch g _).bAt i l = _
    rw [Ix.bAt_latch _ _ _ _ hl, asPred_low_byte]
    simp only [Group.bAt, hb, ite_and]
    rfl

theorem upkp_q_lands {s : State} {c : Clause} {w : BitVec 1} {a : BitVec 8}
    (hr : s.ready c (ops [a]) (destSpan w 0xCC 8)) :
    let x := s.found c 1
    ∃ h, Kept x (destSpan w 0xCC 8) h ∧ h.v = x.g.v ∧ h.s = x.g.s ∧ h.p = x.g.p ∧ h.fflags = x.g.fflags ∧
      h.gens = x.g.gens ∧ h.bvalid = x.g.bvalid ||| (1#4 <<< (c.k % 4)) ∧
      h.q = (if w = 0 then (x.uni a.toNat).setWidth 7 else x.g.q) ∧
      (∀ i l, i < 4 → l < 64 → h.bAt i l =
        if i = c.k % 4 then (if (x.uni a.toNat).toNat % 256 ≠ 0 then 1 else 0) else x.g.bAt i l) ∧
      exec (.upkp w 0xCC a) s = .next ((s.setGrp h).advance (c.wordsOf 1 (ops [a])) true) := by
  intro x
  let g : Group := if w = 1 then x.g else x.g.setQs 7 fun i => (x.uni a.toNat &&& 0xFF).getLsbD i
  have rest : g = { x.g with q := g.q } := by
    simp only [g]; split
    · rfl
    · exact Group.setQs_rest _ _ _
  have hb : g.b = x.g.b := by rw [rest]
  have hbv : g.bvalid = x.g.bvalid := by rw [rest]
  have only : x.RegsOnly g := by unfold Ix.RegsOnly; rw [rest]
  obtain ⟨kept, fl, gens, out⟩ := issue_regsOnly (body := fun x => .done (x.s.setGrp
    (x.latch (if w = 1 then x.g else x.g.setQs 7 fun i => (x.uni a.toNat &&& 0xFF).getLsbD i) fun _ =>
      asPred (x.uni a.toNat &&& 0xFF)))) hr rfl (only.latch _)
  refine ⟨_, kept, show g.v = _ by rw [rest], show g.s = _ by rw [rest], show g.p = _ by rw [rest], fl, gens,
    congrArg (· ||| _) hbv, ?_, fun i l _ hl => ?_, out⟩
  · change g.q = _
    by_cases hw : w = 1
    · simp [g, hw]
    · have hw : w = 0 := by bv_omega
      apply BitVec.eq_of_getLsbD_eq
      intro k hk
      simp only [g, hw, if_true, BitVec.getLsbD_setWidth, hk, decide_true, Bool.true_and]
      exact (Group.q_setQs _ _ _ hk).trans ((if_pos hk).trans (getLsbD_low_byte _ (by omega)))
  · change (x.latch g _).bAt i l = _
    rw [Ix.bAt_latch _ _ _ _ hl, asPred_low_byte]
    simp only [Group.bAt, hb]
    rfl

/-- Settles O5: each of its parts is a theorem above. -/
theorem pairsAndPredicateSets : Obligations.PairsAndPredicateSets := by
  unfold Obligations.PairsAndPredicateSets
  intro s c w d a b x pair nb
  refine ⟨iadd64_lands rfl, ballot_lands, ?_, ?_, ?_, ?_⟩
  · rintro rfl hd hr
    exact pkp_p_lands hd hr
  · rintro rfl hd hr
    exact pkp_q_lands hd hr
  · rintro rfl hr
    exact upkp_p_lands hr
  · rintro rfl hr
    exact upkp_q_lands hr

end Sys2Proof.Machine
end

section
/-! A clause goes on, ends, waits and traps (R30, R36, R38, R40, R43, R56, R465). -/
namespace Sys2Proof.Machine

/-! ## Slices that still have a thread -/

/-- A thread of the slice is active or waits on its stack. -/
def Slice.occupied (x : Slice) : Prop := x.mask ≠ 0 ∨ ∃ e ∈ x.stack, e.mask ≠ 0

/-- Resolution finishes no slice that still has a thread (R393). -/
theorem Slice.resolve_finished {x : Slice} (hf : x.finished = false) (h : x.occupied) (fuel : Nat) :
    (x.resolve fuel).finished = false := by
  induction fuel generalizing x with
  | zero => exact hf
  | succ fuel ih =>
    unfold Slice.resolve
    split
    next hm =>
      obtain h | ⟨e, he, hne⟩ := h
      · exact absurd hm h
      split
      next hs => rw [hs] at he; cases he
      next d t hs =>
        rw [hs] at he
        refine ih hf ?_
        obtain rfl | ht := List.mem_cons.mp he
        · exact .inl hne
        · exact .inr ⟨e, ht, hne⟩
    next hm =>
      split
      · exact hf
      · split
        · refine ih hf (.inl fun h0 => hm ?_)
          exact (BitVec.or_eq_zero_iff.mp h0).1
        · split
          · exact ih hf (.inr ⟨_, List.mem_cons_self, hm⟩)
          · exact hf

/-- A slice with an active thread and an empty stack is resolved (R393). -/
theorem Slice.resolve_plain {x : Slice} (hm : x.mask ≠ 0) (hs : x.stack = []) (fuel : Nat) : x.resolve fuel = x := by
  cases fuel with
  | zero => rfl
  | succ fuel => unfold Slice.resolve; rw [if_neg hm, hs]

theorem Group.resolveAll_getElem? (g : Group) (i : Nat) : ∃ busy : BitVec 16,
    g.resolveAll.slices[i]? = g.slices[i]?.map fun x =>
      if x.finished || busy.getLsbD i then x else x.resolve (2 * x.stack.length + 2) := by
  unfold Group.resolveAll
  extract_lets busy
  refine ⟨busy, ?_⟩
  simp [List.getElem?_map, List.getElem?_zipIdx, Option.map_map]
  rfl

theorem Group.setPc_getElem? (g : Group) (which : BitVec 16) (pc : Nat) (fell : Option Nat) (i : Nat) :
    (g.setPc which pc fell).slices[i]? = g.slices[i]?.map fun x =>
      if which.getLsbD i && !x.finished then { x with pc := pc, fell := fell } else x := by
  unfold Group.setPc
  simp [List.getElem?_map, List.getElem?_zipIdx, Option.map_map]
  rfl

/-! ## The end of a clause -/

/-- A group whose clause has ended: its latches are invalid, its slices resolved and its paths split. -/
def Group.ended (g : Group) (cycle : Nat) : Group :=
  ({ g.keepWindows with clause := none, b := [], bvalid := 0, age := cycle + 1 } : Group).resolveAll.split

@[simp] theorem Group.keepWindows_slices (g : Group) : g.keepWindows.slices = g.slices := by
  rw [Group.keepWindows_eq]

@[simp] theorem Group.keepWindows_unit (g : Group) : g.keepWindows.unit = g.unit := by
  rw [Group.keepWindows_eq]

theorem Group.ended_rest (g : Group) (cycle : Nat) : g.ended cycle = { g with
    clause := none, b := [], bvalid := 0, age := cycle + 1, windows := (g.ended cycle).windows
    slices := (g.ended cycle).slices, paths := (g.ended cycle).paths } := by
  unfold Group.ended Group.resolveAll Group.split
  rw [Group.keepWindows_eq]

theorem Group.ended_getElem? (g : Group) (cycle i : Nat) : ∃ busy : BitVec 16,
    (g.ended cycle).slices[i]? = g.slices[i]?.map fun x =>
      if x.finished || busy.getLsbD i then x else x.resolve (2 * x.stack.length + 2) := by
  obtain ⟨busy, h⟩ := ({ g.keepWindows with clause := none, b := [], bvalid := 0, age := cycle + 1 } : Group).resolveAll_getElem? i
  exact ⟨busy, h.trans (by simp only [Group.keepWindows_slices])⟩

/-- A group with a thread left does not finish as its clause ends. -/
theorem Group.ended_unfinished {g : Group} {x : Slice} (hx : x ∈ g.slices) (hf : x.finished = false) (hm : x.occupied)
    (cycle : Nat) : (g.ended cycle).finished = false := by
  obtain ⟨i, hi⟩ := List.getElem?_of_mem hx
  obtain ⟨busy, hb⟩ := g.ended_getElem? cycle i
  rw [hi, Option.map_some] at hb
  refine List.all_eq_false.mpr ⟨_, List.mem_of_getElem? hb, ?_⟩
  split
  · simp [hf]
  · simp [Slice.resolve_finished hf hm]

theorem State.closeClause_setGrp {s : State} {g : Group} (he : (s.unitAt g.unit).ending = false)
    (hf : (g.ended s.cycle).finished = false) : (s.setGrp g).closeClause = s.setGrp (g.ended s.cycle) := by
  have hu : ¬((s.setGrp g).unitAt g.keepWindows.unit).ending = true := by
    rw [Group.keepWindows_unit, State.unitAt_setGrp, he]; decide
  unfold State.closeClause
  rw [State.grp_setGrp]
  exact (if_neg hu).trans ((if_neg (ne_true_of_eq_false hf)).trans (State.setGrp_setGrp s g _))

/-- Behind an instruction the clause goes on with its next word. -/
theorem State.advance_inside {s : State} {c : Clause} {n : Nat} (hc : s.grp.clause = some c) (count : Bool)
    (h : c.wi + n < c.words.length) : s.advance n count = s.setGrp { s.grp with clause := some { c with
      wi := c.wi + n, k := if count then c.k + 1 else c.k, modp := if count then none else c.modp } } := by
  unfold State.advance
  rw [hc]
  exact if_neg (Nat.not_le.mpr h)

/-- At its last word the clause ends: its path falls through, and the group goes on while a thread is left. -/
theorem State.advance_end {s : State} {c : Clause} {n : Nat} (hc : s.grp.clause = some c) (count : Bool)
    (h : c.words.length ≤ c.wi + n) (he : (s.unitAt s.grp.unit).ending = false)
    (hx : ∃ x ∈ s.grp.slices, x.finished = false ∧ x.mask ≠ 0) :
    ∃ g : Group, s.advance n count = s.setGrp g ∧ g.clause = none ∧ g.bvalid = 0 ∧ g.v = s.grp.v ∧ g.s = s.grp.s ∧
      g.p = s.grp.p ∧ g.q = s.grp.q ∧ g.t = s.grp.t ∧ g.fflags = s.grp.fflags ∧
      (∀ i x, s.grp.slices[i]? = some x → x.finished = false → x.stack = [] → x.mask ≠ 0 → c.slices.getLsbD i = true →
        ∃ y, g.slices[i]? = some y ∧ y.pc = c.base + 4 * (c.words.length + 1) ∧ y.mask = x.mask) := by
  let c' : Clause := { c with wi := c.wi + n, k := if count then c.k + 1 else c.k, modp := if count then none else c.modp }
  let fell := if c.next / 4096 = c.base / 4096 then none else some c.base
  let g : Group := ({ s.grp with clause := some c' } : Group).setPc c.slices c.next fell
  have through (i : Nat) : g.slices[i]? = s.grp.slices[i]?.map fun x =>
      if c.slices.getLsbD i && !x.finished then { x with pc := c.next, fell := fell } else x := Group.setPc_getElem? _ _ _ _ i
  have hf : (g.ended s.cycle).finished = false := by
    obtain ⟨x, hx, hxf, hxm⟩ := hx
    obtain ⟨i, hi⟩ := List.getElem?_of_mem hx
    have hy := through i
    rw [hi, Option.map_some] at hy
    refine Group.ended_unfinished (List.mem_of_getElem? hy) ?_ ?_ _
    · split <;> exact hxf
    · refine .inl ?_
      split <;> exact hxm
  refine ⟨g.ended s.cycle, ?_, ?_⟩
  · have hend : s.advance n count = (s.setGrp g).closeClause := by
      unfold State.advance
      rw [hc]
      refine (if_pos h).trans ?_
      simp only [State.fallThrough, State.grp_setGrp, State.setGrp_setGrp]
      rfl
    rw [hend, State.closeClause_setGrp (g := g) he hf]
  · rw [Group.ended_rest]
    refine ⟨rfl, rfl, rfl, rfl, rfl, rfl, rfl, rfl, fun i x hi hxf hs hm hb => ?_⟩
    obtain ⟨busy, hy⟩ := g.ended_getElem? s.cycle i
    have plain (fuel : Nat) : ({ x with pc := c.next, fell := fell } : Slice).resolve fuel = { x with pc := c.next, fell := fell } :=
      Slice.resolve_plain (x := { x with pc := c.next, fell := fell }) hm hs fuel
    have hz : g.slices[i]? = some { x with pc := c.next, fell := fell } := by
      rw [through i, hi, Option.map_some, if_pos (by rw [hb, hxf]; rfl)]
    rw [hz, Option.map_some, plain, ite_self] at hy
    exact ⟨_, hy, rfl, rfl⟩

/-! ## An instruction that does not take effect -/

/-- The instructions of two sources and one destination of which the statement speaks issue alike. -/
theorem exec_twoSources {i : Instr} {w : BitVec 1} {d a b : BitVec 8}
    (hi : i ∈ ([.iadd w d a b, .imul w d a b, .xor w d a b, .shl w d a b, .ilt w d a b, .fadd w d a b, .fmul w d a b,
      .flt w d a b, .hadd2 w d a b, .shfx w d a b] : List Instr)) (s : State) :
    ∃ body, exec i s = issue s 1 (ops [a, b]) (destSpan w d 1) body := by
  have lane : ∃ nd f, exec i s = laneInstr s w d [a.toNat, b.toNat] nd f := by
    simp only [List.mem_cons, List.not_mem_nil, or_false] at hi
    rcases hi with rfl | rfl | rfl | rfl | rfl | rfl | rfl | rfl | rfl | rfl <;> unfold exec
    · unfold execIadd satBin intInstr; exact ⟨_, _, rfl⟩
    · unfold execImul satBin intInstr; exact ⟨_, _, rfl⟩
    · unfold execXor intBin intInstr; exact ⟨_, _, rfl⟩
    · unfold execShl intBin intInstr; exact ⟨_, _, rfl⟩
    · unfold execIlt intCmp intBin intInstr; exact ⟨_, _, rfl⟩
    · unfold execFadd fpArith; exact ⟨_, _, rfl⟩
    · unfold execFmul fpArith; exact ⟨_, _, rfl⟩
    · unfold execFlt fpCmp; exact ⟨_, _, rfl⟩
    · unfold execHadd2 packed; exact ⟨_, _, rfl⟩
    · unfold execShfx shuffle intInstr; exact ⟨_, _, rfl⟩
  obtain ⟨nd, f, h⟩ := lane
  exact ⟨_, h⟩

/-- Such an instruction does nothing without executing threads, waits for a busy operand, and traps for a poisoned source. -/
theorem issue_withoutEffect (s : State) (c : Clause) (srcs dsts : List Span) (body : Ix → Eff) (hc : s.grp.clause = some c) :
    let out := issue s 1 srcs dsts body
    (c.threads s.grp = 0 → out = .next ((s.found c 1).skip.advance (c.wordsOf 1 srcs) true)) ∧
    (c.threads s.grp ≠ 0 → s.grp.busy (srcs ++ dsts) = true → out = .next { s with waits := s.cur :: s.waits }) ∧
    (c.threads s.grp ≠ 0 → s.grp.busy (srcs ++ dsts) = false → s.grp.tainted srcs = true →
      out = .next (((s.found c 1).s.registerError s.cur srcs).takeTrap s.cur
        { cls := 5, cause := 0, index := c.k, clause := c.base, resume := c.after, thread := 0, info := 0
          slices := c.slices })) :=
  ⟨issue_empty 1 srcs dsts body hc, issue_busy 1 body hc, issue_tainted 1 body hc⟩

/-- Settles O20: how a clause goes on and ends, what stands in an instruction's way, and what the operand codes read. -/
theorem clausesWaitsAndOperands : Obligations.ClausesWaitsAndOperands := by
  unfold Obligations.ClausesWaitsAndOperands
  refine ⟨fun s c n count hc => ⟨State.advance_inside hc count, State.advance_end hc count⟩,
    fun s c w d a b i hc hi => ?_, fun s c n l _ => ?_⟩
  · obtain ⟨body, h⟩ := exec_twoSources hi s
    rw [h]
    exact issue_withoutEffect s c _ _ body hc
  · obtain ⟨v, s', b, p, q, q7, d4, d5, d6, d7, d8, d9, da, db, dc, dd, de, ff⟩ := found_operands s c n l
    refine ⟨v, s', b, p, q, q7, d4, d5, d6, d7, d8, d9, da, db, dc, dd, de, ff, fun k imm hk hi => Ix.src_tile _ l hk hi, ?_⟩
    rintro pk (rfl | rfl) <;> exact ⟨rfl, rfl, rfl⟩

end Sys2Proof.Machine
end

section
/-! A late register write that has no value yet, in a list of groups out of canonical order (R36). -/
namespace Sys2Proof.Machine

/-- A group that waits for the value of one register. -/
def waitingGroup : Group := { live := true, outs := [{ regs := [.s 0], vals := none, tok := 0, slices := 1 }] }

/-- The state whose list of groups names agent 1 before agent 0. The completion of agent 0's write, which has no value, is next. -/
def groupsOutOfOrder : State :=
  { State.reset with groups := [(1, {}), (0, waitingGroup)], msg := .registerWriteComplete 0 0 }

/-- How many entries the list of groups has after a step that goes on. -/
def groupsThen : Host.Outcome State Fault Refusal → Option Nat
  | .next t => some t.groups.length
  | _ => none

/-- The event stores agent 0's group again, and `FMap.ins` puts it before agent 1's without taking the old entry away. -/
theorem groupsThen_write_without_value : groupsThen (exec .registerWriteComplete groupsOutOfOrder) = some 3 := by decide

/-- Refutes O48: the clause on a late write without its value asks for the same state over all states, also where the list of groups
is out of canonical order; there the event lists the group a second time. -/
theorem not_groupEvents : ¬ Obligations.GroupEvents := by
  unfold Obligations.GroupEvents
  rintro ⟨_, _, _, _, lateWrites, _⟩
  obtain ⟨withoutValue, _⟩ := lateWrites groupsOutOfOrder 0 0 rfl
  have same := groupsThen_write_without_value
  rw [withoutValue (Or.inr ⟨_, rfl, rfl⟩)] at same
  exact absurd same (by decide)

end Sys2Proof.Machine
end

section
/-! The end of a level whose parent's object overlaps its own (R363). -/
namespace Sys2Proof.Machine

/-- The memory of a running and closed level at offset 0 with CTR 0, whose PARENT is offset 2: byte 5 is its STATUS, byte 6 its
FLAGS, byte 8 its PARENT. -/
def overlappingLevels : FMap Byte := [(5, 1), (6, 2), (8, 2)]

/-- The state where it is the only level, and its end is next. The parent's CTR lies in bytes 2 to 5. -/
def levelOverParent : State := { State.reset with mem := overlappingLevels, levels := [(0, 0)], msg := .levelEnd 0 }

/-- The STATUS byte of the level after a step that goes on. -/
def statusThen : Host.Outcome State Fault Refusal → Option Nat
  | .next t => some (t.rdN 5 1)
  | _ => none

/-- STATUS becomes 2, and lowering the parent's CTR borrows from that byte. -/
theorem statusThen_levelOverParent : statusThen (exec .levelEnd levelOverParent) = some 1 := by decide

theorem levelOverParent_noUnit : levelOverParent.unitOfLevel 0 0 = none := by decide

theorem levelOverParent_due : levelOverParent.lvRunning 0 0 = true ∧ levelOverParent.lvFlag 0 0 1 = true ∧
    levelOverParent.lvCtr 0 0 = 0 ∧ ∀ n, levelOverParent.unitOfLevel 0 0 = some n → levelOverParent.unitQuiet n = true :=
  ⟨by decide, by decide, by decide, fun n h => by simp [levelOverParent_noUnit] at h⟩

/-- Refutes O49: the clause on the status with which a level ends does not ask, as the clause on its parent does, that the parent's
object lies apart. Where PARENT is no multiple of 64, the level's part of R363 and its parent's can meet in one byte. -/
theorem not_workEvents : ¬ Obligations.WorkEvents := by
  unfold Obligations.WorkEvents
  rintro ⟨levels, _⟩
  obtain ⟨_, ends⟩ := levels levelOverParent 0
  obtain ⟨levelEnd, _⟩ := ends 0 0 (by decide)
  obtain ⟨_, _, ended⟩ := levelEnd rfl ⟨rfl, rfl, rfl⟩
  obtain ⟨t, st, goes, status, _, _, withoutUnit, _⟩ :=
    ended levelOverParent_due (by decide) rfl rfl fun n h => by simp [levelOverParent_noUnit] at h
  have ends_two : st = 2 := withoutUnit levelOverParent_noUnit
  have reads_one : t.rdN 5 1 = 1 := by simpa [goes, statusThen] using statusThen_levelOverParent
  exact absurd (reads_one.symm.trans (status.trans ends_two)) (by decide)

end Sys2Proof.Machine
end

section
/-! The words that the spec writes out. -/
namespace Sys2Proof

/-- Words that encode an instruction decode to it, with no word left over. -/
theorem decode_of_encode_eq {i : Instr} {w : Word} {ws : List Word} (h : encode i = w :: ws) :
    decode (w :: ws) = some (i, []) := by
  simpa [h] using decode_encode i (by simp [h]) []

/-- Settles O55: each instruction's encoding is the words that its rule writes out, and the decoder reads back every encoding. -/
theorem decodeWords : Obligations.DecodeWords := by
  unfold Obligations.DecodeWords
  and_intros <;> exact decode_of_encode_eq rfl

end Sys2Proof
end

section
/-! Real values of finite numbers, and the exact sums and products of them (R99, R123, R144). -/
namespace Sys2Proof.Machine

theorem pow2_eq (n : Nat) : pow2 n = 2 ^ n := Nat.one_shiftLeft n

/-! ## Finite numbers -/

/-- The factor that a sign stands for. -/
def signQ (neg : Bool) : ℚ := if neg then -1 else 1

@[simp] theorem signQ_true : signQ true = -1 := rfl
@[simp] theorem signQ_false : signQ false = 1 := rfl
theorem signQ_ne_zero (neg : Bool) : signQ neg ≠ 0 := by cases neg <;> norm_num
@[simp] theorem abs_signQ (neg : Bool) : |signQ neg| = 1 := by cases neg <;> norm_num
theorem signQ_bne (a b : Bool) : signQ (a != b) = signQ a * signQ b := by cases a <;> cases b <;> norm_num

theorem FpNum.real_fin (neg : Bool) (m : Nat) (e : Int) : (FpNum.fin neg m e).real = signQ neg * m * 2 ^ e := rfl

theorem FpNum.isFin_iff {a : FpNum} : a.isFin = true ↔ ∃ b m e, a = .fin b m e := by
  cases a <;> simp [FpNum.isFin]

theorem two_zpow_pos (e : Int) : (0 : ℚ) < 2 ^ e := zpow_pos two_pos e

theorem FpNum.abs_real_fin (neg : Bool) (m : Nat) (e : Int) : |(FpNum.fin neg m e).real| = m * 2 ^ e := by
  rw [FpNum.real_fin, abs_mul, abs_mul, abs_signQ, one_mul, Nat.abs_cast, abs_of_pos (two_zpow_pos e)]

theorem FpNum.real_eq_zero_iff (neg : Bool) (m : Nat) (e : Int) : (FpNum.fin neg m e).real = 0 ↔ m = 0 := by
  simp [FpNum.real_fin, signQ_ne_zero, (two_zpow_pos e).ne']

theorem FpNum.real_neg_iff (neg : Bool) {m : Nat} (hm : m ≠ 0) (e : Int) : (FpNum.fin neg m e).real < 0 ↔ neg = true := by
  have pos : (0 : ℚ) < m * 2 ^ e := mul_pos (by exact_mod_cast Nat.pos_of_ne_zero hm) (two_zpow_pos e)
  cases neg
  · simpa [FpNum.real_fin] using pos.le
  · simpa [FpNum.real_fin] using pos

/-- A number times 2^k (R61). -/
theorem FpNum.real_scale (k : Int) (a : FpNum) : (a.scale k).real = a.real * 2 ^ k := by
  cases a with
  | fin b m e => simp only [FpNum.scale, FpNum.real_fin, zpow_add₀ (two_ne_zero' ℚ)]; ring
  | _ => simp [FpNum.scale, FpNum.real]

/-! ## Sums -/

/-- A term of an exact sum as a number. -/
def termNum (t : Bool × Nat × Int) : FpNum := .fin t.1 t.2.1 t.2.2

theorem signedAt_eq {lo e : Int} (h : lo ≤ e) (neg : Bool) (m : Nat) :
    (signedAt lo neg m e : ℚ) * 2 ^ lo = (FpNum.fin neg m e).real := by
  have shift : ((m <<< (e - lo).toNat : Nat) : ℚ) * 2 ^ lo = m * 2 ^ e := by
    rw [Nat.shiftLeft_eq, Nat.cast_mul, mul_assoc, Nat.cast_pow, Nat.cast_ofNat, ← zpow_natCast, ← zpow_add₀ two_ne_zero]
    congr 2; omega
  cases neg
  · simpa only [signedAt, FpNum.real_fin, signQ_false, one_mul, Bool.false_eq_true, if_false, Int.cast_natCast] using shift
  · simpa only [signedAt, FpNum.real_fin, signQ_true, neg_one_mul, neg_mul, if_true, Int.cast_neg, Int.cast_natCast,
      neg_inj, one_mul] using shift

/-- The exponent that a sum is formed at lies at or below that of every term but the zeros. -/
theorem foldl_min_exponent (ts : List (Bool × Nat × Int)) (z : Int) :
    let lo := ts.foldl (fun m t => if t.2.1 = 0 then m else min m t.2.2) z
    lo ≤ z ∧ ∀ t ∈ ts, t.2.1 ≠ 0 → lo ≤ t.2.2 := by
  induction ts generalizing z with
  | nil => simp
  | cons t ts ih =>
    obtain ⟨below, terms⟩ := ih (if t.2.1 = 0 then z else min z t.2.2)
    rw [List.foldl_cons]
    refine ⟨below.trans (by split <;> omega), fun u hu hne => ?_⟩
    rcases List.mem_cons.mp hu with rfl | hu
    · rw [if_neg hne] at below ⊢
      exact below.trans (min_le_right _ _)
    · exact terms u hu hne

theorem foldl_signedAt {lo : Int} (ts : List (Bool × Nat × Int)) (h : ∀ t ∈ ts, t.2.1 ≠ 0 → lo ≤ t.2.2) (z : Int) :
    ((ts.foldl (fun s t => if t.2.1 = 0 then s else s + signedAt lo t.1 t.2.1 t.2.2) z : Int) : ℚ) * 2 ^ lo =
      z * 2 ^ lo + (ts.map fun t => (termNum t).real).sum := by
  induction ts generalizing z with
  | nil => simp
  | cons t ts ih =>
    rw [List.foldl_cons, ih (fun u hu => h u (List.mem_cons_of_mem _ hu)), List.map_cons, List.sum_cons]
    by_cases ht : t.2.1 = 0
    · have none : (termNum t).real = 0 := (FpNum.real_eq_zero_iff _ _ _).2 ht
      rw [if_pos ht, none, zero_add]
    · rw [if_neg ht, Int.cast_add, add_mul, signedAt_eq (h t (List.mem_cons_self ..) ht), termNum, add_assoc]

/-- A number from its signed multiple of 2^lo. -/
theorem FpNum.real_natAbs (v lo : Int) : (FpNum.fin (decide (v < 0)) v.natAbs lo).real = v * 2 ^ lo := by
  rw [FpNum.real_fin, Nat.cast_natAbs, Int.cast_abs]
  by_cases h : v < 0
  · rw [abs_of_neg (Int.cast_lt_zero.2 h)]; simp [h]
  · rw [abs_of_nonneg (Int.cast_nonneg (not_lt.1 h))]; simp [h]

/-- The exact sum of finite terms; where it is 0, its sign by R144. -/
theorem sumFin_spec (rdn : Bool) (ts : List (Bool × Nat × Int)) :
    (sumFin rdn ts).isFin = true ∧ (sumFin rdn ts).real = (ts.map fun t => (termNum t).real).sum ∧
    ((sumFin rdn ts).real = 0 → (sumFin rdn ts).isNeg =
      if ts.all fun t => decide (t.2.1 = 0) && t.1 then true
      else if ts.all fun t => decide (t.2.1 = 0) && !t.1 then false else rdn) := by
  have low := (foldl_min_exponent ts 1024).2
  have total := foldl_signedAt ts low 0
  simp only [Int.cast_zero, zero_mul, zero_add] at total
  unfold sumFin
  dsimp only
  split
  next hv =>
    rw [hv] at total
    exact ⟨rfl, by simpa [FpNum.real_fin] using total, fun _ => rfl⟩
  next hv =>
    refine ⟨rfl, (FpNum.real_natAbs _ _).trans total, fun h0 => absurd h0 ?_⟩
    rw [FpNum.real_eq_zero_iff]
    omega

/-- The sum of finite values is never invalid. -/
theorem sumNum_fin (rdn : Bool) (ts : List (Bool × Nat × Int)) : sumNum rdn (ts.map termNum) = some (sumFin rdn ts) := by
  have noNan : (ts.map termNum).any FpNum.isNan = false := List.any_eq_false.2 fun a ha => by
    obtain ⟨t, -, rfl⟩ := List.mem_map.1 ha
    simp [termNum, FpNum.isNan]
  have noInf : (ts.map termNum).filter FpNum.isInf = [] := List.filter_eq_nil_iff.2 fun a ha => by
    obtain ⟨t, -, rfl⟩ := List.mem_map.1 ha
    simp [termNum, FpNum.isInf]
  unfold sumNum
  rw [noNan, noInf]
  simp only [Bool.false_eq_true, if_false, List.map_map]
  exact congrArg (fun l => some (sumFin rdn l)) (List.map_id ts)

/-- The same over the values themselves. -/
theorem sumNum_of_isFin (rdn : Bool) {l : List FpNum} (h : ∀ a ∈ l, a.isFin = true) :
    ∃ v, sumNum rdn l = some v ∧ v.isFin = true ∧ v.real = (l.map FpNum.real).sum := by
  obtain ⟨ts, rfl⟩ : ∃ ts : List (Bool × Nat × Int), l = ts.map termNum := by
    refine ⟨l.map fun a => match a with
      | .fin b m e => (b, m, e)
      | _ => (false, 0, 0), ?_⟩
    rw [List.map_map]
    refine (List.map_id l).symm.trans (List.map_congr_left fun a ha => ?_)
    obtain ⟨b, m, e, rfl⟩ := FpNum.isFin_iff.1 (h a ha)
    rfl
  obtain ⟨fin, real, -⟩ := sumFin_spec rdn ts
  exact ⟨_, sumNum_fin rdn ts, fin, by rw [real, List.map_map]; rfl⟩

/-- A sum of two: its value, and the sign of a zero. -/
theorem sumNum_two (rdn : Bool) {a b : FpNum} (ha : a.isFin = true) (hb : b.isFin = true) :
    ∃ v, sumNum rdn [a, b] = some v ∧ v.isFin = true ∧ v.real = a.real + b.real ∧
      (v.real = 0 → v.isNeg = if a.isZero = true ∧ b.isZero = true ∧ a.isNeg = b.isNeg then a.isNeg else rdn) := by
  obtain ⟨p, m, e, rfl⟩ := FpNum.isFin_iff.1 ha
  obtain ⟨q, n, k, rfl⟩ := FpNum.isFin_iff.1 hb
  obtain ⟨fin, real, sign⟩ := sumFin_spec rdn [(p, m, e), (q, n, k)]
  refine ⟨_, sumNum_fin rdn [(p, m, e), (q, n, k)], fin, by simpa [termNum] using real, fun h0 => (sign h0).trans ?_⟩
  cases m <;> cases n <;> cases p <;> cases q <;> simp [FpNum.isZero, FpNum.isNeg]

/-! ## Products -/

theorem FpNum.mul_fin {a b : FpNum} (ha : a.isFin = true) (hb : b.isFin = true) :
    ∃ v, a.mul b = some v ∧ v.isFin = true ∧ v.real = a.real * b.real ∧ v.isNeg = (a.isNeg != b.isNeg) := by
  obtain ⟨p, m, e, rfl⟩ := FpNum.isFin_iff.1 ha
  obtain ⟨q, n, k, rfl⟩ := FpNum.isFin_iff.1 hb
  refine ⟨_, rfl, rfl, ?_, rfl⟩
  simp only [FpNum.real_fin, signQ_bne, Nat.cast_mul, zpow_add₀ (two_ne_zero' ℚ)]
  ring

theorem FpNum.not_isNan_of_isFin {a : FpNum} (h : a.isFin = true) : a.isNan = false := by
  obtain ⟨b, m, e, rfl⟩ := FpNum.isFin_iff.1 h; rfl

theorem fmaNum_fin (rdn : Bool) {a b c : FpNum} (ha : a.isFin = true) (hb : b.isFin = true) (hc : c.isFin = true) :
    ∃ v, fmaNum rdn a b c = some v ∧ v.isFin = true ∧ v.real = a.real * b.real + c.real := by
  obtain ⟨p, product, hp, real, -⟩ := FpNum.mul_fin ha hb
  obtain ⟨v, sum, hv, total⟩ := sumNum_of_isFin rdn (l := [p, c]) (by simp [hp, hc])
  refine ⟨v, ?_, hv, by simpa [real] using total⟩
  simp [fmaNum, FpNum.not_isNan_of_isFin, ha, hb, hc, product, sum]

theorem dotNum_fin (rdn : Bool) {a b c d e : FpNum} (ha : a.isFin = true) (hb : b.isFin = true) (hc : c.isFin = true)
    (hd : d.isFin = true) (he : e.isFin = true) :
    ∃ v, dotNum rdn a b c d e = some v ∧ v.isFin = true ∧ v.real = a.real * b.real + c.real * d.real + e.real := by
  obtain ⟨p, first, hp, real, -⟩ := FpNum.mul_fin ha hb
  obtain ⟨q, second, hq, real', -⟩ := FpNum.mul_fin hc hd
  obtain ⟨v, sum, hv, total⟩ := sumNum_of_isFin rdn (l := [p, q, e]) (by simp [hp, hq, he])
  exact ⟨v, by simp [dotNum, first, second, sum], hv, by simpa [real, real', add_assoc] using total⟩

theorem sumNum_inf (rdn p q : Bool) : sumNum rdn [.inf p, .inf q] = if p = q then some (.inf p) else none := by
  cases p <;> cases q <;> rfl

/-- Settles O7: products by their exponents and signs, sums at the least exponent of their terms. -/
theorem sumsAndProductsAreExact : Obligations.SumsAndProductsAreExact := by
  unfold Obligations.SumsAndProductsAreExact
  exact ⟨fun a b ha hb => ⟨FpNum.mul_fin ha hb, fun rdn => sumNum_two rdn ha hb⟩,
    fun rdn a b c ha hb hc => fmaNum_fin rdn ha hb hc,
    fun rdn a b c d e ha hb hc hd he => dotNum_fin rdn ha hb hc hd he, sumNum_inf, fun p q e => ⟨rfl, rfl⟩⟩

end Sys2Proof.Machine
end

section
/-! RoundTo over the rationals (R111): the quotient that it forms, the exponent of its binade and the integer that each mode chooses. -/
namespace Sys2Proof.Machine

/-! ## Quotients of naturals -/

/-- n / d · 2^k as a quotient of naturals. -/
theorem scaleQ_spec (n : Nat) {d : Nat} (hd : 0 < d) (k : Int) :
    0 < (scaleQ n d k).2 ∧ ((scaleQ n d k).1 : ℚ) / (scaleQ n d k).2 = n / d * 2 ^ k := by
  have hd' : (d : ℚ) ≠ 0 := by exact_mod_cast hd.ne'
  unfold scaleQ
  split
  next h =>
    refine ⟨hd, ?_⟩
    have up : (2 : ℚ) ^ k = 2 ^ k.toNat := by rw [← zpow_natCast, Int.toNat_of_nonneg h]
    rw [up, Nat.shiftLeft_eq]; push_cast; ring
  next h =>
    have down : (2 : ℚ) ^ k = (2 ^ (-k).toNat)⁻¹ := by
      rw [← zpow_natCast, ← zpow_neg, Int.toNat_of_nonneg (by omega), neg_neg]
    refine ⟨by rw [Nat.shiftLeft_eq]; positivity, ?_⟩
    rw [down, Nat.shiftLeft_eq]; push_cast; field_simp

theorem scaleQ_zero_iff (n d : Nat) (k : Int) : (scaleQ n d k).1 = 0 ↔ n = 0 := by
  unfold scaleQ
  split <;> simp [Nat.shiftLeft_eq]

theorem scaleQ_zero (n d : Nat) : scaleQ n d 0 = (n, d) := by simp [scaleQ]

/-- The binary logarithm of a number that lies between two powers of two. -/
theorem log_two_eq {x : ℚ} {k : Int} (h : (2 : ℚ) ^ k ≤ x) (h' : x < 2 ^ (k + 1)) : Int.log 2 x = k := by
  have hx : 0 < x := (two_zpow_pos k).trans_le h
  have low : k ≤ Int.log 2 x := (Int.zpow_le_iff_le_log one_lt_two hx).1 (by exact_mod_cast h)
  have high : Int.log 2 x < k + 1 := (Int.lt_zpow_iff_log_lt one_lt_two hx).1 (by exact_mod_cast h')
  omega

theorem log2_bounds {n : Nat} (h : 0 < n) : (2 : ℚ) ^ (Nat.log2 n : Int) ≤ n ∧ (n : ℚ) < 2 ^ ((Nat.log2 n : Int) + 1) := by
  have low := Nat.log2_self_le h.ne'
  have high : n < 2 ^ (Nat.log2 n + 1) := Nat.lt_log2_self
  exact ⟨by rw [zpow_natCast]; exact_mod_cast low, by rw [← Nat.cast_succ, zpow_natCast]; exact_mod_cast high⟩

/-- A number below another's multiple by a power of two. -/
theorem below_iff (n : Nat) {d : Nat} (hd : 0 < d) (k : Int) :
    (if 0 ≤ k then decide (n < d <<< k.toNat) else decide (n <<< (-k).toNat < d)) = true ↔ (n : ℚ) / d < 2 ^ k := by
  have hd' : (0 : ℚ) < d := by exact_mod_cast hd
  rw [div_lt_iff₀ hd']
  split
  next h =>
    rw [decide_eq_true_iff, ← Nat.cast_lt (α := ℚ), Nat.shiftLeft_eq]
    push_cast
    rw [← zpow_natCast, Int.toNat_of_nonneg h, mul_comm]
  next h =>
    rw [decide_eq_true_iff, ← Nat.cast_lt (α := ℚ), Nat.shiftLeft_eq]
    push_cast
    rw [← zpow_natCast, Int.toNat_of_nonneg (by omega), zpow_neg, ← div_eq_mul_inv, div_lt_iff₀ (two_zpow_pos k), mul_comm]

theorem log2Q_eq {n d : Nat} (hn : 0 < n) (hd : 0 < d) : log2Q n d = Int.log 2 ((n : ℚ) / d) := by
  obtain ⟨nlo, nhi⟩ := log2_bounds hn
  obtain ⟨dlo, dhi⟩ := log2_bounds hd
  have hd' : (0 : ℚ) < d := by exact_mod_cast hd
  set a : Int := ((Nat.log2 n : Nat) : Int)
  set b : Int := ((Nat.log2 d : Nat) : Int)
  have low : (2 : ℚ) ^ (a - b - 1) ≤ n / d := by
    rw [le_div_iff₀ hd']
    calc (2 : ℚ) ^ (a - b - 1) * d ≤ 2 ^ (a - b - 1) * 2 ^ (b + 1) := by gcongr
      _ = 2 ^ a := by rw [← zpow_add₀ two_ne_zero]; congr 1; omega
      _ ≤ n := nlo
  have high : (n : ℚ) / d < 2 ^ (a - b + 1) := by
    rw [div_lt_iff₀ hd']
    calc (n : ℚ) < 2 ^ (a + 1) := nhi
      _ = 2 ^ (a - b + 1) * 2 ^ b := by rw [← zpow_add₀ two_ne_zero]; congr 1; omega
      _ ≤ 2 ^ (a - b + 1) * d := by gcongr
  unfold log2Q
  dsimp only
  by_cases h : (n : ℚ) / d < 2 ^ (a - b)
  · rw [if_pos ((below_iff n hd (a - b)).2 h)]
    exact (log_two_eq low (by simpa using h)).symm
  · rw [if_neg (mt (below_iff n hd (a - b)).1 h)]
    exact (log_two_eq (not_lt.1 h) high).symm

/-! ## The integer that a mode chooses -/

theorem roundInt_eq {mode : Nat} (h1 : 1 ≤ mode) (h6 : mode ≤ 6) (neg : Bool) (a : Nat) {b : Nat} (hb : 0 < b) (r16 : Nat) :
    (roundInt mode neg a b false r16 : ℤ) = roundQ mode neg r16 ((a : ℚ) / b) := by
  have hb' : (0 : ℚ) < b := by exact_mod_cast hb
  have floor : ⌊(a : ℚ) / b⌋ = ((a / b : Nat) : ℤ) := Rat.floor_natCast_div_natCast a b
  have fract : Int.fract ((a : ℚ) / b) = ((a % b : Nat) : ℚ) / b := Int.fract_div_natCast_eq_div_natCast_mod
  have half_lt : 1 / 2 < ((a % b : Nat) : ℚ) / b ↔ b < 2 * (a % b) := by
    rw [div_lt_div_iff₀ two_pos hb', one_mul, mul_comm]; exact_mod_cast Iff.rfl
  have half_le : 1 / 2 ≤ ((a % b : Nat) : ℚ) / b ↔ b ≤ 2 * (a % b) := by
    rw [div_le_div_iff₀ two_pos hb', one_mul, mul_comm]; exact_mod_cast Iff.rfl
  have half_eq : ((a % b : Nat) : ℚ) / b = 1 / 2 ↔ b = 2 * (a % b) := by
    rw [div_eq_div_iff hb'.ne' two_ne_zero, one_mul, mul_comm, eq_comm]; exact_mod_cast Iff.rfl
  have pos : 0 < ((a % b : Nat) : ℚ) / b ↔ a % b ≠ 0 := by
    rw [div_pos_iff_of_pos_right hb', Nat.cast_pos, Nat.pos_iff_ne_zero]
  have draw : ⌊((a % b : Nat) : ℚ) / b * 65536⌋ = ((a % b * 65536 / b : Nat) : ℤ) := by
    rw [show ((a % b : Nat) : ℚ) / b * 65536 = ((a % b * 65536 : Nat) : ℚ) / b by push_cast; ring]
    exact Rat.floor_natCast_div_natCast _ _
  have parity : ((a / b : Nat) : ℤ) % 2 = 1 ↔ a / b % 2 = 1 := by omega
  have carry : (65536 : ℤ) ≤ ((a % b * 65536 / b : Nat) : ℤ) + r16 ↔ 65536 ≤ a % b * 65536 / b + r16 := by omega
  unfold roundInt roundQ
  rw [fract, floor]
  simp only [half_lt, half_le, half_eq, pos, draw, parity, carry]
  interval_cases mode <;> cases neg <;> simp

/-- What rounding an integer yields: itself. -/
theorem roundQ_int {mode r16 : Nat} (neg : Bool) (h : r16 < 65536) (k : ℤ) : roundQ mode neg r16 (k : ℚ) = k := by
  simp [roundQ]
  omega

/-- A rounded number lies within one of the number. -/
theorem roundQ_bounds (mode : Nat) (neg : Bool) (r16 : Nat) (q : ℚ) :
    ⌊q⌋ ≤ roundQ mode neg r16 q ∧ roundQ mode neg r16 q ≤ ⌊q⌋ + 1 := by
  unfold roundQ
  dsimp only
  split <;> omega

end Sys2Proof.Machine
end

section
/-! The floating-point formats and RoundTo into them (R100, R101, R111, R112). -/
namespace Sys2Proof.Machine

/-! ## Patterns -/

def formats : List Fmt := [fp32, fp16, bf16, e4m3, e5m2, e2m3, e3m2, e2m1]

/-- What the formats have in common: the largest finite value by the kind, and no exponent field below that of a normal number. -/
structure Fmt.Regular (f : Fmt) : Prop where
  fields : 1 ≤ f.mb ∧ 2 ≤ f.eb
  top : f.top + (if f.kind = 1 then 2 else 1) = 2 ^ (f.mb + 1)
  topE : f.topE = 2 ^ f.eb - 1 - (if f.kind = 0 then 1 else 0) - f.bias - f.mb
  thin : f.kind = 1 → 2 ≤ f.mb
  one : 1 ≤ f.bias

theorem formats_regular : ∀ f ∈ formats, f.Regular := by
  intro f hf
  simp only [formats, List.mem_cons, List.not_mem_nil, or_false] at hf
  rcases hf with rfl | rfl | rfl | rfl | rfl | rfl | rfl | rfl <;> constructor <;> decide +kernel

theorem value_maxBits : ∀ f ∈ formats, ∀ neg, f.value (f.maxBits neg) = .fin neg f.top f.topE := by decide +kernel

theorem special_lt : ∀ f ∈ formats, ∀ neg, f.maxBits neg < 2 ^ f.width ∧ f.overflow neg < 2 ^ f.width := by decide

theorem Fmt.signBit_eq (f : Fmt) (neg : Bool) : f.signBit neg = neg.toNat * 2 ^ (f.eb + f.mb) := by
  cases neg <;> simp [Fmt.signBit, pow2_eq]

/-- The pattern of a sign, an exponent field and a mantissa field. -/
def Fmt.bits (f : Fmt) (neg : Bool) (E M : Nat) : Nat := f.signBit neg + (E * 2 ^ f.mb + M)

section
variable {f : Fmt} {E M : Nat} (hE : E < 2 ^ f.eb) (hM : M < 2 ^ f.mb)
include hE hM

theorem Fmt.magnitude_lt : E * 2 ^ f.mb + M < 2 ^ (f.eb + f.mb) :=
  calc E * 2 ^ f.mb + M < (E + 1) * 2 ^ f.mb := by rw [add_one_mul]; omega
    _ ≤ 2 ^ f.eb * 2 ^ f.mb := Nat.mul_le_mul_right _ hE
    _ = 2 ^ (f.eb + f.mb) := (pow_add ..).symm

theorem Fmt.bits_lt (neg : Bool) : f.bits neg E M < 2 ^ f.width := by
  have lt := Fmt.magnitude_lt hE hM
  have width : 2 ^ f.width = 2 * 2 ^ (f.eb + f.mb) := by rw [Fmt.width, add_assoc, pow_add, pow_one]
  rw [Fmt.bits, Fmt.signBit_eq, width]
  cases neg <;> simp <;> omega

/-- The value of a pattern by its fields (R100, R101). -/
theorem Fmt.value_bits (neg : Bool) : f.value (f.bits neg E M) =
    if f.kind = 0 ∧ E = 2 ^ f.eb - 1 then (if M = 0 then .inf neg else .nan (!M.testBit (f.mb - 1)))
    else if f.kind = 1 ∧ E = 2 ^ f.eb - 1 ∧ M = 2 ^ f.mb - 1 then .nan false
    else if E = 0 then .fin neg M (1 - f.bias - f.mb) else .fin neg (M + 2 ^ f.mb) (E - f.bias - f.mb) := by
  have lt := Fmt.magnitude_lt hE hM
  have shape : f.bits neg E M = M + 2 ^ f.mb * (E + 2 ^ f.eb * neg.toNat) := by
    rw [Fmt.bits, Fmt.signBit_eq, pow_add]; ring
  have mantissa : f.bits neg E M % 2 ^ f.mb = M := by rw [shape, Nat.add_mul_mod_self_left, Nat.mod_eq_of_lt hM]
  have exponent : f.bits neg E M / 2 ^ f.mb % 2 ^ f.eb = E := by
    rw [shape, Nat.add_mul_div_left _ _ (by positivity), Nat.div_eq_of_lt hM, zero_add, Nat.add_mul_mod_self_left,
      Nat.mod_eq_of_lt hE]
  have sign : (f.bits neg E M).testBit (f.eb + f.mb) = neg := by
    rw [Nat.testBit_eq_decide_div_mod_eq, Fmt.bits, Fmt.signBit_eq, mul_comm, Nat.mul_add_div (by positivity),
      Nat.div_eq_of_lt lt]
    cases neg <;> rfl
  unfold Fmt.value
  simp only [pow2_eq, Nat.shiftRight_eq_div_pow, mantissa, exponent, sign]
end

/-! ## The largest finite value -/

/-- The largest finite value (R100). -/
def Fmt.topQ (f : Fmt) : ℚ := f.top * 2 ^ f.topE

theorem Fmt.exceeds_iff (f : Fmt) (n : Nat) (k : Int) : f.exceeds n k = true ↔ f.topQ < n * 2 ^ k := by
  have split_pow : ∀ a b : ℤ, a ≤ b → (2 : ℚ) ^ b = 2 ^ (b - a).toNat * 2 ^ a := fun a b h => by
    rw [← zpow_natCast, ← zpow_add₀ two_ne_zero, Int.toNat_of_nonneg (by omega)]; congr 1; omega
  unfold Fmt.exceeds Fmt.topQ
  split
  next h =>
    rw [split_pow _ _ h, ← mul_assoc, mul_lt_mul_iff_left₀ (two_zpow_pos _), decide_eq_true_iff, Nat.shiftLeft_eq]
    exact_mod_cast Iff.rfl
  next h =>
    rw [split_pow _ _ (le_of_not_ge h), ← mul_assoc, mul_lt_mul_iff_left₀ (two_zpow_pos _), decide_eq_true_iff,
      Nat.shiftLeft_eq]
    exact_mod_cast Iff.rfl

section
variable {f : Fmt} (hf : f.Regular)
include hf

theorem Fmt.topQ_lt : f.topQ < 2 ^ (f.topE + f.mb + 1) := by
  have top : (f.top : ℚ) < 2 ^ (f.mb + 1) := by
    have := hf.top
    exact_mod_cast (show f.top < 2 ^ (f.mb + 1) by split at this <;> omega)
  calc f.topQ < 2 ^ (f.mb + 1) * 2 ^ f.topE := mul_lt_mul_of_pos_right top (two_zpow_pos _)
    _ = 2 ^ (f.topE + f.mb + 1) := by rw [← zpow_natCast, ← zpow_add₀ two_ne_zero]; congr 1; push_cast; ring

theorem Fmt.exponent_le {e : Int} (h : (2 : ℚ) ^ e ≤ f.topQ) : e ≤ f.topE + f.mb := by
  have := (zpow_lt_zpow_iff_right₀ (one_lt_two (α := ℚ))).1 (h.trans_lt (Fmt.topQ_lt hf))
  omega

/-- A pattern whose fields are those of no special value. -/
theorem Fmt.value_bits_fin {E M : Nat} (hE : (E : Int) ≤ f.topE + f.mb + f.bias) (hM : M < 2 ^ f.mb)
    (hk : f.kind = 1 → (E : Int) = f.topE + f.mb + f.bias → M + 2 ≤ 2 ^ f.mb) (neg : Bool) :
    f.bits neg E M < 2 ^ f.width ∧ f.value (f.bits neg E M) =
      if E = 0 then .fin neg M (1 - f.bias - f.mb) else .fin neg (M + 2 ^ f.mb) (E - f.bias - f.mb) := by
  have topE := hf.topE
  have size : ((2 ^ f.eb : Nat) : Int) = 2 ^ f.eb := by push_cast; rfl
  have hE' : E < 2 ^ f.eb := by split at topE <;> omega
  refine ⟨Fmt.bits_lt hE' hM neg, ?_⟩
  rw [Fmt.value_bits hE' hM, if_neg, if_neg]
  · rintro ⟨k1, hE1, hM1⟩
    rw [if_neg (by omega)] at topE
    have := hk k1 (by omega)
    omega
  · rintro ⟨k0, hE0⟩
    rw [if_pos k0] at topE
    omega

end

/-! ## The pattern of a rounded value -/

/-- The magnitude bits of k units in the last place of the binade e. -/
def Fmt.encode (f : Fmt) (k : Nat) (e : Int) : Nat :=
  if k < pow2 f.mb then k
  else if k = pow2 (f.mb + 1) then (e + 1 + f.bias).toNat * pow2 f.mb
  else (e + f.bias).toNat * pow2 f.mb + (k - pow2 f.mb)

theorem Fmt.value_encode {f : Fmt} (hf : f.Regular) {k : Nat} {e : Int} (he : 1 - f.bias ≤ e) (hk : k ≤ 2 ^ (f.mb + 1))
    (hsub : k < 2 ^ f.mb → e = 1 - f.bias) (htop : (k : ℚ) * 2 ^ (e - f.mb) ≤ f.topQ) (neg : Bool) :
    f.signBit neg + f.encode k e < 2 ^ f.width ∧ ∃ m e', f.value (f.signBit neg + f.encode k e) = .fin neg m e' ∧
      (m : ℚ) * 2 ^ e' = k * 2 ^ (e - f.mb) := by
  have unit (j : Int) : (2 : ℚ) ^ f.mb * 2 ^ (j - f.mb) = 2 ^ j := by
    rw [← zpow_natCast, ← zpow_add₀ two_ne_zero]; congr 1; omega
  have topE := hf.topE
  have ones : (4 : Int) ≤ 2 ^ f.eb := by
    have := Nat.pow_le_pow_right two_pos hf.fields.2
    exact_mod_cast this
  unfold Fmt.encode
  simp only [pow2_eq]
  split
  next sub =>
    have := hsub sub
    have E0 : ((0 : Nat) : Int) ≤ f.topE + f.mb + f.bias := by split at topE <;> omega
    have E1 : f.kind = 1 → ((0 : Nat) : Int) = f.topE + f.mb + f.bias → k + 2 ≤ 2 ^ f.mb := by split at topE <;> omega
    obtain ⟨lt, value⟩ := Fmt.value_bits_fin hf E0 sub E1 neg
    simp only [Fmt.bits, zero_mul, zero_add, if_true] at lt value
    exact ⟨lt, _, _, value, by rw [hsub sub]⟩
  next norm =>
    have large : (2 : ℚ) ^ e ≤ k * 2 ^ (e - f.mb) := by
      rw [← unit e]
      exact mul_le_mul_of_nonneg_right (by exact_mod_cast not_lt.1 norm) (two_zpow_pos _).le
    split
    next carry =>
      have next_binade : (2 : ℚ) ^ (e + 1) = k * 2 ^ (e - f.mb) := by
        rw [carry, ← unit (e + 1)]; push_cast
        rw [pow_succ, show e + 1 - (f.mb : Int) = e - f.mb + 1 by ring, zpow_add_one₀ two_ne_zero]; ring
      have le := Fmt.exponent_le hf (next_binade.trans_le htop)
      have E0 : (((e + 1 + f.bias).toNat : Nat) : Int) ≤ f.topE + f.mb + f.bias := by omega
      have thin : f.kind = 1 → 2 ^ 2 ≤ 2 ^ f.mb := fun k1 => Nat.pow_le_pow_right two_pos (hf.thin k1)
      obtain ⟨lt, value⟩ := Fmt.value_bits_fin hf E0 (show 0 < 2 ^ f.mb by positivity) (fun k1 _ => by have := thin k1; omega) neg
      rw [if_neg (by omega)] at value
      simp only [Fmt.bits, add_zero] at lt value
      refine ⟨lt, _, _, value, ?_⟩
      rw [← next_binade, ← unit (e + 1), zero_add, Int.toNat_of_nonneg (by omega)]
      push_cast
      congr 2; ring
    next within =>
      have lt : k < 2 ^ (f.mb + 1) := lt_of_le_of_ne hk within
      rw [pow_succ] at lt
      have le := Fmt.exponent_le hf (large.trans htop)
      have E0 : (((e + f.bias).toNat : Nat) : Int) ≤ f.topE + f.mb + f.bias := by omega
      have E1 : f.kind = 1 → (((e + f.bias).toNat : Nat) : Int) = f.topE + f.mb + f.bias → k - 2 ^ f.mb + 2 ≤ 2 ^ f.mb := by
        intro k1 eq
        have at_top : e - f.mb = f.topE := by omega
        rw [Fmt.topQ, at_top, mul_le_mul_iff_left₀ (two_zpow_pos _)] at htop
        have : k ≤ f.top := by exact_mod_cast htop
        have top := hf.top
        rw [if_pos k1, pow_succ] at top
        omega
      obtain ⟨lt', value⟩ := Fmt.value_bits_fin hf E0 (show k - 2 ^ f.mb < 2 ^ f.mb by omega) E1 neg
      rw [if_neg (by omega), Nat.sub_add_cancel (not_lt.1 norm)] at value
      exact ⟨lt', _, _, value, by rw [Int.toNat_of_nonneg (by omega)]; congr 2; ring⟩

/-! ## RoundTo -/

/-- The exponent of the binade that a positive number is rounded in. -/
def Fmt.expOf (f : Fmt) (x : ℚ) : Int := max (Int.log 2 x) (1 - f.bias)

/-- A positive number rounded as if the exponents had no upper end (R111). -/
def Fmt.nearest (f : Fmt) (mode : Nat) (neg : Bool) (r16 : Nat) (x : ℚ) : ℚ :=
  roundQ mode neg r16 (x / 2 ^ (f.expOf x - f.mb)) * 2 ^ (f.expOf x - f.mb)

/-- Overflow goes to the largest finite value rather than past it (R112). -/
def clampsToMax (mode : Nat) (sat neg : Bool) : Bool :=
  sat || decide (mode = 2) || (decide (mode = 3) && neg) || (decide (mode = 4) && !neg)

theorem Fmt.roundTo_zero (f : Fmt) (mode : Nat) (sat neg : Bool) (d r16 : Nat) :
    f.roundTo mode sat neg 0 d false r16 = (f.signBit neg, 0) := by simp [Fmt.roundTo]

/-- A quotient in units of its binade's last place. -/
theorem Fmt.units_bounds (f : Fmt) {x : ℚ} (hx : 0 < x) :
    x / 2 ^ (f.expOf x - f.mb) < 2 ^ (f.mb + 1) ∧ (f.expOf x = 1 - f.bias ∨ 2 ^ f.mb ≤ x / 2 ^ (f.expOf x - f.mb)) := by
  have unit := two_zpow_pos (f.expOf x - f.mb)
  constructor
  · rw [div_lt_iff₀ unit, ← zpow_natCast, ← zpow_add₀ two_ne_zero]
    calc x < 2 ^ (Int.log 2 x + 1) := by exact_mod_cast Int.lt_zpow_succ_log_self one_lt_two x
      _ ≤ _ := zpow_le_zpow_right₀ one_le_two (by unfold Fmt.expOf; push_cast; omega)
  · by_cases h : Int.log 2 x ≤ 1 - f.bias
    · exact .inl (max_eq_right h)
    · refine .inr ?_
      rw [le_div_iff₀ unit, ← zpow_natCast, ← zpow_add₀ two_ne_zero]
      calc (2 : ℚ) ^ ((f.mb : Int) + (f.expOf x - f.mb)) = 2 ^ Int.log 2 x := by
            congr 1; unfold Fmt.expOf; rw [max_eq_left (by omega)]; ring
        _ ≤ x := by exact_mod_cast Int.zpow_log_le_self one_lt_two hx

section
variable {f : Fmt} {mode n d r16 : Nat} (h1 : 1 ≤ mode) (h6 : mode ≤ 6) (hn : 0 < n) (hd : 0 < d)
include h1 h6 hn hd

/-- RoundTo by the letter of R111 and R112. -/
theorem Fmt.roundTo_eq (hf : f.Regular) (sat neg : Bool) :
    let x : ℚ := n / d
    let y := f.nearest mode neg r16 x
    (f.topQ < y → f.roundTo mode sat neg n d false r16 =
      (if clampsToMax mode sat neg then f.maxBits neg else f.overflow neg, fOF ||| fNX)) ∧
    (y ≤ f.topQ → (f.roundTo mode sat neg n d false r16).1 < 2 ^ f.width ∧
      (∃ m e, f.value (f.roundTo mode sat neg n d false r16).1 = .fin neg m e ∧ (m : ℚ) * 2 ^ e = y) ∧
      (f.roundTo mode sat neg n d false r16).2 =
        flag (decide (y ≠ x)) fNX ||| flag (decide (y ≠ x ∧ y < 2 ^ (1 - f.bias))) fUF) := by
  intro x y
  have hx : 0 < x := by positivity
  obtain ⟨hb, ratio⟩ := scaleQ_spec n hd (f.mb - f.expOf x)
  set a := (scaleQ n d (f.mb - f.expOf x)).1 with ha
  set b := (scaleQ n d (f.mb - f.expOf x)).2
  have hb' : (b : ℚ) ≠ 0 := by exact_mod_cast hb.ne'
  have unit := two_zpow_pos (f.expOf x - f.mb)
  have units : (a : ℚ) / b = x / 2 ^ (f.expOf x - f.mb) := by
    rw [ratio, div_eq_mul_inv x, ← zpow_neg]; congr 2; ring
  set k := roundInt mode neg a b false r16 with hk
  have y_eq : y = k * 2 ^ (f.expOf x - f.mb) := by
    show ((roundQ mode neg r16 (x / 2 ^ (f.expOf x - f.mb)) : ℤ) : ℚ) * 2 ^ (f.expOf x - f.mb) = _
    rw [← units, ← roundInt_eq h1 h6 neg a hb r16, Int.cast_natCast]
  obtain ⟨upper, lower⟩ := f.units_bounds hx
  rw [← units] at upper lower
  have near := roundQ_bounds mode neg r16 ((a : ℚ) / b)
  rw [← roundInt_eq h1 h6 neg a hb r16, ← hk] at near
  have k_le : k ≤ 2 ^ (f.mb + 1) := by
    have : ⌊(a : ℚ) / b⌋ < 2 ^ (f.mb + 1) := Int.floor_lt.2 (by exact_mod_cast upper)
    exact_mod_cast near.2.trans (Int.add_one_le_iff.2 this)
  have k_sub : k < 2 ^ f.mb → f.expOf x = 1 - f.bias := fun sub => lower.resolve_right fun h => by
    have : (2 : ℤ) ^ f.mb ≤ ⌊(a : ℚ) / b⌋ := Int.le_floor.2 (by exact_mod_cast h)
    have := this.trans near.1
    exact absurd sub (not_lt.2 (by exact_mod_cast this))
  have exact_iff : y = x ↔ k * b = a := by
    rw [y_eq, ← div_left_inj' unit.ne', mul_div_assoc, div_self unit.ne', mul_one, ← units, eq_div_iff hb']
    exact_mod_cast Iff.rfl
  have tiny_iff : y < 2 ^ (1 - f.bias) ↔ f.expOf x = 1 - f.bias ∧ k < 2 ^ f.mb := by
    have scale : (2 : ℚ) ^ f.mb * 2 ^ (f.expOf x - f.mb) = 2 ^ f.expOf x := by
      rw [← zpow_natCast, ← zpow_add₀ two_ne_zero]; congr 1; omega
    have small : k < 2 ^ f.mb ↔ y < 2 ^ f.expOf x := by
      rw [y_eq, ← scale, mul_lt_mul_iff_left₀ unit]; exact_mod_cast Iff.rfl
    constructor
    · intro lt
      have sub : k < 2 ^ f.mb := small.2 (lt.trans_le (zpow_le_zpow_right₀ one_le_two (le_max_right _ _)))
      exact ⟨k_sub sub, sub⟩
    · rintro ⟨e, sub⟩
      exact e ▸ small.1 sub
  have inexact : (decide (a % b ≠ 0) || false || decide (k * b ≠ a)) = decide (y ≠ x) := by
    rw [Bool.eq_iff_iff]
    simp only [Bool.or_eq_true, decide_eq_true_eq, Bool.or_false, ne_eq, exact_iff]
    exact ⟨fun h => h.elim (fun r e => r (by rw [← e, Nat.mul_mod_left])) id, .inr⟩
  have form : f.roundTo mode sat neg n d false r16 =
      if f.exceeds k (f.expOf x - f.mb) then
        (if clampsToMax mode sat neg then f.maxBits neg else f.overflow neg, fOF ||| fNX)
      else (f.signBit neg + f.encode k (f.expOf x),
        flag (decide (y ≠ x)) fNX ||| flag (decide (y ≠ x) && decide (f.expOf x = 1 - f.bias ∧ k < pow2 f.mb)) fUF) := by
    rw [← inexact]
    unfold Fmt.roundTo
    rw [if_neg (fun h => hn.ne' h.1), log2Q_eq hn hd]
    rfl
  constructor
  · intro beyond
    rw [form, if_pos ((f.exceeds_iff _ _).2 (y_eq ▸ beyond))]
  · intro within
    have le : (k : ℚ) * 2 ^ (f.expOf x - f.mb) ≤ f.topQ := y_eq ▸ within
    rw [form, if_neg fun h => absurd ((f.exceeds_iff _ _).1 h) (not_lt.2 le)]
    obtain ⟨lt, m, e, value, real⟩ := Fmt.value_encode hf (le_max_right _ _) k_le k_sub le neg
    refine ⟨lt, ⟨m, e, value, real.trans y_eq.symm⟩, ?_⟩
    simp only [pow2_eq, ← tiny_iff, ← Bool.decide_and]

end

end Sys2Proof.Machine
end

section
/-! The results of the lanes (R61, R118, R119, R132), and the obligation on formats and rounding. -/
namespace Sys2Proof.Machine

/-! ## The values of the formats' patterns -/

theorem Fmt.real_maxBits {f : Fmt} (hf : f ∈ formats) (neg : Bool) : (f.value (f.maxBits neg)).real = signQ neg * f.topQ := by
  rw [value_maxBits f hf, FpNum.real_fin, Fmt.topQ, mul_assoc]

theorem value_least : ∀ f ∈ formats, f.value (2 ^ f.mb) = .fin false (2 ^ f.mb) (1 - f.bias - f.mb) ∧
    f.value 1 = .fin false 1 (1 - f.bias - f.mb) ∧ f.value 0 = .fin false 0 (1 - f.bias - f.mb) := by decide +kernel

/-- The largest finite values, the least normal and the least subnormal one of a format. -/
theorem Fmt.landmarks {f : Fmt} (hf : f ∈ formats) :
    (f.value (f.maxBits false)).real = f.topQ ∧ (f.value (f.maxBits true)).real = -f.topQ ∧
    (f.value (2 ^ f.mb)).real = 2 ^ (1 - f.bias) ∧ (f.value 1).real = 2 ^ (1 - f.bias - f.mb) ∧
    f.value 0 = .fin false 0 (1 - f.bias - f.mb) := by
  obtain ⟨normal, least, zero⟩ := value_least f hf
  refine ⟨by simp [Fmt.real_maxBits hf], by simp [Fmt.real_maxBits hf], ?_, ?_, zero⟩
  · rw [normal, FpNum.real_fin, signQ_false, one_mul, Nat.cast_pow, Nat.cast_ofNat, ← zpow_natCast,
      ← zpow_add₀ two_ne_zero]
    congr 1; omega
  · rw [least, FpNum.real_fin, signQ_false, Nat.cast_one, one_mul, one_mul]

theorem formats_rows :
    (let row (f : Fmt) (w : Nat) (top normal least : ℚ) : Prop :=
       f.width = w ∧ (f.value (f.maxBits false)).real = top ∧ (f.value (f.maxBits true)).real = -top ∧
       (f.value (2 ^ f.mb)).real = normal ∧ (f.value 1).real = least ∧ f.value 0 = .fin false 0 (1 - f.bias - f.mb)
     row fp32 32 ((2 - 2 ^ (-23 : ℤ)) * 2 ^ (127 : ℤ)) (2 ^ (-126 : ℤ)) (2 ^ (-149 : ℤ)) ∧
     row fp16 16 65504 (2 ^ (-14 : ℤ)) (2 ^ (-24 : ℤ)) ∧
     row bf16 16 ((2 - 2 ^ (-7 : ℤ)) * 2 ^ (127 : ℤ)) (2 ^ (-126 : ℤ)) (2 ^ (-133 : ℤ)) ∧
     row e4m3 8 448 (2 ^ (-6 : ℤ)) (2 ^ (-9 : ℤ)) ∧ row e5m2 8 57344 (2 ^ (-14 : ℤ)) (2 ^ (-16 : ℤ)) ∧
     row e2m3 6 (15 / 2) 1 (1 / 8) ∧ row e3m2 6 28 (1 / 4) (1 / 16) ∧ row e2m1 4 6 1 (1 / 2)) := by
  intro row
  have of_landmarks {f : Fmt} (hf : f ∈ formats) {w : Nat} {top normal least : ℚ} (hw : f.width = w) (ht : f.topQ = top)
      (hn : 2 ^ (1 - f.bias) = normal) (hl : 2 ^ (1 - f.bias - f.mb) = least) : row f w top normal least := by
    obtain ⟨big, small, normal', least', zero⟩ := Fmt.landmarks hf
    exact ⟨hw, big.trans ht, small.trans (congrArg _ ht), normal'.trans hn, least'.trans hl, zero⟩
  refine ⟨of_landmarks (by decide) rfl ?_ ?_ ?_, of_landmarks (by decide) rfl ?_ ?_ ?_,
    of_landmarks (by decide) rfl ?_ ?_ ?_, of_landmarks (by decide) rfl ?_ ?_ ?_, of_landmarks (by decide) rfl ?_ ?_ ?_,
    of_landmarks (by decide) rfl ?_ ?_ ?_, of_landmarks (by decide) rfl ?_ ?_ ?_, of_landmarks (by decide) rfl ?_ ?_ ?_⟩ <;>
    norm_num [Fmt.topQ, fp32, fp16, bf16, e4m3, e5m2, e2m3, e3m2, e2m1, zpow_neg, zpow_ofNat]

/-! ## Numbers that a format represents -/

theorem zeroField_lt_top : ∀ f ∈ formats, ((0 : Nat) : Int) < f.topE + f.mb + f.bias := by decide

/-- A number of the format's precision and range of exponents is rounded to itself. -/
theorem Fmt.nearest_exact {f : Fmt} {mode r16 m : Nat} {e : Int} (neg : Bool) (h16 : r16 < 65536) (hm : 0 < m)
    (hm' : m < 2 ^ (f.mb + 1)) (he : 1 - f.bias - f.mb ≤ e) : f.nearest mode neg r16 (m * 2 ^ e) = m * 2 ^ e := by
  have pos : (0 : ℚ) < m * 2 ^ e := mul_pos (by exact_mod_cast hm) (two_zpow_pos e)
  have unit_le : f.expOf (m * 2 ^ e) - f.mb ≤ e := by
    have : Int.log 2 ((m : ℚ) * 2 ^ e) < f.mb + 1 + e := by
      refine (Int.lt_zpow_iff_log_lt one_lt_two pos).1 ?_
      calc (m : ℚ) * 2 ^ e < 2 ^ (f.mb + 1) * 2 ^ e := by gcongr; exact_mod_cast hm'
        _ = _ := by rw [← zpow_natCast, ← zpow_add₀ two_ne_zero]; push_cast; rfl
    unfold Fmt.expOf
    omega
  have units : (m : ℚ) * 2 ^ e / 2 ^ (f.expOf (m * 2 ^ e) - f.mb) =
      ((m * 2 ^ (e - (f.expOf (m * 2 ^ e) - f.mb)).toNat : ℤ) : ℚ) := by
    push_cast
    rw [← zpow_natCast (2 : ℚ), Int.toNat_of_nonneg (by omega), mul_div_assoc, ← zpow_sub₀ two_ne_zero]
  rw [Fmt.nearest, units, roundQ_int neg h16, ← units, div_mul_cancel₀ _ (two_zpow_pos _).ne']

/-- RoundTo of a number that the format represents: the number, with no flag. -/
theorem Fmt.roundTo_exact {f : Fmt} (hf : f ∈ formats) {mode r16 n d m : Nat} {e : Int} (h1 : 1 ≤ mode) (h6 : mode ≤ 6)
    (h16 : r16 < 65536) (sat neg : Bool) (hd : 0 < d) (ratio : (n : ℚ) / d = m * 2 ^ e) (hm : m < 2 ^ (f.mb + 1))
    (he : 1 - f.bias - f.mb ≤ e) (top : (m : ℚ) * 2 ^ e ≤ f.topQ) :
    (f.roundTo mode sat neg n d false r16).2 = 0 ∧ ∃ m' e', f.value (f.roundTo mode sat neg n d false r16).1 = .fin neg m' e' ∧
      (m' : ℚ) * 2 ^ e' = m * 2 ^ e := by
  have hd' : (d : ℚ) ≠ 0 := by exact_mod_cast hd.ne'
  rcases Nat.eq_zero_or_pos n with rfl | hn
  · have m0 : m = 0 := by
      rw [Nat.cast_zero, zero_div, zero_eq_mul, or_iff_left (two_zpow_pos e).ne'] at ratio
      exact_mod_cast ratio
    obtain ⟨-, value⟩ := Fmt.value_bits_fin (f := f) (E := 0) (M := 0) (formats_regular f hf) (zeroField_lt_top f hf).le (by positivity)
      (fun k1 h0 => absurd h0 (zeroField_lt_top f hf).ne) neg
    rw [Fmt.roundTo_zero]
    exact ⟨rfl, 0, _, by simpa [Fmt.bits] using value, by simp [m0]⟩
  · have hm0 : 0 < m := Nat.pos_of_ne_zero fun h0 => by
      rw [h0, Nat.cast_zero, zero_mul, div_eq_zero_iff, or_iff_left hd'] at ratio
      exact hn.ne' (by exact_mod_cast ratio)
    have itself := Fmt.nearest_exact (f := f) (mode := mode) neg h16 hm0 hm he
    rw [← ratio] at itself top
    obtain ⟨-, value, flags⟩ := (Fmt.roundTo_eq (r16 := r16) h1 h6 hn hd (formats_regular f hf) sat neg).2 (itself.trans_le top)
    rw [itself, ratio] at value
    refine ⟨?_, value⟩
    rw [flags, itself]
    simp [flag]

/-! ## Overflow -/

theorem value_overflow : ∀ f ∈ formats, ∀ neg, (f.kind = 0 → f.value (f.overflow neg) = .inf neg) ∧
    (f.kind = 1 → f.overflow neg = f.canon) ∧ (f.kind = 2 → f.overflow neg = f.maxBits neg) := by decide +kernel

theorem clampsToMax_iff {mode : Nat} {sat neg : Bool} : clampsToMax mode sat neg = true ↔
    sat = true ∨ mode = 2 ∨ (mode = 3 ∧ neg = true) ∨ (mode = 4 ∧ neg = false) := by
  simp [clampsToMax, or_assoc]

/-! ## Delivery under FTZ (R118, R119) -/

/-- Every pattern of a format's width has its fields. -/
theorem Fmt.exists_bits {f : Fmt} {b : Nat} (h : b < 2 ^ f.width) :
    ∃ neg E M, E < 2 ^ f.eb ∧ M < 2 ^ f.mb ∧ b = f.bits neg E M := by
  have width : f.width = f.mb + f.eb + 1 := by rw [Fmt.width]; omega
  refine ⟨decide (b / 2 ^ (f.eb + f.mb) = 1), b / 2 ^ f.mb % 2 ^ f.eb, b % 2 ^ f.mb, Nat.mod_lt _ (by positivity),
    Nat.mod_lt _ (by positivity), ?_⟩
  have top : b / 2 ^ (f.eb + f.mb) < 2 := Nat.div_lt_of_lt_mul (by rw [← pow_succ]; rw [width] at h; convert h using 2; omega)
  have low := Nat.div_add_mod b (2 ^ f.mb)
  have high := Nat.div_add_mod (b / 2 ^ f.mb) (2 ^ f.eb)
  rw [Nat.div_div_eq_div_mul, ← pow_add, add_comm f.mb] at high
  have sign : (decide (b / 2 ^ (f.eb + f.mb) = 1)).toNat = b / 2 ^ (f.eb + f.mb) := by
    interval_cases b / 2 ^ (f.eb + f.mb) <;> rfl
  rw [Fmt.bits, Fmt.signBit_eq, sign]
  generalize b / 2 ^ (f.eb + f.mb) = s at high
  calc b = 2 ^ f.mb * (2 ^ f.eb * s + b / 2 ^ f.mb % 2 ^ f.eb) + b % 2 ^ f.mb := by rw [high, low]
    _ = s * 2 ^ (f.eb + f.mb) + (b / 2 ^ f.mb % 2 ^ f.eb * 2 ^ f.mb + b % 2 ^ f.mb) := by rw [pow_add]; ring

/-- The four kinds of FP32 patterns, with their fields. -/
theorem fp32_cases {b : Nat} (h : b < 2 ^ 32) : ∃ (neg : Bool) (E M : Nat), M < 2 ^ 23 ∧
    b = neg.toNat * 2 ^ 31 + (E * 2 ^ 23 + M) ∧
    ((E = 0 ∧ fp32.value b = .fin neg M (-149)) ∨
     (0 < E ∧ E < 255 ∧ fp32.value b = .fin neg (M + 2 ^ 23) (E - 150)) ∨
     (E = 255 ∧ M = 0 ∧ fp32.value b = .inf neg) ∨ (E = 255 ∧ M ≠ 0 ∧ fp32.value b = .nan (!M.testBit 22))) := by
  obtain ⟨neg, E, M, hE, hM, rfl⟩ := Fmt.exists_bits (f := fp32) h
  refine ⟨neg, E, M, hM, by rw [Fmt.bits, Fmt.signBit_eq]; rfl, ?_⟩
  rw [Fmt.value_bits hE hM]
  simp only [fp32, true_and, zero_ne_one, false_and, if_false] at hE ⊢
  by_cases h0 : E = 0
  · exact .inl ⟨h0, by simp [h0]⟩
  by_cases h255 : E = 255
  · by_cases hM0 : M = 0
    · exact .inr (.inr (.inl ⟨h255, hM0, by simp [h255, hM0]⟩))
    · exact .inr (.inr (.inr ⟨h255, hM0, by simp [h255, hM0]⟩))
  · refine .inr (.inl ⟨by omega, by omega, ?_⟩)
    rw [if_neg (by omega), if_neg h0]
    congr 1; push_cast; ring

/-- A finite number of FP32 that is not 0 and lies below the normal ones. -/
def subnormal32 (b : Nat) : Prop :=
  (fp32.value b).isFin = true ∧ (fp32.value b).real ≠ 0 ∧ |(fp32.value b).real| < 2 ^ (-126 : ℤ)

/-- The normal numbers of FP32 lie at 2^-126 or above. -/
theorem normal32_le (M : Nat) {E : Nat} (h : 0 < E) : (2 : ℚ) ^ (-126 : ℤ) ≤ ((M + 2 ^ 23 : Nat) : ℚ) * 2 ^ ((E : ℤ) - 150) :=
  calc (2 : ℚ) ^ (-126 : ℤ) = 2 ^ 23 * 2 ^ (-149 : ℤ) := by norm_num
    _ ≤ _ := by
      have exponent : (2 : ℚ) ^ (-149 : ℤ) ≤ 2 ^ ((E : ℤ) - 150) := zpow_le_zpow_right₀ one_le_two (by omega)
      have mantissa : (2 : ℚ) ^ 23 ≤ ((M + 2 ^ 23 : Nat) : ℚ) := by push_cast; linarith [Nat.cast_nonneg (α := ℚ) M]
      gcongr

theorem subnormal32_iff {b : Nat} (h : b < 2 ^ 32) : subnormal32 b ↔ b % 2 ^ 31 ≠ 0 ∧ b % 2 ^ 31 < 2 ^ 23 := by
  obtain ⟨neg, E, M, hM, hb, ⟨hE, value⟩ | ⟨hE, hE', value⟩ | ⟨hE, hM0, value⟩ | ⟨hE, hM0, value⟩⟩ := fp32_cases h <;>
    rw [subnormal32, value]
  · have small : (M : ℚ) * 2 ^ (-149 : ℤ) < 2 ^ (-126 : ℤ) :=
      calc (M : ℚ) * 2 ^ (-149 : ℤ) < 2 ^ 23 * 2 ^ (-149 : ℤ) := by gcongr; exact_mod_cast hM
        _ = 2 ^ (-126 : ℤ) := by norm_num
    have magnitude : b % 2 ^ 31 = M := by cases neg <;> simp at hb <;> omega
    rw [magnitude, ne_eq, FpNum.real_eq_zero_iff, FpNum.abs_real_fin]
    exact ⟨fun h => ⟨h.2.1, hM⟩, fun h => ⟨rfl, h.1, small⟩⟩
  · have magnitude : 2 ^ 23 ≤ b % 2 ^ 31 := by cases neg <;> simp at hb <;> omega
    rw [FpNum.abs_real_fin]
    exact ⟨fun h => absurd h.2.2 (not_lt.2 (normal32_le M hE)), fun h => absurd h.2 (not_lt.2 magnitude)⟩
  all_goals
    have magnitude : 2 ^ 23 ≤ b % 2 ^ 31 := by cases neg <;> simp at hb <;> omega
    exact ⟨fun h => absurd h.1 Bool.false_ne_true, fun h => absurd h.2 (not_lt.2 magnitude)⟩

/-- What remains of a finite number of FP32 without its magnitude: its sign bit. -/
theorem sub_magnitude {b : Nat} (h : b < 2 ^ 32) (hb : (fp32.value b).isFin = true) :
    b - b % 2 ^ 31 = if (fp32.value b).isNeg then 2 ^ 31 else 0 := by
  obtain ⟨neg, E, M, hM, eq, ⟨hE, value⟩ | ⟨hE, hE', value⟩ | ⟨hE, hM0, value⟩ | ⟨hE, hM0, value⟩⟩ := fp32_cases h <;>
    rw [value] at hb ⊢
  · cases neg <;> simp [FpNum.isNeg] at eq ⊢ <;> omega
  · cases neg <;> simp [FpNum.isNeg] at eq ⊢ <;> omega
  all_goals exact absurd hb Bool.false_ne_true

theorem Fmt.nonFinite_eq (f : Fmt) (b : Nat) : f.nonFinite b = !(f.value b).isFin := by
  unfold Fmt.nonFinite FpNum.isFin
  cases f.value b <;> rfl

open Classical in
/-- A result as it is delivered: under FTZ a subnormal one as a zero of its sign with UF and NX, and NF with what is not finite. -/
theorem deliverF32_eq (ftz : Bool) {b : Nat} (h : b < 2 ^ 32) (fl : BitVec 5) :
    deliverF32 ftz (b, fl) =
      (if ftz = true ∧ subnormal32 b then (if (fp32.value b).isNeg then 2 ^ 31 else 0) else b,
       fl ||| (if ftz = true ∧ subnormal32 b then fUF ||| fNX else 0) ||| if (fp32.value b).isFin then 0 else fNF) := by
  have cond : (ftz && decide (b % pow2 31 ≠ 0 ∧ b % pow2 31 < pow2 23)) = decide (ftz = true ∧ subnormal32 b) := by
    rw [Bool.eq_iff_iff, Bool.and_eq_true, decide_eq_true_iff, decide_eq_true_iff, subnormal32_iff h, pow2_eq, pow2_eq]
  have form : deliverF32 ftz (b, fl) =
      let r := if decide (ftz = true ∧ subnormal32 b) then (b - b % pow2 31, fl ||| fUF ||| fNX) else (b, fl)
      (r.1, r.2 ||| flag (fp32.nonFinite r.1) fNF) := by rw [← cond]; rfl
  by_cases flush : ftz = true ∧ subnormal32 b
  · have zero : fp32.nonFinite (if (fp32.value b).isNeg then 2 ^ 31 else 0) = false := by
      cases (fp32.value b).isNeg <;> decide +kernel
    rw [form, decide_eq_true flush]
    simp only [if_true, pow2_eq, sub_magnitude h flush.2.1, zero, if_pos flush, flush.2.1, BitVec.or_assoc]
    rfl
  · rw [form, decide_eq_false flush]
    simp only [Bool.false_eq_true, if_false, if_neg flush, Fmt.nonFinite_eq]
    cases (fp32.value b).isFin <;> simp [flag]

/-! ## Results of the lanes (R61, R132) -/

theorem Fmt.roundTo_lt {f : Fmt} (hf : f ∈ formats) {mode d r16 : Nat} (h1 : 1 ≤ mode) (h6 : mode ≤ 6) (n : Nat) (hd : 0 < d)
    (sat neg : Bool) : (f.roundTo mode sat neg n d false r16).1 < 2 ^ f.width := by
  rcases Nat.eq_zero_or_pos n with rfl | hn
  · rw [Fmt.roundTo_zero]
    have := (formats_regular f hf).fields
    exact (Nat.le_add_right _ _).trans_lt (Fmt.bits_lt (E := 0) (M := 0) (by positivity) (by positivity) neg)
  · obtain ⟨beyond, within⟩ := Fmt.roundTo_eq (r16 := r16) h1 h6 hn hd (formats_regular f hf) sat neg
    by_cases h : f.topQ < f.nearest mode neg r16 (n / d)
    · rw [beyond h]
      dsimp only
      split
      · exact (special_lt f hf neg).1
      · exact (special_lt f hf neg).2
    · exact (within (not_lt.1 h)).1

theorem clamp01_lt {b : Nat} (h : b < 2 ^ 32) : fp32.clamp01 b < 2 ^ 32 := by
  have one : fp32.bias.toNat * pow2 fp32.mb < 2 ^ 32 := by decide +kernel
  unfold Fmt.clamp01
  dsimp only
  split
  · norm_num
  · split <;> omega
  · split
    · norm_num
    · split <;> omega

/-- A finite value as a format rounds it (R111). -/
theorem Fmt.ofNum_fin (f : Fmt) (mode : Nat) (sat : Bool) (r16 : Nat) (neg : Bool) (m : Nat) (e : Int) :
    ∃ n d : Nat, 0 < d ∧ (n : ℚ) / d = m * 2 ^ e ∧ f.ofNum mode sat r16 (.fin neg m e) = f.roundTo mode sat neg n d false r16 := by
  obtain ⟨pos, ratio⟩ := scaleQ_spec m one_pos e
  exact ⟨_, _, pos, by simpa using ratio, rfl⟩

theorem Fmt.ofNum_zero (f : Fmt) (mode : Nat) (sat : Bool) (r16 : Nat) (neg : Bool) (e : Int) :
    f.ofNum mode sat r16 (.fin neg 0 e) = (f.signBit neg, 0) := by
  have zero := (scaleQ_zero_iff 0 1 e).2 rfl
  simp only [Fmt.ofNum, zero, Fmt.roundTo_zero]

theorem ofNum32_nan (mode : Nat) (sat : Bool) (r16 : Nat) (s : Bool) :
    fp32.ofNum mode sat r16 (.nan s) = (fp32.canon, flag s fIV) := rfl

theorem ofNum32_inf (mode : Nat) (sat : Bool) (r16 : Nat) (b : Bool) :
    fp32.ofNum mode sat r16 (.inf b) = (fp32.infBits b, 0) := rfl

theorem finish32_some (ftz : Bool) (mode : Nat) (sat : Bool) (scl : Int) (r16 : Nat) (sig : Bool) (v : FpNum) :
    finish32 ftz mode sat scl r16 sig (some v) =
      let r := fp32.ofNum mode false r16 (v.scale scl)
      deliverF32 ftz (if sat then fp32.clamp01 r.1 else r.1, r.2 ||| flag sig fIV) := rfl

theorem finish32_none (ftz : Bool) (mode : Nat) (sat : Bool) (scl : Int) (r16 : Nat) (sig : Bool) :
    finish32 ftz mode sat scl r16 sig none = deliverF32 ftz (if sat then fp32.clamp01 fp32.canon else fp32.canon,
      fIV ||| flag sig fIV) := rfl

/-! ## The obligation -/

theorem flags_of_rounding (p q : Prop) [Decidable p] [Decidable q] :
    let fl := flag (decide p) fNX ||| flag (decide (p ∧ q)) fUF
    (fNX &&& fl ≠ 0 ↔ p) ∧ (fUF &&& fl ≠ 0 ↔ p ∧ q) ∧ fOF &&& fl = 0 := by
  by_cases hp : p <;> by_cases hq : q <;> simp [hp, hq, flag] <;> decide

/-- What RoundTo delivers, and its flags, by the value rounded without regard to the largest finite value. -/
theorem roundTo_by_rule {f : Fmt} {mode n d r16 : Nat} (sat neg : Bool) (hf : f ∈ formats) (h1 : 1 ≤ mode) (h6 : mode ≤ 6)
    (hn : 0 < n) (hd : 0 < d) :
    let x : ℚ := n / d
    let y := f.nearest mode neg r16 x
    let res := f.roundTo mode sat neg n d false r16
    (f.topQ < y →
      res.2 = fOF ||| fNX ∧
      (sat = true ∨ mode = 2 ∨ (mode = 3 ∧ neg = true) ∨ (mode = 4 ∧ neg = false) ∨ f.kind = 2 →
        (f.value res.1).real = (if neg then -f.topQ else f.topQ)) ∧
      (sat = false → mode = 1 ∨ mode = 5 ∨ mode = 6 ∨ (mode = 3 ∧ neg = false) ∨ (mode = 4 ∧ neg = true) →
        (f.kind = 0 → f.value res.1 = .inf neg) ∧ (f.kind = 1 → res.1 = f.canon))) ∧
    (y ≤ f.topQ →
      (f.value res.1).isFin = true ∧ (f.value res.1).isNeg = neg ∧
      (f.value res.1).real = (if neg then -y else y) ∧ res.1 < 2 ^ f.width ∧
      (fNX &&& res.2 ≠ 0 ↔ y ≠ x) ∧ (fUF &&& res.2 ≠ 0 ↔ y ≠ x ∧ y < 2 ^ (1 - f.bias)) ∧ fOF &&& res.2 = 0) := by
  intro x y res
  obtain ⟨beyond, within⟩ := Fmt.roundTo_eq (r16 := r16) h1 h6 hn hd (formats_regular f hf) sat neg
  obtain ⟨inf, nan, most⟩ := value_overflow f hf neg
  constructor
  · intro h
    have hres : res = _ := beyond h
    have top : (f.value (f.maxBits neg)).real = if neg then -f.topQ else f.topQ := by
      rw [Fmt.real_maxBits hf]; cases neg <;> simp
    rw [hres]
    refine ⟨rfl, fun hc => ?_, fun hs hm => ?_⟩
    · by_cases clamps : clampsToMax mode sat neg = true
      · rw [if_pos clamps, top]
      · rw [if_neg clamps, most, top]
        rw [clampsToMax_iff] at clamps
        exact (or_assoc.2 (or_assoc.2 (or_assoc.2 hc))).resolve_left (by rwa [or_assoc, or_assoc])
    · have free : ¬clampsToMax mode sat neg = true := by
        rw [clampsToMax_iff, hs]
        rcases hm with rfl | rfl | rfl | ⟨rfl, rfl⟩ | ⟨rfl, rfl⟩ <;> simp
      rw [if_neg free]
      exact ⟨inf, nan⟩
  · intro h
    obtain ⟨lt, ⟨m, e, value, real⟩, flags⟩ := within h
    obtain ⟨nx, uf, no_of⟩ := flags_of_rounding (y ≠ x) (y < 2 ^ (1 - f.bias))
    have value' : f.value res.1 = .fin neg m e := value
    have flags' : res.2 = _ := flags
    rw [value', flags']
    refine ⟨rfl, rfl, ?_, lt, nx, uf, no_of⟩
    rw [FpNum.real_fin, mul_assoc, real]
    cases neg <;> simp [y, x]

open Classical in
/-- An FP32 result of a lane from a finite value that is not 0. -/
theorem finish32_by_rule (ftz sat neg sig : Bool) {mode m r16 : Nat} (scl e : Int) (h1 : 1 ≤ mode) (h6 : mode ≤ 6) :
    let t := finish32 ftz mode sat scl r16 sig (some (.fin neg m e))
    ∃ n d : Nat, 0 < d ∧ (n : ℚ) / d = m * 2 ^ (e + scl) ∧
      let q := fp32.roundTo mode false neg n d false r16
      let c := if sat then fp32.clamp01 q.1 else q.1
      t.1 = (if ftz = true ∧ subnormal32 c then (if (fp32.value c).isNeg then 2 ^ 31 else 0) else c) ∧
      t.2 = q.2 ||| (if ftz = true ∧ subnormal32 c then fUF ||| fNX else 0) ||| (if sig then fIV else 0) |||
        (if (fp32.value t.1).isFin then 0 else fNF) := by
  obtain ⟨n, d, hd, ratio, rounded⟩ := fp32.ofNum_fin mode false r16 neg m (e + scl)
  refine ⟨n, d, hd, ratio, ?_⟩
  intro q c
  have hq : q.1 < 2 ^ 32 := Fmt.roundTo_lt (f := fp32) (by decide) h1 h6 n hd false neg
  have hc : c < 2 ^ 32 := by
    show (if sat then fp32.clamp01 q.1 else q.1) < _
    split
    · exact clamp01_lt hq
    · exact hq
  have delivered : finish32 ftz mode sat scl r16 sig (some (.fin neg m e)) = deliverF32 ftz (c, q.2 ||| flag sig fIV) := by
    rw [finish32_some, FpNum.scale, rounded]
  rw [delivered, deliverF32_eq ftz hc]
  refine ⟨rfl, ?_⟩
  have finite : (fp32.value (if ftz = true ∧ subnormal32 c then (if (fp32.value c).isNeg then 2 ^ 31 else 0) else c)).isFin =
      (fp32.value c).isFin := by
    split
    next flush =>
      rw [flush.2.1]
      cases (fp32.value c).isNeg <;> decide +kernel
    · rfl
  rw [finite, BitVec.or_assoc q.2, BitVec.or_comm (flag sig fIV), ← BitVec.or_assoc q.2]
  cases sig <;> rfl

/-- Invalid operations, NaNs, infinities and zeros. -/
theorem finish32_special (ftz sat sig : Bool) (mode r16 : Nat) (scl e : Int) (b : Bool) :
    let fin (v : Option FpNum) : Nat × BitVec 5 := finish32 ftz mode sat scl r16 sig v
    (fin none).1 = (if sat then 0 else fp32.canon) ∧
    (fin none).2 = fIV ||| (if sig then fIV else 0) ||| (if sat then 0 else fNF) ∧
    (sat = false → (fin (some (.nan false))).1 = fp32.canon ∧ (fin (some (.inf b))).1 = fp32.infBits b ∧
      (fin (some (.fin b 0 e))).1 = if b then 2 ^ 31 else 0) ∧
    (sat = true → (fin (some (.nan false))).1 = 0 ∧ (fin (some (.inf b))).1 = (if b then 0 else 0x3F800000) ∧
      (fin (some (.fin b 0 e))).1 = 0) := by
  simp only [finish32_none, finish32_some, FpNum.scale, Fmt.ofNum_zero, ofNum32_nan, ofNum32_inf]
  clear mode r16 scl e
  revert ftz sat sig b
  decide +kernel

/-- Settles O6: RoundTo by its quotient and its binade, and what FTZ and SAT make of a rounded value. -/
theorem numberFormatsAndRounding : Obligations.NumberFormatsAndRounding := by
  classical
  unfold Obligations.NumberFormatsAndRounding
  refine ⟨?_, fun f mode sat neg n d r16 hf h1 h6 hn hd _ => ?_, fun ftz sat neg sig mode m r16 scl e h1 h6 _ _ => ?_,
    finish32_special⟩
  · obtain ⟨r1, r2, r3, r4, r5, r6, r7, r8⟩ := formats_rows
    exact ⟨r1, r2, r3, r4, r5, r6, r7, r8, by decide +kernel⟩
  · have top : (f.value (f.maxBits false)).real = f.topQ := by rw [Fmt.real_maxBits hf, signQ_false, one_mul]
    simp only [top]
    exact roundTo_by_rule sat neg hf h1 h6 hn hd
  · obtain ⟨n, d, hd, ratio, value, flags⟩ := finish32_by_rule (r16 := r16) (m := m) ftz sat neg sig scl e h1 h6
    refine ⟨n, d, hd, ratio, ?_⟩
    have tiny (c : Nat) : (fp32.value c).isFin = true ∧ (ftz = true ∧ (fp32.value c).real ≠ 0 ∧
        |(fp32.value c).real| < 2 ^ (-126 : ℤ)) ↔ ftz = true ∧ subnormal32 c := by unfold subnormal32; tauto
    simp only [tiny]
    exact ⟨by convert value, by convert flags⟩

end Sys2Proof.Machine
end

section
/-! Float sums (R124): the tree of rfadd as the levels of the model compute it, and the running sums of pffadd. -/
namespace Sys2Proof.Machine

theorem or_zero5 (b : BitVec 5) : b ||| 0 = b := BitVec.or_zero

/-! ## One addition -/

/-- A generator after an addition that may draw from it. -/
def genAfter (mode : Nat) (g : Word) : Word := if mode = 6 then advGen g else g

/-- The state of a sum in a group that differs in its generators alone. -/
def sumState (g : Group) (gens : FMap Word) (fl : BitVec 5) : SumSt := ⟨{ g with gens := gens }, fl⟩

/-- One addition as the state of a sum sees it: the value and flags of `addOnce`, and one generator. -/
theorem addF32_eq (g : Group) (gens : FMap Word) (fl : BitVec 5) (a b : FpNum) (n : Nat) :
    ∃ gens', addF32 (sumState g gens fl) a b n =
      ((addOnce (g.fmode.getLsbD 3) (g.fmode.toNat % 8) (FMap.get 0 gens n) a b).1,
        sumState g gens' (fl ||| (addOnce (g.fmode.getLsbD 3) (g.fmode.toNat % 8) (FMap.get 0 gens n) a b).2)) ∧
      ∀ k, FMap.get 0 gens' k = if k = n then genAfter (g.fmode.toNat % 8) (FMap.get 0 gens k) else FMap.get 0 gens k := by
  by_cases h6 : g.fmode.toNat % 8 = 6
  · refine ⟨gens.ins n (advGen (FMap.get 0 gens n)), by simp only [sumState, addF32, addOnce, h6, if_true]; rfl, fun k => ?_⟩
    rw [FMap.get_ins, genAfter, if_pos h6]
    split
    next hk => rw [hk]
    · rfl
  · refine ⟨gens, by simp only [sumState, addF32, addOnce, h6, if_false]; rfl, fun k => ?_⟩
    rw [genAfter, if_neg h6, ite_self]

/-! ## Blocks of the tree -/

/-- Two neighbouring blocks as one: the flags of the addition alone. -/
def joinBlocks (ftz : Bool) (mode : Nat) (p q : Option (FpNum × Nat)) (g : Nat → Word) : Block :=
  match p, q with
  | some (x, l), some (y, _) =>
    let r := addOnce ftz mode (g l) x y
    ⟨some (r.1, l), r.2, fun k => if k = l then genAfter mode (g k) else g k⟩
  | some x, none => ⟨some x, 0, g⟩
  | none, y => ⟨y, 0, g⟩

theorem treeOf_zero (ftz : Bool) (mode : Nat) (a : Nat → Option FpNum) (i : Nat) (g : Nat → Word) :
    treeOf ftz mode a 0 i g = ⟨(a i).map fun x => (x, i), 0, g⟩ := rfl

theorem treeOf_succ (ftz : Bool) (mode : Nat) (a : Nat → Option FpNum) (n i : Nat) (g : Nat → Word) :
    let p := treeOf ftz mode a n (2 * i) g
    let q := treeOf ftz mode a n (2 * i + 1) p.gens
    let j := joinBlocks ftz mode p.val q.val q.gens
    treeOf ftz mode a (n + 1) i g = ⟨j.val, p.fl ||| q.fl ||| j.fl, j.gens⟩ := by
  intro p q j
  have gens_eq (l : Nat) : (fun k => if k = l then genAfter mode (q.gens k) else q.gens k) =
      fun k => if mode = 6 ∧ k = l then advGen (q.gens k) else q.gens k := by
    funext k
    by_cases h6 : mode = 6 <;> simp [genAfter, h6]
  show treeOf ftz mode a (n + 1) i g = ⟨(joinBlocks ftz mode p.val q.val q.gens).val,
    p.fl ||| q.fl ||| (joinBlocks ftz mode p.val q.val q.gens).fl, (joinBlocks ftz mode p.val q.val q.gens).gens⟩
  rw [treeOf]
  change (match p.val, q.val with
    | some (x, l), some (y, _) => (⟨some ((addOnce ftz mode (q.gens l) x y).1, l),
        p.fl ||| q.fl ||| (addOnce ftz mode (q.gens l) x y).2,
        fun k => if mode = 6 ∧ k = l then advGen (q.gens k) else q.gens k⟩ : Block)
    | some x, none => ⟨some x, p.fl ||| q.fl, q.gens⟩
    | none, y => ⟨y, p.fl ||| q.fl, q.gens⟩) = _
  rcases p.val with _ | ⟨x, l⟩ <;> rcases q.val with _ | ⟨y, l'⟩ <;> simp only [joinBlocks, or_zero5, gens_eq]

/-- What a joint block is: the addition where both have a value, else the one that has one; a draw from one generator. -/
theorem joinBlocks_spec (ftz : Bool) (mode : Nat) (p q : Option (FpNum × Nat)) (g : Nat → Word) :
    let j := joinBlocks ftz mode p q g
    (j.val = none ↔ p = none ∧ q = none) ∧
    (∀ x l, j.val = some (x, l) → (∃ y, p = some (y, l)) ∨ p = none ∧ q = some (x, l)) ∧
    (∀ k, (∀ x, p ≠ some (x, k)) → j.gens k = g k) := by
  rcases p with _ | ⟨x, l⟩ <;> rcases q with _ | ⟨y, l'⟩ <;> simp only [joinBlocks]
  case some.some =>
    refine ⟨by simp, fun z k h => .inl ⟨x, by simp_all⟩, fun k hk => if_neg ?_⟩
    rintro rfl
    exact hk x rfl
  all_goals simp

/-- It depends on no generator but that of the first block's lowest lane. -/
theorem joinBlocks_congr (ftz : Bool) (mode : Nat) (p q : Option (FpNum × Nat)) {g h : Nat → Word} {s : Nat → Prop}
    (hs : ∀ x l, p = some (x, l) → s l) (hg : ∀ k, s k → g k = h k) :
    let j := joinBlocks ftz mode p q g
    let j' := joinBlocks ftz mode p q h
    j.val = j'.val ∧ j.fl = j'.fl ∧ ∀ k, s k → j.gens k = j'.gens k := by
  rcases p with _ | ⟨x, l⟩ <;> rcases q with _ | ⟨y, l'⟩
  case some.some =>
    have hl := hg l (hs x l rfl)
    refine ⟨by simp [joinBlocks, hl], by simp [joinBlocks, hl], fun k hk => ?_⟩
    simp only [joinBlocks, hg k hk]
  all_goals exact ⟨rfl, rfl, hg⟩

section
variable (ftz : Bool) (mode : Nat) (a : Nat → Option FpNum)

/-- A block of the tree names a lane of its own, has a value where a lane of it has one, and leaves the generators of other lanes
alone. -/
theorem treeOf_local (n i : Nat) (g : Nat → Word) :
    let t := treeOf ftz mode a n i g
    (∀ x l, t.val = some (x, l) → l / 2 ^ n = i) ∧ (t.val = none ↔ ∀ l, l / 2 ^ n = i → a l = none) ∧
    ∀ k, k / 2 ^ n ≠ i → t.gens k = g k := by
  induction n generalizing i g with
  | zero =>
    intro t
    refine ⟨fun x l h => ?_, ?_, fun k _ => rfl⟩
    · obtain ⟨y, -, hy⟩ := Option.map_eq_some_iff.1 (show (a i).map (fun x => (x, i)) = some (x, l) from h)
      simpa using (congrArg Prod.snd hy).symm
    · show (a i).map (fun x => (x, i)) = none ↔ _
      simp
  | succ n ih =>
    have half (l : Nat) : l / 2 ^ (n + 1) = i ↔ l / 2 ^ n = 2 * i ∨ l / 2 ^ n = 2 * i + 1 := by
      rw [pow_succ, ← Nat.div_div_eq_div_mul]; omega
    obtain ⟨lowp, valp, genp⟩ := ih (2 * i) g
    set p := treeOf ftz mode a n (2 * i) g
    obtain ⟨lowq, valq, genq⟩ := ih (2 * i + 1) p.gens
    set q := treeOf ftz mode a n (2 * i + 1) p.gens
    obtain ⟨none_iff, named, others⟩ := joinBlocks_spec ftz mode p.val q.val q.gens
    rw [treeOf_succ]
    refine ⟨fun x l h => (half l).2 ?_, ?_, fun k hk => ?_⟩
    · obtain ⟨y, hy⟩ | ⟨-, hy⟩ := named x l h
      · exact .inl (lowp y l hy)
      · exact .inr (lowq x l hy)
    · refine none_iff.trans ?_
      rw [valp, valq]
      simp only [half, or_imp, forall_and]
    · rw [ne_eq, half, not_or] at hk
      rw [← genp k hk.1, ← genq k hk.2]
      exact others k fun x hx => hk.1 (lowp x k hx)

/-- A block of the tree depends on its own lanes' generators alone. -/
theorem treeOf_congr (n i : Nat) {g h : Nat → Word} (hg : ∀ k, k / 2 ^ n = i → g k = h k) :
    let t := treeOf ftz mode a n i g
    let u := treeOf ftz mode a n i h
    t.val = u.val ∧ t.fl = u.fl ∧ ∀ k, k / 2 ^ n = i → t.gens k = u.gens k := by
  induction n generalizing i g h with
  | zero => exact ⟨rfl, rfl, hg⟩
  | succ n ih =>
    have half (l : Nat) : l / 2 ^ (n + 1) = i ↔ l / 2 ^ n = 2 * i ∨ l / 2 ^ n = 2 * i + 1 := by
      rw [pow_succ, ← Nat.div_div_eq_div_mul]; omega
    obtain ⟨valp, flp, genp⟩ := ih (2 * i) fun k hk => hg k ((half k).2 (.inl hk))
    have outp := (treeOf_local ftz mode a n (2 * i) g).2.2
    have outp' := (treeOf_local ftz mode a n (2 * i) h).2.2
    have lowp := (treeOf_local ftz mode a n (2 * i) h).1
    set p := treeOf ftz mode a n (2 * i) g
    set p' := treeOf ftz mode a n (2 * i) h
    obtain ⟨valq, flq, genq⟩ := ih (2 * i + 1) (g := p.gens) (h := p'.gens) fun k hk => by
      rw [outp k (by omega), outp' k (by omega), hg k ((half k).2 (.inr hk))]
    have outq := (treeOf_local ftz mode a n (2 * i + 1) p.gens).2.2
    have outq' := (treeOf_local ftz mode a n (2 * i + 1) p'.gens).2.2
    set q := treeOf ftz mode a n (2 * i + 1) p.gens
    set q' := treeOf ftz mode a n (2 * i + 1) p'.gens
    have gens (k : Nat) (hk : k / 2 ^ (n + 1) = i) : q.gens k = q'.gens k := by
      rcases (half k).1 hk with h0 | h1
      · rw [outq k (by omega), outq' k (by omega), genp k h0]
      · exact genq k h1
    rw [treeOf_succ, treeOf_succ]
    obtain ⟨val, fl, gens'⟩ := joinBlocks_congr ftz mode p'.val q'.val (s := fun k => k / 2 ^ (n + 1) = i)
      (fun x l hl => (half l).2 (.inl (lowp x l hl))) gens
    rw [valp, valq, flp, flq]
    exact ⟨val, by rw [fl], gens'⟩

/-- The generators once every block of 2^n lanes is added up. -/
def levelGens (g : Nat → Word) (n : Nat) (k : Nat) : Word := (treeOf ftz mode a n (k / 2 ^ n) g).gens k

/-- The addition that joins the two halves of a block, after all smaller blocks. -/
def levelJoin (g : Nat → Word) (n i : Nat) : Block :=
  joinBlocks ftz mode (treeOf ftz mode a n (2 * i) g).val (treeOf ftz mode a n (2 * i + 1) g).val (levelGens ftz mode a g n)

theorem treeOf_levelJoin (n i : Nat) (g : Nat → Word) :
    let t := treeOf ftz mode a (n + 1) i g
    let j := levelJoin ftz mode a g n i
    t.val = j.val ∧ t.fl = (treeOf ftz mode a n (2 * i) g).fl ||| (treeOf ftz mode a n (2 * i + 1) g).fl ||| j.fl ∧
    ∀ k, k / 2 ^ (n + 1) = i → t.gens k = j.gens k := by
  have half (l : Nat) : l / 2 ^ (n + 1) = i ↔ l / 2 ^ n = 2 * i ∨ l / 2 ^ n = 2 * i + 1 := by
    rw [pow_succ, ← Nat.div_div_eq_div_mul]; omega
  obtain ⟨lowp, -, outp⟩ := treeOf_local ftz mode a n (2 * i) g
  obtain ⟨valq, flq, genq⟩ := treeOf_congr ftz mode a n (2 * i + 1) (g := (treeOf ftz mode a n (2 * i) g).gens) (h := g)
    fun k hk => outp k (by omega)
  obtain ⟨-, -, outq⟩ := treeOf_local ftz mode a n (2 * i + 1) (treeOf ftz mode a n (2 * i) g).gens
  have gens (k : Nat) (hk : k / 2 ^ (n + 1) = i) :
      (treeOf ftz mode a n (2 * i + 1) (treeOf ftz mode a n (2 * i) g).gens).gens k = levelGens ftz mode a g n k := by
    rcases (half k).1 hk with h0 | h1
    · rw [levelGens, outq k (by omega), h0]
    · rw [levelGens, genq k h1, h1]
  obtain ⟨val, fl, gens'⟩ := joinBlocks_congr ftz mode (treeOf ftz mode a n (2 * i) g).val
    (treeOf ftz mode a n (2 * i + 1) g).val (s := fun k => k / 2 ^ (n + 1) = i)
    (fun x l hl => (half l).2 (.inl (lowp x l hl))) gens
  rw [treeOf_succ]
  simp only [valq, flq]
  exact ⟨val, by rw [fl]; rfl, gens'⟩

end

/-! ## Levels of the tree -/

/-- A block's value as the model writes a partial sum. -/
def partialSum (p : Option (FpNum × Nat)) : Option PSum := p.map fun q => ⟨q.1, q.2⟩

/-- The flags of some additions together. -/
def orAll (l : List (BitVec 5)) : BitVec 5 := l.foldl (fun p q => p ||| q) 0

theorem orAll_cons (x : BitVec 5) (l : List (BitVec 5)) : orAll (x :: l) = x ||| orAll l := by
  have move (l : List (BitVec 5)) (x y : BitVec 5) : l.foldl (fun p q => p ||| q) (x ||| y) = x ||| l.foldl (fun p q => p ||| q) y := by
    induction l generalizing y with
    | nil => rfl
    | cons z l ih => rw [List.foldl_cons, List.foldl_cons, ← ih, BitVec.or_assoc]
  rw [orAll, List.foldl_cons, BitVec.or_comm, move, orAll]

section
variable (g : Group) (ftz : Bool) (mode : Nat) (hf : g.fmode.getLsbD 3 = ftz) (hm : g.fmode.toNat % 8 = mode)
include hf hm

/-- The first pair of a level. -/
theorem treeLevel_cons (gens : FMap Word) (fl : BitVec 5) (p q : Option (FpNum × Nat)) (t : List (Option PSum)) :
    let j := joinBlocks ftz mode p q fun k => FMap.get 0 gens k
    ∃ gens', (∀ k, FMap.get 0 gens' k = j.gens k) ∧
      treeLevel (sumState g gens fl) (partialSum p :: partialSum q :: t) =
        (partialSum j.val :: (treeLevel (sumState g gens' (fl ||| j.fl)) t).1,
          (treeLevel (sumState g gens' (fl ||| j.fl)) t).2) := by
  intro j
  rcases p with _ | ⟨x, l⟩ <;> rcases q with _ | ⟨y, l'⟩
  case some.some =>
    obtain ⟨gens', sum, after⟩ := addF32_eq g gens fl x y l
    rw [hf, hm] at sum
    rw [hm] at after
    refine ⟨gens', after, ?_⟩
    show (let (rest, st) := treeLevel (addF32 (sumState g gens fl) x y l).2 t
      (some (⟨(addF32 (sumState g gens fl) x y l).1, l⟩ : PSum) :: rest, st)) = _
    rw [sum]
    rfl
  all_goals exact ⟨gens, fun _ => rfl, by simp only [j, joinBlocks, or_zero5]; rfl⟩

/-- One level from block j on: the partial sums of the next level, the additions' flags, and the generators once the blocks of that
level are added up. -/
theorem treeLevel_range (a : Nat → Option FpNum) (g₀ : Nat → Word) (n : Nat) (m j : Nat) (gens : FMap Word) (fl : BitVec 5)
    (hg : ∀ k, j ≤ k / 2 ^ (n + 1) → k / 2 ^ (n + 1) < j + m → FMap.get 0 gens k = levelGens ftz mode a g₀ n k) :
    ∃ gens', treeLevel (sumState g gens fl)
        ((List.range' (2 * j) (2 * m)).map fun i => partialSum (treeOf ftz mode a n i g₀).val) =
      ((List.range' j m).map fun i => partialSum (treeOf ftz mode a (n + 1) i g₀).val,
        sumState g gens' (fl ||| orAll ((List.range' j m).map fun i => (levelJoin ftz mode a g₀ n i).fl))) ∧
      ∀ k, FMap.get 0 gens' k =
        if j ≤ k / 2 ^ (n + 1) ∧ k / 2 ^ (n + 1) < j + m then levelGens ftz mode a g₀ (n + 1) k else FMap.get 0 gens k := by
  induction m generalizing j gens fl with
  | zero =>
    refine ⟨gens, by simp [orAll, treeLevel], fun k => (if_neg (by omega)).symm⟩
  | succ m ih =>
    have pairs : List.range' (2 * j) (2 * (m + 1)) = 2 * j :: (2 * j + 1) :: List.range' (2 * (j + 1)) (2 * m) := by
      rw [show 2 * (m + 1) = 2 * m + 1 + 1 by ring, List.range'_succ, List.range'_succ]; rfl
    obtain ⟨val, -, joined⟩ := treeOf_levelJoin ftz mode a n j g₀
    obtain ⟨lowp, -, -⟩ := treeOf_local ftz mode a n (2 * j) g₀
    have half (l : Nat) (h : l / 2 ^ n = 2 * j) : l / 2 ^ (n + 1) = j := by
      rw [pow_succ, ← Nat.div_div_eq_div_mul]; omega
    obtain ⟨valj, flj, gensj⟩ := joinBlocks_congr ftz mode (treeOf ftz mode a n (2 * j) g₀).val
      (treeOf ftz mode a n (2 * j + 1) g₀).val (s := fun k => k / 2 ^ (n + 1) = j)
      (fun x l hl => half l (lowp x l hl)) fun k hk => hg k (by omega) (by omega)
    obtain ⟨-, -, others⟩ := joinBlocks_spec ftz mode (treeOf ftz mode a n (2 * j) g₀).val
      (treeOf ftz mode a n (2 * j + 1) g₀).val fun k => FMap.get 0 gens k
    obtain ⟨gens₁, after, first⟩ := treeLevel_cons g ftz mode hf hm gens fl (treeOf ftz mode a n (2 * j) g₀).val
      (treeOf ftz mode a n (2 * j + 1) g₀).val
      ((List.range' (2 * (j + 1)) (2 * m)).map fun i => partialSum (treeOf ftz mode a n i g₀).val)
    have untouched (k : Nat) (hk : k / 2 ^ (n + 1) ≠ j) : FMap.get 0 gens₁ k = FMap.get 0 gens k :=
      (after k).trans (others k fun x hx => hk (half k (lowp x k hx)))
    obtain ⟨gens', rest, final⟩ := ih (j + 1) gens₁ (fl ||| (levelJoin ftz mode a g₀ n j).fl) fun k hk hk' => by
      rw [untouched k (by omega), hg k (by omega) (by omega)]
    refine ⟨gens', ?_, fun k => ?_⟩
    · rw [pairs, List.map_cons, List.map_cons, first, flj, valj]
      rw [show joinBlocks ftz mode _ _ (levelGens ftz mode a g₀ n) = levelJoin ftz mode a g₀ n j from rfl, rest, ← val,
        List.range'_succ]
      simp only [List.map_cons, orAll_cons, BitVec.or_assoc]
    · rw [final k]
      by_cases hk : k / 2 ^ (n + 1) = j
      · rw [if_neg (by omega), if_pos (by omega), after, gensj k hk, levelGens, hk, joined k hk]
        rfl
      · rw [untouched k hk]
        split
        · rw [if_pos (by omega)]
        · rw [if_neg (by omega)]

omit hf hm in
/-- The flags of a level's additions complete those of its blocks. -/
theorem orAll_level (a : Nat → Option FpNum) (g₀ : Nat → Word) (n m j : Nat) :
    orAll ((List.range' (2 * j) (2 * m)).map fun i => (treeOf ftz mode a n i g₀).fl) |||
      orAll ((List.range' j m).map fun i => (levelJoin ftz mode a g₀ n i).fl) =
    orAll ((List.range' j m).map fun i => (treeOf ftz mode a (n + 1) i g₀).fl) := by
  induction m generalizing j with
  | zero => simp [orAll]
  | succ m ih =>
    have pairs : List.range' (2 * j) (2 * (m + 1)) = 2 * j :: (2 * j + 1) :: List.range' (2 * (j + 1)) (2 * m) := by
      rw [show 2 * (m + 1) = 2 * m + 1 + 1 by ring, List.range'_succ, List.range'_succ]; rfl
    obtain ⟨-, fl, -⟩ := treeOf_levelJoin ftz mode a n j g₀
    rw [pairs, List.range'_succ]
    simp only [List.map_cons, orAll_cons, ← ih (j + 1), fl]
    ac_rfl

/-- All levels from blocks of 2^n lanes up to one of 2^(n + m). -/
theorem treeSum_levels (a : Nat → Option FpNum) (g₀ : Nat → Word) (n m : Nat) (gens : FMap Word)
    (hg : ∀ k, FMap.get 0 gens k = if k < 2 ^ (n + m) then levelGens ftz mode a g₀ n k else g₀ k) :
    ∃ gens', treeSum (sumState g gens (orAll ((List.range' 0 (2 ^ m)).map fun i => (treeOf ftz mode a n i g₀).fl)))
        ((List.range' 0 (2 ^ m)).map fun i => partialSum (treeOf ftz mode a n i g₀).val) m =
      (partialSum (treeOf ftz mode a (n + m) 0 g₀).val, sumState g gens' (treeOf ftz mode a (n + m) 0 g₀).fl) ∧
      ∀ k, FMap.get 0 gens' k = (treeOf ftz mode a (n + m) 0 g₀).gens k := by
  induction m generalizing n gens with
  | zero =>
    refine ⟨gens, by simp [treeSum, orAll], fun k => ?_⟩
    obtain ⟨-, -, outside⟩ := treeOf_local ftz mode a n 0 g₀
    rw [hg k, add_zero]
    split
    next hk => rw [levelGens, Nat.div_eq_of_lt hk]
    next hk => exact (outside k (by rw [ne_eq, Nat.div_eq_zero_iff]; simp; omega)).symm
  | succ m ih =>
    have inside (k : Nat) : k / 2 ^ (n + 1) < 2 ^ m ↔ k < 2 ^ (n + (m + 1)) := by
      rw [Nat.div_lt_iff_lt_mul (by positivity), ← pow_add]; ring_nf
    obtain ⟨gens₁, level, after⟩ := treeLevel_range g ftz mode hf hm a g₀ n (2 ^ m) 0 gens
      (orAll ((List.range' (2 * 0) (2 * 2 ^ m)).map fun i => (treeOf ftz mode a n i g₀).fl)) fun k _ hk => by
        rw [hg k, if_pos ((inside k).1 (by omega))]
    rw [orAll_level] at level
    obtain ⟨gens', rest, final⟩ := ih (n + 1) gens₁ fun k => by
      rw [after k, hg k, zero_add, Nat.add_assoc, Nat.add_comm 1 m]
      simp only [inside, Nat.zero_le, true_and]
      split <;> rfl
    have same : n + 1 + m = n + (m + 1) := by omega
    refine ⟨gens', ?_, fun k => same ▸ final k⟩
    rw [← same, ← rest, pow_succ', treeSum]
    rw [mul_zero] at level
    simp only [level]

end

/-! ## What is delivered -/

/-- A number that an FP32 source is read as. -/
def isRead (v : FpNum) : Prop := ∃ ftz w, v = readF32 ftz w

theorem isRead_addOnce (ftz : Bool) (mode : Nat) (g : Word) (a b : FpNum) : isRead (addOnce ftz mode g a b).1 := ⟨_, _, rfl⟩

theorem isRead_fin {neg : Bool} {m : Nat} {e : Int} (h : isRead (.fin neg m e)) : m < 2 ^ 24 ∧ -149 ≤ e ∧ e ≤ 104 := by
  obtain ⟨ftz, w, hw⟩ := h
  unfold readF32 at hw
  obtain ⟨s, E, M, hM, -, ⟨hE, value⟩ | ⟨hE, hE', value⟩ | ⟨-, -, value⟩ | ⟨-, -, value⟩⟩ := fp32_cases w.isLt <;>
    rw [value] at hw <;> dsimp only at hw
  case inl | inr.inl =>
    split at hw <;> simp only [FpNum.fin.injEq] at hw <;> omega
  all_goals simp at hw

/-- Delivering a number that was read keeps it finite, infinite or NaN. -/
theorem nonFinite_ofNum {v : FpNum} (h : isRead v) : fp32.nonFinite (fp32.ofNum 1 false 0 v).1 = !v.isFin := by
  cases v with
  | nan s => exact (show fp32.nonFinite fp32.canon = true by decide +kernel)
  | inf b => cases b <;> exact (show fp32.nonFinite (fp32.infBits _) = true by decide +kernel)
  | fin neg m e =>
    obtain ⟨hm, he, he'⟩ := isRead_fin h
    obtain ⟨n, d, hd, ratio, rounded⟩ := fp32.ofNum_fin 1 false 0 neg m e
    have top : (m : ℚ) * 2 ^ e ≤ fp32.topQ := by
      have hm' : (m : ℚ) ≤ 0xFFFFFF := by exact_mod_cast Nat.le_of_lt_succ hm
      have he₂ : (2 : ℚ) ^ e ≤ 2 ^ (104 : ℤ) := zpow_le_zpow_right₀ one_le_two he'
      unfold Fmt.topQ
      exact mul_le_mul hm' he₂ (two_zpow_pos e).le (by norm_num)
    obtain ⟨-, m', e', value, -⟩ := Fmt.roundTo_exact (f := fp32) (r16 := 0) (by decide) le_rfl (by norm_num) (by norm_num) false neg hd
      ratio hm he top
    rw [rounded, Fmt.nonFinite_eq, value]
    rfl

/-- NF for a sum that is not finite. -/
def flagNF (v : FpNum) : BitVec 5 := if v.isFin then 0 else fNF

theorem deliverNum_eq {v : FpNum} (h : isRead v) :
    deliverNum v = ((fp32.ofNum 1 false 0 v).1, flag v.isSig fIV ||| flagNF v) := by
  unfold deliverNum flagNF
  dsimp only
  rw [nonFinite_ofNum h]
  cases v.isFin <;> rfl

theorem isRead_treeOf (ftz : Bool) (mode : Nat) {a : Nat → Option FpNum} (ha : ∀ l x, a l = some x → isRead x) (n i : Nat)
    (g : Nat → Word) : ∀ x l, (treeOf ftz mode a n i g).val = some (x, l) → isRead x := by
  induction n generalizing i g with
  | zero =>
    intro x l h
    obtain ⟨y, hy, hxy⟩ := Option.map_eq_some_iff.1 (show (a i).map (fun x => (x, i)) = some (x, l) from h)
    rw [← (Prod.mk.inj hxy).1]
    exact ha i y hy
  | succ n ih =>
    rw [treeOf_succ]
    have left := ih (2 * i) g
    have right := ih (2 * i + 1) (treeOf ftz mode a n (2 * i) g).gens
    revert left right
    generalize (treeOf ftz mode a n (2 * i + 1) _) = q
    generalize treeOf ftz mode a n (2 * i) g = p
    obtain ⟨pv, -, -⟩ := p
    obtain ⟨qv, -, qg⟩ := q
    intro left right x l h
    rcases pv with _ | ⟨y, k⟩ <;> rcases qv with _ | ⟨z, k'⟩ <;> simp only [joinBlocks] at h
    · exact right x l h
    · exact right x l h
    · exact left x l h
    · rw [← (Prod.mk.inj (Option.some.inj h)).1]
      exact isRead_addOnce ..

/-! ## rfadd -/

/-- The lanes' values that a sum starts from. -/
def lanesRead (x : Ix) (a : Nat) (l : Nat) : Option FpNum :=
  if x.ex.getLsbD l then some (readF32 x.ftz (x.src a l)) else none

theorem treeSum_lanes (x : Ix) (a : Nat) (hx : x.ex ≠ 0) :
    let t := treeOf x.ftz (x.g.fmode.toNat % 8) (lanesRead x a) 6 0 x.g.gen
    ∃ r low gens, t.val = some (r, low) ∧ isRead r ∧ (∀ k, FMap.get 0 gens k = t.gens k) ∧
      treeSum { g := x.g } ((List.range 64).map fun l =>
          if x.ex.getLsbD l then some { val := readF32 x.ftz (x.src a l), low := l } else none) 6 =
        (some ⟨r, low⟩, sumState x.g gens t.fl) := by
  intro t
  obtain ⟨gens, sum, final⟩ := treeSum_levels x.g x.ftz (x.g.fmode.toNat % 8) rfl rfl (lanesRead x a) x.g.gen 0 6 x.g.gens
    fun k => by simp [levelGens, treeOf_zero, Group.gen]
  obtain ⟨-, none_iff, -⟩ := treeOf_local x.ftz (x.g.fmode.toNat % 8) (lanesRead x a) 6 0 x.g.gen
  obtain ⟨low_lt, low_mem⟩ := lowLane_mem hx
  cases hval : t.val with
  | none =>
    have := none_iff.1 hval (lowLane x.ex) (Nat.div_eq_of_lt low_lt)
    simp [lanesRead, low_mem] at this
  | some p =>
    obtain ⟨r, low⟩ := p
    have read : isRead r := isRead_treeOf x.ftz _ (fun l y hy => by
      unfold lanesRead at hy
      split at hy
      · exact ⟨_, _, (Option.some.inj hy).symm⟩
      · exact absurd hy (by simp)) 6 0 x.g.gen r low hval
    refine ⟨r, low, gens, rfl, read, final, ?_⟩
    have start : orAll ((List.range' 0 (2 ^ 6)).map fun i => (treeOf x.ftz (x.g.fmode.toNat % 8) (lanesRead x a) 0 i x.g.gen).fl) = 0 :=
      (show orAll ((List.range' 0 (2 ^ 6)).map fun _ => 0) = 0 by decide)
    have leaves : ((List.range 64).map fun l =>
          if x.ex.getLsbD l then some ({ val := readF32 x.ftz (x.src a l), low := l } : PSum) else none) =
        (List.range' 0 (2 ^ 6)).map fun i =>
          partialSum (treeOf x.ftz (x.g.fmode.toNat % 8) (lanesRead x a) 0 i x.g.gen).val := by
      rw [List.range_eq_range']
      refine List.map_congr_left fun l _ => ?_
      simp only [treeOf_zero, lanesRead, partialSum]
      split <;> rfl
    rw [start] at sum
    rw [leaves]
    refine (show treeSum { g := x.g } _ 6 = _ from sum).trans ?_
    rw [show treeOf x.ftz (x.g.fmode.toNat % 8) (lanesRead x a) (0 + 6) 0 x.g.gen = t from rfl, hval]
    rfl

/-- A lane that has a value is one of the executing lanes. -/
theorem mem_lanesIn (x : Ix) (l : Nat) : l ∈ x.lanesIn ↔ l < 64 ∧ x.ex.getLsbD l = true := by
  simp [Ix.lanesIn]

theorem execRfadd_lands {s : State} {c : Clause} {w : BitVec 1} {d a : BitVec 8} (hr : s.ready c (ops [a]) (destSpan w d 1))
    (hd : legalDest d = true) :
    let x := s.found c 1
    let t := treeOf x.ftz (x.g.fmode.toNat % 8) (lanesRead x a.toNat) 6 0 x.g.gen
    ∃ r low gens, t.val = some (r, low) ∧ (∀ n, FMap.get 0 gens n = t.gens n) ∧
      Lands s c (ops [a]) w d (fun _ => delivered r)
        (t.fl ||| flagNF r ||| flag (r.isSig || x.lanesIn.any fun l => (readF32 x.ftz (x.src a.toNat l)).isSig) fIV) gens
        (execRfadd w d a s) := by
  intro x t
  obtain ⟨r, low, gens, val, read, final, sum⟩ := treeSum_lanes (s.found c 1) a.toNat hr.2.1
  refine ⟨r, low, gens, val, final, ?_⟩
  refine write_lands _ (fun _ => delivered r) _ gens hr hd ?_
  dsimp only
  rw [sum]
  simp only [Option.map_some, Option.getD_some, deliverNum_eq read]
  have flags (p q : Bool) (fl nf : BitVec 5) : fl ||| (flag p fIV ||| nf) ||| flag q fIV = fl ||| nf ||| flag (p || q) fIV := by
    rw [BitVec.or_comm (flag p fIV), ← BitVec.or_assoc, BitVec.or_assoc]
    cases p <;> cases q <;> rfl
  rw [flags]
  rfl

/-! ## pffadd -/

/-- In a strictly ascending list the entries up to one of them, and those before it. -/
theorem filter_of_ascending {ls pre t : List Nat} {l : Nat} (h : ls.Pairwise (· < ·)) (e : ls = pre ++ l :: t) :
    (ls.filter fun k => decide (k ≤ l)) = pre ++ [l] ∧ (ls.filter fun k => decide (k < l)) = pre := by
  subst e
  obtain ⟨-, hl, hpre⟩ := List.pairwise_append.1 h
  obtain ⟨ht, -⟩ := List.pairwise_cons.1 hl
  have below (k : Nat) (hk : k ∈ pre) : k < l := hpre k hk l (List.mem_cons_self ..)
  rw [List.filter_append, List.filter_append, List.filter_cons, List.filter_cons]
  constructor
  · rw [List.filter_eq_self.2 fun k hk => decide_eq_true (below k hk).le, if_pos (decide_eq_true le_rfl),
      List.filter_eq_nil_iff.2 fun k hk => by simpa using ht k hk]
  · rw [List.filter_eq_self.2 fun k hk => decide_eq_true (below k hk), if_neg (by simp),
      List.filter_eq_nil_iff.2 fun k hk => by simpa using (ht k hk).le, List.append_nil]

theorem runOf_append (ftz : Bool) (mode : Nat) (a : Nat → FpNum) (g : Nat → Word) {pre : List Nat} (h : pre ≠ []) (l : Nat) :
    runOf ftz mode a g (pre ++ [l]) = (addOnce ftz mode (g l) (runOf ftz mode a g pre) (a l)).1 := by
  cases pre with
  | nil => exact absurd rfl h
  | cons k t => simp [runOf]

section
variable (x : Ix) (a : Nat → FpNum) {ls : List Nat} (hls : ls.Pairwise (· < ·))

/-- The running sum up to a lane, and before it. -/
def runUpTo (ls : List Nat) (l : Nat) : FpNum :=
  runOf x.ftz (x.g.fmode.toNat % 8) a x.g.gen (ls.filter fun k => decide (k ≤ l))
def runBefore (ls : List Nat) (l : Nat) : FpNum :=
  runOf x.ftz (x.g.fmode.toNat % 8) a x.g.gen (ls.filter fun k => decide (k < l))
/-- The addition that completes a lane's sum. -/
def runAdd (ls : List Nat) (l : Nat) : FpNum × BitVec 5 :=
  addOnce x.ftz (x.g.fmode.toNat % 8) (x.g.gen l) (runBefore x a ls l) (a l)

include hls

/-- The running sums from some lane on: each addition draws from the generator of the lane that it completes. -/
theorem runSums_from (t pre : List Nat) (hpre : pre ≠ []) (e : ls = pre ++ t) (gens : FMap Word) (fl : BitVec 5)
    (hg : ∀ k ∈ t, FMap.get 0 gens k = x.g.gen k) :
    ∃ gens', runSums (sumState x.g gens fl) (runOf x.ftz (x.g.fmode.toNat % 8) a x.g.gen pre) (t.map fun l => (l, a l)) =
        (t.map fun l => (l, deliverNum (runUpTo x a ls l)), sumState x.g gens' (fl ||| orAll (t.map fun l => (runAdd x a ls l).2))) ∧
      ∀ k, FMap.get 0 gens' k = if k ∈ t then genAfter (x.g.fmode.toNat % 8) (x.g.gen k) else FMap.get 0 gens k := by
  induction t generalizing pre gens fl with
  | nil => exact ⟨gens, by simp [runSums, orAll], by simp⟩
  | cons l t ih =>
    obtain ⟨upto, before⟩ := filter_of_ascending hls e
    have nodup : l ∉ t := fun h =>
      lt_irrefl l ((List.pairwise_cons.1 (List.pairwise_append.1 (e ▸ hls)).2.1).1 l h)
    obtain ⟨gens₁, sum, after⟩ := addF32_eq x.g gens fl (runOf x.ftz (x.g.fmode.toNat % 8) a x.g.gen pre) (a l) l
    have run : runUpTo x a ls l = (runAdd x a ls l).1 := by
      rw [runUpTo, upto, runOf_append _ _ _ _ hpre, runAdd, runBefore, before]
    have added : addF32 (sumState x.g gens fl) (runOf x.ftz (x.g.fmode.toNat % 8) a x.g.gen pre) (a l) l =
        (runUpTo x a ls l, sumState x.g gens₁ (fl ||| (runAdd x a ls l).2)) := by
      rw [sum, run, runAdd, runBefore, before, hg l (List.mem_cons_self ..)]
      rfl
    obtain ⟨gens', rest, final⟩ := ih (pre ++ [l]) (by simp) (by simp [e]) gens₁ (fl ||| (runAdd x a ls l).2) fun k hk => by
      rw [after k, if_neg (by rintro rfl; exact nodup hk), hg k (List.mem_cons_of_mem _ hk)]
    refine ⟨gens', ?_, fun k => ?_⟩
    · rw [List.map_cons, runSums, added, show runUpTo x a ls l = runOf _ _ a x.g.gen (pre ++ [l]) by rw [runUpTo, upto], rest]
      simp only [List.map_cons, orAll_cons, BitVec.or_assoc, runUpTo, upto]
    · rw [final k, after k]
      by_cases hk : k ∈ t
      · rw [if_pos hk, if_pos (List.mem_cons_of_mem _ hk)]
      · by_cases hl : k = l
        · rw [if_neg hk, if_pos hl, if_pos (hl ▸ List.mem_cons_self ..), hg k (hl ▸ List.mem_cons_self ..)]
        · rw [if_neg hk, if_neg hl, if_neg (by simp [hk, hl])]

end

theorem orAll_or {α : Type} (l : List α) (p q : α → BitVec 5) :
    orAll (l.map fun x => p x ||| q x) = orAll (l.map p) ||| orAll (l.map q) := by
  induction l with
  | nil => simp [orAll]
  | cons x l ih => simp only [List.map_cons, orAll_cons, ih]; ac_rfl

theorem orAll_flag {α : Type} (l : List α) (p : α → Bool) (f : BitVec 5) :
    orAll (l.map fun x => flag (p x) f) = flag (l.any p) f := by
  induction l with
  | nil => rfl
  | cons x l ih =>
    rw [List.map_cons, orAll_cons, ih, List.any_cons]
    cases p x <;> cases l.any p <;> simp [flag]

theorem flag_or (p q : Bool) (f : BitVec 5) : flag (p || q) f = flag p f ||| flag q f := by
  cases p <;> cases q <;> simp [flag]

theorem foldl_or {α : Type} (l : List α) (p : α → BitVec 5) (z : BitVec 5) :
    l.foldl (fun m x => m ||| p x) z = z ||| orAll (l.map p) := by
  induction l generalizing z with
  | nil => simp [orAll]
  | cons x l ih => rw [List.foldl_cons, ih, List.map_cons, orAll_cons, BitVec.or_assoc]

theorem find_map_pair {α : Type} {ls : List Nat} {l : Nat} (h : l ∈ ls) (f : Nat → α) :
    (ls.map fun k => (k, f k)).find? (fun p => decide (p.1 = l)) = some (l, f l) := by
  induction ls with
  | nil => exact absurd h List.not_mem_nil
  | cons k ls ih =>
    by_cases hk : k = l
    · simp [hk]
    · rw [List.map_cons, List.find?_cons_of_neg (by simpa using hk), ih ((List.mem_cons.1 h).resolve_left (Ne.symm hk))]

theorem lanesIn_ascending (x : Ix) : x.lanesIn.Pairwise (· < ·) := List.pairwise_lt_range.filter _

/-- The running sums of the executing lanes. -/
theorem runSums_lanes (x : Ix) (a : Nat → FpNum) (ha : ∀ l, isRead (a l)) {l₀ : Nat} {t : List Nat} (e : x.lanesIn = l₀ :: t) :
    ∃ gens, runSums { g := x.g } (a l₀) (t.map fun l => (l, a l)) =
        (t.map fun l => (l, deliverNum (runUpTo x a x.lanesIn l)), sumState x.g gens (orAll (t.map fun l => (runAdd x a x.lanesIn l).2))) ∧
      (∀ k, FMap.get 0 gens k = if x.g.fmode.toNat % 8 = 6 ∧ k ∈ t then advGen (x.g.gen k) else x.g.gen k) ∧
      runUpTo x a x.lanesIn l₀ = a l₀ ∧ ∀ l ∈ x.lanesIn, isRead (runUpTo x a x.lanesIn l) := by
  have order := lanesIn_ascending x
  obtain ⟨gens, sums, final⟩ := runSums_from x a order t [l₀] (by simp) e x.g.gens 0 fun k _ => rfl
  have first : runUpTo x a x.lanesIn l₀ = a l₀ := by
    rw [runUpTo, (filter_of_ascending order (pre := []) e).1]; rfl
  refine ⟨gens, ?_, fun k => ?_, first, fun l hl => ?_⟩
  · rw [show (0 : BitVec 5) ||| orAll (t.map fun l => (runAdd x a x.lanesIn l).2) = orAll _ from BitVec.zero_or] at sums
    exact sums
  · rw [final k, genAfter]
    by_cases hk : k ∈ t <;> by_cases h6 : x.g.fmode.toNat % 8 = 6 <;> simp [hk, h6, Group.gen]
  · rcases List.mem_cons.1 (e ▸ hl) with rfl | ht
    · rw [first]; exact ha _
    · obtain ⟨p, q, rfl⟩ := List.append_of_mem ht
      rw [runUpTo, (filter_of_ascending order (pre := l₀ :: p) e).1, runOf_append _ _ _ _ (by simp)]
      exact isRead_addOnce ..

theorem execPffadd_lands {s : State} {c : Clause} {w : BitVec 1} {d a : BitVec 8} (hr : s.ready c (ops [a]) (destSpan w d 1))
    (hd : legalDest d = true) :
    let x := s.found c 1
    let A (l : Nat) : FpNum := readF32 x.ftz (x.src a.toNat l)
    let up := runUpTo x A x.lanesIn
    ∃ f gens, (∀ l ∈ x.lanesIn, f l = delivered (up l)) ∧
      (∀ k, FMap.get 0 gens k = if x.g.fmode.toNat % 8 = 6 ∧ k ∈ x.lanesIn.tail then advGen (x.g.gen k) else x.g.gen k) ∧
      Lands s c (ops [a]) w d f
        (orAll (x.lanesIn.tail.map fun l => (runAdd x A x.lanesIn l).2) ||| orAll (x.lanesIn.map fun l => flagNF (up l)) |||
          flag (x.lanesIn.any fun l => (A l).isSig || (up l).isSig) fIV) gens (execPffadd w d a s) := by
  intro x A up
  obtain ⟨l₀, t, e⟩ : ∃ l₀ t, x.lanesIn = l₀ :: t := List.exists_cons_of_ne_nil fun h => by
    have := (mem_lanesIn x _).2 (lowLane_mem hr.2.1)
    rw [h] at this
    exact absurd this List.not_mem_nil
  obtain ⟨gens, sums, final, first, read⟩ := runSums_lanes x A (fun l => ⟨_, _, rfl⟩) e
  have all : (l₀, deliverNum (A l₀)) :: (t.map fun l => (l, deliverNum (up l))) = x.lanesIn.map fun l => (l, deliverNum (up l)) := by
    rw [e, List.map_cons, show up l₀ = A l₀ from first]
  refine ⟨fun l => BitVec.ofNat 32 (((x.lanesIn.map fun k => (k, deliverNum (up k))).find? fun p => decide (p.1 = l)).elim 0
    fun p => p.2.1), gens, fun l hl => ?_, fun k => by rw [final k, e, List.tail_cons], ?_⟩
  · beta_reduce
    rw [find_map_pair hl fun k => deliverNum (up k)]
    show BitVec.ofNat 32 (deliverNum (up l)).1 = _
    rw [deliverNum_eq (read l hl)]
    rfl
  · have delivered_flags : orAll (x.lanesIn.map fun l => (deliverNum (up l)).2) =
        flag (x.lanesIn.any fun l => (up l).isSig) fIV ||| orAll (x.lanesIn.map fun l => flagNF (up l)) := by
      rw [← orAll_flag, ← orAll_or]
      exact congrArg orAll (List.map_congr_left fun l hl => by rw [deliverNum_eq (read l hl)])
    have signalling : flag (x.lanesIn.any fun l => (A l).isSig || (up l).isSig) fIV =
        flag (x.lanesIn.any fun l => (A l).isSig) fIV ||| flag (x.lanesIn.any fun l => (up l).isSig) fIV := by
      simp only [← orAll_flag, ← orAll_or, flag_or]
    have sources : ((l₀, A l₀) :: t.map fun l => (l, A l)).any (fun p => p.2.isSig) = x.lanesIn.any fun l => (A l).isSig := by
      rw [e, List.any_cons, List.any_cons, List.any_map]; rfl
    have flags : ((l₀, deliverNum (A l₀)) :: (t.map fun l => (l, deliverNum (up l)))).foldl (fun m p => m ||| p.2.2)
        (orAll (t.map fun l => (runAdd x A x.lanesIn l).2) ||| flag (((l₀, A l₀) :: t.map fun l => (l, A l)).any fun p => p.2.isSig) fIV) =
        orAll (x.lanesIn.tail.map fun l => (runAdd x A x.lanesIn l).2) ||| orAll (x.lanesIn.map fun l => flagNF (up l)) |||
          flag (x.lanesIn.any fun l => (A l).isSig || (up l).isSig) fIV := by
      rw [all, foldl_or, List.map_map, sources, signalling]
      rw [show (fun p : Nat × FRes => p.2.2) ∘ (fun l => (l, deliverNum (up l))) = fun l => (deliverNum (up l)).2 from rfl,
        delivered_flags, show x.lanesIn.tail = t by rw [e]; rfl]
      ac_rfl
    have vals : ((s.found c 1).lanesIn.map fun l => (l, readF32 (s.found c 1).ftz ((s.found c 1).src a.toNat l))) =
        (l₀, A l₀) :: t.map fun l => (l, A l) := by rw [show (s.found c 1).lanesIn = l₀ :: t from e]; rfl
    refine write_lands _ _ _ gens hr hd ?_
    dsimp only
    rw [vals, ← flags, ← all]
    dsimp only
    rw [sums]
    rfl

/-- Settles O15: the levels of the tree leave what the tree of blocks has, each generator drawn by its own lane's additions alone. -/
theorem floatSums : Obligations.FloatSums := by
  unfold Obligations.FloatSums
  intro s c w d a hr hd x mode ftz A ls or
  have signalling (p : Prop) [Decidable p] (b : Bool) (h : b = true ↔ p) : flag b fIV = if p then fIV else 0 := by
    simp only [flag, h]
  refine ⟨?_, fun _ => ?_⟩
  · obtain ⟨r, low, gens, val, final, lands⟩ := execRfadd_lands hr hd
    refine ⟨r, low, gens, val, final, ?_⟩
    rw [signalling (r.isSig = true ∨ ∃ l ∈ ls, (A l).isSig = true) _ (by rw [Bool.or_eq_true, List.any_eq_true]; rfl)] at lands
    exact lands
  · obtain ⟨f, gens, value, final, lands⟩ := execPffadd_lands hr hd
    refine ⟨f, gens, value, final, ?_⟩
    rw [signalling (∃ l ∈ ls, (A l).isSig = true ∨
      (runOf ftz mode A s.grp.gen (ls.filter fun k => decide (k ≤ l))).isSig = true) _ (by
        rw [List.any_eq_true]
        simp only [Bool.or_eq_true]
        rfl)] at lands
    exact lands

end Sys2Proof.Machine
end

section
/-! The numbers of the matrix engine: the window sum (R125), block scales (R109), drained values (R189) and add-ons (R190). -/
namespace Sys2Proof.Machine

/-! ## Binades of finite numbers -/

/-- The exponent of the binade of a finite number that is not 0. -/
def FpNum.binade : FpNum → Option Int
  | .fin _ m e => if m = 0 then none else some ((Nat.log2 m : Int) + e)
  | _ => none

theorem log_fin {m : Nat} (hm : 0 < m) (e : Int) : Int.log 2 ((m : ℚ) * 2 ^ e) = Nat.log2 m + e := by
  obtain ⟨low, high⟩ := log2_bounds hm
  have pos := two_zpow_pos e
  refine log_two_eq ?_ ?_
  · rw [zpow_add₀ two_ne_zero]; gcongr
  · rw [show (Nat.log2 m : Int) + e + 1 = Nat.log2 m + 1 + e by ring, zpow_add₀ two_ne_zero]; gcongr

theorem FpNum.binade_eq {v : FpNum} (hv : v.isFin = true) :
    (v.real = 0 → v.binade = none) ∧ (v.real ≠ 0 → v.binade = some (Int.log 2 |v.real|)) := by
  obtain ⟨b, m, e, rfl⟩ := FpNum.isFin_iff.1 hv
  rw [ne_eq, FpNum.real_eq_zero_iff, FpNum.abs_real_fin]
  refine ⟨fun h => if_pos h, fun h => ?_⟩
  rw [log_fin (Nat.pos_of_ne_zero h), FpNum.binade, if_neg h]

/-- The greatest of some integers. -/
theorem foldl_max_spec (l : List Int) (z : Int) : (l.foldl max z ∈ z :: l) ∧ ∀ x ∈ z :: l, x ≤ l.foldl max z := by
  induction l generalizing z with
  | nil => simp
  | cons y l ih =>
    obtain ⟨mem, le⟩ := ih (max z y)
    rw [List.foldl_cons]
    refine ⟨?_, fun x hx => ?_⟩
    · rcases List.mem_cons.1 mem with h | h
      · rw [h]
        rcases max_choice z y with h' | h' <;> simp [h']
      · simp [h]
    · rcases List.mem_cons.1 hx with rfl | hx
      · exact (le_max_left _ _).trans (le _ (List.mem_cons_self ..))
      · rcases List.mem_cons.1 hx with rfl | hx
        · exact (le_max_right _ _).trans (le _ (List.mem_cons_self ..))
        · exact le x (List.mem_cons_of_mem _ hx)

/-- The greatest binade of some finite numbers is that of the greatest magnitude. -/
theorem foldl_max_binade {vs : List FpNum} (hv : ∀ v ∈ vs, v.isFin = true) {top : ℚ} (h0 : 0 < top)
    (hle : ∀ v ∈ vs, |v.real| ≤ top) (hmem : ∃ v ∈ vs, |v.real| = top) {l : Int} {t : List Int}
    (e : vs.filterMap FpNum.binade = l :: t) : t.foldl max l = Int.log 2 top := by
  obtain ⟨mem, le⟩ := foldl_max_spec t l
  rw [← e] at mem le
  refine le_antisymm ?_ ?_
  · obtain ⟨v, hvs, hb⟩ := List.mem_filterMap.1 mem
    obtain ⟨zero, nonzero⟩ := FpNum.binade_eq (hv v hvs)
    have hne : v.real ≠ 0 := fun h => by rw [zero h] at hb; exact absurd hb (by simp)
    rw [nonzero hne, Option.some.injEq] at hb
    rw [← hb]
    exact Int.log_mono_right (abs_pos.2 hne) (hle v hvs)
  · obtain ⟨v, hvs, rfl⟩ := hmem
    exact le _ (List.mem_filterMap.2 ⟨v, hvs, (FpNum.binade_eq (hv v hvs)).2 (abs_pos.1 h0)⟩)

theorem binades_nonempty {vs : List FpNum} (hv : ∀ v ∈ vs, v.isFin = true) {top : ℚ} (h0 : 0 < top)
    (hmem : ∃ v ∈ vs, |v.real| = top) : ∃ l t, vs.filterMap FpNum.binade = l :: t := by
  obtain ⟨v, hvs, rfl⟩ := hmem
  refine List.exists_cons_of_ne_nil (List.ne_nil_of_mem (List.mem_filterMap.2 ⟨v, hvs, (FpNum.binade_eq (hv v hvs)).2 (abs_pos.1 h0)⟩))

theorem binades_nil {vs : List FpNum} (hv : ∀ v ∈ vs, v.isFin = true ∧ v.real = 0) : vs.filterMap FpNum.binade = [] :=
  List.filterMap_eq_nil_iff.2 fun v h => (FpNum.binade_eq (hv v h).1).1 (hv v h).2

/-! ## The window sum (R125) -/

/-- A term of the window sum, if it is not 0. -/
def FpNum.term : FpNum → Option (Bool × Nat × Int)
  | .fin b m e => if m = 0 then none else some (b, m, e)
  | _ => none

/-- The window sum of terms that are not 0. -/
def windowOf (ts : List (Bool × Nat × Int)) : Nat :=
  match ts with
  | [] => 0
  | t :: _ =>
    let top := ts.foldl (fun l t => max l ((Nat.log2 t.2.1 : Int) + t.2.2)) ((Nat.log2 t.2.1 : Int) + t.2.2)
    let g := top - 48
    let w : Int := ts.foldl (fun s t => s + cutAt g t.1 t.2.1 t.2.2) 0
    let q := scaleQ w.natAbs 1 g
    (fp32.roundTo 1 false (decide (w < 0)) q.1 q.2 false 0).1

theorem cutAt_eq (g : Int) (neg : Bool) (m : Nat) (e : Int) :
    (cutAt g neg m e : ℚ) = signQ neg * (⌊(m : ℚ) * 2 ^ e / 2 ^ g⌋ : ℚ) := by
  have floor : (⌊(m : ℚ) * 2 ^ e / 2 ^ g⌋ : ℤ) = ((if g ≤ e then m <<< (e - g).toNat else m >>> (g - e).toNat : Nat) : ℤ) := by
    rw [mul_div_assoc, ← zpow_sub₀ two_ne_zero]
    split
    next h =>
      rw [Nat.shiftLeft_eq, ← Int.toNat_of_nonneg (show 0 ≤ e - g by omega), zpow_natCast]
      exact_mod_cast Int.floor_natCast (R := ℚ) (m * 2 ^ (e - g).toNat)
    next h =>
      rw [Nat.shiftRight_eq_div_pow, show e - g = -((g - e).toNat : Int) by omega, zpow_neg, zpow_natCast, ← div_eq_mul_inv]
      exact_mod_cast Rat.floor_natCast_div_natCast m (2 ^ (g - e).toNat)
  rw [floor]
  unfold cutAt
  generalize (if g ≤ e then m <<< (e - g).toNat else m >>> (g - e).toNat) = n
  cases neg <;> simp

theorem windowSum_some {ps : List FpNum} (h : ∀ p ∈ ps, p.isFin = true) :
    windowSum (ps.map some) = windowOf (ps.filterMap FpNum.term) := by
  have values : (ps.map some).filterMap id = ps := by rw [List.filterMap_map]; exact List.filterMap_some
  have noNone : (ps.map some).any Option.isNone = false := List.any_eq_false.2 fun a ha => by
    obtain ⟨t, -, rfl⟩ := List.mem_map.1 ha
    simp
  have noNan : ps.any FpNum.isNan = false := List.any_eq_false.2 fun a ha => by
    simp [FpNum.not_isNan_of_isFin (h a ha)]
  have noInf : ps.filter FpNum.isInf = [] := List.filter_eq_nil_iff.2 fun a ha => by
    obtain ⟨b, m, e, rfl⟩ := FpNum.isFin_iff.1 (h a ha)
    simp [FpNum.isInf]
  unfold windowSum
  simp only [values, noNone, noNan, noInf, List.any_nil, Bool.or_self, Bool.and_self, Bool.false_eq_true, if_false]
  rfl

/-- The binade of a term. -/
def termBinade (t : Bool × Nat × Int) : Int := (Nat.log2 t.2.1 : Int) + t.2.2

theorem binade_of_term (ps : List FpNum) : (ps.filterMap FpNum.term).map termBinade = ps.filterMap FpNum.binade := by
  rw [List.map_filterMap]
  congr 1
  funext v
  cases v with
  | fin b m e => simp only [FpNum.term, FpNum.binade]; split <;> rfl
  | _ => rfl

/-- A term cut at the window's lowest bit. -/
def cutQ (g : Int) (p : FpNum) : ℚ := (if p.isNeg then -1 else 1) * (⌊|p.real| / 2 ^ g⌋ : ℚ) * 2 ^ g

theorem foldl_cutAt (g : Int) {ps : List FpNum} (h : ∀ p ∈ ps, p.isFin = true) (z : Int) :
    (((ps.filterMap FpNum.term).foldl (fun s t => s + cutAt g t.1 t.2.1 t.2.2) z : Int) : ℚ) * 2 ^ g =
      z * 2 ^ g + (ps.map (cutQ g)).sum := by
  induction ps generalizing z with
  | nil => simp
  | cons p ps ih =>
    have later := ih fun q hq => h q (List.mem_cons_of_mem _ hq)
    obtain ⟨b, m, e, rfl⟩ := FpNum.isFin_iff.1 (h p (List.mem_cons_self ..))
    rw [List.filterMap_cons, List.map_cons, List.sum_cons, cutQ, FpNum.abs_real_fin]
    by_cases hm : m = 0
    · simp only [FpNum.term, hm, if_true, later]
      simp
    · simp only [FpNum.term, hm, if_false, List.foldl_cons, later, Int.cast_add, cutAt_eq]
      rw [show (if (FpNum.fin b m e).isNeg then (-1 : ℚ) else 1) = signQ b from rfl]
      ring

/-- The window sum of finite products: each cut at the window's lowest bit, their sum rounded once. -/
theorem windowSum_fin {ps : List FpNum} (h : ∀ p ∈ ps, p.isFin = true) :
    ((∀ p ∈ ps, p.real = 0) → windowSum (ps.map some) = 0) ∧
    ∀ top : ℚ, 0 < top → (∃ p ∈ ps, |p.real| = top) → (∀ p ∈ ps, |p.real| ≤ top) →
      let w : ℚ := (ps.map (cutQ (Int.log 2 top - 48))).sum
      (w = 0 → windowSum (ps.map some) = 0) ∧
      (w ≠ 0 → ∃ n d : Nat, 0 < d ∧ (n : ℚ) / d = |w| ∧
        windowSum (ps.map some) = (fp32.roundTo 1 false (decide (w < 0)) n d false 0).1) := by
  rw [windowSum_some h]
  constructor
  · intro h0
    have none : ps.filterMap FpNum.term = [] := List.map_eq_nil_iff.1
      ((binade_of_term ps).trans (binades_nil fun v hv => ⟨h v hv, h0 v hv⟩))
    rw [none]; rfl
  · intro top h0 hmem hle w
    obtain ⟨l, t, binades⟩ := binades_nonempty h h0 hmem
    have most := foldl_max_binade h h0 hle hmem binades
    rw [← binade_of_term] at binades
    obtain ⟨u, us, terms, hu, hus⟩ := List.map_eq_cons_iff.1 binades
    have top_eq : (ps.filterMap FpNum.term).foldl (fun l t => max l (termBinade t)) (termBinade u) = Int.log 2 top := by
      rw [← most, terms, List.foldl_cons, max_self, ← List.foldl_map, hu, hus]
    have total := foldl_cutAt (Int.log 2 top - 48) h 0
    set v : Int := (ps.filterMap FpNum.term).foldl (fun s t => s + cutAt (Int.log 2 top - 48) t.1 t.2.1 t.2.2) 0 with hv
    rw [Int.cast_zero, zero_mul, zero_add] at total
    have form : windowOf (ps.filterMap FpNum.term) = (fp32.roundTo 1 false (decide (v < 0))
        (scaleQ v.natAbs 1 (Int.log 2 top - 48)).1 (scaleQ v.natAbs 1 (Int.log 2 top - 48)).2 false 0).1 := by
      rw [hv, ← top_eq, terms]
      rfl
    have unit := two_zpow_pos (Int.log 2 top - 48)
    obtain ⟨pos, ratio⟩ := scaleQ_spec v.natAbs one_pos (Int.log 2 top - 48)
    rw [form]
    constructor
    · intro hw
      have v0 : v = 0 := by
        have : (v : ℚ) * 2 ^ (Int.log 2 top - 48) = 0 := total.trans hw
        simpa [unit.ne'] using this
      rw [(scaleQ_zero_iff _ 1 _).2 (by rw [v0]; rfl), Fmt.roundTo_zero, v0]
      rfl
    · intro _
      refine ⟨(scaleQ v.natAbs 1 (Int.log 2 top - 48)).1, _, pos, ?_, ?_⟩
      · rw [ratio, show w = v * 2 ^ (Int.log 2 top - 48) from total.symm, abs_mul, abs_of_pos unit, Nat.cast_one, div_one, Nat.cast_natAbs, Int.cast_abs]
      · have sign : v < 0 ↔ w < 0 := by
          rw [show w = v * 2 ^ (Int.log 2 top - 48) from total.symm, mul_neg_iff, Int.cast_lt_zero]
          simp [unit, unit.le]
        simp only [sign]

/-- The window sum of products of which one is invalid, a NaN or an infinity. -/
theorem windowSum_special (ps : List (Option FpNum)) :
    let has (b : Bool) : Prop := some (.inf b) ∈ ps
    let bad : Prop := none ∈ ps ∨ (∃ k, some (.nan k) ∈ ps) ∨ (has true ∧ has false)
    (bad → windowSum ps = fp32.canon) ∧ ∀ b, ¬bad → has b → windowSum ps = fp32.infBits b := by
  intro has bad
  have values (v : FpNum) : v ∈ ps.filterMap id ↔ some v ∈ ps := by simp
  have anyNone : ps.any Option.isNone = true ↔ none ∈ ps := by simp
  have anyNan : (ps.filterMap id).any FpNum.isNan = true ↔ ∃ k, some (.nan k) ∈ ps := by
    rw [List.any_eq_true]
    constructor
    · rintro ⟨v, hv, hn⟩
      cases v with
      | nan k => exact ⟨k, (values _).1 hv⟩
      | _ => exact absurd hn Bool.false_ne_true
    · rintro ⟨k, hk⟩
      exact ⟨_, (values _).2 hk, rfl⟩
  have infs (v : FpNum) : v ∈ (ps.filterMap id).filter FpNum.isInf ↔ ∃ b, v = .inf b ∧ has b := by
    rw [List.mem_filter, values]
    constructor
    · rintro ⟨hv, hi⟩
      cases v with
      | inf b => exact ⟨b, rfl, hv⟩
      | _ => exact absurd hi Bool.false_ne_true
    · rintro ⟨b, rfl, hb⟩
      exact ⟨hb, rfl⟩
  have anyNeg : ((ps.filterMap id).filter FpNum.isInf).any FpNum.isNeg = true ↔ has true := by
    rw [List.any_eq_true]
    simp only [infs]
    exact ⟨fun ⟨_, ⟨b, rfl, hb⟩, hn⟩ => (show b = true from hn) ▸ hb, fun h => ⟨_, ⟨true, rfl, h⟩, rfl⟩⟩
  have anyPos : ((ps.filterMap id).filter FpNum.isInf).any (fun v => !v.isNeg) = true ↔ has false := by
    rw [List.any_eq_true]
    simp only [infs]
    exact ⟨fun ⟨_, ⟨b, rfl, hb⟩, hn⟩ => (show b = false by simpa [FpNum.isNeg] using hn) ▸ hb, fun h => ⟨_, ⟨false, rfl, h⟩, rfl⟩⟩
  have cond : (ps.any Option.isNone || (ps.filterMap id).any FpNum.isNan ||
      (((ps.filterMap id).filter FpNum.isInf).any FpNum.isNeg && ((ps.filterMap id).filter FpNum.isInf).any fun v => !v.isNeg)) = true
      ↔ bad := by
    rw [Bool.or_eq_true, Bool.or_eq_true, Bool.and_eq_true, anyNone, anyNan, anyNeg, anyPos, or_assoc]
  refine ⟨fun hb => if_pos (cond.2 hb), fun b hb hi => ?_⟩
  unfold windowSum
  rw [if_neg (mt cond.1 hb)]
  obtain ⟨i, t, e⟩ := List.exists_cons_of_ne_nil (List.ne_nil_of_mem ((infs _).2 ⟨b, rfl, hi⟩))
  obtain ⟨c, rfl, hc⟩ := (infs i).1 (e ▸ List.mem_cons_self ..)
  have same : c = b := by
    by_contra hne
    refine hb (.inr (.inr ?_))
    cases b <;> cases c
    · exact absurd rfl hne
    · exact ⟨hc, hi⟩
    · exact ⟨hi, hc⟩
    · exact absurd rfl hne
  rw [e]
  show fp32.infBits c = _
  rw [same]

/-! ## Drained values and add-ons (R189, R190) -/

theorem fmtOf_mem : ∀ c, 1 ≤ c → c ≤ 7 → fmtOf c ∈ formats := by decide

/-- A drained value that is converted is rounded once. -/
theorem drainValue_fin {cvt : Nat} (h1 : 1 ≤ cvt) (h4 : cvt ≤ 4) (sr sat : Bool) {v : Word} (r16 : Nat) {neg : Bool} {m : Nat}
    {e : Int} (hv : fp32.value v.toNat = .fin neg m e) : ∃ n d : Nat, 0 < d ∧ (n : ℚ) / d = m * 2 ^ e ∧
      drainValue cvt sr sat v r16 = ((fmtOf cvt).roundTo (if sr then 6 else 1) sat neg n d false r16).1 := by
  obtain ⟨n, d, hd, ratio, rounded⟩ := (fmtOf cvt).ofNum_fin (if sr then 6 else 1) sat r16 neg m e
  refine ⟨n, d, hd, ratio, ?_⟩
  have plain : drainValue cvt sr sat v r16 = ((fmtOf cvt).ofNum (if sr then 6 else 1) sat r16 (fp32.value v.toNat)).1 := by
    interval_cases cvt <;> rfl
  rw [plain, hv, rounded]

theorem drainValue_int8 (sr sat : Bool) (v : Word) (r16 : Nat) :
    drainValue 5 sr sat v r16 = (BitVec.ofInt 8 (max (-128) (min 127 v.toInt))).toNat := by
  show bitsOf 8 _ = _
  rw [bitsOf, BitVec.toNat_ofInt, pow2_eq]

/-- A value that is not finite, as every format with a NaN of its own holds it. -/
theorem sumNum_nan {a b : FpNum} (h : a.isNan = true ∨ b.isNan = true) :
    sumNum false [a, b] = some (.nan (a.isSig || b.isSig)) := by
  have any : [a, b].any FpNum.isNan = true := by simpa using h
  rw [sumNum, if_pos any]
  simp

theorem ofNum_nan_fst {f : Fmt} (hf : f.kind = 0) (mode : Nat) (sat : Bool) (r16 : Nat) (s : Bool) :
    (f.ofNum mode sat r16 (.nan s)).1 = f.canon := by
  simp only [Fmt.ofNum, hf]

/-- The rounded sum of two finite values whose sum is not 0. -/
theorem ofNum_sum {f : Fmt} (mode : Nat) (sat : Bool) (r16 : Nat) {a b : FpNum} (ha : a.isFin = true) (hb : b.isFin = true)
    (hw : a.real + b.real ≠ 0) : ∃ x, sumNum false [a, b] = some x ∧ ∃ n d : Nat, 0 < d ∧ (n : ℚ) / d = |a.real + b.real| ∧
      f.ofNum mode sat r16 x = f.roundTo mode sat (decide (a.real + b.real < 0)) n d false r16 := by
  obtain ⟨x, sum, fin, real, -⟩ := sumNum_two false ha hb
  obtain ⟨neg, m, e, rfl⟩ := FpNum.isFin_iff.1 fin
  obtain ⟨n, d, hd, ratio, rounded⟩ := f.ofNum_fin mode sat r16 neg m e
  have hm : m ≠ 0 := fun h => hw (real ▸ (FpNum.real_eq_zero_iff neg m e).2 h)
  refine ⟨_, sum, n, d, hd, by rw [ratio, ← real, FpNum.abs_real_fin], ?_⟩
  rw [rounded, ← real]
  congr 1
  rw [Bool.eq_iff_iff, decide_eq_true_iff, FpNum.real_neg_iff neg hm]

theorem addRne_eq (f : Fmt) (x y : Nat) : f.addRne x y = match sumNum false [f.value x, f.value y] with
    | none => f.canon
    | some v => (f.ofNum 1 false 0 v).1 := by
  have unscaled (v : FpNum) : v.scale 0 = v := by cases v <;> simp [FpNum.scale]
  unfold Fmt.addRne Fmt.finish
  cases sumNum false [f.value x, f.value y] with
  | none => rfl
  | some v => simp only [unscaled]; rfl

/-- What an add-on-store of a floating conversion makes of the value at its destination. -/
theorem addOnValue_float {cvt : Nat} (hc : cvt ∈ [0, 1, 2]) (sr sat : Bool) (old : Nat) (v : Word) (r16 : Nat) {f : Fmt}
    (hf : f = if cvt = 0 then fp32 else fmtOf cvt) :
    addOnValue cvt sr sat old v r16 = match sumNum false [f.value old, fp32.value v.toNat] with
      | none => f.canon
      | some x => (f.ofNum (if cvt ≠ 0 ∧ sr then 6 else 1) (cvt ≠ 0 && sat) (if cvt = 0 then 0 else r16) x).1 := by
  subst hf
  simp only [List.mem_cons, List.not_mem_nil, or_false] at hc
  rcases hc with rfl | rfl | rfl
  · exact addRne_eq fp32 old v.toNat
  · cases sr <;> rfl
  · cases sr <;> rfl

theorem addOnValue_by_rule (sr sat : Bool) (old : Nat) (v : Word) (r16 : Nat) :
    addOnValue 6 sr sat old v r16 = (old + v.toNat) % 2 ^ 32 ∧
    ∀ cvt ∈ [0, 1, 2], ∀ f : Fmt, f = (if cvt = 0 then fp32 else fmtOf cvt) →
      ((f.value old).isNan = true ∨ (fp32.value v.toNat).isNan = true → addOnValue cvt sr sat old v r16 = f.canon) ∧
      ((f.value old).isFin = true → (fp32.value v.toNat).isFin = true →
        let w := (f.value old).real + (fp32.value v.toNat).real
        w ≠ 0 → ∃ n d : Nat, 0 < d ∧ (n : ℚ) / d = |w| ∧ addOnValue cvt sr sat old v r16 =
          (f.roundTo (if cvt ≠ 0 ∧ sr then 6 else 1) (cvt ≠ 0 && sat) (decide (w < 0)) n d false (if cvt = 0 then 0 else r16)).1) := by
  refine ⟨rfl, fun cvt hc f hf => ⟨fun hn => ?_, fun ha hb => ?_⟩⟩
  · have kind : f.kind = 0 := by
      simp only [List.mem_cons, List.not_mem_nil, or_false] at hc
      rcases hc with rfl | rfl | rfl <;> rw [hf] <;> rfl
    rw [addOnValue_float hc sr sat old v r16 hf, sumNum_nan hn]
    exact ofNum_nan_fst kind ..
  · intro w hw
    obtain ⟨x, sum, n, d, hd, ratio, rounded⟩ := ofNum_sum (f := f) (if cvt ≠ 0 ∧ sr then 6 else 1) (cvt ≠ 0 && sat)
      (if cvt = 0 then 0 else r16) ha hb hw
    refine ⟨n, d, hd, ratio, ?_⟩
    rw [addOnValue_float hc sr sat old v r16 hf, sum]
    exact congrArg Prod.fst rounded

end Sys2Proof.Machine
end

section
/-! Factors and block scales of the matrix engine (R108, R109, R161, R168 to R172). -/
namespace Sys2Proof.Machine

/-! ## Block scales (R109) -/

/-- The scale and elements of a block of finite numbers, from the binades of those that are not 0. -/
def blockOf (f : Fmt) (emax : Int) (vs : List FpNum) (logs : List Int) : Nat × List Nat :=
  match logs with
  | [] => (127, vs.map fun v => f.signBit v.isNeg)
  | l :: t =>
    let k := t.foldl max l
    let x : Int := max 0 (min 254 (k - emax + 127))
    (x.toNat, vs.map fun v => (f.ofNum 1 true 0 (v.scale (127 - x))).1)

theorem anySpecial_iff (vs : List FpNum) : (vs.any fun v => v.isNan || v.isInf) = true ↔ ∃ v ∈ vs, v.isFin = false := by
  rw [List.any_eq_true]
  refine exists_congr fun v => and_congr_right fun _ => ?_
  cases v <;> simp [FpNum.isNan, FpNum.isInf, FpNum.isFin]

theorem blockScale_fin (f : Fmt) (emax : Int) {vs : List FpNum} (h : ∀ v ∈ vs, v.isFin = true) :
    blockScale f emax vs = blockOf f emax vs (vs.filterMap FpNum.binade) := by
  unfold blockScale
  rw [if_neg fun hs => by
    obtain ⟨v, hv, hf⟩ := (anySpecial_iff vs).1 hs
    rw [h v hv] at hf
    exact absurd hf (by simp)]
  rfl

theorem blockScale_by_rule (f : Fmt) (emax : ℤ) (vs : List FpNum) :
    let r := blockScale f emax vs
    ((∃ v ∈ vs, v.isFin = false) → r = (0xFF, vs.map fun _ => 0)) ∧
    ((∀ v ∈ vs, v.isFin = true ∧ v.real = 0) → r = (127, vs.map fun v => if v.isNeg then 2 ^ (f.eb + f.mb) else 0)) ∧
    ∀ top : ℚ, 0 < top → (∀ v ∈ vs, v.isFin = true ∧ |v.real| ≤ top) → (∃ v ∈ vs, |v.real| = top) →
      (r.1 : ℤ) = max 0 (min 254 (Int.log 2 top - emax + 127)) ∧ r.2.length = vs.length ∧
      ∀ (i : Nat) (v : FpNum), vs[i]? = some v → ∃ n d : Nat, 0 < d ∧ (n : ℚ) / d = |v.real| / 2 ^ ((r.1 : ℤ) - 127) ∧
        r.2[i]? = some (f.roundTo 1 true v.isNeg n d false 0).1 := by
  refine ⟨fun h => ?_, fun h => ?_, fun top h0 h hmem => ?_⟩
  · unfold blockScale
    rw [if_pos ((anySpecial_iff vs).2 h)]
  · rw [blockScale_fin f emax fun v hv => (h v hv).1, binades_nil h]
    simp only [blockOf, Fmt.signBit, pow2_eq]
  · have fin := fun v hv => (h v hv).1
    obtain ⟨l, t, binades⟩ := binades_nonempty fin h0 hmem
    rw [blockScale_fin f emax fin, binades]
    simp only [blockOf, foldl_max_binade fin h0 (fun v hv => (h v hv).2) hmem binades]
    have scale : ((max 0 (min 254 (Int.log 2 top - emax + 127))).toNat : ℤ) = max 0 (min 254 (Int.log 2 top - emax + 127)) :=
      Int.toNat_of_nonneg (le_max_left _ _)
    refine ⟨scale, by simp, fun i v hi => ?_⟩
    rw [scale, List.getElem?_map, hi, Option.map_some]
    set x := max 0 (min 254 (Int.log 2 top - emax + 127))
    obtain ⟨b, m, e, rfl⟩ := FpNum.isFin_iff.1 (fin v (List.mem_of_getElem? hi))
    obtain ⟨n, d, hd, ratio, rounded⟩ := f.ofNum_fin 1 true 0 b m (e + (127 - x))
    refine ⟨n, d, hd, ?_, by rw [FpNum.scale, rounded]; rfl⟩
    rw [ratio, FpNum.abs_real_fin, mul_div_assoc, ← zpow_sub₀ two_ne_zero]
    congr 2; ring

/-! ## The factors of a record (R161, R168 to R172) -/

theorem sintOf_eq {w : Nat} (h : 0 < w) (x : Nat) : sintOf w x = (BitVec.ofNat w x).toInt := by
  have half : 2 ^ w = 2 * 2 ^ (w - 1) := by rw [← pow_succ', Nat.sub_add_cancel h]
  rw [BitVec.toInt_eq_toNat_cond, BitVec.toNat_ofNat]
  simp only [sintOf, pow2_eq]
  by_cases lt : x % 2 ^ w < 2 ^ (w - 1)
  · rw [if_pos lt, if_pos (by omega)]
  · rw [if_neg lt, if_neg (by omega)]

theorem bufByte_lt (b : FMap Byte) (i : Nat) : bufByte b i < 256 := (FMap.get 0 b i).isLt

/-- A product with an element that 2:4 sparsity drops. -/
theorem product_none (a : Option FpNum) : product none a = some (.fin false 0 0) ∧ product a none = some (.fin false 0 0) := by
  cases a <;> exact ⟨rfl, rfl⟩

theorem Rec.width_pos (r : Rec) : 0 < r.width := by unfold Rec.width; split <;> (try split) <;> norm_num

section
variable (c : Core) (r : Rec) (o i k : Nat)

/-- Element k of a line, where the record is dense or index entry m of its group of four names it. -/
def Core.holds (m : Nat) : Prop :=
  if r.cmp = false then m = k
  else (m = 2 * (k / 4) + 1 ∧ c.idx24 r o i (2 * (k / 4) + 1) = k % 4) ∨
    (m = 2 * (k / 4) ∧ c.idx24 r o i (2 * (k / 4)) = k % 4 ∧ c.idx24 r o i (2 * (k / 4) + 1) ≠ k % 4)

theorem Core.stored_holds {m : Nat} (h : c.holds r o i k m) : c.stored r o i k = some m := by
  unfold Core.holds at h
  unfold Core.stored
  split at h
  next hc => rw [if_neg (by simp [hc]), h]
  next hc =>
    rw [if_pos (by simpa using hc)]
    rcases h with ⟨rfl, h1⟩ | ⟨rfl, h0, h1⟩
    · rw [if_pos h1]
    · rw [if_neg h1, if_pos h0]

theorem Core.stored_dropped (hc : r.cmp = true) (h0 : c.idx24 r o i (2 * (k / 4)) ≠ k % 4)
    (h1 : c.idx24 r o i (2 * (k / 4) + 1) ≠ k % 4) : c.stored r o i k = none := by
  unfold Core.stored
  rw [if_pos hc, if_neg h1, if_neg h0]

/-- A kept factor with its block's scale (R108). -/
theorem Core.factor_holds {m : Nat} (h : c.holds r o i k m) :
    let v0 := (fmtOf r.fmt).value (bufElem (c.bufOf r.buf) r.width (r.lineBase o i) m)
    let X := bufByte (c.bufOf r.buf) (r.scaleBase o i + k / 32)
    c.factorInt r o i k = (BitVec.ofNat r.width (bufElem (c.bufOf r.buf) r.width (r.lineBase o i) m)).toInt ∧
    ∃ v, c.factor r o i k = some v ∧ (r.mx = false → v = v0) ∧
      (r.mx = true →
        (X = 255 ∨ v0.isNan = true → v.isNan = true) ∧ (X ≠ 255 → ∀ b, v0 = .inf b → v = .inf b) ∧
        (X ≠ 255 → v0.isFin = true → v.isFin = true ∧ v.isNeg = v0.isNeg ∧ v.real = v0.real * 2 ^ ((X : ℤ) - 127))) := by
  intro v0 X
  have stored := c.stored_holds r o i k h
  refine ⟨by rw [Core.factorInt, stored]; exact sintOf_eq r.width_pos _, ?_⟩
  have form : c.factor r o i k = some (if r.mx then if X = 255 then .nan false else v0.scale ((X : Int) - 127) else v0) := by
    rw [Core.factor, stored]; rfl
  refine ⟨_, form, fun hm => by rw [hm]; rfl, fun hm => ?_⟩
  rw [hm, if_pos rfl]
  refine ⟨fun hn => ?_, fun hx b hb => by rw [if_neg hx, hb]; rfl, fun hx hf => ?_⟩
  · split
    · rfl
    next hx =>
      have nan := hn.resolve_left hx
      cases hv : v0 with
      | nan s => rfl
      | _ => rw [hv] at nan; exact absurd nan Bool.false_ne_true
  · rw [if_neg hx]
    refine ⟨?_, ?_, FpNum.real_scale _ _⟩ <;> obtain ⟨b, m, e, hv⟩ := FpNum.isFin_iff.1 hf <;> rw [hv] <;> rfl

end

end Sys2Proof.Machine
end

section
/-! Writes one after another, and what they leave in the buffers of the matrix engine (R184, R189, R194). -/
namespace Sys2Proof.Machine

/-! ## Writes that lie apart -/

/-- What a fold leaves where each of its steps writes an area of its own: in each area that step's values, elsewhere what was
there. A step finds its area, and any source that no area meets, as they were. -/
theorem foldl_writes {α β ι : Type} (f : α → ι → α) (get : α → Nat → β) (P : α → Prop) (W : ι → Nat → Prop) (V : ι → Nat → β)
    (src : Nat → Prop) {c : α} (hc : P c) (l : List ι) (hsrc : ∀ j ∈ l, ∀ b, W j b → ¬src b)
    (apart : l.Pairwise fun i j => ∀ b, W i b → ¬W j b)
    (step : ∀ d, ∀ j ∈ l, P d → (∀ b, src b ∨ W j b → get d b = get c b) →
      P (f d j) ∧ (∀ b, W j b → get (f d j) b = V j b) ∧ ∀ b, ¬W j b → get (f d j) b = get d b) :
    P (l.foldl f c) ∧ (∀ j ∈ l, ∀ b, W j b → get (l.foldl f c) b = V j b) ∧
      ∀ b, (∀ j ∈ l, ¬W j b) → get (l.foldl f c) b = get c b := by
  induction l using List.reverseRecOn with
  | nil => exact ⟨hc, by simp, fun _ _ => rfl⟩
  | append_singleton l j ih =>
    obtain ⟨earlier, -, last⟩ := List.pairwise_append.1 apart
    have last_apart (i : ι) (hi : i ∈ l) (b : Nat) (hb : W i b) : ¬W j b := last i hi j (by simp) b hb
    obtain ⟨hP, written, kept⟩ := ih (fun i hi => hsrc i (by simp [hi])) earlier fun d i hi => step d i (by simp [hi])
    obtain ⟨hP', area, rest⟩ := step (l.foldl f c) j (by simp) hP fun b hb => kept b fun i hi hw =>
      hb.elim (hsrc i (by simp [hi]) b hw) (last_apart i hi b hw)
    rw [List.foldl_append, List.foldl_cons, List.foldl_nil]
    refine ⟨hP', fun i hi b hb => ?_, fun b hb => ?_⟩
    · rcases List.mem_append.1 hi with hi | hi
      · rw [rest b (last_apart i hi b hb), written i hi b hb]
      · obtain rfl := List.mem_singleton.1 hi
        exact area b hb
    · rw [rest b (hb j (by simp)), kept b fun i hi => hb i (by simp [hi])]

/-! ## Bytes of a buffer -/

theorem get_foldl_put (bs : List Byte) (m : FMap Byte) (lo b : Nat) :
    FMap.get 0 (bs.zipIdx.foldl (fun m p => FMap.put 0 m (lo + p.2) p.1) m) b =
      if lo ≤ b ∧ b < lo + bs.length then bs.getD (b - lo) 0 else FMap.get 0 m b := by
  induction bs using List.reverseRecOn with
  | nil => rw [if_neg (by simp)]; rfl
  | append_singleton bs x ih =>
    rw [List.zipIdx_append, List.foldl_append]
    simp only [List.zipIdx_cons, List.zipIdx_nil, List.foldl_cons, List.foldl_nil, Nat.zero_add, List.length_append,
      List.length_cons, List.length_nil]
    by_cases hb : b = lo + bs.length
    · subst hb
      rw [FMap.get_put_same, if_pos (by omega)]
      simp
    · rw [FMap.get_put_other _ _ _ _ hb, ih]
      by_cases hin : lo ≤ b ∧ b < lo + bs.length
      · rw [if_pos hin, if_pos (by omega), List.getD_append _ _ _ _ (by omega)]
      · rw [if_neg hin, if_neg (by omega)]

section
variable (c : Core) (lo : Nat) (bs : List Byte) (bad : Nat → Bool)

theorem Core.putBuf_opb (b : Nat) : FMap.get 0 (c.putBuf 0 lo bs bad).opb b =
    if lo ≤ b ∧ b < lo + bs.length then bs.getD (b - lo) 0 else FMap.get 0 c.opb b := get_foldl_put bs c.opb lo b

theorem Core.putBuf_wb (b : Nat) : FMap.get 0 (c.putBuf 1 lo bs bad).wb b =
    if lo ≤ b ∧ b < lo + bs.length then bs.getD (b - lo) 0 else FMap.get 0 c.wb b := get_foldl_put bs c.wb lo b

theorem Core.putBuf_mq (buf : Nat) : (c.putBuf buf lo bs bad).mq = c.mq := by
  unfold Core.putBuf; dsimp only; split <;> rfl

end

/-! ## mwld (R184) -/

theorem Core.doWld_spec (c : Core) (src dst rows : Nat) :
    (c.doWld src dst rows).mq = c.mq ∧ (c.doWld src dst rows).opb = c.opb ∧ ∀ b, FMap.get 0 (c.doWld src dst rows).wb b =
      if 256 * dst ≤ b ∧ b < 256 * (dst + rows) then FMap.get 0 c.opb (256 * src + (b - 256 * dst)) else FMap.get 0 c.wb b := by
  obtain ⟨⟨hq, ho⟩, written, kept⟩ := foldl_writes
    (fun (c : Core) i => c.putBuf 1 (256 * dst + 8 * i) ((List.range 8).map fun k => FMap.get 0 c.opb (256 * src + 8 * i + k))
      fun _ => c.unitBad 0 (256 * src + 8 * i) 8)
    (fun d b => FMap.get 0 d.wb b) (fun d => d.mq = c.mq ∧ d.opb = c.opb)
    (fun i b => 256 * dst + 8 * i ≤ b ∧ b < 256 * dst + 8 * i + 8)
    (fun _ b => FMap.get 0 c.opb (256 * src + (b - 256 * dst))) (fun _ => False) (c := c) ⟨rfl, rfl⟩ (List.range (32 * rows))
    (fun _ _ _ _ h => h) (List.pairwise_lt_range.imp fun h b hb hb' => by omega)
    fun d i _ hd _ => ⟨⟨(Core.putBuf_mq ..).trans hd.1, hd.2⟩, fun b hb => by
        rw [Core.putBuf_wb, if_pos (by simpa using hb), getD_map_range 8 _ _ (by omega), hd.2]
        congr 1; omega,
      fun b hb => by rw [Core.putBuf_wb, if_neg (by simpa using hb)]⟩
  refine ⟨hq, ho, fun b => ?_⟩
  split
  next h => exact written ((b - 256 * dst) / 8) (List.mem_range.2 (by omega)) b (by omega)
  next h => exact kept b fun i hi hb => h (by have := List.mem_range.1 hi; omega)

end Sys2Proof.Machine
end

section
/-! The factors of a record's rows and scale bytes, read off the buffer's bytes (R108, R161, R165, R169 to R172). -/
namespace Sys2Proof.Machine

theorem Rec.depth_eq (r : Rec) :
    r.depth = if r.fmt = 1 ∨ r.fmt = 2 then 128 else if r.fmt = 7 ∧ r.exp = false then 512 else 256 := by
  simp only [Rec.depth, Bool.not_eq_true']

/-- Half m of a byte, by the place value of its sixteenth. -/
theorem bufElem_eq (b : FMap Byte) (w base m : Nat) : bufElem b w base m =
    if w = 16 then bufByte b (base + 2 * m) + 256 * bufByte b (base + 2 * m + 1)
    else if w = 4 then bufByte b (base + m / 2) / 16 ^ (m % 2) % 16 else bufByte b (base + m) := by
  have lt := bufByte_lt b (base + m / 2)
  unfold bufElem
  rcases Nat.mod_two_eq_zero_or_one m with h | h
  · simp only [h, if_true, pow_zero, Nat.div_one]
  · simp only [h, one_ne_zero, if_false, pow_one]
    rw [Nat.mod_eq_of_lt (show bufByte b (base + m / 2) / 16 < 16 by omega)]

theorem Core.idx24_eq (c : Core) (r : Rec) (o i m : Nat) : c.idx24 r o i m =
    bufByte (c.bufOf r.buf) (256 * (r.row0 + o) + 16 * r.colBytes + i * (r.depth / 8) + m / 4) / 4 ^ (m % 4) % 4 := by
  unfold Core.idx24
  dsimp only
  rw [Nat.shiftRight_eq_div_pow, pow_mul]
  rfl

theorem Core.factor_by_rule (c : Core) (r : Rec) (o i k : Nat) :
    let byte (a : Nat) : Nat := (FMap.get 0 (if r.buf = 0 then c.opb else c.wb) a).toNat
    let K := if r.fmt = 1 ∨ r.fmt = 2 then 128 else if r.fmt = 7 ∧ r.exp = false then 512 else 256
    let w := if r.fmt = 1 ∨ r.fmt = 2 then 16 else if r.fmt = 7 ∨ r.fmt = 15 then 4 else 8
    let cb := K * w / (if r.cmp then 16 else 8)
    let rps := (16 * cb + (if r.cmp then 2 * K else 0)) / 256
    let line := if r.lay then o + 16 * i else o + i
    let base := if r.buf = 0 then 256 * (r.row0 + line) else 256 * (r.row0 + o) + i * cb
    let elem (m : Nat) : Nat :=
      if w = 16 then byte (base + 2 * m) + 256 * byte (base + 2 * m + 1)
      else if w = 4 then byte (base + m / 2) / 16 ^ (m % 2) % 16 else byte (base + m)
    let index (m : Nat) : Nat := byte (256 * (r.row0 + o) + 16 * cb + i * (K / 8) + m / 4) / 4 ^ (m % 4) % 4
    let X := byte (256 * (r.row0 + r.scoff) + (if r.buf = 0 then line * (K / 32) else o / rps * (K / 2) + i * (K / 32)) + k / 32)
    let g := 2 * (k / 4)
    let kept (m : Nat) : Prop := if r.cmp = false then m = k
      else (m = g + 1 ∧ index (g + 1) = k % 4) ∨ (m = g ∧ index g = k % 4 ∧ index (g + 1) ≠ k % 4)
    (r.cmp = true → index g ≠ k % 4 → index (g + 1) ≠ k % 4 → c.factor r o i k = none ∧ c.factorInt r o i k = 0) ∧
    ∀ m, kept m → c.factorInt r o i k = (BitVec.ofNat w (elem m)).toInt ∧
      ∃ v, c.factor r o i k = some v ∧
        let v0 := (fmtOf r.fmt).value (elem m)
        (r.mx = false → v = v0) ∧
        (r.mx = true →
          (X = 255 ∨ v0.isNan = true → v.isNan = true) ∧ (X ≠ 255 → ∀ b, v0 = .inf b → v = .inf b) ∧
          (X ≠ 255 → v0.isFin = true → v.isFin = true ∧ v.isNeg = v0.isNeg ∧ v.real = v0.real * 2 ^ ((X : ℤ) - 127))) := by
  intro byte K w cb rps line base elem index X g kept
  have hK : K = r.depth := r.depth_eq.symm
  have hcb : cb = r.colBytes := by unfold Rec.colBytes; rw [← hK]; rfl
  have hbase : base = r.lineBase o i := by unfold Rec.lineBase; rw [← hcb]; rfl
  have helem (m : Nat) : elem m = bufElem (c.bufOf r.buf) r.width (r.lineBase o i) m := by rw [bufElem_eq, ← hbase]; rfl
  have hindex (m : Nat) : index m = c.idx24 r o i m := by rw [Core.idx24_eq, ← hcb, ← hK]; rfl
  have hX : X = bufByte (c.bufOf r.buf) (r.scaleBase o i + k / 32) := by
    unfold Rec.scaleBase Rec.stepRows; rw [← hcb, ← hK]; rfl
  have hkept (m : Nat) : kept m → c.holds r o i k m := by simp only [kept, hindex]; exact id
  refine ⟨fun hc h0 h1 => ?_, fun m hm => ?_⟩
  · rw [hindex] at h0 h1
    have stored := c.stored_dropped r o i k hc h0 h1
    exact ⟨by rw [Core.factor, stored]; rfl, by rw [Core.factorInt, stored]⟩
  · rw [helem, hX]
    exact c.factor_holds r o i k (hkept m hm)

end Sys2Proof.Machine
end

section
/-! The blocks that mxq derives (R109, R194). -/
namespace Sys2Proof.Machine

/-! ## One block -/

theorem blockScale_length (f : Fmt) (emax : Int) (vs : List FpNum) : (blockScale f emax vs).2.length = vs.length := by
  by_cases special : (vs.any fun v => v.isNan || v.isInf) = true
  · unfold blockScale
    rw [if_pos special, List.length_map]
  · rw [blockScale_fin f emax fun v hv => by
      by_contra h
      exact special ((anySpecial_iff vs).2 ⟨v, hv, by simpa using h⟩)]
    unfold blockOf
    split <;> simp

/-- The elements of a block are patterns of its format. -/
theorem blockScale_lt {f : Fmt} (hf : f ∈ formats) (emax : Int) (vs : List FpNum) :
    ∀ e ∈ (blockScale f emax vs).2, e < 2 ^ f.width := by
  have zero : (0 : Nat) < 2 ^ f.width := by positivity
  intro e he
  by_cases special : (vs.any fun v => v.isNan || v.isInf) = true
  · unfold blockScale at he
    rw [if_pos special] at he
    obtain ⟨v, -, rfl⟩ := List.mem_map.1 he
    exact zero
  · have fin (v : FpNum) (hv : v ∈ vs) : v.isFin = true := by
      by_contra h
      exact special ((anySpecial_iff vs).2 ⟨v, hv, by simpa using h⟩)
    rw [blockScale_fin f emax fin] at he
    unfold blockOf at he
    split at he <;> obtain ⟨v, hv, rfl⟩ := List.mem_map.1 he <;> obtain ⟨b, m, x, rfl⟩ := FpNum.isFin_iff.1 (fin v hv)
    · exact (Nat.le_add_right _ _).trans_lt (Fmt.bits_lt (E := 0) (M := 0) (by positivity) (by positivity) b)
    · obtain ⟨n, d, hd, -, rounded⟩ := f.ofNum_fin 1 true 0 b m (x + _)
      rw [FpNum.scale, rounded]
      exact Fmt.roundTo_lt hf le_rfl (by norm_num) n hd true b

/-- A record of the operand buffer whose scaled elements stand in plain rows. -/
structure Rec.Plain (r : Rec) : Prop where
  buf : r.buf = 0
  lay : r.lay = false
  mx : r.mx = true
  cmp : r.cmp = false
  exp : r.exp = false
  lo : 3 ≤ r.fmt
  hi : r.fmt ≤ 7

section
variable {r : Rec} (h : r.Plain)
include h

theorem Rec.Plain.shape : (r.width = 4 ∧ r.depth = 512) ∨ (r.width = 8 ∧ r.depth = 256) := by
  obtain ⟨-, -, -, -, exp, lo, hi⟩ := h
  unfold Rec.width Rec.depth
  by_cases h7 : r.fmt = 7
  · left; simp [h7, exp]
  · right
    constructor
    · rw [if_neg (by omega), if_neg (by omega)]
    · rw [if_neg (by omega), if_neg (by omega)]

theorem Rec.Plain.lineBase (o i : Nat) : r.lineBase o i = 256 * (r.row0 + (o + i)) := by
  simp [Rec.lineBase, Rec.lineRow, h.buf, h.lay]

theorem Rec.Plain.scaleBase (o i : Nat) : r.scaleBase o i = 256 * (r.row0 + r.scoff) + (o + i) * (r.depth / 32) := by
  simp [Rec.scaleBase, Rec.lineRow, h.buf, h.lay]

theorem Rec.Plain.fits : (fmtOf r.fmt).width ≤ r.width := by
  obtain ⟨-, -, -, -, -, lo, hi⟩ := h
  have (f : Nat) (h3 : 3 ≤ f) (h7 : f ≤ 7) : (fmtOf f).width ≤ if f = 1 ∨ f = 2 then 16 else if f = 7 ∨ f = 15 then 4 else 8 := by
    interval_cases f <;> decide
  exact this r.fmt lo hi

end

theorem bufElem_congr {a b : FMap Byte} {w base m lo n : Nat} (hw : w = 4 ∨ w = 8)
    (same : ∀ x, lo ≤ x → x < lo + n → bufByte a x = bufByte b x) (hlo : lo ≤ base + m * w / 8) (hm : base + m * w / 8 < lo + n) :
    bufElem a w base m = bufElem b w base m := by
  rcases hw with rfl | rfl
  · rw [bufElem_eq, bufElem_eq, if_neg (by norm_num), if_pos rfl, if_neg (by norm_num), if_pos rfl, same _ (by omega) (by omega)]
  · rw [bufElem_eq, bufElem_eq, if_neg (by norm_num), if_neg (by norm_num), if_neg (by norm_num), if_neg (by norm_num),
      same _ (by omega) (by omega)]

/-- A factor of such a record is a matter of its row's bytes and its scale byte. -/
theorem Core.factor_congr {c d : Core} {r : Rec} (h : r.Plain) {o j : Nat} (hj : j < r.depth)
    (row : ∀ b, 256 * (r.row0 + o) ≤ b → b < 256 * (r.row0 + o) + 256 → bufByte d.opb b = bufByte c.opb b)
    (scale : bufByte d.opb (r.scaleBase o 0 + j / 32) = bufByte c.opb (r.scaleBase o 0 + j / 32)) :
    d.factor r o 0 j = c.factor r o 0 j := by
  have place : j * r.width / 8 < 256 := by rcases h.shape with ⟨hw, hd⟩ | ⟨hw, hd⟩ <;> rw [hw] <;> omega
  have buf (x : Core) : x.bufOf r.buf = x.opb := by rw [Core.bufOf, if_pos h.buf]
  have elem := bufElem_congr (a := d.opb) (b := c.opb) (w := r.width) (base := r.lineBase o 0) (m := j)
    (h.shape.imp And.left And.left) row (by rw [h.lineBase]; omega) (by rw [h.lineBase]; omega)
  unfold Core.factor Core.stored
  rw [h.cmp]
  simp only [Bool.false_eq_true, if_false, Option.map_some, buf, elem, scale]

/-! ## One place of a row: a block and its scale -/

/-- The block that place j of the 32 rows from oa gives. -/
def Core.xqBlock (c : Core) (ra rb : Rec) (oa j : Nat) : Nat × List Nat :=
  blockScale (fmtOf rb.fmt) ([8, 15, 2, 4, 2].getD (rb.fmt - 3) 2)
    (((List.range 32).map fun i => oa + i).map fun r => (c.factor ra r 0 j).getD (.fin false 0 0))

/-- A block's elements as its bytes hold them. -/
def xqBytes (w : Nat) (es : List Nat) : List Byte :=
  if w = 4 then (List.range 16).map fun k => BitVec.ofNat 8 (es.getD (2 * k) 0 + 16 * es.getD (2 * k + 1) 0)
  else es.map fun e => BitVec.ofNat 8 e

/-- One block and its scale byte written. -/
def Core.xqWrite (bad : Core → Nat → Bool) (ra rb : Rec) (oa ob blk : Nat) (d : Core) (j : Nat) : Core :=
  (d.putBuf 0 (256 * (rb.row0 + ob + j) + 32 * blk * rb.width / 8) (xqBytes rb.width (d.xqBlock ra rb oa j).2)
    fun _ => bad d j).putBuf 0 (rb.scaleBase (ob + j) 0 + blk) [BitVec.ofNat 8 (d.xqBlock ra rb oa j).1] fun _ => bad d j

theorem Core.doXq_eq (c : Core) (ra : Rec) {rb : Rec} (h : rb.Plain) (oa ob blk : Nat) :
    ∃ bad, c.doXq ra rb oa ob blk = (List.range ra.depth).foldl (Core.xqWrite bad ra rb oa ob blk) c := by
  obtain ⟨-, -, -, -, -, lo, hi⟩ := h
  refine ⟨fun d j => ((List.range 32).map fun i => oa + i).any fun r =>
      d.unitBad 0 (256 * (ra.row0 + r) + j * ra.width / 8) (ra.width / 8 + (if ra.width = 4 then 1 else 0)) ||
        d.unitBad 0 (ra.scaleBase r 0 + j / 32) 1, ?_⟩
  unfold Core.doXq
  congr 1
  funext d j
  unfold Core.xqWrite Core.xqBlock xqBytes
  generalize rb.fmt = f at lo hi
  interval_cases f <;> rfl

theorem Core.xqBlock_length (c : Core) (ra rb : Rec) (oa j : Nat) : (c.xqBlock ra rb oa j).2.length = 32 := by
  rw [Core.xqBlock, blockScale_length]; simp

theorem Core.xqBlock_fst_lt (c : Core) (ra rb : Rec) (oa j : Nat) : (c.xqBlock ra rb oa j).1 < 256 := by
  unfold Core.xqBlock blockScale
  split
  · norm_num
  · dsimp only
    split
    · norm_num
    · omega

theorem Core.xqBlock_lt (c : Core) (ra : Rec) {rb : Rec} (h : rb.Plain) (oa j e : Nat) :
    (c.xqBlock ra rb oa j).2.getD e 0 < 2 ^ rb.width := by
  have := h.lo
  have := h.hi
  rcases Nat.lt_or_ge e (c.xqBlock ra rb oa j).2.length with lt | ge
  · rw [List.getD_eq_getElem _ _ lt]
    exact (blockScale_lt (fmtOf_mem _ (by omega) h.hi) _ _ _ (List.getElem_mem lt)).trans_le (Nat.pow_le_pow_right two_pos h.fits)
  · rw [List.getD_eq_default _ _ ge]
    positivity

theorem xqBytes_length {w : Nat} (hw : w = 4 ∨ w = 8) {es : List Nat} (he : es.length = 32) : (xqBytes w es).length = 4 * w := by
  rcases hw with rfl | rfl <;> simp [xqBytes, he]

/-- An element of a block, read back from the block's bytes. -/
theorem bufElem_xqBytes {w : Nat} (hw : w = 4 ∨ w = 8) {es : List Nat} (he : es.length = 32) (hlt : ∀ e, es.getD e 0 < 2 ^ w)
    {b : FMap Byte} {row k : Nat}
    (hb : ∀ x, row + 4 * w * k ≤ x → x < row + 4 * w * k + 4 * w → FMap.get 0 b x = (xqBytes w es).getD (x - (row + 4 * w * k)) 0)
    {e : Nat} (hk : e / 32 = k) : bufElem b w row e = es.getD (e % 32) 0 := by
  rcases hw with rfl | rfl
  · have place : row + e / 2 - (row + 4 * 4 * k) = e % 32 / 2 := by omega
    have byte := hb (row + e / 2) (by omega) (by omega)
    rw [place, xqBytes, if_pos rfl, getD_map_range 16 _ _ (by omega)] at byte
    rw [bufElem_eq, if_neg (by norm_num), if_pos rfl, bufByte, byte, BitVec.toNat_ofNat]
    generalize hq : e % 32 / 2 = q
    have h0 := hlt (2 * q)
    have h1 := hlt (2 * q + 1)
    rcases Nat.mod_two_eq_zero_or_one e with h | h
    · rw [h, pow_zero, Nat.div_one, show e % 32 = 2 * q by omega]
      omega
    · rw [h, pow_one, show e % 32 = 2 * q + 1 by omega]
      omega
  · have place : row + e - (row + 4 * 8 * k) = e % 32 := by omega
    have byte := hb (row + e) (by omega) (by omega)
    have lt : e % 32 < es.length := by omega
    rw [place, xqBytes, if_neg (by norm_num), List.getD_eq_getElem _ _ (by simpa using lt), List.getElem_map] at byte
    have bound := hlt (e % 32)
    rw [List.getD_eq_getElem _ _ lt] at bound
    rw [bufElem_eq, if_neg (by norm_num), if_neg (by norm_num), bufByte, byte, BitVec.toNat_ofNat, Nat.mod_eq_of_lt bound,
      List.getD_eq_getElem _ _ lt]

end Sys2Proof.Machine
end

section
/-! The blocks that mxq derives, where the areas that it reads and writes lie apart (R194). -/
namespace Sys2Proof.Machine

section
variable (rb : Rec) (ob k : Nat)

/-- The bytes of block k of row j. -/
def Rec.blockArea (j b : Nat) : Prop :=
  256 * (rb.row0 + ob + j) + 4 * rb.width * k ≤ b ∧ b < 256 * (rb.row0 + ob + j) + 4 * rb.width * k + 4 * rb.width

/-- The scale byte of block k of row j. -/
def Rec.scaleByte (j : Nat) : Nat := 256 * (rb.row0 + rb.scoff) + ob * (rb.depth / 32) + j * (rb.depth / 32) + k

end

/-- Two areas, each a first byte and a number of bytes, lie apart. -/
def clearOf (p q : Nat × Nat) : Prop := p.1 + p.2 ≤ q.1 ∨ q.1 + q.2 ≤ p.1

/-- The rows and the scale bytes that an mxq writes, and those that it reads, lie apart. -/
structure XqApart (ra rb : Rec) (oa ob : Nat) : Prop where
  plainA : ra.Plain
  plainB : rb.Plain
  own : clearOf (256 * (rb.row0 + ob), 256 * ra.depth)
    (256 * (rb.row0 + rb.scoff) + ob * (rb.depth / 32), ra.depth * (rb.depth / 32))
  rowsRows : clearOf (256 * (ra.row0 + oa), 256 * 32) (256 * (rb.row0 + ob), 256 * ra.depth)
  rowsScales : clearOf (256 * (ra.row0 + oa), 256 * 32)
    (256 * (rb.row0 + rb.scoff) + ob * (rb.depth / 32), ra.depth * (rb.depth / 32))
  scalesRows : clearOf (256 * (ra.row0 + ra.scoff) + oa * (ra.depth / 32), ra.depth) (256 * (rb.row0 + ob), 256 * ra.depth)
  scalesScales : clearOf (256 * (ra.row0 + ra.scoff) + oa * (ra.depth / 32), ra.depth)
    (256 * (rb.row0 + rb.scoff) + ob * (rb.depth / 32), ra.depth * (rb.depth / 32))

/-- The bytes that an mxq reads. -/
def Rec.xqSource (ra : Rec) (oa b : Nat) : Prop :=
  (256 * (ra.row0 + oa) ≤ b ∧ b < 256 * (ra.row0 + oa) + 256 * 32) ∨
  (256 * (ra.row0 + ra.scoff) + oa * (ra.depth / 32) ≤ b ∧ b < 256 * (ra.row0 + ra.scoff) + oa * (ra.depth / 32) + ra.depth)

theorem Core.xqBlock_congr {c d : Core} {ra : Rec} (h : ra.Plain) (rb : Rec) {oa j : Nat} (hj : j < ra.depth)
    (same : ∀ b, ra.xqSource oa b → FMap.get 0 d.opb b = FMap.get 0 c.opb b) : d.xqBlock ra rb oa j = c.xqBlock ra rb oa j := by
  have bytes (b : Nat) (hb : ra.xqSource oa b) : bufByte d.opb b = bufByte c.opb b := congrArg BitVec.toNat (same b hb)
  unfold Core.xqBlock
  congr 1
  refine List.map_congr_left fun r hr => ?_
  obtain ⟨i, hi, rfl⟩ := List.mem_map.1 hr
  have hi := List.mem_range.1 hi
  rw [Core.factor_congr h hj (fun b h1 h2 => bytes b (.inl (by omega))) (bytes _ (.inr ?_))]
  rw [h.scaleBase]
  rcases h.shape with ⟨-, hd⟩ | ⟨-, hd⟩ <;> rw [hd] at hj ⊢ <;> norm_num <;> omega

section
variable {ra rb : Rec} {oa ob k : Nat} (h : XqApart ra rb oa ob) (hk : k < rb.depth / 32)
include h hk

theorem XqApart.source_clear {j b : Nat} (hj : j < ra.depth) (hb : rb.blockArea ob k j b ∨ b = rb.scaleByte ob k j) :
    ¬ra.xqSource oa b := by
  obtain ⟨-, plainB, -, h1, h2, h3, h4⟩ := h
  unfold clearOf at h1 h2 h3 h4
  unfold Rec.xqSource
  unfold Rec.blockArea Rec.scaleByte at hb
  rcases plainB.shape with ⟨hw, hd⟩ | ⟨hw, hd⟩ <;> rw [hw, hd] at hb <;> rw [hd] at h2 h4 hk <;>
    norm_num at hb h1 h2 h3 h4 hk ⊢ <;> omega

theorem XqApart.scale_apart {i j b l : Nat} (hi : i < ra.depth) (hj : j < ra.depth) (hl : l < rb.depth / 32)
    (hb : rb.blockArea ob k i b) : b ≠ rb.scaleByte ob l j := by
  obtain ⟨-, plainB, own, -⟩ := h
  unfold clearOf at own
  unfold Rec.scaleByte
  unfold Rec.blockArea at hb
  rcases plainB.shape with ⟨hw, hd⟩ | ⟨hw, hd⟩ <;> rw [hw] at hb <;> rw [hd] at own hk hl ⊢ <;> norm_num at hb own hk hl ⊢ <;> omega

omit hk in
theorem XqApart.rows_apart {i j b : Nat} (hij : i < j) (hi : rb.blockArea ob k i b) : ¬rb.blockArea ob k j b := by
  unfold Rec.blockArea at hi ⊢
  rcases h.plainB.shape with ⟨hw, -⟩ | ⟨hw, -⟩ <;> rw [hw] at hi ⊢ <;> omega

theorem XqApart.scales_apart {i j l : Nat} (hl : l < rb.depth / 32) (hij : i ≠ j ∨ l ≠ k) :
    rb.scaleByte ob k i ≠ rb.scaleByte ob l j := by
  unfold Rec.scaleByte
  rcases h.plainB.shape with ⟨-, hd⟩ | ⟨-, hd⟩ <;> rw [hd] at hk hl ⊢ <;> norm_num at hk hl ⊢ <;> omega

theorem XqApart.blocks_apart {i j l b : Nat} (hl : l < rb.depth / 32) (hlk : l ≠ k)
    (hb : rb.blockArea ob l j b) : ¬rb.blockArea ob k i b := by
  unfold Rec.blockArea at hb ⊢
  rcases h.plainB.shape with ⟨hw, hd⟩ | ⟨hw, hd⟩ <;> rw [hw] at hb ⊢ <;> rw [hd] at hk hl <;> norm_num at hk hl hb ⊢ <;> omega

/-- What mxq leaves in the operand buffer: each place's block and scale byte, elsewhere what was there. -/
theorem Core.doXq_bytes (c : Core) :
    (c.doXq ra rb oa ob k).mq = c.mq ∧
    (∀ j < ra.depth, FMap.get 0 (c.doXq ra rb oa ob k).opb (rb.scaleByte ob k j) = BitVec.ofNat 8 (c.xqBlock ra rb oa j).1 ∧
      ∀ b, rb.blockArea ob k j b → FMap.get 0 (c.doXq ra rb oa ob k).opb b =
        (xqBytes rb.width (c.xqBlock ra rb oa j).2).getD (b - (256 * (rb.row0 + ob + j) + 4 * rb.width * k)) 0) ∧
    ∀ b, (∀ j < ra.depth, ¬rb.blockArea ob k j b ∧ b ≠ rb.scaleByte ob k j) →
      FMap.get 0 (c.doXq ra rb oa ob k).opb b = FMap.get 0 c.opb b := by
  obtain ⟨bad, form⟩ := c.doXq_eq ra h.plainB oa ob k
  have start (j : Nat) : rb.scaleBase (ob + j) 0 + k = rb.scaleByte ob k j := by
    rw [h.plainB.scaleBase, Rec.scaleByte]; ring
  have place (j : Nat) : 256 * (rb.row0 + ob + j) + 32 * k * rb.width / 8 = 256 * (rb.row0 + ob + j) + 4 * rb.width * k := by
    rcases h.plainB.shape with ⟨hw, -⟩ | ⟨hw, -⟩ <;> rw [hw] <;> omega
  have bits : rb.width = 4 ∨ rb.width = 8 := h.plainB.shape.imp And.left And.left
  rw [form]
  classical
  have apart : (List.range ra.depth).Pairwise fun i j => ∀ b, (rb.blockArea ob k i b ∨ b = rb.scaleByte ob k i) →
      ¬(rb.blockArea ob k j b ∨ b = rb.scaleByte ob k j) := by
    refine List.Pairwise.imp_of_mem (fun {i j} hi hj hij b hb => ?_) List.pairwise_lt_range
    have hi := List.mem_range.1 hi
    have hj := List.mem_range.1 hj
    rintro (h' | h') <;> rcases hb with hb | hb
    · exact h.rows_apart hij hb h'
    · exact h.scale_apart hk hj hi hk h' hb
    · exact h.scale_apart hk hi hj hk hb h'
    · exact h.scales_apart hk hk (.inl hij.ne) (hb.symm.trans h')
  have step (d : Core) (j : Nat) (hj : j ∈ List.range ra.depth) (hd : d.mq = c.mq)
      (same : ∀ b, (ra.xqSource oa b ∨ rb.blockArea ob k j b ∨ b = rb.scaleByte ob k j) → FMap.get 0 d.opb b = FMap.get 0 c.opb b) :
      (Core.xqWrite bad ra rb oa ob k d j).mq = c.mq ∧
      (∀ b, (rb.blockArea ob k j b ∨ b = rb.scaleByte ob k j) → FMap.get 0 (Core.xqWrite bad ra rb oa ob k d j).opb b =
        if b = rb.scaleByte ob k j then BitVec.ofNat 8 (c.xqBlock ra rb oa j).1 else
          (xqBytes rb.width (c.xqBlock ra rb oa j).2).getD (b - (256 * (rb.row0 + ob + j) + 4 * rb.width * k)) 0) ∧
      ∀ b, ¬(rb.blockArea ob k j b ∨ b = rb.scaleByte ob k j) →
        FMap.get 0 (Core.xqWrite bad ra rb oa ob k d j).opb b = FMap.get 0 d.opb b := by
    have block := Core.xqBlock_congr h.plainA rb (List.mem_range.1 hj) fun b hb => same b (.inl hb)
    have byte (b : Nat) : FMap.get 0 (Core.xqWrite bad ra rb oa ob k d j).opb b =
        if b = rb.scaleByte ob k j then BitVec.ofNat 8 (c.xqBlock ra rb oa j).1 else
        if 256 * (rb.row0 + ob + j) + 4 * rb.width * k ≤ b ∧ b < 256 * (rb.row0 + ob + j) + 4 * rb.width * k + 4 * rb.width then
          (xqBytes rb.width (c.xqBlock ra rb oa j).2).getD (b - (256 * (rb.row0 + ob + j) + 4 * rb.width * k)) 0
        else FMap.get 0 d.opb b := by
      rw [Core.xqWrite, Core.putBuf_opb, Core.putBuf_opb, block, start, place, xqBytes_length bits (Core.xqBlock_length ..)]
      simp only [List.length_singleton]
      by_cases hs : b = rb.scaleByte ob k j
      · rw [if_pos (by omega), if_pos hs, hs, Nat.sub_self]; rfl
      · rw [if_neg (by omega), if_neg hs]
    refine ⟨by rw [Core.xqWrite, Core.putBuf_mq, Core.putBuf_mq, hd], fun b hb => ?_, fun b hb => ?_⟩
    · rw [byte]
      split
      · rfl
      next hs => exact if_pos (hb.resolve_right hs)
    · rw [byte, if_neg fun h' => hb (.inr h')]
      exact if_neg fun h' => hb (.inl h')
  obtain ⟨mq, written, kept⟩ := foldl_writes (Core.xqWrite bad ra rb oa ob k) (fun d b => FMap.get 0 d.opb b)
    (fun d => d.mq = c.mq) _ _ (ra.xqSource oa) (c := c) rfl (List.range ra.depth)
    (fun j hj b hb => h.source_clear hk (List.mem_range.1 hj) hb) apart step
  refine ⟨mq, fun j hj => ⟨?_, fun b hb => ?_⟩, fun b hb => kept b fun j hj hw => ?_⟩
  · rw [written j (List.mem_range.2 hj) _ (.inr rfl), if_pos rfl]
  · rw [written j (List.mem_range.2 hj) b (.inl hb), if_neg (h.scale_apart hk hj hj hk hb)]
  · obtain ⟨h1, h2⟩ := hb j (List.mem_range.1 hj)
    exact hw.elim h1 h2

/-- The blocks, the scales and the elements that mxq leaves. -/
theorem Core.doXq_block (c : Core) {j : Nat} (hj : j < ra.depth) :
    bufByte (c.doXq ra rb oa ob k).opb (rb.scaleByte ob k j) = (c.xqBlock ra rb oa j).1 ∧
    (∀ b < rb.depth / 32, b ≠ k → bufByte (c.doXq ra rb oa ob k).opb (rb.scaleByte ob b j) = bufByte c.opb (rb.scaleByte ob b j)) ∧
    ∀ e < rb.depth, bufElem (c.doXq ra rb oa ob k).opb rb.width (256 * (rb.row0 + ob + j)) e =
      if e / 32 = k then (c.xqBlock ra rb oa j).2.getD (e % 32) 0 else bufElem c.opb rb.width (256 * (rb.row0 + ob + j)) e := by
  obtain ⟨-, written, kept⟩ := c.doXq_bytes h hk
  have bits : rb.width = 4 ∨ rb.width = 8 := h.plainB.shape.imp And.left And.left
  obtain ⟨scale, elems⟩ := written j hj
  refine ⟨by rw [bufByte, scale, BitVec.toNat_ofNat, Nat.mod_eq_of_lt (c.xqBlock_fst_lt ..)], fun b hb hne => congrArg BitVec.toNat (kept _ fun i hi => ⟨fun hw => ?_, ?_⟩), fun e he => ?_⟩
  · exact h.scale_apart hk hi hj hb hw rfl
  · exact (h.scales_apart hk hb (.inr hne)).symm
  · split
    next hek => exact bufElem_xqBytes bits (Core.xqBlock_length ..) (Core.xqBlock_lt c ra h.plainB oa j) (fun x h1 h2 => elems x ⟨h1, h2⟩) hek
    next hek =>
      have block : e / 32 < rb.depth / 32 := by rcases h.plainB.shape with ⟨-, hd⟩ | ⟨-, hd⟩ <;> rw [hd] at he ⊢ <;> omega
      have lies : 4 * rb.width * (e / 32) ≤ e * rb.width / 8 ∧ e * rb.width / 8 < 4 * rb.width * (e / 32) + 4 * rb.width := by
        rcases bits with hw | hw <;> rw [hw] <;> omega
      refine bufElem_congr bits (fun x h1 h2 => congrArg BitVec.toNat (kept x fun i hi => ?_))
        (Nat.add_le_add_left lies.1 _) (Nat.lt_of_lt_of_eq (Nat.add_lt_add_left lies.2 _) (Nat.add_assoc ..).symm)
      have area : rb.blockArea ob (e / 32) j x := ⟨h1, h2⟩
      exact ⟨h.blocks_apart hk block hek area, h.scale_apart block hj hi hk area⟩

end

theorem Core.xqBlock_eq (c : Core) (ra rb : Rec) (oa j : Nat) : c.xqBlock ra rb oa j =
    blockScale (fmtOf rb.fmt) ([8, 15, 2, 4, 2].getD (rb.fmt - 3) 2)
      ((List.range 32).map fun i => (c.factor ra (oa + i) 0 j).getD (.fin false 0 0)) := by
  rw [Core.xqBlock, List.map_map]; rfl

theorem Core.doXq_by_rule (c : Core) (ra rb : Rec) (oa ob k : Nat)
    (plain : ∀ r ∈ [ra, rb], r.buf = 0 ∧ r.lay = false ∧ r.mx = true ∧ r.cmp = false ∧ r.exp = false ∧ 3 ≤ r.fmt ∧ r.fmt ≤ 7) :
    let n := ra.depth
    let blocks := rb.depth / 32
    let clear (p q : Nat × Nat) : Prop := p.1 + p.2 ≤ q.1 ∨ q.1 + q.2 ≤ p.1
    let data : Nat × Nat := (256 * (rb.row0 + ob), 256 * n)
    let scales : Nat × Nat := (256 * (rb.row0 + rb.scoff) + ob * blocks, n * blocks)
    k < blocks → clear data scales →
    (∀ q ∈ [data, scales], clear (256 * (ra.row0 + oa), 256 * 32) q ∧
      clear (256 * (ra.row0 + ra.scoff) + oa * (n / 32), n) q) →
    let d := c.doXq ra rb oa ob k
    ∀ j < n,
      let block := blockScale (fmtOf rb.fmt) ([8, 15, 2, 4, 2].getD (rb.fmt - 3) 2)
        ((List.range 32).map fun i => (c.factor ra (oa + i) 0 j).getD (.fin false 0 0))
      let row := 256 * (rb.row0 + ob + j)
      bufByte d.opb (scales.1 + j * blocks + k) = block.1 ∧
        (∀ b < blocks, b ≠ k → bufByte d.opb (scales.1 + j * blocks + b) = bufByte c.opb (scales.1 + j * blocks + b)) ∧
        ∀ e < rb.depth, bufElem d.opb rb.width row e =
          if e / 32 = k then block.2.getD (e % 32) 0 else bufElem c.opb rb.width row e := by
  intro n blocks clear data scales hk own sources d j hj
  have plainRec (r : Rec) (hr : r ∈ [ra, rb]) : r.Plain := by
    obtain ⟨buf, lay, mx, cmp, exp, lo, hi⟩ := plain r hr
    exact ⟨buf, lay, mx, cmp, exp, lo, hi⟩
  obtain ⟨rowsRows, scalesRows⟩ := sources data (by simp)
  obtain ⟨rowsScales, scalesScales⟩ := sources scales (by simp)
  have apart : XqApart ra rb oa ob :=
    ⟨plainRec ra (by simp), plainRec rb (by simp), own, rowsRows, rowsScales, scalesRows, scalesScales⟩
  have result := c.doXq_block apart hk hj
  rw [c.xqBlock_eq] at result
  exact result

end Sys2Proof.Machine
end

section
/-! The commands at the head of a core's queue, but for drains (R173, R183, R184, R193, R194). -/
namespace Sys2Proof.Machine

/-! ## Maps: what is listed at a key -/

theorem FMap.find_ins {α : Type} (i j : Nat) (x : α) : ∀ m : FMap α, (m.ins i x).find j = if j = i then some x else m.find j
  | [] => by simp only [FMap.ins, FMap.find, eq_comm]
  | (k, v) :: t => by
    have later := FMap.find_ins i j x t
    unfold FMap.ins
    grind [FMap.find]

theorem FMap.find_del {α : Type} (i j : Nat) : ∀ m : FMap α, (m.del i).find j = if j = i then none else m.find j
  | [] => by simp [FMap.del, FMap.find]
  | (k, v) :: t => by
    have later : FMap.find (t.filter fun p => decide (p.1 ≠ i)) j = if j = i then none else FMap.find t j := FMap.find_del i j t
    rw [FMap.del, List.filter_cons]
    by_cases ki : k = i
    · rw [if_neg (by simpa using ki), later, FMap.find]
      by_cases ji : j = i
      · simp [ji]
      · rw [if_neg ji, if_neg ji, if_neg (by omega)]
    · rw [if_pos (by simpa using ki), FMap.find, FMap.find, later]
      by_cases kj : k = j
      · rw [if_pos kj, if_pos kj, if_neg (by omega)]
      · rw [if_neg kj, if_neg kj]

/-! ## What the parts of a command's effect leave -/

theorem State.noteUnit_eq (s : State) (u a : Nat) : ∃ l, s.noteUnit u a = { s with eccDue := l } := by
  unfold State.noteUnit State.noteEcc
  dsimp only
  split <;> exact ⟨_, rfl⟩

theorem State.bufferEffect_eq (s : State) (core : Nat) (e : MEntry) (c : Core) :
    ∃ l, s.bufferEffect core e c = { s.setCore core c with eccDue := l } := by
  unfold State.bufferEffect
  dsimp only
  split
  · exact State.noteUnit_eq ..
  · exact ⟨_, rfl⟩

theorem State.mend_of_hard {s : State} {core : Nat} (h : (s.coreAt core).soft = []) (reads : List (Nat × Nat × Nat)) :
    s.mend core reads = s := by
  unfold State.mend
  simp [h]

/-- A core with the head of its queue taken away. -/
def Core.popped (c : Core) : Core := { c with mq := c.mq.drop 1 }

theorem State.popCmd_eq (s : State) (core : Nat) : s.popCmd core = s.setCore core (s.coreAt core).popped := rfl

@[simp] theorem State.coreAt_popCmd (s : State) (core : Nat) : (s.popCmd core).coreAt core = (s.coreAt core).popped :=
  State.coreAt_setCore_same ..

theorem State.setCore_popCmd (s : State) (core : Nat) (d : Core) : (s.popCmd core).setCore core d = s.setCore core d := by
  simp [State.popCmd_eq, State.setCore]

section
variable {s : State} {core : Nat} {e : MEntry} (hs : (s.coreAt core).soft = [])
include hs

theorem State.mend_popCmd (reads : List (Nat × Nat × Nat)) : (s.popCmd core).mend core reads = s.popCmd core :=
  State.mend_of_hard (by rw [State.coreAt_popCmd]; exact hs) reads

theorem State.commandEffect_mres {n : Nat} {r : Rec} (h : e.cmd = .mres n (some r)) : s.commandEffect core e =
    s.setCore core { (s.coreAt core).popped with recs := (s.coreAt core).recs.ins n r } := by
  unfold State.commandEffect
  rw [State.mend_popCmd hs, h]
  dsimp only
  rw [State.coreAt_popCmd, State.setCore_popCmd]
  rfl

theorem State.commandEffect_mresRel {n : Nat} (h : e.cmd = .mres n none) : s.commandEffect core e =
    s.setCore core { (s.coreAt core).popped with recs := (s.coreAt core).recs.del n } := by
  unfold State.commandEffect
  rw [State.mend_popCmd hs, h]
  dsimp only
  rw [State.coreAt_popCmd, State.setCore_popCmd]
  rfl

theorem State.commandEffect_mwld {src dst rows : Nat} (h : e.cmd = .mwld src dst rows) :
    ∃ l, s.commandEffect core e = { s.setCore core ((s.coreAt core).popped.doWld src dst rows) with eccDue := l } := by
  unfold State.commandEffect
  rw [State.mend_popCmd hs, h]
  dsimp only
  rw [State.coreAt_popCmd]
  obtain ⟨l, hl⟩ := (s.popCmd core).bufferEffect_eq core e ((s.coreAt core).popped.doWld src dst rows)
  exact ⟨l, by rw [hl, State.setCore_popCmd]⟩

theorem State.commandEffect_mzero {acc : Nat} (h : e.cmd = .mzero acc) : s.commandEffect core e =
    s.setCore core { (s.coreAt core).popped with
      acc := FMap.put zeroTile (s.coreAt core).acc acc zeroTile
      accPoison := (s.coreAt core).accPoison.filter fun p => decide (p / 256 ≠ acc) } := by
  unfold State.commandEffect
  rw [State.mend_popCmd hs, h]
  dsimp only
  rw [State.coreAt_popCmd, State.setCore_popCmd]
  rfl

theorem State.commandEffect_mxq {ra rb : Rec} {oa ob k : Nat} (h : e.cmd = .mxq ra rb oa ob k) :
    ∃ l, s.commandEffect core e = { s.setCore core ((s.coreAt core).popped.doXq ra rb oa ob k) with eccDue := l } := by
  unfold State.commandEffect
  rw [State.mend_popCmd hs, h]
  dsimp only
  rw [State.coreAt_popCmd]
  obtain ⟨l, hl⟩ := (s.popCmd core).bufferEffect_eq core e ((s.coreAt core).popped.doXq ra rb oa ob k)
  exact ⟨l, by rw [hl, State.setCore_popCmd]⟩

theorem State.commandEffect_restore {acc : FMap (List Word)} {bad : List Nat} (h : e.cmd = .restore acc bad) :
    s.commandEffect core e = s.setCore core { (s.coreAt core).popped with acc := acc, accPoison := bad } := by
  unfold State.commandEffect
  rw [State.mend_popCmd hs, h]
  dsimp only
  rw [State.coreAt_popCmd, State.setCore_popCmd]

theorem State.commandEffect_close (h : e.cmd = .close) : s.commandEffect core e =
    s.setCore core { (s.coreAt core).popped with
      batches := (s.coreAt core).batches.map fun b => if b.tok = e.tok then { b with effected := true } else b } := by
  unfold State.commandEffect
  rw [State.mend_popCmd hs, h]
  dsimp only
  rw [State.coreAt_popCmd, State.setCore_popCmd]
  rfl

theorem State.commandEffect_mdrn {acc : Nat} {dst : DrainDst} {cvt : Nat} {add sr sat : Bool} {tok : Nat}
    (h : e.cmd = .mdrn acc dst cvt add sr sat tok) :
    s.commandEffect core e = (s.popCmd core).doDrain core e acc dst cvt add sr sat tok := by
  unfold State.commandEffect
  rw [State.mend_popCmd hs, h]

end

def Core.withQueue (q : List MEntry) (c : Core) : Core := { c with mq := q }

/-- What mxq makes of the buffer asks for nothing of the queue. -/
theorem Core.doXq_withQueue (c : Core) (q : List MEntry) (ra rb : Rec) (oa ob k : Nat) :
    (c.withQueue q).doXq ra rb oa ob k = (c.doXq ra rb oa ob k).withQueue q := by
  unfold Core.doXq
  exact List.foldl_hom (Core.withQueue q) fun d j => rfl

/-! ## The event -/

section
variable {s : State} {core : Nat} (h : s.msg = .matrixCommandEffect core)
include h

theorem exec_matrixCommandEffect_nil (hq : (s.coreAt core).mq = []) : exec .matrixCommandEffect s = .next s := by
  show execMatrixCommandEffect s = _
  refine event_eq ?_
  simp only [h, hq]

theorem exec_matrixCommandEffect_mma {e : MEntry} {rest : List MEntry} (hq : (s.coreAt core).mq = e :: rest)
    {acc : Nat} {ra rb : Rec} {oa ob n da db : Nat} {clr : Bool} (he : e.cmd = .mma acc ra rb oa ob n da db clr) :
    exec .matrixCommandEffect s = .next s := by
  show execMatrixCommandEffect s = _
  refine event_eq ?_
  simp only [h, hq, he]

theorem exec_matrixCommandEffect {e : MEntry} {rest : List MEntry} (hq : (s.coreAt core).mq = e :: rest)
    (he : ∀ acc ra rb oa ob n da db clr, e.cmd ≠ .mma acc ra rb oa ob n da db clr) :
    exec .matrixCommandEffect s = .next (s.commandEffect core e) := by
  show execMatrixCommandEffect s = _
  refine event_eq ?_
  simp only [h, hq]

end

/-- The command at the head of the queue is gone, and its effect is so. -/
def State.afterCommand (s : State) (core : Nat) (rest : List MEntry) (p : State → Core → Prop) : Prop :=
  ∃ t, exec .matrixCommandEffect s = .next t ∧ (t.coreAt core).mq = rest ∧ p t (t.coreAt core)

section
variable {s : State} {core : Nat} {e : MEntry} {rest : List MEntry} (h : s.msg = .matrixCommandEffect core)
  (hq : (s.coreAt core).mq = e :: rest) (hs : (s.coreAt core).soft = [])
include hq

theorem popped_mq : (s.coreAt core).popped.mq = rest := by rw [Core.popped, hq]; rfl

include h

theorem afterCommand_intro (he : ∀ acc ra rb oa ob n da db clr, e.cmd ≠ .mma acc ra rb oa ob n da db clr) {t : State} {d : Core}
    {l : List EccDue} (ht : s.commandEffect core e = t) (form : t = { s.setCore core d with eccDue := l }) (hd : d.mq = rest)
    {p : State → Core → Prop} (hp : t.mem = s.mem → p t d) : s.afterCommand core rest p := by
  have same : t.coreAt core = d := by rw [form]; exact State.coreAt_setCore_same s core d
  refine ⟨t, by rw [exec_matrixCommandEffect h hq he, ht], by rw [same, hd], ?_⟩
  rw [same]
  exact hp (by rw [form]; rfl)

end

end Sys2Proof.Machine
end

section
/-! A drain of plain values (R188 to R190): the accumulators hold no error and no random bits are drawn. -/
namespace Sys2Proof.Machine

/-- Element k of a drain. -/
def Core.drained (c : Core) (acc cvt : Nat) (sat : Bool) (k : Nat) : Nat :=
  drainValue cvt false sat ((FMap.get zeroTile c.acc acc).getD k 0) 0

theorem State.frozen_of_noMig {s : State} (h : ∀ p, s.migOf p = none) (ka : Nat) : s.frozen ka = false := by
  simp only [State.frozen, h]

/-- With no error and no draw a drain is left with its destination alone. -/
theorem State.doDrain_plain {s : State} {core : Nat} (e : MEntry) (acc cvt : Nat) (sat : Bool) (tok : Nat) (dst : DrainDst)
    (add : Bool) (t : State)
    (form : (∀ k, ((List.range 256).map fun _ => 0).getD k 0 = 0) → ((List.range 256).any fun _ => false) = false →
      s.doDrain core e acc dst cvt add false sat tok = t) : s.doDrain core e acc dst cvt add false sat tok = t :=
  form (fun k => by rw [List.getD_eq_getElem?_getD, List.getElem?_map]; cases (List.range 256)[k]? <;> rfl)
    (List.any_eq_false.2 fun _ _ => Bool.false_ne_true)

section
variable {s : State} {core : Nat} (e : MEntry) (acc cvt : Nat) (sat : Bool) (tok : Nat) (h : (s.coreAt core).accPoison = [])
include h

theorem State.doDrain_tile (j : Nat) (live : (s.grpOf e.agent).unit = e.unit) :
    s.doDrain core e acc (.tile j) cvt false false sat tok =
      let g := s.grpOf e.agent
      s.setGrpOf e.agent { g with
        outs := g.outs.map fun o => if o.tok = tok then
          { o with vals := some ((List.range 256).map fun k => BitVec.ofNat 32 ((s.coreAt core).drained acc cvt sat k)) } else o
        poison := g.poison.filter fun p => decide (p ≠ 256 + j) } := by
  refine State.doDrain_plain e acc cvt sat tok _ _ _ fun noDraw noBad => ?_
  unfold State.doDrain
  simp only [h, List.not_mem_nil, decide_false, Bool.false_and, Bool.false_eq_true, if_false, noDraw, noBad, live, decide_true, if_true,
    State.deliver, State.updGroup, State.grpOf_setGrpOf_same, State.setGrpOf_setGrpOf]
  rfl

theorem State.doDrain_opb (rc : Rec) (off col : Nat) (add : Bool) : s.doDrain core e acc (.opb rc off col) cvt add false sat tok =
    s.setCore core ((List.range 16).foldl (fun c i => c.putBuf 0 (256 * (rc.row0 + rc.lineRow off i) + 16 * col * rc.width / 8)
      (((List.range 16).map fun j => 16 * i + j).flatMap fun k => bytesOf (rc.width / 8) ((s.coreAt core).drained acc cvt sat k))
      fun _ => false) (s.coreAt core)) := by
  refine State.doDrain_plain e acc cvt sat tok _ _ _ fun noDraw noBad => ?_
  unfold State.doDrain
  simp only [h, List.not_mem_nil, decide_false, Bool.false_and, Bool.false_eq_true, if_false, noDraw, noBad]
  rfl

theorem State.doDrain_mem (free : ∀ p, s.migOf p = none) (as : List Nat) (vas : List (Nat × Nat)) :
    s.doDrain core e acc (.mem as vas) cvt false false sat tok = as.zipIdx.foldl (fun t p =>
      (t.served p.1 (cvtBytes cvt)).writeAt e.agent core p.1 (cvtBytes cvt) ((s.coreAt core).drained acc cvt sat p.2) vas[p.2]?) s := by
  refine State.doDrain_plain e acc cvt sat tok _ _ _ fun noDraw noBad => ?_
  unfold State.doDrain
  have hot : as.zipIdx.partition (fun p => s.frozen p.1) = ([], as.zipIdx) := by
    rw [List.partition_eq_filter_filter]
    simp [State.frozen_of_noMig free]
  simp only [h, List.not_mem_nil, decide_false, Bool.false_and, Bool.false_eq_true, if_false, noDraw, noBad, hot, if_true]
  rfl

/-- One home's part of an add-on-store as its drain hands it over. -/
def Core.drainPart (c : Core) (core : Nat) (e : MEntry) (acc cvt : Nat) (sat : Bool) (tok : Nat) (as : List Nat)
    (vas : List (Nat × Nat)) (home : Nat) : AddOn :=
  let mine := as.zipIdx.filter fun p => decide (homeOf p.1 = home)
  { agent := e.agent, unit := e.unit, core := core, batch := e.batch, cvt := cvt, sr := false, sat := sat, tile := none
    elems := mine.map fun p => (p.1, (FMap.get zeroTile c.acc acc).getD p.2 0, 0#32, false)
    vas := mine.filterMap fun p => vas[p.2]?, tok := tok, gen := e.gen }

theorem State.doDrain_add (as : List Nat) (vas : List (Nat × Nat)) :
    s.doDrain core e acc (.mem as vas) cvt true false sat tok = s.setCore core { s.coreAt core with
      addons := (s.coreAt core).addons ++
        (as.map homeOf).eraseDups.map ((s.coreAt core).drainPart core e acc cvt sat tok as vas) } := by
  refine State.doDrain_plain e acc cvt sat tok _ _ _ fun noDraw noBad => ?_
  unfold State.doDrain
  simp only [h, List.not_mem_nil, decide_false, Bool.false_and, Bool.false_eq_true, if_false, noDraw, noBad, if_true]
  rfl

end

/-! ## Into the operand buffer -/

theorem getD_bytesOf (n v b : Nat) (h : b < n) : (bytesOf n v).getD b 0 = BitVec.ofNat 8 (v / 256 ^ b) := by
  induction n generalizing v b with
  | zero => omega
  | succ n ih =>
    cases b with
    | zero =>
      rw [bytesOf, List.getD_cons_zero, pow_zero, Nat.div_one]
      exact BitVec.eq_of_toNat_eq (by simp)
    | succ b => rw [bytesOf, List.getD_cons_succ, ih _ _ (by omega), Nat.div_div_eq_div_mul, pow_succ']

theorem length_flatMap_const {α β : Type} (f : α → List β) (m : Nat) (hf : ∀ x, (f x).length = m) (l : List α) :
    (l.flatMap f).length = l.length * m := by
  rw [List.length_flatMap, List.map_congr_left (fun x _ => hf x)]
  simp

theorem getD_flatMap_const {α β : Type} (f : α → List β) (m : Nat) (hf : ∀ x, (f x).length = m) (d : β) {b : Nat} (hb : b < m)
    (l : List α) (j : Nat) (x : α) (hj : l[j]? = some x) : (l.flatMap f).getD (j * m + b) d = (f x).getD b d := by
  induction l generalizing j with
  | nil => simp at hj
  | cons y l ih =>
    rw [List.flatMap_cons]
    cases j with
    | zero =>
      obtain rfl : y = x := by simpa using hj
      rw [Nat.zero_mul, Nat.zero_add, List.getD_append _ _ _ _ (by rw [hf]; exact hb)]
    | succ j =>
      rw [List.getD_append_right _ _ _ _ (by rw [hf, Nat.succ_mul]; omega), hf,
        show (j + 1) * m + b - m = j * m + b by rw [Nat.succ_mul]; omega]
      exact ih j (by simpa using hj)

theorem Rec.lineRow_inj (r : Rec) (o : Nat) {i j : Nat} (h : r.lineRow o i = r.lineRow o j) : i = j := by
  unfold Rec.lineRow at h
  split at h <;> omega

/-- The 16 rows of a drain into the operand buffer. -/
theorem Core.drainRows (c : Core) (rc : Rec) (off col : Nat) (r : Nat → Nat) (fits : (16 * col + 16) * (rc.width / 8) ≤ 256)
    (whole : 8 ≤ rc.width) :
    let d := (List.range 16).foldl (fun c i => c.putBuf 0 (256 * (rc.row0 + rc.lineRow off i) + 16 * col * rc.width / 8)
      (((List.range 16).map fun j => 16 * i + j).flatMap fun k => bytesOf (rc.width / 8) (r k)) fun _ => false) c
    d.mq = c.mq ∧ ∀ i < 16, ∀ j < 16, ∀ b < rc.width / 8,
      FMap.get 0 d.opb (256 * (rc.row0 + rc.lineRow off i) + (16 * col + j) * (rc.width / 8) + b) =
        BitVec.ofNat 8 (r (16 * i + j) / 256 ^ b) := by
  have bytes : rc.width / 8 = 1 ∧ rc.width = 8 ∨ rc.width / 8 = 2 ∧ rc.width = 16 := by
    revert whole
    unfold Rec.width
    split
    · simp
    · split <;> simp
  have start : 16 * col * rc.width / 8 = 16 * col * (rc.width / 8) := by
    rcases bytes with ⟨-, hw⟩ | ⟨-, hw⟩ <;> rw [hw] <;> omega
  simp only [start]
  clear start
  generalize rc.width / 8 = m at *
  have length (i : Nat) : (((List.range 16).map fun j => 16 * i + j).flatMap fun k => bytesOf m (r k)).length = 16 * m := by
    rw [length_flatMap_const _ m fun k => length_bytesOf m (r k)]
    simp
  obtain ⟨mq, written, -⟩ := foldl_writes
    (fun (c : Core) i => c.putBuf 0 (256 * (rc.row0 + rc.lineRow off i) + 16 * col * m)
      (((List.range 16).map fun j => 16 * i + j).flatMap fun k => bytesOf m (r k)) fun _ => false)
    (fun d b => FMap.get 0 d.opb b) (fun d => d.mq = c.mq)
    (fun i b => 256 * (rc.row0 + rc.lineRow off i) + 16 * col * m ≤ b ∧
      b < 256 * (rc.row0 + rc.lineRow off i) + 16 * col * m + 16 * m)
    (fun i b => (((List.range 16).map fun j => 16 * i + j).flatMap fun k => bytesOf m (r k)).getD
      (b - (256 * (rc.row0 + rc.lineRow off i) + 16 * col * m)) 0)
    (fun _ => False) (c := c) rfl (List.range 16) (fun _ _ _ _ h => h)
    (List.nodup_range.imp fun hne b h1 h2 => hne (rc.lineRow_inj off (by
      rcases bytes with ⟨rfl, -⟩ | ⟨rfl, -⟩ <;> omega)))
    fun d i _ hd _ => ⟨(Core.putBuf_mq ..).trans hd, fun b hb => by rw [Core.putBuf_opb, length, if_pos hb],
      fun b hb => by rw [Core.putBuf_opb, length, if_neg hb]⟩
  refine ⟨mq, fun i hi j hj b hb => ?_⟩
  have inside : j * m + b < 16 * m := by rcases bytes with ⟨rfl, -⟩ | ⟨rfl, -⟩ <;> omega
  have place : 256 * (rc.row0 + rc.lineRow off i) + (16 * col + j) * m + b =
      256 * (rc.row0 + rc.lineRow off i) + 16 * col * m + (j * m + b) := by ring
  rw [place, written i (List.mem_range.2 hi) _ ⟨by omega, by omega⟩, Nat.add_sub_cancel_left,
    getD_flatMap_const _ m (fun k => length_bytesOf m (r k)) 0 hb _ j (16 * i + j) (by
      rw [List.getElem?_map, List.getElem?_range hj]; rfl), getD_bytesOf _ _ _ hb]

end Sys2Proof.Machine
end

section
/-! Values written one after another at places of SRAM that lie apart (R189, R190). -/
namespace Sys2Proof.Machine

/-! ## What a home leaves beside its memory -/

/-- The devices, the cores, the groups and the declarations of counted lines of state t are those of s. -/
structure State.Beside (s t : State) : Prop where
  devs : t.devs = s.devs
  cores : t.cores = s.cores
  groups : t.groups = s.groups
  decls : t.decls = s.decls

theorem State.Beside.refl (s : State) : s.Beside s := ⟨rfl, rfl, rfl, rfl⟩

theorem State.Beside.trans {s t u : State} (h : s.Beside t) (h' : t.Beside u) : s.Beside u :=
  ⟨h'.devs.trans h.devs, h'.cores.trans h.cores, h'.groups.trans h.groups, h'.decls.trans h.decls⟩

theorem State.Beside.migOf {s t : State} (h : s.Beside t) (p : Nat) : t.migOf p = s.migOf p := State.migOf_of_devs h.devs p

theorem State.coreAt_of_cores {s t : State} (h : t.cores = s.cores) (c : Nat) : t.coreAt c = s.coreAt c := by
  unfold State.coreAt; rw [h]

theorem State.Beside.coreAt {s t : State} (h : s.Beside t) (c : Nat) : t.coreAt c = s.coreAt c := State.coreAt_of_cores h.cores c

theorem State.Beside.grpOf {s t : State} (h : s.Beside t) (a : Nat) : t.grpOf a = s.grpOf a := by
  unfold State.grpOf; rw [h.groups]

theorem State.findErrors_beside (s : State) (a n : Nat) : s.Beside (s.findErrors a n) := by
  unfold State.findErrors
  split <;> exact ⟨rfl, rfl, rfl, rfl⟩

theorem State.crcDone_beside (s : State) (a n : Nat) : s.Beside (s.crcDone a n) := by
  unfold State.crcDone
  split <;> exact ⟨rfl, rfl, rfl, rfl⟩

theorem State.stored_beside (s : State) (a n : Nat) : s.Beside (s.stored a n) := by
  rw [State.stored_eq]
  exact ⟨rfl, rfl, rfl, rfl⟩

theorem State.rawN_beside (s : State) (a n v : Nat) : s.Beside (s.rawN a n v) := by
  rw [State.rawN_eq]
  exact ⟨rfl, rfl, rfl, rfl⟩

theorem State.noteUnit_beside (s : State) (u a : Nat) : s.Beside (s.noteUnit u a) := by
  obtain ⟨l, hl⟩ := s.noteUnit_eq u a
  rw [hl]
  exact ⟨rfl, rfl, rfl, rfl⟩

theorem State.noteUnit_mem (s : State) (u a : Nat) : (s.noteUnit u a).mem = s.mem := by
  obtain ⟨l, hl⟩ := s.noteUnit_eq u a
  rw [hl]

/-! ## One value -/

/-- The bytes of a value stored at a place. -/
theorem State.rdByte_rawN (s : State) (a n v q : Nat) :
    (s.rawN a n v).rdByte q = if a ≤ q ∧ q < a + n then (bytesOf n v).getD (q - a) 0 else s.rdByte q := by
  have spelt (s : State) (a v : Nat) : s.rawN a n v = s.rawBytes a (bytesOf n v) := by
    induction n generalizing s a v with
    | zero => rfl
    | succ n ih => exact ih _ _ _
  rw [spelt, State.rdByte_rawBytes, length_bytesOf]

theorem kplace_low {a : Nat} (low : a < 2 ^ 33) : kplace a = a := Nat.mod_eq_of_lt (by rw [pow2_eq]; omega)

section
variable {s : State} (free : ∀ p, s.migOf p = none) {a : Nat} (low : a < 2 ^ 33)
include free low

theorem State.served_low (n : Nat) : s.served a n = s.findErrors a n := by
  have place : kplace a = a := kplace_low low
  unfold State.served
  rw [State.route_of_noMig free]
  dsimp only
  rw [place, State.touch, isHbm_of_low (low.trans (by norm_num))]
  simp only [Bool.false_eq_true, if_false]
  rw [State.accessKey_of_low _ (by rw [place]; exact low.trans (by norm_num))]

theorem State.writeAt_low (agent core n v : Nat) (va : Option (Nat × Nat)) :
    s.Beside (s.writeAt agent core a n v va) ∧ ∀ q, (s.writeAt agent core a n v va).rdByte q =
      if a ≤ q ∧ q < a + n then (bytesOf n v).getD (q - a) 0 else s.rdByte q := by
  have place : kplace a = a := kplace_low low
  rw [State.writeAt_eq free (State.accessKey_of_low s (by rw [place]; exact low.trans (by norm_num))), place,
    State.rekey_of_low s (low.trans (by norm_num))]
  obtain ⟨w, past, written, -⟩ := State.newWrite_eq free agent core a n a va
  constructor
  · refine State.Beside.trans ?_ (State.stored_beside ..)
    refine State.Beside.trans ?_ (State.rawN_beside ..)
    rw [written]
    exact ⟨rfl, rfl, rfl, rfl⟩
  · intro q
    rw [State.rdByte_of_mem (State.stored_mem ..), State.rdByte_rawN, State.rdByte_of_mem (State.newWrite_mem ..)]

end

/-! ## Values at places that lie apart -/

/-- No two of some places of n bytes meet. -/
def placesApart (n : Nat) (as : List Nat) : Prop := as.Pairwise fun a b => a + n ≤ b ∨ b + n ≤ a

/-- A fold that writes, for each item, a value of n bytes at the item's place; the value may ask what stands there. -/
theorem State.foldl_values {ι : Type} (f : State → ι → State) (place : ι → Nat) (value : Nat → ι → Nat) (n : Nat) {s : State}
    (l : List ι) (apart : placesApart n (l.map place))
    (step : ∀ t, ∀ i ∈ l, s.Beside t → s.Beside (f t i) ∧ ∀ q, (f t i).rdByte q =
      if place i ≤ q ∧ q < place i + n then (bytesOf n (value (t.rdN (place i) n) i)).getD (q - place i) 0 else t.rdByte q) :
    s.Beside (l.foldl f s) ∧ (∀ i ∈ l, (l.foldl f s).rdN (place i) n = value (s.rdN (place i) n) i % 256 ^ n) ∧
      s.onlyAt (l.foldl f s) (l.map fun i => (place i, n)) := by
  have own (t : State) (i : ι) (hi : i ∈ l) (ht : s.Beside t)
      (same : ∀ q, False ∨ (place i ≤ q ∧ q < place i + n) → t.rdByte q = s.rdByte q) :
      s.Beside (f t i) ∧ (∀ q, place i ≤ q ∧ q < place i + n →
        (f t i).rdByte q = (bytesOf n (value (s.rdN (place i) n) i)).getD (q - place i) 0) ∧
      ∀ q, ¬(place i ≤ q ∧ q < place i + n) → (f t i).rdByte q = t.rdByte q := by
    obtain ⟨beside, byte⟩ := step t i hi ht
    have stands : t.rdN (place i) n = s.rdN (place i) n := by
      rw [State.rdN_eq_sum, State.rdN_eq_sum]
      refine congrArg List.sum (List.map_congr_left fun k hk => ?_)
      have := List.mem_range.1 hk
      rw [same _ (.inr ⟨by omega, by omega⟩)]
    exact ⟨beside, fun q hq => by rw [byte, if_pos hq, stands], fun q hq => by rw [byte, if_neg hq]⟩
  obtain ⟨beside, written, kept⟩ := foldl_writes f (fun t q => t.rdByte q) (fun t => s.Beside t) _ _ (fun _ => False) (c := s)
    (State.Beside.refl s) l (fun _ _ _ _ h => h) ((List.pairwise_map.1 apart).imp fun h q h1 h2 => by omega) own
  refine ⟨beside, fun i hi => ?_, fun q hq => kept q fun i hi hw => ?_⟩
  · have bytes := State.rdBytes_eq (s := l.foldl f s) (a := place i) (bs := bytesOf n (value (s.rdN (place i) n) i)) fun k hk => by
      rw [length_bytesOf] at hk
      rw [written i hi _ ⟨by omega, by omega⟩, Nat.add_sub_cancel_left]
    rw [length_bytesOf] at bytes
    rw [State.rdN_eq_ofBytes, bytes, ofBytes_bytesOf]
  · have := hq (place i, n) (List.mem_map_of_mem hi)
    omega

end Sys2Proof.Machine
end

section
/-! The commands' effects, as the head of the queue is taken away (R173, R183, R184, R189, R190, R193, R194). -/
namespace Sys2Proof.Machine

/-- A tile of zeros put in an accumulator's place. -/
theorem get_put_zeroTile (m : FMap (List Word)) (acc : Nat) :
    (∀ k, (FMap.get zeroTile (FMap.put zeroTile m acc zeroTile) acc).getD k 0 = 0) ∧
    ∀ a, a ≠ acc → FMap.get zeroTile (FMap.put zeroTile m acc zeroTile) a = FMap.get zeroTile m a := by
  refine ⟨fun k => ?_, fun a ha => FMap.get_put_other _ _ _ _ ha⟩
  rw [FMap.get_put_same, zeroTile, List.getD_eq_getElem?_getD, List.getElem?_replicate]
  split <;> rfl

section
variable {s : State} {core : Nat} {e : MEntry} {rest : List MEntry} (h : s.msg = .matrixCommandEffect core)
  (hq : (s.coreAt core).mq = e :: rest) (hs : (s.coreAt core).soft = [])
include h hq hs

/-! ## Commands on the core's own stores -/

theorem after_mres {n : Nat} {r : Rec} (he : e.cmd = .mres n (some r)) : s.afterCommand core rest fun t d => t.mem = s.mem ∧
    ∀ m, d.recs.find m = if m = n then some r else (s.coreAt core).recs.find m :=
  afterCommand_intro h hq (by simp [he]) (State.commandEffect_mres hs he) rfl (popped_mq hq)
    fun mem => ⟨mem, fun m => FMap.find_ins n m r _⟩

theorem after_mresRel {n : Nat} (he : e.cmd = .mres n none) : s.afterCommand core rest fun t d => t.mem = s.mem ∧
    ∀ m, d.recs.find m = if m = n then none else (s.coreAt core).recs.find m :=
  afterCommand_intro h hq (by simp [he]) (State.commandEffect_mresRel hs he) rfl (popped_mq hq)
    fun mem => ⟨mem, fun m => FMap.find_del n m _⟩

theorem after_mwld {src dst rows : Nat} (he : e.cmd = .mwld src dst rows) : s.afterCommand core rest fun t d =>
    t.mem = s.mem ∧ d.opb = (s.coreAt core).opb ∧ ∀ b, FMap.get 0 d.wb b =
      if 256 * dst ≤ b ∧ b < 256 * (dst + rows) then FMap.get 0 (s.coreAt core).opb (256 * src + (b - 256 * dst))
      else FMap.get 0 (s.coreAt core).wb b := by
  obtain ⟨l, form⟩ := State.commandEffect_mwld hs he
  obtain ⟨mq, opb, wb⟩ := (s.coreAt core).popped.doWld_spec src dst rows
  exact afterCommand_intro h hq (by simp [he]) form rfl (mq.trans (popped_mq hq)) fun mem => ⟨mem, opb, wb⟩

theorem after_mzero {acc : Nat} (he : e.cmd = .mzero acc) : s.afterCommand core rest fun t d => t.mem = s.mem ∧
    (∀ k, (FMap.get zeroTile d.acc acc).getD k 0 = 0) ∧
    ∀ a, a ≠ acc → FMap.get zeroTile d.acc a = FMap.get zeroTile (s.coreAt core).acc a := by
  have zero := get_put_zeroTile (s.coreAt core).acc acc
  generalize effect : FMap.put zeroTile (s.coreAt core).acc acc zeroTile = m at zero
  have form := State.commandEffect_mzero hs he
  rw [effect] at form
  exact afterCommand_intro h hq (by simp [he]) form rfl (popped_mq hq) fun mem => ⟨mem, zero⟩

theorem after_mxq {ra rb : Rec} {oa ob k : Nat} (he : e.cmd = .mxq ra rb oa ob k) : s.afterCommand core rest fun t d =>
    t.mem = s.mem ∧ d.opb = ((s.coreAt core).doXq ra rb oa ob k).opb := by
  obtain ⟨l, form⟩ := State.commandEffect_mxq hs he
  have queue : (s.coreAt core).popped.doXq ra rb oa ob k = ((s.coreAt core).doXq ra rb oa ob k).withQueue rest := by
    rw [show (s.coreAt core).popped = (s.coreAt core).withQueue rest by rw [Core.popped, hq]; rfl, Core.doXq_withQueue]
  exact afterCommand_intro h hq (by simp [he]) form rfl (by rw [queue]; rfl) fun mem => ⟨mem, by rw [queue]; rfl⟩

theorem after_restore {acc : FMap (List Word)} {bad : List Nat} (he : e.cmd = .restore acc bad) :
    s.afterCommand core rest fun t d => t.mem = s.mem ∧ d.acc = acc ∧ d.accPoison = bad :=
  afterCommand_intro h hq (by simp [he]) (State.commandEffect_restore hs he) rfl (popped_mq hq) fun mem => ⟨mem, rfl, rfl⟩

theorem after_close (he : e.cmd = .close) : s.afterCommand core rest fun t d => t.mem = s.mem ∧
    d.batches = (s.coreAt core).batches.map fun b => if b.tok = e.tok then { b with effected := true } else b :=
  afterCommand_intro h hq (by simp [he]) (State.commandEffect_close hs he) rfl (popped_mq hq) fun mem => ⟨mem, rfl⟩

/-! ## Drains -/

variable {acc cvt tok : Nat} {sat : Bool} (hp : (s.coreAt core).accPoison = [])
include hp

omit h hq hs in
theorem popped_accPoison : ((s.popCmd core).coreAt core).accPoison = [] := by rw [State.coreAt_popCmd]; exact hp

theorem after_mdrn_tile {j : Nat} (he : e.cmd = .mdrn acc (.tile j) cvt false false sat tok)
    (live : (s.grpOf e.agent).unit = e.unit) : s.afterCommand core rest fun t d => t.mem = s.mem ∧ d.acc = (s.coreAt core).acc ∧
      (t.grpOf e.agent).outs = (s.grpOf e.agent).outs.map fun o => if o.tok = tok then
        { o with vals := some ((List.range 256).map fun k => BitVec.ofNat 32 ((s.coreAt core).drained acc cvt sat k)) } else o := by
  have effect := (State.commandEffect_mdrn hs he).trans
    (State.doDrain_tile (s := s.popCmd core) e acc cvt sat tok (popped_accPoison hp) j live)
  rw [State.coreAt_popCmd] at effect
  refine ⟨_, exec_matrixCommandEffect h hq (by simp [he]), ?_⟩
  rw [effect]
  have core_eq (g : Group) : ((s.popCmd core).setGrpOf e.agent g).coreAt core = (s.coreAt core).popped := State.coreAt_popCmd s core
  dsimp only
  rw [core_eq, State.grpOf_setGrpOf_same]
  exact ⟨popped_mq hq, rfl, rfl, rfl⟩

theorem after_mdrn_opb {rc : Rec} {off col : Nat} {add : Bool} (he : e.cmd = .mdrn acc (.opb rc off col) cvt add false sat tok)
    (fits : (16 * col + 16) * (rc.width / 8) ≤ 256) (whole : 8 ≤ rc.width) : s.afterCommand core rest fun t d => t.mem = s.mem ∧
      ∀ i < 16, ∀ j < 16, ∀ b < rc.width / 8,
        FMap.get 0 d.opb (256 * (rc.row0 + rc.lineRow off i) + (16 * col + j) * (rc.width / 8) + b) =
          BitVec.ofNat 8 ((s.coreAt core).drained acc cvt sat (16 * i + j) / 256 ^ b) := by
  have effect := (State.commandEffect_mdrn hs he).trans
    (State.doDrain_opb (s := s.popCmd core) e acc cvt sat tok (popped_accPoison hp) rc off col add)
  rw [State.coreAt_popCmd, State.setCore_popCmd] at effect
  obtain ⟨mq, bytes⟩ := (s.coreAt core).popped.drainRows rc off col ((s.coreAt core).popped.drained acc cvt sat) fits whole
  exact afterCommand_intro h hq (by simp [he]) effect rfl (mq.trans (popped_mq hq)) fun mem => ⟨mem, bytes⟩

omit h hq hs hp in
theorem placesApart_of_getD {n : Nat} {as : List Nat}
    (apart : ∀ i < as.length, ∀ j < as.length, i ≠ j → as.getD i 0 + n ≤ as.getD j 0 ∨ as.getD j 0 + n ≤ as.getD i 0) :
    placesApart n as := List.pairwise_iff_getElem.2 fun i j hi hj hij => by
  have := apart i hi j hj hij.ne
  rwa [List.getD_eq_getElem _ _ hi, List.getD_eq_getElem _ _ hj] at this

theorem after_mdrn_mem {as : List Nat} {vas : List (Nat × Nat)} (he : e.cmd = .mdrn acc (.mem as vas) cvt false false sat tok)
    (free : ∀ p, s.migOf p = none) (low : ∀ a ∈ as, a + 4 ≤ 2 ^ 33) (apart : placesApart (cvtBytes cvt) as) :
    s.afterCommand core rest fun t _ =>
      (∀ k < as.length, t.rdN (as.getD k 0) (cvtBytes cvt) = (s.coreAt core).drained acc cvt sat k % 256 ^ cvtBytes cvt) ∧
      s.onlyAt t (as.map fun a => (a, cvtBytes cvt)) := by
  have places : as.zipIdx.map Prod.fst = as := List.zipIdx_map_fst ..
  have effect := (State.commandEffect_mdrn hs he).trans
    (State.doDrain_mem (s := s.popCmd core) e acc cvt sat tok (popped_accPoison hp) free as vas)
  obtain ⟨beside, written, kept⟩ := State.foldl_values (s := s.popCmd core) (fun t (p : Nat × Nat) =>
      (t.served p.1 (cvtBytes cvt)).writeAt e.agent core p.1 (cvtBytes cvt)
        (((s.popCmd core).coreAt core).drained acc cvt sat p.2) vas[p.2]?)
    Prod.fst (fun _ p => ((s.popCmd core).coreAt core).drained acc cvt sat p.2) (cvtBytes cvt) as.zipIdx (by rw [places]; exact apart)
    fun t p hp ht => by
      have low := (Nat.le_add_right _ 3).trans_lt (low p.1 (List.fst_mem_of_mem_zipIdx hp))
      have noMig (q : Nat) : t.migOf q = none := (ht.migOf q).trans (free q)
      have found := t.findErrors_beside p.1 (cvtBytes cvt)
      obtain ⟨beside, byte⟩ := State.writeAt_low (s := t.findErrors p.1 (cvtBytes cvt)) (fun q => (found.migOf q).trans (noMig q)) low
        e.agent core (cvtBytes cvt) (((s.popCmd core).coreAt core).drained acc cvt sat p.2) vas[p.2]?
      rw [State.served_low noMig low]
      exact ⟨(ht.trans found).trans beside, fun q => by rw [byte, State.rdByte_of_mem (State.findErrors_mem ..)]⟩
  rw [← effect] at beside written kept
  refine ⟨_, exec_matrixCommandEffect h hq (by simp [he]), ?_, fun k hk => ?_, ?_⟩
  · rw [beside.coreAt, State.coreAt_popCmd]
    exact popped_mq hq
  · rw [State.coreAt_popCmd] at written
    exact written (as.getD k 0, k) (List.mk_mem_zipIdx_iff_getElem?.2 (by rw [List.getD_eq_getElem _ _ hk, List.getElem?_eq_getElem hk]))
  · rw [← List.zipIdx_map_fst 0 as, List.map_map]
    exact kept

theorem after_mdrn_add {as : List Nat} {vas : List (Nat × Nat)} (he : e.cmd = .mdrn acc (.mem as vas) cvt true false sat tok) :
    s.afterCommand core rest fun t d => t.mem = s.mem ∧ ∃ parts : List AddOn, d.addons = (s.coreAt core).addons ++ parts ∧
      (∀ o ∈ parts, o.tile = none ∧ o.cvt = cvt ∧ o.tok = tok ∧ ∀ p ∈ o.elems, ∀ q ∈ o.elems, homeOf p.1 = homeOf q.1) ∧
      ∀ k < as.length, ∃ o ∈ parts,
        (as.getD k 0, (FMap.get zeroTile (s.coreAt core).acc acc).getD k 0, 0#32, false) ∈ o.elems := by
  have effect := (State.commandEffect_mdrn hs he).trans
    (State.doDrain_add (s := s.popCmd core) e acc cvt sat tok (popped_accPoison hp) as vas)
  rw [State.coreAt_popCmd, State.setCore_popCmd] at effect
  refine afterCommand_intro h hq (by simp [he]) effect rfl (popped_mq hq) fun mem => ⟨mem, _, rfl, fun o ho => ?_, fun k hk => ?_⟩
  · obtain ⟨home, -, rfl⟩ := List.mem_map.1 ho
    have lies (p : Nat × Word × Word × Bool) (hp : p ∈ ((s.coreAt core).popped.drainPart core e acc cvt sat tok as vas home).elems) :
        homeOf p.1 = home := by
      obtain ⟨q, hq, rfl⟩ := List.mem_map.1 hp
      exact of_decide_eq_true (List.mem_filter.1 hq).2
    exact ⟨rfl, rfl, rfl, fun p hp q hq => (lies p hp).trans (lies q hq).symm⟩
  · have listed : as.getD k 0 ∈ as := by rw [List.getD_eq_getElem _ _ hk]; exact List.getElem_mem hk
    refine ⟨_, List.mem_map_of_mem (List.mem_eraseDups.2 (List.mem_map_of_mem listed)), ?_⟩
    refine List.mem_map.2 ⟨(as.getD k 0, k), List.mem_filter.2 ⟨?_, by simp⟩, rfl⟩
    exact List.mk_mem_zipIdx_iff_getElem?.2 (by rw [List.getD_eq_getElem _ _ hk, List.getElem?_eq_getElem hk])

end

end Sys2Proof.Machine
end

section
/-! One K-step of an mma (R125 to R127, R185). -/
namespace Sys2Proof.Machine

theorem foldl_add_map {α : Type} (f : α → Int) (l : List α) (z : Int) : l.foldl (fun s x => s + f x) z = z + (l.map f).sum := by
  induction l generalizing z with
  | nil => simp
  | cons x l ih => rw [List.foldl_cons, ih, List.map_cons, List.sum_cons, add_assoc]

/-- Element k of an accumulator after a K-step. -/
def Core.stepped (c : Core) (ra rb : Rec) (a b : Nat) (old : Word) (k : Nat) : Word :=
  if ra.isInt then
    old + BitVec.ofInt 32 ((List.range ra.depth).map fun m => c.factorInt ra a (k / 16) m * c.factorInt rb b (k % 16) m).sum
  else BitVec.ofNat 32 (fp32.addRne old.toNat (windowSum ((List.range ra.depth).map fun m =>
    product (c.factor ra a (k / 16) m) (c.factor rb b (k % 16) m))))

theorem Core.stepSum_eq (c : Core) (ra rb : Rec) (a b : Nat) (acc : List Word) :
    c.stepSum ra rb a b acc = (List.range 256).map fun k => c.stepped ra rb a b (acc.getD k 0) k := by
  have row {α : Type} (f : Nat → Nat → α) (i : Nat) (hi : i < 16) :
      ((List.range 16).map fun i => (List.range ra.depth).map (f i)).getD i [] = (List.range ra.depth).map (f i) :=
    getD_map_range 16 _ _ hi
  unfold Core.stepSum Core.stepped
  dsimp only
  split <;> refine List.map_congr_left fun k hk => ?_ <;> have hk := List.mem_range.1 hk <;>
    rw [row _ (k / 16) (by omega), row _ (k % 16) (by omega), List.zip_map']
  · rw [List.foldl_map, foldl_add_map, zero_add]
  · rw [List.map_map]
    rfl

/-! ## The state after it -/

theorem State.updGroup_beside (s : State) (agent unit : Nat) (f : Group → Group) :
    (s.updGroup agent unit f).mem = s.mem ∧ (s.updGroup agent unit f).cores = s.cores ∧
    ((s.grpOf agent).unit = unit → (s.updGroup agent unit f).grpOf agent = f (s.grpOf agent)) := by
  unfold State.updGroup
  split
  next h => exact ⟨rfl, rfl, fun _ => State.grpOf_setGrpOf_same ..⟩
  next h => exact ⟨rfl, rfl, fun hu => absurd hu h⟩

theorem State.noteUnit_unless (s : State) (p : Prop) [Decidable p] (u a : Nat) :
    s.Beside (if p then s else s.noteUnit u a) ∧ (if p then s else s.noteUnit u a).mem = s.mem := by
  split
  · exact ⟨State.Beside.refl s, rfl⟩
  · exact ⟨State.noteUnit_beside .., State.noteUnit_mem ..⟩

/-- The queue after a K-step: the mma is gone after its last. -/
def MEntry.advanced (e : MEntry) (n : Nat) (rest : List MEntry) : List MEntry :=
  if n ≤ e.step + 1 then rest else { e with step := e.step + 1 } :: rest

section
variable {s : State} {core : Nat} (h : s.msg = .mmaKStep core)
include h

theorem exec_mmaKStep_nil (hq : (s.coreAt core).mq = []) : exec .mmaKStep s = .next s := by
  show execMmaKStep s = _
  refine event_eq ?_
  simp only [h, hq]

theorem exec_mmaKStep {e : MEntry} {rest : List MEntry} {acc : Nat} {ra rb : Rec} {oa ob n da db : Nat} {clr : Bool}
    (hq : (s.coreAt core).mq = e :: rest) (he : e.cmd = .mma acc ra rb oa ob n da db clr) :
    exec .mmaKStep s = .next (s.kStep core e acc ra rb oa ob n da db clr) := by
  show execMmaKStep s = _
  refine event_eq ?_
  simp only [h, hq, he]

end

/-- What stands in an accumulator before a K-step, which the first step of an mma may take as zeros. -/
def Core.accBefore (c : Core) (acc : Nat) (first : Bool) : List Word := if first then zeroTile else FMap.get zeroTile c.acc acc

theorem State.kStep_spec {s : State} {core : Nat} {e : MEntry} {rest : List MEntry} (hq : (s.coreAt core).mq = e :: rest)
    (hs : (s.coreAt core).soft = []) (acc : Nat) (ra rb : Rec) (oa ob n da db : Nat) (clr : Bool) :
    let c := s.coreAt core
    let sums := c.stepSum ra rb (oa + e.step * da) (ob + e.step * db) (c.accBefore acc (clr && decide (e.step = 0)))
    let t := s.kStep core e acc ra rb oa ob n da db clr
    t.mem = s.mem ∧ (t.coreAt core).mq = e.advanced n rest ∧ (t.coreAt core).acc = FMap.put zeroTile c.acc acc sums ∧
      ((s.grpOf e.agent).unit = e.unit → t.grpOf e.agent =
        if (!ra.isInt && sums.any fun w => fp32.nonFinite w.toNat) = true then (s.grpOf e.agent).nonFinite e.batch
        else s.grpOf e.agent) := by
  intro c sums t
  have drop : c.mq.drop 1 = rest := by rw [hq]; rfl
  obtain ⟨bad, others, form⟩ : ∃ bad others : List Nat, t =
      let v := s.setCore core { c with acc := FMap.put zeroTile c.acc acc sums, accPoison := bad ++ others, mq := e.advanced n rest }
      let u := if bad = [] then v else v.noteUnit e.unit 0
      if (!ra.isInt && sums.any fun w => fp32.nonFinite w.toNat) = true then
        u.updGroup e.agent e.unit fun g => g.nonFinite e.batch else u := by
    simp only [t, State.kStep, State.mend_of_hard hs]
    rw [show (s.coreAt core).mq.drop 1 = rest from drop]
    exact ⟨_, _, rfl⟩
  dsimp only at form
  generalize hv : s.setCore core { c with acc := FMap.put zeroTile c.acc acc sums, accPoison := bad ++ others, mq := e.advanced n rest } = v at form
  obtain ⟨beside, mem⟩ := v.noteUnit_unless (bad = []) e.unit 0
  generalize (if bad = [] then v else v.noteUnit e.unit 0) = u at form beside mem
  rw [← hv] at beside mem
  have stands : u.coreAt core = { c with acc := FMap.put zeroTile c.acc acc sums, accPoison := bad ++ others, mq := e.advanced n rest } :=
    (beside.coreAt core).trans (State.coreAt_setCore_same ..)
  have group : u.grpOf e.agent = s.grpOf e.agent := beside.grpOf e.agent
  obtain ⟨mem', cores, changed⟩ := u.updGroup_beside e.agent e.unit fun g => g.nonFinite e.batch
  have same : t.coreAt core = u.coreAt core := by
    rw [form]
    split
    · exact State.coreAt_of_cores cores core
    · rfl
  refine ⟨?_, by rw [same, stands], by rw [same, stands], fun live => ?_⟩
  · rw [form]
    split
    · exact mem'.trans mem
    · exact mem
  · rw [form]
    split
    · rw [changed (by rw [group]; exact live), group]
    · exact group

/-- One K-step: the window sum, or the integer sum, of the factors' products is added to each element. -/
theorem mmaKStep_by_rule {s : State} {core : Nat} (h : s.msg = .mmaKStep core) {e : MEntry} {rest : List MEntry} {acc : Nat}
    {ra rb : Rec} {oa ob n da db : Nat} {clr : Bool} (hq : (s.coreAt core).mq = e :: rest)
    (he : e.cmd = .mma acc ra rb oa ob n da db clr) (hs : (s.coreAt core).soft = []) :
    let c := s.coreAt core
    let a := oa + e.step * da
    let b := ob + e.step * db
    let old (k : Nat) : Word := if clr = true ∧ e.step = 0 then 0 else (FMap.get zeroTile c.acc acc).getD k 0
    let new (k : Nat) : Word := c.stepped ra rb a b (old k) k
    ∃ t, exec .mmaKStep s = .next t ∧ t.mem = s.mem ∧
      (t.coreAt core).mq = (if n ≤ e.step + 1 then rest else { e with step := e.step + 1 } :: rest) ∧
      (∀ k < 256, (FMap.get zeroTile (t.coreAt core).acc acc).getD k 0 = new k) ∧
      (∀ x, x ≠ acc → FMap.get zeroTile (t.coreAt core).acc x = FMap.get zeroTile c.acc x) ∧
      ((s.grpOf e.agent).unit = e.unit → t.grpOf e.agent =
        if ra.isInt = false ∧ ((List.range 256).any fun k => fp32.nonFinite (new k).toNat) = true
        then (s.grpOf e.agent).nonFinite e.batch else s.grpOf e.agent) := by
  intro c a b old new
  have before (k : Nat) : (c.accBefore acc (clr && decide (e.step = 0))).getD k 0 = old k := by
    unfold Core.accBefore
    by_cases first : clr = true ∧ e.step = 0
    · rw [if_pos (by simpa using first), zeroTile, List.getD_eq_getElem?_getD, List.getElem?_replicate]
      simp only [old, if_pos first]
      split <;> rfl
    · rw [if_neg (by simpa using first)]
      simp only [old, if_neg first]
  obtain ⟨mem, mq, acc_eq, group⟩ := State.kStep_spec hq hs acc ra rb oa ob n da db clr
  have sums : c.stepSum ra rb a b (c.accBefore acc (clr && decide (e.step = 0))) = (List.range 256).map new := by
    rw [Core.stepSum_eq]
    exact List.map_congr_left fun k _ => by rw [before]
  rw [sums] at acc_eq group
  refine ⟨_, exec_mmaKStep h hq he, mem, mq, fun k hk => ?_, fun x hx => ?_, fun live => ?_⟩
  · rw [acc_eq, FMap.get_put_same, getD_map_range 256 _ _ hk]
  · rw [acc_eq, FMap.get_put_other _ _ _ _ hx]
  · rw [group live, List.any_map]
    simp only [Bool.and_eq_true, Bool.not_eq_true', Function.comp_def]

end Sys2Proof.Machine
end

section
/-! Add-on-stores at their homes, and the end of a batch (R121, R176, R190). -/
namespace Sys2Proof.Machine

/-! ## One element in memory -/

theorem State.publish_beside (s : State) (views : Nat → Bool) (which : VisW → Bool) : s.Beside (s.publish views which) :=
  ⟨rfl, rfl, rfl, rfl⟩

theorem State.homeAt_low {s : State} (free : ∀ p, s.migOf p = none) {a n : Nat} (low : a + n ≤ 2 ^ 33) (h : a < 2 ^ 33) :
    s.homeAt a n = s.rdN a n := by
  have place := kplace_low h
  unfold State.homeAt
  rw [State.route_of_noMig free]
  dsimp only
  rw [place, State.accessKey_of_low s (by rw [place]; omega)]
  exact State.plainN_of_low (by omega)

/-- What stands below HBM at the destination is replaced by what the add-on-store makes of it. -/
theorem State.addOnElem_low {s : State} (free : ∀ p, s.migOf p = none) (o : AddOn) {n : Nat} (e : Nat × Word × Word × Bool)
    (low : e.1 < 2 ^ 33) (fits : e.1 + n ≤ 2 ^ 33) (va : Option (Nat × Nat)) :
    s.Beside (s.addOnElem o n e va) ∧ ∀ q, (s.addOnElem o n e va).rdByte q =
      if e.1 ≤ q ∧ q < e.1 + n then
        (bytesOf n (addOnValue o.cvt o.sr o.sat (s.rdN e.1 n) e.2.1 e.2.2.1.toNat)).getD (q - e.1) 0 else s.rdByte q := by
  have found : s.Beside ((s.served e.1 n).badHome e.1 n).2 := by
    rw [State.served_low free low]
    exact (s.findErrors_beside e.1 n).trans ((State.findErrors_beside ..).trans (State.crcDone_beside ..))
  have mem : ((s.served e.1 n).badHome e.1 n).2.mem = s.mem := by rw [State.badHome_mem, State.served_mem]
  unfold State.addOnElem
  generalize (s.served e.1 n).badHome e.1 n = p at found mem
  obtain ⟨bad, t⟩ := p
  dsimp only at found mem ⊢
  have noMig (q : Nat) : t.migOf q = none := (found.migOf q).trans (free q)
  rw [State.homeAt_low noMig fits low, State.rdN_of_mem mem]
  have seen := t.publish_beside (fun v => decide (v = dieOfCore o.core)) fun w => w.meets (kplace (t.route e.1)) n
  obtain ⟨wrote, byte⟩ := State.writeAt_low (s := t.witness (dieOfCore o.core) (kplace (t.route e.1)) n)
    (fun q => (seen.migOf q).trans (noMig q)) low o.agent o.core n (addOnValue o.cvt o.sr o.sat (s.rdN e.1 n) e.2.1 e.2.2.1.toNat) va
  generalize (t.witness (dieOfCore o.core) (kplace (t.route e.1)) n).writeAt o.agent o.core e.1 n
    (addOnValue o.cvt o.sr o.sat (s.rdN e.1 n) e.2.1 e.2.2.1.toNat) va = u at wrote byte
  have marked : u.Beside (if e.2.2.2 || bad then u.poisonAt (kplace (u.route e.1)) n else u) ∧
      (if e.2.2.2 || bad then u.poisonAt (kplace (u.route e.1)) n else u).mem = u.mem := by
    split <;> exact ⟨⟨rfl, rfl, rfl, rfl⟩, rfl⟩
  generalize (if e.2.2.2 || bad then u.poisonAt (kplace (u.route e.1)) n else u) = v at marked
  have noted : v.Beside (if bad then v.noteUnit o.unit 0 else v) ∧ (if bad then v.noteUnit o.unit 0 else v).mem = v.mem := by
    split
    · exact ⟨State.noteUnit_beside .., State.noteUnit_mem ..⟩
    · exact ⟨State.Beside.refl v, rfl⟩
  refine ⟨found.trans (seen.trans (wrote.trans (marked.1.trans noted.1))), fun q => ?_⟩
  rw [State.rdByte_of_mem noted.2, State.rdByte_of_mem marked.2, byte]
  exact if_congr Iff.rfl rfl (State.rdByte_of_mem mem q)

theorem State.contribute_of_noDecl {s : State} (h : s.decls = []) (places : List Nat) : s.contribute places = s := by
  unfold State.contribute
  rw [h]
  rfl

/-! ## The event -/

section
variable {s : State} {k : Nat} (h : s.msg = .addOnStoreUpdate k)
include h

theorem exec_addOnStoreUpdate_none (hk : (s.cores.flatMap fun p => p.2.addons)[k]? = none) :
    exec .addOnStoreUpdate s = .next s := by
  show execAddOnStoreUpdate s = _
  refine event_eq ?_
  simp only [h, hk]

variable {o : AddOn} (hk : (s.cores.flatMap fun p => p.2.addons)[k]? = some o)
include hk

/-- State t is s with an add-on-store taken from its core. -/
def State.tookAddOn (s t : State) (o : AddOn) : Prop := (t.coreAt o.core).addons = (s.coreAt o.core).addons.erase o

theorem addOnStoreUpdate_tile {j : Nat} (ht : o.tile = some j) (live : (s.grpOf o.agent).unit = o.unit) :
    ∃ t, exec .addOnStoreUpdate s = .next t ∧ s.tookAddOn t o ∧ t.mem = s.mem ∧
      (t.grpOf o.agent).outs = (s.grpOf o.agent).outs.map fun p => if p.tok = o.tok then
        { p with vals := some (o.elems.map fun e => BitVec.ofNat 32
          (addOnValue o.cvt o.sr o.sat ((s.grpOf o.agent).tAt j e.1).toNat e.2.1 e.2.2.1.toNat)) } else p := by
  let u := s.setCore o.core { s.coreAt o.core with addons := (s.coreAt o.core).addons.erase o }
  let v := u.deliver o.agent o.unit o.tok (o.elems.map fun e =>
    BitVec.ofNat 32 (addOnValue o.cvt o.sr o.sat ((s.grpOf o.agent).tAt j e.1).toNat e.2.1 e.2.2.1.toNat))
  let spoil (g : Group) : Group := { g with poison := (256 + j) :: g.poison.filter fun p => decide (p ≠ 256 + j) }
  have step : exec .addOnStoreUpdate s =
      .next (if o.elems.any (fun e => e.2.2.2) then v.updGroup o.agent o.unit spoil else v) := by
    show execAddOnStoreUpdate s = _
    refine event_eq ?_
    simp only [h, hk, ht]
    rfl
  obtain ⟨mem₁, cores₁, group₁⟩ : v.mem = u.mem ∧ v.cores = u.cores ∧ _ := u.updGroup_beside o.agent o.unit _
  obtain ⟨mem₂, cores₂, group₂⟩ := v.updGroup_beside o.agent o.unit spoil
  have outs := congrArg Group.outs (group₁ live)
  have sameUnit : (v.grpOf o.agent).unit = o.unit := (congrArg Group.unit (group₁ live)).trans live
  have taken : (u.coreAt o.core).addons = (s.coreAt o.core).addons.erase o := congrArg Core.addons (State.coreAt_setCore_same ..)
  have core₁ : v.coreAt o.core = u.coreAt o.core := State.coreAt_of_cores cores₁ o.core
  refine ⟨_, step, ?_⟩
  unfold State.tookAddOn
  split
  · have core₂ : (v.updGroup o.agent o.unit spoil).coreAt o.core = v.coreAt o.core := State.coreAt_of_cores cores₂ o.core
    exact ⟨by rw [core₂, core₁, taken], mem₂.trans mem₁, (congrArg Group.outs (group₂ sameUnit)).trans outs⟩
  · exact ⟨by rw [core₁, taken], mem₁, outs⟩

theorem addOnStoreUpdate_frozen (ht : o.tile = none) (hf : ∃ e ∈ o.elems, s.frozen e.1 = true) :
    exec .addOnStoreUpdate s = .next s := by
  show execAddOnStoreUpdate s = _
  refine event_eq ?_
  simp only [h, hk, ht]
  exact if_pos (List.any_eq_true.2 hf)

theorem addOnStoreUpdate_mem (ht : o.tile = none) (free : ∀ p, s.migOf p = none) (none : s.decls = [])
    (low : ∀ e ∈ o.elems, e.1 + 4 ≤ 2 ^ 33) (apart : placesApart (cvtBytes o.cvt) (o.elems.map Prod.fst)) :
    ∃ t, exec .addOnStoreUpdate s = .next t ∧ s.tookAddOn t o ∧
      (∀ e ∈ o.elems, t.rdN e.1 (cvtBytes o.cvt) =
        addOnValue o.cvt o.sr o.sat (s.rdN e.1 (cvtBytes o.cvt)) e.2.1 e.2.2.1.toNat % 256 ^ cvtBytes o.cvt) ∧
      s.onlyAt t (o.elems.map fun e => (e.1, cvtBytes o.cvt)) := by
  let u := s.setCore o.core { s.coreAt o.core with addons := (s.coreAt o.core).addons.erase o }
  let n := cvtBytes o.cvt
  have small : n ≤ 4 := by unfold n cvtBytes; split <;> (try split) <;> omega
  have places : o.elems.zipIdx.map (fun p => p.1.1) = o.elems.map Prod.fst := by
    rw [show (fun p : (Nat × Word × Word × Bool) × Nat => p.1.1) = Prod.fst ∘ Prod.fst from rfl, ← List.map_map, List.zipIdx_map_fst]
  obtain ⟨beside, written, kept⟩ := State.foldl_values (s := u) (fun s p => s.addOnElem o n p.1 o.vas[p.2]?) (fun p => p.1.1)
    (fun old p => addOnValue o.cvt o.sr o.sat old p.1.2.1 p.1.2.2.1.toNat) n o.elems.zipIdx (by rw [places]; exact apart)
    fun t p hp ht => by
      have room := low p.1 (List.fst_mem_of_mem_zipIdx hp)
      obtain ⟨beside, byte⟩ := State.addOnElem_low (fun q => (ht.migOf q).trans (free q)) o (n := n) p.1 (by omega) (by omega) o.vas[p.2]?
      exact ⟨ht.trans beside, byte⟩
  let v := o.elems.zipIdx.foldl (fun s p => s.addOnElem o n p.1 o.vas[p.2]?) u
  have step : exec .addOnStoreUpdate s = .next v := by
    show execAddOnStoreUpdate s = _
    refine event_eq ?_
    simp only [h, hk, ht]
    rw [if_neg (by simp [State.frozen_of_noMig free])]
    exact congrArg some (State.contribute_of_noDecl (beside.decls.trans none) _)
  refine ⟨v, step, ?_, fun e he => ?_, ?_⟩
  · exact congrArg Core.addons ((beside.coreAt o.core).trans (State.coreAt_setCore_same ..))
  · obtain ⟨i, hi⟩ := List.mem_iff_getElem?.1 he
    rw [← State.rdN_of_mem (show u.mem = s.mem from rfl)]
    exact written (e, i) (List.mk_mem_zipIdx_iff_getElem?.2 hi)
  · rw [← List.zipIdx_map_fst 0 o.elems, List.map_map]
    exact kept

end

/-! ## Batches (R176) -/

/-- A group whose counter of outstanding operations has fallen by 1. -/
def Group.lowerCtr (cls : Nat) (g : Group) : Group := { g with ctr := FMap.put 0 g.ctr cls (FMap.get 0 g.ctr cls - 1) }

/-- What the completion of a batch makes of a group: its flags alone change, by its batch's entry. -/
theorem Group.showNf_spec (g : Group) (batch : Nat) (free : Bool) :
    (g.showNf batch free).ctr = g.ctr ∧
    (g.nf.find? (fun p => decide (p.1 = batch)) = none → (g.showNf batch free).fflags = g.fflags) ∧
    (g.nf.find? (fun p => decide (p.1 = batch)) = some (batch, false) → (g.showNf batch free).fflags = g.fflags ||| fNF) := by
  unfold Group.showNf
  refine ⟨?_, fun h => by rw [h], fun h => by rw [h]; rfl⟩
  dsimp only
  split <;> (try split) <;> rfl

section
variable {s : State} {core slot : Nat} (h : s.msg = .matrixBatchComplete core slot)
include h

theorem exec_matrixBatchComplete_none (hb : (s.coreAt core).batches.find? (fun b => decide (slotOf b.agent = slot)) = none) :
    exec .matrixBatchComplete s = .next s := by
  show execMatrixBatchComplete s = _
  refine event_eq ?_
  simp only [h, hb]

variable {b : Batch} (hb : (s.coreAt core).batches.find? (fun b => decide (slotOf b.agent = slot)) = some b)
include hb

theorem exec_matrixBatchComplete_open (he : b.effected = false) : exec .matrixBatchComplete s = .next s := by
  show execMatrixBatchComplete s = _
  refine event_eq ?_
  simp only [h, hb, State.batchDone, he, Bool.false_and, Bool.false_eq_true, if_false]

theorem matrixBatchComplete_done (he : b.effected = true) (ha : (s.coreAt core).addons = []) (ht : (s.coreAt core).tileDrains = [])
    (hs : s.stalled = []) (first : (s.coreAt core).batches.find? (fun d => decide (d.agent = b.agent)) = some b) :
    ∃ t, exec .matrixBatchComplete s = .next t ∧ t.mem = s.mem ∧
      (t.coreAt core).batches = (s.coreAt core).batches.erase b ∧ s.lowered t b.agent b.unit 2 ∧
      let g := s.grpOf b.agent
      let entry := g.nf.find? fun p => decide (p.1 = b.number)
      (g.unit = b.unit →
        (entry = none → (t.grpOf b.agent).fflags = g.fflags) ∧
        (entry = some (b.number, false) → (t.grpOf b.agent).fflags = g.fflags ||| fNF)) := by
  let u := s.setCore core { s.coreAt core with
    batches := (s.coreAt core).batches.erase b
    tileDrains := (s.coreAt core).tileDrains.filter fun d => decide (¬ (d.1 = b.agent ∧ d.2.1 = b.number)) }
  let v := u.updGroup b.agent b.unit (Group.lowerCtr 2)
  let show' (g : Group) : Group := g.showNf b.number ((Config.word s.count 40).getLsbD 0)
  have step : exec .matrixBatchComplete s = .next (v.updGroup b.agent b.unit show') := by
    have done : s.batchDone (s.coreAt core) b = true := by
      simp [State.batchDone, he, ha, ht, hs, first]
    show execMatrixBatchComplete s = _
    refine event_eq ?_
    simp only [h, hb, done, if_true]
    rfl
  obtain ⟨mem₁, cores₁, group₁⟩ := u.updGroup_beside b.agent b.unit (Group.lowerCtr 2)
  obtain ⟨mem₂, cores₂, group₂⟩ := v.updGroup_beside b.agent b.unit show'
  have shown (live : (s.grpOf b.agent).unit = b.unit) : (v.updGroup b.agent b.unit show').grpOf b.agent = show' (v.grpOf b.agent) :=
    group₂ ((congrArg Group.unit (group₁ live)).trans live)
  refine ⟨_, step, mem₂.trans mem₁, ?_, fun live => ?_, fun live => ?_⟩
  · rw [State.coreAt_of_cores cores₂, State.coreAt_of_cores cores₁]
    exact congrArg Core.batches (State.coreAt_setCore_same ..)
  · rw [shown live, (Group.showNf_spec ..).1, show v.grpOf b.agent = (s.grpOf b.agent).lowerCtr 2 from group₁ live]
    exact FMap.get_put_same ..
  · obtain ⟨-, silent, shows⟩ := (v.grpOf b.agent).showNf_spec b.number ((Config.word s.count 40).getLsbD 0)
    have lowered : v.grpOf b.agent = (s.grpOf b.agent).lowerCtr 2 := group₁ live
    rw [lowered] at silent shows
    rw [shown live, lowered]
    exact ⟨silent, shows⟩

end

end Sys2Proof.Machine
end

section
/-! The matrix engine's events, together (R108, R109, R125, R127, R169 to R173, R176, R180, R183 to R185, R189, R190, R193, R194). -/
namespace Sys2Proof.Machine

theorem drainValue_by_rule (cvt : Nat) (sr sat : Bool) (v : Word) (r16 : Nat) :
    drainValue 0 sr sat v r16 = v.toNat ∧ drainValue 6 sr sat v r16 = v.toNat ∧
    drainValue 5 sr sat v r16 = (BitVec.ofInt 8 (max (-128) (min 127 v.toInt))).toNat ∧
    (1 ≤ cvt → cvt ≤ 4 → ∀ neg m e, fp32.value v.toNat = .fin neg m e → m ≠ 0 →
      ∃ n d : Nat, 0 < d ∧ (n : ℚ) / d = m * 2 ^ e ∧
        drainValue cvt sr sat v r16 = ((fmtOf cvt).roundTo (if sr then 6 else 1) sat neg n d false r16).1) :=
  ⟨rfl, rfl, drainValue_int8 sr sat v r16, fun h1 h4 _ _ _ hv _ => drainValue_fin h1 h4 sr sat r16 hv⟩

/-- Settles O46: each command, K-step, add-on-store and batch end by the lemma of its event. -/
theorem matrixEvents : Obligations.MatrixEvents := by
  unfold Obligations.MatrixEvents
  refine ⟨fun ps h => windowSum_fin h, windowSum_special, drainValue_by_rule, product_none, Core.factor_by_rule,
    blockScale_by_rule, Core.doXq_by_rule, fun s core h => ?_, fun s core h => ?_, fun s k h => ?_,
    fun sr sat old v r16 _ => addOnValue_by_rule sr sat old v r16,
    fun s core slot h => ?_⟩
  · refine ⟨exec_matrixCommandEffect_nil h, fun e rest hq hs =>
      ⟨fun acc ra rb oa ob n da db clr => exec_matrixCommandEffect_mma h hq, fun n r => after_mres h hq hs,
        fun n => after_mresRel h hq hs, fun src dst rows he _ => after_mwld h hq hs he, fun acc => after_mzero h hq hs,
        fun ra rb oa ob k => after_mxq h hq hs, fun acc bad => after_restore h hq hs, after_close h hq hs,
        fun acc dst cvt add sat tok he hp => ⟨?_, ?_, ?_⟩⟩⟩
    · rintro j rfl rfl live
      exact after_mdrn_tile h hq hs hp he live
    · rintro rc off col rfl fits whole
      exact after_mdrn_opb h hq hs hp he fits whole
    · rintro as vas rfl length free low
      constructor
      · rintro rfl apart
        have result := after_mdrn_mem h hq hs hp he free low (placesApart_of_getD (by rw [length]; exact apart))
        rw [length] at result
        exact result
      · rintro rfl
        have result := after_mdrn_add h hq hs hp he
        rw [length] at result
        exact result
  · exact ⟨exec_mmaKStep_nil h, fun e rest acc ra rb oa ob n da db clr hq he hs => mmaKStep_by_rule h hq he hs⟩
  · refine ⟨exec_addOnStoreUpdate_none h, fun o hk => ⟨fun j ht live => addOnStoreUpdate_tile h hk ht live,
      fun ht hf => addOnStoreUpdate_frozen h hk ht hf, fun ht free none low apart =>
        addOnStoreUpdate_mem h hk ht free none low ?_⟩⟩
    refine List.pairwise_map.2 (List.pairwise_iff_getElem.2 fun i j hi hj hij => ?_)
    exact apart i hi j hj hij.ne _ _ (List.getElem?_eq_getElem hi) (List.getElem?_eq_getElem hj)
  · exact ⟨exec_matrixBatchComplete_none h, fun b hb => ⟨exec_matrixBatchComplete_open h hb,
      fun he ha ht hs first => matrixBatchComplete_done h hb he ha ht hs first⟩⟩

end Sys2Proof.Machine
end

section
/-! The functions of R147 at special sources, and those that are exact or an integer root away from it. -/
namespace Sys2Proof.Machine

/-! ## A function by its table and its magnitude -/

section
variable {k : Nat} {a : FpNum} (ftz : Bool) (mode : Nat) (scl : Int) (r16 : Nat)

theorem funOp_spec {b : Nat} {fl : BitVec 5} (h : funVal k a = .spec b fl) :
    funOp k ftz mode false scl r16 a = deliverF32 ftz (b, fl) := by
  simp only [funOp, h, Bool.false_eq_true, if_false]

theorem funOp_mag {g : Mag} (h : funVal k a = .mag g) : funOp k ftz mode false scl r16 a =
    deliverF32 ftz (fp32.roundTo mode false g.neg (scaleQ g.n g.d scl).1 (scaleQ g.n g.d scl).2 g.sticky r16) := by
  simp only [funOp, h, Bool.false_eq_true, if_false]

/-- The magnitude of a source that the table leaves to the rule, unscaled. -/
theorem funOp_fin {neg : Bool} {m : Nat} {e : Int} (hm : 0 < m) (hneg : neg = true → k ≠ 1 ∧ k ≠ 2 ∧ k ≠ 4) :
    let g := funMag k neg m e
    funOp k ftz mode false 0 r16 (.fin neg m e) = deliverF32 ftz (fp32.roundTo mode false g.neg g.n g.d g.sticky r16) := by
  have value : funVal k (.fin neg m e) = .mag (funMag k neg m e) := by
    unfold funVal
    dsimp only
    rw [if_neg hm.ne', if_neg (by cases neg <;> simp_all)]
  rw [funOp_mag ftz mode 0 r16 value]
  simp only [scaleQ_zero]

end

/-! ## Special sources -/

theorem roundInt_one {mode r16 : Nat} (h1 : 1 ≤ mode) (h6 : mode ≤ 6) (h16 : r16 < 65536) (neg : Bool) (a : Nat) :
    roundInt mode neg a 1 false r16 = a := by
  have := roundInt_eq h1 h6 neg a one_pos r16
  rw [Nat.cast_one, div_one, show ((a : Nat) : ℚ) = ((a : ℤ) : ℚ) from (Int.cast_natCast a).symm, roundQ_int neg h16] at this
  exact_mod_cast this

theorem roundTo_one {mode r16 : Nat} (h1 : 1 ≤ mode) (h6 : mode ≤ 6) (h16 : r16 < 65536) :
    fp32.roundTo mode false false 1 1 false r16 = (0x3F800000, 0) := by
  have binade : max (log2Q 1 1) (1 - fp32.bias) = 0 := by decide
  have units : scaleQ 1 1 (fp32.mb - 0) = (8388608, 1) := by decide
  unfold Fmt.roundTo
  rw [if_neg (by decide)]
  dsimp only
  rw [binade, units]
  dsimp only
  rw [roundInt_one h1 h6 h16, if_neg (by decide)]
  decide

/-- The table of R147. -/
theorem funOp_special (ftz : Bool) (mode : Nat) (scl : Int) (r16 : Nat) (e : Int) (h1 : 1 ≤ mode) (h6 : mode ≤ 6)
    (h16 : r16 < 65536) :
    let f (k : Nat) (a : FpNum) : FRes := funOp k ftz mode false scl r16 a
    let inf (neg : Bool) : Nat := if neg then 0xFF800000 else 0x7F800000
    let zero (neg : Bool) : Nat := if neg then 0x80000000 else 0
    (∀ neg, f 0 (.fin neg 0 e) = (inf neg, fNF) ∧ f 1 (.fin neg 0 e) = (inf neg, fNF) ∧
      f 2 (.fin neg 0 e) = (zero neg, 0) ∧ f 4 (.fin neg 0 e) = (0xFF800000, fNF) ∧ f 5 (.fin neg 0 e) = (zero neg, 0) ∧
      (scl = 0 → f 3 (.fin neg 0 e) = (0x3F800000, 0) ∧ f 6 (.fin neg 0 e) = (0x3F800000, 0))) ∧
    (∀ neg, f 0 (.inf neg) = (zero neg, 0)) ∧ f 1 (.inf false) = (0, 0) ∧ f 2 (.inf false) = (0x7F800000, fNF) ∧
    f 3 (.inf false) = (0x7F800000, fNF) ∧ f 3 (.inf true) = (0, 0) ∧ f 4 (.inf false) = (0x7F800000, fNF) ∧
    (∀ k ∈ [1, 2, 4, 5, 6], f k (.inf true) = (0x7FC00000, fIV ||| fNF)) ∧
    (∀ k ∈ [5, 6], f k (.inf false) = (0x7FC00000, fIV ||| fNF)) ∧
    (∀ k ∈ [1, 2, 4], ∀ m, 0 < m → f k (.fin true m e) = (0x7FC00000, fIV ||| fNF)) ∧
    (∀ k < 7, ∀ sig, f k (.nan sig) = (0x7FC00000, (if sig then fIV else 0) ||| fNF)) := by
  have delivered : ∀ ftz neg sig,
      deliverF32 ftz (fp32.infBits neg, 0) = (if neg then 0xFF800000 else 0x7F800000, fNF) ∧
      deliverF32 ftz (fp32.signBit neg, 0) = (if neg then 0x80000000 else 0, 0) ∧
      deliverF32 ftz (fp32.canon, flag sig fIV) = (0x7FC00000, (if sig then fIV else 0) ||| fNF) ∧
      deliverF32 ftz (0x3F800000, 0) = (0x3F800000, 0) := by decide +kernel
  have inf (neg : Bool) := (delivered ftz neg false).1
  have zero (neg : Bool) := (delivered ftz neg false).2.1
  have nan (sig : Bool) := (delivered ftz false sig).2.2.1
  have one (k : Nat) (neg : Bool) (hk : funVal k (.fin neg 0 e) = .mag ⟨false, 1, 1, false⟩) (h0 : scl = 0) :
      funOp k ftz mode false scl r16 (.fin neg 0 e) = (0x3F800000, 0) := by
    rw [funOp_mag ftz mode scl r16 hk, h0]
    simp only [scaleQ_zero, roundTo_one h1 h6 h16]
    exact (delivered ftz neg false).2.2.2
  refine ⟨fun neg => ⟨(funOp_spec ftz mode scl r16 rfl).trans (inf neg), (funOp_spec ftz mode scl r16 rfl).trans (inf neg),
      (funOp_spec ftz mode scl r16 rfl).trans (zero neg), (funOp_spec ftz mode scl r16 rfl).trans (inf true),
      (funOp_spec ftz mode scl r16 rfl).trans (zero neg), fun h0 => ⟨one 3 neg rfl h0, one 6 neg rfl h0⟩⟩,
    fun neg => (funOp_spec ftz mode scl r16 rfl).trans (zero neg), (funOp_spec ftz mode scl r16 rfl).trans (zero false),
    (funOp_spec ftz mode scl r16 rfl).trans (inf false), (funOp_spec ftz mode scl r16 rfl).trans (inf false),
    (funOp_spec ftz mode scl r16 rfl).trans (zero false), (funOp_spec ftz mode scl r16 rfl).trans (inf false),
    fun k hk => ?_, fun k hk => ?_, fun k hk m hm => ?_, fun k hk sig => (funOp_spec ftz mode scl r16 rfl).trans (nan sig)⟩
  · simp only [List.mem_cons, List.not_mem_nil, or_false] at hk
    rcases hk with rfl | rfl | rfl | rfl | rfl <;> exact (funOp_spec ftz mode scl r16 rfl).trans (nan true)
  · simp only [List.mem_cons, List.not_mem_nil, or_false] at hk
    rcases hk with rfl | rfl <;> exact (funOp_spec ftz mode scl r16 rfl).trans (nan true)
  · have table : funVal k (.fin true m e) = .spec fp32.canon fIV := by
      simp only [List.mem_cons, List.not_mem_nil, or_false] at hk
      unfold funVal
      dsimp only
      rw [if_neg hm.ne', if_pos (by rcases hk with rfl | rfl | rfl <;> rfl)]
    exact (funOp_spec ftz mode scl r16 table).trans (nan true)

/-! ## The reciprocal -/

theorem scaleQ_pos {m : Nat} (hm : 0 < m) (e : Int) : 0 < (scaleQ m 1 e).1 ∧ 0 < (scaleQ m 1 e).2 ∧
    ((scaleQ m 1 e).1 : ℚ) / (scaleQ m 1 e).2 = m * 2 ^ e := by
  obtain ⟨pos, ratio⟩ := scaleQ_spec m one_pos e
  exact ⟨Nat.pos_of_ne_zero fun h => hm.ne' ((scaleQ_zero_iff m 1 e).1 h), pos, by simpa using ratio⟩

theorem frcp_by_rule (ftz : Bool) (mode : Nat) (scl : Int) (r16 : Nat) (e : Int) (neg : Bool) {m : Nat} (hm : 0 < m) :
    ∃ n d : Nat, 0 < n ∧ 0 < d ∧ (n : ℚ) / d = 2 ^ scl / ((m : ℚ) * 2 ^ e) ∧
      funOp 0 ftz mode false scl r16 (.fin neg m e) = deliverF32 ftz (fp32.roundTo mode false neg n d false r16) := by
  obtain ⟨hn, hd, ratio⟩ := scaleQ_pos hm e
  obtain ⟨pos, scaled⟩ := scaleQ_spec (scaleQ m 1 e).2 hn scl
  have value : funVal 0 (.fin neg m e) = .mag ⟨neg, (scaleQ m 1 e).2, (scaleQ m 1 e).1, false⟩ := by
    unfold funVal
    dsimp only
    rw [if_neg hm.ne', if_neg (by simp)]
    rfl
  refine ⟨_, _, Nat.pos_of_ne_zero fun h => hd.ne' ((scaleQ_zero_iff _ _ _).1 h), pos, ?_, funOp_mag ftz mode scl r16 value⟩
  rw [scaled, ← ratio, div_div_eq_mul_div]
  ring

/-! ## Roots -/

theorem isqrt_spec (x n r : Nat) (low : r * r ≤ x) (high : x < (r + 2 ^ n) * (r + 2 ^ n)) :
    isqrt x n r * isqrt x n r ≤ x ∧ x < (isqrt x n r + 1) * (isqrt x n r + 1) := by
  induction n generalizing r with
  | zero => exact ⟨low, high⟩
  | succ n ih =>
    rw [isqrt, Nat.one_shiftLeft]
    split
    next h => exact ih _ h (by rw [pow_succ] at high; convert high using 2 <;> omega)
    next h => exact ih _ low (not_le.1 h)

/-- The root of a quotient of naturals, in units of 2^-200. -/
def rootOf (a b : Nat) : Nat := isqrt ((a <<< 400) / b) 320 0

/-- The root of a quotient of naturals in units of 2^-200: its integer part, and whether it is that. -/
theorem root_near {a b u : Nat} (hu : u = 1 <<< 200) (hb : 0 < b) (fits : (a : ℚ) / b < 2 ^ 240) :
    let r := rootOf a b
    ((r : ℚ) / u) ^ 2 ≤ a / b ∧ (a : ℚ) / b < ((r + 1 : ℚ) / u) ^ 2 ∧
      ((!decide (r * r * b = a <<< 400)) = false ↔ ((r : ℚ) / u) ^ 2 = a / b) := by
  intro r
  have wide : a <<< 400 = a * (u * u) := by rw [Nat.shiftLeft_eq, hu, Nat.one_shiftLeft, ← pow_add]
  have upos : (0 : ℚ) < u := by rw [hu, Nat.one_shiftLeft]; positivity
  have hb' : (0 : ℚ) < b := by exact_mod_cast hb
  have bound : a <<< 400 / b < 2 ^ 640 := by
    rw [div_lt_iff₀ hb'] at fits
    have fits : a < 2 ^ 240 * b := by exact_mod_cast fits
    refine Nat.div_lt_of_lt_mul ?_
    calc a <<< 400 = a * 2 ^ 400 := Nat.shiftLeft_eq a 400
      _ < 2 ^ 240 * b * 2 ^ 400 := Nat.mul_lt_mul_of_pos_right fits (Nat.two_pow_pos _)
      _ = b * 2 ^ 640 := by rw [mul_comm (2 ^ 240), mul_assoc, ← pow_add]
  obtain ⟨low, high⟩ := isqrt_spec (a <<< 400 / b) 320 0 (Nat.zero_le _) (by rw [zero_add, ← pow_add]; exact bound)
  have low' : r * r * b ≤ a * (u * u) := by rw [← wide]; exact (Nat.le_div_iff_mul_le hb).1 low
  have high' : a * (u * u) < (r + 1) * (r + 1) * b := by rw [← wide]; exact (Nat.div_lt_iff_lt_mul hb).1 high
  have square (x : ℚ) : (x / u) ^ 2 = x * x / (u * u) := by rw [div_pow, sq, sq]
  have pos : (0 : ℚ) < u * u := mul_pos upos upos
  rw [wide]
  clear_value r
  refine ⟨?_, ?_, ?_⟩
  · rw [square, div_le_div_iff₀ pos hb']
    exact_mod_cast low'
  · rw [square, div_lt_div_iff₀ hb' pos]
    exact_mod_cast high'
  · rw [square, div_eq_div_iff pos.ne' hb'.ne', Bool.not_eq_false', decide_eq_true_iff]
    exact_mod_cast Iff.rfl

theorem two_zpow_neg_200 {u : Nat} (hu : u = 1 <<< 200) : (2 : ℚ) ^ (-200 : ℤ) = 1 / u := by
  rw [hu, Nat.one_shiftLeft, Nat.cast_pow, Nat.cast_ofNat, zpow_neg, one_div, ← zpow_natCast]
  rfl

theorem funMag_frsq (neg : Bool) (m : Nat) (e : Int) :
    let q := scaleQ m 1 e
    let r := rootOf q.2 q.1
    funMag 1 neg m e = ⟨false, r, 1 <<< 200, !(decide (r * r * q.1 = q.2 <<< 400))⟩ := rfl

theorem funMag_fsqrt (neg : Bool) (m : Nat) (e : Int) :
    let q := scaleQ m 1 e
    let r := rootOf q.1 q.2
    funMag 2 neg m e = ⟨false, r, 1 <<< 200, !(decide (r * r * q.2 = q.1 <<< 400))⟩ := rfl

section
variable (ftz : Bool) (mode r16 : Nat) {m : Nat} {e : Int} (hm : 0 < m) (hm' : m < 2 ^ 24) (lo : -149 ≤ e) (hi : e ≤ 104)
include hm hm' lo hi

/-- The sources of FP32 lie between 2^-149 and 2^128. -/
theorem source_bounds : (2 : ℚ) ^ (-149 : ℤ) ≤ m * 2 ^ e ∧ (m : ℚ) * 2 ^ e < 2 ^ 128 := by
  have one : (1 : ℚ) ≤ m := by exact_mod_cast hm
  have pos := two_zpow_pos e
  constructor
  · calc (2 : ℚ) ^ (-149 : ℤ) ≤ 2 ^ e := zpow_le_zpow_right₀ one_le_two lo
      _ ≤ m * 2 ^ e := le_mul_of_one_le_left pos.le one
  · calc (m : ℚ) * 2 ^ e < 2 ^ 24 * 2 ^ e := by gcongr; exact_mod_cast hm'
      _ ≤ 2 ^ 24 * 2 ^ (104 : ℤ) := by gcongr; norm_num
      _ = 2 ^ 128 := by norm_num

theorem frsq_by_rule : ∃ (n d : Nat) (sticky : Bool), 0 < d ∧
    let x : ℚ := 1 / ((m : ℚ) * 2 ^ e)
    ((n : ℚ) / d) ^ 2 ≤ x ∧ x < ((n + 1 : ℚ) / d) ^ 2 ∧ (2 : ℚ) ^ (-200 : ℤ) = 1 / d ∧
    (sticky = false ↔ ((n : ℚ) / d) ^ 2 = x) ∧
    funOp 1 ftz mode false 0 r16 (.fin false m e) = deliverF32 ftz (fp32.roundTo mode false false n d sticky r16) := by
  obtain ⟨hn, hd, ratio⟩ := scaleQ_pos hm e
  obtain ⟨low, -⟩ := source_bounds hm hm' lo hi
  obtain ⟨u, hu⟩ : ∃ u : Nat, u = 1 <<< 200 := ⟨_, rfl⟩
  have inverse : ((scaleQ m 1 e).2 : ℚ) / (scaleQ m 1 e).1 = 1 / (m * 2 ^ e) := by rw [← ratio, one_div_div]
  obtain ⟨below, above, exact_iff⟩ := root_near (a := (scaleQ m 1 e).2) hu hn (by
    rw [inverse]
    calc 1 / ((m : ℚ) * 2 ^ e) ≤ 1 / 2 ^ (-149 : ℤ) := one_div_le_one_div_of_le (by positivity) low
      _ < 2 ^ 240 := by norm_num)
  rw [inverse] at below above exact_iff
  refine ⟨_, u, _, by rw [hu, Nat.one_shiftLeft]; positivity, below, above, two_zpow_neg_200 hu, exact_iff, ?_⟩
  rw [hu]
  rw [funOp_fin ftz mode r16 hm (by simp), funMag_frsq]

theorem fsqrt_by_rule : ∃ (n d : Nat) (sticky : Bool), 0 < d ∧
    ((n : ℚ) / d) ^ 2 ≤ (m : ℚ) * 2 ^ e ∧ (m : ℚ) * 2 ^ e < ((n + 1 : ℚ) / d) ^ 2 ∧ (2 : ℚ) ^ (-200 : ℤ) = 1 / d ∧
    (sticky = false ↔ ((n : ℚ) / d) ^ 2 = (m : ℚ) * 2 ^ e) ∧
    funOp 2 ftz mode false 0 r16 (.fin false m e) = deliverF32 ftz (fp32.roundTo mode false false n d sticky r16) := by
  obtain ⟨hn, hd, ratio⟩ := scaleQ_pos hm e
  obtain ⟨u, hu⟩ : ∃ u : Nat, u = 1 <<< 200 := ⟨_, rfl⟩
  obtain ⟨-, high⟩ := source_bounds hm hm' lo hi
  obtain ⟨below, above, exact_iff⟩ := root_near (a := (scaleQ m 1 e).1) hu hd (by
    rw [ratio]
    exact high.trans (by norm_num))
  rw [ratio] at below above exact_iff
  refine ⟨_, u, _, by rw [hu, Nat.one_shiftLeft]; positivity, below, above, two_zpow_neg_200 hu, exact_iff, ?_⟩
  rw [hu]
  rw [funOp_fin ftz mode r16 hm (by simp), funMag_fsqrt]

end

end Sys2Proof.Machine
end

section
/-! Powers of two and their logarithms, and the conversions and functions that round a rational (R114, R115, R147, R148). -/
namespace Sys2Proof.Machine

/-! ## Exact results of FP32 -/

theorem topQ32_le : (2 : ℚ) ^ (127 : ℤ) ≤ fp32.topQ := by norm_num [Fmt.topQ, fp32]

section
variable (ftz : Bool) {mode r16 n d m : Nat} {e : Int} (h1 : 1 ≤ mode) (h6 : mode ≤ 6) (h16 : r16 < 65536) (neg : Bool)
  (hd : 0 < d) (ratio : (n : ℚ) / d = m * 2 ^ e) (hm : m < 2 ^ 24) (he : -149 ≤ e) (top : (m : ℚ) * 2 ^ e ≤ 2 ^ (127 : ℤ))
include h1 h6 h16 hd ratio hm he top

/-- A number of FP32 is rounded to itself, with no flag. -/
theorem round32_exact :
    let r := fp32.roundTo mode false neg n d false r16
    r.1 < 2 ^ 32 ∧ (fp32.value r.1).isFin = true ∧ (fp32.value r.1).isNeg = neg ∧
      (fp32.value r.1).real = signQ neg * (m * 2 ^ e) ∧ r.2 = 0 := by
  intro r
  obtain ⟨flags, m', e', value, real⟩ := Fmt.roundTo_exact (f := fp32) (by decide) h1 h6 h16 false neg hd ratio hm he
    (top.trans topQ32_le)
  have value' : fp32.value r.1 = .fin neg m' e' := value
  refine ⟨Fmt.roundTo_lt (f := fp32) (by decide) h1 h6 n hd false neg, by rw [value']; rfl, by rw [value']; rfl, ?_, flags⟩
  rw [value', FpNum.real_fin, mul_assoc, real]

/-- A normal number of FP32, or a zero, is delivered as it is. -/
theorem deliver_exact (large : m = 0 ∨ (2 : ℚ) ^ (-126 : ℤ) ≤ m * 2 ^ e) :
    let r := deliverF32 ftz (fp32.roundTo mode false neg n d false r16)
    (fp32.value r.1).real = signQ neg * (m * 2 ^ e) ∧ r.2 = 0 := by
  obtain ⟨lt, fin, -, real, flags⟩ := round32_exact h1 h6 h16 neg hd ratio hm he top
  generalize fp32.roundTo mode false neg n d false r16 = q at lt fin real flags
  have normal : ¬subnormal32 q.1 := by
    rintro ⟨-, nonzero, small⟩
    rw [real] at nonzero small
    rcases large with h0 | large
    · simp [h0] at nonzero
    · have pos : (0 : ℚ) < m * 2 ^ e := (two_zpow_pos _).trans_le large
      rw [abs_mul, abs_signQ, one_mul, abs_of_pos pos] at small
      exact absurd small (not_lt.2 large)
  have same : deliverF32 ftz q = q := by
    rw [show q = (q.1, q.2) from rfl, deliverF32_eq ftz lt, if_neg fun h => normal h.2, if_neg fun h => normal h.2, fin, flags]
    rfl
  intro r
  have hr : r = q := same
  rw [hr]
  exact ⟨real, flags⟩

end

/-! ## Powers of two and their logarithms -/

theorem scaleQ_one (k : Int) : scaleQ (scaleQ 1 1 k).1 (scaleQ 1 1 k).2 (-k) =
    ((scaleQ (scaleQ 1 1 k).1 (scaleQ 1 1 k).2 (-k)).1, (scaleQ (scaleQ 1 1 k).1 (scaleQ 1 1 k).2 (-k)).1) := by
  obtain ⟨-, pos, ratio⟩ := scaleQ_pos one_pos k
  obtain ⟨pos', ratio'⟩ := scaleQ_spec (scaleQ 1 1 k).1 pos (-k)
  rw [ratio, Nat.cast_one, one_mul, ← zpow_add₀ two_ne_zero, add_neg_cancel, zpow_zero,
    div_eq_one_iff_eq (by exact_mod_cast pos'.ne')] at ratio'
  exact Prod.ext rfl (by exact_mod_cast ratio'.symm)

theorem flg2_power {ftz : Bool} {mode r16 : Nat} {e : Int} (h1 : 1 ≤ mode) (h6 : mode ≤ 6) (h16 : r16 < 65536) (lo : -149 ≤ e)
    (hi : e ≤ 127) : (fp32.value (funOp 4 ftz mode false 0 r16 (.fin false 1 e)).1).real = e ∧
      (funOp 4 ftz mode false 0 r16 (.fin false 1 e)).2 = 0 := by
  obtain ⟨hn, hd, ratio⟩ := scaleQ_pos one_pos e
  have log : log2Q (scaleQ 1 1 e).1 (scaleQ 1 1 e).2 = e := by
    rw [log2Q_eq hn hd, ratio, Nat.cast_one, one_mul]
    exact Int.log_zpow one_lt_two e
  have mag : funMag 4 false 1 e = ⟨decide (e * ((1 <<< prec : Nat) : Int) < 0), (e * ((1 <<< prec : Nat) : Int)).natAbs, 1 <<< prec, false⟩ := by
    unfold funMag
    dsimp only
    rw [log, scaleQ_one e]
    simp only [if_true, add_zero, ne_eq, not_true_eq_false, decide_false]
  rw [funOp_fin ftz mode r16 one_pos (by simp), mag]
  have upos : 0 < 1 <<< prec := by rw [Nat.one_shiftLeft]; positivity
  generalize 1 <<< prec = u at upos
  have size : ((e * (u : Int)).natAbs : ℚ) = |(e : ℚ)| * u := by
    rw [Nat.cast_natAbs, Int.cast_abs, Int.cast_mul, abs_mul, Int.cast_natCast, Nat.abs_cast]
  have whole : ((e.natAbs : Nat) : ℚ) = |(e : ℚ)| := by rw [Nat.cast_natAbs, Int.cast_abs]
  have sign : e * (u : Int) < 0 ↔ e < 0 := by
    have : (0 : Int) < u := by exact_mod_cast upos
    rw [mul_neg_iff]
    omega
  have small : |(e : ℚ)| ≤ 149 := by exact_mod_cast (abs_le.2 ⟨lo, by omega⟩ : |e| ≤ 149)
  obtain ⟨real, flags⟩ := deliver_exact ftz h1 h6 h16 (decide (e * (u : Int) < 0)) upos (m := e.natAbs) (e := 0)
    (by rw [size, whole, zpow_zero, mul_one, mul_div_assoc, div_self (by exact_mod_cast upos.ne'), mul_one])
    (by omega) (by norm_num) (by rw [whole, zpow_zero, mul_one]; exact small.trans (by norm_num)) (by
      by_cases h0 : e = 0
      · exact .inl (by rw [h0]; rfl)
      · refine .inr ?_
        have one : (1 : ℚ) ≤ e.natAbs := by exact_mod_cast Int.natAbs_pos.2 h0
        rw [zpow_zero, mul_one]
        exact le_trans (by norm_num) one)
  refine ⟨real.trans ?_, flags⟩
  rw [whole, zpow_zero, mul_one, decide_eq_decide.2 sign]
  by_cases h : e < 0
  · rw [decide_eq_true h, abs_of_neg (Int.cast_lt_zero.2 h)]; simp
  · rw [decide_eq_false h, abs_of_nonneg (Int.cast_nonneg (not_lt.1 h))]; simp

/-! ## Powers of two with integer exponents -/

theorem funMag_fex2 (neg : Bool) (m : Nat) (e : Int) :
    let q := scaleQ m 1 e
    let w := q.1 / q.2
    let f := ((q.1 % q.2) <<< prec) / q.2
    funMag 3 neg m e =
      if w ≥ 1024 then (if neg then ⟨false, 1, 1 <<< 1000, false⟩ else ⟨false, 1 <<< 1000, 1, false⟩)
      else if q.1 % q.2 = 0 then (if neg then ⟨false, 1, 1 <<< w, false⟩ else ⟨false, 1 <<< w, 1, false⟩)
      else if neg then ⟨false, exp2Frac ((1 <<< prec) - f), 1 <<< (prec + w + 1), true⟩
      else ⟨false, exp2Frac f <<< w, 1 <<< prec, true⟩ := rfl

theorem funMag_fex2_whole (neg : Bool) {m : Nat} {e : Int} {w : Nat} (hw : w < 1024) (h : (scaleQ m 1 e).1 = w * (scaleQ m 1 e).2)
    (hd : 0 < (scaleQ m 1 e).2) : funMag 3 neg m e = if neg then ⟨false, 1, 1 <<< w, false⟩ else ⟨false, 1 <<< w, 1, false⟩ := by
  have quotient : (scaleQ m 1 e).1 / (scaleQ m 1 e).2 = w := by rw [h, Nat.mul_div_cancel _ hd]
  have rest : (scaleQ m 1 e).1 % (scaleQ m 1 e).2 = 0 := by rw [h, Nat.mul_mod_left]
  rw [funMag_fex2, quotient, rest, if_neg (by omega), if_pos rfl]

theorem fex2_whole (ftz : Bool) {mode r16 : Nat} (h1 : 1 ≤ mode) (h6 : mode ≤ 6) (h16 : r16 < 65536) {n : Nat} (hn : n ≤ 126) :
    let f (a : FpNum) : FRes := funOp 3 ftz mode false 0 r16 a
    (fp32.value (f (.fin false n 0)).1).real = 2 ^ n ∧ (f (.fin false n 0)).2 = 0 ∧
      (fp32.value (f (.fin true n 0)).1).real = 1 / 2 ^ n ∧ (f (.fin true n 0)).2 = 0 := by
  intro f
  have form (neg : Bool) : ∃ a d : Nat, 0 < d ∧ (a : ℚ) / d = (1 : Nat) * 2 ^ (if neg then -(n : ℤ) else n) ∧
      f (.fin neg n 0) = deliverF32 ftz (fp32.roundTo mode false false a d false r16) := by
    rcases Nat.eq_zero_or_pos n with rfl | pos
    · refine ⟨1, 1, one_pos, by simp, ?_⟩
      have table : funVal 3 (.fin neg 0 0) = .mag ⟨false, 1, 1, false⟩ := rfl
      simp only [f, funOp_mag ftz mode 0 r16 table, scaleQ_zero]
    · have mag := funMag_fex2_whole neg (m := n) (e := 0) (w := n) (by omega) (by simp [scaleQ_zero]) (by simp [scaleQ_zero])
      simp only [f, funOp_fin ftz mode r16 (k := 3) (e := 0) (neg := neg) pos (by simp), mag, Nat.one_shiftLeft]
      cases neg
      · exact ⟨2 ^ n, 1, one_pos, by simp, rfl⟩
      · exact ⟨1, 2 ^ n, by positivity, by simp, rfl⟩
  have result (neg : Bool) : (fp32.value (f (.fin neg n 0)).1).real = 2 ^ (if neg then -(n : ℤ) else n) ∧ (f (.fin neg n 0)).2 = 0 := by
    obtain ⟨a, d, hd, ratio, eq⟩ := form neg
    have range : -126 ≤ (if neg then -(n : ℤ) else n) ∧ (if neg then -(n : ℤ) else n) ≤ 127 := by split <;> omega
    obtain ⟨real, flags⟩ := deliver_exact ftz h1 h6 h16 false hd ratio (by norm_num) (by omega)
      (by rw [Nat.cast_one, one_mul]; exact zpow_le_zpow_right₀ one_le_two range.2)
      (.inr (by rw [Nat.cast_one, one_mul]; exact zpow_le_zpow_right₀ one_le_two range.1))
    rw [eq]
    exact ⟨by simpa using real, flags⟩
  obtain ⟨up, flagsUp⟩ := result false
  obtain ⟨down, flagsDown⟩ := result true
  refine ⟨by simpa using up, flagsUp, ?_, flagsDown⟩
  rw [down, if_pos rfl, zpow_neg, zpow_natCast, one_div]

end Sys2Proof.Machine
end

section
/-! Conversions to integers and to E8M0, fround, ffrac and fclass (R114, R115, R148). -/
namespace Sys2Proof.Machine

/-! ## To an integer (R114) -/

theorem roundInt_fin {mode : Nat} (h1 : 1 ≤ mode) (h6 : mode ≤ 6) (neg : Bool) (m : Nat) (e : Int) (r16 : Nat) :
    (roundInt mode neg (scaleQ m 1 e).1 (scaleQ m 1 e).2 false r16 : ℤ) = roundQ mode neg r16 |(FpNum.fin neg m e).real| := by
  obtain ⟨pos, ratio⟩ := scaleQ_spec m one_pos e
  rw [roundInt_eq h1 h6 neg _ pos, ratio, FpNum.abs_real_fin, Nat.cast_one, div_one]

/-- An integer saturated to the ends of a range. -/
theorem toInt_fin {mode : Nat} (h1 : 1 ≤ mode) (h6 : mode ≤ 6) (r16 w : Nat) (sg : Bool) (f : Nat) (hf : intFmt f = (w, sg))
    (neg : Bool) (m : Nat) (e : Int) :
    let a : FpNum := .fin neg m e
    let lo : ℤ := if sg then -((pow2 (w - 1) : Nat) : ℤ) else 0
    let hi : ℤ := if sg then ((pow2 (w - 1) : Nat) : ℤ) - 1 else ((pow2 w : Nat) : ℤ) - 1
    let k := roundQ mode neg r16 |a.real|
    let v : ℤ := if neg then -k else k
    toInt f mode r16 a = if v < lo then (bitsOf 32 lo, fIV) else if hi < v then (bitsOf 32 hi, fIV)
      else (bitsOf 32 v, flag (decide ((v : ℚ) ≠ a.real)) fNX) := by
  intro a lo hi k v
  obtain ⟨pos, ratio⟩ := scaleQ_spec m one_pos e
  have hk := roundInt_fin h1 h6 neg m e r16
  set q := scaleQ m 1 e
  set n := roundInt mode neg q.1 q.2 false r16
  have hv : v = if neg then -(n : ℤ) else n := by rw [hk]
  have exact_iff : (v : ℚ) ≠ a.real ↔ n * q.2 ≠ q.1 := by
    have pos' : (q.2 : ℚ) ≠ 0 := by exact_mod_cast pos.ne'
    have value : a.real = signQ neg * ((q.1 : ℚ) / q.2) := by
      rw [ratio, FpNum.real_fin, Nat.cast_one, div_one, mul_assoc]
    have value' : (v : ℚ) = signQ neg * n := by rw [hv]; cases neg <;> simp
    rw [value, value', ne_eq, mul_right_inj' (signQ_ne_zero neg), eq_div_iff pos']
    exact_mod_cast Iff.rfl
  unfold toInt
  simp only [hf, exact_iff]
  rw [hv]

theorem bitsOf_32 (x : Int) : bitsOf 32 x = (BitVec.ofInt 32 x).toNat := by
  rw [bitsOf, BitVec.toNat_ofInt, pow2_eq]

theorem intFmt_eq {f : Nat} (h9 : 9 ≤ f) (h14 : f ≤ 14) :
    intFmt f = (if f ≤ 10 then 32 else if f ≤ 12 then 16 else 8, decide (f % 2 = 1)) := by
  interval_cases f <;> rfl

theorem toInt_by_rule {mode : Nat} (h1 : 1 ≤ mode) (h6 : mode ≤ 6) (r16 : Nat) {f : Nat} (h9 : 9 ≤ f) (h14 : f ≤ 14) :
    let w := if f ≤ 10 then 32 else if f ≤ 12 then 16 else 8
    let lo : ℤ := if f % 2 = 1 then -2 ^ (w - 1) else 0
    let hi : ℤ := if f % 2 = 1 then 2 ^ (w - 1) - 1 else 2 ^ w - 1
    (∀ sig, toInt f mode r16 (.nan sig) = (0, fIV)) ∧
    (∀ (neg : Bool) (m : Nat) (e : ℤ),
      let a : FpNum := .fin neg m e
      let k := roundQ mode neg r16 |a.real|
      let v : ℤ := if neg then -k else k
      (toInt f mode r16 a).1 = (BitVec.ofInt 32 (max lo (min hi v))).toNat ∧
      (toInt f mode r16 a).2 = if v < lo ∨ hi < v then fIV else if (v : ℚ) = a.real then 0 else fNX) := by
  intro w lo hi
  refine ⟨fun sig => rfl, fun neg m e => ?_⟩
  intro a k v
  have form := toInt_fin h1 h6 r16 w (decide (f % 2 = 1)) f (intFmt_eq h9 h14) neg m e
  simp only [decide_eq_true_eq, pow2_eq, Nat.cast_pow, Nat.cast_ofNat] at form
  have range : lo ≤ hi := by
    have pos : (0 : ℤ) < 2 ^ (w - 1) ∧ (0 : ℤ) < 2 ^ w := ⟨by positivity, by positivity⟩
    simp only [lo, hi]
    split <;> omega
  change toInt f mode r16 a = if v < lo then (bitsOf 32 lo, fIV) else if hi < v then (bitsOf 32 hi, fIV)
      else (bitsOf 32 v, flag (decide ((v : ℚ) ≠ a.real)) fNX) at form
  rw [form]
  by_cases below : v < lo
  · rw [if_pos below, if_pos (.inl below), max_eq_left (by omega)]
    exact ⟨bitsOf_32 lo, rfl⟩
  · rw [if_neg below]
    by_cases above : hi < v
    · rw [if_pos above, if_pos (.inr above), min_eq_left above.le, max_eq_right range]
      exact ⟨bitsOf_32 hi, rfl⟩
    · rw [if_neg above, if_neg (by omega), min_eq_right (not_lt.1 above), max_eq_right (not_lt.1 below)]
      refine ⟨bitsOf_32 v, ?_⟩
      by_cases same : (v : ℚ) = a.real <;> simp [same, flag]

/-! ## To a power of two (R115) -/

/-- A mode takes a number of a binade to the binade above. -/
def scaleUp (mode r16 : Nat) (x : ℚ) (k : Int) : Prop :=
  x ≠ 2 ^ k ∧ ((mode = 1 ∨ mode = 5) ∧ 3 / 2 * 2 ^ k ≤ x ∨ mode = 3 ∨ mode = 6 ∧ 65536 ≤ ⌊(x / 2 ^ k - 1) * 65536⌋ + r16)

/-- The same of a quotient of naturals between 1 and 2, as the conversion asks it. -/
def upOf (mode r16 a b : Nat) : Bool :=
  if decide (a = b) then false
  else match mode with
    | 1 => decide (3 * b ≤ 2 * a)
    | 5 => decide (3 * b ≤ 2 * a)
    | 3 => true
    | 6 => decide (65536 ≤ (a - b) * 65536 / b + r16)
    | _ => false

theorem upOf_iff {mode : Nat} (h1 : 1 ≤ mode) (h6 : mode ≤ 6) (r16 : Nat) {a b : Nat} {x : ℚ} {k : Int} (hb : 0 < b) (hab : b ≤ a)
    (ratio : (a : ℚ) / b = x / 2 ^ k) : upOf mode r16 a b = true ↔ scaleUp mode r16 x k := by
  have unit := two_zpow_pos k
  have hb' : (0 : ℚ) < b := by exact_mod_cast hb
  have same : x = 2 ^ k ↔ a = b := by
    rw [← div_eq_one_iff_eq unit.ne', ← ratio, div_eq_one_iff_eq hb'.ne', Nat.cast_inj]
  have half : 3 / 2 * 2 ^ k ≤ x ↔ 3 * b ≤ 2 * a := by
    rw [← le_div_iff₀ unit, ← ratio, div_le_div_iff₀ two_pos hb', mul_comm (a : ℚ)]
    exact_mod_cast Iff.rfl
  have draw : ⌊(x / 2 ^ k - 1) * 65536⌋ = (((a - b) * 65536 / b : Nat) : ℤ) := by
    have excess : (x / 2 ^ k - 1) * 65536 = (((a - b) * 65536 : Nat) : ℚ) / b := by
      rw [← ratio, Nat.cast_mul, Nat.cast_sub hab, ← div_self hb'.ne', ← sub_div, div_mul_eq_mul_div, Nat.cast_ofNat]
    rw [excess]
    exact Rat.floor_natCast_div_natCast _ _
  have carry : (65536 : ℤ) ≤ (((a - b) * 65536 / b : Nat) : ℤ) + r16 ↔ 65536 ≤ (a - b) * 65536 / b + r16 := by omega
  unfold upOf scaleUp
  rw [ne_eq, same, half, draw, carry]
  by_cases h : a = b
  · simp [h]
  · rw [if_neg (by simpa using h)]
    interval_cases mode <;> simp [h]

theorem toE8M0_by_rule {mode : Nat} (h1 : 1 ≤ mode) (h6 : mode ≤ 6) (r16 : Nat) (neg : Bool) (m : Nat) (e : ℤ) :
    let x : ℚ := m * 2 ^ e
    (x < 2 ^ (-127 : ℤ) → toE8M0 mode r16 (.fin neg m e) = (0, fUF ||| fNX)) ∧
    (2 ^ (-127 : ℤ) ≤ x →
      let k := Int.log 2 x
      ∀ j : ℤ, (scaleUp mode r16 x k → j = k + 1) → (¬scaleUp mode r16 x k → j = k) →
        (127 < j → toE8M0 mode r16 (.fin neg m e) = (0xFE, fOF ||| fNX)) ∧
        (j ≤ 127 → toE8M0 mode r16 (.fin neg m e) = ((j + 127).toNat, if x = 2 ^ k then 0 else fNX))) := by
  intro x
  have form : toE8M0 mode r16 (.fin neg m e) =
      let q := scaleQ m 1 e
      let k := log2Q q.1 q.2
      let p := scaleQ q.1 q.2 (-k)
      if m = 0 ∨ k < -127 then (0, fUF ||| fNX)
      else if 127 < (if upOf mode r16 p.1 p.2 then k + 1 else k) then (0xFE, fOF ||| fNX)
      else (((if upOf mode r16 p.1 p.2 then k + 1 else k) + 127).toNat, flag (!decide (p.1 = p.2)) fNX) := rfl
  dsimp only at form
  rcases Nat.eq_zero_or_pos m with rfl | hm
  · have x0 : x = 0 := by simp [x]
    refine ⟨fun _ => by rw [form, if_pos (.inl rfl)], fun h => absurd h (not_le.2 ?_)⟩
    rw [x0]
    exact two_zpow_pos _
  · obtain ⟨hn, hd, ratio⟩ := scaleQ_pos hm e
    have xpos : 0 < x := mul_pos (by exact_mod_cast hm) (two_zpow_pos e)
    rw [log2Q_eq hn hd, ratio] at form
    obtain ⟨hb, scaled⟩ := scaleQ_spec (scaleQ m 1 e).1 hd (-Int.log 2 x)
    rw [ratio, zpow_neg, ← div_eq_mul_inv] at scaled
    change toE8M0 mode r16 (.fin neg m e) = if m = 0 ∨ Int.log 2 x < -127 then _ else _ at form
    set p := scaleQ (scaleQ m 1 e).1 (scaleQ m 1 e).2 (-Int.log 2 x)
    have hb' : (0 : ℚ) < p.2 := by exact_mod_cast hb
    have low : (2 : ℚ) ^ Int.log 2 x ≤ x := by exact_mod_cast Int.zpow_log_le_self one_lt_two xpos
    have hab : p.2 ≤ p.1 := by
      have one : 1 ≤ (p.1 : ℚ) / p.2 := by rw [scaled]; exact (one_le_div (two_zpow_pos _)).2 low
      rw [one_le_div hb'] at one
      exact_mod_cast one
    have same : x = 2 ^ Int.log 2 x ↔ p.1 = p.2 := by
      rw [← div_eq_one_iff_eq (two_zpow_pos _).ne', show x / 2 ^ Int.log 2 x = (p.1 : ℚ) / p.2 from scaled.symm,
        div_eq_one_iff_eq hb'.ne', Nat.cast_inj]
    have up := upOf_iff h1 h6 r16 hb hab scaled
    have least : x < 2 ^ (-127 : ℤ) ↔ Int.log 2 x < -127 := by
      have := Int.lt_zpow_iff_log_lt (R := ℚ) one_lt_two (x := -127) xpos
      exact_mod_cast this
    refine ⟨fun h => by rw [form, if_pos (.inr (least.1 h))], fun h => ?_⟩
    intro k j hup hdown
    rw [form, if_neg (by rw [← least]; exact not_or.2 ⟨hm.ne', not_lt.2 h⟩)]
    have chosen : (if upOf mode r16 p.1 p.2 then Int.log 2 x + 1 else Int.log 2 x) = j := by
      by_cases hu : scaleUp mode r16 x k
      · rw [if_pos (up.2 hu), hup hu]
      · rw [if_neg (mt up.1 hu), hdown hu]
    rw [chosen]
    refine ⟨fun h => if_pos h, fun h => ?_⟩
    rw [if_neg (not_lt.2 h)]
    congr 1
    by_cases hs : x = 2 ^ k
    · rw [if_pos hs, decide_eq_true (same.1 hs)]; rfl
    · rw [if_neg hs, decide_eq_false (mt same.2 hs)]; rfl

/-! ## fround and ffrac (R148) -/

theorem froundOp_by_rule {mode r16 : Nat} (h1 : 1 ≤ mode) (h6 : mode ≤ 6) (h16 : r16 < 65536) (neg : Bool) (m : Nat) (e : ℤ) :
    let a : FpNum := .fin neg m e
    let k := roundQ mode neg r16 |a.real|
    k < 2 ^ 24 → (fp32.value (froundOp mode false 0 r16 a).1).real = (if neg then -k else k : ℤ) ∧
      (fp32.value (froundOp mode false 0 r16 a).1).isNeg = neg ∧ (froundOp mode false 0 r16 a).2 = 0 := by
  intro a k hk
  have whole := roundInt_fin h1 h6 neg m e r16
  set n := roundInt mode neg (scaleQ m 1 e).1 (scaleQ m 1 e).2 false r16
  have hn : n < 2 ^ 24 := by rw [← Nat.cast_lt (α := ℤ), whole]; exact_mod_cast hk
  have hn' : (n : ℚ) < 2 ^ 24 := by exact_mod_cast hn
  obtain ⟨-, fin, sign, real, flags⟩ := round32_exact (n := n) (d := 1) (m := n) (e := 0) h1 h6 h16 neg one_pos (by simp) hn
    (by norm_num) (by rw [zpow_zero, mul_one]; exact hn'.le.trans (by norm_num))
  have form : froundOp mode false 0 r16 a = ((fp32.roundTo mode false neg n 1 false r16).1,
      (fp32.roundTo mode false neg n 1 false r16).2 ||| flag (fp32.nonFinite (fp32.roundTo mode false neg n 1 false r16).1) fNF) := by
    unfold froundOp
    simp only [a, add_zero, Bool.false_eq_true, if_false]
    rfl
  rw [form]
  refine ⟨real.trans ?_, sign, ?_⟩
  · have hk' : k = n := whole.symm
    rw [hk', zpow_zero, mul_one]
    cases neg <;> simp
  · rw [Fmt.nonFinite_eq, fin, flags]
    rfl

theorem ffracOp_by_rule (mode r16 : Nat) (ftz neg : Bool) (m : Nat) (e : ℤ) :
    ∃ n d : Nat, 0 < d ∧ (n : ℚ) / d = Int.fract (FpNum.fin neg m e).real ∧
      ffracOp ftz mode false 0 r16 (.fin neg m e) = deliverF32 ftz (fp32.roundTo mode false false n d false r16) := by
  obtain ⟨pos, ratio⟩ := scaleQ_spec m one_pos e
  rw [Nat.cast_one, div_one] at ratio
  set q := scaleQ m 1 e with hq
  have pos' : (q.2 : ℚ) ≠ 0 := by exact_mod_cast pos.ne'
  have fract : Int.fract ((q.1 : ℚ) / q.2) = ((q.1 % q.2 : Nat) : ℚ) / q.2 := Int.fract_div_natCast_eq_div_natCast_mod
  refine ⟨if neg && decide (q.1 % q.2 ≠ 0) then q.2 - q.1 % q.2 else q.1 % q.2, q.2, pos, ?_, ?_⟩
  · rw [FpNum.real_fin, mul_assoc, ← ratio]
    cases neg
    · simp [fract]
    · rw [signQ_true, neg_one_mul]
      by_cases h0 : q.1 % q.2 = 0
      · have whole : Int.fract ((q.1 : ℚ) / q.2) = 0 := by rw [fract, h0]; simp
        rw [Int.fract_neg_eq_zero.2 whole]
        simp [h0]
      · have some : Int.fract ((q.1 : ℚ) / q.2) ≠ 0 := by
          rw [fract, ne_eq, div_eq_zero_iff, or_iff_left pos']
          exact_mod_cast h0
        rw [Int.fract_neg some, fract, if_pos (by simpa using h0), Nat.cast_sub (Nat.mod_lt _ pos).le]
        field_simp
  · unfold ffracOp
    simp only [← hq, scaleQ_zero, Bool.false_eq_true, if_false]

/-! ## fclass (R148) -/

theorem FpNum.isZero_fin (b : Bool) (m : Nat) (e : Int) : (FpNum.fin b m e).isZero = decide (m = 0) := by
  cases m <;> rfl

theorem fclassOp_by_rule (a : Word) :
    let v := fp32.value a.toNat
    let small : Prop := |v.real| < 2 ^ (-126 : ℤ)
    (fclassOp a = 2 ^ 0 ↔ v = .nan true) ∧ (fclassOp a = 2 ^ 1 ↔ v = .nan false) ∧
    (fclassOp a = 2 ^ 2 ↔ v = .inf true) ∧ (fclassOp a = 2 ^ 9 ↔ v = .inf false) ∧
    (fclassOp a = 2 ^ 5 ↔ v.isZero = true ∧ v.isNeg = true) ∧ (fclassOp a = 2 ^ 6 ↔ v.isZero = true ∧ v.isNeg = false) ∧
    (fclassOp a = 2 ^ 4 ↔ v.isFin = true ∧ v.isZero = false ∧ small ∧ v.isNeg = true) ∧
    (fclassOp a = 2 ^ 7 ↔ v.isFin = true ∧ v.isZero = false ∧ small ∧ v.isNeg = false) ∧
    (fclassOp a = 2 ^ 3 ↔ v.isFin = true ∧ ¬small ∧ v.isNeg = true) ∧
    (fclassOp a = 2 ^ 8 ↔ v.isFin = true ∧ ¬small ∧ v.isNeg = false) := by
  have lt : a.toNat < 2 ^ 32 := a.isLt
  intro v small
  obtain ⟨neg, E, M, hM, -, ⟨hE, value⟩ | ⟨hE, hE', value⟩ | ⟨hE, hM0, value⟩ | ⟨hE, hM0, value⟩⟩ := fp32_cases lt
  · have hv : v = .fin neg M (-149) := value
    have tiny : small := by
      show |v.real| < _
      rw [hv, FpNum.abs_real_fin]
      calc (M : ℚ) * 2 ^ (-149 : ℤ) < 2 ^ 23 * 2 ^ (-149 : ℤ) := by gcongr; exact_mod_cast hM
        _ = 2 ^ (-126 : ℤ) := by norm_num
    have form : fclassOp a = if M = 0 then (if neg then 32 else 64) else if neg then 16 else 128 := by
      unfold fclassOp
      rw [value]
      simp only [pow2_eq, hM, if_true]
    rw [form, hv]
    by_cases h0 : M = 0 <;> cases neg <;> simp [FpNum.isZero_fin, FpNum.isNeg, FpNum.isFin, tiny, h0]
  · have hv : v = .fin neg (M + 2 ^ 23) (E - 150) := value
    have normal : ¬small := by
      show ¬|v.real| < _
      rw [hv, FpNum.abs_real_fin]
      exact not_lt.2 (normal32_le M hE)
    have form : fclassOp a = if neg then 8 else 256 := by
      unfold fclassOp
      rw [value]
      simp only [pow2_eq]
      rw [if_neg (by omega), if_neg (by omega)]
    have nonzero : v.isZero = false := by rw [hv, FpNum.isZero_fin]; exact decide_eq_false (by omega)
    rw [form, nonzero, hv]
    cases neg <;> simp [FpNum.isNeg, FpNum.isFin, normal]
  · have hv : v = .inf neg := value
    have form : fclassOp a = if neg then 4 else 512 := by unfold fclassOp; rw [value]
    rw [form, hv]
    cases neg <;> simp [FpNum.isZero, FpNum.isFin]
  · have hv : v = .nan (!M.testBit 22) := value
    have form : fclassOp a = if (!M.testBit 22) then 1 else 2 := by unfold fclassOp; rw [value]
    rw [form, hv]
    cases M.testBit 22 <;> simp [FpNum.isZero, FpNum.isFin]

end Sys2Proof.Machine
end

section
/-! Power series summed in fixed point: what the cut terms miss, and the constants π and ln 2 (R147). -/
namespace Sys2Proof.Machine

/-! ## The tail of a series -/

/-- A series whose terms fall by half each lies within twice its next term of a partial sum. -/
theorem hasSum_tail_le {f : ℕ → ℝ} {s : ℝ} (h : HasSum f s) (N : ℕ) (falls : ∀ n, |f (n + N + 1)| ≤ |f (n + N)| / 2) :
    |s - ∑ i ∈ Finset.range N, f i| ≤ 2 * |f N| := by
  have bound (n : ℕ) : |f (n + N)| ≤ |f N| * (1 / 2) ^ n := by
    induction n with
    | zero => simp
    | succ n ih =>
      calc |f (n + 1 + N)| = |f (n + N + 1)| := by rw [show n + 1 + N = n + N + 1 by omega]
        _ ≤ |f (n + N)| / 2 := falls n
        _ ≤ |f N| * (1 / 2) ^ n / 2 := by gcongr
        _ = |f N| * (1 / 2) ^ (n + 1) := by rw [pow_succ]; ring
  have tail : HasSum (fun n => f (n + N)) (s - ∑ i ∈ Finset.range N, f i) := (hasSum_nat_add_iff' N).2 h
  have le := tail.norm_le_of_bounded (hasSum_geometric_two.mul_left |f N|) bound
  rw [Real.norm_eq_abs] at le
  linarith

/-! ## π and ln 2 -/

/-- The first n terms of the series of arctan (1 / q). -/
def arctanSum (q n : ℕ) : ℚ := ∑ k ∈ Finset.range n, (-1) ^ k * (1 / q) ^ (2 * k + 1) / (2 * k + 1)

theorem arctan_near {q : ℕ} (hq : 2 ≤ q) (n : ℕ) : |Real.arctan (q : ℝ)⁻¹ - arctanSum q n| ≤ 2 * (1 / (q : ℝ)) ^ (2 * n + 1) := by
  have hq' : (2 : ℝ) ≤ q := by exact_mod_cast hq
  have pos : (0 : ℝ) < 1 / q := by positivity
  have half : 1 / (q : ℝ) ≤ 1 / 2 := one_div_le_one_div_of_le two_pos hq'
  have series := Real.hasSum_arctan (x := 1 / (q : ℝ)) (by rw [Real.norm_eq_abs, abs_of_pos pos]; linarith)
  have size (k : ℕ) : |(-1) ^ k * (1 / (q : ℝ)) ^ (2 * k + 1) / ((2 * k + 1 : ℕ) : ℝ)| = (1 / (q : ℝ)) ^ (2 * k + 1) / ((2 * k + 1 : ℕ) : ℝ) := by
    rw [abs_div, abs_mul, abs_pow, abs_neg, abs_one, one_pow, one_mul, abs_of_pos (pow_pos pos _), Nat.abs_cast]
  have near := hasSum_tail_le series n fun k => by
    rw [size, size]
    have square : (1 / (q : ℝ)) ^ 2 ≤ 1 / 2 := by nlinarith
    calc (1 / (q : ℝ)) ^ (2 * (k + n + 1) + 1) / ((2 * (k + n + 1) + 1 : ℕ) : ℝ)
        ≤ (1 / (q : ℝ)) ^ (2 * (k + n + 1) + 1) / ((2 * (k + n) + 1 : ℕ) : ℝ) :=
          div_le_div_of_nonneg_left (pow_pos pos _).le (by positivity) (by exact_mod_cast (by omega))
      _ = (1 / (q : ℝ)) ^ (2 * (k + n) + 1) * (1 / (q : ℝ)) ^ 2 / ((2 * (k + n) + 1 : ℕ) : ℝ) := by rw [← pow_add]; rfl
      _ ≤ (1 / (q : ℝ)) ^ (2 * (k + n) + 1) * (1 / 2) / ((2 * (k + n) + 1 : ℕ) : ℝ) := by gcongr
      _ = _ := by ring
  rw [size] at near
  have sum : ((arctanSum q n : ℚ) : ℝ) = ∑ k ∈ Finset.range n, (-1) ^ k * (1 / (q : ℝ)) ^ (2 * k + 1) / ((2 * k + 1 : ℕ) : ℝ) := by
    unfold arctanSum
    push_cast
    rfl
  rw [sum, ← one_div]
  refine near.trans ?_
  gcongr
  exact div_le_self (pow_pos pos _).le (by exact_mod_cast Nat.le_add_left 1 (2 * n))

/-- Machin's formula, summed to more than 460 bits. -/
theorem machin_bits : |4 * (4 * arctanSum 5 100 - arctanSum 239 30) - piBits / 2 ^ 640| ≤ 1 / 2 ^ 462 := by
  decide +kernel

theorem machin_tails : 16 * (2 * (1 / (5 : ℚ)) ^ 201) + 4 * (2 * (1 / (239 : ℚ)) ^ 61) ≤ 1 / 2 ^ 461 := by
  decide +kernel

theorem pi_near : |Real.pi - piBits / 2 ^ 640| ≤ 1 / 2 ^ 460 := by
  have five := arctan_near (q := 5) (by norm_num) 100
  have most := arctan_near (q := 239) (by norm_num) 30
  have formula := Real.four_mul_arctan_inv_5_sub_arctan_inv_239
  have bits := (Rat.cast_le (K := ℝ)).2 machin_bits
  have tails := (Rat.cast_le (K := ℝ)).2 machin_tails
  push_cast at five most bits tails
  have quarter : (1 : ℝ) / 2 ^ 462 = 1 / 2 ^ 460 / 4 := by rw [pow_add 2 460 2, ← div_div]; congr 1; norm_num
  have half : (1 : ℝ) / 2 ^ 461 = 1 / 2 ^ 460 / 2 := by rw [pow_succ 2 460, ← div_div]
  rw [quarter] at bits
  rw [half] at tails
  generalize (1 : ℝ) / 2 ^ 460 = t at *
  generalize (1 / 5 : ℝ) ^ 201 = t5 at *
  generalize (1 / 239 : ℝ) ^ 61 = t239 at *
  generalize (piBits : ℝ) / 2 ^ 640 = p at *
  rw [abs_le] at *
  constructor <;> linarith

/-! ## Logarithms as areas of the hyperbola -/

theorem artanh_near {z : ℝ} (h0 : 0 ≤ z) (h1 : z ≤ 1 / 3) (n : ℕ) :
    |Real.log (1 + z) - Real.log (1 - z) - ∑ k ∈ Finset.range n, 2 * (1 / (2 * k + 1)) * z ^ (2 * k + 1)| ≤
      4 * (1 / 3) ^ (2 * n + 1) := by
  have size (k : ℕ) : |2 * (1 / (2 * (k : ℝ) + 1)) * z ^ (2 * k + 1)| = 2 * (1 / (2 * (k : ℝ) + 1)) * z ^ (2 * k + 1) :=
    abs_of_nonneg (by positivity)
  have near := hasSum_tail_le (Real.hasSum_log_sub_log_of_abs_lt_one (x := z) (by rw [abs_of_nonneg h0]; linarith)) n fun k => by
    rw [size, size]
    have square : z ^ 2 ≤ 1 / 2 := by nlinarith
    have slower : 1 / (2 * ((k + n + 1 : ℕ) : ℝ) + 1) ≤ 1 / (2 * ((k + n : ℕ) : ℝ) + 1) :=
      one_div_le_one_div_of_le (by positivity) (by push_cast; linarith)
    calc 2 * (1 / (2 * ((k + n + 1 : ℕ) : ℝ) + 1)) * z ^ (2 * (k + n + 1) + 1)
        ≤ 2 * (1 / (2 * ((k + n : ℕ) : ℝ) + 1)) * z ^ (2 * (k + n + 1) + 1) := by gcongr
      _ = 2 * (1 / (2 * ((k + n : ℕ) : ℝ) + 1)) * (z ^ (2 * (k + n) + 1) * z ^ 2) := by rw [← pow_add]; rfl
      _ ≤ 2 * (1 / (2 * ((k + n : ℕ) : ℝ) + 1)) * (z ^ (2 * (k + n) + 1) * (1 / 2)) := by gcongr
      _ = _ := by ring
  rw [size] at near
  refine near.trans ?_
  have first : 1 / (2 * (n : ℝ) + 1) ≤ 1 := by
    rw [div_le_one (by positivity)]
    linarith [Nat.cast_nonneg (α := ℝ) n]
  calc 2 * (2 * (1 / (2 * (n : ℝ) + 1)) * z ^ (2 * n + 1)) ≤ 2 * (2 * 1 * (1 / 3) ^ (2 * n + 1)) := by gcongr
    _ = _ := by ring

/-- The first n terms of the series of ln 2 = 2 artanh (1 / 3). -/
def ln2Sum (n : ℕ) : ℚ := ∑ k ∈ Finset.range n, 2 * (1 / (2 * k + 1)) * (1 / 3) ^ (2 * k + 1)

theorem ln2_bits : |ln2Sum 130 - (ln2Bits >>> 80 : ℕ) / 2 ^ 400| ≤ 1 / 2 ^ 399 := by
  decide +kernel

theorem ln2_tail : 4 * (1 / (3 : ℚ)) ^ 261 ≤ 1 / 2 ^ 399 := by
  decide +kernel

theorem ln2_near : |Real.log 2 - (ln2Bits >>> 80 : ℕ) / 2 ^ 400| ≤ 1 / 2 ^ 398 := by
  have series := artanh_near (z := 1 / 3) (by norm_num) le_rfl 130
  have two : Real.log (1 + 1 / 3) - Real.log (1 - 1 / 3) = Real.log 2 := by
    rw [← Real.log_div (by norm_num) (by norm_num)]
    norm_num
  have sum : ((ln2Sum 130 : ℚ) : ℝ) = ∑ k ∈ Finset.range 130, 2 * (1 / (2 * (k : ℝ) + 1)) * (1 / 3) ^ (2 * k + 1) := by
    unfold ln2Sum
    push_cast
    rfl
  rw [two, ← sum] at series
  have bits := (Rat.cast_le (K := ℝ)).2 ln2_bits
  have tail := (Rat.cast_le (K := ℝ)).2 ln2_tail
  push_cast at bits tail series
  have half : (1 : ℝ) / 2 ^ 399 = 1 / 2 ^ 398 / 2 := by rw [pow_succ 2 398, ← div_div]
  rw [half] at bits tail
  generalize (1 : ℝ) / 2 ^ 398 = t at *
  generalize (1 / 3 : ℝ) ^ 261 = t3 at *
  generalize ((ln2Bits >>> 80 : ℕ) : ℝ) / 2 ^ 400 = p at *
  rw [abs_le] at *
  constructor <;> linarith

end Sys2Proof.Machine
end

section
/-! Series in fixed point: each term is cut, and what the cuts take from the sum (R147). -/
namespace Sys2Proof.Machine

/-- One in fixed point. -/
def unitP : ℝ := 2 ^ prec

theorem unitP_pos : 0 < unitP := by unfold unitP; positivity

theorem floor_near (a : ℕ) {b : ℕ} (hb : 0 < b) : (a : ℝ) / b - 1 ≤ (a / b : ℕ) ∧ ((a / b : ℕ) : ℝ) ≤ a / b := by
  refine ⟨?_, Nat.cast_div_le⟩
  have hb' : (0 : ℝ) < b := by exact_mod_cast hb
  have lt : a < (a / b + 1) * b := by rw [mul_comm]; exact Nat.lt_mul_div_succ a hb
  rw [sub_le_iff_le_add, div_le_iff₀ hb']
  exact_mod_cast lt.le

/-- A product in fixed point. -/
theorem fixed_mul_near (a b : ℕ) : (a : ℝ) * (b / unitP) - 1 ≤ ((a * b) >>> prec : ℕ) ∧ (((a * b) >>> prec : ℕ) : ℝ) ≤ a * (b / unitP) := by
  have near := floor_near (a * b) (Nat.two_pow_pos prec)
  rw [Nat.shiftRight_eq_div_pow, ← mul_div_assoc, unitP]
  push_cast at near ⊢
  exact near

theorem fixed_square_near (a : ℕ) : ((a : ℝ) / unitP) ^ 2 - 1 / unitP ≤ ((a * a) >>> prec : ℕ) / unitP ∧
    (((a * a) >>> prec : ℕ) : ℝ) / unitP ≤ (a / unitP) ^ 2 := by
  obtain ⟨lo, hi⟩ := fixed_mul_near a a
  have pos := unitP_pos
  have square : ((a : ℝ) / unitP) ^ 2 = a * (a / unitP) / unitP := by rw [sq, mul_div_right_comm]
  rw [square, ← sub_div]
  exact ⟨div_le_div_of_nonneg_right lo pos.le, div_le_div_of_nonneg_right hi pos.le⟩

/-! ## The exponential series -/

theorem expTerms_near {x : ℕ} (hx : (x : ℝ) / unitP ≤ 1) {a : ℕ → ℝ} (next : ∀ j, a (j + 1) = a j * (x / unitP) / (j + 1))
    (fuel k t : ℕ) {E : ℝ} (lo : (t : ℝ) ≤ a k) (hi : a k ≤ t + E) (hE : 0 ≤ E) :
    (expTerms x fuel (k + 1) t : ℝ) ≤ ∑ i ∈ Finset.range fuel, a (k + 1 + i) ∧
      ∑ i ∈ Finset.range fuel, a (k + 1 + i) ≤ expTerms x fuel (k + 1) t + fuel * (E + 2 * fuel) := by
  induction fuel generalizing k t E with
  | zero => simp [expTerms]
  | succ fuel ih =>
    set u := ((t * x) >>> prec) / (k + 1) with hu
    have x0 : 0 ≤ (x : ℝ) / unitP := div_nonneg (Nat.cast_nonneg x) unitP_pos.le
    have k0 : (0 : ℝ) < (k : ℝ) + 1 := by positivity
    obtain ⟨plo, phi⟩ := fixed_mul_near t x
    obtain ⟨ulo, uhi⟩ := floor_near ((t * x) >>> prec) k.succ_pos
    have u_lo : (u : ℝ) ≤ a (k + 1) := by
      rw [next]
      refine uhi.trans ?_
      push_cast
      gcongr
      exact phi.trans (mul_le_mul_of_nonneg_right lo x0)
    have u_hi : a (k + 1) ≤ u + (E + 2) := by
      have product : a k * (x / unitP) ≤ ((t * x) >>> prec : ℕ) + (E + 1) := by
        have : a k * (x / unitP) ≤ (t + E) * (x / unitP) := mul_le_mul_of_nonneg_right hi x0
        have : E * (x / unitP) ≤ E := mul_le_of_le_one_right hE hx
        linarith [add_mul (t : ℝ) E (x / unitP)]
      have quotient : a (k + 1) ≤ (((t * x) >>> prec : ℕ) : ℝ) / (k + 1) + (E + 1) := by
        rw [next, div_add' _ _ _ k0.ne']
        gcongr
        nlinarith
      push_cast at ulo
      linarith
    obtain ⟨below, above⟩ := ih (k + 1) u u_lo u_hi (by linarith)
    have total : ∑ i ∈ Finset.range (fuel + 1), a (k + 1 + i) = ∑ i ∈ Finset.range fuel, a (k + 1 + 1 + i) + a (k + 1) := by
      rw [Finset.sum_range_succ']
      congr 1
      exact Finset.sum_congr rfl fun i _ => by rw [show k + 1 + (i + 1) = k + 1 + 1 + i by omega]
    have step : expTerms x (fuel + 1) (k + 1) t = u + expTerms x fuel (k + 1 + 1) u := rfl
    rw [total, step]
    push_cast
    exact ⟨by linarith, by nlinarith⟩

/-! ## The series of the inverse hyperbolic tangent -/

theorem atanhTerms_near {z : ℕ} (hz : (z : ℝ) / unitP ≤ 1) {a : ℕ → ℝ} (next : ∀ j, a (j + 1) = a j * (z / unitP) ^ 2)
    (most : ∀ j, a j ≤ unitP) (fuel k p : ℕ) {E : ℝ} (lo : (p : ℝ) ≤ a k) (hi : a k ≤ p + E) (hE : 0 ≤ E) :
    (atanhTerms ((z * z) >>> prec) fuel k p : ℝ) ≤ ∑ i ∈ Finset.range fuel, a (k + i) / (2 * (k + i : ℕ) + 1) ∧
      ∑ i ∈ Finset.range fuel, a (k + i) / (2 * (k + i : ℕ) + 1) ≤
        atanhTerms ((z * z) >>> prec) fuel k p + fuel * (E + 1 + 2 * fuel) := by
  induction fuel generalizing k p E with
  | zero => simp [atanhTerms]
  | succ fuel ih =>
    set z2 := (z * z) >>> prec with hz2
    have pos := unitP_pos
    have z0 : 0 ≤ (z : ℝ) / unitP := div_nonneg (Nat.cast_nonneg z) pos.le
    have k0 : (1 : ℝ) ≤ 2 * (k : ℝ) + 1 := by linarith [Nat.cast_nonneg (α := ℝ) k]
    obtain ⟨slo, shi⟩ := fixed_square_near z
    obtain ⟨plo, phi⟩ := fixed_mul_near p z2
    obtain ⟨ulo, uhi⟩ := floor_near p (2 * k).succ_pos
    push_cast at ulo uhi
    have out_lo : ((p / (2 * k + 1) : ℕ) : ℝ) ≤ a k / (2 * k + 1) := uhi.trans (by gcongr)
    have out_hi : a k / (2 * k + 1) ≤ ((p / (2 * k + 1) : ℕ) : ℝ) + (E + 1) := by
      have quotient : a k / (2 * k + 1) ≤ p / (2 * k + 1) + E := by
        rw [div_add' _ _ _ (by linarith)]
        gcongr
        nlinarith
      linarith
    have p0 : (0 : ℝ) ≤ p := Nat.cast_nonneg p
    have v_lo : (((p * z2) >>> prec : ℕ) : ℝ) ≤ a (k + 1) := by
      rw [next]
      exact phi.trans (mul_le_mul lo shi (div_nonneg (Nat.cast_nonneg _) pos.le) (p0.trans lo))
    have v_hi : a (k + 1) ≤ ((p * z2) >>> prec : ℕ) + (E + 2) := by
      have square_le : ((z : ℝ) / unitP) ^ 2 ≤ 1 := pow_le_one₀ z0 hz
      have cut : (p : ℝ) * (1 / unitP) ≤ 1 := by
        rw [mul_one_div, div_le_one pos]
        exact lo.trans (most k)
      have product : a k * (z / unitP) ^ 2 ≤ p * (z / unitP) ^ 2 + E := by
        calc a k * (z / unitP) ^ 2 ≤ (p + E) * (z / unitP) ^ 2 := mul_le_mul_of_nonneg_right hi (by positivity)
          _ = p * (z / unitP) ^ 2 + E * (z / unitP) ^ 2 := add_mul ..
          _ ≤ _ := by gcongr; exact mul_le_of_le_one_right hE square_le
      have truncated : (p : ℝ) * (z / unitP) ^ 2 - p * (1 / unitP) ≤ p * (z2 / unitP) := by
        rw [← mul_sub]
        exact mul_le_mul_of_nonneg_left slo p0
      rw [next]
      linarith
    obtain ⟨below, above⟩ := ih (k + 1) ((p * z2) >>> prec) v_lo v_hi (by linarith)
    have total : ∑ i ∈ Finset.range (fuel + 1), a (k + i) / (2 * (k + i : ℕ) + 1) =
        ∑ i ∈ Finset.range fuel, a (k + 1 + i) / (2 * (k + 1 + i : ℕ) + 1) + a k / (2 * k + 1) := by
      rw [Finset.sum_range_succ']
      congr 1
      exact Finset.sum_congr rfl fun i _ => by rw [show k + (i + 1) = k + 1 + i by omega]
    have step : atanhTerms z2 (fuel + 1) k p = p / (2 * k + 1) + atanhTerms z2 fuel (k + 1) ((p * z2) >>> prec) := rfl
    rw [total, step]
    push_cast at below above ⊢
    exact ⟨by linarith, by nlinarith⟩

/-! ## The series of the sine and cosine -/

/-- The sign of a term of an alternating series. -/
def alternating (neg : Bool) : ℝ := if neg then 1 else -1

theorem trigTerms_near {r : ℕ} (hr : (r : ℝ) / unitP ≤ 2) {a : ℕ → ℝ}
    (next : ∀ j, a (j + 2) = a j * (r / unitP) ^ 2 / ((j + 1) * (j + 2))) (most : ∀ j, a j ≤ 8 * unitP) (fuel k t : ℕ) (neg : Bool)
    (s : ℤ) {E : ℝ} (lo : (t : ℝ) ≤ a k) (hi : a k ≤ t + E) (hE : 0 ≤ E) :
    |(trigTerms ((r * r) >>> prec) fuel k t neg s : ℝ) -
      (s + alternating neg * ∑ i ∈ Finset.range fuel, (-1) ^ i * a (k + 2 + 2 * i))| ≤ (2 ^ (fuel + 1) - 2) * (E + 6) := by
  induction fuel generalizing k t neg s E with
  | zero => simp [trigTerms]
  | succ fuel ih =>
    set r2 := (r * r) >>> prec with hr2
    set u := ((t * r2) >>> prec) / ((k + 1) * (k + 2)) with hu
    have pos := unitP_pos
    have r0 : 0 ≤ (r : ℝ) / unitP := div_nonneg (Nat.cast_nonneg r) pos.le
    have two : (2 : ℝ) ≤ ((k : ℝ) + 1) * (k + 2) := by nlinarith [Nat.cast_nonneg (α := ℝ) k]
    obtain ⟨slo, shi⟩ := fixed_square_near r
    obtain ⟨plo, phi⟩ := fixed_mul_near t r2
    obtain ⟨ulo, uhi⟩ := floor_near ((t * r2) >>> prec) (b := (k + 1) * (k + 2)) (by positivity)
    push_cast at ulo uhi
    have t0 : (0 : ℝ) ≤ t := Nat.cast_nonneg t
    have u_lo : (u : ℝ) ≤ a (k + 2) := by
      rw [next]
      refine uhi.trans ?_
      gcongr
      exact phi.trans (mul_le_mul lo shi (div_nonneg (Nat.cast_nonneg _) pos.le) (t0.trans lo))
    have u_hi : a (k + 2) ≤ u + (2 * E + 6) := by
      have square_le : ((r : ℝ) / unitP) ^ 2 ≤ 4 := by nlinarith
      have cut : (t : ℝ) * (1 / unitP) ≤ 8 := by
        rw [mul_one_div, div_le_iff₀ pos]
        exact lo.trans (most k)
      have product : a k * (r / unitP) ^ 2 ≤ t * (r / unitP) ^ 2 + 4 * E := by
        calc a k * (r / unitP) ^ 2 ≤ (t + E) * (r / unitP) ^ 2 := mul_le_mul_of_nonneg_right hi (by positivity)
          _ = t * (r / unitP) ^ 2 + (r / unitP) ^ 2 * E := by ring
          _ ≤ _ := by gcongr
      have truncated : (t : ℝ) * (r / unitP) ^ 2 - t * (1 / unitP) ≤ t * (r2 / unitP) := by
        rw [← mul_sub]
        exact mul_le_mul_of_nonneg_left slo t0
      have quotient : a (k + 2) ≤ (((t * r2) >>> prec : ℕ) : ℝ) / ((k + 1) * (k + 2)) + (2 * E + 5) := by
        rw [next, div_add' _ _ _ (by linarith)]
        gcongr
        nlinarith
      linarith
    have later := ih (k + 2) u (!neg) (if neg then s + (u : ℤ) else s - (u : ℤ)) u_lo u_hi (by linarith)
    have step : trigTerms r2 (fuel + 1) k t neg s = trigTerms r2 fuel (k + 2) u (!neg) (if neg then s + (u : ℤ) else s - (u : ℤ)) := rfl
    have total : ∑ i ∈ Finset.range (fuel + 1), (-1) ^ i * a (k + 2 + 2 * i) =
        a (k + 2) - ∑ i ∈ Finset.range fuel, (-1) ^ i * a (k + 2 + 2 + 2 * i) := by
      rw [Finset.sum_range_succ', sub_eq_add_neg, add_comm, ← Finset.sum_neg_distrib]
      congr 1
      · simp
      · refine Finset.sum_congr rfl fun i _ => ?_
        rw [show k + 2 + 2 * (i + 1) = k + 2 + 2 + 2 * i by omega, pow_succ]
        ring
    rw [step, total]
    generalize ∑ i ∈ Finset.range fuel, (-1) ^ i * a (k + 2 + 2 + 2 * i) = rest at later ⊢
    generalize (trigTerms r2 fuel (k + 2) u (!neg) (if neg then s + (u : ℤ) else s - (u : ℤ)) : ℝ) = v at later ⊢
    have bound : (2 ^ (fuel + 1 + 1) - 2) * (E + 6) = (2 ^ (fuel + 1) - 2) * (2 * E + 6 + 6) + (2 * E + 12) := by
      rw [pow_succ]; ring
    rw [bound]
    rw [abs_le] at later ⊢
    cases neg <;> simp [alternating] at later ⊢ <;> constructor <;> linarith

end Sys2Proof.Machine
end

section
/-! Powers of two within far less than a rounding can tell (R147). -/
namespace Sys2Proof.Machine

/-! ## Magnitudes near a real -/

/-- The number that a magnitude gives before its sticky part. -/
noncomputable def Mag.real (g : Mag) : ℝ := (if g.neg then -1 else 1) * (g.n / g.d)

/-- A magnitude within a tolerance of a real, and equal to it where it claims to be exact. -/
def Mag.Near (g : Mag) (y tol : ℝ) : Prop := 0 < g.d ∧ |g.real - y| ≤ tol ∧ (g.sticky = false → g.real = y)

theorem Mag.near_of_eq {g : Mag} {y tol : ℝ} (hd : 0 < g.d) (eq : g.real = y) (ht : 0 ≤ tol) : g.Near y tol :=
  ⟨hd, by rw [eq, sub_self, abs_zero]; exact ht, fun _ => eq⟩

theorem unitP_eq : ((1 <<< prec : ℕ) : ℝ) = unitP := by
  rw [Nat.one_shiftLeft, Nat.cast_pow, Nat.cast_ofNat, unitP]

theorem one_shiftLeft_pos (k : ℕ) : 0 < 1 <<< k := by
  rw [Nat.one_shiftLeft]
  exact Nat.two_pow_pos k

/-- What a few units of the working precision come to. -/
theorem units_le {c : ℝ} (hc : c ≤ 2 ^ 100) : c / unitP ≤ 2 ^ (-300 : ℤ) := by
  have split : unitP = 2 ^ 100 * 2 ^ (300 : ℤ) := by
    rw [zpow_ofNat]
    exact pow_add 2 100 300
  rw [split, zpow_neg, ← div_div, div_eq_mul_inv]
  exact mul_le_of_le_one_left (by positivity) (div_le_one_of_le₀ hc (by positivity))

/-- A source is the quotient that the model scales it to, over a power of two. -/
theorem source_real {m : ℕ} (hm : 0 < m) (e : ℤ) : ((scaleQ m 1 e).1 : ℝ) / (scaleQ m 1 e).2 = m * 2 ^ e := by
  have ratio := congrArg (Rat.cast (K := ℝ)) (scaleQ_pos hm e).2.2
  push_cast at ratio
  exact ratio

theorem source_den (m : ℕ) {e : ℤ} (lo : -149 ≤ e) : ∃ k ≤ 149, (scaleQ m 1 e).2 = 2 ^ k := by
  unfold scaleQ
  split
  · exact ⟨0, by omega, rfl⟩
  · exact ⟨(-e).toNat, by omega, Nat.one_shiftLeft _⟩

/-- A fraction over a small power of two is exact in fixed point. -/
theorem fixed_exact (r : ℕ) {d : ℕ} {p : ℕ} (hd : ∃ k ≤ p, d = 2 ^ k) : (((r <<< p) / d : ℕ) : ℝ) / 2 ^ p = r / d := by
  obtain ⟨k, hk, rfl⟩ := hd
  have whole : r <<< p / 2 ^ k = r * 2 ^ (p - k) := by
    rw [Nat.shiftLeft_eq, ← Nat.sub_add_cancel hk, pow_add, ← mul_assoc, Nat.mul_div_cancel _ (Nat.two_pow_pos k),
      Nat.sub_add_cancel hk]
  rw [whole, div_eq_div_iff (by positivity) (by positivity)]
  push_cast
  rw [mul_assoc, ← pow_add, Nat.sub_add_cancel hk]

/-! ## The exponential -/

/-- ln 2 as the model holds it, in fixed point. -/
def ln2P : ℕ := ln2Bits >>> (480 - prec)

theorem ln2P_near : |Real.log 2 - ln2P / unitP| ≤ 4 / unitP := by
  have near : |Real.log 2 - ln2P / unitP| ≤ 1 / 2 ^ 398 := ln2_near
  have split : unitP = 2 ^ 398 * 2 ^ 2 := pow_add 2 398 2
  refine near.trans_eq ?_
  rw [split]
  generalize (2 : ℝ) ^ 398 = u
  ring

theorem ln2P_le : ln2P ≤ 2 ^ prec := by decide +kernel

theorem exp_tail : (2 : ℝ) / (111 : ℕ).factorial ≤ 1 / unitP := by
  have factorial : 2 * 2 ^ prec ≤ (111 : ℕ).factorial := by decide +kernel
  rw [div_le_div_iff₀ (by positivity) unitP_pos, unitP]
  exact_mod_cast (by omega : 2 * 2 ^ prec ≤ 1 * (111 : ℕ).factorial)

theorem expSum_near {x : ℕ} (hx : (x : ℝ) / unitP ≤ 1) :
    |((1 <<< prec : ℕ) + expTerms x 110 1 (1 <<< prec) : ℝ) / unitP - Real.exp (x / unitP)| ≤ 2 ^ 15 / unitP := by
  set X : ℝ := x / unitP with hX
  have pos := unitP_pos
  have X0 : 0 ≤ X := div_nonneg (Nat.cast_nonneg x) pos.le
  have next (j : ℕ) : unitP * (X ^ (j + 1) / ((j + 1).factorial : ℝ)) = unitP * (X ^ j / (j.factorial : ℝ)) * X / (j + 1) := by
    clear_value X
    rw [Nat.factorial_succ, pow_succ]
    push_cast
    field_simp
  have terms := expTerms_near hx (a := fun j => unitP * (X ^ j / j.factorial)) next 110 0 (1 <<< prec) (E := 0) (by simp [unitP_eq]) (by simp [unitP_eq]) le_rfl
  simp only [zero_add, ← Finset.mul_sum] at terms
  norm_num only [Nat.cast_ofNat] at terms
  have series := Real.exp_bound (x := X) (by rw [abs_of_nonneg X0]; exact hx) (n := 111) (by norm_num)
  have first : ∑ i ∈ Finset.range 111, X ^ i / (i.factorial : ℝ) =
      1 + ∑ i ∈ Finset.range 110, X ^ (1 + i) / ((1 + i).factorial : ℝ) := by
    rw [Finset.sum_range_succ', add_comm]
    simp [add_comm]
  rw [first] at series
  generalize ∑ i ∈ Finset.range 110, X ^ (1 + i) / ((1 + i).factorial : ℝ) = sum at terms series
  generalize (expTerms x 110 1 (1 <<< prec) : ℝ) = out at terms
  have tail : |X| ^ 111 * (((111 : ℕ).succ : ℝ) / ((111 : ℕ).factorial * (111 : ℕ))) ≤ 1 / unitP := by
    refine le_trans ?_ exp_tail
    have power : |X| ^ 111 ≤ 1 := pow_le_one₀ (abs_nonneg X) (by rw [abs_of_nonneg X0]; exact hx)
    have quotient : ((111 : ℕ).succ : ℝ) / ((111 : ℕ).factorial * (111 : ℕ)) ≤ 2 / (111 : ℕ).factorial := by
      rw [mul_comm, ← div_div]
      gcongr
      norm_num
    calc _ ≤ 1 * ((2 : ℝ) / (111 : ℕ).factorial) := mul_le_mul power quotient (by positivity) zero_le_one
      _ = _ := one_mul _
  have split : ((1 <<< prec : ℕ) + out) / unitP - Real.exp X = (out - unitP * sum) / unitP - (Real.exp X - (1 + sum)) := by
    rw [unitP_eq]
    field_simp
    ring
  rw [split]
  refine (abs_sub _ _).trans ?_
  have cut : |(out - unitP * sum) / unitP| ≤ 24200 / unitP := by
    rw [abs_div, abs_of_pos pos]
    gcongr
    rw [abs_le]
    constructor <;> linarith [terms.1, terms.2]
  calc _ ≤ 24200 / unitP + 1 / unitP := add_le_add cut (series.trans tail)
    _ ≤ 2 ^ 15 / unitP := by rw [← add_div]; gcongr; norm_num

theorem exp2Frac_near {f : ℕ} (hf : f ≤ 2 ^ prec) :
    |(exp2Frac f : ℝ) / unitP - 2 ^ ((f : ℝ) / unitP)| ≤ 2 ^ ((f : ℝ) / unitP) * 2 ^ (-300 : ℤ) := by
  have pos := unitP_pos
  obtain ⟨xlo, xhi⟩ := fixed_mul_near f ln2P
  set x := (f * ln2P) >>> prec with hx
  have F0 : 0 ≤ (f : ℝ) / unitP := div_nonneg (Nat.cast_nonneg f) pos.le
  have F1 : (f : ℝ) / unitP ≤ 1 := by rw [div_le_one pos, unitP]; exact_mod_cast hf
  have L1 : (ln2P : ℝ) / unitP ≤ 1 := by rw [div_le_one pos, unitP]; exact_mod_cast ln2P_le
  have X_hi : (x : ℝ) / unitP ≤ f / unitP * (ln2P / unitP) := by
    rw [div_mul_eq_mul_div]
    gcongr
  have X_lo : (f : ℝ) / unitP * (ln2P / unitP) - 1 / unitP ≤ x / unitP := by
    rw [div_mul_eq_mul_div, ← sub_div]
    gcongr
  have X1 : (x : ℝ) / unitP ≤ 1 := X_hi.trans (mul_le_one₀ F1 (div_nonneg (Nat.cast_nonneg _) pos.le) L1)
  have sum := expSum_near X1
  have value : ((exp2Frac f : ℕ) : ℝ) = (1 <<< prec : ℕ) + (expTerms x 110 1 (1 <<< prec) : ℝ) := Nat.cast_add _ _
  rw [← value] at sum
  generalize (exp2Frac f : ℝ) / unitP = out at sum
  have log := ln2P_near
  generalize (ln2P : ℝ) / unitP = L at *
  generalize (x : ℝ) / unitP = X at *
  generalize (f : ℝ) / unitP = F at *
  have power : (2 : ℝ) ^ F = Real.exp (Real.log 2 * F) := Real.rpow_def_of_pos two_pos F
  have one : 1 ≤ (2 : ℝ) ^ F := Real.one_le_rpow one_le_two F0
  have close : |X - Real.log 2 * F| ≤ 5 / unitP := by
    have split : X - Real.log 2 * F = (X - F * L) - F * (Real.log 2 - L) := by ring
    rw [split]
    calc _ ≤ |X - F * L| + |F * (Real.log 2 - L)| := abs_sub _ _
      _ ≤ 1 / unitP + 1 * (4 / unitP) := by
        rw [abs_mul, abs_of_nonneg F0]
        gcongr
        rw [abs_le]
        have : 0 < 1 / unitP := by positivity
        constructor <;> linarith
      _ = 5 / unitP := by ring
  have small : 5 / unitP ≤ 1 := (units_le (by norm_num)).trans (zpow_le_one_of_nonpos₀ one_le_two (by norm_num))
  have expo : |Real.exp X - 2 ^ F| ≤ 2 ^ F * (10 / unitP) := by
    have split : Real.exp X - 2 ^ F = 2 ^ F * (Real.exp (X - Real.log 2 * F) - 1) := by
      rw [mul_sub, power, ← Real.exp_add]
      ring_nf
    rw [split, abs_mul, abs_of_pos (by linarith)]
    gcongr
    calc _ ≤ 2 * |X - Real.log 2 * F| := Real.abs_exp_sub_one_le (close.trans small)
      _ ≤ 2 * (5 / unitP) := by gcongr
      _ = 10 / unitP := by ring
  calc |out - 2 ^ F| ≤ |out - Real.exp X| + |Real.exp X - 2 ^ F| := abs_sub_le _ _ _
    _ ≤ 2 ^ F * (2 ^ 15 / unitP) + 2 ^ F * (10 / unitP) :=
      add_le_add (sum.trans (le_mul_of_one_le_left (by positivity) one)) expo
    _ = 2 ^ F * ((2 ^ 15 + 10) / unitP) := by rw [← mul_add, ← add_div]
    _ ≤ _ := by
      gcongr
      exact units_le (by norm_num)

end Sys2Proof.Machine
end

section
/-! fex2 of every finite source (R147). -/
namespace Sys2Proof.Machine

/-- A quotient of naturals by its whole part and its rest. -/
theorem quotient_split (n : ℕ) {d : ℕ} (hd : 0 < d) : (n : ℝ) / d = (n / d : ℕ) + (n % d : ℕ) / d := by
  have pos : (d : ℝ) ≠ 0 := by exact_mod_cast hd.ne'
  rw [eq_comm, add_div' _ _ _ pos]
  congr 1
  exact_mod_cast Nat.div_add_mod' n d

section
variable {m : ℕ} (hm : 0 < m) {e : ℤ}
include hm

theorem whole_part_ge_iff (w : ℕ) : (scaleQ m 1 e).1 / (scaleQ m 1 e).2 ≥ w ↔ (w : ℝ) ≤ m * 2 ^ e := by
  obtain ⟨-, hd, -⟩ := scaleQ_pos hm e
  have pos : (0 : ℝ) < (scaleQ m 1 e).2 := by exact_mod_cast hd
  rw [← source_real hm, ge_iff_le, Nat.le_div_iff_mul_le hd, le_div_iff₀ pos]
  exact_mod_cast Iff.rfl

theorem funMag_fex2_beyond (neg : Bool) (h : (1024 : ℝ) ≤ m * 2 ^ e) :
    funMag 3 neg m e = if neg then ⟨false, 1, 1 <<< 1000, false⟩ else ⟨false, 1 <<< 1000, 1, false⟩ := by
  rw [funMag_fex2, if_pos ((whole_part_ge_iff hm 1024).2 (by exact_mod_cast h))]

theorem funMag_fex2_near (neg : Bool) (lo : -149 ≤ e) (h : (m : ℝ) * 2 ^ e < 1024) :
    let y : ℝ := 2 ^ ((if neg then -1 else 1) * m * 2 ^ e : ℝ)
    (funMag 3 neg m e).Near y (y * 2 ^ (-300 : ℤ)) := by
  intro y
  have ypos : 0 < y := Real.rpow_pos_of_pos two_pos _
  obtain ⟨-, hd, -⟩ := scaleQ_pos hm e
  obtain ⟨k, hk, power⟩ := source_den m lo
  have below : ¬(scaleQ m 1 e).1 / (scaleQ m 1 e).2 ≥ 1024 := by
    rw [whole_part_ge_iff hm]
    push_cast
    exact not_le.2 h
  have source := source_real hm e
  have fraction := fixed_exact ((scaleQ m 1 e).1 % (scaleQ m 1 e).2) (p := prec) ⟨k, by unfold prec; omega, power⟩
  have rest_lt : (scaleQ m 1 e).1 % (scaleQ m 1 e).2 < (scaleQ m 1 e).2 := Nat.mod_lt _ hd
  rw [quotient_split _ hd] at source
  have exponent : y = 2 ^ ((if neg then -1 else 1) * ((m : ℝ) * 2 ^ e)) := by rw [← mul_assoc]
  rw [← source] at exponent
  rw [funMag_fex2, if_neg below]
  set w := (scaleQ m 1 e).1 / (scaleQ m 1 e).2
  set r := (scaleQ m 1 e).1 % (scaleQ m 1 e).2
  set d := (scaleQ m 1 e).2
  clear_value y
  split
  next rest =>
    rw [rest, Nat.cast_zero, zero_div, add_zero] at exponent
    refine Mag.near_of_eq ?_ ?_ (by positivity)
    · cases neg <;> simp
    · rw [exponent]
      cases neg <;> simp [Mag.real, Nat.one_shiftLeft, Real.rpow_neg]
  next rest =>
    set f := (r <<< prec) / d with hf
    have f_le : f ≤ 2 ^ prec := by
      refine Nat.div_le_of_le_mul ?_
      rw [Nat.shiftLeft_eq]
      exact Nat.mul_le_mul_right _ rest_lt.le
    have fraction : (f : ℝ) / unitP = r / d := fraction
    rw [← fraction] at exponent
    have pos := unitP_pos
    cases neg with
    | false =>
      have near := exp2Frac_near f_le
      have scaled : y = 2 ^ w * 2 ^ ((f : ℝ) / unitP) := by
        rw [exponent, if_neg Bool.false_ne_true, one_mul, Real.rpow_add two_pos, Real.rpow_natCast]
      refine ⟨one_shiftLeft_pos _, ?_, by simp⟩
      have value : Mag.real ⟨false, exp2Frac f <<< w, 1 <<< prec, true⟩ = 2 ^ w * (exp2Frac f / unitP) := by
        rw [Mag.real, if_neg Bool.false_ne_true, one_mul, unitP_eq, Nat.shiftLeft_eq]
        push_cast
        ring
      rw [if_neg Bool.false_ne_true, value, scaled, ← mul_sub, abs_mul, abs_of_nonneg (by positivity), mul_assoc]
      gcongr
    | true =>
      have near := exp2Frac_near (Nat.sub_le (2 ^ prec) f)
      have complement : ((2 ^ prec - f : ℕ) : ℝ) / unitP = 1 - f / unitP := by
        rw [Nat.cast_sub f_le, sub_div, Nat.cast_pow, Nat.cast_ofNat, ← unitP, div_self pos.ne']
      have scaled : y = (2 ^ (w + 1))⁻¹ * 2 ^ (((2 ^ prec - f : ℕ) : ℝ) / unitP) := by
        rw [exponent, if_pos rfl, complement, ← Real.rpow_natCast, ← Real.rpow_neg two_pos.le, ← Real.rpow_add two_pos]
        push_cast
        ring_nf
      refine ⟨one_shiftLeft_pos _, ?_, by simp⟩
      have value : Mag.real ⟨false, exp2Frac (2 ^ prec - f), 1 <<< (prec + w + 1), true⟩ =
          (2 ^ (w + 1))⁻¹ * (exp2Frac (2 ^ prec - f) / unitP) := by
        have split : (2 : ℝ) ^ (prec + (w + 1)) = unitP * 2 ^ (w + 1) := pow_add ..
        rw [Mag.real, if_neg Bool.false_ne_true, one_mul, Nat.one_shiftLeft, Nat.cast_pow, Nat.cast_ofNat, add_assoc, split]
        ring
      rw [if_pos rfl, Nat.one_shiftLeft prec, value, scaled, ← mul_sub, abs_mul, abs_of_nonneg (by positivity), mul_assoc]
      gcongr

end

end Sys2Proof.Machine
end

section
/-! flg2 of every positive finite source (R147). -/
namespace Sys2Proof.Machine

/-! ## The natural logarithm of a quotient between 1 and 2 -/

/-- What a cut of the argument takes from the area under the hyperbola. -/
theorem log_ratio_cut {z y δ : ℝ} (h0 : 0 ≤ z) (le : z ≤ y) (cut : y ≤ z + δ) (third : y ≤ 1 / 3) :
    |Real.log (1 + y) - Real.log (1 - y) - (Real.log (1 + z) - Real.log (1 - z))| ≤ 3 * δ := by
  have up : Real.log (1 + y) - Real.log (1 + z) ≤ (1 + y) / (1 + z) - 1 := by
    rw [← Real.log_div (by linarith) (by linarith)]
    exact Real.log_le_sub_one_of_pos (div_pos (by linarith) (by linarith))
  have down : Real.log (1 - z) - Real.log (1 - y) ≤ (1 - z) / (1 - y) - 1 := by
    rw [← Real.log_div (by linarith) (by linarith)]
    exact Real.log_le_sub_one_of_pos (div_pos (by linarith) (by linarith))
  have up_le : (1 + y) / (1 + z) - 1 ≤ δ := by
    rw [sub_le_iff_le_add, div_le_iff₀ (by linarith)]
    nlinarith
  have down_le : (1 - z) / (1 - y) - 1 ≤ 2 * δ := by
    rw [sub_le_iff_le_add, div_le_iff₀ (by linarith)]
    nlinarith
  have up0 : Real.log (1 + z) ≤ Real.log (1 + y) := Real.log_le_log (by linarith) (by linarith)
  have down0 : Real.log (1 - y) ≤ Real.log (1 - z) := Real.log_le_log (by linarith) (by linarith)
  rw [abs_of_nonneg (by linarith)]
  linarith

theorem artanh_sum_eq (n : ℕ) (z : ℝ) {u : ℝ} (hu : u ≠ 0) : ∑ k ∈ Finset.range n, 2 * (1 / (2 * (k : ℝ) + 1)) * z ^ (2 * k + 1) =
    2 * (∑ k ∈ Finset.range n, u * z ^ (2 * k + 1) / (2 * (k : ℝ) + 1)) / u := by
  rw [Finset.mul_sum, Finset.sum_div]
  refine Finset.sum_congr rfl fun k _ => ?_
  have : 2 * (k : ℝ) + 1 ≠ 0 := by positivity
  field_simp

/-- Half the logarithm of n / d, as the model sums it. -/
def artanhP (n d : ℕ) : ℕ :=
  let z := ((n - d) <<< prec) / (n + d)
  atanhTerms ((z * z) >>> prec) 130 0 z

theorem artanh_tail : 4 * (1 / 3 : ℝ) ^ 261 ≤ 2 / unitP := by
  have tail := (Rat.cast_le (K := ℝ)).2 ln2_tail
  push_cast at tail
  have split : unitP = 2 ^ 399 * 2 := pow_succ 2 399
  have same : 2 / unitP = 1 / 2 ^ 399 := by
    rw [split]
    generalize (2 : ℝ) ^ 399 = u
    rw [mul_comm, ← div_div, div_self two_ne_zero]
  rw [same]
  exact tail

theorem artanhP_near {n d : ℕ} (hd : 0 < d) (le : d ≤ n) (lt : n < 2 * d) :
    |2 * (artanhP n d : ℝ) / unitP - Real.log (n / d)| ≤ 2 ^ 17 / unitP := by
  have pos := unitP_pos
  have d0 : (0 : ℝ) < d := by exact_mod_cast hd
  have n0 : (d : ℝ) ≤ n := by exact_mod_cast le
  have n1 : (n : ℝ) < 2 * d := by exact_mod_cast lt
  set y : ℝ := (n - d) / (n + d) with hy
  have y_third : y ≤ 1 / 3 := by rw [hy, div_le_div_iff₀ (by linarith) (by norm_num)]; linarith
  set z := ((n - d) <<< prec) / (n + d) with hz
  obtain ⟨zlo, zhi⟩ := floor_near ((n - d) <<< prec) (b := n + d) (by omega)
  have scaled : (((n - d) <<< prec : ℕ) : ℝ) / (n + d : ℕ) = y * unitP := by
    rw [Nat.shiftLeft_eq, Nat.cast_mul, Nat.cast_sub le, Nat.cast_pow, Nat.cast_ofNat, ← unitP, Nat.cast_add, hy]
    ring
  rw [scaled, ← hz] at zlo zhi
  set Z : ℝ := z / unitP with hZ
  have Z0 : 0 ≤ Z := div_nonneg (Nat.cast_nonneg z) pos.le
  have Z_le : Z ≤ y := by rw [hZ, div_le_iff₀ pos]; exact zhi
  have Z_cut : y ≤ Z + 1 / unitP := by rw [hZ, ← add_div, le_div_iff₀ pos]; linarith
  have Z_third : Z ≤ 1 / 3 := Z_le.trans y_third
  have log_y : Real.log (1 + y) - Real.log (1 - y) = Real.log (n / d) := by
    rw [← Real.log_div (by have : 0 ≤ y := Z0.trans Z_le; linarith) (by linarith)]
    congr 1
    rw [hy]
    have total : (n : ℝ) + d ≠ 0 := by linarith
    have upper : 1 + ((n : ℝ) - d) / (n + d) = 2 * n / (n + d) := by field_simp; ring
    have lower : 1 - ((n : ℝ) - d) / (n + d) = 2 * d / (n + d) := by field_simp; ring
    rw [upper, lower, div_div_div_cancel_right₀ total, mul_div_mul_left _ _ two_ne_zero]
  have cut := log_ratio_cut Z0 Z_le Z_cut y_third
  rw [log_y] at cut
  have series := artanh_near Z0 Z_third 130
  have most (j : ℕ) : unitP * Z ^ (2 * j + 1) ≤ unitP :=
    mul_le_of_le_one_right pos.le (pow_le_one₀ Z0 (Z_third.trans (by norm_num)))
  have start : unitP * Z ^ (2 * 0 + 1) = z := by rw [hZ, mul_zero, zero_add, pow_one, mul_div_cancel₀ _ pos.ne']
  have terms := atanhTerms_near (z := z) (Z_third.trans (by norm_num)) (a := fun j => unitP * Z ^ (2 * j + 1))
    (fun j => by ring) most 130 0 z (E := 0) start.ge (by rw [start, add_zero]) le_rfl
  simp only [zero_add] at terms
  norm_num only [Nat.cast_ofNat] at terms
  rw [artanh_sum_eq 130 Z pos.ne'] at series
  generalize ∑ k ∈ Finset.range 130, unitP * Z ^ (2 * k + 1) / (2 * (k : ℝ) + 1) = sum at terms series
  have out : (artanhP n d : ℝ) = atanhTerms ((z * z) >>> prec) 130 0 z := rfl
  rw [out]
  generalize (atanhTerms ((z * z) >>> prec) 130 0 z : ℝ) = t at terms
  have summed : |2 * t / unitP - 2 * sum / unitP| ≤ 2 * 33930 / unitP := by
    rw [← sub_div, abs_div, abs_of_pos pos]
    gcongr
    rw [abs_le]
    constructor <;> linarith [terms.1, terms.2]
  have tail := series.trans artanh_tail
  have total : 2 ^ 17 / unitP = 2 * 33930 / unitP + 2 / unitP + 3 * (1 / unitP) + 63207 / unitP := by ring
  have rest : 0 ≤ 63207 / unitP := by positivity
  rw [total]
  rw [abs_le] at *
  constructor <;> linarith

/-! ## The binary logarithm -/

theorem ln2P_ge : 2 ^ prec ≤ 2 * ln2P := by decide +kernel

theorem log2Frac_near {n d : ℕ} (hd : 0 < d) (le : d ≤ n) (lt : n < 2 * d) :
    |(log2Frac n d : ℝ) / unitP - Real.logb 2 (n / d)| ≤ 2 ^ (-300 : ℤ) := by
  have pos := unitP_pos
  have near := artanhP_near hd le lt
  have d0 : (0 : ℝ) < d := by exact_mod_cast hd
  have ratio_le : (n : ℝ) / d ≤ 2 := by rw [div_le_iff₀ d0]; exact_mod_cast lt.le
  have ratio_ge : 1 ≤ (n : ℝ) / d := by rw [one_le_div d0]; exact_mod_cast le
  have log_le : Real.log (n / d) ≤ Real.log 2 := Real.log_le_log (by linarith) ratio_le
  have log_ge : 0 ≤ Real.log (n / d) := Real.log_nonneg ratio_ge
  have L_half : 1 / 2 ≤ (ln2P : ℝ) / unitP := by
    rw [div_le_div_iff₀ two_pos pos, unitP]
    exact_mod_cast (by have := ln2P_ge; omega : 1 * 2 ^ prec ≤ ln2P * 2)
  have ln2_pos : 0 < ln2P := Nat.pos_of_ne_zero fun h => by rw [h] at L_half; norm_num at L_half
  obtain ⟨lo, hi⟩ := floor_near ((2 * artanhP n d) <<< prec) ln2_pos
  have value : log2Frac n d = ((2 * artanhP n d) <<< prec) / ln2P := rfl
  have exact_quotient : (((2 * artanhP n d) <<< prec : ℕ) : ℝ) / ln2P = unitP * (2 * artanhP n d / unitP / (ln2P / unitP)) := by
    have : (ln2P : ℝ) ≠ 0 := by exact_mod_cast ln2_pos.ne'
    rw [Nat.shiftLeft_eq, Nat.cast_mul, Nat.cast_mul, Nat.cast_pow, Nat.cast_ofNat, ← unitP]
    generalize (artanhP n d : ℝ) = a
    field_simp
  rw [exact_quotient, ← value] at lo hi
  have logs := ln2P_near
  rw [Real.logb]
  have l2 : 0 < Real.log 2 := Real.log_pos one_lt_two
  generalize (ln2P : ℝ) / unitP = L at *
  generalize 2 * (artanhP n d : ℝ) / unitP = A at *
  generalize Real.log (n / d) = B at *
  generalize (log2Frac n d : ℝ) = out at *
  have L_pos : 0 < L := by linarith
  have floor : |out / unitP - A / L| ≤ 1 / unitP := by
    have split : out / unitP - A / L = (out - unitP * (A / L)) / unitP := by field_simp
    rw [split, abs_div, abs_of_pos pos]
    gcongr
    rw [abs_le]
    constructor <;> linarith
  have quotient : |A / L - B / Real.log 2| ≤ (2 ^ 18 + 8) / unitP := by
    have split : A / L - B / Real.log 2 = ((A - B) + B / Real.log 2 * (Real.log 2 - L)) / L := by field_simp; ring
    have fraction : |B / Real.log 2| ≤ 1 := by
      rw [abs_of_nonneg (div_nonneg log_ge l2.le)]
      exact div_le_one_of_le₀ log_le l2.le
    rw [split, abs_div, abs_of_pos L_pos, div_le_iff₀ L_pos]
    calc _ ≤ |A - B| + |B / Real.log 2 * (Real.log 2 - L)| := abs_add_le _ _
      _ ≤ 2 ^ 17 / unitP + 1 * (4 / unitP) := by rw [abs_mul]; gcongr
      _ = (2 ^ 18 + 8) / unitP * (1 / 2) := by ring
      _ ≤ (2 ^ 18 + 8) / unitP * L := by gcongr
  calc |out / unitP - B / Real.log 2| ≤ |out / unitP - A / L| + |A / L - B / Real.log 2| := abs_sub_le _ _ _
    _ ≤ 1 / unitP + (2 ^ 18 + 8) / unitP := add_le_add floor quotient
    _ = (2 ^ 18 + 9) / unitP := by ring
    _ ≤ _ := units_le (by norm_num)

/-! ## The function -/

/-- An integer by its sign and its magnitude. -/
theorem signed_natAbs (v : ℤ) (d : ℝ) : (if decide (v < 0) then (-1 : ℝ) else 1) * (v.natAbs / d) = v / d := by
  rw [Nat.cast_natAbs, Int.cast_abs]
  by_cases h : v < 0
  · rw [decide_eq_true h, if_pos rfl, abs_of_neg (Int.cast_lt_zero.2 h)]
    ring
  · rw [decide_eq_false h, if_neg Bool.false_ne_true, abs_of_nonneg (Int.cast_nonneg (not_lt.1 h)), one_mul]

theorem funMag_flg2 (neg : Bool) (m : ℕ) (e : ℤ) :
    let q := scaleQ m 1 e
    let k := log2Q q.1 q.2
    let p := scaleQ q.1 q.2 (-k)
    let v : ℤ := k * ((1 <<< prec : ℕ) : ℤ) + (if p.1 = p.2 then 0 else (log2Frac p.1 p.2 : ℤ))
    funMag 4 neg m e = ⟨decide (v < 0), v.natAbs, 1 <<< prec, decide (p.1 ≠ p.2)⟩ := rfl

theorem funMag_flg2_near (neg : Bool) {m : ℕ} (hm : 0 < m) (e : ℤ) :
    (funMag 4 neg m e).Near (Real.logb 2 (m * 2 ^ e)) (2 ^ (-300 : ℤ)) := by
  obtain ⟨hn, hd, ratio⟩ := scaleQ_pos hm e
  have xpos : (0 : ℚ) < m * 2 ^ e := mul_pos (by exact_mod_cast hm) (two_zpow_pos e)
  rw [funMag_flg2, log2Q_eq hn hd, ratio]
  set k := Int.log 2 ((m : ℚ) * 2 ^ e)
  obtain ⟨hb, scaled⟩ := scaleQ_spec (scaleQ m 1 e).1 hd (-k)
  rw [ratio] at scaled
  have low : (2 : ℚ) ^ k ≤ m * 2 ^ e := by exact_mod_cast Int.zpow_log_le_self one_lt_two xpos
  have high : (m : ℚ) * 2 ^ e < 2 ^ (k + 1) := by exact_mod_cast Int.lt_zpow_succ_log_self one_lt_two ((m : ℚ) * 2 ^ e)
  set p := scaleQ (scaleQ m 1 e).1 (scaleQ m 1 e).2 (-k)
  clear_value k p
  obtain ⟨a, b⟩ := p
  dsimp only at scaled hb ⊢
  have b0 : (0 : ℚ) < b := by exact_mod_cast hb
  rw [zpow_neg, ← div_eq_mul_inv] at scaled
  have le : b ≤ a := by
    rw [← one_le_div (two_zpow_pos k), ← scaled, one_le_div b0] at low
    exact_mod_cast low
  have lt : a < 2 * b := by
    rw [zpow_add_one₀ two_ne_zero, mul_comm _ (2 : ℚ), ← div_lt_iff₀ (two_zpow_pos k), ← scaled, div_lt_iff₀ b0] at high
    exact_mod_cast high
  have ratio_real := congrArg (Rat.cast (K := ℝ)) scaled
  push_cast at ratio_real
  have k_pos : (0 : ℝ) < 2 ^ k := by positivity
  have b0' : (0 : ℝ) < b := by exact_mod_cast hb
  have a0' : (0 : ℝ) < a := by exact_mod_cast hb.trans_le le
  have log : Real.logb 2 (m * 2 ^ e) = k + Real.logb 2 (a / b) := by
    rw [← (eq_div_iff k_pos.ne').1 ratio_real, Real.logb_mul (div_pos a0' b0').ne' k_pos.ne', ← Real.rpow_intCast,
      Real.logb_rpow two_pos one_lt_two.ne', add_comm]
  have pos := unitP_pos
  rw [log]
  have value (x : ℤ) : ((k * ((1 <<< prec : ℕ) : ℤ) + x : ℤ) : ℝ) / ((1 <<< prec : ℕ) : ℝ) = k + x / unitP := by
    rw [Int.cast_add, Int.cast_mul, Int.cast_natCast, unitP_eq, add_div, mul_div_assoc, div_self pos.ne', mul_one]
  by_cases h : a = b
  · refine Mag.near_of_eq (one_shiftLeft_pos _) ?_ (by positivity)
    rw [Mag.real, signed_natAbs, value, if_pos h, h, div_self b0'.ne', Real.logb_one]
    simp
  · refine ⟨one_shiftLeft_pos _, ?_, by simp [h]⟩
    rw [Mag.real, signed_natAbs, value, if_neg h, add_sub_add_left_eq_sub, Int.cast_natCast]
    exact log2Frac_near hb le lt

end Sys2Proof.Machine
end

section
/-! fsin and fcos of every finite source (R147). -/
namespace Sys2Proof.Machine

/-! ## The series -/

/-- The term of degree j of the exponential series. -/
noncomputable def powTerm (x : ℝ) (j : ℕ) : ℝ := x ^ j / j.factorial

section
variable {x : ℝ} (h0 : 0 ≤ x)
include h0

theorem powTerm_nonneg (j : ℕ) : 0 ≤ powTerm x j := div_nonneg (pow_nonneg h0 j) (Nat.cast_nonneg _)

omit h0 in
theorem powTerm_add_two (j : ℕ) : powTerm x (j + 2) = powTerm x j * x ^ 2 / ((j + 1) * (j + 2)) := by
  unfold powTerm
  rw [Nat.factorial_succ, Nat.factorial_succ, pow_add]
  push_cast
  field_simp
  ring

section
variable (h2 : x ≤ 2)
include h2

theorem powTerm_le_eight (j : ℕ) : powTerm x j ≤ 8 := by
  have double : Real.exp 2 = Real.exp 1 * Real.exp 1 := by rw [← Real.exp_add]; norm_num
  have e3 : Real.exp 1 < 2.8 := Real.exp_one_lt_d9.trans (by norm_num)
  calc powTerm x j ≤ Real.exp x := Real.pow_div_factorial_le_exp x h0 j
    _ ≤ Real.exp 2 := Real.exp_le_exp.2 h2
    _ = Real.exp 1 * Real.exp 1 := double
    _ ≤ 8 := by nlinarith [Real.exp_pos 1]

theorem powTerm_halves {j : ℕ} (hj : 2 ≤ j) : powTerm x (j + 2) ≤ powTerm x j / 2 := by
  have hj' : (2 : ℝ) ≤ j := by exact_mod_cast hj
  have square : x ^ 2 ≤ 4 := by nlinarith
  have pos := powTerm_nonneg h0 j
  have eight : (8 : ℝ) ≤ (j + 1) * (j + 2) := by nlinarith
  rw [powTerm_add_two, div_le_div_iff₀ (by positivity) two_pos]
  calc powTerm x j * x ^ 2 * 2 ≤ powTerm x j * 4 * 2 := by gcongr
    _ = powTerm x j * 8 := by ring
    _ ≤ powTerm x j * ((j + 1) * (j + 2)) := by gcongr

theorem powTerm_late {j : ℕ} (h122 : 122 ≤ j) (h123 : j ≤ 123) : 2 * powTerm x j ≤ 1 / unitP := by
  have factorial : 2 * 2 ^ 123 * 2 ^ prec ≤ (122 : ℕ).factorial := by decide +kernel
  have power : x ^ j ≤ 2 ^ 123 := (pow_le_pow_left₀ h0 h2 j).trans (pow_le_pow_right₀ one_le_two h123)
  have larger : (122 : ℕ).factorial ≤ j.factorial := Nat.factorial_le h122
  have small : (2 * 2 ^ 123 * unitP : ℝ) ≤ j.factorial := by
    rw [unitP]
    exact_mod_cast factorial.trans larger
  have pos := unitP_pos
  have most : 2 * x ^ j * unitP ≤ 2 * 2 ^ 123 * unitP := mul_le_mul_of_nonneg_right (mul_le_mul_of_nonneg_left power zero_le_two) pos.le
  rw [powTerm, ← mul_div_assoc, div_le_div_iff₀ (Nat.cast_pos.2 j.factorial_pos) pos, one_mul]
  exact most.trans small

/-- What the first 61 terms of the series of even or of odd powers miss. -/
theorem trigSeries_near {y : ℝ} {k : ℕ} (hk : k ≤ 1) (series : HasSum (fun n : ℕ => (-1) ^ n * powTerm x (2 * n + k)) y) :
    |y - (powTerm x k - ∑ i ∈ Finset.range 60, (-1) ^ i * powTerm x (k + 2 + 2 * i))| ≤ 1 / unitP := by
  have size (n : ℕ) : |(-1) ^ n * powTerm x (2 * n + k)| = powTerm x (2 * n + k) := by
    rw [abs_mul, abs_pow, abs_neg, abs_one, one_pow, one_mul, abs_of_nonneg (powTerm_nonneg h0 _)]
  have near := hasSum_tail_le series 61 fun n => by
    rw [size, size, show 2 * (n + 61 + 1) + k = 2 * (n + 61) + k + 2 by omega]
    exact powTerm_halves h0 h2 (by omega)
  have first : ∑ i ∈ Finset.range 61, (-1) ^ i * powTerm x (2 * i + k) =
      powTerm x k - ∑ i ∈ Finset.range 60, (-1) ^ i * powTerm x (k + 2 + 2 * i) := by
    rw [Finset.sum_range_succ', sub_eq_add_neg, add_comm, ← Finset.sum_neg_distrib]
    congr 1
    · simp
    · refine Finset.sum_congr rfl fun i _ => ?_
      rw [show 2 * (i + 1) + k = k + 2 + 2 * i by omega, pow_succ]
      ring
  rw [size, first] at near
  exact near.trans (powTerm_late h0 h2 (by omega) (by omega))

end

end

theorem trigTerms_series {r k t : ℕ} (hk : k ≤ 1) {y : ℝ} (hr : (r : ℝ) / unitP ≤ 2) (start : (t : ℝ) = unitP * powTerm (r / unitP) k)
    (series : HasSum (fun n : ℕ => (-1) ^ n * powTerm (r / unitP) (2 * n + k)) y) :
    |(trigTerms ((r * r) >>> prec) 60 k t false t : ℝ) / unitP - y| ≤ 2 ^ 64 / unitP := by
  have pos := unitP_pos
  have h0 : 0 ≤ (r : ℝ) / unitP := div_nonneg (Nat.cast_nonneg r) pos.le
  have tail := trigSeries_near h0 hr hk series
  have terms := trigTerms_near hr (a := fun j => unitP * powTerm (r / unitP) j)
    (fun j => by rw [powTerm_add_two, ← mul_div_assoc, ← mul_assoc])
    (fun j => by rw [mul_comm]; exact mul_le_mul_of_nonneg_right (powTerm_le_eight h0 hr j) pos.le)
    60 k t false t (E := 0) start.le (by rw [add_zero]; exact start.ge) le_rfl
  have scaled : ∑ i ∈ Finset.range 60, (-1) ^ i * (unitP * powTerm (r / unitP) (k + 2 + 2 * i)) =
      unitP * ∑ i ∈ Finset.range 60, (-1) ^ i * powTerm (r / unitP) (k + 2 + 2 * i) := by
    rw [Finset.mul_sum]
    exact Finset.sum_congr rfl fun i _ => mul_left_comm ..
  rw [scaled, Int.cast_natCast, start, alternating, if_neg Bool.false_ne_true] at terms
  generalize ∑ i ∈ Finset.range 60, (-1) ^ i * powTerm (r / unitP) (k + 2 + 2 * i) = sum at tail terms
  generalize powTerm (r / unitP) k = first at tail terms
  generalize (trigTerms ((r * r) >>> prec) 60 k t false t : ℝ) = out at terms
  have cut : |out / unitP - (first - sum)| ≤ (2 ^ 61 - 2) * 6 / unitP := by
    have split : out / unitP - (first - sum) = (out - (unitP * first + -1 * (unitP * sum))) / unitP := by field_simp; ring
    rw [split, abs_div, abs_of_pos pos]
    exact div_le_div_of_nonneg_right (terms.trans_eq (by norm_num)) pos.le
  calc _ ≤ |out / unitP - (first - sum)| + |first - sum - y| := abs_sub_le _ _ _
    _ ≤ (2 ^ 61 - 2) * 6 / unitP + 1 / unitP := add_le_add cut (by rw [abs_sub_comm]; exact tail)
    _ ≤ 2 ^ 64 / unitP := by rw [← add_div]; exact div_le_div_of_nonneg_right (by norm_num) pos.le

/-- The sine or the cosine. -/
noncomputable def trigReal (cos : Bool) (x : ℝ) : ℝ := if cos then Real.cos x else Real.sin x

theorem trigFix_near (cos : Bool) {r : ℕ} (hr : (r : ℝ) / unitP ≤ 2) :
    |(trigFix cos r : ℝ) / unitP - trigReal cos (r / unitP)| ≤ 2 ^ 64 / unitP := by
  have pos := unitP_pos
  cases cos with
  | true =>
    have series := Real.hasSum_cos (r / unitP)
    simp only [mul_div_assoc] at series
    obtain ⟨one, hone⟩ : ∃ one, one = 1 <<< prec := ⟨_, rfl⟩
    have unfolded : trigFix true r = trigTerms ((r * r) >>> prec) 60 0 one false one := by
      simp only [trigFix, if_true, ← hone]
    rw [unfolded]
    exact trigTerms_series (k := 0) (by omega) hr
      (by rw [hone, unitP_eq, powTerm, pow_zero, Nat.factorial_zero, Nat.cast_one, div_one, mul_one]) series
  | false =>
    have series := Real.hasSum_sin (r / unitP)
    simp only [mul_div_assoc] at series
    exact trigTerms_series (k := 1) (t := r) le_rfl hr
      (by rw [powTerm, pow_one, Nat.factorial_one, Nat.cast_one, div_one, mul_div_cancel₀ _ pos.ne']) series

end Sys2Proof.Machine
end

section
/-! The sine and cosine by reduction to a quarter turn (R147). -/
namespace Sys2Proof.Machine

/-! ## Quarter turns -/

/-- The sine or cosine of r and k quarter turns, in fixed point. -/
def trigTurn (cos : Bool) (k r : ℕ) : ℤ :=
  match k % 4, cos with
  | 0, false => trigFix false r
  | 1, false => trigFix true r
  | 2, false => -trigFix false r
  | _, false => -trigFix true r
  | 0, true => trigFix true r
  | 1, true => -trigFix false r
  | 2, true => -trigFix true r
  | _, true => trigFix false r

theorem trigReal_turns (cos : Bool) (k : ℕ) (x : ℝ) :
    trigReal cos (x + k * (Real.pi / 2)) = trigReal cos (x + (k % 4 : ℕ) * (Real.pi / 2)) := by
  have split : x + k * (Real.pi / 2) = x + (k % 4 : ℕ) * (Real.pi / 2) + (k / 4 : ℕ) * (2 * Real.pi) := by
    have whole : (k : ℝ) = (k / 4 : ℕ) * 4 + (k % 4 : ℕ) := by exact_mod_cast (Nat.div_add_mod' k 4).symm
    rw [whole]
    ring
  rw [split]
  cases cos
  · exact Real.sin_add_nat_mul_two_pi _ _
  · exact Real.cos_add_nat_mul_two_pi _ _

theorem trigTurn_near (cos : Bool) (k : ℕ) {r : ℕ} (hr : (r : ℝ) / unitP ≤ 2) :
    |(trigTurn cos k r : ℝ) / unitP - trigReal cos (r / unitP + k * (Real.pi / 2))| ≤ 2 ^ 64 / unitP := by
  have sine := trigFix_near false hr
  have cosine := trigFix_near true hr
  have negated {v y t : ℝ} (h : |v / unitP - y| ≤ t) : |-v / unitP - -y| ≤ t := by
    rwa [neg_div, neg_sub_neg, abs_sub_comm]
  rw [trigReal_turns]
  generalize (r : ℝ) / unitP = x at sine cosine ⊢
  have lt : k % 4 < 4 := Nat.mod_lt _ (by norm_num)
  have one : x + 1 * (Real.pi / 2) = x + Real.pi / 2 := by ring
  have two : x + 2 * (Real.pi / 2) = x + Real.pi := by ring
  have three : x + 3 * (Real.pi / 2) = x + Real.pi + Real.pi / 2 := by ring
  unfold trigTurn
  interval_cases h : k % 4 <;> cases cos <;>
    simp only [trigReal, Nat.cast_zero, zero_mul, add_zero, Nat.cast_one, Nat.cast_ofNat, one, two, three, Real.sin_add_pi_div_two,
      Real.cos_add_pi_div_two, Real.sin_add_pi, Real.cos_add_pi, neg_neg, Int.cast_neg, if_true, Bool.false_eq_true, if_false] at *
  exacts [sine, cosine, cosine, negated sine, negated sine, negated cosine, negated cosine, sine]

/-! ## The reduction -/

/-- A quarter turn as the model holds it, in units of 2^-640. -/
def quarterBits : ℕ := piBits / 2

/-- One in the units of the reduction. -/
def unitW : ℝ := 2 ^ 640

theorem unitW_pos : 0 < unitW := by unfold unitW; positivity

theorem unitW_eq : unitW = 2 ^ (640 - prec) * unitP := pow_add (2 : ℝ) 240 400

theorem piBits_even : piBits = 2 * quarterBits := by decide +kernel

theorem quarterBits_pos : 0 < quarterBits := by decide +kernel

/-- A quarter turn lies between one and two. -/
theorem quarter_bounds : 1 ≤ (quarterBits : ℝ) / unitW ∧ (quarterBits : ℝ) / unitW ≤ 2 := by
  obtain ⟨p, hp⟩ : ∃ p, p = 640 := ⟨_, rfl⟩
  have whole : quarterBits >>> p = 1 := by rw [hp]; decide +kernel
  have units : (2 : ℝ) ^ p = unitW := by rw [hp, unitW]
  obtain ⟨lo, hi⟩ := floor_near quarterBits (Nat.two_pow_pos p)
  rw [← Nat.shiftRight_eq_div_pow, whole, Nat.cast_pow, Nat.cast_one, Nat.cast_ofNat, units] at lo hi
  exact ⟨hi, by linarith⟩

theorem quarter_near : |Real.pi / 2 - quarterBits / unitW| ≤ 1 / (2 ^ 60 * unitP) := by
  have units : (2 : ℝ) ^ 60 * unitP = 2 ^ 460 := (pow_add (2 : ℝ) 60 400).symm
  have near := pi_near
  rw [piBits_even, Nat.cast_mul, Nat.cast_ofNat, mul_div_assoc, ← unitW, ← units] at near
  have split : Real.pi - 2 * (quarterBits / unitW : ℝ) = 2 * (Real.pi / 2 - quarterBits / unitW) := by ring
  rw [split, abs_mul, abs_two] at near
  linarith [abs_nonneg (Real.pi / 2 - (quarterBits : ℝ) / unitW)]

theorem trigOf_eq (cos : Bool) (n d : ℕ) :
    let x := (n <<< 640) / d
    let v := trigTurn cos (x / quarterBits) ((x % quarterBits) >>> (640 - prec))
    trigOf cos n d = (decide (v < 0), v.natAbs) := rfl

theorem trigReal_lipschitz (cos : Bool) (x y : ℝ) : |trigReal cos x - trigReal cos y| ≤ |x - y| := by
  cases cos
  · exact Real.abs_sin_sub_sin_le x y
  · exact Real.abs_cos_sub_cos_le x y

/-- The rest of the reduction and its quarter turns stand for the argument. -/
theorem reduced_near (x : ℕ) (hx : (x : ℝ) / unitW ≤ 2 ^ 128) :
    let r := (x % quarterBits) >>> (640 - prec)
    (r : ℝ) / unitP ≤ 2 ∧ |r / unitP + (x / quarterBits : ℕ) * (Real.pi / 2) - x / unitW| ≤ (2 ^ 68 + 1) / unitP := by
  intro r
  have pos := unitP_pos
  have wpos := unitW_pos
  obtain ⟨Q_ge, Q_le⟩ := quarter_bounds
  have Q_near := quarter_near
  have rest_lt : x % quarterBits < quarterBits := Nat.mod_lt _ quarterBits_pos
  have parts : (x : ℝ) / unitW = (x / quarterBits : ℕ) * (quarterBits / unitW) + (x % quarterBits : ℕ) / unitW := by
    rw [← mul_div_assoc, ← add_div]
    congr 1
    exact_mod_cast (Nat.div_add_mod' x quarterBits).symm
  obtain ⟨lo, hi⟩ := floor_near (x % quarterBits) (Nat.two_pow_pos (640 - prec))
  rw [← Nat.shiftRight_eq_div_pow, Nat.cast_pow, Nat.cast_ofNat] at lo hi
  have rest_le : (x % quarterBits : ℕ) / unitW ≤ quarterBits / unitW :=
    div_le_div_of_nonneg_right (by exact_mod_cast rest_lt.le) wpos.le
  have finer : ((x % quarterBits : ℕ) : ℝ) / unitW = (x % quarterBits : ℕ) / 2 ^ (640 - prec) / unitP := by
    rw [unitW_eq, div_div]
  have r_le : (r : ℝ) / unitP ≤ (x % quarterBits : ℕ) / unitW := by
    rw [finer]
    exact div_le_div_of_nonneg_right hi pos.le
  have r_ge : ((x % quarterBits : ℕ) : ℝ) / unitW - 1 / unitP ≤ r / unitP := by
    rw [finer, ← sub_div]
    exact div_le_div_of_nonneg_right lo pos.le
  refine ⟨r_le.trans (rest_le.trans Q_le), ?_⟩
  have k0 : (0 : ℝ) ≤ (x / quarterBits : ℕ) := Nat.cast_nonneg _
  have rest0 : (0 : ℝ) ≤ (x % quarterBits : ℕ) / unitW := div_nonneg (Nat.cast_nonneg _) wpos.le
  rw [parts] at hx ⊢
  generalize ((x / quarterBits : ℕ) : ℝ) = k at *
  generalize ((x % quarterBits : ℕ) : ℝ) / unitW = rest at *
  generalize (quarterBits : ℝ) / unitW = Q at *
  generalize (r : ℝ) / unitP = R at *
  have k_le : k ≤ 2 ^ 128 := by nlinarith
  have split : R + k * (Real.pi / 2) - (k * Q + rest) = k * (Real.pi / 2 - Q) - (rest - R) := by ring
  rw [split]
  calc _ ≤ |k * (Real.pi / 2 - Q)| + |rest - R| := abs_sub _ _
    _ ≤ 2 ^ 128 * (1 / (2 ^ 60 * unitP)) + 1 / unitP := by
      rw [abs_mul, abs_of_nonneg k0, abs_of_nonneg (sub_nonneg.2 r_le)]
      exact add_le_add (mul_le_mul k_le Q_near (abs_nonneg _) (pow_nonneg zero_le_two _)) (by linarith)
    _ = (2 ^ 68 + 1) / unitP := by
      generalize unitP = u at *
      field_simp

theorem trigOf_near (cos : Bool) {n d : ℕ} (hd : ∃ k ≤ 640, d = 2 ^ k) (h : (n : ℝ) / d ≤ 2 ^ 128) :
    |(if (trigOf cos n d).1 then (-1 : ℝ) else 1) * ((trigOf cos n d).2 / unitP) - trigReal cos (n / d)| ≤ 2 ^ (-300 : ℤ) := by
  have exact_scaled : (((n <<< 640) / d : ℕ) : ℝ) / unitW = n / d := fixed_exact n hd
  rw [← exact_scaled] at h ⊢
  rw [trigOf_eq]
  generalize (n <<< 640) / d = x at *
  obtain ⟨small, argument⟩ := reduced_near x h
  have turned := trigTurn_near cos (x / quarterBits) small
  rw [signed_natAbs]
  calc _ ≤ _ + _ := abs_sub_le _ _ _
    _ ≤ 2 ^ 64 / unitP + (2 ^ 68 + 1) / unitP := add_le_add turned ((trigReal_lipschitz ..).trans argument)
    _ = (2 ^ 64 + (2 ^ 68 + 1)) / unitP := (add_div ..).symm
    _ ≤ _ := units_le (by norm_num)

/-! ## The functions -/

theorem funMag_fsin (neg : Bool) (m : ℕ) (e : ℤ) :
    let q := scaleQ m 1 e
    let t := trigOf false q.1 q.2
    funMag 5 neg m e = if q.1 <<< 60 < q.2 then ⟨neg, q.1 * ((1 <<< 200) - 1), q.2 <<< 200, true⟩
      else ⟨t.1 != neg, t.2, 1 <<< prec, true⟩ := rfl

theorem funMag_fcos (neg : Bool) (m : ℕ) (e : ℤ) :
    let q := scaleQ m 1 e
    let t := trigOf true q.1 q.2
    funMag 6 neg m e = ⟨t.1, t.2, 1 <<< prec, true⟩ := rfl

/-- The sign of a source. -/
def signR (neg : Bool) : ℝ := if neg then -1 else 1

theorem sin_signR (neg : Bool) (x : ℝ) : Real.sin (signR neg * x) = signR neg * Real.sin x := by
  cases neg <;> simp [signR]

theorem cos_signR (neg : Bool) (x : ℝ) : Real.cos (signR neg * x) = Real.cos x := by
  cases neg <;> simp [signR]

theorem abs_signR (neg : Bool) : |signR neg| = 1 := by
  cases neg <;> simp [signR]

theorem signR_ne (a b : Bool) : signR (a != b) = signR b * signR a := by
  cases a <;> cases b <;> simp [signR]

/-- Where the source is tiny, the sine is it, less a little. -/
theorem sin_tiny {x : ℝ} (h0 : 0 ≤ x) (h : x < 2 ^ (-60 : ℤ)) :
    |x * (1 - 1 / 2 ^ 200) - Real.sin x| ≤ x * 2 ^ (-110 : ℤ) := by
  have cube : |x - Real.sin x| ≤ x * (1 / 2 ^ 120) := by
    have le := Real.abs_sub_sin_le x
    rw [abs_of_nonneg h0] at le
    have square : x ^ 2 ≤ (2 ^ (-60 : ℤ)) ^ 2 := pow_le_pow_left₀ h0 h.le 2
    calc _ ≤ x ^ 3 / 6 := le
      _ = x * (x ^ 2 / 6) := by ring
      _ ≤ x * ((2 ^ (-60 : ℤ)) ^ 2 / 6) := by gcongr
      _ ≤ x * (1 / 2 ^ 120) := mul_le_mul_of_nonneg_left (by norm_num) h0
  have split : x * (1 - 1 / 2 ^ 200) - Real.sin x = x - Real.sin x - x * (1 / 2 ^ 200) := by ring
  rw [split]
  calc _ ≤ |x - Real.sin x| + |x * (1 / 2 ^ 200)| := abs_sub _ _
    _ ≤ x * (1 / 2 ^ 120) + x * (1 / 2 ^ 200) := by
      rw [abs_of_nonneg (mul_nonneg h0 (one_div_nonneg.2 (pow_nonneg zero_le_two 200)))]
      exact add_le_add_left cube _
    _ = x * (1 / 2 ^ 120 + 1 / 2 ^ 200) := by ring
    _ ≤ _ := mul_le_mul_of_nonneg_left (by norm_num) h0

section
variable (neg : Bool) {m : ℕ} (hm : 0 < m) (hm' : m < 2 ^ 24) {e : ℤ} (lo : -149 ≤ e) (hi : e ≤ 104)
include hm hm' lo hi

theorem source_le : (m : ℝ) * 2 ^ e ≤ 2 ^ 128 := by
  have bound := (Rat.cast_le (K := ℝ)).2 (source_bounds hm hm' lo hi).2.le
  push_cast at bound
  exact bound

theorem funMag_fcos_near : (funMag 6 neg m e).Near (Real.cos (signR neg * (m * 2 ^ e))) (2 ^ (-300 : ℤ)) := by
  obtain ⟨k, hk, power⟩ := source_den m lo
  have near := trigOf_near true (n := (scaleQ m 1 e).1) ⟨k, by omega, power⟩ ((source_real hm e).trans_le (source_le hm hm' lo hi))
  rw [source_real hm e, ← unitP_eq] at near
  rw [funMag_fcos, cos_signR]
  exact ⟨one_shiftLeft_pos _, near, by simp⟩

theorem funMag_fsin_near : (funMag 5 neg m e).Near (Real.sin (signR neg * (m * 2 ^ e)))
    (if (m : ℝ) * 2 ^ e < 2 ^ (-60 : ℤ) then m * 2 ^ e * 2 ^ (-110 : ℤ) else 2 ^ (-300 : ℤ)) := by
  obtain ⟨k, hk, power⟩ := source_den m lo
  obtain ⟨hn, hd, -⟩ := scaleQ_pos hm e
  have source := source_real hm e
  have bound := source_le hm hm' lo hi
  have d0 : (0 : ℝ) < (scaleQ m 1 e).2 := by exact_mod_cast hd
  have tiny_iff : (scaleQ m 1 e).1 <<< 60 < (scaleQ m 1 e).2 ↔ (m : ℝ) * 2 ^ e < 2 ^ (-60 : ℤ) := by
    rw [← source, div_lt_iff₀ d0, Nat.shiftLeft_eq, zpow_neg, zpow_ofNat, inv_mul_eq_div, lt_div_iff₀ (by positivity)]
    exact_mod_cast Iff.rfl
  rw [funMag_fsin, sin_signR]
  by_cases tiny : (m : ℝ) * 2 ^ e < 2 ^ (-60 : ℤ)
  · rw [if_pos (tiny_iff.2 tiny), if_pos tiny]
    have value : Mag.real ⟨neg, (scaleQ m 1 e).1 * (1 <<< 200 - 1), (scaleQ m 1 e).2 <<< 200, true⟩ =
        signR neg * (m * 2 ^ e * (1 - 1 / 2 ^ 200)) := by
      rw [Mag.real, ← signR, ← source, Nat.one_shiftLeft, Nat.shiftLeft_eq, Nat.cast_mul, Nat.cast_mul,
        Nat.cast_sub Nat.one_le_two_pow, Nat.cast_pow, Nat.cast_ofNat, Nat.cast_one]
      field_simp
    have den : 0 < (scaleQ m 1 e).2 <<< 200 := by
      rw [Nat.shiftLeft_eq]
      exact Nat.mul_pos hd (Nat.two_pow_pos 200)
    refine ⟨den, ?_, by simp⟩
    rw [value, ← mul_sub, abs_mul, abs_signR, one_mul]
    exact sin_tiny (mul_nonneg (Nat.cast_nonneg m) (zpow_nonneg zero_le_two e)) tiny
  · rw [if_neg fun h => tiny (tiny_iff.1 h), if_neg tiny]
    have near := trigOf_near false (n := (scaleQ m 1 e).1) ⟨k, by omega, power⟩ (source.trans_le bound)
    rw [source, ← unitP_eq] at near
    refine ⟨one_shiftLeft_pos _, ?_, by simp⟩
    rw [Mag.real, ← signR, signR_ne, mul_assoc, ← mul_sub, abs_mul, abs_signR, one_mul]
    exact near

end

end Sys2Proof.Machine
end

section
/-! The values of the functions and conversions, put together (R114, R115, R147, R148). -/
namespace Sys2Proof.Machine

/-- A function whose magnitude is near a real delivers a number near it, rounded once. -/
theorem funOp_near (ftz : Bool) (mode r16 : ℕ) {k m : ℕ} {e : ℤ} {neg : Bool} {y tol : ℝ} (hm : 0 < m)
    (hneg : neg = true → k ≠ 1 ∧ k ≠ 2 ∧ k ≠ 4) (h : (funMag k neg m e).Near y tol) :
    ∃ (sign : Bool) (n d : ℕ) (sticky : Bool), 0 < d ∧
      let v : ℝ := (if sign then -1 else 1) * (n / d)
      |v - y| ≤ tol ∧ (sticky = false → v = y) ∧
      funOp k ftz mode false 0 r16 (.fin neg m e) = deliverF32 ftz (fp32.roundTo mode false sign n d sticky r16) := by
  obtain ⟨hd, near, same⟩ := h
  exact ⟨_, _, _, _, hd, near, same, funOp_fin ftz mode r16 hm hneg⟩

/-- fex2 beyond the exponents of FP32. -/
theorem fex2_beyond (ftz : Bool) (mode r16 : ℕ) {m : ℕ} {e : ℤ} (neg : Bool) (hm : 0 < m) (h : (1024 : ℝ) ≤ m * 2 ^ e) :
    funOp 3 ftz mode false 0 r16 (.fin neg m e) =
      if neg then deliverF32 ftz (fp32.roundTo mode false false 1 (2 ^ 1000) false r16)
      else deliverF32 ftz (fp32.roundTo mode false false (2 ^ 1000) 1 false r16) := by
  rw [funOp_fin ftz mode r16 hm (by simp), funMag_fex2_beyond hm neg h, Nat.one_shiftLeft]
  cases neg with
  | false => rw [if_neg Bool.false_ne_true, if_neg Bool.false_ne_true]
  | true => rw [if_pos rfl, if_pos rfl]

/-- The sources of FP32, and the functions that are not algebraic at each. -/
theorem realFunctions_by_rule (ftz : Bool) (mode r16 : ℕ) (neg : Bool) {m : ℕ} {e : ℤ} (hm : 0 < m) (hm' : m < 2 ^ 24)
    (lo : -149 ≤ e) (hi : e ≤ 104) :
    let x : ℝ := (if neg then -1 else 1) * m * 2 ^ e
    let near (k : ℕ) (y tol : ℝ) : Prop := ∃ (sign : Bool) (n d : ℕ) (sticky : Bool), 0 < d ∧
      let v : ℝ := (if sign then -1 else 1) * (n / d)
      |v - y| ≤ tol ∧ (sticky = false → v = y) ∧
      funOp k ftz mode false 0 r16 (.fin neg m e) = deliverF32 ftz (fp32.roundTo mode false sign n d sticky r16)
    (|x| < 1024 → near 3 ((2 : ℝ) ^ x) ((2 : ℝ) ^ x * 2 ^ (-300 : ℤ))) ∧
    (1024 ≤ x → funOp 3 ftz mode false 0 r16 (.fin neg m e) = deliverF32 ftz (fp32.roundTo mode false false (2 ^ 1000) 1 false r16)) ∧
    (x ≤ -1024 → funOp 3 ftz mode false 0 r16 (.fin neg m e) = deliverF32 ftz (fp32.roundTo mode false false 1 (2 ^ 1000) false r16)) ∧
    (neg = false → near 4 (Real.logb 2 x) (2 ^ (-300 : ℤ))) ∧
    near 5 (Real.sin x) (if |x| < 2 ^ (-60 : ℤ) then |x| * 2 ^ (-110 : ℤ) else 2 ^ (-300 : ℤ)) ∧
    near 6 (Real.cos x) (2 ^ (-300 : ℤ)) := by
  intro x near
  have pos : (0 : ℝ) < m * 2 ^ e := mul_pos (by exact_mod_cast hm) (zpow_pos two_pos e)
  have signed : x = signR neg * (m * 2 ^ e) := mul_assoc _ _ _
  have size : |x| = m * 2 ^ e := by rw [signed, abs_mul, abs_signR, one_mul, abs_of_pos pos]
  refine ⟨fun h => ?_, fun h => ?_, fun h => ?_, ?_, ?_, ?_⟩
  · exact funOp_near ftz mode r16 hm (by simp) (funMag_fex2_near hm neg lo (by rwa [← size]))
  · have beyond := fex2_beyond ftz mode r16 neg hm (by rw [← size]; exact h.trans (le_abs_self x))
    cases neg with
    | false => exact beyond
    | true =>
      rw [signed, signR, if_pos rfl] at h
      linarith
  · have beyond := fex2_beyond ftz mode r16 neg hm (by rw [← size]; linarith [neg_abs_le x])
    cases neg with
    | true => exact beyond
    | false =>
      rw [signed, signR, if_neg Bool.false_ne_true] at h
      linarith
  · rintro rfl
    rw [signed, signR, if_neg Bool.false_ne_true, one_mul]
    exact funOp_near ftz mode r16 hm (by simp) (funMag_flg2_near false hm e)
  · rw [size, signed]
    exact funOp_near ftz mode r16 hm (by simp) (funMag_fsin_near neg hm hm' lo hi)
  · rw [signed]
    exact funOp_near ftz mode r16 hm (by simp) (funMag_fcos_near neg hm hm' lo hi)

/-- Settles O11: the table of special sources, the roots by their integer squares, the other functions by fixed-point series
whose cuts are bounded, and the conversions by the rounding of a rational. -/
theorem valuesOfFunctionsAndConversions : Obligations.ValuesOfFunctionsAndConversions := by
  unfold Obligations.ValuesOfFunctionsAndConversions
  refine ⟨fun ftz mode scl r16 e h1 h6 h16 => ?_, fun mode r16 h1 h6 h16 => ⟨?_, ?_, ?_, fclassOp_by_rule⟩⟩
  · obtain ⟨zeros, c1, c2, c3, c4, c5, c6, c7, c8, c9, c10⟩ := funOp_special ftz mode scl r16 e h1 h6 h16
    refine ⟨zeros, c1, c2, c3, c4, c5, c6, c7, c8, c9, c10, fun neg m hm => frcp_by_rule ftz mode scl r16 e neg hm, ?_⟩
    refine ⟨?_, ?_, ?_, ?_, ?_⟩
    · rintro rfl m hm hm' lo hi
      exact frsq_by_rule ftz mode r16 hm hm' lo hi
    · rintro rfl m hm hm' lo hi
      exact fsqrt_by_rule ftz mode r16 hm hm' lo hi
    · rintro rfl lo hi
      exact flg2_power h1 h6 h16 lo hi
    · rintro rfl n hn
      exact fex2_whole ftz h1 h6 h16 hn
    · rintro rfl neg m hm hm' lo hi
      exact realFunctions_by_rule ftz mode r16 neg hm hm' lo hi
  · exact fun f h9 h14 => toInt_by_rule h1 h6 r16 h9 h14
  · exact toE8M0_by_rule h1 h6 r16
  · exact fun neg m e _ => ⟨froundOp_by_rule h1 h6 h16 neg m e, fun ftz => ffracOp_by_rule mode r16 ftz neg m e⟩

end Sys2Proof.Machine
end
